-- ==== Sys2Proof/Word.lean ====
section
/-! DEFINITION. The word types of the TQ-880 model: what the manual treats as bits (R7, R8, R462). -/
namespace Sys2Proof

/-- A BAR0 register is 32 bits wide (R462). -/
abbrev Word := BitVec 32
/-- One byte of a core store, a stack, the boot store or a frame. -/
abbrev Byte := BitVec 8
/-- An FP32 operand or result, held as its encoding (R88, R156, R158). -/
abbrev FpBits := BitVec 32

end Sys2Proof
end

