-- ==== Sys2Proof/Syntax.lean ====
section
/-! DEFINITION. The commands of the block: one constructor of `Instr` per row of the spec's table of
operations and events, with the row's operands. Unit numbers are bounded by their type (R1, R31, R235,
R166); lists are bounded by `WellFormed`. -/
namespace Sys2Proof

/-- The two ports to the register file (R466). -/
inductive PortId where
  | host | controlCore
  deriving DecidableEq, Repr

/-- A 32-bit register write (R462): its port, data, byte enables, and whether the request carried the
TDISP T bit (R391). -/
structure Wr where
  port : PortId
  data : Word
  be : BitVec 4
  tbit : Bool
  deriving DecidableEq, Repr

/-- A physical core (R1). -/
abbrev CoreId := Fin 800
/-- An engine of a core (R1). -/
abbrev EngId := Fin 8
/-- A tier of an engine (R31). -/
abbrev TierId := Fin 8
/-- A fabric lane, or a port by its lowest physical lane (R235). -/
abbrev LaneId := Fin 64
/-- A memory stack (R166). -/
abbrev StackId := Fin 16

/-- What a descriptor gives an issue (R189): the core, the period instance, the tokens it needs and the
token it produces (255 for none, R193). Log entry 28 (DESIGN CHOICE). -/
structure Issue where
  core : CoreId
  inst : Nat
  ins : List Nat
  out : Nat
  deriving DecidableEq, Repr


/-- The source of an input vector (R45): A8 or A4 groups with their scale bytes, or BF16 values. -/
inductive Source where
  | a8 (groups : List (Byte × List Int))
  | bf16 (vals : List (BitVec 16))
  deriving DecidableEq, Repr

/-- A change of an engine's trim words while a beat runs (R76, R135): the first slice that it applies from, and whether a
furlong boundary passes there or the oldest staged trim set is checked. Log entry 16 (DESIGN CHOICE). -/
structure TrimAt where
  slice : Nat
  boundary : Bool
  deriving DecidableEq, Repr

/-- Whom a beat serves (R77, R104): a request position, or a retrieval query. -/
inductive Serves where
  | request | query
  deriving DecidableEq, Repr

/-- An input vector with what its rounding keys need (R104): the tile, the request seed, the token position, the
bushel row. -/
structure StageIn where
  tile : Nat
  source : Source
  seed : BitVec 64
  pos : Nat
  row : Fin 32
  serves : Serves
  deriving DecidableEq, Repr


/-- Number formats of core-store operands (R155, R158, R97). -/
inductive NumFmt where
  | f32 | bf16 | e4m3 | e5m2 | int4
  deriving DecidableEq, Repr

/-- A matrix in a core store as a descriptor names it: format, base address, strides between rows and columns in
elements, and for INT4 the base of the scale bytes, one per 32 inner steps, with the stride between columns. -/
structure MatIn where
  fmt : NumFmt
  addr : Nat
  rowStep : Nat
  colStep : Nat
  scaleAddr : Nat
  scaleStep : Nat
  deriving DecidableEq, Repr

/-- A vector operand: format and base address. -/
structure VecIn where
  fmt : NumFmt
  addr : Nat
  deriving DecidableEq, Repr

/-- What the matrix unit is scheduled for: a product (R156) whose output row i belongs to bushel row `row0 + i`, the outlier
contribution of an engine's beat (R109), or the adapter contribution of a row (R368), with the gathered fragments of A and
B. A contribution names the beat it serves by tile and bushel row. -/
inductive MatOp where
  | product (row0 m k n : Nat) (a b : MatIn) (acc : Option Nat) (outAddr : Nat) (outFmt : NumFmt)
  | outlier (eng : EngId) (tile : Nat) (row : Fin 32)
  | adapter (eng : EngId) (tile : Nat) (row : Fin 32) (x : VecIn) (dIn rank dOut : Nat) (aAddr bAddr : Nat)
  deriving DecidableEq, Repr

/-- Elementwise operations (R158). -/
inductive EwFn where
  | add | mul | fma | max | cmpLt | select | convert
  deriving DecidableEq, Repr

/-- Special functions (R158). -/
inductive SpecialFn where
  | exp2 | log2 | recip | rsqrt | silu | gelu
  deriving DecidableEq, Repr

/-- What the vector unit is scheduled for (R158, R102, R263, R276, R287). Peck vectors lie in the core store as 72-byte
pecks (R97). -/
inductive VecOp where
  | elementwise (f : EwFn) (n : Nat) (x y z : VecIn) (outAddr : Nat) (outFmt : NumFmt)
  | special (f : SpecialFn) (n : Nat) (x : VecIn) (outAddr : Nat)
  | reduction (max : Bool) (n : Nat) (x : VecIn) (outAddr : Nat)
  | encode (a4 : Bool) (n : Nat) (x : VecIn) (outAddr : Nat) (row : Fin 32) (rank : Fin 8) (layer unit : Nat)
  | decode (a4 : Bool) (n : Nat) (peckAddr : Nat) (outAddr : Nat)
  | gate (layer : Nat) (row : Fin 32) (logits : Nat)
  | partSum (n : Nat) (own : Nat) (shares : List Nat) (peckTag : Nat) (outAddr : Nat) (row : Fin 32) (layer unit : Nat)
  | kvEncode (loc : Nat) (row : Fin 32) (kAddr vAddr outAddr : Nat)
  deriving DecidableEq, Repr

/-- Errors that the check bits find while an operation reads (R160 to R163, R168): the word address in a core store, or
the line of a stack window, and whether it is uncorrectable. -/
abbrev Upsets := List (Nat × Bool)


/-- Where a scheduled transfer takes its units from (R505, R275): consecutive units of the source's core store, the rows
being those of the issue's input tokens; the same, of the answers that an expert's part 0 returns (R276); the
lines of a ring's request, as data units (R309); or one block row of an expert, whose bushel row the grant record names, with the
chunk's pecks of bushel row 0 at `addr`. -/
inductive SendSrc where
  | units (addr : Nat)
  | answer (addr : Nat)
  | ring (ring utype chunk line : Nat)
  | block (layer expert blockRow : Nat) (addr : Nat)
  deriving DecidableEq, Repr

/-- What a scheduled transfer carries (R220, R240, R505): its source, destination token, first index and number of units,
the token's units per row, and the KIND of its flits. -/
structure Send where
  src : SendSrc
  token : Nat
  index : Nat
  units : Nat
  perRow : Nat
  kind : Nat
  /-- bytes of one unit: 72 for pecks and data units, 64 for lines -/
  bytes : Nat
  deriving DecidableEq, Repr

/-- A core that receives a broadcast (R224): the token that records it, the first index of its buffer, and the engines whose
staging registers take its pecks. -/
structure BusRecv where
  core : CoreId
  token : Nat
  index : Nat
  perRow : Nat
  engs : BitVec 8
  deriving DecidableEq, Repr

/-- What is detected at a router (R230). -/
inductive RouterFault where
  | parityA | parityB | domain
  deriving DecidableEq, Repr


/-- A sideband message (R244): KIND, ORIGIN as group and module, MILE, DATA. -/
structure SbMsg where
  kind : Nat
  group : Nat
  module : Nat
  mile : Nat
  data : Nat
  deriving DecidableEq, Repr

/-- A hello payload (R249). -/
structure Hello where
  dieId : BitVec 64
  random : BitVec 32
  port : Nat
  width : Nat
  rev : Nat
  compat : List Nat
  group : Nat
  module : Nat
  deriving DecidableEq, Repr

/-- A confirm payload (R251). -/
structure Confirm where
  echoA : BitVec 32
  echoB : BitVec 32
  result : Nat
  logical : Nat
  accept : Bool
  deriving DecidableEq, Repr

/-- The header of a frame (R240). -/
structure FrameHdr where
  type : Nat
  rev : Nat
  dstGroup : Nat
  dstMod : Nat
  srcGroup : Nat
  srcMod : Nat
  token : Nat
  inst : Nat
  count : Nat
  fmt : Nat
  prec : Nat
  index : Nat
  seqLo : Nat
  dstRegion : Nat
  deriving DecidableEq, Repr

/-- What the receiver's checks of a frame find (R242): codewords corrected, one uncorrectable, the tag (or CRC) right. -/
structure FrameRx where
  corrected : Nat
  uncorrectable : Bool
  tagOk : Bool
  deriving DecidableEq, Repr

/-- The running issue of a receive slot of a port (R238, R239, R505): its issue, whose core is the lane router's and whose OUT
token is the one it names; the units per row; the plane-A flow that forwards the units of a frame for this module, if any; and
whether the slot relays frames of other modules, through the buffer of its token. -/
structure RecvSlot where
  issue : Issue
  perRow : Nat
  flow : Option Nat
  relay : Bool
  deriving DecidableEq, Repr

/-- The kinds of table update that take effect at a boundary (R315, R324, R369, R362). -/
inductive UpdateKind where
  | admitSlot | cancel | finish | pause | resume | adapterLoad | adapterSwitch | adapterDrop | retire
  deriving DecidableEq, Repr

/-- A table update waiting for its boundary (R315). `arg` holds the completion code, the adapter
identifier or the epoch. -/
structure TableUpdate where
  kind : UpdateKind
  atRod : Nat
  slot : Nat
  gen : Nat
  arg : Nat
  deriving DecidableEq, Repr

/-- What a unit of table traffic says (R314): an ADMIT with the fields that the replica entry takes, and on the exit module
the sampling block and the stop set; another update; a bushel instance's descriptor, per row slot, generation, position,
whether it is a prompt row; an entry manifest, per row slot, generation, position and input token. -/
inductive TableMsg where
  | admitMsg (atRod slot gen : Nat) (handle seed : BitVec 64) (prio deadline region : Nat) (spec pen : Bool) (nMax p : Nat)
      (adapterEn : Bool) (adIdent : Nat) (samp stop : List Byte)
  | update (u : TableUpdate)
  | bushel (slot start : Nat) (rows : List (Nat × Nat × Nat × Bool))
  | manifest (slot start : Nat) (rows : List (Nat × Nat × Nat × Nat))
  deriving DecidableEq, Repr


/-- What the fetches of a SUBMIT's prompt, sampling block and stop set gave (R326): late attempts,
whether the host answered with an error, and the data. Log entry 16 (DESIGN CHOICE). -/
structure Fetch where
  lateTries : Nat
  error : Bool
  prompt : List (BitVec 32)
  samp : List Byte
  stop : List Byte
  /-- the other modules of the serving set have the page frames and the count table that check 9 needs -/
  othersFit : Bool
  deriving DecidableEq, Repr

/-- A return record (R341): the bushel instance's slot, the request, its new L_C, the committed tokens
with their precision flags, the first position among them, the code decided, whether row 0 was void, and
whether the instance carried rows of the request that a lane paused or that ran empty. -/
structure ReturnRec where
  bushel : Nat
  slot : Nat
  gen : Nat
  newLC : Nat
  tokens : List (Nat × Bool)
  firstPos : Nat
  code : Option Nat
  row0Void : Bool
  deriving DecidableEq, Repr


/-- What a fetch of the load path brings (R348, R350, R353): the manifest's bytes and whether its signature verifies;
a stored chunk's clear header, its decrypted payload, and whether its tag and its hash are right; or a read that failed
or came late. -/
inductive Fetched where
  | manifest (bytes : List Byte) (sigOk : Bool)
  | chunk (header payload : List Byte) (tagOk hashOk : Bool)
  | failed
  deriving DecidableEq, Repr

/-- The fetch of an adapter part (R371): this module's own, or what another module of the serving set reports. -/
inductive PartFetch where
  | own (d : Fetched)
  | other (failed : Bool)
  deriving DecidableEq, Repr


/-- What the security block's verification of a release object finds (R385): facts about the object that the
named standards decide. -/
structure ReleaseCheck where
  sigOk : Bool
  onCurve : Bool
  tagOk : Bool
  key : BitVec 256
  deriving DecidableEq, Repr

/-- The bounds of R392 that a control-core action can breach. -/
inductive Breach where
  | dmaWindow | rate (bytes : Nat) | keyAccess | thermalWrite | tableWrite | variant (v : Fin 8)
  deriving DecidableEq, Repr


/-- What the checks of R428 find that the named standards decide: the image area was read (in either mode), the
certificate chain, the image signature, the firmware section's signature, and the trap set's signature verify. Log entry 15 (DESIGN CHOICE). -/
structure ImageChecks where
  readOk : Bool
  chainOk : Bool
  sigOk : Bool
  fwOk : Bool
  trapOk : Bool
  deriving DecidableEq, Repr

/-- What a start finds on the die (R426, R429, R434): event-log records whose CRC fails, the mode of the boot store, the
checks of the image, and the cores, routers (core and plane B) and stacks that fail their self test. Log entries 15 (DESIGN CHOICE), 16 (DESIGN CHOICE), 77 (DEDUCED). -/
structure StartFacts where
  badRecs : List Nat
  fallback : Bool
  checks : ImageChecks
  cores : List CoreId
  routers : List (CoreId × Bool)
  deadStacks : List StackId
  /-- tiers whose metadata rows fail their check (R37) -/
  badTiers : List (CoreId × EngId × TierId)
  deriving DecidableEq, Repr


/-- What the fetches of a query and its filter gave (R448, R449): the data, or a read that failed or came late. -/
structure QueryFetch where
  ok : Bool
  query : List Byte
  filter : List Byte
  deriving DecidableEq, Repr


/-- What goes out of range at the input (R491): the voltage in mV for 20 µs, or the current in 10 mA for 1 ms. -/
inductive InputFault where
  | voltage (mv : Nat) | current (c : Nat)
  deriving DecidableEq, Repr

/-- A regulator fault (R483, R491): a regulator's own report by number, a rail out of tolerance by sense point, or a board
sensor at 125 °C. -/
inductive RegFault where
  | regulator (n : Nat) | rail (p : Fin 16) | board
  deriving DecidableEq, Repr

/-- The commands, one for each row of the table of operations and events, family by family. Log entries 16 (DESIGN CHOICE), 73 (DESIGN CHOICE). -/
inductive Instr where
  | tierSelect (core : CoreId) (eng : EngId) (tier : TierId) (badWord : Bool)
  | inputStaging (core : CoreId) (eng : EngId) (input : StageIn)
  | engineBeat (issue : Issue) (eng : EngId) (outAddr : Nat) (window : Nat) (windowIssue : Nat) (residueUpset : Bool) (trims : List TrimAt)
  | mergeDeadline (core : CoreId) (eng : EngId) (tile inst : Nat) (row : Fin 32)
  | repeatWindow (core : CoreId) (eng : EngId) (window windowIssue nextWindow nextIssue : Nat) (residueUpset : Bool) (trims : List TrimAt)
  | precisionSumComplete

  | calibrationSlot (core : CoreId) (eng : EngId) (residueUpset : Bool)
  | trimSetCheck
  | settlingDue (core : CoreId) (eng : EngId) (tier : TierId) (round : Fin 4)
  | ageTrigger (core : CoreId) (eng : EngId) (tier : TierId)
  | engineDark (core : CoreId) (eng : EngId)
  | freshTierEnd (core : CoreId) (eng : EngId) (tier : TierId)
  | firstPass
  | aszForceRound (w : Wr)
  | monitorConversion (code : BitVec 14) (code2 : BitVec 14) (code3 : BitVec 14) (code4 : BitVec 14)
  | referenceSettled
  | testBusCaptureArm (w : Wr)

  | matrixOp (issue : Issue) (op : MatOp) (ecc : Upsets) (residueUpset : Bool)
  | vectorOp (issue : Issue) (op : VecOp) (ecc : Upsets)
  | coreStoreScrub (core : CoreId) (upset : Option Bool)
  | lineRestore (core : CoreId) (line : Nat)
  | stackRead (issue : Issue) (addr lines dst : Nat) (ecc : Upsets) (retries : Nat) (late : Bool)
  | stackWrite (issue : Issue) (src lines addr : Nat) (ecc : Upsets)
  | stackOutOfService (stack : StackId) (linkFailed : Bool)
  | pageWalk (issue : Issue) (slot loc pos : Nat) (row : Fin 32) (eccDir eccLeaf : Upsets)

  | rodBoundary
  | furlongBoundary
  | mileBoundary
  | clockLock
  | fmarkPulse (high : Nat) (offset : Int)
  | refclkLoss
  | refclkReturn
  | refclkHoldExpiry
  | operationOverrun (issue : Issue) (agent : Nat)
  | slackWindow (core : CoreId) (len : Nat)
  | admissionRun
  | mcAdmissionCommand
  | tbVarReq (w : Wr)

  | sbVarReq (m : SbMsg)
  | sbVarRefuse (m : SbMsg)
  | mcVariantRequest (var : Fin 8)


  | meshTransfer (issue : Issue) (flow : Nat) (send : Send) (ecc : Upsets)
  | flitForward (n : Nat) (upset : Bool)
  | flitArrival (n : Nat)
  | broadcast (issue : Issue) (column : Bool) (send : Send) (recv : List BusRecv) (ecc : Upsets)
  | routerFaultEvent (core : CoreId) (kind : RouterFault)
  | rtrMarkA (core : CoreId) (w : Wr)
  | rtrMarkB (core : CoreId) (w : Wr)


  | laneTrainingDone (port : LaneId) (lanes : BitVec 8)
  | deskewDone (port : LaneId) (lanes : BitVec 8)
  | helloFrame (port : LaneId) (h : Hello) (rx : FrameRx)
  | confirmFrame (port : LaneId) (c : Confirm) (rx : FrameRx)
  | cablingDecision (port : LaneId)
  | trainingStepTimeout (port : LaneId)
  | frameSend (issue : Issue) (port : LaneId) (dstGroup dstMod dstRegion : Nat) (send : Send) (ecc : Upsets)
  | dataFrame (port : LaneId) (rx : FrameRx) (hdr : FrameHdr) (units : List (List Byte)) (slot : Option RecvSlot) (table : Option (List TableMsg))
  | heartbeatSend (port : LaneId)
  | heartbeatReceived (port : LaneId) (rx : FrameRx) (rodLo state : Nat) (msgs : List SbMsg)
  | sbHeat (m : SbMsg)
  | sbLoss (m : SbMsg)
  | sbPresent (m : SbMsg)
  | laneSignalLoss (port : LaneId)
  | heartbeatSlotMiss (port : LaneId)
  | lossConfirmation (group module : Nat)
  | lossDisableTimeout (group module : Nat)
  | lnkRetrain (port : LaneId) (w : Wr)
  | mcCoordinates (rack : BitVec 8) (group : BitVec 4) (slot : BitVec 6)


  | dispatchGrant (issue : Issue) (layer : Nat) (ecc : Upsets)
  | returnCombine (issue : Issue) (layer chunk n outAddr : Nat) (ecc : Upsets)
  | quarantineLapse (layer expert : Nat)

  | spanSlot (issue : Issue) (loc lane slot span pos : Nat) (row : Fin 32) (qAddr kvAddr : Nat) (late : Bool) (ecc : Upsets) (residueUpset : Bool)
  | spanMerge (issue : Issue) (loc slot head pos : Nat) (row : Fin 32) (outAddr : Nat)
  | pageExceptionService
  | pageFrameRelease (slot : Nat)
  | ringRequestStart (slot ring : Nat)
  | ringStep (ring : Nat) (bad : Bool)

  | intakePoll (recs : List (List Byte)) (hostIdx : Nat) (late : Bool)
  | submit (raw : List Byte) (fetch : Fetch)
  | cancel (raw : List Byte)
  | pause (raw : List Byte)
  | resume (raw : List Byte)
  | draft (raw : List Byte)
  | hostReadCompletion (region : Fin 16) (core : CoreId) (token inst : Nat) (rows : BitVec 32) (addr : Nat) (data : List Byte) (issuedAt : Nat) (error : Bool)
  | entryIssue (bushel : Nat)
  | sampling (bushel : Nat) (row : Fin 32) (logits : List FpBits) (flagIn : Bool) (isVoid : Bool)
  | commitDecision (bushel slot : Nat)
  | returnRecord (r : ReturnRec)
  | egressSlot
  | slotFree (slot : Nat)
  | intakeEnWrite (w : Wr)
  | mcOpenIntake
  | mcCloseIntake


  | ldStart (w : Wr)
  | ldAbort (w : Wr)
  | chunkArrival (d : Fetched)
  | programStep (core : CoreId) (eng : EngId) (verified : Bool)
  | ldFlipReq (w : Wr)
  | mcNameFlip
  | sbEpoch (m : SbMsg)
  | adapterLoad (raw : List Byte)
  | adapterDrop (raw : List Byte)
  | adapterPartFetch (slot : Nat) (part : PartFetch)
  | adapterSwitch (slot : Nat)
  | adapterSlotFree (slot : Nat)
  | mcLoadCommand (addr : BitVec 64) (len : Nat)

  | hallmarkReq (nonce : List Byte)
  | keyRelease (object : List Byte) (check : ReleaseCheck)
  | unsealComplete (badRows : List (CoreId × EngId × TierId))
  | getVersion
  | getCapabilities
  | negotiateAlgorithms (common : Bool)
  | getDigests
  | getCertificate (slot offset length : Nat)
  | challenge (slot : Nat)
  | getMeasurements (index : Nat)
  | keyExchange (slot : Nat)
  | spdmFinish (verifyOk : Bool)
  | keyUpdate (op : Nat)
  | spdmHeartbeat
  | endSession
  | ideKmKeyProgram (stream : Nat)
  | ideIntegrityFailure (stream : Nat)
  | lockInterface
  | startInterface
  | stopInterface
  | functionLevelReset
  | secWdogKick (w : Wr)
  | watchdogExpiry
  | controlCoreBreach (b : Breach)


  | patrolSlot (core : CoreId) (eng : EngId) (beats : Nat) (residueUpset : Bool) (trims : List TrimAt)
  | vectorPatrolSlot (core : CoreId) (differs : Bool)
  | trapLoad (w : Wr)
  | trapSetVerifyDone (bytes : List Byte) (sigOk fetched : Bool)
  | repairStepDone (logical : Nat) (ok : Bool)
  | injArm (w : Wr)
  | mcChrysalis


  | powerLoss
  | perstNAssert
  | mrstNAssert
  | resetRelease (facts : StartFacts)
  | stopRecordAck
  | imgBegin (length version : BitVec 32)
  | imgData (offset : Nat) (bytes : List Byte)
  | imgEnd
  | imgVerify (checks : ImageChecks)


  | query (raw : List Byte) (fetch : QueryFetch)
  | queryPass (corpus : Fin 16) (late : Bool) (residueUpsets : List Nat) (trims : List (Nat × TrimAt))
  | searchRound (corpus : Fin 16) (late : Bool)
  | rtvFlipReq (w : Wr)


  | registerWrite (addr : Nat) (w : Wr)
  | cfgSealSet (w : Wr)
  | wideSelWrite (w : Wr)
  | wideSnapshotDone (port : PortId)
  | cfgCrcCommit (w : Wr)
  | cfgCrcAdopt (w : Wr)
  | crcPassEnd
  | msixTableWrite (vector : Fin 64) (mask : Bool)


  | sensorReading (sensor : Fin 88) (value : BitVec 16) (sat : Bool)
  | sensorRestore (sensor : Fin 88)
  | powerCapVariantRequest
  | heatRerequest
  | heatFlagClear
  | clockDivide
  | clockRestore
  | comparatorTrip (sensor : Fin 64) (others : List (Fin 64))
  | vinFault (f : InputFault)
  | regulatorFault (f : RegFault)
  | mcPowerOff
  | mateNAssert
  | inputEnable
  | vinReapply
  | hostLinkTraining (up : Bool) (gen width : Nat)
  | mcPowerCapRaise (cap : Nat)
  | pldmEventFetch
  | dynamicAddressAssignment (addr : BitVec 7)
  | inputRangeExcursion (mv : Nat)
  deriving DecidableEq, Repr

end Sys2Proof
end

