-- ==== Sys2Proof/Decode.lean ====
section
/-! DEFINITION. The command that a word of the opcode table spells. -/
namespace Sys2Proof

/-- The opcode table gives none of its rows any bits: commands reach the block as events and not as encoded words, so no
word spells one. Log entry 1 (DESIGN CHOICE). -/
def decodeTableWord (_nbits _w : Nat) : Option Instr := none

end Sys2Proof
end

