-- ==== Sys2Proof/Image.lean ====
section
/-! DEFINITION. The declarations of the configuration image that the spec names (R427 and the rules that its
section table lists), as plain data. The byte layouts of sections 0x0001 to 0x0008 are not in the spec. -/
namespace Sys2Proof.Machine

/-- A tile declaration (R42 to R44, R88, R107 to R113). -/
structure TileDecl where
  /-- tile number 0 to 7 of its engine (R346), and the image's number of the tile, below 2^21 (R77, R105) -/
  num : Nat
  unit : Nat
  layer : Nat
  core : Nat
  engine : Nat
  bits : Nat
  exact : Bool
  inBits : Nat
  nAct : Nat
  cols : Nat
  unused : List Nat
  widen : Bool
  crushLimit : Nat
  mirror : List Nat
  theta : FpBits
  /-- mirror weights by mirrored row, then weight column; mirror scales by weight column -/
  mirrorW : List (List Int)
  mirrorScale : List (BitVec 16)
  /-- where the mirror lies in the core store (R107) -/
  mirrorAddr : Nat
  bf16Out : Bool
  biasMerge : Bool
  adapterMerge : Bool
  /-- formats of the windows that the tile's beats name, in order: 6, 8 (R113) -/
  windows : List Nat
  /-- fed over an A4 edge: the core holds no finer data (R103) -/
  a4Edge : Bool
  startEpoch : Nat
  /-- double-buffered (R346); the role, by index, of a standby copy (R365); loaded with a mirror entry (R107) -/
  dbl : Bool
  standby : Option Nat
  mirrorEntry : Bool
  deriving DecidableEq, Repr

/-- The regions of a core store (R161). -/
inductive StoreKind where
  | tables | mirror | directory | activation | adapter | kvStaging | pageLines
  deriving DecidableEq, Repr

/-- A region of a logical core's store (R161). -/
structure StoreRegion where
  core : Nat
  kind : StoreKind
  base : Nat
  len : Nat
  deriving DecidableEq, Repr

def StoreKind.static : StoreKind → Bool
  | .tables | .mirror | .directory => true
  | .activation | .adapter | .kvStaging | .pageLines => false

/-- What a token's rows are (R193, R268, R275): rows of a bushel, answer rows, an expert's input rows, or another use. -/
inductive TokenUse where
  | bushel | answer | expert | other
  deriving DecidableEq, Repr

/-- The buffer of a token (R193, R220, R505): base in the core store, bytes per unit, units per row, what its rows are,
and the expected mask of a token that no bushel and no grant record gives one (R275). -/
structure TokenBuf where
  core : Nat
  token : Nat
  base : Nat
  unit : Nat
  perRow : Nat
  use : TokenUse
  rows : BitVec 32
  /-- the bushel slot, and the mile of the period, of the bushel instance whose descriptor gives the expected rows (R193, R331) -/
  tied : Option (Nat × Nat)
  /-- where its bushel's rows stand: 2 × local layer before the output projection of that attention layer, one more from it on (R301) -/
  stage : Nat
  deriving DecidableEq, Repr

/-- The kinds of slot that FLAGS names (R189). -/
inductive SlotKind where
  | request | calibration | patrol | repeatWindow | slack | retrieval | program | poll
  deriving DecidableEq, Repr

/-- The unit that executes a slot (R189). -/
inductive Agent where
  | engine (e : Nat) | matrix | vector | dispatch | pageWalk | stack (k : Nat)
  | meshA | meshB | rowBus | colBus | port (p : Nat) | poller
  deriving DecidableEq, Repr

/-- What a slot's operation is priced by (R56, R59, R113, R123, R159, R170, R198, R224, R277, R296, R398). -/
inductive SlotOp where
  | engine (tiers slices rows : Nat)
  | repeatWindow (slices : Nat)
  | calibration
  | patrol (beats : Nat)
  | vectorPatrol
  | matrix (a b : NumFmt) (m k n tm tn tk : Nat)
  | elementwise (l : Nat)
  | special (l : Nat)
  | reduction (l : Nat)
  | grants (c : Nat)
  | combine (a : Nat)
  | mesh (hops flits : Nat)
  | rowBroadcast (k : Nat)
  | colBroadcast (k : Nat)
  | stack
  | span (z headsPer group dim : Nat) (a b : NumFmt) (tm tn tk : Nat)
  | searchRound
  | pageWalk (hits misses : Nat)
  | free
  deriving DecidableEq, Repr

/-- One descriptor of a core's schedule tables (R189). -/
structure Slot where
  core : Nat
  startRod : Nat
  startCyc : Nat
  len : Nat
  agent : Agent
  op : Nat
  repeats : Nat
  stride : Nat
  ins : List Nat
  out : Nat
  arg : Nat
  kind : SlotKind
  opts : Nat
  price : SlotOp
  /-- the tiles that an engine slot evaluates, by the image's tile number (R59, R113) -/
  tiles : List Nat
  deriving DecidableEq, Repr

/-- A transition between two variants (R207): bushel slots, and tokens with the instance they carry. -/
structure Transition where
  src : Nat
  dst : Nat
  slots : List (Nat × Nat)
  /-- core, old token, new token, new instance number -/
  tokens : List (Nat × Nat × Nat × Nat)
  deriving DecidableEq, Repr

/-- A step of the path between a producer and its consumer (R198, R212). -/
inductive Hop where
  | mesh (hops flits : Nat)
  | rowBus (k : Nat)
  | colBus (k : Nat)
  | fabric (port pecks metres : Nat)
  | stack
  | walk
  | output
  | host
  | hostWrite
  deriving DecidableEq, Repr

/-- A producer and a consumer slot, by their index in the variant, and the path between them (R212). -/
structure Dep where
  prod : Nat
  cons : Nat
  path : List Hop
  deriving DecidableEq, Repr

/-- The resources of R199 and R170 that carry a scheduled load. -/
inductive Resource where
  | meshLink | edgeRouter | edgePort | planeB | bus | port | stack | host
  deriving DecidableEq, Repr

/-- A scheduled load of one rod: resource, its number, what its check reports, rod of the period, amount (R199). -/
structure LoadItem where
  res : Resource
  /-- which link, port and direction, bus segment, stack or router it is -/
  item : Nat
  /-- the router that a mesh link or an attachment port belongs to, the flow of a plane-B load (R215, R223) -/
  owner : Nat
  rod : Nat
  amount : Nat
  deriving DecidableEq, Repr

/-- A flow's detour allowance in a variant (R202), in cycles, and the dependency, by index, whose path the flow is. -/
structure DetourPrice where
  flow : Nat
  dep : Nat
  allow : Nat
  deriving DecidableEq, Repr

/-- A tenancy region (R226): its rectangle of 2 x 2 tiles, host attachment core, spares, logical cores, stack
extents, and the base of its restore area (R162). -/
structure Region where
  num : Nat
  i0 : Nat
  j0 : Nat
  rows : Nat
  cols : Nat
  attach : Nat
  spares : Nat
  logical : List Nat
  extents : List Nat
  /-- the extents that hold the page pool (R289) -/
  pool : List Nat
  restore : Nat
  deriving DecidableEq, Repr

/-- An edge that a variant feeds with A4 pecks (R103): its consuming tiles, by the image's tile number; where there is none, a
digital unit, and whether the image declares that it accepts A4. -/
structure A4Edge where
  tiles : List Nat
  accepts : Bool
  deriving DecidableEq, Repr

/-- A scheduled flow of plane A (R199, R231): logical source and destination, flits per issue, and its detours
(the physical core whose router domain is avoided, and the VIA). -/
structure Flow where
  num : Nat
  src : Nat
  dst : Nat
  flits : Nat
  detours : List (Nat × Nat)
  deriving DecidableEq, Repr

/-- A link of the cabling plan between two modules of the deployment (R237): an optical cable, or over the copper backplane. -/
structure PlanLink where
  a : Nat × Nat
  b : Nat × Nat
  optical : Bool
  deriving DecidableEq, Repr

/-- A logical port of the cabling plan (R235, R250). -/
structure PlanPort where
  lane : Nat
  width : Nat
  region : Nat
  group : Nat
  module : Nat
  dieId : BitVec 64
  farPort : Nat
  farSet : List Nat
  fibre : Nat
  localSet : List Nat
  deriving DecidableEq, Repr

/-- An expert layer as a dispatching core routes it (R263, R278). Directory entries are 64-bit words (R265), one
per expert. -/
structure ExpertLayer where
  core : Nat
  layer : Nat
  experts : Nat
  k : Nat
  score : Nat
  gamma : FpBits
  renorm : Bool
  shared : List FpBits
  entries : List Nat
  deriving DecidableEq, Repr

/-- Where an answer lands (R268): layer, expert, block row, chunk, and the combining core, token and row. -/
structure Exchange where
  layer : Nat
  expert : Nat
  blockRow : Nat
  chunk : Nat
  comb : Nat
  token : Nat
  row : Nat
  deriving DecidableEq, Repr

/-- An answer row that the image reserves for a shared expert (R278): layer, shared expert, bushel row, chunk, combining
core, token and row. -/
structure SharedRow where
  layer : Nat
  j : Nat
  row : Nat
  chunk : Nat
  comb : Nat
  token : Nat
  arow : Nat
  deriving DecidableEq, Repr

/-- An attention layer (R285, R294, R295): `lanes` lists the lane cores as (lane, core, first head), `merge` the
merge core of each head. -/
structure KvLayer where
  layer : Nat
  loc : Nat
  heads : Nat
  dim : Nat
  group : Nat
  int4 : Bool
  bf16Att : Bool
  bytes : Nat
  span : Nat
  nLanes : Nat
  width : Nat
  kp : Nat
  kh : Nat
  hMax : Nat
  lanes : List (Nat × Nat × Nat)
  merge : List (Nat × Nat)
  /-- cycles from the start of a bushel instance to its step of the layer (R300) -/
  stepAt : Nat
  deriving DecidableEq, Repr

/-- An attention layer of the path, as every member of a ring declares it (R307): the module that is its home, and its shape; its
local number and its lanes are those of its home. -/
structure RingLayer where
  owner : Nat × Nat
  geo : KvLayer
  deriving DecidableEq, Repr

/-- A ring (R305): members as (group, module), region, pair time in miles, ring cores, and the path's attention layers. -/
structure Ring where
  members : List (Nat × Nat)
  region : Nat
  pair : Nat
  ringCores : List Nat
  layers : List RingLayer
  deriving DecidableEq, Repr

/-- A region's ring pair (R316) and its path's declarations (R313, R318, R321, R329). -/
structure RingPair where
  region : Nat
  inAddr : Nat
  nIn : Nat
  egAddr : Nat
  nEg : Nat
  modIdxAddr : Nat
  hostIdxAddr : Nat
  vector : Nat
  /-- request windows: base and length (R316) -/
  windows : List (Nat × Nat)
  bPoll : Nat
  egCap : Nat
  vocab : Nat
  deriving DecidableEq, Repr

/-- The adapter declarations (R367, R371). `share` gives each region its first slot and its count. -/
structure AdapterDecl where
  base : Nat
  slotBytes : Nat
  rMax : Nat
  dAd : Nat
  lAd : Nat
  share : List (Nat × Nat × Nat)
  /-- d_in and d_out of each adapted matrix, in image order -/
  mats : List (Nat × Nat)
  deriving DecidableEq, Repr

def AdapterDecl.none : AdapterDecl := ⟨0, 64, 0, 1, 1, [], []⟩

/-- A covered role of a standby module (R365, R418): group, module, and its path's region. -/
structure Role where
  group : Nat
  module : Nat
  deriving DecidableEq, Repr

/-- A slot of a variant that belongs to a route to, from or on a role (R258, R418): on the primary route the module that serves it
is the role's own, on an alternative route a standby. -/
structure RouteSlot where
  var : Nat
  slot : Nat
  role : Nat × Nat
  server : Nat × Nat
  deriving DecidableEq, Repr

/-- A directory entry of the image (R427). -/
structure Section where
  type : Nat
  offset : Nat
  len : Nat
  deriving DecidableEq, Repr

/-- A corpus tile (R447): logical core, engine, tile number, vector count and base index. -/
structure CorpusTile where
  core : Nat
  engine : Nat
  tile : Nat
  n : Nat
  base : Nat
  deriving DecidableEq, Repr

/-- A corpus (R447, R455). -/
structure Corpus where
  num : Nat
  region : Nat
  dim : Nat
  bias : Bool
  exact : Bool
  tiles : List CorpusTile
  root : Nat
  deriving DecidableEq, Repr

def Corpus.vectors (c : Corpus) : Nat := (c.tiles.map CorpusTile.n).sum

/-- A schedule variant (R204, R188, R189, R327, R329, R399, R450). Bushel slot starts are in cycles from the start of
the mile; the patrol share is in tenths of a per cent. -/
structure Variant where
  num : Nat
  rate : Nat
  a8 : Bool
  period : Nat
  slots : List Slot
  bushels : List Nat
  prefillRows : Nat
  cost : List (Nat × Nat)
  patrolShare : Nat
  /-- query passes per furlong, by corpus (R450) -/
  passes : List (Nat × Nat)
  /-- what the admission checks of R215 weigh besides the slots -/
  deps : List Dep
  loads : List LoadItem
  detours : List DetourPrice
  /-- declared deadlines: the last slot each depends on, and its cycle in the period -/
  deadlines : List (Nat × Nat)
  /-- logical cores, ports, stacks that the variant uses -/
  usesCores : List Nat
  usesPorts : List Nat
  usesStacks : List Nat
  /-- the edges that carry A4 pecks (R103) -/
  a4Edges : List A4Edge
  deriving DecidableEq, Repr

/-- The configuration image's declarations. Log entry 14 (DESIGN CHOICE). -/
structure Image where
  version : Nat := 0
  fabRev : Nat := 0
  compat : List Nat := []
  model : Nat := 0
  group : Nat := 0
  module : Nat := 0
  startStandby : Bool := false
  startVar : Nat := 0
  /-- the tables, periods, fields and section counts are well formed (check 0x01); none, or the failing table index -/
  malformed : Option Nat := none
  variants : List Variant := []
  transitions : List Transition := []
  ports : List PlanPort := []
  /-- the deployment's modules, as group and module, and the links of its plan (R237) -/
  modules : List (Nat × Nat) := []
  links : List PlanLink := []
  coords : Nat × Nat × Nat := (0, 0, 0)
  /-- this module is the entry, exit, or some serving module of its path (R313), and its region -/
  entry : Bool := false
  exit : Bool := false
  serving : Bool := false
  pathRegion : Nat := 0
  rings : List RingPair := []
  /-- host windows marked private, base and length; every other one is shared (R380) -/
  privWindows : List (Nat × Nat) := []
  /-- H: rods that a host read may take (R198) -/
  hostReadRods : Nat := 8
  /-- the role's YIELD option, and a standby named for the role (R415) -/
  tiles : List TileDecl := []
  /-- trim group of each engine, core * 8 + engine (R135) -/
  trimGroups : List (Nat × Nat) := []
  /-- registers loaded at admission: address and value (R427) -/
  regInit : List (Nat × Word) := []
  yieldOpt : Bool := false
  hasStandby : Bool := false
  /-- the roles this module's image covers as standby (R418), and those whose standbys the image names, with the
  alternative routes' ports by role -/
  covers : List Role := []
  standbys : List (Role × Role) := []
  routes : List RouteSlot := []
  regions : List Region := []
  stores : List StoreRegion := []
  buffers : List TokenBuf := []
  flows : List Flow := []
  experts : List ExpertLayer := []
  exchange : List Exchange := []
  sharedRows : List SharedRow := []
  kvLayers : List KvLayer := []
  /-- the modules, as group and module, whose stacks hold KV pages of the path's requests (R293) -/
  kvHomes : List (Nat × Nat) := []
  ringDecls : List Ring := []
  adapters : AdapterDecl := AdapterDecl.none
  /-- weight windows: region, base, length (R348), and whether fresh-tier trims are accepted (R141) -/
  weightWindows : List (Nat × Nat × Nat) := []
  freshTrims : Bool := false
  /-- the epoch plan: flips as mile and epoch (R360), and loads as mile, manifest address and length (R353) -/
  epochPlan : List (Nat × Nat) := []
  loadPlan : List (Nat × Nat × Nat) := []
  /-- load extents of the stacks, in tiles that fit (R353) -/
  stageTiles : Nat := 64
  /-- the trap set of section type 0x0009, as stored (R400) -/
  trapBytes : List Byte := []
  corpora : List Corpus := []
  /-- the retrieval result buffer in the stacks (R453): address and length -/
  resultBuf : Nat × Nat := (0, 0)
  /-- publisher keys and release-authority keys held (R348, R380), and the weight-key check value of R380 -/
  pubKeys : Nat := 0
  authKeys : Nat := 0
  wkcv : List Byte := []
  deriving DecidableEq, Repr

/-- Before an image is in force. -/
def Image.none : Image := {}

end Sys2Proof.Machine
end

