-- ==== Sys2Proof/Config.lean ====
section
/-! DEFINITION. What the spec leaves to the part or leaves open: fused values, and values that
nothing in the spec fixes. Each is an opaque constant, so that no proof can lean on a number. -/
namespace Sys2Proof

/-- GLB_ID.VENDOR: "as the configuration header" (R477). No number is given. Log entry 4 (DESIGN CHOICE). -/
opaque Config.vendorId : BitVec 16
/-- GLB_REV: fused (R477). Log entry 4 (DESIGN CHOICE). -/
opaque Config.stepMajor : BitVec 8
/-- Log entry 4 (DESIGN CHOICE). -/
opaque Config.stepMinor : BitVec 8
/-- Log entry 4 (DESIGN CHOICE). -/
opaque Config.romVersion : BitVec 8
/-- SEC_STAT.ENG_SAMPLE: fused (R394). Log entry 4 (DESIGN CHOICE). -/
opaque Config.engSample : BitVec 1
/-- SEC_DIE_ID: fused (R394). Log entry 4 (DESIGN CHOICE). -/
opaque Config.dieId : BitVec 64
/-- MON_COEF: the fused gain and offset of a monitor channel (R154). Log entry 4 (DESIGN CHOICE). -/
opaque Config.monGain : Nat → BitVec 16
/-- Log entry 4 (DESIGN CHOICE). -/
opaque Config.monOffset : Nat → BitVec 16
/-- The bytes of a fault record in the DETAIL of a CHRYSALIS record (R430): no layout is given. Log entry 25 (DESIGN CHOICE). -/
opaque Config.faultBytes : List Nat → List (BitVec 8)
/-- HMAC-SHA-384 of a key and a message, AES-256 of a key and a block, XTS-AES-256 of a data key, a tweak key, a tweak and a
line (R167, R377, R387): the named standards are outside the spec. Log entry 15 (DESIGN CHOICE). -/
opaque Config.hmacSha384 : List (BitVec 8) → List (BitVec 8) → List (BitVec 8)
/-- Log entry 15 (DESIGN CHOICE). -/
opaque Config.aes256 : List (BitVec 8) → BitVec 128 → BitVec 128
/-- Log entry 15 (DESIGN CHOICE). -/
opaque Config.xtsAes256 : List (BitVec 8) → List (BitVec 8) → Nat → List (BitVec 8) → List (BitVec 8)
/-- The stack root, the fabric domain key and the identity private key that are fused at manufacture (R375). Log entry 4 (DESIGN CHOICE). -/
opaque Config.stackRoot : List (BitVec 8)
/-- Log entry 4 (DESIGN CHOICE). -/
opaque Config.domainKey : List (BitVec 8)
/-- Log entry 4 (DESIGN CHOICE). -/
opaque Config.identityKey : List (BitVec 8)
/-- The order of NIST P-384, and the public point of a scalar on it (R378). Log entry 15 (DESIGN CHOICE). -/
opaque Config.p384Order : Nat
/-- Log entry 15 (DESIGN CHOICE). -/
opaque Config.p384Point : Nat → List (BitVec 8)
/-- The analogue error of a healthy held value, 2,048 less than the number given, in 1/1024 grain, and of a threshold,
1,024 less than the number given (R31, R74, R91): of the free-value counter and the conversion. The bounds of 2 grains and
1 grain keep a segment of 288 units at or below code 292 (R62) and a code of exact mode within 4 grains of its multiple of
9 (R64). Log entry 11 (DESIGN CHOICE). -/
opaque Config.heldErr : Nat → Nat → Fin 4097
/-- Log entry 11 (DESIGN CHOICE). -/
opaque Config.dacErr : Nat → Nat → Nat → Fin 2049
/-- Whether a conversion is disturbed, and the error of the held value in 1/1024 grain if so: an over-range marks a disturbed
conversion (R62, R112). Log entry 11 (DESIGN CHOICE). -/
opaque Config.disturbed : Nat → Nat → Bool
/-- Log entry 11 (DESIGN CHOICE). -/
opaque Config.disturbance : Nat → Nat → Int
/-- What the addition of a bias that is a NaN or an infinity gives (R88): the spec states no result for it. Of the sum so far
and the bias. Log entry 81 (DESIGN CHOICE). -/
opaque Config.biasCorner : BitVec 32 → BitVec 32 → BitVec 32
/-- log10 of a positive rational, as the settling term uses it (R140). Log entry 26 (DESIGN CHOICE). -/
opaque Config.log10 : Rat → Rat
/-- A captured test-bus value of channel 80 + i (R151): of the free-value counter. Log entry 11 (DESIGN CHOICE). -/
opaque Config.testBus : Nat → Nat → BitVec 14

/-- The payload of a quiet NaN that the vector unit delivers (R158). Log entry 17 (DESIGN CHOICE). -/
opaque Config.quietNaN : BitVec 22
/-- Which of the FP32 results within 2 ulp the special functions exp2, log2, SiLU and GELU give for an operand, the same on
every core (R158). Log entry 17 (DESIGN CHOICE). -/
opaque Config.exp2Ulp : BitVec 32 → Fin 5
/-- Log entry 17 (DESIGN CHOICE). -/
opaque Config.log2Ulp : BitVec 32 → Fin 5
/-- Log entry 17 (DESIGN CHOICE). -/
opaque Config.siluUlp : BitVec 32 → Fin 5
/-- Log entry 17 (DESIGN CHOICE). -/
opaque Config.geluUlp : BitVec 32 → Fin 5
/-- Their results where the spec states none: a NaN, an infinity, a log2 of 0 or of a negative number, an exp2 beyond FP32.
Log entry 17 (DESIGN CHOICE). -/
opaque Config.exp2 : BitVec 32 → BitVec 32
/-- Log entry 17 (DESIGN CHOICE). -/
opaque Config.log2 : BitVec 32 → BitVec 32
/-- Log entry 17 (DESIGN CHOICE). -/
opaque Config.silu : BitVec 32 → BitVec 32
/-- Log entry 17 (DESIGN CHOICE). -/
opaque Config.gelu : BitVec 32 → BitVec 32
/-- Which FP32 within 1 ulp of the exact result a reciprocal and a reciprocal square root deliver (R158). Log entry 17 (DESIGN CHOICE). -/
opaque Config.recipUlp : BitVec 32 → Fin 3
/-- Log entry 17 (DESIGN CHOICE). -/
opaque Config.rsqrtUlp : BitVec 32 → Fin 3
/-- What a read of a core-store address at or above 768 KiB gives: no such byte exists (R160). Log entry 79 (DESIGN CHOICE). -/
opaque Config.noByte : Nat → BitVec 8
/-- A reciprocal of 0, and a reciprocal square root of 0 or of a negative number: no result is stated. Log entry 17 (DESIGN CHOICE). -/
opaque Config.recipCorner : BitVec 32 → BitVec 32
/-- Log entry 17 (DESIGN CHOICE). -/
opaque Config.rsqrtCorner : BitVec 32 → BitVec 32
/-- An INT4 chunk sum m × 2^e whose scaled value lies below the smallest FP32 subnormal (R156): no result is stated. Log entry 18 (DESIGN CHOICE). -/
opaque Config.tinyChunk : Int → Int → BitVec 32
/-- FP8 conversion of an FP32 beyond the format's range, or of a NaN or infinity (R156, R158): no result is stated. Log entry 18 (DESIGN CHOICE). -/
opaque Config.e4m3Over : BitVec 32 → BitVec 8
/-- Log entry 18 (DESIGN CHOICE). -/
opaque Config.e5m2Over : BitVec 32 → BitVec 8
/-- The words that a vector compare writes for true and false (R158): no encoding is given. Log entry 19 (DESIGN CHOICE). -/
opaque Config.cmpTrue : BitVec 32
/-- Log entry 19 (DESIGN CHOICE). -/
opaque Config.cmpFalse : BitVec 32

/-- The candidate drawn where rounding leaves no cumulative sum above u × S, and the token drawn where every logit is
a NaN (R337): no token is stated. Log entry 20 (DESIGN CHOICE). -/
opaque Config.sampleCorner : Nat → Nat
/-- Log entry 20 (DESIGN CHOICE). -/
opaque Config.sampleNone : Nat → Nat

/-- The number of scale and metadata rows that are programmed after a tier's 1,024 data rows, less 1 (R354: at most
164). Log entry 21 (DESIGN CHOICE). -/
opaque Config.metaRows : Fin 164

/-- The random value that a port draws for a training (R249): of the free-value counter. Log entry 22 (DESIGN CHOICE). -/
opaque Config.linkRandom : Nat → BitVec 32

/-- AES-256-GCM of a key, a vector, associated data and a plaintext: the ciphertext, then the 16-byte tag (R240, R241). Log entry 15
(DESIGN CHOICE). -/
opaque Config.gcmSeal : List (BitVec 8) → Nat → List (BitVec 8) → List (BitVec 8) → List (BitVec 8)
/-- The sequence number in the vector of a confirm frame, which goes out before the numbers of R241 start. Log entry 84 (DESIGN CHOICE). -/
opaque Config.confirmSeq : BitVec 64

/-- The declarations that the sections of a stored image hold, of the whole image's bytes (R427): the byte layouts of the
sections are not in the spec. None where they do not parse. Log entry 14 (DESIGN CHOICE). -/
opaque Config.parseImage : List (BitVec 8) → Option Machine.Image
/-- SHA-384, of a byte string, as 48 bytes: FIPS 180-4 is outside the spec. Log entry 15 (DESIGN CHOICE). -/
opaque Config.sha384 : List (BitVec 8) → List (BitVec 8)
/-- The 256 random bits of a start (R378): of the free-value counter. Log entry 22 (DESIGN CHOICE). -/
opaque Config.bootRandom : Nat → BitVec 256

/-- The device identity public point, x then y (R375). Log entry 15 (DESIGN CHOICE). -/
opaque Config.identityPub : List (BitVec 8)
/-- The public point of the release key pair that a start draws (R378): of the free-value counter. Log entries 15 (DESIGN CHOICE), 22 (DESIGN CHOICE). -/
opaque Config.releasePub : Nat → List (BitVec 8)
/-- The signature of the device identity key over a byte string (R381). Log entry 15 (DESIGN CHOICE). -/
opaque Config.signDie : List (BitVec 8) → List (BitVec 8)
/-- A hash field of a report whose input the start has not read yet (R381): of the field and the free-value counter. Log entry 15 (DESIGN CHOICE). -/
opaque Config.earlyHash : Nat → Nat → List (BitVec 8)
/-- The certificate chain of SPDM slot 0 (R383), which the alias key ends. Log entry 15 (DESIGN CHOICE). -/
opaque Config.certChain : List (BitVec 8) → List (BitVec 8)

/-- The input power of a furlong in 0.1 W, the input current in 10 mA, and how far the input lies above 54 V in mV (R479,
R482): measured values, of the free-value counter. Log entry 23 (DESIGN CHOICE). -/
opaque Config.inputPower : Nat → BitVec 16
/-- Log entry 23 (DESIGN CHOICE). -/
opaque Config.inputCurrent : Nat → BitVec 16
/-- Log entry 23 (DESIGN CHOICE). -/
opaque Config.inputMv : Nat → Fin 8001
/-- Whether the ring cores of a ring evaluate one pair of a layer within the declared pair time (R305): how ring cores share
a pair is not in the spec. Log entry 24 (DESIGN CHOICE). -/
opaque Config.ringPairFits : Machine.Ring → Machine.KvLayer → Bool
/-- The voltage of a supply sense point in mV (R479, R483): of the point and the free-value counter. Log entry 23 (DESIGN CHOICE). -/
opaque Config.railMv : Nat → Nat → BitVec 16

end Sys2Proof
end

