-- ==== Sys2Proof/Machine/Float.lean ====
section
/-! DEFINITION. FP32, BF16 and FP16 values as exact dyadics, and the rounded operations of the manual: round
to nearest with ties to even, FP32 subnormals kept, a result beyond the largest finite magnitude limited to it
(R88, R156, R158). -/
namespace Sys2Proof.Machine

/-- The number m × 2^e. -/
structure Dy where
  m : Int
  e : Int
  deriving DecidableEq, Repr

def Dy.zero : Dy := ⟨0, 0⟩
def Dy.ofInt (n : Int) : Dy := ⟨n, 0⟩
def Dy.mul (a b : Dy) : Dy := ⟨a.m * b.m, a.e + b.e⟩
def Dy.neg (a : Dy) : Dy := ⟨-a.m, a.e⟩
def Dy.add (a b : Dy) : Dy :=
  let e := min a.e b.e
  ⟨a.m * 2 ^ (a.e - e).toNat + b.m * 2 ^ (b.e - e).toNat, e⟩
def Dy.lt (a b : Dy) : Bool := decide ((a.add b.neg).m < 0)
def Dy.le (a b : Dy) : Bool := decide ((a.add b.neg).m ≤ 0)
def Dy.abs (a : Dy) : Dy := ⟨a.m.natAbs, a.e⟩

/-- Round a magnitude right by k bits, to nearest with ties to even. -/
def rneShift (n k : Nat) : Nat :=
  let q := n / 2 ^ k
  let r := n % 2 ^ k
  if k = 0 then n
  else if 2 * r > 2 ^ k ∨ (2 * r = 2 ^ k ∧ q % 2 = 1) then q + 1 else q

/-- Round to a significand of `p` bits with the exponent range unbounded (R88 step 2). -/
def Dy.roundTo (p : Nat) (d : Dy) : Dy :=
  let n := d.m.natAbs
  let k := n.log2 + 1 - p
  ⟨d.m.sign * rneShift n k, d.e + k⟩

/-- The FP32 encoding of a number, and whether it was limited to the largest finite magnitude (R88). `neg0` is
the sign of an exact zero. -/
def Dy.toF32 (d : Dy) (neg0 : Bool) : FpBits × Bool :=
  if d.m = 0 then (if neg0 then 0x80000000 else 0, false)
  else
    let n := d.m.natAbs
    let lsb : Int := max (d.e + n.log2 - 23) (-149)
    let q := if d.e ≤ lsb then rneShift n (lsb - d.e).toNat else n * 2 ^ (d.e - lsb).toNat
    let mag : Int := (lsb + 149) * 2 ^ 23 + q
    let sign : Nat := if d.m < 0 then 0x80000000 else 0
    if 0x7F7FFFFF < mag then (BitVec.ofNat 32 (sign + 0x7F7FFFFF), true)
    else (BitVec.ofNat 32 (sign + mag.toNat), false)

def f32Exp (b : FpBits) : Nat := b.toNat / 2 ^ 23 % 256
def f32Frac (b : FpBits) : Nat := b.toNat % 2 ^ 23
def f32Neg (b : FpBits) : Bool := b.getLsbD 31
def f32IsNaN (b : FpBits) : Bool := f32Exp b = 255 && f32Frac b ≠ 0
def f32IsInf (b : FpBits) : Bool := f32Exp b = 255 && f32Frac b = 0
def f32Finite (b : FpBits) : Bool := f32Exp b ≠ 255

/-- The value of a finite FP32 encoding. -/
def f32Val (b : FpBits) : Dy :=
  let e := f32Exp b
  let m : Nat := if e = 0 then f32Frac b else 2 ^ 23 + f32Frac b
  ⟨if f32Neg b then -(m : Int) else m, (if e = 0 then 1 else e : Nat) - 150⟩

/-- The largest finite FP32 of a sign. -/
def f32Max (neg : Bool) : FpBits := if neg then 0xFF7FFFFF else 0x7F7FFFFF

/-- a + b, rounded. -/
def f32AddFlag (a b : FpBits) : FpBits × Bool :=
  ((f32Val a).add (f32Val b)).toF32 (f32Neg a && f32Neg b)
/-- a × b, rounded. -/
def f32MulFlag (a b : FpBits) : FpBits × Bool :=
  ((f32Val a).mul (f32Val b)).toF32 (f32Neg a != f32Neg b)
/-- a × b + c with one rounding. -/
def f32FmaFlag (a b c : FpBits) : FpBits × Bool :=
  (((f32Val a).mul (f32Val b)).add (f32Val c)).toF32 ((f32Neg a != f32Neg b) && f32Neg c)
def f32Add (a b : FpBits) : FpBits := (f32AddFlag a b).1
def f32Mul (a b : FpBits) : FpBits := (f32MulFlag a b).1
def f32Fma (a b c : FpBits) : FpBits := (f32FmaFlag a b c).1
def f32Negate (a : FpBits) : FpBits := a ^^^ 0x80000000
def f32Sub (a b : FpBits) : FpBits := f32Add a (f32Negate b)
def f32Lt (a b : FpBits) : Bool := (f32Val a).lt (f32Val b)
def f32Le (a b : FpBits) : Bool := (f32Val a).le (f32Val b)
def f32OfInt (n : Int) : FpBits := ((Dy.ofInt n).toF32 false).1
def f32MaxOf (a b : FpBits) : FpBits := if f32Lt a b then b else a

/-- BF16: the upper half of an FP32 encoding. -/
def bf16ToF32 (b : BitVec 16) : FpBits := (b.setWidth 32) <<< 16

/-- FP32 rounded to BF16 with ties to even (R88, R156); a result that rounds beyond the largest finite BF16 becomes it, and sets
no flag. Log entry 81 (DESIGN CHOICE). -/
def f32ToBf16 (b : FpBits) : BitVec 16 :=
  let q := rneShift (b.toNat % 2 ^ 31) 16
  let q := if f32Exp b = 255 then b.toNat % 2 ^ 31 / 65536 else min q 0x7F7F
  BitVec.ofNat 16 ((if f32Neg b then 0x8000 else 0) + q)

/-- The value of a finite FP16 encoding (R87, R107); NaN and infinity patterns are read as their exponent says. -/
def f16Val (b : BitVec 16) : Dy :=
  let e := b.toNat / 1024 % 32
  let f := b.toNat % 1024
  let m : Nat := if e = 0 then f else 1024 + f
  ⟨if b.getLsbD 15 then -(m : Int) else m, (if e = 0 then 1 else e : Nat) - 25⟩

/-- FP8 E4M3: sign, four exponent bits with bias 7, three fraction bits. -/
def e4m3Val (b : Byte) : Dy :=
  let e := b.toNat / 8 % 16
  let f := b.toNat % 8
  let m : Nat := if e = 0 then f else 8 + f
  ⟨if b.getLsbD 7 then -(m : Int) else m, (if e = 0 then 1 else e : Nat) - 10⟩
def e4m3IsNaN (b : Byte) : Bool := b.toNat % 128 = 127

/-- Nearest integer, ties away from zero (R76, R129, R131). -/
def nearestAway (q : Rat) : Int :=
  if 0 ≤ q then (q + 1 / 2).floor else -((-q + 1 / 2).floor)

/-- num / den rounded to the nearest integer, ties away from zero. -/
def roundAway (num : Int) (den : Nat) : Int :=
  let q : Int := (2 * num.natAbs + den) / (2 * den)
  if num < 0 then -q else q

end Sys2Proof.Machine
end

