-- ==== Sys2Proof/Machine/RegMap.lean ====
section
/-! DEFINITION. The register map (R465, R470, R474, R481): every register of BAR0 with its address,
instances, fields, access codes, field classes and reset values, written from the register tables of
the chapters that R481 names. The constant of a field is BLOCK_REG_FIELD. -/
namespace Sys2Proof.Machine

/-- A register field (R8): the BAR0 address of the register in instance 0 of its block, and its bits. -/
structure Fld where
  addr : Nat
  hi : Nat
  lo : Nat
  deriving DecidableEq, Repr

/-- The access codes of R12. -/
inductive Access where
  | ro | rw | rws | w1c | w1s
  deriving DecidableEq, Repr

/-- The field classes of R15; `bank` is the MON_SEQ class: frozen while the entry's bank is active (R154). -/
inductive FieldClass where
  | none | live | boundary | frozen | bank
  deriving DecidableEq, Repr

/-- One field of a register table. -/
structure FieldDef where
  fld : Fld
  acc : Access
  cls : FieldClass
  reset : Nat
  deriving DecidableEq, Repr

/-- The blocks of R465. -/
inductive Block where
  | glb | tb | mon | asz | thm | pwr | lnk | fab | stk | sec | ld | rqt | rtv | inj | core | eng | mxu | rtr | pw | linj
  deriving DecidableEq, Repr

/-- One register: `cnt` copies 4 bytes apart from `addr` (instance 0 of the block), whether the
register is covered (R474), slow (R471) or wide (R470), and its fields. -/
structure RegDef where
  name : String
  addr : Nat
  cnt : Nat
  blk : Block
  covered : Bool
  slow : Bool
  wide : Bool
  fields : List FieldDef
  deriving DecidableEq, Repr


/-! ### Fields of R69 (02_engine_array.md) -/
def ENG_STAT_SEL_REFUSED : Fld := ⟨0x1001000, 11, 11⟩
def ENG_STAT_PROG_TIER : Fld := ⟨0x1001000, 10, 8⟩
def ENG_STAT_PROG : Fld := ⟨0x1001000, 7, 7⟩
def ENG_STAT_EXACT : Fld := ⟨0x1001000, 6, 6⟩
def ENG_STAT_LIVE_TIER : Fld := ⟨0x1001000, 5, 3⟩
def ENG_STAT_LIVE : Fld := ⟨0x1001000, 2, 2⟩
def ENG_STAT_SUBST : Fld := ⟨0x1001000, 1, 1⟩
def ENG_STAT_RUNNING : Fld := ⟨0x1001000, 0, 0⟩
def ENG_WIT_CFG_TOL : Fld := ⟨0x1001010, 4, 0⟩
def ENG_WIT_CNT_COUNT : Fld := ⟨0x1001014, 31, 0⟩
def ENG_SKIP_CNT_COUNT : Fld := ⟨0x1001018, 31, 0⟩
def ENG_SEL_REFUSE_COUNT : Fld := ⟨0x100101C, 31, 0⟩
def ENG_IN_FLAG_SCALE_NAN : Fld := ⟨0x1001020, 2, 2⟩
def ENG_IN_FLAG_INF_IN : Fld := ⟨0x1001020, 1, 1⟩
def ENG_IN_FLAG_NAN_IN : Fld := ⟨0x1001020, 0, 0⟩

/-! ### Fields of R94 (03_segment_conversion.md) -/
def ENG_RET_BANDS : Fld := ⟨0x1001030, 31, 0⟩
def ENG_CONV_SAT_COUNT : Fld := ⟨0x1001034, 31, 0⟩
def ENG_RES_CNT_COUNT : Fld := ⟨0x1001038, 31, 0⟩
def ENG_MERGE_LATE_COUNT : Fld := ⟨0x100103C, 31, 0⟩
def ENG_OUT_FLAG_RES_ERR : Fld := ⟨0x1001040, 2, 2⟩
def ENG_OUT_FLAG_MERGE_LATE : Fld := ⟨0x1001040, 1, 1⟩
def ENG_OUT_FLAG_OVF : Fld := ⟨0x1001040, 0, 0⟩
def ENG_CONV_CFG_DITHER_OFF : Fld := ⟨0x1001044, 0, 0⟩

/-! ### Fields of R120 (04_formats_widening.md) -/
def ENG_OL_CNT_COUNT : Fld := ⟨0x1001050, 31, 0⟩
def ENG_OL_OVF_COUNT : Fld := ⟨0x1001054, 31, 0⟩
def ENG_CRUSH_TRIG_COUNT : Fld := ⟨0x1001058, 31, 0⟩
def ENG_OVR_CNT_COUNT : Fld := ⟨0x100105C, 31, 0⟩
def ENG_WIDEN_CNT_A8 : Fld := ⟨0x1001060, 31, 16⟩
def ENG_WIDEN_CNT_A6 : Fld := ⟨0x1001060, 15, 0⟩
def ENG_CLAMP_CNT_COUNT : Fld := ⟨0x1001064, 31, 0⟩
def ENG_WD_FLAG_CLAMP : Fld := ⟨0x1001068, 2, 2⟩
def ENG_WD_FLAG_OVR : Fld := ⟨0x1001068, 1, 1⟩
def ENG_WD_FLAG_OL_OVF : Fld := ⟨0x1001068, 0, 0⟩

/-! ### Fields of R121 (04_formats_widening.md) -/
def TB_PREC_CNT_COUNT : Fld := ⟨0x0001300, 31, 0⟩
def TB_PREC_THR_THRESH : Fld := ⟨0x0001304, 31, 0⟩
def TB_PREC_RUN_RUN : Fld := ⟨0x0001308, 3, 0⟩
def TB_PREC_STAT_NO_VARIANT : Fld := ⟨0x000130C, 1, 1⟩
def TB_PREC_STAT_REQ_RAISED : Fld := ⟨0x000130C, 0, 0⟩

/-! ### Fields of R152 (05_assize_calibration.md) -/
def ASZ_STAT_REF_DISTRUST : Fld := ⟨0x0140000, 5, 5⟩
def ASZ_STAT_DARK : Fld := ⟨0x0140000, 4, 4⟩
def ASZ_STAT_COLD : Fld := ⟨0x0140000, 3, 3⟩
def ASZ_STAT_FIRST_DONE : Fld := ⟨0x0140000, 2, 2⟩
def ASZ_STAT_FIRST_PASS : Fld := ⟨0x0140000, 1, 1⟩
def ASZ_STAT_RUNNING : Fld := ⟨0x0140000, 0, 0⟩
def ASZ_MODE_STEP : Fld := ⟨0x0140010, 15, 0⟩
def ASZ_MEAS_CNT_COUNT : Fld := ⟨0x0140020, 31, 0⟩
def ASZ_REJ_CNT_COUNT : Fld := ⟨0x0140024, 31, 0⟩
def ASZ_MISS_CNT_COUNT : Fld := ⟨0x0140028, 31, 0⟩
def ASZ_DOUBT_CNT_COUNT : Fld := ⟨0x014002C, 31, 0⟩
def ASZ_TIER_CNT_BEYOND : Fld := ⟨0x0140030, 31, 16⟩
def ASZ_TIER_CNT_ADVISED : Fld := ⟨0x0140030, 15, 0⟩
def ASZ_FRESH_CNT_COUNT : Fld := ⟨0x0140034, 15, 0⟩
def ASZ_TRIM_SEL_TIER : Fld := ⟨0x0140040, 26, 24⟩
def ASZ_TRIM_SEL_CONV : Fld := ⟨0x0140040, 23, 18⟩
def ASZ_TRIM_SEL_BAND : Fld := ⟨0x0140040, 17, 13⟩
def ASZ_TRIM_SEL_ENG : Fld := ⟨0x0140040, 12, 10⟩
def ASZ_TRIM_SEL_CORE : Fld := ⟨0x0140040, 9, 0⟩
def ASZ_TRIM_DATA_G : Fld := ⟨0x0140044, 23, 10⟩
def ASZ_TRIM_DATA_O : Fld := ⟨0x0140044, 9, 0⟩
def ASZ_DRIFT_DATA_K_APPLIED : Fld := ⟨0x0140048, 27, 16⟩
def ASZ_DRIFT_DATA_K_AGE : Fld := ⟨0x0140048, 11, 0⟩
def ASZ_TEMPCO_DATA_LAST_T : Fld := ⟨0x014004C, 31, 16⟩
def ASZ_TEMPCO_DATA_KAPPA : Fld := ⟨0x014004C, 15, 0⟩
def ASZ_FORCE_ROUND : Fld := ⟨0x0140050, 0, 0⟩

/-! ### Fields of R153 (05_assize_calibration.md) -/
def ENG_ASZ_STAT_GROUP : Fld := ⟨0x1001070, 15, 12⟩
def ENG_ASZ_STAT_STEP : Fld := ⟨0x1001070, 11, 11⟩
def ENG_ASZ_STAT_SENSOR_DARK : Fld := ⟨0x1001070, 10, 10⟩
def ENG_ASZ_STAT_LAST_REJ : Fld := ⟨0x1001070, 9, 7⟩
def ENG_ASZ_STAT_REJ_RUN : Fld := ⟨0x1001070, 6, 5⟩
def ENG_ASZ_STAT_DOUBTFUL : Fld := ⟨0x1001070, 4, 4⟩
def ENG_ASZ_STAT_FIRST_DONE : Fld := ⟨0x1001070, 3, 3⟩
def ENG_TIER_ADV_BEYOND : Fld := ⟨0x1001074, 23, 16⟩
def ENG_TIER_ADV_ADVISED : Fld := ⟨0x1001074, 15, 8⟩
def ENG_TIER_ADV_FRESH : Fld := ⟨0x1001074, 7, 0⟩
def ENG_TRIM_REJ_COUNT : Fld := ⟨0x1001078, 31, 0⟩
def ENG_CAL_MISS_COUNT : Fld := ⟨0x100107C, 31, 0⟩

/-! ### Fields of R154 (05_assize_calibration.md) -/
def MON_CTRL_SW_RD_EN : Fld := ⟨0x0100000, 3, 3⟩
def MON_CTRL_BANK : Fld := ⟨0x0100000, 2, 2⟩
def MON_CTRL_REF_EN : Fld := ⟨0x0100000, 1, 1⟩
def MON_CTRL_RUN : Fld := ⟨0x0100000, 0, 0⟩
def MON_STAT_TB_VALID : Fld := ⟨0x0100004, 5, 5⟩
def MON_STAT_RUNNING : Fld := ⟨0x0100004, 4, 4⟩
def MON_STAT_REF_FAIL : Fld := ⟨0x0100004, 3, 3⟩
def MON_STAT_OVR : Fld := ⟨0x0100004, 2, 2⟩
def MON_STAT_BANK_ACTIVE : Fld := ⟨0x0100004, 1, 1⟩
def MON_STAT_REF_SETTLED : Fld := ⟨0x0100004, 0, 0⟩
def MON_WR_PTR_INDEX : Fld := ⟨0x0100008, 13, 0⟩
def MON_RD_PTR_INDEX : Fld := ⟨0x010000C, 13, 0⟩
def MON_OVR_CNT_COUNT : Fld := ⟨0x0100010, 31, 0⟩
def MON_TB_SEL_CAPTURE : Fld := ⟨0x0100020, 31, 31⟩
def MON_TB_SEL_STD : Fld := ⟨0x0100020, 30, 28⟩
def MON_TB_SEL_TIER : Fld := ⟨0x0100020, 27, 25⟩
def MON_TB_SEL_CONV : Fld := ⟨0x0100020, 24, 19⟩
def MON_TB_SEL_BAND : Fld := ⟨0x0100020, 18, 14⟩
def MON_TB_SEL_ENG : Fld := ⟨0x0100020, 13, 11⟩
def MON_TB_SEL_CORE : Fld := ⟨0x0100020, 9, 0⟩
def MON_SEQ0_END : Fld := ⟨0x0100400, 15, 15⟩
def MON_SEQ0_TAG : Fld := ⟨0x0100400, 11, 8⟩
def MON_SEQ0_AVG : Fld := ⟨0x0100400, 7, 7⟩
def MON_SEQ0_CHANNEL : Fld := ⟨0x0100400, 6, 0⟩
def MON_SEQ1_END : Fld := ⟨0x0100600, 15, 15⟩
def MON_SEQ1_TAG : Fld := ⟨0x0100600, 11, 8⟩
def MON_SEQ1_AVG : Fld := ⟨0x0100600, 7, 7⟩
def MON_SEQ1_CHANNEL : Fld := ⟨0x0100600, 6, 0⟩
def MON_COEF_GAIN : Fld := ⟨0x0100800, 31, 16⟩
def MON_COEF_OFFSET : Fld := ⟨0x0100800, 15, 0⟩

/-! ### Fields of R175 (06_core_and_stacks.md) -/
def CORE_STAT_LOGICAL : Fld := ⟨0x1000000, 25, 16⟩
def CORE_STAT_REGION : Fld := ⟨0x1000000, 15, 12⟩
def CORE_STAT_FENCED : Fld := ⟨0x1000000, 3, 3⟩
def CORE_STAT_SPARE : Fld := ⟨0x1000000, 2, 2⟩
def CORE_STAT_MAPPED : Fld := ⟨0x1000000, 1, 1⟩
def CORE_STAT_RUNNING : Fld := ⟨0x1000000, 0, 0⟩
def CS_CE_CNT_COUNT : Fld := ⟨0x1000010, 31, 0⟩
def CS_UE_CNT_COUNT : Fld := ⟨0x1000014, 31, 0⟩
def CS_RESTORE_CNT_COUNT : Fld := ⟨0x1000018, 31, 0⟩
def CS_FLAG_UE : Fld := ⟨0x100001C, 1, 1⟩
def CS_FLAG_CE : Fld := ⟨0x100001C, 0, 0⟩
def MXU_RES_CNT_COUNT : Fld := ⟨0x1009000, 31, 0⟩
def MXU_FLAG_RES_ERR : Fld := ⟨0x1009004, 2, 2⟩
def MXU_FLAG_BAD_IN : Fld := ⟨0x1009004, 1, 1⟩
def MXU_FLAG_OVF : Fld := ⟨0x1009004, 0, 0⟩

/-! ### Fields of R176 (06_core_and_stacks.md) -/
def PW_HIT_COUNT : Fld := ⟨0x100B000, 31, 0⟩
def PW_MISS_COUNT : Fld := ⟨0x100B004, 31, 0⟩
def PW_ABSENT_COUNT : Fld := ⟨0x100B008, 31, 0⟩
def PW_GEN_ERR_COUNT : Fld := ⟨0x100B00C, 31, 0⟩
def STK_STAT_HOT : Fld := ⟨0x0300000, 2, 2⟩
def STK_STAT_LINK_UP : Fld := ⟨0x0300000, 1, 1⟩
def STK_STAT_IN_SERVICE : Fld := ⟨0x0300000, 0, 0⟩
def STK_CE_CNT_COUNT : Fld := ⟨0x0300010, 31, 0⟩
def STK_UE_CNT_COUNT : Fld := ⟨0x0300014, 31, 0⟩
def STK_RETRY_CNT_COUNT : Fld := ⟨0x0300018, 31, 0⟩
def STK_REFUSE_CNT_COUNT : Fld := ⟨0x030001C, 31, 0⟩
def STK_LINES_COUNT : Fld := ⟨0x0300020, 31, 0⟩
def STK_TEMP_TEMP : Fld := ⟨0x0300024, 15, 0⟩

/-! ### Fields of R216 (07_time_and_schedule.md) -/
def TB_STAT_TIME_FAIL : Fld := ⟨0x0001000, 6, 6⟩
def TB_STAT_HOLDOVER : Fld := ⟨0x0001000, 5, 5⟩
def TB_STAT_REFCLK_HOLD : Fld := ⟨0x0001000, 4, 4⟩
def TB_STAT_FRAME_OK : Fld := ⟨0x0001000, 3, 3⟩
def TB_STAT_COUNT_VALID : Fld := ⟨0x0001000, 2, 2⟩
def TB_STAT_REF_LOCK : Fld := ⟨0x0001000, 1, 1⟩
def TB_STAT_RUNNING : Fld := ⟨0x0001000, 0, 0⟩
def TB_FAULT_PEER_TIME : Fld := ⟨0x0001004, 5, 5⟩
def TB_FAULT_REFCLK_LOSS : Fld := ⟨0x0001004, 4, 4⟩
def TB_FAULT_FRAME_MISMATCH : Fld := ⟨0x0001004, 3, 3⟩
def TB_FAULT_FRAME_BAD : Fld := ⟨0x0001004, 2, 2⟩
def TB_FAULT_FMARK_MISS : Fld := ⟨0x0001004, 1, 1⟩
def TB_FAULT_FMARK_EDGE : Fld := ⟨0x0001004, 0, 0⟩
def TB_FRAME_ERR_COUNT : Fld := ⟨0x0001008, 31, 0⟩
def TB_EDGE_ERR_COUNT : Fld := ⟨0x000100C, 31, 0⟩
def TB_ROD_COUNT : Fld := ⟨0x0001040, 47, 0⟩
def TB_VAR_AT_ROD : Fld := ⟨0x0001048, 47, 0⟩
def TB_LATE_CNT_COUNT : Fld := ⟨0x0001100, 31, 0⟩
def TB_STALE_CNT_COUNT : Fld := ⟨0x0001104, 31, 0⟩
def TB_VOID_CNT_COUNT : Fld := ⟨0x0001108, 31, 0⟩
def TB_OVERRUN_CNT_COUNT : Fld := ⟨0x000110C, 31, 0⟩
def TB_SKIP_FRAC_FRAC : Fld := ⟨0x0001200, 6, 0⟩
def TB_SKIP_CYC_COUNT : Fld := ⟨0x0001204, 31, 0⟩
def TB_SLACK_MIN_CYCLES : Fld := ⟨0x0001208, 16, 0⟩
def TB_VAR_STAT_PENDING : Fld := ⟨0x0001280, 15, 15⟩
def TB_VAR_STAT_PENDING_VAR : Fld := ⟨0x0001280, 14, 12⟩
def TB_VAR_STAT_IN_FORCE : Fld := ⟨0x0001280, 10, 8⟩
def TB_VAR_STAT_REFUSED : Fld := ⟨0x0001280, 0, 0⟩
def TB_VAR_REQ_REQ : Fld := ⟨0x0001284, 31, 31⟩
def TB_VAR_REQ_VAR : Fld := ⟨0x0001284, 2, 0⟩
def TB_VAR_ADMIT_A8_VALID : Fld := ⟨0x0001288, 19, 19⟩
def TB_VAR_ADMIT_A8_VAR : Fld := ⟨0x0001288, 18, 16⟩
def TB_VAR_ADMIT_PRESENT : Fld := ⟨0x0001288, 15, 8⟩
def TB_VAR_ADMIT_ADMITTED : Fld := ⟨0x0001288, 7, 0⟩
def TB_ADM_STAT_ITEM : Fld := ⟨0x0001290, 31, 16⟩
def TB_ADM_STAT_CODE : Fld := ⟨0x0001290, 15, 8⟩
def TB_ADM_STAT_STATE : Fld := ⟨0x0001290, 2, 0⟩
def TB_ADM_CNT_FAILED : Fld := ⟨0x0001294, 31, 16⟩
def TB_ADM_CNT_RUNS : Fld := ⟨0x0001294, 15, 0⟩

/-! ### Fields of R217 (07_time_and_schedule.md) -/
def SEQ_LATE_CNT_COUNT : Fld := ⟨0x1000040, 31, 0⟩
def SEQ_STALE_CNT_COUNT : Fld := ⟨0x1000044, 31, 0⟩
def SEQ_OVERRUN_CNT_COUNT : Fld := ⟨0x1000048, 31, 0⟩
def SEQ_SKIP_CYC_CYCLES : Fld := ⟨0x100004C, 16, 0⟩

/-! ### Fields of R233 (08_on_die_network.md) -/
def RTR_STAT_REGION : Fld := ⟨0x100A000, 11, 8⟩
def RTR_STAT_ATTACH : Fld := ⟨0x100A000, 7, 7⟩
def RTR_STAT_DOMAIN_FAULT : Fld := ⟨0x100A000, 6, 6⟩
def RTR_STAT_B_FAULTY : Fld := ⟨0x100A000, 5, 5⟩
def RTR_STAT_A_FAULTY : Fld := ⟨0x100A000, 4, 4⟩
def RTR_STAT_BOUNDARY : Fld := ⟨0x100A000, 3, 3⟩
def RTR_STAT_EDGE : Fld := ⟨0x100A000, 2, 2⟩
def RTR_STAT_CORE_OFF : Fld := ⟨0x100A000, 1, 1⟩
def RTR_STAT_FORWARDING : Fld := ⟨0x100A000, 0, 0⟩
def RTR_CHK_ERR_COUNT : Fld := ⟨0x100A010, 31, 0⟩
def RTR_XDROP_COUNT : Fld := ⟨0x100A014, 31, 0⟩
def RTR_LOCAL_DROP_COUNT : Fld := ⟨0x100A018, 31, 0⟩
def RTR_DETOUR_CNT_COUNT : Fld := ⟨0x100A01C, 31, 0⟩
def RTR_LOAD_A_FLITS : Fld := ⟨0x100A020, 15, 0⟩
def RTR_LOAD_B_FLITS : Fld := ⟨0x100A024, 15, 0⟩
def RTR_FLAG_NO_ROUTE : Fld := ⟨0x100A030, 3, 3⟩
def RTR_FLAG_LOCAL_DROP : Fld := ⟨0x100A030, 2, 2⟩
def RTR_FLAG_XDROP : Fld := ⟨0x100A030, 1, 1⟩
def RTR_FLAG_CHK_ERR : Fld := ⟨0x100A030, 0, 0⟩
def RTR_CTRL_MARK_B : Fld := ⟨0x100A040, 1, 1⟩
def RTR_CTRL_MARK_A : Fld := ⟨0x100A040, 0, 0⟩

/-! ### Fields of R261 (09_fabric.md) -/
def LNK_STAT_PARTNER_REV : Fld := ⟨0x0200000, 31, 24⟩
def LNK_STAT_PLAN : Fld := ⟨0x0200000, 19, 17⟩
def LNK_STAT_SWAPPED : Fld := ⟨0x0200000, 16, 16⟩
def LNK_STAT_LOGICAL : Fld := ⟨0x0200000, 15, 10⟩
def LNK_STAT_LOST : Fld := ⟨0x0200000, 9, 9⟩
def LNK_STAT_REDUCED : Fld := ⟨0x0200000, 8, 8⟩
def LNK_STAT_WIDTH : Fld := ⟨0x0200000, 7, 4⟩
def LNK_STAT_FIRST : Fld := ⟨0x0200000, 3, 3⟩
def LNK_STAT_STATE : Fld := ⟨0x0200000, 2, 0⟩
def LNK_PARTNER_PORT : Fld := ⟨0x0200004, 15, 10⟩
def LNK_PARTNER_GROUP : Fld := ⟨0x0200004, 9, 6⟩
def LNK_PARTNER_MODULE : Fld := ⟨0x0200004, 5, 0⟩
def LNK_PARTNER_ID_ID : Fld := ⟨0x0200040, 63, 0⟩
def LNK_CTRL_RETRAIN : Fld := ⟨0x0200010, 1, 1⟩
def LNK_CTRL_DISABLE : Fld := ⟨0x0200010, 0, 0⟩
def LNK_FEC_CORR_COUNT : Fld := ⟨0x0200020, 31, 0⟩
def LNK_FEC_UNCORR_COUNT : Fld := ⟨0x0200024, 31, 0⟩
def LNK_TAG_ERR_COUNT : Fld := ⟨0x0200028, 31, 0⟩
def LNK_REV_REFUSE_COUNT : Fld := ⟨0x020002C, 31, 0⟩
def LNK_DROP_COUNT : Fld := ⟨0x0200030, 31, 0⟩
def LNK_HB_MISS_COUNT : Fld := ⟨0x0200034, 31, 0⟩
def LNK_FRAMES_RX : Fld := ⟨0x0200038, 31, 16⟩
def LNK_FRAMES_TX : Fld := ⟨0x0200038, 15, 0⟩
def LNK_FLAG_PLAN_FAIL : Fld := ⟨0x020003C, 3, 3⟩
def LNK_FLAG_LOSS : Fld := ⟨0x020003C, 2, 2⟩
def LNK_FLAG_TAG_RUN : Fld := ⟨0x020003C, 1, 1⟩
def LNK_FLAG_REV : Fld := ⟨0x020003C, 0, 0⟩

/-! ### Fields of R262 (09_fabric.md) -/
def FAB_COORD_MISMATCH : Fld := ⟨0x0202000, 19, 19⟩
def FAB_COORD_VALID : Fld := ⟨0x0202000, 18, 18⟩
def FAB_COORD_RACK : Fld := ⟨0x0202000, 17, 10⟩
def FAB_COORD_GROUP : Fld := ⟨0x0202000, 9, 6⟩
def FAB_COORD_SLOT : Fld := ⟨0x0202000, 5, 0⟩
def FAB_SELF_REV : Fld := ⟨0x0202004, 25, 18⟩
def FAB_SELF_NCOMPAT : Fld := ⟨0x0202004, 17, 14⟩
def FAB_SELF_GROUP : Fld := ⟨0x0202004, 9, 6⟩
def FAB_SELF_MODULE : Fld := ⟨0x0202004, 5, 0⟩
def FAB_SB_SEEN_COUNT : Fld := ⟨0x0202010, 31, 0⟩
def FAB_SB_DROP_COUNT : Fld := ⟨0x0202014, 31, 0⟩
def FAB_LOSS_CNT_COUNT : Fld := ⟨0x0202018, 31, 0⟩
def FAB_SB_QUEUE_DEPTH : Fld := ⟨0x020201C, 7, 0⟩

/-! ### Fields of R284 (10_expert_routing.md) -/
def DSP_OFFER_CNT_COUNT : Fld := ⟨0x1000080, 31, 0⟩
def DSP_GRANT_CNT_COUNT : Fld := ⟨0x1000084, 31, 0⟩
def DSP_DROP_CNT_COUNT : Fld := ⟨0x1000088, 31, 0⟩
def DSP_DROP_FIRST_COUNT : Fld := ⟨0x100008C, 31, 0⟩
def DSP_SKIP_CNT_COUNT : Fld := ⟨0x1000090, 31, 0⟩
def DSP_STALE_CNT_COUNT : Fld := ⟨0x1000094, 31, 0⟩
def CMB_STALE_CNT_COUNT : Fld := ⟨0x1000098, 31, 0⟩
def CMB_TAG_ERR_COUNT : Fld := ⟨0x100009C, 31, 0⟩
def CMB_VOID_CNT_COUNT : Fld := ⟨0x10000A0, 31, 0⟩
def DSP_LAST_DROPPED : Fld := ⟨0x10000A4, 31, 16⟩
def DSP_LAST_OFFERED : Fld := ⟨0x10000A4, 15, 0⟩
def DSP_FLAG_TAG_ERR : Fld := ⟨0x10000A8, 3, 3⟩
def DSP_FLAG_STALE : Fld := ⟨0x10000A8, 2, 2⟩
def DSP_FLAG_ABSENT : Fld := ⟨0x10000A8, 1, 1⟩
def DSP_FLAG_BAD_LOGIT : Fld := ⟨0x10000A8, 0, 0⟩

/-! ### Fields of R312 (11_attention_kv.md) -/
def ATT_SPAN_CNT_COUNT : Fld := ⟨0x10000C0, 31, 0⟩
def ATT_FOLD_CNT_COUNT : Fld := ⟨0x10000C4, 31, 0⟩
def ATT_KV_BAD_COUNT : Fld := ⟨0x10000C8, 31, 0⟩
def ATT_PAIR_CNT_COUNT : Fld := ⟨0x10000CC, 31, 0⟩
def ATT_ROLE_HEAD : Fld := ⟨0x10000D0, 23, 20⟩
def ATT_ROLE_LANE : Fld := ⟨0x10000D0, 19, 14⟩
def ATT_ROLE_LAYER : Fld := ⟨0x10000D0, 13, 8⟩
def ATT_ROLE_ROLE : Fld := ⟨0x10000D0, 1, 0⟩
def ATT_HELD_PAUSED : Fld := ⟨0x10000D4, 31, 16⟩
def ATT_HELD_HELD : Fld := ⟨0x10000D4, 15, 0⟩
def ATT_FLAG_RING_VOID : Fld := ⟨0x10000D8, 3, 3⟩
def ATT_FLAG_PAGE_EXC : Fld := ⟨0x10000D8, 2, 2⟩
def ATT_FLAG_SCORE_NAN : Fld := ⟨0x10000D8, 1, 1⟩
def ATT_FLAG_KV_BAD : Fld := ⟨0x10000D8, 0, 0⟩

/-! ### Fields of R345 (12_request_serving.md) -/
def RQT_STAT_SEATS_FREE : Fld := ⟨0x0480000, 29, 16⟩
def RQT_STAT_LIVE : Fld := ⟨0x0480000, 15, 2⟩
def RQT_STAT_ENTRY : Fld := ⟨0x0480000, 1, 1⟩
def RQT_STAT_RUNNING : Fld := ⟨0x0480000, 0, 0⟩
def RQT_CTRL_INTAKE_EN : Fld := ⟨0x0480004, 0, 0⟩
def RQT_FLAG_TABLE_LATE : Fld := ⟨0x0480008, 4, 4⟩
def RQT_FLAG_VOID_LIMIT : Fld := ⟨0x0480008, 3, 3⟩
def RQT_FLAG_EG_STALL : Fld := ⟨0x0480008, 2, 2⟩
def RQT_FLAG_HOST_FETCH : Fld := ⟨0x0480008, 1, 1⟩
def RQT_FLAG_REFUSED : Fld := ⟨0x0480008, 0, 0⟩
def RQT_LAST_REFUSE_CODE : Fld := ⟨0x048000C, 7, 0⟩
def RQT_ADMIT_CNT_COUNT : Fld := ⟨0x0480010, 31, 0⟩
def RQT_REFUSE_CNT_COUNT : Fld := ⟨0x0480014, 31, 0⟩
def RQT_DONE_CNT_COUNT : Fld := ⟨0x0480018, 31, 0⟩
def RQT_CANCEL_CNT_COUNT : Fld := ⟨0x048001C, 31, 0⟩
def RQT_CTRL_MISS_COUNT : Fld := ⟨0x0480020, 31, 0⟩
def RQT_DRAFT_CNT_COUNT : Fld := ⟨0x0480024, 31, 0⟩
def RQT_DRAFT_ACC_COUNT : Fld := ⟨0x0480028, 31, 0⟩
def RQT_DRAFT_DISC_COUNT : Fld := ⟨0x048002C, 31, 0⟩
def RQT_EG_STALL_COUNT : Fld := ⟨0x0480030, 31, 0⟩
def RQT_LANE_PAUSE_COUNT : Fld := ⟨0x0480034, 31, 0⟩
def RQT_SMP_BAD_COUNT : Fld := ⟨0x0480038, 31, 0⟩
def RQT_TOPP_TRUNC_COUNT : Fld := ⟨0x048003C, 31, 0⟩
def RQT_SEL_SLOT : Fld := ⟨0x0480040, 12, 0⟩
def RQT_IRQ_CFG_ENABLE : Fld := ⟨0x0480044, 15, 15⟩
def RQT_IRQ_CFG_MIN : Fld := ⟨0x0480044, 14, 8⟩
def RQT_IRQ_CFG_VECTOR : Fld := ⟨0x0480044, 3, 0⟩
def RQT_ENTRY_ENTRY : Fld := ⟨0x0480080, 511, 0⟩
def RQT_IN_IDX_INDEX : Fld := ⟨0x0480100, 31, 0⟩
def RQT_EG_IDX_INDEX : Fld := ⟨0x0480104, 31, 0⟩
def RQT_EG_CREDIT_INDEX : Fld := ⟨0x0480108, 31, 0⟩

/-! ### Fields of R373 (13_weights_adapters.md) -/
def LD_CTRL_ABORT : Fld := ⟨0x0400800, 1, 1⟩
def LD_CTRL_START : Fld := ⟨0x0400800, 0, 0⟩
def LD_STAT_FAIL_CODE : Fld := ⟨0x0400804, 31, 24⟩
def LD_STAT_FAILED : Fld := ⟨0x0400804, 2, 2⟩
def LD_STAT_DONE : Fld := ⟨0x0400804, 1, 1⟩
def LD_STAT_BUSY : Fld := ⟨0x0400804, 0, 0⟩
def LD_MAN_LO_VALUE : Fld := ⟨0x0400808, 31, 0⟩
def LD_MAN_HI_VALUE : Fld := ⟨0x040080C, 31, 0⟩
def LD_MAN_LEN_VALUE : Fld := ⟨0x0400810, 31, 0⟩
def LD_CHUNK_DONE_COUNT : Fld := ⟨0x0400814, 31, 0⟩
def LD_TILE_DONE_COUNT : Fld := ⟨0x0400818, 31, 0⟩
def LD_EPOCH_CUR_EPOCH : Fld := ⟨0x0400820, 31, 0⟩
def LD_EPOCH_PREV_EPOCH : Fld := ⟨0x0400824, 31, 0⟩
def LD_EPOCH_PEND_EPOCH : Fld := ⟨0x0400828, 31, 0⟩
def LD_FLIP_REQ : Fld := ⟨0x0400830, 31, 31⟩
def LD_FLIP_STAT_NOT_READY : Fld := ⟨0x0400834, 4, 4⟩
def LD_FLIP_STAT_REFUSED : Fld := ⟨0x0400834, 3, 3⟩
def LD_FLIP_STAT_PREV_HELD : Fld := ⟨0x0400834, 2, 2⟩
def LD_FLIP_STAT_PENDING : Fld := ⟨0x0400834, 1, 1⟩
def LD_FLIP_STAT_READY : Fld := ⟨0x0400834, 0, 0⟩
def LD_FAIL_CNT_COUNT : Fld := ⟨0x0400840, 31, 0⟩
def ADP_LOAD_CNT_COUNT : Fld := ⟨0x0400844, 31, 0⟩
def ADP_VOID_CNT_COUNT : Fld := ⟨0x0400848, 31, 0⟩
def ADP_SLOTS_PINNED : Fld := ⟨0x040084C, 31, 16⟩
def ADP_SLOTS_FREE : Fld := ⟨0x040084C, 15, 0⟩

/-! ### Fields of R374 (13_weights_adapters.md) -/
def ENG_TIER_ROLE_ROLES : Fld := ⟨0x1001080, 23, 0⟩
def ENG_PROG_RETRY_COUNT : Fld := ⟨0x1001084, 31, 0⟩
def ENG_EPOCH_SEL_TIER : Fld := ⟨0x1001088, 2, 0⟩
def ENG_EPOCH_DATA_EPOCH : Fld := ⟨0x100108C, 31, 0⟩
def ENG_PROG_CNT_COUNT : Fld := ⟨0x1001090, 16, 0⟩

/-! ### Fields of R394 (14_trust.md) -/
def SEC_STAT_ENG_SAMPLE : Fld := ⟨0x0400000, 9, 9⟩
def SEC_STAT_SPDM_SESSION : Fld := ⟨0x0400000, 8, 8⟩
def SEC_STAT_IDE_STREAMS : Fld := ⟨0x0400000, 7, 6⟩
def SEC_STAT_TDI_STATE : Fld := ⟨0x0400000, 5, 4⟩
def SEC_STAT_UNSEALED : Fld := ⟨0x0400000, 3, 3⟩
def SEC_STAT_KEY_RELEASED : Fld := ⟨0x0400000, 2, 2⟩
def SEC_STAT_IMAGE_OK : Fld := ⟨0x0400000, 1, 1⟩
def SEC_STAT_RUNNING : Fld := ⟨0x0400000, 0, 0⟩
def SEC_VIOL_MMIO_NT : Fld := ⟨0x0400010, 6, 6⟩
def SEC_VIOL_WDOG : Fld := ⟨0x0400010, 5, 5⟩
def SEC_VIOL_TABLE_WRITE : Fld := ⟨0x0400010, 4, 4⟩
def SEC_VIOL_THERMAL_WRITE : Fld := ⟨0x0400010, 3, 3⟩
def SEC_VIOL_KEY_ACCESS : Fld := ⟨0x0400010, 2, 2⟩
def SEC_VIOL_RATE : Fld := ⟨0x0400010, 1, 1⟩
def SEC_VIOL_DMA_WINDOW : Fld := ⟨0x0400010, 0, 0⟩
def SEC_VIOL_CNT_COUNT : Fld := ⟨0x0400014, 31, 0⟩
def SEC_IDE_ERR_COUNT : Fld := ⟨0x0400018, 31, 0⟩
def SEC_REPORT_CNT_COUNT : Fld := ⟨0x040001C, 31, 0⟩
def SEC_REL_REFUSE_COUNT : Fld := ⟨0x0400020, 31, 0⟩
def SEC_REL_STAT_LAST_CODE : Fld := ⟨0x0400024, 7, 0⟩
def SEC_WDOG_LEFT : Fld := ⟨0x0400030, 16, 1⟩
def SEC_WDOG_KICK : Fld := ⟨0x0400030, 0, 0⟩
def SEC_DIE_ID_ID : Fld := ⟨0x0400040, 63, 0⟩

/-! ### Fields of R424 (15_faults_failover.md) -/
def INJ_CTRL_CONTAIN : Fld := ⟨0x04F0000, 2, 2⟩
def INJ_CTRL_ARM : Fld := ⟨0x04F0000, 1, 1⟩
def INJ_CTRL_ENABLE : Fld := ⟨0x04F0000, 0, 0⟩
def INJ_SEL_POINT : Fld := ⟨0x04F0004, 31, 24⟩
def INJ_SEL_CORE : Fld := ⟨0x04F0004, 23, 14⟩
def INJ_SEL_UNIT : Fld := ⟨0x04F0004, 13, 8⟩
def INJ_ARG_VALUE : Fld := ⟨0x04F0008, 31, 0⟩
def INJ_STAT_CONTAINED : Fld := ⟨0x04F000C, 2, 2⟩
def INJ_STAT_FIRED : Fld := ⟨0x04F000C, 1, 1⟩
def INJ_STAT_ARMED : Fld := ⟨0x04F000C, 0, 0⟩
def INJ_HIT_COUNT : Fld := ⟨0x04F0010, 31, 0⟩
def TRAP_CTRL_LOAD : Fld := ⟨0x04F0100, 0, 0⟩
def TRAP_ADDR_LO_VALUE : Fld := ⟨0x04F0104, 31, 0⟩
def TRAP_ADDR_HI_VALUE : Fld := ⟨0x04F0108, 31, 0⟩
def TRAP_LEN_VALUE : Fld := ⟨0x04F010C, 31, 0⟩
def TRAP_STAT_FAIL_CODE : Fld := ⟨0x04F0110, 31, 24⟩
def TRAP_STAT_FAILED : Fld := ⟨0x04F0110, 2, 2⟩
def TRAP_STAT_DONE : Fld := ⟨0x04F0110, 1, 1⟩
def TRAP_STAT_BUSY : Fld := ⟨0x04F0110, 0, 0⟩
def TRAP_VER_VERSION : Fld := ⟨0x04F0114, 31, 0⟩
def FLT_SPARES_FENCED : Fld := ⟨0x04F0120, 19, 10⟩
def FLT_SPARES_SPARES : Fld := ⟨0x04F0120, 9, 0⟩

/-! ### Fields of R425 (15_faults_failover.md) -/
def CORE_FAULT_LAST_DET : Fld := ⟨0x10000E0, 31, 24⟩
def CORE_FAULT_UNTRUSTED : Fld := ⟨0x10000E0, 2, 2⟩
def CORE_FAULT_REPAIR : Fld := ⟨0x10000E0, 1, 1⟩
def CORE_FAULT_FENCE_REQ : Fld := ⟨0x10000E0, 0, 0⟩
def PAT_BEAT_CNT_COUNT : Fld := ⟨0x10000E4, 31, 0⟩
def PAT_FAIL_CNT_COUNT : Fld := ⟨0x10000E8, 31, 0⟩
def PAT_TRANSIENT_COUNT : Fld := ⟨0x10000EC, 31, 0⟩
def FLT_SE_CNT_COUNT : Fld := ⟨0x10000F0, 31, 0⟩
def FLT_QUAR_CNT_COUNT : Fld := ⟨0x10000F4, 31, 0⟩
def LINJ_STAT_POINT : Fld := ⟨0x100F000, 31, 24⟩
def LINJ_STAT_FIRED : Fld := ⟨0x100F000, 1, 1⟩
def LINJ_STAT_ARMED : Fld := ⟨0x100F000, 0, 0⟩

/-! ### Fields of R446 (16_startup_upgrade.md) -/
def GLB_STATE_CAUSE : Fld := ⟨0x0000010, 31, 24⟩
def GLB_STATE_WAIT : Fld := ⟨0x0000010, 19, 16⟩
def GLB_STATE_STEP : Fld := ⟨0x0000010, 15, 12⟩
def GLB_STATE_ADMIT_FAILED : Fld := ⟨0x0000010, 9, 9⟩
def GLB_STATE_STANDBY : Fld := ⟨0x0000010, 8, 8⟩
def GLB_STATE_FLIP_PARITY : Fld := ⟨0x0000010, 7, 7⟩
def GLB_STATE_STATE : Fld := ⟨0x0000010, 1, 0⟩
def GLB_BOOT_WARM : Fld := ⟨0x0000040, 15, 15⟩
def GLB_BOOT_FALLBACK : Fld := ⟨0x0000040, 14, 14⟩
def GLB_BOOT_VERIFY_FAIL : Fld := ⟨0x0000040, 11, 8⟩
def GLB_BOOT_PENDING_ACK : Fld := ⟨0x0000040, 7, 0⟩
def GLB_IMG_VER_VERSION : Fld := ⟨0x0000044, 31, 0⟩
def GLB_UPD_FAIL : Fld := ⟨0x0000048, 11, 8⟩
def GLB_UPD_STATE : Fld := ⟨0x0000048, 3, 0⟩
def GLB_LAST_STOP_TYPE : Fld := ⟨0x000004C, 31, 24⟩
def GLB_LAST_STOP_CAUSE : Fld := ⟨0x000004C, 23, 16⟩
def GLB_ASSIGN_VALID : Fld := ⟨0x0000050, 31, 31⟩
def GLB_ASSIGN_STANDBY : Fld := ⟨0x0000050, 30, 30⟩
def GLB_ASSIGN_PARITY : Fld := ⟨0x0000050, 29, 29⟩
def GLB_ASSIGN_EPOCH_EPOCH : Fld := ⟨0x0000054, 31, 0⟩

/-! ### Fields of R460 (17_retrieval.md) -/
def RTV_STAT_QUEUE : Fld := ⟨0x0480200, 25, 17⟩
def RTV_STAT_RUNNING : Fld := ⟨0x0480200, 16, 16⟩
def RTV_STAT_IN_FORCE : Fld := ⟨0x0480200, 15, 0⟩
def RTV_QUERY_CNT_COUNT : Fld := ⟨0x0480204, 31, 0⟩
def RTV_REFUSE_CNT_COUNT : Fld := ⟨0x0480208, 31, 0⟩
def RTV_VOID_CNT_COUNT : Fld := ⟨0x048020C, 31, 0⟩
def RTV_HIT_CNT_COUNT : Fld := ⟨0x0480210, 31, 0⟩
def RTV_CLAMP_CNT_COUNT : Fld := ⟨0x0480214, 31, 0⟩
def RTV_FLIP_REQ : Fld := ⟨0x0480220, 31, 31⟩
def RTV_FLIP_CORPUS : Fld := ⟨0x0480220, 3, 0⟩
def RTV_FLIP_STAT_PREV_HELD : Fld := ⟨0x0480224, 3, 3⟩
def RTV_FLIP_STAT_REFUSED : Fld := ⟨0x0480224, 2, 2⟩
def RTV_FLIP_STAT_PENDING : Fld := ⟨0x0480224, 1, 1⟩
def RTV_FLIP_STAT_READY : Fld := ⟨0x0480224, 0, 0⟩
def RTV_EPOCH_EPOCH : Fld := ⟨0x0480228, 31, 0⟩
def RTV_EPOCH_PEND_EPOCH : Fld := ⟨0x048022C, 31, 0⟩

/-! ### Fields of R477 (18_registers.md) -/
def GLB_ID_DEVICE : Fld := ⟨0x0000000, 31, 16⟩
def GLB_ID_VENDOR : Fld := ⟨0x0000000, 15, 0⟩
def GLB_REV_STEP_MAJOR : Fld := ⟨0x0000004, 31, 24⟩
def GLB_REV_STEP_MINOR : Fld := ⟨0x0000004, 23, 16⟩
def GLB_REV_ROM : Fld := ⟨0x0000004, 15, 8⟩
def GLB_REV_MAP : Fld := ⟨0x0000004, 7, 0⟩
def GLB_LOCK_BY_TDISP : Fld := ⟨0x0000020, 1, 1⟩
def GLB_LOCK_CFG_SEAL : Fld := ⟨0x0000020, 0, 0⟩
def GLB_FAULT_SUM_ACCESS : Fld := ⟨0x0000030, 15, 15⟩
def GLB_FAULT_SUM_REQUEST : Fld := ⟨0x0000030, 14, 14⟩
def GLB_FAULT_SUM_LOAD : Fld := ⟨0x0000030, 13, 13⟩
def GLB_FAULT_SUM_CHRYSALIS : Fld := ⟨0x0000030, 12, 12⟩
def GLB_FAULT_SUM_ADMIT : Fld := ⟨0x0000030, 11, 11⟩
def GLB_FAULT_SUM_ASSIZE : Fld := ⟨0x0000030, 10, 10⟩
def GLB_FAULT_SUM_MONITOR : Fld := ⟨0x0000030, 9, 9⟩
def GLB_FAULT_SUM_POWER : Fld := ⟨0x0000030, 8, 8⟩
def GLB_FAULT_SUM_THERMAL : Fld := ⟨0x0000030, 7, 7⟩
def GLB_FAULT_SUM_STACK : Fld := ⟨0x0000030, 6, 6⟩
def GLB_FAULT_SUM_LINK : Fld := ⟨0x0000030, 5, 5⟩
def GLB_FAULT_SUM_CORE : Fld := ⟨0x0000030, 4, 4⟩
def GLB_FAULT_SUM_SEC : Fld := ⟨0x0000030, 3, 3⟩
def GLB_FAULT_SUM_WREF : Fld := ⟨0x0000030, 2, 2⟩
def GLB_FAULT_SUM_CFG_CRC : Fld := ⟨0x0000030, 1, 1⟩
def GLB_FAULT_SUM_TIME : Fld := ⟨0x0000030, 0, 0⟩
def GLB_FAULT_MASK_EN : Fld := ⟨0x0000034, 15, 0⟩
def GLB_ACC_ERR_COUNT : Fld := ⟨0x0000038, 31, 16⟩
def GLB_ACC_ERR_CHRYSALIS : Fld := ⟨0x0000038, 2, 2⟩
def GLB_ACC_ERR_PARTIAL : Fld := ⟨0x0000038, 1, 1⟩
def GLB_ACC_ERR_UNMAPPED : Fld := ⟨0x0000038, 0, 0⟩
def WIDE_SEL_ADDR : Fld := ⟨0x0000100, 26, 2⟩
def WIDE_STAT_WORDS : Fld := ⟨0x0000104, 11, 8⟩
def WIDE_STAT_ERR : Fld := ⟨0x0000104, 2, 2⟩
def WIDE_STAT_BUSY : Fld := ⟨0x0000104, 1, 1⟩
def WIDE_STAT_VALID : Fld := ⟨0x0000104, 0, 0⟩
def WIDE_D_DATA : Fld := ⟨0x0000110, 31, 0⟩
def CFG_CRC_CUR_CRC : Fld := ⟨0x0000200, 31, 0⟩
def CFG_CRC_REF_REF : Fld := ⟨0x0000204, 31, 0⟩
def CFG_CRC_CTRL_ALARMS : Fld := ⟨0x0000208, 31, 24⟩
def CFG_CRC_CTRL_OPEN : Fld := ⟨0x0000208, 5, 5⟩
def CFG_CRC_CTRL_MATCH : Fld := ⟨0x0000208, 4, 4⟩
def CFG_CRC_CTRL_ARMED : Fld := ⟨0x0000208, 3, 3⟩
def CFG_CRC_CTRL_ALARM : Fld := ⟨0x0000208, 2, 2⟩
def CFG_CRC_CTRL_ADOPT : Fld := ⟨0x0000208, 1, 1⟩
def CFG_CRC_CTRL_COMMIT : Fld := ⟨0x0000208, 0, 0⟩
def CFG_CRC_INF_REF : Fld := ⟨0x000020C, 31, 0⟩
def CFG_WREF_VALID : Fld := ⟨0x0000210, 31, 31⟩
def CFG_WREF_SEALED : Fld := ⟨0x0000210, 30, 30⟩
def CFG_WREF_SRC : Fld := ⟨0x0000210, 29, 29⟩
def CFG_WREF_ADDR : Fld := ⟨0x0000210, 26, 0⟩
def CFG_WREF_DATA_VALUE : Fld := ⟨0x0000214, 31, 0⟩
def CFG_WREF_CNT_VALUE : Fld := ⟨0x0000218, 31, 0⟩

/-! ### Fields of R478 (18_registers.md) -/
def THM_STAT_DIVIDED : Fld := ⟨0x0180000, 6, 6⟩
def THM_STAT_HEAT : Fld := ⟨0x0180000, 5, 5⟩
def THM_STAT_SKIPPING : Fld := ⟨0x0180000, 4, 4⟩
def THM_STAT_IGNORED : Fld := ⟨0x0180000, 3, 3⟩
def THM_STAT_ASSUMED : Fld := ⟨0x0180000, 2, 2⟩
def THM_STAT_RUNNING : Fld := ⟨0x0180000, 0, 0⟩
def THM_HOT_TEMP : Fld := ⟨0x0180004, 31, 16⟩
def THM_HOT_SENSOR : Fld := ⟨0x0180004, 6, 0⟩
def THM_IGN_LO_MASK : Fld := ⟨0x0180010, 31, 0⟩
def THM_IGN_HI_MASK : Fld := ⟨0x0180014, 31, 0⟩
def THM_IGN_EXT_MASK : Fld := ⟨0x0180018, 31, 0⟩
def THM_SEL_SENSOR : Fld := ⟨0x0180020, 6, 0⟩
def THM_DATA_TEMP : Fld := ⟨0x0180024, 31, 16⟩
def THM_DATA_REASON : Fld := ⟨0x0180024, 9, 8⟩
def THM_SKIP_AT_TEMP : Fld := ⟨0x0180030, 15, 0⟩
def THM_HEAT_CNT_COUNT : Fld := ⟨0x0180040, 31, 0⟩

/-! ### Fields of R479 (18_registers.md) -/
def PWR_STAT_CAP_ACTIVE : Fld := ⟨0x01C0000, 3, 3⟩
def PWR_STAT_REG_FAULT : Fld := ⟨0x01C0000, 2, 2⟩
def PWR_STAT_VIN_OK : Fld := ⟨0x01C0000, 1, 1⟩
def PWR_STAT_RUNNING : Fld := ⟨0x01C0000, 0, 0⟩
def PWR_VIN_IIN : Fld := ⟨0x01C0004, 31, 16⟩
def PWR_VIN_VIN : Fld := ⟨0x01C0004, 15, 0⟩
def PWR_MODULE_POWER : Fld := ⟨0x01C0008, 15, 0⟩
def PWR_CAP_CAP : Fld := ⟨0x01C000C, 15, 0⟩
def PWR_RAIL_SEL_POINT : Fld := ⟨0x01C0010, 3, 0⟩
def PWR_RAIL_DATA_MV : Fld := ⟨0x01C0014, 15, 0⟩
def PWR_ENERGY_JOULES : Fld := ⟨0x01C0018, 31, 0⟩
def PWR_FLAG_CAP_MISS : Fld := ⟨0x01C001C, 3, 3⟩
def PWR_FLAG_REG_FAULT : Fld := ⟨0x01C001C, 2, 2⟩
def PWR_FLAG_VIN_LOW : Fld := ⟨0x01C001C, 1, 1⟩
def PWR_FLAG_VIN_HIGH : Fld := ⟨0x01C001C, 0, 0⟩

/-- Registers of block ENG (R120, R153, R374, R69, R94), part 0. -/
def regsEng0 : List RegDef := [
  ⟨"ENG_STAT", 0x1001000, 1, .eng, false, false, false,
    [⟨ENG_STAT_SEL_REFUSED, .ro, .none, 0⟩, ⟨ENG_STAT_PROG_TIER, .ro, .none, 0⟩, ⟨ENG_STAT_PROG, .ro, .none, 0⟩, ⟨ENG_STAT_EXACT, .ro, .none, 0⟩, ⟨ENG_STAT_LIVE_TIER, .ro, .none, 0⟩, ⟨ENG_STAT_LIVE, .ro, .none, 0⟩, ⟨ENG_STAT_SUBST, .ro, .none, 0⟩, ⟨ENG_STAT_RUNNING, .ro, .none, 0⟩]⟩,
  ⟨"ENG_WIT_CFG", 0x1001010, 1, .eng, true, false, false,
    [⟨ENG_WIT_CFG_TOL, .rws, .boundary, 6⟩]⟩,
  ⟨"ENG_WIT_CNT", 0x1001014, 1, .eng, false, false, false,
    [⟨ENG_WIT_CNT_COUNT, .ro, .none, 0⟩]⟩,
  ⟨"ENG_SKIP_CNT", 0x1001018, 1, .eng, false, false, false,
    [⟨ENG_SKIP_CNT_COUNT, .ro, .none, 0⟩]⟩,
  ⟨"ENG_SEL_REFUSE", 0x100101C, 1, .eng, false, false, false,
    [⟨ENG_SEL_REFUSE_COUNT, .ro, .none, 0⟩]⟩,
  ⟨"ENG_IN_FLAG", 0x1001020, 1, .eng, false, false, false,
    [⟨ENG_IN_FLAG_SCALE_NAN, .w1c, .live, 0⟩, ⟨ENG_IN_FLAG_INF_IN, .w1c, .live, 0⟩, ⟨ENG_IN_FLAG_NAN_IN, .w1c, .live, 0⟩]⟩,
  ⟨"ENG_RET", 0x1001030, 1, .eng, false, false, false,
    [⟨ENG_RET_BANDS, .ro, .none, 0⟩]⟩,
  ⟨"ENG_CONV_SAT", 0x1001034, 1, .eng, false, false, false,
    [⟨ENG_CONV_SAT_COUNT, .ro, .none, 0⟩]⟩,
  ⟨"ENG_RES_CNT", 0x1001038, 1, .eng, false, false, false,
    [⟨ENG_RES_CNT_COUNT, .ro, .none, 0⟩]⟩,
  ⟨"ENG_MERGE_LATE", 0x100103C, 1, .eng, false, false, false,
    [⟨ENG_MERGE_LATE_COUNT, .ro, .none, 0⟩]⟩,
  ⟨"ENG_OUT_FLAG", 0x1001040, 1, .eng, false, false, false,
    [⟨ENG_OUT_FLAG_RES_ERR, .w1c, .live, 0⟩, ⟨ENG_OUT_FLAG_MERGE_LATE, .w1c, .live, 0⟩, ⟨ENG_OUT_FLAG_OVF, .w1c, .live, 0⟩]⟩,
  ⟨"ENG_CONV_CFG", 0x1001044, 1, .eng, true, false, false,
    [⟨ENG_CONV_CFG_DITHER_OFF, .rws, .frozen, 0⟩]⟩]

/-- Registers of block ENG (R120, R153, R374, R69, R94), part 1. -/
def regsEng1 : List RegDef := [
  ⟨"ENG_OL_CNT", 0x1001050, 1, .eng, false, false, false,
    [⟨ENG_OL_CNT_COUNT, .ro, .none, 0⟩]⟩,
  ⟨"ENG_OL_OVF", 0x1001054, 1, .eng, false, false, false,
    [⟨ENG_OL_OVF_COUNT, .ro, .none, 0⟩]⟩,
  ⟨"ENG_CRUSH_TRIG", 0x1001058, 1, .eng, false, false, false,
    [⟨ENG_CRUSH_TRIG_COUNT, .ro, .none, 0⟩]⟩,
  ⟨"ENG_OVR_CNT", 0x100105C, 1, .eng, false, false, false,
    [⟨ENG_OVR_CNT_COUNT, .ro, .none, 0⟩]⟩,
  ⟨"ENG_WIDEN_CNT", 0x1001060, 1, .eng, false, false, false,
    [⟨ENG_WIDEN_CNT_A8, .ro, .none, 0⟩, ⟨ENG_WIDEN_CNT_A6, .ro, .none, 0⟩]⟩,
  ⟨"ENG_CLAMP_CNT", 0x1001064, 1, .eng, false, false, false,
    [⟨ENG_CLAMP_CNT_COUNT, .ro, .none, 0⟩]⟩,
  ⟨"ENG_WD_FLAG", 0x1001068, 1, .eng, false, false, false,
    [⟨ENG_WD_FLAG_CLAMP, .w1c, .live, 0⟩, ⟨ENG_WD_FLAG_OVR, .w1c, .live, 0⟩, ⟨ENG_WD_FLAG_OL_OVF, .w1c, .live, 0⟩]⟩,
  ⟨"ENG_ASZ_STAT", 0x1001070, 1, .eng, false, false, false,
    [⟨ENG_ASZ_STAT_GROUP, .ro, .none, 0⟩, ⟨ENG_ASZ_STAT_STEP, .ro, .none, 0⟩, ⟨ENG_ASZ_STAT_SENSOR_DARK, .ro, .none, 0⟩, ⟨ENG_ASZ_STAT_LAST_REJ, .ro, .none, 0⟩, ⟨ENG_ASZ_STAT_REJ_RUN, .ro, .none, 0⟩, ⟨ENG_ASZ_STAT_DOUBTFUL, .ro, .none, 0⟩, ⟨ENG_ASZ_STAT_FIRST_DONE, .ro, .none, 0⟩]⟩,
  ⟨"ENG_TIER_ADV", 0x1001074, 1, .eng, false, false, false,
    [⟨ENG_TIER_ADV_BEYOND, .ro, .none, 0⟩, ⟨ENG_TIER_ADV_ADVISED, .ro, .none, 0⟩, ⟨ENG_TIER_ADV_FRESH, .ro, .none, 0⟩]⟩,
  ⟨"ENG_TRIM_REJ", 0x1001078, 1, .eng, false, false, false,
    [⟨ENG_TRIM_REJ_COUNT, .ro, .none, 0⟩]⟩,
  ⟨"ENG_CAL_MISS", 0x100107C, 1, .eng, false, false, false,
    [⟨ENG_CAL_MISS_COUNT, .ro, .none, 0⟩]⟩,
  ⟨"ENG_TIER_ROLE", 0x1001080, 1, .eng, false, false, false,
    [⟨ENG_TIER_ROLE_ROLES, .ro, .none, 0⟩]⟩]

/-- Registers of block ENG (R120, R153, R374, R69, R94), part 2. -/
def regsEng2 : List RegDef := [
  ⟨"ENG_PROG_RETRY", 0x1001084, 1, .eng, false, false, false,
    [⟨ENG_PROG_RETRY_COUNT, .ro, .none, 0⟩]⟩,
  ⟨"ENG_EPOCH_SEL", 0x1001088, 1, .eng, false, false, false,
    [⟨ENG_EPOCH_SEL_TIER, .rw, .live, 0⟩]⟩,
  ⟨"ENG_EPOCH_DATA", 0x100108C, 1, .eng, false, false, false,
    [⟨ENG_EPOCH_DATA_EPOCH, .ro, .none, 0⟩]⟩,
  ⟨"ENG_PROG_CNT", 0x1001090, 1, .eng, false, false, false,
    [⟨ENG_PROG_CNT_COUNT, .ro, .none, 0⟩]⟩]

/-- All registers of block ENG. -/
def regsEng : List RegDef := regsEng0 ++ regsEng1 ++ regsEng2

/-- Registers of block TB (R121, R216), part 0. -/
def regsTb0 : List RegDef := [
  ⟨"TB_PREC_CNT", 0x0001300, 1, .tb, false, false, false,
    [⟨TB_PREC_CNT_COUNT, .ro, .none, 0⟩]⟩,
  ⟨"TB_PREC_THR", 0x0001304, 1, .tb, true, false, false,
    [⟨TB_PREC_THR_THRESH, .rws, .boundary, 0⟩]⟩,
  ⟨"TB_PREC_RUN", 0x0001308, 1, .tb, false, false, false,
    [⟨TB_PREC_RUN_RUN, .ro, .none, 0⟩]⟩,
  ⟨"TB_PREC_STAT", 0x000130C, 1, .tb, false, false, false,
    [⟨TB_PREC_STAT_NO_VARIANT, .w1c, .live, 0⟩, ⟨TB_PREC_STAT_REQ_RAISED, .w1c, .live, 0⟩]⟩,
  ⟨"TB_STAT", 0x0001000, 1, .tb, false, false, false,
    [⟨TB_STAT_TIME_FAIL, .ro, .none, 0⟩, ⟨TB_STAT_HOLDOVER, .ro, .none, 0⟩, ⟨TB_STAT_REFCLK_HOLD, .ro, .none, 0⟩, ⟨TB_STAT_FRAME_OK, .ro, .none, 0⟩, ⟨TB_STAT_COUNT_VALID, .ro, .none, 0⟩, ⟨TB_STAT_REF_LOCK, .ro, .none, 0⟩, ⟨TB_STAT_RUNNING, .ro, .none, 0⟩]⟩,
  ⟨"TB_FAULT", 0x0001004, 1, .tb, false, false, false,
    [⟨TB_FAULT_PEER_TIME, .w1c, .live, 0⟩, ⟨TB_FAULT_REFCLK_LOSS, .w1c, .live, 0⟩, ⟨TB_FAULT_FRAME_MISMATCH, .w1c, .live, 0⟩, ⟨TB_FAULT_FRAME_BAD, .w1c, .live, 0⟩, ⟨TB_FAULT_FMARK_MISS, .w1c, .live, 0⟩, ⟨TB_FAULT_FMARK_EDGE, .w1c, .live, 0⟩]⟩,
  ⟨"TB_FRAME_ERR", 0x0001008, 1, .tb, false, false, false,
    [⟨TB_FRAME_ERR_COUNT, .ro, .none, 0⟩]⟩,
  ⟨"TB_EDGE_ERR", 0x000100C, 1, .tb, false, false, false,
    [⟨TB_EDGE_ERR_COUNT, .ro, .none, 0⟩]⟩,
  ⟨"TB_ROD", 0x0001040, 1, .tb, false, false, true,
    [⟨TB_ROD_COUNT, .ro, .none, 0⟩]⟩,
  ⟨"TB_VAR_AT", 0x0001048, 1, .tb, false, false, true,
    [⟨TB_VAR_AT_ROD, .ro, .none, 0⟩]⟩,
  ⟨"TB_LATE_CNT", 0x0001100, 1, .tb, false, false, false,
    [⟨TB_LATE_CNT_COUNT, .ro, .none, 0⟩]⟩,
  ⟨"TB_STALE_CNT", 0x0001104, 1, .tb, false, false, false,
    [⟨TB_STALE_CNT_COUNT, .ro, .none, 0⟩]⟩]

/-- Registers of block TB (R121, R216), part 1. -/
def regsTb1 : List RegDef := [
  ⟨"TB_VOID_CNT", 0x0001108, 1, .tb, false, false, false,
    [⟨TB_VOID_CNT_COUNT, .ro, .none, 0⟩]⟩,
  ⟨"TB_OVERRUN_CNT", 0x000110C, 1, .tb, false, false, false,
    [⟨TB_OVERRUN_CNT_COUNT, .ro, .none, 0⟩]⟩,
  ⟨"TB_SKIP_FRAC", 0x0001200, 1, .tb, false, false, false,
    [⟨TB_SKIP_FRAC_FRAC, .ro, .none, 0⟩]⟩,
  ⟨"TB_SKIP_CYC", 0x0001204, 1, .tb, false, false, false,
    [⟨TB_SKIP_CYC_COUNT, .ro, .none, 0⟩]⟩,
  ⟨"TB_SLACK_MIN", 0x0001208, 1, .tb, false, false, false,
    [⟨TB_SLACK_MIN_CYCLES, .ro, .none, 0⟩]⟩,
  ⟨"TB_VAR_STAT", 0x0001280, 1, .tb, false, false, false,
    [⟨TB_VAR_STAT_PENDING, .ro, .none, 0⟩, ⟨TB_VAR_STAT_PENDING_VAR, .ro, .none, 0⟩, ⟨TB_VAR_STAT_IN_FORCE, .ro, .none, 0⟩, ⟨TB_VAR_STAT_REFUSED, .w1c, .live, 0⟩]⟩,
  ⟨"TB_VAR_REQ", 0x0001284, 1, .tb, false, false, false,
    [⟨TB_VAR_REQ_REQ, .w1s, .live, 0⟩, ⟨TB_VAR_REQ_VAR, .rw, .live, 0⟩]⟩,
  ⟨"TB_VAR_ADMIT", 0x0001288, 1, .tb, false, false, false,
    [⟨TB_VAR_ADMIT_A8_VALID, .ro, .none, 0⟩, ⟨TB_VAR_ADMIT_A8_VAR, .ro, .none, 0⟩, ⟨TB_VAR_ADMIT_PRESENT, .ro, .none, 0⟩, ⟨TB_VAR_ADMIT_ADMITTED, .ro, .none, 0⟩]⟩,
  ⟨"TB_ADM_STAT", 0x0001290, 1, .tb, false, false, false,
    [⟨TB_ADM_STAT_ITEM, .ro, .none, 65535⟩, ⟨TB_ADM_STAT_CODE, .ro, .none, 0⟩, ⟨TB_ADM_STAT_STATE, .ro, .none, 0⟩]⟩,
  ⟨"TB_ADM_CNT", 0x0001294, 1, .tb, false, false, false,
    [⟨TB_ADM_CNT_FAILED, .ro, .none, 0⟩, ⟨TB_ADM_CNT_RUNS, .ro, .none, 0⟩]⟩]

/-- All registers of block TB. -/
def regsTb : List RegDef := regsTb0 ++ regsTb1

/-- Registers of block ASZ (R152), part 0. -/
def regsAsz0 : List RegDef := [
  ⟨"ASZ_STAT", 0x0140000, 1, .asz, false, false, false,
    [⟨ASZ_STAT_REF_DISTRUST, .ro, .none, 0⟩, ⟨ASZ_STAT_DARK, .ro, .none, 0⟩, ⟨ASZ_STAT_COLD, .ro, .none, 0⟩, ⟨ASZ_STAT_FIRST_DONE, .ro, .none, 0⟩, ⟨ASZ_STAT_FIRST_PASS, .ro, .none, 0⟩, ⟨ASZ_STAT_RUNNING, .ro, .none, 0⟩]⟩,
  ⟨"ASZ_MODE", 0x0140010, 1, .asz, true, false, false,
    [⟨ASZ_MODE_STEP, .rws, .boundary, 0⟩]⟩,
  ⟨"ASZ_MEAS_CNT", 0x0140020, 1, .asz, false, false, false,
    [⟨ASZ_MEAS_CNT_COUNT, .ro, .none, 0⟩]⟩,
  ⟨"ASZ_REJ_CNT", 0x0140024, 1, .asz, false, false, false,
    [⟨ASZ_REJ_CNT_COUNT, .ro, .none, 0⟩]⟩,
  ⟨"ASZ_MISS_CNT", 0x0140028, 1, .asz, false, false, false,
    [⟨ASZ_MISS_CNT_COUNT, .ro, .none, 0⟩]⟩,
  ⟨"ASZ_DOUBT_CNT", 0x014002C, 1, .asz, false, false, false,
    [⟨ASZ_DOUBT_CNT_COUNT, .ro, .none, 0⟩]⟩,
  ⟨"ASZ_TIER_CNT", 0x0140030, 1, .asz, false, false, false,
    [⟨ASZ_TIER_CNT_BEYOND, .ro, .none, 0⟩, ⟨ASZ_TIER_CNT_ADVISED, .ro, .none, 0⟩]⟩,
  ⟨"ASZ_FRESH_CNT", 0x0140034, 1, .asz, false, false, false,
    [⟨ASZ_FRESH_CNT_COUNT, .ro, .none, 0⟩]⟩,
  ⟨"ASZ_TRIM_SEL", 0x0140040, 1, .asz, false, false, false,
    [⟨ASZ_TRIM_SEL_TIER, .rw, .live, 0⟩, ⟨ASZ_TRIM_SEL_CONV, .rw, .live, 0⟩, ⟨ASZ_TRIM_SEL_BAND, .rw, .live, 0⟩, ⟨ASZ_TRIM_SEL_ENG, .rw, .live, 0⟩, ⟨ASZ_TRIM_SEL_CORE, .rw, .live, 0⟩]⟩,
  ⟨"ASZ_TRIM_DATA", 0x0140044, 1, .asz, false, true, false,
    [⟨ASZ_TRIM_DATA_G, .ro, .none, 8192⟩, ⟨ASZ_TRIM_DATA_O, .ro, .none, 0⟩]⟩,
  ⟨"ASZ_DRIFT_DATA", 0x0140048, 1, .asz, false, true, false,
    [⟨ASZ_DRIFT_DATA_K_APPLIED, .ro, .none, 0⟩, ⟨ASZ_DRIFT_DATA_K_AGE, .ro, .none, 0⟩]⟩,
  ⟨"ASZ_TEMPCO_DATA", 0x014004C, 1, .asz, false, true, false,
    [⟨ASZ_TEMPCO_DATA_LAST_T, .ro, .none, 0⟩, ⟨ASZ_TEMPCO_DATA_KAPPA, .ro, .none, 59244⟩]⟩]

/-- Registers of block ASZ (R152), part 1. -/
def regsAsz1 : List RegDef := [
  ⟨"ASZ_FORCE", 0x0140050, 1, .asz, false, false, false,
    [⟨ASZ_FORCE_ROUND, .w1s, .live, 0⟩]⟩]

/-- All registers of block ASZ. -/
def regsAsz : List RegDef := regsAsz0 ++ regsAsz1

/-- Registers of block MON (R154), part 0. -/
def regsMon0 : List RegDef := [
  ⟨"MON_CTRL", 0x0100000, 1, .mon, true, false, false,
    [⟨MON_CTRL_SW_RD_EN, .rw, .live, 0⟩, ⟨MON_CTRL_BANK, .rw, .live, 0⟩, ⟨MON_CTRL_REF_EN, .rws, .live, 0⟩, ⟨MON_CTRL_RUN, .rws, .live, 0⟩]⟩,
  ⟨"MON_STAT", 0x0100004, 1, .mon, false, false, false,
    [⟨MON_STAT_TB_VALID, .ro, .none, 0⟩, ⟨MON_STAT_RUNNING, .ro, .none, 0⟩, ⟨MON_STAT_REF_FAIL, .w1c, .live, 0⟩, ⟨MON_STAT_OVR, .w1c, .live, 0⟩, ⟨MON_STAT_BANK_ACTIVE, .ro, .none, 0⟩, ⟨MON_STAT_REF_SETTLED, .ro, .none, 0⟩]⟩,
  ⟨"MON_WR_PTR", 0x0100008, 1, .mon, false, false, false,
    [⟨MON_WR_PTR_INDEX, .ro, .none, 0⟩]⟩,
  ⟨"MON_RD_PTR", 0x010000C, 1, .mon, false, false, false,
    [⟨MON_RD_PTR_INDEX, .rw, .live, 0⟩]⟩,
  ⟨"MON_OVR_CNT", 0x0100010, 1, .mon, false, false, false,
    [⟨MON_OVR_CNT_COUNT, .ro, .none, 0⟩]⟩,
  ⟨"MON_TB_SEL", 0x0100020, 1, .mon, false, false, false,
    [⟨MON_TB_SEL_CAPTURE, .w1s, .live, 0⟩, ⟨MON_TB_SEL_STD, .rw, .live, 0⟩, ⟨MON_TB_SEL_TIER, .rw, .live, 0⟩, ⟨MON_TB_SEL_CONV, .rw, .live, 0⟩, ⟨MON_TB_SEL_BAND, .rw, .live, 0⟩, ⟨MON_TB_SEL_ENG, .rw, .live, 0⟩, ⟨MON_TB_SEL_CORE, .rw, .live, 0⟩]⟩,
  ⟨"MON_SEQ0", 0x0100400, 128, .mon, false, false, false,
    [⟨MON_SEQ0_END, .rw, .bank, 0⟩, ⟨MON_SEQ0_TAG, .rw, .bank, 0⟩, ⟨MON_SEQ0_AVG, .rw, .bank, 0⟩, ⟨MON_SEQ0_CHANNEL, .rw, .bank, 0⟩]⟩,
  ⟨"MON_SEQ1", 0x0100600, 128, .mon, false, false, false,
    [⟨MON_SEQ1_END, .rw, .bank, 0⟩, ⟨MON_SEQ1_TAG, .rw, .bank, 0⟩, ⟨MON_SEQ1_AVG, .rw, .bank, 0⟩, ⟨MON_SEQ1_CHANNEL, .rw, .bank, 0⟩]⟩,
  ⟨"MON_COEF", 0x0100800, 96, .mon, false, false, false,
    [⟨MON_COEF_GAIN, .ro, .none, 0⟩, ⟨MON_COEF_OFFSET, .ro, .none, 0⟩]⟩]

/-- All registers of block MON. -/
def regsMon : List RegDef := regsMon0

/-- Registers of block CORE (R175, R217, R284, R312, R425), part 0. -/
def regsCore0 : List RegDef := [
  ⟨"CORE_STAT", 0x1000000, 1, .core, false, false, false,
    [⟨CORE_STAT_LOGICAL, .ro, .none, 0⟩, ⟨CORE_STAT_REGION, .ro, .none, 0⟩, ⟨CORE_STAT_FENCED, .ro, .none, 0⟩, ⟨CORE_STAT_SPARE, .ro, .none, 0⟩, ⟨CORE_STAT_MAPPED, .ro, .none, 0⟩, ⟨CORE_STAT_RUNNING, .ro, .none, 0⟩]⟩,
  ⟨"CS_CE_CNT", 0x1000010, 1, .core, false, false, false,
    [⟨CS_CE_CNT_COUNT, .ro, .none, 0⟩]⟩,
  ⟨"CS_UE_CNT", 0x1000014, 1, .core, false, false, false,
    [⟨CS_UE_CNT_COUNT, .ro, .none, 0⟩]⟩,
  ⟨"CS_RESTORE_CNT", 0x1000018, 1, .core, false, false, false,
    [⟨CS_RESTORE_CNT_COUNT, .ro, .none, 0⟩]⟩,
  ⟨"CS_FLAG", 0x100001C, 1, .core, false, false, false,
    [⟨CS_FLAG_UE, .w1c, .live, 0⟩, ⟨CS_FLAG_CE, .w1c, .live, 0⟩]⟩,
  ⟨"SEQ_LATE_CNT", 0x1000040, 1, .core, false, false, false,
    [⟨SEQ_LATE_CNT_COUNT, .ro, .none, 0⟩]⟩,
  ⟨"SEQ_STALE_CNT", 0x1000044, 1, .core, false, false, false,
    [⟨SEQ_STALE_CNT_COUNT, .ro, .none, 0⟩]⟩,
  ⟨"SEQ_OVERRUN_CNT", 0x1000048, 1, .core, false, false, false,
    [⟨SEQ_OVERRUN_CNT_COUNT, .ro, .none, 0⟩]⟩,
  ⟨"SEQ_SKIP_CYC", 0x100004C, 1, .core, false, false, false,
    [⟨SEQ_SKIP_CYC_CYCLES, .ro, .none, 0⟩]⟩,
  ⟨"DSP_OFFER_CNT", 0x1000080, 1, .core, false, false, false,
    [⟨DSP_OFFER_CNT_COUNT, .ro, .none, 0⟩]⟩,
  ⟨"DSP_GRANT_CNT", 0x1000084, 1, .core, false, false, false,
    [⟨DSP_GRANT_CNT_COUNT, .ro, .none, 0⟩]⟩,
  ⟨"DSP_DROP_CNT", 0x1000088, 1, .core, false, false, false,
    [⟨DSP_DROP_CNT_COUNT, .ro, .none, 0⟩]⟩]

/-- Registers of block CORE (R175, R217, R284, R312, R425), part 1. -/
def regsCore1 : List RegDef := [
  ⟨"DSP_DROP_FIRST", 0x100008C, 1, .core, false, false, false,
    [⟨DSP_DROP_FIRST_COUNT, .ro, .none, 0⟩]⟩,
  ⟨"DSP_SKIP_CNT", 0x1000090, 1, .core, false, false, false,
    [⟨DSP_SKIP_CNT_COUNT, .ro, .none, 0⟩]⟩,
  ⟨"DSP_STALE_CNT", 0x1000094, 1, .core, false, false, false,
    [⟨DSP_STALE_CNT_COUNT, .ro, .none, 0⟩]⟩,
  ⟨"CMB_STALE_CNT", 0x1000098, 1, .core, false, false, false,
    [⟨CMB_STALE_CNT_COUNT, .ro, .none, 0⟩]⟩,
  ⟨"CMB_TAG_ERR", 0x100009C, 1, .core, false, false, false,
    [⟨CMB_TAG_ERR_COUNT, .ro, .none, 0⟩]⟩,
  ⟨"CMB_VOID_CNT", 0x10000A0, 1, .core, false, false, false,
    [⟨CMB_VOID_CNT_COUNT, .ro, .none, 0⟩]⟩,
  ⟨"DSP_LAST", 0x10000A4, 1, .core, false, false, false,
    [⟨DSP_LAST_DROPPED, .ro, .none, 0⟩, ⟨DSP_LAST_OFFERED, .ro, .none, 0⟩]⟩,
  ⟨"DSP_FLAG", 0x10000A8, 1, .core, false, false, false,
    [⟨DSP_FLAG_TAG_ERR, .w1c, .live, 0⟩, ⟨DSP_FLAG_STALE, .w1c, .live, 0⟩, ⟨DSP_FLAG_ABSENT, .w1c, .live, 0⟩, ⟨DSP_FLAG_BAD_LOGIT, .w1c, .live, 0⟩]⟩,
  ⟨"ATT_SPAN_CNT", 0x10000C0, 1, .core, false, false, false,
    [⟨ATT_SPAN_CNT_COUNT, .ro, .none, 0⟩]⟩,
  ⟨"ATT_FOLD_CNT", 0x10000C4, 1, .core, false, false, false,
    [⟨ATT_FOLD_CNT_COUNT, .ro, .none, 0⟩]⟩,
  ⟨"ATT_KV_BAD", 0x10000C8, 1, .core, false, false, false,
    [⟨ATT_KV_BAD_COUNT, .ro, .none, 0⟩]⟩,
  ⟨"ATT_PAIR_CNT", 0x10000CC, 1, .core, false, false, false,
    [⟨ATT_PAIR_CNT_COUNT, .ro, .none, 0⟩]⟩]

/-- Registers of block CORE (R175, R217, R284, R312, R425), part 2. -/
def regsCore2 : List RegDef := [
  ⟨"ATT_ROLE", 0x10000D0, 1, .core, false, false, false,
    [⟨ATT_ROLE_HEAD, .ro, .none, 0⟩, ⟨ATT_ROLE_LANE, .ro, .none, 0⟩, ⟨ATT_ROLE_LAYER, .ro, .none, 0⟩, ⟨ATT_ROLE_ROLE, .ro, .none, 0⟩]⟩,
  ⟨"ATT_HELD", 0x10000D4, 1, .core, false, false, false,
    [⟨ATT_HELD_PAUSED, .ro, .none, 0⟩, ⟨ATT_HELD_HELD, .ro, .none, 0⟩]⟩,
  ⟨"ATT_FLAG", 0x10000D8, 1, .core, false, false, false,
    [⟨ATT_FLAG_RING_VOID, .w1c, .live, 0⟩, ⟨ATT_FLAG_PAGE_EXC, .w1c, .live, 0⟩, ⟨ATT_FLAG_SCORE_NAN, .w1c, .live, 0⟩, ⟨ATT_FLAG_KV_BAD, .w1c, .live, 0⟩]⟩,
  ⟨"CORE_FAULT", 0x10000E0, 1, .core, false, false, false,
    [⟨CORE_FAULT_LAST_DET, .ro, .none, 0⟩, ⟨CORE_FAULT_UNTRUSTED, .ro, .none, 0⟩, ⟨CORE_FAULT_REPAIR, .ro, .none, 0⟩, ⟨CORE_FAULT_FENCE_REQ, .ro, .none, 0⟩]⟩,
  ⟨"PAT_BEAT_CNT", 0x10000E4, 1, .core, false, false, false,
    [⟨PAT_BEAT_CNT_COUNT, .ro, .none, 0⟩]⟩,
  ⟨"PAT_FAIL_CNT", 0x10000E8, 1, .core, false, false, false,
    [⟨PAT_FAIL_CNT_COUNT, .ro, .none, 0⟩]⟩,
  ⟨"PAT_TRANSIENT", 0x10000EC, 1, .core, false, false, false,
    [⟨PAT_TRANSIENT_COUNT, .ro, .none, 0⟩]⟩,
  ⟨"FLT_SE_CNT", 0x10000F0, 1, .core, false, false, false,
    [⟨FLT_SE_CNT_COUNT, .ro, .none, 0⟩]⟩,
  ⟨"FLT_QUAR_CNT", 0x10000F4, 1, .core, false, false, false,
    [⟨FLT_QUAR_CNT_COUNT, .ro, .none, 0⟩]⟩]

/-- All registers of block CORE. -/
def regsCore : List RegDef := regsCore0 ++ regsCore1 ++ regsCore2

/-- Registers of block MXU (R175), part 0. -/
def regsMxu0 : List RegDef := [
  ⟨"MXU_RES_CNT", 0x1009000, 1, .mxu, false, false, false,
    [⟨MXU_RES_CNT_COUNT, .ro, .none, 0⟩]⟩,
  ⟨"MXU_FLAG", 0x1009004, 1, .mxu, false, false, false,
    [⟨MXU_FLAG_RES_ERR, .w1c, .live, 0⟩, ⟨MXU_FLAG_BAD_IN, .w1c, .live, 0⟩, ⟨MXU_FLAG_OVF, .w1c, .live, 0⟩]⟩]

/-- All registers of block MXU. -/
def regsMxu : List RegDef := regsMxu0

/-- Registers of block PW (R176), part 0. -/
def regsPw0 : List RegDef := [
  ⟨"PW_HIT", 0x100B000, 1, .pw, false, false, false,
    [⟨PW_HIT_COUNT, .ro, .none, 0⟩]⟩,
  ⟨"PW_MISS", 0x100B004, 1, .pw, false, false, false,
    [⟨PW_MISS_COUNT, .ro, .none, 0⟩]⟩,
  ⟨"PW_ABSENT", 0x100B008, 1, .pw, false, false, false,
    [⟨PW_ABSENT_COUNT, .ro, .none, 0⟩]⟩,
  ⟨"PW_GEN_ERR", 0x100B00C, 1, .pw, false, false, false,
    [⟨PW_GEN_ERR_COUNT, .ro, .none, 0⟩]⟩]

/-- All registers of block PW. -/
def regsPw : List RegDef := regsPw0

/-- Registers of block STK (R176), part 0. -/
def regsStk0 : List RegDef := [
  ⟨"STK_STAT", 0x0300000, 1, .stk, false, false, false,
    [⟨STK_STAT_HOT, .ro, .none, 0⟩, ⟨STK_STAT_LINK_UP, .ro, .none, 0⟩, ⟨STK_STAT_IN_SERVICE, .ro, .none, 0⟩]⟩,
  ⟨"STK_CE_CNT", 0x0300010, 1, .stk, false, false, false,
    [⟨STK_CE_CNT_COUNT, .ro, .none, 0⟩]⟩,
  ⟨"STK_UE_CNT", 0x0300014, 1, .stk, false, false, false,
    [⟨STK_UE_CNT_COUNT, .ro, .none, 0⟩]⟩,
  ⟨"STK_RETRY_CNT", 0x0300018, 1, .stk, false, false, false,
    [⟨STK_RETRY_CNT_COUNT, .ro, .none, 0⟩]⟩,
  ⟨"STK_REFUSE_CNT", 0x030001C, 1, .stk, false, false, false,
    [⟨STK_REFUSE_CNT_COUNT, .ro, .none, 0⟩]⟩,
  ⟨"STK_LINES", 0x0300020, 1, .stk, false, false, false,
    [⟨STK_LINES_COUNT, .ro, .none, 0⟩]⟩,
  ⟨"STK_TEMP", 0x0300024, 1, .stk, false, true, false,
    [⟨STK_TEMP_TEMP, .ro, .none, 0⟩]⟩]

/-- All registers of block STK. -/
def regsStk : List RegDef := regsStk0

/-- Registers of block RTR (R233), part 0. -/
def regsRtr0 : List RegDef := [
  ⟨"RTR_STAT", 0x100A000, 1, .rtr, false, false, false,
    [⟨RTR_STAT_REGION, .ro, .none, 0⟩, ⟨RTR_STAT_ATTACH, .ro, .none, 0⟩, ⟨RTR_STAT_DOMAIN_FAULT, .ro, .none, 0⟩, ⟨RTR_STAT_B_FAULTY, .ro, .none, 0⟩, ⟨RTR_STAT_A_FAULTY, .ro, .none, 0⟩, ⟨RTR_STAT_BOUNDARY, .ro, .none, 0⟩, ⟨RTR_STAT_EDGE, .ro, .none, 0⟩, ⟨RTR_STAT_CORE_OFF, .ro, .none, 0⟩, ⟨RTR_STAT_FORWARDING, .ro, .none, 0⟩]⟩,
  ⟨"RTR_CHK_ERR", 0x100A010, 1, .rtr, false, false, false,
    [⟨RTR_CHK_ERR_COUNT, .ro, .none, 0⟩]⟩,
  ⟨"RTR_XDROP", 0x100A014, 1, .rtr, false, false, false,
    [⟨RTR_XDROP_COUNT, .ro, .none, 0⟩]⟩,
  ⟨"RTR_LOCAL_DROP", 0x100A018, 1, .rtr, false, false, false,
    [⟨RTR_LOCAL_DROP_COUNT, .ro, .none, 0⟩]⟩,
  ⟨"RTR_DETOUR_CNT", 0x100A01C, 1, .rtr, false, false, false,
    [⟨RTR_DETOUR_CNT_COUNT, .ro, .none, 0⟩]⟩,
  ⟨"RTR_LOAD_A", 0x100A020, 1, .rtr, false, false, false,
    [⟨RTR_LOAD_A_FLITS, .ro, .none, 0⟩]⟩,
  ⟨"RTR_LOAD_B", 0x100A024, 1, .rtr, false, false, false,
    [⟨RTR_LOAD_B_FLITS, .ro, .none, 0⟩]⟩,
  ⟨"RTR_FLAG", 0x100A030, 1, .rtr, false, false, false,
    [⟨RTR_FLAG_NO_ROUTE, .w1c, .live, 0⟩, ⟨RTR_FLAG_LOCAL_DROP, .w1c, .live, 0⟩, ⟨RTR_FLAG_XDROP, .w1c, .live, 0⟩, ⟨RTR_FLAG_CHK_ERR, .w1c, .live, 0⟩]⟩,
  ⟨"RTR_CTRL", 0x100A040, 1, .rtr, true, false, false,
    [⟨RTR_CTRL_MARK_B, .w1s, .live, 0⟩, ⟨RTR_CTRL_MARK_A, .w1s, .live, 0⟩]⟩]

/-- All registers of block RTR. -/
def regsRtr : List RegDef := regsRtr0

/-- Registers of block LNK (R261), part 0. -/
def regsLnk0 : List RegDef := [
  ⟨"LNK_STAT", 0x0200000, 1, .lnk, false, false, false,
    [⟨LNK_STAT_PARTNER_REV, .ro, .none, 0⟩, ⟨LNK_STAT_PLAN, .ro, .none, 0⟩, ⟨LNK_STAT_SWAPPED, .ro, .none, 0⟩, ⟨LNK_STAT_LOGICAL, .ro, .none, 0⟩, ⟨LNK_STAT_LOST, .ro, .none, 0⟩, ⟨LNK_STAT_REDUCED, .ro, .none, 0⟩, ⟨LNK_STAT_WIDTH, .ro, .none, 0⟩, ⟨LNK_STAT_FIRST, .ro, .none, 0⟩, ⟨LNK_STAT_STATE, .ro, .none, 0⟩]⟩,
  ⟨"LNK_PARTNER", 0x0200004, 1, .lnk, false, false, false,
    [⟨LNK_PARTNER_PORT, .ro, .none, 0⟩, ⟨LNK_PARTNER_GROUP, .ro, .none, 0⟩, ⟨LNK_PARTNER_MODULE, .ro, .none, 0⟩]⟩,
  ⟨"LNK_PARTNER_ID", 0x0200040, 1, .lnk, false, false, true,
    [⟨LNK_PARTNER_ID_ID, .ro, .none, 0⟩]⟩,
  ⟨"LNK_CTRL", 0x0200010, 1, .lnk, true, false, false,
    [⟨LNK_CTRL_RETRAIN, .w1s, .live, 0⟩, ⟨LNK_CTRL_DISABLE, .rws, .frozen, 0⟩]⟩,
  ⟨"LNK_FEC_CORR", 0x0200020, 1, .lnk, false, false, false,
    [⟨LNK_FEC_CORR_COUNT, .ro, .none, 0⟩]⟩,
  ⟨"LNK_FEC_UNCORR", 0x0200024, 1, .lnk, false, false, false,
    [⟨LNK_FEC_UNCORR_COUNT, .ro, .none, 0⟩]⟩,
  ⟨"LNK_TAG_ERR", 0x0200028, 1, .lnk, false, false, false,
    [⟨LNK_TAG_ERR_COUNT, .ro, .none, 0⟩]⟩,
  ⟨"LNK_REV_REFUSE", 0x020002C, 1, .lnk, false, false, false,
    [⟨LNK_REV_REFUSE_COUNT, .ro, .none, 0⟩]⟩,
  ⟨"LNK_DROP", 0x0200030, 1, .lnk, false, false, false,
    [⟨LNK_DROP_COUNT, .ro, .none, 0⟩]⟩,
  ⟨"LNK_HB_MISS", 0x0200034, 1, .lnk, false, false, false,
    [⟨LNK_HB_MISS_COUNT, .ro, .none, 0⟩]⟩,
  ⟨"LNK_FRAMES", 0x0200038, 1, .lnk, false, false, false,
    [⟨LNK_FRAMES_RX, .ro, .none, 0⟩, ⟨LNK_FRAMES_TX, .ro, .none, 0⟩]⟩,
  ⟨"LNK_FLAG", 0x020003C, 1, .lnk, false, false, false,
    [⟨LNK_FLAG_PLAN_FAIL, .w1c, .live, 0⟩, ⟨LNK_FLAG_LOSS, .w1c, .live, 0⟩, ⟨LNK_FLAG_TAG_RUN, .w1c, .live, 0⟩, ⟨LNK_FLAG_REV, .w1c, .live, 0⟩]⟩]

/-- All registers of block LNK. -/
def regsLnk : List RegDef := regsLnk0

/-- Registers of block FAB (R262), part 0. -/
def regsFab0 : List RegDef := [
  ⟨"FAB_COORD", 0x0202000, 1, .fab, false, false, false,
    [⟨FAB_COORD_MISMATCH, .ro, .none, 0⟩, ⟨FAB_COORD_VALID, .ro, .none, 0⟩, ⟨FAB_COORD_RACK, .ro, .none, 0⟩, ⟨FAB_COORD_GROUP, .ro, .none, 0⟩, ⟨FAB_COORD_SLOT, .ro, .none, 0⟩]⟩,
  ⟨"FAB_SELF", 0x0202004, 1, .fab, false, false, false,
    [⟨FAB_SELF_REV, .ro, .none, 0⟩, ⟨FAB_SELF_NCOMPAT, .ro, .none, 0⟩, ⟨FAB_SELF_GROUP, .ro, .none, 0⟩, ⟨FAB_SELF_MODULE, .ro, .none, 0⟩]⟩,
  ⟨"FAB_SB_SEEN", 0x0202010, 1, .fab, false, false, false,
    [⟨FAB_SB_SEEN_COUNT, .ro, .none, 0⟩]⟩,
  ⟨"FAB_SB_DROP", 0x0202014, 1, .fab, false, false, false,
    [⟨FAB_SB_DROP_COUNT, .ro, .none, 0⟩]⟩,
  ⟨"FAB_LOSS_CNT", 0x0202018, 1, .fab, false, false, false,
    [⟨FAB_LOSS_CNT_COUNT, .ro, .none, 0⟩]⟩,
  ⟨"FAB_SB_QUEUE", 0x020201C, 1, .fab, false, false, false,
    [⟨FAB_SB_QUEUE_DEPTH, .ro, .none, 0⟩]⟩]

/-- All registers of block FAB. -/
def regsFab : List RegDef := regsFab0

/-- Registers of block RQT (R345), part 0. -/
def regsRqt0 : List RegDef := [
  ⟨"RQT_STAT", 0x0480000, 1, .rqt, false, false, false,
    [⟨RQT_STAT_SEATS_FREE, .ro, .none, 0⟩, ⟨RQT_STAT_LIVE, .ro, .none, 0⟩, ⟨RQT_STAT_ENTRY, .ro, .none, 0⟩, ⟨RQT_STAT_RUNNING, .ro, .none, 0⟩]⟩,
  ⟨"RQT_CTRL", 0x0480004, 1, .rqt, true, false, false,
    [⟨RQT_CTRL_INTAKE_EN, .rws, .live, 0⟩]⟩,
  ⟨"RQT_FLAG", 0x0480008, 1, .rqt, false, false, false,
    [⟨RQT_FLAG_TABLE_LATE, .w1c, .live, 0⟩, ⟨RQT_FLAG_VOID_LIMIT, .w1c, .live, 0⟩, ⟨RQT_FLAG_EG_STALL, .w1c, .live, 0⟩, ⟨RQT_FLAG_HOST_FETCH, .w1c, .live, 0⟩, ⟨RQT_FLAG_REFUSED, .w1c, .live, 0⟩]⟩,
  ⟨"RQT_LAST_REFUSE", 0x048000C, 1, .rqt, false, false, false,
    [⟨RQT_LAST_REFUSE_CODE, .ro, .none, 0⟩]⟩,
  ⟨"RQT_ADMIT_CNT", 0x0480010, 1, .rqt, false, false, false,
    [⟨RQT_ADMIT_CNT_COUNT, .ro, .none, 0⟩]⟩,
  ⟨"RQT_REFUSE_CNT", 0x0480014, 1, .rqt, false, false, false,
    [⟨RQT_REFUSE_CNT_COUNT, .ro, .none, 0⟩]⟩,
  ⟨"RQT_DONE_CNT", 0x0480018, 1, .rqt, false, false, false,
    [⟨RQT_DONE_CNT_COUNT, .ro, .none, 0⟩]⟩,
  ⟨"RQT_CANCEL_CNT", 0x048001C, 1, .rqt, false, false, false,
    [⟨RQT_CANCEL_CNT_COUNT, .ro, .none, 0⟩]⟩,
  ⟨"RQT_CTRL_MISS", 0x0480020, 1, .rqt, false, false, false,
    [⟨RQT_CTRL_MISS_COUNT, .ro, .none, 0⟩]⟩,
  ⟨"RQT_DRAFT_CNT", 0x0480024, 1, .rqt, false, false, false,
    [⟨RQT_DRAFT_CNT_COUNT, .ro, .none, 0⟩]⟩,
  ⟨"RQT_DRAFT_ACC", 0x0480028, 1, .rqt, false, false, false,
    [⟨RQT_DRAFT_ACC_COUNT, .ro, .none, 0⟩]⟩,
  ⟨"RQT_DRAFT_DISC", 0x048002C, 1, .rqt, false, false, false,
    [⟨RQT_DRAFT_DISC_COUNT, .ro, .none, 0⟩]⟩]

/-- Registers of block RQT (R345), part 1. -/
def regsRqt1 : List RegDef := [
  ⟨"RQT_EG_STALL", 0x0480030, 1, .rqt, false, false, false,
    [⟨RQT_EG_STALL_COUNT, .ro, .none, 0⟩]⟩,
  ⟨"RQT_LANE_PAUSE", 0x0480034, 1, .rqt, false, false, false,
    [⟨RQT_LANE_PAUSE_COUNT, .ro, .none, 0⟩]⟩,
  ⟨"RQT_SMP_BAD", 0x0480038, 1, .rqt, false, false, false,
    [⟨RQT_SMP_BAD_COUNT, .ro, .none, 0⟩]⟩,
  ⟨"RQT_TOPP_TRUNC", 0x048003C, 1, .rqt, false, false, false,
    [⟨RQT_TOPP_TRUNC_COUNT, .ro, .none, 0⟩]⟩,
  ⟨"RQT_SEL", 0x0480040, 1, .rqt, false, false, false,
    [⟨RQT_SEL_SLOT, .rw, .live, 0⟩]⟩,
  ⟨"RQT_IRQ_CFG", 0x0480044, 1, .rqt, true, false, false,
    [⟨RQT_IRQ_CFG_ENABLE, .rw, .live, 0⟩, ⟨RQT_IRQ_CFG_MIN, .rw, .live, 1⟩, ⟨RQT_IRQ_CFG_VECTOR, .ro, .none, 0⟩]⟩,
  ⟨"RQT_ENTRY", 0x0480080, 1, .rqt, false, false, true,
    [⟨RQT_ENTRY_ENTRY, .ro, .none, 0⟩]⟩,
  ⟨"RQT_IN_IDX", 0x0480100, 1, .rqt, false, false, false,
    [⟨RQT_IN_IDX_INDEX, .ro, .none, 0⟩]⟩,
  ⟨"RQT_EG_IDX", 0x0480104, 1, .rqt, false, false, false,
    [⟨RQT_EG_IDX_INDEX, .ro, .none, 0⟩]⟩,
  ⟨"RQT_EG_CREDIT", 0x0480108, 1, .rqt, false, false, false,
    [⟨RQT_EG_CREDIT_INDEX, .ro, .none, 0⟩]⟩]

/-- All registers of block RQT. -/
def regsRqt : List RegDef := regsRqt0 ++ regsRqt1

/-- Registers of block LD (R373), part 0. -/
def regsLd0 : List RegDef := [
  ⟨"LD_CTRL", 0x0400800, 1, .ld, false, false, false,
    [⟨LD_CTRL_ABORT, .w1s, .live, 0⟩, ⟨LD_CTRL_START, .w1s, .live, 0⟩]⟩,
  ⟨"LD_STAT", 0x0400804, 1, .ld, false, false, false,
    [⟨LD_STAT_FAIL_CODE, .ro, .none, 0⟩, ⟨LD_STAT_FAILED, .w1c, .live, 0⟩, ⟨LD_STAT_DONE, .w1c, .live, 0⟩, ⟨LD_STAT_BUSY, .ro, .none, 0⟩]⟩,
  ⟨"LD_MAN_LO", 0x0400808, 1, .ld, false, false, false,
    [⟨LD_MAN_LO_VALUE, .rw, .frozen, 0⟩]⟩,
  ⟨"LD_MAN_HI", 0x040080C, 1, .ld, false, false, false,
    [⟨LD_MAN_HI_VALUE, .rw, .frozen, 0⟩]⟩,
  ⟨"LD_MAN_LEN", 0x0400810, 1, .ld, false, false, false,
    [⟨LD_MAN_LEN_VALUE, .rw, .frozen, 0⟩]⟩,
  ⟨"LD_CHUNK_DONE", 0x0400814, 1, .ld, false, false, false,
    [⟨LD_CHUNK_DONE_COUNT, .ro, .none, 0⟩]⟩,
  ⟨"LD_TILE_DONE", 0x0400818, 1, .ld, false, false, false,
    [⟨LD_TILE_DONE_COUNT, .ro, .none, 0⟩]⟩,
  ⟨"LD_EPOCH_CUR", 0x0400820, 1, .ld, false, false, false,
    [⟨LD_EPOCH_CUR_EPOCH, .ro, .none, 0⟩]⟩,
  ⟨"LD_EPOCH_PREV", 0x0400824, 1, .ld, false, false, false,
    [⟨LD_EPOCH_PREV_EPOCH, .ro, .none, 0⟩]⟩,
  ⟨"LD_EPOCH_PEND", 0x0400828, 1, .ld, false, false, false,
    [⟨LD_EPOCH_PEND_EPOCH, .ro, .none, 0⟩]⟩,
  ⟨"LD_FLIP", 0x0400830, 1, .ld, false, false, false,
    [⟨LD_FLIP_REQ, .w1s, .live, 0⟩]⟩,
  ⟨"LD_FLIP_STAT", 0x0400834, 1, .ld, false, false, false,
    [⟨LD_FLIP_STAT_NOT_READY, .w1c, .live, 0⟩, ⟨LD_FLIP_STAT_REFUSED, .w1c, .live, 0⟩, ⟨LD_FLIP_STAT_PREV_HELD, .ro, .none, 0⟩, ⟨LD_FLIP_STAT_PENDING, .ro, .none, 0⟩, ⟨LD_FLIP_STAT_READY, .ro, .none, 0⟩]⟩]

/-- Registers of block LD (R373), part 1. -/
def regsLd1 : List RegDef := [
  ⟨"LD_FAIL_CNT", 0x0400840, 1, .ld, false, false, false,
    [⟨LD_FAIL_CNT_COUNT, .ro, .none, 0⟩]⟩,
  ⟨"ADP_LOAD_CNT", 0x0400844, 1, .ld, false, false, false,
    [⟨ADP_LOAD_CNT_COUNT, .ro, .none, 0⟩]⟩,
  ⟨"ADP_VOID_CNT", 0x0400848, 1, .ld, false, false, false,
    [⟨ADP_VOID_CNT_COUNT, .ro, .none, 0⟩]⟩,
  ⟨"ADP_SLOTS", 0x040084C, 1, .ld, false, false, false,
    [⟨ADP_SLOTS_PINNED, .ro, .none, 0⟩, ⟨ADP_SLOTS_FREE, .ro, .none, 4096⟩]⟩]

/-- All registers of block LD. -/
def regsLd : List RegDef := regsLd0 ++ regsLd1

/-- Registers of block SEC (R394), part 0. -/
def regsSec0 : List RegDef := [
  ⟨"SEC_STAT", 0x0400000, 1, .sec, false, false, false,
    [⟨SEC_STAT_ENG_SAMPLE, .ro, .none, 0⟩, ⟨SEC_STAT_SPDM_SESSION, .ro, .none, 0⟩, ⟨SEC_STAT_IDE_STREAMS, .ro, .none, 0⟩, ⟨SEC_STAT_TDI_STATE, .ro, .none, 0⟩, ⟨SEC_STAT_UNSEALED, .ro, .none, 0⟩, ⟨SEC_STAT_KEY_RELEASED, .ro, .none, 0⟩, ⟨SEC_STAT_IMAGE_OK, .ro, .none, 0⟩, ⟨SEC_STAT_RUNNING, .ro, .none, 0⟩]⟩,
  ⟨"SEC_VIOL", 0x0400010, 1, .sec, false, false, false,
    [⟨SEC_VIOL_MMIO_NT, .w1c, .live, 0⟩, ⟨SEC_VIOL_WDOG, .w1c, .live, 0⟩, ⟨SEC_VIOL_TABLE_WRITE, .w1c, .live, 0⟩, ⟨SEC_VIOL_THERMAL_WRITE, .w1c, .live, 0⟩, ⟨SEC_VIOL_KEY_ACCESS, .w1c, .live, 0⟩, ⟨SEC_VIOL_RATE, .w1c, .live, 0⟩, ⟨SEC_VIOL_DMA_WINDOW, .w1c, .live, 0⟩]⟩,
  ⟨"SEC_VIOL_CNT", 0x0400014, 1, .sec, false, false, false,
    [⟨SEC_VIOL_CNT_COUNT, .ro, .none, 0⟩]⟩,
  ⟨"SEC_IDE_ERR", 0x0400018, 1, .sec, false, false, false,
    [⟨SEC_IDE_ERR_COUNT, .ro, .none, 0⟩]⟩,
  ⟨"SEC_REPORT_CNT", 0x040001C, 1, .sec, false, false, false,
    [⟨SEC_REPORT_CNT_COUNT, .ro, .none, 0⟩]⟩,
  ⟨"SEC_REL_REFUSE", 0x0400020, 1, .sec, false, false, false,
    [⟨SEC_REL_REFUSE_COUNT, .ro, .none, 0⟩]⟩,
  ⟨"SEC_REL_STAT", 0x0400024, 1, .sec, false, false, false,
    [⟨SEC_REL_STAT_LAST_CODE, .ro, .none, 0⟩]⟩,
  ⟨"SEC_WDOG", 0x0400030, 1, .sec, false, false, false,
    [⟨SEC_WDOG_LEFT, .ro, .none, 32768⟩, ⟨SEC_WDOG_KICK, .w1s, .live, 0⟩]⟩,
  ⟨"SEC_DIE_ID", 0x0400040, 1, .sec, false, false, true,
    [⟨SEC_DIE_ID_ID, .ro, .none, Config.dieId.toNat⟩]⟩]

/-- All registers of block SEC. -/
def regsSec : List RegDef := regsSec0

/-- Registers of block INJ (R424), part 0. -/
def regsInj0 : List RegDef := [
  ⟨"INJ_CTRL", 0x04F0000, 1, .inj, true, false, false,
    [⟨INJ_CTRL_CONTAIN, .rw, .live, 1⟩, ⟨INJ_CTRL_ARM, .w1s, .live, 0⟩, ⟨INJ_CTRL_ENABLE, .rws, .live, 0⟩]⟩,
  ⟨"INJ_SEL", 0x04F0004, 1, .inj, false, false, false,
    [⟨INJ_SEL_POINT, .rw, .live, 0⟩, ⟨INJ_SEL_CORE, .rw, .live, 0⟩, ⟨INJ_SEL_UNIT, .rw, .live, 0⟩]⟩,
  ⟨"INJ_ARG", 0x04F0008, 1, .inj, false, false, false,
    [⟨INJ_ARG_VALUE, .rw, .live, 0⟩]⟩,
  ⟨"INJ_STAT", 0x04F000C, 1, .inj, false, false, false,
    [⟨INJ_STAT_CONTAINED, .w1c, .live, 0⟩, ⟨INJ_STAT_FIRED, .w1c, .live, 0⟩, ⟨INJ_STAT_ARMED, .ro, .none, 0⟩]⟩,
  ⟨"INJ_HIT", 0x04F0010, 1, .inj, false, false, false,
    [⟨INJ_HIT_COUNT, .ro, .none, 0⟩]⟩,
  ⟨"TRAP_CTRL", 0x04F0100, 1, .inj, false, false, false,
    [⟨TRAP_CTRL_LOAD, .w1s, .live, 0⟩]⟩,
  ⟨"TRAP_ADDR_LO", 0x04F0104, 1, .inj, false, false, false,
    [⟨TRAP_ADDR_LO_VALUE, .rw, .frozen, 0⟩]⟩,
  ⟨"TRAP_ADDR_HI", 0x04F0108, 1, .inj, false, false, false,
    [⟨TRAP_ADDR_HI_VALUE, .rw, .frozen, 0⟩]⟩,
  ⟨"TRAP_LEN", 0x04F010C, 1, .inj, false, false, false,
    [⟨TRAP_LEN_VALUE, .rw, .frozen, 0⟩]⟩,
  ⟨"TRAP_STAT", 0x04F0110, 1, .inj, false, false, false,
    [⟨TRAP_STAT_FAIL_CODE, .ro, .none, 0⟩, ⟨TRAP_STAT_FAILED, .w1c, .live, 0⟩, ⟨TRAP_STAT_DONE, .w1c, .live, 0⟩, ⟨TRAP_STAT_BUSY, .ro, .none, 0⟩]⟩,
  ⟨"TRAP_VER", 0x04F0114, 1, .inj, false, false, false,
    [⟨TRAP_VER_VERSION, .ro, .none, 0⟩]⟩,
  ⟨"FLT_SPARES", 0x04F0120, 1, .inj, false, false, false,
    [⟨FLT_SPARES_FENCED, .ro, .none, 0⟩, ⟨FLT_SPARES_SPARES, .ro, .none, 0⟩]⟩]

/-- All registers of block INJ. -/
def regsInj : List RegDef := regsInj0

/-- Registers of block LINJ (R425), part 0. -/
def regsLinj0 : List RegDef := [
  ⟨"LINJ_STAT", 0x100F000, 1, .linj, false, false, false,
    [⟨LINJ_STAT_POINT, .ro, .none, 0⟩, ⟨LINJ_STAT_FIRED, .w1c, .live, 0⟩, ⟨LINJ_STAT_ARMED, .ro, .none, 0⟩]⟩]

/-- All registers of block LINJ. -/
def regsLinj : List RegDef := regsLinj0

/-- Registers of block GLB (R446, R477), part 0. -/
def regsGlb0 : List RegDef := [
  ⟨"GLB_STATE", 0x0000010, 1, .glb, false, false, false,
    [⟨GLB_STATE_CAUSE, .ro, .none, 0⟩, ⟨GLB_STATE_WAIT, .ro, .none, 0⟩, ⟨GLB_STATE_STEP, .ro, .none, 0⟩, ⟨GLB_STATE_ADMIT_FAILED, .ro, .none, 0⟩, ⟨GLB_STATE_STANDBY, .ro, .none, 0⟩, ⟨GLB_STATE_FLIP_PARITY, .ro, .none, 0⟩, ⟨GLB_STATE_STATE, .ro, .none, 0⟩]⟩,
  ⟨"GLB_BOOT", 0x0000040, 1, .glb, false, false, false,
    [⟨GLB_BOOT_WARM, .ro, .none, 0⟩, ⟨GLB_BOOT_FALLBACK, .ro, .none, 0⟩, ⟨GLB_BOOT_VERIFY_FAIL, .ro, .none, 0⟩, ⟨GLB_BOOT_PENDING_ACK, .ro, .none, 0⟩]⟩,
  ⟨"GLB_IMG_VER", 0x0000044, 1, .glb, false, false, false,
    [⟨GLB_IMG_VER_VERSION, .ro, .none, 0⟩]⟩,
  ⟨"GLB_UPD", 0x0000048, 1, .glb, false, false, false,
    [⟨GLB_UPD_FAIL, .ro, .none, 0⟩, ⟨GLB_UPD_STATE, .ro, .none, 0⟩]⟩,
  ⟨"GLB_LAST_STOP", 0x000004C, 1, .glb, false, false, false,
    [⟨GLB_LAST_STOP_TYPE, .ro, .none, 0⟩, ⟨GLB_LAST_STOP_CAUSE, .ro, .none, 0⟩]⟩,
  ⟨"GLB_ASSIGN", 0x0000050, 1, .glb, false, false, false,
    [⟨GLB_ASSIGN_VALID, .rw, .live, 0⟩, ⟨GLB_ASSIGN_STANDBY, .rw, .live, 0⟩, ⟨GLB_ASSIGN_PARITY, .rw, .live, 0⟩]⟩,
  ⟨"GLB_ASSIGN_EPOCH", 0x0000054, 1, .glb, false, false, false,
    [⟨GLB_ASSIGN_EPOCH_EPOCH, .rw, .live, 0⟩]⟩,
  ⟨"GLB_ID", 0x0000000, 1, .glb, false, false, false,
    [⟨GLB_ID_DEVICE, .ro, .none, 2176⟩, ⟨GLB_ID_VENDOR, .ro, .none, Config.vendorId.toNat⟩]⟩,
  ⟨"GLB_REV", 0x0000004, 1, .glb, false, false, false,
    [⟨GLB_REV_STEP_MAJOR, .ro, .none, Config.stepMajor.toNat⟩, ⟨GLB_REV_STEP_MINOR, .ro, .none, Config.stepMinor.toNat⟩, ⟨GLB_REV_ROM, .ro, .none, Config.romVersion.toNat⟩, ⟨GLB_REV_MAP, .ro, .none, 1⟩]⟩,
  ⟨"GLB_LOCK", 0x0000020, 1, .glb, false, false, false,
    [⟨GLB_LOCK_BY_TDISP, .ro, .none, 0⟩, ⟨GLB_LOCK_CFG_SEAL, .rws, .live, 0⟩]⟩,
  ⟨"GLB_FAULT_SUM", 0x0000030, 1, .glb, false, false, false,
    [⟨GLB_FAULT_SUM_ACCESS, .ro, .none, 0⟩, ⟨GLB_FAULT_SUM_REQUEST, .ro, .none, 0⟩, ⟨GLB_FAULT_SUM_LOAD, .ro, .none, 0⟩, ⟨GLB_FAULT_SUM_CHRYSALIS, .ro, .none, 0⟩, ⟨GLB_FAULT_SUM_ADMIT, .ro, .none, 0⟩, ⟨GLB_FAULT_SUM_ASSIZE, .ro, .none, 0⟩, ⟨GLB_FAULT_SUM_MONITOR, .ro, .none, 0⟩, ⟨GLB_FAULT_SUM_POWER, .ro, .none, 0⟩, ⟨GLB_FAULT_SUM_THERMAL, .ro, .none, 0⟩, ⟨GLB_FAULT_SUM_STACK, .ro, .none, 0⟩, ⟨GLB_FAULT_SUM_LINK, .ro, .none, 0⟩, ⟨GLB_FAULT_SUM_CORE, .ro, .none, 0⟩, ⟨GLB_FAULT_SUM_SEC, .ro, .none, 0⟩, ⟨GLB_FAULT_SUM_WREF, .ro, .none, 0⟩, ⟨GLB_FAULT_SUM_CFG_CRC, .ro, .none, 0⟩, ⟨GLB_FAULT_SUM_TIME, .ro, .none, 0⟩]⟩,
  ⟨"GLB_FAULT_MASK", 0x0000034, 1, .glb, true, false, false,
    [⟨GLB_FAULT_MASK_EN, .rw, .live, 0⟩]⟩]

/-- Registers of block GLB (R446, R477), part 1. -/
def regsGlb1 : List RegDef := [
  ⟨"GLB_ACC_ERR", 0x0000038, 1, .glb, false, false, false,
    [⟨GLB_ACC_ERR_COUNT, .ro, .none, 0⟩, ⟨GLB_ACC_ERR_CHRYSALIS, .w1c, .live, 0⟩, ⟨GLB_ACC_ERR_PARTIAL, .w1c, .live, 0⟩, ⟨GLB_ACC_ERR_UNMAPPED, .w1c, .live, 0⟩]⟩,
  ⟨"WIDE_SEL", 0x0000100, 1, .glb, false, false, false,
    [⟨WIDE_SEL_ADDR, .rw, .live, 0⟩]⟩,
  ⟨"WIDE_STAT", 0x0000104, 1, .glb, false, false, false,
    [⟨WIDE_STAT_WORDS, .ro, .none, 0⟩, ⟨WIDE_STAT_ERR, .ro, .none, 0⟩, ⟨WIDE_STAT_BUSY, .ro, .none, 0⟩, ⟨WIDE_STAT_VALID, .ro, .none, 0⟩]⟩,
  ⟨"WIDE_D", 0x0000110, 16, .glb, false, false, false,
    [⟨WIDE_D_DATA, .ro, .none, 0⟩]⟩,
  ⟨"CFG_CRC_CUR", 0x0000200, 1, .glb, false, false, false,
    [⟨CFG_CRC_CUR_CRC, .ro, .none, 0⟩]⟩,
  ⟨"CFG_CRC_REF", 0x0000204, 1, .glb, false, false, false,
    [⟨CFG_CRC_REF_REF, .rw, .live, 0⟩]⟩,
  ⟨"CFG_CRC_CTRL", 0x0000208, 1, .glb, false, false, false,
    [⟨CFG_CRC_CTRL_ALARMS, .ro, .none, 0⟩, ⟨CFG_CRC_CTRL_OPEN, .ro, .none, 0⟩, ⟨CFG_CRC_CTRL_MATCH, .ro, .none, 0⟩, ⟨CFG_CRC_CTRL_ARMED, .ro, .none, 0⟩, ⟨CFG_CRC_CTRL_ALARM, .w1c, .live, 0⟩, ⟨CFG_CRC_CTRL_ADOPT, .w1s, .live, 0⟩, ⟨CFG_CRC_CTRL_COMMIT, .w1s, .live, 0⟩]⟩,
  ⟨"CFG_CRC_INF", 0x000020C, 1, .glb, false, false, false,
    [⟨CFG_CRC_INF_REF, .ro, .none, 0⟩]⟩,
  ⟨"CFG_WREF", 0x0000210, 1, .glb, false, false, false,
    [⟨CFG_WREF_VALID, .w1c, .live, 0⟩, ⟨CFG_WREF_SEALED, .ro, .none, 0⟩, ⟨CFG_WREF_SRC, .ro, .none, 0⟩, ⟨CFG_WREF_ADDR, .ro, .none, 0⟩]⟩,
  ⟨"CFG_WREF_DATA", 0x0000214, 1, .glb, false, false, false,
    [⟨CFG_WREF_DATA_VALUE, .ro, .none, 0⟩]⟩,
  ⟨"CFG_WREF_CNT", 0x0000218, 1, .glb, false, false, false,
    [⟨CFG_WREF_CNT_VALUE, .ro, .none, 0⟩]⟩]

/-- All registers of block GLB. -/
def regsGlb : List RegDef := regsGlb0 ++ regsGlb1

/-- Registers of block RTV (R460), part 0. -/
def regsRtv0 : List RegDef := [
  ⟨"RTV_STAT", 0x0480200, 1, .rtv, false, false, false,
    [⟨RTV_STAT_QUEUE, .ro, .none, 0⟩, ⟨RTV_STAT_RUNNING, .ro, .none, 0⟩, ⟨RTV_STAT_IN_FORCE, .ro, .none, 0⟩]⟩,
  ⟨"RTV_QUERY_CNT", 0x0480204, 1, .rtv, false, false, false,
    [⟨RTV_QUERY_CNT_COUNT, .ro, .none, 0⟩]⟩,
  ⟨"RTV_REFUSE_CNT", 0x0480208, 1, .rtv, false, false, false,
    [⟨RTV_REFUSE_CNT_COUNT, .ro, .none, 0⟩]⟩,
  ⟨"RTV_VOID_CNT", 0x048020C, 1, .rtv, false, false, false,
    [⟨RTV_VOID_CNT_COUNT, .ro, .none, 0⟩]⟩,
  ⟨"RTV_HIT_CNT", 0x0480210, 1, .rtv, false, false, false,
    [⟨RTV_HIT_CNT_COUNT, .ro, .none, 0⟩]⟩,
  ⟨"RTV_CLAMP_CNT", 0x0480214, 1, .rtv, false, false, false,
    [⟨RTV_CLAMP_CNT_COUNT, .ro, .none, 0⟩]⟩,
  ⟨"RTV_FLIP", 0x0480220, 1, .rtv, false, false, false,
    [⟨RTV_FLIP_REQ, .w1s, .live, 0⟩, ⟨RTV_FLIP_CORPUS, .rw, .live, 0⟩]⟩,
  ⟨"RTV_FLIP_STAT", 0x0480224, 1, .rtv, false, false, false,
    [⟨RTV_FLIP_STAT_PREV_HELD, .ro, .none, 0⟩, ⟨RTV_FLIP_STAT_REFUSED, .w1c, .live, 0⟩, ⟨RTV_FLIP_STAT_PENDING, .ro, .none, 0⟩, ⟨RTV_FLIP_STAT_READY, .ro, .none, 0⟩]⟩,
  ⟨"RTV_EPOCH", 0x0480228, 1, .rtv, false, false, false,
    [⟨RTV_EPOCH_EPOCH, .ro, .none, 0⟩]⟩,
  ⟨"RTV_EPOCH_PEND", 0x048022C, 1, .rtv, false, false, false,
    [⟨RTV_EPOCH_PEND_EPOCH, .ro, .none, 0⟩]⟩]

/-- All registers of block RTV. -/
def regsRtv : List RegDef := regsRtv0

/-- Registers of block THM (R478), part 0. -/
def regsThm0 : List RegDef := [
  ⟨"THM_STAT", 0x0180000, 1, .thm, false, false, false,
    [⟨THM_STAT_DIVIDED, .ro, .none, 0⟩, ⟨THM_STAT_HEAT, .ro, .none, 0⟩, ⟨THM_STAT_SKIPPING, .ro, .none, 0⟩, ⟨THM_STAT_IGNORED, .ro, .none, 0⟩, ⟨THM_STAT_ASSUMED, .ro, .none, 0⟩, ⟨THM_STAT_RUNNING, .ro, .none, 0⟩]⟩,
  ⟨"THM_HOT", 0x0180004, 1, .thm, false, false, false,
    [⟨THM_HOT_TEMP, .ro, .none, 0⟩, ⟨THM_HOT_SENSOR, .ro, .none, 0⟩]⟩,
  ⟨"THM_IGN_LO", 0x0180010, 1, .thm, false, false, false,
    [⟨THM_IGN_LO_MASK, .ro, .none, 0⟩]⟩,
  ⟨"THM_IGN_HI", 0x0180014, 1, .thm, false, false, false,
    [⟨THM_IGN_HI_MASK, .ro, .none, 0⟩]⟩,
  ⟨"THM_IGN_EXT", 0x0180018, 1, .thm, false, false, false,
    [⟨THM_IGN_EXT_MASK, .ro, .none, 0⟩]⟩,
  ⟨"THM_SEL", 0x0180020, 1, .thm, false, false, false,
    [⟨THM_SEL_SENSOR, .rw, .live, 0⟩]⟩,
  ⟨"THM_DATA", 0x0180024, 1, .thm, false, true, false,
    [⟨THM_DATA_TEMP, .ro, .none, 0⟩, ⟨THM_DATA_REASON, .ro, .none, 0⟩]⟩,
  ⟨"THM_SKIP_AT", 0x0180030, 1, .thm, true, false, false,
    [⟨THM_SKIP_AT_TEMP, .rw, .boundary, 25600⟩]⟩,
  ⟨"THM_HEAT_CNT", 0x0180040, 1, .thm, false, false, false,
    [⟨THM_HEAT_CNT_COUNT, .ro, .none, 0⟩]⟩]

/-- All registers of block THM. -/
def regsThm : List RegDef := regsThm0

/-- Registers of block PWR (R479), part 0. -/
def regsPwr0 : List RegDef := [
  ⟨"PWR_STAT", 0x01C0000, 1, .pwr, false, false, false,
    [⟨PWR_STAT_CAP_ACTIVE, .ro, .none, 0⟩, ⟨PWR_STAT_REG_FAULT, .ro, .none, 0⟩, ⟨PWR_STAT_VIN_OK, .ro, .none, 0⟩, ⟨PWR_STAT_RUNNING, .ro, .none, 0⟩]⟩,
  ⟨"PWR_VIN", 0x01C0004, 1, .pwr, false, false, false,
    [⟨PWR_VIN_IIN, .ro, .none, 0⟩, ⟨PWR_VIN_VIN, .ro, .none, 0⟩]⟩,
  ⟨"PWR_MODULE", 0x01C0008, 1, .pwr, false, false, false,
    [⟨PWR_MODULE_POWER, .ro, .none, 0⟩]⟩,
  ⟨"PWR_CAP", 0x01C000C, 1, .pwr, true, false, false,
    [⟨PWR_CAP_CAP, .rw, .boundary, 14000⟩]⟩,
  ⟨"PWR_RAIL_SEL", 0x01C0010, 1, .pwr, false, false, false,
    [⟨PWR_RAIL_SEL_POINT, .rw, .live, 0⟩]⟩,
  ⟨"PWR_RAIL_DATA", 0x01C0014, 1, .pwr, false, true, false,
    [⟨PWR_RAIL_DATA_MV, .ro, .none, 0⟩]⟩,
  ⟨"PWR_ENERGY", 0x01C0018, 1, .pwr, false, false, false,
    [⟨PWR_ENERGY_JOULES, .ro, .none, 0⟩]⟩,
  ⟨"PWR_FLAG", 0x01C001C, 1, .pwr, false, false, false,
    [⟨PWR_FLAG_CAP_MISS, .w1c, .live, 0⟩, ⟨PWR_FLAG_REG_FAULT, .w1c, .live, 0⟩, ⟨PWR_FLAG_VIN_LOW, .w1c, .live, 0⟩, ⟨PWR_FLAG_VIN_HIGH, .w1c, .live, 0⟩]⟩]

/-- All registers of block PWR. -/
def regsPwr : List RegDef := regsPwr0

/-- The registers of a block. -/
def Block.regs : Block → List RegDef
  | .eng => regsEng
  | .tb => regsTb
  | .asz => regsAsz
  | .mon => regsMon
  | .core => regsCore
  | .mxu => regsMxu
  | .pw => regsPw
  | .stk => regsStk
  | .rtr => regsRtr
  | .lnk => regsLnk
  | .fab => regsFab
  | .rqt => regsRqt
  | .ld => regsLd
  | .sec => regsSec
  | .inj => regsInj
  | .linj => regsLinj
  | .glb => regsGlb
  | .rtv => regsRtv
  | .thm => regsThm
  | .pwr => regsPwr

/-- The block a BAR0 address lies in, and the address of the same offset in instance 0 of that block
(R465). `none` where no block is. -/
def locate (a : Nat) : Option (Block × Nat) :=
  if a < 0x1000 then some (.glb, a)
  else if a < 0x2000 then some (.tb, a)
  else if a < 0x100000 then none
  else if a < 0x140000 then some (.mon, a)
  else if a < 0x180000 then some (.asz, a)
  else if a < 0x1C0000 then some (.thm, a)
  else if a < 0x200000 then some (.pwr, a)
  else if a < 0x300000 then
    let o := (a - 0x200000) % 0x4000
    if o < 0x2000 then some (.lnk, 0x200000 + o)
    else if a < 0x204000 then some (.fab, a) else none
  else if a < 0x400000 then some (.stk, 0x300000 + (a - 0x300000) % 0x10000)
  else if a < 0x400800 then some (.sec, a)
  else if a < 0x480000 then some (.ld, a)
  else if a < 0x480200 then some (.rqt, a)
  else if a < 0x4F0000 then some (.rtv, a)
  else if a < 0x500000 then some (.inj, a)
  else if a < 0x1000000 then none
  else if a < 0x4200000 then
    let o := (a - 0x1000000) % 0x10000
    if o < 0x1000 then some (.core, 0x1000000 + o)
    else if o < 0x9000 then some (.eng, 0x1001000 + (o - 0x1000) % 0x1000)
    else if o < 0xA000 then some (.mxu, 0x1000000 + o)
    else if o < 0xB000 then some (.rtr, 0x1000000 + o)
    else if o < 0xC000 then some (.pw, 0x1000000 + o)
    else if o < 0xF000 then none
    else some (.linj, 0x1000000 + o)
  else none

/-- The register that covers a BAR0 address, if any (R481): `none` is an unmapped address (R463). -/
def regAt (a : Nat) : Option RegDef :=
  match locate a with
  | none => none
  | some (b, a0) =>
    b.regs.find? (fun r => decide (r.addr ≤ a0) && decide (a0 < r.addr + 4 * r.cnt))

/-- Where a field lies in a word. -/
def fieldMask (hi lo : Nat) : Nat := (2 ^ (hi + 1) - 2 ^ lo)

/-- Read bits hi:lo of a word. -/
def getBits (w : Word) (hi lo : Nat) : Nat := w.toNat / 2 ^ lo % 2 ^ (hi + 1 - lo)

/-- Replace bits hi:lo of a word; a value wider than the field loses its high bits. -/
def setBits (w : Word) (hi lo v : Nat) : Word :=
  BitVec.ofNat 32 (w.toNat - getBits w hi lo * 2 ^ lo + v % 2 ^ (hi + 1 - lo) * 2 ^ lo)

/-- The reset word that a register's table gives. -/
def RegDef.resetWord (r : RegDef) : Word :=
  r.fields.foldl (fun w f => setBits w f.fld.hi f.fld.lo f.reset) 0

/-- The reset value of the word at a BAR0 address: the register tables, with the MON_SEQ and MON_COEF
entries by their index (R154). Gaps read as 0 (R463). Log entry 4 (DESIGN CHOICE). -/
def regReset (a : Nat) : Word :=
  match regAt a with
  | none => 0
  | some r =>
    if r.addr = 0x100400 then
      let i := (a - 0x100400) / 4
      if i < 95 then BitVec.ofNat 32 i else if i = 95 then BitVec.ofNat 32 (0x8000 + 95) else 0
    else if r.addr = 0x100800 then
      let ch := (a - 0x100800) / 4
      BitVec.ofNat 32 ((Config.monGain ch).toNat * 65536 + (Config.monOffset ch).toNat)
    else if r.wide then 0
    else r.resetWord

/-- The cover mask of a register (R474): its RW and RWS bits, for a covered register. -/
def RegDef.coverMask (r : RegDef) : Nat :=
  if r.covered then
    r.fields.foldl (fun m f =>
      if f.acc = .rw ∨ f.acc = .rws then m + fieldMask f.fld.hi f.fld.lo else m) 0
  else 0

end Sys2Proof.Machine
end

