-- ==== Sys2Proof/Machine/SMap.lean ====
section
/-! DEFINITION. Sparse maps in one canonical form: keys strictly rising, no entry equal to what an
unlisted key reads as. Every memory and every register file of the model is one of these, so that
equal contents are equal data. -/
namespace Sys2Proof.Machine

/-- A sparse map from numbers to values. Log entry 5 (DESIGN CHOICE). -/
abbrev SMap (α : Type) := List (Nat × α)

/-- What key `k` holds; `d k` where it is not listed. -/
def SMap.get {α : Type} (d : Nat → α) : SMap α → Nat → α
  | [], k => d k
  | (j, v) :: m, k => if j = k then v else SMap.get d m k

/-- Insert `(k, v)` in key order, in place of an entry of the same key. -/
def SMap.ins {α : Type} (k : Nat) (v : α) : SMap α → SMap α
  | [] => [(k, v)]
  | (j, w) :: m =>
    if k < j then (k, v) :: (j, w) :: m
    else if k = j then (k, v) :: m
    else (j, w) :: SMap.ins k v m

/-- Remove the entry of key `k`. -/
def SMap.del {α : Type} (k : Nat) (m : SMap α) : SMap α := m.filter (fun e => e.1 != k)

/-- Write `v` at key `k`, keeping the canonical form: writing what an unlisted key reads as removes
the entry. -/
def SMap.set {α : Type} [DecidableEq α] (d : Nat → α) (m : SMap α) (k : Nat) (v : α) : SMap α :=
  if v = d k then SMap.del k m else SMap.ins k v m

/-- Keys strictly rising, and all of them above `lo`. -/
def SMap.risingFrom {α : Type} : Option Nat → SMap α → Bool
  | _, [] => true
  | none, (j, _) :: m => SMap.risingFrom (some j) m
  | some i, (j, _) :: m => decide (i < j) && SMap.risingFrom (some j) m

/-- The canonical form. -/
def SMap.wf {α : Type} [DecidableEq α] (d : Nat → α) (m : SMap α) : Bool :=
  SMap.risingFrom none m && m.all (fun e => decide (e.2 ≠ d e.1))

/-- The keys that are listed. -/
def SMap.keys {α : Type} (m : SMap α) : List Nat := m.map Prod.fst

/-- Write consecutive values from key `k` upwards. -/
def SMap.setRange {α : Type} [DecidableEq α] (d : Nat → α) (m : SMap α) (k : Nat) : List α → SMap α
  | [] => m
  | v :: vs => SMap.setRange d (SMap.set d m k v) (k + 1) vs

/-- Read `n` consecutive values from key `k` upwards. -/
def SMap.getRange {α : Type} (d : Nat → α) (m : SMap α) (k : Nat) : Nat → List α
  | 0 => []
  | n + 1 => SMap.get d m k :: SMap.getRange d m (k + 1) n

end Sys2Proof.Machine
end

