-- ==== Sys2Proof/Machine/State.lean ====
section
/-! DEFINITION. The machine's state as plain data: everything the spec gives the TQ-880 module, the queue
of waiting commands, and the model's own counter of free values. -/
namespace Sys2Proof.Machine

/-! ### Rack time, the schedule and the scoreboard (07) -/

/-- The symbol of an FMARK pulse (R180). -/
inductive Symbol where
  | zero | one | sync | bad
  deriving DecidableEq, Repr

/-- A completed frame (R180, R183): the mile number it carries, and whether it is valid. -/
structure FrameIn where
  f : Nat
  ok : Bool
  deriving DecidableEq, Repr

/-- One scoreboard token of a core (R193). `slot` is the bushel instance whose data the buffer holds,
if any; `consumed` says that the first issue that takes the current instance has started (R196). -/
structure Token where
  inst : Nat
  expected : BitVec 32
  arrived : BitVec 32
  voided : BitVec 32
  /-- rows that carry the precision flag (R101) -/
  flagged : BitVec 32
  /-- rows that a stub has marked void in the instance (R505) -/
  stubbed : BitVec 32
  consumed : Bool
  slot : Option Nat
  /-- what the descriptor of a bushel that is formed gives the token for that instance: instance, expected rows, bushel (R193,
  R331) -/
  next : Option (Nat × BitVec 32 × Nat)
  /-- the token of the old tables whose buffer it took over at a switch, for the instance that it carries (R207) -/
  buf : Option Nat
  deriving DecidableEq, Repr

/-- A token not tied to a bushel expects row 0 only (R193). -/
def Token.idle : Token := ⟨0, 1, 0, 0, 0, 0, false, none, none, none⟩

/-- The time base (R177 to R186). -/
structure TimeBase where
  /-- the rod count, 0 to P - 1 (R178) -/
  rod : Nat
  /-- the symbols of the frame being received, newest first, once a SYNC was seen (R180) -/
  frame : Option (List Symbol)
  /-- F of the last valid frame while the count is being established (R181) -/
  lastF : Option Nat
  /-- the count runs provisionally (R181) -/
  provisional : Bool
  /-- the last valid frame that disagreed with the count: its F and the mile of its SYNC (R183) -/
  pair : Option (Nat × Nat)
  /-- an edge was accepted for the mile boundary that is due or just passed (R182) -/
  edgeSeen : Bool
  /-- a mile boundary awaits the judgement of its edge (R182) -/
  edgeDue : Bool
  /-- consecutive mile boundaries without an accepted edge (R182) -/
  missRun : Nat
  /-- rods counted from the core clock since REFCLK was lost (R184) -/
  holdRods : Nat
  /-- REFCLK has returned, and the next FMARK edge decides (R184) -/
  refBack : Bool
  /-- rods for which an injection still treats REFCLK as absent (R408, 0x1A) -/
  refInj : Option Nat
  /-- the sequencers stop at the next rod boundary (R186, R421, R489) -/
  stopAtRod : Bool
  /-- the sequencers stop at the next mile boundary (R213) -/
  stopAtMile : Bool
  /-- the rod that has begun starts a furlong, and a mile, whose changes are still to be made (R5, R192) -/
  furDue : Bool
  mileDue : Bool
  deriving DecidableEq, Repr

/-- A descriptor issue that the sequencer has loaded for the rod (R190): physical core, slot and issue number, the cycle of the
rod that it starts at (0 for one that began in an earlier rod), its agent, instance number, tokens and slot kind (R188, R189). -/
structure DueIssue where
  core : Nat
  slot : Nat
  issue : Nat
  cycle : Nat
  agent : Agent
  inst : Nat
  ins : List Nat
  out : Nat
  kind : SlotKind
  deriving DecidableEq, Repr

/-- A variant request seen on the sideband or raised here (R205, R206). -/
structure VarReq where
  mile : Nat
  var : Nat
  own : Bool
  refused : Bool
  deriving DecidableEq, Repr

/-- A decided switch (R206, R209): the mile at whose start it takes effect, its variant, and the dated
mile of its request. -/
structure Switch where
  atMile : Nat
  var : Nat
  dated : Nat
  own : Bool
  deriving DecidableEq, Repr

/-- The sequencers and the schedule (R188 to R209, R213). -/
structure Sched where
  /-- the sequencers run -/
  running : Bool
  /-- variant in force -/
  var : Nat
  /-- the sequencers start at the next fitting mile boundary (R186, R439) -/
  startDue : Bool
  tokens : SMap Token
  due : List DueIssue
  reqs : List VarReq
  switches : List Switch
  /-- cycles skipped, and slack met, per core in the running furlong (R201) -/
  skipped : SMap Nat
  slack : SMap Nat
  /-- the admission of R210 waits to be run -/
  admDue : Bool
  /-- intake admits nothing against the failed variant in force (R213) -/
  barred : Bool
  /-- the start-up admission is over (R213) -/
  started : Bool
  /-- the module is admitted (R213): true from the admission that passes to the one that admits nothing -/
  admitted : Bool
  deriving DecidableEq, Repr

/-! ### The module fabric (09) -/


/-- What a port keeps beside its registers (R241 to R256), by its lowest physical lane. Log entry 63 (DESIGN CHOICE). -/
structure Port where
  txSeq : Nat
  rxSeq : Nat
  /-- lanes of the port that have trained, and deskewed, in the running training (R236) -/
  lanes : BitVec 8
  /-- the random value drawn for the training (R249), the partner's hello and confirm -/
  random : BitVec 32
  hello : Option Hello
  confirm : Option Confirm
  /-- the cabling check result of this end (R250): 0 MATCH, 1 FAR_SWAP, 2 SWAP, 3 MISMATCH -/
  result : Option Nat
  /-- tag failures in the running furlong (R242) -/
  tagFails : Nat
  /-- rod of the last valid heartbeat, consecutive slots missed, and whether an injection discarded one (R255, R408) -/
  hbRod : Option Nat
  hbMiss : Nat
  hbInj : Bool
  /-- rod in which the last heartbeat was sent (R243) -/
  hbSent : Option Nat
  /-- consecutive heartbeats that disagree with the count, and heartbeats passed in step 6 (R185, R248) -/
  peerRun : Nat
  peerPass : Nat
  refuseData : Bool
  /-- the partner's STATE byte (R243) -/
  partner : Nat
  /-- disabled by the cabling decision, or FOREIGN (R252, R253) -/
  planOff : Bool
  retrain : Bool
  /-- data frames received and sent in the running rod (LNK_FRAMES) -/
  rx : Nat
  tx : Nat
  /-- partner's die identifier from its last hello (LNK_PARTNER_ID) -/
  partnerId : BitVec 64
  /-- routes are held for a lost partner (R256) -/
  held : Bool
  /-- a training attempt has failed since the start (R434) -/
  failed : Bool
  /-- silent since the module yielded (R415) -/
  quiet : Bool
  deriving DecidableEq, Repr

def Port.idle : Port :=
  ⟨0, 0, 0, 0, none, none, none, 0, none, 0, false, none, 0, 0, false, 0, false, false, 0, 0, 0, false, false, false⟩

/-- A LOSS seen (R257, R258): the module named, the dated mile, a PRESENT seen, the mile at whose start it is confirmed. -/
structure Loss where
  group : Nat
  module : Nat
  mile : Nat
  present : Bool
  confirmed : Option Nat
  /-- the ports to the module that detected the loss here -/
  ports : List Nat
  /-- the ports have entered the capability record as absent -/
  closed : Bool
  deriving DecidableEq, Repr

/-- A frame that the module has sent (R240): port, full sequence number, header, payload before encryption, and the frame's
bytes on the lanes: header, payload, trailer. -/
structure FrameOut where
  port : Nat
  seq : Nat
  hdr : FrameHdr
  payload : List Byte
  bytes : List Byte
  deriving DecidableEq, Repr

/-- Positions whose data was sent on a port (R256): the bushel rows, and the answer token and rows where known. -/
structure Await where
  port : Nat
  key : Option Nat
  rows : BitVec 32
  answer : Option (Nat × Nat × BitVec 32)
  deriving DecidableEq, Repr

/-- The fabric block. -/
structure Fabric where
  ports : SMap Port
  /-- the sideband table (R246), its relay queue, oldest first, and on which ports a queued message has gone -/
  seen : List SbMsg
  queue : List SbMsg
  relayed : List (SbMsg × Nat)
  losses : List Loss
  /-- the HEAT relays of other origins are stopped until the queue falls below 24 (R247) -/
  heatStop : Bool
  /-- frames sent, newest first -/
  sent : List FrameOut
  /-- takeovers in force (R418): group and module of the lost role, and of the standby that serves it -/
  takeovers : List (Nat × Nat × Nat × Nat)
  awaits : List Await
  deriving DecidableEq, Repr

/-! ### Intake, the request table, bushels and egress (12) -/

/-- The states of a request table entry (R323, R324), in the order of their codes 0 to 7. -/
inductive ReqState where
  | free | intake | prefill | decode | paused | draining | cancelled | done
  deriving DecidableEq, Repr

/-- A committed token not yet written to the egress ring: position, token, precision flag, rod (R320). -/
structure OutToken where
  pos : Nat
  tok : Nat
  flag : Bool
  rod : Nat
  deriving DecidableEq, Repr

/-- One entry of the request table: the fields of R323, then what the entry module keeps beside them. -/
structure Req where
  handle : BitVec 64
  seed : BitVec 64
  /-- VOIDRUN, PRIO and GEN -/
  (voidrun prio gen : Nat)
  state : ReqState
  /-- DEADLINE, NROWS, ROW and SEAT -/
  (deadline nrows row seat : Nat)
  /-- L_T and L_C -/
  (lT lC : Nat)
  /-- REGION and RESUME -/
  (region resume : Nat)
  /-- EG_HOLD, HOST_HOLD, SPEC and PEN -/
  (egHold hostHold spec pen : Bool)
  /-- CODE, NMAX and P -/
  (code nMax p : Nat)
  adapterEn : Bool
  /-- ADAPTER_SLOT, ADAPTER_VER and EPOCH -/
  (adapterSlot adapterVer epoch : Nat)
  /-- SAMP_PTR, PT_BASE, STOP_PTR and COUNT_PTR -/
  (sampPtr ptBase stopPtr countPtr : Nat)
  /-- the request holds a seat (R329) -/
  seated : Bool
  /-- its ADMIT has been sent, naming this boundary (R315) -/
  admitAt : Option Nat
  /-- next prompt position to be placed in a bushel (R330) -/
  placed : Nat
  /-- pending DRAFT: BASE and the tokens (R332) -/
  draft : Option (Nat × List Nat)
  /-- the pending token at position L_C (R323) -/
  pendTok : Nat
  /-- committed tokens not yet written (R321) -/
  unsent : List OutToken
  /-- voided instances since the last record (R320) -/
  voids : Nat
  /-- the furlong boundary at which a DONE or CANCELLED slot returns to FREE (R324) -/
  freeAt : Option Nat
  /-- page frames held for the request (R289) -/
  frames : Nat
  /-- the deadline reservation of F prefill rows (R329) -/
  reserve : Bool
  /-- the request uses ring prefill (R306) -/
  ring : Bool
  /-- the prompt tokens (R319), the sampling block (R336) and the stop set (R340) as fetched -/
  prompt : List Nat
  samp : List Byte
  stopSet : List Byte
  /-- the stop window: the last 15 committed generated tokens, newest first (R340) -/
  window : List Nat
  /-- adapter identifier of the SUBMIT (R319) -/
  adIdent : Nat
  deriving DecidableEq, Repr

/-- A FREE entry after reset. -/
def Req.empty : Req :=
  ⟨0, 0, 0, 0, 0, .free, 0, 0, 0, 0, 0, 0, 0, 0, false, false, false, false, 0, 0, 0, false, 0, 0, 0,
   0, 0, 0, 0, false, none, 0, none, 0, [], 0, none, 0, false, false, [], [], [], [], 0⟩

/-- A row of a bushel instance (R330, R331). `k` is the row's index within its request's rows. The row is present in the stages
from `first` on, up to `last` if it leaves the bushel (R301). -/
structure BushelRow where
  slot : Nat
  gen : Nat
  pos : Nat
  k : Nat
  isPrompt : Bool
  tok : Nat
  filled : Bool
  /-- POS_EXP of the descriptor (R331) -/
  posExp : Nat
  first : Nat
  last : Option Nat
  deriving DecidableEq, Repr

/-- A bushel instance formed and not yet retired (R329 to R332): bushel slot, starting rod, rows, rows
reported void (R25), rows paused by a lane (R332), and the tokens and flags drawn per row (R337). -/
structure Bushel where
  slot : Nat
  start : Nat
  rows : List BushelRow
  entered : Bool
  voided : BitVec 32
  lanePaused : BitVec 32
  /-- rows that left the bushel because their request is held at a layer (R301) -/
  heldRows : BitVec 32
  drawn : SMap (Nat × Bool)
  /-- requests whose rows the exit module has settled -/
  settled : List Nat
  deriving DecidableEq, Repr

/-- A retrieval or adapter or request record on its way to the egress ring (R320, R321). -/
structure EgRec where
  kind : Nat
  handle : BitVec 64
  code : Nat
  slot : Nat
  gen : Nat
  voids : Nat
  tokens : List OutToken
  rod : Nat
  /-- bytes 16 to 51 of a record of KIND 3 or 4 (R370, R456); empty otherwise -/
  body : List Byte
  deriving DecidableEq, Repr

/-- What waits for the egress slot (R321): a finished record, or the tokens of a live request. -/
inductive EgItem where
  | record (r : EgRec)
  | tokens (slot : Nat)
  deriving DecidableEq, Repr

/-- The request-table block. -/
structure Rqt where
  table : SMap Req
  updates : List TableUpdate
  bushels : List Bushel
  /-- return records that the exit module has sent, newest first (R341) -/
  returns : List ReturnRec
  /-- records waiting for the egress slot, oldest first -/
  egress : List EgItem
  /-- egress records written to host memory: ring index and bytes, newest first (R317) -/
  written : List (Nat × List Byte)
  /-- host index words written by the module, newest first: consumer and producer (R318) -/
  idxWrites : List (Nat × Nat)
  /-- intake records taken by a poll and not yet acted on, oldest first (R318) -/
  polled : List (List Byte)
  /-- intake is closed with code 0x19 until re-admission (R315) -/
  flowLate : Bool
  deriving DecidableEq, Repr

/-! ### Faults, patrol, injection, fencing (15) -/

/-- A fault record (R397, R409). -/
structure FaultRec where
  det : Nat
  core : Nat
  engine : Nat
  tier : Nat
  band : Nat
  unit : Nat
  /-- the slice of a failed witness comparison (R68); 0 for other detectors -/
  slice : Nat
  rod : Nat
  injected : Bool
  deriving DecidableEq, Repr

/-- What the ledger of R406 weighs. `unit` is an engine 0 to 7, or 8 for the matrix unit. -/
structure LedgerEvent where
  residue : Bool
  core : Nat
  unit : Nat
  conv : Option (Nat × Nat)
  rod : Nat
  deriving DecidableEq, Repr

/-- An armed injection point (R409). -/
structure Armed where
  point : Nat
  core : Nat
  unit : Nat
  arg : Nat
  deriving DecidableEq, Repr

/-- The locus of a failing trap entry (R404). -/
inductive Locus where
  | converter (band : Nat) (conv : Nat)
  | spare (band : Nat)
  | band (b : Nat)
  | probeRow (row : Nat)
  | several
  deriving DecidableEq, Repr

/-- An array trap entry (R401): the 32 band levels, and the probe words. -/
structure ArrayEntry where
  levels : List Byte
  probes : List Word
  deriving DecidableEq, Repr

/-- A vector trap entry (R402). -/
structure VectorEntry where
  op : Nat
  a : List FpBits
  b : List FpBits
  expect : List FpBits
  deriving DecidableEq, Repr

/-- A trap set (R400). -/
structure TrapSet where
  version : Nat
  tolT : Nat
  tolB : Nat
  arr : List ArrayEntry
  vec : List VectorEntry
  /-- the set as stored, which TRAP_HASH covers (R381) -/
  bytes : List Byte
  deriving DecidableEq, Repr

def TrapSet.empty : TrapSet := ⟨0, 3, 8, [], [], []⟩

/-- A logical identity in repair (R412): the fenced core, the spare, the steps of R412 that are done. -/
structure Repair where
  logical : Nat
  fenced : Nat
  spare : Nat
  step : Nat
  deriving DecidableEq, Repr

/-- An expert in quarantine (R407): layer, expert, dispatching core, and the mile it began in. -/
structure Quarantine where
  layer : Nat
  expert : Nat
  core : Nat
  mile : Nat
  deriving DecidableEq, Repr

/-- The fault block. -/
structure Faults where
  log : List FaultRec
  ledger : List LedgerEvent
  /-- fences requested: core, the mile at whose start the fence takes effect, and whether it is for a
  retired converter only (R410, R415) -/
  fences : List (Nat × Nat)
  /-- units whose rows are voided until the fence: core and unit (0 to 7 engine, 8 matrix, 9 whole core,
  10 + agent), R406 -/
  untrusted : List (Nat × Nat)
  repairs : List Repair
  quarantines : List Quarantine
  /-- whether the last granted step of a layer and expert lost every answer (R407): key layer * 65536 + expert -/
  lastLost : SMap Bool
  armed : Option Armed
  /-- heartbeats of a port that an injected point still discards, or offsets by a value (R408): port, left, offset -/
  hbDiscard : Option (Nat × Nat)
  hbOffset : Option (Nat × Nat × Nat)
  /-- the trap set in force, the image's, and one verified and waiting for its mile (R405) -/
  traps : TrapSet
  trapImage : TrapSet
  trapWait : Option (Nat × TrapSet)
  trapHost : Bool
  /-- address and length of the trap-set load that runs (R405) -/
  trapLoad : Option (Nat × Nat)
  /-- next array entry + 1 of each tier of the running rotation, by tier key; 0 for a tier that is through or not in it
  (R403) -/
  rotation : SMap Nat
  /-- a rerun due on an engine: entry, tier, locus (R404) -/
  rerun : SMap (Option (Nat × Nat × Locus))
  /-- next vector entry of a core, and the entry + 1 that reruns (R403, R404) -/
  vecNext : SMap Nat
  vecRerun : SMap Nat
  /-- the module yields (R415): no heartbeat is sent -/
  yielding : Bool
  /-- logical core to physical core + 1; 0 for none (R2, R411) -/
  logMap : SMap Nat
  /-- logical core to the fenced core + 1 that sources still address, until a spare takes the identity (R229) -/
  former : SMap Nat
  /-- physical cores that fail self-test or are fenced (R211): 1 healthy, 0 not -/
  deadCores : List Nat
  deriving DecidableEq, Repr

/-! ### Start-up, boot store and event log (16) -/

/-- An event-log record (R429, R430). `detail` is bytes 32 upwards as far as they are used. -/
structure LogRec where
  type : Nat
  cause : Nat
  ack : Bool
  seq : Nat
  rod : Nat
  rodValid : Bool
  startNo : Nat
  imageVer : Nat
  detail : List Byte
  deriving DecidableEq, Repr

/-- An unwritten record of an erased sector. -/
def LogRec.erased : LogRec := ⟨0, 0, false, 0, 0, false, 0, 0, []⟩

/-- The boot store, the start sequence and the image in force. -/
structure Boot where
  /-- the bytes of the boot store's image area (R426); an erased byte reads 0xFF -/
  store : SMap Byte
  /-- the event log: record number 0 to 65,535 within the log area (R426, R429) -/
  log : SMap LogRec
  logNext : Nat
  seq : Nat
  startNo : Nat
  crcFails : Nat
  /-- the image being written (R440): its LENGTH, its VERSION, the next offset allowed -/
  updLen : Nat
  updVer : Nat
  updNext : Nat
  /-- the image in force (R428), and the SHA-384 values of it that reports carry -/
  image : Image
  imageOk : Bool
  /-- self test done (R434) -/
  tested : Bool
  /-- step 8: roles assigned, waiting only for missing tiles (R438) -/
  missing : List (Nat × Nat)
  /-- boot random (R378) -/
  bootRandom : BitVec 256
  /-- responses to the image messages, newest first: message and status byte (R440) -/
  imgResp : List (Nat × Nat)
  /-- the control core runs the firmware (R428) -/
  firmware : Bool
  /-- SHA-384 of the image in force and of its firmware section (R381) -/
  imageHash : List Byte
  fwHash : List Byte
  /-- what step 1 waits to go on with once the core clock locks (R434, R504) -/
  facts : Option StartFacts
  /-- the cause of the RESET record that a warm start writes: 1 PERST_N, 2 MRST_N; none for a cold start (R433) -/
  warm : Option Nat
  /-- the stored image is incomplete: an IMG_BEGIN has no IMG_END yet (R441) -/
  updOpen : Bool
  deriving DecidableEq, Repr

/-! ### Register interface (18) -/

/-- A wide mailbox (R469); each port has its own (R466). -/
structure Mailbox where
  addr : Nat
  busy : Bool
  valid : Bool
  err : Bool
  words : Nat
  data : List Word
  deriving DecidableEq, Repr

def Mailbox.idle : Mailbox := ⟨0, false, false, false, 0, List.replicate 16 0⟩

/-- The configuration CRC engine (R474 to R476): an ADOPT waits, the running pass started after it, and
the rod of the earliest open write. -/
structure CrcUnit where
  adopt : Bool
  adoptPass : Bool
  openRod : Option Nat
  deriving DecidableEq, Repr

/-- The MSI-X table and pending bits (R461, R480), with the vectors sent, newest first. -/
structure Msix where
  /-- vectors whose mask bit is clear -/
  unmasked : List Nat
  pend : List Nat
  sent : List Nat
  deriving DecidableEq, Repr

/-- The PCIe host link (R211): up, its generation 5 or 6, its width in lanes. -/
structure HostLink where
  up : Bool
  gen : Nat
  width : Nat
  deriving DecidableEq, Repr

/-! ### Engines (02, 03, 04) -/

/-- One tier (R33, R37, R87): metadata, scale rows and cells. Digit sums, active-row counts and cells are keyed
by position; an unlisted cell holds level 0. -/
structure Tier where
  epoch : Nat
  progCount : Nat
  progTime : Nat
  /-- weight bits 2, 4, 6 or 8 (R42) -/
  bits : Nat
  exact : Bool
  corpus : Bool
  witIdx : Nat
  /-- the metadata rows or a scale-row word fail their SECDED check (R35, R87) -/
  bad : Bool
  /-- N_p, by physical band -/
  active : SMap Nat
  /-- D, by data column * 32 + physical band -/
  digits : SMap Nat
  /-- cell level, by physical row * 1048 + cell column -/
  cells : SMap Nat
  /-- output scale sigma_k (FP16), group shifts and bias beta_k (FP32) by weight column (R87) -/
  sigma : SMap (BitVec 16)
  shifts : SMap (List Nat)
  bias : SMap FpBits
  /-- role of R347: 0 free, 1 current, 2 previous, 3 pending, 4 corpus, 5 standby, 6 programming, 7 failed -/
  role : Nat
  /-- tile number held, if any -/
  tile : Option Nat
  /-- the covered role of a standby copy (R365) -/
  copy : Option Nat
  /-- the row map is installed (R389) -/
  mapped : Bool
  deriving DecidableEq, Repr

/-- Log entry 7 (DESIGN CHOICE). -/
def Tier.blank : Tier :=
  ⟨0, 0, 0, 2, false, false, 0, false, [], [], [], [], [], [], 0, none, none, false⟩

/-- A contribution of the matrix unit at a merge point (R88, R109, R368): its value per weight column, the precision
flag that a limited or replaced value sets (R156), and whether its residue check or its operands failed (R157). -/
structure Contribution where
  vals : List FpBits
  flag : Bool
  isVoid : Bool
  deriving DecidableEq, Repr

/-- A vector in a staging register (R45 to R50, R108, R111). -/
structure Staged where
  input : StageIn
  /-- input bits 4, 6 or 8 of this pass, and the pass of R106 -/
  a : Nat
  pass : Nat
  x : List Int
  /-- band shift per input group (R48) -/
  h : List Nat
  eRef : Int
  zero : Bool
  flag : Bool
  /-- elements the outlier lane removed: logical row and real value in FP32 (R108) -/
  outliers : List (Nat × FpBits)
  crush : Bool
  /-- contributions that have come for its beat: outlier lane and adapter (R88) -/
  ol : Option Contribution
  ad : Option Contribution
  deriving DecidableEq, Repr

/-- A beat whose column integers are formed and whose outputs wait for contributions (R88 to R90). -/
structure BeatOut where
  issue : Issue
  row : Nat
  tile : Nat
  p : List Int
  eRef : Int
  outAddr : Nat
  void : Bool
  flag : Bool
  key : Option Nat
  tier : Nat
  query : Bool
  /-- elements that the outlier lane removed from the beat's input (R108) -/
  sel : List (Nat × FpBits)
  /-- contributions at the merge point: outlier lane and adapter (R88) -/
  ol : Option Contribution
  ad : Option Contribution
  deriving DecidableEq, Repr

/-- A beat that has taken an issue of a repeat window (R114): the window's slot and the issue's number. -/
structure RepeatDue where
  window : Nat × Nat
  staged : Staged
  issue : Issue
  outAddr : Nat
  key : Option Nat
  void : Bool
  tier : Nat
  deriving DecidableEq, Repr

/-- A peck that an engine's staging registers took from a broadcast bus (R224): its bushel row, its index in the row, whether it
is an A4 peck, and its bytes. -/
structure BusPeck where
  row : Nat
  index : Nat
  a4 : Bool
  bytes : List Byte
  deriving DecidableEq, Repr

/-- An engine beside its registers. -/
structure Engine where
  staged : List Staged
  /-- pecks taken from the broadcast buses and not yet staged, newest first (R224) -/
  bus : List BusPeck
  /-- beats at the output stage whose contributions have not all come, oldest first (R88, R90) -/
  outs : List BeatOut
  /-- the last tier select was refused: the beats that depend on it are skipped (R35) -/
  selBad : Bool
  windows : List RepeatDue
  /-- repeat-window issues taken, by window and issue number (R114) -/
  taken : List (Nat × Nat)
  /-- retired converter per physical band (R81) -/
  retired : List (Nat × Nat)
  /-- bands whose retirement takes effect on the engine's next beat (R81, R82) -/
  newRetired : List Nat
  /-- every beat is void: a spare was lost (R82) -/
  dead : Bool
  deriving DecidableEq, Repr

def Engine.idle : Engine := ⟨[], [], [], false, [], [], [], [], false⟩

/-! ### The Assize and the monitor converter (05) -/

/-- Trim words of one converter (R75), and the accumulators of R131. -/
structure Conv where
  g : Int
  o : Int
  oacc : Rat
  gacc : Rat
  /-- a set that has passed and waits to come into force (R135) -/
  pend : Option (Int × Int)
  deriving DecidableEq, Repr

def Conv.init : Conv := ⟨8192, 0, 0, 0, none⟩

/-- Drift state of one tier and band (R129, R131). kappa is in 1/256 count per kelvin. -/
structure TierBand where
  kAge : Int
  kappa : Int
  applied : Int
  kacc : Rat
  bres : Rat
  bsum : Rat
  bn : Nat
  tPrev : Option Rat
  pend : Option (Int × Int)
  /-- age and K_age of the last settling round that passed, and the change of K_age per decade between the last two (R140) -/
  lastSettle : Option (Rat × Int)
  decade : Option Rat
  deriving DecidableEq, Repr

def TierBand.init : TierBand := ⟨0, -6292, 0, 0, 0, 0, 0, none, none, none, none⟩

/-- The kinds of round (R127, R132). -/
inductive RoundKind where
  | first (n : Nat) | settling (n : Nat) | normal
  deriving DecidableEq, Repr

/-- An interrupted round: its kind, position, and the local temperatures met so far (R127). -/
structure RoundStash where
  kind : RoundKind
  pos : Nat
  tSum : Rat
  tCnt : Nat
  deriving DecidableEq, Repr

/-- Calibration of one tier (R127, R128, R140). -/
structure TierCal where
  pos : Nat
  active : Option RoundKind
  /-- furlong at which the last round ended -/
  lastEnd : Option Nat
  tempMove : Option Rat
  ageSince : Option Nat
  /-- settling rounds due and not yet run, and the number ended (R128, R140) -/
  settleDue : List Nat
  settleDone : Nat
  retry : Bool
  tSum : Rat
  tCnt : Nat
  lastT : Option Rat
  /-- age in seconds at the end of the last settling round; 1 before one has ended (R140) -/
  ageAt : Rat
  /-- the round of a retry: that of the rejected drift set (R134) -/
  lastKind : RoundKind
  /-- a round of this tier that a settling or retry round of the same tier interrupted (R127) -/
  stash : Option RoundStash
  deriving DecidableEq, Repr

def TierCal.init : TierCal := ⟨0, none, none, none, none, [], 0, false, 0, 0, none, 1, .normal, none⟩

/-- A set computed and written to the shadow words, awaiting its checks (R133). -/
structure TrimSetDue where
  core : Nat
  eng : Nat
  tier : Nat
  band : Nat
  /-- converter 0 to 32 for a converter set; none for a drift set -/
  conv : Option Nat
  /-- G and O, or K_age and kappa -/
  w0 : Int
  w1 : Int
  acc0 : Rat
  acc1 : Rat
  /-- fit slope b of a converter set; mean slope of a drift set -/
  b : Rat
  t : Rat
  badFit : Bool
  kind : RoundKind
  /-- age of the tier at the end of the round of a drift set (R140) -/
  age : Rat
  /-- the last set of a round: once it is checked the round's drift sets are computed, from the mean local temperature and
  the tier's age at the round's end (R131) -/
  ends : Option (Rat × Rat)
  deriving DecidableEq, Repr

/-- A rejected converter set (R134): its tier, converter and band, and the phase to which it belonged. -/
structure TrimRetry where
  tier : Nat
  conv : Nat
  band : Nat
  kind : RoundKind
  deriving DecidableEq, Repr

/-- Calibration of one engine. -/
structure EngCal where
  /-- the round running: its tier -/
  cur : Option Nat
  /-- interrupted rounds, newest first -/
  held : List Nat
  /-- converter sets to retry, oldest first (R134) -/
  retries : List TrimRetry
  everApplied : Bool
  deriving DecidableEq, Repr

def EngCal.init : EngCal := ⟨none, [], [], false⟩

/-- A temperature channel (R129, R130): last settled record, sum and number of those of the running and of the
last complete furlong, complete furlongs without one, whether one was ever written. Values in 2^-20 °C, exact (R146). -/
structure Sensor where
  last : Int
  sum : Int
  cnt : Nat
  prevSum : Int
  prevCnt : Nat
  dry : Nat
  ever : Bool
  deriving DecidableEq, Repr

def Sensor.init : Sensor := ⟨0, 0, 0, 0, 0, 0, false⟩

/-- The Assize. -/
structure Assize where
  convs : SMap Conv
  bands : SMap TierBand
  tiers : SMap TierCal
  engs : SMap EngCal
  sensors : SMap Sensor
  sets : List TrimSetDue
  deriving DecidableEq, Repr

/-- The monitor converter (R146 to R151). -/
structure Monitor where
  /-- next entry of the list -/
  entry : Nat
  /-- the record buffer of 16,384 words -/
  buf : SMap Word
  /-- reference channels out of tolerance in the running pass, and in the pass before (R150) -/
  refBad : Bool
  refBadPrev : Bool
  /-- a reference channel has been read in the running pass -/
  refRead : Bool
  capArmed : Bool
  /-- a capture has been made since MON_TB_SEL was last written (R148) -/
  capSince : Bool
  /-- captured test-bus values of channels 80 to 87, and the selection they were taken for (R151) -/
  cap : Option (Word × List (BitVec 14))
  deriving DecidableEq, Repr

/-! ### Core store, stacks and page walks (06) -/

/-- A look-aside entry (R173): slot, generation, local layer, page index, the leaf's frame address, and the stack lines of
the directory and leaf entries that it was filled from. -/
structure LookEntry where
  slot : Nat
  gen : Nat
  layer : Nat
  page : Nat
  frame : Nat
  dirLine : Nat
  leafLine : Nat
  deriving DecidableEq, Repr

/-- The page-walk unit of a core: its 64 entries by position, and the round-robin pointer (R173). -/
structure PageUnit where
  entries : SMap (Option LookEntry)
  ptr : Nat
  /-- the stack lines of page tables kept in the core store, by their place among its 64 page-table lines, and the place
  filled next (R161, R173) -/
  lines : SMap (Option Nat)
  next : Nat
  deriving DecidableEq, Repr

def PageUnit.empty : PageUnit := ⟨[], 0, [], 0⟩

/-- A page exception raised to the control core (R174, R291). -/
structure PageExc where
  core : Nat
  slot : Nat
  gen : Nat
  layer : Nat
  page : Nat
  mismatch : Bool
  deriving DecidableEq, Repr

/-- Stacks, the poisoned lines of the core stores, pages and their pool. -/
structure Mem where
  /-- stack bytes by their 40-bit address (R166) -/
  stack : SMap Byte
  /-- core-store lines that wait for their restore: core * 16384 + line (R162) -/
  poison : List Nat
  /-- the last uncorrectable error of a static line: the line and its rod (R162) -/
  ueLines : List (Nat × Nat)
  /-- lines of dynamic regions that are poisoned until rewritten (R163), and poisoned stack-read deliveries -/
  stale : List Nat
  /-- next word the scrub reads, per core (R160) -/
  scrubAt : SMap Nat
  /-- lines moved per stack in the running furlong (STK_LINES) -/
  lines : SMap Nat
  /-- STK_UE_CNT at the last furlong boundary, and furlongs in a row in which it rose (R170) -/
  ueSeen : SMap Nat
  ueRun : SMap Nat
  units : SMap PageUnit
  excs : List PageExc
  /-- page frames mapped: slot, local layer, page, frame address (R289, R290) -/
  pages : List (Nat × Nat × Nat × Nat)
  /-- next unused byte of a region's pool, and frames returned to it: region, address, bytes (R289, R292) -/
  poolNext : SMap Nat
  poolFree : List (Nat × Nat × Nat)
  /-- bytes reserved per region (R289) -/
  reserved : SMap Nat
  /-- frames that are not reused until reset (R168) -/
  lost : List Nat
  /-- directories and leaf tables: slot, 64 × layer + kind, address, bytes (R171, R289) -/
  tables : List (Nat × Nat × Nat × Nat)
  /-- frames of ended requests: furlong boundary of return, slot, generation, bytes reserved (R292) -/
  returning : List (Nat × Nat × Nat × Nat)
  deriving DecidableEq, Repr

/-! ### The on-die network (08) -/

/-- A flit (R220): its 64-bit header, and its peck or line. -/
structure Flit where
  head : BitVec 64
  payload : List Byte
  deriving DecidableEq, Repr

/-- A flit at a router of a physical core, on its plane. -/
structure FlitAt where
  core : Nat
  flit : Flit
  deriving DecidableEq, Repr

/-- The mesh. Router keys are core * 2 + plane; link keys are router * 8 + output. -/
structure Mesh where
  flits : List FlitAt
  /-- flits on each output in the running rod, and the largest of the running and of the last complete furlong per router
  (RTR_LOAD) -/
  out : SMap Nat
  peak : SMap Nat
  lastPeak : SMap Nat
  /-- check failures on flits from a router in the running furlong (R230) -/
  chk : SMap Nat
  /-- routers to be marked faulty at the next rod boundary (R230), as router keys -/
  marks : List Nat
  deriving DecidableEq, Repr

/-! ### Expert routing (10) -/

/-- One entry of a grant record (R271). -/
structure GrantEntry where
  row : Nat
  rank : Nat
  expert : Nat
  accepted : Bool
  blockRow : Nat
  weight : FpBits
  deriving DecidableEq, Repr

/-- The tag of a bushel row or an answer (R99). -/
structure RowTag where
  slot : Nat
  gen : Nat
  pos : Nat
  rank : Nat
  isVoid : Bool
  deriving DecidableEq, Repr

/-- A grant record (R271) of a layer's bushel step, by the dispatching core, the layer and its bushel instance, with the
rows offered; and what the combining cores report of its answers (R407): the answers lost, the experts of which an
answer was combined, the chunks combined. -/
structure Grant where
  core : Nat
  layer : Nat
  inst : Nat
  key : Option Nat
  rows : List (Nat × RowTag)
  entries : List GrantEntry
  /-- rows whose gate or input set the precision flag, or that lost a choice to a quarantine (R264, R407) -/
  flagged : BitVec 32
  /-- block rows with a lost answer, as expert and block row; those with a stale one; experts with a combined answer -/
  lost : List (Nat × Nat)
  stale : List (Nat × Nat)
  got : List Nat
  chunks : List Nat
  /-- a loss came from an injected tag error (R409) -/
  injected : Bool
  deriving DecidableEq, Repr

/-- The gate's ranked choices of one row (R263): expert and weight by rank, before the grants. -/
structure RowChoice where
  core : Nat
  layer : Nat
  inst : Nat
  row : Nat
  list : List (Nat × FpBits)
  bad : Bool
  deriving DecidableEq, Repr

/-- The routing block. `dir` holds the directory copies: (logical core * 1024 +
layer) * 512 + expert to the entry (R265). -/
structure Routing where
  dir : SMap Nat
  choices : List RowChoice
  grants : List Grant
  /-- choices offered and refused per core in the running furlong (DSP_LAST) -/
  offered : SMap Nat
  dropped : SMap Nat
  deriving DecidableEq, Repr

/-! ### Attention (11) -/

/-- A span partial sent to a merge core (R297): request slot and generation, position, local layer, head, span,
and per query head m, l and o. -/
structure Partial where
  slot : Nat
  gen : Nat
  pos : Nat
  layer : Nat
  head : Nat
  span : Nat
  isVoid : Bool
  /-- the precision flag -/
  flag : Bool
  heads : List (FpBits × FpBits × List FpBits)
  deriving DecidableEq, Repr

/-- The fold of one row at a merge core (R298): the next span number and per query head m, l and o. -/
structure Fold where
  slot : Nat
  gen : Nat
  pos : Nat
  layer : Nat
  head : Nat
  next : Nat
  /-- the precision flag -/
  flag : Bool
  heads : List (FpBits × FpBits × List FpBits)
  deriving DecidableEq, Repr

/-- A request held at a layer (R301): the bushel instance that its rows left, those rows, and the folds that have completed, by
position and head. -/
structure HeldReq where
  slot : Nat
  gen : Nat
  layer : Nat
  key : Nat
  rows : List BushelRow
  merged : List (Nat × Nat)
  deriving DecidableEq, Repr

/-- Span slots given to a request for a furlong's steps (R300): of a pipelined request, from slot `first` of the step's pipelined
ones, which go lane by lane. -/
structure LaneGrant where
  layer : Nat
  slot : Nat
  held : Bool
  slots : Nat
  first : Nat
  deriving DecidableEq, Repr

/-- The phases of a ring request's layer (R307). -/
inductive RingPhase where
  | projection | circulation | return
  deriving DecidableEq, Repr

/-- A 64-byte line of ring traffic (R309): global layer, UTYPE, chunk, line, and its bytes. -/
structure RingLine where
  layer : Nat
  utype : Nat
  chunk : Nat
  line : Nat
  data : List Byte
  deriving DecidableEq, Repr

/-- What a member has folded for one query row of a chunk and one query head (R308): m, l and o, and the precision flag. -/
structure RingAcc where
  chunk : Nat
  row : Nat
  head : Nat
  q : Nat
  out : FpBits × FpBits × List FpBits
  flag : Bool
  deriving DecidableEq, Repr

/-- A ring serving one request (R306 to R310). -/
structure RingRun where
  ring : Nat
  slot : Nat
  gen : Nat
  chunks : Nat
  layer : Nat
  phase : RingPhase
  step : Nat
  startMile : Nat
  voided : Bool
  /-- voids in a row (R310) -/
  voids : Nat
  /-- positions whose rows the owner has placed in the running phase (R307) -/
  placed : Nat
  lines : List RingLine
  acc : List RingAcc
  deriving DecidableEq, Repr

/-- The attention block. -/
structure Att where
  partials : List Partial
  folds : List Fold
  held : List HeldReq
  paused : List (Nat × Nat)
  grants : List LaneGrant
  rings : List RingRun
  deriving DecidableEq, Repr

/-! ### Loads, epochs and adapters (13) -/

/-- What a manifest says (R348): the header's fields, and the stored length of each chunk. Whether its signature
verifies is a fact of the fetch. -/
structure Manifest where
  kind : Nat
  quant : Nat
  model : Nat
  epoch : Nat
  role : Nat
  qseed : BitVec 64
  nChunk : Nat
  pubKey : Nat
  adapter : Nat
  slens : List Nat
  deriving DecidableEq, Repr

/-- The values of a tile record, quantised (R351, R352): weights by logical row then weight column, and by weight
column the group shifts, scales and biases; the mirror weights by mirrored row, and the mirror scales. -/
structure TileRec where
  weights : List (List Int)
  shifts : List (List Nat)
  sigma : List (BitVec 16)
  bias : List FpBits
  mirW : List (List Int)
  mirScale : List (BitVec 16)
  deriving DecidableEq, Repr

/-- The mirror entry of a tier in its core's store (R107, R346). -/
structure Mirror where
  w : List (List Int)
  scale : List (BitVec 16)
  deriving DecidableEq, Repr

/-- A tile that a load has staged or is programming (R353, R354). -/
structure StagedTile where
  core : Nat
  eng : Nat
  num : Nat
  /-- the covered role of a standby copy (R365) -/
  copy : Option Nat
  /-- the target tier once chosen; the running row, its step, a retry, verifies that injection fails (R408, 0x20) -/
  tier : Option Nat
  row : Nat
  step : Nat
  retried : Bool
  forced : Nat
  done : Bool
  /-- the role that the tier takes (R347) -/
  role : Nat
  epoch : Nat
  data : TileRec
  deriving DecidableEq, Repr

/-- The load that runs (R353): where its manifest lies, the manifest once fetched, the next chunk. -/
structure Load where
  addr : Nat
  len : Nat
  man : Option Manifest
  chunk : Nat
  /-- failed attempts on the running chunk -/
  attempts : Nat
  /-- plaintext not yet parsed (R351) -/
  stream : List Byte
  tiles : List StagedTile
  /-- the logical core of a repair fetch (R412) -/
  repair : Option Nat
  deriving DecidableEq, Repr

/-- An adapter slot (R367, R371, R372): state 0 free, 1 loading, 2 ready, 3 faulty. -/
structure AdSlot where
  state : Nat
  ident : Nat
  ver : Nat
  base : Nat
  rank : Nat
  freeAt : Option Nat
  deriving DecidableEq, Repr

def AdSlot.empty : AdSlot := ⟨0, 0, 0, 0, 0, none⟩

/-- An adapter load in progress at the entry module (R371). -/
structure AdLoad where
  slot : Nat
  ident : Nat
  ver : Nat
  base : Nat
  rank : Nat
  handle : BitVec 64
  /-- the boundary B of its LOAD update, and the boundary of its SWITCH -/
  loadAt : Nat
  switchAt : Nat
  /-- a part has failed, on this module or another (R371) -/
  failed : Bool
  /-- this module fetches the part again because a line of its slot was lost (R168) -/
  reload : Bool
  /-- this module's part: its manifest once fetched, the next chunk, failed attempts, plaintext -/
  man : Option Manifest
  chunk : Nat
  attempts : Nat
  stream : List Byte
  deriving DecidableEq, Repr

/-- An adapter drop that waits for its boundary (R371): boundary, identifier, base epoch, handle. -/
structure AdDrop where
  atRod : Nat
  ident : Nat
  base : Nat
  handle : BitVec 64
  deriving DecidableEq, Repr

/-- The weights block. -/
structure Weights where
  load : Option Load
  /-- the load that a repair fetch pauses (R412) -/
  paused : Option Load
  /-- mirror entries by tier (R107) -/
  mirrors : SMap (Option Mirror)
  /-- a named flip waiting for its mile: mile and epoch (R361), and one the module was not ready for -/
  flip : Option (Nat × Nat)
  late : Option Nat
  /-- the epoch map: slot to parity (R358) -/
  epochMap : SMap Nat
  adSlots : SMap AdSlot
  /-- current slot by identifier and base epoch (R371) -/
  current : List (Nat × Nat × Nat)
  adLoads : List AdLoad
  adDrops : List AdDrop
  /-- epochs named by the plan that were raised -/
  planned : List Nat
  /-- EPOCH messages received while PREV tiers exist (R360) -/
  ignored : Nat
  deriving DecidableEq, Repr

/-! ### Attestation, keys, IDE and TDISP (14) -/

/-- The phases of an SPDM connection (R383). -/
inductive SpdmPhase where
  | idle | version | capabilities | algorithms
  deriving DecidableEq, Repr

/-- What a mailbox or MCTP responder answered (R382, R383), newest first in `Sec.sent`: the request it answers,
a code, and the bytes the spec gives (empty where the SPDM standard lays them out). -/
structure Answer where
  request : Nat
  code : Nat
  body : List Byte
  deriving DecidableEq, Repr

/-- The security block's volatile state (R378 to R393). -/
structure Sec where
  /-- the weight-key slot (R379, R386) -/
  weightKey : Option (BitVec 256)
  /-- the release private key is held (R378) -/
  releaseKey : Bool
  /-- a release has been accepted since reset (R385) -/
  accepted : Bool
  /-- the nonces of the last four reports, newest first, each with the rod of its issue, counted by the
  core clock when the time base is not valid (R382, R385) -/
  nonces : List (List Byte × Nat)
  /-- rods since the last kick (R393) -/
  wdog : Nat
  /-- the watchdog interval in force, in rods; shortened by injection point 0x21 -/
  wdogLimit : Nat
  spdm : SpdmPhase
  session : Bool
  handshake : Bool
  keyGen : Nat
  /-- selective IDE streams with keys programmed (R390) -/
  ide : List Nat
  /-- LOCK_INTERFACE drops BAR0 writes without the T bit until the TDI is unlocked again (R391) -/
  guard : Bool
  sent : List Answer
  /-- tokens of the control core's host-write bucket (R392) -/
  bucket : Nat
  /-- the free-value number of the release key pair drawn at this start (R378) -/
  relNo : Nat
  /-- rods counted by the core clock, for check 5 of R385 -/
  clockRods : Nat
  /-- fuse lock word as read at step 3 (R376) -/
  fuseRead : Bool
  /-- unsealing has begun and is not yet complete (R389) -/
  unsealing : Bool
  deriving DecidableEq, Repr

/-! ### Retrieval (17) -/

/-- A query in the retrieval queue (R448 to R450). -/
structure Query where
  handle : BitVec 64
  topK : Bool
  useFilter : Bool
  bitmap : Bool
  corpus : Nat
  k : Nat
  thresh : FpBits
  deadline : Nat
  resultAddr : Nat
  maxHits : Nat
  x : List (Byte × List Int)
  filter : List Byte
  epoch : Option Nat
  voids : Nat
  ring : Nat
  deriving DecidableEq, Repr

/-- The running pass of a corpus (R451, R454): the scores by identifier, the flag, and the search's bounds. -/
structure Pass where
  corpus : Nat
  query : Query
  scores : List (Nat × FpBits)
  flag : Bool
  /-- rounds run; the order keys lo and hi once round 0 is over; theta's key once found -/
  round : Nat
  lo : Nat
  hi : Nat
  theta : Option Nat
  deriving DecidableEq, Repr

/-- The retrieval block. -/
structure Rtv where
  queue : List Query
  passes : List Pass
  /-- epoch in force per corpus (R458, R459); 0 for none -/
  epoch : SMap Nat
  /-- accepted flips: corpus, mile, epoch -/
  flips : List (Nat × Nat × Nat)
  /-- epochs of the previous tiers, by corpus -/
  prev : SMap Nat
  /-- result writes to host memory, newest first: address and bytes (R453) -/
  written : List (Nat × List Byte)
  /-- a line of the result buffer was lost: the query being assembled completes with code 0x21 (R168, R453) -/
  bufLost : Bool
  deriving DecidableEq, Repr

/-! ### Management, power and heat (19) -/

/-- What an event held for the management controller reports (R500): the kinds the chapters name. -/
inductive PldmEvent where
  | fault (r : FaultRec)
  | stopRecord (seq : Nat)
  | cabling (port result : Nat)
  | coordinates
  | level (l : Nat)
  | other (source detail : Nat)
  deriving DecidableEq, Repr

structure Mgmt where
  events : List PldmEvent
  alert : Bool
  /-- the dynamic address on the I3C bus (R500) -/
  address : Option Nat
  deriving DecidableEq, Repr

/-- A temperature sensor 0 to 87 (R485). Temperatures are in 1/256 °C. -/
structure ThermSensor where
  last : Option Int
  /-- 0 valid, or the reason 1 to 3 it is ignored for -/
  ignored : Nat
  /-- consecutive readings in disagreement -/
  disagree : Nat
  /-- furlong boundaries passed since its value last changed, and its neighbours' mean at that change -/
  frozen : Nat
  frozenMean : Option Int
  /-- complete furlongs in which every reading passed, and whether one failed, or one came, in the running furlong -/
  good : Nat
  bad : Bool
  seen : Bool
  /-- the value that injection point 0x1D holds it at (R408) -/
  stuck : Option Int
  deriving DecidableEq, Repr

def ThermSensor.init : ThermSensor := ⟨none, 0, 0, 0, none, 0, false, false, none⟩

/-- The thermal and power controllers (R484 to R493). -/
structure Thermal where
  sensors : SMap ThermSensor
  /-- highest junction temperature of the running furlong -/
  peak : Option Int
  /-- f_T and f_P in per cent -/
  fT : Nat
  fP : Nat
  /-- furlongs in a row with f_P at 100 and POWER above CAP -/
  capOver : Nat
  /-- complete furlongs in a row below the leave thresholds of levels 2 and 3, and whether the running one broke them -/
  cool2 : Nat
  broke2 : Bool
  cool3 : Nat
  broke3 : Bool
  /-- rod from which the junction has stood at or above 110 °C -/
  hotSince : Option Nat
  heat : Bool
  divided : Bool
  /-- the divided clock waits for its rod boundary: some true enters, some false leaves -/
  clockDue : Option Bool
  /-- the input lies below 54 V -/
  inputLow : Bool
  /-- the next request of the heat flag, and of the power cap (R484, R488): none, nothing to wait for; 0, due; 1 to 8, furlongs
  still to wait; 9, waiting for the switch or the refusal. And the variant that the heat flag requested. -/
  heatWait : Option Nat
  capWait : Option Nat
  heatVar : Option Nat
  /-- stacks that have stood at 100 °C or more through the running furlong (R490) -/
  stackHot : SMap Bool
  /-- input energy since reset in units of 4 µJ (R479) -/
  energy : Nat
  /-- regulators are latched off after a shutdown (R493) -/
  latched : Bool
  /-- the module has no power: off until the input returns -/
  off : Bool
  deriving DecidableEq, Repr

/-- The pins of R495 to R501, true for high, and whether the hot-swap controller has the input on. MOD_PRSNT_N and
CBL_PRSNT_N are tied to ground; ALERT_N is low while an event is held (`Mgmt.alert`). Log entry 8 (DESIGN CHOICE). -/
structure Pins where
  mateN : Bool
  inputOn : Bool
  pwrgd : Bool
  thermtripN : Bool
  perstN : Bool
  mrstN : Bool
  deriving DecidableEq, Repr

/-- The machine's state. Log entry 3 (DESIGN CHOICE). -/
structure State where
  /-- commands that wait, first in, first out -/
  pending : List Instr := []
  /-- the register words that differ from their reset values (R12: a read returns the last value written) -/
  regs : SMap Word := []
  /-- class B values still in force while a later write waits for its boundary (R15) -/
  waitB : List (Nat × Word) := []
  /-- the model's own counter for free values; not the spec's -/
  freeCtr : Nat := 0
  tb : TimeBase := ⟨0, none, none, false, none, false, false, 0, 0, false, none, false, false, false, false⟩
  sched : Sched := ⟨false, 0, false, [], [], [], [], [], [], false, false, false, false⟩
  rqt : Rqt := ⟨[], [], [], [], [], [], [], [], false⟩
  fab : Fabric := ⟨[], [], [], [], [], false, [], [], []⟩
  faults : Faults :=
    ⟨[], [], [], [], [], [], [], none, none, none, TrapSet.empty, TrapSet.empty, none, false, none, [], [], [], [], false, [], [], []⟩
  boot : Boot := ⟨[], [], 0, 1, 0, 0, 0, 0, 0, Image.none, false, false, [], 0, [], false, [], [], none, none, false⟩
  hostBox : Mailbox := Mailbox.idle
  coreBox : Mailbox := Mailbox.idle
  crc : CrcUnit := ⟨false, false, none⟩
  msix : Msix := ⟨[], [], []⟩
  engines : SMap Engine := []
  tiers : SMap Tier := []
  /-- clamp events of the running furlong, and the sum of the last complete one until it is taken (R119) -/
  clampNow : Nat := 0
  clampDue : Option Nat := none
  asz : Assize := ⟨[], [], [], [], [], []⟩
  mon : Monitor := ⟨0, [], false, false, false, false, false, none⟩
  /-- core-store bytes, core * 2^20 + offset (R160) -/
  store : SMap Byte := []
  sec : Sec := ⟨none, false, false, [], 0, 65536, .idle, false, false, 0, [], false, [], 8192, 0, 0, false, false⟩
  mgmt : Mgmt := ⟨[], false, none⟩
  mem : Mem := ⟨[], [], [], [], [], [], [], [], [], [], [], [], [], [], [], [], []⟩
  mesh : Mesh := ⟨[], [], [], [], [], []⟩
  routing : Routing := ⟨[], [], [], [], []⟩
  att : Att := ⟨[], [], [], [], [], []⟩
  weights : Weights := ⟨none, none, [], none, none, [], [], [], [], [], [], 0⟩
  rtv : Rtv := ⟨[], [], [], [], [], [], false⟩
  therm : Thermal := ⟨[], none, 0, 0, 0, 0, false, 0, false, none, false, false, none, false, none, none, none, [], 0, false, false⟩
  hostLink : HostLink := ⟨false, 0, 0⟩
  pins : Pins := ⟨false, true, true, true, true, true⟩
  deriving DecidableEq, Repr

/-- Why a run stops with a fault. -/
inductive Fault where
  /-- never raised by a meaning of this model; kept because the interface asks for a type of faults. Safe. -/
  | none
  deriving DecidableEq, Repr

/-- Why a command is refused. -/
inductive Refusal where
  /-- raised by an arm of `exec` whose command has no meaning yet. Safe: the run stops. -/
  | notModelled (mnemonic : String)
  deriving DecidableEq, Repr

/-- The machine right after reset: every register at its reset value, every memory unlisted, no command
waiting. Log entries 1 (DESIGN CHOICE), 3 (DESIGN CHOICE), 7 (DESIGN CHOICE), 8 (DESIGN CHOICE). -/
def State.reset : State := {}

end Sys2Proof.Machine
end

