-- ==== Sys2Proof/Machine/Ops.lean ====
section
/-! DEFINITION. The named operations over the state that every family uses: register access, saturating
counters, rod arithmetic, vectors, the sideband, voiding, the request table's completions, the event log. -/
namespace Sys2Proof.Machine

/-! ### Register instances (R465) -/

/-- Instance offsets: core n, engine e of core n, port or lane p, stack k. -/
def coreI (n : Nat) : Nat := n * 0x10000
def engI (n e : Nat) : Nat := n * 0x10000 + e * 0x1000
def lnkI (p : Nat) : Nat := p * 0x4000
def stkI (k : Nat) : Nat := k * 0x10000

/-- The register word at a BAR0 address. -/
def State.rd (s : State) (a : Nat) : Word := SMap.get regReset s.regs a
/-- Replace the register word at a BAR0 address. -/
def State.wr (s : State) (a : Nat) (w : Word) : State :=
  { s with regs := SMap.set regReset s.regs a w }

/-- A field of instance offset `i`. -/
def State.fldAt (s : State) (i : Nat) (f : Fld) : Nat := getBits (s.rd (f.addr + i)) f.hi f.lo
/-- Set a field of instance offset `i`. -/
def State.putAt (s : State) (i : Nat) (f : Fld) (v : Nat) : State :=
  s.wr (f.addr + i) (setBits (s.rd (f.addr + i)) f.hi f.lo v)
/-- A field of a block with one instance. -/
def State.fld (s : State) (f : Fld) : Nat := s.fldAt 0 f
def State.put (s : State) (f : Fld) (v : Nat) : State := s.putAt 0 f v
/-- A one-bit field as a truth value. -/
def State.isSet (s : State) (f : Fld) : Bool := s.fld f = 1
def State.isSetAt (s : State) (i : Nat) (f : Fld) : Bool := s.fldAt i f = 1

/-- The all-ones value of a field. -/
def Fld.top (f : Fld) : Nat := 2 ^ (f.hi + 1 - f.lo) - 1

/-- Add to a counter, which saturates at its all-ones value (R216, R261, R345, R477, R424). -/
def State.addAt (s : State) (i : Nat) (f : Fld) (n : Nat) : State :=
  s.putAt i f (min (s.fldAt i f + n) f.top)
def State.add (s : State) (f : Fld) (n : Nat) : State := s.addAt 0 f n

/-- Set a flag, as 0 or 1. -/
def State.flagAt (s : State) (i : Nat) (f : Fld) (b : Bool) : State := s.putAt i f (if b then 1 else 0)
def State.flag (s : State) (f : Fld) (b : Bool) : State := s.flagAt 0 f b

/-- Raise a flag only where a condition holds. -/
def State.raiseIfAt (s : State) (i : Nat) (f : Fld) (b : Bool) : State := if b then s.putAt i f 1 else s

/-- Which value of a class B field is in force: the old word while a write waits for its boundary (R15). -/
def State.inForce (s : State) (a : Nat) : Word :=
  match s.waitB.find? (fun e => e.1 = a) with
  | some e => e.2
  | none => s.rd a
def State.inForceAt (s : State) (i : Nat) (f : Fld) : Nat := getBits (s.inForce (f.addr + i)) f.hi f.lo

/-! ### Rod arithmetic (R4 to R6, R178, R179) -/

/-- P: the rod count runs from 0 to P - 1 (R178). -/
def rodP : Nat := 281474976706560
/-- Miles in P (R178). -/
def mileP : Nat := 879609302208

/-- t lies after n (R179). -/
def rodAfter (n t : Nat) : Bool :=
  let d := (t % rodP + rodP - n % rodP) % rodP
  decide (1 ≤ d) && decide (d ≤ rodP / 2 - 1)

/-- The k-th furlong boundary after the current rod's furlong began (R5). Log entry 45 (DEDUCED). -/
def furlongAfter (rod k : Nat) : Nat := ((rod / 40 + k) * 40) % rodP

def State.rodNow (s : State) : Nat := s.tb.rod
/-- The mile number (R178). -/
def State.mileNow (s : State) : Nat := s.tb.rod / 320

/-- The mile a sideband message raised now is dated to (R245). -/
def State.datedMile (s : State) : Nat :=
  if s.tb.rod % 320 < 280 then s.mileNow else (s.mileNow + 1) % mileP

/-- The mile nearest to the own mile number with these low 16 bits (R245). -/
def nearestMile (own lo : Nat) : Nat :=
  let d := (lo + 65536 - own % 65536) % 65536
  if d < 32768 then (own + d) % mileP else (own + mileP - (65536 - d)) % mileP

/-- Rows set in a mask. -/
def popcount (m : BitVec 32) : Nat := (List.range 32).countP (fun i => m.getLsbD i)

/-- The value of a little-endian byte string. Log entry 61 (DESIGN CHOICE). -/
def leNat : List Byte → Nat
  | [] => 0
  | b :: bs => b.toNat + 256 * leNat bs

/-- The n bytes of a value, little-endian. Log entry 61 (DESIGN CHOICE). -/
def leBytes : Nat → Nat → List Byte
  | 0, _ => []
  | n + 1, v => BitVec.ofNat 8 v :: leBytes n (v / 256)

/-- Bytes `at_` to `at_ + n - 1` of a record as a little-endian number. -/
def fieldLE (bs : List Byte) (at_ n : Nat) : Nat := leNat ((bs.drop at_).take n)

/-- One step of a CRC over a byte, least significant bit first, with the reflected generator `g`. -/
def crcStep (g : BitVec 32) : Nat → BitVec 32 → BitVec 32
  | 0, c => c
  | n + 1, c => crcStep g n (if c.getLsbD 0 then (c >>> 1) ^^^ g else c >>> 1)

/-- CRC-32C in its reflected form, initial value and final XOR all ones (R474). -/
def crc32c (bs : List Byte) : Word :=
  (bs.foldl (fun c b => crcStep 0x82F63B78 8 (c ^^^ b.setWidth 32)) 0xFFFFFFFF) ^^^ 0xFFFFFFFF

/-- The CRC-8 of a frame: 40 bits, most significant first, x^8 + x^2 + x + 1, initial value 0 (R180). -/
def crc8 (bits : List Bool) : BitVec 8 :=
  bits.foldl (fun c b =>
    let top := c.getLsbD 7 != b
    if top then (c <<< 1) ^^^ 0x07 else c <<< 1) 0

/-! ### Free values -/

/-- Take one free value: the counter that the opaque functions of Config are applied to. Log entry 2 (DESIGN CHOICE). -/
def State.tick (s : State) : State := { s with freeCtr := s.freeCtr + 1 }

/-! ### Interrupts (R480) -/

/-- Send a vector; a masked one is held pending as the MSI-X rules of PCIe give (R322, R480). Log entry 6 (PRESUMED). -/
def State.sendVector (s : State) (v : Nat) : State :=
  if v ∈ s.msix.unmasked then { s with msix := { s.msix with sent := v :: s.msix.sent } }
  else if v ∈ s.msix.pend then s
  else { s with msix := { s.msix with pend := v :: s.msix.pend } }

/-- Change a field of GLB_STATE; vector 18 is sent when STEP, STATE or WAIT changes (R480). Log entry 76 (DEDUCED). -/
def State.putGlb (s : State) (f : Fld) (v : Nat) : State :=
  if s.fld f = v then s else (s.put f v).sendVector 18

/-- A completion bit of the load engine or of the trap set becomes 1; vector 17 is sent when it was 0 (R480). -/
def State.complete17 (s : State) (f : Fld) : State :=
  if s.isSet f then s else (s.put f 1).sendVector 17

/-! ### Event log and fault log -/

/-- The bytes of a record without its CRC, with the given ACK byte; bytes that R429 does not list are 0. -/
def LogRec.body (r : LogRec) (ack : Byte) : List Byte :=
  leBytes 4 0x4C455154 ++ leBytes 1 r.type ++ leBytes 1 r.cause ++ [ack, 0] ++ leBytes 8 r.seq ++
  leBytes 8 (r.rod % rodP + (if r.rodValid then 2 ^ 63 else 0)) ++ leBytes 4 r.startNo ++ leBytes 4 r.imageVer ++
  (r.detail ++ List.replicate 176 0).take 176 ++ List.replicate 44 0

/-- A record as it lies in the event log: its CRC is taken with the ACK byte read as 0xFF (R429). Log entry 40 (DEDUCED). -/
def LogRec.bytes (r : LogRec) : List Byte :=
  r.body (if r.ack then 0 else 0xFF) ++ leBytes 4 (crc32c (r.body 0xFF)).toNat

/-- Where a record lies is live when the log still needs it (R431). `latest` judges CORE_MAP and EPOCH_FLIP
records by their key: physical core, or region. -/
def LogRec.key (r : LogRec) : Nat := if r.type = 7 then fieldLE r.detail 0 2 else fieldLE r.detail 8 1

def logLive (log : SMap LogRec) (r : LogRec) : Bool :=
  (((r.type == 1) || (r.type == 2) || (r.type == 4)) && !r.ack) ||
  (((r.type == 6) || (r.type == 7)) &&
    log.all (fun e => !(e.2.type == r.type && e.2.key == r.key && decide (r.seq < e.2.seq))))

def eraseLogSector (log : SMap LogRec) (sec : Nat) : SMap LogRec :=
  log.filter (fun e => !(e.1 / 256 == sec))

def putLog (b : Boot) (r : LogRec) : Boot :=
  { b with
    log := SMap.set (fun _ => LogRec.erased) b.log b.logNext { r with seq := b.seq }
    logNext := (b.logNext + 1) % 65536
    seq := b.seq + 1 }

/-- Append a record in SEQ order. When a sector is begun, the live records of the sector after it are
copied first, and that sector is then erased (R431). -/
def Boot.append (b : Boot) (r : LogRec) : Boot :=
  let b1 := putLog b r
  if b.logNext % 256 = 0 then
    let nextSec := (b.logNext / 256 + 1) % 256
    let old := (b1.log.filter (fun e => e.1 / 256 == nextSec)).map Prod.snd
    let b2 := (old.filter (logLive b1.log)).foldl putLog b1
    { b2 with log := eraseLogSector b2.log nextSec }
  else b1

/-- Append a record of a type and cause with its detail (R429). Log entry 40 (DEDUCED). -/
def State.logAppend (s : State) (type cause : Nat) (detail : List Byte) : State :=
  let r : LogRec :=
    { type, cause, ack := false, seq := 0, rod := s.tb.rod,
      rodValid := s.isSet TB_STAT_COUNT_VALID, startNo := s.boot.startNo,
      imageVer := s.fld GLB_IMG_VER_VERSION, detail }
  { s with boot := s.boot.append r }

/-- Types that firmware must acknowledge (R430). Log entry 40 (DEDUCED). -/
def ackType (t : Nat) : Bool := t == 1 || t == 2 || t == 4

/-- Records awaiting acknowledgement (R433). -/
def State.pendingAcks (s : State) : Nat :=
  s.boot.log.countP (fun e => ackType e.2.type && !e.2.ack)

/-- Report an event to the management controller over PLDM (R500): it is held until fetched. -/
def State.pldm (s : State) (e : PldmEvent) : State :=
  { s with mgmt := { s.mgmt with events := s.mgmt.events ++ [e], alert := true } }

/-! ### Sideband (R244 to R247) -/

def State.self (s : State) : Nat × Nat := (s.fld FAB_SELF_GROUP, s.fld FAB_SELF_MODULE)

/-- The module that serves a role: its own, or the standby that has taken it over (R418). -/
def State.holder (s : State) (role : Nat × Nat) : Nat × Nat :=
  ((s.fab.takeovers.find? (fun t => decide ((t.1, t.2.1) = role))).map (fun t => t.2.2)).getD role

/-- The role that a module serves: one it has taken over, or its own unless a standby serves that (R418). -/
def State.roleOf (s : State) (gm : Nat × Nat) : Option (Nat × Nat) :=
  match s.fab.takeovers.find? (fun t => decide (t.2.2 = gm)) with
  | some t => some (t.1, t.2.1)
  | none => if s.fab.takeovers.any (fun t => decide ((t.1, t.2.1) = gm)) then none else some gm

/-- Declared rate of a variant; none where the image does not hold it (R204). -/
def State.variant? (s : State) (v : Nat) : Option Variant :=
  s.boot.image.variants.find? (fun x => x.num = v)

/-- Variant a comes before b: lower declared rate, then lower number (R22, R246). -/
def State.varBefore (s : State) (a b : Nat) : Bool :=
  match s.variant? a, s.variant? b with
  | some x, some y => decide (x.rate < y.rate) || (x.rate == y.rate && decide (x.num < y.num))
  | some _, none => true
  | none, _ => false

def State.depth (s : State) : State := s.put FAB_SB_QUEUE_DEPTH (min s.fab.queue.length 255)

/-- Enter a message in the table, and queue it for relay: a message already there is relayed no further;
HEAT messages of other origins are dropped while the queue is too deep; one VAR_REQ per dated mile is
kept, the one of lowest rate (R246, R247). The flag says whether the message was new. -/
def State.enterSb (s : State) (m : SbMsg) : State × Bool :=
  if m ∈ s.fab.seen then (s, false)
  else
    let s := (({ s with fab := { s.fab with seen := m :: s.fab.seen } }).add FAB_SB_SEEN_COUNT 1)
    let own := decide ((m.group, m.module) = s.self)
    if m.kind = 1 ∧ !own ∧ s.fab.heatStop then (s.add FAB_SB_DROP_COUNT 1, true)
    else if m.kind = 2 then
      match s.fab.queue.find? (fun q => q.kind = 2 ∧ q.mile = m.mile) with
      | some q =>
        if s.varBefore (m.data % 8) (q.data % 8) then
          ({ s with fab := { s.fab with queue := s.fab.queue.map (fun x => if x = q then m else x) } }.depth, true)
        else (s, true)
      | none =>
        if s.fab.seen.any (fun q => q.kind = 2 ∧ q.mile = m.mile ∧ q ≠ m ∧ !s.varBefore (m.data % 8) (q.data % 8))
        then (s, true)
        else ({ s with fab := { s.fab with queue := s.fab.queue ++ [m] } }.depth, true)
    else
      let q := s.fab.queue ++ [m]
      ({ s with fab := { s.fab with queue := q, heatStop := s.fab.heatStop || decide (48 < q.length) } }.depth, true)

/-- Raise a message of this module, dated to a mile (R244, R245). -/
def State.raiseDated (s : State) (kind data mile : Nat) : State :=
  (s.enterSb ⟨kind, s.self.1, s.self.2, mile % 65536, data⟩).1

def State.raise (s : State) (kind data : Nat) : State := s.raiseDated kind data s.datedMile

/-! ### Voiding (R25, R195, R256) -/

/-- The key of a bushel instance: its start and its bushel slot. -/
def Bushel.key (b : Bushel) : Nat := b.start * 256 + b.slot

/-- The row is in the bushel at a stage (R301). -/
def BushelRow.present (w : BushelRow) (stage : Nat) : Bool :=
  decide (w.first ≤ stage) && (match w.last with | some u => decide (stage ≤ u) | none => true)

/-- The rows that a token at a stage expects (R28, R193, R331): those reserved, and after the entry issue those filled, that are
in the bushel there. -/
def Bushel.expectedAt (b : Bushel) (stage : Nat) : BitVec 32 :=
  b.rows.zipIdx.foldl (fun (m : BitVec 32) e =>
    if (!b.entered || e.1.filled) && e.1.present stage && !b.lanePaused.getLsbD e.2 then m ||| ((1 : BitVec 32) <<< e.2) else m) 0

/-- Prompt positions from n on are placed again, and the seat of the last of them is open again (R330). Log entry 47 (DEDUCED). -/
def Req.replaceFrom (r : Req) (n : Nat) : Req :=
  if n < r.p then { r with placed := min r.placed n, seated := false } else r

/-- A request's tentative length falls to its committed length, and its uncommitted prompt positions are placed again
(R25). Log entry 47 (DEDUCED). -/
def Req.fallBack (r : Req) : Req := { r.replaceFrom r.lC with lT := r.lC }

def State.req (s : State) (slot : Nat) : Req := SMap.get (fun _ => Req.empty) s.rqt.table slot
def State.setReq (s : State) (slot : Nat) (r : Req) : State :=
  { s with rqt := { s.rqt with table := SMap.set (fun _ => Req.empty) s.rqt.table slot r } }

/-- Voiding a request's row discards its fold state and its hold (R301). -/
def State.dropFold (s : State) (slot gen : Nat) : State :=
  { s with att := { s.att with
      folds := s.att.folds.filter (fun (f : Fold) => !(f.slot == slot && f.gen == gen))
      partials := s.att.partials.filter (fun (f : Partial) => !(f.slot == slot && f.gen == gen))
      held := s.att.held.filter (fun (h : HeldReq) => !(h.slot == slot && h.gen == gen)) } }

/-- The requests of the rows in a mask fall back; a void of an old generation is ignored (R25, R325). -/
def State.fallRows (s : State) (rows : List BushelRow) (mask : BitVec 32) : State :=
  (rows.zipIdx).foldl (fun s e =>
    let r := s.req e.1.slot
    if mask.getLsbD e.2 ∧ r.gen = e.1.gen then (s.setReq e.1.slot r.fallBack).dropFold e.1.slot r.gen else s) s

/-- Void rows of the bushel instance a buffer belongs to. -/
def State.voidRows (s : State) (key : Option Nat) (mask : BitVec 32) : State :=
  match key with
  | none => s
  | some k =>
    match s.rqt.bushels.find? (fun b => b.key = k) with
    | none => s
    | some b =>
      let s := s.fallRows b.rows (mask &&& ~~~ b.voided)
      { s with rqt := { s.rqt with
          bushels := s.rqt.bushels.map (fun x => if x.key = k then { x with voided := x.voided ||| mask } else x) } }

/-- Void rows for late data, or at the detection of a partner's loss: the positions count in TB_VOID_CNT (R195, R216, R256).
Log entry 80 (DEDUCED). -/
def State.lateRows (s : State) (key : Option Nat) (mask : BitVec 32) : State :=
  (s.add TB_VOID_CNT_COUNT (popcount mask)).voidRows key mask

/-! ### Scoreboard (R193 to R196) -/

def tokKey (core tok : Nat) : Nat := core * 256 + tok
def State.token (s : State) (core tok : Nat) : Token :=
  SMap.get (fun _ => Token.idle) s.sched.tokens (tokKey core tok)
def State.setToken (s : State) (core tok : Nat) (t : Token) : State :=
  { s with sched := { s.sched with tokens := SMap.set (fun _ => Token.idle) s.sched.tokens (tokKey core tok) t } }

/-- Instance a is newer than b, modulo 256 (R193). -/
def instNewer (a b : Nat) : Bool :=
  let d := (a % 256 + 256 - b % 256) % 256
  decide (1 ≤ d) && decide (d ≤ 127)

/-- Mark a token complete for an instance with every expected row void (R191, R195). -/
def Token.completeVoid (t : Token) (inst : Nat) : Token :=
  { t with inst := inst % 256, arrived := t.arrived ||| t.expected, voided := t.voided ||| t.expected,
           consumed := false }

/-- The expected rows and the bushel of a token's newer instance (R193): those of its bushel's descriptor; none expected where
the token is tied to a bushel and no bushel is formed for the instance; otherwise as before. -/
def Token.descr (t : Token) (inst : Nat) : BitVec 32 × Option Nat :=
  match t.next with
  | some (i, e, k) => if i = inst % 256 then (e, some k) else (0, none)
  | none => if t.slot.isSome then (0, none) else (t.expected, none)

/-- Move a token to an instance: a newer one clears the arrived and void masks, and takes its expected rows from its bushel's
descriptor (R193). -/
def Token.forInst (t : Token) (inst : Nat) : Token :=
  if instNewer inst t.inst then
    { t with inst := inst % 256, expected := (t.descr inst).1, slot := (t.descr inst).2, arrived := 0, voided := 0, flagged := 0,
             stubbed := 0, consumed := false, next := none, buf := none }
  else t

/-- The descriptor of a bushel instance binds a token (R193, R331): the token stands at the instance, or will take the expected
rows when it moves there; one that has passed it is left alone. -/
def Token.bind (t : Token) (inst : Nat) (expected : BitVec 32) (key : Nat) : Token :=
  if t.inst = inst % 256 then { t with expected := expected, slot := some key }
  else if instNewer t.inst inst then t else { t with next := some (inst % 256, expected, key) }

/-- Mark the OUT token of an issue; 255 names no token. -/
def State.completeOut (s : State) (i : Issue) : State :=
  if i.out = 255 then s
  else s.setToken i.core i.out (((s.token i.core i.out).forInst i.inst).completeVoid i.inst)

/-- The outcome of an arrival (R193, R196). -/
inductive Arrival where
  | taken | stale
  deriving DecidableEq, Repr

/-- Data for rows of a token arrives with an instance number; `isVoid` marks it void. Data that is older than
the token's instance, or that comes after the first consuming issue has started, is discarded (R196). -/
def State.arrive (s : State) (core tok inst : Nat) (rows : BitVec 32) (isVoid : Bool) : State × Arrival :=
  let t := s.token core tok
  if instNewer t.inst inst || (t.consumed && decide (inst % 256 = t.inst)) then
    ((s.addAt (coreI core) SEQ_STALE_CNT_COUNT 1).add TB_STALE_CNT_COUNT 1, .stale)
  else
    let t := t.forInst inst
    (s.setToken core tok
      { t with arrived := t.arrived ||| rows, voided := if isVoid then t.voided ||| rows else t.voided }, .taken)

/-- The outcome of the scoreboard check at an issue's start (R194). -/
inductive Ready where
  | run (voided : BitVec 32) (key : Option Nat) | late (missing : BitVec 32) (key : Option Nat)
  deriving DecidableEq, Repr

/-- The tokens that an issue needs, as they stand for its instance. -/
def State.tokensFor (s : State) (i : Issue) : List Token :=
  (i.ins.filter (· ≠ 255)).map (fun n => (s.token i.core n).forInst i.inst)

def State.ready (s : State) (i : Issue) : Ready :=
  let toks := (s.tokensFor i).map (fun t => if t.inst = i.inst % 256 then t else { t with arrived := 0, voided := 0 })
  let missing := toks.foldl (fun m t => m ||| (t.expected &&& ~~~ t.arrived)) 0
  let key := (toks.findSome? (fun t => t.slot))
  if missing = 0 then .run (toks.foldl (fun m t => m ||| t.voided) 0) key else .late missing key

/-- The OUT token of an issue, as it stands for its instance. -/
def State.outToken (s : State) (i : Issue) : Token := (s.token i.core i.out).forInst i.inst

/-- The rows that an issue's input tokens expect (R28, R193), and those that carry the precision flag (R101). -/
def State.rowsIn (s : State) (i : Issue) : BitVec 32 := (s.tokensFor i).foldl (fun m t => m ||| t.expected) 0
def State.flagsIn (s : State) (i : Issue) : BitVec 32 := (s.tokensFor i).foldl (fun m t => m ||| t.flagged) 0

/-- A token's first consuming issue starts (R196): the token stands at the issue's instance from then on, whether or not any
of its data had come. -/
def Token.taken (t : Token) (inst : Nat) : Token :=
  let t := t.forInst inst
  if t.inst = inst % 256 then { t with consumed := true } else t

/-- The first issue of the instance takes its input tokens (R196). -/
def State.consume (s : State) (i : Issue) : State :=
  (i.ins.filter (· ≠ 255)).foldl (fun s n => s.setToken i.core n ((s.token i.core n).taken i.inst)) s

/-- A skipped issue (R195): the OUT token complete with every expected row void, the counts, the
positions voided. -/
def State.skipLate (s : State) (i : Issue) (key : Option Nat) : State :=
  let rows := s.rowsIn i
  let old := (s.tokensFor i).foldl (fun m t => m ||| t.voided) 0
  let s := (s.consume i).completeOut i
  let s := (s.addAt (coreI i.core) SEQ_LATE_CNT_COUNT 1).add TB_LATE_CNT_COUNT 1
  s.lateRows key (rows &&& ~~~ old)

/-- An issue's result arrives in its OUT token, with the void rows of its inputs (R194). -/
def State.produce (s : State) (i : Issue) (rows voided flagged : BitVec 32) : State :=
  if i.out = 255 then s
  else
    let t := (s.token i.core i.out).forInst i.inst
    s.setToken i.core i.out { t with inst := i.inst % 256, arrived := t.arrived ||| rows ||| voided, voided := t.voided ||| voided, flagged := t.flagged ||| flagged }

/-! ### Requests that complete (R324, R325, R328) -/

def ReqState.live : ReqState → Bool
  | .intake | .prefill | .decode | .paused | .draining => true
  | .free | .cancelled | .done => false

/-- The FINAL record of a request (R320, R321). -/
def Req.final (r : Req) (slot : Nat) (rod : Nat) : EgRec :=
  ⟨2, r.handle, r.code, slot, r.gen, min r.voids 255, r.unsent, (r.unsent.getLast?.map OutToken.rod).getD rod, []⟩

/-- Queue a record for the egress slot. -/
def State.queueEg (s : State) (e : EgItem) : State :=
  { s with rqt := { s.rqt with egress := s.rqt.egress ++ [e] } }

/-- Queue a request's tokens for the egress slot, once (R321). -/
def State.queueTokens (s : State) (slot : Nat) : State :=
  if EgItem.tokens slot ∈ s.rqt.egress then s else s.queueEg (.tokens slot)

/-! ### Stack bytes (R166) -/

def State.stackRead (s : State) (addr n : Nat) : List Byte := SMap.getRange (fun _ => 0) s.mem.stack addr n
def State.stackWrite (s : State) (addr : Nat) (bs : List Byte) : State :=
  { s with mem := { s.mem with stack := SMap.setRange (fun _ => 0) s.mem.stack addr bs } }

/-- A page frame: 256 positions, rounded up to a power of two from 4 KiB to 2 MiB (R171). -/
def frameBytes (b : Nat) : Nat := (((List.range 10).map (fun k => 4096 * 2 ^ k)).find? (fun f => 256 * b ≤ f)).getD (2 ^ 21)

/-- What a request reserves on this module (R289): frames, leaf tables and a directory for each KV layer, and the
count table on the exit module (R338). -/
def Image.kvNeed (im : Image) (p nMax : Nat) (pen : Bool) : Nat :=
  let n := (p + nMax + 8 + 255) / 256
  let vocab := ((im.rings.head?).map RingPair.vocab).getD 0
  (im.kvLayers.map (fun l => n * frameBytes l.bytes + (n + 255) / 256 * 2048 + 256)).sum +
    (if pen ∧ im.exit then (2 * vocab + 255) / 256 * 256 else 0)

/-- A request ends (R292): the VALID bits of its directory entries are cleared, and its frames are due back at the
second furlong boundary. -/
def State.endPages (s : State) (slot : Nat) (r : Req) : State :=
  let dirs := if r.ptBase = 0 then [] else
    s.boot.image.kvLayers.flatMap (fun l => (List.range 32).map (fun k => r.ptBase * 256 + 8 * (32 * l.loc + k)))
  let s := dirs.foldl (fun s a =>
    let b := (s.stackRead (a + 7) 1).headD 0
    s.stackWrite (a + 7) [b &&& 0x7F]) s
  let need := s.boot.image.kvNeed r.p r.nMax r.pen
  { s with mem := { s.mem with returning := s.mem.returning ++ [(furlongAfter s.tb.rod 2, slot, r.gen, need)] } }

/-- A request enters DONE or CANCELLED: GEN is incremented modulo 128 unless no ADMIT had been sent, the
FINAL record is queued, and the slot is freed at the second furlong boundary (R324, R325). -/
def State.endReq (s : State) (slot : Nat) (st : ReqState) (code : Nat) : State :=
  let r := s.req slot
  let r := { r with code := code }
  let rec1 := r.final slot s.tb.rod
  let gen := if r.admitAt = none then r.gen else (r.gen + 1) % 128
  let s := s.setReq slot { r with state := st, gen := gen, seated := false, reserve := false, nrows := 0,
                                  unsent := [], draft := none, freeAt := some (furlongAfter s.tb.rod 2) }
  let s := s.add (if st = .cancelled then RQT_CANCEL_CNT_COUNT else RQT_DONE_CNT_COUNT) 1
  let s := s.raiseIfAt 0 RQT_FLAG_VOID_LIMIT (decide (code = 0x20))
  (s.endPages slot r).queueEg (.record rec1)

/-- A table update is sent to the serving set (R315). -/
def State.sendUpdate (s : State) (u : TableUpdate) : State :=
  { s with rqt := { s.rqt with updates := s.rqt.updates ++ [u] } }

/-- A request enters DRAINING with a code, and its FINISH is sent for the next furlong boundary (R324, R342); with the
sequencers stopped it takes effect on this module at once (R328). A request in INTAKE whose ADMIT has not been sent is
DONE at once (R325). Log entry 45 (DEDUCED). -/
def State.drain (s : State) (slot code : Nat) : State :=
  let r := s.req slot
  if r.state = .intake ∧ r.admitAt = none then s.endReq slot .done code
  else if r.state = .draining ∨ !r.state.live then s
  else
    let s := s.setReq slot { r with state := .draining, code := code, nrows := 0, draft := none }
    if s.sched.running then s.sendUpdate ⟨.finish, furlongAfter s.tb.rod 1, slot, r.gen, code⟩
    else s.endReq slot .done code

/-- Every request in the table completes with a code (R186, R213). -/
def State.completeAll (s : State) (code : Nat) : State :=
  (SMap.keys s.rqt.table).foldl (fun s k => if (s.req k).state.live then s.drain k code else s) s

/-! ### Sequencers -/

/-- What the engines hold in flight is dropped: staged vectors, waiting outputs, contributions and windows taken (R114,
R186, R207). The positions concerned are voided where this is used. Log entries 48 (DEDUCED), 53 (DEDUCED). -/
def State.clearEngines (s : State) : State :=
  { s with engines := (SMap.keys s.engines).foldl (fun (m : SMap Engine) k =>
      let e := SMap.get (fun _ => Engine.idle) m k
      SMap.set (fun _ => Engine.idle) m k
        { e with staged := [], bus := [], outs := [], selBad := false, windows := [], taken := [] }) s.engines }

/-- Every sequencer stops, and every position in flight is void (R186, R213, R421, R489). -/
def State.stopSequencers (s : State) : State :=
  let s := s.rqt.bushels.foldl (fun s b =>
    let mask := b.rows.zipIdx.foldl (fun m e => if e.1.filled then m ||| ((1 : BitVec 32) <<< e.2) else m) 0
    s.voidRows (some b.key) (mask &&& ~~~ b.voided)) s
  let s := { s.clearEngines with
    sched := { s.sched with running := false, startDue := false, tokens := [], due := [] }
    rqt := { s.rqt with bushels := [], updates := s.rqt.updates.filter (fun (u : TableUpdate) => u.kind ≠ .finish) } }
  (SMap.keys s.rqt.table).foldl (fun s k =>
    if (s.req k).state = .draining then s.endReq k .done (s.req k).code
    else if (s.req k).state.live then s.setReq k (s.req k).fallBack
    else s) s

/-- The module's DMA reaches a range of host memory (R391): outside RUN it reaches no private window. Log entry 71 (DEDUCED). -/
def State.dma (s : State) (addr len : Nat) : Bool :=
  decide (s.fld SEC_STAT_TDI_STATE = 2) ||
    !s.boot.image.privWindows.any (fun w => decide (w.1 < addr + len) && decide (addr < w.1 + w.2))

/-- The capability record has changed: admission runs again (R210, R214). Before the admission of start step 6 the change
only enters the record (R434). -/
def State.reAdmit (s : State) : State :=
  if s.fld TB_ADM_STAT_STATE = 0 ∧ s.fld GLB_STATE_STEP < 5 then s
  else
    let s := { s with sched := { s.sched with admDue := true } }
    -- while a time-base failure is handled the status stays admit-failed, and the admission waits for the count (R181, R186)
    if s.isSet TB_STAT_TIME_FAIL ∧ !s.isSet TB_STAT_COUNT_VALID then s else s.put TB_ADM_STAT_STATE 1

end Sys2Proof.Machine
end

