-- ==== Sys2Proof/Machine/Keys.lean ====
section
/-! DEFINITION. Key derivation (R377), the derived keys of R378, the check value of R380, the words of a row map (R387), and
the stack lines as they lie outside the die (R167). -/
namespace Sys2Proof.Machine

/-- A number as n bytes, most significant first (R377). -/
def beBytes (n v : Nat) : List Byte := (leBytes n v).reverse

/-- A byte string at exactly n bytes. -/
def fitBytes (n : Nat) (l : List Byte) : List Byte := (l ++ List.replicate n 0).take n

/-- An ASCII label (R377). -/
def ascii (x : String) : List Byte := x.toList.map (fun c => BitVec.ofNat 8 c.toNat)

/-- HMAC-SHA-384 gives 48 bytes. -/
def hmac (key msg : List Byte) : List Byte := fitBytes 48 (Config.hmacSha384 key msg)

/-- KDF(K, label, context, L) in counter mode: block i is the HMAC of the 32-bit counter i + 1, the label, a zero byte, the
context and L, all big-endian; the result is the first L bits (R377). -/
def kdf (key label context : List Byte) (bits : Nat) : List Byte :=
  ((List.range ((bits + 383) / 384)).flatMap (fun i =>
    hmac key (beBytes 4 (i + 1) ++ label ++ [0] ++ context ++ beBytes 4 bits))).take (bits / 8)

/-- The 256-bit weight key as a byte string. Log entry 15 (DESIGN CHOICE). -/
def keyBytes (k : BitVec 256) : List Byte := beBytes 32 k.toNat

/-- The row-map seed of a tier (R378). -/
def rowMapSeed (key : BitVec 256) (core eng tier epoch : Nat) : List Byte :=
  kdf (keyBytes key) (ascii "TQ880-ROWMAP")
    (beBytes 8 Config.dieId.toNat ++ beBytes 2 core ++ beBytes 1 eng ++ beBytes 1 tier ++ beBytes 4 epoch) 256

/-- Word n of AES-256 in counter mode under a seed: four words a block, most significant first (R387). -/
def ctrWord (seed : List Byte) (n : Nat) : BitVec 32 :=
  ((Config.aes256 seed (BitVec.ofNat 128 (n / 4))) >>> (96 - 32 * (n % 4))).setWidth 32

/-- The key pair of a region's stack lines, data key then tweak key (R167, R378). -/
def State.stackKeys (s : State) (region : Nat) : List Byte × List Byte :=
  let k := kdf Config.stackRoot (ascii "TQ880-STACK") (beBytes 32 s.boot.bootRandom.toNat ++ beBytes 1 region) 512
  (k.take 32, k.drop 32)

/-- A stack line as it lies outside the die: XTS-AES-256 under its region's key pair, the data unit a line of 64 bytes, the
tweak its address divided by 64 (R167). `State.mem` holds what the die reads back after decryption. -/
def State.lineOutside (s : State) (region addr : Nat) : List Byte :=
  let k := s.stackKeys region
  Config.xtsAes256 k.1 k.2 (addr / 64) (s.stackRead (addr / 64 * 64) 64)

/-- The public point of the SPDM alias key: its scalar is (v mod (n - 1)) + 1 of the 448-bit derived v (R378). -/
def aliasPub (image fw : List Byte) : List Byte :=
  let v := leNat (kdf Config.identityKey (ascii "TQ880-ALIAS") (image ++ fw) 448).reverse
  Config.p384Point (v % (Config.p384Order - 1) + 1)

/-- The link key of one training of a port, from both die identifiers and random values, those of the smaller die first
(R249, R378). -/
def linkKey (die farDie : BitVec 64) (random farRandom : BitVec 32) : List Byte :=
  let a := (beBytes 8 die.toNat, beBytes 4 random.toNat)
  let b := (beBytes 8 farDie.toNat, beBytes 4 farRandom.toNat)
  let (x, y) := if die.toNat ≤ farDie.toNat then (a, b) else (b, a)
  kdf Config.domainKey (ascii "TQ880-LINK") (x.1 ++ y.1 ++ x.2 ++ y.2) 256

/-- The key that wraps the weight key in a release object, of the ECDH shared x-coordinate, the nonce and the model (R378). -/
def wrapKey (sharedX nonce : List Byte) (model : Nat) : List Byte :=
  kdf sharedX (ascii "TQ880-WRAP") (fitBytes 48 nonce ++ beBytes 8 model) 256

/-- The check value of a weight key: the first 16 bytes of HMAC-SHA-384(key, "TQ880-KCV") (R380). -/
def keyCheck (key : BitVec 256) : List Byte := (hmac (keyBytes key) (ascii "TQ880-KCV")).take 16

end Sys2Proof.Machine
end

