-- ==== Sys2Proof/Machine/Random.lean ====
section
/-! DEFINITION. The Philox 4×32-10 generator and the keyed rounding streams (R104 to R106, R77, R339). -/
namespace Sys2Proof.Machine

/-- The state of the generator: four counter words and two key words. The multipliers and key increments are
those of the published algorithm that R104 names; PRESUMED (log entry 12). -/
structure Philox where
  c0 : Word
  c1 : Word
  c2 : Word
  c3 : Word
  k0 : Word
  k1 : Word
  deriving DecidableEq, Repr

def mulHiLo (a b : Word) : Word × Word :=
  let p := a.toNat * b.toNat
  (BitVec.ofNat 32 (p / 2 ^ 32), BitVec.ofNat 32 p)

/-- Log entry 12 (PRESUMED). -/
def Philox.round (p : Philox) : Philox :=
  let x := mulHiLo 0xD2511F53 p.c0
  let y := mulHiLo 0xCD9E8D57 p.c2
  ⟨y.1 ^^^ p.c1 ^^^ p.k0, y.2, x.1 ^^^ p.c3 ^^^ p.k1, x.2, p.k0 + 0x9E3779B9, p.k1 + 0xBB67AE85⟩

def Philox.rounds : Nat → Philox → Philox
  | 0, p => p
  | n + 1, p => Philox.rounds n p.round

/-- W0 to W3. Log entry 12 (PRESUMED). -/
def philox (seed : BitVec 64) (c0 c1 c2 c3 : Word) : List Word :=
  let p := Philox.rounds 10 ⟨c0, c1, c2, c3, seed.setWidth 32, (seed >>> 32).setWidth 32⟩
  [p.c0, p.c1, p.c2, p.c3]

/-- A site of a rounding stream (R104): seed, C1, layer, unit, bits 47:32 of the rod count, selector, pass. -/
structure Stream where
  seed : BitVec 64
  pos : Nat
  layer : Nat
  unit : Nat
  rodHi : Nat
  sel : Nat
  pass : Nat
  deriving DecidableEq, Repr

/-- The 16-bit value r of an index (R104). -/
def Stream.draw (t : Stream) (index : Nat) : Nat :=
  let ws := philox t.seed (BitVec.ofNat 32 (index / 8)) (BitVec.ofNat 32 t.pos)
    (BitVec.ofNat 32 (t.layer * 2 ^ 22 + t.unit % 2 ^ 22))
    (BitVec.ofNat 32 (t.rodHi % 65536 + t.sel * 65536 + t.pass * 2 ^ 19))
  let w := (ws.getD (index % 8 / 2) 0).toNat
  if index % 2 = 0 then w % 65536 else w / 65536

/-- Stochastic rounding of num / 2^k: the floor of the value plus r / 2^16 (R46). -/
def stochRound (num : Int) (k : Int) (r : Nat) : Int :=
  if k ≤ 0 then num * 2 ^ (-k).toNat
  else (num * 65536 + r * 2 ^ k.toNat) / (65536 * 2 ^ k.toNat)

/-- The sampling draw of R339: bits 31:8 of W0. -/
def samplingDraw (seed : BitVec 64) (pos : Nat) : Nat :=
  ((philox seed 0 (BitVec.ofNat 32 pos) 0 0x80000000).getD 0 0).toNat / 256

end Sys2Proof.Machine
end

