-- ==== Sys2Proof/Machine/RegOps.lean ====
section
/-! DEFINITION. How an access reaches a register (R12 to R18, R461 to R468, R473): the gates, the access
codes, the field classes, the seal, the capture of refused writes, and what a read returns. -/
namespace Sys2Proof.Machine

/-- The physical core is scheduled: some logical core is mapped to it (R2). -/
def State.mapped (s : State) (n : Nat) : Bool := s.faults.logMap.any (fun e => e.2 = n + 1)

/-- The core domain is switched off: fenced, or in chrysalis mode (R468, R410, R421). -/
def State.domainOff (s : State) (n : Nat) : Bool :=
  s.isSetAt (coreI n) CORE_STAT_FENCED || decide (s.fld GLB_STATE_STATE = 2)

/-- CORE_STAT.RUNNING: the core's sequencer runs (R175). -/
def State.coreRunning (s : State) (n : Nat) : Bool :=
  s.sched.running && s.mapped n && !s.domainOff n

/-- The sequencer starts, or runs, this issue on this agent in the rod that runs: a descriptor of the tables in force places it
there, with its instance number and tokens (R20, R24, R188, R190). Log entry 28 (DESIGN CHOICE). -/
def State.runs (s : State) (i : Issue) (a : Agent) : Bool :=
  s.coreRunning i.core && s.sched.due.any (fun d =>
    d.core == i.core.val && d.agent == a && d.inst == i.inst && d.ins == i.ins && d.out == i.out)

/-- The tables in force place a slot of this kind on this agent in the rod that runs (R24, R125, R189, R398). -/
def State.placed (s : State) (core : Nat) (a : Agent) (k : SlotKind) : Bool :=
  s.coreRunning core && s.sched.due.any (fun d => d.core == core && d.agent == a && d.kind == k)

/-- ENG_STAT.RUNNING: the core's sequencer runs tables that contain the engine (R69). -/
def State.engRunning (s : State) (n e : Nat) : Bool :=
  s.coreRunning n && s.boot.image.variants.any (fun v => decide (v.num = s.sched.var) && v.slots.any (fun x =>
    decide (x.agent = .engine e) && s.faults.logMap.any (fun m => decide (m = (x.core, n + 1)))))

/-- The management endpoint answers from step 1 on (R500). Log entries 10 (DEDUCED), 41 (DEDUCED). -/
def State.mgmtUp (s : State) : Bool := s.isSet SEC_STAT_RUNNING

/-- Which physical core, and which engine, an address of a core block names. -/
def coreOf (a : Nat) : Nat := (a - 0x1000000) / 0x10000
def engOf (a : Nat) : Nat := ((a - 0x1000000) % 0x10000 - 0x1000) / 0x1000

/-- The running indication of the block an address lies in (R465). -/
def State.blockRuns (s : State) (b : Block) (a : Nat) : Bool :=
  match b with
  | .glb => true
  | .tb | .fab => s.isSet TB_STAT_RUNNING
  | .mon => s.isSet MON_STAT_RUNNING
  | .asz => s.isSet ASZ_STAT_RUNNING
  | .thm => s.isSet THM_STAT_RUNNING
  | .pwr => s.isSet PWR_STAT_RUNNING
  | .lnk => decide (s.fldAt ((a - 0x200000) / 0x4000 * 0x4000) LNK_STAT_STATE = 7)
  | .stk => s.isSetAt ((a - 0x300000) / 0x10000 * 0x10000) STK_STAT_IN_SERVICE
  | .sec => s.isSet SEC_STAT_RUNNING
  | .ld => s.isSet LD_STAT_BUSY
  | .rqt => s.isSet RQT_STAT_RUNNING
  | .rtv => s.sched.running && !s.rtv.epoch.isEmpty
  | .inj | .linj => s.isSet INJ_CTRL_ENABLE
  | .eng => s.engRunning (coreOf a) (engOf a)
  | .core | .mxu | .pw => s.coreRunning (coreOf a)
  | .rtr => s.isSetAt (coreI (coreOf a)) RTR_STAT_FORWARDING

/-- Pending class B values of blocks that no longer run take effect when the block stops (R467). -/
def State.settle (s : State) : State :=
  { s with waitB := s.waitB.filter (fun e =>
      match regAt e.1 with
      | some r => s.blockRuns r.blk e.1
      | none => false) }

/-- Registers of a core block that read 0 and drop writes while the core domain is off (R468). -/
def inCoreDomain (r : RegDef) : Bool :=
  match r.blk with
  | .eng | .mxu | .pw => true
  | .core => !(r.name = "CORE_STAT" || r.name = "CORE_FAULT")
  | _ => false

/-- Bits hi:lo of a data word. -/
def wbits (w : Word) (f : Fld) : Nat := getBits w f.hi f.lo

/-- What a write stores in one field, given the word as it stands: RW and RWS store, W1C clears where a 1 is
written, RO and W1S store nothing here (R12). -/
def storeField (data : Word) (w : Word) (f : FieldDef) : Word :=
  match f.acc with
  | .ro | .w1s => w
  | .rw | .rws => setBits w f.fld.hi f.fld.lo (wbits data f.fld)
  | .w1c => setBits w f.fld.hi f.fld.lo (getBits w f.fld.hi f.fld.lo &&& (wbits data f.fld ^^^ (2 ^ (f.fld.hi + 1 - f.fld.lo) - 1)))

/-- Whether a field's write is refused, and by the seal or by its class (R14, R16, R17, R154). Log entry 57 (DEDUCED). -/
inductive Refuse where
  | no | seal | frozen
  deriving DecidableEq, Repr

def State.refuses (s : State) (running : Bool) (a : Nat) (f : FieldDef) : Refuse :=
  if f.acc = .rws ∧ s.isSet GLB_LOCK_CFG_SEAL then .seal
  else
    match f.cls with
    | .frozen => if running then .frozen else .no
    | .bank =>
      -- a MON_SEQ entry is frozen while its bank is the one in use and conversions run
      let bank := if a < 0x100600 then 0 else 1
      if running ∧ s.fld MON_STAT_BANK_ACTIVE = bank then .frozen else .no
    | _ => .no

/-- Capture a refused write (R16): the first one until VALID is cleared; every one is counted. Log entry 57 (DEDUCED). -/
def State.capture (s : State) (w : Wr) (a : Nat) (bySeal : Bool) : State :=
  let s := s.add CFG_WREF_CNT_VALUE 1
  if s.isSet CFG_WREF_VALID then s
  else
    let s := ((s.put CFG_WREF_VALID 1).flag CFG_WREF_SEALED bySeal).flag CFG_WREF_SRC (decide (w.port = .controlCore))
    (s.put CFG_WREF_ADDR a).put CFG_WREF_DATA_VALUE w.data.toNat

/-- A write is flagged and counted in GLB_ACC_ERR (R463). Log entry 57 (DEDUCED). -/
def State.accErr (s : State) (f : Fld) : State := (s.put f 1).add GLB_ACC_ERR_COUNT 1

/-- An accepted write of a covered field opens the CRC window (R18, R475). -/
def State.openCovered (s : State) (r : RegDef) (wrote : Bool) : State :=
  if r.coverMask ≠ 0 ∧ wrote then
    { s.put CFG_CRC_CTRL_OPEN 1 with
      crc := { (s.put CFG_CRC_CTRL_OPEN 1).crc with openRod := some (s.crc.openRod.getD s.sec.clockRods) } }
  else s

/-- Storing rules that the tables give single fields: ENG_WIT_CFG.TOL (R69), THM_SKIP_AT.TEMP (R478),
PWR_CAP.CAP (R479). `none`: the value is dropped as one that would raise a limit. -/
def clampStore (r : RegDef) (old new : Word) : Option Word :=
  if r.name = "ENG_WIT_CFG" then
    let v := getBits new 4 0
    some (setBits new 4 0 (if v < 3 then 3 else if 15 < v then 15 else v))
  else if r.name = "THM_SKIP_AT" then
    -- a temperature in two's complement: one below 0 °C lies below 0x5500
    let v := getBits new 15 0
    if 0x8000 ≤ v then some (setBits new 15 0 0x5500)
    else if getBits old 15 0 < v then none else some (setBits new 15 0 (if v < 0x5500 then 0x5500 else v))
  else if r.name = "PWR_CAP" then
    let v := getBits new 15 0
    if getBits old 15 0 < v then none else some (setBits new 15 0 (if v < 0x1770 then 0x1770 else v))
  else some new

/-- Store a data word into a register whose gates have passed: refused fields keep their value and the write
is captured; class B fields of a running block take effect at the next furlong boundary. -/
def State.storeReg (s : State) (w : Wr) (a : Nat) (r : RegDef) : State :=
  let running := s.blockRuns r.blk a
  let old := s.rd a
  let sealed := r.fields.any (fun f => s.refuses running a f = .seal)
  let frozen := r.fields.any (fun f => s.refuses running a f = .frozen)
  let ok := r.fields.filter (fun f => s.refuses running a f = .no)
  let new := ok.foldl (fun acc f => storeField w.data acc f) old
  let wrote := ok.any (fun f => f.acc = .rw ∨ f.acc = .rws)
  let s := if sealed then s.capture w a true else if frozen then s.capture w a false else s
  match clampStore r (s.inForce a) new with
  | none => (s.put SEC_VIOL_THERMAL_WRITE 1).add SEC_VIOL_CNT_COUNT 1
  | some new =>
    let boundary := running && ok.any (fun f => f.cls = .boundary)
    let s1 := if boundary ∧ new ≠ old ∧ (s.waitB.find? (fun e => e.1 = a)).isNone then
        { s with waitB := (a, old) :: s.waitB } else s
    (s1.wr a new).openCovered r wrote

/-- The record buffer of the monitor converter: read-only words (R149). -/
def inMonBuffer (a : Nat) : Bool := decide (0x120000 ≤ a ∧ a < 0x130000 ∧ a % 4 = 0)

/-- The whole path of a write to an address: chrysalis mode, the T bit, byte enables, unmapped addresses, a core
domain that is off, wide registers, then the store. WIDE_SEL lies in the mailbox of the port (R466). Answers the data that reached the register, if it did. Log entry 57 (DEDUCED). -/
def State.write (s : State) (w : Wr) (a : Nat) : State × Option Word :=
  if w.port = .host ∧ s.fld GLB_STATE_STATE = 2 then (s.accErr GLB_ACC_ERR_CHRYSALIS, none)
  else if w.port = .host ∧ s.sec.guard ∧ !w.tbit then
    (s.put SEC_VIOL_MMIO_NT 1, none)
  else
    match regAt a with
    | none =>
      if !inMonBuffer a then (s.accErr GLB_ACC_ERR_UNMAPPED, none)
      else if w.be ≠ 0xF then (s.accErr GLB_ACC_ERR_PARTIAL, none)
      else (s, none)
    | some r =>
      if w.be ≠ 0xF then (s.accErr GLB_ACC_ERR_PARTIAL, none)
      else if a = WIDE_SEL_ADDR.addr then (s, some w.data)
      else if inCoreDomain r ∧ s.domainOff (coreOf a) then (s, none)
      else if r.wide then (s, none)
      else (s.storeReg w a r, some w.data)

/-- Whether an action bit was written with 1 (R12): the bits of W1S fields. -/
def acts (d : Option Word) (f : Fld) : Bool :=
  match d with
  | some w => wbits w f = 1
  | none => false

end Sys2Proof.Machine
end

