-- ==== Sys2Proof/Machine/FaultOps.lean ====
section
/-! DEFINITION. Shared operations of the fault rules (R397, R406 to R415, R420, R421): injection, silent errors, the
ledger, converter retirement, fences, repairs and entry into chrysalis mode. -/
namespace Sys2Proof.Machine

/-! ### Injection (R408, R409) -/

/-- How a point's UNIT and CORE select the target (R408). Log entry 54 (DEDUCED). -/
def pointOnUnit (p : Nat) : Bool := p ∈ [0x14, 0x15, 0x16, 0x17, 0x1B, 0x0B, 0x0C]
/-- Log entry 54 (DEDUCED). -/
def pointOnCore (p : Nat) : Bool := p ∈ [0x03, 0x09, 0x0A, 0x0D, 0x0E, 0x0F, 0x10, 0x11, 0x12, 0x13, 0x18]
/-- Log entry 54 (DEDUCED). -/
def pointOnEngine (p : Nat) : Bool := p ∈ [0x01, 0x02, 0x04, 0x05, 0x06, 0x07, 0x08, 0x20]

/-- The armed point fires at this occurrence: its ARG. Injection is possible only while ENABLE is 1; point 0x22
acts at the next start, after MRST_N (R409). Log entry 54 (DEDUCED). -/
def State.injects (s : State) (point core unit : Nat) : Option Nat :=
  match s.faults.armed with
  | none => none
  | some a =>
    if a.point = point ∧ (s.isSet INJ_CTRL_ENABLE ∨ point = 0x22) ∧
       (!pointOnUnit point ∨ a.unit = unit) ∧
       (!(pointOnCore point || pointOnEngine point) ∨ a.core = core) ∧
       (!pointOnEngine point ∨ a.unit = unit) then some a.arg else none

/-- The armed point has fired and disarms (R409, R424, R425). Log entry 54 (DEDUCED). -/
def State.fired (s : State) : State :=
  match s.faults.armed with
  | none => s
  | some a =>
    let s := { s with faults := { s.faults with armed := none } }
    let s := ((s.put INJ_STAT_FIRED 1).put INJ_STAT_ARMED 0).add INJ_HIT_COUNT 1
    if pointOnCore a.point ∨ pointOnEngine a.point then
      let i := coreI a.core
      ((s.putAt i LINJ_STAT_FIRED 1).putAt i LINJ_STAT_ARMED 0).putAt i LINJ_STAT_POINT 0
    else s

/-- Fire the point if it is armed for this target: its ARG, and the state after. -/
def State.tryInject (s : State) (point core unit : Nat) : State × Option Nat :=
  match s.injects point core unit with
  | some a => (s.fired, some a)
  | none => (s, none)

/-- Whether an injected event stops at the positions (R409); the suppressed step sets CONTAINED. -/
def State.contained (s : State) (injected : Bool) : Bool := injected && s.isSet INJ_CTRL_CONTAIN

/-! ### Cores, regions and the logical map (R2, R226, R436) -/

def Region.holds (r : Region) (core : Nat) : Bool :=
  let i := core / 40 / 2
  let j := core % 40 / 2
  decide (r.i0 ≤ i ∧ i < r.i0 + r.rows ∧ r.j0 ≤ j ∧ j < r.j0 + r.cols)

def State.regionOf (s : State) (core : Nat) : Option Region := s.boot.image.regions.find? (fun r => r.holds core)
def State.regionNum (s : State) (core : Nat) : Nat := ((s.regionOf core).map Region.num).getD 0

/-- The logical core that a physical core carries, and the physical core of a logical one. -/
def State.logicalOf (s : State) (core : Nat) : Option Nat := (s.faults.logMap.find? (fun e => e.2 = core + 1)).map Prod.fst
def State.physOf (s : State) (logical : Nat) : Option Nat :=
  match SMap.get (fun _ => 0) s.faults.logMap logical with
  | 0 => none
  | n + 1 => some n

/-- The physical core that sources address for a logical one (R221, R229): the one it is mapped to; a fenced one until a spare
takes its identity. -/
def State.destOf (s : State) (logical : Nat) : Option Nat :=
  match s.physOf logical, SMap.get (fun _ => 0) s.faults.former logical with
  | some p, _ => some p
  | none, n + 1 => some n
  | none, 0 => none

def State.healthy (s : State) (core : Nat) : Bool :=
  !(decide (core ∈ s.faults.deadCores)) && !s.isSetAt (coreI core) CORE_STAT_FENCED

def State.isSpare (s : State) (core : Nat) : Bool := s.healthy core && s.isSetAt (coreI core) CORE_STAT_SPARE

/-- FLT_SPARES counts the healthy spares and the fenced cores of the die (R424). -/
def State.countSpares (s : State) : State :=
  let n := (List.range 800).countP (fun c => s.isSpare c)
  let f := (List.range 800).countP (fun c => s.isSetAt (coreI c) CORE_STAT_FENCED)
  (s.put FLT_SPARES_SPARES n).put FLT_SPARES_FENCED f

/-- Put a logical core on a physical one, or take it off (R411, R412, R436). -/
def State.mapCore (s : State) (logical core : Nat) : State :=
  let s := { s with faults := { s.faults with
    logMap := SMap.set (fun _ => 0) s.faults.logMap logical (core + 1)
    former := SMap.set (fun _ => 0) s.faults.former logical 0 } }
  ((s.putAt (coreI core) CORE_STAT_MAPPED 1).putAt (coreI core) CORE_STAT_LOGICAL logical).putAt (coreI core) CORE_STAT_SPARE 0

def tierKey (core eng tier : Nat) : Nat := (core * 8 + eng) * 8 + tier
def State.tier (s : State) (core eng tier : Nat) : Tier := SMap.get (fun _ => Tier.blank) s.tiers (tierKey core eng tier)
def State.setTier (s : State) (core eng tier : Nat) (t : Tier) : State :=
  { s with tiers := SMap.set (fun _ => Tier.blank) s.tiers (tierKey core eng tier) t }

/-- Set a tier's role, which ENG_TIER_ROLE reports (R347, R374). -/
def State.setRole (s : State) (core eng tier role : Nat) : State :=
  let s := s.setTier core eng tier { s.tier core eng tier with role := role }
  let old := s.fldAt (engI core eng) ENG_TIER_ROLE_ROLES
  s.putAt (engI core eng) ENG_TIER_ROLE_ROLES (old - old / 2 ^ (3 * tier) % 8 * 2 ^ (3 * tier) + role * 2 ^ (3 * tier))

/-- Tiers whose metadata or scale rows fail their check (R37, R87). -/
def State.markBad (s : State) (l : List (CoreId × EngId × TierId)) : State :=
  l.foldl (fun (s : State) e => s.setTier e.1 e.2.1 e.2.2 { s.tier e.1 e.2.1 e.2.2 with bad := true }) s

/-- Cell columns per weight column (R42, R63). -/
def digitsPer (exact : Bool) (bits : Nat) : Nat := if exact then bits else bits / 2

/-- Logical row numbers in ascending order. -/
def ascending : List Nat → Bool
  | a :: b :: l => decide (a < b) && ascending (b :: l)
  | _ => true

/-- A tile declaration that the array can hold: formats, active rows and weight columns within a tier's capacity (R42, R44,
R65), unit and layer numbers (R77, R104), the mirror and crush limits (R107, R111). -/
def TileDecl.ok (d : TileDecl) : Bool :=
  decide (d.bits ∈ [2, 4, 6, 8]) && decide (d.inBits ∈ [4, 6, 8]) && decide (1 ≤ d.nAct ∧ d.nAct ≤ 1024) &&
  decide (1 ≤ d.cols ∧ d.cols ≤ 1024 / digitsPer d.exact d.bits) && decide (d.num < 8 ∧ d.engine < 8) &&
  decide (d.unit < 2 ^ 21 ∧ d.layer < 1024) && decide (d.mirror.length ≤ 32) && ascending d.mirror &&
  d.mirror.all (fun r => decide (r < 1024)) && decide (d.crushLimit ≤ 31)

/-- The declaration of the tile that a tier holds. Log entry 78 (DEDUCED). -/
def State.tileDecl (s : State) (core eng num : Nat) : Option TileDecl :=
  let l := s.logicalOf core
  s.boot.image.tiles.find? (fun d => decide (some d.core = l) && decide (d.engine = eng) && decide (d.num = num) && d.ok)

/-- The two CORE_MAP bytes of a tier (R430): tile number and kind; the covered role of a standby copy. -/
def State.tierBytes (s : State) (core eng tier : Nat) : List Byte :=
  let t := s.tier core eng tier
  let num := t.tile.getD 0
  let kind := if t.tile.isNone ∨ t.role = 0 ∨ t.role = 7 then 0 else if t.corpus then 2 else if t.copy.isSome then 3 else 1
  let role := if kind = 3 then t.copy.getD 0 else 0
  [BitVec.ofNat 8 (num % 8 + kind * 8), BitVec.ofNat 8 role]

/-- Append a CORE_MAP record for a core (R430, R431). Log entry 61 (DESIGN CHOICE). -/
def State.logCoreMap (s : State) (core : Nat) : State :=
  let l := (s.logicalOf core).getD 0xFFFF
  s.logAppend 7 0 (leBytes 2 core ++ leBytes 2 l ++
    (List.range 64).flatMap (fun k => s.tierBytes core (k / 8) (k % 8)))

/-! ### Silent errors and the ledger (R397, R406) -/

/-- A fault record is written to the fault log, which the management controller reads over PLDM (R397). -/
def State.faultRecord (s : State) (r : FaultRec) : State :=
  ({ s with faults := { s.faults with log := r :: s.faults.log } }).pldm (.fault r)

/-- A detected silent error (R397): the rows are voided, the record written, the event counted. `key` names the
bushel instance, none for a beat that serves no request. -/
def State.silentError (s : State) (r : FaultRec) (key : Option Nat) (rows : BitVec 32) : State :=
  let s := match key with | some _ => s.voidRows key rows | none => s
  let s := s.faultRecord r
  (s.addAt (coreI r.core) FLT_SE_CNT_COUNT 1).putAt (coreI r.core) CORE_FAULT_LAST_DET r.det

/-- Rods between two rod counts, going forwards (R178, R179). -/
def rodsSince (earlier now : Nat) : Nat := (now % rodP + rodP - earlier % rodP) % rodP

/-- A fence is requested for a core (R410): at the next mile boundary, or the one after if the request arrives in
the mile's last rod. A request for a core already fenced, or one already requested, is ignored. Log entry 55 (DEDUCED). -/
def State.requestFence (s : State) (core : Nat) : State :=
  if s.isSetAt (coreI core) CORE_STAT_FENCED ∨ s.faults.fences.any (fun f => f.1 = core) then s
  else
    let m := s.mileNow + (if s.tb.rod % 320 = 319 then 2 else 1)
    ({ s with faults := { s.faults with fences := s.faults.fences ++ [(core, m % mileP)] } }).putAt (coreI core) CORE_FAULT_FENCE_REQ 1

/-- A unit's rows are voided at every issue until the fence (R406). Units: 0 to 7 an engine, 8 the matrix unit, 9 the
whole core, 10 + n another agent. Log entry 55 (DEDUCED). -/
def State.distrust (s : State) (core unit : Nat) : State :=
  ({ s with faults := { s.faults with untrusted := (core, unit) :: s.faults.untrusted } }).putAt (coreI core) CORE_FAULT_UNTRUSTED 1

def State.untrustedUnit (s : State) (core unit : Nat) : Bool :=
  s.faults.untrusted.any (fun u => u.1 = core ∧ (u.2 = unit ∨ u.2 = 9))

/-- An escalation: unless an injected cause is contained, the unit's rows are voided and the core is fenced. -/
def State.escalate (s : State) (core : Nat) (unit : Option Nat) (injected : Bool) : State :=
  if s.contained injected then s.put INJ_STAT_CONTAINED 1
  else
    let s := match unit with | some u => s.distrust core u | none => s
    s.requestFence core

def engKey (core eng : Nat) : Nat := core * 8 + eng
def State.engine (s : State) (core eng : Nat) : Engine := SMap.get (fun _ => Engine.idle) s.engines (engKey core eng)
def State.setEngine (s : State) (core eng : Nat) (e : Engine) : State :=
  { s with engines := SMap.set (fun _ => Engine.idle) s.engines (engKey core eng) e }

/-- Retire working converter `conv` of a band (R81): the spare takes over from the next beat, the band's bit in
ENG_RET is set, and the core is fenced. Where the spare is already in use, or the spare itself is retired
(conv = 32), every beat of the engine is void from the next beat on (R82). -/
def State.retire (s : State) (core eng band conv : Nat) (injected : Bool) : State :=
  if s.contained injected then s.put INJ_STAT_CONTAINED 1
  else
    let e := s.engine core eng
    if e.retired.any (fun r => r.1 = band ∧ r.2 = conv) then s.requestFence core
    else if conv = 32 ∨ e.retired.any (fun r => r.1 = band) then
      (s.setEngine core eng { e with dead := true }).requestFence core
    else
      let s := s.setEngine core eng { e with retired := (band, conv) :: e.retired, newRetired := band :: e.newRetired }
      let old := s.fldAt (engI core eng) ENG_RET_BANDS
      let s := if old / 2 ^ band % 2 = 1 then s else s.putAt (engI core eng) ENG_RET_BANDS (old + 2 ^ band)
      s.requestFence core

/-- The escalation ledger (R406): three witness failures of one engine, or two residue mismatches of one engine or
matrix unit, within 2^20 rods are persistent. -/
def State.weigh (s : State) (e : LedgerEvent) (injected : Bool) : State :=
  let recent := (e :: s.faults.ledger).filter (fun x => rodsSince x.rod s.tb.rod < 2 ^ 20)
  let s := { s with faults := { s.faults with ledger := recent } }
  let same := recent.filter (fun x => x.core = e.core ∧ x.unit = e.unit ∧ x.residue = e.residue)
  if e.residue then
    if 2 ≤ same.length then s.escalate e.core (some e.unit) injected else s
  else if same.length < 3 then s
  else
    match e.conv with
    | some (b, c) =>
      if same.all (fun x => x.conv = some (b, c)) then s.retire e.core e.unit b c injected
      else s.escalate e.core (some e.unit) injected
    | none => s.escalate e.core (some e.unit) injected

/-- An overrun is persistent at once (R406): the agent's rows are voided and the core is fenced. -/
def State.escalateOverrun (s : State) (core agent : Nat) (injected : Bool) : State :=
  s.escalate core (some (if agent ≤ 8 then agent else 10 + agent)) injected

/-- A metadata or scale-row failure (R35, R87, R406): the tier is failed, and a tier in role 1, 2, 3 or 5 fences the
core. -/
def State.tierFails (s : State) (core eng tier : Nat) (injected : Bool) : State :=
  let role := (s.tier core eng tier).role
  if s.contained injected then s.put INJ_STAT_CONTAINED 1
  else
    let s := s.setRole core eng tier 7
    if role ∈ [1, 2, 3, 5] then s.requestFence core else s

/-! ### Chrysalis mode (R420, R421) -/

/-- Tiers set in a mask of one bit each. -/
def tierCount (m : Nat) : Nat := (List.range 8).countP (fun t => decide (m / 2 ^ t % 2 = 1))

/-- The die's counts of rewrite-advised, beyond-life and fresh tiers lose the tiers of an engine that are in these masks
(R143, R152). -/
def State.lessTiers (s : State) (adv bey fresh : Nat) : State :=
  ((s.put ASZ_TIER_CNT_ADVISED (s.fld ASZ_TIER_CNT_ADVISED - tierCount adv)).put ASZ_TIER_CNT_BEYOND
    (s.fld ASZ_TIER_CNT_BEYOND - tierCount bey)).put ASZ_FRESH_CNT_COUNT (s.fld ASZ_FRESH_CNT_COUNT - tierCount fresh)

/-- The tiers that ENG_TIER_ADV reports on the cores that `p` picks leave the die's counts (R152, R468). -/
def State.dropAdvice (s : State) (p : Nat → Bool) : State :=
  s.regs.foldl (fun t e =>
    match regAt e.1 with
    | some r => if r.name = "ENG_TIER_ADV" ∧ p (coreOf e.1) then
        t.lessTiers (getBits e.2 15 8) (getBits e.2 23 16) (getBits e.2 7 0) else t
    | none => t) s

/-- Registers of a core block that lie in the core domain lose their values when the domain goes off (R468). -/
def State.dropCoreRegs (s : State) (p : Nat → Bool) : State :=
  let s := s.dropAdvice p
  { s with regs := s.regs.filter (fun e =>
      match regAt e.1 with
      | some r => !(inCoreDomain r && p (coreOf e.1))
      | none => true) }

/-- Erase the keys (R379): the weight-key slot empties and every tier is sealed again. -/
def State.eraseKeys (s : State) : State :=
  let s := { s with
    sec := { s.sec with weightKey := none, releaseKey := false, unsealing := false }
    tiers := (s.tiers.map (fun (e : Nat × Tier) => (e.1, { e.2 with mapped := false }))).filter (fun e => e.2 ≠ Tier.blank) }
  (s.put SEC_STAT_KEY_RELEASED 0).put SEC_STAT_UNSEALED 0

/-- The fields of a fault record as the CHRYSALIS record's DETAIL holds them (R430): the spec gives no byte layout. Log entry 25 (DESIGN CHOICE). -/
def FaultRec.nums (r : FaultRec) : List Nat := [r.det, r.core, r.engine, r.tier, r.band, r.unit, r.rod]

/-- Entry into chrysalis mode (R421, R430, R432). Log entry 25 (DESIGN CHOICE). -/
def State.enterChrysalis (s : State) (cause : Nat) : State :=
  if s.fld GLB_STATE_STATE = 2 then s
  else
    let s := { s with tb := { s.tb with stopAtRod := true } }
    let s := (s.putGlb GLB_STATE_STATE 2).put GLB_STATE_CAUSE cause
    let s := { s with
      rqt := { s.rqt with table := [], updates := [], bushels := [], egress := [] }
      engines := []
      faults := { s.faults with repairs := [] } }
    let s := s.eraseKeys
    let s := s.put SEC_STAT_TDI_STATE 3
    let s := (s.put THM_STAT_DIVIDED 1)
    let s := { s with therm := { s.therm with divided := true } }
    let s := s.logAppend 4 cause (match s.faults.log with | [] => [] | r :: _ => Config.faultBytes r.nums)
    (((s.put RQT_STAT_LIVE 0).put RQT_STAT_RUNNING 0).put ASZ_STAT_RUNNING 0).dropCoreRegs (fun _ => true)

/-! ### Fences and repair (R410 to R415) -/

/-- The lowest-numbered healthy spare of the region of a core (R411). -/
def State.spareFor (s : State) (core : Nat) : Option Nat :=
  match s.regionOf core with
  | none => none
  | some r => (List.range 800).find? (fun c => r.holds c && s.isSpare c)

/-- Start the repair of a logical identity on the next spare (R411, R412, R414), or enter chrysalis mode if no region
has a spare left. -/
def State.startRepair (s : State) (logical core : Nat) : State :=
  match s.spareFor core with
  | some sp =>
    let s := { s with faults := { s.faults with repairs := s.faults.repairs ++ [(⟨logical, core, sp, 0⟩ : Repair)] } }
    (s.putAt (coreI sp) CORE_STAT_SPARE 0).putAt (coreI sp) CORE_FAULT_REPAIR 1
  | none =>
    if (List.range 800).any (fun c => s.isSpare c) then s else s.enterChrysalis 1

/-- What a core held goes with its domain (R410): its engines, its tokens, its place in the logical map. -/
def State.dropCore (s : State) (core : Nat) : State :=
  { s with
    engines := s.engines.filter (fun e => e.1 / 8 ≠ core)
    sched := { s.sched with tokens := s.sched.tokens.filter (fun e => e.1 / 256 ≠ core) }
    faults := { s.faults with
      untrusted := s.faults.untrusted.filter (fun u => u.1 ≠ core)
      repairs := s.faults.repairs.filter (fun r => r.spare ≠ core)
      former := match s.logicalOf core with
        | some l => SMap.set (fun _ => 0) s.faults.former l (core + 1)
        | none => s.faults.former
      logMap := s.faults.logMap.filter (fun e => e.2 ≠ core + 1) } }

/-- The registers of a core that is fenced. -/
def State.fenceRegs (s : State) (core : Nat) : State :=
  let s := ((s.putAt (coreI core) CORE_STAT_FENCED 1).putAt (coreI core) CORE_STAT_SPARE 0).putAt (coreI core) CORE_STAT_MAPPED 0
  let s := ((s.putAt (coreI core) CORE_FAULT_FENCE_REQ 0).putAt (coreI core) CORE_FAULT_UNTRUSTED 0).putAt (coreI core) CORE_FAULT_REPAIR 0
  s.dropCoreRegs (fun c => c = core)

/-- The module yields (R415): its ports fall silent. -/
def State.yieldRole (s : State) : State :=
  { s with
    faults := { s.faults with yielding := true }
    fab := { s.fab with ports := s.boot.image.ports.foldl (fun (m : List (Nat × Port)) (e : PlanPort) =>
      SMap.set (fun _ => Port.idle) m e.lane { SMap.get (fun _ => Port.idle) m e.lane with quiet := true }) s.fab.ports } }

/-- A core is fenced (R410, R411, R415): its domain goes off, its logical identity enters repair, and a spare that was
being repaired restarts on the next spare. -/
def State.fenceCore (s : State) (core : Nat) : State :=
  if s.isSetAt (coreI core) CORE_STAT_FENCED then s
  else
    let retired := (List.range 8).any (fun e => !(s.engine core e).retired.isEmpty)
    let logical := s.logicalOf core
    let wasSpare := s.faults.repairs.find? (fun r => r.spare = core)
    let s := ((s.fenceRegs core).dropCore core).settle
    let s := if s.boot.image.yieldOpt ∧ s.boot.image.hasStandby ∧ !retired then s.yieldRole else s
    let s := s.logCoreMap core
    let s := match logical with
      | some l => s.startRepair l core
      | none => match wasSpare with
        | some r => s.startRepair r.logical core
        | none => s
    s.countSpares.reAdmit

/-- The fences due at this mile boundary, in ascending physical core (R410, R414). -/
def State.applyFences (s : State) : State :=
  let due := s.faults.fences.filter (fun f => f.2 = s.mileNow)
  let s := { s with faults := { s.faults with fences := s.faults.fences.filter (fun f => f.2 ≠ s.mileNow) } }
  (List.range 800).foldl (fun s c => if due.any (fun f => f.1 = c) then s.fenceCore c else s) s

/-- The expected masks of tokens that neither a bushel nor a grant record gives one (R193, R275): set as the tables are loaded and whenever
the tokens start anew. Log entry 53 (DEDUCED). -/
def State.loadMasks (s : State) : State :=
  s.boot.image.buffers.foldl (fun (s : State) (b : TokenBuf) =>
    if b.use = .expert then
      match s.physOf b.core with
      | some p => s.setToken p b.token { s.token p b.token with expected := b.rows }
      | none => s
    else s) s

/-- At the first mile boundary after step 4 of its repair a spare takes over the logical identity (R412). Log entry 55 (DEDUCED). -/
def State.takeOvers (s : State) : State :=
  let done := s.faults.repairs.filter (fun r => r.step = 4)
  let s := { s with faults := { s.faults with repairs := s.faults.repairs.filter (fun r => r.step ≠ 4) } }
  if done.isEmpty then s
  else
    (done.foldl (fun (s : State) (r : Repair) =>
      (((s.mapCore r.logical r.spare).putAt (coreI r.spare) CORE_FAULT_REPAIR 0).logCoreMap r.spare).countSpares.reAdmit) s).loadMasks

end Sys2Proof.Machine
end

