-- ==== Sys2Proof/Machine/StartOps.lean ====
section
/-! DEFINITION. The start sequence as shared operations (R434 to R439): which step is complete, region set-up and the
logical map, the assignment of tier roles, the start of the sequencers. -/
namespace Sys2Proof.Machine

/-! ### Step 4 and 5 (R435, R436, R226) -/

/-- The port of the plan at a lowest lane, as state. -/
def State.port (s : State) (p : Nat) : Port := SMap.get (fun _ => Port.idle) s.fab.ports p
def State.setPort (s : State) (p : Nat) (x : Port) : State :=
  { s with fab := { s.fab with ports := SMap.set (fun _ => Port.idle) s.fab.ports p x } }

def State.portActive (s : State) (p : Nat) : Bool := decide (s.fldAt (lnkI p) LNK_STAT_STATE = 7)

/-- The core at whose router a lane is attached (R222). -/
def laneCore (l : Nat) : Nat := if l < 32 then 40 * (2 + l / 2) else 40 * (2 + (l - 32) / 2) + 39
/-- The edge router of a lane of the port at a lowest lane is faulty (R232). -/
def State.edgeFaulty (s : State) (p : Nat) : Bool :=
  (List.range (((s.boot.image.ports.find? (fun (x : PlanPort) => x.lane = p)).map PlanPort.width).getD 1)).any (fun k =>
    s.isSetAt (coreI (laneCore (p + k))) RTR_STAT_A_FAULTY)
/-- A port is disabled: by its register, the cabling decision, FOREIGN, or a faulty edge router (R232, R252, R253). -/
def State.portDisabled (s : State) (p : Nat) : Bool :=
  s.isSetAt (lnkI p) LNK_CTRL_DISABLE || (s.port p).planOff || s.edgeFaulty p

/-- Step 4 is complete when each planned port is active, disabled, or has failed one attempt (R434). -/
def State.linksDone (s : State) : Bool :=
  s.boot.image.ports.all (fun p => s.portActive p.lane || s.portDisabled p.lane || (s.port p.lane).failed)

/-- The latest record of a type and key in the event log (R431). -/
def State.latestRec (s : State) (type key : Nat) : Option LogRec :=
  (s.boot.log.map Prod.snd).foldl (fun (best : Option LogRec) r =>
    if r.type = type ∧ r.key = key then
      match best with
      | none => some r
      | some b => if b.seq < r.seq then some r else best
    else best) none

/-- Rule 1 of R436: the logical core that a healthy physical core keeps, with the record's SEQ. -/
def State.keeps (s : State) (r : Region) (core : Nat) : Option (Nat × Nat) :=
  match s.latestRec 7 core with
  | none => none
  | some l =>
    let n := fieldLE l.detail 2 2
    if s.healthy core ∧ r.holds core ∧ n ∈ r.logical then some (n, l.seq) else none

/-- Numbers in ascending order. -/
def insertNat (n : Nat) : List Nat → List Nat
  | [] => [n]
  | x :: l => if n ≤ x then n :: x :: l else x :: insertNat n l
def sortNats (l : List Nat) : List Nat := l.foldr insertNat []

/-- The logical map of one region (R436). Log entry 78 (DEDUCED). -/
def State.mapRegion (s : State) (r : Region) : State :=
  let cores := (List.range 800).filter (fun c => r.holds c && s.healthy c)
  let claims := cores.filterMap (fun c => (s.keeps r c).map (fun k => (c, k.1, k.2)))
  let winner := fun (l : Nat) => (claims.filter (fun k => k.2.1 = l)).foldl (fun (b : Option (Nat × Nat × Nat)) k =>
    match b with
    | none => some k
    | some x => if x.2.2 < k.2.2 then some k else b) none
  let kept := r.logical.filterMap (fun l => (winner l).map (fun k => (l, k.1)))
  let rest := (sortNats r.logical).filter (fun l => !(kept.any (fun k => k.1 = l)))
  let free := cores.filter (fun c => !(kept.any (fun k => k.2 = c)))
  let s := (kept ++ rest.zip free).foldl (fun s k => s.mapCore k.1 k.2) s
  (free.drop rest.length).foldl (fun s c => s.putAt (coreI c) CORE_STAT_SPARE 1) s

/-- A neighbour exists in direction k (up, down, left, right) and lies outside the region (R233). -/
def Region.leads (r : Region) (c k : Nat) : Bool :=
  match k with
  | 0 => decide (40 ≤ c) && !r.holds (c - 40)
  | 1 => decide (c + 40 < 800) && !r.holds (c + 40)
  | 2 => decide (c % 40 ≠ 0) && !r.holds (c - 1)
  | _ => decide (c % 40 ≠ 39) && !r.holds (c + 1)

/-- A core's router lies on the die's rim (R222). -/
def rimCore (c : Nat) : Bool := c < 40 || 760 ≤ c || c % 40 == 0 || c % 40 == 39

/-- The region registers of one core (R175, R233). -/
def State.regionRegs (s : State) (c : Nat) : State :=
  match s.regionOf c with
  | none => s
  | some r =>
    let s := s.putAt (coreI c) RTR_STAT_REGION r.num
    let s := s.putAt (coreI c) CORE_STAT_REGION r.num
    let s := s.flagAt (coreI c) RTR_STAT_BOUNDARY ((List.range 4).any (r.leads c))
    let s := s.flagAt (coreI c) RTR_STAT_ATTACH (r.attach == c)
    s.flagAt (coreI c) RTR_STAT_EDGE (rimCore c)

/-- The logical core that the latest CORE_MAP of a core names; 0xFFFF for none. -/
def State.recorded (s : State) (core : Nat) : Nat :=
  match s.latestRec 7 core with
  | some r => fieldLE r.detail 2 2
  | none => 0xFFFF

/-- Step 5: region map, boundary routers, attachment routers, logical map, CORE_MAP records (R434, R436, R222). -/
def State.regionSetup (s : State) : State :=
  let s := (List.range 800).foldl State.regionRegs s
  let s := s.boot.image.regions.foldl State.mapRegion { s with faults := { s.faults with logMap := [], former := [] } }
  let s := (List.range 800).foldl (fun s c =>
    if s.recorded c = (s.logicalOf c).getD 0xFFFF then s else s.logCoreMap c) s
  s.countSpares

/-! ### Tier roles at step 8 (R437, R438, R459) -/

/-- The start assignment (R437): standby, epoch in force, flip parity. -/
def State.startAssign (s : State) : Bool × Nat × Nat :=
  if s.isSet GLB_ASSIGN_VALID then
    (s.isSet GLB_ASSIGN_STANDBY, s.fld GLB_ASSIGN_EPOCH_EPOCH, s.fld GLB_ASSIGN_PARITY)
  else
    let start := (s.boot.image.tiles.map TileDecl.startEpoch).foldl Nat.max 0
    match s.latestRec 6 s.boot.image.pathRegion with
    | some r =>
      let e := fieldLE r.detail 0 4
      if e < start then (s.boot.image.startStandby, start, 0)
      else (s.boot.image.startStandby, e, fieldLE r.detail 9 1 % 2)
    | none => (s.boot.image.startStandby, start, 0)

/-- The start assignment is read as step 8 begins: the epoch and the parity in force, and whether the module starts as a standby;
later writes have no effect (R437). -/
def State.takeAssign (s : State) : State :=
  let (standby, epoch, parity) := s.startAssign
  ((s.put GLB_STATE_STANDBY (if standby then 1 else 0)).put GLB_STATE_FLIP_PARITY parity).put LD_EPOCH_CUR_EPOCH epoch

/-- What the latest CORE_MAP of a core says of a tier (R430): kind, tile number, covered role. -/
def State.mapEntry (s : State) (core eng tier : Nat) : Nat × Nat × Nat :=
  match s.latestRec 7 core with
  | none => (0, 0, 0)
  | some r =>
    let b0 := fieldLE r.detail (4 + 2 * (eng * 8 + tier)) 1
    (b0 / 8 % 8, b0 % 8, fieldLE r.detail (5 + 2 * (eng * 8 + tier)) 1)

/-- Of some tiers, the one of latest program time (R438). -/
def State.latestTier (s : State) (core eng : Nat) (l : List Nat) : Option Nat :=
  l.foldl (fun (b : Option Nat) t =>
    match b with
    | none => some t
    | some x => if (s.tier core eng x).progTime < (s.tier core eng t).progTime then some t else b) none

/-- The epoch check of one declared tile (R438): `own` tells the module's own role from a standby copy, and `cur` the
role that a tier of the epoch in force takes. Log entry 67 (DEDUCED). -/
def State.assignTile (s : State) (core : Nat) (d : TileDecl) (kind cur epoch : Nat) : State :=
  let named := (List.range 8).filter (fun t =>
    let m := s.mapEntry core d.engine t
    m.1 = kind && m.2.1 = d.num && (kind ≠ 3 || d.standby = some m.2.2))
  let bad := named.filter (fun t => (s.tier core d.engine t).bad)
  let good := named.filter (fun t =>
    let x := s.tier core d.engine t
    !x.bad && x.mapped && x.exact == d.exact && x.bits == d.bits)
  let s := bad.foldl (fun s t => s.setRole core d.engine t 7) s
  let at_ := s.latestTier core d.engine (good.filter (fun t => (s.tier core d.engine t).epoch = epoch))
  let above := s.latestTier core d.engine (good.filter (fun t => epoch < (s.tier core d.engine t).epoch))
  let s := match at_ with | some t => s.setRole core d.engine t cur | none => s
  let s := match above with | some t => s.setRole core d.engine t 3 | none => s
  match at_, cur with
  | none, 1 => { s with boot := { s.boot with missing := s.boot.missing ++ [(core, d.engine * 8 + d.num)] } }
  | _, _ => s

/-- A corpus's tiers (R459): the highest epoch for which every tile has a named tier with sound metadata comes into
force; named tiers of a higher epoch become pending. -/
def State.corpusTiers (s : State) (c : CorpusTile) (e : Nat) : Option (Nat × Option Nat) :=
  (s.physOf c.core).map (fun p =>
    (p, s.latestTier p c.engine ((List.range 8).filter (fun t =>
      let x := s.tier p c.engine t
      let m := s.mapEntry p c.engine t
      m.1 = 2 && m.2.1 = c.tile && !x.bad && x.mapped && x.epoch == e))))

/-- One corpus takes its tiers (R459); those of a standby module are standby copies, and none of them is in force (R30 entry
25). Log entry 67 (DEDUCED). -/
def State.assignCorpus (s : State) (c : Corpus) : State :=
  let epochs := (c.tiles.flatMap (fun t =>
    match s.physOf t.core with
    | none => []
    | some p => (List.range 8).map (fun k => (s.tier p t.engine k).epoch))).filter (· ≠ 0)
  let full := epochs.filter (fun e => c.tiles.all (fun t => ((s.corpusTiers t e).bind Prod.snd).isSome))
  let best := full.foldl Nat.max 0
  let s := c.tiles.foldl (fun s t =>
    match s.physOf t.core with
    | none => s
    | some p =>
      let s := match ((s.corpusTiers t best).bind Prod.snd) with
        | some k => if best = 0 then s else s.setRole p t.engine k (if s.isSet GLB_STATE_STANDBY then 5 else 4)
        | none => s
      ((List.range 8).filter (fun k =>
        let m := s.mapEntry p t.engine k
        m.1 = 2 && m.2.1 = t.tile && !(s.tier p t.engine k).bad && decide (best < (s.tier p t.engine k).epoch))).foldl
          (fun s k => s.setRole p t.engine k 3) s) s
  if best = 0 ∨ s.isSet GLB_STATE_STANDBY then s
  else { s with rtv := { s.rtv with epoch := SMap.set (fun _ => 0) s.rtv.epoch c.num best } }

/-- The tile number of an engine names a corpus tile (R346, R447). -/
def Image.isCorpus (im : Image) (core engine num : Nat) : Bool :=
  im.corpora.any (fun c => c.tiles.any (fun t => decide (t.core = core ∧ t.engine = engine ∧ t.tile = num)))

/-- Step 8: every tier takes its role under the start assignment read as the step began (R437, R438, R459). Log entries 67 (DEDUCED), 78 (DEDUCED). -/
def State.assignRoles (s : State) : State :=
  let standby := s.isSet GLB_STATE_STANDBY
  let epoch := s.fld LD_EPOCH_CUR_EPOCH
  let s := { s with boot := { s.boot with missing := [] } }
  let s := (SMap.keys s.tiers).foldl (fun s k =>
    if (SMap.get (fun _ => Tier.blank) s.tiers k).bad then s.setRole (k / 64) (k / 8 % 8) (k % 8) 7
    else s.setRole (k / 64) (k / 8 % 8) (k % 8) 0) s
  let s := s.boot.image.tiles.foldl (fun s d =>
    match s.physOf d.core with
    | none => s
    | some p =>
      if s.boot.image.isCorpus d.core d.engine d.num then s
      else if d.standby.isSome then s.assignTile p d 3 5 epoch
      else s.assignTile p d 1 (if standby then 5 else 1) epoch) s
  s.boot.image.corpora.foldl State.assignCorpus s

/-! ### The chain of steps (R434, R435, R438, R439) -/

def State.startStep (s : State) : Nat := s.fld GLB_STATE_STEP
def State.admitted (s : State) : Bool := s.sched.admitted

/-- The value of GLB_STATE.WAIT that the step reached calls for (R433, R435, R438, R439). -/
def State.waitCode (s : State) : Nat :=
  match s.startStep with
  | 2 => if s.pendingAcks = 0 then 0 else 1
  | 5 => if s.isSet TB_STAT_COUNT_VALID then 0 else 2
  | 6 => if s.sec.accepted then 0 else 3
  | 7 => if s.boot.missing.isEmpty then 0 else 4
  | 9 => if s.sched.running ∧ s.boot.image.entry ∧ !s.isSet RQT_CTRL_INTAKE_EN then 5 else 0
  | _ => 0

/-- Step 9 is complete on an admitted module only once its sequencers may start: the start becomes due (R439). -/
def State.wantStart (s : State) : State :=
  if s.admitted ∧ 9 ≤ s.startStep ∧ !s.sched.running then { s with sched := { s.sched with startDue := true } } else s

/-- A module whose admission has failed stops before step 10 and records that it started admit-failed (R430, R435). Log entry 43 (DEDUCED). -/
def State.noteUnadmitted (s : State) : State :=
  if s.isSet GLB_STATE_ADMIT_FAILED then
    s.logAppend 5 1 [BitVec.ofNat 8 s.sched.var, BitVec.ofNat 8 s.boot.crcFails]
  else s

/-- Complete one step of the start if its condition holds (R434). -/
def State.stepOnce (s : State) : Option State :=
  let done := fun (n : Nat) (t : State) => some (t.putGlb GLB_STATE_STEP n)
  if s.fld GLB_STATE_STATE ≠ 0 then none
  else match s.startStep with
  | 2 => if s.boot.tested ∧ s.pendingAcks = 0 then done 3 s else none
  | 3 => if s.linksDone then done 4 s else none
  | 4 => done 5 s.regionSetup
  | 5 =>
    if !s.isSet TB_STAT_COUNT_VALID then none
    else if s.fld TB_ADM_STAT_STATE = 0 then some s.reAdmit
    else if s.sched.admDue then none
    else done 6 s
  | 6 => if s.sec.accepted then done 7 s.takeAssign else none
  | 7 => if s.isSet SEC_STAT_UNSEALED ∧ s.boot.missing.isEmpty then done 8 s else none
  | 8 => if s.isSet ASZ_STAT_FIRST_DONE then done 9 s.wantStart.noteUnadmitted else none
  | 9 =>
    if s.sched.running ∧ (!s.boot.image.entry ∨ s.isSet RQT_CTRL_INTAKE_EN) then
      done 10 (s.putGlb GLB_STATE_STATE 1)
    else none
  | _ => none

/-- Complete steps as long as the next one's condition holds: at most the ten of R434. -/
def State.advanceN : Nat → State → State
  | 0, s => s
  | n + 1, s =>
    match s.stepOnce with
    | some t => State.advanceN n t
    | none => s

def State.advanceStart (s : State) : State :=
  let t := State.advanceN 10 s
  if t.fld GLB_STATE_STATE = 2 then t else t.putGlb GLB_STATE_WAIT t.waitCode

/-- The sequencers start (R439): at a mile boundary whose mile number is a multiple of the start variant's period.
The STARTED record carries the variant in force. Log entry 43 (DEDUCED). -/
def State.startSequencers (s : State) : State :=
  match s.variant? s.sched.var with
  | none => s
  | some v =>
    let ok := decide (s.fld TB_VAR_ADMIT_ADMITTED / 2 ^ s.sched.var % 2 = 1)
    if !(s.sched.startDue ∧ ok ∧ s.isSet TB_STAT_COUNT_VALID) ∨ s.mileNow % v.period ≠ 0 then s
    else
      let first := s.startStep = 9
      let s := { s with sched := { s.sched with running := true, startDue := false, admitted := true } }
      let s := (((s.put TB_ADM_STAT_STATE 2).put TB_ADM_STAT_CODE 0).put TB_ADM_STAT_ITEM 0xFFFF).put TB_STAT_TIME_FAIL 0
      let s := s.put GLB_STATE_ADMIT_FAILED 0
      let s := if first then s.logAppend 5 0 [BitVec.ofNat 8 s.sched.var, BitVec.ofNat 8 s.boot.crcFails] else s
      (if s.boot.image.serving then s.put RQT_STAT_RUNNING 1 else s).loadMasks.advanceStart

end Sys2Proof.Machine
end

