-- ==== Sys2Proof/Machine/EngineOps.lean ====
section
/-! DEFINITION. How an engine stages, converts, corrects and scales (R31 to R66, R70 to R88, R104 to R115), and the
temperatures and drift words its converters use (R129, R130). -/
namespace Sys2Proof.Machine

/-! ### Row maps (R51, R387) -/

/-- `shuffle(n)` of R387 from the words starting at index `w`. -/
def shuffleGo (word : Nat → BitVec 32) : Nat → Nat → List Nat → List Nat
  | 0, _, perm => perm
  | i + 1, w, perm =>
    let j := (word w).toNat * (i + 2) / 2 ^ 32
    let a := perm.getD (i + 1) 0
    let b := perm.getD j 0
    shuffleGo word i (w + 1) ((perm.set (i + 1) b).set j a)

def shuffle (word : Nat → BitVec 32) (n w : Nat) : List Nat := shuffleGo word (n - 1) w (List.range n)

/-- The physical row of a logical row, by a tier's map. -/
structure RowMap where
  band : List Nat
  row : List (List Nat)
  deriving DecidableEq, Repr

def RowMap.phys (m : RowMap) (logical : Nat) : Nat :=
  32 * m.band.getD (logical / 32) 0 + (m.row.getD (logical / 32) []).getD (logical % 32) 0

def State.rowMapAt (s : State) (core eng tier epoch : Nat) : RowMap :=
  let word := ctrWord (rowMapSeed (s.sec.weightKey.getD 0) core eng tier epoch)
  ⟨shuffle word 32 0, (List.range 32).map (fun l => shuffle word 32 (31 + 31 * l))⟩

/-- The row map of what a tier holds. -/
def State.rowMap (s : State) (core eng tier : Nat) : RowMap := s.rowMapAt core eng tier (s.tier core eng tier).epoch

/-- A weight column is used (R43). -/
def TileDecl.used (d : TileDecl) (k : Nat) : Bool := decide (k < d.cols) && !d.unused.contains k

/-! ### Local temperature and drift words (R129, R130) -/

/-- The sensor of a core (R129). -/
def sensorOf (core : Nat) : Nat := 16 * (core / 40 / 5) + 2 * (core % 40) / 5

/-- Grid neighbours of a die sensor: one step in row block or column block (R130, R485). -/
def gridNeighbours (i : Nat) : List Nat :=
  (if 16 ≤ i then [i - 16] else []) ++ (if i + 16 < 64 then [i + 16] else []) ++
  (if i % 16 ≠ 0 then [i - 1] else []) ++ (if i % 16 ≠ 15 then [i + 1] else [])

def State.sensor (s : State) (i : Nat) : Sensor := SMap.get (fun _ => Sensor.init) s.asz.sensors i

/-- The thermal controller ignores sensor i (R485): its bit of THM_IGN. -/
def State.ignored (s : State) (i : Nat) : Bool :=
  if i < 32 then s.fld THM_IGN_LO_MASK / 2 ^ i % 2 = 1
  else if i < 64 then s.fld THM_IGN_HI_MASK / 2 ^ (i - 32) % 2 = 1
  else s.fld THM_IGN_EXT_MASK / 2 ^ (i - 64) % 2 = 1

/-- An engine of the core is dark (R130). -/
def State.dark (s : State) (core : Nat) : Bool :=
  let i := sensorOf core
  s.ignored i || !(s.sensor i).ever || decide (8 ≤ (s.sensor i).dry) || s.isSet ASZ_STAT_REF_DISTRUST

/-- Mean of the records of the previous furlong, or the last settled record, in °C (R129). -/
def Sensor.mean (x : Sensor) : Rat :=
  if x.prevCnt = 0 then (x.last : Rat) / 2 ^ 20 else (x.prevSum : Rat) / (2 ^ 20 * (x.prevCnt : Rat))

/-- T_loc of a core's engines: `none` where a dark engine holds its words (R129, R130). -/
def State.tLoc (s : State) (core : Nat) : Option Rat :=
  let i := sensorOf core
  if !s.dark core then some (s.sensor i).mean
  else if s.isSet ASZ_STAT_REF_DISTRUST then none
  else
    let ok := (gridNeighbours i).filter (fun j => !s.ignored j && decide (0 < (s.sensor j).prevCnt))
    if ok.isEmpty then none else some ((ok.map (fun j => (s.sensor j).mean)).sum / (ok.length : Rat))

/-- Age of a tier in seconds; `none` where its program time lies after the rod count (R140, R142). -/
def State.tierAge (s : State) (core eng tier : Nat) : Option Rat :=
  let p := (s.tier core eng tier).progTime
  if rodAfter s.tb.rod p then none else some ((rodsSince p s.tb.rod : Rat) / 1000000)

def State.tierCal (s : State) (core eng tier : Nat) : TierCal := SMap.get (fun _ => TierCal.init) s.asz.tiers (tierKey core eng tier)
def State.setTierCal (s : State) (core eng tier : Nat) (c : TierCal) : State :=
  { s with asz := { s.asz with tiers := SMap.set (fun _ => TierCal.init) s.asz.tiers (tierKey core eng tier) c } }
def bandKey (core eng tier band : Nat) : Nat := tierKey core eng tier * 32 + band
def State.band (s : State) (core eng tier band : Nat) : TierBand := SMap.get (fun _ => TierBand.init) s.asz.bands (bandKey core eng tier band)
def State.setBand (s : State) (core eng tier band : Nat) (b : TierBand) : State :=
  { s with asz := { s.asz with bands := SMap.set (fun _ => TierBand.init) s.asz.bands (bandKey core eng tier band) b } }
def convKey (core eng band conv : Nat) : Nat := (engKey core eng * 32 + band) * 33 + conv
def State.conv (s : State) (core eng band conv : Nat) : Conv := SMap.get (fun _ => Conv.init) s.asz.convs (convKey core eng band conv)
def State.setConv (s : State) (core eng band conv : Nat) (c : Conv) : State :=
  { s with asz := { s.asz with convs := SMap.set (fun _ => Conv.init) s.asz.convs (convKey core eng band conv) c } }
def State.engCal (s : State) (core eng : Nat) : EngCal := SMap.get (fun _ => EngCal.init) s.asz.engs (engKey core eng)
def State.setEngCal (s : State) (core eng : Nat) (c : EngCal) : State :=
  { s with asz := { s.asz with engs := SMap.set (fun _ => EngCal.init) s.asz.engs (engKey core eng) c } }

/-- The settling term of a tier and band (R140): 0 below an age of 1 s, from 1,000 s on, and for a tier whose program
time lies after the rod count. Log entries 26 (DESIGN CHOICE), 50 (DEDUCED). -/
def State.lambdaTerm (s : State) (core eng tier band : Nat) : Rat :=
  match s.tierAge core eng tier with
  | none => 0
  | some a =>
    let c := s.tierCal core eng tier
    if a < 1 ∨ 1000 ≤ a then 0
    else
      let lam : Rat := if c.settleDone < 2 then -246 else (s.band core eng tier band).decade.getD (-246)
      lam * Config.log10 (a / c.ageAt)

def limit (lo hi x : Int) : Int := max lo (min hi x)

/-- The applied drift word for a local temperature (R129). -/
def State.driftWord (s : State) (core eng tier band : Nat) (t : Rat) : Int :=
  let b := s.band core eng tier band
  limit (-2048) 2047 (nearestAway ((b.kAge : Rat) + (b.kappa : Rat) / 256 * (t - 125 / 2) + s.lambdaTerm core eng tier band))

/-- The drift word of a band at the current local temperature (R129, R133): a dark engine without valid neighbours holds
the word it last applied, or takes that of 62.5 °C if it has applied none (R130). Log entry 50 (DEDUCED). -/
def State.driftNow (s : State) (core eng tier band : Nat) : Int :=
  match s.tLoc core with
  | some t => s.driftWord core eng tier band t
  | none =>
    if (s.engCal core eng).everApplied then (s.band core eng tier band).applied
    else s.driftWord core eng tier band (125 / 2)

/-! ### Conversion (R70 to R78) -/

/-- The DAC code for a threshold of `t32` thirty-seconds of a grain (R76). -/
def dacCode (g o k t32 : Int) : Int := limit 0 32767 (roundAway (t32 * g * (16384 + k)) (8192 * 16384) + o)

/-- Convert a held value: `reach t32 step` tells whether it reaches the threshold at t32/32 grain (R70 to R72). -/
def convertGo (reach : Int → Nat → Bool) : List Nat → Nat → Int → Int
  | [], _, lo => lo
  | w :: ws, step, lo =>
    let c := (List.range 3).countP (fun (i : Nat) => reach ((lo + ((i + 1) * (w / 4) : Nat)) * 32 + 16) (step * 3 + i))
    convertGo reach ws (step + 1) (lo + (c * (w / 4) : Nat))

def convert (reach : Int → Nat → Bool) (rho : Nat) : Nat :=
  let lo := convertGo reach [512, 128, 32, 8] 0 (-1)
  let c := (List.range 3).countP (fun (i : Nat) => reach ((lo + i) * 32 + 2 * rho + 1) (12 + i))
  (limit 0 511 (lo + c)).toNat

/-- One beat as the converters see it: drive levels by slice and physical row, the map from logical bands for the
dither index, the stream, and the converter measured in every band (R126). -/
structure BeatRun where
  core : Nat
  eng : Nat
  tier : Nat
  slices : Nat
  level : Nat → Nat → Nat
  /-- logical band of a physical band, for the dither index -/
  ditherBand : Nat → Nat
  stream : Stream
  measured : Option Nat

/-- Cell level of a physical row and cell column (R31, R41, R122): the data columns and witness copies as programmed,
the standards by their pattern. -/
def stdK : List Nat := [1, 5, 9, 13, 17, 21, 26, 32]
def stdL : List Nat := [1, 1, 1, 1, 1, 1, 2, 0]
def Tier.cell (t : Tier) (row col : Nat) : Nat :=
  if col < 1024 then SMap.get (fun _ => 0) t.cells (row * 1048 + col)
  else if col < 1040 then SMap.get (fun _ => 0) t.cells (row * 1048 + (64 * (col - 1024) + t.witIdx))
  else
    let k := stdK.getD (col - 1040) 0
    let l := if t.exact then 0 else stdL.getD (col - 1040) 0
    if row % 32 < k then 3 else if row % 32 < k + l then 1 else 0

/-- Nominal segment sum of a band, column and slice (R31, R52). -/
def Tier.segment (t : Tier) (level : Nat → Nat → Nat) (slice band col : Nat) : Nat :=
  ((List.range 32).map (fun r => t.cell (32 * band + r) col * level slice (32 * band + r))).sum

/-- The converter that converts a data or witness column of a band (R39, R79, R81). -/
def State.converterOf (s : State) (core eng band col : Nat) (measured : Option Nat) : Nat :=
  let ret := ((s.engine core eng).retired.find? (fun r => r.1 = band)).map Prod.snd
  if col < 1024 then
    if ret = some (col / 32) then 32
    else if ret.isNone ∧ measured = some (col / 32) ∧ col / 32 < 32 then 32 else col / 32
  else match ret, measured with
    | none, some c => if c < 32 then c else 32
    | _, _ => 32

/-- The code of one conversion (R70 to R77), `idx` its dither index. The held value and the thresholds carry their
free analogue errors, a disturbed conversion a larger one (R62). Log entry 11 (DESIGN CHOICE). -/
def State.codeOf (s : State) (b : BeatRun) (slice band col conv idx : Nat) : Nat :=
  let t := s.tier b.core b.eng b.tier
  let w := s.conv b.core b.eng band conv
  let k := (s.band b.core b.eng b.tier band).applied
  let held : Int := 1024 * (t.segment b.level slice band col : Int) + ((Config.heldErr s.freeCtr idx).val - 2048) +
    (if Config.disturbed s.freeCtr idx then Config.disturbance s.freeCtr idx else 0)
  let rho := if s.isSetAt (engI b.core b.eng) ENG_CONV_CFG_DITHER_OFF then 8 else b.stream.draw idx % 16
  convert (fun t32 n => decide (32 * dacCode w.g w.o k t32 + ((Config.dacErr s.freeCtr idx n).val - 1024) ≤ held)) rho

/-- The code of a data or witness column (R77). -/
def State.columnCode (s : State) (b : BeatRun) (slice band col : Nat) : Nat :=
  s.codeOf b slice band col (s.converterOf b.core b.eng band col b.measured) ((slice * 32 + b.ditherBand band) * 1048 + col)

/-- A measurement conversion of standard `std` in slot 16 to 31 (R77, R126). Log entry 11 (DESIGN CHOICE). -/
def State.stdCode (s : State) (b : BeatRun) (slice band conv std slot : Nat) : Nat :=
  s.codeOf b slice band (1040 + std) conv (2 ^ 20 + (slice * 32 + band) * 16 + (slot - 16))

/-- The codes of one slice by conversion: (slice * 32 + band) * 1040 + column. -/
def State.sliceCodes (s : State) (b : BeatRun) (slice : Nat) : SMap Nat :=
  (List.range (32 * 1040)).map (fun i =>
    (slice * 32 * 1040 + i, s.columnCode b slice (i / 1040) (i % 1040)))

def codeAt (m : SMap Nat) (slice band col : Nat) : Nat := SMap.get (fun _ => 0) m ((slice * 32 + band) * 1040 + col)

/-- Whether a band converts its witness columns (R40, R81). -/
def State.witnessed (s : State) (core eng band : Nat) : Bool :=
  !((s.engine core eng).retired.any (fun r => r.1 = band))

/-- Count of R64, or the code itself. -/
def decodeCode (exact : Bool) (q : Nat) : Nat := if exact then (q + 4) / 9 else q

/-- Failed witness comparisons (R67): slice, band and data column. On an exact tier the counts of the codes as delivered are
compared, before a code above 292 is replaced (R115). Log entry 81 (DESIGN CHOICE). -/
def State.witnessFails (s : State) (b : BeatRun) (m : SMap Nat) : List (Nat × Nat × Nat) :=
  let t := s.tier b.core b.eng b.tier
  let tol := s.inForceAt (engI b.core b.eng) ENG_WIT_CFG_TOL
  (List.range (b.slices * 32 * 16)).filterMap (fun i =>
    let slice := i / 512
    let band := i / 16 % 32
    let col := 64 * (i % 16) + t.witIdx
    if !s.witnessed b.core b.eng band then none
    else
      let x := codeAt m slice band (1024 + i % 16)
      let y := codeAt m slice band col
      let ok := if t.exact then decodeCode true x == decodeCode true y else decide (x ≤ y + tol ∧ y ≤ x + tol)
      if ok then none else some (slice, band, col))

/-- Count saturated codes (R73). -/
def State.countSat (s : State) (core eng n : Nat) : State := s.addAt (engI core eng) ENG_CONV_SAT_COUNT n

/-- Count the codes of a beat's data and witness columns (R73, R112): saturated codes, and codes above 292. Log entry 48 (DEDUCED). -/
def State.countCodes (s : State) (b : BeatRun) (m : SMap Nat) : State :=
  let seen := m.filter (fun e => decide (e.1 % 1040 < 1024) || s.witnessed b.core b.eng (e.1 / 1040 % 32))
  let sat := seen.countP (fun e => e.2 = 511)
  let overs := seen.countP (fun e => 292 < e.2)
  let i := engI b.core b.eng
  let s := (s.countSat b.core b.eng sat).addAt i ENG_OVR_CNT_COUNT overs
  s.raiseIfAt i ENG_WD_FLAG_OVR (decide (0 < overs))

/-! ### Staging (R45 to R50, R104, R108, R111) -/

/-- The group exponent of an A8 input (R96): a group with scale byte 0xFF is an all-zero group, and its exponent -127. -/
def groupEps (a8 : Source) (g : Nat) : Int :=
  match a8 with
  | .a8 gs => let e := (gs.getD g (0, [])).1
    if e = 0xFF then -127 else (e.toNat : Int) - 127
  | .bf16 _ => 0

/-- What an input gives at a logical row: its real value (R46, R47, R96). -/
def elemOf (src : Source) (row : Nat) : Dy :=
  match src with
  | .a8 gs =>
    let g := gs.getD (row / 32) (0, [])
    if g.1 = 0xFF then Dy.zero else ⟨g.2.getD (row % 32) 0, (g.1.toNat : Int) - 127⟩
  | .bf16 vs =>
    let v := bf16ToF32 (vs.getD row 0)
    if f32IsNaN v then Dy.zero
    else if f32IsInf v then f32Val (f32Neg v |> fun n => if n then 0xFF7F0000 else 0x7F7F0000)
    else f32Val v

/-- The specials of R47 that an input holds: NaN, infinity, NaN scale, on inactive rows and in inactive groups too. Log entry 81 (DESIGN CHOICE). -/
def specials (src : Source) : Bool × Bool × Bool :=
  match src with
  | .a8 gs => (false, false, gs.any (fun g => g.1 = 0xFF))
  | .bf16 vs => (vs.any (fun v => f32IsNaN (bf16ToF32 v)), vs.any (fun v => f32IsInf (bf16ToF32 v)), false)

/-- The smallest k ≥ 0 with -M × 2^k ≤ every value ≤ Q × 2^k (R46). -/
def smallestShift (q : Nat) (ys : List Int) : Nat :=
  ((List.range 12).find? (fun k => ys.all (fun y => decide (-((q : Int) + 1) * 2 ^ k ≤ y ∧ y ≤ (q : Int) * 2 ^ k)))).getD 11

/-- The smallest exponent in -127 to 127 with m ≤ Q × 2^e, or 127 (R46, R102). -/
def smallestExp (q : Nat) (m : Dy) : Int :=
  (((List.range 255).find? (fun (k : Nat) => m.le ⟨q, (k : Int) - 127⟩)).map (fun (k : Nat) => (k : Int) - 127)).getD 127

/-- Quantise one group of 32 elements to `a` bits (R46): elements and group exponent. -/
def quantGroup (a : Nat) (isA8 : Bool) (eps : Int) (vals : List Dy) (draw : Nat → Nat) (row0 : Nat) : List Int × Int :=
  let q := 2 ^ (a - 1) - 1
  if isA8 then
    let ys := vals.map (fun v => v.m)
    if a = 8 then (ys, eps)
    else
      let k := smallestShift q ys
      (ys.zipIdx.map (fun p => stochRound p.1 k (draw (row0 + p.2))), eps + k)
  else
    let m := vals.foldl (fun b v => if b.lt v.abs then v.abs else b) Dy.zero
    if m.m = 0 then (vals.map (fun _ => 0), -127)
    else
      let e := smallestExp q m
      (vals.zipIdx.map (fun p => limit (-((q : Int) + 1)) q (stochRound p.1.m (e - p.1.e) (draw (row0 + p.2)))), e)

/-- The rounding stream of a beat on a tile (R77, R104). -/
def State.tileStream (s : State) (d : TileDecl) (i : StageIn) (sel pass : Nat) : Stream :=
  match i.serves with
  | .request => ⟨i.seed, i.pos, d.layer, d.unit, 0, sel, pass⟩
  | .query => ⟨0, s.tb.rod % 2 ^ 32, d.layer, d.unit, s.tb.rod / 2 ^ 32, sel, pass⟩

/-- An input element is finite as it arrives (R108). -/
def finiteAt (src : Source) (row : Nat) : Bool :=
  match src with
  | .a8 _ => true
  | .bf16 vs => f32Finite (bf16ToF32 (vs.getD row 0))

/-- The outlier selection of R108: rows selected, and whether more than eight qualified. -/
def selectOutliers (d : TileDecl) (src : Source) : List Nat × Bool :=
  let th := f32Val d.theta
  let q := d.mirror.filter (fun r => finiteAt src r && th.lt (elemOf src r).abs)
  if q.length ≤ 8 then (q, false)
  else
    let top := (List.range 8).foldl (fun (acc : List Nat) _ =>
      match (q.filter (fun r => !acc.contains r)).foldl (fun (b : Option Nat) r =>
        match b with
        | none => some r
        | some x => if (elemOf src x).abs.lt (elemOf src r).abs then some r else b) none with
      | some r => acc ++ [r]
      | none => acc) []
    (q.filter (fun r => top.contains r), true)

/-- Stage an input at `a` bits with the rows that the outlier lane removes (R46 to R50, R111). -/
def State.stage (s : State) (d : TileDecl) (i : StageIn) (a pass : Nat) (out : List Nat) : Staged :=
  let isA8 := match i.source with | .a8 _ => true | .bf16 _ => false
  let draw0 := (s.tileStream d i 0 pass).draw
  let draw2 := (s.tileStream d i 2 pass).draw
  let val := fun (r : Nat) => if d.nAct ≤ r ∨ out.contains r then Dy.zero else elemOf i.source r
  let nG := (d.nAct + 31) / 32
  let groups := (List.range nG).map (fun g =>
    quantGroup a isA8 (groupEps i.source g) ((List.range 32).map (fun k => val (32 * g + k))) draw0 (32 * g))
  let eRef := (groups.map Prod.snd).foldl max (-1000) - 7
  let aligned := groups.zipIdx.map (fun p =>
    if p.1.2 < eRef then (p.1.1.zipIdx.map (fun e => stochRound e.1 (eRef - p.1.2) (draw2 (32 * p.2 + e.2))), eRef) else p.1)
  let x := (aligned.map Prod.fst).flatten.take d.nAct
  let crush := (List.range nG).any (fun g =>
    decide (d.crushLimit < (List.range 32).countP (fun k =>
      decide (32 * g + k < d.nAct) && decide ((val (32 * g + k)).m ≠ 0) && (x.getD (32 * g + k) (0 : Int) == 0))))
  let sp := specials i.source
  { input := i, a, pass, x, h := aligned.map (fun p => (p.2 - eRef).toNat), eRef
    zero := x.all (fun v => v = 0), flag := sp.1 || sp.2.1 || sp.2.2
    outliers := out.map (fun r => (r, ((elemOf i.source r).toF32 false).1)), crush := crush, ol := none, ad := none }

/-! ### Correction, adder tree and output stage (R54, R63, R83, R84, R88) -/

/-- P_k of a weight column (R54, R83): `clamp` replaces codes above 292 by 288 (R114, R115). -/
def Tier.columnInt (t : Tier) (rm : RowMap) (g : Staged) (m : SMap Nat) (slices k : Nat) (clamp : Bool) : Int :=
  let cellsPer := if t.exact then t.bits else t.bits / 2
  let rho : Nat := if t.exact then 2 else 4
  let mm : Int := 2 ^ (g.a - 1)
  let u : Int := 2 ^ (t.bits - 1)
  ((List.range g.h.length).map (fun l =>
    let p := rm.band.getD l 0
    let n : Int := ((SMap.get (fun _ => 0) t.active p : Nat) : Int)
    if n = 0 then (0 : Int)
    else
      let sums := ((List.range cellsPer).map (fun j => ((List.range slices).map (fun sl =>
        let q := codeAt m sl p (cellsPer * k + j)
        let q := if clamp ∧ 292 < q then 288 else q
        ((rho ^ (j + sl) * decodeCode t.exact q : Nat) : Int))).sum)).sum
      let dsum := ((List.range cellsPer).map (fun j =>
        ((rho ^ j * SMap.get (fun _ => 0) t.digits ((cellsPer * k + j) * 32 + p) : Nat) : Int))).sum
      let v := (((g.x.drop (32 * l)).take 32).map (fun e => e + mm)).sum
      let b := sums - mm * dsum - u * v + n * u * mm
      b * 2 ^ (g.h.getD l 0 + (SMap.get (fun _ => []) t.shifts k).getD (l / 4) 0))).sum

/-- Steps 1 to 3 of R88: the scaled array part, and whether it was limited. A zero takes its sign from P_k. Log entry 81 (DESIGN CHOICE). -/
def Tier.scaled (t : Tier) (k : Nat) (p eRef : Int) : FpBits × Bool :=
  let t1 := f32Val (f32OfInt p)
  let t2 := (t1.mul (f16Val (SMap.get (fun _ => 0) t.sigma k))).roundTo 24
  (⟨t2.m, t2.e + eRef⟩ : Dy).toF32 (decide (p < 0))

/-- Step 4 to 6 of R88: one enabled contribution. Log entry 48 (DEDUCED). -/
def mergeStep (y : FpBits × Bool) (c : Option FpBits) : FpBits × Bool :=
  match c with
  | none => y
  | some v => let r := f32AddFlag y.1 v; (r.1, y.2 || r.2)

/-- Step 6 of R88: the bias. One that is a NaN or an infinity gives a free value. Log entry 81 (DESIGN CHOICE). -/
def biasStep (y : FpBits × Bool) (b : FpBits) : FpBits × Bool :=
  if f32Finite b then mergeStep y (some b) else (Config.biasCorner y.1 b, y.2)

/-- One column output (R88): the scaled array part, then the enabled contributions in their order. -/
def Tier.output (t : Tier) (d : TileDecl) (k : Nat) (p eRef : Int) (o a : Option FpBits) : FpBits × Bool :=
  let y := mergeStep (mergeStep (t.scaled k p eRef) o) a
  if d.biasMerge then biasStep y (SMap.get (fun _ => (0 : FpBits)) t.bias k) else y

/-- Bytes of an FP32 or BF16 result in the core store, little-endian. Log entry 61 (DESIGN CHOICE). -/
def outBytes (bf16 : Bool) (y : FpBits) : List Byte :=
  if bf16 then leBytes 2 (f32ToBf16 y).toNat else leBytes 4 y.toNat

/-- Core-store bytes (R160). -/
def storeKey (core addr : Nat) : Nat := core * 2 ^ 20 + addr
/-- 768 KiB of a core's store; a byte at or above it does not exist: a write of it is dropped, a read of it gives a free
value. Log entry 79 (DESIGN CHOICE). -/
def storeSize : Nat := 786432
def State.storeBytes (s : State) (core addr : Nat) (bs : List Byte) : State :=
  let bs := bs.take (storeSize - addr)
  { s with store := SMap.setRange (fun _ => 0) s.store (storeKey core addr) bs
           mem := { s.mem with stale := s.mem.stale.filter (fun l =>
             !(decide (storeKey core addr / 64 ≤ l) && decide (l ≤ (storeKey core addr + bs.length - 1) / 64))) } }
def State.loadBytes (s : State) (core addr n : Nat) : List Byte :=
  SMap.getRange (fun _ => 0) s.store (storeKey core addr) (min n (storeSize - addr)) ++
    (List.range (n - (storeSize - addr))).map (fun k => Config.noByte (max addr storeSize + k))

/-! ### Whose a row is (R99, R100, R104) -/

/-- The buffer of a token of a physical core (R193, R505). -/
def State.tokenBuf (s : State) (core token : Nat) : Option TokenBuf :=
  let l := s.logicalOf core
  (s.boot.image.buffers.find? (fun b => decide (some b.core = l) && decide (b.token = (s.token core token).buf.getD token))).map
    (fun b => { b with token := token })

/-- The word at bytes 68 to 71 of peck p (R97, R99). -/
def peckTag (bs : List Byte) (p : Nat) : Nat := fieldLE bs (72 * p + 68) 4
def tagSlot (t : Nat) : Nat := t / 2 ^ 19 % 8192
def tagGen (t : Nat) : Nat := t / 2 ^ 12 % 128
def tagPos (t : Nat) : Nat := t / 16 % 256
def tagRank (t : Nat) : Nat := t / 2 % 8
def tagVoid (t : Nat) : Bool := t % 2 = 1

/-- The request of a bushel row. -/
def State.rowOf (s : State) (key : Option Nat) (row : Nat) : Option BushelRow :=
  match key with
  | none => none
  | some k => (s.rqt.bushels.find? (fun b => b.key = k)).bind (fun b => b.rows[row]?)

/-- The tag of a row of an expert's input token, among an issue's input tokens: that of the row's first peck (R276). -/
def State.expertTag (s : State) (core : Nat) (ins : List Nat) (row : Nat) : Option Nat :=
  (ins.filter (· ≠ 255)).findSome? (fun n => (s.tokenBuf core n).bind (fun b =>
    if b.use = .expert then some (peckTag (s.loadBytes core (b.base + row * b.perRow * b.unit) 72) 0) else none))

/-- The full position of a tag: that of the request's row in flight whose low bits it gives, else those bits. Log entry 49 (DEDUCED). -/
def State.tagPosition (s : State) (w : Nat) : Nat :=
  ((s.rqt.bushels.findSome? (fun b => b.rows.find? (fun r =>
    decide (r.slot = tagSlot w ∧ r.gen = tagGen w ∧ r.pos % 256 = tagPos w)))).map BushelRow.pos).getD (tagPos w)

/-- Seed, full position, slot and generation of a row that an issue works on (R99, R104): of its bushel row, or by the tag of an
expert's input row. -/
def State.rowKey (s : State) (core : Nat) (ins : List Nat) (key : Option Nat) (row : Nat) : BitVec 64 × Nat × Nat × Nat :=
  match s.rowOf key row, s.expertTag core ins row with
  | some r, _ => ((s.req r.slot).seed, r.pos, r.slot, r.gen)
  | none, some w => ((s.req (tagSlot w)).seed, s.tagPosition w, tagSlot w, tagGen w)
  | none, none => (0, 0, 0, 0)

/-- The RANK that a row's pecks carry: that of an expert's input row (R276), else the slot's. -/
def State.rowRank (s : State) (core : Nat) (ins : List Nat) (key : Option Nat) (row rank : Nat) : Nat :=
  match s.rowOf key row, s.expertTag core ins row with
  | none, some w => tagRank w
  | _, _ => rank


/-- Causes that put the precision flag on every beat of a tier (R130, R139, R141, R143, R134, R406, R412, the dither
setting of R94). -/
def State.degraded (s : State) (core eng tier : Nat) : Bool :=
  let i := engI core eng
  let t := s.tLoc core
  s.isSetAt i ENG_ASZ_STAT_SENSOR_DARK || s.isSetAt i ENG_ASZ_STAT_DOUBTFUL || s.isSetAt i ENG_CONV_CFG_DITHER_OFF ||
  decide (s.fldAt i ENG_TIER_ADV_BEYOND / 2 ^ tier % 2 = 1) ||
  (match t with | some x => decide (x < 20) || decide (105 < x) | none => false) ||
  (decide (s.fldAt i ENG_TIER_ADV_FRESH / 2 ^ tier % 2 = 1) && (s.tierAge core eng tier).isSome &&
    decide ((s.tierCal core eng tier).settleDone < 2))

/-- Drive levels of a staged vector (R49, R63): slice and physical row to level. -/
def Staged.level (g : Staged) (exact : Bool) (rm : RowMap) (slice row : Nat) : Nat :=
  match (List.range g.x.length).find? (fun r => rm.phys r = row) with
  | none => 0
  | some r =>
    let v := (g.x.getD r 0 + 2 ^ (g.a - 1)).toNat
    if exact then 3 * (v / 2 ^ slice % 2) else v / 4 ^ slice % 4

end Sys2Proof.Machine
end

