-- ==== Sys2Proof/Machine/AssizeOps.lean ====
section
/-! DEFINITION. Trim sets and drift words as shared operations (R128 to R136, R139 to R143): how the words that the
converters use are computed, checked and put into force. -/
namespace Sys2Proof.Machine

/-- Tiers in use (R125): current, previous, pending, corpus and standby tiers. -/
def State.inUse (s : State) (core eng tier : Nat) : Bool := (s.tier core eng tier).role ∈ [1, 2, 3, 4, 5]

/-- The engines of the mapped cores, with their tiers in use. -/
def State.calEngines (s : State) : List (Nat × Nat) :=
  (List.range 6400).filterMap (fun k =>
    if s.mapped (k / 8) && (List.range 8).any (fun t => s.inUse (k / 8) (k % 8) t) then some (k / 8, k % 8) else none)

/-- Loop gains gO, gG, gK, gX (R132). -/
def gains : RoundKind → Rat × Rat × Rat × Rat
  | .first n => if n = 1 then (1, 0, 1, 0) else if n = 2 then (1/2, 1/2, 1, 0) else (1/4, 1/4, 1/2, 0)
  | .settling _ => (1/4, 1/4, 1, 0)
  | .normal => (1/4, 1/4, 1/2, 1/4)

/-! ### Drift words (R129, R130, R143) -/

/-- Recompute the applied drift words of an engine (R129, R130): a dark engine without valid neighbours holds its
words, or takes the words at 62.5 °C if it has applied none. Log entry 50 (DEDUCED). -/
def State.updateDrift (s : State) (core eng : Nat) : State :=
  let apply := fun (s : State) (t : Rat) =>
    let s := (List.range 8).foldl (fun s tier =>
      if s.inUse core eng tier then
        (List.range 32).foldl (fun s b =>
          s.setBand core eng tier b { s.band core eng tier b with applied := s.driftWord core eng tier b t }) s
      else s) s
    s.setEngCal core eng { s.engCal core eng with everApplied := true }
  match s.tLoc core with
  | some t => (apply s t).putAt (engI core eng) ENG_ASZ_STAT_SENSOR_DARK 0
  | none =>
    let s := if (s.engCal core eng).everApplied then s else apply s (125 / 2)
    s.putAt (engI core eng) ENG_ASZ_STAT_SENSOR_DARK 1

/-- Rewrite advice and drift life of a tier (R143), with the die's counts; "within 100 counts" is read as nearer than 100.
Log entry 82 (DESIGN CHOICE). -/
def State.adviseTier (s : State) (core eng tier : Nat) : State :=
  let hot := fun (b : TierBand) => (b.kAge : Rat) + 85 / 2 * (b.kappa : Rat) / 256
  let cold := fun (b : TierBand) => (b.kAge : Rat) - 85 / 2 * (b.kappa : Rat) / 256
  let bs := (List.range 32).map (s.band core eng tier)
  let adv := bs.any (fun b => decide (hot b < -1948) || decide (1947 < cold b))
  let bey := bs.any (fun b => decide (hot b < -2048) || decide (2047 < cold b))
  let upd := fun (s : State) (f g : Fld) (on : Bool) =>
    let i := engI core eng
    let old := s.fldAt i f
    let was := decide (old / 2 ^ tier % 2 = 1)
    if was = on then s
    else if on then (s.putAt i f (old + 2 ^ tier)).put g (s.fld g + 1)
    else (s.putAt i f (old - 2 ^ tier)).put g (s.fld g - 1)
  let before := s.fldAt (engI core eng) ENG_TIER_ADV_ADVISED / 2 ^ tier % 2
  let s := upd (upd s ENG_TIER_ADV_ADVISED ASZ_TIER_CNT_ADVISED adv) ENG_TIER_ADV_BEYOND ASZ_TIER_CNT_BEYOND bey
  if adv ∧ before = 0 then s.pldm (.other 143 (tierKey core eng tier)) else s

/-! ### Checks (R133, R134) -/

/-- The nine thresholds of the order check, in 1/32 grain. -/
def orderTaus : List Int := [33, 65, 97, 4080, 8176, 12272, 16319, 16351, 16383]

def rises : List Int → Bool
  | a :: b :: l => decide (a < b) && rises (b :: l)
  | _ => true

/-- The order check (R133) for one converter's words and a drift word. A code whose value is 0 or 32,767 counts as limited.
Log entry 82 (DESIGN CHOICE). -/
def orderOk (g o k : Int) : Bool :=
  let raw := orderTaus.map (fun t => roundAway (t * g * (16384 + k)) (8192 * 16384) + o)
  rises raw && raw.all (fun c => decide (0 < c) && decide (c < 32767)) &&
  [(0, 1), (1, 2), (6, 7), (7, 8)].all (fun p => decide (8 ≤ raw.getD p.2 0 - raw.getD p.1 0))

def within (lo hi x : Int) : Bool := decide (lo ≤ x) && decide (x ≤ hi)

/-- The reason for which a set fails: 0 passes, 1 range, 2 change, 3 order, 4 fit (R133, R134). -/
def State.setReason (s : State) (d : TrimSetDue) : Nat :=
  let free := d.kind = .first 1 ∨ d.kind = .first 2
  let settling := match d.kind with | .settling _ => true | _ => false
  match d.conv with
  | some c =>
    let w := s.conv d.core d.eng d.band c
    if d.badFit then 4
    else if !(within 6554 10240 d.w0 && within (-256) 255 d.w1) then 1
    else if !free && !(within (-82) 82 (d.w0 - w.g) && within (-16) 16 (d.w1 - w.o)) then 2
    else if !orderOk d.w0 d.w1 (s.driftNow d.core d.eng d.tier d.band) then 3 else 0
  | none =>
    let b := s.band d.core d.eng d.tier d.band
    let lim : Int := if settling then 492 else 82
    if d.badFit then 4
    else if !(within (-1200) 1200 d.w0 && within (-8192) (-4608) d.w1) then 1
    else if !free && !(within (-lim) lim (d.w0 - b.kAge) && within (-256) 256 (d.w1 - b.kappa)) then 2
    else
      let k := (s.setBand d.core d.eng d.tier d.band { b with kAge := d.w0, kappa := d.w1 }).driftNow d.core d.eng d.tier d.band
      if !(List.range 33).all (fun c => let w := s.conv d.core d.eng d.band c; orderOk w.g w.o k) then 3 else 0

/-- The phase whose gains a retry uses (R134, R144): a set of the first pass is retried with those of all other rounds. -/
def RoundKind.after (k : RoundKind) : RoundKind := match k with | .first _ => .normal | k => k

/-- A rejected set (R134): counts, reason, retry; the third in a row makes the engine doubtful, which the fault rules
answer with a fence (R406). -/
def State.rejectSet (s : State) (d : TrimSetDue) (reason : Nat) (injected : Bool) : State :=
  let i := engI d.core d.eng
  let s := ((s.addAt i ENG_TRIM_REJ_COUNT 1).add ASZ_REJ_CNT_COUNT 1).putAt i ENG_ASZ_STAT_LAST_REJ reason
  let run := s.fldAt i ENG_ASZ_STAT_REJ_RUN
  let s := s.putAt i ENG_ASZ_STAT_REJ_RUN (min 3 (run + 1))
  let inFirst := match d.kind with | .first n => decide (n < 4) | _ => false
  let s := if inFirst then s
    else match d.conv with
      | some c =>
        let e := s.engCal d.core d.eng
        s.setEngCal d.core d.eng { e with retries := e.retries ++ [⟨d.tier, c, d.band, d.kind.after⟩] }
      | none =>
        let c := s.tierCal d.core d.eng d.tier
        s.setTierCal d.core d.eng d.tier { c with retry := true, lastKind := d.kind.after }
  if run = 2 ∧ !s.isSetAt i ENG_ASZ_STAT_DOUBTFUL then
    let s := (s.putAt i ENG_ASZ_STAT_DOUBTFUL 1).add ASZ_DOUBT_CNT_COUNT 1
    (s.faultRecord ⟨6, d.core, d.eng, d.tier, d.band, d.conv.getD 0, 0, s.tb.rod, injected⟩).escalate d.core none injected
  else s

/-- Bit g of ASZ_MODE selects step mode for the engine's trim group (R135). -/
def State.trimGroup (s : State) (core eng : Nat) : Nat :=
  match s.logicalOf core with
  | none => 0
  | some l => ((s.boot.image.trimGroups.find? (fun g => g.1 = l * 8 + eng)).map Prod.snd).getD 0

def State.stepMode (s : State) (core eng : Nat) : Bool :=
  decide (s.inForceAt 0 ASZ_MODE_STEP / 2 ^ s.trimGroup core eng % 2 = 1)

/-- A passing set (R131, R135, R136, R144): the accumulators move on, and the words come into force at the next slice
or wait for the furlong boundary. The rewrite advice follows the drift words in force (R143). Log entry 50 (DEDUCED). -/
def State.passSet (s : State) (d : TrimSetDue) : State :=
  let s := s.putAt (engI d.core d.eng) ENG_ASZ_STAT_REJ_RUN 0
  let first := match d.kind with | .first _ => true | _ => false
  let now := first || s.stepMode d.core d.eng
  match d.conv with
  | some c =>
    if (s.engine d.core d.eng).retired.any (fun r => r = (d.band, c)) then s
    else
      let w := s.conv d.core d.eng d.band c
      let w := { w with gacc := d.acc0, oacc := d.acc1 }
      let s := s.setConv d.core d.eng d.band c (if now then { w with g := d.w0, o := d.w1, pend := none } else { w with pend := some (d.w0, d.w1) })
      let b := s.band d.core d.eng d.tier d.band
      s.setBand d.core d.eng d.tier d.band { b with bsum := b.bsum + d.b, bn := b.bn + 1 }
  | none =>
    let b := s.band d.core d.eng d.tier d.band
    let b := { b with kacc := d.acc0, bres := (1 - (gains d.kind).2.2.1) * d.b, tPrev := some d.t }
    let s := s.setBand d.core d.eng d.tier d.band (if now then { b with kAge := d.w0, kappa := d.w1, pend := none } else { b with pend := some (d.w0, d.w1) })
    let s := match d.kind with
      | .settling _ =>
        let b := s.band d.core d.eng d.tier d.band
        let decade := match b.lastSettle with
          | some (age, k) => some (((d.w0 - k : Int) : Rat) / Config.log10 (d.age / age))
          | none => b.decade
        s.setBand d.core d.eng d.tier d.band { b with lastSettle := some (d.age, d.w0), decade := decade }
      | _ => s
    let s := if first then s.updateDrift d.core d.eng else s
    if now then s.adviseTier d.core d.eng d.tier else s

/-- The end of a round (R131): a drift set for every band with measurements; bsum and bn are cleared. `tr` is the mean
local temperature during the round, `age` the tier's age at its end. Log entry 50 (DEDUCED). -/
def State.endRound (s : State) (core eng tier : Nat) (kind : RoundKind) (tr age : Rat) : State :=
  let (_, _, gK, gX) := gains kind
  (List.range 32).foldl (fun s p =>
    let b := s.band core eng tier p
    if b.bn = 0 then s
    else
      let bm := b.bsum / (b.bn : Rat)
      let delta := 16384 * bm
      let dq : Int := match b.tPrev with
        | some tp => if 2 ≤ tr - tp ∨ 2 ≤ tp - tr then nearestAway (256 * gX * delta / (tr - tp)) else 0
        | none => 0
      let k1 := b.kacc + gK * delta - (dq : Rat) / 256 * (tr - 125 / 2)
      let set : TrimSetDue := ⟨core, eng, tier, p, none, b.kAge + nearestAway k1, b.kappa + dq,
        k1 - (nearestAway k1 : Rat), 0, bm, tr, false, kind, age, none⟩
      let s := s.setBand core eng tier p { b with bsum := 0, bn := 0 }
      { s with asz := { s.asz with sets := s.asz.sets ++ [set] } }) s

/-- Check one staged set (R133); the last set of a round's last beat closes the round (R131). Log entry 50 (DEDUCED). -/
def State.checkSet (s : State) (d : TrimSetDue) : State :=
  let (s, inj) := s.tryInject 0x06 d.core d.eng
  let s := match s.setReason { d with badFit := d.badFit || inj.isSome } with
    | 0 => s.passSet d
    | n + 1 => s.rejectSet d (n + 1) inj.isSome
  match d.ends with
  | some (tr, age) => s.endRound d.core d.eng d.tier d.kind tr age
  | none => s

/-! ### What comes into force at a furlong boundary, or inside a beat (R76, R129, R135, R136) -/

/-- Sensor means move on to the furlong just ended (R129, R130). -/
def Sensor.roll (x : Sensor) : Sensor :=
  { x with prevSum := x.sum, prevCnt := x.cnt, sum := 0, cnt := 0, dry := if x.ever ∧ x.cnt = 0 then x.dry + 1 else 0 }

def State.rollSensors (s : State) : State :=
  { s with asz := { s.asz with sensors := (SMap.keys s.asz.sensors).foldl (fun m k =>
      SMap.set (fun _ => Sensor.init) m k (SMap.get (fun _ => Sensor.init) m k).roll) s.asz.sensors } }

/-- Pending trim sets of the engines that `p` picks come into force (R135, R136), and the rewrite advice follows the drift
sets (R143); a set of a converter retired meanwhile is discarded. Log entry 42 (DEDUCED). -/
def State.applyTrimsOf (s : State) (p : Nat → Bool) : State :=
  let s := ((SMap.keys s.asz.convs).filter (fun k => p (k / 1056))).foldl (fun (s : State) (k : Nat) =>
    let w := SMap.get (fun _ => Conv.init) s.asz.convs k
    let e := k / 1056
    let gone := (s.engine (e / 8) (e % 8)).retired.any (fun r => decide (r = (k / 33 % 32, k % 33)))
    match w.pend with
    | none => s
    | some (g, o) =>
      let w := if gone then { w with pend := none } else { w with g := g, o := o, pend := none }
      { s with asz := { s.asz with convs := SMap.set (fun _ => Conv.init) s.asz.convs k w } }) s
  ((SMap.keys s.asz.bands).filter (fun k => p (k / 256))).foldl (fun (s : State) (k : Nat) =>
    let b := SMap.get (fun _ => TierBand.init) s.asz.bands k
    match b.pend with
    | none => s
    | some (a, x) =>
      { s with asz := { s.asz with bands := SMap.set (fun _ => TierBand.init) s.asz.bands k { b with kAge := a, kappa := x, pend := none } } }.adviseTier
        (k / 2048) (k / 256 % 8) (k / 32 % 8)) s

def State.applyTrims (s : State) : State := s.applyTrimsOf (fun _ => true)

/-- Check the oldest staged set (R133, R135). -/
def State.checkOldest (s : State) : State :=
  match s.asz.sets with
  | [] => s
  | d :: rest => { s with asz := { s.asz with sets := rest } }.checkSet d

/-- A furlong boundary passes while an engine converts (R76, R129): its pending sets come into force, and its drift words are
those of the furlong that the boundary ends. The boundary's own command then finds them in force. -/
def State.boundaryTrims (s : State) (core eng : Nat) : State :=
  let s := s.applyTrimsOf (fun k => k = engKey core eng)
  let t := (s.rollSensors).updateDrift core eng
  { s with asz := { s.asz with bands := t.asz.bands, engs := t.asz.engs } }

/-- The trim changes of a beat that apply from a slice on (R76). -/
def State.trimsAt (s : State) (core eng : Nat) (trims : List TrimAt) (slice : Nat) : State :=
  trims.foldl (fun s e =>
    if e.slice ≠ slice then s else if e.boundary then s.boundaryTrims core eng else s.checkOldest) s

/-- The codes of a beat's data and witness columns, slice by slice, each with the trim words in force at its slice (R74,
R76): by (slice * 32 + band) * 1040 + column. The most significant slice is converted first (R49). -/
def State.convertBeat (s : State) (b : BeatRun) (trims : List TrimAt) : State × SMap Nat :=
  (List.range b.slices).reverse.foldl (fun (p : State × SMap Nat) sl =>
    let s := p.1.trimsAt b.core b.eng trims sl
    (s, s.sliceCodes b sl ++ p.2)) (s, [])

end Sys2Proof.Machine
end

