-- ==== Sys2Proof/Machine/Variants.lean ====
section
/-! DEFINITION. Schedule variants (R22, R204 to R209): requests, refusals, decisions and switches. -/
namespace Sys2Proof.Machine

/-- The variant passed the last admission on this module (R212). -/
def State.admittedVar (s : State) (v : Nat) : Bool :=
  decide (v < 8) && decide (s.fld TB_VAR_ADMIT_ADMITTED / 2 ^ v % 2 = 1)

/-- TB_VAR_STAT and TB_VAR_AT report the earliest pending switch (R206, R209). -/
def State.showSwitch (s : State) : State :=
  match s.sched.switches with
  | [] => (s.put TB_VAR_STAT_PENDING 0).put TB_VAR_STAT_PENDING_VAR 0
  | w :: _ => (s.put TB_VAR_STAT_PENDING 1).put TB_VAR_STAT_PENDING_VAR w.var

/-- A refusal seen or raised here: it cancels the request or the switch of the dated mile that it names
(R206, R208). Log entry 52 (DEDUCED). -/
def State.applyRefusal (s : State) (mile v : Nat) : State :=
  let hit := s.sched.reqs.any (fun r => r.mile = mile ∧ r.var = v ∧ r.own) ||
             s.sched.switches.any (fun w => w.dated = mile ∧ w.var = v ∧ w.own)
  let s := { s with sched := { s.sched with
    reqs := s.sched.reqs.map (fun (r : VarReq) => if r.mile = mile ∧ r.var = v then { r with refused := true } else r)
    switches := s.sched.switches.filter (fun (w : Switch) => !(w.dated = mile ∧ w.var = v)) } }
  (s.raiseIfAt 0 TB_VAR_STAT_REFUSED hit).showSwitch

/-- Raise a refusal for the request of a dated mile (R206). -/
def State.refuseVar (s : State) (mile v : Nat) : State := (s.raiseDated 3 v mile).applyRefusal mile v

/-- A VAR_REQ, received or raised here (R206, R209): a request for a variant whose switch is pending has no
effect; one that a refusal seen before it names is cancelled; one for a variant that is not admitted here is refused. Log
entry 52 (DEDUCED). -/
def State.seeVarReq (s : State) (m : SbMsg) : State :=
  let (s1, new) := s.enterSb m
  let mile := nearestMile s.mileNow m.mile
  let v := m.data % 8
  let own := decide ((m.group, m.module) = s.self)
  if !new ∨ s.sched.switches.any (fun w => w.var = v) then s1
  else
    let before := s.fab.seen.any (fun q => decide (q.kind = 3 ∧ q.mile = m.mile ∧ q.data % 8 = v))
    let s2 := { s1 with sched := { s1.sched with reqs := s1.sched.reqs ++ [⟨mile, v, own, before⟩] } }
    if s.admittedVar v ∨ before then s2 else s2.refuseVar mile v

/-- Raise a request for a variant on the sideband (R205). -/
def State.raiseVarReq (s : State) (v : Nat) : State :=
  s.seeVarReq ⟨2, s.self.1, s.self.2, s.datedMile % 65536, v % 8⟩

/-- The next lower-rate admitted variant than the one in force (R205): the highest rate below, the lowest
number among equals. -/
def State.nextLower (s : State) : Option Nat :=
  match s.variant? s.sched.var with
  | none => none
  | some cur =>
    let c := s.boot.image.variants.filter (fun v => s.admittedVar v.num ∧ v.rate < cur.rate)
    (c.foldl (fun (best : Option Variant) v =>
      match best with
      | none => some v
      | some b => if b.rate < v.rate ∨ (b.rate = v.rate ∧ v.num < b.num) then some v else best) none).map Variant.num

/-- The highest-rate variant that passed admission (R186, R213). -/
def State.bestAdmitted (s : State) : Option Nat :=
  ((s.boot.image.variants.filter (fun v => s.admittedVar v.num)).foldl (fun (best : Option Variant) v =>
    match best with
    | none => some v
    | some b => if b.rate < v.rate ∨ (b.rate = v.rate ∧ v.num < b.num) then some v else best) none).map Variant.num

/-- At the end of a mile the requests dated to it are decided (R22, R206): the declared variant of lowest rate,
then lowest number; if it is refused, no switch results. A request of this module that is not taken sets
REFUSED. Log entry 52 (DEDUCED). -/
def State.decideVariants (s : State) : State :=
  let mile := (s.mileNow + mileP - 1) % mileP
  let mine := s.sched.reqs.filter (fun r => r.mile = mile)
  let known := mine.filter (fun r => (s.variant? r.var).isSome)
  let chosen := known.foldl (fun (b : Option VarReq) r =>
    match b with
    | none => some r
    | some x => if s.varBefore r.var x.var then some r else b) none
  let s := { s with sched := { s.sched with reqs := s.sched.reqs.filter (fun r => r.mile ≠ mile) } }
  match chosen with
  | none => s.raiseIfAt 0 TB_VAR_STAT_REFUSED (mine.any (fun r => r.own))
  | some r =>
    let lost := mine.any (fun x => x.own ∧ x.var ≠ r.var)
    let s := s.raiseIfAt 0 TB_VAR_STAT_REFUSED lost
    -- R209: a request for the variant that will then be in force makes no switch
    let next := ((s.sched.switches.getLast?).map Switch.var).getD s.sched.var
    if r.refused ∨ r.var = next then s
    else
      ({ s with sched := { s.sched with
          switches := s.sched.switches ++ [(⟨(s.mileNow + 1) % mileP, r.var, mile,
            mine.any (fun x => x.own ∧ x.var = r.var)⟩ : Switch)] } }).showSwitch

/-- The bushel instance that a mapped bushel slot becomes under a transition (R207); none for one that it does not name. -/
def Transition.key (t : Transition) (k : Nat) : Option Nat :=
  (t.slots.find? (fun p => p.1 = k % 256)).map (fun p => k / 256 * 256 + p.2)

/-- What is kept of an item of a bushel instance, or of none. -/
def Transition.keeps (t : Transition) (k : Option Nat) : Bool :=
  match k with
  | none => true
  | some k => (t.key k).isSome

/-- The instance number that data of a core carries under the new period (R207): that of the mapped tokens that hold it. -/
def State.newInst (s : State) (t : Transition) (core inst : Nat) : Nat :=
  ((t.tokens.find? (fun e => decide (s.physOf e.1 = some core ∧ (s.token core e.2.1).inst = inst % 256))).map
    (fun e => e.2.2.2 % 256)).getD inst

/-- A staged vector is one of a bushel instance that the transition names: its row, by request seed and position. -/
def State.keepsStaged (s : State) (t : Transition) (g : Staged) : Bool :=
  g.input.serves = .query || s.rqt.bushels.any (fun b => (t.key b.key).isSome &&
    (match b.rows[g.input.row.val]? with
     | some r => decide (r.pos = g.input.pos ∧ (s.req r.slot).seed = g.input.seed)
     | none => false))

/-- What an engine holds of mapped bushel slots goes on, the rest is discarded (R207). -/
def State.mapEngine (s : State) (t : Transition) (core : Nat) (e : Engine) : Engine :=
  { e with
    staged := e.staged.filter (s.keepsStaged t)
    outs := (e.outs.filter (fun o => t.keeps o.key)).map (fun o =>
      { o with key := o.key.bind t.key, issue := { o.issue with inst := s.newInst t core o.issue.inst } })
    windows := (e.windows.filter (fun w => t.keeps w.key)).map (fun w =>
      { w with key := w.key.bind t.key, issue := { w.issue with inst := s.newInst t core w.issue.inst } })
    taken := [] }

/-- The grant records, choices and awaited answers of mapped bushel slots go on (R207). -/
def State.mapFlight (s : State) (t : Transition) : State :=
  { s with
    engines := (SMap.keys s.engines).foldl (fun (m : SMap Engine) k =>
      SMap.set (fun _ => Engine.idle) m k (s.mapEngine t (k / 8) (SMap.get (fun _ => Engine.idle) m k))) s.engines
    routing := { s.routing with
      grants := (s.routing.grants.filter (fun g => t.keeps g.key)).map (fun g =>
        { g with key := g.key.bind t.key, inst := s.newInst t g.core g.inst })
      choices := s.routing.choices.map (fun c => { c with inst := s.newInst t c.core c.inst }) }
    fab := { s.fab with awaits := (s.fab.awaits.filter (fun a => t.keeps a.key)).map (fun a =>
      { a with
        key := a.key.bind t.key
        answer := a.answer.bind (fun x => (t.tokens.find? (fun e => decide (s.physOf e.1 = some x.1 ∧ e.2.1 = x.2.1))).map
          (fun e => (x.1, e.2.2.1, x.2.2))) }) } }

/-- Move the tokens and bushel slots that a transition maps, void the rest and drop their instances (R207). A mapped token takes
over the old token's buffer. Log entry 53 (DEDUCED). -/
def State.applyTransition (s : State) (t : Transition) : State :=
  let moved : SMap Token := t.tokens.foldl (fun m e =>
    match s.physOf e.1 with
    | none => m
    | some c =>
      let old := s.token c e.2.1
      SMap.set (fun _ => Token.idle) m (tokKey c e.2.2.1)
        { old with inst := e.2.2.2 % 256, slot := old.slot.bind t.key, buf := some (old.buf.getD e.2.1), next := none }) []
  let lostTok := s.sched.tokens.filter (fun e =>
    e.2.slot.isSome && !(t.tokens.any (fun m => (s.physOf m.1).map (fun c => tokKey c m.2.1) = some e.1)))
  let s := s.mapFlight t
  let s := lostTok.foldl (fun s e =>
    if t.slots.any (fun p => e.2.slot.map (· % 256) = some p.1) then s.voidRows e.2.slot (e.2.expected &&& ~~~ e.2.voided)
    else s) s
  let s := s.rqt.bushels.foldl (fun s b =>
    if t.slots.any (fun p => p.1 = b.slot) then s
    else s.voidRows (some b.key) (b.rows.zipIdx.foldl (fun m e => m ||| ((1 : BitVec 32) <<< e.2)) 0 &&& ~~~ b.voided)) s
  { s with
    sched := { s.sched with tokens := moved }
    rqt := { s.rqt with bushels := s.rqt.bushels.filterMap (fun (b : Bushel) =>
      (t.slots.find? (fun p => p.1 = b.slot)).map (fun p => { b with slot := p.2 })) } }

/-- Without a transition every position in flight is void (R207). Log entry 53 (DEDUCED). -/
def State.voidFlight (s : State) : State :=
  let s := s.rqt.bushels.foldl (fun s b =>
    s.voidRows (some b.key) (b.rows.zipIdx.foldl (fun m e => m ||| ((1 : BitVec 32) <<< e.2)) 0 &&& ~~~ b.voided)) s
  { s.clearEngines with sched := { s.sched with tokens := [] }, rqt := { s.rqt with bushels := [] } }

/-- The switch due at this mile boundary takes effect if its variant is still admitted; otherwise a refusal of this module
cancels it, and the later switches are unaffected (R207, R208, R209). -/
def State.switchVariant (s : State) : State :=
  match s.sched.switches.find? (fun w => w.atMile = s.mileNow) with
  | none => s
  | some w =>
    let all := s
    let s := { s with sched := { s.sched with switches := s.sched.switches.filter (fun x => x ≠ w) } }
    if !s.admittedVar w.var then all.refuseVar w.dated w.var
    else
      let s := match s.boot.image.transitions.find? (fun t => t.src = s.sched.var ∧ t.dst = w.var) with
        | some t => s.applyTransition t
        | none => s.voidFlight
      ((({ s with sched := { s.sched with var := w.var, barred := false } }).put TB_VAR_STAT_IN_FORCE w.var).showSwitch).loadMasks.wantStart

/-- After a re-admission, a pending or requested variant that is no longer admitted is refused (R208). -/
def State.recheckSwitches (s : State) : State :=
  let s := s.sched.switches.foldl (fun s w => if s.admittedVar w.var then s else s.refuseVar w.dated w.var) s
  s.sched.reqs.foldl (fun s r => if s.admittedVar r.var ∨ r.refused then s else s.refuseVar r.mile r.var) s

/-- TB_VAR_REQ: a write of the register; with REQ set it raises a request for VAR (R205, R216). -/
def execTbVarReq (w : Wr) (s : State) : Host.Outcome State Fault Refusal :=
  let (s1, d) := s.write w 0x1284
  .next (if acts d TB_VAR_REQ_REQ then s1.raiseVarReq (s1.fld TB_VAR_REQ_VAR) else s1)

/-- SB_VAR_REQ: a variant request is received (R206). -/
def execSbVarReq (m : SbMsg) (s : State) : Host.Outcome State Fault Refusal :=
  .next (if m.kind = 2 then s.seeVarReq m else s)

/-- SB_VAR_REFUSE: a refusal is received, relayed, and cancels the request it names (R206). -/
def State.seeRefusal (s : State) (m : SbMsg) : State :=
  let (s1, new) := s.enterSb m
  if new then s1.applyRefusal (nearestMile s.mileNow m.mile) (m.data % 8) else s1

def execSbVarRefuse (m : SbMsg) (s : State) : Host.Outcome State Fault Refusal :=
  .next (if m.kind = 3 then s.seeRefusal m else s)

/-- MC_VARIANT_REQUEST: the management controller requests a variant, whatever the seal (R205, R473). -/
def execMcVariantRequest (var : Fin 8) (s : State) : Host.Outcome State Fault Refusal :=
  .next (if s.mgmtUp then s.raiseVarReq var else s)

end Sys2Proof.Machine
end

