-- ==== Sys2Proof/Machine/VecMath.lean ====
section
/-! DEFINITION. The arithmetic of the vector unit (R158): IEEE 754 operations rounded to nearest with ties to even, the
special functions, reductions, and the conversions to and from FP8, BF16 and INT4. -/
namespace Sys2Proof.Machine

def qNaN : FpBits := 0x7FC00000 ||| Config.quietNaN.setWidth 32
def f32Inf (neg : Bool) : FpBits := if neg then 0xFF800000 else 0x7F800000

/-- An exact value rounded to FP32, with overflow to infinity. -/
def Dy.ieee (d : Dy) (neg0 : Bool) : FpBits :=
  let r := d.toF32 neg0
  if r.2 then f32Inf (decide (d.m < 0)) else r.1

def vAdd (a b : FpBits) : FpBits :=
  if f32IsNaN a ∨ f32IsNaN b then qNaN
  else if f32IsInf a then (if f32IsInf b ∧ f32Neg a ≠ f32Neg b then qNaN else a)
  else if f32IsInf b then b
  else ((f32Val a).add (f32Val b)).ieee (f32Neg a && f32Neg b)

def vMul (a b : FpBits) : FpBits :=
  let neg := f32Neg a != f32Neg b
  if f32IsNaN a ∨ f32IsNaN b then qNaN
  else if f32IsInf a ∨ f32IsInf b then
    (if (f32Finite a && decide ((f32Val a).m = 0)) || (f32Finite b && decide ((f32Val b).m = 0)) then qNaN else f32Inf neg)
  else ((f32Val a).mul (f32Val b)).ieee neg

def vFma (a b c : FpBits) : FpBits :=
  let neg := f32Neg a != f32Neg b
  if f32IsNaN a ∨ f32IsNaN b ∨ f32IsNaN c then qNaN
  else if f32IsInf a ∨ f32IsInf b then vAdd (vMul a b) c
  else if f32IsInf c then c
  else (((f32Val a).mul (f32Val b)).add (f32Val c)).ieee (neg && f32Neg c)

def vSub (a b : FpBits) : FpBits := vAdd a (f32Negate b)

/-- The order of values: infinities at the ends, NaN below everything. -/
def vLt (a b : FpBits) : Bool :=
  if f32IsNaN a ∨ f32IsNaN b then false
  else if f32IsInf a then f32Neg a && !(f32IsInf b && f32Neg b)
  else if f32IsInf b then !f32Neg b
  else f32Lt a b

/-- The maximum of IEEE 754-2019 (R158). -/
def vMax (a b : FpBits) : FpBits :=
  if f32IsNaN a ∨ f32IsNaN b then qNaN
  else if vLt a b then b
  else if vLt b a then a
  else if f32Neg a then b else a

/-- A rational rounded to FP32, with overflow to infinity. -/
def ratToF32 (q : Rat) : FpBits :=
  let n := q.num.natAbs
  let k := 64 + q.den.log2 - n.log2
  let x := n * 2 ^ k
  let m := 2 * (x / q.den) + (if x % q.den = 0 then 0 else 1)
  (⟨q.num.sign * m, -((k : Int) + 1)⟩ : Dy).ieee false

def Dy.rat (d : Dy) : Rat := if 0 ≤ d.e then (d.m * 2 ^ d.e.toNat : Int) else mkRat d.m (2 ^ (-d.e).toNat)

/-- The FP32 that lies n steps of the last place above a result, in the order of values; none lies beyond an infinity. -/
def ulpStep (r : FpBits) (n : Int) : FpBits :=
  let mag : Int := ((r.toNat % 2 ^ 31 : Nat) : Int)
  let o : Int := limit32 ((if f32Neg r then -mag else mag) + n)
  if o < 0 then BitVec.ofNat 32 (2 ^ 31 + o.natAbs)
  else if o = 0 then (if f32Neg r then 0x80000000 else 0)
  else BitVec.ofNat 32 o.natAbs
where
  limit32 (x : Int) : Int := max (-0x7F800000) (min 0x7F800000 x)

/-- One of the FP32 encodings next to a result, by the free choice (R158). Log entry 17 (DESIGN CHOICE). -/
def nearUlp (r : FpBits) (k : Fin 3) : FpBits := ulpStep r ((k.val : Int) - 1)
/-- One of the FP32 encodings within two steps of a result, by the free choice (R158). Log entry 17 (DESIGN CHOICE). -/
def nearUlp2 (r : FpBits) (k : Fin 5) : FpBits := ulpStep r ((k.val : Int) - 2)

def vRecip (a : FpBits) : FpBits :=
  if f32IsNaN a then qNaN
  else if f32IsInf a then (if f32Neg a then 0x80000000 else 0)
  else if (f32Val a).m = 0 then Config.recipCorner a
  else nearUlp (ratToF32 (1 / (f32Val a).rat)) (Config.recipUlp a)

def vRsqrt (a : FpBits) : FpBits :=
  if f32IsNaN a then qNaN
  else if a = f32Inf false then 0
  else if f32Neg a ∨ (f32Val a).m = 0 then Config.rsqrtCorner a
  else
    let q : Rat := 1 / (f32Val a).rat
    let x := q.num.natAbs * 4 ^ 160 / q.den
    let r := Nat.sqrt x
    nearUlp (((⟨((2 * r + 1 : Nat) : Int), -161⟩ : Dy)).ieee false) (Config.rsqrtUlp a)

/-! Special functions that R158 bounds to 2 ulp. The value is computed to 90 bits and more, rounded, and a free choice takes
one of the results around it. -/

/-- The terms of the exponential series from x^k / k!, in 2^-96. -/
def expSeries (x : Nat) : Nat → Nat → Nat → Nat → Nat
  | 0, _, _, acc => acc
  | n + 1, k, term, acc => expSeries x n (k + 1) (term * x / 2 ^ 96 / (k + 1)) (acc + term)

/-- 2^(w / 2^96) as m × 2^e, m in 2^-96 (R158). -/
def exp2Fix (w : Int) : Dy :=
  let x := (w % 2 ^ 96).toNat * 54916777467707473351141471128 / 2 ^ 96
  ⟨((expSeries x 36 0 (2 ^ 96) 0 : Nat) : Int), w / 2 ^ 96 - 96⟩

/-- A value in 2^-96, rounded down. -/
def Dy.fix96 (d : Dy) : Int := if -96 ≤ d.e then d.m * 2 ^ (d.e + 96).toNat else d.m / 2 ^ (-(d.e + 96)).toNat

/-- The terms of the series of atanh from t^(2k+1), in 2^-128. -/
def atanhSeries (t2 : Nat) : Nat → Nat → Nat → Nat → Nat
  | 0, _, _, acc => acc
  | n + 1, k, pow, acc => atanhSeries t2 n (k + 1) (pow * t2 / 2 ^ 128) (acc + pow / (2 * k + 1))

/-- log2 of a positive m × 2^e (R158). -/
def log2Fix (d : Dy) : Dy :=
  let n := d.m.natAbs
  let p := n.log2
  let t := (n - 2 ^ p) * 2 ^ 128 / (n + 2 ^ p)
  let ln := 2 * atanhSeries (t * t / 2 ^ 128) 42 0 t 0
  ⟨(d.e + p) * 2 ^ 128 + ((ln * 2 ^ 128 / 235865763225513294137944142764154484399 : Nat) : Int), -128⟩

/-- x × 1 / (1 + 2^-w), w in 2^-96: SiLU with w = x log2(e), GELU in its tanh form with w = 2 log2(e) √(2/π) (x + 0.044715 x³)
(R158). -/
def gated (x : Rat) (w : Int) : Rat :=
  if w < -(400 * 2 ^ 96) then 0
  else if 400 * 2 ^ 96 < w then x
  else
    let e := (exp2Fix (-(w.natAbs : Int))).rat
    if w < 0 then x * e / (1 + e) else x / (1 + e)

/-- exp2 (R158); at -∞ it is 0. A NaN, +∞ and an operand whose result lies beyond FP32 give a free word. Log entry 17 (DESIGN CHOICE). -/
def vExp2 (y : FpBits) : FpBits :=
  if y = f32Inf true then 0
  else if !f32Finite y then Config.exp2 y
  else
    let w := (f32Val y).fix96
    if 128 * 2 ^ 96 ≤ w then Config.exp2 y
    else nearUlp2 (if w < -(200 * 2 ^ 96) then 0 else (exp2Fix w).ieee false) (Config.exp2Ulp y)

/-- log2 (R158) of a positive operand; of another one a free word. Log entry 17 (DESIGN CHOICE). -/
def vLog2 (x : FpBits) : FpBits :=
  if !f32Finite x ∨ (f32Val x).m ≤ 0 then Config.log2 x else nearUlp2 ((log2Fix (f32Val x)).ieee false) (Config.log2Ulp x)

/-- SiLU and GELU (R158); of a NaN or an infinity a free word. Log entry 17 (DESIGN CHOICE). -/
def vSilu (x : FpBits) : FpBits :=
  if !f32Finite x then Config.silu x
  else
    let d := f32Val x
    nearUlp2 (ratToF32 (gated d.rat (d.fix96 * 114302077158074026402637675936 / 2 ^ 96))) (Config.siluUlp x)
def vGelu (x : FpBits) : FpBits :=
  if !f32Finite x then Config.gelu x
  else
    let q := (f32Val x).rat
    nearUlp2 (ratToF32 (gated q ((q + 44715 / 1000000 * q * q * q) * 182399725264250245718049872408).floor)) (Config.geluUlp x)

/-- exp2 of y × log2(e), in the three rounded steps of R158; y is already rounded. -/
def vExp (y : FpBits) : FpBits := vExp2 (vMul y 0x3FB8AA3B)

/-! ### Reductions (R158) -/

/-- Combine neighbouring lane results until one is left. -/
def pairTree (f : FpBits → FpBits → FpBits) : Nat → List (Option FpBits) → Option FpBits
  | 0, l => l.headD none
  | n + 1, l =>
    let rec pairs : List (Option FpBits) → List (Option FpBits)
      | a :: b :: t => (match a, b with
          | some x, some y => some (f x y)
          | some x, none => some x
          | none, y => y) :: pairs t
      | l => l
    pairTree f n (pairs l)

/-- Lane i accumulates elements i, i + 64 and so on; a lane without an element takes no part. -/
def reduce (f : FpBits → FpBits → FpBits) (l : List FpBits) : Option FpBits :=
  let n := l.length
  let lanes := (List.range 64).map (fun i =>
    ((List.range ((n + 63 - i) / 64)).map (fun j => l.getD (i + 64 * j) 0)).foldl (fun (a : Option FpBits) x =>
      match a with | none => some x | some y => some (f y x)) none)
  pairTree f 6 lanes

def vSum (l : List FpBits) : FpBits := (reduce vAdd l).getD 0
def vMaxOf (l : List FpBits) : FpBits := (reduce vMax l).getD 0

/-! ### Narrow formats -/

/-- The magnitude code of a value at a fraction width and lowest unit: exponent and fraction as one number. -/
def Dy.magCode (d : Dy) (frac : Nat) (minLsb : Int) : Int :=
  let n := d.m.natAbs
  if n = 0 then 0
  else
    let lsb : Int := max (d.e + n.log2 - frac) minLsb
    let q := if d.e ≤ lsb then rneShift n (lsb - d.e).toNat else n * 2 ^ (d.e - lsb).toNat
    (lsb - minLsb) * 2 ^ frac + q

/-- FP32 to FP8, ties to even. -/
def toE4m3 (a : FpBits) : Byte :=
  let m := (f32Val a).magCode 3 (-9)
  if !f32Finite a ∨ 0x7E < m then Config.e4m3Over a
  else BitVec.ofNat 8 (m.toNat + (if f32Neg a then 128 else 0))
def toE5m2 (a : FpBits) : Byte :=
  let m := (f32Val a).magCode 2 (-16)
  if !f32Finite a ∨ 0x7B < m then Config.e5m2Over a
  else BitVec.ofNat 8 (m.toNat + (if f32Neg a then 128 else 0))

/-- FP8 E5M2: five exponent bits with bias 15, two fraction bits. -/
def e5m2Val (b : Byte) : Dy :=
  let e := b.toNat / 4 % 32
  let f := b.toNat % 4
  let m : Nat := if e = 0 then f else 4 + f
  ⟨if b.getLsbD 7 then -(m : Int) else m, (if e = 0 then 1 else e : Nat) - 17⟩
def e5m2IsNaN (b : Byte) : Bool := decide (0x7C < b.toNat % 128)
def e5m2IsInf (b : Byte) : Bool := decide (b.toNat % 128 = 0x7C)

/-- FP32 to BF16 with overflow to infinity; a NaN stays a quiet NaN (R158). -/
def vToBf16 (a : FpBits) : BitVec 16 :=
  if f32IsNaN a then (qNaN >>> 16).setWidth 16
  else BitVec.ofNat 16 ((if f32Neg a then 0x8000 else 0) + rneShift (a.toNat % 2 ^ 31) 16)

/-- A four-bit two's-complement element of an A4 peck or an INT4 operand. -/
def nibble (b : Byte) (odd : Bool) : Int :=
  let n : Nat := if odd then b.toNat / 16 else b.toNat % 16
  if n < 8 then n else (n : Int) - 16

/-- A weighted element of a scaled group; scale byte 0xFF reads the group as zero (R96). -/
def scaledElem (x : Int) (scale : Byte) : Dy := if scale = 0xFF then Dy.zero else ⟨x, (scale.toNat : Int) - 127⟩

end Sys2Proof.Machine
end

