-- ==== Sys2Proof/Machine/Engine.lean ====
section
/-! DEFINITION. The engine's commands: tier selects, staging, beats, merges, repeat windows and the precision
monitor (R33 to R68, R86 to R90, R108 to R119). -/
namespace Sys2Proof.Machine

/-- The cause for which a select is refused (R35): programming, no map, or bad metadata. -/
def State.selectBad (s : State) (core eng tier : Nat) : Bool :=
  let t := s.tier core eng tier
  t.role = 6 || t.role = 7 || !t.mapped || t.bad ||
  (s.isSetAt (engI core eng) ENG_STAT_PROG && decide (s.fldAt (engI core eng) ENG_STAT_PROG_TIER = tier))

/-- A tier select (R34, R35): the state after, and whether it was refused. Failed metadata also fails the tier and
reaches the ledger (R406). -/
def State.select (s : State) (core eng tier : Nat) : State × Bool :=
  let i := engI core eng
  if s.isSetAt i ENG_STAT_LIVE ∧ s.fldAt i ENG_STAT_LIVE_TIER = tier then (s.putAt i ENG_STAT_SEL_REFUSED 0, false)
  else
    let inj := decide (s.injects 0x07 core eng = some tier)
    let s := if inj then s.fired else s
    if s.selectBad core eng tier ∨ inj then
      let s := (s.putAt i ENG_STAT_SEL_REFUSED 1).addAt i ENG_SEL_REFUSE_COUNT 1
      if (s.tier core eng tier).bad ∨ inj then
        ((s.faultRecord ⟨7, core, eng, tier, 0, 0, 0, s.tb.rod, inj⟩).tierFails core eng tier inj, true)
      else (s, true)
    else
      let s := ((s.putAt i ENG_STAT_SEL_REFUSED 0).putAt i ENG_STAT_LIVE 1).putAt i ENG_STAT_LIVE_TIER tier
      (s.flagAt i ENG_STAT_EXACT (s.tier core eng tier).exact, false)

/-- A slot of the Assize, a patrol or a query selects the tier back that was live before it (R123, R398, R451). If that is
refused, the beats after it depended on it (R35). -/
def State.selectBack (s : State) (core eng : Nat) (back : Option Nat) : State :=
  match back with
  | none => s
  | some t =>
    let (s, refused) := s.select core eng t
    if refused then s.setEngine core eng { s.engine core eng with selBad := true } else s

/-- The tier that is live on an engine, if any. -/
def State.liveTier (s : State) (core eng : Nat) : Option Nat :=
  if s.isSetAt (engI core eng) ENG_STAT_LIVE then some (s.fldAt (engI core eng) ENG_STAT_LIVE_TIER) else none

/-- TIER_SELECT (R34, R35, R37, R87): the beats after it depend on it. `badWord` says that a word of the tier's metadata or
scale rows fails its SECDED check as the engine reads it. Log entry 16 (DESIGN CHOICE). -/
def execTierSelect (core : CoreId) (eng : EngId) (tier : TierId) (badWord : Bool) (s : State) : Host.Outcome State Fault Refusal :=
  .next (if !s.coreRunning core then s
    else
      let s := if badWord then s.setTier core eng tier { s.tier core eng tier with bad := true } else s
      let (s, refused) := s.select core eng tier
      s.setEngine core eng { s.engine core eng with selBad := refused })

/-- The groups of a peck with their scales (R97). -/
def peckGroups (a4 : Bool) (bs : List Byte) : List (Byte × List Int) :=
  (List.range (if a4 then 4 else 2)).map (fun g => (bs.getD (64 + g) 0, (List.range 32).map (fun i =>
    let k := 32 * g + i
    if a4 then nibble (bs.getD (k / 2) 0) (k % 2 = 1) else (bs.getD k 0).toInt)))

/-- The input of a row that the staging registers took from a broadcast bus (R224): its pecks in ascending index. -/
def Engine.busSource (e : Engine) (row : Nat) : Option Source :=
  match (e.bus.filter (fun p => p.row = row)).mergeSort (fun a b => decide (a.index ≤ b.index)) with
  | [] => none
  | ps => some (.a8 (ps.flatMap (fun p => peckGroups p.a4 p.bytes)))

/-- INPUT_STAGING: the last element of an input arrives, and the vector is staged in a free register (R45 to R50,
R108, R111): the pecks of its row that came over a broadcast bus, else the vector that the command brings. -/
def execInputStaging (core : CoreId) (eng : EngId) (input : StageIn) (s : State) : Host.Outcome State Fault Refusal :=
  let e := s.engine core eng
  let i := engI core eng
  let input := match e.busSource input.row with | some x => { input with source := x } | none => input
  match s.tileDecl core eng input.tile with
  | none => .next s
  | some d =>
    if !s.coreRunning core ∨ 2 ≤ e.staged.length then .next s
    else
      let pick := input.serves = .request ∧ !d.exact ∧ d.mirror ≠ []
      let o := if pick then selectOutliers d input.source else ([], false)
      let g := s.stage d input d.inBits 0 o.1
      let sp := specials input.source
      let s := ((s.raiseIfAt i ENG_IN_FLAG_NAN_IN sp.1).raiseIfAt i ENG_IN_FLAG_INF_IN sp.2.1).raiseIfAt i ENG_IN_FLAG_SCALE_NAN sp.2.2
      let s := s.addAt i ENG_OL_CNT_COUNT o.1.length
      let s := if o.2 then (s.addAt i ENG_OL_OVF_COUNT 1).putAt i ENG_WD_FLAG_OL_OVF 1 else s
      let widens := d.widen && !d.a4Edge && !d.exact && decide (d.inBits < 8) && decide (input.serves = .request) && !g.zero
      let s := if widens ∧ g.crush then s.addAt i ENG_CRUSH_TRIG_COUNT 1 else s
      .next (s.setEngine core eng { e with bus := e.bus.filter (fun p => p.row ≠ input.row.val), staged := e.staged ++ [{ g with crush := g.crush && widens }] })

/-- What a beat's conversions give: the codes, an over-range trigger, and the failed witness comparisons. -/
structure Evaluated where
  codes : SMap Nat
  overRange : Bool
  fails : List (Nat × Nat × Nat)

/-- Run the conversions of a beat (R56, R67, R70 to R73, R76, R112), with the injection points of converter and witness
codes (R408). Log entry 48 (DEDUCED). -/
def State.evaluate (s : State) (d : TileDecl) (b : BeatRun) (trims : List TrimAt) : State × Evaluated :=
  let t := s.tier b.core b.eng b.tier
  let (s, codes) := s.convertBeat b trims
  let (s, i5) := s.tryInject 0x05 b.core b.eng
  let codes := match i5 with
    | some arg => SMap.set (fun _ => 0) codes (((b.slices - 1) * 32 + arg / 32 % 32) * 1040 + arg % 32 * 32) 511
    | none => codes
  let (s, i1) := s.tryInject 0x01 b.core b.eng
  let codes := match i1 with
    | some arg =>
      let k := (b.slices - 1) * 32 * 1040 + 1024 + arg % 16
      SMap.set (fun _ => 0) codes k (min 511 (SMap.get (fun _ => 0) codes k + arg / 16 % 256))
    | none => codes
  let fails := s.witnessFails b codes
  let s := (s.countCodes b codes).tick
  let per := digitsPer t.exact t.bits
  let overs := codes.any (fun e => 292 < e.2 && decide (e.1 % 1040 < 1024) && d.used (e.1 % 1040 / per) &&
    decide (0 < SMap.get (fun _ => 0) t.active (e.1 / 1040 % 32)))
  (s, ⟨codes, overs, fails⟩)

/-- Report the failed comparisons and a residue mismatch of a beat (R68, R86, R397, R406). Each comparison is charged to the
converter that made it in this beat: a retirement takes effect from the next beat (R81). -/
def State.reportBeat (s : State) (core eng tier : Nat) (ev : Evaluated) (residue injWit injRes : Bool) (key : Option Nat)
    (rows : BitVec 32) : State :=
  let i := engI core eng
  let charged := ev.fails.map (fun f => (f, s.converterOf core eng f.2.1 f.2.2 none))
  let s := charged.foldl (fun s e =>
    let f := e.1
    let s := (s.addAt i ENG_WIT_CNT_COUNT 1).silentError ⟨1, core, eng, tier, f.2.1, f.2.2, f.1, s.tb.rod, injWit⟩ key rows
    s.weigh ⟨false, core, eng, some (f.2.1, e.2), s.tb.rod⟩ injWit) s
  if residue then
    let s := (s.addAt i ENG_RES_CNT_COUNT 1).putAt i ENG_OUT_FLAG_RES_ERR 1
    (s.silentError ⟨2, core, eng, tier, 0, 0, 0, s.tb.rod, injRes⟩ key rows).weigh ⟨true, core, eng, none, s.tb.rod⟩ injRes
  else s

/-- A beat of an engine that has lost a spare is a detected silent error (R82). -/
def State.deadBeat (s : State) (core eng tier : Nat) (key : Option Nat) (rows : BitVec 32) : State :=
  if (s.engine core eng).dead then s.silentError ⟨1, core, eng, tier, 0, 0, 0, s.tb.rod, false⟩ key rows else s

/-! ### The merge (R88 to R90, R109, R368) -/

/-- The beat's tile takes an outlier contribution (R109; R30, entries 2 and 6), and an adapter contribution (R88). -/
def TileDecl.takesOutlier (d : TileDecl) (query : Bool) : Bool := !d.mirror.isEmpty && !d.exact && !query
def TileDecl.takesAdapter (d : TileDecl) (query : Bool) : Bool := d.adapterMerge && !query

/-- Deliver a beat's outputs to the core store and its row to the OUT token (R88, R89). Unused columns give no output (R43). -/
def State.deliver (s : State) (core eng : Nat) (o : BeatOut) (void : Bool) : State :=
  let e := s.engine core eng
  let t := s.tier core eng o.tier
  let row : BitVec 32 := (1 : BitVec 32) <<< o.row
  let s := s.setEngine core eng { e with outs := e.outs.erase o }
  match s.tileDecl core eng o.tile with
  | none => s.produce o.issue row row 0
  | some d =>
    let none' : Contribution := ⟨[], false, false⟩
    let ol := if d.takesOutlier o.query then some (o.ol.getD none') else none
    let ad := if d.takesAdapter o.query then some (o.ad.getD none') else none
    let w := if d.bf16Out then 2 else 4
    let ys := ((List.range d.cols).filter d.used).map (fun k =>
      (k, t.output d k (o.p.getD k 0) o.eRef (ol.map (fun l => l.vals.getD k 0)) (ad.map (fun l => l.vals.getD k 0))))
    let ovf := ys.any (fun y => y.2.2)
    let flag := o.flag || ovf || ol.any Contribution.flag || ad.any Contribution.flag
    let void := void || ol.any Contribution.isVoid || ad.any Contribution.isVoid
    let s := s.raiseIfAt (engI core eng) ENG_OUT_FLAG_OVF ovf
    let s := ys.foldl (fun (s : State) y => s.storeBytes core (o.outAddr + w * y.1) (outBytes d.bf16Out y.2.1)) s
    s.produce o.issue row (if void then row else 0) (if flag then row else 0)

/-- The contributions that a beat's merge needs are at the merge point (R88, R90). -/
def State.contributed (s : State) (core eng : Nat) (o : BeatOut) : Bool :=
  match s.tileDecl core eng o.tile with
  | none => true
  | some d => (!d.takesOutlier o.query || o.ol.isSome) && (!d.takesAdapter o.query || o.ad.isSome)

/-- Finish the beat at the output stage that nothing is missing for (R88). -/
def State.tryMerge (s : State) (core eng : Nat) : State :=
  match (s.engine core eng).outs.find? (fun o => s.contributed core eng o) with
  | some o => s.deliver core eng o o.void
  | none => s

/-- A beat's column integers are formed: it waits at the output stage for its contributions (R88). -/
def State.formed (s : State) (core eng : Nat) (o : BeatOut) : State :=
  let e := s.engine core eng
  (s.setEngine core eng { e with outs := e.outs ++ [o] }).tryMerge core eng

/-- Change the first element of a list that a test picks. -/
def updFirst {α : Type} (p : α → Bool) (f : α → α) : List α → List α
  | [] => []
  | a :: l => if p a then f a :: l else a :: updFirst p f l

/-- The waiting beat, and the staged vector, that a contribution is for. -/
def BeatOut.serves (o : BeatOut) (tile row inst : Nat) : Bool :=
  decide (o.tile = tile) && decide (o.row = row) && decide (o.issue.inst % 256 = inst % 256)
def Staged.isFor (g : Staged) (tile row : Nat) : Bool := decide (g.input.tile = tile) && decide (g.input.row.val = row)
def RepeatDue.isFor (r : RepeatDue) (tile row inst : Nat) : Bool :=
  r.staged.isFor tile row && decide (r.issue.inst % 256 = inst % 256)

/-- The selection and the tier of the beat that an outlier contribution is for (R108, R109): a beat at the output stage, one
that has taken a window, or a staged vector. -/
def State.selectionOf (s : State) (core eng tile row inst : Nat) : Option (List (Nat × FpBits) × Nat) :=
  let e := s.engine core eng
  match e.outs.find? (fun o => o.serves tile row inst && o.ol.isNone) with
  | some o => some (o.sel, o.tier)
  | none => match e.windows.find? (fun r => r.isFor tile row inst && r.staged.ol.isNone) with
    | some r => some (r.staged.outliers, r.tier)
    | none => (e.staged.find? (fun g => g.isFor tile row && g.ol.isNone)).map (fun g =>
        (g.outliers, s.fldAt (engI core eng) ENG_STAT_LIVE_TIER))

/-- A contribution reaches the merge point of its beat (R88, R109): `lane` tells the outlier lane from the adapter. One that
no beat awaits is dropped. -/
def State.contribute (s : State) (core eng tile row inst : Nat) (lane : Bool) (c : Contribution) : State :=
  let e := s.engine core eng
  let lacksO := fun (o : BeatOut) => o.serves tile row inst && (if lane then o.ol else o.ad).isNone
  let lacksG := fun (g : Staged) => (if lane then g.ol else g.ad).isNone
  let giveG := fun (g : Staged) => if lane then { g with ol := some c } else { g with ad := some c }
  let e := if e.outs.any lacksO then
      { e with outs := updFirst lacksO (fun o => if lane then { o with ol := some c } else { o with ad := some c }) e.outs }
    else if e.windows.any (fun r => r.isFor tile row inst && lacksG r.staged) then
      { e with windows := updFirst (fun r => r.isFor tile row inst && lacksG r.staged) (fun r => { r with staged := giveG r.staged }) e.windows }
    else { e with staged := updFirst (fun g => g.isFor tile row && lacksG g) giveG e.staged }
  (s.setEngine core eng e).tryMerge core eng

/-! ### Beats -/

/-- Evaluate a staged vector on the live tier, with its pass of repeats (R56, R60, R76, R110 to R115). `window` names the
repeat-window issue of this beat. On an exact tier or for a query the codes above 292 are replaced and counted as a clamped
beat (R115, R120). Log entry 48 (DEDUCED). -/
def State.runPass (s : State) (issue : Issue) (eng : Nat) (g : Staged) (tier outAddr : Nat) (key : Option Nat) (void : Bool)
    (window : Nat × Nat) (residueUpset : Bool) (trims : List TrimAt) : State :=
  let core : Nat := issue.core
  let i := engI core eng
  let row : BitVec 32 := (1 : BitVec 32) <<< g.input.row.val
  match s.tileDecl core eng g.input.tile with
  | none => (s.voidRows key row).produce issue row row 0
  | some d =>
    let s := s.setEngine core eng { s.engine core eng with newRetired := [] }
    let t := s.tier core eng tier
    let query := decide (g.input.serves = .query)
    let dead := (s.engine core eng).dead
    let untrusted := s.untrustedUnit core eng
    let s := s.deadBeat core eng tier key row
    let s := if untrusted ∧ !void then s.voidRows key row else s
    let void := void || dead || untrusted
    let out := fun (p : List Int) (void flag : Bool) =>
      (⟨issue, g.input.row, g.input.tile, p, g.eRef, outAddr, void, flag, key, tier, query, g.outliers, g.ol, g.ad⟩ : BeatOut)
    if g.zero then
      (s.addAt i ENG_SKIP_CNT_COUNT 1).formed core eng
        (out ((List.range d.cols).map (fun _ => 0)) void (g.flag || s.degraded core eng tier))
    else
      let rm := s.rowMap core eng tier
      let n := if t.exact then g.a else g.a / 2
      let b : BeatRun := ⟨core, eng, tier, n, g.level t.exact rm, fun p => rm.band.idxOf p, s.tileStream d g.input 1 g.pass, none⟩
      let injWit := (s.injects 0x01 core eng).isSome
      let (s, ev) := s.evaluate d b trims
      let (s, i2) := s.tryInject 0x02 core eng
      let residue := residueUpset || i2.isSome
      let s := s.reportBeat core eng tier ev residue injWit i2.isSome key row
      let void := void || residue || !ev.fails.isEmpty
      let trig := if t.exact || query then false else ev.overRange || g.crush
      let next := if g.a = 4 then 6 else 8
      let e := s.engine core eng
      if trig && d.widen && !d.a4Edge && decide (g.a < 8) && d.windows.contains next && !e.taken.contains window then
        s.setEngine core eng { e with taken := window :: e.taken
                                      windows := e.windows ++ [⟨window, g, issue, outAddr, key, void, tier⟩] }
      else
        let clamp := ev.overRange || trig
        let s := if clamp then
            { (s.addAt i ENG_CLAMP_CNT_COUNT 1).putAt i ENG_WD_FLAG_CLAMP 1 with clampNow := s.clampNow + 1 } else s
        s.formed core eng (out ((List.range d.cols).map (fun k => t.columnInt rm g ev.codes n k true)) void
          (g.flag || clamp || s.degraded core eng tier))

/-- Drop the vector in front of the staging registers. -/
def State.dropStaged (s : State) (core eng : Nat) : State :=
  s.setEngine core eng { s.engine core eng with staged := (s.engine core eng).staged.drop 1 }

/-- Tiers of an engine in a role that hold a tile number, as the own tile or as a standby copy. -/
def State.tiersOf (s : State) (core eng num : Nat) (copy : Option Nat) (role : Nat) : List Nat :=
  (List.range 8).filter (fun t =>
    let x := s.tier core eng t
    x.role == role && decide (x.tile = some num) && decide (x.copy = copy))

/-- The tier that a request row selects (R358, R361): CUR where its map bit equals the parity of the latest flip or the
tile has no PREV tier, otherwise PREV, for an expert's row by the slot of its tag; none for a row pinned to an epoch that a late module has not taken. A row that no
request's tile concerns stays on the live tier. -/
def State.rowTier (s : State) (core eng live : Nat) (ins : List Nat) (key : Option Nat) (row : Nat) : Option Nat :=
  let t := s.tier core eng live
  let slot := ((s.rowOf key row).map BushelRow.slot).orElse (fun _ => (s.expertTag core ins row).map tagSlot)
  match t.tile, slot with
  | some num, some slot =>
    if t.role ≠ 1 ∧ t.role ≠ 2 then some live
    else
      let same := decide (SMap.get (fun _ => 0) s.weights.epochMap slot = s.fld GLB_STATE_FLIP_PARITY)
      let prev := s.tiersOf core eng num t.copy 2
      if s.weights.late.isSome ∧ !same ∧ prev.isEmpty then none
      else if same ∨ prev.isEmpty then (s.tiersOf core eng num t.copy 1).head?
      else prev.head?
  | _, _ => some live

/-- ENGINE_BEAT (R56 to R68, R194): the staged vector in front is evaluated on the live tier. A late input skips the
beat (R195); a refused select skips it and voids its row (R35); an empty or void row takes no beat (R28). -/
def execEngineBeat (issue : Issue) (eng : EngId) (outAddr window windowIssue : Nat) (residueUpset : Bool) (trims : List TrimAt)
    (s : State) : Host.Outcome State Fault Refusal :=
  let core : Nat := issue.core
  let i := engI core eng
  if !s.runs issue (.engine eng.val) then .next s
  else match s.ready issue with
  | .late _ key => .next ((s.skipLate issue key).dropStaged core eng)
  | .run voided key =>
    let s := s.consume issue
    match (s.engine core eng).staged with
    | [] => .next s
    | g :: _ =>
      let s := s.dropStaged core eng
      let row : BitVec 32 := (1 : BitVec 32) <<< g.input.row.val
      let g := { g with flag := g.flag || decide (s.flagsIn issue &&& row ≠ 0) }
      if issue.ins.any (· ≠ 255) ∧ s.rowsIn issue &&& row = 0 then .next s
      else if (s.engine core eng).selBad ∨ !s.isSetAt i ENG_STAT_LIVE then
        .next ((s.lateRows key (row &&& ~~~ voided)).produce issue row row 0)
      else if voided &&& row ≠ 0 then .next (s.produce issue row row 0)
      else
        let (s, refused) := match s.rowTier core eng (s.fldAt i ENG_STAT_LIVE_TIER) issue.ins key g.input.row with
          | some t => s.select core eng t
          | none => ((s.putAt i ENG_STAT_SEL_REFUSED 1).addAt i ENG_SEL_REFUSE_COUNT 1, true)
        if refused then .next ((s.lateRows key row).produce issue row row 0)
        else .next (s.runPass issue eng g (s.fldAt i ENG_STAT_LIVE_TIER) outAddr key false (window, windowIssue) residueUpset trims)

/-- MERGE_DEADLINE (R90): 24 cycles after the last cycle of the beat of a tile and row the contributions that its merge needs
are due. -/
def execMergeDeadline (core : CoreId) (eng : EngId) (tile inst : Nat) (row : Fin 32) (s : State) : Host.Outcome State Fault Refusal :=
  match (s.engine core eng).outs.find? (fun o => o.serves tile row inst) with
  | none => .next s
  | some o =>
    let (s, inj) := s.tryInject 0x04 core eng
    if s.contributed core eng o ∧ inj.isNone then .next (s.deliver core eng o o.void)
    else
      let i := engI core eng
      let s := (s.addAt i ENG_MERGE_LATE_COUNT 1).putAt i ENG_OUT_FLAG_MERGE_LATE 1
      .next ((s.lateRows o.key ((1 : BitVec 32) <<< o.row)).deliver core eng o true)

/-- REPEAT_WINDOW (R113, R114, R116): in an issue of a window that a beat has taken, the restaged vector is evaluated at the
window's format; one that no beat has taken stays idle. -/
def execRepeatWindow (core : CoreId) (eng : EngId) (window windowIssue nextWindow nextIssue : Nat) (residueUpset : Bool)
    (trims : List TrimAt) (s : State) : Host.Outcome State Fault Refusal :=
  let e := s.engine core eng
  let here := s.sched.due.any (fun d => d.core = core.val ∧ d.agent = .engine eng ∧ d.slot = window ∧ d.issue = windowIssue ∧ d.kind = .repeatWindow)
  match e.windows.find? (fun r => r.window = (window, windowIssue)) with
  | none => .next s
  | some r =>
    if s.coreRunning core ∧ !here then .next s else
    let s := s.setEngine core eng { e with windows := e.windows.erase r }
    let row : BitVec 32 := (1 : BitVec 32) <<< r.staged.input.row.val
    if !s.coreRunning core then .next (s.voidRows r.key row)
    else
      let (s, refused) := s.select core eng r.tier
      if refused then .next ((s.lateRows r.key row).produce r.issue row row 0)
      else match s.tileDecl core eng r.staged.input.tile with
      | none => .next ((s.voidRows r.key row).produce r.issue row row 0)
      | some d =>
        let a := if r.staged.a = 4 then 6 else 8
        let g := s.stage d r.staged.input a (r.staged.pass + 1) (r.staged.outliers.map Prod.fst)
        let g := { g with crush := g.crush && !g.zero, flag := g.flag || r.staged.flag, ol := r.staged.ol, ad := r.staged.ad }
        let s := s.addAt (engI core eng) (if a = 6 then ENG_WIDEN_CNT_A6 else ENG_WIDEN_CNT_A8) 1
        let s := if g.crush then s.addAt (engI core eng) ENG_CRUSH_TRIG_COUNT 1 else s
        .next (s.runPass r.issue eng g r.tier r.outAddr r.key r.void (nextWindow, nextIssue) residueUpset trims)

/-- The A8 variant that has passed admission (R119, R216). -/
def State.a8Variant (s : State) : Option Nat :=
  (s.boot.image.variants.find? (fun v => v.a8 && s.admittedVar v.num)).map Variant.num

/-- PRECISION_SUM_COMPLETE: the clamp sum of the last furlong is complete (R119). -/
def execPrecisionSumComplete (s : State) : Host.Outcome State Fault Refusal :=
  match s.clampDue with
  | none => .next s
  | some n =>
    let s := { s with clampDue := none }.put TB_PREC_CNT_COUNT (min n (2 ^ 32 - 1))
    let thr := s.inForceAt 0 TB_PREC_THR_THRESH
    let old := s.fld TB_PREC_RUN_RUN
    let run := if thr = 0 ∨ n ≤ thr then 0 else if old = 8 then 1 else old + 1
    let s := s.put TB_PREC_RUN_RUN run
    if run ≠ 8 then .next s
    else match s.a8Variant with
    | none => .next (s.put TB_PREC_STAT_NO_VARIANT 1)
    | some v =>
      if s.sched.var = v ∨ s.sched.reqs.any (fun r => r.var = v) ∨ s.sched.switches.any (fun w => w.var = v) then .next s
      else .next ((s.raiseVarReq v).put TB_PREC_STAT_REQ_RAISED 1)

end Sys2Proof.Machine
end

