-- ==== Sys2Proof/Machine/Store.lean ====
section
/-! DEFINITION. Core stores (R160 to R163), memory stacks (R166 to R170), pages and page tables (R171 to R174, R289 to
R292) as shared operations. -/
namespace Sys2Proof.Machine

/-! ### The core store -/

/-- The region kind that the image gives a core-store address (R161). -/
def State.storeKind (s : State) (core addr : Nat) : Option StoreKind :=
  match s.logicalOf core with
  | none => none
  | some l => (s.boot.image.stores.find? (fun r => r.core = l ∧ r.base ≤ addr ∧ addr < r.base + r.len)).map StoreRegion.kind

def State.storeStatic (s : State) (core addr : Nat) : Bool :=
  match s.storeKind core addr with | some k => k.static | none => false

/-- A single-bit error: corrected, written back and counted (R163). Log entry 16 (DESIGN CHOICE). -/
def State.csCorrected (s : State) (core : Nat) : State :=
  (s.addAt (coreI core) CS_CE_CNT_COUNT 1).putAt (coreI core) CS_FLAG_CE 1

/-- Drop the page-table line at a place of the core store: the look-aside entries that were filled from it go with it, so
that the walk repeats as a miss (R163, R173). Log entry 31 (DESIGN CHOICE). -/
def PageUnit.dropLine (u : PageUnit) (k : Nat) : PageUnit :=
  match SMap.get (fun _ => none) u.lines k with
  | none => u
  | some l => { u with
      lines := SMap.set (fun _ => none) u.lines k none
      entries := u.entries.filter (fun e => match e.2 with
        | some x => x.dirLine != l && x.leafLine != l
        | none => true) }

/-- The place of a core-store address among the 64 page-table lines of its core (R161). -/
def State.linePlace (s : State) (core addr : Nat) : Nat :=
  match (s.logicalOf core).bind (fun l => s.boot.image.stores.find? (fun r => r.core = l ∧ r.base ≤ addr ∧ addr < r.base + r.len)) with
  | some r => (addr - r.base) / 64
  | none => 64

/-- An uncorrectable core-store word (R162, R163): a static line waits for its restore, and a second such error in the
line within 2^20 rods fences the core; a dynamic line stays poisoned until its next scheduled write; a page-table line
is dropped. Log entries 16 (DESIGN CHOICE), 31 (DESIGN CHOICE). -/
def State.csUncorrectable (s : State) (core addr : Nat) (injected : Bool) : State :=
  let i := coreI core
  let s := (s.addAt i CS_UE_CNT_COUNT 1).putAt i CS_FLAG_UE 1
  let line := storeKey core addr / 64
  if s.storeStatic core addr then
    let again := s.mem.ueLines.any (fun e => decide (e.1 = line) && decide (s.sec.clockRods ≤ e.2 + 1048576))
    let s := { s with mem := { s.mem with
      poison := if line ∈ s.mem.poison then s.mem.poison else line :: s.mem.poison
      ueLines := (line, s.sec.clockRods) :: s.mem.ueLines.filter (fun e => e.1 ≠ line) } }
    if again then s.escalate core none injected else s
  else if s.storeKind core addr = some .pageLines then
    let u := SMap.get (fun _ => PageUnit.empty) s.mem.units core
    { s with mem := { s.mem with units := SMap.set (fun _ => PageUnit.empty) s.mem.units core (u.dropLine (s.linePlace core addr)) } }
  else { s with mem := { s.mem with stale := if line ∈ s.mem.stale then s.mem.stale else line :: s.mem.stale } }

/-- A line of the ranges that an operation reads is poisoned. -/
def State.csPoisoned (s : State) (core : Nat) (ranges : List (Nat × Nat)) : Bool :=
  (s.mem.poison ++ s.mem.stale).any (fun l => ranges.any (fun r => decide (0 < r.2) &&
    decide (storeKey core r.1 / 64 ≤ l) && decide (l ≤ storeKey core (r.1 + r.2 - 1) / 64)))

/-- An operation reads ranges of its core store with the errors that the check bits find; an armed point 0x0A flips ARG
bits of one read word. The flag says that some data is poisoned. -/
def State.csRead (s : State) (core : Nat) (ranges : List (Nat × Nat)) (ecc : Upsets) : State × Bool :=
  let hit := ecc.filter (fun e => ranges.any (fun r => decide (r.1 ≤ e.1) && decide (e.1 < r.1 + r.2)))
  let bad := s.csPoisoned core ranges
  let (s, inj) := match ranges with
    | [] => (s, none)
    | _ => s.tryInject 0x0A core 0
  let first := (ranges.headD (0, 0)).1
  let (s, bad) := match inj with
    | some 1 => (s.csCorrected core, bad)
    | some _ => (s.csUncorrectable core first true, true)
    | none => (s, bad)
  hit.foldl (fun (p : State × Bool) e =>
    if e.2 then (p.1.csUncorrectable core e.1 false, true) else (p.1.csCorrected core, p.2)) (s, bad)

/-! ### Stacks -/

/-- The 1 GiB extent of a stack address (R166). -/
def extentOf (a : Nat) : Nat := a / 2 ^ 36 * 48 + a % 2 ^ 36 / 2 ^ 30
def stackOf (a : Nat) : Nat := a / 2 ^ 36

/-- An access by a core is refused: outside the space, or in an extent outside its region (R166). -/
def State.stackRefused (s : State) (core addr : Nat) : Bool :=
  decide (2 ^ 40 ≤ addr) || decide (0xC00000000 ≤ addr % 2 ^ 36) ||
  (match s.regionOf core with | some r => !r.extents.contains (extentOf addr) | none => true)

/-- A line of a window is refused (R166). -/
def State.windowRefused (s : State) (core addr lines : Nat) : Bool :=
  (List.range lines).any (fun k => s.stackRefused core (addr + 64 * k))

/-- What a stack line holds (R168); `other` is the restore area, standby metadata, or nothing that the image names. -/
inductive Content where
  | page (slot frame : Nat) | table (slot : Nat) | adapter (k : Nat) | counts (slot : Nat) | result | other
  deriving DecidableEq, Repr

def State.contentAt (s : State) (addr : Nat) : Content :=
  let im := s.boot.image
  match s.mem.pages.find? (fun p => decide (p.2.2.2 ≤ addr) &&
      decide (addr < p.2.2.2 + ((im.kvLayers.find? (fun l => l.loc = p.2.1)).map (fun l => frameBytes l.bytes)).getD 0)) with
  | some p => .page p.1 p.2.2.2
  | none =>
    match s.mem.tables.find? (fun t => decide (t.2.2.1 ≤ addr) && decide (addr < t.2.2.1 + t.2.2.2)) with
    | some t => if t.2.1 = 4096 then .counts t.1 else .table t.1
    | none =>
      if im.adapters.base ≤ addr ∧ addr < im.adapters.base + 4096 * im.adapters.slotBytes ∧ im.adapters.mats ≠ [] then
        .adapter ((addr - im.adapters.base) / im.adapters.slotBytes)
      else if im.resultBuf.1 ≤ addr ∧ addr < im.resultBuf.1 + im.resultBuf.2 then .result
      else .other

def State.adSlot (s : State) (k : Nat) : AdSlot := SMap.get (fun _ => AdSlot.empty) s.weights.adSlots k
def State.setAdSlot (s : State) (k : Nat) (a : AdSlot) : State :=
  { s with weights := { s.weights with adSlots := SMap.set (fun _ => AdSlot.empty) s.weights.adSlots k a } }

/-! ### The restore area (R162) -/

/-- The static regions of a tenancy region's cores, whose copies lie one after another in its restore area, each at a
multiple of 64 bytes. Log entry 31 (DESIGN CHOICE). -/
def State.statics (s : State) (r : Region) : List StoreRegion :=
  s.boot.image.stores.filter (fun x => x.kind.static && r.logical.contains x.core)

/-- Where the copy of a byte lies in the restore area, from the regions in order. -/
def copyOffset (logical addr : Nat) : List StoreRegion → Nat → Option Nat
  | [], _ => none
  | x :: xs, off =>
    if x.core = logical ∧ x.base ≤ addr ∧ addr < x.base + x.len then some (off + (addr - x.base))
    else copyOffset logical addr xs (off + (x.len + 63) / 64 * 64)

/-- The stack address of the copy of a static byte of a core's store. -/
def State.copyAddr (s : State) (core addr : Nat) : Option Nat :=
  match s.regionOf core, s.logicalOf core with
  | some r, some l => (copyOffset l addr (s.statics r) 0).map (fun o => r.restore + o)
  | _, _ => none

/-- The control core copies the static regions of a core store into the restore area (R162). -/
def State.copyStatic (s : State) (r : Region) (x : StoreRegion) : State :=
  match s.physOf x.core, copyOffset x.core x.base (s.statics r) 0 with
  | some p, some o => s.stackWrite (r.restore + o) (s.loadBytes p x.base x.len)
  | _, _ => s
def State.fillRestore (s : State) : State :=
  s.boot.image.regions.foldl (fun s r => (s.statics r).foldl (fun s x => s.copyStatic r x) s) s

/-- A lost line of the restore area is fetched again from the core stores (R168). -/
def State.refillRestore (s : State) (addr : Nat) : State :=
  s.boot.image.regions.foldl (fun s r => (s.statics r).foldl (fun s x =>
    match s.physOf x.core, copyOffset x.core x.base (s.statics r) 0 with
    | some p, some o => ((List.range 64).filter (fun k => decide (r.restore + o ≤ addr / 64 * 64 + k ∧ addr / 64 * 64 + k < r.restore + o + x.len))).foldl
        (fun s k => s.stackWrite (addr / 64 * 64 + k) (s.loadBytes p (x.base + (addr / 64 * 64 + k - (r.restore + o))) 1)) s
    | _, _ => s) s) s

/-- A line of a ready adapter slot is lost: the slot is faulty, and this module fetches its part again (R168, R371). Log
entry 68 (DEDUCED). -/
def State.adapterLost (s : State) (k : Nat) : State :=
  let a := s.adSlot k
  let again := fun (l : AdLoad) => if l.slot = k then { l with man := none, chunk := 0, attempts := 0, stream := [] } else l
  if s.weights.adLoads.any (fun l => l.slot == k) then
    { s with weights := { s.weights with adLoads := s.weights.adLoads.map again } }
  else if a.state = 2 then
    let s := s.setAdSlot k { a with state := 3 }
    { s with weights := { s.weights with adLoads := s.weights.adLoads ++
        [(⟨k, a.ident, a.ver, a.base, a.rank, 0, s.tb.rod, s.tb.rod, false, true, none, 0, 0, []⟩ : AdLoad)] } }
  else s

/-- The effect of a lost stack line by its content (R168): lines of the restore area are copied again, and standby metadata
is read again from host memory, which brings what the line held. -/
def State.lineLost (s : State) (addr : Nat) : State :=
  match s.contentAt addr with
  | .page slot frame => ({ s with mem := { s.mem with lost := frame :: s.mem.lost } }).drain slot 0x21
  | .table slot => s.drain slot 0x21
  | .counts slot => s.drain slot 0x21
  | .adapter k => s.adapterLost k
  | .result => { s with rtv := { s.rtv with bufLost := true } }
  | .other => s.refillRestore addr

/-- A lost line leaves positions without their data (R168): all but the restore area and standby metadata. -/
def Content.affects : Content → Bool
  | .other => false
  | .page _ _ | .table _ | .adapter _ | .counts _ | .result => true

/-- Lines moved by a stack in the running furlong (STK_LINES). -/
def State.countLines (s : State) (st n : Nat) : State :=
  { s with mem := { s.mem with lines := SMap.set (fun _ => 0) s.mem.lines st (SMap.get (fun _ => 0) s.mem.lines st + n) } }

/-- The errors of a stack window (R168, R408 point 0x0B): counts, and the effect of each lost line. The flag says that
some line is poisoned. Log entry 16 (DESIGN CHOICE). -/
def State.stackErrors (s : State) (addr : Nat) (ecc : Upsets) : State × Bool :=
  let st := stackOf addr
  let (s, inj) := s.tryInject 0x0B 0 st
  let ecc := match inj with | some n => (0, decide (2 ≤ n)) :: ecc | none => ecc
  ecc.foldl (fun (p : State × Bool) e =>
    if e.2 then ((p.1.addAt (stkI st) STK_UE_CNT_COUNT 1).lineLost (addr + 64 * e.1), p.2 || (p.1.contentAt (addr + 64 * e.1)).affects)
    else (p.1.addAt (stkI st) STK_CE_CNT_COUNT 1, p.2)) (s, false)

/-- The lines of a stack that is out of service are uncorrectable (R170): every one of them counts and has the effect of
R168. -/
def State.darkLines (s : State) (addr lines : Nat) : State :=
  (List.range lines).foldl (fun s k => (s.addAt (stkI (stackOf addr)) STK_UE_CNT_COUNT 1).lineLost (addr + 64 * k)) s

/-! ### Pages and their pool (R289 to R292) -/

def State.poolSize (s : State) (region : Nat) : Nat :=
  ((s.boot.image.regions.find? (fun r => r.num = region)).map (fun r => r.pool.length * 2 ^ 30)).getD 0

/-- The address of byte p of a region's pool. -/
def State.poolAddr (s : State) (region p : Nat) : Nat :=
  match s.boot.image.regions.find? (fun r => r.num = region) with
  | none => 0
  | some r => let e := r.pool.getD (p / 2 ^ 30) 0
    e / 48 * 2 ^ 36 + e % 48 * 2 ^ 30 + p % 2 ^ 30

/-- Take an aligned block from a region's pool: a returned one of that size, else the next unused bytes. Log entry 59 (DESIGN CHOICE). -/
def State.poolTake (s : State) (region bytes : Nat) : State × Nat :=
  match s.mem.poolFree.find? (fun f => f.1 = region ∧ f.2.2 = bytes) with
  | some f => ({ s with mem := { s.mem with poolFree := s.mem.poolFree.erase f } }, f.2.1)
  | none =>
    let n := SMap.get (fun _ => 0) s.mem.poolNext region
    let p := (n + bytes - 1) / bytes * bytes
    ({ s with mem := { s.mem with poolNext := SMap.set (fun _ => 0) s.mem.poolNext region (p + bytes) } }, s.poolAddr region p)

/-- Bytes that a region's pool can still reserve. -/
def State.poolRoom (s : State) (region : Nat) : Nat := s.poolSize region - SMap.get (fun _ => 0) s.mem.reserved region

def State.reserve (s : State) (region n : Nat) : State :=
  { s with mem := { s.mem with reserved := SMap.set (fun _ => 0) s.mem.reserved region (SMap.get (fun _ => 0) s.mem.reserved region + n) } }

/-- A 64-bit entry of a page table (R172). Log entry 61 (DESIGN CHOICE). -/
def State.entryAt (s : State) (addr : Nat) : Nat := leNat (s.stackRead addr 8)

/-- The table of a request is allocated when its ADMIT takes effect (R326): one directory for its KV layers, and the
count table on the exit module. Log entry 59 (DESIGN CHOICE). -/
def State.allocTables (s : State) (slot : Nat) : State :=
  let r := s.req slot
  let im := s.boot.image
  let (s, r) := if im.kvLayers = [] then (s, r) else
    let n := 256 * ((im.kvLayers.map (fun l => l.loc + 1)).foldl Nat.max 1)
    let (s, a) := s.poolTake r.region n
    ({ s.stackWrite a (List.replicate n 0) with
        mem := { (s.stackWrite a (List.replicate n 0)).mem with tables := (slot, 8192, a, n) :: s.mem.tables } },
      { r with ptBase := a / 256 })
  let (s, r) := if r.pen ∧ im.exit then
      let n := (2 * ((im.rings.head?).map RingPair.vocab).getD 0 + 255) / 256 * 256
      let (s, a) := s.poolTake r.region n
      ({ s.stackWrite a (List.replicate n 0) with
          mem := { (s.stackWrite a (List.replicate n 0)).mem with tables := (slot, 4096, a, n) :: s.mem.tables } },
        { r with countPtr := a / 256 })
    else (s, r)
  s.setReq slot r

/-- Map one page of a request (R171, R172, R290): its leaf table if it has none, its frame, and both entries with the
slot's generation. Log entry 59 (DESIGN CHOICE). -/
def State.mapPage (s : State) (slot : Nat) (l : KvLayer) (g : Nat) : State :=
  let r := s.req slot
  if s.mem.pages.any (fun p => p.1 = slot ∧ p.2.1 = l.loc ∧ p.2.2.1 = g) ∨ r.ptBase = 0 then s
  else
    let dirA := r.ptBase * 256 + 8 * (32 * l.loc + g / 256)
    let dir := s.entryAt dirA
    let s := if 2 ^ 63 ≤ dir then s else
      let (s, a) := s.poolTake r.region 2048
      let s := (s.stackWrite a (List.replicate 2048 0)).stackWrite dirA (leBytes 8 (2 ^ 63 + a / 2048))
      { s with mem := { s.mem with tables := (slot, 64 * l.loc + g / 256 % 64, a, 2048) :: s.mem.tables } }
    let leaf := s.entryAt dirA % 2 ^ 29 * 2048 + 8 * (g % 256)
    let (s, f) := s.poolTake r.region (frameBytes l.bytes)
    let s := s.stackWrite leaf (leBytes 8 (2 ^ 63 + r.gen % 128 * 2 ^ 29 + f / 4096 % 2 ^ 28))
    { s with mem := { s.mem with pages := (slot, l.loc, g, f) :: s.mem.pages } }

/-- Map every page of a request that holds a position below n, no further than its reservation (R289, R290). -/
def State.mapBelow (s : State) (slot n : Nat) : State :=
  let r := s.req slot
  let pages := min ((n + 255) / 256) ((r.p + r.nMax + 8 + 255) / 256)
  s.boot.image.kvLayers.foldl (fun s l => (List.range pages).foldl (fun s g => s.mapPage slot l g) s) s

/-- A finished request's frames, tables and reservation return to the pool (R292); lost frames stay out (R168). -/
def State.releasePages (s : State) (slot need : Nat) : State :=
  let im := s.boot.image
  let frames := (s.mem.pages.filter (fun p => p.1 = slot)).filterMap (fun p =>
    if p.2.2.2 ∈ s.mem.lost then none
    else some (s.boot.image.pathRegion, p.2.2.2, ((im.kvLayers.find? (fun l => l.loc = p.2.1)).map (fun l => frameBytes l.bytes)).getD 4096))
  let tabs := (s.mem.tables.filter (fun t => t.1 = slot)).map (fun t => (s.boot.image.pathRegion, t.2.2.1, t.2.2.2))
  let lostN := (s.mem.pages.filter (fun p => p.1 = slot ∧ p.2.2.2 ∈ s.mem.lost)).length * 4096
  { s with mem := { s.mem with
      pages := s.mem.pages.filter (fun p => p.1 ≠ slot)
      tables := s.mem.tables.filter (fun t => t.1 ≠ slot)
      poolFree := s.mem.poolFree ++ frames ++ tabs
      reserved := SMap.set (fun _ => 0) s.mem.reserved s.boot.image.pathRegion (SMap.get (fun _ => 0) s.mem.reserved s.boot.image.pathRegion - (need - lostN)) } }

/-! ### Page walks (R171 to R174) -/

def State.pageUnit (s : State) (core : Nat) : PageUnit := SMap.get (fun _ => PageUnit.empty) s.mem.units core
def State.setPageUnit (s : State) (core : Nat) (u : PageUnit) : State :=
  { s with mem := { s.mem with units := SMap.set (fun _ => PageUnit.empty) s.mem.units core u } }

/-- The result of a walk: the position's address, or the failure and whether it is a generation mismatch. -/
inductive Walk where
  | found (addr : Nat) | absent | genError | outside
  deriving DecidableEq, Repr

/-- A page-table line kept in the core store, unless it is there already (R161, R173). Log entry 31 (DESIGN CHOICE). -/
def PageUnit.keep (u : PageUnit) (line : Nat) : PageUnit :=
  if u.lines.any (fun e => e.2 = some line) then u
  else { u with lines := SMap.set (fun _ => none) u.lines u.next (some line), next := (u.next + 1) % 64 }

/-- A walk reads one page-table line from the stacks, unscheduled (R166, R168, R170, R176): the entry, or none where the
access is refused or the line is lost. -/
def State.readEntry (s : State) (core addr : Nat) (ecc : Upsets) : State × Option Nat :=
  let st := stackOf addr
  if s.stackRefused core addr then (s.addAt (stkI st) STK_REFUSE_CNT_COUNT 1, none)
  else
    let s := s.countLines st 1
    if !s.isSetAt (stkI st) STK_STAT_IN_SERVICE then (s.darkLines addr 1, none)
    else
      let (s, lost) := s.stackErrors addr ecc
      if lost then (s, none)
      else (s.setPageUnit core ((s.pageUnit core).keep (addr / 64)), some (s.entryAt addr))

/-- A failed walk raises a page exception to the control core (R174, R291). -/
def State.pageExc (s : State) (core slot gen loc page : Nat) (mismatch : Bool) : State :=
  let s := s.putAt (coreI core) ATT_FLAG_PAGE_EXC 1
  { s with mem := { s.mem with excs := s.mem.excs ++ [(⟨core, slot, gen, loc, page, mismatch⟩ : PageExc)] } }

/-- The look-aside takes a new entry at its round-robin pointer (R173). -/
def PageUnit.fill (u : PageUnit) (e : LookEntry) : PageUnit :=
  { u with entries := SMap.set (fun _ => none) u.entries u.ptr (some e), ptr := (u.ptr + 1) % 64 }

/-- The frame that the look-aside holds for a page (R173). -/
def PageUnit.look (u : PageUnit) (slot gen loc page : Nat) : Option Nat :=
  u.entries.findSome? (fun e => match e.2 with
    | some x => if x.slot = slot ∧ x.gen = gen ∧ x.layer = loc ∧ x.page = page then some x.frame else none
    | none => none)

/-- The miss of a walk (R171, R173, R174): the directory entry, the leaf entry, and the look-aside entry they fill. -/
def State.walkMiss (s : State) (core slot loc g : Nat) (eccDir eccLeaf : Upsets) : State × Walk :=
  let r := s.req slot
  let i := coreI core
  let (s, inj) := (s.addAt i PW_MISS_COUNT 1).tryInject 0x0D core 0
  let absent := fun (s : State) => ((s.addAt i PW_ABSENT_COUNT 1).pageExc core slot r.gen loc g false, Walk.absent)
  let dirA := r.ptBase * 256 + 8 * (32 * loc + g / 256)
  match s.readEntry core dirA eccDir with
  | (s, none) => (s, .outside)
  | (s, some dir) =>
    if dir < 2 ^ 63 then absent s
    else
      let leafA := dir % 2 ^ 29 * 2048 + 8 * (g % 256)
      match s.readEntry core leafA eccLeaf with
      | (s, none) => (s, .outside)
      | (s, some leaf) =>
        if leaf < 2 ^ 63 ∨ inj.isSome then absent s
        else if leaf / 2 ^ 29 % 128 ≠ r.gen then
          ((s.addAt i PW_GEN_ERR_COUNT 1).pageExc core slot r.gen loc g true, .genError)
        else
          let f := leaf % 2 ^ 28 * 4096
          if s.stackRefused core f then (s, .outside)
          else (s.setPageUnit core ((s.pageUnit core).fill ⟨slot, r.gen, loc, g, f, dirA / 64, leafA / 64⟩), .found f)

/-- One walk (R171, R173, R174): hit and miss counts, the look-aside entry that a miss fills, the failures' counts and
page exceptions. `eccDir` and `eccLeaf` are what the check bits find in the two lines of a miss. -/
def State.walk (s : State) (core slot loc pos : Nat) (eccDir eccLeaf : Upsets) : State × Walk :=
  let b := ((s.boot.image.kvLayers.find? (fun l => l.loc = loc)).map KvLayer.bytes).getD 0
  let off := pos % 256 * b
  match (s.pageUnit core).look slot (s.req slot).gen loc (pos / 256) with
  | some f => (s.addAt (coreI core) PW_HIT_COUNT 1, .found (f + off))
  | none => match s.walkMiss core slot loc (pos / 256) eccDir eccLeaf with
    | (s, .found f) => (s, .found (f + off))
    | r => r

/-- Look-aside entries of slots whose generation has changed are invalidated (R173). -/
def State.invalidateLook (s : State) : State :=
  { s with mem := { s.mem with units := (s.mem.units.map (fun (e : Nat × PageUnit) =>
      (e.1, { e.2 with entries := e.2.entries.filter (fun x => match x.2 with
        | some y => decide ((s.req y.slot).gen = y.gen)
        | none => true) }))).filter (fun e => e.2 ≠ PageUnit.empty) } }

end Sys2Proof.Machine
end

