-- ==== Sys2Proof/Machine/Units.lean ====
section
/-! DEFINITION. The matrix unit and the vector unit (R155 to R158, R102, R109, R263, R264, R276, R287, R368), the core
store's scrub and restore (R160 to R163). -/
namespace Sys2Proof.Machine

/-! ### Operands -/

/-- Bytes of n consecutive elements of a format. -/
def fmtBytes : NumFmt → Nat → Nat
  | .f32, n => 4 * n
  | .bf16, n => 2 * n
  | .e4m3, n => n
  | .e5m2, n => n
  | .int4, n => (n + 1) / 2

/-- What element k of a run is: its exact value, and whether it is a special value that R47 replaces. An FP8 infinity, which
R156 does not name, is replaced like a BF16 one. Log entry 18 (DESIGN CHOICE). -/
def State.elem (s : State) (core : Nat) (f : NumFmt) (addr k : Nat) : Dy × Bool :=
  match f with
  | .f32 =>
    let v := BitVec.ofNat 32 (leNat (s.loadBytes core (addr + 4 * k) 4))
    if f32IsNaN v then (Dy.zero, true) else if f32IsInf v then (f32Val (f32Max (f32Neg v)), true) else (f32Val v, false)
  | .bf16 =>
    let v := bf16ToF32 (BitVec.ofNat 16 (leNat (s.loadBytes core (addr + 2 * k) 2)))
    if f32IsNaN v then (Dy.zero, true)
    else if f32IsInf v then (f32Val (if f32Neg v then 0xFF7F0000 else 0x7F7F0000), true) else (f32Val v, false)
  | .e4m3 =>
    let b := (s.loadBytes core (addr + k) 1).headD 0
    if e4m3IsNaN b then (Dy.zero, true) else (e4m3Val b, false)
  | .e5m2 =>
    let b := (s.loadBytes core (addr + k) 1).headD 0
    if e5m2IsNaN b then (Dy.zero, true)
    else if e5m2IsInf b then (e5m2Val (if b.getLsbD 7 then 0xFB else 0x7B), true) else (e5m2Val b, false)
  | .int4 =>
    let b := (s.loadBytes core (addr + k / 2) 1).headD 0
    (⟨nibble b (k % 2 = 1), 0⟩, false)

/-- Element (i, j) of a matrix operand. -/
def State.mat (s : State) (core : Nat) (a : MatIn) (i j : Nat) : Dy × Bool :=
  s.elem core a.fmt a.addr (i * a.rowStep + j * a.colStep)

/-- The scale exponent of column j over inner steps 32c to 32c + 31 of an INT4 operand; none for a NaN scale. -/
def State.matScale (s : State) (core : Nat) (b : MatIn) (c j : Nat) : Option Int :=
  match b.fmt with
  | .int4 =>
    let e := (s.loadBytes core (b.scaleAddr + j * b.scaleStep + c) 1).headD 0
    if e = 0xFF then none else some ((e.toNat : Int) - 127)
  | _ => some 0

/-- FP32 words in the core store, little-endian. -/
def State.loadF32 (s : State) (core addr n : Nat) : List FpBits :=
  (List.range n).map (fun k => BitVec.ofNat 32 (leNat (s.loadBytes core (addr + 4 * k) 4)))
def State.storeF32 (s : State) (core addr : Nat) (l : List FpBits) : State :=
  s.storeBytes core addr (l.flatMap (fun y => leBytes 4 y.toNat))

/-- A result in an output format (R156, R158). Log entry 81 (DESIGN CHOICE). -/
def outFmtBytes (f : NumFmt) (y : FpBits) : List Byte :=
  match f with
  | .f32 => leBytes 4 y.toNat
  | .bf16 => leBytes 2 (f32ToBf16 y).toNat
  | .e4m3 => [toE4m3 y]
  | .e5m2 => [toE5m2 y]
  | .int4 => []

/-! ### The matrix unit (R155 to R157) -/

/-- The operand formats that the matrix unit accepts (R155). -/
def pairOk : NumFmt → NumFmt → Bool
  | .e4m3, .e4m3 | .e4m3, .e5m2 | .e5m2, .e4m3 | .e5m2, .e5m2 => true
  | .e4m3, .int4 | .e5m2, .int4 => true
  | .bf16, .bf16 => true
  | _, _ => false

/-- The chunk sum of one output over inner steps 32c to 32c + 31 (R156): exact, then scaled by its group's power of two. -/
def State.chunkSum (s : State) (core : Nat) (a b : MatIn) (k i j c : Nat) : Dy :=
  let p := (List.range (min 32 (k - 32 * c))).foldl (fun (d : Dy) t =>
    d.add (((s.mat core a i (32 * c + t)).1).mul (s.mat core b (32 * c + t) j).1)) Dy.zero
  match b.fmt, s.matScale core b c j with
  | .int4, none => Dy.zero
  | .int4, some e =>
    let d : Dy := ⟨p.m, p.e + e⟩
    if d.m ≠ 0 ∧ d.e + d.m.natAbs.log2 < -149 then f32Val (Config.tinyChunk d.m d.e) else d
  | _, _ => p

/-- One output of a product: the chunk sums added to the accumulator in ascending order, each with one rounding. The
flag says that a result was limited. -/
def State.dotOut (s : State) (core : Nat) (a b : MatIn) (k i j : Nat) (acc : FpBits) : FpBits × Bool :=
  (List.range ((k + 31) / 32)).foldl (fun (p : FpBits × Bool) c =>
    let r := ((f32Val p.1).add (s.chunkSum core a b k i j c)).toF32 (f32Neg p.1)
    (r.1, p.2 || r.2)) (acc, false)

/-- The ranges of the core store that a product reads. -/
def matRange (a : MatIn) (rows cols : Nat) : List (Nat × Nat) :=
  [(a.addr, fmtBytes a.fmt ((rows - 1) * a.rowStep + (cols - 1) * a.colStep + 1))]

/-- The bushel rows that a product's output rows satisfying `p` belong to: row i to bushel row `row0 + i` (R156). -/
def rowMask (row0 m : Nat) (p : Nat → Bool) : BitVec 32 :=
  (List.range m).foldl (fun w i => if p i then w ||| ((1 : BitVec 32) <<< (row0 + i)) else w) 0

/-- What an operation's start and reads gave: the void rows of its inputs, its bushel instance, poisoned data, and the rows
that carry the precision flag (R101). -/
structure Begun where
  voided : BitVec 32
  key : Option Nat
  bad : Bool
  flagged : BitVec 32
  deriving DecidableEq, Repr

/-- Start a scheduled digital operation (R194, R195): none when the issue is skipped as late. -/
def State.beginOp (s : State) (issue : Issue) (ranges : List (Nat × Nat)) (ecc : Upsets) : State × Option Begun :=
  match s.ready issue with
  | .late _ key => (s.skipLate issue key, none)
  | .run voided key =>
    let flagged := s.flagsIn issue
    let (s, bad) := (s.consume issue).csRead issue.core ranges ecc
    (s, some ⟨voided, key, bad, flagged⟩)

/-- Deliver an operation's result to its OUT token. Poisoned data is a detected silent error of every row (R162);
`allVoid` voids them for another reason already reported. -/
def State.finishOp (s : State) (issue : Issue) (b : Begun) (rows flagged : BitVec 32) (allVoid : Bool) : State :=
  let exp := if issue.out = 255 then rows else rows &&& (s.outToken issue).expected
  let s := if b.bad then s.silentError ⟨0x0A, issue.core, 0, 0, 0, 0, 0, s.tb.rod, false⟩ b.key (rows &&& ~~~ b.voided) else s
  s.produce issue exp (if b.bad ∨ allVoid then exp else b.voided &&& exp) flagged

/-- Deliver the result of a digital unit: a result of a flagged position is flagged (R101). -/
def State.finishUnit (s : State) (issue : Issue) (b : Begun) (rows flagged : BitVec 32) (allVoid : Bool) : State :=
  s.finishOp issue b rows ((flagged ||| b.flagged) &&& rows) allVoid

/-- The rows that a whole-bushel operation delivers. -/
def State.outRows (s : State) (issue : Issue) : BitVec 32 :=
  if issue.out = 255 then 0xFFFFFFFF else (s.outToken issue).expected

/-- A residue mismatch of the matrix unit (R157, R406). -/
def State.mxuResidue (s : State) (core : Nat) (key : Option Nat) (rows : BitVec 32) (injected : Bool) : State :=
  let i := coreI core
  let s := (s.addAt i MXU_RES_CNT_COUNT 1).putAt i MXU_FLAG_RES_ERR 1
  (s.silentError ⟨3, core, 0, 0, 0, 0, 0, s.tb.rod, injected⟩ key rows).weigh ⟨true, core, 8, none, s.tb.rod⟩ injected

/-- The outlier contribution of every weight column (R109), and whether a step of it was limited (R156). Log entry 48 (DEDUCED). -/
def outlierOut (d : TileDecl) (m : Mirror) (sel : List (Nat × FpBits)) : List (FpBits × Bool) :=
  (List.range d.cols).map (fun k =>
    let a := sel.foldl (fun (acc : FpBits × Bool) e =>
      let i := d.mirror.findIdx (· = e.1)
      let w : Int := (m.w.getD i []).getD k 0
      let r := ((f32Val acc.1).add ((f32Val e.2).mul (Dy.ofInt w))).toF32 (f32Neg acc.1)
      (r.1, acc.2 || r.2)) ((0 : FpBits), false)
    let r := ((f32Val a.1).mul (f16Val (m.scale.getD k 0))).toF32 (f32Neg a.1)
    (r.1, a.2 || r.2))

/-- The adapter contribution (R368): x in BF16, t = x · A in FP32 then BF16, t · B in FP32, scaled by α; and whether a
result was limited (R156). -/
def State.adapterOut (s : State) (core : Nat) (x : VecIn) (dIn rank dOut aAddr bAddr : Nat) (alpha : FpBits) :
    List FpBits × Bool :=
  let bf := fun (addr k : Nat) => (s.elem core .bf16 addr k).1
  let xb := fun (k : Nat) => f32Val (bf16ToF32 (f32ToBf16 ((s.elem core x.fmt x.addr k).1.toF32 false).1))
  let dot := fun (n : Nat) (f g : Nat → Dy) => (List.range ((n + 31) / 32)).foldl (fun (acc : FpBits × Bool) c =>
    let p := (List.range (min 32 (n - 32 * c))).foldl (fun (d : Dy) t => d.add ((f (32 * c + t)).mul (g (32 * c + t)))) Dy.zero
    let r := ((f32Val acc.1).add p).toF32 (f32Neg acc.1)
    (r.1, acc.2 || r.2)) ((0 : FpBits), false)
  let ts := (List.range rank).map (fun j => dot dIn xb (fun i => bf aAddr (i * rank + j)))
  let t := ts.map (fun y => f32Val (bf16ToF32 (f32ToBf16 y.1)))
  let ys := (List.range dOut).map (fun k =>
    let y := dot rank (fun j => t.getD j Dy.zero) (fun j => bf bAddr (j * dOut + k))
    let r := f32MulFlag alpha y.1
    (r.1, y.2 || r.2))
  (ys.map Prod.fst, ts.any Prod.snd || ys.any Prod.snd)

/-- An operand of the adapter product is a special value that R47 replaces (R156). -/
def State.adapterBad (s : State) (core : Nat) (x : VecIn) (dIn rank dOut aAddr bAddr : Nat) : Bool :=
  (List.range dIn).any (fun k => (s.elem core x.fmt x.addr k).2) ||
  (List.range (dIn * rank)).any (fun k => (s.elem core .bf16 aAddr k).2) ||
  (List.range (rank * dOut)).any (fun k => (s.elem core .bf16 bAddr k).2)

/-- The bushel rows that a product delivers: those of its output rows that the OUT token expects, or all that it expects where
none of them is. -/
def State.opRows (s : State) (issue : Issue) (row0 m : Nat) : BitVec 32 :=
  let all := s.outRows issue
  let mine := all &&& rowMask row0 m (fun _ => true)
  if mine = 0 then all else mine

/-- The ranges of the core store that a matrix operation reads. The outlier contribution reads its tile's mirror (R107). -/
def State.matRanges (s : State) (core : Nat) : MatOp → List (Nat × Nat)
  | .product _ m k n a b acc _ _ =>
    matRange a m k ++ matRange b k n ++ (match b.fmt with | .int4 => [(b.scaleAddr, (n - 1) * b.scaleStep + (k + 31) / 32)] | _ => []) ++
      (match acc with | some x => [(x, 4 * m * n)] | none => [])
  | .outlier eng tile _ => match s.tileDecl core eng tile with
    | some d => [(d.mirrorAddr, 64 + d.mirror.length * d.cols + 2 * d.cols)]
    | none => []
  | .adapter _ _ _ x dIn rank dOut aAddr bAddr =>
    [(x.addr, fmtBytes x.fmt dIn), (aAddr, 2 * dIn * rank), (bAddr, 2 * rank * dOut)]

/-- The bushel rows of a matrix operation. -/
def State.matRows (s : State) (issue : Issue) : MatOp → BitVec 32
  | .product row0 m .. => s.opRows issue row0 m
  | .outlier _ _ row => (1 : BitVec 32) <<< row.val
  | .adapter _ _ row .. => (1 : BitVec 32) <<< row.val

/-- The matrix unit accepts the operation's formats (R155); the contributions have fixed ones. -/
def matAccepted : MatOp → Bool
  | .product _ _ _ _ a b _ _ outFmt => pairOk a.fmt b.fmt && outFmt != .int4
  | .outlier .. | .adapter .. => true

/-- A product's results in the core store, its flags (R156), and its rows delivered. -/
def State.product (s : State) (issue : Issue) (g : Begun) (rows : BitVec 32) (isVoid : Bool) (row0 m k n : Nat) (a b : MatIn)
    (acc : Option Nat) (outAddr : Nat) (outFmt : NumFmt) : State :=
  let core : Nat := issue.core
  let out := (List.range m).map (fun i => (List.range n).map (fun j =>
    s.dotOut core a b k i j (match acc with
      | some x => BitVec.ofNat 32 (leNat (s.loadBytes core (x + 4 * (i * n + j)) 4))
      | none => 0)))
  let ovf := fun (i : Nat) => (out.getD i []).any Prod.snd
  let badIn := fun (i : Nat) => (List.range k).any (fun t => (s.mat core a i t).2)
  let badB := (List.range k).any (fun t => (List.range n).any (fun j => (s.mat core b t j).2))
  let i := coreI core
  let s := s.raiseIfAt i MXU_FLAG_OVF ((List.range m).any ovf)
  let s := s.raiseIfAt i MXU_FLAG_BAD_IN (badB || (List.range m).any badIn)
  let s := s.storeBytes core outAddr (out.flatten.flatMap (fun y => outFmtBytes outFmt y.1))
  s.finishUnit issue g rows (if badB then rows else rowMask row0 m (fun i => ovf i || badIn i)) isVoid

/-- The outlier contribution of a beat (R109); none where no beat awaits one. -/
def State.outlier (s : State) (issue : Issue) (g : Begun) (rows : BitVec 32) (isVoid : Bool) (eng tile row : Nat) : State :=
  let core : Nat := issue.core
  match s.selectionOf core eng tile row issue.inst, s.tileDecl core eng tile with
  | some (sel, tier), some d =>
    let m := (SMap.get (fun _ => none) s.weights.mirrors (tierKey core eng tier)).getD ⟨d.mirrorW, d.mirrorScale⟩
    let ys := outlierOut d m sel
    let ovf := ys.any Prod.snd
    let s := s.raiseIfAt (coreI core) MXU_FLAG_OVF ovf
    let c : Contribution := ⟨ys.map Prod.fst, ovf || decide (g.flagged &&& rows ≠ 0), isVoid || g.bad || decide (g.voided &&& rows ≠ 0)⟩
    (s.finishUnit issue g rows (if ovf then rows else 0) isVoid).contribute core eng tile row issue.inst true c
  | _, _ => s.finishUnit issue g rows 0 isVoid

/-- The adapter contribution of a row (R368): a slot that is not the row's ready one voids it. -/
def State.adapterOp (s : State) (issue : Issue) (g : Begun) (rows : BitVec 32) (isVoid : Bool) (eng tile row : Nat) (x : VecIn)
    (dIn rank dOut aAddr bAddr : Nat) : State :=
  let core : Nat := issue.core
  let req := (s.rowOf g.key row).map (fun r => s.req r.slot)
  let k := (req.map Req.adapterSlot).getD 0
  let a := s.adSlot k
  let ready := match req with
    | some r => r.adapterEn && decide (a.state = 2) && decide (a.ver = r.adapterVer)
    | none => false
  let alpha := BitVec.ofNat 32 (leNat (s.stackRead (s.boot.image.adapters.base + k * s.boot.image.adapters.slotBytes + 10) 4))
  let s := if ready then s else (s.add ADP_VOID_CNT_COUNT 1).voidRows g.key (rows &&& ~~~ g.voided)
  let (ys, ovf) := s.adapterOut core x dIn rank dOut aAddr bAddr alpha
  let badIn := s.adapterBad core x dIn rank dOut aAddr bAddr
  let s := (s.raiseIfAt (coreI core) MXU_FLAG_OVF ovf).raiseIfAt (coreI core) MXU_FLAG_BAD_IN badIn
  let bad := isVoid || !ready
  let c : Contribution := ⟨ys, ovf || badIn || decide (g.flagged &&& rows ≠ 0), bad || g.bad || decide (g.voided &&& rows ≠ 0)⟩
  (s.finishUnit issue g rows (if ovf || badIn then rows else 0) bad).contribute core eng tile row issue.inst false c

/-- MATRIX_OP (R155 to R157, R109, R368). -/
def execMatrixOp (issue : Issue) (op : MatOp) (ecc : Upsets) (residueUpset : Bool) (s : State) :
    Host.Outcome State Fault Refusal :=
  let core : Nat := issue.core
  if !s.runs issue .matrix || !matAccepted op then .next s
  else
    let (s, begun) := s.beginOp issue (s.matRanges core op) ecc
    match begun with
    | none => .next s
    | some g =>
      let rows := s.matRows issue op
      let (s, inj) := s.tryInject 0x03 core 0
      let wrong := residueUpset || inj.isSome
      let s := if wrong then s.mxuResidue core g.key (rows &&& ~~~ g.voided) inj.isSome else s
      let distrusted := s.untrustedUnit core 8
      let s := if distrusted then s.voidRows g.key (rows &&& ~~~ g.voided) else s
      let isVoid := wrong || distrusted
      .next (match op with
        | .product row0 m k n a b acc outAddr outFmt => s.product issue g rows isVoid row0 m k n a b acc outAddr outFmt
        | .outlier eng tile row => s.outlier issue g rows isVoid eng tile row
        | .adapter eng tile row x dIn rank dOut aAddr bAddr => s.adapterOp issue g rows isVoid eng tile row x dIn rank dOut aAddr bAddr)

/-! ### The vector unit (R158) -/

/-- Element k of a vector operand as FP32. -/
def State.vecElem (s : State) (core : Nat) (x : VecIn) (k : Nat) : FpBits :=
  match x.fmt with
  | .f32 => BitVec.ofNat 32 (leNat (s.loadBytes core (x.addr + 4 * k) 4))
  | .bf16 => bf16ToF32 (BitVec.ofNat 16 (leNat (s.loadBytes core (x.addr + 2 * k) 2)))
  | .e4m3 => let b := (s.loadBytes core (x.addr + k) 1).headD 0
    if e4m3IsNaN b then qNaN else ((e4m3Val b).toF32 (b.getLsbD 7)).1
  | .e5m2 => let b := (s.loadBytes core (x.addr + k) 1).headD 0
    if e5m2IsNaN b then qNaN else if e5m2IsInf b then f32Inf (b.getLsbD 7) else ((e5m2Val b).toF32 (b.getLsbD 7)).1
  | .int4 => f32OfInt (s.elem core .int4 x.addr k).1.m

def State.vec (s : State) (core : Nat) (x : VecIn) (n : Nat) : List FpBits := (List.range n).map (s.vecElem core x)

/-- One elementwise result (R158). A compare writes a word that a select reads. Log entry 19 (DESIGN CHOICE). -/
def ewApply (f : EwFn) (x y z : FpBits) : FpBits :=
  match f with
  | .add => vAdd x y
  | .mul => vMul x y
  | .fma => vFma x y z
  | .max => vMax x y
  | .cmpLt => if vLt x y then Config.cmpTrue else Config.cmpFalse
  | .select => if x = Config.cmpTrue then y else z
  | .convert => x

def spApply : SpecialFn → FpBits → FpBits
  | .exp2, x => vExp2 x
  | .log2, x => vLog2 x
  | .recip, x => vRecip x
  | .rsqrt, x => vRsqrt x
  | .silu, x => vSilu x
  | .gelu, x => vGelu x

/-- A vector result in the core store. -/
def vecOutBytes (f : NumFmt) (y : FpBits) : List Byte :=
  match f with
  | .bf16 => leBytes 2 (vToBf16 y).toNat
  | g => outFmtBytes g y

/-- Encode one group of 32 values into A8 or A4 elements (R102): elements, scale byte, and whether a special value or a
limit was met. -/
def encodeGroup (a4 : Bool) (vals : List FpBits) (draw : Nat → Nat) (e0 : Nat) : List Int × Byte × Bool :=
  let q : Nat := if a4 then 7 else 127
  let real := vals.map (fun v => if f32IsNaN v ∨ f32IsInf v then Dy.zero else f32Val v)
  let m := real.foldl (fun b v => if b.lt v.abs then v.abs else b) Dy.zero
  -- the largest magnitude of a group that holds an infinity takes the largest exponent
  let eps := if vals.any f32IsInf then 127 else smallestExp q m
  let xs := vals.zipIdx.map (fun p =>
    if f32IsNaN p.1 then ((0 : Int), true)
    else if f32IsInf p.1 then ((if f32Neg p.1 then -((q : Int) + 1) else (q : Int)), true)
    else
      let d := f32Val p.1
      let r := stochRound d.m (eps - d.e) (draw (e0 + p.2))
      let l := limit (-((q : Int) + 1)) q r
      (l, decide (l ≠ r)))
  if vals.all (fun v => f32Finite v && decide ((f32Val v).m = 0)) then (vals.map (fun _ => 0), 0, false)
  else (xs.map Prod.fst, BitVec.ofInt 8 (eps + 127), xs.any Prod.snd)

/-- The bytes of a peck (R97): elements, scales and tag. -/
def peckBytes (a4 : Bool) (groups : List (List Int × Byte)) (tag : Word) : List Byte :=
  let xs := (groups.map Prod.fst).flatten
  let data := if a4 then (List.range 64).map (fun i =>
        BitVec.ofNat 8 ((xs.getD (2 * i) 0 % 16).toNat + 16 * (xs.getD (2 * i + 1) 0 % 16).toNat))
    else (List.range 64).map (fun i => BitVec.ofInt 8 (xs.getD i 0))
  data ++ (List.range 4).map (fun i => (groups.getD i ([], 0)).2) ++ leBytes 4 tag.toNat

/-- The tag of R99. -/
def tagWord (slot gen posLo rank : Nat) (void : Bool) : Word :=
  BitVec.ofNat 32 (slot % 8192 * 2 ^ 19 + gen % 128 * 2 ^ 12 + posLo % 256 * 16 + rank % 8 * 2 + (if void then 1 else 0))

/-- Encode a vector into pecks (R98, R102): the bytes, and whether the precision flag is set. -/
def encodePecks (a4 : Bool) (vals : List FpBits) (st : Stream) (tag : Word) : List Byte × Bool :=
  let per := if a4 then 128 else 64
  let n := vals.length
  let r := (List.range ((n + per - 1) / per)).map (fun p =>
    let gs := (List.range (per / 32)).map (fun g =>
      let e0 := per * p + 32 * g
      if n ≤ e0 then (List.replicate 32 (0 : Int), (0 : Byte), false)
      else
        let v := (List.range 32).map (fun i => if e0 + i < n then vals.getD (e0 + i) 0 else 0)
        encodeGroup a4 v st.draw e0)
    (peckBytes a4 (gs.map (fun g => (g.1, g.2.1))) tag, gs.any (fun g => g.2.2)))
  (r.flatMap Prod.fst, r.any Prod.snd)

/-- Element i of an A8 or A4 peck (R97), as its real value. -/
def peckElem (a4 : Bool) (bs : List Byte) (i : Nat) : FpBits :=
  let scale := bs.getD (64 + i / 32) 0
  let x : Int := if a4 then nibble (bs.getD (i / 2) 0) (i % 2 = 1) else (bs.getD i 0).toInt
  ((scaledElem x scale).toF32 false).1

/-- Decode a vector of n elements from pecks. -/
def decodePecks (a4 : Bool) (bs : List Byte) (n : Nat) : List FpBits :=
  let per := if a4 then 128 else 64
  (List.range n).map (fun i => peckElem a4 ((bs.drop (72 * (i / per))).take 72) (i % per))

/-! ### The gate (R263, R264) -/

/-- The k largest finite logits, ties to the lower expert (R263). -/
def topExperts : Nat → List (Nat × FpBits) → List (Nat × FpBits)
  | 0, _ => []
  | k + 1, l =>
    match l.foldl (fun (b : Option (Nat × FpBits)) e =>
      match b with | none => some e | some x => if vLt x.2 e.2 then some e else b) none with
    | none => []
    | some b => b :: topExperts k (l.filter (fun e => e.1 ≠ b.1))

/-- The ranked, weighted choices of a row, and whether a logit was bad (R263, R264). Log entry 49 (DEDUCED). -/
def gateChoices (l : ExpertLayer) (z : List FpBits) : List (Nat × FpBits) × Bool :=
  let fixed := z.zipIdx.map (fun p =>
    if f32IsInf p.1 then (p.2, some (f32Max (f32Neg p.1)))
    else if f32IsNaN p.1 then (p.2, none) else (p.2, some p.1))
  let bad := z.any (fun v => !f32Finite v) || decide (z.countP f32Finite < l.k)
  -- fewer than k finite logits: only the finite ones are selected
  let cand := if z.countP f32Finite < l.k then
      (z.zipIdx.filter (fun p => f32Finite p.1)).map (fun p => (p.2, p.1))
    else fixed.filterMap (fun p => p.2.map (fun v => (p.1, v)))
  let sel := topExperts l.k cand
  let m := (sel.head?.map Prod.snd).getD 0
  let all := fixed.map (fun p => vExp (vSub (p.2.getD (f32Inf true)) m))
  let tops := sel.map (fun e => vExp (vSub e.2 m))
  let sig := sel.map (fun e => vRecip (vAdd 0x3F800000 (vExp (f32Negate e.2))))
  let base := match l.score with
    | 0 => let r := vSum all; sel.map (fun (e : Nat × FpBits) => vMul (vExp (vSub e.2 m)) (vRecip r))
    | 1 => let r := vSum tops; tops.map (fun t => vMul t (vRecip r))
    | 2 => sig
    | _ => let r := vSum sig; sig.map (fun t => vMul t (vRecip r))
  ((sel.map Prod.fst).zip (base.map (fun w => vMul w l.gamma)), bad)

/-! ### KV encoding (R287) -/

/-- One FP8 E4M3 element with stochastic rounding: the byte, and whether a special value or the limit was met. -/
def kvFp8 (v : FpBits) (r : Nat) : Byte × Bool :=
  let neg := f32Neg v
  let sg : Nat := if neg then 128 else 0
  if f32IsNaN v then (0, true)
  else if f32IsInf v then (BitVec.ofNat 8 (sg + 0x7E), true)
  else
    let d := f32Val v
    if d.m = 0 then (BitVec.ofNat 8 sg, false)
    else
      let e : Int := max (d.e + d.m.natAbs.log2) (-6)
      let q := (stochRound d.m (e - 3 - d.e) r).natAbs
      let mag : Int := (e + 6) * 8 + q
      if 0x7E < mag then (BitVec.ofNat 8 (sg + 0x7E), true) else (BitVec.ofNat 8 (sg + mag.toNat), false)

/-- The record of one position (R286, R287). -/
def kvRecord (l : KvLayer) (kv : Nat → Nat → Nat → FpBits) (draw : Nat → Nat → Nat) : List Byte × Bool :=
  if l.int4 then
    let enc := (List.range 2).map (fun w => (List.range l.heads).map (fun h =>
      (List.range (l.dim / 32)).map (fun g =>
        encodeGroup true ((List.range 32).map (fun i => kv w h (32 * g + i))) (draw (2 * h + w)) (32 * g))))
    let data := enc.flatMap (fun hs => hs.flatMap (fun gs =>
      let xs := gs.flatMap (fun g => g.1)
      (List.range (l.dim / 2)).map (fun i => BitVec.ofNat 8 ((xs.getD (2 * i) 0 % 16).toNat + 16 * (xs.getD (2 * i + 1) 0 % 16).toNat))))
    let scales := enc.flatMap (fun hs => hs.flatMap (fun gs => gs.map (fun (g : List Int × Byte × Bool) => g.2.1)))
    (data ++ scales, enc.any (fun hs => hs.any (fun gs => gs.any (fun g => g.2.2))))
  else
    let enc := (List.range 2).flatMap (fun w => (List.range l.heads).flatMap (fun h =>
      (List.range l.dim).map (fun i => kvFp8 (kv w h i) (draw (2 * h + w) i))))
    (enc.map Prod.fst, enc.any Prod.snd)

/-! ### VECTOR_OP -/

/-- The ranges of the core store that a vector operation reads. -/
def State.vecRanges (s : State) (core : Nat) : VecOp → List (Nat × Nat)
  | .elementwise f n x y z _ _ =>
    [(x.addr, fmtBytes x.fmt n)] ++ (if f = .convert then [] else [(y.addr, fmtBytes y.fmt n)]) ++
      (if f = .fma ∨ f = .select then [(z.addr, fmtBytes z.fmt n)] else [])
  | .special _ n x _ => [(x.addr, fmtBytes x.fmt n)]
  | .reduction _ n x _ => [(x.addr, fmtBytes x.fmt n)]
  | .encode _ n x _ _ _ _ _ => [(x.addr, fmtBytes x.fmt n)]
  | .decode a4 n p _ => [(p, 72 * ((n + (if a4 then 127 else 63)) / (if a4 then 128 else 64)))]
  | .gate layer _ logits =>
    match s.boot.image.experts.find? (fun l => some l.core = s.logicalOf core ∧ l.layer = layer) with
    | some l => [(logits, 4 * l.experts)]
    | none => []
  | .partSum n own shares tag _ _ _ _ => (own, 4 * n) :: (tag, 4) :: shares.map (fun a => (a, 72 * ((n + 63) / 64)))
  | .kvEncode loc _ kAddr vAddr _ =>
    match s.boot.image.kvLayers.find? (fun l => l.loc = loc) with
    | some l => [(kAddr, 4 * l.heads * l.dim), (vAddr, 4 * l.heads * l.dim)]
    | none => []

/-- VECTOR_OP (R158 and the rules of its scheduled kinds). -/
def execVectorOp (issue : Issue) (op : VecOp) (ecc : Upsets) (s : State) : Host.Outcome State Fault Refusal :=
  let core : Nat := issue.core
  if !s.runs issue .vector then .next s
  else
    let (s, begun) := s.beginOp issue (s.vecRanges core op) ecc
    match begun with
    | none => .next s
    | some b =>
      let rows := s.outRows issue
      let bad := s.untrustedUnit core 19
      let s := if bad then s.voidRows b.key (rows &&& ~~~ b.voided) else s
      match op with
      | .elementwise f n x y z outAddr outFmt =>
        let ys := (List.range n).map (fun k => ewApply f (s.vecElem core x k) (s.vecElem core y k) (s.vecElem core z k))
        .next ((s.storeBytes core outAddr (ys.flatMap (vecOutBytes outFmt))).finishUnit issue b rows 0 bad)
      | .special f n x outAddr =>
        .next ((s.storeF32 core outAddr ((s.vec core x n).map (spApply f))).finishUnit issue b rows 0 bad)
      | .reduction mx n x outAddr =>
        let v := s.vec core x n
        .next ((s.storeF32 core outAddr [if mx then vMaxOf v else vSum v]).finishUnit issue b rows 0 bad)
      | .encode a4 n x outAddr row rank layer unit =>
        let (seed, pos, slot, gen) := s.rowKey core issue.ins b.key row
        let bit : BitVec 32 := (1 : BitVec 32) <<< row.val
        let isVoid := decide (b.voided &&& bit ≠ 0)
        let (bs, flag) := encodePecks a4 (s.vec core x n) ⟨seed, pos, layer, unit, 0, 3, 0⟩ (tagWord slot gen pos (s.rowRank core issue.ins b.key row rank) isVoid)
        .next ((s.storeBytes core outAddr bs).finishUnit issue b bit (if flag then bit else 0) bad)
      | .decode a4 n p outAddr =>
        let per := if a4 then 128 else 64
        let bs := s.loadBytes core p (72 * ((n + per - 1) / per))
        .next ((s.storeF32 core outAddr (decodePecks a4 bs n)).finishUnit issue b rows 0 bad)
      | .gate layer row logits =>
        let bit : BitVec 32 := (1 : BitVec 32) <<< row.val
        match s.boot.image.experts.find? (fun l => some l.core = s.logicalOf core ∧ l.layer = layer) with
        | none => .next (s.finishUnit issue b bit 0 bad)
        | some l =>
          let (list, flag) := gateChoices l (s.loadF32 core logits l.experts)
          let s := s.raiseIfAt (coreI core) DSP_FLAG_BAD_LOGIT flag
          let s := { s with routing := { s.routing with
            choices := (⟨core, layer, issue.inst, row, list, flag⟩ : RowChoice) :: s.routing.choices.filter (fun c =>
              !(c.core == core && c.layer == layer && c.row == row.val)) } }
          .next (s.finishUnit issue b bit (if flag then bit else 0) bad)
      | .partSum n own shares peckTag outAddr row layer unit =>
        let (seed, pos, _, _) := s.rowKey core issue.ins b.key row
        let bit : BitVec 32 := (1 : BitVec 32) <<< row.val
        let sum := shares.foldl (fun (acc : List FpBits) a =>
          (acc.zip (decodePecks false (s.loadBytes core a (72 * ((n + 63) / 64))) n)).map (fun p => vAdd p.1 p.2))
          (s.loadF32 core own n)
        let tag := BitVec.ofNat 32 (leNat (s.loadBytes core peckTag 4))
        let isVoid := decide (b.voided &&& bit ≠ 0)
        let tag := if isVoid then tag ||| 1 else tag
        let (bs, flag) := encodePecks false sum ⟨seed, pos, layer, unit, 0, 3, 0⟩ tag
        -- a void share makes the returned row a void stub: one peck with a zero payload (R276, R505)
        let bs := if isVoid then List.replicate 68 0 ++ leBytes 4 tag.toNat else bs
        .next ((s.storeBytes core outAddr bs).finishUnit issue b bit (if flag then bit else 0) bad)
      | .kvEncode loc row kAddr vAddr outAddr =>
        let bit : BitVec 32 := (1 : BitVec 32) <<< row.val
        match s.boot.image.kvLayers.find? (fun l => l.loc = loc) with
        | none => .next (s.finishUnit issue b bit 0 bad)
        | some l =>
          let (seed, pos, _, _) := s.rowKey core issue.ins b.key row
          let (bs, flag) := kvRecord l
            (fun w h i => BitVec.ofNat 32 (leNat (s.loadBytes core ((if w = 0 then kAddr else vAddr) + 4 * (h * l.dim + i)) 4)))
            (fun unit i => (⟨seed, pos, l.layer, unit, 0, 4, 0⟩ : Stream).draw i)
          let s := if flag then (s.addAt (coreI core) ATT_KV_BAD_COUNT 1).putAt (coreI core) ATT_FLAG_KV_BAD 1 else s
          .next ((s.storeBytes core outAddr bs).finishUnit issue b bit (if flag then bit else 0) bad)

/-! ### Scrub and restore (R160, R162) -/

/-- CORE_STORE_SCRUB: the scrub reads the next word; `upset` is what its check bits find, if anything: true for an
uncorrectable error. -/
def execCoreStoreScrub (core : CoreId) (upset : Option Bool) (s : State) : Host.Outcome State Fault Refusal :=
  .next (if s.domainOff core then s
    else
      let w := SMap.get (fun _ => 0) s.mem.scrubAt core
      let s := { s with mem := { s.mem with scrubAt := SMap.set (fun _ => 0) s.mem.scrubAt core ((w + 1) % 98304) } }
      match upset with
      | none => s
      | some false => s.csCorrected core
      | some true => s.csUncorrectable core (8 * w) false)

/-- LINE_RESTORE: a poisoned static line is copied back from the restore area in unassigned cycles (R160, R162). A stack that is
out of service gives nothing back (R170). Log entry 31 (DESIGN CHOICE). -/
def execLineRestore (core : CoreId) (line : Nat) (s : State) : Host.Outcome State Fault Refusal :=
  let k := storeKey core 0 / 64 + line
  let from_ := (List.range 64).filterMap (fun j => (s.copyAddr core (64 * line + j)).map (fun a => (64 * line + j, a)))
  let st := ((from_.head?).map (fun e => stackOf e.2)).getD 0
  .next (if k ∈ s.mem.poison ∧ !s.domainOff core ∧ (from_ = [] ∨ s.isSetAt (stkI st) STK_STAT_IN_SERVICE) then
      let s := (from_.foldl (fun s e => s.storeBytes core e.1 (s.stackRead e.2 1)) s).countLines st (if from_ = [] then 0 else 1)
      let s := s.addAt (coreI core) CS_RESTORE_CNT_COUNT 1
      { s with mem := { s.mem with poison := s.mem.poison.filter (· ≠ k) } }
    else s)

end Sys2Proof.Machine
end

