-- ==== Sys2Proof/Machine/Stacks.lean ====
section
/-! DEFINITION. Stack windows (R166 to R170), a stack going out of service (R170), page walks (R171 to R174), the service
of page exceptions and the return of frames (R291, R292). -/
namespace Sys2Proof.Machine

/-- Retries of a window, with those that point 0x0C forces. -/
def State.windowRetries (s : State) (st retries : Nat) : State :=
  let (s, inj) := s.tryInject 0x0C 0 st
  s.addAt (stkI st) STK_RETRY_CNT_COUNT (retries + inj.getD 0)

/-- STACK_READ: a window delivers lines into the core store (R166, R168, R170). Log entry 44 (DEDUCED). -/
def execStackRead (issue : Issue) (addr lines dst : Nat) (ecc : Upsets) (retries : Nat) (late : Bool) (s : State) :
    Host.Outcome State Fault Refusal :=
  let core : Nat := issue.core
  if !s.runs issue (.stack (stackOf addr)) then .next s
  else
    let (s, begun) := s.beginOp issue [] []
    match begun with
    | none => .next s
    | some b =>
      let st := stackOf addr
      let rows := s.outRows issue
      let void := fun (s : State) => (s.voidRows b.key (rows &&& ~~~ b.voided)).finishOp issue b rows 0 true
      if s.windowRefused core addr lines then
        .next (void (s.addAt (stkI st) STK_REFUSE_CNT_COUNT 1))
      else
        let s := (s.windowRetries st retries).countLines st lines
        if !s.isSetAt (stkI st) STK_STAT_IN_SERVICE then
          .next (void (s.darkLines addr lines))
        else
          let (s, lost) := s.stackErrors addr ecc
          let s := s.storeBytes core dst (s.stackRead addr (64 * lines))
          .next (if lost then void s
            else if late then (s.lateRows b.key (rows &&& ~~~ b.voided)).finishOp issue b rows 0 true
            else s.finishOp issue b rows 0 false)

/-- STACK_WRITE: a window sends lines to a stack (R166, R169). Log entry 44 (DEDUCED). -/
def execStackWrite (issue : Issue) (src lines addr : Nat) (ecc : Upsets) (s : State) : Host.Outcome State Fault Refusal :=
  let core : Nat := issue.core
  if !s.runs issue (.stack (stackOf addr)) then .next s
  else
    let (s, begun) := s.beginOp issue [(src, 64 * lines)] ecc
    match begun with
    | none => .next s
    | some b =>
      let st := stackOf addr
      let rows := s.outRows issue
      if s.windowRefused core addr lines then
        .next (((s.addAt (stkI st) STK_REFUSE_CNT_COUNT 1).voidRows b.key (rows &&& ~~~ b.voided)).finishOp issue b rows 0 true)
      else
        .next (((s.countLines st lines).stackWrite addr (s.loadBytes core src (64 * lines))).finishOp issue b rows 0 false)

/-- STACK_OUT_OF_SERVICE: a failed link, or uncorrectable lines in 8 consecutive furlongs (R170); admission runs again. -/
def execStackOutOfService (stack : StackId) (linkFailed : Bool) (s : State) : Host.Outcome State Fault Refusal :=
  let i := stkI stack
  .next (if s.isSetAt i STK_STAT_IN_SERVICE ∧ (linkFailed ∨ 8 ≤ SMap.get (fun _ => 0) s.mem.ueRun stack) then
      let s := s.putAt i STK_STAT_IN_SERVICE 0
      (if linkFailed then s.putAt i STK_STAT_LINK_UP 0 else s).reAdmit
    else s)

/-- PAGE_WALK: a slot, a local layer and a position become a KV address, or the position is void (R171 to R174). -/
def execPageWalk (issue : Issue) (slot loc pos : Nat) (row : Fin 32) (eccDir eccLeaf : Upsets) (s : State) : Host.Outcome State Fault Refusal :=
  let core : Nat := issue.core
  if !s.runs issue .pageWalk then .next s
  else
    let (s, begun) := s.beginOp issue [] []
    match begun with
    | none => .next s
    | some b =>
      let bit : BitVec 32 := (1 : BitVec 32) <<< row.val
      let (s, w) := s.walk core slot loc pos eccDir eccLeaf
      .next (match w with
        | .found _ => s.finishOp issue b bit 0 false
        | _ => (s.voidRows b.key (bit &&& ~~~ b.voided)).finishOp issue b bit 0 true)

/-- PAGE_EXCEPTION_SERVICE: the control core maps the absent page, or rewrites the stale entry with the current
generation (R291). The oldest exception is served. -/
def execPageExceptionService (s : State) : Host.Outcome State Fault Refusal :=
  match s.mem.excs with
  | [] => .next s
  | e :: rest =>
    let s := { s with mem := { s.mem with excs := rest } }
    match s.boot.image.kvLayers.find? (fun l => l.loc = e.layer) with
    | none => .next s
    | some l =>
      let r := s.req e.slot
      if !r.state.live ∨ r.gen ≠ e.gen ∨ (r.p + r.nMax + 8 + 255) / 256 ≤ e.page then .next s
      else
        match s.mem.pages.find? (fun p => p.1 = e.slot ∧ p.2.1 = e.layer ∧ p.2.2.1 = e.page) with
        | none => .next (s.mapPage e.slot l e.page)
        | some p =>
          let dirA := r.ptBase * 256 + 8 * (32 * e.layer + e.page / 256)
          let leaf := s.entryAt dirA % 2 ^ 29 * 2048 + 8 * (e.page % 256)
          .next (s.stackWrite leaf (leBytes 8 (2 ^ 63 + r.gen % 128 * 2 ^ 29 + p.2.2.2 / 4096 % 2 ^ 28)))

/-- PAGE_FRAME_RELEASE: at the second furlong boundary after its end a request's frames return to the pool (R292). -/
def execPageFrameRelease (slot : Nat) (s : State) : Host.Outcome State Fault Refusal :=
  match s.mem.returning.find? (fun e => e.2.1 = slot ∧ !rodAfter s.tb.rod e.1) with
  | none => .next s
  | some e =>
    let s := { s with mem := { s.mem with returning := s.mem.returning.erase e } }
    .next (s.releasePages slot e.2.2.2)

end Sys2Proof.Machine
end

