-- ==== Sys2Proof/Machine/Attention.lean ====
section
/-! DEFINITION. Attention (R294 to R310): spans and folds, the assignment of lanes, held requests, rings. -/
namespace Sys2Proof.Machine

def State.kvLayer (s : State) (loc : Nat) : Option KvLayer := s.boot.image.kvLayers.find? (fun l => l.loc = loc)

/-- Spans that a query at position x needs (R294). -/
def KvLayer.spans (l : KvLayer) (x : Nat) : Nat := (x + 64 * l.span) / (64 * l.span)

/-! ### Span evaluation (R297) -/

/-- A K or V element of the i-th record of a run of bytes (R286, R288): its real value, and whether it is a special value that R156
replaces. -/
def KvLayer.elem (l : KvLayer) (get : Nat → Byte) (i : Nat) (v : Bool) (h e : Nat) : Dy × Bool :=
  let base := i * l.bytes
  let w := if v then 1 else 0
  if l.int4 then
    let data := base + w * (l.heads * l.dim / 2) + h * (l.dim / 2)
    let scale := get (base + l.heads * l.dim + w * (l.heads * l.dim / 32) + h * (l.dim / 32) + e / 32)
    (scaledElem (nibble (get (data + e / 2)) (e % 2 = 1)) scale, decide (scale = 0xFF))
  else
    let b := get (base + w * (l.heads * l.dim) + h * l.dim + e)
    if e4m3IsNaN b then (Dy.zero, true) else (e4m3Val b, false)

/-- The same in the span that a lane core has staged. -/
def State.kvElem (s : State) (core : Nat) (l : KvLayer) (kvAddr i : Nat) (v : Bool) (h e : Nat) : Dy × Bool :=
  l.elem (fun k => (s.loadBytes core (kvAddr + k) 1).headD 0) i v h e

/-- A sum of exact products over `n` inner steps by the matrix unit's rounding (R156), in chunks of 32, and whether it was
limited. -/
def chunkDot (n : Nat) (f g : Nat → Dy) : FpBits × Bool :=
  (List.range ((n + 31) / 32)).foldl (fun (acc : FpBits × Bool) c =>
    let p := (List.range (min 32 (n - 32 * c))).foldl (fun (d : Dy) t => d.add ((f (32 * c + t)).mul (g (32 * c + t)))) Dy.zero
    let r := ((f32Val acc.1).add p).toF32 (f32Neg acc.1)
    (r.1, acc.2 || r.2)) (0, false)

/-- A score is a NaN (R297). The matrix unit replaces special operands and limits its results, so it forms none. -/
def scoreNaN (v : FpBits) : Bool := f32IsNaN v

/-- What one query head gives against one span: m, l and o, whether the matrix unit limited a result or replaced an
operand, and whether a score was a NaN. -/
structure SpanOut where
  out : FpBits × FpBits × List FpBits
  ovf : Bool
  bad : Bool
  nan : Bool

/-- One query head of a query at position x against n positions from `base` on (R297). -/
def KvLayer.attend (l : KvLayer) (n base x : Nat) (q : Nat → Dy × Bool) (kv : Nat → Bool → Nat → Dy × Bool) : SpanOut :=
  let raw := (List.range n).map (fun i =>
    if x < base + i then (f32Inf true, false) else chunkDot l.dim (fun e => (q e).1) (fun e => (kv i false e).1))
  let nan := raw.any (fun r => scoreNaN r.1)
  let scores := raw.map (fun r => if scoreNaN r.1 then f32Inf true else r.1)
  let seen := (List.range n).filter (fun i => base + i ≤ x)
  let bad := (List.range l.dim).any (fun e => (q e).2 || seen.any (fun i => (kv i false e).2 || (kv i true e).2))
  let m := vMaxOf scores
  if scores.all (fun v => v = f32Inf true) then ⟨(f32Inf true, 0, (List.range l.dim).map (fun _ => 0)), raw.any Prod.snd, bad, nan⟩
  else
    let p := scores.map (fun v => if v = f32Inf true then (0 : FpBits) else vExp2 (vSub v m))
    let pr := p.map (fun v => if l.bf16Att then f32Val (bf16ToF32 (vToBf16 v)) else e4m3Val (toE4m3 v))
    let o := (List.range l.dim).map (fun e => chunkDot n (fun i => pr.getD i Dy.zero) (fun i => (kv i true e).1))
    ⟨(m, vSum p, o.map Prod.fst), raw.any Prod.snd || o.any Prod.snd, bad, nan⟩

/-- One query head against one span (R297). -/
def State.spanHead (s : State) (core : Nat) (l : KvLayer) (qAddr kvAddr h span x : Nat) : SpanOut :=
  l.attend (64 * l.span) (64 * l.span * span) x (fun e => s.elem core (if l.bf16Att then .bf16 else .e4m3) qAddr e)
    (fun i v e => s.kvElem core l kvAddr i v h e)

/-- The lowest span of a row and head that is not evaluated yet (R300). -/
def State.spanNext (s : State) (l : KvLayer) (slot pos head : Nat) : Nat :=
  let gen := (s.req slot).gen
  let done := fun (n : Nat) =>
    s.att.partials.any (fun p => decide (p.slot = slot ∧ p.gen = gen ∧ p.pos = pos ∧ p.layer = l.loc ∧ p.head = head ∧ p.span = n)) ||
    s.att.folds.any (fun f => decide (f.slot = slot ∧ f.gen = gen ∧ f.pos = pos ∧ f.layer = l.loc ∧ f.head = head ∧ n < f.next))
  ((List.range (l.spans pos)).find? (fun n => !done n)).getD (l.spans pos)

/-- The lanes of a layer have a span slot for a span of a request in this furlong (R300): a pipelined request's spans lie in its
slots, lane by lane; a held one's are its lowest not yet evaluated, on any lane. -/
def State.spanGiven (s : State) (l : KvLayer) (lane slot span pos head : Nat) : Bool :=
  s.att.grants.any (fun g => g.layer == l.loc && g.slot == slot &&
    (if g.held then decide (span < s.spanNext l slot pos head + g.slots)
     else decide (span < g.slots) && decide ((g.first + span) / max l.kp 1 = lane)))

/-- SPAN_SLOT: a lane core evaluates one span of one row, for each of its heads, and sends the partials to the merge
cores (R297, R299); a span slot that the furlong's assignment does not give the request stays idle (R300). -/
def execSpanSlot (issue : Issue) (loc lane slot span pos : Nat) (row : Fin 32) (qAddr kvAddr : Nat) (late : Bool)
    (ecc : Upsets) (residueUpset : Bool) (s : State) : Host.Outcome State Fault Refusal :=
  let core : Nat := issue.core
  match s.kvLayer loc with
  | none => .next s
  | some l =>
    let first := ((l.lanes.find? (fun e => e.1 = lane ∧ some e.2.1 = s.logicalOf core)).map (fun e => e.2.2)).getD 0
    if !s.runs issue .matrix ∨ !s.spanGiven l lane slot span pos first then .next s
    else
    let n := 64 * l.span
    let hs := l.heads / max l.width 1
    let qBytes := (if l.bf16Att then 2 else 1) * l.dim
    let (s, begun) := s.beginOp issue [(qAddr, hs * l.group * qBytes), (kvAddr, n * l.bytes)] ecc
    match begun with
    | none => .next s
    | some b =>
      let bit : BitVec 32 := (1 : BitVec 32) <<< row.val
      let (s, inj) := s.tryInject 0x03 core 0
      let wrong := residueUpset || inj.isSome
      let s := if wrong then s.mxuResidue core b.key (bit &&& ~~~ b.voided) inj.isSome else s
      let distrusted := s.untrustedUnit core 8
      let isVoid := late || wrong || b.bad || distrusted || decide (b.voided &&& bit ≠ 0)
      let gen := (s.req slot).gen
      let outs := (List.range hs).map (fun k => (List.range l.group).map (fun j =>
        s.spanHead core l (qAddr + (k * l.group + j) * qBytes) kvAddr (first + k) span pos))
      let flag := outs.any (fun h => h.any (fun o => o.ovf || o.bad || o.nan)) || decide (b.flagged &&& bit ≠ 0)
      let s := s.raiseIfAt (coreI core) MXU_FLAG_OVF (outs.any (fun h => h.any SpanOut.ovf))
      let s := s.raiseIfAt (coreI core) MXU_FLAG_BAD_IN (outs.any (fun h => h.any SpanOut.bad))
      let s := s.raiseIfAt (coreI core) ATT_FLAG_SCORE_NAN (outs.any (fun h => h.any SpanOut.nan))
      let parts := outs.zipIdx.map (fun e =>
        (⟨slot, gen, pos, loc, first + e.2, span, isVoid, flag, e.1.map SpanOut.out⟩ : Partial))
      let s := s.addAt (coreI core) ATT_SPAN_CNT_COUNT 1
      let s := { s with att := { s.att with partials := s.att.partials ++ parts } }
      let s := if isVoid ∧ b.voided &&& bit = 0 ∧ !wrong ∧ !b.bad then (if late then s.lateRows b.key bit else s.voidRows b.key bit) else s
      .next (s.finishOp issue b bit (if flag then bit else 0) isVoid)

/-! ### The fold (R298) -/

/-- Fold one partial of one query head. -/
def foldHead (a p : FpBits × FpBits × List FpBits) : FpBits × FpBits × List FpBits :=
  let m := vMax a.1 p.1
  let x := if a.1 = f32Inf true then 0 else vExp2 (vSub a.1 m)
  let y := if p.1 = f32Inf true then 0 else vExp2 (vSub p.1 m)
  (m, vFma a.2.1 x (vMul p.2.1 y), (a.2.2.zip p.2.2).map (fun e => vFma e.1 x (vMul e.2 y)))

/-- Fold the partials that are present in ascending span number: the fold, the number folded, and whether one was void. -/
def foldFrom : Nat → List Partial → Fold → Fold × Nat × Bool
  | 0, _, f => (f, 0, false)
  | n + 1, ps, f =>
    match ps.find? (fun p => p.span = f.next) with
    | none => (f, 0, false)
    | some p =>
      if p.isVoid then (f, 0, true)
      else
        let (g, k, v) := foldFrom n ps { f with next := f.next + 1, flag := f.flag || p.flag, heads := (f.heads.zip p.heads).map (fun e => foldHead e.1 e.2) }
        (g, k + 1, v)

/-- SPAN_MERGE: the merge core folds the partials in ascending span order; after the last it scales the output. A void
or missing partial voids the row, except that the fold of a held request waits (R298, R299, R301). -/
def execSpanMerge (issue : Issue) (loc slot head pos : Nat) (row : Fin 32) (outAddr : Nat) (s : State) :
    Host.Outcome State Fault Refusal :=
  let core : Nat := issue.core
  if !s.runs issue .vector then .next s
  else match s.kvLayer loc with
  | none => .next s
  | some l =>
    let gen := (s.req slot).gen
    let mine := fun (p : Partial) => p.slot == slot && p.gen == gen && p.pos == pos && p.layer == loc && p.head == head
    let same := fun (f : Fold) => f.slot == slot && f.gen == gen && f.pos == pos && f.layer == loc && f.head == head
    let start : Fold := ⟨slot, gen, pos, loc, head, 0, false, (List.range l.group).map (fun _ => (f32Inf true, 0, (List.range l.dim).map (fun _ => 0)))⟩
    let f := (s.att.folds.find? same).getD start
    let (f, n, isVoid) := foldFrom (l.spans pos) (s.att.partials.filter mine) f
    let s := s.addAt (coreI core) ATT_FOLD_CNT_COUNT n
    let s := { s with att := { s.att with
      folds := s.att.folds.filter (fun x => !same x)
      partials := s.att.partials.filter (fun p => !(mine p && decide (p.span < f.next))) } }
    let bit : BitVec 32 := (1 : BitVec 32) <<< row.val
    let held := s.att.held.any (fun h => h.slot == slot && h.gen == gen && h.layer == loc)
    let key := (s.rqt.bushels.find? (fun b => (b.rows[row.val]?).any (fun r => r.slot == slot && r.gen == gen))).map Bushel.key
    if f.next = l.spans pos ∧ !isVoid then
      let ys := f.heads.map (fun h => if h.2.1 = 0 ∨ h.2.1 = 0x80000000 then (h.2.2.map (fun _ => (0 : BitVec 16)), true)
        else let r := vRecip h.2.1; (h.2.2.map (fun o => vToBf16 (vMul o r)), false))
      let s := s.storeBytes core outAddr (ys.flatMap (fun y => y.1.flatMap (fun v => leBytes 2 v.toNat)))
      let s := { s with att := { s.att with held := s.att.held.map (fun (h : HeldReq) =>
        if h.slot == slot && h.gen == gen && h.layer == loc then { h with merged := (pos, head) :: h.merged } else h) } }
      .next (s.produce issue bit 0 (if ys.any Prod.snd ∨ f.flag then bit else 0))
    else if held ∧ !isVoid then .next { s with att := { s.att with folds := f :: s.att.folds } }
    else
      let r := s.req slot
      let s := match key with
        | some _ => if isVoid then s.voidRows key bit else s.lateRows key bit
        | none => ((s.add TB_VOID_CNT_COUNT 1).setReq slot r.fallBack).dropFold slot gen
      .next (s.produce issue bit bit 0)

/-! ### Assigning lanes (R300, R301) -/

/-- The row takes part in a layer's step of its bushel. -/
def Bushel.inStep (b : Bushel) (loc : Nat) (e : BushelRow × Nat) : Bool :=
  (!b.entered || e.1.filled) && e.1.present (2 * loc) && !b.lanePaused.getLsbD e.2

/-- The requests with rows in a layer's step of a bushel, in order of their first row. -/
def Bushel.requests (b : Bushel) (loc : Nat) : List Nat :=
  ((b.rows.zipIdx.filter (b.inStep loc)).map (fun e => e.1.slot)).eraseDups

/-- The rows of a request in a layer's step of a bushel. -/
def Bushel.rowsOf (b : Bushel) (loc slot : Nat) : BitVec 32 :=
  b.rows.zipIdx.foldl (fun m e => if e.1.slot = slot ∧ b.inStep loc e then m ||| ((1 : BitVec 32) <<< e.2) else m) 0

/-- The descriptor of a bushel instance sets the expected rows of the tokens that the image ties to its bushel slot (R193, R331).
Log entry 47 (DEDUCED). -/
def State.bindBushel (s : State) (b : Bushel) : State :=
  let per := max (((s.variant? s.sched.var).map Variant.period).getD 1) 1
  let mile := b.start / 320
  let tied := s.boot.image.buffers.filter (fun x => x.tied = some (b.slot, mile % per))
  tied.foldl (fun s x => match s.physOf x.core with
    | none => s
    | some p => s.setToken p x.token ((s.token p x.token).bind (mile / per % 256) (b.expectedAt x.stage) b.key)) s

/-- A held request's rows after the layer's step run the projections and leave the bushel (R301); a paused one's are empty
(R332). -/
def State.markBushel (s : State) (key loc slot : Nat) (held : Bool) : State :=
  { s with rqt := { s.rqt with bushels := s.rqt.bushels.map (fun (b : Bushel) =>
      if b.key = key then
        let m := b.rowsOf loc slot
        (if held then { b with
            heldRows := b.heldRows ||| m
            rows := b.rows.mapIdx (fun i (w : BushelRow) => if m.getLsbD i then { w with last := some (2 * loc) } else w) }
         else { b with lanePaused := b.lanePaused ||| m })
      else b) } }

/-- The rows that a request held out of an instance goes on with are those that its entry issue fills (R301, R332). -/
def State.syncHeld (s : State) (b : Bushel) : State :=
  { s with att := { s.att with held := s.att.held.map (fun (h : HeldReq) =>
      if h.key = b.key then { h with rows := b.rows.filter (fun w => decide (w.slot = h.slot ∧ w.gen = h.gen) && w.filled) } else h) } }

/-- The rod in which a bushel instance has its step of a layer, and its cycle in the mile (R300). -/
def State.stepRod (s : State) (l : KvLayer) (b : Bushel) : Nat × Nat :=
  let c := (((s.variant? s.sched.var).map Variant.bushels).getD []).getD b.slot 0 + l.stepAt
  ((b.start / 320 * 320 + c / 2700) % rodP, c)

/-- The keys of the instances with a step of a layer in the coming furlong, in order of the steps. -/
def State.stepsOf (s : State) (l : KvLayer) : List Nat :=
  ((s.rqt.bushels.filter (fun b => decide (rodsSince s.tb.rod (s.stepRod l b).1 < 40))).mergeSort (fun a b =>
    decide (rodsSince s.tb.rod (s.stepRod l a).1 * 2700 + (s.stepRod l a).2 % 2700 ≤
      rodsSince s.tb.rod (s.stepRod l b).1 * 2700 + (s.stepRod l b).2 % 2700))).map Bushel.key

/-- Class one request at one layer's step (R300); `free` is what is left of the pipelined span slots. -/
def State.classReq (s : State) (l : KvLayer) (b : Bushel) (slot free : Nat) : State × Nat :=
  let r := s.req slot
  let need := l.spans (r.lT + 8)
  if need ≤ 16 * l.kp ∧ need ≤ free then
    ({ s with att := { s.att with grants := s.att.grants ++ [(⟨l.loc, slot, false, need, l.nLanes * l.kp - free⟩ : LaneGrant)] } }, free - need)
  else if s.att.held.countP (fun h => h.layer == l.loc) < l.hMax then
    let h : HeldReq := ⟨slot, r.gen, l.loc, b.key, (b.rows.zipIdx.filter (fun e => e.1.slot = slot ∧ b.inStep l.loc e)).map Prod.fst, []⟩
    (({ s with att := { s.att with held := s.att.held ++ [h] } }).markBushel b.key l.loc slot true, free)
  else
    (({ s with att := { s.att with paused := s.att.paused ++ [(l.loc, slot)] } }).markBushel b.key l.loc slot false, free)

/-- Every row and head of a held request is folded (R301). -/
def HeldReq.done (h : HeldReq) (l : KvLayer) : Bool :=
  h.rows.all (fun w => (List.range l.heads).all (fun k => h.merged.contains (w.pos, k)))

/-- Give the spare span slots of a step to the held requests of its layer, by priority, then slot (R300). -/
def State.grantHeld (s : State) (l : KvLayer) (spare : Nat) : State :=
  let hs := (s.att.held.filter (fun h => h.layer == l.loc && !h.done l)).mergeSort (fun a b =>
    let pa := (s.req a.slot).prio
    let pb := (s.req b.slot).prio
    decide (pb < pa) || (pa == pb && decide (a.slot ≤ b.slot)))
  (hs.foldl (fun (p : State × Nat) h =>
    let n := min p.2 (16 * l.kh)
    ({ p.1 with att := { p.1.att with grants := p.1.att.grants ++ [(⟨l.loc, h.slot, true, n, 0⟩ : LaneGrant)] } }, p.2 - n)) (s, spare)).1

/-- The assignment of one layer for one bushel step. -/
def State.assignStep (s : State) (l : KvLayer) (key : Nat) : State :=
  match s.rqt.bushels.find? (fun b => b.key = key) with
  | none => s
  | some b0 =>
    let (s, free) := (b0.requests l.loc).foldl (fun (p : State × Nat) q =>
      match p.1.rqt.bushels.find? (fun b => b.key = key) with
      | none => p
      | some b => p.1.classReq l b q p.2) (s, l.nLanes * l.kp)
    s.grantHeld l (l.nLanes * l.kh + free)

/-- ATT_HELD of every core of a layer (R312). -/
def State.showHeld (s : State) : State :=
  s.boot.image.kvLayers.foldl (fun s l =>
    let cores := (l.lanes.map (fun e => e.2.1)) ++ l.merge.map Prod.snd
    cores.foldl (fun s c => match s.physOf c with
      | none => s
      | some p => (s.putAt (coreI p) ATT_HELD_PAUSED (s.att.paused.countP (fun x => x.1 == l.loc))).putAt (coreI p) ATT_HELD_HELD
          (s.att.held.countP (fun h => h.layer == l.loc))) s) s

/-- Rows of a held request whose fold is complete go into empty rows of the earliest step of the layer in the coming furlong that
has enough (R301): they join at the output projection, and the request is classed again at its later layers. Log entry 47
(DEDUCED). -/
def State.rejoin (s : State) (l : KvLayer) : State :=
  (s.att.held.filter (fun h => h.layer == l.loc && h.done l)).foldl (fun s h =>
    match (s.stepsOf l).find? (fun k => s.rqt.bushels.any (fun b => decide (b.key = k ∧ b.rows.length + h.rows.length ≤ 32))) with
    | none => s
    | some k => { s with
        att := { s.att with held := s.att.held.filter (fun x => x ≠ h) }
        rqt := { s.rqt with bushels := s.rqt.bushels.map (fun (x : Bushel) =>
          if x.key = k then { x with rows := x.rows ++ h.rows.map (fun w => { w with first := 2 * l.loc + 1, last := none }) } else x) } }) s

/-- The positions of a ring request fill empty rows of its owner's steps of the layer: up to the projections, then from the output
projection on (R307). The last position's row goes on to the exit in the last layer. -/
def State.ringRows (s : State) (x : RingRun) : State :=
  match (s.boot.image.ringDecls[x.ring]?).bind (fun d => (d.layers[x.layer]?).map (fun l => (d, l))) with
  | none => s
  | some (d, rl) =>
    if rl.owner ≠ s.self ∨ x.voided then s
    else
      let r := s.req x.slot
      let st := 2 * rl.geo.loc + (if x.phase = .projection then 0 else 1)
      let back := decide (x.phase = .return) && decide (x.layer + 1 = d.layers.length)
      if x.phase = .circulation then s
      else
        let (s, n) := (s.stepsOf rl.geo).foldl (fun (p : State × Nat) k =>
          match p.1.rqt.bushels.find? (fun b => b.key = k) with
          | none => p
          | some b =>
            let m := min (32 - b.rows.length) (r.p - p.2)
            let rows := (List.range m).map (fun i =>
              let pos := p.2 + i
              (⟨x.slot, x.gen, pos, i, true, r.prompt.getD pos 0, true, pos, st, if back ∧ pos + 1 = r.p then none else some st⟩ : BushelRow))
            ({ p.1 with rqt := { p.1.rqt with bushels := p.1.rqt.bushels.map (fun (y : Bushel) =>
                if y.key = k then { y with rows := y.rows ++ rows } else y) } }, p.2 + m)) (s, x.placed)
        { s with att := { s.att with rings := s.att.rings.map (fun (y : RingRun) => if y.ring = x.ring then { y with placed := n } else y) } }

/-- A request paused at this boundary has no row in the instances formed for the coming furlong either (R301). -/
def State.pauseNew (s : State) (newKeys : List Nat) : State :=
  s.att.paused.foldl (fun s p => newKeys.foldl (fun s k => s.markBushel k 0 p.2 false) s) s

/-- The lane hardware's work at a furlong boundary, for the steps of the coming furlong (R300, R301). -/
def State.assignLanes (s : State) (newKeys : List Nat) : State :=
  let s := { s with att := { s.att with paused := [], grants := [] } }
  let old := s.rqt.bushels
  let s := s.boot.image.kvLayers.foldl State.rejoin s
  let s := s.boot.image.kvLayers.foldl (fun s l => (s.stepsOf l).foldl (fun s k => s.assignStep l k) s) s
  let s := s.pauseNew newKeys
  let s := s.att.rings.foldl State.ringRows s
  ((s.rqt.bushels.filter (fun b => !old.contains b)).foldl State.bindBushel s).showHeld

/-! ### Rings (R305 to R310) -/

def State.ringDecl (s : State) (k : Nat) : Option Ring := s.boot.image.ringDecls[k]?

/-- Miles of a ring step (R308). -/
def Ring.stepMiles (r : Ring) (chunks : Nat) : Nat :=
  let q := (chunks + r.members.length - 1) / max r.members.length 1
  max 1 (q * q) * r.pair

/-- RING_REQUEST_START: a waiting long request takes the free ring of its region, and its ADMIT is sent (R306). -/
def execRingRequestStart (slot ring : Nat) (s : State) : Host.Outcome State Fault Refusal :=
  let r := s.req slot
  match s.ringDecl ring with
  | none => .next s
  | some d =>
    if r.state = .intake ∧ r.ring ∧ r.admitAt = none ∧ d.region = r.region ∧ !s.att.rings.any (fun x => x.ring == ring) then
      let at_ := furlongAfter s.tb.rod 2
      let run : RingRun := ⟨ring, slot, r.gen, (r.p + 4095) / 4096, 0, .projection, 0, s.mileNow, false, 0, 0, [], []⟩
      let s := { s with att := { s.att with rings := s.att.rings ++ [run] } }
      .next ((s.setReq slot { r with admitAt := some at_ }).sendUpdate ⟨.admitSlot, at_, slot, r.gen, 0⟩)
    else .next s

/-- The member number that this module has in a ring: its own, or that of a member whose role it has taken over (R310); one beyond
the last where it is no member. -/
def State.ringMember (s : State) (d : Ring) : Nat :=
  d.members.findIdx (fun m => some m == s.roleOf s.self)

/-- The query chunks of a member, and the ring blocks that it holds in step t (R308). -/
def ringChunks (chunks n m : Nat) : List Nat := (List.range chunks).filter (fun c => c % n = m)
def ringBlocks (n m t c : Nat) : List Nat := (List.range (c + 1)).filter (fun b => b % n = (m + n - t % n) % n)

/-- The pairs that a member evaluates in step t (R308). -/
def ringPairs (chunks members m t : Nat) : Nat := ((ringChunks chunks members m).map (fun c => (ringBlocks members m t c).length)).sum

def State.setRing (s : State) (x : RingRun) : State :=
  { s with att := { s.att with rings := s.att.rings.map (fun (y : RingRun) => if y.ring = x.ring then x else y) } }

/-- A void line, a late block or a void pair partial voids the layer's ring phase (R310). -/
def State.ringVoid (s : State) (d : Ring) (x : RingRun) : State :=
  let s := d.ringCores.foldl (fun s c => match s.physOf c with
    | some p => s.putAt (coreI p) ATT_FLAG_RING_VOID 1
    | none => s) s
  let r := s.req x.slot
  let s := s.setReq x.slot { r with voids := r.voids + 1, voidrun := min 5 (r.voidrun + 1) }
  let s := s.setRing { x with voided := true, voids := x.voids + 1 }
  if 4 < x.voids + 1 then
    ({ s with att := { s.att with rings := s.att.rings.filter (fun y => y.ring ≠ x.ring) } }).drain x.slot 0x20
  else s

/-! ### Ring traffic (R309) -/

/-- The unit header of a data unit, in the 8 bytes after its line. Log entry 62 (DESIGN CHOICE). -/
def ringHeader (utype slot gen layer chunk line : Nat) (isVoid : Bool) : Nat :=
  utype % 4 * 2 ^ 62 + slot % 8192 * 2 ^ 49 + gen % 128 * 2 ^ 42 + layer % 1024 * 2 ^ 32 + chunk % 512 * 2 ^ 23 +
    line % 2 ^ 22 * 2 + (if isVoid then 1 else 0)

/-- The run of a ring whose request a data unit is for (R309). -/
def State.ringOf (s : State) (unit : List Byte) : Option RingRun :=
  let h := fieldLE unit 64 8
  s.att.rings.find? (fun x => decide (x.slot = h / 2 ^ 49 % 8192 ∧ x.gen = h / 2 ^ 42 % 128))

/-- A member takes a line of its ring's request; a void one voids the phase (R309, R310). -/
def State.ringTake (s : State) (unit : List Byte) : State :=
  match s.ringOf unit with
  | none => s
  | some x =>
    let h := fieldLE unit 64 8
    let l : RingLine := ⟨h / 2 ^ 32 % 1024, h / 2 ^ 62 % 4, h / 2 ^ 23 % 512, h / 2 % 2 ^ 22, unit.take 64⟩
    if h % 2 = 1 then
      match s.ringDecl x.ring with
      | some d => if x.voided then s else s.ringVoid d x
      | none => s
    else s.setRing { x with lines := l :: x.lines.filter (fun (y : RingLine) =>
        !decide (y.layer = l.layer ∧ y.utype = l.utype ∧ y.chunk = l.chunk ∧ y.line = l.line)) }

/-- A line that the ring holds, and the data unit that carries it on; one that is not there goes void (R309, R310). -/
def RingRun.line? (x : RingRun) (layer utype chunk line : Nat) : Option RingLine :=
  x.lines.find? (fun y => decide (y.layer = layer ∧ y.utype = utype ∧ y.chunk = chunk ∧ y.line = line))
def RingRun.unit (x : RingRun) (layer utype chunk line : Nat) : List Byte :=
  let l := x.line? layer utype chunk line
  ((l.map RingLine.data).getD (List.replicate 64 0)) ++ leBytes 8 (ringHeader utype x.slot x.gen layer chunk line l.isNone)

/-! ### The pairs of a step (R308) -/

/-- A line of 64 bytes. -/
def fullLine (l : List Byte) : List Byte := (l ++ List.replicate 64 0).take 64

/-- Positions of a chunk of a prompt of p tokens (R306). -/
def chunkLen (p c : Nat) : Nat := min 4096 (p - 4096 * c)
/-- Bytes of one position's queries, one element after another, by head, query head and dimension. Log entry 62 (DESIGN CHOICE). -/
def KvLayer.queryBytes (l : KvLayer) : Nat := l.heads * l.group * l.dim * (if l.bf16Att then 2 else 1)

/-- The bytes of a chunk's payload, by offset (R309). -/
def RingRun.byte (x : RingRun) (layer utype chunk off : Nat) : Byte :=
  match x.line? layer utype chunk (off / 64) with
  | some l => l.data.getD (off % 64) 0
  | none => 0

/-- A query element in the attention format (R288). -/
def RingRun.query (x : RingRun) (l : KvLayer) (c i h j e : Nat) : Dy × Bool :=
  let k := ((i * l.heads + h) * l.group + j) * l.dim + e
  if l.bf16Att then
    let v := bf16ToF32 ((x.byte l.layer 1 c (2 * k + 1)) ++ (x.byte l.layer 1 c (2 * k)))
    if f32IsNaN v then (Dy.zero, true) else if f32IsInf v then (f32Val (if f32Neg v then 0xFF7F0000 else 0x7F7F0000), true) else (f32Val v, false)
  else
    let b := x.byte l.layer 1 c k
    if e4m3IsNaN b then (Dy.zero, true) else (e4m3Val b, false)

/-- One query head of a query row against a ring block. -/
def RingRun.pair (x : RingRun) (l : KvLayer) (c b i h j : Nat) : SpanOut :=
  l.attend 4096 (4096 * b) (4096 * c + i) (x.query l c i h j) (fun k v e => l.elem (x.byte l.layer 0 b) k v h e)

def RingRun.accOf (x : RingRun) (l : KvLayer) (c i h j : Nat) : RingAcc :=
  (x.acc.find? (fun a => decide (a.chunk = c ∧ a.row = i ∧ a.head = h ∧ a.q = j))).getD
    ⟨c, i, h, j, (f32Inf true, 0, List.replicate l.dim 0), false⟩

/-- Every query head of every row of the member's chunks folds the partials of its pairs of the step, in ascending block (R308). -/
def RingRun.fold (x : RingRun) (l : KvLayer) (p n m t : Nat) : List RingAcc :=
  (ringChunks x.chunks n m).flatMap (fun c => (List.range (chunkLen p c)).flatMap (fun i => (List.range l.heads).flatMap (fun h =>
    (List.range l.group).map (fun j => (ringBlocks n m t c).foldl (fun (a : RingAcc) b =>
      let o := x.pair l c b i h j
      { a with out := foldHead a.out o.out, flag := a.flag || o.ovf || o.bad || o.nan }) (x.accOf l c i h j)))))

/-- A query or a block that the member's pairs of the step need has not come (R310). -/
def RingRun.lacks (x : RingRun) (l : KvLayer) (p n m t : Nat) : Bool :=
  let short := fun (utype c bytes : Nat) => (List.range ((chunkLen p c * bytes + 63) / 64)).any (fun k => (x.line? l.layer utype c k).isNone)
  (ringChunks x.chunks n m).any (fun c => short 1 c l.queryBytes || (ringBlocks n m t c).any (fun b => short 0 b l.bytes))

/-- A chunk's outputs, o × (1 / l) in BF16 (R298, R307), as lines of UTYPE 2. -/
def RingRun.outLines (x : RingRun) (l : KvLayer) (p c : Nat) : List RingLine :=
  let bytes := (List.range (chunkLen p c)).flatMap (fun i => (List.range l.heads).flatMap (fun h => (List.range l.group).flatMap (fun j =>
    let a := (x.accOf l c i h j).out
    let ys := if a.2.1 = 0 ∨ a.2.1 = 0x80000000 then a.2.2.map (fun _ => (0 : BitVec 16))
      else a.2.2.map (fun o => vToBf16 (vMul o (vRecip a.2.1)))
    ys.flatMap (fun y => leBytes 2 y.toNat))))
  (List.range ((bytes.length + 63) / 64)).map (fun k => ⟨l.layer, 2, c, k, fullLine ((bytes.drop (64 * k)).take 64)⟩)

/-! ### RING_STEP (R307, R308) -/

/-- The owner has placed the rows of every position of the running phase; another member cannot tell. -/
def State.ringPlaced (s : State) (rl : RingLayer) (x : RingRun) : Bool := rl.owner ≠ s.self || decide ((s.req x.slot).p ≤ x.placed)

/-- Ring step t begins: the member evaluates its pairs; a query or block that is not there voids the phase (R308, R310). -/
def State.ringEval (s : State) (d : Ring) (l : KvLayer) (x : RingRun) (t : Nat) : State :=
  let n := max d.members.length 1
  let m := s.ringMember d
  let p := (s.req x.slot).p
  if x.lacks l p n m t then s.ringVoid d x
  else
    let s := d.ringCores.foldl (fun s c => match s.physOf c with
      | some q => s.addAt (coreI q) ATT_PAIR_CNT_COUNT (ringPairs x.chunks n m t)
      | none => s) s
    s.setRing { x with phase := .circulation, step := t, startMile := s.mileNow, acc := x.fold l p n m t }

/-- The last layer's outputs return: every prompt position but the last commits, and the last one's row goes on to sampling (R307,
R341). -/
def State.ringLast (s : State) (x : RingRun) : State :=
  let r := s.req x.slot
  s.setReq x.slot { r with lC := r.p - 1, lT := r.p - 1, placed := r.p - 1 }

/-- RING_STEP: the ring's next step begins at a mile boundary (R307, R308): from projection into circulation, from one
step to the next, from the last step to the return, and from the return to the next layer. -/
def execRingStep (ring : Nat) (bad : Bool) (s : State) : Host.Outcome State Fault Refusal :=
  match s.ringDecl ring, s.att.rings.find? (fun x => x.ring == ring) with
  | some d, some x =>
    match d.layers[x.layer]? with
    | none => .next s
    | some rl =>
    let l := rl.geo
    let n := d.members.length
    if x.voided ∨ s.tb.rod % 320 ≠ 0 then .next s
    else if bad then .next (s.ringVoid d x)
    else
      let ended := decide (d.stepMiles x.chunks ≤ (s.mileNow + mileP - x.startMile) % mileP)
      match x.phase with
      | .projection => .next (if s.ringPlaced rl x then s.ringEval d l x 0 else s)
      | .circulation =>
        if !ended then .next s
        else if x.step + 1 < n then .next (s.ringEval d l x (x.step + 1))
        else
          let outs := (ringChunks x.chunks (max n 1) (s.ringMember d)).flatMap (x.outLines l (s.req x.slot).p)
          let s := s.setRing { x with phase := .return, startMile := s.mileNow, voids := 0, placed := 0, lines := outs ++ x.lines }
          .next (if x.layer + 1 < d.layers.length then s else s.ringLast x)
      | .return =>
        if !s.ringPlaced rl x then .next s
        else if x.layer + 1 < d.layers.length then
          .next (s.setRing { x with phase := .projection, layer := x.layer + 1, step := 0, startMile := s.mileNow, placed := 0, lines := [], acc := [] })
        else
          let r := s.req x.slot
          let s := { s with att := { s.att with rings := s.att.rings.filter (fun y => y.ring ≠ ring) } }
          .next (s.setReq x.slot { r with ring := false, voidrun := 0 })
  | _, _ => .next s

/-- RING_PHASE_RESTART: at a mile boundary a voided phase restarts from the projection (R310). -/
def State.restartRings (s : State) : State :=
  { s with att := { s.att with rings := s.att.rings.map (fun (x : RingRun) =>
      if x.voided then
        { x with voided := false, phase := .projection, step := 0, startMile := s.mileNow, placed := 0, lines := [], acc := [] }
      else x) } }

/-- The ring phases that a lost member's standby takes part in restart (R310). -/
def State.voidRingsOf (s : State) (gm : Nat × Nat) : State :=
  s.att.rings.foldl (fun (s : State) x => match s.ringDecl x.ring with
    | some d => if d.members.contains gm ∧ !x.voided then s.ringVoid d x else s
    | none => s) s

/-- The KV pages that a lost module held cannot be recovered: every request of the path with pages there completes with the
uncorrectable-memory code (R293). Log entry 83 (DEDUCED). -/
def State.kvLost (s : State) (gm : Nat × Nat) : State :=
  if s.boot.image.kvHomes.contains gm then
    (SMap.keys s.rqt.table).foldl (fun s k =>
      if (s.req k).state.live ∧ ((s.req k).state ≠ .intake ∨ (s.req k).admitAt.isSome) then s.drain k 0x21 else s) s
  else s

/-- The ring requests of a lost member's rings end with the ring-loss code (R310). -/
def State.endRingsOf (s : State) (gm : Nat × Nat) : State :=
  s.att.rings.foldl (fun (s : State) x => match s.ringDecl x.ring with
    | some d => if d.members.contains gm then
        ({ s with att := { s.att with rings := s.att.rings.filter (fun y => y.ring ≠ x.ring) } }).drain x.slot 0x24
      else s
    | none => s) s

end Sys2Proof.Machine
end

