-- ==== Sys2Proof/Machine/Requests.lean ====
section
/-! DEFINITION. Intake, control records, bushels, returns and egress (R313 to R345), without sampling. -/
namespace Sys2Proof.Machine

/-! ### Rings, windows and records (R316 to R319) -/

/-- The ring pair of the module's path (R313, R316): of an entry module, or of one that holds corpora (R448). -/
def State.ring (s : State) : Option RingPair :=
  if s.boot.image.entry ∨ s.boot.image.corpora ≠ [] then s.boot.image.rings.find? (fun r => r.region = s.boot.image.pathRegion) else none

def recByte (raw : List Byte) (k : Nat) : Nat := (raw.getD k 0).toNat

/-- The record at ring index i is present (R317). -/
def recPresent (raw : List Byte) (i n : Nat) : Bool :=
  decide (recByte raw 124 % 2 = (1 + i / max n 1) % 2)

/-- Bytes a to b - 1 of a record are 0. -/
def zeroBytes (raw : List Byte) (a b : Nat) : Bool := (List.range (b - a)).all (fun k => recByte raw (a + k) = 0)

/-- A SUBMIT record is well formed (R319, check 2 of R326). -/
def submitOk (raw : List Byte) : Bool :=
  decide (recByte raw 0 = 1) && decide (recByte raw 1 < 8) && decide (recByte raw 2 < 8) && zeroBytes raw 3 4 &&
  zeroBytes raw 6 8 && zeroBytes raw 30 32 && zeroBytes raw 64 124 &&
  decide (fieldLE raw 24 6 < rodP) && decide (fieldLE raw 32 8 % 4 = 0) && decide (1 ≤ fieldLE raw 40 4) &&
  decide (1 ≤ fieldLE raw 44 4) && decide (fieldLE raw 48 8 % 64 = 0) && decide (fieldLE raw 56 8 % 64 = 0)

/-- A CANCEL, PAUSE or RESUME record of a TYPE is well formed (R319). -/
def controlOk (raw : List Byte) (type : Nat) : Bool :=
  decide (recByte raw 0 = type) && zeroBytes raw 1 8 && decide (fieldLE raw 16 2 < 8192) && decide (recByte raw 18 < 128) &&
  zeroBytes raw 19 124

/-- A DRAFT record is well formed (R319). -/
def draftOk (raw : List Byte) : Bool :=
  let n := recByte raw 1
  decide (recByte raw 0 = 3) && decide (1 ≤ n ∧ n ≤ 7) && zeroBytes raw 2 8 && decide (fieldLE raw 16 2 < 8192) &&
  decide (recByte raw 18 < 128) && zeroBytes raw 19 20 && zeroBytes raw (24 + 4 * n) 124 &&
  (List.range n).all (fun k => decide (fieldLE raw (24 + 4 * k) 4 < 2 ^ 18))

/-- The attachment core of a region (R222, R226). -/
def State.attachOf (s : State) (region : Nat) : Nat :=
  ((s.boot.image.regions.find? (fun r => r.num = region)).map Region.attach).getD 0

/-- A region whose host attachment router is faulty is cut off from host traffic (R232). -/
def State.cutOff (s : State) (region : Nat) : Bool := s.isSetAt (coreI (s.attachOf region)) RTR_STAT_A_FAULTY

/-- The module's index word is written (R318); a write to a private window that DMA does not reach is dropped (R391). -/
def State.writeIdx (s : State) (r : RingPair) : State :=
  if s.dma r.modIdxAddr 8 then
    { s with rqt := { s.rqt with idxWrites := (s.fld RQT_IN_IDX_INDEX, s.fld RQT_EG_IDX_INDEX) :: s.rqt.idxWrites } }
  else s

/-- INTAKE_POLL: present records are taken in index order, and the index word is written (R318). A late completion is
discarded, which counts at the poller's core, the attachment core (R199); a failed read takes nothing (R391). Log entry 46 (DEDUCED). -/
def execIntakePoll (recs : List (List Byte)) (hostIdx : Nat) (late : Bool) (s : State) : Host.Outcome State Fault Refusal :=
  .next (match s.ring with
  | none => s
  | some r =>
    if s.fld GLB_STATE_STATE = 2 ∨ s.cutOff r.region then s
    else if late then
      (s.addAt (coreI (s.attachOf r.region)) SEQ_STALE_CNT_COUNT 1).add TB_STALE_CNT_COUNT 1
    else if !s.dma r.inAddr (128 * r.nIn) ∨ !s.dma r.hostIdxAddr 8 then s
    else
      let i := s.fld RQT_IN_IDX_INDEX
      let took := ((recs.take r.bPoll).zipIdx.takeWhile (fun e => recPresent e.1 (i + e.2) r.nIn)).map Prod.fst
      let s := (s.put RQT_IN_IDX_INDEX ((i + took.length) % 2 ^ 32)).put RQT_EG_CREDIT_INDEX (hostIdx % 2 ^ 32)
      { s with rqt := { s.rqt with polled := s.rqt.polled ++ took } }.writeIdx r)

/-- The record that a command acts on leaves the polled records. -/
def State.unpoll (s : State) (raw : List Byte) : State := { s with rqt := { s.rqt with polled := s.rqt.polled.erase raw } }

/-! ### Admission of requests (R326, R327, R329) -/

def State.inVar (s : State) : Option Variant := s.variant? s.sched.var

/-- A load variant, whose declared token rate is 0, is in force (R364). -/
def State.loadVariant (s : State) : Bool := (s.inVar.map Variant.rate) = some 0

/-- The variant that will be in force when what is taken in now completes (R22): that of the last switch pending or requested
and not refused, else the one in force. -/
def State.comingVar (s : State) : Option Variant :=
  let asked := s.sched.reqs.filter (fun r => !r.refused && (s.variant? r.var).isSome)
  let chosen := asked.foldl (fun (b : Option Nat) r => match b with
    | none => some r.var
    | some x => if s.varBefore r.var x then some r.var else b) none
  s.variant? ((chosen.orElse (fun _ => (s.sched.switches.getLast?).map Switch.var)).getD s.sched.var)

/-- Intake is open (check 1 of R326); it is closed before the tiers are unsealed (R389), in a load variant and on a standby (R30 entry 25). Log entries 46 (DEDUCED), 52 (DEDUCED). -/
def State.intakeOpen (s : State) : Bool :=
  s.isSet RQT_CTRL_INTAKE_EN && s.isSet SEC_STAT_UNSEALED && !s.isSet GLB_STATE_STANDBY && s.admitted && !s.sched.barred && !s.rqt.flowLate && !s.loadVariant &&
    decide (s.fld GLB_STATE_STATE ≠ 2)

/-- The highest rod cost per token at a context over the admitted variants; none where it is unbounded (R327). -/
def State.costAt (s : State) (x : Nat) : Option Nat :=
  (s.boot.image.variants.filter (fun v => s.admittedVar v.num)).foldl (fun (b : Option Nat) v =>
    match b, v.cost.find? (fun c => x ≤ c.1) with
    | some n, some c => some (max n c.2)
    | _, _ => none) (some 0)

/-- Rods that the ring request now on a ring still takes (R308, R327). -/
def State.ringLeft (s : State) : Nat :=
  match s.att.rings with
  | [] => 0
  | x :: _ => match s.ringDecl x.ring with
    | none => 0
    | some d => ((d.layers.length - x.layer) * d.members.length - x.step) * d.stepMiles x.chunks * 320

/-- The estimate E of R327 in rods from now's furlong; none where a cost is unbounded. `t0` is its first term. -/
def State.estimate (s : State) (t0 p nMax : Nat) (ring : Bool) : Option Nat :=
  let f := (s.comingVar.map Variant.prefillRows).getD 0
  let pre := if ring then
      (match s.boot.image.ringDecls.find? (fun d => d.region = s.boot.image.pathRegion) with
       | some d => d.layers.length * d.members.length * d.stepMiles ((p + 4095) / 4096) * 320 + s.ringLeft
       | none => 0)
    else 320 * ((p + f) / (f + 1) + 1)
  (s.costAt (p + nMax)).map (fun c => t0 + pre + nMax * c + 80)

/-- The deadline is met (R327): E lies at or before it. -/
def State.meets (s : State) (t0 p nMax deadline : Nat) (ring : Bool) : Bool :=
  match s.estimate t0 p nMax ring with
  | none => false
  | some e => decide (e < t0 + rodP / 2) && !rodAfter deadline (e % rodP)

/-- Requests that hold a seat or will: their ADMIT has been sent (R329). -/
def State.seatsUsed (s : State) : Nat := s.rqt.table.countP (fun e => e.2.state.live && e.2.admitAt.isSome)
/-- Log entry 46 (DEDUCED). -/
def State.reservations (s : State) : Nat :=
  (s.comingVar.map Variant.prefillRows).getD 0 * s.rqt.table.countP (fun e => e.2.reserve)
def State.seatTotal (s : State) : Nat := 32 * (s.comingVar.map (fun v => v.bushels.length)).getD 0

/-- The address range lies in a request window of the ring (R316). -/
def RingPair.inWindow (r : RingPair) (addr len : Nat) : Bool :=
  r.windows.any (fun w => decide (w.1 ≤ addr) && decide (addr + len ≤ w.1 + w.2))

/-- The sampling block is well formed (R336). -/
def sampOk (b : List Byte) : Bool :=
  let f := fun (at_ : Nat) => BitVec.ofNat 32 (fieldLE b at_ 4)
  let posFin := fun (v : FpBits) => f32Finite v && !f32Neg v && decide (v ≠ 0)
  (decide ((f32Val (f 0)).m = 0) && f32Finite (f 0) || posFin (f 0)) &&
  posFin (f 4) && f32Le (f 4) 0x3F800000 && decide (fieldLE b 8 2 ≤ 256) && posFin (f 12) && f32Finite (f 16) && f32Finite (f 20) &&
  zeroBytes b 10 12 && zeroBytes b 24 64

/-- The default sampling block (R336). -/
def sampDefault : List Byte :=
  leBytes 4 0 ++ leBytes 4 0x3F800000 ++ leBytes 4 0 ++ leBytes 4 0x3F800000 ++ List.replicate 48 0

/-- The stop set is well formed (R340), and its tokens. -/
def stopOk (b : List Byte) : Bool :=
  decide (recByte b 0 ≤ 8) && decide (recByte b 1 ≤ 4) &&
  (List.range (min 4 (recByte b 1))).all (fun i => decide (1 ≤ recByte b (2 + i)) && decide (recByte b (2 + i) ≤ 16))
def stopTokens (b : List Byte) : List Nat := (List.range (min 8 (recByte b 0))).map (fun i => fieldLE b (8 + 4 * i) 4)
def stopSeqs (b : List Byte) : List (List Nat) :=
  (List.range (min 4 (recByte b 1))).map (fun i => (List.range (min 16 (recByte b (2 + i)))).map (fun k => fieldLE b (64 + 64 * i + 4 * k) 4))

/-- The slot and version that an identifier names now for an epoch (R371, R372). -/
def State.currentAdapter (s : State) (ident epoch : Nat) : Option Nat :=
  (s.weights.current.find? (fun c => c.1 = ident ∧ c.2.1 = epoch)).map (fun c => c.2.2)

/-- The first failing check of R326, or the free slot that the request takes. Log entry 46 (DEDUCED). -/
def State.checkSubmit (s : State) (raw : List Byte) (f : Fetch) : Nat ⊕ Nat :=
  match s.ring with
  | none => .inl 0x19
  | some r =>
    let p := fieldLE raw 40 4
    let nMax := fieldLE raw 44 4
    let sampA := fieldLE raw 48 8
    let stopA := fieldLE raw 56 8
    let deadline := fieldLE raw 24 6
    let pen := recByte raw 2 % 2 = 1
    let ring := decide (131072 < p)
    let free := (List.range 8192).find? (fun k => (s.req k).state = .free)
    let tokens := f.prompt.map (fun t => t.toNat) ++ (if stopA = 0 then [] else stopTokens f.stop ++ (stopSeqs f.stop).flatten)
    if !s.intakeOpen ∨ !s.boot.image.entry then .inl 0x19
    else if !submitOk raw then .inl 0x11
    else if 2097152 < p + nMax then .inl 0x13
    else match free with
    | none => .inl 0x10
    | some slot =>
      if !r.inWindow (fieldLE raw 32 8) (4 * p) ∨ (sampA ≠ 0 ∧ !r.inWindow sampA 64) ∨ (stopA ≠ 0 ∧ !r.inWindow stopA 320) ∨
          f.error ∨ 4 ≤ f.lateTries ∨ !s.dma (fieldLE raw 32 8) (4 * p) ∨ (sampA ≠ 0 ∧ !s.dma sampA 64) ∨
          (stopA ≠ 0 ∧ !s.dma stopA 320) then .inl 0x18
      else if tokens.any (fun t => decide (r.vocab ≤ t)) then .inl 0x12
      else if (sampA ≠ 0 ∧ !sampOk f.samp) ∨ (stopA ≠ 0 ∧ !stopOk f.stop) then .inl 0x11
      else if ring ∧ !s.boot.image.ringDecls.any (fun d => d.region = s.boot.image.pathRegion) then .inl 0x16
      else if recByte raw 2 / 4 % 2 = 1 ∧ (s.currentAdapter (fieldLE raw 4 2) (s.fld LD_EPOCH_CUR_EPOCH)).isNone then .inl 0x17
      else if s.poolRoom r.region < s.boot.image.kvNeed p nMax pen ∨ !f.othersFit then .inl 0x15
      else if deadline ≠ 0 ∧ (!s.meets (furlongAfter s.tb.rod 2) p nMax deadline ring ∨
          s.seatTotal < s.seatsUsed + s.reservations + (s.comingVar.map Variant.prefillRows).getD 0) then .inl 0x14
      else .inr slot

/-- A refused SUBMIT (R326, R320, R345). -/
def State.refuseSubmit (s : State) (handle : BitVec 64) (code : Nat) : State :=
  let s := ((s.add RQT_REFUSE_CNT_COUNT 1).put RQT_FLAG_REFUSED 1).put RQT_LAST_REFUSE_CODE code
  let s := s.raiseIfAt 0 RQT_FLAG_HOST_FETCH (code = 0x18)
  s.queueEg (.record ⟨2, handle, code, 0x1FFF, 0, 0, [], s.tb.rod, []⟩)

/-- The seat count has room for a request: a free seat, and the sum of seats and reservations stays within the total
(R329). Log entry 46 (DEDUCED). -/
def State.seatRoom (s : State) (r : Req) : Bool :=
  decide (s.seatsUsed < s.seatTotal) &&
  (if r.deadline = 0 then decide (s.seatsUsed + s.reservations < s.seatTotal)
   else decide (s.seatsUsed + s.reservations + (s.comingVar.map Variant.prefillRows).getD 0 ≤ s.seatTotal))

/-- Send a waiting request's ADMIT if a seat is free (R315, R329). A ring request waits for its ring (R306). Log entry 45 (DEDUCED). -/
def State.trySeat (s : State) (slot : Nat) : State :=
  let r := s.req slot
  if r.state = .intake ∧ r.admitAt = none ∧ !r.ring ∧ s.seatRoom r then
    let b := furlongAfter s.tb.rod 2
    (s.setReq slot { r with admitAt := some b, reserve := decide (r.deadline ≠ 0) }).sendUpdate ⟨.admitSlot, b, slot, r.gen, 0⟩
  else s

/-- SUBMIT (R326, R327, R329). Log entry 46 (DEDUCED). -/
def execSubmit (raw : List Byte) (f : Fetch) (s : State) : Host.Outcome State Fault Refusal :=
  .next (match s.ring with
  | none => s
  | some rg =>
    let s := s.unpoll raw
    let handle := BitVec.ofNat 64 (fieldLE raw 8 8)
    match s.checkSubmit raw f with
    | .inl code => s.refuseSubmit handle code
    | .inr slot =>
      let p := fieldLE raw 40 4
      let nMax := fieldLE raw 44 4
      let pen := decide (recByte raw 2 % 2 = 1)
      let r : Req := { Req.empty with
        handle := handle, seed := BitVec.ofNat 64 (fieldLE raw 16 8), prio := recByte raw 1, gen := (s.req slot).gen,
        state := .intake, deadline := fieldLE raw 24 6, region := rg.region,
        spec := decide (recByte raw 2 / 2 % 2 = 1), pen := pen, nMax := nMax, p := p,
        adapterEn := decide (recByte raw 2 / 4 % 2 = 1), adIdent := fieldLE raw 4 2,
        ring := decide (131072 < p), prompt := f.prompt.map (fun t => t.toNat),
        samp := if fieldLE raw 48 8 = 0 then sampDefault else f.samp,
        stopSet := if fieldLE raw 56 8 = 0 then List.replicate 320 0 else f.stop }
      let s := ((s.setReq slot r).reserve rg.region (s.boot.image.kvNeed p nMax pen)).add RQT_ADMIT_CNT_COUNT 1
      (s.queueEg (.record ⟨1, handle, 0, slot, r.gen, 0, [], s.tb.rod, []⟩)).trySeat slot)

/-! ### Control records (R332 to R335) -/

/-- The live entry that a control record names, if HANDLE and GEN match (R333, R334). Log entry 46 (DEDUCED). -/
def State.named (s : State) (raw : List Byte) : Option Nat :=
  let slot := fieldLE raw 16 2
  let r := s.req slot
  if r.state.live ∧ r.handle = BitVec.ofNat 64 (fieldLE raw 8 8) ∧ r.gen = recByte raw 18 then some slot else none

/-- Log entry 46 (DEDUCED). -/
def State.ctrlMiss (s : State) : State := s.add RQT_CTRL_MISS_COUNT 1

/-- CANCEL (R324, R334). Log entry 45 (DEDUCED). -/
def execCancel (raw : List Byte) (s : State) : Host.Outcome State Fault Refusal :=
  let s := s.unpoll raw
  match (if controlOk raw 2 then s.named raw else none) with
  | none => .next s.ctrlMiss
  | some slot =>
    let r := s.req slot
    if r.state = .intake ∧ r.admitAt = none then .next (s.endReq slot .cancelled 0x06)
    else
      let b := if r.state = .intake then r.admitAt.getD 0 else furlongAfter s.tb.rod 2
      .next (s.sendUpdate ⟨.cancel, b, slot, r.gen, 0x06⟩)

/-- A PAUSE or RESUME is sent as a table update for its boundary (R335). Log entry 45 (DEDUCED). -/
def State.sendControl (s : State) (raw : List Byte) (type : Nat) (k : UpdateKind) : State :=
  let s := s.unpoll raw
  match (if controlOk raw type then s.named raw else none) with
  | none => s.ctrlMiss
  | some slot => s.sendUpdate ⟨k, furlongAfter s.tb.rod 2, slot, (s.req slot).gen, 0⟩

def execPause (raw : List Byte) (s : State) : Host.Outcome State Fault Refusal := .next (s.sendControl raw 4 .pause)
def execResume (raw : List Byte) (s : State) : Host.Outcome State Fault Refusal := .next (s.sendControl raw 5 .resume)

/-- DRAFT (R332, R333). -/
def execDraft (raw : List Byte) (s : State) : Host.Outcome State Fault Refusal :=
  let s := s.unpoll raw
  match (if draftOk raw then s.named raw else none) with
  | none => .next s.ctrlMiss
  | some slot =>
    let r := s.req slot
    if !r.spec then .next s.ctrlMiss
    else match r.state with
      | .decode | .paused =>
        let toks := (List.range (recByte raw 1)).map (fun k => fieldLE raw (24 + 4 * k) 4)
        .next (s.setReq slot { r with draft := some (fieldLE raw 20 4, toks) })
      | _ => .next (s.add RQT_DRAFT_DISC_COUNT 1)

/-- HOST_READ_COMPLETION: a scheduled host read lands in its buffer, or is discarded (R196, R199). The transaction carries the
region of its window and reaches only that region's cores, while its attachment router works (R227, R232). -/
def execHostReadCompletion (region : Fin 16) (core : CoreId) (token inst : Nat) (rows : BitVec 32) (addr : Nat) (data : List Byte) (issuedAt : Nat)
    (error : Bool) (s : State) : Host.Outcome State Fault Refusal :=
  .next (if s.domainOff core ∨ error ∨ s.regionNum core ≠ region ∨ s.cutOff region then s
    else if s.boot.image.hostReadRods < rodsSince issuedAt s.tb.rod then
      (s.addAt (coreI core) SEQ_STALE_CNT_COUNT 1).add TB_STALE_CNT_COUNT 1
    else
      let (s, a) := s.arrive core token inst rows false
      if a = .taken then s.storeBytes core addr data else s)

/-! ### Formation (R329 to R331) -/

/-- Priority descending, deadline earliest (none last), slot ascending (R330). -/
def State.comesFirst (s : State) (a b : Nat) : Bool :=
  let x := s.req a
  let y := s.req b
  if x.prio ≠ y.prio then decide (y.prio < x.prio)
  else if x.deadline ≠ y.deadline then
    (if x.deadline = 0 then false else if y.deadline = 0 then true else rodAfter x.deadline y.deadline)
  else decide (a ≤ b)

/-- Requests that may take rows: not paused, draining or held at a layer, and with no row on its way that has rejoined after it was
held (R330, R301). Log entry 47 (DEDUCED). -/
def State.mayRow (s : State) (slot : Nat) (st : ReqState) : Bool :=
  (s.req slot).state == st && !s.att.held.any (fun h => h.slot == slot && h.gen == (s.req slot).gen) &&
    !s.rqt.bushels.any (fun b => b.rows.any (fun w => w.slot == slot && w.gen == (s.req slot).gen && decide (w.first ≠ 0)))

/-- Rows given so far: request and count, in formation. -/
abbrev Given := List (Nat × Nat)
def Given.of (g : Given) (slot : Nat) : Nat := ((g.filter (fun e => e.1 = slot)).map Prod.snd).sum
def Given.total (g : Given) : Nat := (g.map Prod.snd).sum

/-- A request whose adapter would be one distinct slot too many gets no row (R367). -/
def State.adapterFits (s : State) (g : Given) (slot : Nat) : Bool :=
  let r := s.req slot
  let used := ((g.filter (fun (e : Nat × Nat) => 0 < e.2)).filterMap (fun (e : Nat × Nat) =>
    let x := s.req e.1
    if x.adapterEn then some x.adapterSlot else none) : List Nat).eraseDups
  !r.adapterEn || used.contains r.adapterSlot || decide (used.length < s.boot.image.adapters.dAd)

/-- Free seats of a bushel slot (R329). -/
def State.seatsFree (s : State) (b : Nat) : Nat :=
  32 - s.rqt.table.countP (fun e => e.2.state.live && e.2.seated && decide (e.2.seat = b))

/-- Prefill rows that a request may take in an instance of a bushel slot: the last prompt position only where a seat is
free. -/
def State.prefillLeft (s : State) (g : Given) (slot b : Nat) : Nat :=
  let r := s.req slot
  let left := r.p - (r.placed + g.of slot)
  let lastHere := decide (0 < s.seatsFree b - (g.filter (fun e => decide ((s.req e.1).state = .prefill) &&
    decide ((s.req e.1).p ≤ (s.req e.1).placed + e.2))).length)
  if lastHere then left else left - 1

/-- Rows of reserved prefill that a request has had in the mile of a start. -/
def State.prefillInMile (s : State) (slot start : Nat) : Nat :=
  (s.rqt.bushels.map (fun b => if b.start / 320 = start / 320 then b.rows.countP (fun r => r.slot == slot && r.isPrompt) else 0)).sum

/-- Give a request up to n of the rows still free. -/
def giveRows (g : Given) (slot n : Nat) : Given :=
  let k := min n (32 - g.total)
  if k = 0 then g
  else if g.any (fun e => e.1 = slot) then g.map (fun e => if e.1 = slot then (e.1, e.2 + k) else e)
  else g ++ [(slot, k)]

/-- The four passes of R330 for one instance. -/
def State.formRows (s : State) (v : Variant) (b start : Nat) : Given :=
  let slots := SMap.keys s.rqt.table
  let order := slots.mergeSort s.comesFirst
  let p1 := (slots.filter (fun k => s.mayRow k .decode && (s.req k).seated && decide ((s.req k).seat = b))).foldl
    (fun g k => if s.adapterFits g k then giveRows g k 1 else g) ([] : Given)
  let p2 := (slots.filter (fun k => s.mayRow k .prefill && (s.req k).reserve && !(s.req k).ring)).foldl
    (fun g k => if s.adapterFits g k then
        giveRows g k (min (s.prefillLeft g k b) (v.prefillRows - s.prefillInMile k start)) else g) p1
  let p3 := (order.filter (fun k => s.mayRow k .decode && (s.req k).spec && decide (0 < p2.of k))).foldl
    (fun g k => match (s.req k).draft with
      | some d => giveRows g k d.2.length
      | none => g) p2
  (order.filter (fun k => s.mayRow k .prefill && !(s.req k).ring)).foldl
    (fun g k => if s.adapterFits g k then giveRows g k (s.prefillLeft g k b) else g) p3

/-- Form one instance: its rows are numbered in the order of R330, each request's rows contiguous. Log entry 47 (DEDUCED). -/
def State.formBushel (s : State) (v : Variant) (b start : Nat) : State :=
  let g := s.formRows v b start
  let order := (g.map Prod.fst).mergeSort s.comesFirst
  let rows := order.flatMap (fun (k : Nat) =>
    let r := s.req k
    (List.range (g.of k)).map (fun i =>
      if r.state = .prefill then (⟨k, r.gen, r.placed + i, i, true, r.prompt.getD (r.placed + i) 0, false, r.placed + i, 0, none⟩ : BushelRow)
      else ⟨k, r.gen, r.lC + i, i, false, 0, false, r.lC + i, 0, none⟩))
  let nb : Bushel := ⟨b, start, rows, false, 0, 0, 0, [], []⟩
  let s := { s with rqt := { s.rqt with bushels := s.rqt.bushels ++ [nb] } }.bindBushel nb
  order.foldl (fun (s : State) (k : Nat) =>
    let r := s.req k
    let n := g.of k
    let r : Req := { r with nrows := min n 8, row := rows.findIdx (fun x => x.slot == k) }
    let r : Req := if r.state = .prefill then
        { r with placed := r.placed + n, seat := if r.placed + n = r.p then b else r.seat, seated := r.seated || decide (r.placed + n = r.p) }
      else r
    s.setReq k r) s

/-- Every instance that starts in the furlong beginning now, in ascending start (R330). The keys of the new ones are
answered. -/
def State.formBushels (s : State) : State × List Nat :=
  match s.inVar with
  | none => (s, [])
  | some v =>
    if !s.boot.image.entry ∨ !s.sched.running then (s, [])
    else
      let here := (v.bushels.zipIdx.filter (fun e => decide (s.tb.rod % 320 ≤ e.1 / 2700) && decide (e.1 / 2700 < s.tb.rod % 320 + 40))).mergeSort
        (fun a c => decide (a.1 ≤ c.1))
      here.foldl (fun (p : State × List Nat) e =>
        let start := s.tb.rod / 320 * 320 + e.1 / 2700
        (p.1.formBushel v e.2 start, p.2 ++ [start * 256 + e.2])) (s, [])

/-! ### Entry issue (R332) -/

/-- Fill one row of an instance at its entry issue. Log entry 47 (DEDUCED). -/
def State.fillRow (s : State) (w : BushelRow) : BushelRow :=
  let r := s.req w.slot
  if r.gen ≠ w.gen then { w with filled := false }
  else if w.first ≠ 0 ∨ w.last.isSome then w   -- a row that joins at a later layer
  else if w.isPrompt then { w with filled := r.state == .prefill && decide (r.lC ≤ w.pos) }
  else if r.state ≠ .decode ∨ 2097152 ≤ r.lC + w.k then { w with filled := false }
  else if w.k = 0 then { w with filled := true, pos := r.lC, tok := r.pendTok }
  else match r.draft with
    | some (base, toks) =>
      if base = r.lC ∧ w.k ≤ toks.length then { w with filled := true, pos := r.lC + w.k, tok := toks.getD (w.k - 1) 0 }
      else { w with filled := false }
    | none => { w with filled := false }

/-- ENTRY_ISSUE: the oldest instance of a bushel slot that has not been entered is filled, and its tokens expect the rows that
are filled: the others run empty (R28, R331, R332). Log entry 47 (DEDUCED). -/
def execEntryIssue (bushel : Nat) (s : State) : Host.Outcome State Fault Refusal :=
  match s.rqt.bushels.find? (fun b => b.slot = bushel ∧ !b.entered) with
  | none => .next s
  | some b =>
    let rows := b.rows.map s.fillRow
    let slots : List Nat := ((b.rows.filter (fun w => w.first = 0)).map (fun w => w.slot)).eraseDups
    let nb := { b with rows := rows, entered := true }
    let s := { s with rqt := { s.rqt with bushels := s.rqt.bushels.map (fun (x : Bushel) => if x.key = b.key then nb else x) } }
    let s := slots.foldl (fun (s : State) (k : Nat) =>
      let r := s.req k
      let mine := rows.filter (fun w => w.slot == k && w.gen == r.gen && decide (w.first = 0))
      let filled := mine.countP (fun w => w.filled)
      let drafts := mine.countP (fun w => w.filled && !w.isPrompt && decide (0 < w.k))
      if mine.isEmpty then s
      else if mine.any (fun w => w.isPrompt) then
        let top := (mine.filter (fun w => w.filled)).foldl (fun n w => max n (w.pos + 1)) r.lT
        -- a prompt row that runs empty is placed again
        let again := (mine.filter (fun w => !w.filled && decide (r.lC ≤ w.pos))).foldl (fun n w => min n w.pos) r.p
        s.setReq k { r.replaceFrom again with lT := top }
      else
        let bad := match r.draft with | some (base, _) => decide (base ≠ r.lC) && decide (1 < mine.length) | none => false
        let s := (s.add RQT_DRAFT_CNT_COUNT drafts).add RQT_DRAFT_DISC_COUNT (if bad then 1 else 0)
        s.setReq k { r with lT := min 2097152 (r.lC + filled), draft := if 1 < mine.length then none else r.draft }) s
    .next ((s.syncHeld nb).bindBushel nb)

/-! ### Commit (R340 to R342, R344) -/

/-- A stop condition that a generated token decides (R342), given the stop window, newest first. -/
def stopCode (r : Req) (window : List Nat) (tok newLC : Nat) : Option Nat :=
  let seq := (tok :: window)
  if (stopTokens r.stopSet).contains tok then some 0x01
  else if (stopSeqs r.stopSet).any (fun q => decide (seq.take q.length = q.reverse)) then some 0x02
  else if newLC + 1 - r.p = r.nMax then some 0x03
  else if newLC = 2097152 then some 0x04
  else none

/-- What the exit module has decided so far for a request's rows. -/
structure Commit where
  newLC : Nat
  toks : List (Nat × Bool)
  window : List Nat
  code : Option Nat
  accepted : Nat
  deriving DecidableEq, Repr

/-- L_C as the exit module knows it: what its newest return says, before the entry module has applied it. Log entry 47 (DEDUCED). -/
def State.lcNow (s : State) (slot : Nat) : Nat :=
  match s.rqt.returns.find? (fun q => q.slot = slot ∧ q.gen = (s.req slot).gen) with
  | some q => q.newLC
  | none => (s.req slot).lC

/-- The procedure of R341 over the rows of one request: bushel row number and row. Positions commit in order: a prompt
row that has committed before is passed over, and a row beyond the next position is not committed. Log entry 47 (DEDUCED). -/
def State.commitRows (s : State) (b : Bushel) (r : Req) : List (Nat × BushelRow) → Commit → Commit
  | [], c => c
  | (i, w) :: rest, c =>
    let gone := b.voided.getLsbD i || b.lanePaused.getLsbD i || b.heldRows.getLsbD i || !w.filled
    if gone then c
    else if w.isPrompt ∧ w.pos < c.newLC then s.commitRows b r rest c
    else if w.pos ≠ c.newLC then c
    else if w.isPrompt ∧ w.pos + 1 < r.p then s.commitRows b r rest { c with newLC := w.pos + 1 }
    else
      let d := SMap.get (fun _ => ((0 : Nat), false)) b.drawn i
      let c := { c with newLC := w.pos + 1, toks := c.toks ++ [d], code := stopCode r c.window d.1 (w.pos + 1),
                        window := (d.1 :: c.window).take 15, accepted := c.accepted + (match rest with
                          | (_, x) :: _ => if !w.isPrompt ∧ x.filled ∧ x.tok = d.1 then 1 else 0
                          | [] => 0) }
      if c.code.isSome then c
      else match rest with
        | (j, x) :: _ => if !w.isPrompt ∧ x.filled ∧ x.tok = d.1 ∧ x.k = w.k + 1 ∧ i < j then s.commitRows b r rest c else c
        | [] => c

/-- Count-table increments for committed tokens: 16 bits each, saturating (R338). -/
def State.countTokens (s : State) (r : Req) (toks : List Nat) : State :=
  if !r.pen ∨ r.countPtr = 0 then s
  else toks.foldl (fun s t =>
    let a := r.countPtr * 256 + 2 * t
    s.stackWrite a (leBytes 2 (min 65535 (leNat (s.stackRead a 2) + 1)))) s

/-- COMMIT_DECISION: the exit module decides an instance's rows of one request and sends the return record (R341, R342,
R344). Log entry 47 (DEDUCED). -/
def execCommitDecision (bushel slot : Nat) (s : State) : Host.Outcome State Fault Refusal :=
  match s.rqt.bushels.find? (fun b => b.slot = bushel ∧ b.entered) with
  | none => .next s
  | some b =>
    let r := s.req slot
    let mine := (b.rows.zipIdx.filter (fun e => e.1.slot == slot && e.1.gen == r.gen && (e.1.last.isNone || b.heldRows.getLsbD e.2))).map (fun e => (e.2, e.1))
    let c := s.commitRows b r mine ⟨s.lcNow slot, [], r.window, none, 0⟩
    let row0 := match mine with
      | (i, w) :: _ => w.filled && b.voided.getLsbD i && !b.lanePaused.getLsbD i && !b.heldRows.getLsbD i
      | [] => false
    let paused := mine.countP (fun e => b.lanePaused.getLsbD e.1)
    let s := (s.add RQT_LANE_PAUSE_COUNT paused).add RQT_DRAFT_ACC_COUNT c.accepted
    -- a prompt row that a lane paused is placed again
    let again := (mine.filter (fun e => e.2.isPrompt && b.lanePaused.getLsbD e.1)).foldl (fun n e => min n e.2.pos) r.p
    let s := (s.countTokens r (c.toks.map Prod.fst)).setReq slot { r.replaceFrom again with window := c.window }
    -- rows that left the bushel because their request is held return from where they rejoin (R301)
    let left := mine.any (fun e => b.heldRows.getLsbD e.1)
    let back : ReturnRec := ⟨bushel, slot, r.gen, c.newLC, c.toks, c.newLC + 1 - c.toks.length, c.code, row0⟩
    let settled := slot :: b.settled
    -- the instance is retired once every request's rows are settled
    .next { s with rqt := { s.rqt with
      returns := if left then s.rqt.returns else back :: s.rqt.returns
      bushels := if b.rows.all (fun w => settled.contains w.slot || !w.filled || (w.last.isSome && !b.rows.any (fun x => x.slot == w.slot && x.last.isNone))) then s.rqt.bushels.filter (fun x => x.key ≠ b.key)
        else s.rqt.bushels.map (fun (x : Bushel) => if x.key = b.key then { x with settled := settled } else x) } }

/-- RETURN_RECORD: the entry module applies a commit result to the primary (R341 to R344, R324). A record of an old
generation is discarded (R325). Log entries 47 (DEDUCED), 62 (DESIGN CHOICE). -/
def execReturnRecord (q : ReturnRec) (s : State) : Host.Outcome State Fault Refusal :=
  let r := s.req q.slot
  let s := { s with rqt := { s.rqt with returns := s.rqt.returns.erase q } }
  if r.gen ≠ q.gen ∨ !r.state.live ∨ r.state = .intake then .next s
  else
    let moved := decide (r.lC < q.newLC)
    let toks := q.tokens.zipIdx.map (fun e => (⟨q.firstPos + e.2, e.1.1, e.1.2, s.tb.rod⟩ : OutToken))
    let first := decide (r.lC < r.p) && !q.tokens.isEmpty
    let st := if first ∧ r.state = .prefill then ReqState.decode else r.state
    let run := if moved then 0 else if q.row0Void then min 5 (r.voidrun + 1) else r.voidrun
    let r := { r with
      lC := q.newLC, lT := q.newLC, state := st, voidrun := run,
      resume := if first ∧ r.state = .paused then 3 else r.resume,
      voids := r.voids + (if q.row0Void then 1 else 0),
      placed := if q.newLC < r.p then max r.placed q.newLC else r.p,
      reserve := r.reserve && !first,
      seat := if first then q.bushel else r.seat, seated := r.seated || first,
      pendTok := (q.tokens.getLast?.map Prod.fst).getD r.pendTok,
      unsent := r.unsent ++ toks }
    let s := s.setReq q.slot r
    let s := if q.tokens.isEmpty then s else s.queueTokens q.slot
    .next (match q.code with
      | some c =>
        if r.state = .draining then (if r.code = 0x05 then s.setReq q.slot { r with code := c } else s) else s.drain q.slot c
      | none => if run = 5 ∧ q.row0Void then s.drain q.slot 0x20 else s)

/-! ### Egress (R320 to R322) -/

/-- The 64 bytes of an egress record at a ring index (R317, R320). -/
def EgRec.bytes (e : EgRec) (i n : Nat) : List Byte :=
  let phase := (1 + i / max n 1) % 2
  let toks := (List.range 8).flatMap (fun k => match e.tokens[k]? with
    | some t => leBytes 4 (t.tok % 2 ^ 18 + (if t.flag then 2 ^ 31 else 0))
    | none => leBytes 4 0)
  let flags := if e.tokens.any (fun t => t.flag) then 1 else 0
  let first := (e.tokens.head?.map (fun t => t.pos)).getD 0
  if e.body.isEmpty then
    leBytes 8 e.handle.toNat ++ leBytes 4 (first % 2 ^ 22) ++ leBytes 1 e.kind ++ leBytes 1 e.tokens.length ++ leBytes 1 e.code ++
    leBytes 1 flags ++ leBytes 2 e.slot ++ leBytes 1 e.gen ++ leBytes 1 (min e.voids 255) ++ toks ++ leBytes 6 e.rod ++ leBytes 2 0 ++ leBytes 4 phase
  else
    leBytes 8 e.handle.toNat ++ e.body.take 4 ++ leBytes 1 e.kind ++ (e.body.drop 4).take 1 ++ leBytes 1 e.code ++ (e.body.drop 5).take 37 ++
    leBytes 6 e.rod ++ leBytes 2 0 ++ leBytes 4 phase

/-- Write a record into the next ring entry. -/
def State.writeEg (s : State) (r : RingPair) (e : EgRec) : State :=
  let i := s.fld RQT_EG_IDX_INDEX
  let s := { s with rqt := { s.rqt with written := (i % max r.nEg 1, e.bytes i r.nEg) :: s.rqt.written } }
  s.put RQT_EG_IDX_INDEX ((i + 1) % 2 ^ 32)

/-- The host's consumer index shows a free entry (R321). -/
def State.egFree (s : State) (r : RingPair) : Bool :=
  decide ((s.fld RQT_EG_IDX_INDEX + 2 ^ 32 - s.fld RQT_EG_CREDIT_INDEX) % 2 ^ 32 < r.nEg)

/-- A record could not be written (R321): it is counted, and a request in PREFILL or DECODE is held in PAUSED. -/
def State.egStall (s : State) (slot : Nat) : State :=
  let s := (s.add RQT_EG_STALL_COUNT 1).put RQT_FLAG_EG_STALL 1
  let r := s.req slot
  match r.state with
  | .prefill => s.setReq slot { r with state := .paused, resume := 2, egHold := true, nrows := 0 }
  | .decode => s.setReq slot { r with state := .paused, resume := 3, egHold := true, nrows := 0 }
  | .paused => s.setReq slot { r with egHold := true }
  | _ => s

/-- A held request whose records are written resumes, unless the host pauses it (R321, R324). -/
def State.egClear (s : State) (slot : Nat) : State :=
  let r := s.req slot
  if r.egHold then
    s.setReq slot (if r.state = .paused ∧ !r.hostHold then
      { r with egHold := false, state := if r.resume = 2 then .prefill else .decode } else { r with egHold := false })
  else s

/-- Write one item, with the count of records and of FINAL records written. -/
def State.writeItem (s : State) (r : RingPair) (it : EgItem) : State × Bool :=
  match it with
  | .record e => (s.writeEg r e, e.kind = 2)
  | .tokens slot =>
    let q := s.req slot
    if q.unsent.isEmpty then (s, false)
    else
      let e : EgRec := ⟨0, q.handle, 0, slot, q.gen, min q.voids 255, q.unsent.take 8, ((q.unsent.take 8).getLast?.map OutToken.rod).getD s.tb.rod, []⟩
      (((s.writeEg r e).setReq slot { q with unsent := q.unsent.drop 8, voids := 0 }).egClear slot, false)

/-- EGRESS_SLOT (R321, R322): the waiting items in order, up to the slot's capacity and the free entries; what cannot be
written waits, a record of a private ring that DMA does not reach among them (R391). -/
def execEgressSlot (s : State) : Host.Outcome State Fault Refusal :=
  .next (match s.ring with
  | none => s
  | some r =>
    if s.fld GLB_STATE_STATE = 2 ∨ s.cutOff r.region then s
    else
      let items := s.rqt.egress.filter (fun i => match i with | .tokens k => !(s.req k).unsent.isEmpty | .record _ => true)
      let s := { s with rqt := { s.rqt with egress := [] } }
      let (s, n, fin) := items.foldl (fun (p : State × Nat × Bool) it =>
        let (s, n, fin) := p
        if n < r.egCap ∧ s.egFree r ∧ s.dma r.egAddr (64 * r.nEg) then
          let (s, f) := s.writeItem r it
          (s, n + 1, fin || f)
        else
          let slot := match it with | .tokens k => k | .record e => if e.kind = 1 then e.slot else 8192
          (({ s with rqt := { s.rqt with egress := s.rqt.egress ++ [it] } }).egStall slot, n, fin)) (s, 0, false)
      let s := if n = 0 then s else s.writeIdx r
      if s.isSet RQT_IRQ_CFG_ENABLE ∧ (fin ∨ max 1 (s.fld RQT_IRQ_CFG_MIN) ≤ n) then s.sendVector r.vector else s)

/-- SLOT_FREE: at the second furlong boundary after its end a slot returns to FREE; its generation stays (R324, R325). -/
def execSlotFree (slot : Nat) (s : State) : Host.Outcome State Fault Refusal :=
  let r := s.req slot
  .next (match r.freeAt with
    | some b => if (r.state = .done ∨ r.state = .cancelled) ∧ !rodAfter s.tb.rod b then s.setReq slot { Req.empty with gen := r.gen } else s
    | none => s)

/-! ### Opening and closing intake (R439, R473) -/

/-- INTAKE_EN_WRITE: a write of RQT_CTRL; opening can complete step 10. -/
def execIntakeEnWrite (w : Wr) (s : State) : Host.Outcome State Fault Refusal :=
  let (s, d) := s.write w RQT_CTRL_INTAKE_EN.addr
  .next (if d.isSome then s.advanceStart else s)

/-- MC_OPEN_INTAKE and MC_CLOSE_INTAKE act whatever the seal (R473). -/
def execMcOpenIntake (s : State) : Host.Outcome State Fault Refusal :=
  .next (if s.mgmtUp then (s.put RQT_CTRL_INTAKE_EN 1).advanceStart else s)
def execMcCloseIntake (s : State) : Host.Outcome State Fault Refusal :=
  .next (if s.mgmtUp then (s.put RQT_CTRL_INTAKE_EN 0).advanceStart else s)

/-! ### The furlong's work on the table (R315, R324, R330, R343) -/

/-- An ADMIT takes effect (R315, R289, R290, R372): PREFILL, tables and pages, the pinned epoch and adapter slot. -/
def State.applyAdmit (s : State) (slot : Nat) : State :=
  let r := s.req slot
  if r.state ≠ .intake then s
  else
    -- a module that has not yet taken the flip still pins the new epoch (R361)
    let late := s.weights.late.isSome
    let parity := if late then 1 - s.fld GLB_STATE_FLIP_PARITY else s.fld GLB_STATE_FLIP_PARITY
    let epoch := s.weights.late.getD (s.fld LD_EPOCH_CUR_EPOCH)
    let k := s.currentAdapter r.adIdent epoch
    let r := { r with state := .prefill, epoch := epoch, lC := 0, lT := 0, placed := 0,
                      adapterSlot := if r.adapterEn then k.getD 0 else 0
                      adapterVer := if r.adapterEn then (s.adSlot (k.getD 0)).ver else 0 }
    let s := s.setReq slot r
    let s := { s with weights := { s.weights with epochMap := SMap.set (fun _ => 0) s.weights.epochMap slot parity } }
    (s.allocTables slot).mapBelow slot r.p

/-- One table update on the request table (R315, R324, R334, R335). -/
def State.applyUpdate (s : State) (u : TableUpdate) : State :=
  let r := s.req u.slot
  let mine := decide (r.gen = u.gen) && r.state.live
  match u.kind with
  | .admitSlot => if mine then s.applyAdmit u.slot else s
  | .finish => if mine ∧ r.state = .draining then s.endReq u.slot .done r.code else s
  | .cancel => if mine ∧ r.state ≠ .draining then s.endReq u.slot .cancelled 0x06 else s.ctrlMiss
  | .pause =>
    if !mine then s.ctrlMiss
    else match r.state with
      | .prefill => s.setReq u.slot { r with state := .paused, resume := 2, hostHold := true, nrows := 0 }
      | .decode => s.setReq u.slot { r with state := .paused, resume := 3, hostHold := true, nrows := 0 }
      | .paused => s.setReq u.slot { r with hostHold := true }
      | _ => s.ctrlMiss
  | .resume =>
    if mine ∧ r.state = .paused ∧ r.hostHold then
      s.setReq u.slot (if r.egHold ∨ !r.unsent.isEmpty then { r with hostHold := false, egHold := true }
        else { r with hostHold := false, state := if r.resume = 2 then .prefill else .decode })
    else s.ctrlMiss
  | _ => s

/-- R343: a live request whose deadline is at or before the count enters DRAINING. -/
def State.checkDeadlines (s : State) : State :=
  (SMap.keys s.rqt.table).foldl (fun s k =>
    let r := s.req k
    if r.deadline ≠ 0 ∧ r.state.live ∧ r.state ≠ .intake ∧ !rodAfter s.tb.rod r.deadline then s.drain k 0x05 else s) s

/-- R324, R329: a request that waits in INTAKE is checked again, and takes a seat if one is free. -/
def State.recheckIntake (s : State) : State :=
  (SMap.keys s.rqt.table).foldl (fun s k =>
    let r := s.req k
    if r.state ≠ .intake ∨ r.admitAt.isSome then s
    else if r.deadline ≠ 0 ∧ !s.meets (furlongAfter s.tb.rod 2) r.p r.nMax r.deadline r.ring then s.endReq k .done 0x14
    else s.trySeat k) s

/-- R290: pages of decode requests below L_T + 24 are mapped ahead. -/
def State.mapAhead (s : State) : State :=
  (SMap.keys s.rqt.table).foldl (fun s k =>
    let r := s.req k
    if r.state = .decode ∨ (r.state = .paused ∧ r.resume = 3) then s.mapBelow k (r.lT + 24) else s) s

/-- RQT_STAT.LIVE and SEATS_FREE are sampled together (R345). -/
def State.sampleTable (s : State) : State :=
  (s.put RQT_STAT_LIVE (s.rqt.table.countP (fun e => e.2.state ≠ .free))).put RQT_STAT_SEATS_FREE (s.seatTotal - s.seatsUsed)

end Sys2Proof.Machine
end

