-- ==== Sys2Proof/Machine/Sampling.lean ====
section
/-! DEFINITION. Sampling at the exit module (R336 to R339). -/
namespace Sys2Proof.Machine

/-- The fields of a sampling block (R336). -/
structure SampleCfg where
  temp : FpBits
  topP : FpBits
  topK : Nat
  rep : FpBits
  pres : FpBits
  freq : FpBits
  deriving DecidableEq, Repr

def sampleCfg (b : List Byte) : SampleCfg :=
  let f := fun (at_ : Nat) => BitVec.ofNat 32 (fieldLE b at_ 4)
  ⟨f 0, f 4, if fieldLE b 8 2 = 0 then 256 else fieldLE b 8 2, f 12, f 16, f 20⟩

/-- A count as FP32. -/
def f32OfNat (n : Nat) : FpBits := f32OfInt n

/-- Step 2: the penalties of one logit with count c. -/
def penalise (g : SampleCfg) (z : FpBits) (c : Nat) : FpBits :=
  if c = 0 then z
  else
    let z1 := if vLt 0 z then vMul z (vRecip g.rep) else vMul z g.rep
    vFma (f32Negate (f32OfNat c)) g.freq (vSub z1 g.pres)

/-- The candidate order: value descending, identifier ascending. -/
def candBefore (a b : Nat × FpBits) : Bool := if vLt b.2 a.2 then true else if vLt a.2 b.2 then false else decide (a.1 ≤ b.1)

/-- The shortest prefix whose cumulative sum reaches the bound; none if no prefix does. -/
def keepPrefix (bound : FpBits) : List (Nat × FpBits) → FpBits → List (Nat × FpBits) → Option (List (Nat × FpBits))
  | [], _, _ => none
  | e :: l, sum, acc =>
    let s := vAdd sum e.2
    if !vLt s bound then some (acc ++ [e]) else keepPrefix bound l s (acc ++ [e])

/-- The first kept candidate at which the cumulative sum exceeds the bound. -/
def pickAbove (bound : FpBits) : List (Nat × FpBits) → FpBits → Option Nat
  | [], _ => none
  | e :: l, sum =>
    let s := vAdd sum e.2
    if vLt bound s then some e.1 else pickAbove bound l s

/-- The token drawn from logits (R337): the token, whether a logit was replaced, how many were, and whether a top-p set
was cut at K. `cnt` is the count table with the overlay of R338. Log entry 20 (DESIGN CHOICE). -/
def sampleToken (g : SampleCfg) (pen : Bool) (cnt : Nat → Nat) (draw : Nat) (z : List FpBits) : Nat × Nat × Bool :=
  let bad := z.countP (fun v => !f32Finite v)
  let z1 := z.zipIdx.map (fun p =>
    let v := if f32IsNaN p.1 then f32Inf true else if f32IsInf p.1 then f32Max (f32Neg p.1) else p.1
    (p.2, if pen ∧ v ≠ f32Inf true then penalise g v (cnt p.2) else v))
  let live := z1.filter (fun e => e.2 ≠ f32Inf true)
  if live.isEmpty then (Config.sampleNone draw, bad, false)
  else if (f32Val g.temp).m = 0 then (((live.mergeSort candBefore).head?.map Prod.fst).getD 0, bad, false)
  else
    let it := vRecip g.temp
    let z2 := z1.map (fun e => (e.1, if e.2 = f32Inf true then e.2 else vMul e.2 it))
    let cand := ((z2.filter (fun e => e.2 ≠ f32Inf true)).mergeSort candBefore).take g.topK
    let m := (cand.head?.map Prod.snd).getD 0
    let p := cand.map (fun e => (e.1, vExp (vSub e.2 m)))
    let zsum := vSum (z2.map (fun e => vExp (vSub e.2 m)))
    let (kept, cut) := if g.topP = 0x3F800000 then (p, false)
      else match keepPrefix (vMul g.topP zsum) p 0 [] with
        | some l => (l, false)
        | none => (p, true)
    let total := kept.foldl (fun a e => vAdd a e.2) 0
    let u := ((⟨draw, -24⟩ : Dy).toF32 false).1
    let tok := match pickAbove (vMul u total) kept 0 with
      | some t => t
      | none => (kept.getD (Config.sampleCorner draw % max kept.length 1) (0, 0)).1
    (tok, bad, cut)

/-- SAMPLING: one row of the oldest entered instance of a bushel slot (R337). A void row draws nothing and arrives void. -/
def execSampling (bushel : Nat) (row : Fin 32) (logits : List FpBits) (flagIn isVoid : Bool) (s : State) :
    Host.Outcome State Fault Refusal :=
  match s.rqt.bushels.find? (fun b => b.slot = bushel ∧ b.entered) with
  | none => .next s
  | some b =>
    match b.rows[row.val]? with
    | none => .next s
    | some w =>
      let bit : BitVec 32 := (1 : BitVec 32) <<< row.val
      if !w.filled then .next s
      else if isVoid ∨ b.voided.getLsbD row.val then .next (s.voidRows (some b.key) (bit &&& ~~~ b.voided))
      else
        let r := s.req w.slot
        -- the overlay: draft tokens 1 to k of the row's own request
        let chain := (b.rows.filter (fun x => x.slot == w.slot && x.gen == w.gen && !x.isPrompt && decide (0 < x.k) && decide (x.k ≤ w.k) && x.filled)).map (fun x => x.tok)
        let cnt := fun (v : Nat) => leNat (s.stackRead (r.countPtr * 256 + 2 * v) 2) + chain.count v
        let (tok, bad, cut) := sampleToken (sampleCfg r.samp) r.pen cnt (samplingDraw r.seed w.pos) logits
        let s := (s.add RQT_SMP_BAD_COUNT bad).add RQT_TOPP_TRUNC_COUNT (if cut then 1 else 0)
        let nb := { b with drawn := SMap.set (fun _ => ((0 : Nat), false)) b.drawn row.val (tok, flagIn || decide (0 < bad)) }
        .next { s with rqt := { s.rqt with bushels := s.rqt.bushels.map (fun (x : Bushel) => if x.key = b.key then nb else x) } }

end Sys2Proof.Machine
end

