-- ==== Sys2Proof/Machine/Tiles.lean ====
section
/-! DEFINITION. Chunks and tile records: the LZ4 block, the records of a shard, the quantisation on arrival and the
layout of a tile in a tier (R37 to R44, R63, R87, R122, R348 to R352). -/
namespace Sys2Proof.Machine

/-! ### The LZ4 block (R350). The block format is that of the published format; PRESUMED (log entry 13) -/

/-- A length's extension bytes: the sum, and the rest; none where the block ends inside. Log entry 13 (PRESUMED). -/
def lz4Len : Nat → List Byte → Nat → Option (Nat × List Byte)
  | 0, _, _ => none
  | _, [], _ => none
  | n + 1, b :: bs, acc => if b = 255 then lz4Len n bs (acc + 255) else some (acc + b.toNat, bs)

/-- Copy a match of `n` bytes from `off` bytes back, over the reversed output. Log entry 13 (PRESUMED). -/
def lz4Copy (off : Nat) : Nat → List Byte → List Byte
  | 0, out => out
  | n + 1, out => lz4Copy off n (out.getD (off - 1) 0 :: out)

/-- Expand sequences onto the reversed output. Log entry 13 (PRESUMED). -/
def lz4Go : Nat → List Byte → List Byte → Option (List Byte)
  | 0, _, _ => none
  | _, [], _ => none
  | n + 1, t :: bs, out =>
    let lit := t.toNat / 16
    match (if lit = 15 then lz4Len (bs.length + 1) bs 15 else some (lit, bs)) with
    | none => none
    | some (lit, bs) =>
      if bs.length < lit then none
      else
        let out := (bs.take lit).reverse ++ out
        match bs.drop lit with
        | [] => some out
        | [_] => none
        | o0 :: o1 :: rest =>
          let off := o0.toNat + 256 * o1.toNat
          let m := t.toNat % 16
          match (if m = 15 then lz4Len (rest.length + 1) rest 15 else some (m, rest)) with
          | none => none
          | some (m, rest) =>
            if off = 0 ∨ out.length < off then none else lz4Go n rest (lz4Copy off (m + 4) out)

def lz4 (bs : List Byte) : Option (List Byte) := (lz4Go (bs.length + 1) bs []).map List.reverse

/-! ### The manifest and the chunk header (R348, R350) -/

/-- The bytes of these runs are 0. -/
def zeroRuns (b : List Byte) (l : List (Nat × Nat)) : Bool := l.all (fun r => ((b.take r.2).drop r.1).all (· == 0))

/-- The fields of a manifest; none where its form is wrong. -/
def parseManifest (b : List Byte) : Option Manifest :=
  let n := fieldLE b 32 4
  if fieldLE b 0 4 ≠ 0x51544D46 ∨ fieldLE b 4 2 ≠ 1 ∨ 2 < fieldLE b 6 1 ∨ 2 < fieldLE b 7 1 ∨ fieldLE b 16 4 = 0 ∨
      n = 0 ∨ 65536 < n ∨ b.length ≠ 128 + 64 * n + 96 ∨ 7 < fieldLE b 36 1 ∨
      (fieldLE b 6 1 = 1 ∧ fieldLE b 24 8 ≠ 0) ∨ (fieldLE b 6 1 ≠ 1 ∧ fieldLE b 48 4 ≠ 0) ∨ !zeroRuns b [(22, 24), (37, 40), (52, 128)] ∨
      (List.range n).any (fun k => fieldLE b (128 + 64 * k + 48) 4 % 64 ≠ 0 ∨ !zeroRuns b [(128 + 64 * k + 56, 128 + 64 * k + 64)]) then none
  else some ⟨fieldLE b 6 1, fieldLE b 7 1, fieldLE b 8 8, fieldLE b 16 4, fieldLE b 20 2 % 1024, BitVec.ofNat 64 (fieldLE b 24 8),
    n, fieldLE b 36 1, fieldLE b 48 4, (List.range n).map (fun k => fieldLE b (128 + 64 * k + 52) 4)⟩

/-- The plaintext of a chunk, or the code its load fails with (R350, R356). -/
def chunkPlain (m : Manifest) (k : Nat) (h payload : List Byte) (tagOk hashOk : Bool) : Nat ⊕ List Byte :=
  let clen := fieldLE h 8 4
  let plen := fieldLE h 12 4
  let packed := decide (fieldLE h 4 1 % 2 = 1)
  if h.length ≠ 32 ∨ fieldLE h 0 4 ≠ k ∨ payload.length ≠ clen ∨ m.slens.getD k 0 ≠ clen + 48 ∨ 1048576 < plen ∨
      (k + 1 < m.nChunk ∧ plen ≠ 1048576) ∨ (!packed ∧ clen ≠ plen) then .inl 0x03
  else if !tagOk then .inl 0x04
  else if !hashOk then .inl 0x05
  else if !packed then .inr payload
  else match lz4 payload with
    | some out => if out.length = plen then .inr out else .inl 0x06
    | none => .inl 0x06

/-! ### Tile records (R351) -/

/-- Split a stream into whole records, as header and data, and the rest. -/
def splitRecs : Nat → List Byte → List (List Byte × List Byte) × List Byte
  | 0, b => ([], b)
  | n + 1, b =>
    let len := fieldLE b 16 4
    if b.length < 32 ∨ b.length < 32 + len then ([], b)
    else
      let r := splitRecs n (b.drop (32 + len))
      ((b.take 32, (b.drop 32).take len) :: r.1, r.2)

/-- Element i of a run of two's-complement values of w bits, packed from bit 0 of each byte upwards. -/
def packedInt (bs : List Byte) (w i : Nat) : Int :=
  let v := leNat ((bs.drop (i * w / 8)).take 2) / 2 ^ (i * w % 8) % 2 ^ w
  if 2 ^ (w - 1) ≤ v then (v : Int) - (2 ^ w : Nat) else v

/-- The bytes that a record's data takes (R351). -/
def recLen (bf16 bias : Bool) (bits nAct nCol nMir : Nat) : Nat :=
  nAct * (if bf16 then 2 * nCol else (nCol * bits + 7) / 8) + (if bf16 then 0 else 5 * nCol) + (if bias then 4 * nCol else 0) +
    nMir * (2 + (if bf16 then 0 else nCol)) + (if bf16 ∨ nMir = 0 then 0 else 2 * nCol)

/-- Round to nearest, ties to even. -/
def nearestEven (q : Rat) : Int :=
  let f := q.floor
  let r := q - f
  if r < 1 / 2 then f else if 1 / 2 < r then f + 1 else if f % 2 = 0 then f else f + 1

/-- A non-negative value rounded up to FP16; none above 65,504 (R352). -/
def f16Up (q : Rat) : Option (BitVec 16) :=
  if q ≤ 0 then some 0
  else
    let n := (List.range 15).foldl (fun n k =>
      let c := n + 2 ^ (14 - k)
      if c ≤ 0x7BFF ∧ (f16Val (BitVec.ofNat 16 c)).rat < q then c else n) 0
    if n + 1 ≤ 0x7BFF then some (BitVec.ofNat 16 (n + 1)) else none

def ratAbs (q : Rat) : Rat := if q < 0 then -q else q
def ratMax (l : List Rat) : Rat := l.foldl (fun a b => if a < b then b else a) 0

/-- One quantised column of a BF16 source: scale, group shifts, weights; none where the scale is out of range (R352).
`draw` gives the stochastic rounding of a row, none for rounding to nearest. -/
def quantColumn (bits : Nat) (z : List Rat) (draw : Option (Nat → Nat)) : Option (BitVec 16 × List Nat × List Int) :=
  let q : Rat := ((2 ^ (bits - 1) - 1 : Nat) : Rat)
  let m := ratMax (z.map ratAbs)
  if m = 0 then some (0, List.replicate 8 0, z.map (fun _ => 0))
  else match f16Up (m / (q * 128)) with
  | none => none
  | some sg =>
    let sigma := (f16Val sg).rat
    let g := (List.range 8).map (fun j =>
      let mG := ratMax (((z.drop (128 * j)).take 128).map ratAbs)
      ((List.range 8).find? (fun g => mG ≤ q * 2 ^ g * sigma)).getD 7)
    some (sg, g, z.zipIdx.map (fun e =>
      let v := e.1 / (2 ^ (g.getD (e.2 / 128) 0) * sigma)
      let w := match draw with
        | some r => (v + ((r e.2 : Nat) : Rat) / 65536).floor
        | none => nearestEven v
      limit (-(2 ^ (bits - 1) : Nat)) ((2 ^ (bits - 1) - 1 : Nat)) w))

/-- The mirror weights and scale of one column of a BF16 source (R352). -/
def quantMirror (z : List Rat) : Option (BitVec 16 × List Int) :=
  match f16Up (ratMax (z.map ratAbs) / 127) with
  | none => none
  | some t => let tau := (f16Val t).rat
    some (t, z.map (fun v => if tau = 0 then 0 else nearestEven (v / tau)))

/-- The rounding stream of a BF16 source (R352, R105 selector 5). -/
def arrivalStream (m : Manifest) (lcore eng num : Nat) : Stream := ⟨m.qseed, m.epoch, 0, 64 * lcore + 8 * eng + num, 0, 5, 0⟩

/-- The values of a record whose header has been checked, or the code that its load fails with (R351, R352). -/
def recValues (m : Manifest) (lcore eng num bits nAct nCol nMir : Nat) (bias : Bool) (mirror : List Nat) (b : List Byte) :
    Nat ⊕ TileRec :=
  let beta := fun (at_ : Nat) => if bias then (List.range nCol).map (fun k => BitVec.ofNat 32 (fieldLE b (at_ + 4 * k) 4)) else []
  if m.quant = 0 then
    let row := (nCol * bits + 7) / 8
    let a1 := nAct * row
    let a2 := a1 + 3 * nCol
    let a3 := a2 + 2 * nCol
    let a4 := a3 + (if bias then 4 * nCol else 0)
    let a5 := a4 + nMir * (2 + nCol)
    if (List.range nMir).map (fun i => fieldLE b (a4 + i * (2 + nCol)) 2) ≠ mirror then .inl 0x03
    else .inr ⟨(List.range nAct).map (fun r => (List.range nCol).map (packedInt (b.drop (r * row)) bits)),
      (List.range nCol).map (fun k => (List.range 8).map (fun j => fieldLE b (a1 + 3 * k) 3 / 2 ^ (3 * j) % 8)),
      (List.range nCol).map (fun k => BitVec.ofNat 16 (fieldLE b (a2 + 2 * k) 2)), beta a3,
      (List.range nMir).map (fun i => (List.range nCol).map (packedInt (b.drop (a4 + i * (2 + nCol) + 2)) 8)),
      if nMir = 0 then [] else (List.range nCol).map (fun k => BitVec.ofNat 16 (fieldLE b (a5 + 2 * k) 2))⟩
  else
    let z := fun (r k : Nat) => bf16ToF32 (BitVec.ofNat 16 (fieldLE b (2 * (r * nCol + k)) 2))
    let a3 := 2 * nAct * nCol
    let a4 := a3 + (if bias then 4 * nCol else 0)
    if (List.range nMir).map (fun i => fieldLE b (a4 + 2 * i) 2) ≠ mirror then .inl 0x03
    else if (List.range nAct).any (fun r => (List.range nCol).any (fun k => !f32Finite (z r k))) then .inl 0x07
    else
      let st := arrivalStream m lcore eng num
      let cols := (List.range nCol).map (fun k =>
        quantColumn bits ((List.range nAct).map (fun r => (f32Val (z r k)).rat))
          (if m.quant = 2 then some (fun r => st.draw (1024 * r + k)) else none))
      let mir := (List.range nCol).map (fun k => quantMirror (mirror.map (fun r => (f32Val (z r k)).rat)))
      if cols.any Option.isNone ∨ mir.any Option.isNone then .inl 0x07
      else
        let c := cols.map (fun x => x.getD (0, [], []))
        let t := mir.map (fun x => x.getD (0, []))
        .inr ⟨(List.range nAct).map (fun r => c.map (fun x => x.2.2.getD r 0)), c.map (fun x => x.2.1), c.map Prod.fst, beta a3,
          (List.range nMir).map (fun i => t.map (fun x => x.2.getD i 0)), if nMir = 0 then [] else t.map Prod.fst⟩

/-! ### Layout (R37, R42 to R44, R63, R64) -/

/-- The level of digit j of a weight (R42, R63). -/
def digitLevel (exact : Bool) (bits : Nat) (w : Int) (j : Nat) : Nat :=
  let u := (w + (2 ^ (bits - 1) : Nat)).toNat
  if exact then u / 2 ^ j % 2 * 3 else u / 4 ^ j % 4

/-- The levels of a tile's cells: physical row, data column, level (R42 to R44, R51). -/
def tileCells (d : TileDecl) (rm : RowMap) (r : TileRec) : List (Nat × Nat × Nat) :=
  let m := digitsPer d.exact d.bits
  r.weights.zipIdx.flatMap (fun e => e.1.zipIdx.flatMap (fun w =>
    if d.used w.2 then (List.range m).map (fun j => (rm.phys e.2, m * w.2 + j, digitLevel d.exact d.bits w.1 j)) else []))

/-- What a programmed tier holds (R37, R41, R87): `w` is the number of programs completed before this one. -/
def tileTier (d : TileDecl) (rm : RowMap) (r : TileRec) (corpus : Bool) (copy : Option Nat) (epoch w time role : Nat) : Tier :=
  let cells := tileCells d rm r
  let bump := fun (m : SMap Nat) (k n : Nat) => SMap.set (fun _ => 0) m k (SMap.get (fun _ => 0) m k + n)
  { Tier.blank with
    epoch := epoch, progCount := w + 1, progTime := time, bits := d.bits, exact := d.exact, corpus := corpus, witIdx := w % 64,
    active := (List.range d.nAct).foldl (fun m i => bump m (rm.phys i / 32) 1) []
    digits := cells.foldl (fun m c => bump m (c.2.1 * 32 + c.1 / 32) (if d.exact then c.2.2 / 3 else c.2.2)) []
    cells := cells.foldl (fun m c => SMap.set (fun _ => 0) m (c.1 * 1048 + c.2.1) c.2.2) []
    sigma := r.sigma.zipIdx.foldl (fun m e => SMap.set (fun _ => 0) m e.2 e.1) []
    shifts := r.shifts.zipIdx.foldl (fun m e => SMap.set (fun _ => []) m e.2 e.1) []
    bias := r.bias.zipIdx.foldl (fun m e => SMap.set (fun _ => 0) m e.2 e.1) []
    role := role, tile := some d.num, copy := copy, mapped := true }

end Sys2Proof.Machine
end

