-- ==== Sys2Proof/Machine/Weights.lean ====
section
/-! DEFINITION. Loads, programming, epochs and flips (R346 to R366, R412, R438, R459). -/
namespace Sys2Proof.Machine

/-! ### Roles and epochs (R347, R357, R358, R360) -/

/-- PREV tiers of the path exist (R360). -/
def State.prevHeld (s : State) : Bool := s.tiers.any (fun e => e.2.role == 2 && !e.2.corpus)

/-- A tier may be offered for a flip (R141, R360): it is not fresh, or the image accepts fresh-tier trims and its 10 s
settling round has ended. -/
def State.isFresh (s : State) (core eng tier : Nat) : Bool := decide (s.fldAt (engI core eng) ENG_TIER_ADV_FRESH / 2 ^ tier % 2 = 1)
def State.offered (s : State) (core eng tier : Nat) : Bool :=
  !s.isFresh core eng tier || (s.boot.image.freshTrims && decide (2 ≤ (s.tierCal core eng tier).settleDone))

def State.isStandby (s : State) : Bool := s.isSet GLB_STATE_STANDBY

/-- The epoch that waits for its flip (R357, R365): of the pending tiers, or on a standby of its newer copies. -/
def State.pendEpoch (s : State) : Nat :=
  let cur := s.fld LD_EPOCH_CUR_EPOCH
  ((s.tiers.filter (fun e => !e.2.corpus && ((e.2.role == 3 && decide (e.2.epoch ≠ cur)) ||
    (e.2.role == 5 && decide (cur < e.2.epoch))))).map (fun e => e.2.epoch)).foldl Nat.max 0

/-- Ready for a flip to an epoch (R360, R365, R414): no load of it runs, its tiers may be offered, no logical core is in
repair, and a standby has room for every copy. -/
def State.flipReady (s : State) (e : Nat) : Bool :=
  !(match s.weights.load with | some l => l.man.any (fun m => m.epoch == e) | none => false) &&
  s.faults.repairs.isEmpty &&
  s.tiers.all (fun x => !((x.2.role == 3 || x.2.role == 5) && x.2.epoch == e && !x.2.corpus) ||
    s.offered (x.1 / 64) (x.1 / 8 % 8) (x.1 % 8)) &&
  (s.boot.image.tiles.all (fun d => !(d.standby.isSome && d.dbl) ||
    (match s.physOf d.core with
      | some p => (s.tiersOf p d.engine d.num d.standby 5).any (fun t => (s.tier p d.engine t).epoch == e)
      | none => false)))

/-- LD_EPOCH_PREV, LD_EPOCH_PEND and LD_FLIP_STAT follow the tiers (R373). -/
def State.showEpochs (s : State) : State :=
  let p := s.pendEpoch
  let s := (s.put LD_EPOCH_PEND_EPOCH p).flag LD_FLIP_STAT_PREV_HELD s.prevHeld
  let s := if s.prevHeld then s else s.put LD_EPOCH_PREV_EPOCH 0
  (s.flag LD_FLIP_STAT_PENDING (s.weights.flip.isSome || s.weights.late.isSome)).flag LD_FLIP_STAT_READY
    (decide (p ≠ 0) && s.flipReady p)

/-! ### Starting a load (R353, R356) -/

/-- Start the load of a manifest at a host address: dropped while one runs. Log entry 66 (DEDUCED). -/
def State.startLoad (s : State) (addr len : Nat) : State :=
  if s.isSet LD_STAT_BUSY then s
  else
    let s := ((s.put LD_STAT_BUSY 1).put LD_CHUNK_DONE_COUNT 0).put LD_TILE_DONE_COUNT 0
    { s with weights := { s.weights with load := some ⟨addr, len, none, 0, 0, [], [], none⟩ } }

/-- Free a tier that holds nothing to be kept: its program count stays. -/
def State.freeTier (s : State) (core eng tier : Nat) : State := (s.setRole core eng tier 0).logCoreMap core

/-- A load fails (R356): it stops, and the tiers that it programmed or was programming become free. A failed repair
fetch fences the spare (R363, R414), and a paused load goes on. -/
def State.failLoad (s : State) (code : Nat) : State :=
  match s.weights.load with
  | none => s
  | some l =>
    let s := l.tiles.foldl (fun s (t : StagedTile) =>
      match t.tier with
      | some k => if (s.tier t.core t.eng k).role = 7 then s else s.freeTier t.core t.eng k
      | none => s) s
    let s := { s with weights := { s.weights with load := s.weights.paused, paused := none } }
    let s := (((s.complete17 LD_STAT_FAILED).put LD_STAT_FAIL_CODE code).add LD_FAIL_CNT_COUNT 1).flag LD_STAT_BUSY s.weights.load.isSome
    let s := match l.repair with
      | some c => (match s.faults.repairs.find? (fun (r : Repair) => r.logical = c) with
        | some r => s.requestFence r.spare
        | none => s)
      | none => s
    s.settle.showEpochs

/-- The whole load is programmed (R353): DONE is set, and a load that a repair paused goes on. Log entry 66 (DEDUCED). -/
def State.endLoad (s : State) : State :=
  match s.weights.load with
  | some l =>
    if l.repair.isNone ∧ l.man.any (fun m => l.chunk == m.nChunk) ∧ l.tiles.all (fun t => t.done) then
      let s := { s with weights := { s.weights with load := none } }
      ((s.complete17 LD_STAT_DONE).put LD_STAT_BUSY 0).settle.showEpochs.advanceStart
    else s
  | none => s

/-- LD_CTRL (R353, R356, R373): ABORT stops the load that runs; START starts one where none runs. -/
def State.ldCtrl (s : State) (w : Wr) : State :=
  let (t, d) := s.write w 0x400800
  if s.isSet LD_STAT_BUSY then (if acts d LD_CTRL_ABORT then t.failLoad 0x0F else t)
  else if acts d LD_CTRL_START then
    t.startLoad (t.fld LD_MAN_LO_VALUE + 2 ^ 32 * t.fld LD_MAN_HI_VALUE) (t.fld LD_MAN_LEN_VALUE)
  else t

/-- LD_START: a write of LD_CTRL with START. -/
def execLdStart (w : Wr) (s : State) : Host.Outcome State Fault Refusal := .next (s.ldCtrl w)

/-- LD_ABORT: a write of LD_CTRL with ABORT. Program steps are whole commands, so none is in progress. -/
def execLdAbort (w : Wr) (s : State) : Host.Outcome State Fault Refusal := .next (s.ldCtrl w)

/-- MC_LOAD_COMMAND: the control core starts a load on a command of the management controller (R353). -/
def execMcLoadCommand (addr : BitVec 64) (len : Nat) (s : State) : Host.Outcome State Fault Refusal :=
  .next (if s.mgmtUp then s.startLoad addr.toNat len else s)

/-! ### Manifests and records against the image (R349, R351, R357, R363) -/

/-- The role that a manifest names (R349, R365): this module's own, or a covered role by index. -/
def State.manifestCopy (s : State) (m : Manifest) : Option (Option Nat) :=
  let im := s.boot.image
  if m.role = im.group * 64 + im.module then some none
  else
    let k := im.covers.findIdx (fun r => r.group * 64 + r.module = m.role)
    if k < im.covers.length then some (some k) else none

/-- The tiers that a repair restores: engine and tier of the fenced core (R363, R412). -/
def State.repairNeeds (s : State) (fenced : Nat) : List (Nat × Nat) :=
  ((List.range 64).map (fun k => (k / 8, k % 8))).filter (fun e => (s.tier fenced e.1 e.2).role ∈ [1, 2, 3, 4, 5])

/-- Check a fetched manifest; the code of the first failing check, or its fields (R348, R349, R356). -/
def State.acceptManifest (s : State) (l : Load) (b : List Byte) (sigOk : Bool) : Nat ⊕ Manifest :=
  match parseManifest b with
  | none => .inl 0x03
  | some m =>
    let im := s.boot.image
    if b.length ≠ l.len ∧ l.repair.isNone then .inl 0x03
    else if im.pubKeys ≤ m.pubKey then .inl 0x02
    else if !sigOk then .inl 0x01
    else if m.model ≠ im.model ∨ m.kind = 1 ∨ (s.manifestCopy m).isNone then .inl 0x03
    else if l.repair.isNone ∧ !im.weightWindows.any (fun w => decide (w.2.1 ≤ l.addr) && decide (l.addr + l.len ≤ w.2.1 + w.2.2)) then .inl 0x03
    else .inr m

/-- Check one tile record and stage its tile (R351, R357, R363); a record that a repair does not need is passed over. -/
def State.stageRec (s : State) (l : Load) (m : Manifest) (rec_ : List Byte × List Byte) : Nat ⊕ List StagedTile :=
  let h := rec_.1
  let lcore := fieldLE h 0 2
  let eng := fieldLE h 2 1 % 8
  let num := fieldLE h 2 1 / 8 % 8
  let fmt := fieldLE h 3 1
  let nMir := fieldLE h 8 1
  let bias := decide (fieldLE h 9 1 % 2 = 1)
  let copy := (s.manifestCopy m).getD none
  let im := s.boot.image
  match im.tiles.find? (fun d => decide (d.core = lcore ∧ d.engine = eng ∧ d.num = num ∧ d.standby = copy) &&
      (im.isCorpus d.core d.engine d.num == (m.kind == 2))) with
  | none => .inl 0x03
  | some d =>
    if 0 < nMir ∧ !d.mirrorEntry then .inl 0x0E
    else if 2 + 2 * (fmt % 4) ≠ d.bits ∨ decide (fmt / 4 % 2 = 1) ≠ d.exact ∨ decide (fmt / 8 % 2 = 1) ≠ decide (m.quant ≠ 0) ∨
        fieldLE h 4 2 ≠ d.nAct ∨ fieldLE h 6 2 ≠ d.cols ∨ nMir ≠ d.mirror.length ∨
        rec_.2.length ≠ recLen (decide (m.quant ≠ 0)) bias d.bits d.nAct d.cols nMir then .inl 0x03
    else match recValues m lcore eng num d.bits d.nAct d.cols nMir bias d.mirror rec_.2 with
    | .inl c => .inl c
    | .inr v =>
      match l.repair with
      | some c =>
        (match s.faults.repairs.find? (fun r => r.logical = c) with
        | some r => if lcore ≠ c then .inr [] else
          .inr (((s.repairNeeds r.fenced).filter (fun e =>
            let x := s.tier r.fenced e.1 e.2
            decide (e.1 = eng ∧ x.tile = some num ∧ x.copy = copy ∧ x.epoch = m.epoch))).map (fun e =>
              ⟨r.spare, eng, num, copy, none, 0, 0, false, 0, false, (s.tier r.fenced e.1 e.2).role, m.epoch, v⟩))
        | none => .inr [])
      | none =>
        match s.physOf lcore with
        | none => .inl 0x08
        | some p =>
          let held := if m.kind = 2 ∧ !s.isStandby then 4 else if copy.isSome ∨ s.isStandby then 5 else 1
          let cur := ((s.tiersOf p eng num copy held).map (fun t => (s.tier p eng t).epoch)).foldl Nat.max 0
          let pend := (s.tiersOf p eng num copy 3).any (fun t => decide ((s.tier p eng t).epoch ≠ m.epoch))
          if m.epoch < cur ∨ !(s.tiersOf p eng num copy 2).isEmpty ∨ pend then .inl 0x0D
          else
            let role := if m.kind = 2 ∧ !s.isStandby then 3 else if held = 5 then 5 else if cur = 0 ∧ m.epoch = s.fld LD_EPOCH_CUR_EPOCH then 1 else 3
            .inr [⟨p, eng, num, copy, none, 0, 0, false, 0, false, role, m.epoch, v⟩]

/-- Stage the records of a stream in order, up to the first that fails. -/
def State.stageRecs (s : State) (l : Load) (m : Manifest) : List (List Byte × List Byte) → List StagedTile → Nat ⊕ List StagedTile
  | [], acc => .inr acc
  | r :: rs, acc =>
    match s.stageRec l m r with
    | .inl c => .inl c
    | .inr ts => s.stageRecs l m rs (acc ++ ts)

def State.setLoad (s : State) (l : Load) : State := { s with weights := { s.weights with load := some l } }

/-- A fetch of the load that runs has come (R353 steps 1 to 6). A repair fetch takes one manifest after another. Log entry 66 (DEDUCED). -/
def State.loadIn (s : State) (l : Load) (d : Fetched) : State :=
  match d with
  | .failed => if 3 ≤ l.attempts then s.failLoad 0x0C else s.setLoad { l with attempts := l.attempts + 1 }
  | .manifest b sigOk =>
    if l.man.isSome then s
    else match s.acceptManifest l b sigOk with
    | .inl c => s.failLoad c
    | .inr m => s.setLoad { l with man := some m, attempts := 0 }
  | .chunk h payload tagOk hashOk =>
    match l.man with
    | none => s
    | some m =>
      if m.nChunk ≤ l.chunk then s
      else if !s.isSet SEC_STAT_KEY_RELEASED then s.failLoad 0x0B
      else match chunkPlain m l.chunk h payload tagOk hashOk with
      | .inl c => s.failLoad c
      | .inr plain =>
        let s := s.add LD_CHUNK_DONE_COUNT 1
        let b := l.stream ++ plain
        let (recs, rest) := splitRecs (b.length + 1) b
        match s.stageRecs l m recs [] with
        | .inl c => s.failLoad c
        | .inr ts =>
          let last := decide (l.chunk + 1 = m.nChunk)
          if last ∧ !rest.isEmpty then s.failLoad 0x03
          else
            let l := { l with chunk := l.chunk + 1, attempts := 0, stream := rest, tiles := l.tiles ++ ts }
            if last ∧ l.repair.isSome then s.setLoad { l with man := none, chunk := 0 }
            else (s.setLoad l).endLoad

/-- A fetch from the load's window: it fails where the window is private and DMA does not reach it (R391). -/
def State.fetched (s : State) (l : Load) (d : Fetched) : Fetched :=
  if s.boot.image.weightWindows.any (fun w => decide (w.2.1 ≤ l.addr) && decide (l.addr < w.2.1 + w.2.2) && !s.dma w.2.1 w.2.2) then .failed else d

/-- CHUNK_ARRIVAL: a fetch of the running load; it pauses while the staging extents are full. -/
def execChunkArrival (d : Fetched) (s : State) : Host.Outcome State Fault Refusal :=
  .next (match s.weights.load with
    | none => s
    | some l => if s.boot.image.stageTiles ≤ l.tiles.countP (fun t => !t.done) then s else s.loadIn l (s.fetched l d))

/-! ### Programming (R36, R354, R355, R357, R364) -/

/-- The target tier of a staged tile, and whether it is the tile's CUR tier; or the code its load fails with (R353,
R355, R364). -/
def State.chooseTier (s : State) (t : StagedTile) (repair : Bool) : Nat ⊕ (Nat × Bool) :=
  let free := (List.range 8).filter (fun k => (s.tier t.core t.eng k).role = 0)
  let cur := (s.tiersOf t.core t.eng t.num t.copy 1).head?
  let dbl := ((s.tileDecl t.core t.eng t.num).map TileDecl.dbl).getD false
  let inPlace := fun (k : Nat) => if 100000 ≤ (s.tier t.core t.eng k).progCount then Sum.inl 0x0A else Sum.inr (k, true)
  let ok := free.filter (fun k => (s.tier t.core t.eng k).progCount < 100000)
  if !repair ∧ s.loadVariant ∧ !dbl ∧ cur.isSome then inPlace (cur.getD 0)
  else match ok.head? with
    | some k => .inr (k, false)
    | none =>
      if !free.isEmpty then .inl 0x0A
      else if !repair ∧ s.loadVariant ∧ cur.isSome then inPlace (cur.getD 0)
      else .inl 0x08

/-- A tier has been programmed: it is fresh, and its calibration starts anew (R128, R141). -/
def State.markFresh (s : State) (core eng tier : Nat) : State :=
  let i := engI core eng
  let off := fun (s : State) (f g : Fld) => let v := s.fldAt i f
    if v / 2 ^ tier % 2 = 1 then (s.putAt i f (v - 2 ^ tier)).put g (s.fld g - 1) else s
  let s := off (off s ENG_TIER_ADV_ADVISED ASZ_TIER_CNT_ADVISED) ENG_TIER_ADV_BEYOND ASZ_TIER_CNT_BEYOND
  let s := (List.range 32).foldl (fun (s : State) p =>
    s.setBand core eng tier p { s.band core eng tier p with lastSettle := none, decade := none }) (s.setTierCal core eng tier TierCal.init)
  if s.isFresh core eng tier then s
  else (s.putAt i ENG_TIER_ADV_FRESH (s.fldAt i ENG_TIER_ADV_FRESH + 2 ^ tier)).add ASZ_FRESH_CNT_COUNT 1

/-- A corpus without an epoch in force takes the first epoch that every one of its tiles holds (R459). -/
def State.corpusForce (s : State) (epoch : Nat) : State :=
  s.boot.image.corpora.foldl (fun (s : State) (c : Corpus) =>
    let at_ := c.tiles.map (fun t => (s.physOf t.core).bind (fun p =>
      ((s.tiersOf p t.engine t.tile none 3).find? (fun k => (s.tier p t.engine k).epoch = epoch)).map (fun k => (p, t.engine, k))))
    if SMap.get (fun _ => 0) s.rtv.epoch c.num ≠ 0 ∨ at_.any Option.isNone then s
    else
      let s := at_.foldl (fun s x => match x with | some (p, e, k) => s.setRole p e k 4 | none => s) s
      { s with rtv := { s.rtv with epoch := SMap.set (fun _ => 0) s.rtv.epoch c.num epoch } }) s

/-- A tier is programmed (R354, R37): its contents, its role, its CORE_MAP record; a missing tile may complete step 8
(R438). -/
def State.finishTier (s : State) (t : StagedTile) (tier : Nat) : State :=
  match s.boot.image.tiles.find? (fun d => decide (some d.core = s.logicalOf t.core ∨ s.faults.repairs.any (fun r =>
      r.spare = t.core ∧ r.logical = d.core)) && decide (d.engine = t.eng ∧ d.num = t.num ∧ d.standby = t.copy)) with
  | none => s
  | some d =>
    let corpus := s.boot.image.isCorpus d.core d.engine d.num
    let w := (s.tier t.core t.eng tier).progCount
    let new := tileTier d (s.rowMapAt t.core t.eng tier t.epoch) t.data corpus t.copy t.epoch w s.tb.rod t.role
    let old := if t.role = 3 then s.tiersOf t.core t.eng t.num t.copy 3 else []
    let s := old.foldl (fun s k => s.setRole t.core t.eng k 0) s
    let s := (s.setTier t.core t.eng tier new).setRole t.core t.eng tier t.role
    let mirror : Option Mirror := if t.data.mirW = [] then none else some ⟨t.data.mirW, t.data.mirScale⟩
    let s := { s with
      weights := { s.weights with mirrors := SMap.set (fun _ => none) s.weights.mirrors (tierKey t.core t.eng tier) mirror }
      boot := { s.boot with missing := s.boot.missing.filter (fun x => !(t.role == 1 && decide (x = (t.core, t.eng * 8 + t.num)))) } }
    let s := ((s.add LD_TILE_DONE_COUNT 1).markFresh t.core t.eng tier).logCoreMap t.core
    if corpus ∧ !s.isStandby then s.corpusForce t.epoch else s

/-- Replace the staged tile at index k of the running load. -/
def State.setStaged (s : State) (k : Nat) (t : StagedTile) : State :=
  match s.weights.load with
  | some l => s.setLoad { l with tiles := l.tiles.set k t }
  | none => s

/-- The verify of one program step (R354): the row verifies, or it is stepped again, retried once, or fails the tier. Log entry 21 (DESIGN CHOICE). -/
def State.stepRow (s : State) (k : Nat) (t : StagedTile) (tier : Nat) (ok injected : Bool) : State :=
  let i := engI t.core t.eng
  if ok then
    if t.row + 1 < 1024 + 1 + Config.metaRows.val then s.setStaged k { t with row := t.row + 1, step := 0, retried := false }
    else ((s.setStaged k { t with done := true }).finishTier t tier).endLoad.advanceStart
  else if t.step < 7 then s.setStaged k { t with step := t.step + 1 }
  else if !t.retried then (s.addAt i ENG_PROG_RETRY_COUNT 1).setStaged k { t with step := 0, retried := true }
  else
    let s := (s.faultRecord ⟨0x20, t.core, t.eng, tier, t.row / 32 % 32, t.row, 0, s.tb.rod, injected⟩)
    ((s.setRole t.core t.eng tier 7).logCoreMap t.core).failLoad 0x09

/-- PROGRAM_STEP: one pulse on the running row of the engine's staged tile, and its verify (R354). The first step takes
the target tier; a program step leaves no tier live (R36). Under a schedule a step runs only in a program window (R189). -/
def execProgramStep (core : CoreId) (eng : EngId) (verified : Bool) (s : State) : Host.Outcome State Fault Refusal :=
  .next (match s.weights.load with
    | none => s
    | some l =>
      let k := l.tiles.findIdx (fun t => decide (t.core = core.val ∧ t.eng = eng.val) && !t.done)
      match l.tiles[k]? with
      | none => s
      | some t =>
        if s.domainOff core ∨ (s.coreRunning core ∧ !s.placed core (.engine eng) .program) then s
        else match (match t.tier with | some x => Sum.inr (x, false) | none => s.chooseTier t l.repair.isSome) with
        | .inl c => s.failLoad c
        | .inr (tier, inPlace) =>
          let t := { t with tier := some tier, role := if inPlace then 1 else t.role }
          let old := s.tier core eng tier
          let s := if old.role = 6 then s else
            (s.setTier core eng tier { Tier.blank with progCount := old.progCount, tile := some t.num, copy := t.copy }).setRole core eng tier 6
          let s := ((s.putAt (engI core eng) ENG_STAT_LIVE 0).putAt (engI core eng) ENG_STAT_EXACT 0).putAt (engI core eng) ENG_STAT_PROG_TIER tier
          let (s, inj) := s.tryInject 0x20 core eng
          let forced := inj.getD t.forced
          s.stepRow k { t with forced := forced - 1 } tier (verified && forced == 0) (decide (0 < forced)))

/-! ### Flips (R358 to R362) -/

/-- An EPOCH message (R360, R361): counted and ignored while PREV tiers exist; otherwise the flip of its dated mile. A
flip that is named already stands. -/
def State.seeEpoch (s : State) (m : SbMsg) : State :=
  let (s1, new) := s.enterSb m
  if !new then s1
  else if s.prevHeld then { s1 with weights := { s1.weights with ignored := s1.weights.ignored + 1 } }
  else if s.weights.flip.isSome then s1
  else ({ s1 with weights := { s1.weights with flip := some ((nearestMile s.mileNow m.mile + 2) % mileP, m.data) } }).showEpochs

/-- Name a flip to the pending epoch (R360): refused while PREV tiers exist. -/
def State.nameFlip (s : State) (epoch : Nat) : State :=
  if s.prevHeld then s.put LD_FLIP_STAT_REFUSED 1
  else if epoch = 0 then s
  else s.seeEpoch ⟨6, s.self.1, s.self.2, s.datedMile % 65536, epoch⟩

/-- LD_FLIP_REQ: a write of LD_FLIP with REQ (R360, R373). -/
def execLdFlipReq (w : Wr) (s : State) : Host.Outcome State Fault Refusal :=
  let (s, d) := s.write w 0x400830
  .next (if acts d LD_FLIP_REQ then s.nameFlip (s.fld LD_EPOCH_PEND_EPOCH) else s)

/-- MC_NAME_FLIP: the management controller names the flip, whatever the seal (R360, R473). -/
def execMcNameFlip (s : State) : Host.Outcome State Fault Refusal :=
  .next (if s.mgmtUp then s.nameFlip (s.fld LD_EPOCH_PEND_EPOCH) else s)

/-- SB_EPOCH: an EPOCH message is received (R244, R361). -/
def execSbEpoch (m : SbMsg) (s : State) : Host.Outcome State Fault Refusal :=
  .next (if m.kind = 6 then s.seeEpoch m else s)

/-- The flip itself (R361): pending tiers of the epoch become CUR, their CUR tiers PREV, and the parity changes. -/
def State.takeFlip (s : State) (e : Nat) : State :=
  let old := s.fld LD_EPOCH_CUR_EPOCH
  let s := s.tiers.foldl (fun (s : State) (x : Nat × Tier) =>
    if x.2.role = 3 ∧ x.2.epoch = e ∧ !x.2.corpus then
      let core := x.1 / 64
      let eng := x.1 / 8 % 8
      let s := (s.tiersOf core eng (x.2.tile.getD 0) x.2.copy 1).foldl (fun s t => s.setRole core eng t 2) s
      s.setRole core eng (x.1 % 8) 1
    else s) s
  let parity := 1 - s.fld GLB_STATE_FLIP_PARITY
  let s := ((s.put GLB_STATE_FLIP_PARITY parity).put LD_EPOCH_PREV_EPOCH old).put LD_EPOCH_CUR_EPOCH e
  let s := { s with weights := { s.weights with flip := none, late := none } }
  (s.logAppend 6 0 (leBytes 4 e ++ leBytes 4 old ++ leBytes 1 s.boot.image.pathRegion ++ leBytes 1 parity)).showEpochs

/-- The flip at a mile boundary (R361): a module that is not ready takes it at the first boundary at which it is. -/
def State.flipAtMile (s : State) : State :=
  match s.weights.late with
  | some e => if s.flipReady e then s.takeFlip e else s
  | none =>
    match s.weights.flip with
    | some (m, e) =>
      if m ≠ s.mileNow then s
      else if s.flipReady e then s.takeFlip e
      else ({ s with weights := { s.weights with flip := none, late := some e } }).put LD_FLIP_STAT_NOT_READY 1
    | none => s

/-- A refreshed copy that is no longer fresh becomes CUR, or the corpus tier, and the old tier becomes free (R362). -/
def State.refreshAtMile (s : State) : State :=
  s.tiers.foldl (fun (s : State) (x : Nat × Tier) =>
    let core := x.1 / 64
    let eng := x.1 / 8 % 8
    let held := if x.2.corpus then 4 else 1
    let old := (s.tiersOf core eng (x.2.tile.getD 0) x.2.copy held).filter (fun t => (s.tier core eng t).epoch = x.2.epoch)
    if x.2.role = 3 ∧ !old.isEmpty ∧ !s.isFresh core eng (x.1 % 8) then
      (old.foldl (fun s t => s.setRole core eng t 0) (s.setRole core eng (x.1 % 8) held)).logCoreMap core
    else s) s

/-- The image's plan names flips and starts loads at its declared miles (R353, R360). Log entry 66 (DEDUCED). -/
def State.planAtMile (s : State) : State :=
  let s := (s.boot.image.loadPlan.filter (fun p => p.1 = s.mileNow)).foldl (fun (s : State) (p : Nat × Nat × Nat) => s.startLoad p.2.1 p.2.2) s
  (s.boot.image.epochPlan.filter (fun p => p.1 = s.mileNow ∧ p.2 ∉ s.weights.planned)).foldl (fun (s : State) (p : Nat × Nat) =>
    ({ s with weights := { s.weights with planned := p.2 :: s.weights.planned } }).nameFlip p.2) s

/-- RETIRE (R362): the entry module sends it once no live request is pinned to an older epoch. -/
def State.sendRetire (s : State) : State :=
  let cur := s.fld LD_EPOCH_CUR_EPOCH
  let pinned := s.rqt.table.any (fun e => e.2.state.live && e.2.state ≠ .intake && decide (e.2.epoch ≠ cur))
  if s.boot.image.entry ∧ s.prevHeld ∧ !pinned ∧ !s.rqt.updates.any (fun u => u.kind = .retire) then
    s.sendUpdate ⟨.retire, furlongAfter s.tb.rod 2, 8192, 0, cur⟩
  else s

/-- At the boundary of a RETIRE every PREV tier becomes free (R362), and so does a standby's copy of an older epoch (R365). -/
def State.retirePrev (s : State) : State :=
  (s.tiers.foldl (fun (s : State) (x : Nat × Tier) =>
    if (x.2.role = 2 ∨ (x.2.role = 5 ∧ x.2.epoch < s.fld LD_EPOCH_CUR_EPOCH)) ∧ !x.2.corpus then s.freeTier (x.1 / 64) (x.1 / 8 % 8) (x.1 % 8) else s) s).showEpochs

end Sys2Proof.Machine
end

