-- ==== Sys2Proof/Machine/Adapters.lean ====
section
/-! DEFINITION. Customer adapters (R367 to R372). -/
namespace Sys2Proof.Machine

/-- Live requests that pin a slot (R372). -/
def State.pinCount (s : State) (k : Nat) : Nat :=
  s.rqt.table.countP (fun e => e.2.state.live && e.2.state ≠ .intake && e.2.adapterEn && e.2.adapterSlot == k)

/-- Some identifier names the slot as current (R371). -/
def State.isCurrent (s : State) (k : Nat) : Bool := s.weights.current.any (fun c => c.2.2 == k)

/-- A slot is free (R371): nothing pins it, names it or loads into it, and the furlong boundary of its return is past. -/
def State.adFree (s : State) (k : Nat) : Bool :=
  (s.adSlot k).state = 0 && s.pinCount k == 0 && !s.isCurrent k && !s.weights.adLoads.any (fun l => l.slot == k)

/-- ADP_SLOTS (R373). -/
def State.showAdapters (s : State) : State :=
  let used := (List.range 4096).countP (fun k => !s.adFree k)
  (s.put ADP_SLOTS_FREE (4096 - used)).put ADP_SLOTS_PINNED ((List.range 4096).countP (fun k => 0 < s.pinCount k))

/-- The region's slots (R367). -/
def State.slotShare (s : State) : List Nat :=
  match s.boot.image.adapters.share.find? (fun x => x.1 = s.boot.image.pathRegion) with
  | some (_, first, n) => (List.range n).map (fun k => first + k)
  | none => List.range 4096

/-- The KIND 3 record of a load or a drop (R369, R370). -/
def adRecord (op code slot ident ver base rod : Nat) (handle : BitVec 64) : EgRec :=
  ⟨3, handle, code, 0x1FFF, 0, 0, [], rod,
    leBytes 4 0 ++ leBytes 1 op ++ leBytes 1 0 ++ leBytes 2 slot ++ leBytes 2 0 ++ leBytes 2 ident ++ leBytes 2 ver ++ leBytes 4 base ++
    List.replicate 24 0⟩

def State.queueAd (s : State) (op code slot ident ver base : Nat) (handle : BitVec 64) : State :=
  s.queueEg (.record (adRecord op code slot ident ver base s.tb.rod handle))

/-- ADAPTER_LOAD: an intake record of TYPE 7 (R369, R371). A refusal is answered at once; otherwise a free slot is taken
and its LOAD update names the boundary B. -/
def execAdapterLoad (raw : List Byte) (s : State) : Host.Outcome State Fault Refusal :=
  let s := s.unpoll raw
  let ident := fieldLE raw 4 2
  let ver := fieldLE raw 6 2
  let base := fieldLE raw 16 4
  let handle := BitVec.ofNat 64 (fieldLE raw 8 8)
  let rank := 8 * 2 ^ recByte raw 1
  let cur := s.currentAdapter ident base
  let ok := decide (raw.length = 128 ∧ recByte raw 0 = 7 ∧ recByte raw 1 ≤ 3 ∧ ident ≠ 0) && zeroBytes raw 2 4 && zeroBytes raw 20 32 &&
    zeroBytes raw 40 124 && decide (rank ≤ s.boot.image.adapters.rMax)
  if !s.boot.image.entry then .next s
  else if !ok then .next (s.queueAd 7 1 0x1FFF ident ver base handle)
  else if (match cur with | some k => decide (ver ≤ (s.adSlot k).ver) | none => false) then .next (s.queueAd 7 4 0x1FFF ident ver base handle)
  else match s.slotShare.find? (fun k => s.adFree k) with
  | none => .next (s.queueAd 7 2 0x1FFF ident ver base handle)
  | some k =>
    let b := furlongAfter s.tb.rod 2
    let sw := furlongAfter s.tb.rod (3 + s.boot.image.adapters.lAd)
    let s := { s with weights := { s.weights with
      adLoads := s.weights.adLoads ++ [(⟨k, ident, ver, base, rank, handle, b, sw, false, false, none, 0, 0, []⟩ : AdLoad)] } }
    .next ((s.sendUpdate ⟨.adapterLoad, b, k, 0, ident⟩).showAdapters)

/-- ADAPTER_DROP: an intake record of TYPE 8 (R369, R371). -/
def execAdapterDrop (raw : List Byte) (s : State) : Host.Outcome State Fault Refusal :=
  let s := s.unpoll raw
  let ident := fieldLE raw 4 2
  let base := fieldLE raw 16 4
  let handle := BitVec.ofNat 64 (fieldLE raw 8 8)
  let ok := decide (raw.length = 128 ∧ recByte raw 0 = 8 ∧ ident ≠ 0) && zeroBytes raw 1 4 && zeroBytes raw 6 8 && zeroBytes raw 20 124
  if !s.boot.image.entry then .next s
  else if !ok then .next (s.queueAd 8 1 0x1FFF ident 0 base handle)
  else
    let b := furlongAfter s.tb.rod 2
    let s := { s with weights := { s.weights with adDrops := s.weights.adDrops ++ [(⟨b, ident, base, handle⟩ : AdDrop)] } }
    .next (s.sendUpdate ⟨.adapterDrop, b, 8192, 0, ident⟩)

/-- A LOAD update takes effect: the slot is being loaded (R371). -/
def State.beginAdLoad (s : State) (k : Nat) : State :=
  match s.weights.adLoads.find? (fun l => l.slot = k) with
  | some l => s.setAdSlot k ⟨1, l.ident, l.ver, l.base, l.rank, none⟩
  | none => s

/-- The drops whose boundary is here: the identifier names no slot from now on (R371). -/
def State.applyDrops (s : State) : State :=
  let due := s.weights.adDrops.filter (fun d => d.atRod = s.tb.rod)
  let s := { s with weights := { s.weights with adDrops := s.weights.adDrops.filter (fun d => d.atRod ≠ s.tb.rod) } }
  due.foldl (fun s d =>
    let k := s.currentAdapter d.ident d.base
    let ver := match k with | some k => (s.adSlot k).ver | none => 0
    let s := { s with weights := { s.weights with current := s.weights.current.filter (fun c => !(decide (c.1 = d.ident ∧ c.2.1 = d.base))) } }
    s.queueAd 8 5 (k.getD 0x1FFF) d.ident ver d.base d.handle) s

def State.setAdLoad (s : State) (l : AdLoad) : State :=
  { s with weights := { s.weights with adLoads := s.weights.adLoads.map (fun (x : AdLoad) => if x.slot = l.slot then l else x) } }

/-- The slot's stack address (R367). -/
def State.slotAddr (s : State) (k : Nat) : Nat := s.boot.image.adapters.base + k * s.boot.image.adapters.slotBytes

/-- This module's part fails (R371): the slot is faulty, and the entry module learns of it. A part that is fetched again
after a lost line starts over (R168). Log entry 68 (DEDUCED). -/
def State.partFails (s : State) (l : AdLoad) : State :=
  if l.reload then s.setAdLoad { l with man := none, chunk := 0, attempts := 0, stream := [] }
  else (s.setAdSlot l.slot { s.adSlot l.slot with state := 3 }).setAdLoad { l with failed := true }

/-- The whole part has come: it is written to the slot under the load's own header, and the slot is ready (R367, R371). -/
def State.partDone (s : State) (l : AdLoad) (data : List Byte) : State :=
  let head := leBytes 2 l.ident ++ leBytes 2 l.ver ++ leBytes 4 l.base ++ leBytes 1 l.rank ++ leBytes 1 2
  let bytes := (head ++ data.drop 10).take s.boot.image.adapters.slotBytes
  let s := (s.stackWrite (s.slotAddr l.slot) bytes).countLines (stackOf (s.slotAddr l.slot)) ((bytes.length + 63) / 64)
  (s.setAdSlot l.slot ⟨2, l.ident, l.ver, l.base, l.rank, none⟩).add ADP_LOAD_CNT_COUNT 1

/-- One fetch of a part (R371: R353 steps 1 to 4). -/
def State.partIn (s : State) (l : AdLoad) (d : Fetched) : State :=
  match d with
  | .failed => if 3 ≤ l.attempts then s.partFails l else s.setAdLoad { l with attempts := l.attempts + 1 }
  | .manifest b sigOk =>
    if l.man.isSome then s
    else match parseManifest b with
    | none => s.partFails l
    | some m =>
      if !sigOk ∨ s.boot.image.pubKeys ≤ m.pubKey ∨ m.kind ≠ 1 ∨ m.model ≠ s.boot.image.model ∨ s.manifestCopy m = none ∨
          m.epoch ≠ l.base ∨ m.adapter ≠ l.ident + 65536 * l.ver then s.partFails l
      else s.setAdLoad { l with man := some m, attempts := 0 }
  | .chunk h payload tagOk hashOk =>
    match l.man with
    | none => s
    | some m =>
      if m.nChunk ≤ l.chunk then s
      else if !s.isSet SEC_STAT_KEY_RELEASED then s.partFails l
      else match chunkPlain m l.chunk h payload tagOk hashOk with
      | .inl _ => s.partFails l
      | .inr plain =>
        let l := { l with chunk := l.chunk + 1, attempts := 0, stream := l.stream ++ plain }
        if l.chunk = m.nChunk then (s.setAdLoad l).partDone l l.stream else s.setAdLoad l

/-- ADAPTER_PART_FETCH: a fetch of this module's part, or another module's report (R371). A part that fails before the
switch makes the load fail with CODE 3. -/
def execAdapterPartFetch (slot : Nat) (part : PartFetch) (s : State) : Host.Outcome State Fault Refusal :=
  .next (match s.weights.adLoads.find? (fun l => l.slot = slot) with
    | none => s
    | some l =>
      if (s.adSlot slot).state ≠ 1 ∧ !((s.adSlot slot).state = 3 ∧ l.reload) then s
      else match part with
      | .own d => s.partIn l d
      | .other f => if f then s.setAdLoad { l with failed := true } else s)

/-- At the next furlong boundary after a failure the entry module writes CODE 3 (R371). Log entry 68 (DEDUCED). -/
def State.failAdLoads (s : State) : State :=
  let bad := s.weights.adLoads.filter (fun l => l.failed)
  let s := { s with weights := { s.weights with adLoads := s.weights.adLoads.filter (fun l => !l.failed) } }
  bad.foldl (fun s l => s.queueAd 7 3 0x1FFF l.ident l.ver l.base l.handle) s

/-- ADAPTER_SWITCH: at the boundary of its SWITCH update the identifier names the new slot, and the KIND 3 record is
written (R371). A part that is still being fetched goes on. -/
def execAdapterSwitch (slot : Nat) (s : State) : Host.Outcome State Fault Refusal :=
  .next (match s.weights.adLoads.find? (fun l => l.slot = slot) with
    | none => s
    | some l =>
      if l.failed ∨ rodAfter s.tb.rod l.switchAt ∨ s.isCurrent slot then s
      else
        let s := { s with weights := { s.weights with
          current := (l.ident, l.base, slot) :: s.weights.current.filter (fun c => !(decide (c.1 = l.ident ∧ c.2.1 = l.base)))
          adLoads := if (s.adSlot slot).state = 2 then s.weights.adLoads.filter (fun x => x.slot ≠ slot) else s.weights.adLoads } }
        (s.queueAd 7 0 slot l.ident l.ver l.base l.handle).showAdapters)

/-- At a furlong boundary: a slot that nothing pins or names any longer becomes free at the second boundary after (R372),
and a load that has switched and whose part is ready is over. Log entry 68 (DEDUCED). -/
def State.ageSlots (s : State) : State :=
  let s := { s with weights := { s.weights with
    adLoads := s.weights.adLoads.filter (fun l => !((l.reload || s.isCurrent l.slot) && (s.adSlot l.slot).state = 2)) } }
  let idle := s.weights.adSlots.filter (fun e => e.2.freeAt.isNone && s.pinCount e.1 = 0 && !s.isCurrent e.1 &&
    !s.weights.adLoads.any (fun l => l.slot = e.1))
  (idle.foldl (fun s e => s.setAdSlot e.1 { e.2 with freeAt := some (furlongAfter s.tb.rod 1) }) s).showAdapters

/-- At B plus L_ad furlongs the entry module sends a load's SWITCH for the following boundary (R371). -/
def State.sendSwitches (s : State) : State :=
  (s.weights.adLoads.filter (fun l => !l.reload && !l.failed && l.switchAt = furlongAfter s.tb.rod 1)).foldl
    (fun (s : State) l => s.sendUpdate ⟨.adapterSwitch, l.switchAt, l.slot, 0, l.ident⟩) s

/-- ADAPTER_SLOT_FREE: the slot's boundary is here (R372). A slot that is pinned or named again stays. Log entry 68 (DEDUCED). -/
def execAdapterSlotFree (slot : Nat) (s : State) : Host.Outcome State Fault Refusal :=
  .next (match (s.adSlot slot).freeAt with
    | some b =>
      if rodAfter s.tb.rod b ∨ s.pinCount slot ≠ 0 ∨ s.isCurrent slot then s else (s.setAdSlot slot AdSlot.empty).showAdapters
    | none => s)

/-- The updates of the weights' tables at their boundary (R362, R371). -/
def State.weightsUpdate (s : State) (u : TableUpdate) : State :=
  match u.kind with
  | .adapterLoad => s.beginAdLoad u.slot
  | .adapterDrop => s.applyDrops
  | .retire => s.retirePrev
  | .admitSlot | .cancel | .finish | .pause | .resume | .adapterSwitch => s

end Sys2Proof.Machine
end

