-- ==== Sys2Proof/Machine/Retrieval.lean ====
section
/-! DEFINITION. Thresholded retrieval (R447 to R460). -/
namespace Sys2Proof.Machine

def State.corpus? (s : State) (c : Nat) : Option Corpus := s.boot.image.corpora.find? (fun x => x.num = c)
/-- The corpus's epoch in force; 0 for none. -/
def State.corpusEpoch (s : State) (c : Nat) : Nat := SMap.get (fun _ => 0) s.rtv.epoch c

/-- Query passes per furlong that a variant declares for a corpus (R450). -/
def Variant.passesOf (v : Variant) (c : Nat) : Nat := ((v.passes.find? (fun p => p.1 = c)).map Prod.snd).getD 0

/-! ### Queries (R448 to R450) -/

/-- Check 2 of R449: the record's form against its corpus (R448, R453). -/
def queryForm (raw : List Byte) (c : Corpus) : Bool :=
  let mode := recByte raw 1
  let nv := c.vectors
  let topK := mode % 2 = 1
  let filt := mode / 2 % 2 = 1
  let maps := (nv + 511) / 512 * 64
  let hits := fieldLE raw 60 4
  let need := if mode / 4 % 2 = 1 then maps + 4 * hits else 8 * hits
  let th := BitVec.ofNat 32 (fieldLE raw 16 4)
  decide (recByte raw 0 = 6 ∧ mode < 8) &&
  (if topK then decide (1 ≤ fieldLE raw 4 2 ∧ fieldLE raw 4 2 ≤ 4096) else decide (fieldLE raw 4 2 = 0)) &&
  !f32IsNaN th && !f32IsInf th && decide (fieldLE raw 32 8 % 64 = 0 ∧ fieldLE raw 48 8 % 64 = 0) &&
  (if filt then decide (fieldLE raw 40 8 % 64 = 0) else decide (fieldLE raw 40 8 = 0)) &&
  decide (1 ≤ hits ∧ hits ≤ nv ∧ need ≤ fieldLE raw 56 4) &&
  zeroBytes raw 3 4 && zeroBytes raw 6 8 && zeroBytes raw 20 24 && zeroBytes raw 30 32 && zeroBytes raw 64 124

/-- The smallest Q_c over the admitted variants whose token rate is nonzero (R450). -/
def State.minPasses (s : State) (c : Nat) : Nat :=
  ((s.boot.image.variants.filter (fun v => s.admittedVar v.num && decide (v.rate ≠ 0))).foldl (fun (b : Option Nat) v =>
    some (match b with | none => v.passesOf c | some n => min n (v.passesOf c))) none).getD 0

/-- The estimate of R450 meets the deadline. -/
def State.queryInTime (s : State) (c deadline : Nat) : Bool :=
  let q := s.minPasses c
  let est := furlongAfter s.tb.rod 2 + 40 * ((s.rtv.queue.length + 1 + q - 1) / max q 1) + 40
  decide (q ≠ 0) && !rodAfter deadline (est % rodP)

/-- The egress record of KIND 4 (R456). -/
def rtvRecord (handle : BitVec 64) (code flags voids hits written epoch theta rod : Nat) : EgRec :=
  ⟨4, handle, code, 0x1FFF, 0, voids, [], rod,
    leBytes 4 0 ++ leBytes 1 0 ++ leBytes 1 flags ++ leBytes 2 0x1FFF ++ leBytes 1 0 ++ leBytes 1 (min voids 255) ++
    leBytes 4 hits ++ leBytes 4 written ++ leBytes 4 epoch ++ leBytes 4 theta ++ List.replicate 16 0⟩

/-- The 1,056 bytes of a query as A8 groups (R448, R97). -/
def queryGroups (b : List Byte) : List (Byte × List Int) :=
  (List.range 32).map (fun g => (b.getD (1024 + g) 0, ((b.drop (32 * g)).take 32).map (fun x => x.toInt)))

/-- The code of R449, or the query that enters the queue. -/
def State.checkQuery (s : State) (raw : List Byte) (f : QueryFetch) (r : RingPair) : Nat ⊕ Query :=
  let c := recByte raw 2
  let mode := recByte raw 1
  let filt := decide (mode / 2 % 2 = 1)
  let known := s.corpus? c
  if !s.isSet RQT_CTRL_INTAKE_EN ∨ !s.isSet SEC_STAT_UNSEALED ∨ s.isSet GLB_STATE_STANDBY ∨ !s.admitted ∨ (known.isSome ∧ s.corpusEpoch c = 0) then .inl 0x19
  else match known with
  | none => .inl 0x11
  | some k =>
    if k.region ≠ r.region then .inl 0x11 else
    let maps := (k.vectors + 511) / 512 * 64
    let deadline := fieldLE raw 24 6
    if !queryForm raw k then .inl 0x11
    else if 256 ≤ s.rtv.queue.length then .inl 0x10
    else if !r.inWindow (fieldLE raw 32 8) 1056 ∨ (filt ∧ !r.inWindow (fieldLE raw 40 8) maps) ∨
        !r.inWindow (fieldLE raw 48 8) (fieldLE raw 56 4) ∨ !f.ok ∨
        !s.dma (fieldLE raw 32 8) 1056 ∨ (filt ∧ !s.dma (fieldLE raw 40 8) maps) then .inl 0x18
    else if deadline ≠ 0 ∧ !s.queryInTime c deadline then .inl 0x14
    else .inr ⟨BitVec.ofNat 64 (fieldLE raw 8 8), decide (mode % 2 = 1), filt, decide (mode / 4 % 2 = 1), c, fieldLE raw 4 2,
      BitVec.ofNat 32 (fieldLE raw 16 4), deadline, fieldLE raw 48 8, fieldLE raw 60 4, queryGroups f.query, f.filter, none, 0, r.region⟩

/-- QUERY: a TYPE 6 record is checked, and queued or refused (R449). -/
def execQuery (raw : List Byte) (f : QueryFetch) (s : State) : Host.Outcome State Fault Refusal :=
  .next (match s.ring with
  | none => s
  | some r =>
    let s := s.unpoll raw
    match s.checkQuery raw f r with
    | .inl code =>
      (s.add RTV_REFUSE_CNT_COUNT 1).queueEg (.record (rtvRecord (BitVec.ofNat 64 (fieldLE raw 8 8)) code 0 0 0 0 0 0 s.tb.rod))
    | .inr q => { s with rtv := { s.rtv with queue := s.rtv.queue ++ [q] } })

/-! ### Order keys and results (R453, R454, R456) -/

/-- The order key of a score (R454). -/
def orderKey (v : FpBits) : Nat := if v.getLsbD 31 then (~~~ v).toNat else (v ^^^ 0x80000000).toNat
/-- The score whose key is given. -/
def keyScore (k : Nat) : FpBits :=
  let w : BitVec 32 := BitVec.ofNat 32 k
  if w.getLsbD 31 then w ^^^ 0x80000000 else ~~~ w
/-- A −0 threshold compares as +0. -/
def plusZero (v : FpBits) : FpBits := if v = 0x80000000 then 0 else v

/-- A vector is included in a query (R453). -/
def Query.includes (q : Query) (id_ : Nat) : Bool :=
  !q.useFilter || (q.filter.getD (id_ / 8) 0).getLsbD (id_ % 8)

def Pass.keys (p : Pass) : List Nat := (p.scores.filter (fun e => p.query.includes e.1)).map (fun e => orderKey e.2)

/-- A query completes with a code and no result. -/
def State.endQuery (s : State) (q : Query) (code : Nat) : State :=
  s.queueEg (.record (rtvRecord q.handle code 0 q.voids 0 0 (q.epoch.getD 0) 0 s.tb.rod))

/-- The result bytes: the hits in ascending identifier, as a list or a bitmap with scores (R453). -/
def Query.result (q : Query) (nv : Nat) (hits : List (Nat × FpBits)) : List Byte :=
  let first := hits.take q.maxHits
  if q.bitmap then
    (List.range ((nv + 511) / 512 * 64)).map (fun j =>
      BitVec.ofNat 8 (((List.range 8).map (fun i => if hits.any (fun h => h.1 = 8 * j + i) then 2 ^ i else 0)).sum)) ++
    first.flatMap (fun h => leBytes 4 h.2.toNat)
  else first.flatMap (fun h => leBytes 4 h.1 ++ leBytes 4 h.2.toNat)

/-- A pass whose final threshold is found writes its result, and then its egress record (R453, R456); a write to a private
window that DMA does not reach is dropped (R391). Log entry 69 (DEDUCED). -/
def State.finishPass (s : State) (p : Pass) (theta : FpBits) (searched : Bool) : State :=
  let q := p.query
  let s := { s with rtv := { s.rtv with passes := s.rtv.passes.filter (fun x => x.corpus ≠ p.corpus) } }
  if s.rtv.bufLost then ({ s with rtv := { s.rtv with bufLost := false } }).endQuery q 0x21
  else
    let nv := ((s.corpus? p.corpus).map Corpus.vectors).getD 0
    let hits := (p.scores.filter (fun e => q.includes e.1 && decide (orderKey (plusZero theta) < orderKey e.2))).mergeSort
      (fun a b => decide (a.1 ≤ b.1))
    let n := min hits.length q.maxHits
    let trunc := decide (q.maxHits < hits.length)
    let ties := searched && decide (hits.length < q.k)
    let flags := (if p.flag then 1 else 0) + (if trunc then 2 else 0) + (if ties then 4 else 0)
    let out := q.result nv hits
    let s := if s.dma q.resultAddr out.length then { s with rtv := { s.rtv with written := (q.resultAddr, out) :: s.rtv.written } } else s
    let s := (s.add RTV_QUERY_CNT_COUNT 1).add RTV_HIT_CNT_COUNT n
    let s := if p.flag then s.add RTV_CLAMP_CNT_COUNT 1 else s
    s.queueEg (.record (rtvRecord q.handle 0 flags q.voids hits.length n (q.epoch.getD 0) theta.toNat s.tb.rod))

/-- A voided pass (R457): the query goes back to the head of the queue, or ends with code 0x20 after five. Log entry 69 (DEDUCED). -/
def State.voidPass (s : State) (q : Query) : State :=
  let s := s.add RTV_VOID_CNT_COUNT 1
  let q := { q with voids := q.voids + 1 }
  let s := { s with rtv := { s.rtv with passes := s.rtv.passes.filter (fun x => x.corpus ≠ q.corpus) } }
  if 5 ≤ q.voids then s.endQuery q 0x20
  else { s with rtv := { s.rtv with queue := q :: s.rtv.queue } }

/-! ### A query pass (R451, R452, R457) -/

/-- The tier that holds a corpus tile at an epoch: its corpus tier, or the previous one (R458). -/
def State.corpusTier (s : State) (core eng tile epoch : Nat) : Option Nat :=
  ((s.tiersOf core eng tile none 4) ++ (s.tiersOf core eng tile none 2)).find? (fun t => (s.tier core eng t).epoch = epoch)

/-- What one tile of a pass gives: scores, the flag, and whether the pass is void. -/
structure TileScores where
  scores : List (Nat × FpBits)
  flag : Bool
  bad : Bool
  deriving DecidableEq, Repr

/-- One beat of a pass on a tile (R451): the tier is selected, the query evaluated, and the engine's live tier selected
back. -/
def State.scoreTile (s : State) (c : Corpus) (t : CorpusTile) (q : Query) (epoch : Nat) (upset : Bool) (trims : List TrimAt) : State × TileScores :=
  match s.physOf t.core with
  | none => (s, ⟨[], false, true⟩)
  | some core =>
    let eng := t.engine
    let i := engI core eng
    match s.tileDecl core eng t.tile, s.corpusTier core eng t.tile epoch with
    | some d, some tier =>
      if !s.coreRunning core ∨ s.untrustedUnit core eng then (s, ⟨[], false, true⟩)
      else
        let back := s.liveTier core eng
        let (s, refused) := s.select core eng tier
        if refused then (s, ⟨[], false, true⟩)
        else
          let dead := (s.engine core eng).dead
          let s := (s.setEngine core eng { s.engine core eng with newRetired := [] }).deadBeat core eng tier none 0
          let s := s.raiseIfAt i ENG_IN_FLAG_SCALE_NAN (specials (.a8 q.x)).2.2
          let input : StageIn := ⟨t.tile, .a8 q.x, 0, 0, 0, .query⟩
          let g := s.stage d input 8 0 []
          let x := s.tier core eng tier
          let rm := s.rowMap core eng tier
          let flag0 := g.flag || s.degraded core eng tier
          let score := fun (p : Int) (k : Nat) =>
            let y := x.scaled k p g.eRef
            let y := if c.bias then biasStep y (SMap.get (fun _ => (0 : FpBits)) x.bias k) else y
            (t.base + k, plusZero y.1, y.2)
          let (s, ps, clamp, bad) :=
            if g.zero then (s.addAt i ENG_SKIP_CNT_COUNT 1, (List.range t.n).map (fun _ => (0 : Int)), false, false)
            else
              let n := if x.exact then 8 else 4
              let b : BeatRun := ⟨core, eng, tier, n, g.level x.exact rm, fun p => rm.band.idxOf p, s.tileStream d input 1 0, none⟩
              let injWit := (s.injects 0x01 core eng).isSome
              let (s, ev) := s.evaluate d b trims
              let (s, i2) := s.tryInject 0x02 core eng
              let residue := upset || i2.isSome
              let s := s.reportBeat core eng tier ev residue injWit i2.isSome none 0
              let s := if ev.overRange then
                  { (s.addAt i ENG_CLAMP_CNT_COUNT 1).putAt i ENG_WD_FLAG_CLAMP 1 with clampNow := s.clampNow + 1 } else s
              (s, (List.range t.n).map (fun k => x.columnInt rm g ev.codes n k true), ev.overRange, residue || !ev.fails.isEmpty)
          let ys := ps.zipIdx.map (fun e => score e.1 e.2)
          let s := s.selectBack core eng back
          (s, ⟨ys.map (fun y => (y.1, y.2.1)), flag0 || clamp || ys.any (fun y => y.2.2), bad || dead⟩)
    | _, _ => (s, ⟨[], false, true⟩)

/-- QUERY_PASS: the first queued query of the corpus is scored on every tile (R450, R451, R457). Without TOPK its
threshold is THRESH (R453). `residueUpsets` and `trims` name tiles by their place in the corpus. -/
def execQueryPass (corpus : Fin 16) (late : Bool) (residueUpsets : List Nat) (trims : List (Nat × TrimAt)) (s : State) : Host.Outcome State Fault Refusal :=
  .next (match s.corpus? corpus, s.rtv.queue.find? (fun q => q.corpus = corpus.val) with
  | some c, some q0 =>
    let free := ((s.inVar.map (fun v => v.passesOf corpus)).getD 0) ≠ 0 && s.sched.running && decide (s.corpusEpoch corpus ≠ 0) &&
      !(s.rtv.passes.any (fun p => p.corpus = corpus.val))
    if !free then s
    else
      let epoch := q0.epoch.getD (s.corpusEpoch corpus)
      let q := { q0 with epoch := some epoch }
      let s := { s with rtv := { s.rtv with queue := s.rtv.queue.erase q0 } }
      let (s, l) := c.tiles.zipIdx.foldl (fun (p : State × List TileScores) e =>
        let r := p.1.scoreTile c e.1 q epoch (residueUpsets.contains e.2) (trims.filterMap (fun x => if x.1 = e.2 then some x.2 else none))
        (r.1, p.2 ++ [r.2])) (s, [])
      if late ∨ l.any TileScores.bad then s.voidPass q
      else
        let p : Pass := ⟨corpus, q, l.flatMap TileScores.scores, l.any TileScores.flag, 0, 0, 0, none⟩
        if q.topK then { s with rtv := { s.rtv with passes := s.rtv.passes ++ [p] } }
        else s.finishPass p q.thresh false
  | _, _ => s)

/-- One round of the search (R454): the pass after it, or the threshold found and whether a bisection found it. Log entry 69 (DEDUCED). -/
def Pass.searchOnce (p : Pass) : Pass ⊕ (FpBits × Bool) :=
  let keys := p.keys
  let count := fun (m : Nat) => keys.countP (fun k => decide (m < k))
  if p.round = 0 then
    let lo := orderKey (plusZero p.query.thresh)
    let hi := keys.foldl max 0
    if count lo ≤ p.query.k then .inr (p.query.thresh, false)
    else if hi - lo ≤ 1 then .inr (keyScore hi, true)
    else .inl { p with round := 1, lo := lo, hi := hi }
  else
    let mid := p.lo + (p.hi - p.lo) / 2
    let p := if count mid ≤ p.query.k then { p with hi := mid } else { p with lo := mid }
    if p.hi - p.lo ≤ 1 then .inr (keyScore p.hi, true) else .inl { p with round := p.round + 1 }

/-- SEARCH_ROUND: one round of the bisection on the corpus's running pass (R454, R455); a late count voids the pass
(R457). -/
def execSearchRound (corpus : Fin 16) (late : Bool) (s : State) : Host.Outcome State Fault Refusal :=
  .next (match s.rtv.passes.find? (fun p => p.corpus = corpus.val) with
  | none => s
  | some p =>
    if !s.sched.running then s
    else if late then s.voidPass p.query
    else match p.searchOnce with
    | .inl p2 => { s with rtv := { s.rtv with passes := s.rtv.passes.map (fun (x : Pass) => if x.corpus = p.corpus then p2 else x) } }
    | .inr (th, searched) => s.finishPass p th searched)

/-- The sequencers have stopped: a running pass voids, and its query goes back to the queue. -/
def State.abandonPasses (s : State) : State :=
  s.rtv.passes.foldl (fun s p => s.voidPass p.query) s

/-! ### Corpus epochs (R458) -/

/-- Tiers of a corpus in a role, with their place. -/
def State.corpusRole (s : State) (c : Corpus) (role : Nat) : List (Nat × Nat × Nat) :=
  c.tiles.flatMap (fun t => match s.physOf t.core with
    | none => []
    | some p => (s.tiersOf p t.engine t.tile none role).map (fun k => (p, t.engine, k)))

/-- The epoch that every tile of the corpus holds in a pending tier; 0 for none (R458, R460). -/
def State.corpusPend (s : State) (c : Corpus) : Nat :=
  let e := match s.corpusRole c 3 with | (p, g, k) :: _ => (s.tier p g k).epoch | [] => 0
  if c.tiles.all (fun t => match s.physOf t.core with
      | none => false
      | some p => (s.tiersOf p t.engine t.tile none 3).any (fun k => (s.tier p t.engine k).epoch = e)) then e else 0

/-- Every tile has a complete, settled pending tier of one epoch (R460 READY). -/
def State.corpusReady (s : State) (c : Corpus) : Bool :=
  decide (s.corpusPend c ≠ 0) && (s.corpusRole c 3).all (fun x => !s.isFresh x.1 x.2.1 x.2.2)

/-- RTV_FLIP_REQ: a write of RTV_FLIP; REQ requests a flip of CORPUS (R458, R460). -/
def execRtvFlipReq (w : Wr) (s : State) : Host.Outcome State Fault Refusal :=
  let (s, d) := s.write w RTV_FLIP_REQ.addr
  let n := s.fld RTV_FLIP_CORPUS
  .next (if !acts d RTV_FLIP_REQ then s
    else match s.corpus? n with
    | none => s.put RTV_FLIP_STAT_REFUSED 1
    | some c =>
      if !s.corpusReady c ∨ !(s.corpusRole c 2).isEmpty then s.put RTV_FLIP_STAT_REFUSED 1
      else if s.rtv.flips.any (fun f => f.1 = n) then s
      else { s with rtv := { s.rtv with flips := s.rtv.flips ++ [(n, (s.mileNow + 2) % mileP, s.corpusPend c)] } })

/-- The flips due at this mile boundary (R458). -/
def State.rtvMile (s : State) : State :=
  (s.rtv.flips.filter (fun f => f.2.1 = s.mileNow)).foldl (fun (s : State) f =>
    let s := { s with rtv := { s.rtv with flips := s.rtv.flips.filter (fun x => x ≠ f) } }
    match s.corpus? f.1 with
    | none => s
    | some c =>
      let old := s.corpusRole c 4
      let new := (s.corpusRole c 3).filter (fun x => (s.tier x.1 x.2.1 x.2.2).epoch = f.2.2)
      let s := old.foldl (fun s x => s.setRole x.1 x.2.1 x.2.2 2) s
      let s := new.foldl (fun s x => s.setRole x.1 x.2.1 x.2.2 4) s
      let prev := s.corpusEpoch f.1
      { s with rtv := { s.rtv with
          prev := SMap.set (fun _ => 0) s.rtv.prev f.1 prev
          epoch := SMap.set (fun _ => 0) s.rtv.epoch f.1 f.2.2 } }) s

/-- At a furlong boundary: deadlines that have passed, and previous tiers that no query pins any longer (R450, R458). -/
def State.rtvFurlong (s : State) : State :=
  let overs := s.rtv.queue.filter (fun q => q.deadline ≠ 0 && rodAfter q.deadline s.tb.rod)
  let s := { s with rtv := { s.rtv with queue := s.rtv.queue.filter (fun q => !(q.deadline ≠ 0 && rodAfter q.deadline s.tb.rod)) } }
  let s := overs.foldl (fun s q => s.endQuery q 0x05) s
  s.rtv.prev.foldl (fun (s : State) e =>
    let pinned := (s.rtv.queue ++ s.rtv.passes.map Pass.query).any (fun q => decide (q.corpus = e.1) && decide (q.epoch = some e.2))
    match s.corpus? e.1, pinned with
    | some c, false =>
      let s := (s.corpusRole c 2).foldl (fun s x => s.freeTier x.1 x.2.1 x.2.2) s
      { s with rtv := { s.rtv with prev := SMap.set (fun _ => 0) s.rtv.prev e.1 0 } }
    | _, _ => s) s

end Sys2Proof.Machine
end

