-- ==== Sys2Proof/Machine/Routing.lean ====
section
/-! DEFINITION. Expert routing: the grant of a bushel step (R265, R268 to R274), the combination of the answers (R278 to
R282), and quarantine (R407). -/
namespace Sys2Proof.Machine

/-! ### The directory (R265) -/

/-- The directory copy of a dispatching logical core: entry of an expert of a layer. -/
def dirKey (l layer x : Nat) : Nat := (l * 1024 + layer) * 512 + x
def State.dirEntry (s : State) (l layer x : Nat) : Nat := SMap.get (fun _ => 0) s.routing.dir (dirKey l layer x)
def dirValid (e : Nat) : Bool := e / 2 ^ 63 % 2 = 1
def dirAllot (e : Nat) : Nat := e / 2 ^ 57 % 64

/-- The directory copies as the image gives them: loaded with the tables at admission (R161, R265). -/
def State.loadDirs (s : State) : State :=
  let dir := s.boot.image.experts.foldl (fun (m : SMap Nat) l =>
    (l.entries.zipIdx).foldl (fun (m : SMap Nat) e => SMap.set (fun _ => 0) m (dirKey l.core l.layer e.2) e.1) m) []
  { s with routing := { s.routing with dir := dir } }

/-! ### The grant (R269 to R274) -/

/-- The state of the procedure of R269: allotment used by expert, and the entries decided, newest first. -/
structure GrantRun where
  used : SMap Nat
  entries : List GrantEntry
  deriving DecidableEq, Repr

/-- One choice is weighed (R269): VALID and an allotment left accept it. -/
def grantOne (dir : Nat → Nat) (g : GrantRun) (row rank : Nat) (c : Nat × FpBits) : GrantRun :=
  let u := SMap.get (fun _ => 0) g.used c.1
  if dirValid (dir c.1) ∧ u < dirAllot (dir c.1) then
    ⟨SMap.set (fun _ => 0) g.used c.1 (u + 1), ⟨row, rank, c.1, true, u, c.2⟩ :: g.entries⟩
  else ⟨g.used, ⟨row, rank, c.1, false, 0, c.2⟩ :: g.entries⟩

/-- The grant order (R269): rank by rank, and within a rank row by row. -/
def grantAll (dir : Nat → Nat) (k : Nat) (rows : List (Nat × List (Nat × FpBits))) : List GrantEntry :=
  ((List.range k).foldl (fun (g : GrantRun) rank =>
    rows.foldl (fun (g : GrantRun) r =>
      match r.2[rank]? with
      | some c => grantOne dir g r.1 rank c
      | none => g) g) ⟨[], []⟩).entries.reverse

/-- The weights in force (R272): with RENORM, those of a row that lost a choice are scaled by the reciprocal of the sum of
the accepted ones. -/
def grantWeights (renorm : Bool) (es : List GrantEntry) : List GrantEntry :=
  es.map (fun (e : GrantEntry) =>
    let mine := es.filter (fun (x : GrantEntry) => x.row = e.row)
    if renorm ∧ e.accepted ∧ mine.any (fun (x : GrantEntry) => !x.accepted) then
      let r := vRecip (vSum ((mine.filter (fun (x : GrantEntry) => x.accepted)).map GrantEntry.weight))
      { e with weight := vMul e.weight r }
    else e)

def rowBit (i : Nat) : BitVec 32 := (1 : BitVec 32) <<< i

/-- The rows of a bushel instance that carry a position, among those that an issue's tokens expect. -/
def State.filledRows (s : State) (key : Option Nat) (mask : BitVec 32) : List (Nat × BushelRow) :=
  match key with
  | none => []
  | some k =>
    match s.rqt.bushels.find? (fun b => b.key = k) with
    | none => []
    | some b => (b.rows.zipIdx.filter (fun (e : BushelRow × Nat) =>
        e.1.filled && mask.getLsbD e.2)).map (fun (e : BushelRow × Nat) => (e.2, e.1))

/-- The answer tokens of a layer that this module combines: combining logical core and token. -/
def Image.answerTokens (im : Image) (layer : Nat) : List (Nat × Nat) :=
  (((im.exchange.filter (fun (x : Exchange) => x.layer = layer)).map (fun (x : Exchange) => (x.comb, x.token))) ++
    ((im.sharedRows.filter (fun (x : SharedRow) => x.layer = layer)).map (fun (x : SharedRow) => (x.comb, x.token)))).eraseDups

/-- The answer rows of one answer token that are expected after a grant (R271, R278). -/
def Image.expectedRows (im : Image) (layer comb token : Nat) (g : Grant) : BitVec 32 :=
  let a := im.exchange.foldl (fun (m : BitVec 32) (x : Exchange) =>
    if x.layer = layer ∧ x.comb = comb ∧ x.token = token ∧
        g.entries.any (fun (e : GrantEntry) => e.accepted && decide (e.expert = x.expert) && decide (e.blockRow = x.blockRow))
    then m ||| rowBit x.row else m) 0
  im.sharedRows.foldl (fun (m : BitVec 32) (x : SharedRow) =>
    if x.layer = layer ∧ x.comb = comb ∧ x.token = token ∧ g.rows.any (fun r => decide (r.1 = x.row))
    then m ||| rowBit x.arow else m) a

/-- Each combining core sets the expected masks of its answer tokens from the grant record (R271). -/
def State.expectAnswers (s : State) (g : Grant) : State :=
  (s.boot.image.answerTokens g.layer).foldl (fun (s : State) ct =>
    match s.physOf ct.1 with
    | none => s
    | some core =>
      let t := (s.token core ct.2).forInst g.inst
      s.setToken core ct.2 { t with expected := s.boot.image.expectedRows g.layer ct.1 ct.2 g, slot := g.key }) s

/-! ### Quarantine (R407) -/

def lostKey (layer x : Nat) : Nat := layer * 65536 + x

/-- Whether a bushel step meets the three conditions of R407 for an expert. Log entry 65 (DEDUCED). -/
def Grant.lostAll (g : Grant) (x : Nat) : Bool :=
  let mine := g.entries.filter (fun (e : GrantEntry) => e.accepted && decide (e.expert = x) &&
    (g.lost.contains (x, e.blockRow) || !g.stale.contains (x, e.blockRow)))
  !mine.isEmpty && mine.all (fun (e : GrantEntry) => g.lost.contains (x, e.blockRow)) && g.got.any (fun y => decide (y ≠ x))

/-- An expert goes into quarantine: VALID is cleared in every directory copy of the layer. Log entry 65 (DEDUCED). -/
def State.startQuarantine (s : State) (g : Grant) (x : Nat) : State :=
  if s.contained g.injected then s.put INJ_STAT_CONTAINED 1
  else
    let s := s.addAt (coreI g.core) FLT_QUAR_CNT_COUNT 1
    let dir := (s.routing.dir.map (fun (e : Nat × Nat) =>
      if e.1 / 512 % 1024 = g.layer ∧ e.1 % 512 = x then (e.1, e.2 % 2 ^ 63) else e)).filter (fun e => decide (e.2 ≠ 0))
    { s with
      routing := { s.routing with dir := dir }
      faults := { s.faults with
        quarantines := s.faults.quarantines ++ [(⟨g.layer, x, g.core, s.mileNow⟩ : Quarantine)] } }

/-- The control core judges a bushel step of a layer when its last chunk is combined, or when the next step is granted:
two consecutive steps start the quarantine. Log entry 65 (DEDUCED). -/
def State.judgeStep (s : State) (g : Grant) : State :=
  let xs := ((g.entries.filter (fun (e : GrantEntry) => e.accepted)).map GrantEntry.expert).eraseDups
  let bad := xs.filter (fun x => g.lostAll x)
  let twice := bad.filter (fun x => SMap.get (fun _ => false) s.faults.lastLost (lostKey g.layer x))
  let kept := s.faults.lastLost.filter (fun (e : Nat × Bool) => decide (e.1 / 65536 ≠ g.layer))
  let last := (bad.filter (fun x => !twice.contains x)).foldl (fun (m : SMap Bool) x =>
    SMap.set (fun _ => false) m (lostKey g.layer x) true) kept
  let s := { s with faults := { s.faults with lastLost := last } }
  twice.foldl (fun (s : State) x => s.startQuarantine g x) s

/-- DISPATCH_GRANT (R269 to R274): the dispatch unit grants one bushel step of a layer. -/
def execDispatchGrant (issue : Issue) (layer : Nat) (ecc : Upsets) (s : State) : Host.Outcome State Fault Refusal :=
  let core : Nat := issue.core
  let l := (s.logicalOf core).getD 0
  if !s.runs issue .dispatch then .next s
  else
    match s.boot.image.experts.find? (fun (x : ExpertLayer) => x.core = l ∧ x.layer = layer) with
    | none => .next s
    | some el =>
      let ranges := (s.boot.image.stores.filter (fun (r : StoreRegion) => r.core = l ∧ r.kind = .directory)).map
        (fun (r : StoreRegion) => (r.base, r.len))
      let flagIn := (issue.ins.filter (· ≠ 255)).foldl (fun (m : BitVec 32) n => m ||| (s.token core n).flagged) 0
      let (s, begun) := s.beginOp issue ranges ecc
      match begun with
      | none => .next s
      | some b =>
        let rows := s.outRows issue
        let i := coreI core
        let bad := s.untrustedUnit core 20
        let s := if bad then s.voidRows b.key (rows &&& ~~~ b.voided) else s
        -- the rows offered (R270); a row whose slot has a new generation is void, unreported
        let filled := if bad ∨ b.bad then [] else
          (s.filledRows b.key (s.rowsIn issue)).filter (fun (r : Nat × BushelRow) => !b.voided.getLsbD r.1)
        let stale := filled.filter (fun (r : Nat × BushelRow) => decide ((s.req r.2.slot).gen ≠ r.2.gen))
        let offered := filled.filter (fun (r : Nat × BushelRow) => decide ((s.req r.2.slot).gen = r.2.gen))
        let lists := offered.map (fun (r : Nat × BushelRow) =>
          (r.1, ((s.routing.choices.find? (fun (c : RowChoice) =>
            c.core = core ∧ c.layer = layer ∧ c.row = r.1 ∧ c.inst = issue.inst)).map RowChoice.list).getD []))
        let raw := grantAll (fun x => s.dirEntry l layer x) el.k lists
        let refused := raw.filter (fun (e : GrantEntry) => !e.accepted)
        let absent := refused.filter (fun (e : GrantEntry) => !dirValid (s.dirEntry l layer e.expert))
        let quar := absent.filter (fun (e : GrantEntry) =>
          s.faults.quarantines.any (fun (q : Quarantine) => q.layer = layer ∧ q.expert = e.expert))
        let nAcc := raw.length - refused.length
        let skipped := lists.countP (fun (r : Nat × List (Nat × FpBits)) =>
          !raw.any (fun (e : GrantEntry) => e.accepted && decide (e.row = r.1)))
        let s := ((s.addAt i DSP_OFFER_CNT_COUNT raw.length).addAt i DSP_GRANT_CNT_COUNT nAcc).addAt i DSP_DROP_CNT_COUNT refused.length
        let s := s.addAt i DSP_DROP_FIRST_COUNT (refused.countP (fun (e : GrantEntry) => decide (e.rank = 0)))
        let s := (s.addAt i DSP_SKIP_CNT_COUNT skipped).addAt i DSP_STALE_CNT_COUNT stale.length
        let s := s.raiseIfAt i DSP_FLAG_ABSENT (!absent.isEmpty)
        let flags := quar.foldl (fun (m : BitVec 32) (e : GrantEntry) => m ||| rowBit e.row) flagIn
        let g : Grant := ⟨core, layer, issue.inst, b.key,
          offered.map (fun (r : Nat × BushelRow) => (r.1, (⟨r.2.slot, r.2.gen, r.2.pos, 0, false⟩ : RowTag))),
          grantWeights el.renorm raw, flags, [], [], [], [], false⟩
        -- the step before is judged as it stands if its combinations did not all run
        let s := match s.routing.grants.find? (fun (x : Grant) => x.core = core ∧ x.layer = layer) with
          | some old => s.judgeStep old
          | none => s
        let s := { s with routing := { s.routing with
          grants := g :: s.routing.grants.filter (fun (x : Grant) => !(x.core == core && x.layer == layer))
          offered := SMap.set (fun _ => 0) s.routing.offered core (SMap.get (fun _ => 0) s.routing.offered core + raw.length)
          dropped := SMap.set (fun _ => 0) s.routing.dropped core (SMap.get (fun _ => 0) s.routing.dropped core + refused.length) } }
        let s := s.expectAnswers g
        let void := stale.foldl (fun (m : BitVec 32) (r : Nat × BushelRow) => m ||| rowBit r.1) b.voided
        .next (s.finishOp issue { b with voided := void } rows flags bad)

/-! ### The return combiner (R279 to R282) -/

/-- What became of one answer (R280, R281). -/
inductive AnswerFate where
  | ok (vals : List FpBits) (flag : Bool) | late | tagErr | stale | isVoid
  deriving DecidableEq, Repr

/-- The answer in a row of an answer token: its pecks as they stand in the token's buffer (R505). -/
def State.answerPecks (s : State) (core token arow n : Nat) : List Byte :=
  match s.tokenBuf core token with
  | none => []
  | some b => s.loadBytes core (b.base + arow * ((n + 63) / 64) * 72) (72 * ((n + 63) / 64))


/-- The checks of one answer, in the order of R280 and R281. `alter` is an injected change of POS_LO. -/
def State.answerFate (s : State) (core inst token arow n : Nat) (tag : RowTag) (alter : Bool) : AnswerFate :=
  let t := s.token core token
  let bs := s.answerPecks core token arow n
  let w := peckTag bs 0
  let pos := if alter then (tagPos w + 1) % 256 else tagPos w
  let isVoid := t.voided.getLsbD arow || tagVoid w
  -- a stub is one peck; otherwise every peck carries the tag
  let same := isVoid || (List.range ((n + 63) / 64)).all (fun p =>
    let v := peckTag bs p
    decide (tagSlot v = tag.slot) && decide (tagPos v = tag.pos % 256) && decide (tagRank v = tag.rank))
  if t.inst ≠ inst % 256 ∨ !t.arrived.getLsbD arow then .late
  else if t.voided.getLsbD arow ∧ !t.stubbed.getLsbD arow then .isVoid   -- marked void here: no answer came that could be checked
  else if tagSlot w ≠ tag.slot ∨ pos ≠ tag.pos % 256 ∨ tagRank w ≠ tag.rank ∨ !same then .tagErr
  else if tagGen w ≠ (s.req tag.slot).gen then .stale
  else if isVoid then .isVoid
  else .ok (decodePecks false bs n) (t.flagged.getLsbD arow)

/-- A shared expert's output in its answer row (R278, R279). -/
def State.sharedFate (s : State) (core inst token arow n : Nat) : AnswerFate :=
  let t := s.token core token
  let bs := s.answerPecks core token arow n
  if t.inst ≠ inst % 256 ∨ !t.arrived.getLsbD arow then .late
  else if t.voided.getLsbD arow ∨ tagVoid (peckTag bs 0) then .isVoid
  else .ok (decodePecks false bs n) (t.flagged.getLsbD arow)

def AnswerFate.isLate : AnswerFate → Bool | .late => true | _ => false
def AnswerFate.isTag : AnswerFate → Bool | .tagErr => true | _ => false
def AnswerFate.isStale : AnswerFate → Bool | .stale => true | _ => false
def AnswerFate.voidIn : AnswerFate → Bool | .isVoid => true | _ => false
def AnswerFate.isOk : AnswerFate → Bool | .ok _ _ => true | _ => false
def AnswerFate.vals : AnswerFate → List FpBits | .ok v _ => v | _ => []
def AnswerFate.flag : AnswerFate → Bool | .ok _ f => f | _ => false

/-- e = fma(w, a, e) for each term in order, from +0 (R282). Log entry 49 (DEDUCED). -/
def combineTerms (n : Nat) (terms : List (FpBits × List FpBits)) : List FpBits :=
  (List.range n).map (fun i => terms.foldl (fun (e : FpBits) t => vFma t.1 (t.2.getD i 0) e) 0)

/-- Change the record of a grant. -/
def State.updGrant (s : State) (core layer : Nat) (f : Grant → Grant) : State :=
  { s with routing := { s.routing with grants := s.routing.grants.map (fun (g : Grant) =>
      if g.core = core ∧ g.layer = layer then f g else g) } }

/-- What the combination of one row gave, besides the state: the row is delivered, or void; its precision flag. -/
structure CombineRun where
  ok : BitVec 32
  voided : BitVec 32
  flagged : BitVec 32
  deriving DecidableEq, Repr

/-- Combine one offered row (R280 to R282). -/
def State.combineRow (s : State) (issue : Issue) (g : Grant) (el : ExpertLayer) (chunk n outAddr : Nat)
    (row : Nat) (tag : RowTag) (alter : Bool) (acc : CombineRun) : State × CombineRun :=
  let core : Nat := issue.core
  let lc := (s.logicalOf core).getD 0
  let im := s.boot.image
  let mine := g.entries.filter (fun (e : GrantEntry) => e.accepted && decide (e.row = row))
  let routed := mine.zipIdx.map (fun (p : GrantEntry × Nat) =>
    (p.1, match im.exchange.find? (fun (x : Exchange) => x.layer = g.layer ∧ x.expert = p.1.expert ∧
        x.blockRow = p.1.blockRow ∧ x.chunk = chunk ∧ x.comb = lc) with
      | some x => s.answerFate core issue.inst x.token x.row n { tag with rank := p.1.rank } (alter && decide (p.2 = 0))
      | none => AnswerFate.late))
  let shared := el.shared.zipIdx.map (fun (p : FpBits × Nat) =>
    (p.1, match im.sharedRows.find? (fun (x : SharedRow) => x.layer = g.layer ∧ x.j = p.2 ∧ x.row = row ∧
        x.chunk = chunk ∧ x.comb = lc) with
      | some x => s.sharedFate core issue.inst x.token x.arow n
      | none => AnswerFate.late))
  let fates := routed.map Prod.snd
  let i := coreI core
  let bit := rowBit row
  let lost := (routed.filter (fun (p : GrantEntry × AnswerFate) => p.2.isLate || p.2.isTag || p.2.voidIn)).map
    (fun (p : GrantEntry × AnswerFate) => (p.1.expert, p.1.blockRow))
  let stales := (routed.filter (fun (p : GrantEntry × AnswerFate) => p.2.isStale)).map
    (fun (p : GrantEntry × AnswerFate) => (p.1.expert, p.1.blockRow))
  let nTag := fates.countP AnswerFate.isTag
  let nStale := fates.countP AnswerFate.isStale
  let s := s.updGrant g.core g.layer (fun (x : Grant) => { x with lost := lost ++ x.lost, stale := stales ++ x.stale })
  if fates.any AnswerFate.isLate ∨ shared.any (fun (p : FpBits × AnswerFate) => p.2.isLate) then
    let s := ((s.addAt i SEQ_LATE_CNT_COUNT 1).add TB_LATE_CNT_COUNT 1).addAt i CMB_VOID_CNT_COUNT 1
    (s.lateRows g.key bit, { acc with voided := acc.voided ||| bit })
  else
    let s := (s.addAt i CMB_TAG_ERR_COUNT nTag).addAt i CMB_STALE_CNT_COUNT nStale
    let s := (s.raiseIfAt i DSP_FLAG_TAG_ERR (decide (0 < nTag))).raiseIfAt i DSP_FLAG_STALE (decide (0 < nStale))
    if 0 < nTag ∨ fates.any AnswerFate.voidIn ∨ shared.any (fun (p : FpBits × AnswerFate) => p.2.voidIn) then
      ((s.addAt i CMB_VOID_CNT_COUNT 1).voidRows g.key bit, { acc with voided := acc.voided ||| bit })
    else if 0 < nStale then (s.addAt i CMB_VOID_CNT_COUNT 1, { acc with voided := acc.voided ||| bit })
    else
      let terms := routed.map (fun (p : GrantEntry × AnswerFate) => (p.1.weight, p.2.vals)) ++
        shared.map (fun (p : FpBits × AnswerFate) => (p.1, p.2.vals))
      let flag := g.flagged.getLsbD row || fates.any AnswerFate.flag || shared.any (fun (p : FpBits × AnswerFate) => p.2.flag)
      let s := s.updGrant g.core g.layer (fun (x : Grant) => { x with got := mine.map GrantEntry.expert ++ x.got })
      (s.storeF32 core (outAddr + 4 * n * row) (combineTerms n terms),
        { acc with ok := acc.ok ||| bit, flagged := if flag then acc.flagged ||| bit else acc.flagged })

/-- RETURN_COMBINE (R278 to R282, R407): a combining core combines its chunk of every row of the bushel. -/
def execReturnCombine (issue : Issue) (layer chunk n outAddr : Nat) (ecc : Upsets) (s : State) :
    Host.Outcome State Fault Refusal :=
  let core : Nat := issue.core
  if !s.runs issue .dispatch then .next s
  else
    match s.routing.grants.find? (fun (g : Grant) => g.layer = layer ∧ g.inst = issue.inst) with
    | none =>
      -- no grant record of this step: every row is late
      .next (s.skipLate issue none)
    | some g =>
      match s.boot.image.experts.find? (fun (x : ExpertLayer) => some x.core = s.logicalOf g.core ∧ x.layer = layer) with
      | none => .next s
      | some el =>
        let bufs := (issue.ins.filter (· ≠ 255)).filterMap (fun t => s.tokenBuf core t)
        let (s, bad) := s.csRead core (bufs.map (fun (b : TokenBuf) => (b.base, 32 * 72 * ((n + 63) / 64)))) ecc
        let (s, inj) := if g.rows.isEmpty then (s, none) else s.tryInject 0x18 core 0
        let s := s.consume issue
        let distrusted := s.untrustedUnit core 19
        let rows := s.outRows issue
        let alterRow := (g.entries.find? (fun (e : GrantEntry) => e.accepted)).map GrantEntry.row
        let (s, r) := g.rows.foldl (fun (p : State × CombineRun) (rt : Nat × RowTag) =>
          p.1.combineRow issue g el chunk n outAddr rt.1 rt.2 (inj.isSome && decide (alterRow = some rt.1)) p.2)
          (s, ⟨0, 0, 0⟩)
        let s := if distrusted then s.voidRows g.key r.ok else s
        let b : Begun := ⟨rows &&& ~~~ r.ok, g.key, bad, 0⟩
        let s := s.finishOp issue b rows r.flagged distrusted
        let s := s.updGrant g.core layer (fun (x : Grant) =>
          { x with chunks := (chunk :: x.chunks).eraseDups, injected := x.injected || inj.isSome })
        -- the step is judged when every chunk of the layer has been combined
        let all := ((s.boot.image.exchange.filter (fun (x : Exchange) => x.layer = layer)).map Exchange.chunk).eraseDups
        match s.routing.grants.find? (fun (x : Grant) => x.core = g.core ∧ x.layer = layer) with
        | none => .next s
        | some g2 =>
          if all.all (fun c => g2.chunks.contains c) then
            let s := s.judgeStep g2
            .next { s with routing := { s.routing with
              grants := s.routing.grants.filter (fun (x : Grant) => !(x.core == g.core && x.layer == layer)) } }
          else .next s

/-- QUARANTINE_LAPSE (R407): VALID is restored at the mile boundary 32 miles after the quarantine began. -/
def execQuarantineLapse (layer expert : Nat) (s : State) : Host.Outcome State Fault Refusal :=
  .next (match s.faults.quarantines.find? (fun (q : Quarantine) => q.layer = layer ∧ q.expert = expert) with
    | none => s
    | some q =>
      if (s.mileNow + mileP - q.mile) % mileP < 32 then s
      else
        let s := { s with faults := { s.faults with quarantines := s.faults.quarantines.filter (fun x => x ≠ q) } }
        let dir := (s.boot.image.experts.filter (fun (x : ExpertLayer) => x.layer = layer)).foldl
          (fun (m : SMap Nat) (x : ExpertLayer) =>
            SMap.set (fun _ => 0) m (dirKey x.core layer expert) (x.entries.getD expert 0)) s.routing.dir
        { s with routing := { s.routing with dir := dir } })

end Sys2Proof.Machine
end

