-- ==== Sys2Proof/Machine/Network.lean ====
section
/-! DEFINITION. The on-die network (R218 to R233): scheduled transfers and their detours, the way of a flit, arrivals in
token buffers (R100, R196, R221, R276, R505), broadcasts, faulty routers. -/
namespace Sys2Proof.Machine

/-! ### Flits (R220) -/

/-- The header of a flit (R220). -/
def flitHead (dest via token inst index row kind region : Nat) (planeB prec isVoid last : Bool) : BitVec 64 :=
  let b := fun (x : Bool) (n : Nat) => if x then 2 ^ n else 0
  BitVec.ofNat 64 (dest % 1024 * 2 ^ 54 + via % 1024 * 2 ^ 44 + token % 256 * 2 ^ 36 + inst % 256 * 2 ^ 28 +
    index % 1024 * 2 ^ 18 + row % 32 * 2 ^ 13 + kind % 8 * 2 ^ 10 + region % 16 * 2 ^ 6 + b planeB 5 + b prec 4 + b isVoid 3 + b last 2)

/-- Bits lo upwards of a header, n of them. -/
def Flit.field (f : Flit) (lo n : Nat) : Nat := f.head.toNat / 2 ^ lo % 2 ^ n
def Flit.dest (f : Flit) : Nat := f.field 54 10
def Flit.via (f : Flit) : Nat := f.field 44 10
def Flit.token (f : Flit) : Nat := f.field 36 8
def Flit.inst (f : Flit) : Nat := f.field 28 8
def Flit.index (f : Flit) : Nat := f.field 18 10
def Flit.row (f : Flit) : Nat := f.field 13 5
def Flit.kind (f : Flit) : Nat := f.field 10 3
def Flit.region (f : Flit) : Nat := f.field 6 4
def Flit.plane (f : Flit) : Bool := f.head.getLsbD 5
def Flit.prec (f : Flit) : Bool := f.head.getLsbD 4
def Flit.isVoid (f : Flit) : Bool := f.head.getLsbD 3
def Flit.last (f : Flit) : Bool := f.head.getLsbD 2

/-- The flit with its VIA field set (R219). -/
def Flit.setVia (f : Flit) (via : Nat) : Flit :=
  { f with head := BitVec.ofNat 64 (f.head.toNat - f.via * 2 ^ 44 + via % 1024 * 2 ^ 44) }

/-! ### The units of a transfer (R505, R275) -/

/-- A unit on its way: buffer index, row, whether the row is void, the precision flag, LAST, and its bytes. -/
structure UnitOut where
  index : Nat
  row : Nat
  isVoid : Bool
  prec : Bool
  last : Bool
  payload : List Byte
  deriving DecidableEq, Repr

/-- The unit that a flit brings. -/
def Flit.unit (f : Flit) : UnitOut := ⟨f.index, f.row, f.isVoid, f.prec, f.last, f.payload⟩

/-- The flit that carries a unit (R220). -/
def UnitOut.flit (u : UnitOut) (dest via token inst kind region : Nat) (planeB : Bool) : Flit :=
  ⟨flitHead dest via token inst u.index u.row kind region planeB u.prec u.isVoid u.last, u.payload⟩

/-- A stub (R505): one peck with a zero payload and VOID set in its tag. -/
def stubBytes (bytes : Nat) (tag : Word) : List Byte :=
  if bytes = 72 then List.replicate 68 0 ++ leBytes 4 tag.toNat else List.replicate bytes 0

/-- The tag of the stub of a void row (R276, R505): of the row's position; of a row that no bushel holds, the tag that its first
peck carries, with VOID set. -/
def State.stubTag (s : State) (core : Nat) (ins : List Nat) (key : Option Nat) (v : Send) (row addr : Nat) : Word :=
  match s.rowOf key row with
  | some _ => let (_, pos, slot, gen) := s.rowKey core ins key row; tagWord slot gen pos 0 true
  | none => if v.bytes = 72 then BitVec.ofNat 32 (peckTag (s.loadBytes core addr 72) 0) ||| 1 else 1

/-- The units that a transfer sends (R505, R275). An expert's answers leave out the rows that came as stubs of unfilled block rows,
whose tag is VOID alone (R276). Log entry 49 (DEDUCED). -/
def State.formUnits (s : State) (core inst : Nat) (ins : List Nat) (v : Send) (key : Option Nat) (voided flagged : BitVec 32) : List UnitOut :=
  match v.src with
  | .units addr | .answer addr =>
    let answer := match v.src with | .answer _ => true | _ => false
    (List.range v.units).filterMap (fun k =>
      let idx := v.index + k
      let row := idx / v.perRow
      if voided.getLsbD row then
        let w := s.stubTag core ins key v row (addr + v.bytes * k)
        if idx % v.perRow = 0 ∧ (!answer || w != 1) then
          some ⟨idx, row, true, flagged.getLsbD row, true, stubBytes v.bytes w⟩
        else none
      else some ⟨idx, row, false, flagged.getLsbD row, decide ((idx + 1) % v.perRow = 0),
        s.loadBytes core (addr + v.bytes * k) (v.bytes)⟩)
  | .ring ring utype chunk line =>
    match s.att.rings.find? (fun (x : RingRun) => x.ring = ring), s.ringDecl ring with
    | some x, some d =>
      let layer := ((d.layers[x.layer]?).map (fun (l : RingLayer) => l.geo.layer)).getD 0
      (List.range v.units).map (fun k =>
        ⟨v.index + k, (v.index + k) / v.perRow, false, false, decide ((v.index + k + 1) % v.perRow = 0), x.unit layer utype chunk (line + k)⟩)
    | _, _ => []
  | .block layer expert blockRow addr =>
    let row := v.index / v.perRow
    let g := s.routing.grants.find? (fun (g : Grant) => g.core = core ∧ g.layer = layer ∧ g.inst = inst)
    let e := g.bind (fun (g : Grant) => g.entries.find? (fun (e : GrantEntry) =>
      e.accepted && decide (e.expert = expert) && decide (e.blockRow = blockRow)))
    let tag := g.bind (fun (g : Grant) => e.bind (fun (e : GrantEntry) => (g.rows.find? (fun r => r.1 = e.row)).map Prod.snd))
    match e, tag with
    | some e, some t =>
      if voided.getLsbD e.row then
        [⟨v.index, row, true, flagged.getLsbD e.row, true, stubBytes v.bytes (tagWord t.slot t.gen t.pos e.rank true)⟩]
      else (List.range v.units).map (fun k =>
        ⟨v.index + k, row, false, flagged.getLsbD e.row, decide ((v.index + k + 1) % v.perRow = 0),
          (s.loadBytes core (addr + 72 * (e.row * v.units + k)) 68) ++ leBytes 4 (tagWord t.slot t.gen t.pos e.rank false).toNat⟩)
    | _, _ => [⟨v.index, row, true, false, true, stubBytes v.bytes 1⟩]

/-- The rows of a bushel that an issue's tokens do not expect: empty rows, which travel as stubs. Log entry 62 (DESIGN CHOICE). -/
def State.emptyRows (s : State) (i : Issue) (key : Option Nat) : BitVec 32 := if key.isSome then ~~~ s.rowsIn i else 0

/-- The ranges of the core store that a transfer reads. -/
def sendRanges (v : Send) : List (Nat × Nat) :=
  match v.src with
  | .units addr | .answer addr => [(addr, v.bytes * v.units)]
  | .block _ _ _ addr => [(addr, 72 * v.units * 32)]
  | .ring .. => []

/-! ### Arrival in a token's buffer (R100, R193, R196, R221, R276, R505) -/

/-- The position of a row whose tag carries POS_LO (R331): the one from POS_EXP to POS_EXP + 8 with these low bits. -/
def BushelRow.place (r : BushelRow) (posLo : Nat) : Option Nat :=
  ((List.range 9).map (r.posExp + ·)).find? (fun p => p % 256 = posLo)

/-- A module that has not the entry manifest takes a row's position from its first peck (R331). -/
def State.placeRow (s : State) (key : Option Nat) (row posLo : Nat) : State :=
  match key with
  | none => s
  | some k => { s with rqt := { s.rqt with bushels := s.rqt.bushels.map (fun (b : Bushel) =>
      if b.key = k ∧ !b.entered then
        { b with rows := b.rows.mapIdx (fun i (r : BushelRow) => if i = row then { r with pos := (r.place posLo).getD r.pos } else r) }
      else b) } }

/-- Whether a peck's tag fits the bushel row that the schedule assigns (R100, R331); a token of no bushel is not checked. Log entry 74 (DEDUCED). -/
def State.tagFits (s : State) (core token row : Nat) (bytes : List Byte) (alter : Bool) : Bool :=
  let w := peckTag bytes 0
  match s.rowOf (s.token core token).slot row with
  | none => true
  | some r => decide (tagSlot w = r.slot) && decide (tagGen w = r.gen) &&
      (r.place (if alter then (tagPos w + 1) % 256 else tagPos w)).isSome

/-- The pecks of one row of an expert's input token carry one tag (R276). -/
def State.oneTag (s : State) (core : Nat) (b : TokenBuf) (row : Nat) : Bool :=
  let bs := s.loadBytes core (b.base + row * b.perRow * b.unit) (b.perRow * b.unit)
  (List.range b.perRow).all (fun p => decide (peckTag bs p = peckTag bs 0))

/-- Log entry 74 (DEDUCED). -/
def State.dropRowTag (s : State) (core : Nat) : State :=
  (s.addAt (coreI core) CMB_TAG_ERR_COUNT 1).putAt (coreI core) DSP_FLAG_TAG_ERR 1

/-- One unit arrives for a token: ignored in a row that a stub has marked void (R505), discarded when stale (R196); its bytes
land at its index; a discarded or unequal tag voids the row; LAST marks the row arrived, a stub marks it void. The caller has
found the buffer. Log entry 74 (DEDUCED). -/
def State.deliverUnit (s : State) (core : Nat) (b : TokenBuf) (inst kind : Nat) (u : UnitOut) : State :=
  let bit := rowBit u.row
  let t0 := s.token core b.token
  if t0.inst = inst % 256 ∧ t0.stubbed.getLsbD u.row then s
  else
    let (s, old) := s.tryInject 0x0F core 0
    let inst := if old.isSome then (inst + 255) % 256 else inst
    let (s, held) := match s.injects 0x0E core 0 with
      | some a => if a = b.token then (s.fired, true) else (s, false)
      | none => (s, false)
    if held then s
    else
      let (s, a) := s.arrive core b.token inst (if u.last then bit else 0) u.isVoid
      match a with
      | .stale => s
      | .taken =>
        let peck := decide (kind ≤ 1)
        let (s, alter) := if peck ∧ !u.isVoid ∧ b.use = .bushel then s.tryInject 0x18 core 0 else (s, none)
        if peck && !u.isVoid && b.use == .bushel && !s.tagFits core b.token u.row u.payload alter.isSome then
          -- the peck is discarded, counted, and its position is treated as late (R100)
          let s := s.dropRowTag core
          let t := s.token core b.token
          let s := s.setToken core b.token { t with arrived := t.arrived ||| bit, voided := t.voided ||| bit }
          (s.addAt (coreI core) SEQ_LATE_CNT_COUNT 1).add TB_LATE_CNT_COUNT 1 |>.lateRows t.slot bit
        else
          let s := if peck && !u.isVoid && b.use == .bushel then s.placeRow (s.token core b.token).slot u.row (tagPos (peckTag u.payload 0)) else s
          let s := s.storeBytes core (b.base + u.index * b.unit) u.payload
          let s := if kind = 4 then s.ringTake u.payload else s
          let t := s.token core b.token
          let s := s.setToken core b.token { t with
            flagged := if u.prec then t.flagged ||| bit else t.flagged
            stubbed := if u.isVoid then t.stubbed ||| bit else t.stubbed
            expected := if b.use = .expert then b.rows else t.expected }
          if peck && u.last && !u.isVoid && b.use == .expert && !s.oneTag core b u.row then
            let s := s.dropRowTag core
            let t := s.token core b.token
            s.setToken core b.token { t with voided := t.voided ||| bit }
          else s

/-! ### Paths and detours (R219, R228, R231, R232) -/

/-- The next core of the dimension-ordered way to a core: along the row first, then along the column (R219). -/
def nextHop (core dest : Nat) : Nat :=
  if core % 40 < dest % 40 then core + 1
  else if dest % 40 < core % 40 then core - 1
  else if core / 40 < dest / 40 then core + 40
  else if dest / 40 < core / 40 then core - 40
  else core

/-- The routers on the way, both ends included; `n` bounds the hops (58, R219). -/
def pathGo : Nat → Nat → Nat → List Nat
  | 0, core, _ => [core]
  | n + 1, core, dest => if core = dest then [core] else core :: pathGo n (nextHop core dest) dest
def meshPath (src dst : Nat) : List Nat := pathGo 58 src dst

def State.routerFaulty (s : State) (core : Nat) (planeB : Bool) : Bool :=
  s.isSetAt (coreI core) (if planeB then RTR_STAT_B_FAULTY else RTR_STAT_A_FAULTY)

/-- The route of a flow (R231, R232): plane A, its detour by the VIA that avoids the one faulty router, or none. -/
inductive Route where
  | planeA | detour (via : Nat) | none
  deriving DecidableEq, Repr

/-- The routers that a detour crosses, by its VIA (R219, R231). -/
def detourWay (src via dst : Nat) : List Nat := meshPath src via ++ (meshPath via dst).drop 1

/-- The flow's detour round a router domain of its path (R231): the first that the image holds for it and that does not cross
the domain, where the domain is not the source's or the destination's own. Log entry 32 (DESIGN CHOICE). -/
def Flow.detourVia (f : Flow) (src dst c : Nat) : Option Nat :=
  ((f.detours.filter (fun d => d.1 = c)).map Prod.snd).find? (fun via =>
    decide (c = src ∨ c = dst) || !(detourWay src via dst).contains c)

def State.routeOf (s : State) (f : Flow) (src dst : Nat) : Route :=
  match (meshPath src dst).filter (fun c => s.routerFaulty c false) with
  | [] => .planeA
  | [c] =>
    match f.detourVia src dst c with
    | none => .none
    | some via =>
      if (detourWay src via dst).any (fun x => s.routerFaulty x true && decide (x ≠ c)) then .none else .detour via
  | _ => .none

/-- MESH_TRANSFER (R198, R220, R221, R231, R232): a scheduled flow sends its units as flits from the source's core
store. -/
def execMeshTransfer (issue : Issue) (flow : Nat) (send : Send) (ecc : Upsets) (s : State) :
    Host.Outcome State Fault Refusal :=
  let core : Nat := issue.core
  if !s.runs issue .meshA then .next s
  else
    match s.boot.image.flows.find? (fun (f : Flow) => f.num = flow) with
    | none => .next s
    | some f =>
      let flags := s.flagsIn issue
      let (s, begun) := s.beginOp issue (sendRanges send) ecc
      match begun with
      | none => .next s
      | some b =>
        match s.destOf f.dst with
        | none => .next s
        | some dst =>
          let rows := s.outRows issue
          let bad := s.untrustedUnit core 9
          let voided := if b.bad ∨ bad then 0xFFFFFFFF else b.voided
          let units := s.formUnits core issue.inst issue.ins send b.key (voided ||| s.emptyRows issue b.key) flags
          let (s, inj) := s.tryInject 0x13 core 0
          let region := (s.regionNum core + (if inj.isSome then 1 else 0)) % 16
          let route := s.routeOf f core dst
          let s := s.finishOp issue b rows flags bad
          let flit := fun (planeB : Bool) (via : Nat) (u : UnitOut) =>
            (⟨core, u.flit dst via send.token issue.inst send.kind region planeB⟩ : FlitAt)
          .next (match route with
            | .none => s.putAt (coreI core) RTR_FLAG_NO_ROUTE 1
            | .planeA => { s with mesh := { s.mesh with flits := s.mesh.flits ++ units.map (flit false dst) } }
            | .detour via => { s with mesh := { s.mesh with flits := s.mesh.flits ++ units.map (flit true via) } })

/-! ### Routers -/

def rtrKey (core : Nat) (planeB : Bool) : Nat := 2 * core + (if planeB then 1 else 0)

/-- A router is to be marked faulty at the next rod boundary (R230). -/
def State.markRouter (s : State) (core : Nat) (planeB : Bool) : State :=
  let k := rtrKey core planeB
  if k ∈ s.mesh.marks then s else { s with mesh := { s.mesh with marks := s.mesh.marks ++ [k] } }

/-- Router marks take effect at a rod boundary (R230): flits inside the router are lost (R231), and admission runs
again. -/
def State.applyMarks (s : State) : State :=
  match s.mesh.marks with
  | [] => s
  | ms =>
    let fresh := ms.filter (fun k => !s.routerFaulty (k / 2) (k % 2 = 1))
    let s := fresh.foldl (fun (s : State) k =>
      s.putAt (coreI (k / 2)) (if k % 2 = 1 then RTR_STAT_B_FAULTY else RTR_STAT_A_FAULTY) 1) s
    let s := { s with mesh := { s.mesh with
      marks := []
      flits := s.mesh.flits.filter (fun (f : FlitAt) => !ms.contains (rtrKey f.core f.flit.plane)) } }
    if fresh.isEmpty then s else s.reAdmit

/-- Remove flit n from its router. -/
def State.takeFlit (s : State) (n : Nat) : State := { s with mesh := { s.mesh with flits := s.mesh.flits.eraseIdx n } }

/-- A flit leaves on an output, a mesh link or the local port: the output's load (RTR_LOAD). -/
def State.countOut (s : State) (core next : Nat) (planeB : Bool) : State :=
  let dir := if next = core then 4 else if next = core + 1 then 0 else if next + 1 = core then 1 else if next = core + 40 then 2 else 3
  let k := rtrKey core planeB * 8 + dir
  { s with mesh := { s.mesh with out := SMap.set (fun _ => 0) s.mesh.out k (SMap.get (fun _ => 0) s.mesh.out k + 1) } }

/-- A detoured flit waits for the same plane-B link: it takes precedence over a control flit (R218). -/
def State.detoured (s : State) (core next : Nat) : Bool :=
  s.mesh.flits.any (fun (f : FlitAt) => f.core == core && f.flit.plane && f.flit.kind != 5 &&
    decide (nextHop core (if core = f.flit.via then f.flit.dest else f.flit.via) = next))

/-- FLIT_FORWARD (R218, R219, R221, R228, R230, R231): flit n is forwarded by the router it stands at. `upset` says that the
link's check fails at the receiving router. -/
def execFlitForward (n : Nat) (upset : Bool) (s : State) : Host.Outcome State Fault Refusal :=
  .next (match s.mesh.flits[n]? with
    | none => s
    | some f =>
      let b := f.flit.plane
      let c := f.core
      -- a plane-B flit at its waypoint goes on to its destination
      let via := if b ∧ c = f.flit.via then f.flit.dest else f.flit.via
      let target := if b then via else f.flit.dest
      let to_ := nextHop c target
      if c = target ∨ (b ∧ f.flit.kind = 5 ∧ s.detoured c to_) then s
      else
        let s := s.takeFlit n
        if s.routerFaulty c b ∨ s.routerFaulty to_ b then s   -- discarded: from or to a faulty router
        else if s.regionNum to_ ≠ f.flit.region then
          (s.addAt (coreI c) RTR_XDROP_COUNT 1).putAt (coreI c) RTR_FLAG_XDROP 1
        else
          let (s, par) := match s.injects 0x12 c 0 with
            | some a => if a % 2 = (if b then 1 else 0) then (s.fired, true) else (s, false)
            | none => (s, false)
          let s := if par then s.markRouter c b else s
          let s := s.countOut c to_ b
          let s := if b ∧ f.flit.kind ≠ 5 then s.addAt (coreI c) RTR_DETOUR_CNT_COUNT 1 else s
          let (s, inj) := match s.injects 0x11 to_ 0 with
            | some a => if a % 2 = (if b then 1 else 0) then (s.fired, true) else (s, false)
            | none => (s, false)
          if upset ∨ inj then
            let s := (s.addAt (coreI to_) RTR_CHK_ERR_COUNT 1).putAt (coreI to_) RTR_FLAG_CHK_ERR 1
            let k := rtrKey c b
            let m := SMap.get (fun _ => 0) s.mesh.chk k + 1
            let s := { s with mesh := { s.mesh with chk := SMap.set (fun _ => 0) s.mesh.chk k m } }
            if 3 ≤ m then s.markRouter c b else s
          else { s with mesh := { s.mesh with flits := s.mesh.flits ++ [⟨to_, f.flit.setVia via⟩] } })

/-- FLIT_ARRIVAL (R219, R221, R229, R231): flit n reaches its destination's local port; a plane-B flit that is still to go by its
waypoint does not. -/
def execFlitArrival (n : Nat) (s : State) : Host.Outcome State Fault Refusal :=
  .next (match s.mesh.flits[n]? with
    | none => s
    | some f =>
      let c := f.core
      if c ≠ f.flit.dest ∨ (f.flit.plane ∧ c ≠ f.flit.via) then s
      else
        let s := s.takeFlit n
        if s.routerFaulty c f.flit.plane then s
        else
          let s := s.countOut c c f.flit.plane
          let s := if f.flit.plane ∧ f.flit.kind ≠ 5 then s.addAt (coreI c) RTR_DETOUR_CNT_COUNT 1 else s
          let drop := (s.addAt (coreI c) RTR_LOCAL_DROP_COUNT 1).putAt (coreI c) RTR_FLAG_LOCAL_DROP 1
          if s.domainOff c ∨ 6 ≤ f.flit.kind then drop
          else
            match s.tokenBuf c f.flit.token with
            | none => drop
            | some b => s.deliverUnit c b f.flit.inst f.flit.kind f.flit.unit)

/-- A core on the bus segment of a driving core: same row or column, same region (R225). -/
def State.onSegment (s : State) (column : Bool) (src c : Nat) : Bool :=
  (if column then decide (src % 40 = c % 40) else decide (src / 40 = c / 40)) && decide (s.regionNum src = s.regionNum c)

/-- The staging registers of the engines that a receiving core's descriptor names take a peck (R224); a void row's stub brings
them none. -/
def State.takePeck (s : State) (core : Nat) (engs : BitVec 8) (kind perRow : Nat) (u : UnitOut) : State :=
  if 2 ≤ kind ∨ u.isVoid then s
  else (List.range 8).foldl (fun (s : State) e =>
    if engs.getLsbD e then
      let x := s.engine core e
      s.setEngine core e { x with bus := (⟨u.row, u.index % max perRow 1, decide (kind = 1), u.payload⟩ : BusPeck) :: x.bus }
    else s) s

/-- BROADCAST (R224, R225): one core drives a bus segment from its core store; every receiving core of the segment takes
the units in its token, and in the engines that its descriptor names. A fenced core takes nothing. -/
def execBroadcast (issue : Issue) (column : Bool) (send : Send) (recv : List BusRecv) (ecc : Upsets) (s : State) :
    Host.Outcome State Fault Refusal :=
  let core : Nat := issue.core
  if !s.runs issue (if column then .colBus else .rowBus) then .next s
  else
    let flags := s.flagsIn issue
    let (s, begun) := s.beginOp issue (sendRanges send) ecc
    match begun with
    | none => .next s
    | some b =>
      let rows := s.outRows issue
      let bad := s.untrustedUnit core 9
      let voided := if b.bad ∨ bad then 0xFFFFFFFF else b.voided
      let units := s.formUnits core issue.inst issue.ins send b.key (voided ||| s.emptyRows issue b.key) flags
      let flits := units.map (fun u => u.flit 0 0 send.token issue.inst send.kind (s.regionNum core) false)
      let s := recv.foldl (fun (s : State) r =>
        if !s.onSegment column core r.core || s.domainOff r.core then s
        else
          match s.tokenBuf r.core r.token with
          | none => s
          | some buf => flits.foldl (fun (s : State) (f : Flit) =>
              let u := f.unit
              let u := { u with index := u.index - send.index + r.index, row := (u.index - send.index + r.index) / r.perRow }
              (s.deliverUnit r.core buf f.inst f.kind u).takePeck r.core r.engs f.kind r.perRow u) s) s
      .next (s.finishOp issue b rows flags bad)

/-- ROUTER_FAULT_EVENT (R230, R233): a parity error marks its router; a fault of the router domain marks both, and the domain no
longer forwards. -/
def execRouterFaultEvent (core : CoreId) (kind : RouterFault) (s : State) : Host.Outcome State Fault Refusal :=
  .next (match kind with
    | .parityA => s.markRouter core false
    | .parityB => s.markRouter core true
    | .domain => (((s.putAt (coreI core) RTR_STAT_DOMAIN_FAULT 1).putAt (coreI core) RTR_STAT_FORWARDING 0).markRouter core false).markRouter core true)

/-- RTR_MARK_A, RTR_MARK_B: a write of RTR_CTRL (R230, R233). -/
def execRtrMarkA (core : CoreId) (w : Wr) (s : State) : Host.Outcome State Fault Refusal :=
  let (s, d) := s.write w (RTR_CTRL_MARK_A.addr + coreI core)
  let s := if acts d RTR_CTRL_MARK_A then s.markRouter core false else s
  .next (if acts d RTR_CTRL_MARK_B then s.markRouter core true else s)

def execRtrMarkB (core : CoreId) (w : Wr) (s : State) : Host.Outcome State Fault Refusal :=
  let (s, d) := s.write w (RTR_CTRL_MARK_B.addr + coreI core)
  let s := if acts d RTR_CTRL_MARK_A then s.markRouter core false else s
  .next (if acts d RTR_CTRL_MARK_B then s.markRouter core true else s)

/-- The loads of a rod enter the furlong's peaks (RTR_LOAD). -/
def State.meshRod (s : State) : State :=
  let peak := s.mesh.out.foldl (fun (m : SMap Nat) (e : Nat × Nat) =>
    SMap.set (fun _ => 0) m (e.1 / 8) (max (SMap.get (fun _ => 0) m (e.1 / 8)) e.2)) s.mesh.peak
  { s with mesh := { s.mesh with out := [], peak := peak } }

/-- At a furlong boundary the largest loads become those of the last complete furlong, and check failures are counted
anew (R230, R233). -/
def State.meshFurlong (s : State) : State :=
  { s with mesh := { s.mesh with lastPeak := s.mesh.peak, peak := [], chk := [] } }

end Sys2Proof.Machine
end

