-- ==== Sys2Proof/Machine/Fabric.lean ====
section
/-! DEFINITION. The module fabric (R234 to R262): training and the cabling check, frames, heartbeats and the sideband, loss
of a partner. -/
namespace Sys2Proof.Machine

/-! ### Ports -/

def State.plan (s : State) (p : Nat) : Option PlanPort := s.boot.image.ports.find? (fun (x : PlanPort) => x.lane = p)
def State.lnk (s : State) (p : Nat) (f : Fld) : Nat := s.fldAt (lnkI p) f
def State.putLnk (s : State) (p : Nat) (f : Fld) (v : Nat) : State := s.putAt (lnkI p) f v
def State.addLnk (s : State) (p : Nat) (f : Fld) (n : Nat) : State := s.addAt (lnkI p) f n
def State.updPort (s : State) (p : Nat) (f : Port → Port) : State := s.setPort p (f (s.port p))

/-- The physical port that carries a logical one, if it is active (R235, R252). -/
def State.physPort (s : State) (lp : Nat) : Option Nat :=
  (s.boot.image.ports.find? (fun (x : PlanPort) => s.portActive x.lane && decide (s.lnk x.lane LNK_STAT_LOGICAL = lp))).map PlanPort.lane

/-- The partner of a port, as group and module. -/
def State.partnerOf (s : State) (p : Nat) : Nat × Nat := (s.lnk p LNK_PARTNER_GROUP, s.lnk p LNK_PARTNER_MODULE)

/-- Heartbeat STATE bits (R243). -/
def hbTimeValid (b : Nat) : Bool := b % 2 = 1
def hbAdmitted (b : Nat) : Bool := b / 2 % 2 = 1
def hbStandby (b : Nat) : Bool := b / 4 % 2 = 1
def hbChrysalis (b : Nat) : Bool := b / 8 % 2 = 1

/-- A training of the port begins (R248, R253): step 1. Sequence numbers start again, with the first frame after the confirm
exchange (R241, R251). -/
def State.beginTraining (s : State) (p : Nat) : State :=
  let s := ((s.putLnk p LNK_STAT_STATE 1).putLnk p LNK_STAT_FIRST 1).putLnk p LNK_STAT_WIDTH 0
  let s := ((s.putLnk p LNK_STAT_PLAN 0).putLnk p LNK_STAT_SWAPPED 0).putLnk p LNK_STAT_LOGICAL p
  (s.updPort p (fun (x : Port) => { x with
    txSeq := 0, rxSeq := 0, lanes := 0, hello := none, confirm := none, result := none, peerRun := 0, peerPass := 0, hbRod := none, hbMiss := 0,
    hbInj := false, tagFails := 0, refuseData := false, retrain := false, planOff := false, quiet := false })).settle

/-- A port leaves training without success, and waits for its next attempt (R248, R253, R434). -/
def State.failTraining (s : State) (p : Nat) : State :=
  ((s.putLnk p LNK_STAT_STATE 0).updPort p (fun (x : Port) => { x with failed := true })).settle

/-- A port becomes active (R248 step 7, R253), and its capability enters the record. -/
def State.activate (s : State) (p : Nat) : State :=
  let s := (s.putLnk p LNK_STAT_STATE 7).putLnk p LNK_STAT_LOST 0
  let s := s.updPort p (fun (x : Port) => { x with
    failed := false, held := false, hbRod := some s.tb.rod, hbMiss := 0, peerRun := 0 })
  let s := { s with fab := { s.fab with
    losses := s.fab.losses.map (fun (l : Loss) => { l with ports := l.ports.filter (fun q => decide (q ≠ p)) }) } }
  s.reAdmit

/-- The port is disabled by the cabling decision or as FOREIGN (R249, R252). -/
def State.disablePort (s : State) (p plan : Nat) : State :=
  let s := ((s.putLnk p LNK_STAT_STATE 0).putLnk p LNK_STAT_PLAN plan).putLnk p LNK_FLAG_PLAN_FAIL 1
  let s := s.updPort p (fun (x : Port) => { x with planOff := true })
  ((s.pldm (.cabling p plan)).settle).reAdmit

/-- Step 6 begins, or where this end's time is not valid, the port is active at once (R248). -/
def State.enterStep6 (s : State) (p : Nat) : State :=
  if s.isSet TB_STAT_COUNT_VALID then s.putLnk p LNK_STAT_STATE 6 else s.activate p

/-- At a mile boundary every port that is not active and may train begins a new training, and a RETRAIN is honoured
(R253). A module that has yielded trains its silent ports again once its repair is complete (R415). -/
def State.startTrainings (s : State) : State :=
  s.boot.image.ports.foldl (fun (s : State) (e : PlanPort) =>
    let p := e.lane
    let again := (s.port p).retrain || (s.port p).quiet
    if s.isSetAt (lnkI p) LNK_CTRL_DISABLE || ((s.port p).quiet && !s.faults.repairs.isEmpty) || s.edgeFaulty p then s
    else if again then
      let was := s.portActive p
      let s := s.beginTraining p
      if was then s.reAdmit else s
    else if s.lnk p LNK_STAT_STATE = 0 ∧ !(s.port p).planOff then s.beginTraining p else s) s

/-- LANE_TRAINING_DONE (R234, R248): step 1 completes; `lanes` are the port's lanes that trained. -/
def execLaneTrainingDone (port : LaneId) (lanes : BitVec 8) (s : State) : Host.Outcome State Fault Refusal :=
  let p : Nat := port
  .next (if s.lnk p LNK_STAT_STATE = 1 ∧ lanes ≠ 0 then
      (s.putLnk p LNK_STAT_STATE 2).updPort p (fun (x : Port) => { x with lanes := lanes })
    else s)

/-- The part of a w-lane port that trains (R236): its width and its number, of the largest aligned part in which every lane is
good, the lower first. -/
def trainedPart (w : Nat) (good : BitVec 8) : Option (Nat × Nat) :=
  ([8, 4, 2, 1].filter (· ≤ w)).findSome? (fun n =>
    ((List.range (w / n)).find? (fun k => (List.range n).all (fun i => good.getLsbD (n * k + i)))).map (fun k => (n, k)))

/-- The trained width (R236). -/
def trainedWidth (w : Nat) (good : BitVec 8) : Option Nat := (trainedPart w good).map Prod.fst

/-- The lanes of the part that trains. -/
def trainedLanes (w : Nat) (good : BitVec 8) : BitVec 8 :=
  match trainedPart w good with
  | some (n, k) => BitVec.ofNat 8 ((2 ^ n - 1) * 2 ^ (n * k))
  | none => 0

/-! ### The bytes of a frame (R240, R241, R249) -/

/-- The header as 16 bytes, bit 127 first (R240). -/
def headBytes (h : FrameHdr) : List Byte :=
  beBytes 16 (h.type % 16 * 2 ^ 124 + h.rev % 256 * 2 ^ 116 + h.dstGroup % 16 * 2 ^ 112 + h.dstMod % 64 * 2 ^ 106 +
    h.srcGroup % 16 * 2 ^ 102 + h.srcMod % 64 * 2 ^ 96 + h.token % 256 * 2 ^ 88 + h.inst % 256 * 2 ^ 80 + h.count % 16 * 2 ^ 76 +
    h.fmt % 4 * 2 ^ 74 + h.prec % 65536 * 2 ^ 58 + h.index % 1024 * 2 ^ 48 + h.seqLo % 65536 * 2 ^ 32 + h.dstRegion % 16 * 2 ^ 28)

/-- The header of a frame of TYPE 1 to 3 (R240). -/
def State.plainHdr (s : State) (type : Nat) : FrameHdr :=
  ⟨type, s.boot.image.fabRev, 0, 0, s.self.1, s.self.2, 0, 0, 0, 0, 0, 0, 0, 0⟩

/-- The initialisation vector of a frame (R241): the direction, the sender's physical port, the sequence number. -/
def frameIv (die farDie : BitVec 64) (port seq : Nat) : Nat :=
  (if die.toNat < farDie.toNat then 0 else 2 ^ 95) + port % 64 * 2 ^ 89 + seq % 2 ^ 64

/-- The frame's bytes on the lanes: header, payload, trailer (R240). A hello goes in clear, with a CRC-32C; the others are
encrypted under the link key of the training, and the tag is the trailer. Log entry 84 (DESIGN CHOICE). -/
def State.frameBytes (s : State) (p seq : Nat) (hdr : FrameHdr) (payload : List Byte) : List Byte :=
  let head := headBytes hdr
  if hdr.type = 2 then head ++ payload ++ leBytes 4 (crc32c (head ++ payload)).toNat ++ List.replicate 12 0
  else
    let x := s.port p
    let far := ((x.hello.map Hello.random).getD 0)
    head ++ fitBytes (payload.length + 16) (Config.gcmSeal (linkKey Config.dieId x.partnerId x.random far)
      (frameIv Config.dieId x.partnerId p seq) head payload)

/-- A frame goes out on a port (R240). -/
def State.emitFrame (s : State) (p seq : Nat) (hdr : FrameHdr) (payload : List Byte) : State :=
  { s with fab := { s.fab with sent := ⟨p, seq, hdr, payload, s.frameBytes p seq hdr payload⟩ :: s.fab.sent } }

/-- DESKEW_DONE (R236): step 2 completes and the width is decided; the hello goes out with a fresh random value (R249). Log entry 22 (DESIGN CHOICE). -/
def execDeskewDone (port : LaneId) (lanes : BitVec 8) (s : State) : Host.Outcome State Fault Refusal :=
  let p : Nat := port
  .next (match s.plan p with
    | none => s
    | some e =>
      if s.lnk p LNK_STAT_STATE ≠ 2 then s
      else
        let good := (s.port p).lanes &&& lanes
        match trainedWidth e.width good with
        | none => s.failTraining p
        | some n =>
          let rnd := Config.linkRandom s.freeCtr
          let s := s.tick
          let s := ((s.putLnk p LNK_STAT_WIDTH n).flagAt (lnkI p) LNK_STAT_REDUCED (decide (n < e.width))).putLnk p LNK_STAT_STATE 3
          let s := s.updPort p (fun (x : Port) => { x with lanes := trainedLanes e.width good, random := rnd })
          let im := s.boot.image
          let payload := leBytes 8 Config.dieId.toNat ++ leBytes 4 rnd.toNat ++
            [BitVec.ofNat 8 p, BitVec.ofNat 8 n, BitVec.ofNat 8 im.fabRev, BitVec.ofNat 8 im.compat.length] ++
            (List.range 8).map (fun i => BitVec.ofNat 8 (im.compat.getD i 0)) ++ List.replicate 24 0
          s.emitFrame p 0 (s.plainHdr 2) payload)

/-- The check of a partner's hello against the plan (R250): 0 MATCH, 1 FAR_SWAP, 2 SWAP, 3 MISMATCH. -/
def State.cablingResult (s : State) (e : PlanPort) (h : Hello) : Nat :=
  if h.dieId = e.dieId then
    (if h.port = e.farPort then 0 else if h.port ∈ e.farSet then 1 else 3)
  else if e.localSet.any (fun q => decide (q ≠ e.lane) &&
      (match s.plan q with | some x => decide (x.dieId = h.dieId) | none => false)) then 2
  else 3

/-- The port of the local interchange set whose expected partner was found on this one (R252). Log entry 75 (DEDUCED). -/
def State.swapPort (s : State) (e : PlanPort) (h : Hello) : Option Nat :=
  e.localSet.find? (fun q => decide (q ≠ e.lane) &&
    (match s.plan q with | some x => decide (x.dieId = h.dieId) | none => false))

/-- The error correction and the tag or CRC of a received frame (R242 checks 1 and 4), with the injection points 0x14 and
0x15: the frame is lost or dropped; 4 tag failures in a furlong take an active port out of service. Log entry 63 (DESIGN CHOICE). -/
def State.rxFec (s : State) (p : Nat) (rx : FrameRx) : State × Bool :=
  let s := s.addLnk p LNK_FEC_CORR_COUNT rx.corrected
  let (s, inj) := s.tryInject 0x14 0 p
  if rx.uncorrectable ∨ inj.isSome then (s.addLnk p LNK_FEC_UNCORR_COUNT 1, false) else (s, true)

def State.rxTag (s : State) (p : Nat) (rx : FrameRx) : State × Bool :=
  let (s, inj) := s.tryInject 0x15 0 p
  if rx.tagOk ∧ inj.isNone then (s, true)
  else
    let s := (s.addLnk p LNK_TAG_ERR_COUNT 1).updPort p (fun (x : Port) => { x with tagFails := x.tagFails + 1 })
    if s.portActive p ∧ 4 ≤ (s.port p).tagFails then
      ((((s.putLnk p LNK_STAT_STATE 0).putLnk p LNK_FLAG_TAG_RUN 1).settle).reAdmit, false)
    else (s, false)

/-- HELLO_FRAME (R249, R250): the check result is computed, and the confirm frame goes out (R251). -/
def execHelloFrame (port : LaneId) (h : Hello) (rx : FrameRx) (s : State) : Host.Outcome State Fault Refusal :=
  let p : Nat := port
  .next (match s.plan p with
    | none => s
    | some e =>
      if s.lnk p LNK_STAT_STATE ≠ 3 then s
      else
        let (s, ok) := s.rxFec p rx
        if !ok then s
        else
          let (s, ok) := s.rxTag p rx
          if !ok then s
          else
            let r := s.cablingResult e h
            let s := (s.putLnk p LNK_STAT_PARTNER_REV h.rev).putLnk p LNK_PARTNER_PORT h.port
            let s := (s.putLnk p LNK_PARTNER_GROUP h.group).putLnk p LNK_PARTNER_MODULE h.module
            let s := s.putLnk p LNK_STAT_STATE 4
            let s := s.updPort p (fun (x : Port) => { x with hello := some h, result := some r, partnerId := h.dieId })
            let mine := (s.port p).random
            let echo := if Config.dieId.toNat < h.dieId.toNat then leBytes 4 mine.toNat ++ leBytes 4 h.random.toNat
              else leBytes 4 h.random.toNat ++ leBytes 4 mine.toNat
            let logical := if r = 2 then (s.swapPort e h).getD p else p
            let payload := echo ++ [BitVec.ofNat 8 r, BitVec.ofNat 8 logical, (if r = 3 then 0 else 1)] ++ List.replicate 21 0
            s.emitFrame p Config.confirmSeq.toNat (s.plainHdr 3) payload)

/-- CONFIRM_FRAME (R251): a confirm under the new key. One that fails the tag check marks the port FOREIGN (R249). -/
def execConfirmFrame (port : LaneId) (c : Confirm) (rx : FrameRx) (s : State) : Host.Outcome State Fault Refusal :=
  let p : Nat := port
  .next (if s.lnk p LNK_STAT_STATE ≠ 4 then s
    else
      let (s, ok) := s.rxFec p rx
      if !ok then s
      else
        let (s, ok) := s.rxTag p rx
        if !ok then (s.disablePort p 5).advanceStart
        else
          let x := s.port p
          match x.hello with
          | none => s
          | some h =>
            let (a, b) := if Config.dieId.toNat < h.dieId.toNat then (x.random, h.random) else (h.random, x.random)
            if c.echoA ≠ a ∨ c.echoB ≠ b then s
            else (s.putLnk p LNK_STAT_STATE 5).setPort p { x with confirm := some c })

/-- The partner's confirm reports MATCH or FAR_SWAP with ACCEPT. -/
def confirmFits (c : Option Confirm) : Bool :=
  match c with | some c => decide (c.result ≤ 1) && c.accept | none => false

/-- CABLING_DECISION (R252): the port keeps its logical port, swaps it, or is disabled. A SWAP waits for the other port of
the interchange set. Log entry 75 (DEDUCED). -/
def execCablingDecision (port : LaneId) (s : State) : Host.Outcome State Fault Refusal :=
  let p : Nat := port
  .next (match s.plan p with
    | none => s
    | some e =>
      let x := s.port p
      if s.lnk p LNK_STAT_STATE ≠ 5 then s
      else
        match x.result, x.confirm, x.hello with
        | some r, some c, some h =>
          if r ≤ 1 then
            if c.accept then ((s.putLnk p LNK_STAT_PLAN (r + 1)).enterStep6 p).advanceStart
            else (s.disablePort p (r + 1)).advanceStart
          else if r = 2 then
            match s.swapPort e h with
            | none => (s.disablePort p 3).advanceStart
            | some q =>
              let y := s.port q
              if s.lnk q LNK_STAT_STATE ≠ 5 then s
              else
                let cross := match s.plan q, y.hello with
                  | some f, some g => decide (s.swapPort f g = some p) && decide (f.localSet.contains p)
                  | _, _ => false
                if cross && confirmFits x.confirm && confirmFits y.confirm then
                  let s := ((s.putLnk p LNK_STAT_PLAN 3).putLnk p LNK_STAT_SWAPPED 1).putLnk p LNK_STAT_LOGICAL q
                  let s := ((s.putLnk q LNK_STAT_PLAN 3).putLnk q LNK_STAT_SWAPPED 1).putLnk q LNK_STAT_LOGICAL p
                  (((s.enterStep6 p).enterStep6 q).reAdmit).advanceStart
                else (s.disablePort p 3).advanceStart
          else (s.disablePort p 4).advanceStart
        | _, _, _ => s)

/-- TRAINING_STEP_TIMEOUT (R248): a step that does not complete within its maximum fails. -/
def execTrainingStepTimeout (port : LaneId) (s : State) : Host.Outcome State Fault Refusal :=
  let p : Nat := port
  .next (if s.lnk p LNK_STAT_STATE = 0 ∨ s.portActive p then s else (s.failTraining p).advanceStart)

/-! ### Data frames -/

/-- Runs of units with consecutive indices, at most 16 to a frame (R505). -/
def frameRuns (l : List UnitOut) : List (List UnitOut) :=
  (l.foldl (fun (acc : List (List UnitOut)) u =>
    match acc with
    | [] => [[u]]
    | run :: rest =>
      match run with
      | v :: _ => if u.index = v.index + 1 ∧ run.length < 16 then (u :: run) :: rest else [u] :: acc
      | [] => [u] :: rest) []).reverse.map List.reverse

/-- Send one frame on a port: header, sequence number, count (R240, R241). -/
def State.sendFrame (s : State) (p : Nat) (hdr : FrameHdr) (payload : List Byte) : State :=
  let x := s.port p
  let seq := x.txSeq
  let s := s.setPort p { x with txSeq := seq + 1, tx := if hdr.type = 0 then x.tx + 1 else x.tx }
  s.emitFrame p seq { hdr with seqLo := seq % 65536 } payload

/-- What the module awaits for the rows that a transfer sent (R256). -/
def State.awaitsFor (s : State) (p core inst : Nat) (v : Send) (key : Option Nat) (units : List UnitOut) : List Await :=
  match v.src with
  | .units _ | .answer _ | .ring .. =>
    [⟨p, key, units.foldl (fun (m : BitVec 32) u => if u.isVoid then m else m ||| rowBit u.row) 0, none⟩]
  | .block layer expert blockRow _ =>
    match s.routing.grants.find? (fun (g : Grant) => g.core = core ∧ g.layer = layer ∧ g.inst = inst) with
    | none => []
    | some g =>
      match g.entries.find? (fun (e : GrantEntry) => e.accepted && decide (e.expert = expert) && decide (e.blockRow = blockRow)) with
      | none => []
      | some e => (s.boot.image.exchange.filter (fun (x : Exchange) =>
          x.layer = layer ∧ x.expert = expert ∧ x.blockRow = blockRow)).filterMap (fun (x : Exchange) =>
            (s.physOf x.comb).map (fun c => (⟨p, g.key, rowBit e.row, some (c, x.token, rowBit x.row)⟩ : Await)))

/-- FRAME_SEND (R240, R505): a send slot of a logical port forms data frames of up to 16 units. A port that is not active,
or whose routes are held, sends nothing (R256). -/
def execFrameSend (issue : Issue) (port : LaneId) (dstGroup dstMod dstRegion : Nat) (send : Send) (ecc : Upsets) (s : State) :
    Host.Outcome State Fault Refusal :=
  let core : Nat := issue.core
  if !s.runs issue (.port port.val) then .next s
  else
    let flags := s.flagsIn issue
    let (s, begun) := s.beginOp issue (sendRanges send) ecc
    match begun with
    | none => .next s
    | some b =>
      let rows := s.outRows issue
      let bad := s.untrustedUnit core 9
      let voided := if b.bad ∨ bad then 0xFFFFFFFF else b.voided
      let units := s.formUnits core issue.inst issue.ins send b.key (voided ||| s.emptyRows issue b.key) flags
      let s := s.finishOp issue b rows flags bad
      match s.physPort port with
      | none => .next s
      | some p =>
        let im := s.boot.image
        let fmt := if send.kind ≤ 1 then send.kind else 2
        let s := (frameRuns units).foldl (fun (s : State) run =>
          let (s, inj) := s.tryInject 0x16 0 p
          let prec := run.zipIdx.foldl (fun (m : Nat) (u : UnitOut × Nat) => if u.1.prec then m + 2 ^ u.2 else m) 0
          s.sendFrame p ⟨0, inj.getD im.fabRev, dstGroup, dstMod, s.self.1, s.self.2, send.token, issue.inst % 256,
            run.length - 1, fmt, prec, (run.head?.map UnitOut.index).getD 0, 0, dstRegion⟩ (run.flatMap UnitOut.payload)) s
        let s := { s with fab := { s.fab with awaits := s.fab.awaits ++ s.awaitsFor p core issue.inst send b.key units } }
        .next s

/-- The receiver accepts a data frame's revision (R259). -/
def State.revOk (s : State) (rev : Nat) : Bool :=
  decide (rev = s.boot.image.fabRev) || s.boot.image.compat.contains rev

/-- One unit of table traffic takes its place (R314, R315, R330). -/
def State.tableMsg (s : State) (m : TableMsg) : State :=
  match m with
  | .admitMsg at_ slot gen handle seed prio deadline region spec pen nMax p adEn adIdent samp stop =>
    let r := { Req.empty with
      handle := handle, seed := seed, prio := prio, gen := gen % 128, state := .intake, deadline := deadline, region := region,
      spec := spec, pen := pen, nMax := nMax, p := p, adapterEn := adEn, adIdent := adIdent, samp := samp, stopSet := stop,
      admitAt := some at_ }
    (s.setReq slot r).sendUpdate ⟨.admitSlot, at_, slot, gen % 128, 0⟩
  | .update u => s.sendUpdate u
  | .bushel slot start rows =>
    let b : Bushel := ⟨slot, start, rows.zipIdx.map (fun (r : (Nat × Nat × Nat × Bool) × Nat) =>
      (⟨r.1.1, r.1.2.1, r.1.2.2.1, r.2, r.1.2.2.2, 0, true, r.1.2.2.1, 0, none⟩ : BushelRow)), false, 0, 0, 0, [], []⟩
    ({ s with rqt := { s.rqt with bushels := s.rqt.bushels.filter (fun (x : Bushel) => x.key ≠ b.key) ++ [b] } }).bindBushel b
  | .manifest slot start rows =>
    { s with rqt := { s.rqt with bushels := s.rqt.bushels.map (fun (b : Bushel) =>
        if b.slot = slot ∧ b.start = start then
          { b with entered := true, rows := b.rows.map (fun (x : BushelRow) =>
              match rows.find? (fun (r : Nat × Nat × Nat × Nat) => r.1 = x.slot ∧ r.2.1 = x.gen ∧ r.2.2.1 = x.pos) with
              | some r => { x with tok := r.2.2.2, filled := true }
              | none => { x with filled := false }) }
        else b) } }

/-- An update names a boundary that has passed. -/
def State.updateLate (s : State) (m : TableMsg) : Bool :=
  let at_ := match m with
    | .admitMsg a _ _ _ _ _ _ _ _ _ _ _ _ _ _ _ => some a
    | .update u => some u.atRod
    | _ => none
  match at_ with | some a => rodAfter s.tb.rod a | none => false

/-- Table traffic arrives (R314, R315): a late or void unit closes intake with code 0x19 until re-admission. Log entry 62 (DESIGN CHOICE). -/
def State.tableTraffic (s : State) (ms : List TableMsg) (isVoid : Bool) : State :=
  if isVoid || ms.any s.updateLate then { s with rqt := { s.rqt with flowLate := true } }.put RQT_FLAG_TABLE_LATE 1
  else ms.foldl State.tableMsg s

/-- The units of an accepted data frame go to the buffer of the receive slot's token, the destination's or a relay's, or on over the
mesh (R238, R505). -/
def State.takeUnits (s : State) (p : Nat) (hdr : FrameHdr) (units : List (List Byte)) (r : RecvSlot) : State :=
  let core : Nat := r.issue.core
  -- data units for another request than the ring's are discarded (R309)
  let keep := fun (u : List Byte) => decide (hdr.fmt ≤ 1) || r.relay || (s.ringOf u).isSome
  let s := s.addLnk p LNK_DROP_COUNT (units.countP (fun u => !keep u))
  let kind := if hdr.fmt = 2 then 4 else hdr.fmt
  let us := (units.zipIdx.filter (fun (u : List Byte × Nat) => keep u.1)).map (fun (u : List Byte × Nat) =>
    let idx := hdr.index + u.2
    let isVoid := decide (hdr.fmt ≤ 1) && tagVoid (peckTag u.1 0)
    (⟨idx, idx / r.perRow, isVoid, decide (hdr.prec / 2 ^ u.2 % 2 = 1), isVoid || decide ((idx + 1) % r.perRow = 0), u.1⟩ : UnitOut))
  match r.flow with
  | none =>
    match s.tokenBuf core hdr.token with
    | none => s
    | some b => us.foldl (fun (s : State) u => s.deliverUnit core b hdr.inst kind u) s
  | some n =>
    match s.boot.image.flows.find? (fun (f : Flow) => f.num = n) with
    | none => s
    | some f =>
      match s.destOf f.dst with
      | none => s
      | some dst =>
        let mk := fun (planeB : Bool) (via : Nat) (u : UnitOut) =>
          (⟨core, u.flit dst via hdr.token hdr.inst kind (s.regionNum core) planeB⟩ : FlitAt)
        match s.routeOf f core dst with
        | .none => s.putAt (coreI core) RTR_FLAG_NO_ROUTE 1
        | .planeA => { s with mesh := { s.mesh with flits := s.mesh.flits ++ us.map (mk false dst) } }
        | .detour via => { s with mesh := { s.mesh with flits := s.mesh.flits ++ us.map (mk true via) } }

/-- The destination core of a receive slot: its own, or that of the flow that forwards the units. -/
def State.recvCore (s : State) (r : RecvSlot) : Option Nat :=
  match r.flow with
  | none => some r.issue.core.val
  | some n => (s.boot.image.flows.find? (fun (f : Flow) => f.num = n)).bind (fun (f : Flow) => s.destOf f.dst)

/-- The receiver's expected number advances to the smallest value not below it with these low bits (R241). -/
def nextSeq (expect lo : Nat) : Nat := expect + (lo + 65536 - expect % 65536) % 65536 + 1

/-- DATA_FRAME (R239, R242): a data frame is received and checked in order. Log entries 15 (DESIGN CHOICE), 62 (DESIGN CHOICE). -/
def execDataFrame (port : LaneId) (rx : FrameRx) (hdr : FrameHdr) (units : List (List Byte)) (slot : Option RecvSlot)
    (table : Option (List TableMsg)) (s : State) : Host.Outcome State Fault Refusal :=
  let p : Nat := port
  if !s.portActive p then .next s
  else
    let (s, ok) := s.rxFec p rx
    let drop := fun (s : State) => s.addLnk p LNK_DROP_COUNT 1
    if !ok then .next s
    else if hdr.type ≠ 0 ∨ 2 < hdr.fmt ∨ hdr.count + 1 ≠ units.length ∨ units.any (fun u => decide (u.length ≠ 72)) then .next (drop s)
    else if !s.revOk hdr.rev then .next ((s.addLnk p LNK_REV_REFUSE_COUNT 1).putLnk p LNK_FLAG_REV 1)
    else
      let (s, ok) := s.rxTag p rx
      if !ok then .next s
      else
        let s := s.updPort p (fun (x : Port) => { x with rx := x.rx + 1, rxSeq := nextSeq x.rxSeq hdr.seqLo })
        let region := ((s.plan p).map PlanPort.region).getD 0
        match slot with
        | none => .next (drop s)
        | some r =>
          if (s.port p).refuseData ∨ (s.port p).held ∨ hdr.dstRegion ≠ region ∨ r.issue.out ≠ hdr.token ∨
              ((hdr.dstGroup, hdr.dstMod) ≠ s.self ∧ !r.relay) ∨ !s.runs r.issue (.port (s.lnk p LNK_STAT_LOGICAL)) then .next (drop s)
          else
            let stale := match s.recvCore r with
              | some c => instNewer (s.token c hdr.token).inst hdr.inst
              | none => false
            if stale then
              let c := (s.recvCore r).getD 0
              .next ((s.addAt (coreI c) SEQ_STALE_CNT_COUNT 1).add TB_STALE_CNT_COUNT 1)
            else
              match table with
              | some ms => .next (s.tableTraffic ms (units.any (fun u => tagVoid (peckTag u 0))))
              | none => .next (s.takeUnits p hdr units r)

/-! ### Loss of a partner (R255 to R258, R422) -/

/-- Void rows of a bushel instance that are not void yet. -/
def State.voidOnce (s : State) (key : Option Nat) (rows : BitVec 32) : State :=
  match key with
  | none => s
  | some k =>
    match s.rqt.bushels.find? (fun (b : Bushel) => b.key = k) with
    | none => s
    | some b => let m := rows &&& ~~~ b.voided
      if m = 0 then s else s.lateRows key m

/-- The positions that a lost port affects are voided at once (R256 item 2): those sent whose answer has not returned, and
those that await data from the port. -/
def State.voidPort (s : State) (p : Nat) : State :=
  let s := s.fab.awaits.foldl (fun (s : State) (a : Await) =>
    if a.port ≠ p then s
    else
      match a.answer with
      | none => s.voidOnce a.key a.rows
      | some (core, tok, rows) =>
        let t := s.token core tok
        let missing := rows &&& ~~~ t.arrived
        if missing = 0 then s
        else (s.setToken core tok { t with arrived := t.arrived ||| missing, voided := t.voided ||| missing }).voidOnce a.key a.rows) s
  let lp := s.lnk p LNK_STAT_LOGICAL
  let slots := ((s.variant? s.sched.var).map Variant.slots).getD []
  let s := slots.foldl (fun (s : State) (x : Slot) =>
    if x.agent ≠ .port lp ∨ x.out = 255 ∨ x.ins.any (fun n => decide (n ≠ 255)) then s
    else
      match s.physOf x.core with
      | none => s
      | some c =>
        let t := s.token c x.out
        let missing := t.expected &&& ~~~ t.arrived
        if missing = 0 ∨ t.slot.isNone then s
        else
          let s := s.setToken c x.out { t with arrived := t.arrived ||| missing, voided := t.voided ||| missing }
          match s.tokenBuf c x.out with
          | some b => if b.use = .bushel then s.voidOnce t.slot missing else s
          | none => s) s
  { s with fab := { s.fab with awaits := s.fab.awaits.filter (fun (a : Await) => a.port ≠ p) } }

/-- A live port to a module: active, with a heartbeat in the last 4 rods that does not report CHRYSALIS (R257, R422). -/
def State.livePort (s : State) (gm : Nat × Nat) : Bool :=
  s.boot.image.ports.any (fun (e : PlanPort) =>
    let x := s.port e.lane
    s.portActive e.lane && decide (s.partnerOf e.lane = gm) && !hbChrysalis x.partner &&
      (match x.hbRod with | some r => decide (rodsSince r s.tb.rod ≤ 4) | none => false))

/-- A PRESENT makes the reported loss a port failure (R257): the ports that detected it enter the capability record. -/
def State.notePresent (s : State) (gm : Nat × Nat) : State :=
  let hit := s.fab.losses.filter (fun (l : Loss) => (l.group, l.module) = gm ∧ l.confirmed.isNone ∧ !l.present)
  let s := { s with fab := { s.fab with losses := s.fab.losses.map (fun (l : Loss) =>
    if (l.group, l.module) = gm ∧ l.confirmed.isNone then { l with present := true, closed := true } else l) } }
  if hit.any (fun (l : Loss) => !l.ports.isEmpty) then s.reAdmit else s

/-- A PRESENT message is seen, received or raised here. -/
def State.seePresent (s : State) (m : SbMsg) : State :=
  let (s, new) := s.enterSb m
  if new then s.notePresent (m.data / 64 % 16, m.data % 64) else s

def State.raisePresent (s : State) (gm : Nat × Nat) : State :=
  s.seePresent ⟨5, s.self.1, s.self.2, s.datedMile % 65536, gm.1 * 64 + gm.2⟩

/-- A LOSS message is seen (R257): it is recorded; PRESENT is raised where this module has a live port to the module named,
or is that module and not in chrysalis mode. `port` is the detecting port of a message raised here. -/
def State.seeLoss (s : State) (m : SbMsg) (port : Option Nat) : State :=
  let gm := (m.data / 64 % 16, m.data % 64)
  let (s, new) := s.enterSb m
  let mile := nearestMile s.mileNow m.mile
  let old := s.fab.losses.find? (fun (l : Loss) => (l.group, l.module) = gm ∧ l.mile = mile)
  let early := s.fab.seen.any (fun (x : SbMsg) => x.kind = 5 ∧ x.data = m.data ∧ x.mile = m.mile)
  let s := match old with
    | some _ => { s with fab := { s.fab with losses := s.fab.losses.map (fun (l : Loss) =>
        if (l.group, l.module) = gm ∧ l.mile = mile then { l with ports := l.ports ++ port.toList } else l) } }
    | none => { s with fab := { s.fab with losses := s.fab.losses ++ [(⟨gm.1, gm.2, mile, early, none, port.toList, early⟩ : Loss)] } }
  if !new then s
  else if (gm = s.self ∧ s.fld GLB_STATE_STATE ≠ 2) ∨ s.livePort gm then s.raisePresent gm else s

/-- The loss of a port's partner is detected (R255, R256, R422). -/
def State.detectLoss (s : State) (p : Nat) (injected : Bool) : State :=
  if !s.portActive p then s
  else
    let s := s.voidPort p
    if s.contained injected then s.put INJ_STAT_CONTAINED 1
    else
      let gm := s.partnerOf p
      let s := ((s.putLnk p LNK_STAT_STATE 0).putLnk p LNK_STAT_LOST 1).putLnk p LNK_FLAG_LOSS 1
      let s := (s.updPort p (fun (x : Port) => { x with held := true })).settle
      s.seeLoss ⟨4, s.self.1, s.self.2, s.datedMile % 65536, gm.1 * 64 + gm.2⟩ (some p)

/-! ### Heartbeats and the sideband (R185, R243 to R247) -/

/-- A sideband message as 64 bits (R244). -/
def sbWord (m : SbMsg) : Nat :=
  m.kind % 16 * 2 ^ 60 + m.group % 16 * 2 ^ 56 + m.module % 64 * 2 ^ 50 + m.mile % 65536 * 2 ^ 34 + m.data % 2 ^ 32 * 4

/-- The module is handling a time-base failure, and sends no heartbeats (R186). Log entry 64 (DEDUCED). -/
def State.timeBaseDown (s : State) : Bool := decide (s.fld TB_ADM_STAT_STATE = 3) && decide (s.fld TB_ADM_STAT_CODE = 2)

/-- The STATE byte that this module reports (R243, R415, R439). -/
def State.hbState (s : State) : Nat :=
  (if s.isSet TB_STAT_COUNT_VALID then 1 else 0) + (if s.sched.admitted && (s.sched.running || decide (s.startStep = 10)) && !s.faults.yielding && decide (s.fld GLB_STATE_STATE ≠ 2) then 2 else 0) +
    (if s.isSet GLB_STATE_STANDBY then 4 else 0) + (if s.fld GLB_STATE_STATE = 2 then 8 else 0)

/-- HEARTBEAT_SEND (R243, R246, R247): one heartbeat per rod on a port in step 6 or active, with up to 3 queued messages.
A message leaves the queue once it has gone on every active port. Log entries 61 (DESIGN CHOICE), 64 (DEDUCED). -/
def execHeartbeatSend (port : LaneId) (s : State) : Host.Outcome State Fault Refusal :=
  let p : Nat := port
  let st := s.lnk p LNK_STAT_STATE
  if st < 6 ∨ (s.port p).quiet ∨ s.timeBaseDown ∨ (s.port p).hbSent = some s.sec.clockRods then .next s
  else
    let msgs := if st = 7 then (s.fab.queue.filter (fun m => !s.fab.relayed.contains (m, p))).take 3 else []
    let payload := leBytes 2 s.tb.rod ++ [BitVec.ofNat 8 s.hbState, BitVec.ofNat 8 msgs.length] ++ List.replicate 4 0 ++
      (List.range 3).flatMap (fun i => leBytes 8 ((msgs[i]?.map sbWord).getD 0))
    let s := s.sendFrame p (s.plainHdr 1) payload
    let s := s.updPort p (fun (x : Port) => { x with hbSent := some s.sec.clockRods })
    let rel := s.fab.relayed ++ msgs.map (fun m => (m, p))
    let active := (s.boot.image.ports.map PlanPort.lane).filter s.portActive
    let done := fun (m : SbMsg) => active.all (fun q => rel.contains (m, q))
    let q := s.fab.queue.filter (fun m => !done m)
    .next ({ s with fab := { s.fab with
      queue := q
      relayed := rel.filter (fun (r : SbMsg × Nat) => q.contains r.1)
      heatStop := s.fab.heatStop && !decide (q.length < 24) } }.depth)

/-- A sideband message is taken by its kind; reserved kinds are ignored (R244). -/
def State.takeSb (s : State) (m : SbMsg) : State :=
  match m.kind with
  | 1 => (s.enterSb m).1
  | 2 => s.seeVarReq m
  | 3 => s.seeRefusal m
  | 4 => s.seeLoss m none
  | 5 => s.seePresent m
  | 6 => s.seeEpoch m
  | _ => s

/-- The time check of a heartbeat (R185, R248): in step 6 three passes make the port active and a disagreement fails the
step; an active port that disagrees three times in a row refuses data frames. Log entry 64 (DEDUCED). -/
def State.peerTime (s : State) (p rodLo state : Nat) : State :=
  let d := (s.tb.rod % 65536 + 65536 - rodLo % 65536) % 65536
  let step6 := decide (s.lnk p LNK_STAT_STATE = 6)
  let both := s.isSet TB_STAT_COUNT_VALID && hbTimeValid state
  if !both then (if step6 then (s.activate p).advanceStart else s)
  else if d ≤ 1 then
    let x := s.port p
    if step6 then
      if 2 ≤ x.peerPass then (s.activate p).advanceStart
      else s.setPort p { x with peerPass := x.peerPass + 1 }
    else s.setPort p { x with peerRun := 0 }
  else if step6 then ((s.put TB_FAULT_PEER_TIME 1).failTraining p).advanceStart
  else
    let x := s.port p
    let n := x.peerRun + 1
    let s := s.setPort p { x with peerRun := n, refuseData := x.refuseData || decide (3 ≤ n) }
    if n = 3 then (s.put TB_FAULT_PEER_TIME 1).reAdmit else s

/-- The heartbeat counts: its time, its slot, its state, its messages. -/
def State.takeBeat (s : State) (p rodLo state : Nat) (msgs : List SbMsg) : State :=
  let (s, rodLo) := match s.faults.hbOffset with
    | some (q, n + 1, a) =>
      if q = p then ({ s with faults := { s.faults with hbOffset := if n = 0 then none else some (p, n, a) } }, (rodLo + a) % 65536)
      else (s, rodLo)
    | _ => (s, rodLo)
  let s := s.peerTime p rodLo state
  let d := (s.tb.rod % 65536 + 65536 - rodLo % 65536) % 65536
  let was := (s.port p).partner
  let s := s.updPort p (fun (x : Port) => { x with
    hbRod := some ((s.tb.rod + rodP - d) % rodP), hbMiss := 0, hbInj := false, partner := state % 16 })
  let s := (msgs.take 3).foldl State.takeSb s
  if hbChrysalis state ∧ !hbChrysalis was then s.detectLoss p false else s

/-- HEARTBEAT_RECEIVED (R185, R243, R255, R422), with the injection points 0x17 and 0x1B. Log entry 62 (DESIGN CHOICE). -/
def execHeartbeatReceived (port : LaneId) (rx : FrameRx) (rodLo state : Nat) (msgs : List SbMsg) (s : State) :
    Host.Outcome State Fault Refusal :=
  let p : Nat := port
  if s.lnk p LNK_STAT_STATE < 6 then .next s
  else
    let (s, ok) := s.rxFec p rx
    if !ok then .next s
    else
      let (s, ok) := s.rxTag p rx
      if !ok then .next s
      else
        let (s, inj) := s.tryInject 0x17 0 p
        let s := match inj with
          | some n => { s with faults := { s.faults with hbDiscard := some (p, n) } }
          | none => s
        let (s, off) := s.tryInject 0x1B 0 p
        let s := match off with
          | some n => { s with faults := { s.faults with hbOffset := some (p, 3, n) } }
          | none => s
        match s.faults.hbDiscard with
        | some (q, n + 1) =>
          if q = p then
            .next ({ s with faults := { s.faults with hbDiscard := if n = 0 then none else some (p, n) } }.updPort p
              (fun (x : Port) => { x with hbInj := true }))
          else .next (s.takeBeat p rodLo state msgs)
        | _ => .next (s.takeBeat p rodLo state msgs)

/-- SB_HEAT (R244, R246): entered in the table and relayed; nothing else follows at a receiver (R488). -/
def execSbHeat (m : SbMsg) (s : State) : Host.Outcome State Fault Refusal :=
  .next (if m.kind = 1 then (s.enterSb m).1 else s)

/-- SB_LOSS (R257). -/
def execSbLoss (m : SbMsg) (s : State) : Host.Outcome State Fault Refusal :=
  .next (if m.kind = 4 then s.seeLoss m none else s)

/-- SB_PRESENT (R257). -/
def execSbPresent (m : SbMsg) (s : State) : Host.Outcome State Fault Refusal :=
  .next (if m.kind = 5 then s.seePresent m else s)

/-- LANE_SIGNAL_LOSS (R255): error-correction lock or signal is lost for one rod. -/
def execLaneSignalLoss (port : LaneId) (s : State) : Host.Outcome State Fault Refusal :=
  let p : Nat := port
  .next (if s.portActive p then s.detectLoss p false
    else if s.lnk p LNK_STAT_STATE = 0 then s else (s.failTraining p).advanceStart)

/-- HEARTBEAT_SLOT_MISS (R255): the slot of the rod before last is judged; the third miss in a row is a loss. -/
def execHeartbeatSlotMiss (port : LaneId) (s : State) : Host.Outcome State Fault Refusal :=
  let p : Nat := port
  let slot := (s.tb.rod + rodP - 2) % rodP
  let x := s.port p
  let came := s.isSet TB_STAT_COUNT_VALID && match x.hbRod with
    | some r => decide (r = slot) || rodAfter r slot
    | none => false
  .next (if !s.portActive p || came then s
    else
      let s := (s.addLnk p LNK_HB_MISS_COUNT 1).setPort p { x with hbMiss := x.hbMiss + 1 }
      if 3 ≤ x.hbMiss + 1 then s.detectLoss p x.hbInj else s)

/-- The standbys of a role: those that the image names, and the role's own module, which may have started as standby (R258, R418,
R437). -/
def Image.standbysOf (im : Image) (role : Nat × Nat) : List (Nat × Nat) :=
  ((im.standbys.filter (fun (x : Role × Role) => decide ((x.1.group, x.1.module) = role))).map
    (fun (x : Role × Role) => (x.2.group, x.2.module))) ++ [role]

/-- A lost module leaves a role to a standby (R258): one of the role's standbys is another module. -/
def State.hasStandbyFor (s : State) (gm : Nat × Nat) : Bool :=
  match s.roleOf gm with
  | some role => (s.boot.image.standbysOf role).any (· ≠ gm)
  | none => false

/-- LOSS_CONFIRMATION (R257, R258, R293): at the end of the dated mile a loss without a PRESENT is confirmed. Without a standby
the ports enter the capability record as disabled, and the requests whose pages the module held end. -/
def execLossConfirmation (group module : Nat) (s : State) : Host.Outcome State Fault Refusal :=
  let due := fun (l : Loss) => decide (l.group = group) && decide (l.module = module) && l.confirmed.isNone && !l.present &&
    decide ((s.mileNow + mileP - l.mile) % mileP ≠ 0) && decide ((s.mileNow + mileP - l.mile) % mileP ≤ mileP / 2)
  .next (if s.fab.losses.any due then
      let standby := s.hasStandbyFor (group, module)
      let s := (s.add FAB_LOSS_CNT_COUNT 1)
      let s := { s with fab := { s.fab with losses := s.fab.losses.map (fun (l : Loss) =>
        if due l then { l with confirmed := some s.mileNow, closed := !standby } else l) } }
      if standby then s else (s.kvLost ((s.roleOf (group, module)).getD (group, module))).reAdmit
    else s)

/-- LOSS_DISABLE_TIMEOUT (R258, R293, R310): no standby has taken over by the second mile boundary after confirmation. The
lost member's rings end, and so do the requests whose pages it held. -/
def execLossDisableTimeout (group module : Nat) (s : State) : Host.Outcome State Fault Refusal :=
  let due := fun (l : Loss) => decide (l.group = group) && decide (l.module = module) && !l.closed &&
    (match l.confirmed with
     | some c => decide (2 ≤ (s.mileNow + mileP - c) % mileP)
     | none => false) &&
    !s.fab.takeovers.any (fun (t : Nat × Nat × Nat × Nat) => decide (t.1 = group) && decide (t.2.1 = module))
  .next (if s.fab.losses.any due then
      let s := { s with fab := { s.fab with losses := s.fab.losses.map (fun (l : Loss) =>
        if due l then { l with closed := true } else l) } }
      let role := (s.roleOf (group, module)).getD (group, module)
      ((s.kvLost role).endRingsOf role).reAdmit
    else s)

/-- LNK_RETRAIN: a write of LNK_CTRL; RETRAIN starts a new training at the next mile boundary, and a change of DISABLE enters
the capability record (R211, R253, R261). -/
def execLnkRetrain (port : LaneId) (w : Wr) (s : State) : Host.Outcome State Fault Refusal :=
  let p : Nat := port
  let old := s.isSetAt (lnkI p) LNK_CTRL_DISABLE
  let (s, d) := s.write w (LNK_CTRL_RETRAIN.addr + lnkI p)
  let s := if s.isSetAt (lnkI p) LNK_CTRL_DISABLE ≠ old then s.reAdmit.advanceStart else s
  .next (if acts d LNK_CTRL_RETRAIN then s.updPort p (fun (x : Port) => { x with retrain := true }) else s)

/-- MC_COORDINATES (R254): FAB_COORD takes the coordinates; a difference from the image's is reported. -/
def execMcCoordinates (rack : BitVec 8) (group : BitVec 4) (slot : BitVec 6) (s : State) :
    Host.Outcome State Fault Refusal :=
  if !s.mgmtUp then .next s else
  let bad := decide ((rack.toNat, group.toNat, slot.toNat) ≠ s.boot.image.coords)
  let s := (((s.put FAB_COORD_VALID 1).put FAB_COORD_RACK rack.toNat).put FAB_COORD_GROUP group.toNat).put FAB_COORD_SLOT slot.toNat
  let s := s.flag FAB_COORD_MISMATCH bad
  .next (if bad then s.pldm .coordinates else s)

/-! ### What boundaries do for the fabric -/

/-- At a rod boundary LNK_FRAMES takes the counts of the rod, and awaits of bushel instances that are gone end. -/
def State.fabRod (s : State) : State :=
  let s := s.fab.ports.foldl (fun (s : State) (e : Nat × Port) =>
    (((s.putLnk e.1 LNK_FRAMES_RX (min e.2.rx 65535)).putLnk e.1 LNK_FRAMES_TX (min e.2.tx 65535)).updPort e.1
      (fun (x : Port) => { x with rx := 0, tx := 0 }))) s
  { s with fab := { s.fab with awaits := s.fab.awaits.filter (fun (a : Await) =>
      s.rqt.bushels.any (fun (b : Bushel) => a.key = some b.key)) } }

/-- At a furlong boundary tag failures are counted anew (R242). -/
def State.fabFurlong (s : State) : State :=
  s.fab.ports.foldl (fun (s : State) (e : Nat × Port) => s.updPort e.1 (fun (x : Port) => { x with tagFails := 0 })) s

/-- A sideband message leaves the table 2 miles after its dated mile ends (R246). -/
def State.expireSb (s : State) : State :=
  { s with fab := { s.fab with seen := s.fab.seen.filter (fun (m : SbMsg) =>
      let k := (s.mileNow + mileP - nearestMile s.mileNow m.mile) % mileP
      decide (k < 3) || decide (mileP / 2 < k)) } }

/-! ### Standby takeover (R365, R366, R418, R419) -/

/-- Every partner of a role that this module's trained ports reach has a revision that its image accepts (R30 entry 30). -/
def State.acceptsPartners (s : State) (role : Nat × Nat) : Bool :=
  s.boot.image.links.all (fun (l : PlanLink) =>
    let y := if l.a = role then l.b else l.a
    (decide (l.a ≠ role) && decide (l.b ≠ role)) ||
    s.boot.image.ports.all (fun (e : PlanPort) =>
      !s.portActive e.lane || decide (s.partnerOf e.lane ≠ y) || s.revOk (s.lnk e.lane LNK_STAT_PARTNER_REV)))

/-- The index of a covered role in this module's image; none for its own role (R365). -/
def State.coverIdx (s : State) (role : Nat × Nat) : Option Nat :=
  if role = s.self then none else some (s.boot.image.covers.findIdx (fun (r : Role) => (r.group, r.module) = role))

/-- This module's standby tiers hold the CUR epoch of every tile of a role (R418). -/
def State.holdsRole (s : State) (role : Nat × Nat) : Bool :=
  let copy := s.coverIdx role
  s.boot.image.tiles.all (fun d => decide (d.standby ≠ copy) || s.boot.image.isCorpus d.core d.engine d.num ||
    (match s.physOf d.core with
      | some p => (s.tiersOf p d.engine d.num copy 5).any (fun t => (s.tier p d.engine t).epoch == s.fld LD_EPOCH_CUR_EPOCH)
      | none => false))

/-- A module is an eligible standby for a role as far as this module can tell: itself by its own state and record, another by
its heartbeats. Log entry 75 (DEDUCED). -/
def State.eligible (s : State) (role gm : Nat × Nat) : Bool :=
  if gm = s.self then s.isSet GLB_STATE_STANDBY && hbAdmitted s.hbState && s.acceptsPartners role && s.holdsRole role
  else s.boot.image.ports.any (fun (e : PlanPort) =>
    s.portActive e.lane && decide (s.partnerOf e.lane = gm) && hbStandby (s.port e.lane).partner && hbAdmitted (s.port e.lane).partner)

/-- This module takes a role over (R365, R366, R418): its standby copies become CUR, those of another epoch PREV; every adapter
slot is fetched again (R30 entry 27); STANDBY is cleared; its corpus copies come into force (R30 entry 25). `role` is the index of
the covered role, none for the module's own. -/
def State.takeRole (s : State) (role : Option Nat) : State :=
  let epoch := s.fld LD_EPOCH_CUR_EPOCH
  let s := (SMap.keys s.tiers).foldl (fun (s : State) k =>
    let t := SMap.get (fun _ => Tier.blank) s.tiers k
    if t.role = 5 ∧ (s.mapEntry (k / 64) (k / 8 % 8) (k % 8)).1 ≠ 2 ∧ t.copy = role then
      s.setRole (k / 64) (k / 8 % 8) (k % 8) (if t.epoch = epoch then 1 else 2)
    else s) s
  let s := (SMap.keys s.weights.adSlots).foldl State.adapterLost (s.put GLB_STATE_STANDBY 0)
  ((s.boot.image.corpora.foldl State.assignCorpus s).reAdmit).wantStart

/-- The takeovers due at a mile boundary: the role of each loss confirmed before it, in order of the lost module, goes to the lowest
eligible standby not yet assigned (R418, R419); its own module takes it back on its primary routes (R437). Log entry 75
(DEDUCED). -/
def State.standbyTakeovers (s : State) : State :=
  let due := s.fab.losses.filter (fun (l : Loss) => (match l.confirmed with
      | some c => decide (1 ≤ (s.mileNow + mileP - c) % mileP) && decide ((s.mileNow + mileP - c) % mileP ≤ 2)
      | none => false) && !l.closed)
  let order := (List.range 1024).filterMap (fun k => due.find? (fun (l : Loss) => l.group = k / 64 ∧ l.module = k % 64))
  order.foldl (fun (s : State) (l : Loss) =>
    match s.roleOf (l.group, l.module) with
    | none => s
    | some role =>
      let free := (s.boot.image.standbysOf role).filter (fun gm => gm ≠ (l.group, l.module) && s.eligible role gm &&
        !s.fab.takeovers.any (fun t => decide (t.2.2 = gm)))
      match (List.range 1024).find? (fun k => free.contains (k / 64, k % 64)) with
      | none => s
      | some k =>
        let s := { s with fab := { s.fab with
          takeovers := s.fab.takeovers.filter (fun t => decide ((t.1, t.2.1) ≠ role)) ++
            (if (k / 64, k % 64) = role then [] else [(role.1, role.2, k / 64, k % 64)])
          losses := s.fab.losses.map (fun (x : Loss) =>
            if x.group = l.group ∧ x.module = l.module then { x with closed := true } else x) } }
        let s := l.ports.foldl (fun (s : State) p => s.updPort p (fun (x : Port) => { x with held := false })) s
        let s := (s.voidRingsOf role).kvLost role
        if (k / 64, k % 64) = s.self then
          s.takeRole (s.coverIdx role)
        else s) s

end Sys2Proof.Machine
end

