-- ==== Sys2Proof/Machine/Assize.lean ====
section
/-! DEFINITION. The Assize: calibration slots and rounds, the first pass (R122 to R128, R131, R144). -/
namespace Sys2Proof.Machine

/-- TRIM_SET_CHECK: the oldest staged set is read back and checked. -/
def execTrimSetCheck (s : State) : Host.Outcome State Fault Refusal :=
  .next s.checkOldest

/-! ### Calibration beats and rounds (R123 to R127, R131) -/

/-- The least-squares line of q - S against S (R131): intercept, slope and mean squared residual. -/
def fitLine (l : List (Rat × Rat)) : Rat × Rat × Rat :=
  let n : Rat := (l.length : Rat)
  let sx := (l.map Prod.fst).sum
  let sy := (l.map Prod.snd).sum
  let sxx := (l.map (fun p => p.1 * p.1)).sum
  let sxy := (l.map (fun p => p.1 * p.2)).sum
  let b := (n * sxy - sx * sy) / (n * sxx - sx * sx)
  let a := (sy - b * sx) / n
  (a, b, (l.map (fun p => (p.2 - a - b * p.1) * (p.2 - a - b * p.1))).sum / n)

/-- Drive level of a calibration slice (R123). -/
def calLevel (exact : Bool) (slice : Nat) : Nat := if exact then 3 else [3, 1, 2, 3].getD slice 3

/-- The beat of a calibration slot (R123, R124). -/
def State.calRun (s : State) (core eng tier pos : Nat) : BeatRun :=
  let t := s.tier core eng tier
  ⟨core, eng, tier, 4, fun sl _ => calLevel t.exact sl, fun p => p,
    ⟨0, s.tb.rod % 2 ^ 32, 0, 2 ^ 21 + 8 * core + eng, s.tb.rod / 2 ^ 32, 1, 0⟩, some pos⟩

/-- The 64 measurement conversions of a band (R126): nominal sum and code. -/
def State.samples (s : State) (b : BeatRun) (band pos : Nat) : List (Nat × Nat) :=
  let t := s.tier b.core b.eng b.tier
  (List.range 64).map (fun i =>
    let slice := 3 - i / 16
    let slot := 16 + i % 16
    let std := if slot < 24 then slot - 16 else 31 - slot
    (t.segment b.level slice band (1040 + std), s.stdCode b slice band pos std slot))

/-- One measurement (R131): the staged set of band p and position c, from its conversions. -/
def State.measure (s : State) (b : BeatRun) (kind : RoundKind) (p c : Nat) (l : List (Nat × Nat)) : TrimSetDue :=
  let (a, sl, ms) := fitLine (l.map (fun x => ((x.1 : Rat), (x.2 : Rat) - (x.1 : Rat))))
  let w := s.conv b.core b.eng p c
  let (gO, gG, _, _) := gains kind
  let d := sl - (s.band b.core b.eng b.tier p).bres
  let o1 := w.oacc + 32 * a * gO
  let g1 := w.gacc + (w.g : Rat) * d * gG
  ⟨b.core, b.eng, b.tier, p, some c, w.g + nearestAway g1, w.o + nearestAway o1,
    g1 - (nearestAway g1 : Rat), o1 - (nearestAway o1 : Rat), sl, 0, decide (36 / 25 < ms), kind, 0, none⟩

/-- Mark the last of a beat's sets as the one that closes its round, or close the round at once where the beat gave none
(R131). Log entry 50 (DEDUCED). -/
def State.closeRound (s : State) (core eng tier : Nat) (kind : RoundKind) (sets : List TrimSetDue) (tr age : Rat) : State :=
  match sets.reverse with
  | [] => s.endRound core eng tier kind tr age
  | d :: before => { s with asz := { s.asz with sets := s.asz.sets ++ before.reverse ++ [{ d with ends := some (tr, age) }] } }

/-- A calibration beat on a selected tier (R123, R124, R126): conversions, witness comparisons and residues without
positions, one set for each band measured, and a test-bus capture that it matches (R151). Saturated codes of the measurements
count too (R73). On an engine that has lost a spare the beat is a detected silent error and measures nothing (R82). The sets
are answered beside the state. `kind` says whether a band is measured, and for which phase. A band whose retirement takes effect on the beat
counts its measurement as missed (R82). Log entry 50 (DEDUCED). -/
def State.calBeat (s : State) (core eng tier pos : Nat) (kind : Nat → Option RoundKind) (residueUpset : Bool) :
    State × List TrimSetDue :=
  let e := s.engine core eng
  let gone := e.newRetired.length
  let s := ((s.setEngine core eng { e with newRetired := [] }).addAt (engI core eng) ENG_CAL_MISS_COUNT gone).add ASZ_MISS_CNT_COUNT gone
  let b := s.calRun core eng tier pos
  let dead := e.dead
  let s := s.deadBeat core eng tier none 0
  let (s, codes) := s.convertBeat b []
  let inj := (s.injects 0x01 core eng).isSome
  let fails := s.witnessFails b codes
  let (s, i2) := s.tryInject 0x02 core eng
  let made := (List.range 32).filterMap (fun p =>
    match kind p with
    | some k => if s.witnessed core eng p && !dead then some (k, p, s.samples b p pos) else none
    | none => none)
  let sets := made.map (fun x => s.measure b x.1 x.2.1 pos x.2.2)
  let s := (s.countCodes b codes).countSat core eng ((made.map (fun x => x.2.2.countP (fun y => y.2 = 511))).sum)
  let s := s.reportBeat core eng tier ⟨codes, false, fails⟩ (residueUpset || i2.isSome) inj i2.isSome none 0
  let sel := s.rd 0x100020
  let hit := s.mon.capArmed && decide (getBits sel 9 0 = core) && decide (s.fld MON_TB_SEL_ENG = eng) &&
    decide (s.fld MON_TB_SEL_TIER = tier) && decide (s.fld MON_TB_SEL_CONV = pos) && s.witnessed core eng (s.fld MON_TB_SEL_BAND)
  let s := if hit then
      ({ s with mon := { s.mon with capArmed := false, capSince := true, cap := some (sel, (List.range 8).map (Config.testBus s.freeCtr)) } }).put MON_STAT_TB_VALID 1
    else s
  (s.tick.add ASZ_MEAS_CNT_COUNT sets.length, sets)

/-- The work that a calibration slot takes (R127): a retry of a converter set, or a tier and the kind of its round. -/
inductive CalWork where
  | retry (tier pos : Nat) | round (tier : Nat) (kind : RoundKind) | nothing
  deriving DecidableEq, Repr

/-- The tier of a list that maximises a measure, the first among equals. -/
def pickMax (l : List Nat) (f : Nat → Rat) : Option Nat :=
  l.foldl (fun (b : Option Nat) t => match b with
    | none => some t
    | some x => if f x < f t then some t else b) none

/-- A settling or retry round that is due on a tier, or runs there (R127 item 2): the running one first, then the oldest
settling round, then the retry of a drift set. -/
def State.sideRound (s : State) (core eng tier : Nat) : Option RoundKind :=
  let c := s.tierCal core eng tier
  if c.stash.isSome ∧ c.active.isSome then c.active
  else match c.active with
    | some (.settling n) => some (.settling n)
    | _ => match c.settleDue with
      | n :: _ => some (.settling n)
      | [] => if c.retry then some c.lastKind else none

def State.calWork (s : State) (core eng : Nat) : CalWork :=
  let e := s.engCal core eng
  let use := (List.range 8).filter (fun t => s.inUse core eng t)
  match e.retries.find? (fun r => s.inUse core eng r.tier) with
  | some r => .retry r.tier r.conv
  | none =>
    -- a settling or retry round that runs continues before another begins
    let running := fun (t : Nat) => (s.tierCal core eng t).stash.isSome ||
      (match (s.tierCal core eng t).active with | some (.settling _) => true | _ => false)
    match (use.filter running ++ use).findSome? (fun t => (s.sideRound core eng t).map (fun k => (t, k))) with
    | some (t, k) => .round t k
    | none =>
      match e.cur with
      | some t => .round t ((s.tierCal core eng t).active.getD .normal)
      | none =>
        let warm := use.filter (fun t => (s.tierCal core eng t).tempMove.isSome)
        let aged := use.filter (fun t => (s.tierCal core eng t).ageSince.isSome)
        match pickMax warm (fun t => ((s.tierCal core eng t).tempMove.getD 0)) with
        | some t => .round t .normal
        | none => match pickMax aged (fun t => -(((s.tierCal core eng t).ageSince.getD 0 : Nat) : Rat)) with
          | some t => .round t .normal
          | none => match pickMax use (fun t => match (s.tierCal core eng t).lastEnd with
              | none => 1 | some f => -((f : Nat) : Rat)) with
            | some t => .round t .normal
            | none => .nothing

/-- Select the tier to be measured, run the beat, select back (R123). The answer holds the sets of the beat, or nothing
where the select was refused: then every band's measurement counts as missed (R126). -/
def State.calSlot (s : State) (core eng tier pos : Nat) (kind : Nat → Option RoundKind) (residueUpset : Bool) :
    State × Option (List TrimSetDue) :=
  let i := engI core eng
  let back := s.liveTier core eng
  let (s, refused) := s.select core eng tier
  if refused then
    let n := (List.range 32).countP (fun p => (kind p).isSome && s.witnessed core eng p)
    ((s.addAt i ENG_CAL_MISS_COUNT n).add ASZ_MISS_CNT_COUNT n, none)
  else
    let (s, sets) := s.calBeat core eng tier pos kind residueUpset
    (s.selectBack core eng back, some sets)

/-- Take up a round on a tier (R127): an interrupted round, on another tier or on the same one, resumes afterwards. Log entry 50 (DEDUCED). -/
def State.takeRound (s : State) (core eng tier : Nat) (kind : RoundKind) : State :=
  let e := s.engCal core eng
  let s := if e.cur = some tier then s
    else s.setEngCal core eng { e with cur := some tier, held := (match e.cur with | some t => [t] | none => []) ++ e.held.filter (· ≠ tier) }
  let c := s.tierCal core eng tier
  let isRetry := c.retry && c.settleDue.isEmpty && (match c.active with | some (.settling _) => false | _ => true)
  match c.active with
  | none => s.setTierCal core eng tier { c with active := some kind, retry := c.retry && !isRetry, pos := 0, tSum := 0, tCnt := 0 }
  | some k =>
    if c.stash.isSome ∨ (k = kind ∧ !isRetry) then s
    else s.setTierCal core eng tier { c with active := some kind, retry := c.retry && !isRetry, pos := 0, tSum := 0, tCnt := 0, stash := some ⟨k, c.pos, c.tSum, c.tCnt⟩ }

/-- The round that runs on a tier is over: what it interrupted resumes, on the same tier or on another (R127). -/
def State.resume (s : State) (core eng tier : Nat) (c : TierCal) : State :=
  match c.stash with
  | some h => s.setTierCal core eng tier { c with active := some h.kind, pos := h.pos, tSum := h.tSum, tCnt := h.tCnt, stash := none }
  | none =>
    let s := s.setTierCal core eng tier { c with active := none, pos := 0, tSum := 0, tCnt := 0 }
    let e := s.engCal core eng
    let held := e.held.filter (· ≠ tier)
    s.setEngCal core eng (if e.cur = some tier then { e with cur := held.head?, held := held.drop 1 } else { e with held := held })

/-- A tier whose program time lies after the rod count has no settling rounds (R142): those due lapse, and one that runs is
abandoned. -/
def State.lapseSettling (s : State) (core eng tier : Nat) : State :=
  if (s.tierAge core eng tier).isSome then s
  else
    let c := { s.tierCal core eng tier with settleDue := [] }
    match c.active with
    | some (.settling _) => s.resume core eng tier c
    | _ => s.setTierCal core eng tier c

/-- Position 32 has been measured, and the round has ended (R127): its triggers and its settling round are answered, and
what it interrupted resumes. Log entry 50 (DEDUCED). -/
def State.roundOver (s : State) (core eng tier : Nat) (kind : RoundKind) (tr age : Rat) : State :=
  let c := s.tierCal core eng tier
  let c := { c with lastEnd := some (s.tb.rod / 40), tempMove := none, ageSince := none, lastT := some tr }
  let c := match kind with
    | .settling n => { c with settleDone := max c.settleDone (n + 1), settleDue := c.settleDue.filter (· ≠ n), ageAt := age }
    | _ => c
  s.resume core eng tier c

/-- A tier that is no longer in use: its round is abandoned, with its retries (R126). -/
def State.dropRound (s : State) (core eng tier : Nat) : State :=
  let e := s.engCal core eng
  let s := s.setEngCal core eng { e with
    retries := e.retries.filter (fun r => r.tier ≠ tier)
    held := (e.held.filter (· ≠ tier)).drop (if e.cur = some tier then 1 else 0)
    cur := if e.cur = some tier then (e.held.filter (· ≠ tier)).head? else e.cur }
  let c := s.tierCal core eng tier
  s.setTierCal core eng tier { c with active := none, pos := 0, tSum := 0, tCnt := 0, stash := none }

/-- CALIBRATION_SLOT (R123, R127, R142). A retry measures only the converters of the position whose sets were rejected
(R134). Log entry 50 (DEDUCED). -/
def execCalibrationSlot (core : CoreId) (eng : EngId) (residueUpset : Bool) (s : State) : Host.Outcome State Fault Refusal :=
  if !s.placed core (.engine eng) .calibration then .next s
  else
    let s := (List.range 8).foldl (fun (s : State) t =>
      let e := s.engCal core eng
      if s.inUse core eng t then s.lapseSettling core eng t
      else if e.cur = some t ∨ e.held.contains t ∨ e.retries.any (fun r => r.tier = t) then s.dropRound core eng t
      else s) s
    match s.calWork core eng with
    | .nothing => .next s
    | .retry t p =>
      let mine := (s.engCal core eng).retries.filter (fun r => r.tier = t ∧ r.conv = p)
      let (s, sets) := s.calSlot core eng t p (fun b => (mine.find? (fun r => r.band = b)).map TrimRetry.kind) residueUpset
      match sets with
      | none => .next s
      | some l =>
        let e := s.engCal core eng
        let s := s.setEngCal core eng { e with retries := e.retries.filter (fun r => !(r.tier = t ∧ r.conv = p)) }
        .next { s with asz := { s.asz with sets := s.asz.sets ++ l } }
    | .round t kind =>
      let s := s.takeRound core eng t kind
      let pos := (s.tierCal core eng t).pos
      let (s, sets) := s.calSlot core eng t pos (fun _ => some kind) residueUpset
      match sets with
      | none => .next s
      | some l =>
        let c := s.tierCal core eng t
        let c := { c with pos := pos + 1, tSum := c.tSum + (s.tLoc core).getD (125 / 2), tCnt := c.tCnt + 1 }
        let s := s.setTierCal core eng t c
        if pos < 32 then .next { s with asz := { s.asz with sets := s.asz.sets ++ l } }
        else
          let tr := c.tSum / (c.tCnt : Rat)
          let age := (s.tierAge core eng t).getD 1000
          .next ((s.roundOver core eng t kind tr age).closeRound core eng t kind l tr age)

/-- SETTLING_DUE: 1 s, 10 s, 100 s or 1,000 s after the tier's program time (R128, R142). -/
def execSettlingDue (core : CoreId) (eng : EngId) (tier : TierId) (round : Fin 4) (s : State) : Host.Outcome State Fault Refusal :=
  let c := s.tierCal core eng tier
  .next (match s.tierAge core eng tier with
    | none => s
    | some a =>
      if s.inUse core eng tier ∧ 10 ^ round.val ≤ a ∧ c.settleDone ≤ round.val ∧ !c.settleDue.contains round.val then
        s.setTierCal core eng tier { c with settleDue := c.settleDue ++ [round.val] }
      else s)

/-- AGE_TRIGGER: 256 furlongs since the end of the tier's last round (R128). -/
def execAgeTrigger (core : CoreId) (eng : EngId) (tier : TierId) (s : State) : Host.Outcome State Fault Refusal :=
  let c := s.tierCal core eng tier
  let now := s.tb.rod / 40
  .next (match c.lastEnd with
    | none => s
    | some f =>
      if s.inUse core eng tier ∧ 256 ≤ (now + rodP / 40 - f) % (rodP / 40) ∧ c.ageSince.isNone then
        s.setTierCal core eng tier { c with ageSince := some now }
      else s)

/-- ENGINE_DARK: the engine has become dark, and takes its words as R130 gives. -/
def execEngineDark (core : CoreId) (eng : EngId) (s : State) : Host.Outcome State Fault Refusal :=
  .next (if s.dark core then (s.updateDrift core eng).put ASZ_STAT_DARK 1 else s)

/-- FRESH_TIER_END: 600 s and the 100 s settling round are over (R141). A tier whose program time lies after the rod count
counts as older than 1,000 s, with no settling rounds to come (R142). -/
def execFreshTierEnd (core : CoreId) (eng : EngId) (tier : TierId) (s : State) : Host.Outcome State Fault Refusal :=
  let i := engI core eng
  let old := s.fldAt i ENG_TIER_ADV_FRESH
  let done := match s.tierAge core eng tier with
    | some a => decide (600 ≤ a) && decide (3 ≤ (s.tierCal core eng tier).settleDone)
    | none => true
  .next (if done = true ∧ old / 2 ^ tier.val % 2 = 1 then
      (s.putAt i ENG_TIER_ADV_FRESH (old - 2 ^ tier.val)).put ASZ_FRESH_CNT_COUNT (s.fld ASZ_FRESH_CNT_COUNT - 1)
    else s)

/-! ### The first pass (R144) -/

/-- Check every staged set at once: in the first pass a set comes into force as soon as it passes. -/
def State.checkAll (s : State) : State :=
  s.asz.sets.foldl State.checkSet { s with asz := { s.asz with sets := [] } }

/-- One round of the first pass on a tier: positions 0 to 32, then the drift sets. A tier that is no longer in use abandons it
(R126). -/
def State.firstRound (s : State) (core eng tier n : Nat) : State :=
  let s := (List.range 33).foldl (fun s pos =>
    if !s.inUse core eng tier then s else
    let (s, sets) := s.calSlot core eng tier pos (fun _ => some (.first n)) false
    let s := { s with asz := { s.asz with sets := s.asz.sets ++ sets.getD [] } }.checkAll
    let c := s.tierCal core eng tier
    s.setTierCal core eng tier { c with tSum := c.tSum + (s.tLoc core).getD (125 / 2), tCnt := c.tCnt + 1 }) s
  let c := s.tierCal core eng tier
  if !s.inUse core eng tier then s.setTierCal core eng tier { c with pos := 0, active := none, tSum := 0, tCnt := 0 } else
  let tr := c.tSum / (c.tCnt : Rat)
  let age := (s.tierAge core eng tier).getD 1000
  ((s.setTierCal core eng tier { c with lastEnd := some (s.tb.rod / 40), tempMove := none, ageSince := none, lastT := some tr,
                                        pos := 0, active := none, tSum := 0, tCnt := 0 }).endRound core eng tier (.first n) tr age).checkAll

/-- At the start of the first pass (R140 to R142, R144): a tier of 1,000 s or older, or whose program time lies after the
rod count, is settled; a younger one is fresh, and keeps the settling times of its program time. Log entry 50 (DEDUCED). -/
def State.startTier (s : State) (core eng tier : Nat) : State :=
  let young : Bool := match s.tierAge core eng tier with | some a => decide (a < 1000) | none => false
  let s := s.setTierCal core eng tier { TierCal.init with settleDone := if young then 0 else 4 }
  let i := engI core eng
  let old := s.fldAt i ENG_TIER_ADV_FRESH
  if young ∧ old / 2 ^ tier % 2 = 0 then (s.putAt i ENG_TIER_ADV_FRESH (old + 2 ^ tier)).add ASZ_FRESH_CNT_COUNT 1 else s

/-- The first pass of one engine (R144): its beats start with the drift words of R129. -/
def State.firstEngine (s : State) (core eng : Nat) : State :=
  let use := (List.range 8).filter (fun t => s.inUse core eng t)
  let s := (use.foldl (fun (s : State) t => s.startTier core eng t) s).updateDrift core eng
  let s := [1, 2, 3, 4].foldl (fun s n => use.foldl (fun s t => s.firstRound core eng t n) s) s
  s.putAt (engI core eng) ENG_ASZ_STAT_FIRST_DONE 1

/-- FIRST_PASS: the whole pass, engine by engine; then step 9 is complete (R144, R434). An engine without a tier in use is
through at once. The words start at the values
of R132. Log entry 50 (DEDUCED). -/
def execFirstPass (s : State) : Host.Outcome State Fault Refusal :=
  let ready := s.isSet SEC_STAT_UNSEALED && s.isSet MON_STAT_REF_SETTLED && (List.range 64).all (fun i => (s.sensor i).ever) &&
    !s.isSet ASZ_STAT_FIRST_DONE && decide (s.fld GLB_STATE_STEP = 8)
  if !ready then .next s
  else
    let s := (s.put ASZ_STAT_RUNNING 1).put ASZ_STAT_FIRST_PASS 1
    let s := { s with asz := { s.asz with convs := [], bands := [] } }
    let s := s.calEngines.foldl (fun s e => s.firstEngine e.1 e.2) s
    let s := ((List.range 6400).filter (fun k => s.mapped (k / 8))).foldl (fun (s : State) k =>
      s.putAt (engI (k / 8) (k % 8)) ENG_ASZ_STAT_FIRST_DONE 1) s
    .next (((s.put ASZ_STAT_FIRST_PASS 0).put ASZ_STAT_FIRST_DONE 1).advanceStart)

/-- ASZ_FORCE_ROUND: a write of ASZ_FORCE; ROUND raises a temperature trigger on the selected tier (R152). -/
def execAszForceRound (w : Wr) (s : State) : Host.Outcome State Fault Refusal :=
  let (s, d) := s.write w 0x140050
  let core := s.fld ASZ_TRIM_SEL_CORE
  let eng := s.fld ASZ_TRIM_SEL_ENG
  let tier := s.fld ASZ_TRIM_SEL_TIER
  .next (if acts d ASZ_FORCE_ROUND ∧ s.inUse core eng tier then
      let c := s.tierCal core eng tier
      s.setTierCal core eng tier { c with tempMove := some (c.tempMove.getD 0) }
    else s)

end Sys2Proof.Machine
end

