-- ==== Sys2Proof/Machine/Patrol.lean ====
section
/-! DEFINITION. Patrol beats and trap sets (R398 to R405), the repair of a logical core (R412, R414), and the management
controller's chrysalis command (R420). -/
namespace Sys2Proof.Machine

/-! ### Trap sets (R400 to R402, R405) -/

/-- The array entries and vector entries of a stored set. -/
def parseArray (b : List Byte) : ArrayEntry :=
  ⟨b.take 32, (List.range 4).map (fun i => BitVec.ofNat 32 (fieldLE b (32 + 4 * i) 4))⟩
def parseVector (b : List Byte) : VectorEntry :=
  let fp := fun (at_ : Nat) => (List.range 64).map (fun i => BitVec.ofNat 32 (fieldLE b (at_ + 4 * i) 4))
  ⟨fieldLE b 0 4, fp 16, fp 272, fp 528⟩

/-- A stored trap set, if it is well formed and within its limits (R400, R401). Log entry 14 (DESIGN CHOICE). -/
def parseTraps (b : List Byte) : Option TrapSet :=
  let narr := fieldLE b 12 2
  let nvec := fieldLE b 14 2
  let tolT := fieldLE b 16 1
  let tolB := fieldLE b 17 1
  let zero := ((b.drop 6).take 2 ++ (b.drop 18).take 46).all (fun x => decide (x = 0))
  let tails := (List.range narr).all (fun i => ((b.drop (112 + 64 * i)).take 16).all (fun x => decide (x = 0)))
  if fieldLE b 0 4 = 0x50545154 ∧ fieldLE b 4 2 = 1 ∧ 1 ≤ narr ∧ narr ≤ 4096 ∧ nvec ≤ 256 ∧ 3 ≤ tolT ∧ tolT ≤ 15 ∧
      8 ≤ tolB ∧ tolB ≤ 127 ∧ zero ∧ tails ∧ b.length = 64 + 64 * narr + 784 * nvec + 96 ∧ b.length ≤ 463008 then
    some ⟨fieldLE b 8 4, tolT, tolB,
      (List.range narr).map (fun i => parseArray ((b.drop (64 + 64 * i)).take 64)),
      (List.range nvec).map (fun i => parseVector ((b.drop (64 + 64 * narr + 784 * i)).take 784)), b⟩
  else none

/-- Put a trap set in force; every rotation restarts (R405). -/
def State.useTraps (s : State) (t : TrapSet) (host : Bool) : State :=
  { s with faults := { s.faults with
      traps := t, trapHost := host, rotation := [], rerun := [], vecNext := [], vecRerun := [] } }.put TRAP_VER_VERSION t.version

/-- A verified set takes effect at its mile boundary (R405). -/
def State.trapEffect (s : State) : State :=
  match s.faults.trapWait with
  | some (m, t) =>
    if m = s.mileNow then { s with faults := { s.faults with trapWait := none } }.useTraps t true else s
  | none => s

/-- TRAP_LOAD: a write of TRAP_CTRL; LOAD starts a load where none runs (R405, R424). -/
def execTrapLoad (w : Wr) (s : State) : Host.Outcome State Fault Refusal :=
  let (s, d) := s.write w TRAP_CTRL_LOAD.addr
  let src := (s.fld TRAP_ADDR_LO_VALUE + 2 ^ 32 * s.fld TRAP_ADDR_HI_VALUE, s.fld TRAP_LEN_VALUE)
  .next (if acts d TRAP_CTRL_LOAD ∧ !s.isSet TRAP_STAT_BUSY then
      { s with faults := { s.faults with trapLoad := some src } }.put TRAP_STAT_BUSY 1
    else s)

/-- TRAP_SET_VERIFY_DONE (R405): the fetched set is verified: fetch, signature and chain, form and limits, version. -/
def execTrapSetVerifyDone (bytes : List Byte) (sigOk fetched : Bool) (s : State) : Host.Outcome State Fault Refusal :=
  .next (match s.faults.trapLoad with
    | none => s
    | some (addr, len) =>
      let s := { s with faults := { s.faults with trapLoad := none } }.put TRAP_STAT_BUSY 0
      let fail := fun (c : Nat) => (s.complete17 TRAP_STAT_FAILED).put TRAP_STAT_FAIL_CODE c
      let inWin := (s.boot.image.rings.flatMap RingPair.windows ++ s.boot.image.weightWindows.map Prod.snd).any (fun w =>
        decide (w.1 ≤ addr) && decide (addr + len ≤ w.1 + w.2))
      if !fetched ∨ !inWin ∨ !s.dma addr len ∨ bytes.length ≠ len then fail 4
      else if !sigOk then fail 1
      else match parseTraps bytes with
        | none => fail 3
        | some t =>
          if t.version ≤ s.faults.traps.version then fail 2
          else { s with faults := { s.faults with trapWait := some ((s.mileNow + 2) % mileP, t) } }.complete17 TRAP_STAT_DONE)

/-! ### The array check (R401, R404) -/

/-- A probe word that is valid: its row and its level in a slice. -/
def probeOf (e : ArrayEntry) (row slice : Nat) : Option Nat :=
  (e.probes.find? (fun w => w.getLsbD 31 && decide (getBits w 25 16 = row))).map (fun w => getBits w 7 0 / 4 ^ slice % 4)

def ArrayEntry.probeRows (e : ArrayEntry) : List Nat :=
  (e.probes.filter (fun w => w.getLsbD 31)).map (fun w => getBits w 25 16)

/-- The band level in a slice. -/
def ArrayEntry.level (e : ArrayEntry) (band slice : Nat) : Nat := (e.levels.getD band 0).toNat / 4 ^ slice % 4

/-- The drive level of a physical row: its own for a probe row, else its band's; nonzero levels of an exact tier are 3. -/
def ArrayEntry.drive (e : ArrayEntry) (exact : Bool) (slice row : Nat) : Nat :=
  let l := (probeOf e row slice).getD (e.level (row / 32) slice)
  if exact ∧ l ≠ 0 then 3 else l

/-- The beat of an entry on a tier (R398, R77). -/
def State.patrolRun (s : State) (core eng tier : Nat) (e : ArrayEntry) : BeatRun :=
  let t := s.tier core eng tier
  ⟨core, eng, tier, 4, fun sl r => e.drive t.exact sl r, fun p => p,
    ⟨0, s.tb.rod % 2 ^ 32, 0, 2 ^ 21 + 8 * core + eng, s.tb.rod / 2 ^ 32, 1, 0⟩, none⟩

def near (tol a b : Int) : Bool := decide (a ≤ b + tol) && decide (b ≤ a + tol)

/-- The standards that the spare channels convert in a patrol beat (R401): band, nominal sum, code. -/
def State.patrolStds (s : State) (b : BeatRun) : List (Nat × Nat × Nat) :=
  let t := s.tier b.core b.eng b.tier
  (List.range 32).flatMap (fun p =>
    if !s.witnessed b.core b.eng p then []
    else (List.range 4).flatMap (fun sl => (List.range 8).map (fun i =>
      (p, t.segment b.level sl p (1040 + i), s.stdCode b sl p 32 i (16 + i)))))

/-- The failures of a beat against its entry (R401): band, and the converter whose columns fail, or none for the spare's
standards. `bump` moves the expected value of column 0 of the first checked band in slice 3 (R408, 0x08). -/
def State.trapFails (s : State) (b : BeatRun) (e : ArrayEntry) (codes : SMap Nat)
    (standards : List (Nat × Nat × Nat)) (bump : Nat) : List (Nat × Option Nat) :=
  let t := s.tier b.core b.eng b.tier
  let tr := s.faults.traps
  let clean := (List.range 32).filter (fun p => !(e.probeRows.any (fun r => decide (r / 32 = p))))
  let first := clean.head?
  let digit := fun (c p : Nat) => ((SMap.get (fun _ => 0) t.digits (c * 32 + p) : Nat) : Int)
  let cols := clean.flatMap (fun p => (List.range 4).flatMap (fun sl =>
    let l : Int := e.drive t.exact sl (32 * p)
    let code := fun (c : Nat) => (codeAt codes sl p c : Int)
    let want := fun (c : Nat) => (if t.exact then (if l = 0 then 0 else 9 * digit c p) else l * digit c p) +
      (if some p = first ∧ sl = 3 ∧ c = 0 then (bump : Int) else 0)
    let one := (List.range 1024).filterMap (fun c =>
      let ok := if t.exact then decide ((decodeCode true (codeAt codes sl p c) : Int) = (if l = 0 then 0 else digit c p)) && decide (bump = 0 ∨ some p ≠ first ∨ sl ≠ 3 ∨ c ≠ 0)
        else near tr.tolT (code c) (want c)
      if ok then none else some (p, some (s.converterOf b.core b.eng p c none)))
    let sums := (List.range 32).filterMap (fun j =>
      let d := ((List.range 32).map (fun i => code (32 * j + i) - want (32 * j + i))).sum
      if near tr.tolB d 0 then none else some (p, some (s.converterOf b.core b.eng p (32 * j) none)))
    one ++ sums))
  cols ++ standards.filterMap (fun x => if near tr.tolT x.2.2 x.2.1 then none else some (x.1, none))

/-- The locus of a failure (R404). -/
def locusOf (e : ArrayEntry) (fails : List (Nat × Option Nat)) : Option Locus :=
  match (fails.map Prod.fst).eraseDups with
  | [] => none
  | [p] =>
    let probes := e.probeRows.filter (fun r => decide (r / 32 = p))
    match probes with
    | [r] => some (.probeRow r)
    | _ :: _ => some (.band p)
    | [] =>
      match (fails.map Prod.snd).eraseDups with
      | [none] => some (.spare p)
      | [some 32] => some (.spare p)
      | [some c] => some (.converter p c)
      | _ => some (.band p)
  | _ => some .several

/-- A confirmed array trap is escalated (R406, R82). -/
def State.confirmTrap (s : State) (core eng tier : Nat) (l : Locus) (injected : Bool) : State :=
  let band := match l with | .converter b _ => b | .spare b => b | .band b => b | .probeRow r => r / 32 | .several => 0
  let s := s.silentError ⟨8, core, eng, tier, band, (match l with | .converter _ c => c | .probeRow r => r | _ => 0), 0, s.tb.rod, injected⟩ none 0
  match l with
  | .converter b c => s.retire core eng b c injected
  | .spare b => s.retire core eng b 32 injected
  | _ => s.escalate core (some eng) injected

def State.rerunOf (s : State) (core eng : Nat) : Option (Nat × Nat × Locus) :=
  SMap.get (fun _ => none) s.faults.rerun (engKey core eng)
def State.setRerun (s : State) (core eng : Nat) (x : Option (Nat × Nat × Locus)) : State :=
  { s with faults := { s.faults with rerun := SMap.set (fun _ => none) s.faults.rerun (engKey core eng) x } }

/-- The next entry of a tier in the running rotation (R403). -/
def State.nextEntry (s : State) (core eng tier : Nat) : Option Nat :=
  match SMap.get (fun _ => 0) s.faults.rotation (tierKey core eng tier) with
  | 0 => none
  | k + 1 => some k
def State.setEntry (s : State) (core eng tier v : Nat) : State :=
  { s with faults := { s.faults with rotation := SMap.set (fun _ => 0) s.faults.rotation (tierKey core eng tier) v } }

/-- The tier that the rotation takes next: lowest entry, then lowest tier. A rotation that is through starts again with
the tiers in use (R403). -/
def State.rotationTier (s : State) (core eng : Nat) : State × Option Nat :=
  let use := (List.range 8).filter (fun t => s.inUse core eng t)
  let pick := fun (s : State) => (use.foldl (fun (b : Option (Nat × Nat)) t =>
    match s.nextEntry core eng t, b with
    | none, _ => b
    | some k, none => some (k, t)
    | some k, some (j, u) => if k < j then some (k, t) else some (j, u)) none).map Prod.snd
  match pick s with
  | some t => (s, some t)
  | none =>
    let s := (List.range 8).foldl (fun (s : State) t => s.setEntry core eng t (if use.contains t then 1 else 0)) s
    (s, pick s)

/-- One patrol beat of an entry on the selected tier (R397, R398, R401, R404). On an engine that has lost a spare it is a
detected silent error, and nothing is judged from it (R82). -/
def State.patrolBeat (s : State) (core eng tier entry : Nat) (again : Option Locus) (residueUpset : Bool) (trims : List TrimAt) :
    State :=
  match s.faults.traps.arr[entry]? with
  | none => s
  | some e =>
    let s := s.addAt (coreI core) PAT_BEAT_CNT_COUNT 1
    let s := s.setEngine core eng { s.engine core eng with newRetired := [] }
    let b := s.patrolRun core eng tier e
    let dead := (s.engine core eng).dead
    let s := s.deadBeat core eng tier none 0
    let (s, codes) := s.convertBeat b trims
    let standards := s.patrolStds b
    let (s, i1) := s.tryInject 0x01 core eng
    let codes := match i1 with
      | some arg => let k := 3 * 32 * 1040 + 1024 + arg % 16
        SMap.set (fun _ => 0) codes k (min 511 (SMap.get (fun _ => 0) codes k + arg / 16 % 256))
      | none => codes
    let (s, i2) := s.tryInject 0x02 core eng
    let (s, i8) := s.tryInject 0x08 core eng
    let wit := s.witnessFails b codes
    let fails := if dead then [] else s.trapFails b e codes standards (i8.getD 0)
    let s := ((s.countCodes b codes).countSat core eng (standards.countP (fun x => x.2.2 = 511))).tick
    let s := s.reportBeat core eng tier ⟨codes, false, wit⟩ (residueUpset || i2.isSome) i1.isSome i2.isSome none 0
    if dead then s else
    match locusOf e fails, again with
    | none, none => s
    | none, some _ => (s.addAt (coreI core) PAT_TRANSIENT_COUNT 1).setRerun core eng none
    | some l, some m =>
      let s := s.addAt (coreI core) PAT_FAIL_CNT_COUNT 1
      if l = m then (s.setRerun core eng none).confirmTrap core eng tier l i8.isSome
      else s.setRerun core eng (some (entry, tier, l))
    | some l, none => (s.addAt (coreI core) PAT_FAIL_CNT_COUNT 1).setRerun core eng (some (entry, tier, l))

/-- The beats of a slot on one tier: a rerun that is due first, then the rotation's entries of that tier. The trim changes
count the slot's slices, four for each beat, the first driven first. -/
def State.patrolBeats (s : State) (core eng tier : Nat) (residueUpset : Bool) (trims : List TrimAt) : Nat → State
  | 0 => s
  | n + 1 =>
    let now := trims.filterMap (fun e => if e.slice < 4 then some (⟨3 - e.slice, e.boundary⟩ : TrimAt) else none)
    let later := trims.filterMap (fun e => if e.slice < 4 then none else some (⟨e.slice - 4, e.boundary⟩ : TrimAt))
    let s := match s.rerunOf core eng with
      | some (e, t, l) =>
        if t = tier then s.patrolBeat core eng tier e (some l) residueUpset now
        else s
      | none =>
        match s.nextEntry core eng tier with
        | none => s
        | some k =>
          let s := s.setEntry core eng tier (if k + 1 < s.faults.traps.arr.length then k + 2 else 0)
          s.patrolBeat core eng tier k none residueUpset now
    State.patrolBeats s core eng tier false later n

/-- PATROL_SLOT (R398, R403, R404): select the tier, run the beats, select back. -/
def execPatrolSlot (core : CoreId) (eng : EngId) (beats : Nat) (residueUpset : Bool) (trims : List TrimAt) (s : State) :
    Host.Outcome State Fault Refusal :=
  if !s.placed core (.engine eng) .patrol ∨ s.faults.traps.arr = [] then .next s
  else
    let back := s.liveTier core eng
    -- a rerun of a tier that is no longer in use lapses
    let s := match s.rerunOf core eng with
      | some (_, t, _) => if s.inUse core eng t then s else s.setRerun core eng none
      | none => s
    let (s, tier) := match s.rerunOf core eng with
      | some (_, t, _) => (s, some t)
      | none => s.rotationTier core eng
    match tier with
    | none => .next s
    | some t =>
      let (s, refused) := s.select core eng t
      if refused then .next s
      else
        let s := State.patrolBeats s core eng t residueUpset trims beats
        .next (s.selectBack core eng back)

/-- VECTOR_PATROL_SLOT (R402 to R404): the core's next vector entry; `differs` says that a result differs from the expected
one in some bit. Log entry 27 (DESIGN CHOICE). -/
def execVectorPatrolSlot (core : CoreId) (differs : Bool) (s : State) : Host.Outcome State Fault Refusal :=
  let n := s.faults.traps.vec.length
  if !s.placed core .vector .patrol ∨ n = 0 then .next s
  else
    let i := coreI core
    let (s, inj) := s.tryInject 0x09 core 0
    let bad := differs || inj.isSome
    let again := SMap.get (fun _ => 0) s.faults.vecRerun core
    let k := SMap.get (fun _ => 0) s.faults.vecNext core
    let setRe := fun (s : State) (v : Nat) => { s with faults := { s.faults with vecRerun := SMap.set (fun _ => 0) s.faults.vecRerun core v } }
    let s := if again = 0 then { s with faults := { s.faults with vecNext := SMap.set (fun _ => 0) s.faults.vecNext core ((k + 1) % n) } } else s
    .next (if bad then
        let s := s.addAt i PAT_FAIL_CNT_COUNT 1
        if again = 0 then setRe s (k + 1)
        else ((setRe s 0).silentError ⟨9, core, 0, 0, 0, 0, 0, s.tb.rod, inj.isSome⟩ none 0).escalate core (some 9) inj.isSome
      else if again = 0 then s
      else setRe (s.addAt i PAT_TRANSIENT_COUNT 1) 0)

/-! ### Repair (R412, R414) -/

def State.setRepair (s : State) (logical step : Nat) : State :=
  { s with faults := { s.faults with repairs := s.faults.repairs.map (fun (r : Repair) =>
      if r.logical = logical then { r with step := step } else r) } }

/-- Step 1: the static core-store regions of the logical core are copied from the restore area into the spare (R162, R412);
step 2's fetch begins, and pauses any other load. Log entry 31 (DESIGN CHOICE). -/
def State.repairStart (s : State) (r : Repair) : State :=
  let s := match s.regionOf r.fenced with
    | none => s
    | some g => ((s.statics g).filter (fun (x : StoreRegion) => x.core = r.logical)).foldl (fun (s : State) (x : StoreRegion) =>
        match copyOffset x.core x.base (s.statics g) 0 with
        | some o => (s.storeBytes r.spare x.base (s.stackRead (g.restore + o) x.len)).countLines (stackOf (g.restore + o)) ((x.len + 63) / 64)
        | none => s) s
  let s := match s.weights.load with
    | some l => if l.repair.isNone then { s with weights := { s.weights with paused := some l } } else s
    | none => s
  let s := { s with weights := { s.weights with load := some ⟨0, 0, none, 0, 0, [], [], some r.logical⟩ } }
  (s.put LD_STAT_BUSY 1).setRepair r.logical 1

/-- The fetch of a repair has staged every tile that the fenced core held (R412 step 2). -/
def State.repairStaged (s : State) (r : Repair) : Bool :=
  match s.weights.load with
  | some l => l.repair = some r.logical && decide ((s.repairNeeds r.fenced).length ≤ l.tiles.length)
  | none => false

/-- REPAIR_STEP_DONE (R412, R414): the running step of a repair ends. A failure fences the spare. -/
def execRepairStepDone (logical : Nat) (ok : Bool) (s : State) : Host.Outcome State Fault Refusal :=
  .next (match s.faults.repairs.find? (fun (r : Repair) => r.logical = logical) with
    | none => s
    | some r =>
      if !ok then s.requestFence r.spare
      else match r.step with
        | 0 =>
          -- one repair fetch at a time
          if (match s.weights.load with | some l => l.repair.isSome | none => false) then s else s.repairStart r
        | 1 => if s.repairStaged r then s.setRepair logical 2 else s
        | 2 =>
          if s.repairStaged r && (match s.weights.load with | some l => l.tiles.all (fun t => t.done) | none => false) then
            let s := { s with weights := { s.weights with load := s.weights.paused, paused := none } }
            ((s.flag LD_STAT_BUSY s.weights.load.isSome).settle.showEpochs).setRepair logical 3
          else s
        | 3 => ((List.range 8).foldl (fun (s : State) e => s.firstEngine r.spare e) s).setRepair logical 4
        | _ => s)

/-- MC_CHRYSALIS: the management controller commands chrysalis mode (R420 cause 0x04). -/
def execMcChrysalis (s : State) : Host.Outcome State Fault Refusal :=
  .next (if s.mgmtUp then s.enterChrysalis 4 else s)

end Sys2Proof.Machine
end

