-- ==== Sys2Proof/Machine/Time.lean ====
section
/-! DEFINITION. The rack time base (R177 to R187), overruns (R191) and slack windows (R201). -/
namespace Sys2Proof.Machine

/-- The symbol that a high time in reference cycles decodes to (R180). -/
def symbolOf (high : Nat) : Symbol :=
  if 1 ≤ high ∧ high ≤ 2 then .zero
  else if 3 ≤ high ∧ high ≤ 5 then .one
  else if 7 ≤ high ∧ high ≤ 9 then .sync
  else .bad

/-- Bits of a run of symbols, most significant first. -/
def symBits (l : List Symbol) : List Bool := l.map (fun x => x = .one)
def bitsNat (l : List Bool) : Nat := l.foldl (fun a b => a * 2 + (if b then 1 else 0)) 0

/-- A frame's 64 symbols in order (R180): valid when a SYNC opens it, it holds no invalid symbol and its CRC matches. A SYNC
after the first symbol is counted as invalid. -/
def readFrame (syms : List Symbol) : FrameIn :=
  let f := symBits ((syms.drop 1).take 40)
  let c := symBits ((syms.drop 41).take 8)
  ⟨bitsNat f, syms.length = 64 && decide (syms.head? = some .sync) && (syms.drop 1).all (fun x => x ≠ .bad ∧ x ≠ .sync) &&
    decide ((crc8 f).toNat = bitsNat c)⟩

/-- A time-base failure (R186): sequencers stop at the next rod boundary, admission fails with code 0x02,
every request completes with code 0x22, and the count is established again. An injected cause stops at the
counts while CONTAIN is 1 (R409). Log entry 43 (DEDUCED). -/
def State.timeBaseFailure (s : State) (injected : Bool) : State :=
  if injected ∧ s.isSet INJ_CTRL_CONTAIN then s.put INJ_STAT_CONTAINED 1
  else
    let s := (((s.put TB_STAT_TIME_FAIL 1).put TB_STAT_COUNT_VALID 0).put TB_STAT_FRAME_OK 0).put TB_STAT_RUNNING 0
    let s := (((s.put TB_ADM_STAT_STATE 3).put TB_ADM_STAT_CODE 0x02).put TB_ADM_STAT_ITEM 0xFFFF).put GLB_STATE_ADMIT_FAILED 1
    let s := { s with sched := { s.sched with admitted := false, startDue := false } }
    let s := { s with tb := { s.tb with stopAtRod := true, frame := none, lastF := none, provisional := false, pair := none,
                                        edgeSeen := false, edgeDue := false, missRun := 0 } }
    (s.put TB_STAT_HOLDOVER 0).completeAll 0x22

/-- The count becomes valid at the SYNC that ends the second frame (R181); admission runs again after a
failure (R186), and step 6 of a start may begin (R435). -/
def State.countEstablished (s : State) (f2 : Nat) : State :=
  let s := { s with tb := { s.tb with rod := (320 * (f2 + 64)) % rodP, provisional := false, lastF := none, pair := none,
                                      missRun := 0, edgeDue := false, edgeSeen := false,
                                      furDue := true, mileDue := true } }
  let s := { s with fab := { s.fab with ports := s.fab.ports.map (fun (e : Nat × Port) =>
    (e.1, if e.2.hbRod.isSome then { e.2 with hbRod := some s.tb.rod } else e.2)) } }
  let s := ((s.put TB_STAT_COUNT_VALID 1).put TB_STAT_RUNNING 1).put TB_STAT_FRAME_OK 1
  if s.isSet TB_STAT_TIME_FAIL then s.reAdmit else s.advanceStart

/-- A frame ends while the count is being established (R181): a frame that does not follow the valid one before it ends the
provisional count. Log entry 43 (DEDUCED). -/
def State.frameWhileEstablishing (s : State) (fr : FrameIn) : State :=
  if fr.ok then
    if s.tb.provisional ∧ s.tb.lastF.map (fun f1 => (f1 + 64) % mileP) = some fr.f then
      { s with tb := { s.tb with pair := some (fr.f, 0) } }
    else { s with tb := { s.tb with lastF := some fr.f, provisional := false, pair := none } }.put TB_STAT_RUNNING 0
  else { s with tb := { s.tb with lastF := none, provisional := false, pair := none } }.put TB_STAT_RUNNING 0

/-- A frame ends while the count is valid (R183). `mile` is the mile of its last symbol. Log entry 51 (DEDUCED). -/
def State.frameWhileValid (s : State) (fr : FrameIn) (mile : Nat) (injected : Bool) : State :=
  let here := (mile + mileP - 63) % mileP
  if !fr.ok then ((s.add TB_FRAME_ERR_COUNT 1).put TB_FAULT_FRAME_BAD 1).put TB_STAT_FRAME_OK 0
  else if fr.f = here then ({ s with tb := { s.tb with pair := none } }).put TB_STAT_FRAME_OK 1
  else
    let t := ((s.add TB_FRAME_ERR_COUNT 1).put TB_FAULT_FRAME_MISMATCH 1).put TB_STAT_FRAME_OK 0
    match s.tb.pair with
    | some (f0, here0) =>
      -- the SYNCs lie a whole number of frames apart, and F differs by as many miles
      let apart := (here + mileP - here0) % mileP
      if apart % 64 = 0 ∧ fr.f = (f0 + apart) % mileP then t.timeBaseFailure injected
      else { t with tb := { t.tb with pair := some (fr.f, here) } }
    | none => { t with tb := { t.tb with pair := some (fr.f, here) } }

/-- One symbol enters the frame receiver (R180, R181, R183). Log entry 51 (DEDUCED). -/
def State.symbolIn (s : State) (sym : Symbol) (mile : Nat) (injected : Bool) : State :=
  let valid := s.isSet TB_STAT_COUNT_VALID
  match s.tb.frame with
  | none =>
    -- with a valid count the mile after a frame opens the next, whatever its symbol: without a SYNC that frame is invalid
    if valid ∧ sym ≠ .sync then { s with tb := { s.tb with frame := some [sym] } }
    else if sym = .sync then
      let s := { s with tb := { s.tb with frame := some [.sync] } }
      -- the SYNC that ends a good second frame sets the count; one that ends a first frame starts it provisionally
      if valid then s
      else match s.tb.pair, s.tb.lastF with
        | some (f2, _), _ => s.countEstablished f2
        | none, some f1 =>
          ({ s with tb := { s.tb with rod := (320 * ((f1 + 64) % mileP)) % rodP, provisional := true, furDue := true, mileDue := true } }).put TB_STAT_RUNNING 1
        | none, none => s
    else { s with tb := { s.tb with pair := none, lastF := none, provisional := false } }.put TB_STAT_RUNNING 0
  | some l =>
    let l' := sym :: l
    if l'.length = 64 then
      let s := { s with tb := { s.tb with frame := if sym = Symbol.sync then some [Symbol.sync] else none } }
      if valid then s.frameWhileValid (readFrame l'.reverse) mile injected
      else s.frameWhileEstablishing (readFrame l'.reverse)
    else if sym = .sync then
      -- a SYNC before the 64th symbol: the frame it cuts off is invalid, and a new frame begins
      let s := { s with tb := { s.tb with frame := some [.sync] } }
      if valid then s.frameWhileValid ⟨0, false⟩ mile injected else s.frameWhileEstablishing ⟨0, false⟩
    else { s with tb := { s.tb with frame := some l' } }

/-- The mile whose mark a pulse is: the nearest mile boundary of the count. -/
def State.pulseMile (s : State) : Nat := ((s.tb.rod + 160) % rodP) / 320

/-- FMARK_PULSE: the pulse's high time and the offset of its rising edge, both in reference cycles, the
offset from the mile boundary of the count (R180 to R184). Log entry 51 (DEDUCED). -/
def execFmarkPulse (high : Nat) (offset : Int) (s : State) : Host.Outcome State Fault Refusal :=
  let valid := s.isSet TB_STAT_COUNT_VALID
  let mile := s.pulseMile
  if !s.isSet TB_STAT_REF_LOCK then .next s
  else if s.isSet TB_STAT_REFCLK_HOLD && !s.tb.refBack then .next (if valid then s else s.symbolIn .bad mile false)
  else
    let inj := s.injects 0x19 0 0
    let edgeInj := match inj with | some arg => arg % 2 = 0 | none => false
    let s := if inj.isSome then s.fired else s
    let sym := match inj with | some arg => if arg % 2 = 1 then Symbol.bad else symbolOf high | none => symbolOf high
    let good := decide (-1 ≤ offset) && decide (offset ≤ 1) && !edgeInj
    if !valid then .next (s.symbolIn sym mile false)
    else if good then
      let s := { s with tb := { s.tb with edgeSeen := decide (s.tb.rod % 320 ≠ 0), edgeDue := false, missRun := 0, refBack := false } }
      let s := (s.put TB_STAT_HOLDOVER 0).put TB_STAT_REFCLK_HOLD 0
      .next (s.symbolIn sym mile inj.isSome)
    else
      let s' := (s.add TB_EDGE_ERR_COUNT 1).put TB_FAULT_FMARK_EDGE 1
      if s.isSet TB_STAT_REFCLK_HOLD then
        .next ((({ s' with tb := { s'.tb with refBack := false } }).put TB_STAT_REFCLK_HOLD 0).timeBaseFailure false)
      else .next s'

/-- REFCLK_LOSS: 50 ns without a REFCLK edge (R184). -/
def execRefclkLoss (s : State) : Host.Outcome State Fault Refusal :=
  .next (if s.isSet TB_STAT_REFCLK_HOLD && !s.tb.refBack then s
    else (({ s with tb := { s.tb with holdRods := 0, refBack := false } }).put TB_FAULT_REFCLK_LOSS 1).put TB_STAT_REFCLK_HOLD 1)

/-- REFCLK is back: within 32 rods the next FMARK edge decides; later than that the time base fails; after a failure the hold
simply ends (R184). -/
def State.refclkReturn (s : State) (injected : Bool) : State :=
  if !s.isSet TB_STAT_REFCLK_HOLD then s
  else if s.isSet TB_STAT_COUNT_VALID ∧ s.tb.holdRods ≤ 32 then { s with tb := { s.tb with refBack := true } }
  else
    let t := s.put TB_STAT_REFCLK_HOLD 0
    if s.isSet TB_STAT_COUNT_VALID then t.timeBaseFailure injected else t

/-- REFCLK_RETURN (R184). -/
def execRefclkReturn (s : State) : Host.Outcome State Fault Refusal := .next (s.refclkReturn false)

/-- REFCLK_HOLD_EXPIRY: REFCLK has not returned within 32 rods, and the time base fails (R184). -/
def execRefclkHoldExpiry (s : State) : Host.Outcome State Fault Refusal :=
  .next (if s.isSet TB_STAT_REFCLK_HOLD ∧ s.tb.refBack = false ∧ 32 ≤ s.tb.holdRods ∧ s.isSet TB_STAT_COUNT_VALID then
    s.timeBaseFailure s.tb.refInj.isSome else s)

/-- A mile boundary falls (R182): its edge is judged one reference cycle later, when an edge at +1 has come.
Boundaries during a REFCLK hold are not checked, and while REFCLK is absent their symbol is invalid (R184). -/
def State.mileEdge (s : State) : State :=
  if !s.isSet TB_STAT_COUNT_VALID ∨ s.isSet TB_STAT_REFCLK_HOLD then
    let t := { s with tb := { s.tb with edgeSeen := false, edgeDue := false } }
    if s.isSet TB_STAT_COUNT_VALID ∧ !s.tb.refBack then t.symbolIn .bad s.pulseMile false else t
  else if s.tb.edgeSeen then { s with tb := { s.tb with edgeSeen := false } }
  else { s with tb := { s.tb with edgeDue := true } }

/-- A mile boundary has had no accepted edge (R182): it is counted, its symbol is missing from the frame, and two in
a row are holdover. Log entry 51 (DEDUCED). -/
def State.judgeEdge (s : State) : State :=
  if !s.tb.edgeDue then s
  else
    let s := { s with tb := { s.tb with edgeDue := false, missRun := s.tb.missRun + 1 } }
    let s := (s.add TB_EDGE_ERR_COUNT 1).put TB_FAULT_FMARK_MISS 1
    let s := if 2 ≤ s.tb.missRun then s.put TB_STAT_HOLDOVER 1 else s
    s.symbolIn .bad s.pulseMile false

/-- OPERATION_OVERRUN: an operation reaches the end of its reserved length (R191). `agent` is its unit: 0 to 7
an engine, 8 the matrix unit, 9 the vector unit, 10 and above the other agents of R189. -/
def execOperationOverrun (i : Issue) (agent : Nat) (s : State) : Host.Outcome State Fault Refusal :=
  let rows := if i.out = 255 then 0 else (s.outToken i).expected
  let key := (s.tokensFor i).findSome? (fun t => t.slot)
  let s := (s.consume i).completeOut i
  let s := (s.addAt (coreI i.core) SEQ_OVERRUN_CNT_COUNT 1).add TB_OVERRUN_CNT_COUNT 1
  let inj := s.injects 0x10 i.core agent
  let s := if inj.isSome then s.fired else s
  .next ((s.silentError ⟨0x10, i.core, agent, 0, 0, 0, 0, s.tb.rod, inj.isSome⟩ key rows).escalateOverrun i.core agent inj.isSome)

/-- SLACK_WINDOW: in a window of `len` cycles the core withholds its clock for the skip fraction of all but the
last 16 cycles (R201). -/
def execSlackWindow (core : CoreId) (len : Nat) (s : State) : Host.Outcome State Fault Refusal :=
  let k := s.fld TB_SKIP_FRAC_FRAC * (len - 16) / 100
  .next (if s.coreRunning core ∧ s.sched.due.any (fun d => d.core = core.val ∧ d.kind = .slack) then
    { s with sched := { s.sched with
        skipped := SMap.set (fun _ => 0) s.sched.skipped core (SMap.get (fun _ => 0) s.sched.skipped core + k)
        slack := SMap.set (fun _ => 0) s.sched.slack core (SMap.get (fun _ => 0) s.sched.slack core + len) } }
    else s)

end Sys2Proof.Machine
end

