-- ==== Sys2Proof/Machine/Boot.lean ====
section
/-! DEFINITION. Resets, the start sequence up to step 3, and the image messages (R379, R426 to R434, R440, R441, R501,
R504). -/
namespace Sys2Proof.Machine

/-! ### Losing power and being reset (R379, R409, R501) -/

/-- What a tier keeps without power (R37, R379): its cells and metadata. Its row map and its role are gone. -/
def Tier.sealed (t : Tier) : Tier := { t with mapped := false, role := 0 }

/-- Every register and every volatile state back at reset. The boot store, the event log, the tiers and the pins stay;
an armed injection stays where `keepArmed` says so (R409, R424). Log entries 7 (DESIGN CHOICE), 54 (DEDUCED). -/
def State.dieReset (s : State) (keepArmed : Bool) (warm : Option Nat) : State :=
  let r := State.reset
  let tiers := (s.tiers.map (fun (e : Nat × Tier) => (e.1, e.2.sealed))).filter (fun e => e.2 ≠ Tier.blank)
  let boot := { r.boot with store := s.boot.store, log := s.boot.log, logNext := s.boot.logNext, seq := s.boot.seq, startNo := s.boot.startNo, updOpen := s.boot.updOpen, warm := warm }
  let n := { r with pending := s.pending, freeCtr := s.freeCtr, tiers := tiers, boot := boot, pins := s.pins,
                    therm := { r.therm with latched := s.therm.latched, off := s.therm.off } }
  match s.faults.armed, keepArmed with
  | some a, true =>
    let n := { n with faults := { n.faults with armed := some a } }
    let n := (n.put INJ_STAT_ARMED 1).put INJ_HIT_COUNT (s.fld INJ_HIT_COUNT)
    if pointOnCore a.point ∨ pointOnEngine a.point then
      (n.putAt (coreI a.core) LINJ_STAT_ARMED 1).putAt (coreI a.core) LINJ_STAT_POINT a.point
    else n
  | none, true => n.put INJ_HIT_COUNT (s.fld INJ_HIT_COUNT)
  | _, false => n

/-- POWER_LOSS: keys, row maps and every volatile state are lost (R379, R167, R409). -/
def execPowerLoss (s : State) : Host.Outcome State Fault Refusal :=
  let n := s.dieReset false none
  .next { n with pins := { n.pins with inputOn := false, pwrgd := false }, therm := { n.therm with off := true } }

/-- PERST_N_ASSERT: keys erased, armed injection cleared; the next start is warm (R379, R409, R433, R501). Log entry 77 (DEDUCED). -/
def execPerstNAssert (s : State) : Host.Outcome State Fault Refusal :=
  let n := if s.pins.pwrgd then s.dieReset false (some 1) else s
  .next { n with pins := { n.pins with perstN := false } }

/-- MRST_N_ASSERT: keys erased, armed injection kept, latched regulators enabled again; after a shutdown the start is cold
(R379, R409, R433, R493, R501). Log entry 77 (DEDUCED). -/
def execMrstNAssert (s : State) : Host.Outcome State Fault Refusal :=
  let n := if s.therm.latched ∧ s.pins.inputOn then
      let n := s.dieReset false none
      { n with therm := { n.therm with latched := false, off := false }, pins := { n.pins with thermtripN := true, pwrgd := true } }
    else if s.pins.pwrgd then s.dieReset true (some 2)
    else s
  .next { n with pins := { n.pins with mrstN := false } }

/-! ### The stored image (R426 to R428) -/

/-- Bytes of the boot store's image area; an erased byte reads 0xFF (R426). -/
def Boot.bytes (b : Boot) (off n : Nat) : List Byte := SMap.getRange (fun _ => 0xFF) b.store off n
def Boot.le (b : Boot) (off n : Nat) : Nat := leNat (b.bytes off n)

def Boot.nSect (b : Boot) : Nat := b.le 6 2
def Boot.imgLen (b : Boot) : Nat := b.le 8 4
def Boot.sections (b : Boot) : List Section :=
  (List.range b.nSect).map (fun k => ⟨b.le (64 + 16 * k) 2, b.le (68 + 16 * k) 4, b.le (72 + 16 * k) 4⟩)

/-- Check 1 of R428. -/
def Boot.formOk (b : Boot) : Bool :=
  decide (b.le 0 4 = 0x47495154 ∧ b.le 4 2 = 1 ∧ 2 ≤ b.nSect ∧ b.nSect ≤ 64 ∧ b.imgLen ≤ 234881024 ∧
    64 + 16 * b.nSect + 96 ≤ b.imgLen) &&
  b.sections.all (fun x => decide (64 + 16 * b.nSect ≤ x.offset ∧ x.offset + x.len ≤ b.imgLen - 96)) &&
  b.sections.any (fun x => x.type = 0x000A)

def Boot.section? (b : Boot) (type : Nat) : Option Section := b.sections.find? (fun x => x.type = type)
def Boot.sectionBytes (b : Boot) (type : Nat) : List Byte :=
  match b.section? type with
  | some x => b.bytes x.offset x.len
  | none => []

/-- The checks of R428 in order: the code of the first that fails, 0 for none. An incomplete image does not verify
(R441). -/
def Boot.verifyCode (b : Boot) (c : ImageChecks) : Nat :=
  if !b.formOk then 1
  else if !c.readOk then 2
  else if !c.chainOk then 3
  else if !c.sigOk ∨ b.updOpen then 4
  else if !c.fwOk then 5
  else if (b.section? 9).isSome ∧ !c.trapOk then 6
  else 0

/-- The count that R427 gives each section type; a reserved type has none. -/
def Boot.countsOk (b : Boot) : Bool :=
  let n := fun (t : Nat) => b.sections.countP (fun x => x.type = t)
  [1, 2, 3, 8, 10].all (fun t => n t = 1) && [5, 6, 7, 9].all (fun t => decide (n t ≤ 1)) &&
  decide (1 ≤ n 4) && decide (n 4 ≤ 8) && b.sections.all (fun x => decide (1 ≤ x.type ∧ x.type ≤ 10))

/-- What the module stages from the stored image: the header's fields (R427) and the sections' declarations. Log entry 14 (DESIGN CHOICE). -/
def Boot.readImage (b : Boot) : Image :=
  let im := (Config.parseImage (b.bytes 0 b.imgLen)).getD { malformed := some 0 }
  { im with
    version := b.le 12 4, fabRev := b.le 16 1
    compat := (List.range (min 8 (b.le 17 1))).map (fun k => b.le (18 + k) 1)
    model := b.le 32 8, group := b.le 40 2 / 64 % 16, module := b.le 40 2 % 64
    startStandby := decide (b.le 42 1 = 1)
    trapBytes := b.sectionBytes 9
    malformed := if b.countsOk ∧ b.le 17 1 ≤ 8 then im.malformed else some 0 }

/-- Every check has passed: the staged image is committed and the control core runs the firmware (R428). -/
def State.commitImage (s : State) : State :=
  let im := s.boot.readImage
  let s := { s with boot := { s.boot with
    image := im, imageOk := true, firmware := true
    imageHash := Config.sha384 (s.boot.bytes 0 s.boot.imgLen)
    fwHash := Config.sha384 (s.boot.sectionBytes 10) } }
  let s := ((s.put SEC_STAT_IMAGE_OK 1).put GLB_IMG_VER_VERSION im.version).put FAB_SELF_GROUP im.group
  let s := ((s.put FAB_SELF_MODULE im.module).put FAB_SELF_REV im.fabRev).put FAB_SELF_NCOMPAT (min 8 im.compat.length)
  match parseTraps im.trapBytes with
  | some t => { s with faults := { s.faults with trapImage := t } }.useTraps t false
  | none => s

/-! ### Steps 1 to 3 (R428, R433, R434) -/

/-- Step 3 completing starts the training of every planned port (R434, R248). -/
def State.goOn (s : State) : State :=
  let t := s.advanceStart
  if s.startStep < 3 ∧ 3 ≤ t.startStep ∧ t.startStep < 5 then t.startTrainings.advanceStart else t

def State.showAcks (s : State) : State := s.put GLB_BOOT_PENDING_ACK (min s.pendingAcks 255)

/-- Fuses and self test (R376, R434): a core that fails is fenced, a router that fails is marked faulty, a stack that
fails is out of service, a tier whose metadata rows fail is refused. Firmware sets MON_CTRL.REF_EN and starts the watchdog. -/
def State.selfTest (s : State) (f : StartFacts) : State :=
  let s := (List.range 800).foldl (fun s c => s.putAt (coreI c) RTR_STAT_FORWARDING 1) (s.markBad f.badTiers)
  let s := f.cores.foldl (fun (s : State) (c : CoreId) =>
    { s with faults := { s.faults with deadCores := c.val :: s.faults.deadCores } }.putAt (coreI c) CORE_STAT_FENCED 1) s
  let s := f.routers.foldl (fun (s : State) (r : CoreId × Bool) =>
    s.putAt (coreI r.1) (if r.2 then RTR_STAT_B_FAULTY else RTR_STAT_A_FAULTY) 1) s
  let s := (List.finRange 16).foldl (fun (s : State) (k : StackId) =>
    if k ∈ f.deadStacks then s
    else (s.putAt (stkI k) STK_STAT_LINK_UP 1).putAt (stkI k) STK_STAT_IN_SERVICE 1) s
  let s := (s.write ⟨.controlCore, BitVec.ofNat 32 (setBits (s.rd MON_CTRL_REF_EN.addr) 1 1 1).toNat, 0xF, true⟩ MON_CTRL_REF_EN.addr).1
  { s with
    boot := { s.boot with tested := true }
    sec := { s.sec with fuseRead := true, wdog := 0 } }

/-- Step 1 completes once its clock has locked (R504); then the image is read and verified, and step 3 begins. -/
def State.bootOn (s : State) (f : StartFacts) : State :=
  let s := { s with boot := { s.boot with facts := none } }
  let s := (s.putGlb GLB_STATE_STEP 1).flag GLB_BOOT_FALLBACK f.fallback
  let code0 := s.boot.verifyCode f.checks
  let (s, inj) := s.tryInject 0x22 0 0
  let code := if inj.isSome then (if code0 = 0 then 4 else 0) else code0
  let s := s.put GLB_BOOT_VERIFY_FAIL code
  if code ≠ 0 ∧ !s.contained inj.isSome then s.enterChrysalis 2
  else
    let s := if code ≠ 0 then s.put INJ_STAT_CONTAINED 1 else s
    ((s.commitImage.putGlb GLB_STATE_STEP 2).selfTest f).showAcks.goOn

/-- The newest record of the log (R433). -/
def Boot.newest (b : Boot) : Option LogRec :=
  (b.log.map Prod.snd).foldl (fun (x : Option LogRec) r =>
    match x with
    | none => some r
    | some y => if y.seq < r.seq then some r else x) none

/-- The event log is read (R429, R433): records whose CRC fails are skipped and counted; a RESET or an UNRECORDED_STOP
record is appended. Log entry 40 (DEDUCED). -/
def State.readLog (s : State) (bad : List Nat) : State :=
  let lost := bad.eraseDups.filter (fun n => (s.boot.log.any (fun e => e.1 = n)))
  let s := { s with boot := { s.boot with log := s.boot.log.filter (fun e => !bad.contains e.1), crcFails := lost.length } }
  let s := match s.boot.warm, s.boot.newest with
    | some c, _ => s.logAppend 3 c []
    | none, some r => if r.type = 1 then s else s.logAppend 2 0 []
    | none, none => s
  let s := match s.boot.newest with
    | some r => (s.put GLB_LAST_STOP_TYPE r.type).put GLB_LAST_STOP_CAUSE r.cause
    | none => s
  (s.flag GLB_BOOT_WARM s.boot.warm.isSome).showAcks

/-- RESET_RELEASE: with PWRGD high, both reset inputs go high and the module starts at step 1 (R433, R434, R501, R504). Log entries 22 (DESIGN CHOICE), 77 (DEDUCED). -/
def execResetRelease (f : StartFacts) (s : State) : Host.Outcome State Fault Refusal :=
  .next (if !s.pins.pwrgd ∨ s.isSet SEC_STAT_RUNNING then s
    else
      let rnd := Config.bootRandom s.freeCtr
      let s := s.tick
      let s := { s with
        pins := { s.pins with perstN := true, mrstN := true }
        sec := { s.sec with releaseKey := true, relNo := s.freeCtr }
        boot := { s.boot with startNo := s.boot.startNo + 1, bootRandom := rnd, facts := some f } }
      let s := ((s.put SEC_STAT_RUNNING 1).put THM_STAT_RUNNING 1).put PWR_STAT_RUNNING 1
      let s := s.put PWR_STAT_VIN_OK 1
      let s := s.readLog f.badRecs
      if s.isSet TB_STAT_REF_LOCK then s.bootOn f else s)

/-- CLOCK_LOCK: the core clock locks to REFCLK, and the module waits for a SYNC; a start that waits in step 1 goes on
(R177, R181, R434, R504). Log entry 77 (DEDUCED). -/
def execClockLock (s : State) : Host.Outcome State Fault Refusal :=
  .next (if s.isSet TB_STAT_REF_LOCK then s
    else
      let s := ({ s with tb := { s.tb with frame := none, lastF := none, provisional := false, pair := none } }).put TB_STAT_REF_LOCK 1
      match s.boot.facts with
      | some f => s.bootOn f
      | none => s)

/-- STOP_RECORD_ACK: firmware reports the oldest record that awaits acknowledgement to the management controller, and
acknowledges it in place (R429, R433). -/
def execStopRecordAck (s : State) : Host.Outcome State Fault Refusal :=
  let open_ := s.boot.log.filter (fun e => ackType e.2.type && !e.2.ack)
  let first := open_.foldl (fun (x : Option (Nat × LogRec)) e =>
    match x with
    | none => some e
    | some y => if e.2.seq < y.2.seq then some e else x) none
  .next (match first with
    | some e =>
      if s.boot.firmware then
        let s := { s with boot := { s.boot with log := s.boot.log.map (fun (x : Nat × LogRec) => if x.1 = e.1 then (x.1, { x.2 with ack := true }) else x) } }
        (s.pldm (.stopRecord e.2.seq)).showAcks.goOn
      else s
    | none => s)

/-! ### Image messages (R440, R441) -/

/-- A message of the management controller is answered with its number 0 to 3 and a status byte; before step 1 the
endpoint does not answer (R440, R500). Log entry 41 (DEDUCED). -/
def State.imgAnswer (s : State) (msg status : Nat) : State :=
  { s with boot := { s.boot with imgResp := (msg, status) :: s.boot.imgResp } }

/-- IMG_BEGIN: the sectors that LENGTH needs are erased (R440); refused during steps 1 and 2 (R441). -/
def execImgBegin (length version : BitVec 32) (s : State) : Host.Outcome State Fault Refusal :=
  .next (if !s.isSet SEC_STAT_RUNNING then s
    else if (s.startStep < 2 ∧ s.fld GLB_STATE_STATE ≠ 2) ∨ 234881024 < length.toNat then s.imgAnswer 0 1
    else
      let top := (length.toNat + 65535) / 65536 * 65536
      let s := { s with boot := { s.boot with
        store := s.boot.store.filter (fun e => decide (top ≤ e.1))
        updLen := length.toNat, updVer := version.toNat, updNext := 0, updOpen := true } }
      (s.put GLB_UPD_STATE 1).imgAnswer 0 0)

/-- IMG_DATA: 4 to 1,024 bytes are programmed at ascending offsets (R440). -/
def execImgData (offset : Nat) (bytes : List Byte) (s : State) : Host.Outcome State Fault Refusal :=
  .next (if !s.isSet SEC_STAT_RUNNING then s
    else if s.fld GLB_UPD_STATE ≠ 1 ∨ bytes.length < 4 ∨ 1024 < bytes.length ∨ offset < s.boot.updNext ∨
        s.boot.updLen < offset + bytes.length then s.imgAnswer 1 1
    else
      let s := { s with boot := { s.boot with
        store := SMap.setRange (fun _ => 0xFF) s.boot.store offset bytes
        updNext := offset + bytes.length } }
      s.imgAnswer 1 0)

/-- IMG_END: the image is written (R440). -/
def execImgEnd (s : State) : Host.Outcome State Fault Refusal :=
  .next (if !s.isSet SEC_STAT_RUNNING then s
    else if s.fld GLB_UPD_STATE ≠ 1 then s.imgAnswer 2 1
    else ({ s with boot := { s.boot with updOpen := false } }.put GLB_UPD_STATE 2).imgAnswer 2 0)

/-- IMG_VERIFY: checks 1 to 6 of R428 on the stored image; an IMAGE_WRITTEN record is appended (R440). -/
def execImgVerify (c : ImageChecks) (s : State) : Host.Outcome State Fault Refusal :=
  .next (if !s.isSet SEC_STAT_RUNNING then s
    else
      let code0 := s.boot.verifyCode c
      let (s, inj) := s.tryInject 0x22 0 0
      let code := if inj.isSome then (if code0 = 0 then 4 else 0) else code0
      let s := (s.put GLB_UPD_STATE (if code = 0 then 3 else 4)).put GLB_UPD_FAIL code
      (s.logAppend 8 code (leBytes 4 (s.boot.le 12 4))).imgAnswer 3 0)

end Sys2Proof.Machine
end

