-- ==== Sys2Proof/Machine/Monitor.lean ====
section
/-! DEFINITION. The monitor converter (R145 to R151). -/
namespace Sys2Proof.Machine

/-- Entry i of the active bank of the sequence list (R147, R154). -/
def State.seqEntry (s : State) (i : Nat) : Word :=
  s.rd ((if s.fld MON_STAT_BANK_ACTIVE = 0 then 0x100400 else 0x100600) + 4 * i)

/-- Every engine with tiers in use takes its drift words again (R129, R130). Log entry 42 (DEDUCED). -/
def State.updateAllDrift (s : State) : State := s.calEngines.foldl (fun s e => s.updateDrift e.1 e.2) s

/-- ASZ_STAT.DARK and COLD report over the engines of the mapped cores (R130, R139). -/
def State.showDark (s : State) : State :=
  let cores := (List.range 800).filter (fun c => s.mapped c)
  (s.flag ASZ_STAT_DARK (cores.any (fun c => s.dark c))).flag ASZ_STAT_COLD
    (cores.any (fun c => match s.tLoc c with | some t => decide (t < 20) | none => false))

/-- A pass of the list ends (R147, R150): BANK takes effect; two passes in a row with a reference out of tolerance
distrust the references, and one pass with all in tolerance restores them. A pass that reads no reference decides
nothing. Log entry 50 (DEDUCED). -/
def State.monWrap (s : State) : State :=
  let m := s.mon
  let s := (s.put MON_STAT_BANK_ACTIVE (s.fld MON_CTRL_BANK))
  let s := { s with mon := { m with entry := 0, refBad := false, refRead := false,
                                    refBadPrev := if m.refRead then m.refBad else m.refBadPrev } }
  if m.refRead ∧ m.refBad ∧ m.refBadPrev then
    ((s.put MON_STAT_REF_FAIL 1).put ASZ_STAT_REF_DISTRUST 1).showDark
  else if m.refRead ∧ !m.refBad then (s.put ASZ_STAT_REF_DISTRUST 0).showDark
  else s

/-- The converter goes on from entry i (R147). -/
def State.monAdvance (s : State) (i : Nat) : State :=
  if getBits (s.seqEntry i) 15 15 = 1 ∨ i = 127 then s.monWrap else { s with mon := { s.mon with entry := i + 1 } }

/-- The next convertible entry; entries whose channel is above 95 are skipped and take no time. -/
def State.monFind : Nat → State → State × Option Word
  | 0, s => (s, none)
  | n + 1, s =>
    let e := s.seqEntry s.mon.entry
    if getBits e 6 0 ≤ 95 then (s, some e) else State.monFind n (s.monAdvance s.mon.entry)

/-- A physical value in 2^-20 of the channel's unit (R146). -/
def State.monValue (s : State) (ch result : Nat) : Int :=
  let w := s.rd (0x100800 + 4 * ch)
  ((result : Int) - (w.extractLsb' 0 16).toInt) * ((getBits w 31 16 : Nat) : Int)

/-- Records go to the circular buffer (R149): a record in the slot at MON_RD_PTR overwrites the oldest unread one. -/
def State.monStore (s : State) (word : Word) : State :=
  let at_ := s.fld MON_WR_PTR_INDEX
  let overs := s.isSet MON_CTRL_SW_RD_EN && decide (at_ = s.fld MON_RD_PTR_INDEX)
  let s := if overs then
      ((s.put MON_RD_PTR_INDEX ((at_ + 1) % 16384)).put MON_STAT_OVR 1).add MON_OVR_CNT_COUNT 1
    else s
  let word := if overs then setBits word 29 29 1 else word
  ({ s with mon := { s.mon with buf := SMap.set (fun _ => 0) s.mon.buf at_ word } }).put MON_WR_PTR_INDEX ((at_ + 1) % 16384)

/-- A settled record of a temperature channel reaches the Assize (R129, R149). Log entry 29 (DEDUCED). -/
def State.sensorIn (s : State) (ch : Nat) (v : Int) : State :=
  let x := s.sensor ch
  let x := { x with last := v, sum := x.sum + v, cnt := x.cnt + 1, ever := true }
  { s with asz := { s.asz with sensors := SMap.set (fun _ => Sensor.init) s.asz.sensors ch x } }

/-- A reference level in tolerance: within 2 mV of its nominal level (R145, R150). -/
def refOk (ch : Nat) (v : Int) : Bool :=
  let d := v - 150 * ((ch - 88 : Nat) : Int) * 2 ^ 20
  decide (-(2 * 2 ^ 20) ≤ d) && decide (d ≤ 2 * 2 ^ 20)

/-- One record (R146, R148): `codes` are the one or four codes of the entry's channel. A reference channel is judged whether or
not its conversion was settled (R150). Log entry 82 (DESIGN CHOICE). -/
def State.monRecord (s : State) (ch tag : Nat) (avg : Bool) (codes : List (BitVec 14)) : State :=
  let result := if avg then (codes.map (fun c => c.toNat)).sum else (codes.headD 0).toNat * 4
  let bus := decide (80 ≤ ch ∧ ch ≤ 87)
  let unsettled := !s.isSet MON_STAT_REF_SETTLED || (bus && !s.mon.capSince)
  let sat := codes.any (fun c => c = 0 ∨ c = 16383)
  let word := BitVec.ofNat 32 ((if unsettled then 2 ^ 31 else 0) + (if sat then 2 ^ 30 else 0) +
    (if avg then 2 ^ 28 else 0) + tag * 2 ^ 24 + ch * 2 ^ 16 + result)
  let v := s.monValue ch result
  let s := s.monStore word
  if ch < 64 then (if unsettled then s else s.sensorIn ch v)
  else if 88 ≤ ch then
    match s.injects 0x1C 0 0 with
    | some arg =>
      if arg / 2 ^ 24 = ch then
        let s := s.fired
        { s with mon := { s.mon with refRead := true, refBad := s.mon.refBad || !refOk ch (v + ((arg % 2 ^ 24 : Nat) : Int) * 2 ^ 20) } }
      else { s with mon := { s.mon with refRead := true, refBad := s.mon.refBad || !refOk ch v } }
    | none => { s with mon := { s.mon with refRead := true, refBad := s.mon.refBad || !refOk ch v } }
  else s

/-- MONITOR_CONVERSION: the converter takes the next entry of its list; a channel of the test bus gives its captured
value (R146 to R151). Log entry 29 (DEDUCED). -/
def execMonitorConversion (c1 c2 c3 c4 : BitVec 14) (s : State) : Host.Outcome State Fault Refusal :=
  .next (if !s.isSet MON_CTRL_RUN then s
    else
      let (s, e) := State.monFind 257 s
      let w := e.getD 88
      let ch := getBits w 6 0
      let tag := if e.isSome then getBits w 11 8 else 0
      let avg := e.isSome && decide (getBits w 7 7 = 1)
      let code := fun (c : BitVec 14) => match s.mon.cap with
        | some (_, l) => if 80 ≤ ch ∧ ch ≤ 87 then l.getD (ch - 80) c else c
        | none => c
      let s := s.monRecord ch tag avg (if avg then [code c1, code c2, code c3, code c4] else [code c1])
      if e.isSome then s.monAdvance s.mon.entry else s.monWrap)

/-- REFERENCE_SETTLED: REF_EN has been 1 without interruption for 400 µs (R150). The first pass may now start. -/
def execReferenceSettled (s : State) : Host.Outcome State Fault Refusal :=
  .next (if s.isSet MON_CTRL_REF_EN then (s.put MON_STAT_REF_SETTLED 1).advanceStart else s)

/-- TEST_BUS_CAPTURE_ARM: a write of MON_TB_SEL; no capture has been made since (R148), the last capture matches where its
selection is written again, and CAPTURE arms one (R151). -/
def execTestBusCaptureArm (w : Wr) (s : State) : Host.Outcome State Fault Refusal :=
  let (s, d) := s.write w 0x100020
  let s := if d.isSome then
      { s with mon := { s.mon with capSince := false } }.flag MON_STAT_TB_VALID
        (match s.mon.cap with | some (sel, _) => decide (sel = s.rd 0x100020) | none => false)
    else s
  .next (if acts d MON_TB_SEL_CAPTURE then { s with mon := { s.mon with capArmed := true } } else s)

end Sys2Proof.Machine
end

