-- ==== Sys2Proof/Machine/Thermal.lean ====
section
/-! DEFINITION. Sensors and their plausibility, zones, the thermal response, the power cap, shutdown and power-up (R482 to
R493, R495, R500). Temperatures are in 1/256 °C. -/
namespace Sys2Proof.Machine

/-- Degrees in 1/256. -/
def deg (n : Int) : Int := n * 256

def State.therm? (s : State) (i : Nat) : ThermSensor := SMap.get (fun _ => ThermSensor.init) s.therm.sensors i
def State.setTherm (s : State) (i : Nat) (x : ThermSensor) : State :=
  { s with therm := { s.therm with sensors := SMap.set (fun _ => ThermSensor.init) s.therm.sensors i x } }

/-- The reading of a sensor that is not ignored, as the controller uses it: 5 K more on a die sensor while the references are
distrusted (R485). -/
def State.reading (s : State) (i : Nat) : Option Int :=
  let x := s.therm? i
  if x.ignored ≠ 0 then none
  else x.last.map (fun t => if i < 64 ∧ s.isSet ASZ_STAT_REF_DISTRUST then t + deg 5 else t)

def maxOf (l : List Int) : Option Int :=
  l.foldl (fun b t => match b with | none => some t | some x => some (max x t)) none

/-! ### Zones (R486) -/

def dieZoneSensors (z : Nat) : List Nat :=
  (List.range 8).map (fun k => (2 * (z / 4) + k / 4) * 16 + 4 * (z % 4) + k % 4)
def dieZoneNeighbours (z : Nat) : List Nat :=
  (if z % 4 ≠ 0 then [z - 1] else []) ++ (if z % 4 ≠ 3 then [z + 1] else []) ++ [(z + 4) % 8]
/-- Neighbouring stacks on the same edge (R485). -/
def stackNeighbours (k : Nat) : List Nat :=
  (if k % 8 ≠ 0 then [k - 1] else []) ++ (if k % 8 ≠ 7 then [k + 1] else [])

/-- One round of assumption: a zone without a temperature whose sensors are all ignored takes its hottest known neighbour
plus 5 K. -/
def assumeRound (nb : Nat → List Nat) (all : Nat → Bool) (zs : List (Option Int)) : List (Option Int) :=
  zs.zipIdx.map (fun (e : Option Int × Nat) =>
    match e.1 with
    | some t => some t
    | none => if all e.2 then (maxOf ((nb e.2).filterMap (fun k => (zs.getD k none)))).map (fun t => t + deg 5) else none)

def assume : Nat → (Nat → List Nat) → (Nat → Bool) → List (Option Int) → List (Option Int)
  | 0, _, _, zs => zs
  | n + 1, nb, all, zs => assume n nb all (assumeRound nb all zs)

def State.allIgnored (s : State) (l : List Nat) : Bool := l.all (fun i => (s.therm? i).ignored ≠ 0)

/-- Working temperatures of the eight die zones. -/
def State.dieZones (s : State) : List (Option Int) :=
  assume 8 dieZoneNeighbours (fun z => s.allIgnored (dieZoneSensors z))
    ((List.range 8).map (fun z => maxOf ((dieZoneSensors z).filterMap s.reading)))

/-- Working temperatures of the sixteen stacks. -/
def State.stackZones (s : State) : List (Option Int) :=
  assume 16 stackNeighbours (fun k => s.allIgnored [64 + k]) ((List.range 16).map (fun k => s.reading (64 + k)))

def State.boardSensors : List Nat := (List.range 8).map (fun k => 80 + k)
/-- Valid board readings at or above 125 °C (R490). -/
def State.boardHot (s : State) : Bool := ((State.boardSensors).filterMap s.reading).any (fun t => decide (deg 125 ≤ t))

/-- The junction temperature: unknown while every die sensor is ignored. -/
def State.junction (s : State) : Option Int :=
  if s.allIgnored (List.range 64) then none else maxOf (s.dieZones.filterMap id)

def State.noDieSensor (s : State) : Bool := s.allIgnored (List.range 64)

/-- Some zone is taken at an assumed temperature: of the die, the stacks, or the board. -/
def State.assumed (s : State) : Bool :=
  ((List.range 8).any (fun z => s.allIgnored (dieZoneSensors z))) ||
  ((List.range 16).any (fun k => s.allIgnored [64 + k])) || s.allIgnored State.boardSensors

/-- The hottest of some sensors, and its reading. -/
def State.hottest (s : State) (l : List Nat) : Option (Nat × Int) :=
  l.foldl (fun (b : Option (Nat × Int)) i =>
    match s.reading i, b with
    | none, b => b
    | some t, none => some (i, t)
    | some t, some (j, u) => if u < t then some (i, t) else some (j, u)) none

/-! ### What the registers show (R478) -/

def State.ignMask (s : State) (base n : Nat) : Nat :=
  ((List.range n).map (fun k => if (s.therm? (base + k)).ignored ≠ 0 then 2 ^ k else 0)).sum

/-- A temperature as a 16-bit two's-complement field. -/
def tempBits (t : Int) : Nat := (BitVec.ofInt 16 t).toNat

/-- The masks, the flags, THM_HOT, and the dark engines follow the sensors (R130, R478, R486). Log entry 33 (DEDUCED). -/
def State.showTherm (s : State) : State :=
  let s := ((s.put THM_IGN_LO_MASK (s.ignMask 0 32)).put THM_IGN_HI_MASK (s.ignMask 32 32)).put THM_IGN_EXT_MASK (s.ignMask 64 24)
  let s := (s.flag THM_STAT_IGNORED ((List.range 88).any (fun i => (s.therm? i).ignored ≠ 0))).flag THM_STAT_ASSUMED s.assumed
  let s := match s.junction, s.hottest (List.range 64) with
    | some t, some (i, _) => (s.put THM_HOT_TEMP (tempBits t)).put THM_HOT_SENSOR i
    | some t, none => s.put THM_HOT_TEMP (tempBits t)
    | none, _ => s
  s.showDark

/-- The throttle level (R487). -/
def State.throttle (s : State) : Nat :=
  if s.therm.divided then 3 else if s.therm.heat then 2 else if 0 < s.therm.fT ∨ 0 < s.therm.fP then 1 else 0

/-- A change of the throttle level is a PLDM event (R500). -/
def State.levelEvent (s : State) (old : Nat) : State :=
  if s.throttle = old then s else s.pldm (.level s.throttle)

/-! ### Checks of a reading (R485) -/

/-- Readings of the valid neighbours, as stored. -/
def State.nearReadings (s : State) (i : Nat) : List Int :=
  let l := if i < 64 then gridNeighbours i else if i < 80 then (stackNeighbours (i - 64)).map (fun k => 64 + k) else []
  l.filterMap (fun j => if (s.therm? j).ignored = 0 then (s.therm? j).last else none)

def insertSorted (t : Int) : List Int → List Int
  | [] => [t]
  | x :: l => if t ≤ x then t :: x :: l else x :: insertSorted t l
def sortInts (l : List Int) : List Int := l.foldr insertSorted []

/-- Twice the median of some readings: for an even count, the sum of the middle two. -/
def median2 (l : List Int) : Int :=
  let m := sortInts l
  let n := m.length
  if n % 2 = 1 then 2 * m.getD (n / 2) 0 else m.getD (n / 2 - 1) 0 + m.getD (n / 2) 0

/-- The mean of some readings, rounded down. -/
def meanOf (l : List Int) : Option Int := if l.isEmpty then none else some (l.sum / (l.length : Int))

/-- The reading lies too far from its neighbours. -/
def State.disagrees (s : State) (i : Nat) (t : Int) : Bool :=
  let l := s.nearReadings i
  if l.isEmpty then false
  else if i < 64 then
    let d := 2 * t - median2 l
    decide (2 * deg 20 < d ∨ d < -(2 * deg 20))
  else if i < 80 then
    let d := (l.length : Int) * t - l.sum
    decide ((l.length : Int) * deg 25 < d ∨ d < -((l.length : Int) * deg 25))
  else false

/-- The first check that a reading fails, as its reason; 0 where it passes every check. `x` already counts this reading's
disagreement and age. -/
def State.failReason (s : State) (i : Nat) (x : ThermSensor) (t : Int) (sat : Bool) : Nat :=
  let far := match x.last with
    | some p => decide (deg 10 < t - p ∨ t - p < -(deg 10))
    | none => false
  let frozen := decide (i < 64) && decide (8 ≤ x.frozen) && x.last == some t &&
    (match x.frozenMean, meanOf (s.nearReadings i) with
      | some a, some b => decide (deg 2 < b - a ∨ b - a < -(deg 2))
      | _, _ => false)
  if t < deg (-20) ∨ deg 150 < t ∨ sat then 1
  else if far then 2
  else if 8 ≤ x.disagree ∨ frozen then 3
  else 0

/-- Mark a sensor ignored (R485): its reason stays that of its first failure. -/
def ThermSensor.fail (x : ThermSensor) (reason : Nat) : ThermSensor :=
  { x with ignored := if x.ignored = 0 then reason else x.ignored, bad := true, good := 0, stuck := none }

/-- A reading is stored and checked. -/
def State.takeReading (s : State) (i : Nat) (t : Int) (sat : Bool) : State :=
  let x := s.therm? i
  let x := { x with disagree := if s.disagrees i t then x.disagree + 1 else 0, seen := true }
  let reason := s.failReason i x t sat
  let same := x.last == some t
  let x := if same then x else { x with frozen := 0, frozenMean := meanOf (s.nearReadings i) }
  let x := { x with last := some t }
  s.setTherm i (if reason = 0 then x else x.fail reason)

/-! ### Heat, requests and shutdown (R487 to R492) -/

/-- The condition that enters level 2. -/
def State.level2Now (s : State) : Bool :=
  (match s.junction with | some t => decide (deg 105 ≤ t) | none => false) ||
  (s.stackZones.filterMap id).any (fun t => decide (deg 95 ≤ t))

/-- Level 2 may not be left, and level 3 may not be left (R487). -/
def State.warm2 (s : State) : Bool :=
  (match s.junction with | some t => decide (deg 102 ≤ t) | none => true) ||
  (s.stackZones.filterMap id).any (fun t => decide (deg 92 ≤ t))
def State.warm3 (s : State) : Bool :=
  (match s.junction with | some t => decide (deg 100 ≤ t) | none => true) || s.noDieSensor || s.therm.inputLow

/-- A HEAT message with the hottest reading (R244, R488). Log entry 64 (DEDUCED). -/
def State.raiseHeat (s : State) : State :=
  match s.hottest (List.range 80) with
  | some (_, t) => s.raise 1 (tempBits t)
  | none => s.raise 1 0

/-- The heat flag requests the next lower-rate admitted variant, if there is one (R488). -/
def State.heatRequest (s : State) (v : Option Nat) : State :=
  match v with
  | none => { s with therm := { s.therm with heatWait := some 9, heatVar := none } }
  | some v => { s with therm := { s.therm with heatWait := some 9, heatVar := some v } }.raiseVarReq v

/-- The heat flag is raised, unless it stands (R488). -/
def State.heatOn (s : State) : State :=
  if s.therm.heat then s
  else
    let s := { s with therm := { s.therm with heat := true, cool2 := 0, broke2 := true } }
    let s := ((s.put THM_STAT_HEAT 1).add THM_HEAT_CNT_COUNT 1).raiseHeat
    s.heatRequest s.nextLower

/-- The condition of level 2 raises the heat flag (R487). -/
def State.heatUp (s : State) : State := if s.level2Now then s.heatOn else s

/-- Last readings of sensors, two bytes each (R492). -/
def State.readingBytes (s : State) (base n : Nat) : List Byte :=
  (List.range n).flatMap (fun k => leBytes 2 (tempBits ((s.therm? (base + k)).last.getD 0)))

/-- The DETAIL of a SHUTDOWN record (R492): the causes, the rails out of tolerance as a mask, and the regulator's number or
0xFF. Log entry 61 (DESIGN CHOICE). -/
def State.shutDetail (s : State) (causes : List Nat) (rails reg : Nat) : List Byte :=
  let mask := ((List.range 4).map (fun k => if k + 1 ∈ causes then 2 ^ k else 0)).sum
  leBytes 2 mask ++
  [BitVec.ofNat 8 ((s.hottest (List.range 88)).map Prod.fst |>.getD 0), 0] ++
  leBytes 2 (tempBits (s.junction.getD 0)) ++ leBytes 2 (s.fld PWR_VIN_VIN) ++ leBytes 2 (s.fld PWR_VIN_IIN) ++
  leBytes 2 rails ++ [BitVec.ofNat 8 reg] ++ [BitVec.ofNat 8 (s.fld TB_SKIP_FRAC_FRAC)] ++
  [BitVec.ofNat 8 (if s.sched.running then s.sched.var else 0xFF)] ++ [BitVec.ofNat 8 (s.fld GLB_STATE_STEP)] ++
  s.readingBytes 0 64 ++ s.readingBytes 64 16

/-- The causes that stand in the readings themselves (R491). -/
def State.standingCauses (s : State) : List Nat :=
  (match s.junction with | some t => if deg 115 ≤ t then [1] else [] | none => []) ++ (if s.boardHot then [3] else [])

/-- A shutdown (R432, R491 to R493): the record of the lowest cause is written, THERMTRIP_N goes low for cause 1, and the
regulators are off and stay off. Log entry 58 (DEDUCED). -/
def State.shutdown (s : State) (causes : List Nat) (rails reg : Nat) : State :=
  let all := (causes ++ s.standingCauses).eraseDups
  let cause := all.foldl Nat.min 4
  let s := s.logAppend 1 cause (s.shutDetail all rails reg)
  let n := s.dieReset false none
  { n with
    pins := { n.pins with pwrgd := false, thermtripN := n.pins.thermtripN && !decide (cause = 1) }
    therm := { n.therm with latched := true, off := true } }

/-- What follows a change of the readings: the furlong's peak, the leave conditions, 110 °C, the heat flag, a shutdown. -/
def State.afterReading (s : State) : State :=
  let old := s.throttle
  let j := s.junction
  let peak := match s.therm.peak, j with
    | some a, some b => some (max a b)
    | none, b => b
    | a, none => a
  let hot := match j with
    | some t => if deg 110 ≤ t then some (s.therm.hotSince.getD s.sec.clockRods) else none
    | none => none
  let s := { s with therm := { s.therm with
    peak := peak, hotSince := hot, broke2 := s.therm.broke2 || s.warm2, broke3 := s.therm.broke3 || s.warm3 } }
  let s := (s.heatUp).levelEvent old
  if s.standingCauses.isEmpty then s else s.shutdown [] 0 0xFF

/-- SENSOR_READING: a new reading of a sensor, with the SAT bit of its monitor record (R485 to R488, R490, R491). Log entry 29 (DEDUCED). -/
def execSensorReading (sensor : Fin 88) (value : BitVec 16) (sat : Bool) (s : State) : Host.Outcome State Fault Refusal :=
  .next (if !s.isSet THM_STAT_RUNNING then s
    else
      let i := sensor.val
      let (s, inj) := match s.injects 0x1D 0 0 with
        | some a => if a % 128 = i then (s.fired, true) else (s, false)
        | none => (s, false)
      let x := s.therm? i
      let s := if inj then s.setTherm i { x with stuck := some (x.last.getD value.toInt) } else s
      let t := ((s.therm? i).stuck).getD value.toInt
      let s := s.takeReading i t sat
      let s := if 64 ≤ i ∧ i < 80 then
          let k := stkI (i - 64)
          let s := (s.putAt k STK_TEMP_TEMP (tempBits t)).flagAt k STK_STAT_HOT (decide (deg 95 < t))
          if t < deg 100 then { s with therm := { s.therm with stackHot := SMap.set (fun _ => false) s.therm.stackHot (i - 64) false } } else s
        else s
      s.showTherm.afterReading)

/-- SENSOR_RESTORE: after 8 consecutive complete furlongs in which every reading passed every check (R485). -/
def execSensorRestore (sensor : Fin 88) (s : State) : Host.Outcome State Fault Refusal :=
  .next (let x := s.therm? sensor
    if x.ignored ≠ 0 ∧ 8 ≤ x.good then
      ((s.setTherm sensor { x with ignored := 0, good := 0, disagree := 0 }).showTherm).afterReading
    else s)

/-- COMPARATOR_TRIP: a die sensor's comparator trips while those of `others` stand tripped (R485, R491). Log entry 30 (DESIGN CHOICE). -/
def execComparatorTrip (sensor : Fin 64) (others : List (Fin 64)) (s : State) : Host.Outcome State Fault Refusal :=
  .next (if !s.isSet THM_STAT_RUNNING then s
    else
      let near := gridNeighbours sensor
      if others.any (fun o => decide (o.val ∈ near)) then s.shutdown [1] 0 0xFF
      else
        let x := s.therm? sensor
        match x.last with
        | some t => if t < deg 110 then ((s.setTherm sensor (x.fail 3)).showTherm).afterReading else s
        | none => s)

/-- HEAT_FLAG_CLEAR: 8 consecutive complete furlongs below 102 °C and 92 °C (R487). -/
def execHeatFlagClear (s : State) : Host.Outcome State Fault Refusal :=
  .next (if s.therm.heat ∧ 8 ≤ s.therm.cool2 then
      (({ s with therm := { s.therm with heat := false, heatWait := none, heatVar := none } }).put THM_STAT_HEAT 0).levelEvent s.throttle
    else s)

/-- HEAT_REREQUEST: 8 furlongs after a switch, the next lower-rate variant; 8 furlongs after a refusal, the same one (R488). Log entry 58 (DEDUCED). -/
def execHeatRerequest (s : State) : Host.Outcome State Fault Refusal :=
  .next (if s.therm.heat ∧ s.therm.heatWait = some 0 ∧ s.level2Now then
      match s.therm.heatVar with
      | some v => s.heatRequest (some v)
      | none => s.heatRequest s.nextLower
    else s)

/-- CLOCK_DIVIDE: level 3 is entered, and acts at the next rod boundary (R487, R489). -/
def execClockDivide (s : State) : Host.Outcome State Fault Refusal :=
  let hot := match s.therm.hotSince with | some r => decide (r + 1 ≤ s.sec.clockRods) | none => false
  .next (if s.isSet THM_STAT_RUNNING ∧ !s.therm.divided ∧ (hot || s.noDieSensor || s.therm.inputLow) then
      { s with
        tb := { s.tb with stopAtRod := true }
        therm := { s.therm with clockDue := some true, cool3 := 0, broke3 := true } }
    else s)

/-- CLOCK_RESTORE: the conditions of level 3 have been left for 8 furlongs; the clock is restored at a rod boundary (R487,
R489). In chrysalis mode the clock stays halved (R421). -/
def execClockRestore (s : State) : Host.Outcome State Fault Refusal :=
  .next (if s.therm.divided ∧ 8 ≤ s.therm.cool3 ∧ s.fld GLB_STATE_STATE ≠ 2 then
      { s with therm := { s.therm with clockDue := some false } }
    else s)

/-- At a rod boundary the clock is divided or restored; admission runs again (R210, R211, R489). Level 3 includes the action
of level 2, so it raises the heat flag where none stands (R487). Log entry 58 (DEDUCED). -/
def State.clockAtRod (s : State) : State :=
  match s.therm.clockDue with
  | none => s
  | some d =>
    let old := s.throttle
    let s := { s with therm := { s.therm with clockDue := none, divided := d } }
    let s := if d then s.heatOn else s
    ((s.flag THM_STAT_DIVIDED d).levelEvent old).reAdmit

/-- A variant switch has taken effect: the 8 furlongs of R484 and R488 begin. Log entry 58 (DEDUCED). -/
def State.thermSwitched (s : State) : State :=
  { s with therm := { s.therm with
    heatWait := if s.therm.heat then some 8 else s.therm.heatWait
    heatVar := none
    capWait := if s.therm.capWait.isSome then some 8 else none } }

/-- A request of the heat flag has been refused (R488): it is made again after 8 furlongs. Log entry 58 (DEDUCED). -/
def State.thermRefused (s : State) : State :=
  match s.therm.heatVar with
  | some v =>
    if s.therm.heat ∧ s.therm.heatWait = some 9 ∧ !(s.sched.reqs.any (fun r => r.own ∧ r.var = v ∧ !r.refused)) ∧
        !(s.sched.switches.any (fun w => w.var = v)) then
      { s with therm := { s.therm with heatWait := some 8 } }
    else s
  | none => s

/-! ### The furlong's work (R201, R484, R487, R490) -/

/-- The measured input of the furlong just ended, and the energy (R479). Log entry 23 (DESIGN CHOICE). -/
def State.measureInput (s : State) (p : Nat) : State :=
  let e : Nat := s.therm.energy + p
  let s : State := { s with therm := { s.therm with energy := e } }
  let s := (s.put PWR_MODULE_POWER p).put PWR_ENERGY_JOULES (e / 250000 % 4294967296)
  let s := s.put PWR_VIN_IIN (Config.inputCurrent s.freeCtr).toNat
  if s.isSet PWR_STAT_VIN_OK then s.put PWR_VIN_VIN (54000 + (Config.inputMv s.freeCtr).val) else s

/-- f_P from the power of the furlong (R484). -/
def capFraction (was p cap : Nat) : Nat :=
  if cap < p then min 100 (was + 25) else if 100 * p < 98 * cap then was - 10 else was

/-- The power controller at a furlong boundary (R484): CAP is the one in force at the boundary. -/
def State.powerFurlong (s : State) (cap : Nat) : State :=
  let p := (Config.inputPower s.freeCtr).toNat
  let s := (s.measureInput p).tick
  let was := s.therm.fP
  let s := if cap < p then s.put PWR_FLAG_CAP_MISS 1 else s
  let n := if was = 100 ∧ cap < p then s.therm.capOver + 1 else 0
  { s with therm := { s.therm with fP := capFraction was p cap, capOver := n, capWait := if n = 0 then none else s.therm.capWait } }

/-- f_T, from the highest junction temperature of the furlong just ended (R487). -/
def State.fracFurlong (s : State) : State :=
  let at_ : Int := (BitVec.ofNat 16 (s.inForceAt 0 THM_SKIP_AT_TEMP)).toInt
  let fT := match s.therm.peak with
    | some t => if at_ ≤ t then min 100 (s.therm.fT + 25) else if t < at_ - deg 2 then s.therm.fT - 10 else s.therm.fT
    | none => s.therm.fT
  let s := { s with therm := { s.therm with fT := fT, peak := s.junction } }
  let s := (s.put TB_SKIP_FRAC_FRAC (max s.therm.fT s.therm.fP)).flag THM_STAT_SKIPPING (decide (0 < s.therm.fT))
  s.flag PWR_STAT_CAP_ACTIVE (decide (0 < s.therm.fP ∧ s.therm.fT ≤ s.therm.fP))

/-- Sensors: a furlong ends (R485). -/
def ThermSensor.roll (x : ThermSensor) : ThermSensor :=
  { x with good := if x.seen ∧ !x.bad then x.good + 1 else 0, bad := false, seen := false, frozen := x.frozen + 1 }

/-- Stacks that stood at 100 °C or more through the furlong are taken out of service (R490). -/
def State.hotStacks (s : State) : State :=
  let z := s.stackZones
  let s := (List.range 16).foldl (fun (s : State) k =>
    if SMap.get (fun _ => false) s.therm.stackHot k ∧ s.isSetAt (stkI k) STK_STAT_IN_SERVICE then
      (s.putAt (stkI k) STK_STAT_IN_SERVICE 0).reAdmit
    else s) s
  { s with therm := { s.therm with stackHot := (List.range 16).foldl (fun m k =>
      SMap.set (fun _ => false) m k (match z.getD k none with | some t => decide (deg 100 ≤ t) | none => false)) s.therm.stackHot } }

def lessOne (w : Option Nat) : Option Nat := w.map (fun n => if n ≤ 8 then n - 1 else n)

/-- The thermal and power controllers at a furlong boundary. -/
def State.thermFurlong (s : State) : State :=
  if !s.isSet THM_STAT_RUNNING then s
  else
    let old := s.throttle
    let s := ((s.powerFurlong (s.inForceAt 0 PWR_CAP_CAP)).fracFurlong).hotStacks
    let t := s.therm
    let sensors := (List.range 88).foldl (fun m i =>
      if (SMap.get (fun _ => ThermSensor.init) m i).last.isNone then m
      else SMap.set (fun _ => ThermSensor.init) m i (SMap.get (fun _ => ThermSensor.init) m i).roll) t.sensors
    let s := { s with therm := { t with
      sensors := sensors
      cool2 := if t.heat ∧ !t.broke2 then t.cool2 + 1 else 0
      broke2 := s.warm2
      cool3 := if t.divided ∧ !t.broke3 then t.cool3 + 1 else 0
      broke3 := s.warm3
      heatWait := lessOne t.heatWait
      capWait := lessOne t.capWait } }
    s.thermRefused.levelEvent old

/-- While the heat flag stays raised, one HEAT message per mile (R488). -/
def State.thermMile (s : State) : State := if s.therm.heat then s.raiseHeat else s

/-- POWER_CAP_VARIANT_REQUEST: f_P has stood at 100 % and POWER has exceeded CAP in 8 furlongs in a row, or 8 furlongs have
passed since the last switch (R484). Log entry 58 (DEDUCED). -/
def execPowerCapVariantRequest (s : State) : Host.Outcome State Fault Refusal :=
  .next (if 8 ≤ s.therm.capOver ∧ (s.therm.capWait = none ∨ s.therm.capWait = some 0) then
      match s.nextLower with
      | some v => { s with therm := { s.therm with capWait := some 9 } }.raiseVarReq v
      | none => s
    else s)

/-! ### Power input, regulators, power-up (R479, R483, R491, R493, R495) -/

/-- The input voltage is measured (R479). -/
def State.vinSeen (s : State) (mv : Nat) : State :=
  let v := min mv 65535
  let s := (s.put PWR_VIN_VIN v).flag PWR_STAT_VIN_OK (decide (54000 ≤ v ∧ v ≤ 62000))
  let s := (s.raiseIfAt 0 PWR_FLAG_VIN_LOW (decide (v < 54000))).raiseIfAt 0 PWR_FLAG_VIN_HIGH (decide (62000 < v))
  let low := decide (v < 54000)
  { s with therm := { s.therm with inputLow := low, broke3 := s.therm.broke3 || low } }

/-- VIN_FAULT: the input voltage or current has been out of range for its stated time (R491). -/
def execVinFault (f : InputFault) (s : State) : Host.Outcome State Fault Refusal :=
  .next (if !s.isSet PWR_STAT_RUNNING then s
    else match f with
      | .voltage mv => if mv < 50000 ∨ 64000 < mv then (s.vinSeen mv).shutdown [2] 0 0xFF else s
      | .current c => if 3200 < c then (s.put PWR_VIN_IIN (min c 65535)).shutdown [2] 0 0xFF else s)

/-- INPUT_RANGE_EXCURSION: the input leaves or re-enters 54 to 62 V without a shutdown condition (R479). -/
def execInputRangeExcursion (mv : Nat) (s : State) : Host.Outcome State Fault Refusal :=
  .next (if s.isSet PWR_STAT_RUNNING then s.vinSeen mv else s)

/-- REGULATOR_FAULT (R483, R490, R491). -/
def execRegulatorFault (f : RegFault) (s : State) : Host.Outcome State Fault Refusal :=
  .next (if !s.isSet PWR_STAT_RUNNING then s
    else
      let t := (s.put PWR_STAT_REG_FAULT 1).put PWR_FLAG_REG_FAULT 1
      match f with
      | .regulator n => t.shutdown [3] 0 n
      | .rail p => t.shutdown [3] (2 ^ p.val) 0xFF
      | .board => if s.boardHot then t.shutdown [3] 0 0xFF else s)

/-- MC_POWER_OFF: the management controller commands power-off (R491). -/
def execMcPowerOff (s : State) : Host.Outcome State Fault Refusal :=
  .next (if s.isSet SEC_STAT_RUNNING then s.shutdown [4] 0 0xFF else s)

/-- MATE_N_ASSERT: MATE_N goes low (R495). -/
def execMateNAssert (s : State) : Host.Outcome State Fault Refusal :=
  .next { s with pins := { s.pins with mateN := false } }

/-- INPUT_ENABLE: MATE_N has been low for 50 ms, and the hot-swap controller enables the input; PWRGD goes high unless the
regulators are latched off (R493, R495, R504). -/
def execInputEnable (s : State) : Host.Outcome State Fault Refusal :=
  .next (if s.pins.mateN ∨ s.pins.inputOn then s
    else { s with
      pins := { s.pins with inputOn := true, pwrgd := !s.therm.latched }
      therm := { s.therm with off := s.therm.latched } })

/-- VIN_REAPPLY: the input has been below 40 V for a second and is applied again; the regulators are enabled and THERMTRIP_N
is released (R493). -/
def execVinReapply (s : State) : Host.Outcome State Fault Refusal :=
  .next (if s.therm.off ∧ !s.pins.mateN then
      { s with
        pins := { s.pins with inputOn := true, pwrgd := true, thermtripN := true }
        therm := { s.therm with latched := false, off := false } }
    else s)

/-- HOST_LINK_TRAINING: the PCIe link trains at generation 5 or 6 and a width, or goes down; the capability record changes
(R210, R211). -/
def execHostLinkTraining (up : Bool) (gen width : Nat) (s : State) : Host.Outcome State Fault Refusal :=
  let h : HostLink := if up then ⟨true, gen, width⟩ else ⟨false, 0, 0⟩
  .next (if s.hostLink = h then s else { s with hostLink := h }.reAdmit)

/-- MC_POWER_CAP_RAISE: the management controller raises PWR_CAP, up to 1,400 W (R479); the cap in force changes at the next
furlong boundary, as for every class B field (R15). -/
def execMcPowerCapRaise (cap : Nat) (s : State) : Host.Outcome State Fault Refusal :=
  .next (if !s.isSet SEC_STAT_RUNNING ∨ cap ≤ s.inForceAt 0 PWR_CAP_CAP ∨ 0x36B0 < cap then s
    else
      let old := s.rd PWR_CAP_CAP.addr
      let s := if s.isSet PWR_STAT_RUNNING ∧ (s.waitB.find? (fun e => e.1 = PWR_CAP_CAP.addr)).isNone then
          { s with waitB := (PWR_CAP_CAP.addr, old) :: s.waitB } else s
      let s := s.put PWR_CAP_CAP cap
      match regAt PWR_CAP_CAP.addr with
      | some r => s.openCovered r true
      | none => s)

/-- PLDM_EVENT_FETCH: the oldest held event is fetched; ALERT_N is released once the last one is (R500). -/
def execPldmEventFetch (s : State) : Host.Outcome State Fault Refusal :=
  .next (if !s.isSet SEC_STAT_RUNNING then s
    else
      let rest := s.mgmt.events.drop 1
      { s with mgmt := { s.mgmt with events := rest, alert := !rest.isEmpty } })

/-- DYNAMIC_ADDRESS_ASSIGNMENT: the I3C controller assigns the module's dynamic address (R500). -/
def execDynamicAddressAssignment (addr : BitVec 7) (s : State) : Host.Outcome State Fault Refusal :=
  .next (if s.isSet SEC_STAT_RUNNING then { s with mgmt := { s.mgmt with address := some addr.toNat } } else s)

end Sys2Proof.Machine
end

