-- ==== Sys2Proof/Machine/Trust.lean ====
section
/-! DEFINITION. The hallmark report, the release of the weight key, SPDM, IDE, TDISP, the watchdog, the bounds on the
control core (R375 to R393), and the arming of injection (R409). -/
namespace Sys2Proof.Machine

/-! ### The hallmark report (R381, R382) -/

def bitN (b : Bool) (k : Nat) : Nat := if b then 2 ^ k else 0

/-- The tiers of roles 1 to 5 counted by epoch and role; the key is 8 × epoch + role (R381). -/
def State.epochPairs (s : State) : SMap Nat :=
  s.tiers.foldl (fun m e =>
    if 1 ≤ e.2.role ∧ e.2.role ≤ 5 then
      let k := e.2.epoch * 8 + e.2.role
      SMap.set (fun _ => 0) m k (SMap.get (fun _ => 0) m k + 1)
    else m) []

/-- The STATE field of a report (R381). -/
def State.reportState (s : State) : Nat :=
  bitN s.admitted 0 + bitN (decide (s.fld TB_ADM_STAT_STATE = 3)) 1 + bitN (s.isSet SEC_STAT_KEY_RELEASED) 2 +
  bitN (s.isSet SEC_STAT_UNSEALED) 3 + bitN (decide (s.fld GLB_STATE_STATE = 2)) 4 + bitN (decide (Config.engSample = 1)) 5 +
  bitN (decide (16 < s.epochPairs.length)) 6 + bitN s.faults.trapHost 7 + s.startStep * 256

/-- The fuse lock word (R376). -/
def fuseLock : Nat := if Config.engSample = 1 then 0x1F else 0x3F

def State.imageHash (s : State) : List Byte :=
  if s.boot.imageOk then s.boot.imageHash else Config.earlyHash 0 s.freeCtr
def State.fwHash (s : State) : List Byte :=
  if s.boot.imageOk then s.boot.fwHash else Config.earlyHash 1 s.freeCtr
def State.fuseHash (s : State) : List Byte :=
  if s.sec.fuseRead then Config.sha384 (leBytes 8 Config.dieId.toNat ++ Config.identityPub ++ leBytes 4 fuseLock)
  else Config.earlyHash 2 s.freeCtr
def State.trapHash (s : State) : List Byte := Config.sha384 s.faults.traps.bytes
/-- EPOCH_DIGEST: one 8-byte record for each physical tier of the die (R381). -/
def State.epochDigest (s : State) : List Byte :=
  Config.sha384 ((List.range 51200).flatMap (fun k =>
    leBytes 2 (k / 64) ++ leBytes 1 (k / 8 % 8) ++ leBytes 1 (k % 8) ++ leBytes 4 (s.tier (k / 64) (k / 8 % 8) (k % 8)).epoch))
def State.releasePub (s : State) : List Byte := fitBytes 96 (Config.releasePub s.sec.relNo)

/-- Bytes 0 to 607 of a report (R381). -/
def State.reportBody (s : State) (nonce : List Byte) : List Byte :=
  let pairs := s.epochPairs.take 16
  leBytes 4 0x4D485154 ++ leBytes 2 1 ++ leBytes 2 704 ++ leBytes 8 Config.dieId.toNat ++ fitBytes 48 nonce ++
  leBytes 8 (if s.isSet TB_STAT_COUNT_VALID then s.tb.rod else 0) ++ leBytes 4 s.reportState ++ leBytes 4 (s.fld TRAP_VER_VERSION) ++
  fitBytes 48 s.imageHash ++ fitBytes 48 s.fwHash ++ fitBytes 48 s.fuseHash ++ fitBytes 48 s.trapHash ++ fitBytes 48 s.epochDigest ++
  leBytes 8 s.boot.image.model ++ leBytes 2 pairs.length ++ leBytes 6 0 ++
  fitBytes 128 (pairs.flatMap (fun e => leBytes 4 (e.1 / 8) ++ leBytes 2 e.2 ++ leBytes 1 (e.1 % 8) ++ [0])) ++
  s.releasePub ++ fitBytes 48 (Config.sha384 (aliasPub s.imageHash s.fwHash))

/-- An answer of the DOE mailbox or of the SPDM responder. -/
def State.answer (s : State) (request code : Nat) (body : List Byte) : State :=
  { s with sec := { s.sec with sent := ⟨request, code, body⟩ :: s.sec.sent } }

/-- HALLMARK_REQ: the report for a 48-byte nonce; the nonces of the last four reports are kept (R382). -/
def execHallmarkReq (nonce : List Byte) (s : State) : Host.Outcome State Fault Refusal :=
  .next (if !s.isSet SEC_STAT_RUNNING ∨ nonce.length ≠ 48 then s
    else
      let body := s.reportBody nonce
      let t := (s.tick.add SEC_REPORT_CNT_COUNT 1).answer 1 0 (body ++ fitBytes 96 (Config.signDie body))
      { t with sec := { t.sec with nonces := ((nonce, s.sec.clockRods) :: s.sec.nonces).take 4 } })

/-! ### Releasing the weight key (R384 to R386, R389) -/

/-- The checks of R385 in order: the code. -/
def State.releaseCode (s : State) (o : List Byte) (c : ReleaseCheck) : Nat :=
  let fresh := s.sec.nonces.any (fun n => decide (n.1 = (o.drop 16).take 48) && decide (s.sec.clockRods ≤ n.2 + 2 ^ 24))
  if s.startStep < 6 ∨ s.fld GLB_STATE_STATE = 2 then 0x08
  else if s.sec.accepted then 0x07
  else if o.length ≠ 320 ∨ fieldLE o 0 4 ≠ 0x4C525154 ∨ fieldLE o 4 2 ≠ 1 ∨ fieldLE o 7 1 ≠ 0 ∨ fieldLE o 220 4 ≠ 0 ∨
      s.boot.image.authKeys ≤ fieldLE o 6 1 then 0x01
  else if !c.sigOk then 0x02
  else if !fresh then 0x03
  else if fieldLE o 8 8 ≠ s.boot.image.model then 0x04
  else if !c.onCurve ∨ !c.tagOk then 0x05
  else if keyCheck c.key ≠ s.boot.image.wkcv then 0x06
  else 0

/-- KEY_RELEASE: a release object is checked; on acceptance the key is installed and unsealing starts (R385, R386). Log entry 15 (DESIGN CHOICE). -/
def execKeyRelease (o : List Byte) (c : ReleaseCheck) (s : State) : Host.Outcome State Fault Refusal :=
  .next (if !s.isSet SEC_STAT_RUNNING then s
    else
      let code := s.releaseCode o c
      let s := s.put SEC_REL_STAT_LAST_CODE code
      let s := if code = 0 then
          ({ s with sec := { s.sec with weightKey := some c.key, releaseKey := false, accepted := true, unsealing := true } }).put SEC_STAT_KEY_RELEASED 1
        else s.add SEC_REL_REFUSE_COUNT 1
      let s := s.answer 3 code ([BitVec.ofNat 8 code, 0, 0, 0] ++ leBytes 4 s.reportState)
      if code = 0 then s.advanceStart else s)

/-- UNSEAL_COMPLETE: the scale rows are copied, and `badRows` fail their check (R87); every sound tier with an epoch has its row
map, and the tiers take their roles at step 8 (R389, R438). -/
def execUnsealComplete (badRows : List (CoreId × EngId × TierId)) (s : State) : Host.Outcome State Fault Refusal :=
  .next (if !s.sec.unsealing then s
    else
      let s := s.markBad badRows
      let s := { s with
        tiers := s.tiers.map (fun (e : Nat × Tier) => if !e.2.bad ∧ e.2.epoch ≠ 0 then (e.1, { e.2 with mapped := true }) else e)
        sec := { s.sec with unsealing := false } }
      let s := s.put SEC_STAT_UNSEALED 1
      (if s.startStep = 7 then s.assignRoles else s).advanceStart)

/-! ### SPDM (R383) -/

/-- Requests of the responder, numbered in the order of R383. A request that the state of the connection does not allow
is answered with an error. Log entry 70 (DEDUCED). -/
def State.spdmStep (s : State) (request : Nat) (ok : Bool) (body : List Byte) (f : Sec → Sec) : State :=
  if !s.isSet SEC_STAT_RUNNING then s
  else if ok then { s with sec := f s.sec }.answer (16 + request) 0 body
  else s.answer (16 + request) 1 []

def State.negotiated (s : State) : Bool := decide (s.sec.spdm = .algorithms)
def State.chain (s : State) : List Byte := Config.certChain (aliasPub s.imageHash s.fwHash)

/-- GET_VERSION restarts the connection. Log entry 70 (DEDUCED). -/
def execGetVersion (s : State) : Host.Outcome State Fault Refusal :=
  .next (s.spdmStep 0 true [] (fun (x : Sec) => { x with spdm := .version }))
def execGetCapabilities (s : State) : Host.Outcome State Fault Refusal :=
  .next (s.spdmStep 1 (decide (s.sec.spdm = .version)) [] (fun (x : Sec) => { x with spdm := .capabilities }))
/-- NEGOTIATE_ALGORITHMS: `common` says that the requester offers the responder's algorithms. -/
def execNegotiateAlgorithms (common : Bool) (s : State) : Host.Outcome State Fault Refusal :=
  .next (s.spdmStep 2 (decide (s.sec.spdm = .capabilities) && common) [] (fun (x : Sec) => { x with spdm := .algorithms }))
def execGetDigests (s : State) : Host.Outcome State Fault Refusal :=
  .next (s.spdmStep 3 s.negotiated (Config.sha384 s.chain) id)
/-- GET_CERTIFICATE: slot 0 holds the one chain. -/
def execGetCertificate (slot offset length : Nat) (s : State) : Host.Outcome State Fault Refusal :=
  .next (s.spdmStep 4 (s.negotiated && decide (slot = 0)) ((s.chain.drop offset).take length) id)
def execChallenge (slot : Nat) (s : State) : Host.Outcome State Fault Refusal :=
  .next (s.spdmStep 5 (s.negotiated && decide (slot = 0)) [] id)

/-- The measurement blocks 1 to 6 (R383). -/
def State.measurement (s : State) (index : Nat) : List Byte :=
  match index with
  | 1 => s.imageHash
  | 2 => s.fwHash
  | 3 => s.fuseHash
  | 4 => s.trapHash
  | 5 => s.epochDigest
  | _ => Config.sha384 s.releasePub

/-- GET_MEASUREMENTS: the number of blocks (index 0), one block, or all of them (index 255). -/
def execGetMeasurements (index : Nat) (s : State) : Host.Outcome State Fault Refusal :=
  let body := if index = 0 then [6] else if index = 255 then (List.range 6).flatMap (fun k => s.measurement (k + 1)) else s.measurement index
  .next (s.spdmStep 6 (s.negotiated && (decide (index ≤ 6) || decide (index = 255))) body id)
/-- Log entry 70 (DEDUCED). -/
def execKeyExchange (slot : Nat) (s : State) : Host.Outcome State Fault Refusal :=
  .next (s.spdmStep 7 (s.negotiated && decide (slot = 0) && !s.sec.session) [] (fun (x : Sec) => { x with handshake := true }))
/-- FINISH opens the session where the requester's proof verifies. Log entries 15 (DESIGN CHOICE), 70 (DEDUCED). -/
def execSpdmFinish (verifyOk : Bool) (s : State) : Host.Outcome State Fault Refusal :=
  let ok := s.sec.handshake && verifyOk
  let t := s.spdmStep 8 ok [] (fun (x : Sec) => { x with handshake := false, session := true, keyGen := 0 })
  .next (if ok ∧ s.isSet SEC_STAT_RUNNING then t.put SEC_STAT_SPDM_SESSION 1 else { t with sec := { t.sec with handshake := false } })
/-- KEY_UPDATE: operations 1 and 2 derive new session keys, 3 verifies them. Log entry 70 (DEDUCED). -/
def execKeyUpdate (op : Nat) (s : State) : Host.Outcome State Fault Refusal :=
  .next (s.spdmStep 9 (s.sec.session && decide (1 ≤ op ∧ op ≤ 3)) []
    (fun (x : Sec) => { x with keyGen := if op = 3 then x.keyGen else x.keyGen + 1 }))
def execSpdmHeartbeat (s : State) : Host.Outcome State Fault Refusal := .next (s.spdmStep 10 s.sec.session [] id)
def execEndSession (s : State) : Host.Outcome State Fault Refusal :=
  let t := s.spdmStep 11 s.sec.session [] (fun (x : Sec) => { x with session := false })
  .next (if s.sec.session ∧ s.isSet SEC_STAT_RUNNING then t.put SEC_STAT_SPDM_SESSION 0 else t)

/-! ### IDE and TDISP (R390, R391) -/

/-- IDE_KM_KEY_PROGRAM: over a secured session the keys of one of two selective streams are programmed or refreshed
(R390). Log entry 71 (DEDUCED). -/
def execIdeKmKeyProgram (stream : Nat) (s : State) : Host.Outcome State Fault Refusal :=
  .next (if !s.sec.session ∨ stream ∈ s.sec.ide ∨ 2 ≤ s.sec.ide.length then s
    else
      let l := s.sec.ide ++ [stream]
      ({ s with sec := { s.sec with ide := l } }).put SEC_STAT_IDE_STREAMS l.length)

def State.ideFails (s : State) : State := (s.add SEC_IDE_ERR_COUNT 1).put SEC_STAT_TDI_STATE 3

/-- IDE_INTEGRITY_FAILURE on a stream with keys (R390). Log entry 71 (DEDUCED). -/
def execIdeIntegrityFailure (stream : Nat) (s : State) : Host.Outcome State Fault Refusal :=
  .next (if stream ∈ s.sec.ide then s.ideFails else s)

/-- LOCK_INTERFACE: accepted in CONFIG_UNLOCKED once step 7 has completed; the seal is set (R391). Log entry 71 (DEDUCED). -/
def execLockInterface (s : State) : Host.Outcome State Fault Refusal :=
  .next (if s.fld SEC_STAT_TDI_STATE = 0 ∧ 7 ≤ s.startStep then
      let t := if s.isSet GLB_LOCK_CFG_SEAL then s else (s.put GLB_LOCK_CFG_SEAL 1).put GLB_LOCK_BY_TDISP 1
      ({ t with sec := { t.sec with guard := true } }).put SEC_STAT_TDI_STATE 1
    else s)

/-- START_INTERFACE: from CONFIG_LOCKED to RUN (R391). Log entry 71 (DEDUCED). -/
def execStartInterface (s : State) : Host.Outcome State Fault Refusal :=
  .next (if s.fld SEC_STAT_TDI_STATE = 1 then s.put SEC_STAT_TDI_STATE 2 else s)

/-- Log entry 39 (DEDUCED). -/
def State.unlockTdi (s : State) : State :=
  ({ s with sec := { s.sec with guard := false } }).put SEC_STAT_TDI_STATE 0

/-- STOP_INTERFACE and a function-level reset return the TDI to CONFIG_UNLOCKED; keys, tiers and the seal stay (R391). Log entry 71 (DEDUCED). -/
def execStopInterface (s : State) : Host.Outcome State Fault Refusal := .next s.unlockTdi
/-- Log entry 39 (DEDUCED). -/
def execFunctionLevelReset (s : State) : Host.Outcome State Fault Refusal := .next s.unlockTdi

/-! ### The watchdog and the bounds on the control core (R392, R393) -/

/-- SEC_WDOG_KICK: a write of SEC_WDOG; KICK restarts the interval from the control core only (R393). An armed point 0x21
shortens the interval (R408). -/
def execSecWdogKick (w : Wr) (s : State) : Host.Outcome State Fault Refusal :=
  let (s, d) := s.write w SEC_WDOG_KICK.addr
  .next (if acts d SEC_WDOG_KICK ∧ w.port = .controlCore then
      let (s, inj) := s.tryInject 0x21 0 0
      { s with sec := { s.sec with wdog := 0, wdogLimit := match inj with | some n => n | none => 65536 } }
    else s)

/-- WATCHDOG_EXPIRY: the interval has passed without a kick, counted from the start of the firmware (R393, R435). -/
def execWatchdogExpiry (s : State) : Host.Outcome State Fault Refusal :=
  .next (if s.boot.firmware ∧ s.sec.wdogLimit ≤ s.sec.wdog then
      let s := s.put SEC_VIOL_WDOG 1
      if s.contained (decide (s.sec.wdogLimit ≠ 65536)) then s.put INJ_STAT_CONTAINED 1 else s.enterChrysalis 3
    else s)

def State.violate (s : State) (f : Fld) : State := (s.put f 1).add SEC_VIOL_CNT_COUNT 1

/-- CONTROL_CORE_BREACH: an action of the control core beyond its bounds (R392). A host write takes tokens of the bucket
of 8,192 bytes; only one that finds too few is a breach. -/
def execControlCoreBreach (b : Breach) (s : State) : Host.Outcome State Fault Refusal :=
  .next (match b with
    | .dmaWindow => s.violate SEC_VIOL_DMA_WINDOW
    | .rate n =>
      if n ≤ s.sec.bucket then { s with sec := { s.sec with bucket := s.sec.bucket - n } } else s.violate SEC_VIOL_RATE
    | .keyAccess => s.violate SEC_VIOL_KEY_ACCESS
    | .thermalWrite => s.violate SEC_VIOL_THERMAL_WRITE
    | .tableWrite => if s.admitted ∨ 6 ≤ s.startStep then s.violate SEC_VIOL_TABLE_WRITE else s
    | .variant v => if s.admittedVar v then s else s.raiseVarReq v)

/-! ### Arming injection (R409) -/

/-- Points whose occurrence no command brings are effective as soon as they are armed: the absence of REFCLK, and the
next TLP of an IDE stream (R408). Log entry 54 (DEDUCED). -/
def State.fireAtOnce (s : State) (a : Armed) : State :=
  if a.point = 0x1A then
    let s := s.fired
    if a.arg < 5 ∨ s.isSet TB_STAT_REFCLK_HOLD then s
    else
      let s := { s with tb := { s.tb with holdRods := 0, refBack := false, refInj := some ((a.arg + 99) / 100) } }
      (s.put TB_FAULT_REFCLK_LOSS 1).put TB_STAT_REFCLK_HOLD 1
  else if a.point = 0x1F ∧ s.sec.ide ≠ [] then s.fired.ideFails
  else s

/-- The armed point is taken back, with its mark in the core. -/
def State.disarm (s : State) : State :=
  match s.faults.armed with
  | none => s
  | some a =>
    let s := { s with faults := { s.faults with armed := none } }.put INJ_STAT_ARMED 0
    if pointOnCore a.point ∨ pointOnEngine a.point then
      (s.putAt (coreI a.core) LINJ_STAT_ARMED 0).putAt (coreI a.core) LINJ_STAT_POINT 0
    else s

/-- INJ_ARM: a write of INJ_CTRL; ARM arms the point of INJ_SEL while ENABLE is 1 (R409, R424, R425). -/
def execInjArm (w : Wr) (s : State) : Host.Outcome State Fault Refusal :=
  let (s, d) := s.write w INJ_CTRL_ARM.addr
  .next (if acts d INJ_CTRL_ARM ∧ s.isSet INJ_CTRL_ENABLE then
      let s := s.disarm
      let a : Armed := ⟨s.fld INJ_SEL_POINT, s.fld INJ_SEL_CORE, s.fld INJ_SEL_UNIT, s.fld INJ_ARG_VALUE⟩
      let s := { s with faults := { s.faults with armed := some a } }.put INJ_STAT_ARMED 1
      let s := if (pointOnCore a.point ∨ pointOnEngine a.point) ∧ a.core < 800 then
          (s.putAt (coreI a.core) LINJ_STAT_ARMED 1).putAt (coreI a.core) LINJ_STAT_POINT a.point
        else s
      s.fireAtOnce a
    else s)

end Sys2Proof.Machine
end

