-- ==== Sys2Proof/Machine/Registers.lean ====
section
/-! DEFINITION. The register interface (R461 to R477, R480): what a read returns, register writes, the wide mailboxes, the
configuration CRC, MSI-X, and the fault summary. -/
namespace Sys2Proof.Machine

/-! ### What a read returns -/

/-- A field's value placed in a word. -/
def Fld.of (f : Fld) (v : Nat) : Word := setBits 0 f.hi f.lo v
def bitOf (b : Bool) : Nat := if b then 1 else 0
/-- The low n bits of an integer. -/
def lowBits (n : Nat) (v : Int) : Nat := (BitVec.ofInt n v).toNat

/-- The trim, drift and temperature words that ASZ_TRIM_SEL selects (R152); LAST_T is rounded down.
Log entry 82 (DESIGN CHOICE). -/
def State.trimData (s : State) (a : Nat) : Word :=
  let core := s.fld ASZ_TRIM_SEL_CORE
  let eng := s.fld ASZ_TRIM_SEL_ENG
  let tier := s.fld ASZ_TRIM_SEL_TIER
  let band := s.fld ASZ_TRIM_SEL_BAND
  let k := s.fld ASZ_TRIM_SEL_CONV
  if 800 ≤ core then 0
  else if a = ASZ_TRIM_DATA_G.addr then
    if 32 < k then 0
    else
      let c := s.conv core eng band k
      ASZ_TRIM_DATA_G.of (lowBits 14 c.g) ||| ASZ_TRIM_DATA_O.of (lowBits 10 c.o)
  else
    let b := s.band core eng tier band
    if a = ASZ_DRIFT_DATA_K_AGE.addr then
      ASZ_DRIFT_DATA_K_APPLIED.of (lowBits 12 b.applied) ||| ASZ_DRIFT_DATA_K_AGE.of (lowBits 12 b.kAge)
    else
      let t := match (s.tierCal core eng tier).lastT with | some t => (t * 256).floor | none => 0
      ASZ_TEMPCO_DATA_LAST_T.of (lowBits 16 t) ||| ASZ_TEMPCO_DATA_KAPPA.of (lowBits 16 b.kappa)

/-- ATT_ROLE of a core (R312): lane core, merge core or ring core, from the image's declarations. -/
def State.attRole (s : State) (core : Nat) : Word :=
  match s.logicalOf core with
  | none => 0
  | some l =>
    let lanes := s.boot.image.kvLayers.flatMap (fun k => k.lanes.map (fun x => (k.loc, x)))
    let merges := s.boot.image.kvLayers.flatMap (fun k => k.merge.map (fun x => (k.loc, x)))
    match lanes.find? (fun x => x.2.2.1 = l), merges.find? (fun x => x.2.2 = l) with
    | some x, _ => ATT_ROLE_LANE.of x.2.1 ||| ATT_ROLE_LAYER.of x.1 ||| ATT_ROLE_ROLE.of 1
    | none, some x => ATT_ROLE_HEAD.of x.2.1 ||| ATT_ROLE_LAYER.of x.1 ||| ATT_ROLE_ROLE.of 2
    | none, none => if s.boot.image.ringDecls.any (fun r => r.ringCores.contains l) then ATT_ROLE_ROLE.of 3 else 0

/-- RTV_STAT, RTV_FLIP_STAT and the epoch registers of the selected corpus (R460). -/
def State.rtvStat (s : State) : Word :=
  let mask := ((List.range 16).map (fun c => if s.corpusEpoch c = 0 then 0 else 2 ^ c)).sum
  RTV_STAT_QUEUE.of s.rtv.queue.length ||| RTV_STAT_RUNNING.of (bitOf (s.sched.running && decide (mask ≠ 0))) |||
    RTV_STAT_IN_FORCE.of mask
def State.rtvFlipStat (s : State) (w : Word) : Word :=
  let n := s.fld RTV_FLIP_CORPUS
  match s.corpus? n with
  | none => w
  | some c => w ||| RTV_FLIP_STAT_PREV_HELD.of (bitOf (!(s.corpusRole c 2).isEmpty)) |||
      RTV_FLIP_STAT_PENDING.of (bitOf (s.rtv.flips.any (fun f => f.1 = n))) ||| RTV_FLIP_STAT_READY.of (bitOf (s.corpusReady c))

/-- A register of a core block or of one of its units, with the bits that other state gives. -/
def State.coreDerived (s : State) (a a0 : Nat) (w : Word) : Word :=
  let n := coreOf a
  if a0 = CORE_STAT_RUNNING.addr then w ||| CORE_STAT_RUNNING.of (bitOf (s.coreRunning n))
  else if a0 = ENG_STAT_RUNNING.addr then
    w ||| ENG_STAT_RUNNING.of (bitOf (s.engRunning n (engOf a))) ||| ENG_STAT_SUBST.of (bitOf (!(s.engine n (engOf a)).retired.isEmpty))
  else if a0 = ENG_ASZ_STAT_GROUP.addr then
    w ||| ENG_ASZ_STAT_GROUP.of (s.trimGroup n (engOf a)) ||| ENG_ASZ_STAT_STEP.of (bitOf (s.stepMode n (engOf a)))
  else if a0 = ENG_EPOCH_DATA_EPOCH.addr then
    ENG_EPOCH_DATA_EPOCH.of (s.tier n (engOf a) (s.fldAt (engI n (engOf a)) ENG_EPOCH_SEL_TIER)).epoch
  else if a0 = ENG_PROG_CNT_COUNT.addr then
    ENG_PROG_CNT_COUNT.of (s.tier n (engOf a) (s.fldAt (engI n (engOf a)) ENG_EPOCH_SEL_TIER)).progCount
  else if a0 = RTR_STAT_CORE_OFF.addr then w ||| RTR_STAT_CORE_OFF.of (bitOf (s.domainOff n))
  else if a0 = RTR_LOAD_A_FLITS.addr then RTR_LOAD_A_FLITS.of (min 65535 (SMap.get (fun _ => 0) s.mesh.lastPeak (rtrKey n false)))
  else if a0 = RTR_LOAD_B_FLITS.addr then RTR_LOAD_B_FLITS.of (min 65535 (SMap.get (fun _ => 0) s.mesh.lastPeak (rtrKey n true)))
  else if a0 = ATT_ROLE_ROLE.addr then s.attRole n
  else if a0 = RTR_CTRL_MARK_A.addr then
    w ||| RTR_CTRL_MARK_A.of (bitOf (s.mesh.marks.contains (rtrKey n false))) |||
      RTR_CTRL_MARK_B.of (bitOf (s.mesh.marks.contains (rtrKey n true)))
  else w

/-- A register of another block, with the bits that other state gives. -/
def State.derived (s : State) (a0 : Nat) (w : Word) : Word :=
  if a0 = ASZ_TRIM_DATA_G.addr ∨ a0 = ASZ_DRIFT_DATA_K_AGE.addr ∨ a0 = ASZ_TEMPCO_DATA_KAPPA.addr then s.trimData a0
  else if a0 = RQT_STAT_ENTRY.addr then w ||| RQT_STAT_ENTRY.of (bitOf s.boot.image.entry)
  else if a0 = RQT_IRQ_CFG_VECTOR.addr then
    w ||| RQT_IRQ_CFG_VECTOR.of (((s.boot.image.rings.find? (fun r => r.region = s.boot.image.pathRegion)).map RingPair.vector).getD 0)
  else if a0 = SEC_STAT_ENG_SAMPLE.addr then w ||| SEC_STAT_ENG_SAMPLE.of Config.engSample.toNat
  else if a0 = SEC_WDOG_LEFT.addr then SEC_WDOG_LEFT.of ((s.sec.wdogLimit - s.sec.wdog) / 2)
  else if a0 = RTV_STAT_QUEUE.addr then s.rtvStat
  else if a0 = RTV_FLIP_STAT_READY.addr then s.rtvFlipStat w
  else if a0 = RTV_EPOCH_EPOCH.addr then RTV_EPOCH_EPOCH.of (s.corpusEpoch (s.fld RTV_FLIP_CORPUS))
  else if a0 = RTV_EPOCH_PEND_EPOCH.addr then
    match s.corpus? (s.fld RTV_FLIP_CORPUS) with
    | some c => RTV_EPOCH_PEND_EPOCH.of (s.corpusPend c)
    | none => 0
  else if a0 = THM_DATA_TEMP.addr then
    let x := s.therm? (s.fld THM_SEL_SENSOR)
    if 87 < s.fld THM_SEL_SENSOR then 0
    else THM_DATA_TEMP.of (tempBits (x.last.getD 0)) ||| THM_DATA_REASON.of x.ignored
  else if a0 = CFG_CRC_CTRL_ADOPT.addr then w ||| CFG_CRC_CTRL_ADOPT.of (bitOf s.crc.adopt)
  else if a0 = PWR_RAIL_DATA_MV.addr then PWR_RAIL_DATA_MV.of (Config.railMv (s.fld PWR_RAIL_SEL_POINT) s.freeCtr).toNat
  else w

/-- The mailbox of a port (R466). -/
def State.box (s : State) (p : PortId) : Mailbox := match p with | .host => s.hostBox | .controlCore => s.coreBox
def State.setBox (s : State) (p : PortId) (b : Mailbox) : State :=
  match p with
  | .host => { s with hostBox := b }
  | .controlCore => { s with coreBox := b }

/-- WIDE_SEL, WIDE_STAT and WIDE_D as a port reads them (R469). Log entry 72 (DESIGN CHOICE). -/
def Mailbox.read (b : Mailbox) (a : Nat) : Word :=
  if a = WIDE_SEL_ADDR.addr then WIDE_SEL_ADDR.of (b.addr / 4)
  else if a = WIDE_STAT_BUSY.addr then
    WIDE_STAT_WORDS.of b.words ||| WIDE_STAT_ERR.of (bitOf b.err) ||| WIDE_STAT_BUSY.of (bitOf b.busy) ||| WIDE_STAT_VALID.of (bitOf b.valid)
  else b.data.getD ((a - WIDE_D_DATA.addr) / 4) 0

/-- A 32-bit read of a BAR0 address through a port (R12, R463, R466, R468, R469). Log entries 4 (DESIGN CHOICE), 72 (DESIGN CHOICE). -/
def State.readReg (s : State) (p : PortId) (a : Nat) : Word :=
  match locate a, regAt a with
  | some (b, a0), some r =>
    if r.wide then 0
    else if inCoreDomain r ∧ s.domainOff (coreOf a) then 0
    else if WIDE_SEL_ADDR.addr ≤ a ∧ a < 0x150 then (s.box p).read a
    else match b with
      | .core | .eng | .mxu | .pw | .rtr | .linj => s.coreDerived a a0 (s.rd a)
      | .lnk =>
        if a0 = LNK_CTRL_RETRAIN.addr then
          s.rd a ||| LNK_CTRL_RETRAIN.of (bitOf (s.port ((a - 0x200000) / 0x4000)).retrain)
        else s.derived a0 (s.rd a)
      | _ => s.derived a0 (s.rd a)
  | _, _ => if inMonBuffer a then SMap.get (fun _ => 0) s.mon.buf ((a - 0x120000) / 4) else 0

/-! ### Register writes (R12 to R18, R463, R467, R473) -/

/-- What follows a write of MON_CTRL (R146, R147, R150): conversions run while RUN is 1, from entry 0; clearing REF_EN ends
the settled reference. -/
def State.monCtrl (s : State) : State :=
  let run := s.isSet MON_CTRL_RUN
  let s := if run ∧ !s.isSet MON_STAT_RUNNING then { s with mon := { s.mon with entry := 0, refBad := false, refRead := false } } else s
  let s := s.flag MON_STAT_RUNNING run
  if s.isSet MON_CTRL_REF_EN then s else s.put MON_STAT_REF_SETTLED 0

/-- The W1C bits of PWR_FLAG whose condition still stands are set again (R13): an input outside 54 to 62 V, a regulator fault (R479). -/
def State.standing (s : State) : State :=
  let s := (s.raiseIfAt 0 PWR_FLAG_VIN_LOW s.therm.inputLow).raiseIfAt 0 PWR_FLAG_VIN_HIGH (decide (62000 < s.fld PWR_VIN_VIN))
  s.raiseIfAt 0 PWR_FLAG_REG_FAULT (s.isSet PWR_STAT_REG_FAULT)

/-- A write to a register without a row of its own. -/
def State.plainWrite (s : State) (a : Nat) (w : Wr) : State :=
  let (s, d) := s.write w a
  let s := if d.isSome ∧ a = MON_CTRL_RUN.addr then s.monCtrl else s
  (if a = PWR_FLAG_VIN_LOW.addr then s.standing else s).settle

/-- CFG_SEAL_SET: a write of GLB_LOCK (R14, R17, R473). -/
def execCfgSealSet (w : Wr) (s : State) : Host.Outcome State Fault Refusal :=
  .next (s.write w GLB_LOCK_CFG_SEAL.addr).1

/-- WIDE_SEL_WRITE: a snapshot starts in the port's own mailbox, and abandons one in progress (R469). -/
def execWideSelWrite (w : Wr) (s : State) : Host.Outcome State Fault Refusal :=
  let (s, d) := s.write w WIDE_SEL_ADDR.addr
  .next (match d with
    | some x => s.setBox w.port { s.box w.port with addr := wbits x WIDE_SEL_ADDR * 4, busy := true, valid := false }
    | none => s)

/-- The words of a request table entry (R323). -/
def reqState (r : ReqState) : Nat :=
  match r with
  | .free => 0 | .intake => 1 | .prefill => 2 | .decode => 3 | .paused => 4 | .draining => 5 | .cancelled => 6 | .done => 7
def Req.entry (r : Req) : List Nat := [
  r.handle.toNat, r.seed.toNat,
  r.voidrun % 8 * 2 ^ 61 + r.prio % 8 * 2 ^ 58 + r.gen % 128 * 2 ^ 51 + reqState r.state * 2 ^ 48 + r.deadline % 2 ^ 48,
  r.nrows % 16 * 2 ^ 57 + r.row % 32 * 2 ^ 52 + r.seat % 256 * 2 ^ 44 + r.lT % 2 ^ 22 * 2 ^ 22 + r.lC % 2 ^ 22,
  r.region % 16 * 2 ^ 59 + r.resume % 8 * 2 ^ 56 + bitOf r.egHold * 2 ^ 55 + bitOf r.hostHold * 2 ^ 54 + bitOf r.spec * 2 ^ 53 +
    bitOf r.pen * 2 ^ 52 + r.code % 256 * 2 ^ 44 + r.nMax % 2 ^ 22 * 2 ^ 22 + r.p % 2 ^ 22,
  bitOf r.adapterEn * 2 ^ 60 + r.adapterSlot % 4096 * 2 ^ 48 + r.adapterVer % 65536 * 2 ^ 32 + r.epoch % 2 ^ 32,
  r.sampPtr % 2 ^ 32 * 2 ^ 32 + r.ptBase % 2 ^ 32,
  r.stopPtr % 2 ^ 32 * 2 ^ 32 + r.countPtr % 2 ^ 32]

/-- The value of a wide register as 32-bit words; `none` where the address names none (R470). Log entry 72 (DESIGN CHOICE). -/
def State.wide (s : State) (a : Nat) : Option (List Word) :=
  let two := fun (v : Nat) => [BitVec.ofNat 32 v, BitVec.ofNat 32 (v / 2 ^ 32)]
  if a = TB_ROD_COUNT.addr then some (two s.tb.rod)
  else if a = TB_VAR_AT_ROD.addr then
    some (two (match s.sched.switches with | [] => 0 | w :: _ => w.atMile * 320 % rodP))
  else if a = SEC_DIE_ID_ID.addr then some (two Config.dieId.toNat)
  else if a = RQT_ENTRY_ENTRY.addr then some ((s.req (s.fld RQT_SEL_SLOT)).entry.flatMap two)
  else if 0x200000 ≤ a ∧ a < 0x300000 ∧ (a - 0x200000) % 0x4000 = 0x40 then
    some (two (s.port ((a - 0x200000) / 0x4000)).partnerId.toNat)
  else none

/-- WIDE_SNAPSHOT_DONE (R469). -/
def execWideSnapshotDone (port : PortId) (s : State) : Host.Outcome State Fault Refusal :=
  let b := s.box port
  .next (if !b.busy then s
    else match s.wide b.addr with
      | some ws => s.setBox port { b with busy := false, valid := true, err := false, words := ws.length - 1,
                                          data := ws ++ List.replicate (16 - ws.length) 0 }
      | none => s.setBox port { b with busy := false, valid := true, err := true, words := 0, data := List.replicate 16 0 })

/-! ### The configuration CRC (R474 to R476) -/

/-- The BAR0 addresses of the covered instances, ascending. -/
def coveredAddrs : List Nat :=
  [GLB_FAULT_MASK_EN.addr, TB_PREC_THR_THRESH.addr, MON_CTRL_RUN.addr, ASZ_MODE_STEP.addr, THM_SKIP_AT_TEMP.addr, PWR_CAP_CAP.addr] ++
  (List.range 64).map (fun p => LNK_CTRL_DISABLE.addr + lnkI p) ++
  [RQT_CTRL_INTAKE_EN.addr, RQT_IRQ_CFG_ENABLE.addr, INJ_CTRL_ENABLE.addr] ++
  (List.range 800).flatMap (fun n =>
    (List.range 8).flatMap (fun e => [ENG_WIT_CFG_TOL.addr + engI n e, ENG_CONV_CFG_DITHER_OFF.addr + engI n e]) ++
    [RTR_CTRL_MARK_A.addr + coreI n])

/-- What one covered instance contributes: the value last written, under its cover mask; 0 while its core domain is off. -/
def State.coverWord (s : State) (a : Nat) : Word :=
  match regAt a with
  | none => 0
  | some r => if inCoreDomain r ∧ s.domainOff (coreOf a) then 0 else s.rd a &&& BitVec.ofNat 32 r.coverMask

def State.configCrc (s : State) : Word :=
  crc32c (coveredAddrs.flatMap (fun a => leBytes 4 (s.coverWord a).toNat))

/-- A commit (R476): the reference in force, OPEN clear, ARMED set, a waiting ADOPT cancelled. Log entry 56 (DEDUCED). -/
def State.crcCommit (s : State) (ref : Word) : State :=
  let s := ((s.put CFG_CRC_INF_REF ref.toNat).put CFG_CRC_CTRL_OPEN 0).put CFG_CRC_CTRL_ARMED 1
  { s with crc := ⟨false, false, none⟩ }

/-- A write of CFG_CRC_CTRL: COMMIT takes precedence over ADOPT; ALARM is cleared by a 1 (R476, R477); an ADOPT that still
waits is not started again (R13). Log entry 56 (DEDUCED). -/
def State.crcCtrl (s : State) (w : Wr) : State :=
  let (s, d) := s.write w CFG_CRC_CTRL_COMMIT.addr
  if acts d CFG_CRC_CTRL_COMMIT then s.crcCommit (s.rd CFG_CRC_REF_REF.addr)
  else if acts d CFG_CRC_CTRL_ADOPT ∧ !s.crc.adopt then { s with crc := { s.crc with adopt := true, adoptPass := false } }
  else s

/-- CFG_CRC_COMMIT. -/
def execCfgCrcCommit (w : Wr) (s : State) : Host.Outcome State Fault Refusal := .next (s.crcCtrl w)
/-- CFG_CRC_ADOPT. -/
def execCfgCrcAdopt (w : Wr) (s : State) : Host.Outcome State Fault Refusal := .next (s.crcCtrl w)

/-- The alarm of R475. -/
def State.crcAlarm (s : State) (injected : Bool) : State :=
  ((s.put CFG_CRC_CTRL_ALARM 1).add CFG_CRC_CTRL_ALARMS 1).faultRecord ⟨0x1E, 0, 0, 0, 0, 0, 0, s.tb.rod, injected⟩

/-- CRC_PASS_END: a pass has read every covered instance (R475, R476). Log entry 56 (DEDUCED). -/
def execCrcPassEnd (s : State) : Host.Outcome State Fault Refusal :=
  .next (if !s.isSet SEC_STAT_RUNNING then s
    else
      let (s, inj) := s.tryInject 0x1E 0 0
      let cur := s.configCrc ^^^ (match inj with | some a => (1 : Word) <<< (a % 32) | none => 0)
      let s := s.put CFG_CRC_CUR_CRC cur.toNat
      if s.crc.adopt ∧ s.crc.adoptPass then (s.crcCommit cur).put CFG_CRC_CTRL_MATCH 1
      else
        let s := if s.crc.adopt then { s with crc := { s.crc with adoptPass := true } } else s
        if !s.isSet CFG_CRC_CTRL_ARMED then s
        else
          let ok := decide (cur = s.rd CFG_CRC_INF_REF.addr)
          let s := s.flag CFG_CRC_CTRL_MATCH ok
          let late := match s.crc.openRod with | some r => decide (r + 1024 ≤ s.sec.clockRods) | none => true
          if !ok ∧ (!s.isSet CFG_CRC_CTRL_OPEN || late) then s.crcAlarm inj.isSome else s)

/-! ### MSI-X (R461, R480) -/

/-- MSIX_TABLE_WRITE: host software masks or unmasks a vector in the BAR2 table; unmasking sends a pending message. In
chrysalis mode the host function serves BAR0 reads and the DOE mailbox only (R421). Log entry 6 (PRESUMED). -/
def execMsixTableWrite (vector : Fin 64) (mask : Bool) (s : State) : Host.Outcome State Fault Refusal :=
  let v := vector.val
  .next (if s.fld GLB_STATE_STATE = 2 then s
    else if mask then { s with msix := { s.msix with unmasked := s.msix.unmasked.filter (· ≠ v) } }
    else
      let un := if v ∈ s.msix.unmasked then s.msix.unmasked else s.msix.unmasked ++ [v]
      let s := { s with msix := { s.msix with unmasked := un } }
      if v ∈ s.msix.pend then
        { s with msix := { s.msix with pend := s.msix.pend.filter (· ≠ v) } }.sendVector v
      else s)

/-! ### REGISTER_WRITE -/

/-- REGISTER_WRITE: a write through a port. At the address of a register whose action bits have rows of their own, the write
has those rows' effect (R12, R462, R463). -/
def execRegisterWrite (addr : Nat) (w : Wr) (s : State) : Host.Outcome State Fault Refusal :=
  let a0 := match locate addr with | some (_, x) => x | none => 0x8000000
  if a0 = TB_VAR_REQ_REQ.addr then execTbVarReq w s
  else if a0 = ASZ_FORCE_ROUND.addr then execAszForceRound w s
  else if a0 = MON_TB_SEL_CAPTURE.addr then execTestBusCaptureArm w s
  else if a0 = RTR_CTRL_MARK_A.addr then
    if h : coreOf addr < 800 then execRtrMarkA ⟨coreOf addr, h⟩ w s else .next s
  else if a0 = LNK_CTRL_RETRAIN.addr then
    if h : (addr - 0x200000) / 0x4000 < 64 then execLnkRetrain ⟨(addr - 0x200000) / 0x4000, h⟩ w s else .next s
  else if a0 = RQT_CTRL_INTAKE_EN.addr then execIntakeEnWrite w s
  else if a0 = LD_CTRL_START.addr then execLdStart w s
  else if a0 = LD_FLIP_REQ.addr then execLdFlipReq w s
  else if a0 = SEC_WDOG_KICK.addr then execSecWdogKick w s
  else if a0 = TRAP_CTRL_LOAD.addr then execTrapLoad w s
  else if a0 = INJ_CTRL_ARM.addr then execInjArm w s
  else if a0 = RTV_FLIP_REQ.addr then execRtvFlipReq w s
  else if a0 = GLB_LOCK_CFG_SEAL.addr then execCfgSealSet w s
  else if a0 = WIDE_SEL_ADDR.addr then execWideSelWrite w s
  else if a0 = CFG_CRC_CTRL_COMMIT.addr then execCfgCrcCommit w s
  else .next (s.plainWrite addr w)

/-! ### The fault summary (R477, R480) -/

/-- Some register at offset `f.addr` of the instances of a block has a bit of the mask set. -/
def State.anyInst (s : State) (lo hi stride : Nat) (addr : Nat) (mask : Nat) : Bool :=
  s.regs.any (fun e => decide (lo ≤ e.1 ∧ e.1 < hi ∧ (e.1 - lo) % stride = (addr - lo) % stride) && decide (e.2.toNat &&& mask ≠ 0))

/-- The sixteen sources of GLB_FAULT_SUM, bit 0 first. -/
def State.faultSources (s : State) : List Bool :=
  let any := fun (a : Nat) (m : Nat) => decide ((s.rd a).toNat &&& m ≠ 0)
  let core := fun (a m : Nat) => s.anyInst 0x1000000 0x4200000 0x10000 a m
  let eng := fun (a m : Nat) => s.regs.any (fun e =>
    (match locate e.1 with | some (.eng, a0) => decide (a0 = a) | _ => false) && decide (e.2.toNat &&& m ≠ 0))
  [any TB_FAULT_PEER_TIME.addr 0x3F || s.isSet TB_STAT_TIME_FAIL,
   s.isSet CFG_CRC_CTRL_ALARM,
   s.isSet CFG_WREF_VALID,
   any SEC_VIOL_WDOG.addr 0x7F,
   core CS_FLAG_UE.addr 2 || core MXU_FLAG_RES_ERR.addr 4 || eng ENG_OUT_FLAG_RES_ERR.addr 4 || core CORE_FAULT_REPAIR.addr 7,
   s.anyInst 0x200000 0x300000 0x4000 LNK_FLAG_LOSS.addr 0xF,
   (List.range 16).any (fun k => s.isSetAt (stkI k) STK_STAT_HOT) ||
     (decide (3 ≤ s.fld GLB_STATE_STEP) && (List.range 16).any (fun k => !s.isSetAt (stkI k) STK_STAT_IN_SERVICE)),
   s.isSet THM_STAT_HEAT || s.isSet THM_STAT_SKIPPING || s.isSet THM_STAT_IGNORED,
   any PWR_FLAG_CAP_MISS.addr 0xF,
   s.isSet MON_STAT_REF_FAIL || s.isSet MON_STAT_OVR,
   s.isSet ASZ_STAT_DARK || s.isSet ASZ_STAT_REF_DISTRUST || any ASZ_TIER_CNT_BEYOND.addr 0xFFFFFFFF,
   decide (s.fld TB_ADM_STAT_STATE = 3),
   decide (s.fld GLB_STATE_STATE = 2),
   s.isSet LD_STAT_FAILED || s.isSet TRAP_STAT_FAILED,
   any RQT_FLAG_REFUSED.addr 0x1F,
   any GLB_ACC_ERR_UNMAPPED.addr 7]

def bitsOf (l : List Bool) : Nat := l.foldr (fun b n => 2 * n + bitOf b) 0

/-- GLB_FAULT_SUM follows its sources at a rod boundary; vector 16 is sent when a bit of GLB_FAULT_MASK rises (R477, R480). Log entry 76 (DEDUCED). -/
def State.faultSum (s : State) : State :=
  let old := (s.rd GLB_FAULT_SUM_TIME.addr).toNat
  let new := bitsOf s.faultSources
  let rise := new &&& (0xFFFF ^^^ old) &&& s.fld GLB_FAULT_MASK_EN
  let s := s.wr GLB_FAULT_SUM_TIME.addr (BitVec.ofNat 32 new)
  if rise = 0 then s else s.sendVector 16

end Sys2Proof.Machine
end

