-- ==== Sys2Proof/Machine/Admission.lean ====
section
/-! DEFINITION. Admission (R210 to R215): the checks of every code over the image's declarations and the capability record,
and the outcome. -/
namespace Sys2Proof.Machine

/-! ### The timing model (R56, R59, R113, R123, R159, R197 to R199, R277, R296, R398, R455) -/

def ceilDiv (a b : Nat) : Nat := (a + b - 1) / b

/-- The maximum of a matrix product M x K by K x N in a tile shape (R159). -/
def mxuMax (m k n tm tn tk : Nat) : Nat := 16 + ceilDiv m tm * ceilDiv n tn * ceilDiv k tk

/-- The maximum of a slot's operation, in cycles. -/
def SlotOp.price : SlotOp → Nat
  | .engine t n p => 32 * t + 160 * n * p
  | .repeatWindow n => 44 + 160 * n
  | .calibration => 696
  | .patrol b => 56 + 640 * b
  | .vectorPatrol => 256
  | .matrix _ _ m k n tm tn tk => mxuMax m k n tm tn tk
  | .elementwise l => 8 + ceilDiv l 64
  | .special l => 12 + ceilDiv l 16
  | .reduction l => 14 + ceilDiv l 64
  | .grants c => 16 + c
  | .combine a => 24 + a
  | .mesh h k => 8 + 2 * h + k
  | .rowBroadcast k => 16 + k
  | .colBroadcast k => 12 + k
  | .stack => 1350
  | .span z hw g d _ _ tm tn tk =>
    24 + z * hw * (mxuMax g d 64 tm tn tk + mxuMax g 64 d tm tn tk + (40 + 6 * g + ceilDiv (g * d) 64))
  | .searchRound => 480
  | .pageWalk hits misses => 4 * hits + 2720 * misses
  | .free => 0

/-- Cycles of a rod, a furlong and a mile (R5, R7). -/
def rodCyc : Nat := 2700
def furlongCyc : Nat := 108000
def mileCyc : Nat := 864000

def Slot.start (x : Slot) (i : Nat) : Nat := x.startRod * rodCyc + x.startCyc + i * x.stride
def Slot.ends (x : Slot) (i : Nat) : Nat := x.start i + x.len
def Slot.issues (x : Slot) : List Nat := List.range (x.repeats + 1)
def Slot.lastEnd (x : Slot) : Nat := x.ends x.repeats

/-- A slot's reserved time contains a furlong boundary (R125). -/
def containsBoundary (a b : Nat) : Bool := decide (a / furlongCyc < (b - 1) / furlongCyc)
def Slot.crosses (x : Slot) : Bool := x.issues.any (fun i => containsBoundary (x.start i) (x.ends i))

/-- Two slots occupy cycles in common. -/
def Slot.meets (x y : Slot) : Bool :=
  x.issues.any (fun i => y.issues.any (fun j => decide (x.start i < y.ends j ∧ y.start j < x.ends i)))

/-- Two issues of one slot occupy cycles in common. -/
def Slot.selfMeets (x : Slot) : Bool := decide (0 < x.repeats ∧ x.stride < x.len)

/-- The trained width of a logical port; 0 while it is not active (R211) or refuses data frames (R185). -/
def State.widthOf (s : State) (lp : Nat) : Nat :=
  match s.physPort lp with
  | some q => if (s.port q).refuseData then 0 else s.lnk q LNK_STAT_WIDTH
  | none => 0

/-- The maximum of a transfer (R198); none where the port carries nothing. Log entry 32 (DESIGN CHOICE). -/
def State.hopMax (s : State) : Hop → Option Nat
  | .mesh h k => some (8 + 2 * h + k)
  | .rowBus k => some (16 + k)
  | .colBus k => some (12 + k)
  | .fabric p f d =>
    let w := s.widthOf p
    if w = 0 then none else some (700 + ceilDiv ((32 + 72 * f) * 27) (250 * w) + ceilDiv (27 * d) 2)
  | .stack => some 1350
  | .walk => some 2720
  | .output => some 40
  | .host => some (s.boot.image.hostReadRods * rodCyc)
  | .hostWrite => some (2 * rodCyc)

def State.pathMax (s : State) (l : List Hop) : Option Nat :=
  l.foldl (fun t h => match t, s.hopMax h with | some a, some b => some (a + b) | _, _ => none) (some 0)

/-! ### The checks (R215) -/

/-- The first element of a list that fails, by index. -/
def firstBad {α : Type} (l : List α) (bad : α → Bool) : Option Nat := l.findIdx? bad

/-- A directory entry of an expert layer breaks R267. -/
def badEntry (e : Nat) : Bool :=
  decide (e / 2 ^ 55 % 4 = 3) || decide (32 < e / 2 ^ 50 % 32 + dirAllot e) || (!dirValid e && decide (dirAllot e ≠ 0))

/-- The blocks of two sources of one expert, within this module's dispatching cores. -/
def Image.blocksClash (im : Image) (l : ExpertLayer) : Bool :=
  let others := im.experts.filter (fun m => m.layer = l.layer ∧ m.core ≠ l.core)
  l.entries.zipIdx.any (fun e =>
    let mine := (e.1 / 2 ^ 50 % 32, dirAllot e.1)
    let rest := others.map (fun m => m.entries.getD e.2 0)
    rest.any (fun o => decide (mine.1 < o / 2 ^ 50 % 32 + dirAllot o ∧ o / 2 ^ 50 % 32 < mine.1 + mine.2 ∧ 0 < mine.2 ∧ 0 < dirAllot o)) ||
    decide (32 < mine.2 + (rest.map dirAllot).sum))

def Image.badExperts (im : Image) (l : ExpertLayer) : Bool :=
  decide (l.experts < 1 ∨ 512 < l.experts ∨ l.k < 1 ∨ 8 < l.k ∨ l.experts < l.k ∨ 4 < l.shared.length) || l.entries.any badEntry ||
    im.blocksClash l

/-- An answer row outside the 32 of its token, or shared by two block rows of one step (R268). -/
def Image.badExchange (im : Image) (x : Exchange) : Bool :=
  decide (31 < x.row) || im.exchange.any (fun y => decide (y.layer = x.layer ∧ y.comb = x.comb ∧ y.token = x.token ∧ y.row = x.row ∧
    (y.expert ≠ x.expert ∨ y.blockRow ≠ x.blockRow)))

/-- Fields of a descriptor out of the ranges of R189, or a token 255 with a buffer (R193). -/
def Slot.bad (x : Slot) : Bool :=
  decide (2559 < x.startRod ∨ 2699 < x.startCyc ∨ x.len = 0 ∨ 864000 < x.len ∨ 255 < x.repeats ∨ 2 ^ 20 ≤ x.stride ∨ 4 < x.ins.length)

/-- The tile shapes m x n x k that the matrix unit has for its operand formats (R155). -/
def shapeOk (a b : NumFmt) (tm tn tk : Nat) : Bool :=
  pairOk a b && (if a = .bf16 then decide ((tm, tn, tk) ∈ [(16, 16, 1), (8, 32, 1), (1, 32, 8)])
    else decide ((tm, tn, tk) ∈ [(32, 16, 1), (16, 32, 1), (8, 64, 1), (1, 64, 8)]))

/-- A slot's operation that no unit has: a shape outside R155, or a mesh transfer of more than 58 hops (R198). -/
def SlotOp.bad : SlotOp → Bool
  | .matrix a b _ _ _ tm tn tk | .span _ _ _ _ a b tm tn tk => !shapeOk a b tm tn tk
  | .mesh h _ => decide (58 < h)
  | .engine _ _ _ | .repeatWindow _ | .calibration | .patrol _ | .vectorPatrol | .elementwise _ | .special _ | .reduction _
  | .grants _ | .combine _ | .rowBroadcast _ | .colBroadcast _ | .stack | .searchRound | .pageWalk _ _ | .free => false

/-- A step of a path beyond the reach of R198: 58 hops, 100 metres of fibre. -/
def Hop.bad : Hop → Bool
  | .mesh h _ => decide (58 < h)
  | .fabric _ _ d => decide (100 < d)
  | .rowBus _ | .colBus _ | .stack | .walk | .output | .host | .hostWrite => false

/-- A ring list that breaks R305: 2 to 16 members, each once, with a direct port of this member to its successor in the
ring's region, and a pair time of 1 to 64 miles. -/
def Image.badRing (im : Image) (self : Nat × Nat) (r : Ring) : Bool :=
  let next := r.members.getD ((r.members.idxOf self + 1) % r.members.length) (0, 0)
  decide (r.members.length < 2 ∨ 16 < r.members.length ∨ r.members.eraseDups.length ≠ r.members.length ∨ r.pair < 1 ∨ 64 < r.pair) ||
  (r.members.contains self && !im.ports.any (fun p => decide ((p.group, p.module) = next ∧ p.region = r.region)))

/-- The modules within n links of a set of modules (R237). -/
def Image.reach (im : Image) : Nat → List (Nat × Nat) → List (Nat × Nat)
  | 0, l => l
  | n + 1, l => im.reach n (l ++ (im.links.filterMap (fun x =>
      if l.contains x.a then some x.b else if l.contains x.b then some x.a else Option.none)).filter (fun m => !l.contains m))

/-- The deployment's plan breaks a condition of R237: groups 0 to 15 of modules 0 to 35, every two modules of a group joined over
the backplane, every two groups by optical cable, and a diameter of at most 4. -/
def Image.badPlan (im : Image) : Bool :=
  let groups := (im.modules.map Prod.fst).eraseDups
  let joined := fun (p q : (Nat × Nat) → Bool) (optical : Bool) => im.links.any (fun x =>
    decide (x.optical = optical) && ((p x.a && q x.b) || (p x.b && q x.a)))
  im.modules.any (fun m => decide (15 < m.1 ∨ 35 < m.2)) ||
  im.modules.any (fun m => im.modules.any (fun n => decide (m.1 = n.1 ∧ m ≠ n) && !joined (· = m) (· = n) false)) ||
  groups.any (fun g => groups.any (fun h => decide (g ≠ h) && !joined (fun m => m.1 = g) (fun m => m.1 = h) true)) ||
  im.modules.any (fun m => let near := im.reach 4 [m]; im.modules.any (fun n => !near.contains n))

/-- A flow leads from one region into another, or to no region: R228, R238. -/
def Image.flowLeaves (im : Image) (f : Flow) : Bool :=
  !im.regions.any (fun r => r.logical.contains f.src && r.logical.contains f.dst)

/-- Spans, lanes and merge cores of an attention layer outside R294, R295. -/
def KvLayer.badLanes (l : KvLayer) : Bool :=
  decide (l.span < 1 ∨ 16 < l.span ∨ l.nLanes < 1 ∨ 64 < l.nLanes ∨ l.width < 1 ∨ l.heads % l.width ≠ 0) ||
  l.lanes.any (fun e => decide (l.nLanes ≤ e.1 ∨ l.heads ≤ e.2.2)) || (List.range l.heads).any (fun h => !l.merge.any (fun e => e.1 = h))

/-- The tiles of an engine, a second one for each that is double-buffered, pass its 8 tiers (R346). -/
def Image.engineOver (im : Image) (d : TileDecl) : Bool :=
  decide (8 < ((im.tiles.filter (fun x => x.core = d.core ∧ x.engine = d.engine)).map (fun x => if x.dbl then 2 else 1)).sum)

/-- A corpus outside R447: numbers 0 to 15, each once; D of 1 to 1,024; tiles that the image declares on engines of its region, in
its format; identifiers without gap or overlap. -/
def Image.badCorpus (im : Image) (c : Corpus) : Bool :=
  let at_ := fun (b : Nat) => c.tiles.countP (fun t => t.base ≤ b && decide (b < t.base + t.n))
  decide (15 < c.num ∨ 1 < im.corpora.countP (fun x => x.num = c.num) ∨ c.dim < 1 ∨ 1024 < c.dim ∨ c.tiles = []) ||
  c.tiles.any (fun t =>
    decide (t.n = 0) || !im.regions.any (fun r => r.num = c.region && r.logical.contains t.core) ||
    !im.tiles.any (fun d => decide (d.core = t.core ∧ d.engine = t.engine ∧ d.num = t.tile ∧ d.exact = c.exact ∧ d.nAct = c.dim ∧ t.n ≤ d.cols)) ||
    -- the first identifier belongs to this tile alone, and the one before it to some tile
    decide (at_ t.base ≠ 1) || decide (t.base ≠ 0 ∧ at_ (t.base - 1) = 0) ||
    c.tiles.any (fun u => decide (t.base < u.base ∧ u.base < t.base + t.n))) ||
  decide (at_ 0 = 0)

/-- Adapter declarations outside R367, or an adapted matrix on a module outside the serving set. -/
def Image.badAdapters (im : Image) : Bool :=
  let a := im.adapters
  a.mats ≠ [] && (!im.serving || decide (a.slotBytes % 64 ≠ 0 ∨ a.dAd < 1 ∨ 32 < a.dAd ∨ a.lAd < 1 ∨ 256 < a.lAd ∨ a.rMax ∉ [8, 16, 32, 64]))

/-- A ring size of R316. -/
def ringSize (n : Nat) : Bool := (List.range 11).any (fun k => n = 64 * 2 ^ k)
/-- A ring pair outside R316 and R318. -/
def RingPair.bad (g : RingPair) : Bool :=
  !ringSize g.nIn || !ringSize g.nEg || decide (g.inAddr % (128 * g.nIn) ≠ 0 ∨ g.egAddr % (64 * g.nEg) ≠ 0) ||
  decide (15 < g.vector ∨ g.bPoll < 1 ∨ 256 < g.bPoll)

/-- 0x01 IMAGE_FORM. -/
def check01 (s : State) (v : Variant) : Option Nat :=
  let im := s.boot.image
  match im.malformed with
  | some i => some i
  | none =>
    if v.period ∉ [1, 2, 4, 8] ∨ v.cost = [] ∨ 16 < v.cost.length ∨ !(ascending (v.cost.map Prod.fst)) ∨
        v.slots.any (fun x => x.bad || x.price.bad) ∨ v.deps.any (fun d => d.path.any Hop.bad) ∨
        v.patrolShare ∉ [5, 10, 20, 40, 80] ∨ im.hostReadRods < 1 ∨ 64 < im.hostReadRods ∨
        8 < im.ringDecls.length ∨ im.ringDecls.any (im.badRing s.self) ∨ im.badPlan ∨ im.flows.any im.flowLeaves ∨ im.badAdapters then some v.num
    else [firstBad im.buffers (fun b => decide (255 ≤ b.token)), firstBad im.tiles (fun d => !d.ok || im.engineOver d),
      firstBad im.kvLayers KvLayer.badLanes, firstBad im.exchange im.badExchange, firstBad im.experts im.badExperts,
      firstBad im.corpora im.badCorpus, firstBad im.rings RingPair.bad].findSome? id

/-- A region breaks the rules of R226 on its own or against the others. -/
def Image.badRegion (im : Image) (r : Region) : Bool :=
  let edge := decide (r.i0 = 0 ∨ r.i0 + r.rows = 10 ∨ r.j0 = 0 ∨ r.j0 + r.cols = 20)
  let inside := decide (1 ≤ r.rows ∧ 1 ≤ r.cols ∧ r.i0 + r.rows ≤ 10 ∧ r.j0 + r.cols ≤ 20 ∧ r.num ≤ 15)
  let clash := im.regions.any (fun q => q.num ≠ r.num &&
    decide (q.i0 < r.i0 + r.rows ∧ r.i0 < q.i0 + q.rows ∧ q.j0 < r.j0 + r.cols ∧ r.j0 < q.j0 + q.cols))
  let twin := decide (1 < im.regions.countP (fun q => q.num = r.num))
  let ports := im.ports.any (fun p => p.region = r.num &&
    !((List.range p.width).all (fun k => r.holds (laneCore (p.lane + k)))))
  -- a host window that a ring of another region declares too
  let windows := im.rings.any (fun g => decide (g.region = r.num) && g.windows.any (fun w => im.rings.any (fun h =>
    decide (h.region ≠ r.num) && h.windows.any (fun x => decide (w.1 < x.1 + x.2 ∧ x.1 < w.1 + w.2)))))
  !edge || !inside || clash || twin || ports || windows || !(r.holds r.attach && rimCore r.attach) || decide (r.spares = 0)

/-- 0x04 REGION; also a variant that uses cores of a region whose host attachment router is faulty (R232). Log entry 64
(DEDUCED). -/
def check04 (s : State) (v : Variant) : Option Nat :=
  let im := s.boot.image
  match im.regions.find? im.badRegion with
  | some r => some r.num
  | none =>
    let first := (im.regions.head?.map Region.num).getD 0
    if im.regions = [] ∨ 16 < im.regions.length ∨ (im.regions.map (fun r => r.rows * r.cols)).sum ≠ 200 ∨
        (im.regions.map Region.spares).sum < 16 then some first
    else match im.regions.find? (fun r => s.routerFaulty r.attach false && v.usesCores.any r.logical.contains) with
    | some r => some r.num
    | none => match im.rings.find? (fun g => !(im.regions.any (fun r => r.num = g.region)) ||
        decide (1 < im.rings.countP (fun h => h.region = g.region))) with
      | some g => some g.region
      | none => (im.ports.find? (fun p => !im.regions.any (fun r => r.num = p.region))).map PlanPort.region

/-- 0x05 CORES: the region's logical cores against its healthy cores less its declared spares still unused, which is the
declared number less one for each core that is not healthy (R226). -/
def check05 (s : State) (_v : Variant) : Option Nat :=
  (s.boot.image.regions.find? (fun r =>
    let cores := (List.range 800).filter r.holds
    let healthy := cores.countP s.healthy
    let unused := r.spares - (cores.length - healthy)
    decide (healthy < r.logical.length + unused))).map Region.num

/-- The bytes of a tile's mirror (R107): 64 + n_m x C + 2 x C; none where it declares no mirrored row. -/
def TileDecl.mirrorBytes (d : TileDecl) : Nat := if d.mirror = [] then 0 else 64 + d.mirror.length * d.cols + 2 * d.cols

/-- The mirrors of a core's tiles and its other declared regions pass 768 KiB (R107). -/
def Image.storeOver (im : Image) (core : Nat) : Bool :=
  decide (786432 < ((im.tiles.filter (fun d => d.core = core)).map TileDecl.mirrorBytes).sum +
    ((im.stores.filter (fun r => decide (r.core = core ∧ r.kind ≠ .mirror))).map StoreRegion.len).sum)

/-- A store region that passes the end of the store, that overlaps another, or whose size R161 does not give. -/
def Image.badStore (im : Image) (e : StoreRegion × Nat) : Bool :=
  let r := e.1
  decide (786432 < r.base + r.len) || (r.kind = .pageLines && decide (r.len ≠ 4096)) ||
  (r.kind = .directory && decide (4096 * im.experts.countP (fun l => l.core = r.core) < r.len)) ||
  im.stores.zipIdx.any (fun (q : StoreRegion × Nat) =>
    decide (q.2 ≠ e.2 ∧ q.1.core = r.core ∧ q.1.base < r.base + r.len ∧ r.base < q.1.base + q.1.len)) ||
  im.storeOver r.core

/-- 0x06 CORE_STORE. -/
def check06 (s : State) (_v : Variant) : Option Nat :=
  let im := s.boot.image
  match im.stores.zipIdx.find? im.badStore with
  | some e => some e.1.core
  | none => (im.tiles.find? (fun d => im.storeOver d.core)).map TileDecl.core

/-- 0x07 TABLES. -/
def check07 (s : State) (v : Variant) : Option Nat :=
  let im := s.boot.image
  let count := fun (c : Nat) => (im.variants.map (fun x => x.slots.countP (fun y => y.core = c))).sum
  match im.stores.find? (fun r => r.kind = .tables && decide (65536 < r.len)) with
  | some r => some r.core
  | none =>
    match v.slots.find? (fun x => decide (65536 < 24 * count x.core ∨ v.period * mileCyc < x.lastEnd)) with
    | some x => some x.core
    | none => none

/-- An attention layer outside the limits of R285. -/
def KvLayer.bad (l : KvLayer) : Bool :=
  decide (64 ≤ l.loc ∨ 8192 < l.bytes ∨ l.heads < 1 ∨ 16 < l.heads ∨ l.dim ∉ [64, 128, 256] ∨ l.group < 1 ∨ 16 < l.group ∨
    16384 < l.heads * l.group * l.dim ∨
    l.bytes ≠ (if l.int4 then l.heads * l.dim * 17 / 16 else 2 * l.heads * l.dim))
/-- 0x08 KV_LAYOUT. -/
def check08 (s : State) (_v : Variant) : Option Nat := firstBad s.boot.image.kvLayers KvLayer.bad

def Image.tileUnit (im : Image) (u : Nat) : Option TileDecl := im.tiles.find? (fun d => d.unit = u)

/-- R103: every consuming tile has widening disabled and is declared as fed over an A4 edge, or the consumer is a digital unit
that accepts A4. -/
def Image.a4Ok (im : Image) (e : A4Edge) : Bool :=
  (if e.tiles = [] then e.accepts else true) &&
  e.tiles.all (fun u => (im.tileUnit u).any (fun d => !d.widen && d.a4Edge))
/-- 0x09 A4_EDGE. -/
def check09 (s : State) (v : Variant) : Option Nat := firstBad v.a4Edges (fun e => !s.boot.image.a4Ok e)

/-- The rows that an engine slot must declare (R212, R277): 32 for an input token tied to a bushel, the rows that they can
receive for tokens of expert rows, else row 0. -/
def Image.rowsDue (im : Image) (x : Slot) : Nat :=
  let bufs := (x.ins.filter (· ≠ 255)).filterMap (fun t => im.buffers.find? (fun b => decide (b.core = x.core ∧ b.token = t)))
  if bufs.any (fun b => b.use == .bushel || b.tied.isSome) then 32
  else
    let n := ((bufs.filter (fun b => b.use = .expert)).map (fun b => popcount b.rows)).sum
    if n = 0 then 1 else n

/-- The tiers of an engine slot's tiles, two for a double-buffered one (R59, R277, R359), and the slices of their widest input
format (R49, R63). -/
def Image.tiersDue (im : Image) (x : Slot) : Nat :=
  (x.tiles.eraseDups.map (fun u => if (im.tileUnit u).any TileDecl.dbl then 2 else 1)).sum
def Image.slicesDue (im : Image) (x : Slot) : Nat :=
  x.tiles.foldl (fun n u => max n (((im.tileUnit u).map (fun d => if d.exact then d.inBits else d.inBits / 2)).getD 0)) 0

/-- A slot is shorter than its operation's maximum, or an engine slot declares too few tiers, slices or rows (R212). -/
def Image.slotShort (im : Image) (x : Slot) : Bool :=
  decide (x.len < x.price.price) ||
  (match x.price with
   | .engine t n p => x.kind = .request && decide (t < im.tiersDue x ∨ n < im.slicesDue x ∨ p < im.rowsDue x)
   | _ => false)

/-- 0x0A SLOT_LENGTH; also a ring member whose ring cores cannot evaluate a pair in its time (R305), with 0xFFFF for the slot
that it has not. Log entry 24 (DESIGN CHOICE). -/
def check0A (s : State) (v : Variant) : Option Nat :=
  match firstBad v.slots s.boot.image.slotShort with
  | some i => some i
  | none =>
    if s.boot.image.ringDecls.any (fun r =>
      r.members.contains s.self && r.layers.any (fun l => !Config.ringPairFits r l.geo)) then some 0xFFFF else none

/-- The tile rows and columns of a core's bus segment: its region (R225). -/
def State.sameSegment (s : State) (a b : Nat) : Bool :=
  match s.boot.image.regions.find? (fun r => r.logical.contains a), s.boot.image.regions.find? (fun r => r.logical.contains b) with
  | some p, some q => p.num = q.num
  | _, _ => false

def Slot.isBus (x : Slot) (row : Bool) : Bool := x.agent = (if row then .rowBus else .colBus)

/-- The slot meets another on its agent, or meets a broadcast that crosses it (R224), or starts while 1,600 engines are in
program windows (R354). -/
def State.slotClash (s : State) (v : Variant) (x : Slot) (i : Nat) : Bool :=
  x.selfMeets ||
  v.slots.zipIdx.any (fun (e : Slot × Nat) =>
    let y := e.1
    e.2 ≠ i && x.meets y &&
    ((decide (y.core = x.core) && y.agent == x.agent) ||
     (((x.isBus true && y.isBus false) || (x.isBus false && y.isBus true)) && s.sameSegment x.core y.core))) ||
  (x.kind = .program && x.issues.any (fun k =>
    decide (1600 < (v.slots.map (fun y => if y.kind = .program then
      y.issues.countP (fun j => decide (y.start j ≤ x.start k ∧ x.start k < y.ends j)) else 0)).sum)))

/-- 0x0B SLOT_OVERLAP. -/
def check0B (s : State) (v : Variant) : Option Nat :=
  (v.slots.zipIdx.find? (fun (e : Slot × Nat) => s.slotClash v e.1 e.2)).map Prod.snd

/-- What a variant schedules on one resource in the rod of a load item (R199). -/
def Variant.total (v : Variant) (l : LoadItem) : Nat :=
  ((v.loads.filter (fun m => m.res = l.res ∧ m.item = l.item ∧ m.rod = l.rod)).map LoadItem.amount).sum
def Variant.overloaded (v : Variant) (p : LoadItem → Bool) (limit : LoadItem → Nat) : Option LoadItem :=
  v.loads.find? (fun l => p l && decide (limit l < v.total l))

/-- A load on a mesh link of an edge router (R222, R223). -/
def LoadItem.edgeLink (l : LoadItem) : Bool := l.res = .meshLink && rimCore l.owner
/-- 0x0C MESH_CAP. -/
def check0C (_s : State) (v : Variant) : Option Nat :=
  (v.overloaded (fun l => (l.res = .meshLink && !rimCore l.owner) || l.res = .bus) (fun _ => 2430)).map LoadItem.rod
/-- 0x0D EDGE_CAP (R223): an attachment port in one direction, the flits that enter an edge router, one of its mesh links. -/
def check0D (_s : State) (v : Variant) : Option Nat :=
  (v.overloaded (fun l => l.edgeLink || l.res = .edgeRouter || l.res = .edgePort)
    (fun l => match l.res with | .edgeRouter => 8640 | .edgePort => 4320 | _ => 2430)).map LoadItem.owner
/-- 0x0E LINK_CAP; also a ring link that cannot carry a ring block in its time (R305). -/
def check0E (s : State) (v : Variant) : Option Nat :=
  match v.overloaded (fun l => l.res = .port) (fun l => 23680 * s.widthOf l.item) with
  | some l => some l.item
  | none =>
    let im := s.boot.image
    im.ringDecls.findSome? (fun r =>
      let k := r.members.idxOf s.self
      let next := r.members.getD ((k + 1) % r.members.length) (0, 0)
      if k < r.members.length then
        (im.ports.find? (fun p => decide ((p.group, p.module) = next))).bind (fun p =>
          if r.layers.any (fun l => decide (320 * r.pair * 23680 * s.widthOf p.lane < 4096 * l.geo.bytes)) then some p.lane else none)
      else none)
/-- 0x0F LINK_PLAN. -/
def check0F (s : State) (v : Variant) : Option Nat :=
  v.usesPorts.find? (fun p => s.portDisabled p || (s.fab.losses.any (fun l => l.closed && l.ports.contains p) && !s.portActive p))
/-- 0x10 STACK_CAP. -/
def check10 (s : State) (v : Variant) : Option Nat :=
  match v.overloaded (fun l => l.res = .stack) (fun _ => 23000) with
  | some l => some l.item
  | none =>
    match v.usesStacks.find? (fun k => !s.isSetAt (stkI k) STK_STAT_IN_SERVICE) with
    | some k => some k
    | none =>
      let all := s.boot.image.regions.flatMap Region.extents
      match all.find? (fun e => decide (768 ≤ e ∨ 1 < all.count e)) with
      | some e => some (e / 48)
      | none => (s.boot.image.regions.findSome? (fun r => r.pool.find? (fun e => !r.extents.contains e))).map (fun e => e / 48)
/-- 0x11 HOST_CAP: the limit of the trained generation. -/
def check11 (s : State) (v : Variant) : Option Nat :=
  let limit := if !s.hostLink.up then 0 else if 6 ≤ s.hostLink.gen then 96000 else 45000
  (v.overloaded (fun l => l.res = .host) (fun _ => limit)).map LoadItem.rod

/-- A producer and a consumer (R212): issue by issue where both repeat alike, else against the producer's last issue. Log entry 36 (DEDUCED). -/
def State.depLate (s : State) (v : Variant) (extra : Nat) (d : Dep) : Bool :=
  match v.slots[d.prod]?, v.slots[d.cons]?, s.pathMax d.path with
  | some a, some b, some t =>
    b.issues.any (fun j => decide (b.start j < a.ends (if a.repeats = b.repeats then j else a.repeats) + t + extra))
  | _, _, _ => true
/-- 0x12 LATENCY: the consumer's slot. Log entries 32 (DESIGN CHOICE), 36 (DEDUCED). -/
def check12 (s : State) (v : Variant) : Option Nat := (v.deps.find? (s.depLate v 0)).map Dep.cons

/-- A router of a flow's path lacks a detour that its allowance covers, within the region (R202, R228, R231). -/
def State.detourShort (s : State) (f : Flow) (src dst allow c : Nat) : Bool :=
  match f.detourVia src dst c with
  | none => true
  | some via =>
    let way := detourWay src via dst
    decide (allow + 2 * ((meshPath src dst).length - 1) < 2 * (way.length - 1) + 8) ||
      way.any (fun x => decide (s.regionNum x ≠ s.regionNum src))

/-- A flow breaks R202, or has no route (R232). -/
def State.detourBad (s : State) (v : Variant) (d : DetourPrice) : Bool :=
  match s.boot.image.flows.find? (fun (f : Flow) => f.num = d.flow) with
  | none => true
  | some f =>
    match s.destOf f.src, s.destOf f.dst with
    | some a, some b =>
      (match v.deps[d.dep]? with | some e => s.depLate v d.allow e | none => true) ||
      (meshPath a b).any (s.detourShort f a b d.allow) || s.routeOf f a b = .none
    | _, _ => true
/-- 0x13 DETOUR: every detour against its allowance, flows without a route, and the plane-B limit. -/
def check13 (s : State) (v : Variant) : Option Nat :=
  match v.detours.find? (s.detourBad v) with
  | some d => some d.flow
  | none => (v.overloaded (fun l => l.res = .planeB) (fun _ => 1350)).map LoadItem.owner

/-- Whether a window keeps the distances of R113 from the beat slot that names it and from the beat's consumers. Log entry 37 (DEDUCED). -/
def Variant.windowOk (v : Variant) (b : Nat) (x w : Slot) : Bool :=
  w.kind = .repeatWindow && w.core = x.core && w.agent == x.agent &&
  x.issues.all (fun i =>
    match w.issues.find? (fun j => decide (x.ends i + 24 ≤ w.start j)) with
    | none => false
    | some j => v.deps.all (fun d => d.prod ≠ b ||
        match v.slots[d.cons]? with
        | some c => decide (w.ends j + 40 ≤ c.start (if c.repeats = x.repeats then i else 0))
        | none => false))
/-- The slices of an engine slot's beats or of a window. -/
def Slot.slices (x : Slot) : Nat :=
  match x.price with
  | .engine _ n _ | .repeatWindow n => n
  | _ => 0

/-- A slot of widen-enabled beats names exactly one window, of the next wider format, and no other beat names one; a window of
A6 may name a second, of A8, which names none (R113). -/
def State.namesWindow (s : State) (v : Variant) (x : Slot) : Bool :=
  let widens := x.tiles.any (fun u => (s.boot.image.tileUnit u).any (fun d => d.widen && decide (d.inBits < 8)))
  let next := match v.slots[x.opts - 1]? with | some w => decide (w.slices = x.slices + 1 ∧ w.slices ∈ [3, 4]) | none => false
  if x.opts = 0 then x.kind = .repeatWindow || !widens
  else next && (x.kind = .repeatWindow || widens)

/-- 0x14 REPEAT: the slot of the window; the beat's own where it names none. Log entry 37 (DEDUCED). -/
def check14 (s : State) (v : Variant) : Option Nat :=
  (v.slots.zipIdx.find? (fun (e : Slot × Nat) =>
    match e.1.agent with
    | .engine _ => (e.1.kind = .request || e.1.kind = .repeatWindow) && (!s.namesWindow v e.1 || (decide (e.1.opts ≠ 0) &&
        (match v.slots[e.1.opts - 1]? with | some w => !v.windowOk e.2 e.1 w | none => true)))
    | _ => false)).map (fun e => if e.1.opts = 0 then e.2 else e.1.opts - 1)

/-- T_use of a logical core's engine (R125): its tiers in use. Log entry 35 (DEDUCED). -/
def State.tiersUsed (s : State) (core eng : Nat) : Nat :=
  match s.physOf core with
  | some p => (List.range 8).countP (fun t => s.inUse p eng t)
  | none => 0
def Image.logicals (im : Image) : List Nat := im.regions.flatMap Region.logical
/-- Every engine of the logical cores, and those that hold a tile of the image or a tier in use. -/
def Image.engines (im : Image) : List (Nat × Nat) := im.logicals.flatMap (fun c => (List.range 8).map (fun e => (c, e)))
def State.enginesUsed (s : State) : List (Nat × Nat) :=
  s.boot.image.engines.filter (fun x => decide (0 < s.tiersUsed x.1 x.2) ||
    s.boot.image.tiles.any (fun d => decide (d.core = x.1 ∧ d.engine = x.2)))
def Variant.ofEngine (v : Variant) (k : SlotKind) (c e : Nat) : List Slot :=
  v.slots.filter (fun x => x.kind = k && x.core = c && x.agent == .engine e)

/-- 0x15 CALIBRATION. Log entry 35 (DEDUCED). -/
def check15 (s : State) (v : Variant) : Option Nat :=
  (s.boot.image.engines.find? (fun x =>
    let l := v.ofEngine .calibration x.1 x.2
    let lo := max 7 (ceilDiv (33 * s.tiersUsed x.1 x.2) 32)
    l.any Slot.crosses || (List.range v.period).any (fun m =>
      let n := (l.map (fun y => y.issues.countP (fun i => y.start i / mileCyc = m))).sum
      decide (n < lo ∨ 32 < n)))).map (fun x => x.1 * 8 + x.2)

/-- 0x16 PATROL. -/
def check16 (s : State) (v : Variant) : Option Nat :=
  match s.enginesUsed.find? (fun x =>
    let l := v.ofEngine .patrol x.1 x.2
    l = [] || l.any Slot.crosses || decide ((l.map (fun y => y.len * (y.repeats + 1))).sum < v.patrolShare * 864 * v.period)) with
  | some x => some (x.1 * 8 + x.2)
  | none =>
    if s.faults.trapImage.vec = [] then none
    else (s.enginesUsed.find? (fun x => (List.range v.period).any (fun m =>
      !v.slots.any (fun y => y.kind = .patrol && y.core = x.1 && y.agent == .vector && decide (256 ≤ y.len) &&
        y.issues.any (fun i => decide (y.start i / mileCyc = m)))))).map (fun x => x.1 * 8 + x.2)

/-- Slack of a core in a furlong (R200): windows of at least 64 cycles, with no other slot of the core in them. -/
def Variant.badSlack (v : Variant) (c : Nat) : Bool :=
  let w := v.slots.filter (fun x => x.kind = .slack && x.core = c)
  let rest := v.slots.filter (fun x => x.kind ≠ .slack && x.core = c)
  w.any (fun x => decide (x.len < 64) || x.crosses || rest.any x.meets) ||
  (List.range (8 * v.period)).any (fun f =>
    decide ((w.map (fun x => x.len * x.issues.countP (fun i => x.start i / furlongCyc = f))).sum < 1080))
/-- 0x17 SLACK. -/
def check17 (s : State) (v : Variant) : Option Nat := s.boot.image.logicals.find? v.badSlack
/-- 0x18 DEADLINE. -/
def check18 (_s : State) (v : Variant) : Option Nat :=
  firstBad v.deadlines (fun d => match v.slots[d.1]? with | some x => decide (d.2 < x.lastEnd) | none => true)
/-- 0x19 REVISION. -/
def check19 (s : State) (v : Variant) : Option Nat :=
  v.usesPorts.find? (fun p => match s.physPort p with
    | some q => !s.revOk (s.lnk q LNK_STAT_PARTNER_REV)
    | none => false)
/-- 0x1A VARIANT_SET. -/
def check1A (s : State) (v : Variant) : Option Nat :=
  let vs := s.boot.image.variants
  let cores := fun (x : Variant) => x.usesCores
  if 8 < vs.length ∨ 7 < v.num ∨ 1 < vs.countP (fun x => x.num = v.num) ∨ !(vs.any (fun x => x.num = s.boot.image.startVar)) ∨
      vs.any (fun x => cores x ≠ cores v) ∨ v.slots.any (fun x => !v.usesCores.contains x.core)
  then some v.num else none

/-- The checks in ascending code order (R212). -/
def checks : List (Nat × (State → Variant → Option Nat)) :=
  [(0x01, check01), (0x04, check04), (0x05, check05), (0x06, check06), (0x07, check07), (0x08, check08), (0x09, check09),
   (0x0A, check0A), (0x0B, check0B), (0x0C, check0C), (0x0D, check0D), (0x0E, check0E), (0x0F, check0F), (0x10, check10),
   (0x11, check11), (0x12, check12), (0x13, check13), (0x14, check14), (0x15, check15), (0x16, check16), (0x17, check17),
   (0x18, check18), (0x19, check19), (0x1A, check1A)]

/-- The first failure of a variant: code and item; none where it passes. -/
def State.checkVariant (s : State) (v : Variant) : Option (Nat × Nat) :=
  checks.findSome? (fun c => (c.2 s v).map (fun i => (c.1, i)))

/-- The failure that stands for every variant (R212): no valid count, or a divided clock. Log entry 34 (DEDUCED). -/
def State.globalFail (s : State) : Option (Nat × Nat) :=
  if !s.isSet TB_STAT_COUNT_VALID then some (0x02, 0xFFFF)
  else if s.therm.divided then some (0x03, 0xFFFF)
  else none

/-! ### The outcome (R186, R208, R213, R216, R435) -/

/-- TB_VAR_ADMIT and the counters (R216). Log entry 34 (DEDUCED). -/
def State.showAdmit (s : State) (passed : List Nat) (failed : Bool) : State :=
  let vs := s.boot.image.variants
  let mask := fun (l : List Nat) => ((l.filter (· < 8)).map (fun v => 2 ^ v)).sum
  let a8 := vs.find? Variant.a8
  let s := (s.put TB_VAR_ADMIT_ADMITTED (mask passed)).put TB_VAR_ADMIT_PRESENT (mask (vs.map Variant.num))
  let s := (s.flag TB_VAR_ADMIT_A8_VALID a8.isSome).put TB_VAR_ADMIT_A8_VAR ((a8.map Variant.num).getD 0)
  let s := s.add TB_ADM_CNT_RUNS 1
  if failed then s.add TB_ADM_CNT_FAILED 1 else s

def State.admStat (s : State) (state code item : Nat) : State :=
  (((s.put TB_ADM_STAT_STATE state).put TB_ADM_STAT_CODE code).put TB_ADM_STAT_ITEM item).flag GLB_STATE_ADMIT_FAILED (state = 3)

/-- A register value of the image: the fields that the register has; reserved bits stay 0 (R9). -/
def State.initReg (s : State) (a : Nat) (v : Word) : State :=
  match regAt a with
  | none => s
  | some r => s.wr a (r.fields.foldl (fun w f => setBits w f.fld.hi f.fld.lo (wbits v f.fld)) 0)

/-- What start step 6 loads besides (R162, R265, R427, R476): register values, directory copies, and the first reference of
the configuration CRC, computed from the image. Log entry 56 (DEDUCED). -/
def State.loadTables (s : State) : State :=
  let s := s.boot.image.regInit.foldl (fun (s : State) (r : Nat × Word) => s.initReg r.1 r.2) s
  let s := s.loadDirs.fillRestore
  let ref := s.configCrc
  (s.wr CFG_CRC_REF_REF.addr ref).crcCommit ref

/-- The variant that the module is to run. -/
def State.takeVariant (s : State) (v : Nat) : State :=
  { s with
    sched := { s.sched with var := v, started := true, barred := false }
    tb := { s.tb with stopAtMile := false } }

/-- The module is admitted, or its start is due (R186, R439). -/
def State.setAdmitted (s : State) : State := { s with sched := { s.sched with admitted := true } }
def State.setStartDue (s : State) : State := { s with sched := { s.sched with startDue := true } }

/-- The variant passes that the module is to run (R213, R439). After a time-base failure the module reads admitted only
once its sequencers start (R186). -/
def State.passVariant (s : State) (v : Nat) : State :=
  let s := (s.takeVariant v).put TB_VAR_STAT_IN_FORCE v
  if s.isSet TB_STAT_TIME_FAIL ∧ 9 ≤ s.startStep then (s.admStat 3 0x02 0xFFFF).setStartDue
  else (((s.put TB_STAT_TIME_FAIL 0).admStat 2 0 0xFFFF).setAdmitted).wantStart

/-- No variant passes (R213): the module has failed admission, and every request completes with code 0x23. -/
def State.admitFail (s : State) : State :=
  ({ s with
    sched := { s.sched with admitted := false, barred := false, startDue := false }
    tb := { s.tb with stopAtMile := false } }.put TB_ADM_STAT_STATE 3 |>.put GLB_STATE_ADMIT_FAILED 1).completeAll 0x23

/-- The variant in force fails at a re-admission with a code and an item (R186, R213). -/
def State.failInForce (s : State) (code item : Nat) : State :=
  match s.bestAdmitted with
  | some b =>
    if s.isSet TB_STAT_TIME_FAIL then s.passVariant b
    else
      let s := s.admStat 2 code item
      { s with sched := { s.sched with barred := true, admitted := true } }.raiseVarReq b
  | none =>
    let s := (s.put TB_STAT_TIME_FAIL 0).admStat 2 code item
    if s.sched.running then { s with sched := { s.sched with barred := true }, tb := { s.tb with stopAtMile := true } }
    else s.admitFail

/-- ADMISSION_RUN (R210 to R215): no admission is made without a valid count (R181); it waits. Log entries 34 (DEDUCED),
52 (DEDUCED). -/
def execAdmissionRun (s : State) : Host.Outcome State Fault Refusal :=
  .next (if !s.sched.admDue ∨ !s.isSet TB_STAT_COUNT_VALID then s
    else
      let s := { s with sched := { s.sched with admDue := false }, rqt := { s.rqt with flowLate := false } }
      let atStart := decide (s.startStep = 5)
      let s := if atStart then s.loadTables else s
      let im := s.boot.image
      let glob := s.globalFail
      let res : List (Nat × Option (Nat × Nat)) := im.variants.map (fun v => (v.num, if glob.isSome then glob else s.checkVariant v))
      let key := if s.sched.started then s.sched.var else im.startVar
      let fail : Option (Nat × Nat) := match glob with
        | some f => some f
        | none => match res.find? (fun (r : Nat × Option (Nat × Nat)) => r.1 = key) with
          | some r => r.2
          | none => some (0x1A, key)
      let s := s.showAdmit ((res.filter (fun r => r.2.isNone)).map Prod.fst) fail.isSome
      let s := match fail with
        | none => s.passVariant key
        | some f =>
          if s.sched.started then s.failInForce f.1 f.2
          else { (s.admStat 3 f.1 f.2) with sched := { s.sched with admitted := false } }
      s.recheckSwitches.advanceStart)

/-- MC_ADMISSION_COMMAND: the management controller commands admission (R210). -/
def execMcAdmissionCommand (s : State) : Host.Outcome State Fault Refusal :=
  .next (if s.mgmtUp then s.reAdmit else s)

end Sys2Proof.Machine
end

