-- ==== Sys2Proof/Machine/Boundaries.lean ====
section
/-! DEFINITION. What falls at a rod, a furlong and a mile boundary (R5, R190, R192). -/
namespace Sys2Proof.Machine

/-! ### Rods -/

/-- The core clock counts a rod: the count advances while it runs (R178, R181, R184); the watchdog of the control core
(R389), the rods of a REFCLK hold, and the rate bucket of the control core's host writes (R392) go on. Log entry 38 (DESIGN CHOICE). -/
def State.countRod (s : State) : State :=
  let runs := s.isSet TB_STAT_RUNNING
  let rod := if runs then (s.tb.rod + 1) % rodP else s.tb.rod
  let hold := s.isSet TB_STAT_REFCLK_HOLD && !s.tb.refBack
  { s with
    tb := { s.tb with
      rod := rod
      furDue := runs && decide (rod % 40 = 0)
      mileDue := runs && decide (rod % 320 = 0)
      holdRods := if hold then s.tb.holdRods + 1 else s.tb.holdRods
      refInj := s.tb.refInj.map (fun (n : Nat) => n - 1) }
    sec := { s.sec with
      clockRods := s.sec.clockRods + 1
      wdog := if s.boot.firmware then s.sec.wdog + 1 else s.sec.wdog
      bucket := 8192 } }

/-- An injected loss of REFCLK is over (R408, point 0x1A). -/
def State.refInjOver (s : State) : State :=
  if s.tb.refInj = some 0 then { s with tb := { s.tb with refInj := none } }.refclkReturn true else s

/-- The sequencers stop at this rod boundary, and every position in flight is void (R186, R421, R489). -/
def State.stopNow (s : State) : State :=
  if s.tb.stopAtRod then
    (({ s with tb := { s.tb with stopAtRod := false } }.stopSequencers).settle).abandonPasses
  else s

/-- The cycle of a rod of the period at which an issue starts, or 0 where it started earlier and still runs; none where it does
neither (R190). -/
def Slot.inRod (x : Slot) (rod j : Nat) : Option Nat :=
  if x.start j / rodCyc = rod then some (x.start j % rodCyc)
  else if x.start j < rod * rodCyc ∧ rod * rodCyc < x.ends j then some 0
  else none

/-- A slot of a role's route is in force while the route's server serves the role (R258, R418). -/
def State.routed (s : State) (v slot : Nat) : Bool :=
  let l := s.boot.image.routes.filter (fun r => r.var = v ∧ r.slot = slot)
  l.isEmpty || l.any (fun r => decide (s.holder r.role = r.server))

/-- The descriptors with an issue in the rod (R190), of the variant in force, with the instance of the period (R188) and on the
routes in force. Log entry 28 (DESIGN CHOICE). -/
def State.loadDue (s : State) : State :=
  let due : List DueIssue := match s.inVar with
    | none => []
    | some v =>
      if !s.sched.running then []
      else
        let rods := 320 * max v.period 1
        v.slots.zipIdx.flatMap (fun (e : Slot × Nat) =>
          match s.physOf e.1.core with
          | none => []
          | some p => if !s.routed v.num e.2 then [] else e.1.issues.filterMap (fun j => (e.1.inRod (s.tb.rod % rods) j).map (fun c =>
              (⟨p, e.2, j, c, e.1.agent, s.tb.rod / rods % 256, e.1.ins, e.1.out, e.1.kind⟩ : DueIssue))))
  { s with sched := { s.sched with due := due } }

/-- ROD_BOUNDARY (R190): a rod begins. An FMARK edge that a mile boundary lacked is judged (R182). Log entry 9 (DESIGN CHOICE). -/
def execRodBoundary (s : State) : Host.Outcome State Fault Refusal :=
  let s := (s.judgeEdge.countRod).refInjOver
  let s := if s.tb.mileDue then s.mileEdge else s
  let s := (s.stopNow.clockAtRod).applyMarks
  .next (((s.meshRod).fabRod).loadDue).faultSum

/-! ### Furlongs -/

/-- Temperature triggers (R128): more than 4 K from the average over the tier's last round. A trigger that has been raised
stands until its round begins. Log entry 82 (DESIGN CHOICE). -/
def State.warmTiers (s : State) : State :=
  s.calEngines.foldl (fun (s : State) (e : Nat × Nat) =>
    match s.tLoc e.1 with
    | none => s
    | some t => (List.range 8).foldl (fun (s : State) (k : Nat) =>
        let c := s.tierCal e.1 e.2 k
        match c.lastT with
        | none => s
        | some l =>
          let d := if l ≤ t then t - l else l - t
          if s.inUse e.1 e.2 k ∧ 4 < d then s.setTierCal e.1 e.2 k { c with tempMove := some d } else s) s) s

/-- The table updates whose boundary is here (R315, R362, R371). -/
def State.tableFurlong (s : State) : State :=
  let due := s.rqt.updates.filter (fun (u : TableUpdate) => !rodAfter s.tb.rod u.atRod)
  let s := { s with rqt := { s.rqt with updates := s.rqt.updates.filter (fun (u : TableUpdate) => rodAfter s.tb.rod u.atRod) } }
  due.foldl (fun (s : State) u => (s.applyUpdate u).weightsUpdate u) s

/-- The counts of the furlong just ended (R119, R170, R201): the clamp sum awaits its completion; the lines of each stack
and whether it met an uncorrectable one; the choices of each core; cycles skipped and slack met. -/
def State.furlongCounts (s : State) : State :=
  let s := { s with clampDue := some s.clampNow, clampNow := 0 }
  let s := (List.range 16).foldl (fun (s : State) (k : Nat) =>
    let i := stkI k
    let s := s.putAt i STK_LINES_COUNT (min (SMap.get (fun _ => 0) s.mem.lines k) 4294967295)
    let n := s.fldAt i STK_UE_CNT_COUNT
    let run := if SMap.get (fun _ => 0) s.mem.ueSeen k < n then SMap.get (fun _ => 0) s.mem.ueRun k + 1 else 0
    { s with mem := { s.mem with
      ueSeen := SMap.set (fun _ => 0) s.mem.ueSeen k n
      ueRun := SMap.set (fun _ => 0) s.mem.ueRun k run } }) s
  let s := { s with mem := { s.mem with lines := [] } }
  let cores := (List.range 800).filter (fun c => s.coreRunning c ||
    [SEQ_SKIP_CYC_CYCLES, DSP_LAST_OFFERED, DSP_LAST_DROPPED].any (fun f => decide (s.fldAt (coreI c) f ≠ 0)))
  let s := cores.foldl (fun (s : State) (c : Nat) =>
    let i := coreI c
    let s := s.putAt i DSP_LAST_OFFERED (min (SMap.get (fun _ => 0) s.routing.offered c) 65535)
    let s := s.putAt i DSP_LAST_DROPPED (min (SMap.get (fun _ => 0) s.routing.dropped c) 65535)
    s.putAt i SEQ_SKIP_CYC_CYCLES (min (SMap.get (fun _ => 0) s.sched.skipped c) 131071)) s
  let skip := (s.sched.skipped.map Prod.snd).foldl (fun a b => a + b) 0
  let least := (cores.filter (fun c => s.coreRunning c)).foldl (fun (b : Option Nat) (c : Nat) =>
    let n := SMap.get (fun _ => 0) s.sched.slack c
    match b with
    | none => some n
    | some m => some (min m n)) none
  let s := (s.put TB_SKIP_CYC_COUNT (min skip 4294967295)).put TB_SLACK_MIN_CYCLES (min (least.getD 0) 131071)
  { s with
    sched := { s.sched with skipped := [], slack := [] }
    routing := { s.routing with offered := [], dropped := [] } }

/-- FURLONG_BOUNDARY (R15, R129, R135, R192): the changes of the furlong boundary that the rod count has reached. Log entries 9 (DESIGN CHOICE), 42 (DEDUCED). -/
def execFurlongBoundary (s : State) : Host.Outcome State Fault Refusal :=
  if !s.tb.furDue then .next s
  else
    let s := { s with waitB := [], tb := { s.tb with furDue := false } }
    let s := s.furlongCounts
    let s := ((((s.rollSensors).applyTrims).updateAllDrift).warmTiers).showDark
    let s := (((s.invalidateLook).tableFurlong).failAdLoads).ageSlots
    let s := ((s.checkDeadlines).recheckIntake).mapAhead
    let (s, keys) := s.formBushels
    let s := ((((s.assignLanes keys).sendRetire).sendSwitches).showEpochs).sampleTable
    .next ((((s.meshFurlong).fabFurlong).thermFurlong).rtvFurlong)

/-! ### Miles -/

/-- The switch due here, and what the thermal controllers make of one that takes effect (R207, R484, R488). -/
def State.switchMile (s : State) : State :=
  let on := s.sched.switches.any (fun (w : Switch) => decide (w.atMile = s.mileNow) && s.admittedVar w.var)
  let s := s.switchVariant
  if on then s.thermSwitched else s

/-- The sequencers stop at this mile boundary where no variant passed (R213). -/
def State.stopMile (s : State) : State :=
  if s.tb.stopAtMile then
    (((({ s with tb := { s.tb with stopAtMile := false } }.stopSequencers).settle).abandonPasses).admitFail)
  else s

/-- Variants and epochs at a mile boundary (R206, R207, R361, R362). Log entry 9 (DESIGN CHOICE). -/
def State.mileSchedule (s : State) : State :=
  (((((s.stopMile).decideVariants).switchMile).flipAtMile).refreshAtMile).planAtMile

/-- Ports, cores and roles at a mile boundary (R253, R410, R412, R418). Log entry 9 (DESIGN CHOICE). -/
def State.mileRoles (s : State) : State :=
  let s := if 3 ≤ s.startStep then s.startTrainings else s
  ((s.applyFences).takeOvers).standbyTakeovers

/-- What else falls there: corpora, traps, rings, the start of the sequencers, the sideband, heat. Log entry 9 (DESIGN CHOICE). -/
def State.mileRest (s : State) : State :=
  (((((s.rtvMile).trapEffect).restartRings).startSequencers).expireSb).thermMile

/-- MILE_BOUNDARY (R190, R192): the changes of the mile boundary that the rod count has reached; the descriptors of its first
rod are those of the tables that it puts in force. Log entry 9 (DESIGN CHOICE). -/
def execMileBoundary (s : State) : Host.Outcome State Fault Refusal :=
  if !s.tb.mileDue then .next s
  else .next (((({ s with tb := { s.tb with mileDue := false } }.mileSchedule).mileRoles).mileRest).advanceStart).loadDue

end Sys2Proof.Machine
end

