-- ==== Sys2Proof/Machine/Dispatch.lean ====
section
/-! DEFINITION. The effect of a command on everything but the queue: one arm per row of the opcode table. -/
namespace Sys2Proof.Machine

def exec (i : Instr) (s : State) : Host.Outcome State Fault Refusal :=
  match i with
  | .tierSelect core eng tier badWord => Sys2Proof.Machine.execTierSelect core eng tier badWord s
  | .inputStaging core eng input => Sys2Proof.Machine.execInputStaging core eng input s
  | .engineBeat issue eng outAddr window windowIssue residueUpset trims => Sys2Proof.Machine.execEngineBeat issue eng outAddr window windowIssue residueUpset trims s
  | .mergeDeadline core eng tile inst row => Sys2Proof.Machine.execMergeDeadline core eng tile inst row s
  | .repeatWindow core eng window windowIssue nextWindow nextIssue residueUpset trims => Sys2Proof.Machine.execRepeatWindow core eng window windowIssue nextWindow nextIssue residueUpset trims s
  | .precisionSumComplete => Sys2Proof.Machine.execPrecisionSumComplete s
  | .calibrationSlot core eng residueUpset => Sys2Proof.Machine.execCalibrationSlot core eng residueUpset s
  | .trimSetCheck => Sys2Proof.Machine.execTrimSetCheck s
  | .settlingDue core eng tier round => Sys2Proof.Machine.execSettlingDue core eng tier round s
  | .ageTrigger core eng tier => Sys2Proof.Machine.execAgeTrigger core eng tier s
  | .engineDark core eng => Sys2Proof.Machine.execEngineDark core eng s
  | .freshTierEnd core eng tier => Sys2Proof.Machine.execFreshTierEnd core eng tier s
  | .firstPass => Sys2Proof.Machine.execFirstPass s
  | .aszForceRound w => Sys2Proof.Machine.execAszForceRound w s
  | .monitorConversion code code2 code3 code4 => Sys2Proof.Machine.execMonitorConversion code code2 code3 code4 s
  | .referenceSettled => Sys2Proof.Machine.execReferenceSettled s
  | .testBusCaptureArm w => Sys2Proof.Machine.execTestBusCaptureArm w s
  | .matrixOp issue op ecc residueUpset => Sys2Proof.Machine.execMatrixOp issue op ecc residueUpset s
  | .vectorOp issue op ecc => Sys2Proof.Machine.execVectorOp issue op ecc s
  | .coreStoreScrub core upset => Sys2Proof.Machine.execCoreStoreScrub core upset s
  | .lineRestore core line => Sys2Proof.Machine.execLineRestore core line s
  | .stackRead issue addr lines dst ecc retries late => Sys2Proof.Machine.execStackRead issue addr lines dst ecc retries late s
  | .stackWrite issue src lines addr ecc => Sys2Proof.Machine.execStackWrite issue src lines addr ecc s
  | .stackOutOfService stack linkFailed => Sys2Proof.Machine.execStackOutOfService stack linkFailed s
  | .pageWalk issue slot loc pos row eccDir eccLeaf => Sys2Proof.Machine.execPageWalk issue slot loc pos row eccDir eccLeaf s
  | .rodBoundary => Sys2Proof.Machine.execRodBoundary s
  | .furlongBoundary => Sys2Proof.Machine.execFurlongBoundary s
  | .mileBoundary => Sys2Proof.Machine.execMileBoundary s
  | .clockLock => Sys2Proof.Machine.execClockLock s
  | .fmarkPulse high offset => Sys2Proof.Machine.execFmarkPulse high offset s
  | .refclkLoss => Sys2Proof.Machine.execRefclkLoss s
  | .refclkReturn => Sys2Proof.Machine.execRefclkReturn s
  | .refclkHoldExpiry => Sys2Proof.Machine.execRefclkHoldExpiry s
  | .operationOverrun issue agent => Sys2Proof.Machine.execOperationOverrun issue agent s
  | .slackWindow core len => Sys2Proof.Machine.execSlackWindow core len s
  | .admissionRun => Sys2Proof.Machine.execAdmissionRun s
  | .mcAdmissionCommand => Sys2Proof.Machine.execMcAdmissionCommand s
  | .tbVarReq w => Sys2Proof.Machine.execTbVarReq w s
  | .sbVarReq m => Sys2Proof.Machine.execSbVarReq m s
  | .sbVarRefuse m => Sys2Proof.Machine.execSbVarRefuse m s
  | .mcVariantRequest var => Sys2Proof.Machine.execMcVariantRequest var s
  | .meshTransfer issue flow send ecc => Sys2Proof.Machine.execMeshTransfer issue flow send ecc s
  | .flitForward n upset => Sys2Proof.Machine.execFlitForward n upset s
  | .flitArrival n => Sys2Proof.Machine.execFlitArrival n s
  | .broadcast issue column send recv ecc => Sys2Proof.Machine.execBroadcast issue column send recv ecc s
  | .routerFaultEvent core kind => Sys2Proof.Machine.execRouterFaultEvent core kind s
  | .rtrMarkA core w => Sys2Proof.Machine.execRtrMarkA core w s
  | .rtrMarkB core w => Sys2Proof.Machine.execRtrMarkB core w s
  | .laneTrainingDone port lanes => Sys2Proof.Machine.execLaneTrainingDone port lanes s
  | .deskewDone port lanes => Sys2Proof.Machine.execDeskewDone port lanes s
  | .helloFrame port h rx => Sys2Proof.Machine.execHelloFrame port h rx s
  | .confirmFrame port c rx => Sys2Proof.Machine.execConfirmFrame port c rx s
  | .cablingDecision port => Sys2Proof.Machine.execCablingDecision port s
  | .trainingStepTimeout port => Sys2Proof.Machine.execTrainingStepTimeout port s
  | .frameSend issue port dstGroup dstMod dstRegion send ecc => Sys2Proof.Machine.execFrameSend issue port dstGroup dstMod dstRegion send ecc s
  | .dataFrame port rx hdr units slot table => Sys2Proof.Machine.execDataFrame port rx hdr units slot table s
  | .heartbeatSend port => Sys2Proof.Machine.execHeartbeatSend port s
  | .heartbeatReceived port rx rodLo state msgs => Sys2Proof.Machine.execHeartbeatReceived port rx rodLo state msgs s
  | .sbHeat m => Sys2Proof.Machine.execSbHeat m s
  | .sbLoss m => Sys2Proof.Machine.execSbLoss m s
  | .sbPresent m => Sys2Proof.Machine.execSbPresent m s
  | .laneSignalLoss port => Sys2Proof.Machine.execLaneSignalLoss port s
  | .heartbeatSlotMiss port => Sys2Proof.Machine.execHeartbeatSlotMiss port s
  | .lossConfirmation group module => Sys2Proof.Machine.execLossConfirmation group module s
  | .lossDisableTimeout group module => Sys2Proof.Machine.execLossDisableTimeout group module s
  | .lnkRetrain port w => Sys2Proof.Machine.execLnkRetrain port w s
  | .mcCoordinates rack group slot => Sys2Proof.Machine.execMcCoordinates rack group slot s
  | .dispatchGrant issue layer ecc => Sys2Proof.Machine.execDispatchGrant issue layer ecc s
  | .returnCombine issue layer chunk n outAddr ecc => Sys2Proof.Machine.execReturnCombine issue layer chunk n outAddr ecc s
  | .quarantineLapse layer expert => Sys2Proof.Machine.execQuarantineLapse layer expert s
  | .spanSlot issue loc lane slot span pos row qAddr kvAddr late ecc residueUpset => Sys2Proof.Machine.execSpanSlot issue loc lane slot span pos row qAddr kvAddr late ecc residueUpset s
  | .spanMerge issue loc slot head pos row outAddr => Sys2Proof.Machine.execSpanMerge issue loc slot head pos row outAddr s
  | .pageExceptionService => Sys2Proof.Machine.execPageExceptionService s
  | .pageFrameRelease slot => Sys2Proof.Machine.execPageFrameRelease slot s
  | .ringRequestStart slot ring => Sys2Proof.Machine.execRingRequestStart slot ring s
  | .ringStep ring bad => Sys2Proof.Machine.execRingStep ring bad s
  | .intakePoll recs hostIdx late => Sys2Proof.Machine.execIntakePoll recs hostIdx late s
  | .submit raw fetch => Sys2Proof.Machine.execSubmit raw fetch s
  | .cancel raw => Sys2Proof.Machine.execCancel raw s
  | .pause raw => Sys2Proof.Machine.execPause raw s
  | .resume raw => Sys2Proof.Machine.execResume raw s
  | .draft raw => Sys2Proof.Machine.execDraft raw s
  | .hostReadCompletion region core token inst rows addr data issuedAt error => Sys2Proof.Machine.execHostReadCompletion region core token inst rows addr data issuedAt error s
  | .entryIssue bushel => Sys2Proof.Machine.execEntryIssue bushel s
  | .sampling bushel row logits flagIn isVoid => Sys2Proof.Machine.execSampling bushel row logits flagIn isVoid s
  | .commitDecision bushel slot => Sys2Proof.Machine.execCommitDecision bushel slot s
  | .returnRecord r => Sys2Proof.Machine.execReturnRecord r s
  | .egressSlot => Sys2Proof.Machine.execEgressSlot s
  | .slotFree slot => Sys2Proof.Machine.execSlotFree slot s
  | .intakeEnWrite w => Sys2Proof.Machine.execIntakeEnWrite w s
  | .mcOpenIntake => Sys2Proof.Machine.execMcOpenIntake s
  | .mcCloseIntake => Sys2Proof.Machine.execMcCloseIntake s
  | .ldStart w => Sys2Proof.Machine.execLdStart w s
  | .ldAbort w => Sys2Proof.Machine.execLdAbort w s
  | .chunkArrival d => Sys2Proof.Machine.execChunkArrival d s
  | .programStep core eng verified => Sys2Proof.Machine.execProgramStep core eng verified s
  | .ldFlipReq w => Sys2Proof.Machine.execLdFlipReq w s
  | .mcNameFlip => Sys2Proof.Machine.execMcNameFlip s
  | .sbEpoch m => Sys2Proof.Machine.execSbEpoch m s
  | .adapterLoad raw => Sys2Proof.Machine.execAdapterLoad raw s
  | .adapterDrop raw => Sys2Proof.Machine.execAdapterDrop raw s
  | .adapterPartFetch slot part => Sys2Proof.Machine.execAdapterPartFetch slot part s
  | .adapterSwitch slot => Sys2Proof.Machine.execAdapterSwitch slot s
  | .adapterSlotFree slot => Sys2Proof.Machine.execAdapterSlotFree slot s
  | .mcLoadCommand addr len => Sys2Proof.Machine.execMcLoadCommand addr len s
  | .hallmarkReq nonce => Sys2Proof.Machine.execHallmarkReq nonce s
  | .keyRelease object check => Sys2Proof.Machine.execKeyRelease object check s
  | .unsealComplete badRows => Sys2Proof.Machine.execUnsealComplete badRows s
  | .getVersion => Sys2Proof.Machine.execGetVersion s
  | .getCapabilities => Sys2Proof.Machine.execGetCapabilities s
  | .negotiateAlgorithms common => Sys2Proof.Machine.execNegotiateAlgorithms common s
  | .getDigests => Sys2Proof.Machine.execGetDigests s
  | .getCertificate slot offset length => Sys2Proof.Machine.execGetCertificate slot offset length s
  | .challenge slot => Sys2Proof.Machine.execChallenge slot s
  | .getMeasurements index => Sys2Proof.Machine.execGetMeasurements index s
  | .keyExchange slot => Sys2Proof.Machine.execKeyExchange slot s
  | .spdmFinish verifyOk => Sys2Proof.Machine.execSpdmFinish verifyOk s
  | .keyUpdate op => Sys2Proof.Machine.execKeyUpdate op s
  | .spdmHeartbeat => Sys2Proof.Machine.execSpdmHeartbeat s
  | .endSession => Sys2Proof.Machine.execEndSession s
  | .ideKmKeyProgram stream => Sys2Proof.Machine.execIdeKmKeyProgram stream s
  | .ideIntegrityFailure stream => Sys2Proof.Machine.execIdeIntegrityFailure stream s
  | .lockInterface => Sys2Proof.Machine.execLockInterface s
  | .startInterface => Sys2Proof.Machine.execStartInterface s
  | .stopInterface => Sys2Proof.Machine.execStopInterface s
  | .functionLevelReset => Sys2Proof.Machine.execFunctionLevelReset s
  | .secWdogKick w => Sys2Proof.Machine.execSecWdogKick w s
  | .watchdogExpiry => Sys2Proof.Machine.execWatchdogExpiry s
  | .controlCoreBreach b => Sys2Proof.Machine.execControlCoreBreach b s
  | .patrolSlot core eng beats residueUpset trims => Sys2Proof.Machine.execPatrolSlot core eng beats residueUpset trims s
  | .vectorPatrolSlot core differs => Sys2Proof.Machine.execVectorPatrolSlot core differs s
  | .trapLoad w => Sys2Proof.Machine.execTrapLoad w s
  | .trapSetVerifyDone bytes sigOk fetched => Sys2Proof.Machine.execTrapSetVerifyDone bytes sigOk fetched s
  | .repairStepDone logical ok => Sys2Proof.Machine.execRepairStepDone logical ok s
  | .injArm w => Sys2Proof.Machine.execInjArm w s
  | .mcChrysalis => Sys2Proof.Machine.execMcChrysalis s
  | .powerLoss => Sys2Proof.Machine.execPowerLoss s
  | .perstNAssert => Sys2Proof.Machine.execPerstNAssert s
  | .mrstNAssert => Sys2Proof.Machine.execMrstNAssert s
  | .resetRelease facts => Sys2Proof.Machine.execResetRelease facts s
  | .stopRecordAck => Sys2Proof.Machine.execStopRecordAck s
  | .imgBegin length version => Sys2Proof.Machine.execImgBegin length version s
  | .imgData offset bytes => Sys2Proof.Machine.execImgData offset bytes s
  | .imgEnd => Sys2Proof.Machine.execImgEnd s
  | .imgVerify checks => Sys2Proof.Machine.execImgVerify checks s
  | .query raw fetch => Sys2Proof.Machine.execQuery raw fetch s
  | .queryPass corpus late residueUpsets trims => Sys2Proof.Machine.execQueryPass corpus late residueUpsets trims s
  | .searchRound corpus late => Sys2Proof.Machine.execSearchRound corpus late s
  | .rtvFlipReq w => Sys2Proof.Machine.execRtvFlipReq w s
  | .registerWrite addr w => Sys2Proof.Machine.execRegisterWrite addr w s
  | .cfgSealSet w => Sys2Proof.Machine.execCfgSealSet w s
  | .wideSelWrite w => Sys2Proof.Machine.execWideSelWrite w s
  | .wideSnapshotDone port => Sys2Proof.Machine.execWideSnapshotDone port s
  | .cfgCrcCommit w => Sys2Proof.Machine.execCfgCrcCommit w s
  | .cfgCrcAdopt w => Sys2Proof.Machine.execCfgCrcAdopt w s
  | .crcPassEnd => Sys2Proof.Machine.execCrcPassEnd s
  | .msixTableWrite vector mask => Sys2Proof.Machine.execMsixTableWrite vector mask s
  | .sensorReading sensor value sat => Sys2Proof.Machine.execSensorReading sensor value sat s
  | .sensorRestore sensor => Sys2Proof.Machine.execSensorRestore sensor s
  | .powerCapVariantRequest => Sys2Proof.Machine.execPowerCapVariantRequest s
  | .heatRerequest => Sys2Proof.Machine.execHeatRerequest s
  | .heatFlagClear => Sys2Proof.Machine.execHeatFlagClear s
  | .clockDivide => Sys2Proof.Machine.execClockDivide s
  | .clockRestore => Sys2Proof.Machine.execClockRestore s
  | .comparatorTrip sensor others => Sys2Proof.Machine.execComparatorTrip sensor others s
  | .vinFault f => Sys2Proof.Machine.execVinFault f s
  | .regulatorFault f => Sys2Proof.Machine.execRegulatorFault f s
  | .mcPowerOff => Sys2Proof.Machine.execMcPowerOff s
  | .mateNAssert => Sys2Proof.Machine.execMateNAssert s
  | .inputEnable => Sys2Proof.Machine.execInputEnable s
  | .vinReapply => Sys2Proof.Machine.execVinReapply s
  | .hostLinkTraining up gen width => Sys2Proof.Machine.execHostLinkTraining up gen width s
  | .mcPowerCapRaise cap => Sys2Proof.Machine.execMcPowerCapRaise cap s
  | .pldmEventFetch => Sys2Proof.Machine.execPldmEventFetch s
  | .dynamicAddressAssignment addr => Sys2Proof.Machine.execDynamicAddressAssignment addr s
  | .inputRangeExcursion mv => Sys2Proof.Machine.execInputRangeExcursion mv s

end Sys2Proof.Machine
end

