-- ==== Sys2Proof/Machine/Step.lean ====
section
/-! DEFINITION. One step: the command at the front of the queue acts on the machine, first in, first out. -/
namespace Sys2Proof.Machine

/-- Take the command at the front of the queue and run it with the rest waiting. With an empty queue the block idles
(assumption log 1). Log entry 1 (DESIGN CHOICE). -/
def step (s : State) : Host.Outcome State Fault Refusal :=
  match s.pending with
  | [] => .next s
  | c :: rest => exec c { s with pending := rest }

/-- The command that a word spells, put at the front of the queue. The opcode table gives no row any bits, so no word
spells a command and the state is unchanged. Log entry 1 (DESIGN CHOICE). -/
def State.withFetchWord (s : State) (nbits w : Nat) : State :=
  match decodeTableWord nbits w with
  | some c => { s with pending := c :: s.pending }
  | none => s

end Sys2Proof.Machine
end

