-- ==== Sys2Proof/WellFormed.lean ====
section
/-! DEFINITION. Which commands are well formed: every operand within the width that the spec's encodings and tables give
it. Unit numbers (cores, engines, tiers, lanes, stacks) are bounded by their types already. The meanings are total, and do
not rest on these bounds. -/
namespace Sys2Proof

/-- An address of a core store: 768 KiB (R160). -/
def inCore (a : Nat) : Bool := decide (a < 786432)
/-- A line's address in the stacks: 40 bits, of which the lower 36 lie below 48 GiB, and a multiple of 64 (R166). -/
def inStack (a : Nat) : Bool := decide (a < 1099511627776) && decide (a % 68719476736 < 51539607552) && decide (a % 64 = 0)
/-- A request slot: 13 bits (R323). -/
def isSlot (n : Nat) : Bool := decide (n < 8192)
/-- A record of the intake ring: 128 bytes (R316). -/
def isRecord (raw : List Byte) : Bool := decide (raw.length = 128)
/-- A module by group and number (R254). -/
def modOk (group module : Nat) : Bool := decide (group < 16) && decide (module < 64)
/-- Places that check bits find in error lie in a store or stack (R160, R166). -/
def upsetsOk (u : Upsets) : Bool := u.all (fun (e : Nat × Bool) => decide (e.1 < 1099511627776))

/-- A descriptor's issue (R188, R189): an instance number of 8 bits, at most four input tokens, token numbers of 8 bits. -/
def Issue.ok (i : Issue) : Bool :=
  decide (i.inst < 256) && decide (i.ins.length ≤ 4) && i.ins.all (fun t => decide (t < 256)) && decide (i.out < 256)

/-- The fields of a sideband message (R244). -/
def SbMsg.ok (m : SbMsg) : Bool :=
  decide (m.kind < 16) && modOk m.group m.module && decide (m.mile < 65536) && decide (m.data < 4294967296)

/-- The fields of a frame's header (R240). -/
def FrameHdr.ok (h : FrameHdr) : Bool :=
  decide (h.type < 16) && decide (h.rev < 256) && decide (h.prec < 65536) && decide (h.dstRegion < 16) && modOk h.dstGroup h.dstMod && modOk h.srcGroup h.srcMod && decide (h.token < 256) &&
  decide (h.inst < 256) && decide (h.count < 16) && decide (h.fmt < 4) && decide (h.index < 1024) && decide (h.seqLo < 65536)

/-- A hello's fields (R249). -/
def Hello.ok (h : Hello) : Bool := decide (h.port < 64) && decide (h.width ≤ 8) && modOk h.group h.module && decide (h.compat.length ≤ 8)

/-- A confirm's fields (R250, R251). -/
def Confirm.ok (c : Confirm) : Bool := decide (c.result < 4) && decide (c.logical < 64)

/-- The codewords that a receiver corrects lie in the frame (R241). -/
def FrameRx.ok (x : FrameRx) : Bool := decide (x.corrected < 65536)

/-- What a transfer carries (R220, R505): pecks and data units of 72 bytes, lines of 64; an index of 10 bits, 1 to 1,024 units
per row, and at most 32 rows. -/
def Send.ok (x : Send) : Bool :=
  decide (x.token < 256) && decide (x.kind < 8) && decide (x.bytes = 72 ∨ x.bytes = 64) &&
  decide (x.index + x.units ≤ 1024) && decide (1 ≤ x.perRow ∧ x.perRow ≤ 1024) && decide (x.index + x.units ≤ 32 * x.perRow)

/-- A receiver of a broadcast names a token of 8 bits (R224), and 1 to 1,024 units per row (R505). -/
def BusRecv.ok (x : BusRecv) : Bool := decide (x.token < 256) && decide (1 ≤ x.perRow ∧ x.perRow ≤ 1024)

/-- The slices of a beat at which trim words change (R76): at most eight slices. -/
def trimsOk (l : List TrimAt) : Bool := l.all (fun (t : TrimAt) => decide (t.slice < 8))

/-- Operands in a core store (R155, R160): the addresses of a matrix operation and of a vector operation. -/
def MatOp.ok : MatOp → Bool
  | .product row0 m _ _ a b acc outAddr outFmt =>
    decide (row0 + m ≤ 32 ∨ row0 = 0) && inCore a.addr && inCore b.addr && inCore b.scaleAddr && (acc.map inCore).getD true && inCore outAddr &&
      outFmt != .int4 && a.fmt != .f32 && a.fmt != .int4 && b.fmt != .f32 && (decide (a.fmt = .bf16) == decide (b.fmt = .bf16))
  | .outlier _ tile _ => decide (tile < 8)
  | .adapter _ tile _ x _ _ _ aAddr bAddr => decide (tile < 8) && inCore x.addr && inCore aAddr && inCore bAddr
def VecOp.ok : VecOp → Bool
  | .elementwise _ _ x y z outAddr _ => inCore x.addr && inCore y.addr && inCore z.addr && inCore outAddr
  | .special _ _ x outAddr => inCore x.addr && inCore outAddr
  | .reduction _ _ x outAddr => inCore x.addr && inCore outAddr
  | .encode _ _ x outAddr _ _ layer unit => inCore x.addr && inCore outAddr && decide (layer < 1024) && decide (unit < 2097152)
  | .decode _ _ p outAddr => inCore p && inCore outAddr
  | .gate layer _ logits => decide (layer < 1024) && inCore logits
  | .partSum _ own shares tag outAddr _ layer unit =>
    inCore own && shares.all inCore && inCore tag && inCore outAddr && decide (layer < 1024) && decide (unit < 2097152)
  | .kvEncode loc _ kAddr vAddr outAddr => decide (loc < 64) && inCore kAddr && inCore vAddr && inCore outAddr

/-- A well-formed command. Log entry 10 (DEDUCED). -/
def Instr.wellFormed : Instr → Bool
  | .tierSelect _ _ _ _ => true
  | .inputStaging _ _ input => decide (input.tile < 8) && decide (input.pos < 2097152)
  | .engineBeat issue _ outAddr _ _ _ trims => issue.ok && inCore outAddr && trimsOk trims
  | .mergeDeadline _ _ tile inst _ => decide (tile < 8) && decide (inst < 256)
  | .repeatWindow _ _ _ _ _ _ _ trims => trimsOk trims
  | .precisionSumComplete => true
  | .calibrationSlot _ _ _ => true
  | .trimSetCheck => true
  | .settlingDue _ _ _ _ => true
  | .ageTrigger _ _ _ => true
  | .engineDark _ _ => true
  | .freshTierEnd _ _ _ => true
  | .firstPass => true
  | .aszForceRound _ => true
  | .monitorConversion _ _ _ _ => true
  | .referenceSettled => true
  | .testBusCaptureArm _ => true
  | .matrixOp issue op ecc _ => issue.ok && op.ok && upsetsOk ecc
  | .vectorOp issue op ecc => issue.ok && op.ok && upsetsOk ecc
  | .coreStoreScrub _ _ => true
  | .lineRestore _ line => decide (line < 12288)
  | .stackRead issue addr lines dst _ _ _ => issue.ok && inStack addr && decide (1 ≤ lines) && inCore dst
  | .stackWrite issue src lines addr _ => issue.ok && inStack addr && decide (1 ≤ lines) && inCore src
  | .stackOutOfService _ _ => true
  | .pageWalk issue slot loc pos _ eccDir eccLeaf =>
    issue.ok && isSlot slot && decide (loc < 64) && decide (pos < 2097152) && upsetsOk eccDir && upsetsOk eccLeaf
  | .rodBoundary => true
  | .furlongBoundary => true
  | .mileBoundary => true
  | .clockLock => true
  | .fmarkPulse high _ => decide (1 ≤ high)
  | .refclkLoss => true
  | .refclkReturn => true
  | .refclkHoldExpiry => true
  | .operationOverrun issue agent => issue.ok && decide (agent < 16)
  | .slackWindow _ len => decide (16 ≤ len)
  | .admissionRun => true
  | .mcAdmissionCommand => true
  | .tbVarReq _ => true
  | .sbVarReq m => m.ok
  | .sbVarRefuse m => m.ok
  | .mcVariantRequest _ => true
  | .meshTransfer issue _ send ecc => issue.ok && send.ok && upsetsOk ecc
  | .flitForward _ _ => true
  | .flitArrival _ => true
  | .broadcast issue _ send recv ecc => issue.ok && send.ok && recv.all BusRecv.ok && upsetsOk ecc
  | .routerFaultEvent _ _ => true
  | .rtrMarkA _ _ => true
  | .rtrMarkB _ _ => true
  | .laneTrainingDone _ _ => true
  | .deskewDone _ _ => true
  | .helloFrame _ h rx => h.ok && rx.ok
  | .confirmFrame _ c rx => c.ok && rx.ok
  | .cablingDecision _ => true
  | .trainingStepTimeout _ => true
  | .frameSend issue _ dstGroup dstMod dstRegion send ecc => issue.ok && modOk dstGroup dstMod && decide (dstRegion < 8) && send.ok && upsetsOk ecc
  | .dataFrame _ rx hdr units _ _ => hdr.ok && rx.ok && decide (units.length = hdr.count + 1)
  | .heartbeatSend _ => true
  | .heartbeatReceived _ rx rodLo state msgs => rx.ok && decide (rodLo < 65536) && decide (state < 16) && decide (msgs.length ≤ 3) && msgs.all SbMsg.ok
  | .sbHeat m => m.ok
  | .sbLoss m => m.ok
  | .sbPresent m => m.ok
  | .laneSignalLoss _ => true
  | .heartbeatSlotMiss _ => true
  | .lossConfirmation group module => modOk group module
  | .lossDisableTimeout group module => modOk group module
  | .lnkRetrain _ _ => true
  | .mcCoordinates _ _ _ => true
  | .dispatchGrant issue _ ecc => issue.ok && upsetsOk ecc
  | .returnCombine issue _ _ _ outAddr ecc => issue.ok && inCore outAddr && upsetsOk ecc
  | .quarantineLapse _ expert => decide (expert < 512)
  | .spanSlot issue _ _ slot _ pos _ qAddr kvAddr _ _ _ => issue.ok && isSlot slot && decide (pos < 2097152) && inCore qAddr && inCore kvAddr
  | .spanMerge issue _ slot _ pos _ outAddr => issue.ok && isSlot slot && decide (pos < 2097152) && inCore outAddr
  | .pageExceptionService => true
  | .pageFrameRelease slot => isSlot slot
  | .ringRequestStart slot _ => isSlot slot
  | .ringStep _ _ => true
  | .intakePoll recs _ _ => recs.all isRecord
  | .submit raw _ => isRecord raw
  | .cancel raw => isRecord raw
  | .pause raw => isRecord raw
  | .resume raw => isRecord raw
  | .draft raw => isRecord raw
  | .hostReadCompletion _ _ token inst _ addr _ _ _ => decide (token < 255) && decide (inst < 256) && inCore addr
  | .entryIssue bushel => decide (bushel < 256)
  | .sampling bushel _ _ _ _ => decide (bushel < 256)
  | .commitDecision bushel slot => decide (bushel < 256) && isSlot slot
  | .returnRecord r => decide (r.bushel < 256) && isSlot r.slot
  | .egressSlot => true
  | .slotFree slot => isSlot slot
  | .intakeEnWrite _ => true
  | .mcOpenIntake => true
  | .mcCloseIntake => true
  | .ldStart _ => true
  | .ldAbort _ => true
  | .chunkArrival _ => true
  | .programStep _ _ _ => true
  | .ldFlipReq _ => true
  | .mcNameFlip => true
  | .sbEpoch m => m.ok
  | .adapterLoad raw => isRecord raw
  | .adapterDrop raw => isRecord raw
  | .adapterPartFetch _ _ => true
  | .adapterSwitch _ => true
  | .adapterSlotFree _ => true
  | .mcLoadCommand _ _ => true
  | .hallmarkReq nonce => decide (nonce.length = 48)
  | .keyRelease _ _ => true
  | .unsealComplete _ => true
  | .getVersion => true
  | .getCapabilities => true
  | .negotiateAlgorithms _ => true
  | .getDigests => true
  | .getCertificate slot _ _ => decide (slot < 8)
  | .challenge slot => decide (slot < 8)
  | .getMeasurements index => decide (index < 256)
  | .keyExchange slot => decide (slot < 8)
  | .spdmFinish _ => true
  | .keyUpdate op => decide (op < 256)
  | .spdmHeartbeat => true
  | .endSession => true
  | .ideKmKeyProgram stream => decide (stream < 256)
  | .ideIntegrityFailure stream => decide (stream < 256)
  | .lockInterface => true
  | .startInterface => true
  | .stopInterface => true
  | .functionLevelReset => true
  | .secWdogKick _ => true
  | .watchdogExpiry => true
  | .controlCoreBreach _ => true
  | .patrolSlot _ _ beats _ trims => decide (1 ≤ beats) && trimsOk trims
  | .vectorPatrolSlot _ _ => true
  | .trapLoad _ => true
  | .trapSetVerifyDone _ _ _ => true
  | .repairStepDone logical _ => decide (logical < 800)
  | .injArm _ => true
  | .mcChrysalis => true
  | .powerLoss => true
  | .perstNAssert => true
  | .mrstNAssert => true
  | .resetRelease _ => true
  | .stopRecordAck => true
  | .imgBegin _ _ => true
  | .imgData offset _ => decide (offset < 4294967296)
  | .imgEnd => true
  | .imgVerify _ => true
  | .query raw _ => isRecord raw
  | .queryPass _ _ _ trims => trims.all (fun (t : Nat × TrimAt) => decide (t.2.slice < 8))
  | .searchRound _ _ => true
  | .rtvFlipReq _ => true
  | .registerWrite addr _ => decide (addr % 4 = 0) && decide (addr < 134217728)
  | .cfgSealSet _ => true
  | .wideSelWrite _ => true
  | .wideSnapshotDone _ => true
  | .cfgCrcCommit _ => true
  | .cfgCrcAdopt _ => true
  | .crcPassEnd => true
  | .msixTableWrite _ _ => true
  | .sensorReading _ _ _ => true
  | .sensorRestore _ => true
  | .powerCapVariantRequest => true
  | .heatRerequest => true
  | .heatFlagClear => true
  | .clockDivide => true
  | .clockRestore => true
  | .comparatorTrip _ _ => true
  | .vinFault _ => true
  | .regulatorFault _ => true
  | .mcPowerOff => true
  | .mateNAssert => true
  | .inputEnable => true
  | .vinReapply => true
  | .hostLinkTraining _ gen width => decide (gen ≤ 6) && decide (width ≤ 16)
  | .mcPowerCapRaise _ => true
  | .pldmEventFetch => true
  | .dynamicAddressAssignment _ => true
  | .inputRangeExcursion _ => true

end Sys2Proof
end

