-- ==== Sys2Proof/Safety.lean ====
section
/-! DEFINITION. What the claims count as a sound machine, and as a safe run. -/
namespace Sys2Proof.Machine

/-- The memories and the register file are in their canonical form: keys strictly rising, and no entry equal to what an
unlisted key reads as. -/
structure State.Canonical (s : State) : Prop where
  regs : SMap.wf regReset s.regs = true
  store : SMap.wf (fun _ => (0 : Byte)) s.store = true
  stack : SMap.wf (fun _ => (0 : Byte)) s.mem.stack = true
  boot : SMap.wf (fun _ => (0xFF : Byte)) s.boot.store = true

/-- What every step keeps: the canonical form, and a rod count from 0 to P - 1 (R178). -/
structure State.Inv (s : State) : Prop where
  canonical : s.Canonical
  rod : s.tb.rod < rodP

/-- A safe run of `k` steps: it ends in a next state and never in a fault or a refusal. -/
def safeRun (k : Nat) (s : State) : Prop := ∃ t, Host.Core.run core k s = .next t

end Sys2Proof.Machine
end

