-- ==== Sys2Proof/Certificates/Slice0/Obligations.lean ====
section
/-! DEFINITION. The statements for the provers, family by family. Each says of which rules of the spec it speaks. -/
open Sys2Proof Sys2Proof.Machine

/-- Every register outside the listed addresses reads as it did. -/
def Sys2Proof.Machine.regsKept (s t : State) (as : List Nat) : Prop := ∀ a, a ∉ as → t.rd a = s.rd a


/-! ### The register interface (R12 to R18, R461 to R477) -/

/-- The address lies in a register whose writes are commands of their own. -/
def Sys2Proof.Machine.ownCommand (a : Nat) : Bool :=
  match locate a with
  | none => false
  | some (_, a0) => decide (a0 ∈ [TB_VAR_REQ_REQ.addr, ASZ_FORCE_ROUND.addr, MON_TB_SEL_CAPTURE.addr, RTR_CTRL_MARK_A.addr,
      LNK_CTRL_RETRAIN.addr, RQT_CTRL_INTAKE_EN.addr, LD_CTRL_START.addr, LD_FLIP_REQ.addr, SEC_WDOG_KICK.addr, TRAP_CTRL_LOAD.addr,
      INJ_CTRL_ARM.addr, RTV_FLIP_REQ.addr, GLB_LOCK_CFG_SEAL.addr, WIDE_SEL_ADDR.addr, CFG_CRC_CTRL_COMMIT.addr])

/-- The registers that handling a write may change besides the one written. -/
def Sys2Proof.Machine.writeBooks : List Nat :=
  [GLB_ACC_ERR_COUNT.addr, CFG_WREF_VALID.addr, CFG_WREF_DATA_VALUE.addr, CFG_WREF_CNT_VALUE.addr, CFG_CRC_CTRL_OPEN.addr,
   SEC_VIOL_THERMAL_WRITE.addr, SEC_VIOL_CNT_COUNT.addr, MON_STAT_RUNNING.addr]

/-- A write passes the gates before the register: no chrysalis mode for the host, the T bit where the guard asks for it, all
byte enables, and the core domain on. -/
def Sys2Proof.Machine.writeReaches (s : State) (w : Wr) (a : Nat) (r : RegDef) : Bool :=
  !(decide (w.port = .host) && decide (s.fld GLB_STATE_STATE = 2)) && !(decide (w.port = .host) && s.sec.guard && !w.tbit) &&
    decide (w.be = 0xF) && !(inCoreDomain r && s.domainOff (coreOf a)) && !r.wide

/-- The condition of a flag of PWR_FLAG stands (R13, R479). -/
def Sys2Proof.Machine.State.stands (s : State) (f : Fld) : Bool :=
  (decide (f = PWR_FLAG_VIN_LOW) && s.therm.inputLow) || (decide (f = PWR_FLAG_VIN_HIGH) && decide (62000 < s.fld PWR_VIN_VIN)) ||
  (decide (f = PWR_FLAG_REG_FAULT) && s.isSet PWR_STAT_REG_FAULT)

/-- A write through either port that reaches a register without commands of its own completes, and each field that is not
refused afterwards holds what its access code says: RO (and W1S) the old value, RW and RWS the written bits, W1C the old value
with the bits cleared where a 1 was written, except that a flag of PWR_FLAG whose condition stands (the input below 54 V, above
62 V, or a regulator fault now) reads 1. The three registers whose tables bound the stored value are the subject of
BoundedFieldsStoreWithinTheirBounds. -/
def Sys2Proof.Machine.PlainWriteFollowsAccessCodes : Prop :=
  ∀ (s : State) (w : Wr) (a : Nat) (r : RegDef) (f : FieldDef), a % 4 = 0 → regAt a = some r → f ∈ r.fields → ownCommand a = false →
    r.name ≠ "ENG_WIT_CFG" → r.name ≠ "THM_SKIP_AT" → r.name ≠ "PWR_CAP" → writeReaches s w a r = true →
    s.refuses (s.blockRuns r.blk a) a f = .no →
    ∃ t, exec (.registerWrite a w) s = .next t ∧
      getBits (t.rd a) f.fld.hi f.fld.lo =
        match f.acc with
        | .ro | .w1s => getBits (s.rd a) f.fld.hi f.fld.lo
        | .rw | .rws => wbits w.data f.fld
        | .w1c =>
          if a = PWR_FLAG_VIN_LOW.addr ∧ s.stands f.fld = true then 1
          else getBits (s.rd a) f.fld.hi f.fld.lo &&& (wbits w.data f.fld ^^^ (2 ^ (f.fld.hi + 1 - f.fld.lo) - 1))

/-- An RWS field under the seal, whatever its class, and a class F field of a running block keep their value when written; the refusal is counted in CFG_WREF_CNT, and while
CFG_WREF.VALID is 0 the address and the data are captured, with SEALED telling the seal from the class, and VALID set. An
earlier capture is not replaced. -/
def Obligations.RefusedWriteKeepsFieldAndIsCaptured : Prop :=
  ∀ (s : State) (w : Wr) (a : Nat) (r : RegDef) (f : FieldDef), a % 4 = 0 → a < 134217728 → regAt a = some r → f ∈ r.fields →
    ownCommand a = false → writeReaches s w a r = true →
    ((f.acc = .rws ∧ s.isSet GLB_LOCK_CFG_SEAL = true) ∨ (f.cls = .frozen ∧ s.blockRuns r.blk a = true)) →
    ∃ t, exec (.registerWrite a w) s = .next t ∧
      getBits (t.rd a) f.fld.hi f.fld.lo = getBits (s.rd a) f.fld.hi f.fld.lo ∧
      t.fld CFG_WREF_CNT_VALUE = min (s.fld CFG_WREF_CNT_VALUE + 1) CFG_WREF_CNT_VALUE.top ∧
      t.fld CFG_WREF_VALID = 1 ∧
      (s.fld CFG_WREF_VALID = 0 →
        t.fld CFG_WREF_ADDR = a % 2 ^ (CFG_WREF_ADDR.hi + 1 - CFG_WREF_ADDR.lo) ∧ t.rd CFG_WREF_DATA_VALUE.addr = w.data ∧
        (f.acc = .rws → s.isSet GLB_LOCK_CFG_SEAL = true → t.fld CFG_WREF_SEALED = 1) ∧
        (s.isSet GLB_LOCK_CFG_SEAL = false → t.fld CFG_WREF_SEALED = 0)) ∧
      (s.fld CFG_WREF_VALID = 1 → t.fld CFG_WREF_ADDR = s.fld CFG_WREF_ADDR ∧
        t.rd CFG_WREF_DATA_VALUE.addr = s.rd CFG_WREF_DATA_VALUE.addr)

/-- A read of an address in no register (and outside the monitor's record buffer) returns 0. A host write in chrysalis mode sets
GLB_ACC_ERR.CHRYSALIS, while a read of a module register other than GLB_STATE returns what it would outside it; outside it, where the T-bit guard lets the write pass, a write
to an address in no register (and outside the monitor's record buffer) sets UNMAPPED, and a write with a byte enable clear to a
register sets PARTIAL. Each counts once in GLB_ACC_ERR.COUNT, changes no other register (it is captured in no CFG_WREF) and nothing
else of the state but class B values that fall due where a block has stopped. A write that reaches a register whose fields are all
RO changes no register at all: it is neither flagged nor counted nor captured. -/
def Obligations.DroppedWritesOnlyCount : Prop :=
  ∀ (s : State) (w : Wr) (a : Nat),
    (∀ p, regAt a = none → inMonBuffer a = false → s.readReg p a = 0) ∧
    (∀ p r, regAt a = some r → r.blk = .glb → a ≠ GLB_STATE_STATE.addr →
      (s.put GLB_STATE_STATE 2).readReg p a = s.readReg p a) ∧
    (w.port = .host → s.fld GLB_STATE_STATE = 2 →
      ∃ t, exec (.registerWrite a w) s = .next t ∧ t.fld GLB_ACC_ERR_CHRYSALIS = 1 ∧
        t.fld GLB_ACC_ERR_COUNT = min (s.fld GLB_ACC_ERR_COUNT + 1) GLB_ACC_ERR_COUNT.top ∧
        regsKept s t [GLB_ACC_ERR_COUNT.addr] ∧ t = { s with regs := t.regs, waitB := t.waitB }) ∧
    (¬(w.port = .host ∧ s.fld GLB_STATE_STATE = 2) → ¬(w.port = .host ∧ s.sec.guard ∧ !w.tbit) →
      (regAt a = none → inMonBuffer a = false →
        ∃ t, exec (.registerWrite a w) s = .next t ∧ t.fld GLB_ACC_ERR_UNMAPPED = 1 ∧
          t.fld GLB_ACC_ERR_COUNT = min (s.fld GLB_ACC_ERR_COUNT + 1) GLB_ACC_ERR_COUNT.top ∧
          regsKept s t [GLB_ACC_ERR_COUNT.addr] ∧ t = { s with regs := t.regs, waitB := t.waitB }) ∧
      ((regAt a).isSome → w.be ≠ 0xF →
        ∃ t, exec (.registerWrite a w) s = .next t ∧ t.fld GLB_ACC_ERR_PARTIAL = 1 ∧
          t.fld GLB_ACC_ERR_COUNT = min (s.fld GLB_ACC_ERR_COUNT + 1) GLB_ACC_ERR_COUNT.top ∧
          regsKept s t [GLB_ACC_ERR_COUNT.addr] ∧ t = { s with regs := t.regs, waitB := t.waitB }) ∧
      (∀ r, regAt a = some r → w.be = 0xF → ownCommand a = false → (∀ f ∈ r.fields, f.acc = .ro ∧ f.cls = .none) →
        r.name ≠ "ENG_WIT_CFG" → r.name ≠ "THM_SKIP_AT" → r.name ≠ "PWR_CAP" →
        ∃ t, exec (.registerWrite a w) s = .next t ∧ regsKept s t [] ∧ t = { s with regs := t.regs, waitB := t.waitB }))

/-- Whatever its port, data and address, a write to an address whose register has no command of its own completes, and changes
no register but the one written and the interface's own (the captures and counts of refused and dropped writes, the open flag of
the configuration CRC, the monitor's running flag), and of the rest of the state only the class B values that wait, the CRC's
open window and the monitor's sequence position: every memory and every other unit stays as it was. -/
def Sys2Proof.Machine.RegisterWriteFrame : Prop :=
  ∀ (s : State) (w : Wr) (a : Nat), ownCommand a = false →
    ∃ t, exec (.registerWrite a w) s = .next t ∧ regsKept s t (a :: writeBooks) ∧
      t = { s with regs := t.regs, waitB := t.waitB, crc := t.crc, mon := t.mon }

/-- For a write that reaches the register: ENG_WIT_CFG.TOL of every engine, unsealed, stores values below 3 as 3 and above 15 as
15; THM_SKIP_AT.TEMP and PWR_CAP.CAP store a value no higher than the one in force, not below 0x5500 and 0x1770; a higher value
is dropped, and sets SEC_VIOL.THERMAL_WRITE. TEMP is in two's complement: a negative one is stored as 0x5500. -/
def Sys2Proof.Machine.BoundedFieldsStoreWithinTheirBounds : Prop :=
  ∀ (s : State) (w : Wr),
    (∀ (n : CoreId) (e : EngId) (r : RegDef), regAt (ENG_WIT_CFG_TOL.addr + engI n e) = some r →
      writeReaches s w (ENG_WIT_CFG_TOL.addr + engI n e) r = true → s.isSet GLB_LOCK_CFG_SEAL = false →
      ∃ t, exec (.registerWrite (ENG_WIT_CFG_TOL.addr + engI n e) w) s = .next t ∧
        t.fldAt (engI n e) ENG_WIT_CFG_TOL = max 3 (min 15 (wbits w.data ENG_WIT_CFG_TOL))) ∧
    (∀ (f : Fld) (low : Nat) (r : RegDef), (f, low) = (THM_SKIP_AT_TEMP, 0x5500) ∨ (f, low) = (PWR_CAP_CAP, 0x1770) →
      regAt f.addr = some r → writeReaches s w f.addr r = true →
      ∃ t, exec (.registerWrite f.addr w) s = .next t ∧
        (f = THM_SKIP_AT_TEMP → 0x8000 ≤ wbits w.data f → t.fld f = low) ∧
        (f = PWR_CAP_CAP ∨ wbits w.data f < 0x8000 →
          (wbits w.data f ≤ s.inForceAt 0 f → t.fld f = max low (wbits w.data f)) ∧
          (s.inForceAt 0 f < wbits w.data f → t.rd f.addr = s.rd f.addr ∧ t.fld SEC_VIOL_THERMAL_WRITE = 1)))

/-- Register writes act on each field by its access code, within the bounds its table gives. -/
def Obligations.RegisterWritesAct : Prop := PlainWriteFollowsAccessCodes ∧ BoundedFieldsStoreWithinTheirBounds

/-- A write that reaches a register all of whose fields are RW or RWS of class B, unrefused, while the register's block runs:
a read gives the new word, and the word in force stays the one that was in force. While the block does not run, the new word is in
force at once. (TB_PREC_THR and ASZ_MODE have that shape; the registers with bounds are left to
BoundedFieldsStoreWithinTheirBounds.) -/
def Sys2Proof.Machine.BoundaryClassWaitsForItsFurlong : Prop :=
  ∀ (s : State) (w : Wr) (a : Nat) (r : RegDef), a % 4 = 0 → regAt a = some r → ownCommand a = false →
    r.name ≠ "ENG_WIT_CFG" → r.name ≠ "THM_SKIP_AT" → r.name ≠ "PWR_CAP" → writeReaches s w a r = true → r.fields ≠ [] →
    (∀ f ∈ r.fields, f.cls = .boundary ∧ (f.acc = .rw ∨ f.acc = .rws) ∧ s.refuses (s.blockRuns r.blk a) a f = .no) →
    ∃ t, exec (.registerWrite a w) s = .next t ∧
      (∀ f ∈ r.fields, getBits (t.rd a) f.fld.hi f.fld.lo = wbits w.data f.fld) ∧
      (s.blockRuns r.blk a = true → t.inForce a = s.inForce a) ∧
      (s.blockRuns r.blk a = false → t.inForce a = t.rd a)

/-- A register write changes its register and the interface's books only; class B waits. -/
def Obligations.WritesTouchOnlyTheirRegister : Prop := RegisterWriteFrame ∧ BoundaryClassWaitsForItsFurlong

/-- A write of GLB_LOCK that reaches the register: CFG_SEAL is 1 afterwards where it was 1 or the written bit is 1, and 0
otherwise. Only GLB_LOCK, and where the write was refused the capture registers, change. -/
def Sys2Proof.Machine.SealSetOnceUntilReset : Prop :=
  ∀ (s : State) (w : Wr) (r : RegDef), regAt GLB_LOCK_CFG_SEAL.addr = some r → writeReaches s w GLB_LOCK_CFG_SEAL.addr r = true →
    ∃ t, exec (.cfgSealSet w) s = .next t ∧
      (t.isSet GLB_LOCK_CFG_SEAL = (s.isSet GLB_LOCK_CFG_SEAL || decide (wbits w.data GLB_LOCK_CFG_SEAL = 1))) ∧
      regsKept s t (GLB_LOCK_CFG_SEAL.addr :: writeBooks) ∧ t = { s with regs := t.regs, waitB := t.waitB, crc := t.crc }

/-- A write of WIDE_SEL that passes the gates, through either port, clears VALID and sets BUSY in that port's mailbox with the
written address. When the snapshot of a busy mailbox is done, BUSY is 0 and VALID is 1; of TB_ROD the words are the rod count's
low and high 32 bits and the others 0; an address that names no wide register sets ERR and all words are 0. The other port's mailbox
and everything else stay as they were. -/
def Sys2Proof.Machine.WideMailboxReadsSnapshot : Prop :=
  ∀ (s : State),
    (∀ (w : Wr) (r : RegDef), regAt WIDE_SEL_ADDR.addr = some r → writeReaches s w WIDE_SEL_ADDR.addr r = true →
      ∃ t, exec (.wideSelWrite w) s = .next t ∧ (t.box w.port).valid = false ∧ (t.box w.port).busy = true ∧
        (t.box w.port).addr = wbits w.data WIDE_SEL_ADDR * 4 ∧ (∀ p, p ≠ w.port → t.box p = s.box p) ∧
        t = { s with hostBox := t.hostBox, coreBox := t.coreBox }) ∧
    (∀ p : PortId, (s.box p).busy = true →
      ∃ t, exec (.wideSnapshotDone p) s = .next t ∧ (t.box p).busy = false ∧ (t.box p).valid = true ∧
        ((s.box p).addr = TB_ROD_COUNT.addr → (t.box p).err = false ∧
          (t.box p).data = [BitVec.ofNat 32 s.tb.rod, BitVec.ofNat 32 (s.tb.rod / 2 ^ 32)] ++ List.replicate 14 0) ∧
        (s.wide (s.box p).addr = none → (t.box p).err = true ∧ (t.box p).data = List.replicate 16 0) ∧
        (∀ q, q ≠ p → t.box q = s.box q) ∧ t = { s with hostBox := t.hostBox, coreBox := t.coreBox })

/-- The seal is set once; wide reads go through the port's own mailbox. -/
def Obligations.SealAndWideMailboxes : Prop := SealSetOnceUntilReset ∧ WideMailboxReadsSnapshot

/-- A write of CFG_CRC_CTRL that passes the gates. With COMMIT: CFG_CRC_INF takes CFG_CRC_REF, OPEN is 0, ARMED is 1, ALARM falls
only where the write also clears it, and a waiting ADOPT is cancelled, whatever the ADOPT bit. With ADOPT alone the reference
in force stays and an ADOPT waits, for the first pass that starts after it (one that waits already is not started again): at the end of a pass that started after it (no injection
of point 0x1E armed, the control core running) the pass's CRC is the reference in force, OPEN is 0 and ARMED is 1. -/
def Sys2Proof.Machine.CommitPutsReferenceInForce : Prop :=
  (∀ (s : State) (w : Wr) (r : RegDef), regAt CFG_CRC_CTRL_COMMIT.addr = some r →
    writeReaches s w CFG_CRC_CTRL_COMMIT.addr r = true →
    (wbits w.data CFG_CRC_CTRL_COMMIT = 1 →
      ∃ t, exec (.cfgCrcCommit w) s = .next t ∧ t.rd CFG_CRC_INF_REF.addr = s.rd CFG_CRC_REF_REF.addr ∧
        t.fld CFG_CRC_CTRL_OPEN = 0 ∧ t.fld CFG_CRC_CTRL_ARMED = 1 ∧ t.crc.adopt = false ∧
        (t.isSet CFG_CRC_CTRL_ALARM = (s.isSet CFG_CRC_CTRL_ALARM && decide (wbits w.data CFG_CRC_CTRL_ALARM = 0))) ∧
        regsKept s t (CFG_CRC_INF_REF.addr :: writeBooks) ∧ t = { s with regs := t.regs, crc := t.crc, waitB := t.waitB }) ∧
    (wbits w.data CFG_CRC_CTRL_COMMIT = 0 → wbits w.data CFG_CRC_CTRL_ADOPT = 1 →
      ∃ t, exec (.cfgCrcAdopt w) s = .next t ∧ t.rd CFG_CRC_INF_REF.addr = s.rd CFG_CRC_INF_REF.addr ∧
        t.crc.adopt = true ∧ t.crc.adoptPass = (s.crc.adopt && s.crc.adoptPass) ∧
        regsKept s t writeBooks ∧ t = { s with regs := t.regs, crc := t.crc, waitB := t.waitB })) ∧
  (∀ s : State, s.isSet SEC_STAT_RUNNING = true → s.injects 0x1E 0 0 = none → s.crc.adopt = true → s.crc.adoptPass = true →
    ∃ t, exec .crcPassEnd s = .next t ∧ t.rd CFG_CRC_INF_REF.addr = s.configCrc ∧ t.rd CFG_CRC_CUR_CRC.addr = s.configCrc ∧
      t.fld CFG_CRC_CTRL_OPEN = 0 ∧ t.fld CFG_CRC_CTRL_ARMED = 1 ∧ t.crc.adopt = false)

/-- At the end of a pass (control core running, no injection of point 0x1E armed, no ADOPT waiting) CFG_CRC_CUR is the CRC of the
covered set. While ARMED is 1, MATCH is the comparison with CFG_CRC_INF. A match leaves ALARM and ALARMS as they were. A mismatch
with no covered write open, or at or after 1,024 rods from the earliest open one, sets ALARM and counts in ALARMS; a mismatch
before that leaves both as they were. -/
def Sys2Proof.Machine.CrcPassComparesAndAlarms : Prop :=
  ∀ s : State, s.isSet SEC_STAT_RUNNING = true → s.injects 0x1E 0 0 = none → s.crc.adopt = false →
    ∃ t, exec .crcPassEnd s = .next t ∧ t.rd CFG_CRC_CUR_CRC.addr = s.configCrc ∧
      (s.isSet CFG_CRC_CTRL_ARMED = true → t.isSet CFG_CRC_CTRL_MATCH = decide (s.configCrc = s.rd CFG_CRC_INF_REF.addr)) ∧
      (s.isSet CFG_CRC_CTRL_ARMED = true → s.configCrc ≠ s.rd CFG_CRC_INF_REF.addr →
        (s.isSet CFG_CRC_CTRL_OPEN = false ∨ (∃ r, s.crc.openRod = some r ∧ r + 1024 ≤ s.sec.clockRods) →
          t.fld CFG_CRC_CTRL_ALARM = 1 ∧ t.fld CFG_CRC_CTRL_ALARMS = min (s.fld CFG_CRC_CTRL_ALARMS + 1) CFG_CRC_CTRL_ALARMS.top) ∧
        (s.isSet CFG_CRC_CTRL_OPEN = true → (∃ r, s.crc.openRod = some r ∧ s.sec.clockRods < r + 1024) →
          t.fld CFG_CRC_CTRL_ALARM = s.fld CFG_CRC_CTRL_ALARM ∧ t.fld CFG_CRC_CTRL_ALARMS = s.fld CFG_CRC_CTRL_ALARMS)) ∧
      (s.isSet CFG_CRC_CTRL_ARMED = true → s.configCrc = s.rd CFG_CRC_INF_REF.addr →
        t.fld CFG_CRC_CTRL_ALARM = s.fld CFG_CRC_CTRL_ALARM ∧ t.fld CFG_CRC_CTRL_ALARMS = s.fld CFG_CRC_CTRL_ALARMS)

/-- The configuration CRC is committed, adopted, compared and alarmed on. -/
def Obligations.ConfigurationCrc : Prop := CommitPutsReferenceInForce ∧ CrcPassComparesAndAlarms

/-- Outside chrysalis mode: masking a vector leaves it out of the unmasked ones and sends nothing; unmasking one that is pending
sends it and clears its pending bit, and unmasking one that is not pending sends nothing. In either case only the MSI-X tables
change, and of another vector nothing. -/
def Sys2Proof.Machine.MsixMaskAndUnmask : Prop :=
  ∀ (s : State) (v : Fin 64), s.fld GLB_STATE_STATE ≠ 2 →
    (∃ t, exec (.msixTableWrite v true) s = .next t ∧ v.val ∉ t.msix.unmasked ∧ t.msix.sent = s.msix.sent ∧
      t.msix.pend = s.msix.pend ∧ t = { s with msix := t.msix } ∧ ∀ u, u ≠ v.val → (u ∈ t.msix.unmasked ↔ u ∈ s.msix.unmasked)) ∧
    (∃ t, exec (.msixTableWrite v false) s = .next t ∧ v.val ∈ t.msix.unmasked ∧ v.val ∉ t.msix.pend ∧
      (v.val ∈ s.msix.pend → t.msix.sent = v.val :: s.msix.sent) ∧ (v.val ∉ s.msix.pend → t.msix.sent = s.msix.sent) ∧
      t = { s with msix := t.msix } ∧
      ∀ u, u ≠ v.val → ((u ∈ t.msix.unmasked ↔ u ∈ s.msix.unmasked) ∧ (u ∈ t.msix.pend ↔ u ∈ s.msix.pend)))

/-- REGISTER_WRITE at the address of a register whose action bits have a command of their own does what that command does, for
every port, data and instance. -/
def Sys2Proof.Machine.ActionWritesRunTheirCommand : Prop :=
  ∀ (s : State) (w : Wr),
    exec (.registerWrite TB_VAR_REQ_REQ.addr w) s = exec (.tbVarReq w) s ∧
    exec (.registerWrite ASZ_FORCE_ROUND.addr w) s = exec (.aszForceRound w) s ∧
    exec (.registerWrite MON_TB_SEL_CAPTURE.addr w) s = exec (.testBusCaptureArm w) s ∧
    exec (.registerWrite RQT_CTRL_INTAKE_EN.addr w) s = exec (.intakeEnWrite w) s ∧
    exec (.registerWrite LD_CTRL_START.addr w) s = exec (.ldStart w) s ∧
    exec (.registerWrite LD_FLIP_REQ.addr w) s = exec (.ldFlipReq w) s ∧
    exec (.registerWrite SEC_WDOG_KICK.addr w) s = exec (.secWdogKick w) s ∧
    exec (.registerWrite TRAP_CTRL_LOAD.addr w) s = exec (.trapLoad w) s ∧
    exec (.registerWrite INJ_CTRL_ARM.addr w) s = exec (.injArm w) s ∧
    exec (.registerWrite RTV_FLIP_REQ.addr w) s = exec (.rtvFlipReq w) s ∧
    exec (.registerWrite GLB_LOCK_CFG_SEAL.addr w) s = exec (.cfgSealSet w) s ∧
    exec (.registerWrite WIDE_SEL_ADDR.addr w) s = exec (.wideSelWrite w) s ∧
    exec (.registerWrite CFG_CRC_CTRL_COMMIT.addr w) s = exec (.cfgCrcCommit w) s ∧
    (∀ n : CoreId, exec (.registerWrite (RTR_CTRL_MARK_A.addr + coreI n) w) s = exec (.rtrMarkA n w) s) ∧
    (∀ p : LaneId, exec (.registerWrite (LNK_CTRL_RETRAIN.addr + lnkI p) w) s = exec (.lnkRetrain p w) s)

/-- Masking holds vectors; a write of an action register runs and completes its own command. -/
def Obligations.MaskingAndActionWrites : Prop := MsixMaskAndUnmask ∧ ActionWritesRunTheirCommand

/-! ### The engine array (R33 to R90, R104 to R119) -/

/-- TIER_SELECT completes on every running core (no injection of point 0x07 armed for the tier). A select of the live tier clears the
refusal flag and counts nothing. A select of another tier that is not being programmed, whose row map is installed and whose metadata
passes, makes it the live tier; only ENG_STAT changes. A select of a tier that is being programmed, has no row map, or whose metadata
or scale rows fail their check now or before, is refused: it sets SEL_REFUSED, counts in ENG_SEL_REFUSE, and leaves the previous tier
live; with the metadata good nothing else changes. The beats that follow depend on the select: the engine notes whether it was
refused. -/
def Sys2Proof.Machine.TierSelectMakesLiveOrRefuses : Prop :=
  ∀ (s : State) (core : CoreId) (eng : EngId) (tier : TierId) (badWord : Bool), s.coreRunning core = true →
    s.injects 0x07 core eng ≠ some tier.val →
    ((s.isSetAt (engI core eng) ENG_STAT_LIVE = true ∧ s.fldAt (engI core eng) ENG_STAT_LIVE_TIER = tier) →
      ∃ t, exec (.tierSelect core eng tier badWord) s = .next t ∧ t.fldAt (engI core eng) ENG_STAT_SEL_REFUSED = 0 ∧
        t.fldAt (engI core eng) ENG_STAT_LIVE = 1 ∧ t.fldAt (engI core eng) ENG_STAT_LIVE_TIER = tier ∧
        t.engine core eng = { s.engine core eng with selBad := false } ∧
        regsKept s t [ENG_STAT_LIVE.addr + engI core eng] ∧ t = { s with regs := t.regs, engines := t.engines, tiers := t.tiers }) ∧
    (¬(s.isSetAt (engI core eng) ENG_STAT_LIVE = true ∧ s.fldAt (engI core eng) ENG_STAT_LIVE_TIER = tier) →
      (s.selectBad core eng tier = false → badWord = false →
        ∃ t, exec (.tierSelect core eng tier badWord) s = .next t ∧ t.fldAt (engI core eng) ENG_STAT_LIVE = 1 ∧
          t.fldAt (engI core eng) ENG_STAT_LIVE_TIER = tier ∧ t.fldAt (engI core eng) ENG_STAT_SEL_REFUSED = 0 ∧
          t.fldAt (engI core eng) ENG_STAT_EXACT = (if (s.tier core eng tier).exact then 1 else 0) ∧
          t.engine core eng = { s.engine core eng with selBad := false } ∧
          regsKept s t [ENG_STAT_LIVE.addr + engI core eng] ∧ t = { s with regs := t.regs, engines := t.engines }) ∧
      (s.selectBad core eng tier = true ∨ badWord = true →
        ∃ t, exec (.tierSelect core eng tier badWord) s = .next t ∧ t.fldAt (engI core eng) ENG_STAT_SEL_REFUSED = 1 ∧
          t.fldAt (engI core eng) ENG_SEL_REFUSE_COUNT = min (s.fldAt (engI core eng) ENG_SEL_REFUSE_COUNT + 1) ENG_SEL_REFUSE_COUNT.top ∧
          t.fldAt (engI core eng) ENG_STAT_LIVE = s.fldAt (engI core eng) ENG_STAT_LIVE ∧
          t.fldAt (engI core eng) ENG_STAT_LIVE_TIER = s.fldAt (engI core eng) ENG_STAT_LIVE_TIER ∧
          t.engine core eng = { s.engine core eng with selBad := true } ∧
          ((s.tier core eng tier).bad = false → badWord = false →
            regsKept s t [ENG_STAT_LIVE.addr + engI core eng, ENG_SEL_REFUSE_COUNT.addr + engI core eng] ∧
            t = { s with regs := t.regs, engines := t.engines })))

/-- INPUT_STAGING completes with the core running, the tile declared and a staging register free: the input (the pecks of its row that
came over a broadcast bus, else the vector that the command brings) joins the vectors already staged, at the tile's input bits, on
pass 0, with its ZERO indication the test that every staged element is 0, and its pecks leave the bus registers. A NaN, an infinity or
a NaN scale in the input sets its sticky flag, and the elements removed for the outlier lane are counted in ENG_OL_CNT. No other
engine, no other register than the engine's staging flags and counts, and no other state changes. -/
def Sys2Proof.Machine.StagingQueuesTheVector : Prop :=
  ∀ (s : State) (core : CoreId) (eng : EngId) (input : StageIn) (d : TileDecl) (src : Source), s.coreRunning core = true →
    s.tileDecl core eng input.tile = some d → (s.engine core eng).staged.length < 2 →
    src = ((s.engine core eng).busSource input.row).getD input.source →
    ∃ t g, exec (.inputStaging core eng input) s = .next t ∧
      t.engine core eng = { s.engine core eng with
        bus := (s.engine core eng).bus.filter (fun p => p.row ≠ input.row.val), staged := (s.engine core eng).staged ++ [g] } ∧
      g.input = { input with source := src } ∧ g.a = d.inBits ∧ g.pass = 0 ∧ (g.zero = g.x.all (fun v => v = 0)) ∧
      g.x.length ≤ d.nAct ∧
      ((specials src).1 = true → t.fldAt (engI core eng) ENG_IN_FLAG_NAN_IN = 1) ∧
      ((specials src).2.1 = true → t.fldAt (engI core eng) ENG_IN_FLAG_INF_IN = 1) ∧
      ((specials src).2.2 = true → t.fldAt (engI core eng) ENG_IN_FLAG_SCALE_NAN = 1) ∧
      t.fldAt (engI core eng) ENG_OL_CNT_COUNT =
        min (s.fldAt (engI core eng) ENG_OL_CNT_COUNT + g.outliers.length) ENG_OL_CNT_COUNT.top ∧
      (∀ (c' e' : Nat), engKey c' e' ≠ engKey core eng → t.engine c' e' = s.engine c' e') ∧
      regsKept s t ([ENG_IN_FLAG_NAN_IN, ENG_OL_CNT_COUNT, ENG_OL_OVF_COUNT, ENG_WD_FLAG_OL_OVF, ENG_CRUSH_TRIG_COUNT].map
        (fun f => f.addr + engI core eng)) ∧
      t = { s with regs := t.regs, engines := t.engines }

/-- TIER_SELECT and INPUT_STAGING complete: a tier goes live or is refused; the vector is queued. -/
def Obligations.TiersAndStaging : Prop := TierSelectMakesLiveOrRefuses ∧ StagingQueuesTheVector

/-- ENGINE_BEAT completes whenever the tables place its issue on the engine: it takes the vector in front of the staging registers,
whether its input tokens are complete or late. Where an input is late the issue is skipped, and SEQ_LATE_CNT and TB_LATE_CNT count it.
With the live tier selected for the vector's row (no refused select before it), the row expected and not void, and the vector all zero
on an engine that is neither dead nor distrusted, the beat is skipped: ENG_SKIP_CNT counts it, and no conversion is counted or drawn;
where its tile awaits no contribution and nothing else waits at the output stage, its row arrives in the OUT token. -/
def Obligations.BeatTakesTheStagedVector : Prop :=
  ∀ (s u : State) (issue : Issue) (eng : EngId) (outAddr w wi : Nat) (up : Bool) (trims : List TrimAt) (g : Staged) (rest : List Staged),
    s.runs issue (.engine eng.val) = true → (s.engine issue.core eng).staged = g :: rest →
    u = (s.consume issue).dropStaged issue.core eng →
    (∃ t, exec (.engineBeat issue eng outAddr w wi up trims) s = .next t ∧ (t.engine issue.core eng).staged = rest) ∧
    (∀ v k d live, s.ready issue = .run v k → v.getLsbD g.input.row = false → g.zero = true →
      (issue.ins.any (· ≠ 255) = true → (u.rowsIn issue).getLsbD g.input.row = true) →
      (s.engine issue.core eng).selBad = false → s.isSetAt (engI issue.core eng) ENG_STAT_LIVE = true →
      s.fldAt (engI issue.core eng) ENG_STAT_LIVE_TIER = live → u.rowTier issue.core eng live issue.ins k g.input.row = some live →
      s.tileDecl issue.core eng g.input.tile = some d → (s.engine issue.core eng).dead = false →
      s.untrustedUnit issue.core eng = false →
      ∃ t, exec (.engineBeat issue eng outAddr w wi up trims) s = .next t ∧
        t.fldAt (engI issue.core eng) ENG_SKIP_CNT_COUNT =
          min (s.fldAt (engI issue.core eng) ENG_SKIP_CNT_COUNT + 1) ENG_SKIP_CNT_COUNT.top ∧
        t.fldAt (engI issue.core eng) ENG_CONV_SAT_COUNT = s.fldAt (engI issue.core eng) ENG_CONV_SAT_COUNT ∧
        t.freeCtr = s.freeCtr ∧
        ((s.engine issue.core eng).outs = [] → d.mirror = [] → d.adapterMerge = false → issue.out ≠ 255 →
          (t.token issue.core issue.out).arrived.getLsbD g.input.row = true)) ∧
    (∀ m k, s.ready issue = .late m k →
      ∃ t, exec (.engineBeat issue eng outAddr w wi up trims) s = .next t ∧
        t.fldAt (coreI issue.core) SEQ_LATE_CNT_COUNT =
          min (s.fldAt (coreI issue.core) SEQ_LATE_CNT_COUNT + 1) SEQ_LATE_CNT_COUNT.top ∧
        t.fld TB_LATE_CNT_COUNT = min (s.fld TB_LATE_CNT_COUNT + 1) TB_LATE_CNT_COUNT.top)

/-- MERGE_DEADLINE completes for every beat that waits at the output stage for its own core (its OUT token named, no injection of
point 0x04 armed): the beat leaves the output stage, and its row arrives in the OUT token. With every contribution at the merge point
nothing is counted and MERGE_LATE stays; with one missing the row is void in the token, ENG_MERGE_LATE counts and MERGE_LATE is set.
Where no beat waits the state stays as it is. -/
def Obligations.MergeDeadlineDelivers : Prop :=
  ∀ (s : State) (core : CoreId) (eng : EngId) (tile inst : Nat) (row : Fin 32),
    (∀ o, (s.engine core eng).outs.find? (fun x => x.serves tile row inst) = some o → o.issue.core = core → o.issue.out ≠ 255 →
      s.injects 0x04 core eng = none →
      ∃ t, exec (.mergeDeadline core eng tile inst row) s = .next t ∧
        (t.engine core eng).outs = (s.engine core eng).outs.erase o ∧
        (t.token core o.issue.out).arrived.getLsbD row = true ∧
        (s.contributed core eng o = true →
          t.fldAt (engI core eng) ENG_MERGE_LATE_COUNT = s.fldAt (engI core eng) ENG_MERGE_LATE_COUNT ∧
          t.fldAt (engI core eng) ENG_OUT_FLAG_MERGE_LATE = s.fldAt (engI core eng) ENG_OUT_FLAG_MERGE_LATE) ∧
        (s.contributed core eng o = false →
          (t.token core o.issue.out).voided.getLsbD row = true ∧
          t.fldAt (engI core eng) ENG_MERGE_LATE_COUNT =
            min (s.fldAt (engI core eng) ENG_MERGE_LATE_COUNT + 1) ENG_MERGE_LATE_COUNT.top ∧
          t.fldAt (engI core eng) ENG_OUT_FLAG_MERGE_LATE = 1)) ∧
    ((s.engine core eng).outs.find? (fun x => x.serves tile row inst) = none →
      exec (.mergeDeadline core eng tile inst row) s = .next s)

/-- REPEAT_WINDOW completes. In a window that a beat has taken, in the rod in which the tables place it, with the beat's tier live and
its tile declared, the pass is counted as one of six bits where the vector stood at four, and as one of eight otherwise. On a core
that does not run, the beat leaves the list of taken windows and nothing is counted as widened. A window that no beat has taken, or
one that the tables do not place in this rod, leaves the state as it is. -/
def Sys2Proof.Machine.RepeatWindowRunsWiderPass : Prop :=
  ∀ (s : State) (core : CoreId) (eng : EngId) (win iss w wi : Nat) (up : Bool) (trims : List TrimAt),
    (∀ r d, (s.engine core eng).windows.find? (fun x => x.window = (win, iss)) = some r → s.coreRunning core = true →
      s.sched.due.any (fun d => d.core = core.val ∧ d.agent = .engine eng ∧ d.slot = win ∧ d.issue = iss ∧ d.kind = .repeatWindow) = true →
      s.isSetAt (engI core eng) ENG_STAT_LIVE = true → s.fldAt (engI core eng) ENG_STAT_LIVE_TIER = r.tier →
      s.tileDecl core eng r.staged.input.tile = some d →
      ∃ t, exec (.repeatWindow core eng win iss w wi up trims) s = .next t ∧
        (r.staged.a = 4 → t.fldAt (engI core eng) ENG_WIDEN_CNT_A6 =
          min (s.fldAt (engI core eng) ENG_WIDEN_CNT_A6 + 1) ENG_WIDEN_CNT_A6.top) ∧
        (r.staged.a ≠ 4 → t.fldAt (engI core eng) ENG_WIDEN_CNT_A8 =
          min (s.fldAt (engI core eng) ENG_WIDEN_CNT_A8 + 1) ENG_WIDEN_CNT_A8.top)) ∧
    (∀ r, (s.engine core eng).windows.find? (fun x => x.window = (win, iss)) = some r → s.coreRunning core = false →
      ∃ t, exec (.repeatWindow core eng win iss w wi up trims) s = .next t ∧
        (t.engine core eng).windows = (s.engine core eng).windows.erase r ∧
        t.fldAt (engI core eng) ENG_WIDEN_CNT_A6 = s.fldAt (engI core eng) ENG_WIDEN_CNT_A6 ∧
        t.fldAt (engI core eng) ENG_WIDEN_CNT_A8 = s.fldAt (engI core eng) ENG_WIDEN_CNT_A8) ∧
    ((s.engine core eng).windows.find? (fun x => x.window = (win, iss)) = none →
      exec (.repeatWindow core eng win iss w wi up trims) s = .next s)

/-- PRECISION_SUM_COMPLETE completes while the clamp sum n of a furlong waits: TB_PREC_CNT shows it. With a threshold of 0, or n not above it, TB_PREC_RUN is 0;
otherwise a run below 8 grows by one, and a run of 8 starts again at 1. A run that reaches 8 sets NO_VARIANT where no A8 variant has
passed admission, and REQ_RAISED where one has that is neither in force nor already asked for nor due. A run below 8 leaves both
flags. -/
def Sys2Proof.Machine.PrecisionSumRunsToARequest : Prop :=
  ∀ (s : State) (n : Nat), s.clampDue = some n → n < 2 ^ 32 → s.fld TB_PREC_RUN_RUN ≤ 8 →
    ∃ t, exec .precisionSumComplete s = .next t ∧ t.fld TB_PREC_CNT_COUNT = n ∧ t.clampDue = none ∧
      t.fld TB_PREC_RUN_RUN =
        (if s.inForceAt 0 TB_PREC_THR_THRESH = 0 ∨ n ≤ s.inForceAt 0 TB_PREC_THR_THRESH then 0
         else if s.fld TB_PREC_RUN_RUN = 8 then 1 else s.fld TB_PREC_RUN_RUN + 1) ∧
      (t.fld TB_PREC_RUN_RUN ≠ 8 → t.rd TB_PREC_STAT_NO_VARIANT.addr = s.rd TB_PREC_STAT_NO_VARIANT.addr) ∧
      (t.fld TB_PREC_RUN_RUN = 8 → s.a8Variant = none → t.fld TB_PREC_STAT_NO_VARIANT = 1) ∧
      (∀ v, t.fld TB_PREC_RUN_RUN = 8 → s.a8Variant = some v → s.sched.var ≠ v → s.sched.reqs.any (fun r => r.var = v) = false →
        s.sched.switches.any (fun x => x.var = v) = false → t.fld TB_PREC_STAT_REQ_RAISED = 1)

/-- REPEAT_WINDOW and PRECISION_SUM_COMPLETE complete: the wider pass runs; the clamp sum asks for A8. -/
def Obligations.RepeatsAndPrecisionSums : Prop := RepeatWindowRunsWiderPass ∧ PrecisionSumRunsToARequest

/-! ### The Assize and the monitor converter (R122 to R154) -/

/-- CALIBRATION_SLOT completes in a rod in which the tables place one of the engine's calibration slots. Where the work is the round in
progress on tier t at a position below 32, t in use and live, the engine not void for a lost spare, and every tier in use has an age
(none has settling rounds to lapse, none out of use a round to drop): the slot stages one set for every band that converts its
witnesses, counts them in ASZ_MEAS_CNT, and the round stands at the next position. Where the engine has no tier in use, no round held
and no set to retry there is nothing to do, and the state is unchanged; the same where no slot is placed. -/
def Sys2Proof.Machine.CalibrationSlotMeasuresItsPosition : Prop :=
  ∀ (s : State) (core : CoreId) (eng : EngId) (up : Bool),
    (∀ t kind, s.placed core (.engine eng) .calibration = true → s.calWork core eng = .round t kind →
      (s.engCal core eng).cur = some t → (s.engCal core eng).held = [] → (s.engCal core eng).retries = [] →
      (∀ x, x < 8 → s.inUse core eng x = true → (s.tierAge core eng x).isSome = true) →
      (s.tierCal core eng t).active = some kind → (s.tierCal core eng t).retry = false → (s.tierCal core eng t).pos < 32 →
      s.inUse core eng t = true → (s.engine core eng).dead = false →
      s.isSetAt (engI core eng) ENG_STAT_LIVE = true → s.fldAt (engI core eng) ENG_STAT_LIVE_TIER = t →
      ∃ u, exec (.calibrationSlot core eng up) s = .next u ∧
        (u.tierCal core eng t).pos = (s.tierCal core eng t).pos + 1 ∧
        u.asz.sets.length = s.asz.sets.length + (List.range 32).countP (fun p => s.witnessed core eng p) ∧
        u.fld ASZ_MEAS_CNT_COUNT =
          min (s.fld ASZ_MEAS_CNT_COUNT + (List.range 32).countP (fun p => s.witnessed core eng p)) ASZ_MEAS_CNT_COUNT.top) ∧
    ((∀ x, x < 8 → s.inUse core eng x = false) → (s.engCal core eng).cur = none → (s.engCal core eng).held = [] →
      (s.engCal core eng).retries = [] → exec (.calibrationSlot core eng up) s = .next s) ∧
    (s.placed core (.engine eng) .calibration = false → exec (.calibrationSlot core eng up) s = .next s)

/-- TRIM_SET_CHECK completes. The oldest staged set is a converter set of the phases after the first pass, of a converter that is not retired, with no injection
of point 0x06 armed. If it passes, REJ_RUN is 0, and in step mode its G and O are in force, in boundary mode they wait and the words in
force stay. If it fails with a reason (1 range, 2 change, 3 order, 4 fit), the words, accumulators and band sums stay, ENG_TRIM_REJ and
ASZ_REJ_CNT count, LAST_REJ is the reason, and the position is queued for a retry. Either way the set leaves the queue. -/
def Sys2Proof.Machine.ConverterSetPassesOrIsRejected : Prop :=
  ∀ (s : State) (d : TrimSetDue) (rest : List TrimSetDue) (c : Nat), s.asz.sets = d :: rest → d.conv = some c →
    (∀ n, d.kind ≠ .first n) → d.ends = none → d.core < 800 → d.eng < 8 → s.injects 0x06 d.core d.eng = none →
    (s.engine d.core d.eng).retired.any (fun r => r = (d.band, c)) = false →
    (s.setReason d = 0 →
      ∃ t, exec .trimSetCheck s = .next t ∧ t.asz.sets = rest ∧ t.fldAt (engI d.core d.eng) ENG_ASZ_STAT_REJ_RUN = 0 ∧
        (s.stepMode d.core d.eng = true →
          (t.conv d.core d.eng d.band c).g = d.w0 ∧ (t.conv d.core d.eng d.band c).o = d.w1) ∧
        (s.stepMode d.core d.eng = false →
          (t.conv d.core d.eng d.band c).g = (s.conv d.core d.eng d.band c).g ∧
          (t.conv d.core d.eng d.band c).o = (s.conv d.core d.eng d.band c).o ∧
          (t.conv d.core d.eng d.band c).pend = some (d.w0, d.w1))) ∧
    (s.setReason d ≠ 0 →
      ∃ t, exec .trimSetCheck s = .next t ∧ t.asz.sets = rest ∧ t.asz.convs = s.asz.convs ∧ t.asz.bands = s.asz.bands ∧
        t.fldAt (engI d.core d.eng) ENG_ASZ_STAT_LAST_REJ = s.setReason d ∧
        t.fldAt (engI d.core d.eng) ENG_TRIM_REJ_COUNT =
          min (s.fldAt (engI d.core d.eng) ENG_TRIM_REJ_COUNT + 1) ENG_TRIM_REJ_COUNT.top ∧
        t.fld ASZ_REJ_CNT_COUNT = min (s.fld ASZ_REJ_CNT_COUNT + 1) ASZ_REJ_CNT_COUNT.top ∧
        (t.engCal d.core d.eng).retries = (s.engCal d.core d.eng).retries ++ [⟨d.tier, c, d.band, d.kind⟩])

/-- CALIBRATION_SLOT and TRIM_SET_CHECK complete: a position is measured; a set passes or is rejected. -/
def Obligations.CalibrationSlots : Prop := CalibrationSlotMeasuresItsPosition ∧ ConverterSetPassesOrIsRejected

/-- SETTLING_DUE, AGE_TRIGGER, ASZ_FORCE_ROUND and FRESH_TIER_END complete. For a tier in use: a settling round of 10^n seconds that its age has reached, not ended and not yet due, becomes due; 256 furlongs
after its last round ended an age trigger is noted with the furlong; ASZ_FORCE.ROUND, written through the gates, raises a temperature
trigger on the tier that ASZ_TRIM_SEL selects. A fresh tier whose age has reached 600 s and whose 100 s round has ended, or whose program time lies after the count, leaves
ENG_TIER_ADV.FRESH and is counted out of ASZ_FRESH_CNT. None of them changes anything else. -/
def Sys2Proof.Machine.CalibrationTriggersOpenRounds : Prop :=
  ∀ (s : State) (core : CoreId) (eng : EngId) (tier : TierId),
    (∀ (n : Fin 4) (a : Nat), s.tierAge core eng tier = some a → s.inUse core eng tier = true → 10 ^ n.val ≤ a →
      (s.tierCal core eng tier).settleDone ≤ n → n.val ∉ (s.tierCal core eng tier).settleDue →
      ∃ t, exec (.settlingDue core eng tier n) s = .next t ∧
        t.tierCal core eng tier = { s.tierCal core eng tier with settleDue := (s.tierCal core eng tier).settleDue ++ [n.val] } ∧
        t = { s with asz := { s.asz with tiers := t.asz.tiers } }) ∧
    (∀ f, s.inUse core eng tier = true → (s.tierCal core eng tier).lastEnd = some f → (s.tierCal core eng tier).ageSince = none →
      256 ≤ (s.tb.rod / 40 + rodP / 40 - f) % (rodP / 40) →
      ∃ t, exec (.ageTrigger core eng tier) s = .next t ∧
        t.tierCal core eng tier = { s.tierCal core eng tier with ageSince := some (s.tb.rod / 40) } ∧
        t = { s with asz := { s.asz with tiers := t.asz.tiers } }) ∧
    (∀ (w : Wr) (r : RegDef), regAt ASZ_FORCE_ROUND.addr = some r → writeReaches s w ASZ_FORCE_ROUND.addr r = true →
      wbits w.data ASZ_FORCE_ROUND = 1 → s.fld ASZ_TRIM_SEL_CORE = core → s.fld ASZ_TRIM_SEL_ENG = eng →
      s.fld ASZ_TRIM_SEL_TIER = tier → s.inUse core eng tier = true →
      ∃ t, exec (.aszForceRound w) s = .next t ∧ (t.tierCal core eng tier).tempMove.isSome = true ∧
        (t.tierCal core eng tier).pos = (s.tierCal core eng tier).pos) ∧
    ((∀ a, s.tierAge core eng tier = some a → 600 ≤ a ∧ 3 ≤ (s.tierCal core eng tier).settleDone) →
      s.fldAt (engI core eng) ENG_TIER_ADV_FRESH / 2 ^ tier.val % 2 = 1 →
      ∃ t, exec (.freshTierEnd core eng tier) s = .next t ∧
        t.fldAt (engI core eng) ENG_TIER_ADV_FRESH = s.fldAt (engI core eng) ENG_TIER_ADV_FRESH - 2 ^ tier.val ∧
        t.fld ASZ_FRESH_CNT_COUNT = s.fld ASZ_FRESH_CNT_COUNT - 1 ∧
        regsKept s t [ENG_TIER_ADV_FRESH.addr + engI core eng, ASZ_FRESH_CNT_COUNT.addr] ∧ t = { s with regs := t.regs })

/-- ENGINE_DARK completes for an engine that is dark: ASZ_STAT.DARK is 1. With no local temperature to be had from its neighbours, SENSOR_DARK is 1, and an
engine that has applied drift words keeps them all; one that has applied none takes them at 62.5 °C for each tier in use. With valid
neighbours SENSOR_DARK is 0. After a hold every tier of the engine is degraded, so that its beats carry the precision flag. -/
def Sys2Proof.Machine.DarkEngineHoldsItsWords : Prop :=
  ∀ (s : State) (core : CoreId) (eng : EngId), s.dark core = true →
    (s.tLoc core = none →
      ∃ t, exec (.engineDark core eng) s = .next t ∧ t.fld ASZ_STAT_DARK = 1 ∧
        t.fldAt (engI core eng) ENG_ASZ_STAT_SENSOR_DARK = 1 ∧ (∀ tier, t.degraded core eng tier = true) ∧
        ((s.engCal core eng).everApplied = true → t.asz = s.asz) ∧
        ((s.engCal core eng).everApplied = false → ∀ (tier : TierId) (b : Fin 32), s.inUse core eng tier = true →
          (t.band core eng tier b).applied = s.driftWord core eng tier b (125 / 2))) ∧
    (∀ x, s.tLoc core = some x →
      ∃ t, exec (.engineDark core eng) s = .next t ∧ t.fld ASZ_STAT_DARK = 1 ∧
        t.fldAt (engI core eng) ENG_ASZ_STAT_SENSOR_DARK = 0 ∧
        ∀ (tier : TierId) (b : Fin 32), s.inUse core eng tier = true →
          (t.band core eng tier b).applied = s.driftWord core eng tier b x)

/-- FIRST_PASS completes. At start step 9 (the step register shows 8 as complete), with the tiers unsealed, the reference settled, every temperature channel
heard and the pass not yet run, the first pass runs and ASZ_STAT shows FIRST_DONE 1 and FIRST_PASS 0. While one of these conditions
fails nothing happens. -/
def Sys2Proof.Machine.FirstPassRunsOnceReady : Prop :=
  ∀ s : State,
    (s.isSet SEC_STAT_UNSEALED = true → s.isSet MON_STAT_REF_SETTLED = true → (∀ i, i < 64 → (s.sensor i).ever = true) →
      s.isSet ASZ_STAT_FIRST_DONE = false → s.fld GLB_STATE_STEP = 8 →
      ∃ t, exec .firstPass s = .next t ∧ t.fld ASZ_STAT_FIRST_DONE = 1 ∧ t.fld ASZ_STAT_FIRST_PASS = 0) ∧
    (s.isSet SEC_STAT_UNSEALED = false ∨ s.isSet MON_STAT_REF_SETTLED = false ∨ (∃ i, i < 64 ∧ (s.sensor i).ever = false) ∨
      s.isSet ASZ_STAT_FIRST_DONE = true ∨ s.fld GLB_STATE_STEP ≠ 8 → exec .firstPass s = .next s)

/-- SETTLING_DUE, AGE_TRIGGER, ASZ_FORCE_ROUND, FRESH_TIER_END, ENGINE_DARK and FIRST_PASS complete. -/
def Obligations.CalibrationRounds : Prop := CalibrationTriggersOpenRounds ∧ DarkEngineHoldsItsWords ∧ FirstPassRunsOnceReady

/-- MONITOR_CONVERSION completes. With RUN at 1, the entry in turn naming a channel up to 95 that is not one of the test bus, not averaged and not the list's last,
and the records not held back for reading: the record in the slot at MON_WR_PTR has the code times four in bits 15:0, the channel in
bits 22:16, the tag in bits 27:24 and UNSETTLED in bit 31 exactly where the reference has not settled; the write pointer moves one slot
on, modulo 16,384; the next entry is in turn. A settled record of a temperature channel is that sensor's last value. -/
def Sys2Proof.Machine.MonitorRecordsItsChannel : Prop :=
  ∀ (s : State) (c1 c2 c3 c4 : BitVec 14) (ch : Nat), s.isSet MON_CTRL_RUN = true → s.isSet MON_CTRL_SW_RD_EN = false →
    getBits (s.seqEntry s.mon.entry) 6 0 = ch → ch ≤ 95 → ¬(80 ≤ ch ∧ ch ≤ 87) → getBits (s.seqEntry s.mon.entry) 7 7 = 0 →
    getBits (s.seqEntry s.mon.entry) 15 15 = 0 → s.mon.entry < 127 →
    ∃ t, exec (.monitorConversion c1 c2 c3 c4) s = .next t ∧ t.mon.entry = s.mon.entry + 1 ∧
      t.fld MON_WR_PTR_INDEX = (s.fld MON_WR_PTR_INDEX + 1) % 16384 ∧
      getBits (SMap.get (fun _ => 0) t.mon.buf (s.fld MON_WR_PTR_INDEX)) 15 0 = c1.toNat * 4 ∧
      getBits (SMap.get (fun _ => 0) t.mon.buf (s.fld MON_WR_PTR_INDEX)) 22 16 = ch ∧
      getBits (SMap.get (fun _ => 0) t.mon.buf (s.fld MON_WR_PTR_INDEX)) 27 24 = getBits (s.seqEntry s.mon.entry) 11 8 ∧
      (getBits (SMap.get (fun _ => 0) t.mon.buf (s.fld MON_WR_PTR_INDEX)) 31 31 = 1 ↔ s.isSet MON_STAT_REF_SETTLED = false) ∧
      (ch < 64 → s.isSet MON_STAT_REF_SETTLED = true → (t.sensor ch).last = s.monValue ch (c1.toNat * 4) ∧ (t.sensor ch).ever = true)

/-- REFERENCE_SETTLED and TEST_BUS_CAPTURE_ARM complete. 400 µs of REF_EN set MON_STAT.REF_SETTLED; with REF_EN at 0 nothing changes.
A write of MON_TB_SEL that passes the gates with CAPTURE arms a capture and keeps the last one; TB_VALID is 1 exactly where that one
was taken for the selection just written. -/
def Sys2Proof.Machine.ReferenceSettlesAndCaptureArms : Prop :=
  (∀ s : State, s.isSet MON_CTRL_REF_EN = true →
    ∃ t, exec .referenceSettled s = .next t ∧ t.fld MON_STAT_REF_SETTLED = 1 ∧ t.mon = s.mon) ∧
  (∀ s : State, s.isSet MON_CTRL_REF_EN = false → exec .referenceSettled s = .next s) ∧
  (∀ (s : State) (w : Wr) (r : RegDef), regAt MON_TB_SEL_CAPTURE.addr = some r → writeReaches s w MON_TB_SEL_CAPTURE.addr r = true →
    wbits w.data MON_TB_SEL_CAPTURE = 1 →
    ∃ t, exec (.testBusCaptureArm w) s = .next t ∧
      t.mon = { s.mon with capArmed := true, capSince := false } ∧
      t.isSet MON_STAT_TB_VALID = (match s.mon.cap with | some (sel, _) => decide (sel = t.rd MON_TB_SEL_CAPTURE.addr) | none => false) ∧
      regsKept s t (MON_TB_SEL_CAPTURE.addr :: MON_STAT_TB_VALID.addr :: writeBooks))

/-- MONITOR_CONVERSION, REFERENCE_SETTLED and TEST_BUS_CAPTURE_ARM complete. -/
def Obligations.MonitorAndReference : Prop := MonitorRecordsItsChannel ∧ ReferenceSettlesAndCaptureArms

/-! ### Digital units, core stores and stacks (R155 to R176, R285 to R292) -/

/-- An issue runs undisturbed: its core runs and the schedule places it on agent `a` in the rod that runs, its inputs are complete for
the instance with no bushel behind them and the rows `v` void, no injection is armed, no unit is distrusted, and no line of the ranges it
reads is poisoned. -/
def Sys2Proof.Machine.runsClean (s : State) (i : Issue) (a : Agent) (v : BitVec 32) (ranges : List (Nat × Nat)) : Prop :=
  s.runs i a = true ∧ s.ready i = .run v none ∧ s.faults.armed = none ∧ s.faults.untrusted = [] ∧
    s.csPoisoned i.core ranges = false

/-- Every core-store byte outside `n` bytes from `addr` of a core holds what it held. -/
def Sys2Proof.Machine.storeKept (s t : State) (core addr n : Nat) : Prop :=
  ∀ k, ¬(storeKey core addr ≤ k ∧ k < storeKey core addr + n) →
    SMap.get (fun _ => (0 : Byte)) t.store k = SMap.get (fun _ => (0 : Byte)) s.store k

/-- Every row of `rows` that the OUT token of an issue expects, as it stands for the issue's instance, has arrived in it. -/
def Sys2Proof.Machine.rowsArrived (s t : State) (i : Issue) (rows : BitVec 32) : Prop :=
  i.out ≠ 255 → ∀ k : Nat, (rows &&& (s.outToken i).expected).getLsbD k = true → (t.token i.core i.out).arrived.getLsbD k = true

/-- Every row that the OUT token of an issue expects has arrived in it. -/
def Sys2Proof.Machine.outArrived (s t : State) (i : Issue) : Prop := rowsArrived s t i (s.outToken i).expected

/-- A row whose input carries the precision flag carries it in the OUT token. -/
def Sys2Proof.Machine.flagsCarried (s t : State) (i : Issue) : Prop :=
  i.out ≠ 255 → ∀ k : Nat, (s.flagsIn i &&& (s.outToken i).expected).getLsbD k = true → (t.token i.core i.out).flagged.getLsbD k = true

/-- VECTOR_OP completes. An elementwise operation with FP32 results that runs undisturbed and whose result lies in the core store: element
k of the result vector is the function applied to elements k of the operands as they stood before, for every k; every expected row arrives
in the OUT token, flagged where its input is; no register, no stack byte and no core-store byte outside the result changes. A reduction
stores the sum or the maximum of its vector at its address in the same way. -/
def Sys2Proof.Machine.VectorOpStoresItsResults : Prop :=
  (∀ (s : State) (i : Issue) (v : BitVec 32) (f : EwFn) (n : Nat) (x y z : VecIn) (out : Nat),
    runsClean s i .vector v (s.vecRanges i.core (.elementwise f n x y z out .f32)) → out + 4 * n ≤ storeSize →
    ∃ t, exec (.vectorOp i (.elementwise f n x y z out .f32) []) s = .next t ∧
      (∀ k, k < n → t.vecElem i.core ⟨.f32, out⟩ k = ewApply f (s.vecElem i.core x k) (s.vecElem i.core y k) (s.vecElem i.core z k)) ∧
      storeKept s t i.core out (4 * n) ∧ outArrived s t i ∧ flagsCarried s t i ∧ t.regs = s.regs ∧ t.mem.stack = s.mem.stack) ∧
  (∀ (s : State) (i : Issue) (v : BitVec 32) (mx : Bool) (n : Nat) (x : VecIn) (out : Nat),
    runsClean s i .vector v (s.vecRanges i.core (.reduction mx n x out)) → out + 4 ≤ storeSize →
    ∃ t, exec (.vectorOp i (.reduction mx n x out) []) s = .next t ∧
      t.vecElem i.core ⟨.f32, out⟩ 0 = (if mx then vMaxOf (s.vec i.core x n) else vSum (s.vec i.core x n)) ∧
      storeKept s t i.core out 4 ∧ outArrived s t i ∧ flagsCarried s t i ∧ t.regs = s.regs ∧ t.mem.stack = s.mem.stack)

/-- MATRIX_OP completes. A matrix product with FP32 results, of a format pair that the unit accepts, that runs undisturbed and without a
residue upset and whose result lies in the core store: the result word at row i and column j is the dot product of row i of A and column j
of B, added to the accumulator word where one is named, as R156 orders it; the product's bushel rows that the OUT token expects arrive in
it; no other core-store byte, no stack byte, and no register but the core's MXU_FLAG changes. A product of formats that the unit does not
accept changes nothing. -/
def Sys2Proof.Machine.MatrixProductStoresItsDots : Prop :=
  (∀ (s : State) (q : Issue) (v : BitVec 32) (row0 m k n : Nat) (a b : MatIn) (acc : Option Nat) (out : Nat),
    runsClean s q .matrix v (s.matRanges q.core (.product row0 m k n a b acc out .f32)) → pairOk a.fmt b.fmt = true →
    out + 4 * (m * n) ≤ storeSize →
    ∃ t, exec (.matrixOp q (.product row0 m k n a b acc out .f32) [] false) s = .next t ∧
      (∀ i j, i < m → j < n → t.vecElem q.core ⟨.f32, out⟩ (i * n + j) =
        (s.dotOut q.core a b k i j (match acc with
          | some x => s.vecElem q.core ⟨.f32, x⟩ (i * n + j)
          | none => 0)).1) ∧
      storeKept s t q.core out (4 * (m * n)) ∧ rowsArrived s t q (s.opRows q row0 m) ∧ t.mem.stack = s.mem.stack ∧
      regsKept s t [MXU_FLAG_OVF.addr + coreI q.core]) ∧
  (∀ (s : State) (q : Issue) (row0 m k n : Nat) (a b : MatIn) (acc : Option Nat) (out : Nat) (outFmt : NumFmt) (ecc : Upsets) (res : Bool),
    pairOk a.fmt b.fmt = false → exec (.matrixOp q (.product row0 m k n a b acc out outFmt) ecc res) s = .next s)

/-- VECTOR_OP and MATRIX_OP complete: they store their results and nothing else. -/
def Obligations.VectorAndMatrixUnits : Prop := VectorOpStoresItsResults ∧ MatrixProductStoresItsDots

/-- CORE_STORE_SCRUB and LINE_RESTORE complete. On a core whose domain is on, a scrub step moves to the next of the core's 98,304 words. With no error nothing else changes; a
single-bit error sets CS_FLAG.CE and counts; an uncorrectable error sets CS_FLAG.UE and counts, and where the image declares the line
static it is poisoned. A line restore of a poisoned line whose copies, if it has any, lie in stacks in service writes each byte that has a
copy in the restore area with that copy, frees the line and counts in CS_RESTORE_CNT; it changes no other register, no stack byte and no
byte outside the line. -/
def Sys2Proof.Machine.ScrubCorrectsOrPoisons : Prop :=
  ∀ (s : State) (core : CoreId), s.domainOff core = false →
    (∀ u, ∃ t, exec (.coreStoreScrub core u) s = .next t ∧
      SMap.get (fun _ => 0) t.mem.scrubAt core = (SMap.get (fun _ => 0) s.mem.scrubAt core + 1) % 98304 ∧ t.store = s.store ∧
      (u = none → t.regs = s.regs) ∧
      (u = some false → t.fldAt (coreI core) CS_FLAG_CE = 1 ∧
        t.fldAt (coreI core) CS_CE_CNT_COUNT = min (s.fldAt (coreI core) CS_CE_CNT_COUNT + 1) CS_CE_CNT_COUNT.top ∧
        regsKept s t [CS_FLAG_CE.addr + coreI core, CS_CE_CNT_COUNT.addr + coreI core]) ∧
      (u = some true → t.fldAt (coreI core) CS_FLAG_UE = 1 ∧
        t.fldAt (coreI core) CS_UE_CNT_COUNT = min (s.fldAt (coreI core) CS_UE_CNT_COUNT + 1) CS_UE_CNT_COUNT.top ∧
        (s.storeStatic core (8 * SMap.get (fun _ => 0) s.mem.scrubAt core) = true →
          storeKey core (8 * SMap.get (fun _ => 0) s.mem.scrubAt core) / 64 ∈ t.mem.poison))) ∧
    (∀ line, storeKey core 0 / 64 + line ∈ s.mem.poison →
      (∀ b a, s.copyAddr core b = some a → s.isSetAt (stkI (stackOf a)) STK_STAT_IN_SERVICE = true) →
      ∃ t, exec (.lineRestore core line) s = .next t ∧ storeKey core 0 / 64 + line ∉ t.mem.poison ∧
        (∀ j a, j < 64 → 64 * line + j < storeSize → s.copyAddr core (64 * line + j) = some a →
          t.loadBytes core (64 * line + j) 1 = s.stackRead a 1) ∧ storeKept s t core (64 * line) 64 ∧ t.mem.stack = s.mem.stack ∧
        t.fldAt (coreI core) CS_RESTORE_CNT_COUNT = min (s.fldAt (coreI core) CS_RESTORE_CNT_COUNT + 1) CS_RESTORE_CNT_COUNT.top ∧
        regsKept s t [CS_RESTORE_CNT_COUNT.addr + coreI core])

/-- STACK_READ and STACK_WRITE complete. Windows that run undisturbed. A write window inside the core's extents makes the stack's lines
read what the core store held; every other stack byte, the core store and every register stay. A read window inside the extents of a stack
in service, on time, without errors and into the core store, makes the core store's bytes read what the stack held; every other core-store
byte and the stacks stay, and the window's retries are counted. The lines of both count for the running furlong. A window of which a line
lies outside the core's extents moves nothing and counts in STK_REFUSE_CNT. -/
def Obligations.StackWindowsMoveTheirLines : Prop :=
  ∀ (s : State) (i : Issue) (v : BitVec 32) (addr lines loc : Nat),
    (runsClean s i (.stack (stackOf addr)) v [(loc, 64 * lines)] → s.windowRefused i.core addr lines = false →
      ∃ t, exec (.stackWrite i loc lines addr []) s = .next t ∧ t.stackRead addr (64 * lines) = s.loadBytes i.core loc (64 * lines) ∧
        (∀ a, ¬(addr ≤ a ∧ a < addr + 64 * lines) →
          SMap.get (fun _ => (0 : Byte)) t.mem.stack a = SMap.get (fun _ => (0 : Byte)) s.mem.stack a) ∧
        t.store = s.store ∧ t.regs = s.regs ∧ outArrived s t i ∧
        SMap.get (fun _ => 0) t.mem.lines (stackOf addr) = SMap.get (fun _ => 0) s.mem.lines (stackOf addr) + lines) ∧
    (∀ retries, runsClean s i (.stack (stackOf addr)) v [] → s.windowRefused i.core addr lines = false →
      s.isSetAt (stkI (stackOf addr)) STK_STAT_IN_SERVICE = true → loc + 64 * lines ≤ storeSize →
      ∃ t, exec (.stackRead i addr lines loc [] retries false) s = .next t ∧
        t.loadBytes i.core loc (64 * lines) = s.stackRead addr (64 * lines) ∧ storeKept s t i.core loc (64 * lines) ∧
        t.mem.stack = s.mem.stack ∧
        t.fldAt (stkI (stackOf addr)) STK_RETRY_CNT_COUNT =
          min (s.fldAt (stkI (stackOf addr)) STK_RETRY_CNT_COUNT + retries) STK_RETRY_CNT_COUNT.top ∧
        regsKept s t [STK_RETRY_CNT_COUNT.addr + stkI (stackOf addr)] ∧ outArrived s t i ∧
        SMap.get (fun _ => 0) t.mem.lines (stackOf addr) = SMap.get (fun _ => 0) s.mem.lines (stackOf addr) + lines) ∧
    (∀ retries late, runsClean s i (.stack (stackOf addr)) v [] → s.windowRefused i.core addr lines = true →
      ∃ t, exec (.stackRead i addr lines loc [] retries late) s = .next t ∧ t.store = s.store ∧ t.mem.stack = s.mem.stack ∧
        t.fldAt (stkI (stackOf addr)) STK_REFUSE_CNT_COUNT =
          min (s.fldAt (stkI (stackOf addr)) STK_REFUSE_CNT_COUNT + 1) STK_REFUSE_CNT_COUNT.top) ∧
    (runsClean s i (.stack (stackOf addr)) v [(loc, 64 * lines)] → s.windowRefused i.core addr lines = true →
      ∃ t, exec (.stackWrite i loc lines addr []) s = .next t ∧ t.store = s.store ∧ t.mem.stack = s.mem.stack ∧
        t.fldAt (stkI (stackOf addr)) STK_REFUSE_CNT_COUNT =
          min (s.fldAt (stkI (stackOf addr)) STK_REFUSE_CNT_COUNT + 1) STK_REFUSE_CNT_COUNT.top)

/-- STACK_OUT_OF_SERVICE completes. A stack in service whose link fails, or that has lost lines in 8 consecutive furlongs, leaves service; a failed link also clears
LINK_UP. From start step 5 on admission is then due, with TB_ADM_STAT.STATE 1 unless a time-base failure still waits for the count (log
entry 43). A stack with neither, or already out of service, changes nothing. -/
def Sys2Proof.Machine.StackLeavesService : Prop :=
  (∀ (s : State) (k : StackId), s.isSetAt (stkI k) STK_STAT_IN_SERVICE = false ∨ SMap.get (fun _ => 0) s.mem.ueRun k < 8 →
    exec (.stackOutOfService k false) s = .next s) ∧
  ∀ (s : State) (k : StackId) (failed : Bool), s.isSetAt (stkI k) STK_STAT_IN_SERVICE = true →
    (failed = true ∨ 8 ≤ SMap.get (fun _ => 0) s.mem.ueRun k) →
    ∃ t, exec (.stackOutOfService k failed) s = .next t ∧ t.fldAt (stkI k) STK_STAT_IN_SERVICE = 0 ∧
      (failed = true → t.fldAt (stkI k) STK_STAT_LINK_UP = 0) ∧
      (5 ≤ s.fld GLB_STATE_STEP → t.sched.admDue = true ∧
        (s.isSet TB_STAT_TIME_FAIL = false ∨ s.isSet TB_STAT_COUNT_VALID = true → t.fld TB_ADM_STAT_STATE = 1)) ∧ t.mem = s.mem

/-- CORE_STORE_SCRUB, LINE_RESTORE and STACK_OUT_OF_SERVICE complete. -/
def Obligations.ScrubAndStackService : Prop := ScrubCorrectsOrPoisons ∧ StackLeavesService

/-- PAGE_WALK completes. A walk that runs undisturbed on a core whose look-aside entries are empty counts a miss. Where its directory entry
lies outside the core's extents the read counts in STK_REFUSE_CNT and fills nothing. Otherwise, both reads coming from stacks in service
and inside the extents: with both entries valid, the leaf's generation the request's and the frame inside the region, the frame enters the
look-aside entry in turn. With an entry not valid it counts in PW_ABSENT, with another generation in PW_GEN_ERR, and either raises PAGE_EXC
and queues a page exception that tells the two apart. No walk changes a stack byte or the core store. -/
def Sys2Proof.Machine.PageWalkFollowsItsEntries : Prop :=
  ∀ (s : State) (i : Issue) (v : BitVec 32) (slot loc pos dirA dir leafA leaf : Nat) (row : Fin 32), runsClean s i .pageWalk v [] →
    (s.pageUnit i.core).entries = [] → dirA = (s.req slot).ptBase * 256 + 8 * (32 * loc + pos / 256 / 256) → dir = s.entryAt dirA →
    leafA = dir % 2 ^ 29 * 2048 + 8 * (pos / 256 % 256) → leaf = s.entryAt leafA →
    ∃ t, exec (.pageWalk i slot loc pos row [] []) s = .next t ∧ t.store = s.store ∧ t.mem.stack = s.mem.stack ∧
      t.fldAt (coreI i.core) PW_MISS_COUNT = min (s.fldAt (coreI i.core) PW_MISS_COUNT + 1) PW_MISS_COUNT.top ∧
      (s.stackRefused i.core dirA = true →
        t.fldAt (stkI (stackOf dirA)) STK_REFUSE_CNT_COUNT =
          min (s.fldAt (stkI (stackOf dirA)) STK_REFUSE_CNT_COUNT + 1) STK_REFUSE_CNT_COUNT.top ∧ t.mem = s.mem) ∧
      (s.stackRefused i.core dirA = false → s.isSetAt (stkI (stackOf dirA)) STK_STAT_IN_SERVICE = true →
        (2 ^ 63 ≤ dir → s.stackRefused i.core leafA = false ∧ s.isSetAt (stkI (stackOf leafA)) STK_STAT_IN_SERVICE = true) →
        (2 ^ 63 ≤ dir → 2 ^ 63 ≤ leaf → leaf / 2 ^ 29 % 128 = (s.req slot).gen →
          s.stackRefused i.core (leaf % 2 ^ 28 * 4096) = false →
          SMap.get (fun _ => none) (t.pageUnit i.core).entries (s.pageUnit i.core).ptr =
            some ⟨slot, (s.req slot).gen, loc, pos / 256, leaf % 2 ^ 28 * 4096, dirA / 64, leafA / 64⟩ ∧ t.mem.excs = s.mem.excs) ∧
        (dir < 2 ^ 63 ∨ leaf < 2 ^ 63 →
          t.fldAt (coreI i.core) PW_ABSENT_COUNT = min (s.fldAt (coreI i.core) PW_ABSENT_COUNT + 1) PW_ABSENT_COUNT.top ∧
          t.fldAt (coreI i.core) ATT_FLAG_PAGE_EXC = 1 ∧
          t.mem.excs = s.mem.excs ++ [⟨i.core, slot, (s.req slot).gen, loc, pos / 256, false⟩]) ∧
        (2 ^ 63 ≤ dir → 2 ^ 63 ≤ leaf → leaf / 2 ^ 29 % 128 ≠ (s.req slot).gen →
          t.fldAt (coreI i.core) PW_GEN_ERR_COUNT = min (s.fldAt (coreI i.core) PW_GEN_ERR_COUNT + 1) PW_GEN_ERR_COUNT.top ∧
          t.fldAt (coreI i.core) ATT_FLAG_PAGE_EXC = 1 ∧
          t.mem.excs = s.mem.excs ++ [⟨i.core, slot, (s.req slot).gen, loc, pos / 256, true⟩]))

/-- PAGE_EXCEPTION_SERVICE and PAGE_FRAME_RELEASE complete. The oldest page exception, of a live request whose generation it still has and of a page the request has mapped, makes the leaf entry
read valid, with the request's generation and the page's frame; only those eight stack bytes change. At the boundary at which a request's
frames are due, the release leaves the request no page and no table, and every frame that no error has lost joins the pool's free list. -/
def Sys2Proof.Machine.PagesAreRepairedAndReturned : Prop :=
  (∀ (s : State) (e : PageExc) (rest : List PageExc) (l : KvLayer) (p : Nat × Nat × Nat × Nat), s.mem.excs = e :: rest →
    s.boot.image.kvLayers.find? (fun l => l.loc = e.layer) = some l → (s.req e.slot).state.live = true →
    (s.req e.slot).gen = e.gen → e.page < ((s.req e.slot).p + (s.req e.slot).nMax + 8 + 255) / 256 →
    s.mem.pages.find? (fun p => p.1 = e.slot ∧ p.2.1 = e.layer ∧ p.2.2.1 = e.page) = some p →
    ∃ t, exec .pageExceptionService s = .next t ∧ t.mem.excs = rest ∧
      t.entryAt (s.entryAt ((s.req e.slot).ptBase * 256 + 8 * (32 * e.layer + e.page / 256)) % 2 ^ 29 * 2048 + 8 * (e.page % 256)) =
        2 ^ 63 + (s.req e.slot).gen % 128 * 2 ^ 29 + p.2.2.2 / 4096 % 2 ^ 28 ∧
      (∀ a, ¬(s.entryAt ((s.req e.slot).ptBase * 256 + 8 * (32 * e.layer + e.page / 256)) % 2 ^ 29 * 2048 + 8 * (e.page % 256) ≤ a ∧
          a < s.entryAt ((s.req e.slot).ptBase * 256 + 8 * (32 * e.layer + e.page / 256)) % 2 ^ 29 * 2048 + 8 * (e.page % 256) + 8) →
        SMap.get (fun _ => (0 : Byte)) t.mem.stack a = SMap.get (fun _ => (0 : Byte)) s.mem.stack a) ∧
      t = { s with mem := { s.mem with excs := rest, stack := t.mem.stack } }) ∧
  (∀ (s : State) (slot : Nat) (e : Nat × Nat × Nat × Nat),
    s.mem.returning.find? (fun e => e.2.1 = slot ∧ !rodAfter s.tb.rod e.1) = some e →
    ∃ t, exec (.pageFrameRelease slot) s = .next t ∧ (∀ p ∈ t.mem.pages, p.1 ≠ slot) ∧ (∀ x ∈ t.mem.tables, x.1 ≠ slot) ∧
      (∀ p ∈ s.mem.pages, p.1 = slot → p.2.2.2 ∉ s.mem.lost → ∃ f ∈ t.mem.poolFree, f.2.1 = p.2.2.2) ∧
      t.mem.stack = s.mem.stack ∧ t.regs = s.regs)

/-- PAGE_WALK, PAGE_EXCEPTION_SERVICE and PAGE_FRAME_RELEASE complete. -/
def Obligations.PagesWalkedAndRepaired : Prop := PageWalkFollowsItsEntries ∧ PagesAreRepairedAndReturned

/-! ### Rack time, schedule and admission (R177 to R217) -/

/-- ROD_BOUNDARY completes. With no edge awaiting its judgement: while TB_STAT.RUNNING is 1 the rod count moves to the next rod modulo P, and the changes of a
furlong and of a mile are due exactly where the new count is a multiple of 40 and of 320; while it is 0 the count stands and neither is
due. The core clock's own count moves by one rod either way. -/
def Sys2Proof.Machine.RodBoundaryCountsOneRod : Prop :=
  ∀ s : State, s.tb.edgeDue = false →
    (s.isSet TB_STAT_RUNNING = true →
      ∃ t, exec .rodBoundary s = .next t ∧ t.tb.rod = (s.tb.rod + 1) % rodP ∧ (t.tb.furDue = true ↔ t.tb.rod % 40 = 0) ∧
        (t.tb.mileDue = true ↔ t.tb.rod % 320 = 0) ∧ t.sec.clockRods = s.sec.clockRods + 1) ∧
    (s.isSet TB_STAT_RUNNING = false →
      ∃ t, exec .rodBoundary s = .next t ∧ t.tb.rod = s.tb.rod ∧ t.tb.furDue = false ∧ t.tb.mileDue = false ∧
        t.sec.clockRods = s.sec.clockRods + 1)

/-- FURLONG_BOUNDARY completes. The changes of a furlong boundary that is due: no register value waits any more, so that every register's word is the one in force;
the clamp events of the furlong that ended await their completion and the new furlong has none; the boundary is no longer due. One that
is not due changes nothing. -/
def Sys2Proof.Machine.FurlongBoundaryTakesClassB : Prop :=
  ∀ s : State,
    (s.tb.furDue = true →
      ∃ t, exec .furlongBoundary s = .next t ∧ t.waitB = [] ∧ (∀ a, t.inForce a = t.rd a) ∧ t.clampDue = some s.clampNow ∧
        t.clampNow = 0 ∧ t.tb.furDue = false ∧ t.tb.rod = s.tb.rod) ∧
    (s.tb.furDue = false → exec .furlongBoundary s = .next s)

/-- MILE_BOUNDARY completes. The changes of a mile boundary that is due, with no stop waiting for it. A pending switch of this mile, the first in the list, to a
variant that is admitted here puts that variant in force, one to a variant that is not leaves it; with no switch of this mile the variant in force stays. A boundary that is
not due changes nothing. -/
def Sys2Proof.Machine.MileBoundaryTakesTheSwitch : Prop :=
  ∀ s : State,
    (s.tb.mileDue = true → s.tb.stopAtMile = false →
      (∀ w rest, s.sched.switches = w :: rest → w.atMile = s.mileNow → s.admittedVar w.var = true →
        ∃ t, exec .mileBoundary s = .next t ∧ t.sched.var = w.var ∧ t.tb.mileDue = false ∧ t.tb.rod = s.tb.rod) ∧
      (∀ w rest, s.sched.switches = w :: rest → w.atMile = s.mileNow → s.admittedVar w.var = false →
        ∃ t, exec .mileBoundary s = .next t ∧ t.sched.var = s.sched.var ∧ t.tb.mileDue = false ∧ t.tb.rod = s.tb.rod) ∧
      ((∀ w ∈ s.sched.switches, w.atMile ≠ s.mileNow) →
        ∃ t, exec .mileBoundary s = .next t ∧ t.sched.var = s.sched.var ∧ t.tb.mileDue = false ∧ t.tb.rod = s.tb.rod)) ∧
    (s.tb.mileDue = false → exec .mileBoundary s = .next s)

/-- ROD_BOUNDARY, FURLONG_BOUNDARY and MILE_BOUNDARY complete. -/
def Obligations.Boundaries : Prop := RodBoundaryCountsOneRod ∧ FurlongBoundaryTakesClassB ∧ MileBoundaryTakesTheSwitch

/-- FMARK_PULSE completes. The clock locked, no hold of REFCLK and no injection of point 0x19. While the count is valid: a pulse whose edge lies within one
cycle of the mile boundary, and which is not a SYNC and not the last symbol of its frame, adds its symbol to the frame, ends holdover and
the run of missing edges; an edge further away only counts in TB_EDGE_ERR and sets FMARK_EDGE. While the count is not valid and the second
of two consecutive good frames, F, has ended, a SYNC sets the count to 320 (F + 64) modulo P, valid and running. -/
def Sys2Proof.Machine.FmarkPulsesKeepOrSetTheCount : Prop :=
  ∀ (s : State) (high : Nat) (offset : Int), s.isSet TB_STAT_REF_LOCK = true → s.isSet TB_STAT_REFCLK_HOLD = false →
    s.injects 0x19 0 0 = none →
    (s.isSet TB_STAT_COUNT_VALID = true →
      (∀ l, -1 ≤ offset → offset ≤ 1 → s.tb.frame = some l → l.length < 63 → symbolOf high ≠ .sync →
        ∃ t, exec (.fmarkPulse high offset) s = .next t ∧ t.tb.frame = some (symbolOf high :: l) ∧ t.fld TB_STAT_HOLDOVER = 0 ∧
          t.tb.missRun = 0 ∧ t.tb.rod = s.tb.rod ∧ regsKept s t [TB_STAT_HOLDOVER.addr] ∧ t = { s with regs := t.regs, tb := t.tb }) ∧
      (offset < -1 ∨ 1 < offset →
        ∃ t, exec (.fmarkPulse high offset) s = .next t ∧
          t.fld TB_EDGE_ERR_COUNT = min (s.fld TB_EDGE_ERR_COUNT + 1) TB_EDGE_ERR_COUNT.top ∧ t.fld TB_FAULT_FMARK_EDGE = 1 ∧
          regsKept s t [TB_EDGE_ERR_COUNT.addr, TB_FAULT_FMARK_EDGE.addr] ∧ t = { s with regs := t.regs })) ∧
    (∀ f n, s.isSet TB_STAT_COUNT_VALID = false → s.tb.frame = none → s.tb.pair = some (f, n) → symbolOf high = .sync →
      ∃ t, exec (.fmarkPulse high offset) s = .next t ∧ t.tb.rod = 320 * (f + 64) % rodP ∧ t.fld TB_STAT_COUNT_VALID = 1 ∧
        t.fld TB_STAT_RUNNING = 1 ∧ t.tb.provisional = false)

/-- REFCLK_LOSS, REFCLK_RETURN and REFCLK_HOLD_EXPIRY complete. A loss of REFCLK sets REFCLK_LOSS and REFCLK_HOLD and starts the hold's count, outside a hold. A return within 32 rods on a valid
count leaves the decision to the next FMARK edge; on a count not valid it ends the hold. A return after more than 32 rods on a valid count,
and a hold of 32 rods without return that no injection made, are a time-base failure: TIME_FAIL 1, COUNT_VALID 0, RUNNING 0, admission failed with code 0x02, the sequencers due
to stop at the next rod. -/
def Sys2Proof.Machine.RefclkLossHoldsThenFails : Prop :=
  ∀ s : State,
    (s.isSet TB_STAT_REFCLK_HOLD = false →
      ∃ t, exec .refclkLoss s = .next t ∧ t.fld TB_STAT_REFCLK_HOLD = 1 ∧ t.fld TB_FAULT_REFCLK_LOSS = 1 ∧ t.tb.holdRods = 0 ∧
        t.tb.rod = s.tb.rod ∧ regsKept s t [TB_STAT_REFCLK_HOLD.addr, TB_FAULT_REFCLK_LOSS.addr] ∧
        t = { s with regs := t.regs, tb := t.tb }) ∧
    (s.isSet TB_STAT_REFCLK_HOLD = true →
      (s.isSet TB_STAT_COUNT_VALID = true → s.tb.holdRods ≤ 32 →
        exec .refclkReturn s = .next { s with tb := { s.tb with refBack := true } }) ∧
      (s.isSet TB_STAT_COUNT_VALID = true → 32 < s.tb.holdRods →
        ∃ t, exec .refclkReturn s = .next t ∧ t.fld TB_STAT_REFCLK_HOLD = 0 ∧ t.fld TB_STAT_TIME_FAIL = 1 ∧ t.fld TB_STAT_COUNT_VALID = 0 ∧
          t.fld TB_STAT_RUNNING = 0 ∧ t.fld TB_ADM_STAT_STATE = 3 ∧ t.fld TB_ADM_STAT_CODE = 2 ∧ t.tb.stopAtRod = true) ∧
      (s.isSet TB_STAT_COUNT_VALID = false →
        ∃ t, exec .refclkReturn s = .next t ∧ t.fld TB_STAT_REFCLK_HOLD = 0 ∧ regsKept s t [TB_STAT_REFCLK_HOLD.addr] ∧
          t = { s with regs := t.regs }) ∧
      (s.isSet TB_STAT_COUNT_VALID = true → s.tb.refBack = false → 32 ≤ s.tb.holdRods → s.tb.refInj = none →
        ∃ t, exec .refclkHoldExpiry s = .next t ∧ t.fld TB_STAT_TIME_FAIL = 1 ∧ t.fld TB_STAT_COUNT_VALID = 0 ∧
          t.fld TB_STAT_RUNNING = 0 ∧ t.fld TB_ADM_STAT_STATE = 3 ∧ t.fld TB_ADM_STAT_CODE = 2 ∧ t.tb.stopAtRod = true))

/-- FMARK_PULSE, REFCLK_LOSS, REFCLK_RETURN and REFCLK_HOLD_EXPIRY complete. -/
def Obligations.TimeReferences : Prop := FmarkPulsesKeepOrSetTheCount ∧ RefclkLossHoldsThenFails

/-- OPERATION_OVERRUN completes. With no injection armed, an operation that reaches the end of its reserved length: every row its OUT token expects is complete and
void in the token; SEQ_OVERRUN_CNT and TB_OVERRUN_CNT count it; its agent is no longer trusted, and unless the core is fenced already a
fence of the core is requested. -/
def Sys2Proof.Machine.OverrunVoidsCountsAndFences : Prop :=
  ∀ (s : State) (i : Issue) (agent : Nat), s.faults.armed = none →
    ∃ t, exec (.operationOverrun i agent) s = .next t ∧
      (i.out ≠ 255 → ∀ k : Nat, (s.outToken i).expected.getLsbD k = true →
        (t.token i.core i.out).arrived.getLsbD k = true ∧ (t.token i.core i.out).voided.getLsbD k = true) ∧
      t.fldAt (coreI i.core) SEQ_OVERRUN_CNT_COUNT =
        min (s.fldAt (coreI i.core) SEQ_OVERRUN_CNT_COUNT + 1) SEQ_OVERRUN_CNT_COUNT.top ∧
      t.fld TB_OVERRUN_CNT_COUNT = min (s.fld TB_OVERRUN_CNT_COUNT + 1) TB_OVERRUN_CNT_COUNT.top ∧
      t.untrustedUnit i.core (if agent ≤ 8 then agent else 10 + agent) = true ∧
      (s.isSetAt (coreI i.core) CORE_STAT_FENCED = true ∨ t.faults.fences.any (fun f => f.1 = i.core) = true)

/-- SLACK_WINDOW completes. In a slack window that the schedule gives a running core the cycles skipped grow by the skip fraction in force of all but its last 16 cycles, and the slack
met grows by its length; nothing else changes. -/
def Sys2Proof.Machine.SlackWindowSkipsItsShare : Prop :=
  ∀ (s : State) (core : CoreId) (len : Nat), s.coreRunning core = true →
    s.sched.due.any (fun d => d.core = core.val ∧ d.kind = .slack) = true →
    ∃ t, exec (.slackWindow core len) s = .next t ∧
      SMap.get (fun _ => 0) t.sched.skipped core =
        SMap.get (fun _ => 0) s.sched.skipped core + s.fld TB_SKIP_FRAC_FRAC * (len - 16) / 100 ∧
      SMap.get (fun _ => 0) t.sched.slack core = SMap.get (fun _ => 0) s.sched.slack core + len ∧
      t = { s with sched := { s.sched with skipped := t.sched.skipped, slack := t.sched.slack } }

/-- OPERATION_OVERRUN and SLACK_WINDOW complete: an overrun voids, counts and fences; a window skips its share. -/
def Obligations.OverrunsAndSlack : Prop := OverrunVoidsCountsAndFences ∧ SlackWindowSkipsItsShare

/-- ADMISSION_RUN and MC_ADMISSION_COMMAND complete. An admission run that is due after the start, with the sequencers started once, no time-base failure open and the variant in force
one that the image holds once. With a valid count, an undivided clock and every check passed the module is admitted: STATE 2, CODE 0,
one run counted and no failure. With the clock divided while the sequencers run, no variant is admitted, CODE is 0x03 with ITEM 0xFFFF, the
failure is counted, and the sequencers are to stop at the next mile boundary. Without a valid count the run waits. A command of the management controller makes a run due from
start step 5 on. -/
def Sys2Proof.Machine.AdmissionPassesOrFailsByItsFirstCode : Prop :=
  ∀ s : State,
    (∀ (s' : State) (v : Variant), s.sched.admDue = true → 
      s' = { s with sched := { s.sched with admDue := false }, rqt := { s.rqt with flowLate := false } } →
      s.fld GLB_STATE_STEP ≠ 5 → s.sched.started = true → s.isSet TB_STAT_TIME_FAIL = false → s.isSet TB_STAT_COUNT_VALID = true →
      s.boot.image.variants.find? (fun x => x.num = s.sched.var) = some v →
      (s.therm.divided = false → s'.checkVariant v = none →
        ∃ t, exec .admissionRun s = .next t ∧ t.fld TB_ADM_STAT_STATE = 2 ∧ t.fld TB_ADM_STAT_CODE = 0 ∧ t.sched.admDue = false ∧
          t.fld TB_ADM_CNT_RUNS = min (s.fld TB_ADM_CNT_RUNS + 1) TB_ADM_CNT_RUNS.top ∧
          t.fld TB_ADM_CNT_FAILED = s.fld TB_ADM_CNT_FAILED) ∧
      (s.therm.divided = true → s.sched.running = true →
        ∃ t, exec .admissionRun s = .next t ∧ t.fld TB_VAR_ADMIT_ADMITTED = 0 ∧ t.fld TB_ADM_STAT_CODE = 3 ∧
          t.fld TB_ADM_STAT_ITEM = 0xFFFF ∧ t.fld TB_ADM_CNT_FAILED = min (s.fld TB_ADM_CNT_FAILED + 1) TB_ADM_CNT_FAILED.top ∧
          t.tb.stopAtMile = true)) ∧
    (s.isSet TB_STAT_COUNT_VALID = false → exec .admissionRun s = .next s) ∧
    (s.mgmtUp = true → 5 ≤ s.fld GLB_STATE_STEP →
      ∃ t, exec .mcAdmissionCommand s = .next t ∧ t.sched.admDue = true ∧
        (s.isSet TB_STAT_TIME_FAIL = false ∨ s.isSet TB_STAT_COUNT_VALID = true → t.fld TB_ADM_STAT_STATE = 1) ∧
        regsKept s t [TB_ADM_STAT_STATE.addr])

/-- SB_VAR_REQ, MC_VARIANT_REQUEST, TB_VAR_REQ and SB_VAR_REFUSE complete. A variant request that is new here, for a variant whose switch is not pending, is kept for the mile it is dated to: received on the
sideband, raised by the management controller while the endpoint is up, or raised by a write of TB_VAR_REQ that passes the gates with
REQ set. It is kept as refused where the variant is not admitted here or a refusal seen before names it, and else as not refused. A received refusal that is new marks
every request for its variant and mile as refused and cancels such a switch. -/
def Sys2Proof.Machine.VariantRequestsEnterTheirMile : Prop :=
  ∀ s : State,
    (∀ m : SbMsg, m.kind = 2 → m ∉ s.fab.seen → s.sched.switches.any (fun w => w.var = m.data % 8) = false →
      ∃ t, exec (.sbVarReq m) s = .next t ∧
        ∃ r ∈ t.sched.reqs, r.mile = nearestMile s.mileNow m.mile ∧ r.var = m.data % 8 ∧ r.refused = (!s.admittedVar (m.data % 8) ||
          s.fab.seen.any (fun q => decide (q.kind = 3 ∧ q.mile = m.mile ∧ q.data % 8 = m.data % 8)))) ∧
    (∀ v : Fin 8, s.mgmtUp = true → (⟨2, s.self.1, s.self.2, s.datedMile % 65536, v⟩ : SbMsg) ∉ s.fab.seen →
      s.sched.switches.any (fun w => w.var = v.val) = false →
      ∃ t, exec (.mcVariantRequest v) s = .next t ∧
        ∃ r ∈ t.sched.reqs, r.mile = nearestMile s.mileNow (s.datedMile % 65536) ∧ r.var = v.val ∧ r.own = true ∧
          r.refused = (!s.admittedVar v || s.fab.seen.any (fun q => decide (q.kind = 3 ∧ q.mile = s.datedMile % 65536 ∧ q.data % 8 = v.val)))) ∧
    (∀ (w : Wr) (g : RegDef), regAt TB_VAR_REQ_REQ.addr = some g → writeReaches s w TB_VAR_REQ_REQ.addr g = true →
      wbits w.data TB_VAR_REQ_REQ = 1 →
      (⟨2, s.self.1, s.self.2, s.datedMile % 65536, wbits w.data TB_VAR_REQ_VAR⟩ : SbMsg) ∉ s.fab.seen →
      s.sched.switches.any (fun x => x.var = wbits w.data TB_VAR_REQ_VAR) = false →
      ∃ t, exec (.tbVarReq w) s = .next t ∧
        ∃ r ∈ t.sched.reqs, r.mile = nearestMile s.mileNow (s.datedMile % 65536) ∧ r.var = wbits w.data TB_VAR_REQ_VAR ∧ r.own = true) ∧
    (∀ m : SbMsg, m.kind = 3 → m ∉ s.fab.seen →
      ∃ t, exec (.sbVarRefuse m) s = .next t ∧
        (∀ r ∈ t.sched.reqs, r.mile = nearestMile s.mileNow m.mile → r.var = m.data % 8 → r.refused = true) ∧
        (∀ x ∈ t.sched.switches, ¬(x.dated = nearestMile s.mileNow m.mile ∧ x.var = m.data % 8)))

/-- ADMISSION_RUN, MC_ADMISSION_COMMAND, SB_VAR_REQ, MC_VARIANT_REQUEST, TB_VAR_REQ and SB_VAR_REFUSE complete. -/
def Obligations.AdmissionAndVariantRequests : Prop := AdmissionPassesOrFailsByItsFirstCode ∧ VariantRequestsEnterTheirMile

/-! ### The on-die network (R218 to R233) -/

/-- MESH_TRANSFER completes. A transfer of units from a core store that runs undisturbed with no row void. Where its flow goes by plane A,
or by its detour on plane B, one flit per unit joins the mesh at the source, in order, with the destination, the way, the unit's index and
the bytes the core store holds for it. Where no route is left nothing is sent, and RTR_FLAG.NO_ROUTE is set. The core stores do not change. -/
def Sys2Proof.Machine.MeshTransferSendsItsUnits : Prop :=
  ∀ (s : State) (i : Issue) (flow addr dst : Nat) (f : Flow) (v : Send), v.src = .units addr →
    runsClean s i .meshA 0 [(addr, v.bytes * v.units)] → s.boot.image.flows.find? (fun (f : Flow) => f.num = flow) = some f →
    s.destOf f.dst = some dst →
    (∀ (planeB : Bool) (via : Nat), s.routeOf f i.core dst = (if planeB then .detour via else .planeA) → (planeB = false → via = dst) →
      ∃ t l, exec (.meshTransfer i flow v []) s = .next t ∧ t.mesh.flits = s.mesh.flits ++ l ∧ l.length = v.units ∧
        (∀ k, k < v.units → ∃ x, l[k]? = some x ∧ x.core = i.core ∧ x.flit.dest = dst % 1024 ∧ x.flit.via = via % 1024 ∧
          x.flit.index = (v.index + k) % 1024 ∧ x.flit.plane = planeB ∧ x.flit.isVoid = false ∧
          x.flit.payload = s.loadBytes i.core (addr + v.bytes * k) v.bytes) ∧
        t.store = s.store ∧ t.regs = s.regs ∧ outArrived s t i) ∧
    (s.routeOf f i.core dst = .none →
      ∃ t, exec (.meshTransfer i flow v []) s = .next t ∧ t.mesh = s.mesh ∧ t.store = s.store ∧
        t.fldAt (coreI i.core) RTR_FLAG_NO_ROUTE = 1 ∧ regsKept s t [RTR_FLAG_NO_ROUTE.addr + coreI i.core])

/-- FLIT_FORWARD completes. Flit n of plane A stands at a router that is not its destination's, between routers that are not faulty, with no injection armed. Into
its own region and with a good check it moves to the next core of the dimension-ordered way, unchanged. Into another region it is dropped,
and RTR_XDROP counts it. With a bad check it is dropped, and the receiving router counts it in RTR_CHK_ERR. -/
def Sys2Proof.Machine.FlitsGoTheirWay : Prop :=
  ∀ (s : State) (n : Nat) (f : FlitAt), s.mesh.flits[n]? = some f → f.flit.plane = false → f.core ≠ f.flit.dest →
    s.faults.armed = none → s.routerFaulty f.core false = false → s.routerFaulty (nextHop f.core f.flit.dest) false = false →
    (s.regionNum (nextHop f.core f.flit.dest) = f.flit.region →
      (∃ t, exec (.flitForward n false) s = .next t ∧
        t.mesh.flits = s.mesh.flits.eraseIdx n ++ [⟨nextHop f.core f.flit.dest, f.flit⟩] ∧ t.regs = s.regs ∧ t.store = s.store) ∧
      (∃ t, exec (.flitForward n true) s = .next t ∧ t.mesh.flits = s.mesh.flits.eraseIdx n ∧
        t.fldAt (coreI (nextHop f.core f.flit.dest)) RTR_CHK_ERR_COUNT =
          min (s.fldAt (coreI (nextHop f.core f.flit.dest)) RTR_CHK_ERR_COUNT + 1) RTR_CHK_ERR_COUNT.top ∧ t.store = s.store)) ∧
    (∀ up, s.regionNum (nextHop f.core f.flit.dest) ≠ f.flit.region →
      ∃ t, exec (.flitForward n up) s = .next t ∧ t.mesh.flits = s.mesh.flits.eraseIdx n ∧
        t.fldAt (coreI f.core) RTR_XDROP_COUNT = min (s.fldAt (coreI f.core) RTR_XDROP_COUNT + 1) RTR_XDROP_COUNT.top ∧
        t.store = s.store)

/-- MESH_TRANSFER and FLIT_FORWARD complete: units become flits, which go their way or are dropped. -/
def Obligations.MeshTransfersAndFlits : Prop := MeshTransferSendsItsUnits ∧ FlitsGoTheirWay

/-- FLIT_ARRIVAL and BROADCAST complete. A data unit (kinds 2 to 5), not void and with no injection armed, for a token that stands at the
unit's instance, not consumed, its row without a stub, on a core whose domain is on, with its place inside the core store. By plane A: a flit at its destination leaves the mesh, its bytes land at its index of the token's buffer, a LAST unit
marks its row arrived, and no other core-store byte changes. The same holds of the one unit of a broadcast that runs undisturbed, for one
receiving core on the segment. A flit for a token without a buffer is dropped and counted in RTR_LOCAL_DROP. -/
def Sys2Proof.Machine.ArrivalsLandInTheirBuffers : Prop :=
  (∀ (s : State) (n : Nat) (f : FlitAt) (b : TokenBuf), s.mesh.flits[n]? = some f → f.core = f.flit.dest →
    f.flit.plane = false → s.routerFaulty f.core false = false → s.domainOff f.core = false → 2 ≤ f.flit.kind → f.flit.kind < 6 →
    f.flit.isVoid = false → s.faults.armed = none →
    (s.tokenBuf f.core f.flit.token = some b → b.token = f.flit.token → (s.token f.core f.flit.token).inst = f.flit.inst % 256 →
      (s.token f.core f.flit.token).consumed = false → (s.token f.core f.flit.token).stubbed.getLsbD f.flit.row = false →
      b.base + f.flit.index * b.unit + f.flit.payload.length ≤ storeSize →
      ∃ t, exec (.flitArrival n) s = .next t ∧ t.mesh.flits = s.mesh.flits.eraseIdx n ∧
        t.loadBytes f.core (b.base + f.flit.index * b.unit) f.flit.payload.length = f.flit.payload ∧
        storeKept s t f.core (b.base + f.flit.index * b.unit) f.flit.payload.length ∧
        (f.flit.last = true → (t.token f.core f.flit.token).arrived.getLsbD f.flit.row = true) ∧ t.regs = s.regs) ∧
    (s.tokenBuf f.core f.flit.token = none →
      ∃ t, exec (.flitArrival n) s = .next t ∧ t.mesh.flits = s.mesh.flits.eraseIdx n ∧ t.store = s.store ∧
        t.fldAt (coreI f.core) RTR_LOCAL_DROP_COUNT =
          min (s.fldAt (coreI f.core) RTR_LOCAL_DROP_COUNT + 1) RTR_LOCAL_DROP_COUNT.top)) ∧
  (∀ (s : State) (i : Issue) (column : Bool) (addr : Nat) (v : Send) (r : BusRecv) (b : TokenBuf), v.src = .units addr → v.units = 1 →
    runsClean s i (if column then .colBus else .rowBus) 0 [(addr, v.bytes * v.units)] → 2 ≤ v.kind → v.kind < 8 → v.index < 1024 →
    s.onSegment column i.core r.core = true → s.domainOff r.core = false →
    s.tokenBuf r.core r.token = some b → b.token = r.token → (s.token r.core r.token).inst = i.inst % 256 →
    (s.token r.core r.token).consumed = false → (s.token r.core r.token).stubbed.getLsbD (r.index / r.perRow) = false →
    r.token ∉ i.ins → b.base + r.index * b.unit + v.bytes ≤ storeSize →
    ∃ t, exec (.broadcast i column v [r] []) s = .next t ∧
      t.loadBytes r.core (b.base + r.index * b.unit) v.bytes = s.loadBytes i.core addr v.bytes ∧
      storeKept s t r.core (b.base + r.index * b.unit) v.bytes ∧ t.regs = s.regs ∧ (r.core ≠ i.core → outArrived s t i))

/-- ROUTER_FAULT_EVENT, RTR_MARK_A and RTR_MARK_B complete. A parity error of a plane marks that plane's router of the core; a fault of the router domain marks both, sets DOMAIN_FAULT and clears FORWARDING; a write
of RTR_CTRL that passes the gates with MARK_A or MARK_B marks the router of that plane. No core-store or stack byte changes. -/
def Sys2Proof.Machine.RouterFaultsAreMarked : Prop :=
  ∀ (s : State) (core : CoreId),
    (∃ t, exec (.routerFaultEvent core .parityA) s = .next t ∧ rtrKey core false ∈ t.mesh.marks ∧ t.regs = s.regs ∧ t.store = s.store) ∧
    (∃ t, exec (.routerFaultEvent core .parityB) s = .next t ∧ rtrKey core true ∈ t.mesh.marks ∧ t.regs = s.regs ∧ t.store = s.store) ∧
    (∃ t, exec (.routerFaultEvent core .domain) s = .next t ∧ rtrKey core false ∈ t.mesh.marks ∧ rtrKey core true ∈ t.mesh.marks ∧
      t.fldAt (coreI core) RTR_STAT_DOMAIN_FAULT = 1 ∧ t.fldAt (coreI core) RTR_STAT_FORWARDING = 0 ∧ regsKept s t [RTR_STAT_DOMAIN_FAULT.addr + coreI core] ∧ t.store = s.store) ∧
    (∀ (w : Wr) (r : RegDef), regAt (RTR_CTRL_MARK_A.addr + coreI core) = some r →
      writeReaches s w (RTR_CTRL_MARK_A.addr + coreI core) r = true →
      (wbits w.data RTR_CTRL_MARK_A = 1 →
        ∃ t, exec (.rtrMarkA core w) s = .next t ∧ rtrKey core false ∈ t.mesh.marks ∧ t.store = s.store ∧ t.mem = s.mem) ∧
      (wbits w.data RTR_CTRL_MARK_B = 1 →
        ∃ t, exec (.rtrMarkB core w) s = .next t ∧ rtrKey core true ∈ t.mesh.marks ∧ t.store = s.store ∧ t.mem = s.mem))

/-- FLIT_ARRIVAL, BROADCAST, ROUTER_FAULT_EVENT, RTR_MARK_A and RTR_MARK_B complete. -/
def Obligations.ArrivalsAndRouterFaults : Prop := ArrivalsLandInTheirBuffers ∧ RouterFaultsAreMarked

/-! ### The module fabric (R234 to R262) -/

/-- A frame that the error correction and the tag check accept, with no injection armed. -/
def Sys2Proof.Machine.cleanFrame (s : State) (rx : FrameRx) : Prop :=
  s.faults.armed = none ∧ rx.uncorrectable = false ∧ rx.tagOk = true

/-- LANE_TRAINING_DONE, DESKEW_DONE and HELLO_FRAME complete. A planned port. In step 1 trained lanes complete the step; in step 2 the largest aligned part of good lanes, the lower first, gives the lanes and the width, REDUCED tells
whether it is narrower than planned, and a hello goes out; with no good part the attempt fails and the port stands at 0. In step 3 a hello that
is received well gives the partner's identity and the check result, and a confirm goes out. -/
def Sys2Proof.Machine.PortTrainsLanesWidthAndHello : Prop :=
  ∀ (s : State) (p : LaneId) (e : PlanPort), s.plan p = some e → e.width ≤ 8 →
    (∀ lanes, s.lnk p LNK_STAT_STATE = 1 → lanes ≠ 0 →
      ∃ t, exec (.laneTrainingDone p lanes) s = .next t ∧ t.lnk p LNK_STAT_STATE = 2 ∧ (t.port p).lanes = lanes ∧
        regsKept s t [LNK_STAT_STATE.addr + lnkI p]) ∧
    (∀ lanes, s.lnk p LNK_STAT_STATE = 2 →
      (∀ n, trainedWidth e.width ((s.port p).lanes &&& lanes) = some n →
        ∃ t f, exec (.deskewDone p lanes) s = .next t ∧ t.lnk p LNK_STAT_STATE = 3 ∧ t.lnk p LNK_STAT_WIDTH = n ∧
          (t.port p).lanes = trainedLanes e.width ((s.port p).lanes &&& lanes) ∧
          t.lnk p LNK_STAT_REDUCED = (if n < e.width then 1 else 0) ∧ t.fab.sent = f :: s.fab.sent ∧ f.port = p ∧ f.hdr.type = 2 ∧
          regsKept s t [LNK_STAT_STATE.addr + lnkI p]) ∧
      (trainedWidth e.width ((s.port p).lanes &&& lanes) = none →
        ∃ t, exec (.deskewDone p lanes) s = .next t ∧ t.lnk p LNK_STAT_STATE = 0 ∧ (t.port p).failed = true ∧ t.fab.sent = s.fab.sent)) ∧
    (∀ h rx, s.lnk p LNK_STAT_STATE = 3 → cleanFrame s rx → h.group < 16 → h.module < 64 → h.port < 64 →
      ∃ t f, exec (.helloFrame p h rx) s = .next t ∧ t.lnk p LNK_STAT_STATE = 4 ∧ (t.port p).result = some (s.cablingResult e h) ∧
        t.partnerOf p = (h.group, h.module) ∧ t.lnk p LNK_PARTNER_PORT = h.port ∧ (t.port p).partnerId = h.dieId ∧
        t.fab.sent = f :: s.fab.sent ∧ f.port = p ∧ f.hdr.type = 3)

/-- CONFIRM_FRAME, CABLING_DECISION and TRAINING_STEP_TIMEOUT complete. In step 4 a confirm received well with the right echo completes the step, and one whose tag fails makes the port FOREIGN: PLAN 5,
PLAN_FAIL set, the port at 0 and disabled. In step 5 a MATCH or FAR_SWAP that the partner accepts keeps the port: PLAN 1 or 2, in step 6 while
the rod count is valid and active otherwise; without acceptance the port is disabled. A step that does not complete in time fails, and the port
stands at 0. -/
def Sys2Proof.Machine.PortConfirmsAndIsDecided : Prop :=
  ∀ (s : State) (p : LaneId) (e : PlanPort), s.plan p = some e →
    (∀ c rx h, s.lnk p LNK_STAT_STATE = 4 → (s.port p).hello = some h →
      (cleanFrame s rx →
        (c.echoA, c.echoB) = (if Config.dieId.toNat < h.dieId.toNat then ((s.port p).random, h.random) else (h.random, (s.port p).random)) →
        ∃ t, exec (.confirmFrame p c rx) s = .next t ∧ t.lnk p LNK_STAT_STATE = 5 ∧ (t.port p).confirm = some c) ∧
      (s.faults.armed = none → rx.uncorrectable = false → rx.tagOk = false →
        ∃ t, exec (.confirmFrame p c rx) s = .next t ∧ t.lnk p LNK_STAT_STATE = 0 ∧ t.lnk p LNK_STAT_PLAN = 5 ∧
          t.lnk p LNK_FLAG_PLAN_FAIL = 1 ∧ (t.port p).planOff = true ∧
          t.lnk p LNK_TAG_ERR_COUNT = min (s.lnk p LNK_TAG_ERR_COUNT + 1) LNK_TAG_ERR_COUNT.top)) ∧
    (∀ r c h, s.lnk p LNK_STAT_STATE = 5 → (s.port p).result = some r → (s.port p).confirm = some c → (s.port p).hello = some h → r ≤ 1 →
      (c.accept = true →
        ∃ t, exec (.cablingDecision p) s = .next t ∧ t.lnk p LNK_STAT_PLAN = r + 1 ∧
          t.lnk p LNK_STAT_STATE = (if s.isSet TB_STAT_COUNT_VALID then 6 else 7)) ∧
      (c.accept = false →
        ∃ t, exec (.cablingDecision p) s = .next t ∧ t.lnk p LNK_STAT_PLAN = r + 1 ∧ t.lnk p LNK_STAT_STATE = 0 ∧
          t.lnk p LNK_FLAG_PLAN_FAIL = 1 ∧ (t.port p).planOff = true)) ∧
    (s.lnk p LNK_STAT_STATE ≠ 0 → s.lnk p LNK_STAT_STATE ≠ 7 →
      ∃ t, exec (.trainingStepTimeout p) s = .next t ∧ t.lnk p LNK_STAT_STATE = 0 ∧ (t.port p).failed = true)

/-- LANE_TRAINING_DONE, DESKEW_DONE, HELLO_FRAME, CONFIRM_FRAME, CABLING_DECISION and TRAINING_STEP_TIMEOUT complete. -/
def Obligations.LaneTraining : Prop := PortTrainsLanesWidthAndHello ∧ PortConfirmsAndIsDecided

/-- FRAME_SEND and DATA_FRAME complete. A send slot of 1 to 16 units of a core store that runs undisturbed with no row void. On an active port one frame goes out with the units'
bytes in order, the first unit's index, the count less one and the port's sequence number, which advances; on a port that is not active nothing
goes out. A frame of one data unit of a ring under way that passes every check, in a receive slot that the schedule gives the core's own
token, without a stub before it and with its place inside the core store: the port's receive count and expected
number advance, and the unit's bytes land at its index of the token's buffer. A frame of a revision not accepted counts in LNK_REV_REFUSE, and
no core store changes. -/
def Sys2Proof.Machine.DataFramesCarryUnits : Prop :=
  (∀ (s : State) (i : Issue) (lp : LaneId) (g m rg addr : Nat) (v : Send), v.src = .units addr → 1 ≤ v.units → v.units ≤ 16 →
    runsClean s i (.port lp.val) 0 [(addr, v.bytes * v.units)] →
    (∀ p, s.physPort lp = some p →
      ∃ t f, exec (.frameSend i lp g m rg v []) s = .next t ∧ t.fab.sent = f :: s.fab.sent ∧ f.port = p ∧ f.seq = (s.port p).txSeq ∧
        (t.port p).txSeq = (s.port p).txSeq + 1 ∧ f.hdr.index = v.index ∧ f.hdr.count = v.units - 1 ∧ f.hdr.token = v.token ∧
        f.hdr.dstGroup = g ∧ f.hdr.dstMod = m ∧ f.hdr.dstRegion = rg ∧
        f.payload = (List.range v.units).flatMap (fun k => s.loadBytes i.core (addr + v.bytes * k) v.bytes) ∧ t.store = s.store ∧
        t.regs = s.regs) ∧
    (s.physPort lp = none →
      ∃ t, exec (.frameSend i lp g m rg v []) s = .next t ∧ t.fab = s.fab ∧ t.store = s.store ∧ t.regs = s.regs)) ∧
  (∀ (s : State) (p : LaneId) (rx : FrameRx) (hdr : FrameHdr) (u : List Byte) (r : RecvSlot) (b : TokenBuf), s.portActive p = true →
    cleanFrame s rx → hdr.type = 0 → hdr.fmt = 2 → hdr.count = 0 → u.length = 72 →
    (s.revOk hdr.rev = true → (s.port p).refuseData = false → (s.port p).held = false →
      hdr.dstRegion = ((s.plan p).map PlanPort.region).getD 0 → r.issue.out = hdr.token → r.flow = none →
      (hdr.dstGroup, hdr.dstMod) = s.self → s.runs r.issue (.port (s.lnk p LNK_STAT_LOGICAL)) = true → (s.ringOf u).isSome = true → s.tokenBuf r.issue.core hdr.token = some b →
      b.token = hdr.token → (s.token r.issue.core hdr.token).inst = hdr.inst % 256 → (s.token r.issue.core hdr.token).consumed = false →
      (s.token r.issue.core hdr.token).stubbed.getLsbD (hdr.index / r.perRow) = false →
      b.base + hdr.index * b.unit + 72 ≤ storeSize →
      ∃ t, exec (.dataFrame p rx hdr [u] (some r) none) s = .next t ∧
        t.loadBytes r.issue.core (b.base + hdr.index * b.unit) 72 = u ∧ storeKept s t r.issue.core (b.base + hdr.index * b.unit) 72 ∧
        (t.port p).rx = (s.port p).rx + 1 ∧ (t.port p).rxSeq = nextSeq (s.port p).rxSeq hdr.seqLo) ∧
    (s.revOk hdr.rev = false →
      ∃ t, exec (.dataFrame p rx hdr [u] (some r) none) s = .next t ∧ t.store = s.store ∧ t.lnk p LNK_FLAG_REV = 1 ∧
        t.lnk p LNK_REV_REFUSE_COUNT = min (s.lnk p LNK_REV_REFUSE_COUNT + 1) LNK_REV_REFUSE_COUNT.top))

/-- HEARTBEAT_SEND and HEARTBEAT_RECEIVED complete. A port in step 6 or active that is not silent, with the time base not down: the first heartbeat of a core-clock rod goes out with the rod
count's low 16 bits and the module's STATE byte in front of its payload; a second one in that rod changes nothing. On an active port with both
ends' time valid, a heartbeat without messages that is received well, reports no chrysalis mode and meets no injected fault: one whose rod lies at
most 1 behind ends the run of disagreements; the third in a row that lies further off refuses data frames and sets TB_FAULT.PEER_TIME. -/
def Sys2Proof.Machine.HeartbeatsTellTheRod : Prop :=
  ∀ (s : State) (p : LaneId),
    (6 ≤ s.lnk p LNK_STAT_STATE → (s.port p).quiet = false → s.timeBaseDown = false →
      ((s.port p).hbSent ≠ some s.sec.clockRods →
        ∃ t f, exec (.heartbeatSend p) s = .next t ∧ t.fab.sent = f :: s.fab.sent ∧ f.port = p ∧ f.hdr.type = 1 ∧
          f.payload.take 3 = leBytes 2 s.tb.rod ++ [BitVec.ofNat 8 s.hbState] ∧ (t.port p).hbSent = some s.sec.clockRods ∧
          regsKept s t [FAB_SB_QUEUE_DEPTH.addr]) ∧
      ((s.port p).hbSent = some s.sec.clockRods → exec (.heartbeatSend p) s = .next s)) ∧
    (∀ rx rodLo state, s.lnk p LNK_STAT_STATE = 7 → cleanFrame s rx → s.faults.hbDiscard = none → s.faults.hbOffset = none →
      s.isSet TB_STAT_COUNT_VALID = true → hbTimeValid state = true → hbChrysalis state = false →
      ((s.tb.rod % 65536 + 65536 - rodLo % 65536) % 65536 ≤ 1 →
        ∃ t, exec (.heartbeatReceived p rx rodLo state []) s = .next t ∧ (t.port p).peerRun = 0 ∧ (t.port p).hbMiss = 0 ∧
          (t.port p).partner = state % 16 ∧ (t.port p).refuseData = (s.port p).refuseData) ∧
      (1 < (s.tb.rod % 65536 + 65536 - rodLo % 65536) % 65536 → (s.port p).peerRun = 2 →
        ∃ t, exec (.heartbeatReceived p rx rodLo state []) s = .next t ∧ (t.port p).peerRun = 3 ∧ (t.port p).refuseData = true ∧
          t.fld TB_FAULT_PEER_TIME = 1))

/-- FRAME_SEND, DATA_FRAME, HEARTBEAT_SEND and HEARTBEAT_RECEIVED complete. -/
def Obligations.FramesAndHeartbeats : Prop := DataFramesCarryUnits ∧ HeartbeatsTellTheRod

/-- SB_HEAT, SB_LOSS and SB_PRESENT complete. A message that is new here. A HEAT message enters the table and is counted; one of another origin is dropped from relay and counted as
dropped while the HEAT relays are stopped, and is queued otherwise. A LOSS message records the loss of its module for the mile it is dated to. A
PRESENT message leaves no unconfirmed loss of its module without the mark that it is present. A HEAT message that is in the table already changes
nothing. -/
def Sys2Proof.Machine.SidebandMessagesAreKept : Prop :=
  ∀ (s : State) (m : SbMsg),
    (m.kind = 1 → m ∉ s.fab.seen →
      ∃ t, exec (.sbHeat m) s = .next t ∧ m ∈ t.fab.seen ∧
        t.fld FAB_SB_SEEN_COUNT = min (s.fld FAB_SB_SEEN_COUNT + 1) FAB_SB_SEEN_COUNT.top ∧
        ((m.group, m.module) ≠ s.self → s.fab.heatStop = true →
          t.fab.queue = s.fab.queue ∧ t.fld FAB_SB_DROP_COUNT = min (s.fld FAB_SB_DROP_COUNT + 1) FAB_SB_DROP_COUNT.top) ∧
        (s.fab.heatStop = false → t.fab.queue = s.fab.queue ++ [m])) ∧
    (m.kind = 1 → m ∈ s.fab.seen → exec (.sbHeat m) s = .next s) ∧
    (m.kind = 4 → m ∉ s.fab.seen →
      ∃ t, exec (.sbLoss m) s = .next t ∧ m ∈ t.fab.seen ∧
        ∃ l ∈ t.fab.losses, l.group = m.data / 64 % 16 ∧ l.module = m.data % 64 ∧ l.mile = nearestMile s.mileNow m.mile) ∧
    (m.kind = 5 → m ∉ s.fab.seen →
      ∃ t, exec (.sbPresent m) s = .next t ∧ m ∈ t.fab.seen ∧
        ∀ l ∈ t.fab.losses, l.group = m.data / 64 % 16 → l.module = m.data % 64 → l.confirmed = none → l.present = true)

/-- LANE_SIGNAL_LOSS and HEARTBEAT_SLOT_MISS complete. A lost signal on an active port takes it to 0 with LOST and LNK_FLAG.LOSS set and its routes held, and a loss of its partner is recorded;
on a port in training it fails the attempt. A missed heartbeat slot of an active port counts in LNK_HB_MISS; with two misses before it and none
made by an injection the port is lost in the same way. A slot whose heartbeat came changes nothing. -/
def Sys2Proof.Machine.LostPartnersAreDetected : Prop :=
  ∀ (s : State) (p : LaneId),
    (s.portActive p = true →
      ∃ t, exec (.laneSignalLoss p) s = .next t ∧ t.lnk p LNK_STAT_STATE = 0 ∧ t.lnk p LNK_STAT_LOST = 1 ∧ t.lnk p LNK_FLAG_LOSS = 1 ∧
        (t.port p).held = true ∧ ∃ l ∈ t.fab.losses, (l.group, l.module) = s.partnerOf p) ∧
    (s.portActive p = false → s.lnk p LNK_STAT_STATE ≠ 0 →
      ∃ t, exec (.laneSignalLoss p) s = .next t ∧ t.lnk p LNK_STAT_STATE = 0 ∧ (t.port p).failed = true) ∧
    (s.portActive p = true → (s.port p).hbRod = none →
      ∃ t, exec (.heartbeatSlotMiss p) s = .next t ∧ (t.port p).hbMiss = (s.port p).hbMiss + 1 ∧
        t.lnk p LNK_HB_MISS_COUNT = min (s.lnk p LNK_HB_MISS_COUNT + 1) LNK_HB_MISS_COUNT.top ∧
        (2 ≤ (s.port p).hbMiss → (s.port p).hbInj = false → t.lnk p LNK_STAT_STATE = 0 ∧ t.lnk p LNK_FLAG_LOSS = 1) ∧
        ((s.port p).hbMiss < 2 → t.lnk p LNK_STAT_STATE = 7)) ∧
    (s.isSet TB_STAT_COUNT_VALID = true → (s.port p).hbRod = some ((s.tb.rod + rodP - 2) % rodP) →
      exec (.heartbeatSlotMiss p) s = .next s)

/-- SB_HEAT, SB_LOSS, SB_PRESENT, LANE_SIGNAL_LOSS and HEARTBEAT_SLOT_MISS complete. -/
def Obligations.SidebandAndDetection : Prop := SidebandMessagesAreKept ∧ LostPartnersAreDetected

/-- LOSS_CONFIRMATION and LOSS_DISABLE_TIMEOUT complete. A recorded loss of a module, unconfirmed, not marked present, whose dated mile has ended within the last half of the mile range, is
confirmed in this mile and counted. A confirmed loss that is still open two miles later, with no takeover of the module's role, is closed, and
admission is then due (from start step 5 on). -/
def Sys2Proof.Machine.LossesAreConfirmedAndClosed : Prop :=
  ∀ (s : State) (g m : Nat) (l : Loss), l ∈ s.fab.losses → l.group = g → l.module = m →
    (l.confirmed = none → l.present = false → (s.mileNow + mileP - l.mile) % mileP ≠ 0 →
      (s.mileNow + mileP - l.mile) % mileP ≤ mileP / 2 →
      ∃ t, exec (.lossConfirmation g m) s = .next t ∧
        t.fld FAB_LOSS_CNT_COUNT = min (s.fld FAB_LOSS_CNT_COUNT + 1) FAB_LOSS_CNT_COUNT.top ∧
        ∃ l' ∈ t.fab.losses, l'.group = g ∧ l'.module = m ∧ l'.mile = l.mile ∧ l'.confirmed = some s.mileNow) ∧
    (∀ c, l.closed = false → l.confirmed = some c → 2 ≤ (s.mileNow + mileP - c) % mileP →
      (∀ x ∈ s.fab.takeovers, ¬(x.1 = g ∧ x.2.1 = m)) → 5 ≤ s.fld GLB_STATE_STEP →
      ∃ t, exec (.lossDisableTimeout g m) s = .next t ∧ t.sched.admDue = true ∧
        ∃ l' ∈ t.fab.losses, l'.group = g ∧ l'.module = m ∧ l'.mile = l.mile ∧ l'.closed = true)

/-- LNK_RETRAIN and MC_COORDINATES complete. A write of LNK_CTRL that passes the gates with RETRAIN asks for a new training of the port. The management controller's coordinates are stored
in FAB_COORD with VALID, and MISMATCH tells whether they differ from the image's; no other register changes. -/
def Sys2Proof.Machine.RetrainAndCoordinates : Prop :=
  ∀ s : State,
    (∀ (p : LaneId) (w : Wr) (r : RegDef), regAt (LNK_CTRL_RETRAIN.addr + lnkI p) = some r →
      writeReaches s w (LNK_CTRL_RETRAIN.addr + lnkI p) r = true → wbits w.data LNK_CTRL_RETRAIN = 1 →
      ∃ t, exec (.lnkRetrain p w) s = .next t ∧ (t.port p).retrain = true ∧ t.lnk p LNK_STAT_STATE = s.lnk p LNK_STAT_STATE) ∧
    (∀ rack group slot, s.mgmtUp = true →
      ∃ t, exec (.mcCoordinates rack group slot) s = .next t ∧ t.fld FAB_COORD_VALID = 1 ∧ t.fld FAB_COORD_RACK = rack.toNat ∧
        t.fld FAB_COORD_GROUP = group.toNat ∧ t.fld FAB_COORD_SLOT = slot.toNat ∧
        (t.isSet FAB_COORD_MISMATCH = decide ((rack.toNat, group.toNat, slot.toNat) ≠ s.boot.image.coords)) ∧
        regsKept s t [FAB_COORD_VALID.addr])

/-- LOSS_CONFIRMATION, LOSS_DISABLE_TIMEOUT, LNK_RETRAIN and MC_COORDINATES complete. -/
def Obligations.LossesAndRetraining : Prop := LossesAreConfirmedAndClosed ∧ RetrainAndCoordinates

/-! ### Expert routing and attention (R265 to R312, R407) -/

/-- DISPATCH_GRANT completes. A bushel step of a layer that its dispatching core grants undisturbed leaves a grant record. An entry is accepted only for an expert whose
directory entry is VALID; of an expert no more entries are accepted than its allotment, with block rows below it; and of two choices of one
expert the one of the lower rank, or of the same rank and the lower row, is never refused where the other is accepted. The offered, granted and
dropped entries are counted, and no stored byte changes. -/
def Obligations.GrantsKeepTheAllotments : Prop :=
  ∀ (s : State) (i : Issue) (v : BitVec 32) (key : Option Nat) (layer : Nat) (el : ExpertLayer), s.runs i .dispatch = true →
    s.ready i = .run v key → s.faults.armed = none → s.faults.untrusted = [] →
    s.boot.image.experts.find? (fun (x : ExpertLayer) => x.core = (s.logicalOf i.core).getD 0 ∧ x.layer = layer) = some el →
    s.csPoisoned i.core ((s.boot.image.stores.filter (fun (r : StoreRegion) =>
      r.core = (s.logicalOf i.core).getD 0 ∧ r.kind = .directory)).map (fun (r : StoreRegion) => (r.base, r.len))) = false →
    ∃ t g, exec (.dispatchGrant i layer []) s = .next t ∧ g ∈ t.routing.grants ∧ g.core = i.core ∧ g.layer = layer ∧ g.inst = i.inst ∧
      (∀ e ∈ g.entries, e.accepted = true → dirValid (s.dirEntry ((s.logicalOf i.core).getD 0) layer e.expert) = true ∧
        e.blockRow < dirAllot (s.dirEntry ((s.logicalOf i.core).getD 0) layer e.expert)) ∧
      (∀ x, g.entries.countP (fun e => e.accepted && decide (e.expert = x)) ≤
        dirAllot (s.dirEntry ((s.logicalOf i.core).getD 0) layer x)) ∧
      (∀ e ∈ g.entries, ∀ d ∈ g.entries, e.expert = d.expert → (e.rank < d.rank ∨ (e.rank = d.rank ∧ e.row < d.row)) →
        d.accepted = true → e.accepted = true) ∧
      t.fldAt (coreI i.core) DSP_OFFER_CNT_COUNT =
        min (s.fldAt (coreI i.core) DSP_OFFER_CNT_COUNT + g.entries.length) DSP_OFFER_CNT_COUNT.top ∧
      t.fldAt (coreI i.core) DSP_GRANT_CNT_COUNT =
        min (s.fldAt (coreI i.core) DSP_GRANT_CNT_COUNT + g.entries.countP (fun e => e.accepted)) DSP_GRANT_CNT_COUNT.top ∧
      t.fldAt (coreI i.core) DSP_DROP_CNT_COUNT =
        min (s.fldAt (coreI i.core) DSP_DROP_CNT_COUNT + g.entries.countP (fun e => !e.accepted)) DSP_DROP_CNT_COUNT.top ∧
      t.store = s.store ∧ t.mem.stack = s.mem.stack

/-- The answers of one row of a grant at a combining core, each with its weight: the accepted choices in grant order, then the shared experts. -/
def Sys2Proof.Machine.rowAnswers (s : State) (i : Issue) (g : Grant) (el : ExpertLayer) (chunk n row : Nat) (tag : RowTag) :
    List (FpBits × AnswerFate) :=
  let lc := (s.logicalOf i.core).getD 0
  (g.entries.filter (fun (e : GrantEntry) => e.accepted && decide (e.row = row))).map (fun (e : GrantEntry) =>
    (e.weight, match s.boot.image.exchange.find? (fun (x : Exchange) => x.layer = g.layer ∧ x.expert = e.expert ∧ x.blockRow = e.blockRow ∧
        x.chunk = chunk ∧ x.comb = lc) with
      | some x => s.answerFate i.core i.inst x.token x.row n { tag with rank := e.rank } false
      | none => AnswerFate.late)) ++
  el.shared.zipIdx.map (fun (p : FpBits × Nat) =>
    (p.1, match s.boot.image.sharedRows.find? (fun (x : SharedRow) => x.layer = g.layer ∧ x.j = p.2 ∧ x.row = row ∧
        x.chunk = chunk ∧ x.comb = lc) with
      | some x => s.sharedFate i.core i.inst x.token x.arow n
      | none => AnswerFate.late))

/-- RETURN_COMBINE completes. A combining core that runs its issue undisturbed, its result inside the core store, with the grant record of the step offering one row. With every answer good, element k of the
result is the sum, one fused product after another from +0, of the weights and the answers' elements k; all expected rows arrive, and no other
core-store byte changes. With an answer late, no byte is stored, the row is void in the OUT token and counts in CMB_VOID_CNT and TB_LATE_CNT.
Without a grant record the whole issue is late: every expected row of the OUT token is void. -/
def Sys2Proof.Machine.AnswersAreCombined : Prop :=
  ∀ (s : State) (i : Issue) (layer chunk n out : Nat), s.runs i .dispatch = true → s.faults.armed = none → s.faults.untrusted = [] →
    (∀ (g : Grant) (el : ExpertLayer) (row : Nat) (tag : RowTag), row < 32 →
      s.routing.grants.find? (fun (g : Grant) => g.layer = layer ∧ g.inst = i.inst) = some g →
      s.boot.image.experts.find? (fun (x : ExpertLayer) => some x.core = s.logicalOf g.core ∧ x.layer = layer) = some el →
      s.csPoisoned i.core (((i.ins.filter (· ≠ 255)).filterMap (fun t => s.tokenBuf i.core t)).map
        (fun (b : TokenBuf) => (b.base, 32 * 72 * ((n + 63) / 64)))) = false → g.rows = [(row, tag)] →
      out + 4 * n * row + 4 * n ≤ storeSize →
      ((∀ p ∈ rowAnswers s i g el chunk n row tag, p.2.isOk = true) →
        ∃ t, exec (.returnCombine i layer chunk n out []) s = .next t ∧
          (∀ k, k < n → t.vecElem i.core ⟨.f32, out + 4 * n * row⟩ k =
            (rowAnswers s i g el chunk n row tag).foldl (fun (e : FpBits) p => vFma p.1 (p.2.vals.getD k 0) e) 0) ∧
          storeKept s t i.core (out + 4 * n * row) (4 * n) ∧ outArrived s t i ∧ t.mem.stack = s.mem.stack) ∧
      ((∃ p ∈ rowAnswers s i g el chunk n row tag, p.2.isLate = true) →
        ∃ t, exec (.returnCombine i layer chunk n out []) s = .next t ∧ t.store = s.store ∧
          t.fldAt (coreI i.core) CMB_VOID_CNT_COUNT =
            min (s.fldAt (coreI i.core) CMB_VOID_CNT_COUNT + 1) CMB_VOID_CNT_COUNT.top ∧
          t.fld TB_LATE_CNT_COUNT = min (s.fld TB_LATE_CNT_COUNT + 1) TB_LATE_CNT_COUNT.top ∧
          (i.out ≠ 255 → (s.outToken i).expected.getLsbD row = true → (t.token i.core i.out).voided.getLsbD row = true))) ∧
    (s.routing.grants.find? (fun (g : Grant) => g.layer = layer ∧ g.inst = i.inst) = none →
      ∃ t, exec (.returnCombine i layer chunk n out []) s = .next t ∧ t.store = s.store ∧
        t.fldAt (coreI i.core) SEQ_LATE_CNT_COUNT = min (s.fldAt (coreI i.core) SEQ_LATE_CNT_COUNT + 1) SEQ_LATE_CNT_COUNT.top ∧
        outArrived s t i ∧ (i.out ≠ 255 → ∀ k : Nat, (s.outToken i).expected.getLsbD k = true →
          (t.token i.core i.out).voided.getLsbD k = true))

/-- QUARANTINE_LAPSE completes. From 32 miles after its beginning on, the lapse of a quarantine ends it and gives every directory copy of the layer the image's entry of the
expert; before that it changes nothing. Nothing but the quarantines and the directory copies changes. -/
def Sys2Proof.Machine.QuarantinesLapse : Prop :=
  ∀ (s : State) (layer x : Nat) (q : Quarantine),
    s.faults.quarantines.find? (fun (q : Quarantine) => q.layer = layer ∧ q.expert = x) = some q →
    (32 ≤ (s.mileNow + mileP - q.mile) % mileP →
      ∃ t, exec (.quarantineLapse layer x) s = .next t ∧ q ∉ t.faults.quarantines ∧
        (∀ e ∈ s.boot.image.experts, e.layer = layer → (∀ d ∈ s.boot.image.experts, d.layer = layer → d.core = e.core → d = e) →
          t.dirEntry e.core layer x = e.entries.getD x 0) ∧
        (∀ l y, y < 512 → x < 512 → y ≠ x → t.dirEntry l layer y = s.dirEntry l layer y) ∧
        t = { s with faults := { s.faults with quarantines := t.faults.quarantines }, routing := { s.routing with dir := t.routing.dir } }) ∧
    ((s.mileNow + mileP - q.mile) % mileP < 32 → exec (.quarantineLapse layer x) s = .next s)

/-- RETURN_COMBINE and QUARANTINE_LAPSE complete: answers are combined in grant order; a quarantine ends. -/
def Obligations.AnswersAndQuarantines : Prop := AnswersAreCombined ∧ QuarantinesLapse

/-- SPAN_SLOT completes. A span slot of a KV layer that the furlong's assignment gives the request and that runs undisturbed, in time and
without a residue upset: for each head of the lane a partial of the row's
request, position and span is sent, void just where the row was void, with the m, l and o of each query head of the group against the span;
ATT_SPAN_CNT counts one; no stored byte changes, and no register but the two flag registers. -/
def Sys2Proof.Machine.SpansAreEvaluated : Prop :=
  ∀ (s : State) (i : Issue) (v : BitVec 32) (loc lane slot span pos qa ka : Nat) (row : Fin 32) (l : KvLayer) (first qb : Nat),
    s.kvLayer loc = some l →
    first = ((l.lanes.find? (fun e => e.1 = lane ∧ some e.2.1 = s.logicalOf i.core)).map (fun e => e.2.2)).getD 0 →
    qb = (if l.bf16Att then 2 else 1) * l.dim →
    s.spanGiven l lane slot span pos first = true →
    runsClean s i .matrix v [(qa, l.heads / max l.width 1 * l.group * qb), (ka, 64 * l.span * l.bytes)] →
    ∃ t ps, exec (.spanSlot i loc lane slot span pos row qa ka false [] false) s = .next t ∧ t.att.partials = s.att.partials ++ ps ∧
      ps.length = l.heads / max l.width 1 ∧
      (∀ k, k < l.heads / max l.width 1 → ∃ p, ps[k]? = some p ∧ p.slot = slot ∧ p.gen = (s.req slot).gen ∧ p.pos = pos ∧ p.layer = loc ∧
        p.span = span ∧ p.head = first + k ∧ (p.isVoid = true ↔ v.getLsbD row = true) ∧
        p.heads = (List.range l.group).map (fun j =>
          (s.spanHead i.core l (qa + (k * l.group + j) * qb) ka (first + k) span pos).out)) ∧
      t.fldAt (coreI i.core) ATT_SPAN_CNT_COUNT = min (s.fldAt (coreI i.core) ATT_SPAN_CNT_COUNT + 1) ATT_SPAN_CNT_COUNT.top ∧
      t.store = s.store ∧ t.mem.stack = s.mem.stack ∧
      regsKept s t [MXU_FLAG_OVF.addr + coreI i.core, ATT_FLAG_SCORE_NAN.addr + coreI i.core, ATT_SPAN_CNT_COUNT.addr + coreI i.core]

/-- SPAN_MERGE completes. On a merge core whose schedule places the issue, its output inside the core store, with no fold of this row begun. With a good partial of every span of the position, each of the layer's shape,
the output of query head j is its folded vector times the reciprocal of its folded l, in BF16, and zero where l is zero; the row arrives, and no
other core-store byte changes. With no partial of the first span, and the request not held, the row arrives void and nothing is stored. -/
def Sys2Proof.Machine.SpansAreFolded : Prop :=
  ∀ (s : State) (i : Issue) (loc slot head pos out : Nat) (row : Fin 32) (l : KvLayer) (mine : Partial → Bool),
    s.runs i .vector = true → out + 2 * (l.group * l.dim) ≤ storeSize → s.kvLayer loc = some l → 0 < l.span →
    mine = (fun (p : Partial) => p.slot == slot && p.gen == (s.req slot).gen && p.pos == pos && p.layer == loc && p.head == head) →
    s.att.folds.find? (fun (f : Fold) => f.slot == slot && f.gen == (s.req slot).gen && f.pos == pos && f.layer == loc && f.head == head) = none →
    (∀ parts : Nat → Partial, (∀ k, k < l.spans pos → (s.att.partials.filter mine).find? (fun p => p.span = k) = some (parts k) ∧
        (parts k).isVoid = false ∧ (parts k).heads.length = l.group ∧ ∀ h ∈ (parts k).heads, h.2.2.length = l.dim) →
      ∃ t, exec (.spanMerge i loc slot head pos row out) s = .next t ∧
        (∀ j e, j < l.group → e < l.dim →
          t.vecElem i.core ⟨.bf16, out⟩ (j * l.dim + e) =
            (let f := (List.range (l.spans pos)).foldl (fun a k =>
                foldHead a ((parts k).heads.getD j (0, 0, []))) (f32Inf true, 0, (List.range l.dim).map (fun _ => (0 : FpBits)))
             if f.2.1 = 0 ∨ f.2.1 = 0x80000000 then 0 else bf16ToF32 (vToBf16 (vMul (f.2.2.getD e 0) (vRecip f.2.1))))) ∧
        storeKept s t i.core out (2 * (l.group * l.dim)) ∧
        t.fldAt (coreI i.core) ATT_FOLD_CNT_COUNT =
          min (s.fldAt (coreI i.core) ATT_FOLD_CNT_COUNT + l.spans pos) ATT_FOLD_CNT_COUNT.top ∧
        (i.out ≠ 255 → (t.token i.core i.out).arrived.getLsbD row = true) ∧
        regsKept s t [ATT_FOLD_CNT_COUNT.addr + coreI i.core]) ∧
    ((∀ p ∈ s.att.partials, mine p = true → p.span ≠ 0) →
      s.att.held.any (fun h => h.slot == slot && h.gen == (s.req slot).gen && h.layer == loc) = false →
      ∃ t, exec (.spanMerge i loc slot head pos row out) s = .next t ∧ t.store = s.store ∧
        t.fld TB_VOID_CNT_COUNT = min (s.fld TB_VOID_CNT_COUNT + 1) TB_VOID_CNT_COUNT.top ∧
        (i.out ≠ 255 → (t.token i.core i.out).arrived.getLsbD row = true ∧ (t.token i.core i.out).voided.getLsbD row = true))

/-- SPAN_SLOT and SPAN_MERGE complete: spans are evaluated, and folded in ascending order. -/
def Obligations.AttentionSpans : Prop := SpansAreEvaluated ∧ SpansAreFolded

/-- Ring `x` has evaluated its pairs of step k and is in it (R308). -/
def Sys2Proof.Machine.ringStepped (s t : State) (d : Ring) (rl : RingLayer) (x : RingRun) (k : Nat) : Prop :=
  { x with
    phase := .circulation
    step := k
    startMile := s.mileNow
    acc := x.fold rl.geo (s.req x.slot).p (max d.members.length 1) (s.ringMember d) k } ∈ t.att.rings

/-- The queries and blocks that the pairs of step k need are all in the ring. -/
def Sys2Proof.Machine.ringHas (s : State) (d : Ring) (rl : RingLayer) (x : RingRun) (k : Nat) : Prop :=
  x.lacks rl.geo (s.req x.slot).p (max d.members.length 1) (s.ringMember d) k = false

/-- RING_REQUEST_START and RING_STEP complete. A waiting ring request whose region's ring is free takes it in the projection phase of its
first layer, and its ADMIT is sent for the second furlong boundary. At a mile boundary, with nothing void: a projection whose rows are all
placed passes into the first circulation step, and a step whose miles are over into the next, each with its pairs folded, where the ring
holds what they need; with a line missing, or a bad one reported, the phase is void instead. The last step passes to the return, which in
the last layer leaves the request all but its last prompt position committed. The return, its rows placed, starts the next layer, and after
the last frees the ring. -/
def Obligations.RingsRunLongRequests : Prop :=
  ∀ (s : State) (ring : Nat) (d : Ring), s.ringDecl ring = some d →
    (∀ slot, (s.req slot).state = .intake → (s.req slot).ring = true → (s.req slot).admitAt = none → d.region = (s.req slot).region →
      s.att.rings.any (fun x => x.ring == ring) = false →
      ∃ t x, exec (.ringRequestStart slot ring) s = .next t ∧ t.att.rings = s.att.rings ++ [x] ∧ x.ring = ring ∧ x.slot = slot ∧
        x.phase = .projection ∧ x.layer = 0 ∧ x.placed = 0 ∧ x.chunks = ((s.req slot).p + 4095) / 4096 ∧
        (t.req slot).admitAt = some (furlongAfter s.tb.rod 2) ∧
        t.rqt.updates = s.rqt.updates ++ [⟨.admitSlot, furlongAfter s.tb.rod 2, slot, (s.req slot).gen, 0⟩] ∧ t.regs = s.regs) ∧
    (∀ x rl, s.att.rings.find? (fun x => x.ring == ring) = some x → d.layers[x.layer]? = some rl → x.voided = false →
      s.tb.rod % 320 = 0 →
      (x.voids < 4 →
        ∃ t, exec (.ringStep ring true) s = .next t ∧ { x with voided := true, voids := x.voids + 1 } ∈ t.att.rings ∧
          (t.req x.slot).voids = (s.req x.slot).voids + 1) ∧
      (x.phase = .projection → s.ringPlaced rl x = true →
        (ringHas s d rl x 0 → ∃ t, exec (.ringStep ring false) s = .next t ∧ ringStepped s t d rl x 0) ∧
        (¬ringHas s d rl x 0 → x.voids < 4 →
          ∃ t, exec (.ringStep ring false) s = .next t ∧ { x with voided := true, voids := x.voids + 1 } ∈ t.att.rings)) ∧
      (x.phase = .circulation → d.stepMiles x.chunks ≤ (s.mileNow + mileP - x.startMile) % mileP →
        (x.step + 1 < d.members.length → ringHas s d rl x (x.step + 1) →
          ∃ t, exec (.ringStep ring false) s = .next t ∧ ringStepped s t d rl x (x.step + 1)) ∧
        (d.members.length ≤ x.step + 1 →
          ∃ t y, exec (.ringStep ring false) s = .next t ∧ y ∈ t.att.rings ∧ y.ring = ring ∧ y.phase = .return ∧ y.startMile = s.mileNow ∧
            y.voids = 0 ∧ y.layer = x.layer ∧ t.regs = s.regs ∧
            (d.layers.length ≤ x.layer + 1 → (t.req x.slot).lC = (s.req x.slot).p - 1))) ∧
      (x.phase = .return → s.ringPlaced rl x = true →
        (x.layer + 1 < d.layers.length →
          ∃ t, exec (.ringStep ring false) s = .next t ∧
            { x with phase := .projection, layer := x.layer + 1, step := 0, startMile := s.mileNow, placed := 0, lines := [], acc := [] } ∈
              t.att.rings) ∧
        (d.layers.length ≤ x.layer + 1 →
          ∃ t, exec (.ringStep ring false) s = .next t ∧ (∀ y ∈ t.att.rings, y.ring ≠ ring) ∧ (t.req x.slot).ring = false ∧
            t.regs = s.regs)))

/-! ### Serving requests (R313 to R345) -/

/-- INTAKE_POLL completes. A poll that arrives in time, outside chrysalis mode, its attachment router working and its windows open to DMA, takes the records up to the first that is not present, at most B of the image; they
are appended in order, the consumer index moves by their number, the host's index is kept, and only the two index registers and the serving
state change. A late poll is discarded, and counts in TB_STALE_CNT and its core's SEQ_STALE_CNT. -/
def Sys2Proof.Machine.IntakePollTakesPresentRecords : Prop :=
  ∀ (s : State) (r : RingPair) (recs : List (List Byte)) (host : Nat), s.ring = some r → s.fld GLB_STATE_STATE ≠ 2 →
    s.cutOff r.region = false →
    (s.dma r.inAddr (128 * r.nIn) = true → s.dma r.hostIdxAddr 8 = true → ∃ t n, exec (.intakePoll recs host false) s = .next t ∧ n ≤ r.bPoll ∧ n ≤ recs.length ∧
      (∀ j raw, j < n → recs[j]? = some raw → recPresent raw (s.fld RQT_IN_IDX_INDEX + j) r.nIn = true) ∧
      (∀ raw, n < r.bPoll → recs[n]? = some raw → recPresent raw (s.fld RQT_IN_IDX_INDEX + n) r.nIn = false) ∧
      t.rqt.polled = s.rqt.polled ++ recs.take n ∧ t.fld RQT_IN_IDX_INDEX = (s.fld RQT_IN_IDX_INDEX + n) % 2 ^ 32 ∧
      t.fld RQT_EG_CREDIT_INDEX = host % 2 ^ 32 ∧ regsKept s t [RQT_IN_IDX_INDEX.addr, RQT_EG_CREDIT_INDEX.addr] ∧
      t.rqt.table = s.rqt.table ∧ t = { s with regs := t.regs, rqt := t.rqt }) ∧
    (∃ t, exec (.intakePoll recs host true) s = .next t ∧
      t.fldAt (coreI (s.attachOf r.region)) SEQ_STALE_CNT_COUNT =
        min (s.fldAt (coreI (s.attachOf r.region)) SEQ_STALE_CNT_COUNT + 1) SEQ_STALE_CNT_COUNT.top ∧
      t.fld TB_STALE_CNT_COUNT = min (s.fld TB_STALE_CNT_COUNT + 1) TB_STALE_CNT_COUNT.top ∧ t = { s with regs := t.regs })

/-- A SUBMIT that is refused with a code: counted, shown and answered, with no slot taken. -/
def Sys2Proof.Machine.refusedAs (s : State) (raw : List Byte) (f : Fetch) (code : Nat) : Prop :=
  ∃ t e, exec (.submit raw f) s = .next t ∧ t.fld RQT_LAST_REFUSE_CODE = code ∧ t.fld RQT_FLAG_REFUSED = 1 ∧
    t.fld RQT_REFUSE_CNT_COUNT = min (s.fld RQT_REFUSE_CNT_COUNT + 1) RQT_REFUSE_CNT_COUNT.top ∧
    t.rqt.egress = s.rqt.egress ++ [.record e] ∧ e.kind = 2 ∧ e.code = code ∧ e.handle = BitVec.ofNat 64 (fieldLE raw 8 8) ∧
    t.rqt.table = s.rqt.table ∧ t.mem = s.mem

/-- SUBMIT completes. On an entry module with a ring. The first failing check gives the code: intake closed 0x19, a malformed record 0x11, more than 2,097,152 positions
0x13, no free slot 0x10, a prompt outside the request windows 0x18. A request that passes every check takes a free slot in INTAKE with the record's
handle, priority, prompt length and limit and the slot's own generation, is counted and answered ADMITTED; no other slot changes; and where it is no
ring request and a seat is free beside the prefill rows reserved its ADMIT names the second furlong boundary. -/
def Obligations.SubmitTakesASlotOrIsRefused : Prop :=
  ∀ (s : State) (rg : RingPair) (raw : List Byte) (f : Fetch), s.ring = some rg → s.boot.image.entry = true →
    (s.intakeOpen = false → refusedAs s raw f 0x19) ∧
    (s.intakeOpen = true → submitOk raw = false → refusedAs s raw f 0x11) ∧
    (s.intakeOpen = true → submitOk raw = true →
      (2097152 < fieldLE raw 40 4 + fieldLE raw 44 4 → refusedAs s raw f 0x13) ∧
      (fieldLE raw 40 4 + fieldLE raw 44 4 ≤ 2097152 →
        ((∀ k, k < 8192 → (s.req k).state ≠ .free) → refusedAs s raw f 0x10) ∧
        (∀ k, k < 8192 → (s.req k).state = .free → rg.inWindow (fieldLE raw 32 8) (4 * fieldLE raw 40 4) = false →
          refusedAs s raw f 0x18))) ∧
    (∀ slot, s.checkSubmit raw f = .inr slot →
      (s.req slot).state = .free ∧ slot < 8192 ∧
      ∃ t e, exec (.submit raw f) s = .next t ∧ (t.req slot).state = .intake ∧
        (t.req slot).handle = BitVec.ofNat 64 (fieldLE raw 8 8) ∧ (t.req slot).prio = recByte raw 1 ∧
        (t.req slot).p = fieldLE raw 40 4 ∧ (t.req slot).nMax = fieldLE raw 44 4 ∧ (t.req slot).gen = (s.req slot).gen ∧
        (∀ k, k ≠ slot → t.req k = s.req k) ∧
        t.fld RQT_ADMIT_CNT_COUNT = min (s.fld RQT_ADMIT_CNT_COUNT + 1) RQT_ADMIT_CNT_COUNT.top ∧
        t.rqt.egress = s.rqt.egress ++ [.record e] ∧ e.kind = 1 ∧ e.code = 0 ∧ e.slot = slot ∧ e.gen = (s.req slot).gen ∧
        regsKept s t [RQT_ADMIT_CNT_COUNT.addr] ∧
        (fieldLE raw 40 4 ≤ 131072 → s.seatsUsed < s.seatTotal →
          (fieldLE raw 24 6 = 0 → s.seatsUsed + s.reservations < s.seatTotal) →
          (fieldLE raw 24 6 ≠ 0 → s.seatsUsed + s.reservations + (s.comingVar.map Variant.prefillRows).getD 0 ≤ s.seatTotal) →
          (t.req slot).admitAt = some (furlongAfter s.tb.rod 2) ∧
          t.rqt.updates = s.rqt.updates ++ [⟨.admitSlot, furlongAfter s.tb.rod 2, slot, (s.req slot).gen, 0⟩]))

/-- A control record names a live request by its slot, handle and generation. -/
def Sys2Proof.Machine.namesLive (s : State) (raw : List Byte) (slot : Nat) : Prop :=
  slot = fieldLE raw 16 2 ∧ (s.req slot).state.live = true ∧ (s.req slot).handle = BitVec.ofNat 64 (fieldLE raw 8 8) ∧
    (s.req slot).gen = recByte raw 18

/-- CANCEL, PAUSE, RESUME and DRAFT complete. A well-formed control record that names a live request. CANCEL of a request whose ADMIT has not been sent ends it at once: CANCELLED, code 6,
its generation kept, a FINAL record queued; of any other it is sent for the boundary of its ADMIT, or the second furlong boundary. PAUSE and RESUME
are sent for the second furlong boundary. DRAFT on a speculating request in DECODE or PAUSED leaves its base and tokens pending, and in another live
state only counts as discarded. A malformed record, one that names no live request, and a DRAFT on a request without speculation only count in RQT_CTRL_MISS. -/
def Obligations.ControlRecordsReachTheirRequest : Prop :=
  ∀ (s : State) (raw : List Byte) (slot : Nat),
    (namesLive s raw slot →
      (controlOk raw 2 = true →
        ((s.req slot).state = .intake → (s.req slot).admitAt = none →
          ∃ t e, exec (.cancel raw) s = .next t ∧ (t.req slot).state = .cancelled ∧ (t.req slot).gen = (s.req slot).gen ∧
            t.rqt.egress = s.rqt.egress ++ [.record e] ∧ e.kind = 2 ∧ e.code = 6 ∧ e.slot = slot ∧
            t.fld RQT_CANCEL_CNT_COUNT = min (s.fld RQT_CANCEL_CNT_COUNT + 1) RQT_CANCEL_CNT_COUNT.top) ∧
        (∀ b, (s.req slot).state = .intake → (s.req slot).admitAt = some b →
          ∃ t, exec (.cancel raw) s = .next t ∧ t.rqt.updates = s.rqt.updates ++ [⟨.cancel, b, slot, (s.req slot).gen, 6⟩] ∧
            t.rqt.table = s.rqt.table ∧ t.regs = s.regs) ∧
        ((s.req slot).state ≠ .intake →
          ∃ t, exec (.cancel raw) s = .next t ∧
            t.rqt.updates = s.rqt.updates ++ [⟨.cancel, furlongAfter s.tb.rod 2, slot, (s.req slot).gen, 6⟩] ∧
            t.rqt.table = s.rqt.table ∧ t.regs = s.regs)) ∧
      (controlOk raw 4 = true →
        ∃ t, exec (.pause raw) s = .next t ∧
          t.rqt.updates = s.rqt.updates ++ [⟨.pause, furlongAfter s.tb.rod 2, slot, (s.req slot).gen, 0⟩] ∧
          t = { s with rqt := { s.rqt with updates := t.rqt.updates, polled := s.rqt.polled.erase raw } }) ∧
      (controlOk raw 5 = true →
        ∃ t, exec (.resume raw) s = .next t ∧
          t.rqt.updates = s.rqt.updates ++ [⟨.resume, furlongAfter s.tb.rod 2, slot, (s.req slot).gen, 0⟩] ∧
          t = { s with rqt := { s.rqt with updates := t.rqt.updates, polled := s.rqt.polled.erase raw } }) ∧
      (draftOk raw = true → (s.req slot).spec = true →
        ((s.req slot).state = .decode ∨ (s.req slot).state = .paused →
          ∃ t toks, exec (.draft raw) s = .next t ∧ (t.req slot).draft = some (fieldLE raw 20 4, toks) ∧ toks.length = recByte raw 1 ∧
            (∀ k, k < recByte raw 1 → toks[k]? = some (fieldLE raw (24 + 4 * k) 4)) ∧
            (∀ k, k ≠ slot → t.req k = s.req k) ∧ t.regs = s.regs) ∧
        ((s.req slot).state ≠ .decode → (s.req slot).state ≠ .paused →
          ∃ t, exec (.draft raw) s = .next t ∧
            t.fld RQT_DRAFT_DISC_COUNT = min (s.fld RQT_DRAFT_DISC_COUNT + 1) RQT_DRAFT_DISC_COUNT.top ∧ t.rqt.table = s.rqt.table))) ∧
    (∀ c : Instr, (c = .cancel raw ∧ controlOk raw 2 = false) ∨ (c = .pause raw ∧ controlOk raw 4 = false) ∨
        (c = .resume raw ∧ controlOk raw 5 = false) ∨
        (c = .draft raw ∧ (draftOk raw = false ∨ (s.req (fieldLE raw 16 2)).spec = false)) ∨
        ((c = .cancel raw ∨ c = .pause raw ∨ c = .resume raw ∨ c = .draft raw) ∧ ¬ namesLive s raw (fieldLE raw 16 2)) →
      ∃ t, exec c s = .next t ∧ t.fld RQT_CTRL_MISS_COUNT = min (s.fld RQT_CTRL_MISS_COUNT + 1) RQT_CTRL_MISS_COUNT.top ∧
        regsKept s t [RQT_CTRL_MISS_COUNT.addr] ∧ t = { s with regs := t.regs, rqt := { s.rqt with polled := s.rqt.polled.erase raw } })

/-- HOST_READ_COMPLETION completes. A host read without error on a core of its region whose domain is on, the region's attachment router
working and its place inside the core store. Within the declared rods, its token neither newer nor consumed, the data stands in
the core store, its rows have arrived in the token, and no other core-store byte and no register changes. Past them it is discarded and counts in
SEQ_STALE_CNT and TB_STALE_CNT, and every store and token stays. A read of another region's window changes nothing. -/
def Sys2Proof.Machine.HostReadsLandInTime : Prop :=
  ∀ (s : State) (region : Fin 16) (core : CoreId) (token inst : Nat) (rows : BitVec 32) (addr : Nat) (data : List Byte) (at_ : Nat), 
    (s.regionNum core ≠ region →
      exec (.hostReadCompletion region core token inst rows addr data at_ false) s = .next s) ∧
    (s.domainOff core = false → s.regionNum core = region → s.cutOff region = false →
    (rodsSince at_ s.tb.rod ≤ s.boot.image.hostReadRods → instNewer (s.token core token).inst inst = false →
      ((s.token core token).consumed = true → (s.token core token).inst ≠ inst % 256) → addr + data.length ≤ storeSize →
      ∃ t, exec (.hostReadCompletion region core token inst rows addr data at_ false) s = .next t ∧
        t.loadBytes core addr data.length = data ∧ storeKept s t core addr data.length ∧
        (∀ k : Nat, rows.getLsbD k = true → (t.token core token).arrived.getLsbD k = true) ∧ t.regs = s.regs) ∧
    (s.boot.image.hostReadRods < rodsSince at_ s.tb.rod →
      ∃ t, exec (.hostReadCompletion region core token inst rows addr data at_ false) s = .next t ∧
        t.fldAt (coreI core) SEQ_STALE_CNT_COUNT = min (s.fldAt (coreI core) SEQ_STALE_CNT_COUNT + 1) SEQ_STALE_CNT_COUNT.top ∧
        t.fld TB_STALE_CNT_COUNT = min (s.fld TB_STALE_CNT_COUNT + 1) TB_STALE_CNT_COUNT.top ∧ t = { s with regs := t.regs }))

/-- ENTRY_ISSUE completes. The oldest instance of the slot that has not been entered. Row by row: a row of an older generation stays empty;
a row that joins or leaves at a later layer stays as it is; a prompt row is filled while
its request is in PREFILL and its position is not committed; the first row of a request in DECODE below 2,097,152 takes position L_C and the pending token; row k of it takes position
L_C + k and token k of a draft whose base is L_C, and stays empty where the draft has another base or is shorter. A token that the
image ties to the instance, and that stands at it, expects exactly the filled rows that are in the bushel at its stage (log entry 47). -/
def Sys2Proof.Machine.EntryIssueFillsTheRows : Prop :=
  ∀ (s : State) (slot : Nat) (b : Bushel),
    s.rqt.bushels.find? (fun b => b.slot = slot ∧ !b.entered) = some b →
    ∃ t nb, exec (.entryIssue slot) s = .next t ∧ nb ∈ t.rqt.bushels ∧ nb.key = b.key ∧ nb.entered = true ∧
      nb.rows.length = b.rows.length ∧
      (∀ (j : Nat) (w : BushelRow), b.rows[j]? = some w → ∃ x, nb.rows[j]? = some x ∧ x.slot = w.slot ∧ x.gen = w.gen ∧
        ((s.req w.slot).gen ≠ w.gen → x.filled = false) ∧
        ((s.req w.slot).gen = w.gen → w.first ≠ 0 ∨ w.last.isSome = true → x = w) ∧
        ((s.req w.slot).gen = w.gen → w.first = 0 → w.last = none →
          (w.isPrompt = true → x.filled = decide ((s.req w.slot).state = .prefill ∧ (s.req w.slot).lC ≤ w.pos) ∧ x.pos = w.pos ∧ x.tok = w.tok) ∧
          (w.isPrompt = false → (s.req w.slot).state ≠ .decode → x.filled = false) ∧
          (w.isPrompt = false → (s.req w.slot).state = .decode → (s.req w.slot).lC + w.k < 2097152 →
            (w.k = 0 → x.filled = true ∧ x.pos = (s.req w.slot).lC ∧ x.tok = (s.req w.slot).pendTok) ∧
            (∀ base ts, w.k ≠ 0 → (s.req w.slot).draft = some (base, ts) →
              (base = (s.req w.slot).lC → w.k ≤ ts.length →
                x.filled = true ∧ x.pos = (s.req w.slot).lC + w.k ∧ x.tok = ts.getD (w.k - 1) 0) ∧
              (base ≠ (s.req w.slot).lC ∨ ts.length < w.k → x.filled = false))))) ∧
      (∀ per mile, per = max (((s.variant? s.sched.var).map Variant.period).getD 1) 1 → mile = b.start / 320 →
        ∀ (x : TokenBuf) (c : Nat), x ∈ s.boot.image.buffers → x.tied = some (b.slot, mile % per) → s.physOf x.core = some c →
          (∀ y ∈ s.boot.image.buffers, ∀ q, y.tied = x.tied → s.physOf y.core = some q → tokKey q y.token = tokKey c x.token →
            y.stage = x.stage) →
          (s.token c x.token).inst = mile / per % 256 % 256 → ∀ j : Nat, j < 32 →
            ((t.token c x.token).expected.getLsbD j = true ↔
              ∃ w, nb.rows[j]? = some w ∧ w.filled = true ∧ w.present x.stage = true))

/-- HOST_READ_COMPLETION and ENTRY_ISSUE complete: data land in time; an entry issue fills the rows. -/
def Obligations.ReadsAndEntries : Prop := HostReadsLandInTime ∧ EntryIssueFillsTheRows

/-- SAMPLING completes. A filled row of the oldest entered instance of a bushel slot. At temperature 0 without penalties, with finite logits of which one is above all
others, the row's drawn token is that logit's index, with the precision flag that came in. A row that is void already draws nothing, and no drawing, table or stored byte changes. -/
def Sys2Proof.Machine.SamplingDrawsGreedily : Prop :=
  ∀ (s : State) (slot : Nat) (row : Fin 32) (b : Bushel) (w : BushelRow), s.rqt.bushels.find? (fun b => b.slot = slot ∧ b.entered) = some b →
    b.rows[row.val]? = some w → w.filled = true →
    (∀ (z : List FpBits) (flag : Bool) (m : Nat) (v : FpBits), b.voided.getLsbD row.val = false → (s.req w.slot).pen = false →
      (f32Val (sampleCfg (s.req w.slot).samp).temp).m = 0 → (∀ x ∈ z, f32Finite x = true) → z[m]? = some v →
      (∀ j x, j ≠ m → z[j]? = some x → vLt x v = true ∧ vLt v x = false) →
      ∃ t nb, exec (.sampling slot row z flag false) s = .next t ∧ nb ∈ t.rqt.bushels ∧ nb.key = b.key ∧
        SMap.get (fun _ => ((0 : Nat), false)) nb.drawn row.val = (m, flag) ∧ t.rqt.table = s.rqt.table ∧
        regsKept s t [RQT_SMP_BAD_COUNT.addr, RQT_TOPP_TRUNC_COUNT.addr]) ∧
    (∀ z flag isVoid, b.voided.getLsbD row.val = true →
      ∃ t, exec (.sampling slot row z flag isVoid) s = .next t ∧ regsKept s t [] ∧ t.rqt.table = s.rqt.table ∧
        (∀ nb ∈ t.rqt.bushels, ∃ x ∈ s.rqt.bushels, nb.key = x.key ∧ nb.drawn = x.drawn))

/-- COMMIT_DECISION and RETURN_RECORD complete. The exit module, for a request with a single filled decode row in an entered instance, at the position that its last return or its table entry
gives as L_C (the model's reading, log entry 47): a row neither void nor paused nor held returns L_C one past its position, its drawn token and the stop code that the token decides; a void row returns nothing but the mark that row 0 was void. The entry
module, for a record of the slot's generation and a request in DECODE: L_C and L_T become the record's, the void run is 0 and the tokens join the
unsent ones; a code drains the request, and the fifth void in a row drains it with code 0x20. A record of an older generation changes no request. -/
def Obligations.CommitsReturnTheirTokens : Prop :=
  (∀ (s : State) (bslot slot : Nat) (b : Bushel) (i : Nat) (w : BushelRow), i < 32 →
    s.rqt.bushels.find? (fun b => b.slot = bslot ∧ b.entered) = some b →
    b.rows[i]? = some w → w.slot = slot → w.gen = (s.req slot).gen → w.filled = true → w.isPrompt = false → w.last = none →
    (∀ (j : Nat) (x : BushelRow), b.rows[j]? = some x → x.slot = slot → x.gen = (s.req slot).gen → j = i) →
    b.lanePaused.getLsbD i = false → b.heldRows.getLsbD i = false → w.pos = s.lcNow slot →
    (b.voided.getLsbD i = false →
      ∃ t q, exec (.commitDecision bslot slot) s = .next t ∧ t.rqt.returns = q :: s.rqt.returns ∧ q.slot = slot ∧
        q.gen = (s.req slot).gen ∧ q.newLC = w.pos + 1 ∧
        q.tokens = [SMap.get (fun _ => ((0 : Nat), false)) b.drawn i] ∧ q.firstPos = w.pos + 1 ∧ q.row0Void = false ∧
        q.code = stopCode (s.req slot) (s.req slot).window (SMap.get (fun _ => ((0 : Nat), false)) b.drawn i).1 (w.pos + 1)) ∧
    (b.voided.getLsbD i = true →
      ∃ t q, exec (.commitDecision bslot slot) s = .next t ∧ t.rqt.returns = q :: s.rqt.returns ∧ q.slot = slot ∧
        q.newLC = w.pos ∧ q.tokens = [] ∧ q.row0Void = true ∧ q.code = none ∧ t.mem = s.mem)) ∧
  (∀ (s : State) (q : ReturnRec),
    ((s.req q.slot).gen = q.gen → (s.req q.slot).state = .decode → (s.req q.slot).p ≤ (s.req q.slot).lC → (s.req q.slot).p ≤ q.newLC →
      ((s.req q.slot).lC < q.newLC → q.code = none →
        ∃ t, exec (.returnRecord q) s = .next t ∧ (t.req q.slot).lC = q.newLC ∧ (t.req q.slot).lT = q.newLC ∧
          (t.req q.slot).voidrun = 0 ∧ (t.req q.slot).state = .decode ∧
          (t.req q.slot).unsent.map (fun o => (o.pos, o.tok, o.flag)) =
            (s.req q.slot).unsent.map (fun o => (o.pos, o.tok, o.flag)) ++ q.tokens.zipIdx.map (fun e => (q.firstPos + e.2, e.1.1, e.1.2)) ∧
          (q.tokens ≠ [] → .tokens q.slot ∈ t.rqt.egress) ∧ t.regs = s.regs) ∧
      (∀ c, q.code = some c → s.sched.running = true →
        ∃ t, exec (.returnRecord q) s = .next t ∧ (t.req q.slot).lC = q.newLC ∧ (t.req q.slot).state = .draining ∧
          (t.req q.slot).code = c) ∧
      (q.newLC = (s.req q.slot).lC → q.row0Void = true → q.code = none → (s.req q.slot).voidrun = 4 → s.sched.running = true →
        ∃ t, exec (.returnRecord q) s = .next t ∧ (t.req q.slot).state = .draining ∧ (t.req q.slot).code = 0x20)) ∧
    ((s.req q.slot).gen ≠ q.gen →
      exec (.returnRecord q) s = .next { s with rqt := { s.rqt with returns := s.rqt.returns.erase q } }))

/-- EGRESS_SLOT completes. Outside chrysalis mode, the attachment router working and the ring open to DMA. Waiting records no more than the slot's capacity and the free entries of the ring are all written in order, each
into the next entry with the bytes of its index, and the producer index moves by their number. With no free entry nothing is written, the index
stays, the record waits and the stall is counted and flagged. -/
def Sys2Proof.Machine.EgressWritesInOrder : Prop :=
  ∀ (s : State) (r : RingPair), s.ring = some r → s.fld GLB_STATE_STATE ≠ 2 → r.nEg < 2 ^ 32 →
    s.cutOff r.region = false → s.dma r.egAddr (64 * r.nEg) = true →
    (∀ es : List EgRec, s.rqt.egress = es.map EgItem.record → es.length ≤ r.egCap →
      (s.fld RQT_EG_IDX_INDEX + 2 ^ 32 - s.fld RQT_EG_CREDIT_INDEX) % 2 ^ 32 + es.length ≤ r.nEg →
      ∃ t, exec .egressSlot s = .next t ∧ t.rqt.egress = [] ∧
        t.fld RQT_EG_IDX_INDEX = (s.fld RQT_EG_IDX_INDEX + es.length) % 2 ^ 32 ∧
        (∀ k e, es[k]? = some e → ((s.fld RQT_EG_IDX_INDEX + k) % 2 ^ 32 % max r.nEg 1,
          e.bytes ((s.fld RQT_EG_IDX_INDEX + k) % 2 ^ 32) r.nEg) ∈ t.rqt.written) ∧
        t.rqt.table = s.rqt.table ∧ regsKept s t [RQT_EG_IDX_INDEX.addr]) ∧
    (∀ e : EgRec, s.rqt.egress = [.record e] →
      r.nEg ≤ (s.fld RQT_EG_IDX_INDEX + 2 ^ 32 - s.fld RQT_EG_CREDIT_INDEX) % 2 ^ 32 →
      ∃ t, exec .egressSlot s = .next t ∧ t.rqt.egress = [.record e] ∧ t.rqt.written = s.rqt.written ∧
        t.fld RQT_EG_IDX_INDEX = s.fld RQT_EG_IDX_INDEX ∧ t.fld RQT_FLAG_EG_STALL = 1 ∧
        t.fld RQT_EG_STALL_COUNT = min (s.fld RQT_EG_STALL_COUNT + 1) RQT_EG_STALL_COUNT.top)

/-- SAMPLING and EGRESS_SLOT complete: the largest logit is drawn; records are written in order. -/
def Obligations.SamplingAndEgress : Prop := SamplingDrawsGreedily ∧ EgressWritesInOrder

/-- INTAKE_EN_WRITE, MC_OPEN_INTAKE, MC_CLOSE_INTAKE and SLOT_FREE complete. A write of RQT_CTRL that passes the gates sets INTAKE_EN to the written bit while the seal is open, and leaves it under the seal.
While the endpoint is up, the controller's opening leaves INTAKE_EN at 1, whatever the seal; on an entry module in step 9 whose sequencers run it completes
the start: STEP 10, STATE 1. Closing leaves INTAKE_EN at 0. A slot that ended becomes FREE at its boundary or after it, with its generation kept and nothing else,
and before it nothing changes. -/
def Sys2Proof.Machine.IntakeOpensAndSlotsFree : Prop :=
  ∀ s : State,
    (∀ (w : Wr) (r : RegDef), regAt RQT_CTRL_INTAKE_EN.addr = some r → writeReaches s w RQT_CTRL_INTAKE_EN.addr r = true →
      s.fld GLB_STATE_STATE ≠ 0 ∨ 5 ≤ s.fld GLB_STATE_STEP →
      ∃ t, exec (.intakeEnWrite w) s = .next t ∧
        t.fld RQT_CTRL_INTAKE_EN = if s.isSet GLB_LOCK_CFG_SEAL then s.fld RQT_CTRL_INTAKE_EN else wbits w.data RQT_CTRL_INTAKE_EN) ∧
    (s.mgmtUp = true → s.fld GLB_STATE_STATE ≠ 0 ∨ 5 ≤ s.fld GLB_STATE_STEP →
      (∃ t, exec .mcOpenIntake s = .next t ∧ t.fld RQT_CTRL_INTAKE_EN = 1 ∧ t.rqt = s.rqt ∧
        (s.fld GLB_STATE_STATE = 0 → s.fld GLB_STATE_STEP = 9 → s.sched.running = true →
          t.fld GLB_STATE_STEP = 10 ∧ t.fld GLB_STATE_STATE = 1)) ∧
      (∃ t, exec .mcCloseIntake s = .next t ∧ t.fld RQT_CTRL_INTAKE_EN = 0 ∧ t.rqt = s.rqt)) ∧
    (∀ slot b, (s.req slot).freeAt = some b → (s.req slot).state = .done ∨ (s.req slot).state = .cancelled →
      (rodAfter s.tb.rod b = false →
        ∃ t, exec (.slotFree slot) s = .next t ∧ t.req slot = { Req.empty with gen := (s.req slot).gen } ∧
          (∀ k, k ≠ slot → t.req k = s.req k) ∧ t = { s with rqt := { s.rqt with table := t.rqt.table } }) ∧
      (rodAfter s.tb.rod b = true → exec (.slotFree slot) s = .next s))

/-- INTAKE_POLL, INTAKE_EN_WRITE, MC_OPEN_INTAKE, MC_CLOSE_INTAKE and SLOT_FREE complete. -/
def Obligations.IntakePollAndOpening : Prop := IntakePollTakesPresentRecords ∧ IntakeOpensAndSlotsFree

/-! ### Weights, epochs and adapters (R346 to R373) -/

/-- A command makes the running load fail with a code (R356). -/
def Sys2Proof.Machine.loadFailedAs (s : State) (c : Instr) (code : Nat) : Prop :=
  ∃ t, exec c s = .next t ∧ t.fld LD_STAT_FAILED = 1 ∧ t.fld LD_STAT_FAIL_CODE = code ∧
    t.fld LD_FAIL_CNT_COUNT = min (s.fld LD_FAIL_CNT_COUNT + 1) LD_FAIL_CNT_COUNT.top ∧ t.weights.load = s.weights.paused

/-- MC_LOAD_COMMAND, LD_START and LD_ABORT complete, the writes where they pass the gates of LD_CTRL. START while no load runs starts the load of the manifest at the address and length of the LD_MAN
registers: BUSY 1, both done counts 0, no manifest yet; a command of the management controller does the same with its own address and length. While a load
runs, START changes no load, and ABORT makes it fail with code 0x0F and frees every tier it took that is not failed. -/
def Sys2Proof.Machine.LoadsStartAndAbort : Prop :=
  ∀ s : State,
    (s.isSet LD_STAT_BUSY = false → s.mgmtUp = true → ∀ (addr : BitVec 64) (len : Nat),
      ∃ t l, exec (.mcLoadCommand addr len) s = .next t ∧ t.weights.load = some l ∧ l.addr = addr.toNat ∧ l.len = len ∧ l.man = none ∧
        l.tiles = [] ∧ t.fld LD_STAT_BUSY = 1 ∧ t.fld LD_CHUNK_DONE_COUNT = 0 ∧ t.fld LD_TILE_DONE_COUNT = 0 ∧
        regsKept s t [LD_STAT_BUSY.addr, LD_CHUNK_DONE_COUNT.addr, LD_TILE_DONE_COUNT.addr]) ∧
    (∀ (w : Wr) (r : RegDef), regAt LD_CTRL_START.addr = some r → writeReaches s w LD_CTRL_START.addr r = true →
      (s.isSet LD_STAT_BUSY = false → wbits w.data LD_CTRL_START = 1 →
        ∃ t l, exec (.ldStart w) s = .next t ∧ t.weights.load = some l ∧ l.len = s.fld LD_MAN_LEN_VALUE ∧
          l.addr = s.fld LD_MAN_LO_VALUE + 2 ^ 32 * s.fld LD_MAN_HI_VALUE ∧ l.man = none ∧ l.tiles = [] ∧ t.fld LD_STAT_BUSY = 1) ∧
      (s.isSet LD_STAT_BUSY = true → wbits w.data LD_CTRL_ABORT = 0 → ∃ t, exec (.ldStart w) s = .next t ∧ t.weights = s.weights) ∧
      (∀ l, s.isSet LD_STAT_BUSY = true → wbits w.data LD_CTRL_ABORT = 1 → s.weights.load = some l →
        loadFailedAs s (.ldAbort w) 0x0F ∧
        ∀ t, exec (.ldAbort w) s = .next t → ∀ x ∈ l.tiles, ∀ k, x.tier = some k → (s.tier x.core x.eng k).role ≠ 7 →
          (t.tier x.core x.eng k).role = 0))

/-- CHUNK_ARRIVAL completes. With a load running and room in the staging extents. A fetch that failed, or whose private window DMA does not reach, is tried again, and the fourth failure makes the load fail with 0x0C. A
manifest of the wrong form fails it with 0x03, one with a key the image lacks with 0x02, one whose signature does not verify with 0x01. A chunk fails it with 0x0B
without the weight key, with 0x04 where its tag is wrong and with 0x05 where its hash is wrong. A good chunk before the last one is counted, and its text and
staged records join the load. -/
def Sys2Proof.Machine.FetchedPartsAreChecked : Prop :=
  ∀ (s : State) (l : Load), s.weights.load = some l → l.tiles.countP (fun t => !t.done) < s.boot.image.stageTiles →
    (∀ d, s.fetched l d = .failed →
      (l.attempts < 3 → ∃ t, exec (.chunkArrival d) s = .next t ∧ t.weights.load = some { l with attempts := l.attempts + 1 } ∧
        t.regs = s.regs) ∧
      (3 ≤ l.attempts → loadFailedAs s (.chunkArrival d) 0x0C)) ∧
    (∀ b ok, l.man = none → (∀ d, s.fetched l d = d) →
      (parseManifest b = none → loadFailedAs s (.chunkArrival (.manifest b ok)) 0x03) ∧
      (∀ m, parseManifest b = some m → b.length = l.len →
        (s.boot.image.pubKeys ≤ m.pubKey → loadFailedAs s (.chunkArrival (.manifest b ok)) 0x02) ∧
        (m.pubKey < s.boot.image.pubKeys → ok = false → loadFailedAs s (.chunkArrival (.manifest b ok)) 0x01))) ∧
    (∀ m h p, l.man = some m → l.chunk < m.nChunk → (∀ d, s.fetched l d = d) →
      (s.isSet SEC_STAT_KEY_RELEASED = false → ∀ tok hok, loadFailedAs s (.chunkArrival (.chunk h p tok hok)) 0x0B) ∧
      (s.isSet SEC_STAT_KEY_RELEASED = true →
        (chunkPlain m l.chunk h p true true ≠ .inl 0x03 →
          (∀ hok, loadFailedAs s (.chunkArrival (.chunk h p false hok)) 0x04) ∧ loadFailedAs s (.chunkArrival (.chunk h p true false)) 0x05) ∧
        (∀ plain ts, chunkPlain m l.chunk h p true true = .inr plain → l.chunk + 1 < m.nChunk →
          (s.add LD_CHUNK_DONE_COUNT 1).stageRecs l m (splitRecs ((l.stream ++ plain).length + 1) (l.stream ++ plain)).1 [] = .inr ts →
          ∃ t x, exec (.chunkArrival (.chunk h p true true)) s = .next t ∧ t.weights.load = some x ∧ x.chunk = l.chunk + 1 ∧
            x.tiles = l.tiles ++ ts ∧ x.stream = (splitRecs ((l.stream ++ plain).length + 1) (l.stream ++ plain)).2 ∧
            t.fld LD_CHUNK_DONE_COUNT = min (s.fld LD_CHUNK_DONE_COUNT + 1) LD_CHUNK_DONE_COUNT.top)))

/-- MC_LOAD_COMMAND, LD_START, LD_ABORT and CHUNK_ARRIVAL complete. -/
def Obligations.LoadsAndFetches : Prop := LoadsStartAndAbort ∧ FetchedPartsAreChecked

/-- PROGRAM_STEP completes. With a load running and a staged tile of the engine waiting, the core's domain on, the core's sequencer stopped or a program window
of the engine placed, and no injection armed. A tile's first step, outside a load variant,
takes the lowest free tier with fewer than 100,000 programs, which becomes programming. On a tier that is programming: the engine has no live tier; a
step whose verify fails is repeated, a row that verifies passes to the next row, the row that fails its eighth step twice fails the tier and the load with 0x09 and is
recorded as a fault; and the last row leaves the tier with the tile's epoch and role and one more program. -/
def Obligations.ProgramStepsFillATier : Prop :=
  ∀ (s : State) (c : CoreId) (e : EngId) (l : Load) (k : Nat) (x : StagedTile), s.weights.load = some l → s.domainOff c = false →
    (s.coreRunning c = false ∨ s.placed c (.engine e) .program = true) → s.faults.armed = none → l.tiles.findIdx (fun t => decide (t.core = c.val ∧ t.eng = e.val) && !t.done) = k → l.tiles[k]? = some x → x.forced = 0 →
    (∀ v f, x.tier = none → s.loadVariant = false → x.step < 7 → x.row = 0 →
      ((List.range 8).filter (fun k => (s.tier c e k).role = 0)).filter (fun k => (s.tier c e k).progCount < 100000) = f :: v →
      ∃ t y, exec (.programStep c e false) s = .next t ∧ (t.tier c e f).role = 6 ∧ (t.tier c e f).progCount = (s.tier c e f).progCount ∧
        (t.tier c e f).tile = some x.num ∧ (t.weights.load.map Load.tiles) = some (l.tiles.set k y) ∧ y.tier = some f ∧
        t.fldAt (engI c e) ENG_STAT_LIVE = 0 ∧ t.fldAt (engI c e) ENG_STAT_PROG_TIER = f) ∧
    (∀ q, q < 8 → x.tier = some q → (s.tier c e q).role = 6 →
      (x.step < 7 →
        ∃ t, exec (.programStep c e false) s = .next t ∧ t.weights.load = some { l with tiles := l.tiles.set k { x with step := x.step + 1 } } ∧
          t.fldAt (engI c e) ENG_STAT_LIVE = 0 ∧ regsKept s t [ENG_STAT_LIVE.addr + engI c e]) ∧
      (x.row + 1 < 1025 + Config.metaRows.val →
        ∃ t, exec (.programStep c e true) s = .next t ∧
          t.weights.load = some { l with tiles := l.tiles.set k { x with row := x.row + 1, step := 0, retried := false } } ∧
          t.fldAt (engI c e) ENG_STAT_LIVE = 0 ∧ regsKept s t [ENG_STAT_LIVE.addr + engI c e]) ∧
      (7 ≤ x.step → x.retried = true →
        loadFailedAs s (.programStep c e false) 0x09 ∧
        ∀ t, exec (.programStep c e false) s = .next t → (t.tier c e q).role = 7 ∧ t.faults.log.head?.map FaultRec.det = some 0x20) ∧
      (∀ d, 1025 + Config.metaRows.val ≤ x.row + 1 → s.faults.repairs = [] →
        s.boot.image.tiles.find? (fun d => decide (some d.core = s.logicalOf c) && decide (d.engine = x.eng ∧ d.num = x.num ∧ d.standby = x.copy)) = some d →
        s.boot.image.isCorpus d.core d.engine d.num = false →
        ∃ t, exec (.programStep c e true) s = .next t ∧ (t.tier c e q).progCount = (s.tier c e q).progCount + 1 ∧
          (t.tier c e q).role = x.role ∧ (t.tier c e q).epoch = x.epoch ∧ (t.tier c e q).tile = some d.num ∧
          (t.tier c e q).bits = d.bits))

/-- A flip to the pending epoch can be named: no PREV tier, no flip named, a pending epoch, and its message not seen yet (R360, R361). -/
def Sys2Proof.Machine.flipNamable (s : State) : Prop :=
  s.prevHeld = false ∧ s.weights.flip = none ∧ s.fld LD_EPOCH_PEND_EPOCH ≠ 0 ∧
    (⟨6, s.self.1, s.self.2, s.datedMile % 65536, s.fld LD_EPOCH_PEND_EPOCH⟩ : SbMsg) ∉ s.fab.seen

/-- SB_EPOCH, MC_NAME_FLIP and LD_FLIP_REQ complete. With no PREV tier, no flip named and an EPOCH message that is new: the flip stands for the second mile after the message's, with the message's
epoch, whether the message comes over the sideband, or the flip to the pending epoch is named by the management controller or by a write of LD_FLIP. While PREV tiers
exist a naming sets LD_FLIP_STAT.REFUSED and a received message is only counted as ignored. A message that has been seen changes nothing. -/
def Obligations.FlipsAreNamedForTheirMile : Prop :=
  ∀ s : State,
    (∀ m : SbMsg, m.kind = 6 →
      (m ∈ s.fab.seen → exec (.sbEpoch m) s = .next s) ∧
      (m ∉ s.fab.seen → s.prevHeld = true →
        ∃ t, exec (.sbEpoch m) s = .next t ∧ t.weights = { s.weights with ignored := s.weights.ignored + 1 }) ∧
      (m ∉ s.fab.seen → s.prevHeld = false → s.weights.flip = none →
        ∃ t, exec (.sbEpoch m) s = .next t ∧ t.weights.flip = some ((nearestMile s.mileNow m.mile + 2) % mileP, m.data) ∧
          t.fld LD_FLIP_STAT_PENDING = 1 ∧ t.tiers = s.tiers)) ∧
    (s.mgmtUp = true → s.prevHeld = true →
      ∃ t, exec .mcNameFlip s = .next t ∧ t.fld LD_FLIP_STAT_REFUSED = 1 ∧ t.weights = s.weights) ∧
    (s.mgmtUp = true → flipNamable s →
      ∃ t, exec .mcNameFlip s = .next t ∧
        t.weights.flip = some ((nearestMile s.mileNow (s.datedMile % 65536) + 2) % mileP, s.fld LD_EPOCH_PEND_EPOCH) ∧
        t.fld LD_FLIP_STAT_PENDING = 1 ∧ t.tiers = s.tiers) ∧
    (∀ (w : Wr) (r : RegDef), regAt LD_FLIP_REQ.addr = some r → writeReaches s w LD_FLIP_REQ.addr r = true → wbits w.data LD_FLIP_REQ = 1 →
      (s.prevHeld = true → ∃ t, exec (.ldFlipReq w) s = .next t ∧ t.fld LD_FLIP_STAT_REFUSED = 1 ∧ t.weights = s.weights) ∧
      (flipNamable s →
        ∃ t, exec (.ldFlipReq w) s = .next t ∧
          t.weights.flip = some ((nearestMile s.mileNow (s.datedMile % 65536) + 2) % mileP, s.fld LD_EPOCH_PEND_EPOCH) ∧
          t.fld LD_FLIP_STAT_PENDING = 1 ∧ t.tiers = s.tiers))

/-- A TYPE 7 record is well formed for this image (R369). -/
def Sys2Proof.Machine.adLoadOk (s : State) (raw : List Byte) : Bool :=
  decide (raw.length = 128 ∧ recByte raw 0 = 7 ∧ recByte raw 1 ≤ 3 ∧ fieldLE raw 4 2 ≠ 0) && zeroBytes raw 2 4 && zeroBytes raw 20 32 &&
    zeroBytes raw 40 124 && decide (8 * 2 ^ recByte raw 1 ≤ s.boot.image.adapters.rMax)

/-- A TYPE 8 record is well formed (R369). -/
def Sys2Proof.Machine.adDropOk (raw : List Byte) : Bool :=
  decide (raw.length = 128 ∧ recByte raw 0 = 8 ∧ fieldLE raw 4 2 ≠ 0) && zeroBytes raw 1 4 && zeroBytes raw 6 8 && zeroBytes raw 20 124

/-- A command is answered at once by a KIND 3 record of a code, and changes no slot. -/
def Sys2Proof.Machine.adAnswered (s : State) (c : Instr) (code : Nat) : Prop :=
  ∃ t e, exec c s = .next t ∧ t.rqt.egress = s.rqt.egress ++ [.record e] ∧ e.kind = 3 ∧ e.code = code ∧ t.weights = s.weights ∧ t.regs = s.regs

/-- ADAPTER_LOAD and ADAPTER_DROP complete. On the entry module. A malformed load is answered with code 1, one whose identifier already has a version as new with code 4, one without a free
slot with code 2. Otherwise the first free slot of the region's share is taken, with LOAD and SWITCH boundaries, and the update is sent; no
register but ADP_SLOTS changes. A well-formed drop waits for the second furlong boundary, and a malformed one is answered with code 1. -/
def Sys2Proof.Machine.AdaptersAreAcceptedOrAnswered : Prop :=
  ∀ (s : State) (raw : List Byte), s.boot.image.entry = true →
    (adLoadOk s raw = false → adAnswered s (.adapterLoad raw) 1) ∧
    (adLoadOk s raw = true →
      (∀ k, s.currentAdapter (fieldLE raw 4 2) (fieldLE raw 16 4) = some k → fieldLE raw 6 2 ≤ (s.adSlot k).ver →
        adAnswered s (.adapterLoad raw) 4) ∧
      (∀ cur, s.currentAdapter (fieldLE raw 4 2) (fieldLE raw 16 4) = cur → (∀ k, cur = some k → (s.adSlot k).ver < fieldLE raw 6 2) →
        ((∀ k ∈ s.slotShare, s.adFree k = false) → adAnswered s (.adapterLoad raw) 2) ∧
        (∀ k, s.slotShare.find? (fun k => s.adFree k) = some k →
          ∃ t l, exec (.adapterLoad raw) s = .next t ∧ t.weights.adLoads = s.weights.adLoads ++ [l] ∧ l.slot = k ∧ l.ident = fieldLE raw 4 2 ∧
            l.ver = fieldLE raw 6 2 ∧ l.base = fieldLE raw 16 4 ∧ l.rank = 8 * 2 ^ recByte raw 1 ∧ l.loadAt = furlongAfter s.tb.rod 2 ∧
            l.switchAt = furlongAfter s.tb.rod (3 + s.boot.image.adapters.lAd) ∧
            t.rqt.updates = s.rqt.updates ++ [⟨.adapterLoad, furlongAfter s.tb.rod 2, k, 0, fieldLE raw 4 2⟩] ∧
            regsKept s t [ADP_SLOTS_FREE.addr]))) ∧
    (adDropOk raw = false → adAnswered s (.adapterDrop raw) 1) ∧
    (adDropOk raw = true →
      ∃ t d, exec (.adapterDrop raw) s = .next t ∧ t.weights.adDrops = s.weights.adDrops ++ [d] ∧ d.ident = fieldLE raw 4 2 ∧
        d.base = fieldLE raw 16 4 ∧ d.atRod = furlongAfter s.tb.rod 2 ∧
        t.rqt.updates = s.rqt.updates ++ [⟨.adapterDrop, furlongAfter s.tb.rod 2, 8192, 0, fieldLE raw 4 2⟩] ∧ t.regs = s.regs)

/-- ADAPTER_PART_FETCH, ADAPTER_SWITCH and ADAPTER_SLOT_FREE complete. A slot that is loading: the last good chunk of its part makes it ready, counted, with the load's identifier, version and base at the slot's
address; a failed fetch is tried again and the fourth failure makes the slot faulty, or starts the part over where a lost line had it fetched again; a failure elsewhere marks the load. At or after its boundary a switch of a
load that has not failed makes the identifier name the slot, and answers code 0. At or after its boundary a slot that nothing pins or names becomes free. -/
def Sys2Proof.Machine.AdapterPartsSwitchAndFree : Prop :=
  ∀ (s : State) (k : Nat),
    (∀ l, s.weights.adLoads.find? (fun l => l.slot = k) = some l →
      ((s.adSlot k).state = 1 →
        (∀ m h p plain, l.man = some m → l.chunk + 1 = m.nChunk → s.isSet SEC_STAT_KEY_RELEASED = true →
          chunkPlain m l.chunk h p true true = .inr plain → 10 ≤ s.boot.image.adapters.slotBytes →
          ∃ t, exec (.adapterPartFetch k (.own (.chunk h p true true))) s = .next t ∧ (t.adSlot k).state = 2 ∧
            t.stackRead (s.slotAddr k) 8 = leBytes 2 l.ident ++ leBytes 2 l.ver ++ leBytes 4 l.base ∧
            t.fld ADP_LOAD_CNT_COUNT = min (s.fld ADP_LOAD_CNT_COUNT + 1) ADP_LOAD_CNT_COUNT.top ∧
            (∀ a, a < s.slotAddr k ∨ s.slotAddr k + s.boot.image.adapters.slotBytes ≤ a →
              SMap.get (fun _ => (0 : Byte)) t.mem.stack a = SMap.get (fun _ => (0 : Byte)) s.mem.stack a)) ∧
        (l.attempts < 3 → ∃ t, exec (.adapterPartFetch k (.own .failed)) s = .next t ∧
          { l with attempts := l.attempts + 1 } ∈ t.weights.adLoads ∧ t.regs = s.regs ∧ t.mem = s.mem) ∧
        (3 ≤ l.attempts → l.reload = false → ∃ t, exec (.adapterPartFetch k (.own .failed)) s = .next t ∧ (t.adSlot k).state = 3 ∧
          { l with failed := true } ∈ t.weights.adLoads) ∧
        (3 ≤ l.attempts → l.reload = true → ∃ t, exec (.adapterPartFetch k (.own .failed)) s = .next t ∧
          { l with man := none, chunk := 0, attempts := 0, stream := [] } ∈ t.weights.adLoads ∧ t.regs = s.regs) ∧
        (∃ t, exec (.adapterPartFetch k (.other true)) s = .next t ∧ { l with failed := true } ∈ t.weights.adLoads ∧ t.mem = s.mem)) ∧
      (l.failed = false → rodAfter s.tb.rod l.switchAt = false → s.isCurrent k = false →
        ∃ t e, exec (.adapterSwitch k) s = .next t ∧ t.currentAdapter l.ident l.base = some k ∧
          t.rqt.egress = s.rqt.egress ++ [.record e] ∧ e.kind = 3 ∧ e.code = 0 ∧ e.handle = l.handle ∧ regsKept s t [ADP_SLOTS_FREE.addr])) ∧
    (∀ b, (s.adSlot k).freeAt = some b →
      (rodAfter s.tb.rod b = false → s.pinCount k = 0 → s.isCurrent k = false →
        ∃ t, exec (.adapterSlotFree k) s = .next t ∧ t.adSlot k = AdSlot.empty ∧ (∀ j, j ≠ k → t.adSlot j = s.adSlot j) ∧
          regsKept s t [ADP_SLOTS_FREE.addr]) ∧
      (rodAfter s.tb.rod b = true ∨ s.pinCount k ≠ 0 ∨ s.isCurrent k = true → exec (.adapterSlotFree k) s = .next s))

/-- ADAPTER_LOAD, ADAPTER_DROP, ADAPTER_PART_FETCH, ADAPTER_SWITCH and ADAPTER_SLOT_FREE complete. -/
def Obligations.AdaptersAndParts : Prop := AdaptersAreAcceptedOrAnswered ∧ AdapterPartsSwitchAndFree

/-! ### Attestation, keys and the host interface's trust (R375 to R394) -/

/-- HALLMARK_REQ completes. While the endpoint runs, a request with a 48-byte nonce is answered by one report of 704 bytes: it begins with the magic word and the die's
identifier, bytes 16 to 63 are the nonce, its signature covers its first 608 bytes; the report is counted, and the nonce is kept, of the last four. A nonce of another length is not
answered and changes nothing. -/
def Sys2Proof.Machine.HallmarkReportsAnswerTheirNonce : Prop :=
  ∀ (s : State) (nonce : List Byte), s.isSet SEC_STAT_RUNNING = true →
    (nonce.length = 48 →
      ∃ t b, exec (.hallmarkReq nonce) s = .next t ∧ t.sec.sent = ⟨1, 0, b⟩ :: s.sec.sent ∧ b.length = 704 ∧ fieldLE b 0 4 = 0x4D485154 ∧
        fieldLE b 8 8 = Config.dieId.toNat ∧ (b.drop 16).take 48 = nonce ∧ b.drop 608 = fitBytes 96 (Config.signDie (b.take 608)) ∧
        t.fld SEC_REPORT_CNT_COUNT = min (s.fld SEC_REPORT_CNT_COUNT + 1) SEC_REPORT_CNT_COUNT.top ∧
        t.sec.nonces = ((nonce, s.sec.clockRods) :: s.sec.nonces).take 4 ∧ regsKept s t [SEC_REPORT_CNT_COUNT.addr] ∧
        t = { s with regs := t.regs, sec := t.sec, freeCtr := t.freeCtr }) ∧
    (nonce.length ≠ 48 → exec (.hallmarkReq nonce) s = .next s)

/-- A key release is refused with a code: shown, counted and answered, and no key changes. -/
def Sys2Proof.Machine.releaseRefused (s : State) (o : List Byte) (c : ReleaseCheck) (code : Nat) : Prop :=
  ∃ t b, exec (.keyRelease o c) s = .next t ∧ t.fld SEC_REL_STAT_LAST_CODE = code ∧
    t.fld SEC_REL_REFUSE_COUNT = min (s.fld SEC_REL_REFUSE_COUNT + 1) SEC_REL_REFUSE_COUNT.top ∧
    t.sec = { s.sec with sent := ⟨3, code, b⟩ :: s.sec.sent } ∧ regsKept s t [SEC_REL_STAT_LAST_CODE.addr, SEC_REL_REFUSE_COUNT.addr]

/-- The form of a release object (check 1 of R385). -/
def Sys2Proof.Machine.releaseForm (s : State) (o : List Byte) : Prop :=
  o.length = 320 ∧ fieldLE o 0 4 = 0x4C525154 ∧ fieldLE o 4 2 = 1 ∧ fieldLE o 7 1 = 0 ∧ fieldLE o 220 4 = 0 ∧
    fieldLE o 6 1 < s.boot.image.authKeys

/-- KEY_RELEASE and UNSEAL_COMPLETE complete. While the endpoint runs. Before step 6 or in chrysalis mode a release is refused with 8; after one accepted since reset with 7; otherwise the first failing
check refuses it: its form 1, its signature 2, a nonce of none of the last four reports within 2^24 rods 3, the model 4, the curve point or the tag 5, the key check value 6. One that
passes all installs the key: KEY_RELEASED 1, code 0, unsealing begun. At the end of an unsealing UNSEALED is 1, the tiers whose scale rows fail are bad, and every sound tier with an epoch has its row map. -/
def Sys2Proof.Machine.KeyReleasesAreChecked : Prop :=
  (∀ (s : State) (o : List Byte) (c : ReleaseCheck), s.isSet SEC_STAT_RUNNING = true →
    (s.fld GLB_STATE_STEP < 6 ∨ s.fld GLB_STATE_STATE = 2 → releaseRefused s o c 8) ∧
    (6 ≤ s.fld GLB_STATE_STEP → s.fld GLB_STATE_STATE ≠ 2 →
      (s.sec.accepted = true → releaseRefused s o c 7) ∧
      (s.sec.accepted = false →
        (¬ releaseForm s o → releaseRefused s o c 1) ∧
        (releaseForm s o →
          (c.sigOk = false → releaseRefused s o c 2) ∧
          (c.sigOk = true → (∀ n ∈ s.sec.nonces, n.1 = (o.drop 16).take 48 → n.2 + 2 ^ 24 < s.sec.clockRods) → releaseRefused s o c 3) ∧
          (∀ n ∈ s.sec.nonces, n.1 = (o.drop 16).take 48 → s.sec.clockRods ≤ n.2 + 2 ^ 24 → c.sigOk = true →
            (fieldLE o 8 8 ≠ s.boot.image.model → releaseRefused s o c 4) ∧
            (fieldLE o 8 8 = s.boot.image.model →
              (c.onCurve = false ∨ c.tagOk = false → releaseRefused s o c 5) ∧
              (c.onCurve = true → c.tagOk = true →
                (keyCheck c.key ≠ s.boot.image.wkcv → releaseRefused s o c 6) ∧
                (keyCheck c.key = s.boot.image.wkcv →
                  ∃ t, exec (.keyRelease o c) s = .next t ∧ t.fld SEC_REL_STAT_LAST_CODE = 0 ∧ t.fld SEC_STAT_KEY_RELEASED = 1 ∧
                    t.sec.weightKey = some c.key ∧ t.sec.accepted = true ∧ t.sec.unsealing = true ∧ t.sec.releaseKey = false)))))))) ∧
  (∀ s : State, s.sec.unsealing = true →
    ∀ badRows : List (CoreId × EngId × TierId),
    ∃ t, exec (.unsealComplete badRows) s = .next t ∧ t.fld SEC_STAT_UNSEALED = 1 ∧ t.sec.unsealing = false ∧
      (∀ x ∈ badRows, (t.tier x.1 x.2.1 x.2.2).bad = true) ∧
      (∀ (core : CoreId) (eng : EngId) (k : TierId), (core, eng, k) ∉ badRows → (s.tier core eng k).bad = false →
        (s.tier core eng k).epoch ≠ 0 → (t.tier core eng k).mapped = true))

/-- HALLMARK_REQ, KEY_RELEASE and UNSEAL_COMPLETE complete: reports hold their nonce; releases are checked. -/
def Obligations.ReportsAndKeys : Prop := HallmarkReportsAnswerTheirNonce ∧ KeyReleasesAreChecked

/-- An outcome answers SPDM request n well, with a change of the security block, or with an error that changes nothing else. -/
def Sys2Proof.Machine.spdmAnswers (s : State) (o : Host.Outcome State Fault Refusal) (n : Nat) (ok : Bool) (f : Sec → Sec) : Prop :=
  (ok = true → ∃ t b, o = .next t ∧ t.sec = { f s.sec with sent := ⟨16 + n, 0, b⟩ :: s.sec.sent } ∧ t = { s with sec := t.sec }) ∧
  (ok = false → o = .next { s with sec := { s.sec with sent := ⟨16 + n, 1, []⟩ :: s.sec.sent } })

/-- GET_VERSION, GET_CAPABILITIES, NEGOTIATE_ALGORITHMS, GET_DIGESTS, GET_CERTIFICATE, CHALLENGE, GET_MEASUREMENTS, KEY_EXCHANGE, SPDM_FINISH, KEY_UPDATE, SPDM_HEARTBEAT and
END_SESSION complete. While the endpoint runs. GET_VERSION always restarts the connection; capabilities follow the version and algorithms the capabilities; digests, slot 0's certificate
and challenge, measurement indexes 0 to 6 and 255 and a key exchange without a session are answered once algorithms are negotiated; key updates 1 to 3, heartbeats and
END_SESSION in a session. The rest is answered with an error. A FINISH whose proof verifies after a key exchange opens the session, END_SESSION closes it, as
SEC_STAT.SPDM_SESSION shows. A digest is the hash of the chain, a certificate the part of it asked for. -/
def Obligations.SpdmFollowsItsPhases : Prop :=
  ∀ s : State, s.isSet SEC_STAT_RUNNING = true →
    spdmAnswers s (exec .getVersion s) 0 true (fun x => { x with spdm := .version }) ∧
    spdmAnswers s (exec .getCapabilities s) 1 (decide (s.sec.spdm = .version)) (fun x => { x with spdm := .capabilities }) ∧
    (∀ b, spdmAnswers s (exec (.negotiateAlgorithms b) s) 2 (decide (s.sec.spdm = .capabilities) && b) (fun x => { x with spdm := .algorithms })) ∧
    spdmAnswers s (exec .getDigests s) 3 (decide (s.sec.spdm = .algorithms)) id ∧
    (∀ k off len, spdmAnswers s (exec (.getCertificate k off len) s) 4 (decide (s.sec.spdm = .algorithms ∧ k = 0)) id) ∧
    (∀ k, spdmAnswers s (exec (.challenge k) s) 5 (decide (s.sec.spdm = .algorithms ∧ k = 0)) id) ∧
    (∀ k, spdmAnswers s (exec (.getMeasurements k) s) 6 (decide (s.sec.spdm = .algorithms ∧ (k ≤ 6 ∨ k = 255))) id) ∧
    (∀ k, spdmAnswers s (exec (.keyExchange k) s) 7 (decide (s.sec.spdm = .algorithms ∧ k = 0) && !s.sec.session) (fun x => { x with handshake := true })) ∧
    (∀ k, spdmAnswers s (exec (.keyUpdate k) s) 9 (s.sec.session && decide (1 ≤ k ∧ k ≤ 3))
      (fun x => { x with keyGen := if k = 3 then x.keyGen else x.keyGen + 1 })) ∧
    spdmAnswers s (exec .spdmHeartbeat s) 10 s.sec.session id ∧
    (s.sec.handshake = true →
      ∃ t, exec (.spdmFinish true) s = .next t ∧ t.sec.session = true ∧ t.sec.handshake = false ∧ t.fld SEC_STAT_SPDM_SESSION = 1 ∧
        t.sec.sent = ⟨24, 0, []⟩ :: s.sec.sent ∧ regsKept s t [SEC_STAT_SPDM_SESSION.addr]) ∧
    (∀ v, s.sec.handshake = false ∨ v = false →
      exec (.spdmFinish v) s = .next { s with sec := { s.sec with handshake := false, sent := ⟨24, 1, []⟩ :: s.sec.sent } }) ∧
    (s.sec.session = true →
      ∃ t, exec .endSession s = .next t ∧ t.sec.session = false ∧ t.fld SEC_STAT_SPDM_SESSION = 0 ∧
        t.sec.sent = ⟨27, 0, []⟩ :: s.sec.sent ∧ regsKept s t [SEC_STAT_SPDM_SESSION.addr]) ∧
    (s.sec.spdm = .algorithms → (∃ t, exec .getDigests s = .next t ∧ t.sec.sent.head?.map Answer.body = some (Config.sha384 s.chain)) ∧
      ∀ off len, ∃ t, exec (.getCertificate 0 off len) s = .next t ∧
        t.sec.sent.head?.map Answer.body = some ((s.chain.drop off).take len))

/-- LOCK_INTERFACE, START_INTERFACE, STOP_INTERFACE, FUNCTION_LEVEL_RESET, IDE_KM_KEY_PROGRAM and IDE_INTEGRITY_FAILURE complete. LOCK_INTERFACE in CONFIG_UNLOCKED after step 7 makes the TDI CONFIG_LOCKED, sets the guard and the seal; in another state it changes nothing. START_INTERFACE
takes it from there to RUN, and from nowhere else. STOP_INTERFACE and a function-level reset unlock it, and leave the seal, the keys and the tiers. In a session the keys of at most two
streams are programmed, shown in IDE_STREAMS; an integrity failure on such a stream counts and makes the TDI an error, on another it changes nothing. -/
def Sys2Proof.Machine.TdiStatesFollowTheirMessages : Prop :=
  ∀ s : State,
    (s.fld SEC_STAT_TDI_STATE = 0 → 7 ≤ s.fld GLB_STATE_STEP →
      ∃ t, exec .lockInterface s = .next t ∧ t.fld SEC_STAT_TDI_STATE = 1 ∧ t.sec.guard = true ∧ t.isSet GLB_LOCK_CFG_SEAL = true ∧
        regsKept s t [SEC_STAT_TDI_STATE.addr, GLB_LOCK_CFG_SEAL.addr] ∧ t = { s with regs := t.regs, sec := t.sec }) ∧
    (s.fld SEC_STAT_TDI_STATE ≠ 0 ∨ s.fld GLB_STATE_STEP < 7 → exec .lockInterface s = .next s) ∧
    (s.fld SEC_STAT_TDI_STATE = 1 →
      ∃ t, exec .startInterface s = .next t ∧ t.fld SEC_STAT_TDI_STATE = 2 ∧ regsKept s t [SEC_STAT_TDI_STATE.addr] ∧ t = { s with regs := t.regs }) ∧
    (s.fld SEC_STAT_TDI_STATE ≠ 1 → exec .startInterface s = .next s) ∧
    (∃ t, exec .stopInterface s = .next t ∧ t.fld SEC_STAT_TDI_STATE = 0 ∧ t.sec = { s.sec with guard := false } ∧
      regsKept s t [SEC_STAT_TDI_STATE.addr] ∧ t = { s with regs := t.regs, sec := t.sec }) ∧
    (∃ t, exec .functionLevelReset s = .next t ∧ t.fld SEC_STAT_TDI_STATE = 0 ∧ t.sec = { s.sec with guard := false } ∧
      regsKept s t [SEC_STAT_TDI_STATE.addr] ∧ t = { s with regs := t.regs, sec := t.sec }) ∧
    (∀ k, s.sec.session = true → k ∉ s.sec.ide → s.sec.ide.length < 2 →
      ∃ t, exec (.ideKmKeyProgram k) s = .next t ∧ t.sec = { s.sec with ide := s.sec.ide ++ [k] } ∧
        t.fld SEC_STAT_IDE_STREAMS = s.sec.ide.length + 1 ∧ regsKept s t [SEC_STAT_IDE_STREAMS.addr]) ∧
    (∀ k, (k ∈ s.sec.ide →
        ∃ t, exec (.ideIntegrityFailure k) s = .next t ∧ t.fld SEC_STAT_TDI_STATE = 3 ∧
          t.fld SEC_IDE_ERR_COUNT = min (s.fld SEC_IDE_ERR_COUNT + 1) SEC_IDE_ERR_COUNT.top ∧ t = { s with regs := t.regs }) ∧
      (k ∉ s.sec.ide → exec (.ideIntegrityFailure k) s = .next s))

/-- What entry into chrysalis mode leaves (R421). -/
def Sys2Proof.Machine.inChrysalis (t : State) (cause : Nat) : Prop :=
  t.fld GLB_STATE_STATE = 2 ∧ t.fld GLB_STATE_CAUSE = cause ∧ t.rqt.table = [] ∧ t.sec.weightKey = none ∧ t.fld SEC_STAT_KEY_RELEASED = 0 ∧
    t.fld SEC_STAT_UNSEALED = 0 ∧ t.fld SEC_STAT_TDI_STATE = 3 ∧ t.therm.divided = true ∧ t.tb.stopAtRod = true ∧
    ∀ core eng k, (t.tier core eng k).mapped = false

/-- SEC_WDOG_KICK, WATCHDOG_EXPIRY, MC_CHRYSALIS and CONTROL_CORE_BREACH complete. A kick from the control core restarts the interval. With the firmware running, an interval that has passed, not one shortened by injection, outside chrysalis mode, sets the
violation and enters chrysalis mode with cause 3: requests gone, keys erased, every row map gone, the TDI an error, the clock divided. The management controller's
command enters it with cause 4. A DMA or key access outside its bounds, a raised thermal limit, a host write beyond the bucket, and a table write while
admitted each set their flag and count; a host write within the bucket only takes its tokens. -/
def Sys2Proof.Machine.WatchdogAndBoundsHold : Prop :=
  ∀ s : State,
    (∀ (w : Wr) (r : RegDef), regAt SEC_WDOG_KICK.addr = some r → writeReaches s w SEC_WDOG_KICK.addr r = true → w.port = .controlCore →
      wbits w.data SEC_WDOG_KICK = 1 → s.faults.armed = none →
      ∃ t, exec (.secWdogKick w) s = .next t ∧ t.sec = { s.sec with wdog := 0, wdogLimit := 65536 } ∧ regsKept s t (SEC_WDOG_KICK.addr :: writeBooks)) ∧
    (s.fld GLB_STATE_STATE ≠ 2 →
      (s.boot.firmware = true → s.sec.wdogLimit = 65536 → 65536 ≤ s.sec.wdog →
        ∃ t, exec .watchdogExpiry s = .next t ∧ inChrysalis t 3 ∧ t.fld SEC_VIOL_WDOG = 1) ∧
      (s.mgmtUp = true → ∃ t, exec .mcChrysalis s = .next t ∧ inChrysalis t 4)) ∧
    (s.sec.wdog < s.sec.wdogLimit → exec .watchdogExpiry s = .next s) ∧
    (∀ (b : Breach) (f : Fld), (b, f) = (.dmaWindow, SEC_VIOL_DMA_WINDOW) ∨ (b, f) = (.keyAccess, SEC_VIOL_KEY_ACCESS) ∨
        (b, f) = (.thermalWrite, SEC_VIOL_THERMAL_WRITE) ∨ (∃ n, s.sec.bucket < n ∧ (b, f) = (.rate n, SEC_VIOL_RATE)) ∨
        (s.sched.admitted = true ∧ (b, f) = (.tableWrite, SEC_VIOL_TABLE_WRITE)) →
      ∃ t, exec (.controlCoreBreach b) s = .next t ∧ t.fld f = 1 ∧
        t.fld SEC_VIOL_CNT_COUNT = min (s.fld SEC_VIOL_CNT_COUNT + 1) SEC_VIOL_CNT_COUNT.top ∧ regsKept s t [f.addr, SEC_VIOL_CNT_COUNT.addr] ∧
        t = { s with regs := t.regs }) ∧
    (∀ n, n ≤ s.sec.bucket → exec (.controlCoreBreach (.rate n)) s = .next { s with sec := { s.sec with bucket := s.sec.bucket - n } })

/-- TDISP, IDE, FUNCTION_LEVEL_RESET, SEC_WDOG_KICK, WATCHDOG_EXPIRY, MC_CHRYSALIS and CONTROL_CORE_BREACH complete. -/
def Obligations.TdiAndWatchdog : Prop := TdiStatesFollowTheirMessages ∧ WatchdogAndBoundsHold

/-! ### Faults, patrol, trap sets and repair (R395 to R425) -/

/-- PATROL_SLOT and VECTOR_PATROL_SLOT complete. In a slot that the schedule places and with no injection armed. An array patrol slot of one beat, with no rerun due and one tier of the rotation left, of which the select is not refused, runs that
tier's next entry: the beat is counted and the rotation moves on. A vector entry that agrees moves to the next entry and counts nothing; one that differs is counted and is run
again; the rerun that agrees counts a transient; the rerun that differs is a fault of detector 9, counted as a silent error, and the core is to be fenced. -/
def Obligations.PatrolSlotsCheckTheirEntries : Prop :=
  ∀ (s : State) (core : CoreId), s.faults.armed = none →
    (∀ (eng : EngId) (tier : TierId) (k : Nat) (trims : List TrimAt), s.placed core (.engine eng) .patrol = true → s.rerunOf core eng = none → s.inUse core eng tier = true → s.nextEntry core eng tier = some k →
      (∀ j : TierId, j ≠ tier → s.nextEntry core eng j = none) → k < s.faults.traps.arr.length → s.selectBad core eng tier = false →
      ∃ t, exec (.patrolSlot core eng 1 false trims) s = .next t ∧
        t.fldAt (coreI core) PAT_BEAT_CNT_COUNT = min (s.fldAt (coreI core) PAT_BEAT_CNT_COUNT + 1) PAT_BEAT_CNT_COUNT.top ∧
        t.nextEntry core eng tier = (if k + 1 < s.faults.traps.arr.length then some (k + 1) else none) ∧ t.store = s.store) ∧
    (s.placed core .vector .patrol = true → 0 < s.faults.traps.vec.length →
      (SMap.get (fun _ => 0) s.faults.vecRerun core = 0 →
        (∃ t, exec (.vectorPatrolSlot core false) s = .next t ∧
          SMap.get (fun _ => 0) t.faults.vecNext core = (SMap.get (fun _ => 0) s.faults.vecNext core + 1) % s.faults.traps.vec.length ∧
          t = { s with faults := { s.faults with vecNext := t.faults.vecNext } }) ∧
        (∃ t, exec (.vectorPatrolSlot core true) s = .next t ∧
          SMap.get (fun _ => 0) t.faults.vecRerun core = SMap.get (fun _ => 0) s.faults.vecNext core + 1 ∧
          t.fldAt (coreI core) PAT_FAIL_CNT_COUNT = min (s.fldAt (coreI core) PAT_FAIL_CNT_COUNT + 1) PAT_FAIL_CNT_COUNT.top ∧
          regsKept s t [PAT_FAIL_CNT_COUNT.addr + coreI core])) ∧
      (SMap.get (fun _ => 0) s.faults.vecRerun core ≠ 0 →
        (∃ t, exec (.vectorPatrolSlot core false) s = .next t ∧ SMap.get (fun _ => 0) t.faults.vecRerun core = 0 ∧
          t.fldAt (coreI core) PAT_TRANSIENT_COUNT = min (s.fldAt (coreI core) PAT_TRANSIENT_COUNT + 1) PAT_TRANSIENT_COUNT.top ∧
          regsKept s t [PAT_TRANSIENT_COUNT.addr + coreI core]) ∧
        (∃ t, exec (.vectorPatrolSlot core true) s = .next t ∧ SMap.get (fun _ => 0) t.faults.vecRerun core = 0 ∧
          t.faults.log.head?.map FaultRec.det = some 9 ∧
          t.fldAt (coreI core) FLT_SE_CNT_COUNT = min (s.fldAt (coreI core) FLT_SE_CNT_COUNT + 1) FLT_SE_CNT_COUNT.top ∧
          (s.isSetAt (coreI core) CORE_STAT_FENCED = true ∨ t.faults.fences.any (fun f => f.1 = core) = true))))

/-- TRAP_LOAD and TRAP_SET_VERIFY_DONE complete. A write of TRAP_CTRL with LOAD, that passes the gates while no load runs, starts the load of the address and length registers: BUSY 1. The load's end leaves BUSY 0. With a fetch that
failed, bytes of another length, or an address in no request or weight window that DMA reaches FAIL_CODE is 4; otherwise with a bad signature 1, a bad form 3, and a version not above the one in force 2;
no set waits then. A newer set that passes waits for the second mile from now, and DONE is set; the set in force stays until then. -/
def Sys2Proof.Machine.TrapSetsAreLoadedAndVerified : Prop :=
  ∀ s : State,
    (∀ (w : Wr) (r : RegDef), regAt TRAP_CTRL_LOAD.addr = some r → writeReaches s w TRAP_CTRL_LOAD.addr r = true → wbits w.data TRAP_CTRL_LOAD = 1 →
      s.isSet TRAP_STAT_BUSY = false →
      ∃ t, exec (.trapLoad w) s = .next t ∧ t.fld TRAP_STAT_BUSY = 1 ∧
        t.faults.trapLoad = some (s.fld TRAP_ADDR_LO_VALUE + 2 ^ 32 * s.fld TRAP_ADDR_HI_VALUE, s.fld TRAP_LEN_VALUE) ∧
        regsKept s t (TRAP_STAT_BUSY.addr :: TRAP_CTRL_LOAD.addr :: writeBooks)) ∧
    (∀ addr len bytes sig inWin, s.faults.trapLoad = some (addr, len) →
      inWin = (s.dma addr len && (s.boot.image.rings.flatMap RingPair.windows ++ s.boot.image.weightWindows.map Prod.snd).any (fun w =>
        decide (w.1 ≤ addr) && decide (addr + len ≤ w.1 + w.2))) →
      (∀ f, f = false ∨ bytes.length ≠ len ∨ inWin = false →
        ∃ t, exec (.trapSetVerifyDone bytes sig f) s = .next t ∧ t.fld TRAP_STAT_FAILED = 1 ∧ t.fld TRAP_STAT_FAIL_CODE = 4 ∧
          t.fld TRAP_STAT_BUSY = 0 ∧ t.faults = { s.faults with trapLoad := none }) ∧
      (bytes.length = len → inWin = true →
        ∃ t, exec (.trapSetVerifyDone bytes sig true) s = .next t ∧ t.fld TRAP_STAT_BUSY = 0 ∧ t.faults.traps = s.faults.traps ∧
          regsKept s t [TRAP_STAT_BUSY.addr] ∧
          (sig = false → t.fld TRAP_STAT_FAIL_CODE = 1 ∧ t.faults.trapWait = s.faults.trapWait) ∧
          (sig = true → parseTraps bytes = none → t.fld TRAP_STAT_FAIL_CODE = 3 ∧ t.faults.trapWait = s.faults.trapWait) ∧
          (∀ x, sig = true → parseTraps bytes = some x →
            (x.version ≤ s.faults.traps.version → t.fld TRAP_STAT_FAIL_CODE = 2 ∧ t.faults.trapWait = s.faults.trapWait) ∧
            (s.faults.traps.version < x.version → t.fld TRAP_STAT_DONE = 1 ∧ t.faults.trapWait = some ((s.mileNow + 2) % mileP, x)))))

/-- REPAIR_STEP_DONE completes. For the repair of a logical core. Step 1 fetches its tiles, with LD_STAT.BUSY and any other load paused, unless another repair fetches already; it moves on when the fetch has staged
every tile the fenced core held, and again when all of them are programmed, with the paused load going on; after its first calibration the repair stands at step 4. A step that
fails asks for a fence of the spare, unless it is fenced already. -/
def Obligations.RepairsGoStepByStep : Prop :=
  ∀ (s : State) (n : Nat) (r : Repair), s.faults.repairs.find? (fun (r : Repair) => r.logical = n) = some r →
    (r.step = 0 → (∀ l, s.weights.load = some l → l.repair = none) →
      ∃ t l, exec (.repairStepDone n true) s = .next t ∧ t.weights.load = some l ∧ l.repair = some n ∧ l.tiles = [] ∧ t.fld LD_STAT_BUSY = 1 ∧
        (∀ x, s.weights.load = some x → t.weights.paused = some x) ∧ { r with step := 1 } ∈ t.faults.repairs ∧ regsKept s t [LD_STAT_BUSY.addr]) ∧
    (∀ l, s.weights.load = some l → l.repair = some n → (s.repairNeeds r.fenced).length ≤ l.tiles.length →
      (r.step = 1 → ∃ t, exec (.repairStepDone n true) s = .next t ∧ { r with step := 2 } ∈ t.faults.repairs ∧ t.weights = s.weights ∧ t.regs = s.regs) ∧
      (r.step = 2 → l.tiles.all (fun t => t.done) = true →
        ∃ t, exec (.repairStepDone n true) s = .next t ∧ { r with step := 3 } ∈ t.faults.repairs ∧ t.weights.load = s.weights.paused ∧
          t.isSet LD_STAT_BUSY = s.weights.paused.isSome)) ∧
    (r.step = 3 → ∃ t x, exec (.repairStepDone n true) s = .next t ∧ x ∈ t.faults.repairs ∧ x.logical = n ∧ x.step = 4) ∧
    (∃ t, exec (.repairStepDone n false) s = .next t ∧ t.faults.repairs = s.faults.repairs ∧ t.weights = s.weights ∧
      (s.isSetAt (coreI r.spare) CORE_STAT_FENCED = true ∨ t.faults.fences.any (fun f => f.1 = r.spare) = true))

/-- INJ_ARM completes. A write of INJ_CTRL that passes the gates, with ENABLE set before and after and ARM set: the point of INJ_SEL with its core, unit and argument is armed in place of any other, and INJ_STAT shows
it, but for the points 0x1A and 0x1F, which can act at once; a point of a core shows in that core's LINJ_STAT. With ENABLE 0 before and after, nothing is armed. -/
def Sys2Proof.Machine.InjectionArmsItsPoint : Prop :=
  ∀ (s : State) (w : Wr) (r : RegDef), regAt INJ_CTRL_ARM.addr = some r → writeReaches s w INJ_CTRL_ARM.addr r = true → wbits w.data INJ_CTRL_ARM = 1 →
    (s.fld INJ_CTRL_ENABLE = 1 → wbits w.data INJ_CTRL_ENABLE = 1 → s.fld INJ_SEL_POINT ≠ 0x1A → s.fld INJ_SEL_POINT ≠ 0x1F →
      ∃ t, exec (.injArm w) s = .next t ∧
        t.faults.armed = some ⟨s.fld INJ_SEL_POINT, s.fld INJ_SEL_CORE, s.fld INJ_SEL_UNIT, s.fld INJ_ARG_VALUE⟩ ∧ t.fld INJ_STAT_ARMED = 1 ∧
        (pointOnCore (s.fld INJ_SEL_POINT) = true → s.fld INJ_SEL_CORE < 800 →
          t.fldAt (coreI (s.fld INJ_SEL_CORE)) LINJ_STAT_ARMED = 1 ∧
          t.fldAt (coreI (s.fld INJ_SEL_CORE)) LINJ_STAT_POINT = s.fld INJ_SEL_POINT)) ∧
    (s.fld INJ_CTRL_ENABLE = 0 → wbits w.data INJ_CTRL_ENABLE = 0 →
      ∃ t, exec (.injArm w) s = .next t ∧ t.faults = s.faults ∧ regsKept s t (INJ_CTRL_ARM.addr :: writeBooks))

/-- TRAP_LOAD, TRAP_SET_VERIFY_DONE and INJ_ARM complete: a set is verified; an injection arms its point. -/
def Obligations.TrapSetsAndInjection : Prop := TrapSetsAreLoadedAndVerified ∧ InjectionArmsItsPoint

/-! ### Starting, resets and the stored image (R426 to R442, R501, R504) -/

/-- What every reset of the die keeps: the boot store and its log, what a tier's cells hold, the waiting commands; and what it erases. -/
def Sys2Proof.Machine.resetKeeps (s t : State) : Prop :=
  t.boot.store = s.boot.store ∧ t.boot.log = s.boot.log ∧ t.boot.startNo = s.boot.startNo ∧ t.pending = s.pending ∧
    t.sec.weightKey = none ∧ t.store = State.reset.store ∧ t.mem = State.reset.mem ∧ t.rqt = State.reset.rqt ∧ t.tb = State.reset.tb ∧
    ∀ core eng k, (t.tier core eng k).mapped = false ∧ (t.tier core eng k).role = 0 ∧
      ((s.tier core eng k).sealed ≠ Tier.blank → t.tier core eng k = { s.tier core eng k with mapped := false, role := 0 })

/-- POWER_LOSS, PERST_N_ASSERT and MRST_N_ASSERT complete. A loss of power, PERST_N while the module has power, and MRST_N while it has power and no shutdown is latched: keys, row maps, roles, stacks, core stores, requests and rack time are as at reset, and the
cells, epochs and program counts of every tier, the boot store and its log stay. After PERST_N and MRST_N the next start is warm, with cause 1 and 2. An armed injection is kept by MRST_N and by
neither other. Registers read as at reset, but for the marks of an injection. -/
def Obligations.ResetsEraseAllButTheCells : Prop :=
  ∀ s : State,
    (∃ t, exec .powerLoss s = .next t ∧ resetKeeps s t ∧ t.boot.warm = none ∧ t.faults.armed = none ∧ t.pins.pwrgd = false ∧
      t.regs = State.reset.regs) ∧
    (s.pins.pwrgd = true →
      (∃ t, exec .perstNAssert s = .next t ∧ resetKeeps s t ∧ t.boot.warm = some 1 ∧ t.faults.armed = none ∧ t.pins.perstN = false ∧
        t.regs = State.reset.regs) ∧
      (s.therm.latched = false →
        ∃ t, exec .mrstNAssert s = .next t ∧ resetKeeps s t ∧ t.boot.warm = some 2 ∧ t.faults.armed = s.faults.armed ∧ t.pins.mrstN = false ∧
          (s.faults.armed = none → regsKept State.reset t [INJ_HIT_COUNT.addr])))

/-- RESET_RELEASE and CLOCK_LOCK complete. With power good and the module not running, the release of reset counts a start, sets the running bits and both reset pins high; with the clock not locked it stays in its step with its facts kept. The clock's lock
with no start waiting shows REF_LOCK and discards the frame begun. A start that waits, whose image fails a check, with no injection armed, shows the check's code and ends in chrysalis mode with cause 2. -/
def Sys2Proof.Machine.StartsRunToStepOneAndOn : Prop :=
  ∀ s : State,
    (∀ f, s.pins.pwrgd = true → s.isSet SEC_STAT_RUNNING = false → s.isSet TB_STAT_REF_LOCK = false →
      ∃ t, exec (.resetRelease f) s = .next t ∧ t.boot.startNo = s.boot.startNo + 1 ∧ t.fld SEC_STAT_RUNNING = 1 ∧ t.fld THM_STAT_RUNNING = 1 ∧
        t.pins.perstN = true ∧ t.pins.mrstN = true ∧ t.boot.facts = some f ∧ t.fld GLB_STATE_STEP = s.fld GLB_STATE_STEP ∧
        t.isSet GLB_BOOT_WARM = s.boot.warm.isSome) ∧
    (s.isSet TB_STAT_REF_LOCK = false →
      (s.boot.facts = none →
        ∃ t, exec .clockLock s = .next t ∧ t.fld TB_STAT_REF_LOCK = 1 ∧ t.tb.frame = none ∧ t.tb.pair = none ∧ regsKept s t [TB_STAT_REF_LOCK.addr] ∧
          t = { s with regs := t.regs, tb := t.tb }) ∧
      (∀ f, s.boot.facts = some f → s.faults.armed = none → s.fld GLB_STATE_STATE ≠ 2 → s.boot.verifyCode f.checks ≠ 0 →
        ∃ t, exec .clockLock s = .next t ∧ t.fld GLB_STATE_STATE = 2 ∧ t.fld GLB_STATE_CAUSE = 2 ∧
          t.fld GLB_BOOT_VERIFY_FAIL = s.boot.verifyCode f.checks)) ∧
    (s.isSet TB_STAT_REF_LOCK = true → exec .clockLock s = .next s)

/-- STOP_RECORD_ACK completes. With the firmware running: the open record of the lowest sequence number is acknowledged in its place, every other entry of the log stays, and it is reported to the management controller; outside the
start, or in step 2 while another record is open. With no open record nothing changes. -/
def Sys2Proof.Machine.StopRecordsAreAcknowledged : Prop :=
  ∀ s : State,
    (∀ e ∈ s.boot.log, ackType e.2.type = true → e.2.ack = false → s.boot.firmware = true →
      (∀ x ∈ s.boot.log, ackType x.2.type = true → x.2.ack = false → x ≠ e → e.2.seq < x.2.seq) →
      (s.fld GLB_STATE_STATE ≠ 0 ∨ (s.fld GLB_STATE_STEP = 2 ∧ ∃ x ∈ s.boot.log, x.1 ≠ e.1 ∧ ackType x.2.type = true ∧ x.2.ack = false)) →
      ∃ t, exec .stopRecordAck s = .next t ∧ t.boot.log = s.boot.log.map (fun x => if x.1 = e.1 then (x.1, { x.2 with ack := true }) else x) ∧
        t.mgmt.events = s.mgmt.events ++ [.stopRecord e.2.seq] ∧ t.fld GLB_BOOT_PENDING_ACK = min t.pendingAcks 255) ∧
    ((∀ e ∈ s.boot.log, ackType e.2.type = true → e.2.ack = true) → exec .stopRecordAck s = .next s)

/-- RESET_RELEASE, CLOCK_LOCK and STOP_RECORD_ACK complete: starts go on; stop records are acknowledged. -/
def Obligations.StartsAndStops : Prop := StartsRunToStepOneAndOn ∧ StopRecordsAreAcknowledged

/-- IMG_BEGIN, IMG_DATA, IMG_END and IMG_VERIFY complete. While the endpoint runs. IMG_BEGIN of an allowed length from step 2 on, or in chrysalis mode, erases the sectors that the length needs and no others, and opens the update; in steps 0 and 1 it is refused. IMG_DATA of
4 to 1,024 bytes inside the length, not before the last end, stores its bytes and no others; an offset before it is refused. IMG_END closes an open update. IMG_VERIFY without an injection armed
shows the code of the first failing check and appends an IMAGE_WRITTEN record. -/
def Obligations.ImagesAreWrittenAndVerified : Prop :=
  ∀ s : State, s.isSet SEC_STAT_RUNNING = true →
    (∀ (n v : BitVec 32), n.toNat ≤ 234881024 →
      (2 ≤ s.fld GLB_STATE_STEP ∨ s.fld GLB_STATE_STATE = 2 →
        ∃ t, exec (.imgBegin n v) s = .next t ∧ t.fld GLB_UPD_STATE = 1 ∧ t.boot.imgResp = (0, 0) :: s.boot.imgResp ∧ t.boot.updNext = 0 ∧
          t.boot.updLen = n.toNat ∧
          (∀ a, a < (n.toNat + 65535) / 65536 * 65536 → SMap.get (fun _ => (0xFF : Byte)) t.boot.store a = 0xFF) ∧
          (∀ a, (n.toNat + 65535) / 65536 * 65536 ≤ a →
            SMap.get (fun _ => (0xFF : Byte)) t.boot.store a = SMap.get (fun _ => (0xFF : Byte)) s.boot.store a)) ∧
      (s.fld GLB_STATE_STEP < 2 → s.fld GLB_STATE_STATE ≠ 2 →
        exec (.imgBegin n v) s = .next { s with boot := { s.boot with imgResp := (0, 1) :: s.boot.imgResp } })) ∧
    (s.fld GLB_UPD_STATE = 1 →
      (∀ off (bs : List Byte), 4 ≤ bs.length → bs.length ≤ 1024 → s.boot.updNext ≤ off → off + bs.length ≤ s.boot.updLen →
        ∃ t, exec (.imgData off bs) s = .next t ∧ t.boot.bytes off bs.length = bs ∧ t.boot.updNext = off + bs.length ∧
          t.boot.imgResp = (1, 0) :: s.boot.imgResp ∧
          (∀ a, a < off ∨ off + bs.length ≤ a →
            SMap.get (fun _ => (0xFF : Byte)) t.boot.store a = SMap.get (fun _ => (0xFF : Byte)) s.boot.store a) ∧
          t = { s with boot := t.boot }) ∧
      (∀ off (bs : List Byte), off < s.boot.updNext →
        exec (.imgData off bs) s = .next { s with boot := { s.boot with imgResp := (1, 1) :: s.boot.imgResp } }) ∧
      (∃ t, exec .imgEnd s = .next t ∧ t.fld GLB_UPD_STATE = 2 ∧ t.boot.updOpen = false ∧ t.boot.imgResp = (2, 0) :: s.boot.imgResp ∧
        t.boot.store = s.boot.store ∧ regsKept s t [GLB_UPD_STATE.addr])) ∧
    (∀ c, s.faults.armed = none →
      ∃ t, exec (.imgVerify c) s = .next t ∧ t.fld GLB_UPD_FAIL = s.boot.verifyCode c ∧
        t.fld GLB_UPD_STATE = (if s.boot.verifyCode c = 0 then 3 else 4) ∧ t.boot.imgResp = (3, 0) :: s.boot.imgResp ∧ t.boot.seq > s.boot.seq ∧
        t.boot.store = s.boot.store ∧ regsKept s t [GLB_UPD_STATE.addr])

/-! ### Retrieval (R447 to R460) -/

/-- A QUERY is refused with a code: counted and answered, with the queue as it was. -/
def Sys2Proof.Machine.queryRefused (s : State) (raw : List Byte) (f : QueryFetch) (code : Nat) : Prop :=
  ∃ t e, exec (.query raw f) s = .next t ∧ t.fld RTV_REFUSE_CNT_COUNT = min (s.fld RTV_REFUSE_CNT_COUNT + 1) RTV_REFUSE_CNT_COUNT.top ∧
    t.rqt.egress = s.rqt.egress ++ [.record e] ∧ e.kind = 4 ∧ e.code = code ∧ e.handle = BitVec.ofNat 64 (fieldLE raw 8 8) ∧
    t.rtv = s.rtv ∧ regsKept s t [RTV_REFUSE_CNT_COUNT.addr]

/-- QUERY and RTV_FLIP_REQ complete. On a module with a ring. With intake closed a query is refused with 0x19, of an unknown corpus or one of another region with 0x11, malformed with 0x11, with a full queue with 0x10; one that passes every check joins the queue's end
and no register changes. A write of RTV_FLIP with REQ that passes the gates: with a pending tier of one epoch ready on every tile of the corpus, no previous tier held and no flip waiting, the flip waits for the second mile; not ready, or
of an unknown corpus, it only sets REFUSED. -/
def Obligations.QueriesAreQueuedOrRefused : Prop :=
  (∀ (s : State) (r : RingPair) (raw : List Byte) (f : QueryFetch), s.ring = some r →
    (s.isSet RQT_CTRL_INTAKE_EN = false → queryRefused s raw f 0x19) ∧
    (s.isSet RQT_CTRL_INTAKE_EN = true → s.isSet SEC_STAT_UNSEALED = true → s.isSet GLB_STATE_STANDBY = false → s.admitted = true →
      (s.corpus? (recByte raw 2) = none → queryRefused s raw f 0x11) ∧
      (∀ k, s.corpus? (recByte raw 2) = some k → s.corpusEpoch (recByte raw 2) ≠ 0 →
        (k.region ≠ r.region ∨ queryForm raw k = false → queryRefused s raw f 0x11) ∧
        (k.region = r.region → queryForm raw k = true → 256 ≤ s.rtv.queue.length → queryRefused s raw f 0x10))) ∧
    (∀ q, s.checkQuery raw f r = .inr q →
      ∃ t, exec (.query raw f) s = .next t ∧ t.rtv = { s.rtv with queue := s.rtv.queue ++ [q] } ∧
        q.handle = BitVec.ofNat 64 (fieldLE raw 8 8) ∧ q.corpus = recByte raw 2 ∧ q.k = fieldLE raw 4 2 ∧ q.voids = 0 ∧ q.epoch = none ∧
        t.regs = s.regs ∧ t.rqt.egress = s.rqt.egress)) ∧
  (∀ (s : State) (w : Wr) (r : RegDef), regAt RTV_FLIP_REQ.addr = some r → writeReaches s w RTV_FLIP_REQ.addr r = true →
    wbits w.data RTV_FLIP_REQ = 1 →
    (∀ c, s.corpus? (wbits w.data RTV_FLIP_CORPUS) = some c → s.corpusReady c = true → s.corpusRole c 2 = [] →
      (∀ x ∈ s.rtv.flips, x.1 ≠ wbits w.data RTV_FLIP_CORPUS) →
      ∃ t, exec (.rtvFlipReq w) s = .next t ∧
        t.rtv.flips = s.rtv.flips ++ [(wbits w.data RTV_FLIP_CORPUS, (s.mileNow + 2) % mileP, s.corpusPend c)] ∧
        regsKept s t (RTV_FLIP_REQ.addr :: writeBooks)) ∧
    (s.corpus? (wbits w.data RTV_FLIP_CORPUS) = none ∨ (∃ c, s.corpus? (wbits w.data RTV_FLIP_CORPUS) = some c ∧ s.corpusReady c = false) →
      ∃ t, exec (.rtvFlipReq w) s = .next t ∧ t.fld RTV_FLIP_STAT_REFUSED = 1 ∧ t.rtv = s.rtv))

/-- QUERY_PASS and SEARCH_ROUND complete. With the sequencers running, an epoch in force and a pass of the variant free: a late pass goes back to the head of the queue with one more void, and ends with code 0x20 at the fifth; one whose single
tile scores well, with TOPK, runs with the tile's scores at the epoch in force. A round of the search after the first keeps a part of the interval at most half as wide, whose upper end still leaves at most K keys above it if it did. When at
most K keys lie above the threshold given, the hits written are exactly the included vectors whose key lies above it, written where DMA reaches the result's window, counted, and the query is answered. -/
def Obligations.PassesScoreSearchAndFinish : Prop :=
  ∀ (s : State) (corpus : Fin 16), s.sched.running = true →
    (∀ c q, s.corpus? corpus = some c → s.rtv.queue.find? (fun q => q.corpus = corpus.val) = some q → s.corpusEpoch corpus ≠ 0 →
      ((s.inVar.map (fun v => v.passesOf corpus)).getD 0) ≠ 0 → s.rtv.passes.any (fun p => p.corpus = corpus.val) = false →
      (∀ ups trims,
        (q.voids < 4 → ∃ t x, exec (.queryPass corpus true ups trims) s = .next t ∧ t.rtv.queue = x :: s.rtv.queue.erase q ∧ x.voids = q.voids + 1 ∧
          x.handle = q.handle ∧ t.fld RTV_VOID_CNT_COUNT = min (s.fld RTV_VOID_CNT_COUNT + 1) RTV_VOID_CNT_COUNT.top) ∧
        (4 ≤ q.voids → ∃ t e, exec (.queryPass corpus true ups trims) s = .next t ∧ t.rtv.queue = s.rtv.queue.erase q ∧
          t.rqt.egress = s.rqt.egress ++ [.record e] ∧ e.kind = 4 ∧ e.code = 0x20)) ∧
      (∀ x epoch u z, c.tiles = [x] → epoch = q.epoch.getD (s.corpusEpoch corpus) → q.topK = true →
        ({ s with rtv := { s.rtv with queue := s.rtv.queue.erase q } }).scoreTile c x { q with epoch := some epoch } epoch false [] = (u, z) → z.bad = false →
        ∃ t p, exec (.queryPass corpus false [] []) s = .next t ∧ p ∈ t.rtv.passes ∧ p.corpus = corpus.val ∧ p.query = { q with epoch := some epoch } ∧
          p.scores = z.scores ∧ p.flag = z.flag ∧ p.round = 0)) ∧
    (∀ p, s.rtv.passes.find? (fun p => p.corpus = corpus.val) = some p →
      (p.round ≠ 0 → p.lo + 4 ≤ p.hi →
        ∃ t p2, exec (.searchRound corpus false) s = .next t ∧ p2 ∈ t.rtv.passes ∧ p2.round = p.round + 1 ∧ p.lo ≤ p2.lo ∧ p2.hi ≤ p.hi ∧
          2 * (p2.hi - p2.lo) ≤ p.hi - p.lo + 1 ∧ p2.lo < p2.hi ∧
          (p.keys.countP (fun k => decide (p.hi < k)) ≤ p.query.k → p.keys.countP (fun k => decide (p2.hi < k)) ≤ p.query.k) ∧
          t = { s with rtv := { s.rtv with passes := t.rtv.passes } }) ∧
      (p.round = 0 → p.keys.countP (fun k => decide (orderKey (plusZero p.query.thresh) < k)) ≤ p.query.k → s.rtv.bufLost = false →
        ∃ t hits e, exec (.searchRound corpus false) s = .next t ∧
          (∀ h, h ∈ hits ↔ h ∈ p.scores ∧ p.query.includes h.1 = true ∧ orderKey (plusZero p.query.thresh) < orderKey h.2) ∧
          (let out := p.query.result (((s.corpus? p.corpus).map Corpus.vectors).getD 0) hits
           t.rtv.written = if s.dma p.query.resultAddr out.length then (p.query.resultAddr, out) :: s.rtv.written else s.rtv.written) ∧
          (∀ x ∈ t.rtv.passes, x.corpus ≠ corpus.val) ∧ t.fld RTV_QUERY_CNT_COUNT = min (s.fld RTV_QUERY_CNT_COUNT + 1) RTV_QUERY_CNT_COUNT.top ∧
          t.fld RTV_HIT_CNT_COUNT = min (s.fld RTV_HIT_CNT_COUNT + min hits.length p.query.maxHits) RTV_HIT_CNT_COUNT.top ∧
          t.rqt.egress = s.rqt.egress ++ [.record e] ∧ e.kind = 4 ∧ e.code = 0 ∧ e.handle = p.query.handle))

/-! ### Power, heat and connectors (R478 to R505) -/

/-- SENSOR_READING and SENSOR_RESTORE complete. While the controller runs, for a sensor that no injection holds, and readings that leave no cause of shutdown: the reading is stored; beyond -20 to 150 C, or saturated, it makes the sensor ignored with reason 1 if
it was not; a change of more than 10 K ignores it with reason 2; a first reading in range that agrees with its neighbours leaves its state. An ignored sensor with eight good furlongs is valid again; with fewer nothing
changes. A reading that leaves a cause of shutdown shuts the module down. -/
def Obligations.SensorReadingsAreJudged : Prop :=
  ∀ (s : State) (i : Fin 88), 
    (∀ (v : BitVec 16) (sat : Bool), s.isSet THM_STAT_RUNNING = true → s.faults.armed = none → (s.therm? i).stuck = none →
      ((s.takeReading i v.toInt sat).standingCauses = [] →
        ∃ t, exec (.sensorReading i v sat) s = .next t ∧ (t.therm? i).last = some v.toInt ∧
          (v.toInt < deg (-20) ∨ deg 150 < v.toInt ∨ sat = true →
            (t.therm? i).ignored = if (s.therm? i).ignored = 0 then 1 else (s.therm? i).ignored) ∧
          (deg (-20) ≤ v.toInt → v.toInt ≤ deg 150 → sat = false →
            (∀ p, (s.therm? i).last = some p → deg 10 < v.toInt - p ∨ v.toInt - p < -(deg 10) →
              (t.therm? i).ignored = if (s.therm? i).ignored = 0 then 2 else (s.therm? i).ignored) ∧
            ((s.therm? i).last = none → s.disagrees i v.toInt = false → (t.therm? i).ignored = (s.therm? i).ignored)) ∧
          (∀ j : Nat, j ≠ i.val → t.therm? j = s.therm? j)) ∧
      ((s.takeReading i v.toInt sat).standingCauses ≠ [] →
        ∃ t, exec (.sensorReading i v sat) s = .next t ∧ t.therm.latched = true ∧ t.pins.pwrgd = false)) ∧
    ((s.therm? i).ignored ≠ 0 → 8 ≤ (s.therm? i).good →
      (s.setTherm i { s.therm? i with ignored := 0, good := 0, disagree := 0 }).standingCauses = [] →
      ∃ t, exec (.sensorRestore i) s = .next t ∧ (t.therm? i).ignored = 0 ∧ (t.therm? i).last = (s.therm? i).last) ∧
    ((s.therm? i).good < 8 → exec (.sensorRestore i) s = .next s)

/-- HEAT_REREQUEST, POWER_CAP_VARIANT_REQUEST and HEAT_FLAG_CLEAR complete. With a message for the variant that is new here and no switch to it pending: a heat flag whose wait is over, with level 2 still met, raises its request again, or that of the next lower-rate admitted variant, and waits anew; a
power cap missed in eight furlongs at full skipping requests the next lower-rate variant, and not again before its wait is over. The heat flag clears after eight furlongs below its leaving temperatures, and not
before. -/
def Sys2Proof.Machine.HeatAndPowerAskForLowerRates : Prop :=
  ∀ (s : State),
    (∀ v, s.sched.switches.any (fun w => w.var = v % 8) = false → (⟨2, s.self.1, s.self.2, s.datedMile % 65536, v % 8⟩ : SbMsg) ∉ s.fab.seen →
      (s.therm.heat = true → s.therm.heatWait = some 0 → s.level2Now = true →
        (s.therm.heatVar = some v ∨ (s.therm.heatVar = none ∧ s.nextLower = some v)) →
        ∃ t, exec .heatRerequest s = .next t ∧ t.therm.heatWait = some 9 ∧ t.therm.heatVar = some v ∧
          ∃ r ∈ t.sched.reqs, r.var = v % 8 ∧ r.own = true ∧ r.mile = nearestMile s.mileNow (s.datedMile % 65536)) ∧
      (8 ≤ s.therm.capOver → s.nextLower = some v → (s.therm.capWait = none ∨ s.therm.capWait = some 0) →
        ∃ t, exec .powerCapVariantRequest s = .next t ∧ t.therm.capWait = some 9 ∧
          ∃ r ∈ t.sched.reqs, r.var = v % 8 ∧ r.own = true ∧ r.mile = nearestMile s.mileNow (s.datedMile % 65536))) ∧
    (s.therm.capOver < 8 ∨ (∃ n, s.therm.capWait = some (n + 1)) → exec .powerCapVariantRequest s = .next s) ∧
    (s.therm.heat = true → 8 ≤ s.therm.cool2 →
      ∃ t, exec .heatFlagClear s = .next t ∧ t.therm.heat = false ∧ t.fld THM_STAT_HEAT = 0 ∧ t.therm.heatWait = none ∧
        regsKept s t [THM_STAT_HEAT.addr]) ∧
    (s.therm.cool2 < 8 → exec .heatFlagClear s = .next s) ∧
    (s.therm.heatWait ≠ some 0 → exec .heatRerequest s = .next s)

/-- CLOCK_DIVIDE and CLOCK_RESTORE complete. While the controller runs, not divided: a junction at 110 C for a rod, no valid die sensor, or a low input makes the division due and the sequencers stop at the next rod; without any of them nothing changes. Divided, outside chrysalis mode
and after eight furlongs below the leaving conditions, the restoration is due; sooner, or in chrysalis mode, nothing changes. -/
def Sys2Proof.Machine.TheClockDividesAndReturns : Prop :=
  ∀ s : State,
    (s.isSet THM_STAT_RUNNING = true → s.therm.divided = false →
      ((∃ r, s.therm.hotSince = some r ∧ r + 1 ≤ s.sec.clockRods) ∨ s.noDieSensor = true ∨ s.therm.inputLow = true →
        ∃ t, exec .clockDivide s = .next t ∧ t.therm.clockDue = some true ∧ t.tb.stopAtRod = true ∧
          t = { s with tb := { s.tb with stopAtRod := true }, therm := t.therm }) ∧
      ((∀ r, s.therm.hotSince = some r → s.sec.clockRods < r + 1) → s.noDieSensor = false → s.therm.inputLow = false →
        exec .clockDivide s = .next s)) ∧
    (s.therm.divided = true → 8 ≤ s.therm.cool3 → s.fld GLB_STATE_STATE ≠ 2 →
      exec .clockRestore s = .next { s with therm := { s.therm with clockDue := some false } }) ∧
    (s.therm.cool3 < 8 ∨ s.fld GLB_STATE_STATE = 2 → exec .clockRestore s = .next s)

/-- HEAT_REREQUEST, POWER_CAP_VARIANT_REQUEST, HEAT_FLAG_CLEAR, CLOCK_DIVIDE and CLOCK_RESTORE complete. -/
def Obligations.HeatAndClock : Prop := HeatAndPowerAskForLowerRates ∧ TheClockDividesAndReturns

/-- A shutdown (R432, R491 to R493): the module is reset with its regulators latched off, and a SHUTDOWN record of the cause is in the log. -/
def Sys2Proof.Machine.shutDownBy (s t : State) (cause : Nat) : Prop :=
  t.therm.latched = true ∧ t.therm.off = true ∧ t.pins.pwrgd = false ∧ t.regs = State.reset.regs ∧ t.sec.weightKey = none ∧ t.boot.store = s.boot.store ∧
    (s.boot.logNext % 256 ≠ 0 →
      (SMap.get (fun _ => LogRec.erased) t.boot.log s.boot.logNext).type = 1 ∧
      (SMap.get (fun _ => LogRec.erased) t.boot.log s.boot.logNext).cause = cause ∧
      (SMap.get (fun _ => LogRec.erased) t.boot.log s.boot.logNext).seq = s.boot.seq) ∧
    (t.pins.thermtripN = (s.pins.thermtripN && decide (cause ≠ 1)))

/-- COMPARATOR_TRIP, VIN_FAULT, REGULATOR_FAULT and MC_POWER_OFF complete. Two neighbouring comparators that trip shut the module down with cause 1; with no other cause standing, an input outside 50 to 64 V or above 32 A does with cause 2, a regulator's report or a rail out of tolerance with cause 3, and a power-off command
with cause 4: regulators off and latched, registers and keys gone, the record in the log, THERMTRIP_N low for cause 1 only. Inside the bounds the input changes nothing. One comparator alone ignores a sensor whose reading lies
below 110 C, with reason 3. -/
def Obligations.ShutdownsAreRecorded : Prop :=
  ∀ s : State,
    (s.isSet THM_STAT_RUNNING = true → ∀ (i : Fin 64) (os : List (Fin 64)),
      ((∃ o ∈ os, o.val ∈ gridNeighbours i) → ∃ t, exec (.comparatorTrip i os) s = .next t ∧ shutDownBy s t 1) ∧
      ((∀ o ∈ os, o.val ∉ gridNeighbours i) → ∀ p, (s.therm? i).last = some p → p < deg 110 → (s.therm? i).ignored = 0 →
        (s.setTherm i ((s.therm? i).fail 3)).standingCauses = [] →
        ∃ t, exec (.comparatorTrip i os) s = .next t ∧ (t.therm? i).ignored = 3 ∧ t.therm.latched = s.therm.latched)) ∧
    (s.standingCauses = [] →
      (s.isSet PWR_STAT_RUNNING = true →
        (∀ mv, mv < 50000 ∨ 64000 < mv → ∃ t, exec (.vinFault (.voltage mv)) s = .next t ∧ shutDownBy s t 2) ∧
        (∀ c, 3200 < c → ∃ t, exec (.vinFault (.current c)) s = .next t ∧ shutDownBy s t 2) ∧
        (∀ n, ∃ t, exec (.regulatorFault (.regulator n)) s = .next t ∧ shutDownBy s t 3) ∧
        (∀ p, ∃ t, exec (.regulatorFault (.rail p)) s = .next t ∧ shutDownBy s t 3)) ∧
      (s.isSet SEC_STAT_RUNNING = true → ∃ t, exec .mcPowerOff s = .next t ∧ shutDownBy s t 4)) ∧
    (∀ mv, 50000 ≤ mv → mv ≤ 64000 → exec (.vinFault (.voltage mv)) s = .next s)

/-- MATE_N_ASSERT, INPUT_ENABLE, VIN_REAPPLY and INPUT_RANGE_EXCURSION complete. MATE_N low enables the input, with PWRGD unless the regulators are latched off; with MATE_N high nothing comes on. A reapplied input frees a latched module and releases THERMTRIP_N. While the power controller
runs, a measured input is shown, VIN_OK tells whether it lies within 54 to 62 V, and its flags are sticky. -/
def Sys2Proof.Machine.PowerComesOnAndTheInputIsWatched : Prop :=
  ∀ s : State,
    exec .mateNAssert s = .next { s with pins := { s.pins with mateN := false } } ∧
    (s.pins.mateN = false → s.pins.inputOn = false →
      exec .inputEnable s = .next { s with pins := { s.pins with inputOn := true, pwrgd := !s.therm.latched }, therm := { s.therm with off := s.therm.latched } }) ∧
    (s.pins.mateN = true → exec .inputEnable s = .next s) ∧
    (s.therm.off = true → s.pins.mateN = false →
      exec .vinReapply s = .next { s with pins := { s.pins with inputOn := true, pwrgd := true, thermtripN := true },
                                          therm := { s.therm with latched := false, off := false } }) ∧
    (s.isSet PWR_STAT_RUNNING = true → ∀ mv, mv < 65536 →
      ∃ t, exec (.inputRangeExcursion mv) s = .next t ∧ t.fld PWR_VIN_VIN = mv ∧ t.isSet PWR_STAT_VIN_OK = decide (54000 ≤ mv ∧ mv ≤ 62000) ∧
        t.isSet PWR_FLAG_VIN_LOW = (s.isSet PWR_FLAG_VIN_LOW || decide (mv < 54000)) ∧
        t.isSet PWR_FLAG_VIN_HIGH = (s.isSet PWR_FLAG_VIN_HIGH || decide (62000 < mv)) ∧ t.therm.inputLow = decide (mv < 54000) ∧
        regsKept s t [PWR_VIN_VIN.addr, PWR_STAT_VIN_OK.addr, PWR_FLAG_VIN_LOW.addr])

/-- MC_POWER_CAP_RAISE, PLDM_EVENT_FETCH, DYNAMIC_ADDRESS_ASSIGNMENT and HOST_LINK_TRAINING complete. While the endpoint runs. A cap above the one in force, up to 1,400 W, is written; while the power controller runs the old one stays in force; a lower one, or one beyond 1,400 W, changes nothing. A fetch takes the oldest event, and the alert stands while
events are left. The address assigned is kept. A host link that trains otherwise than it stood is kept and, from start step 5 on, makes admission due, at once where no time-base failure is being handled; the same again changes nothing. -/
def Sys2Proof.Machine.ManagementAndHostLinkAct : Prop :=
  ∀ s : State,
    (s.isSet SEC_STAT_RUNNING = true →
      (∀ n, s.inForceAt 0 PWR_CAP_CAP < n → n ≤ 0x36B0 →
        ∃ t, exec (.mcPowerCapRaise n) s = .next t ∧ t.fld PWR_CAP_CAP = n ∧
          (s.isSet PWR_STAT_RUNNING = true → t.inForceAt 0 PWR_CAP_CAP = s.inForceAt 0 PWR_CAP_CAP) ∧
          regsKept s t [PWR_CAP_CAP.addr, CFG_CRC_CTRL_OPEN.addr]) ∧
      (∀ n, n ≤ s.inForceAt 0 PWR_CAP_CAP ∨ 0x36B0 < n → exec (.mcPowerCapRaise n) s = .next s) ∧
      (∀ e rest, s.mgmt.events = e :: rest →
        exec .pldmEventFetch s = .next { s with mgmt := { s.mgmt with events := rest, alert := !rest.isEmpty } }) ∧
      (∀ a : BitVec 7, exec (.dynamicAddressAssignment a) s = .next { s with mgmt := { s.mgmt with address := some a.toNat } })) ∧
    (∀ g w, s.hostLink ≠ ⟨true, g, w⟩ → 5 ≤ s.fld GLB_STATE_STEP →
      ∃ t, exec (.hostLinkTraining true g w) s = .next t ∧ t.hostLink = ⟨true, g, w⟩ ∧ t.sched.admDue = true ∧
        (s.isSet TB_STAT_TIME_FAIL = false ∨ s.isSet TB_STAT_COUNT_VALID = true → t.fld TB_ADM_STAT_STATE = 1) ∧
        regsKept s t [TB_ADM_STAT_STATE.addr]) ∧
    (∀ g w, s.hostLink ≠ ⟨false, 0, 0⟩ → 5 ≤ s.fld GLB_STATE_STEP →
      ∃ t, exec (.hostLinkTraining false g w) s = .next t ∧ t.hostLink = ⟨false, 0, 0⟩ ∧ t.sched.admDue = true) ∧
    (∀ g w, s.hostLink = ⟨true, g, w⟩ → exec (.hostLinkTraining true g w) s = .next s)

/-- Power input, VIN_REAPPLY, PLDM, address, cap and HOST_LINK_TRAINING commands complete. -/
def Obligations.PowerAndManagement : Prop := PowerComesOnAndTheInputIsWatched ∧ ManagementAndHostLinkAct

/-! ### The machine as a whole -/

/-- For every command c, state s and queue rest: a step with c at the front runs c on the state with the rest waiting. On an empty
queue a step changes nothing. The queue, and the idling, are the model's (assumption log 1); the spec speaks of events. -/
def Obligations.StepRunsTheFrontCommand : Prop :=
  (∀ (c : Instr) (s : State) (rest : List Instr), step { s with pending := c :: rest } = exec c { s with pending := rest }) ∧
  (∀ s : State, s.pending = [] → step s = .next s)

/-- State.reset meets State.Inv, and no command waits. STEP and STATE are 0, nothing is sealed, nothing runs, no key has been
released, INJ_CTRL.CONTAIN is 1, ENG_WIT_CFG.TOL of every engine is 6, THM_SKIP_AT is 0x6400, PWR_CAP is 1,400 W, TB_ADM_STAT.ITEM is
all ones, every request slot is FREE, and every interrupt vector is masked and none is pending. Every register reads its reset value
of the map. (What an unlisted byte of a memory reads as, and the reset values of the fields that the spec gives none, are the model's:
assumption log.) -/
def Obligations.ResetLeavesTheMachineAtRest : Prop :=
  State.reset.Inv ∧ State.reset.pending = [] ∧ (∀ a, State.reset.rd a = regReset a) ∧
  State.reset.fld GLB_STATE_STATE = 0 ∧ State.reset.fld GLB_STATE_STEP = 0 ∧ State.reset.isSet GLB_LOCK_CFG_SEAL = false ∧
  State.reset.isSet SEC_STAT_RUNNING = false ∧ State.reset.isSet TB_STAT_RUNNING = false ∧
  State.reset.isSet TB_STAT_COUNT_VALID = false ∧ State.reset.isSet MON_STAT_RUNNING = false ∧ State.reset.sched.running = false ∧
  State.reset.isSet INJ_CTRL_CONTAIN = true ∧ State.reset.fld THM_SKIP_AT_TEMP = 0x6400 ∧ State.reset.fld PWR_CAP_CAP = 14000 ∧
  State.reset.fld TB_ADM_STAT_ITEM = 0xFFFF ∧ State.reset.fld RQT_IRQ_CFG_MIN = 1 ∧
  (∀ (n : CoreId) (e : EngId), State.reset.fldAt (engI n e) ENG_WIT_CFG_TOL = 6) ∧
  (∀ slot, (State.reset.req slot).state = .free) ∧ State.reset.msix.unmasked = [] ∧ State.reset.msix.pend = []

/-- For every state that meets State.Inv, not only those a run reaches: step answers a next state, whatever command is in front (no
command of the table ends in a fault or a refusal); in it the register file, the core stores, the stack memory and the boot store are
again in canonical form (strictly rising keys, no entry that says what an unlisted key says), and the rod count lies below P; and
the queue has lost its front command and nothing else. -/
def Obligations.EveryStepCompletesAndKeepsTheInvariant : Prop :=
  ∀ s : State, s.Inv → ∃ t, step s = .next t ∧ t.Inv ∧ t.pending = s.pending.tail
end

