-- ==== Sys2Proof/Laws/Bits.lean ====
section
/-! SUPPORT. Laws of the bit fields of a register word: a field reads what was put into it, and the other fields of the
word stay. -/
namespace Sys2Proof.Machine

theorem pow_split (hi lo : Nat) (h : lo ≤ hi) : 2 ^ (hi + 1) = 2 ^ lo * 2 ^ (hi + 1 - lo) := by
  rw [← Nat.pow_add]
  congr 1
  omega

/-- A number in three parts: above a field, the field, and below it. -/
theorem three_parts (w hi lo : Nat) (h : lo ≤ hi) :
    w = w / 2 ^ (hi + 1) * 2 ^ (hi + 1) + w / 2 ^ lo % 2 ^ (hi + 1 - lo) * 2 ^ lo + w % 2 ^ lo := by
  have h1 := Nat.div_add_mod w (2 ^ lo)
  have h2 := Nat.div_add_mod (w / 2 ^ lo) (2 ^ (hi + 1 - lo))
  have h3 : w / 2 ^ lo / 2 ^ (hi + 1 - lo) = w / 2 ^ (hi + 1) := by rw [Nat.div_div_eq_div_mul, ← pow_split hi lo h]
  rw [h3] at h2
  conv => lhs; rw [← h1, ← h2]
  rw [pow_split hi lo h, Nat.mul_add]
  have e : 2 ^ lo * (2 ^ (hi + 1 - lo) * (w / (2 ^ lo * 2 ^ (hi + 1 - lo)))) =
      w / (2 ^ lo * 2 ^ (hi + 1 - lo)) * (2 ^ lo * 2 ^ (hi + 1 - lo)) := by
    rw [← Nat.mul_assoc, Nat.mul_comm]
  rw [e, Nat.mul_comm (2 ^ lo) (w / 2 ^ lo % 2 ^ (hi + 1 - lo))]

/-- What `setBits` makes of a word, as a number in three parts. -/
theorem setBits_toNat (w : Word) (hi lo v : Nat) (h : lo ≤ hi) (h32 : hi < 32) :
    (setBits w hi lo v).toNat =
      w.toNat / 2 ^ (hi + 1) * 2 ^ (hi + 1) + v % 2 ^ (hi + 1 - lo) * 2 ^ lo + w.toNat % 2 ^ lo := by
  have hw := three_parts w.toNat hi lo h
  have hlt := w.isLt
  have hv : v % 2 ^ (hi + 1 - lo) < 2 ^ (hi + 1 - lo) := Nat.mod_lt _ (Nat.two_pow_pos _)
  have hl : w.toNat % 2 ^ lo < 2 ^ lo := Nat.mod_lt _ (Nat.two_pow_pos _)
  have hp := pow_split hi lo h
  have hq : w.toNat / 2 ^ (hi + 1) < 2 ^ (32 - (hi + 1)) := by
    rw [Nat.div_lt_iff_lt_mul (Nat.two_pow_pos _), ← Nat.pow_add]
    have : 32 - (hi + 1) + (hi + 1) = 32 := by omega
    rw [this]
    exact hlt
  have h32' : 2 ^ (32 - (hi + 1)) * 2 ^ (hi + 1) = 2 ^ 32 := by
    rw [← Nat.pow_add]
    congr 1
    omega
  have key : v % 2 ^ (hi + 1 - lo) * 2 ^ lo + w.toNat % 2 ^ lo < 2 ^ (hi + 1) := by
    have : (v % 2 ^ (hi + 1 - lo) + 1) * 2 ^ lo ≤ 2 ^ (hi + 1 - lo) * 2 ^ lo := Nat.mul_le_mul_right _ hv
    rw [Nat.add_mul, Nat.one_mul, Nat.mul_comm (2 ^ (hi + 1 - lo)), ← hp] at this
    omega
  have big : w.toNat / 2 ^ (hi + 1) * 2 ^ (hi + 1) + 2 ^ (hi + 1) ≤ 2 ^ 32 := by
    have : (w.toNat / 2 ^ (hi + 1) + 1) * 2 ^ (hi + 1) ≤ 2 ^ (32 - (hi + 1)) * 2 ^ (hi + 1) := Nat.mul_le_mul_right _ hq
    rw [Nat.add_mul, Nat.one_mul, h32'] at this
    exact this
  unfold setBits getBits
  rw [BitVec.toNat_ofNat]
  generalize hf : w.toNat / 2 ^ lo % 2 ^ (hi + 1 - lo) * 2 ^ lo = fld at hw ⊢
  generalize w.toNat / 2 ^ (hi + 1) * 2 ^ (hi + 1) = top at *
  generalize w.toNat % 2 ^ lo = low at *
  generalize v % 2 ^ (hi + 1 - lo) * 2 ^ lo = new at *
  rw [Nat.mod_eq_of_lt (by omega)]
  omega

/-- A field reads what was put into it, without the bits beyond its width. -/
theorem getBits_setBits (w : Word) (hi lo v : Nat) (h : lo ≤ hi) (h32 : hi < 32) :
    getBits (setBits w hi lo v) hi lo = v % 2 ^ (hi + 1 - lo) := by
  unfold getBits
  rw [setBits_toNat w hi lo v h h32, pow_split hi lo h]
  have e : w.toNat / (2 ^ lo * 2 ^ (hi + 1 - lo)) * (2 ^ lo * 2 ^ (hi + 1 - lo)) + v % 2 ^ (hi + 1 - lo) * 2 ^ lo + w.toNat % 2 ^ lo =
      w.toNat % 2 ^ lo + 2 ^ lo * (w.toNat / (2 ^ lo * 2 ^ (hi + 1 - lo)) * 2 ^ (hi + 1 - lo) + v % 2 ^ (hi + 1 - lo)) := by
    rw [Nat.mul_add, Nat.mul_left_comm, Nat.mul_comm (2 ^ lo) (v % 2 ^ (hi + 1 - lo))]
    omega
  rw [e, Nat.add_mul_div_left _ _ (Nat.two_pow_pos lo), Nat.div_eq_of_lt (Nat.mod_lt _ (Nat.two_pow_pos _)), Nat.zero_add,
    Nat.add_comm, Nat.add_mul_mod_self_right, Nat.mod_mod]

/-- A field above stays as it is. -/
theorem getBits_setBits_above (w : Word) (hi lo v hi' lo' : Nat) (h : lo ≤ hi) (h32 : hi < 32) (ha : hi < lo') :
    getBits (setBits w hi lo v) hi' lo' = getBits w hi' lo' := by
  have hv : v % 2 ^ (hi + 1 - lo) < 2 ^ (hi + 1 - lo) := Nat.mod_lt _ (Nat.two_pow_pos _)
  have hl : w.toNat % 2 ^ lo < 2 ^ lo := Nat.mod_lt _ (Nat.two_pow_pos _)
  have key : v % 2 ^ (hi + 1 - lo) * 2 ^ lo + w.toNat % 2 ^ lo < 2 ^ (hi + 1) := by
    have : (v % 2 ^ (hi + 1 - lo) + 1) * 2 ^ lo ≤ 2 ^ (hi + 1 - lo) * 2 ^ lo := Nat.mul_le_mul_right _ hv
    rw [Nat.add_mul, Nat.one_mul, Nat.mul_comm (2 ^ (hi + 1 - lo)), ← pow_split hi lo h] at this
    omega
  have top : (setBits w hi lo v).toNat / 2 ^ (hi + 1) = w.toNat / 2 ^ (hi + 1) := by
    rw [setBits_toNat w hi lo v h h32, Nat.add_assoc, Nat.add_comm, Nat.add_mul_div_right _ _ (Nat.two_pow_pos _),
      Nat.div_eq_of_lt key, Nat.zero_add]
  have e : 2 ^ lo' = 2 ^ (hi + 1) * 2 ^ (lo' - (hi + 1)) := by
    rw [← Nat.pow_add]
    congr 1
    omega
  unfold getBits
  rw [e, ← Nat.div_div_eq_div_mul, ← Nat.div_div_eq_div_mul, top]

/-- A field below stays as it is. -/
theorem getBits_setBits_below (w : Word) (hi lo v hi' lo' : Nat) (h : lo ≤ hi) (h32 : hi < 32) (hb : hi' < lo) (hl : lo' ≤ hi') :
    getBits (setBits w hi lo v) hi' lo' = getBits w hi' lo' := by
  have low : (setBits w hi lo v).toNat % 2 ^ lo = w.toNat % 2 ^ lo := by
    rw [setBits_toNat w hi lo v h h32, pow_split hi lo h]
    have e : w.toNat / (2 ^ lo * 2 ^ (hi + 1 - lo)) * (2 ^ lo * 2 ^ (hi + 1 - lo)) + v % 2 ^ (hi + 1 - lo) * 2 ^ lo + w.toNat % 2 ^ lo =
        w.toNat % 2 ^ lo + 2 ^ lo * (w.toNat / (2 ^ lo * 2 ^ (hi + 1 - lo)) * 2 ^ (hi + 1 - lo) + v % 2 ^ (hi + 1 - lo)) := by
      rw [Nat.mul_add, Nat.mul_left_comm, Nat.mul_comm (2 ^ lo) (v % 2 ^ (hi + 1 - lo))]
      omega
    rw [e, Nat.add_mul_mod_self_left, Nat.mod_mod]
  have e : 2 ^ lo = 2 ^ lo' * 2 ^ (hi' + 1 - lo') * 2 ^ (lo - (hi' + 1)) := by
    rw [← Nat.pow_add, ← Nat.pow_add]
    congr 1
    omega
  have part : ∀ x : Nat, x / 2 ^ lo' % 2 ^ (hi' + 1 - lo') = x % 2 ^ lo / 2 ^ lo' % 2 ^ (hi' + 1 - lo') := by
    intro x
    rw [e, Nat.mul_assoc, Nat.mod_mul_right_div_self, Nat.mod_mul_right_mod]
  unfold getBits
  rw [part, low, ← part]

end Sys2Proof.Machine
end

