-- ==== Sys2Proof/Laws/SMap.lean ====
section
/-! SUPPORT. Laws of the sparse maps: a read after a write, and the canonical form. -/
namespace Sys2Proof.Machine
variable {α : Type}

theorem SMap.get_ins (d : Nat → α) (m : SMap α) (k j : Nat) (v : α) :
    SMap.get d (SMap.ins k v m) j = if j = k then v else SMap.get d m j := by
  induction m with
  | nil => simp only [SMap.ins, SMap.get, eq_comm]
  | cons e m ih =>
    obtain ⟨i, w⟩ := e
    by_cases h : k < i
    · simp only [SMap.ins, if_pos h, SMap.get, eq_comm]
    · by_cases h' : k = i
      · subst h'
        simp only [SMap.ins, if_neg h, if_true, SMap.get, eq_comm]
        split <;> simp_all
      · simp only [SMap.ins, if_neg h, if_neg h', SMap.get, ih]
        by_cases hj : i = j
        · subst hj
          simp [Ne.symm h']
        · simp [hj]

/-- Keys from `lo` on all differ from a key that is not above it. -/
theorem SMap.get_below (d : Nat → α) (m : SMap α) (lo : Nat) (h : SMap.risingFrom (some lo) m = true) (k : Nat) (hk : k ≤ lo) :
    SMap.get d m k = d k := by
  induction m generalizing lo with
  | nil => rfl
  | cons e m ih =>
    obtain ⟨i, w⟩ := e
    simp only [SMap.risingFrom, Bool.and_eq_true, decide_eq_true_eq] at h
    have hne : i ≠ k := by omega
    simp only [SMap.get, if_neg hne]
    exact ih i h.2 (by omega)

theorem SMap.risingFrom_mono (m : SMap α) (a b : Nat) (hab : a ≤ b) (h : SMap.risingFrom (some b) m = true) :
    SMap.risingFrom (some a) m = true := by
  cases m with
  | nil => rfl
  | cons e m =>
    simp only [SMap.risingFrom, Bool.and_eq_true, decide_eq_true_eq] at h ⊢
    exact ⟨by omega, h.2⟩

theorem SMap.risingFrom_none (m : SMap α) (a : Nat) (h : SMap.risingFrom (some a) m = true) : SMap.risingFrom none m = true := by
  cases m with
  | nil => rfl
  | cons e m =>
    simp only [SMap.risingFrom, Bool.and_eq_true, decide_eq_true_eq] at h ⊢
    exact h.2

/-- A sublist of a rising map is rising. -/
theorem SMap.risingFrom_filter (m : SMap α) (p : Nat × α → Bool) (lo : Option Nat) (h : SMap.risingFrom lo m = true) :
    SMap.risingFrom lo (m.filter p) = true := by
  induction m generalizing lo with
  | nil => exact h
  | cons e m ih =>
    obtain ⟨i, w⟩ := e
    have h2 : SMap.risingFrom (some i) m = true := by
      cases lo with
      | none => simpa [SMap.risingFrom] using h
      | some l => simp only [SMap.risingFrom, Bool.and_eq_true] at h; exact h.2
    rw [List.filter_cons]
    split
    · cases lo with
      | none => simpa [SMap.risingFrom] using ih _ h2
      | some l =>
        simp only [SMap.risingFrom, Bool.and_eq_true] at h ⊢
        exact ⟨h.1, ih _ h2⟩
    · cases lo with
      | none => exact SMap.risingFrom_none _ _ (ih _ h2)
      | some l =>
        simp only [SMap.risingFrom, Bool.and_eq_true, decide_eq_true_eq] at h
        exact SMap.risingFrom_mono _ _ _ (by omega) (ih _ h2)

theorem SMap.risingFrom_ins (m : SMap α) (k : Nat) (v : α) (lo : Option Nat) (hlo : ∀ l, lo = some l → l < k)
    (h : SMap.risingFrom lo m = true) : SMap.risingFrom lo (SMap.ins k v m) = true := by
  induction m generalizing lo with
  | nil =>
    cases lo with
    | none => rfl
    | some l => simp [SMap.ins, SMap.risingFrom, hlo l rfl]
  | cons e m ih =>
    obtain ⟨i, w⟩ := e
    have h2 : SMap.risingFrom (some i) m = true := by
      cases lo with
      | none => simpa [SMap.risingFrom] using h
      | some l => simp only [SMap.risingFrom, Bool.and_eq_true] at h; exact h.2
    by_cases hk : k < i
    · simp only [SMap.ins, if_pos hk]
      cases lo with
      | none => simp only [SMap.risingFrom, Bool.and_eq_true, decide_eq_true_eq]; exact ⟨hk, h2⟩
      | some l =>
        simp only [SMap.risingFrom, Bool.and_eq_true, decide_eq_true_eq]
        exact ⟨hlo l rfl, hk, h2⟩
    · by_cases he : k = i
      · subst he
        simp only [SMap.ins, if_neg hk, if_true]
        cases lo with
        | none => simpa [SMap.risingFrom] using h2
        | some l =>
          simp only [SMap.risingFrom, Bool.and_eq_true, decide_eq_true_eq]
          exact ⟨hlo l rfl, h2⟩
      · simp only [SMap.ins, if_neg hk, if_neg he]
        have h3 := ih (some i) (by intro l hl; cases hl; omega) h2
        cases lo with
        | none => simpa [SMap.risingFrom] using h3
        | some l =>
          simp only [SMap.risingFrom, Bool.and_eq_true] at h ⊢
          exact ⟨h.1, h3⟩

theorem SMap.all_ins (m : SMap α) (k : Nat) (v : α) (p : Nat × α → Bool) (h : m.all p = true) (hv : p (k, v) = true) :
    (SMap.ins k v m).all p = true := by
  induction m with
  | nil => simp [SMap.ins, hv]
  | cons e m ih =>
    obtain ⟨i, w⟩ := e
    simp only [List.all_cons, Bool.and_eq_true] at h
    simp only [SMap.ins]
    split
    · simp only [List.all_cons, Bool.and_eq_true]; exact ⟨hv, h.1, h.2⟩
    · split
      · simp only [List.all_cons, Bool.and_eq_true]; exact ⟨hv, h.2⟩
      · simp only [List.all_cons, Bool.and_eq_true]; exact ⟨h.1, ih h.2⟩

variable [DecidableEq α]

theorem SMap.wf_filter (d : Nat → α) (m : SMap α) (p : Nat × α → Bool) (h : SMap.wf d m = true) :
    SMap.wf d (m.filter p) = true := by
  simp only [SMap.wf, Bool.and_eq_true] at h ⊢
  refine ⟨SMap.risingFrom_filter m p none h.1, ?_⟩
  rw [List.all_eq_true] at h ⊢
  exact fun e he => h.2 e (List.mem_filter.mp he).1

/-- Every write keeps the canonical form. -/
theorem SMap.wf_set (d : Nat → α) (m : SMap α) (k : Nat) (v : α) (h : SMap.wf d m = true) :
    SMap.wf d (SMap.set d m k v) = true := by
  unfold SMap.set
  split
  · exact SMap.wf_filter d m _ h
  · rename_i hv
    simp only [SMap.wf, Bool.and_eq_true] at h ⊢
    exact ⟨SMap.risingFrom_ins m k v none (by simp) h.1, SMap.all_ins m k v _ h.2 (by simpa using hv)⟩

theorem SMap.wf_setRange (d : Nat → α) (m : SMap α) (k : Nat) (l : List α) (h : SMap.wf d m = true) :
    SMap.wf d (SMap.setRange d m k l) = true := by
  induction l generalizing m k with
  | nil => exact h
  | cons v vs ih => exact ih _ _ (SMap.wf_set d m k v h)

theorem SMap.wf_nil (d : Nat → α) : SMap.wf d ([] : SMap α) = true := rfl

omit [DecidableEq α] in
theorem SMap.get_del_ne (d : Nat → α) (m : SMap α) (k j : Nat) (h : j ≠ k) : SMap.get d (SMap.del k m) j = SMap.get d m j := by
  induction m with
  | nil => rfl
  | cons e m ih =>
    obtain ⟨i, w⟩ := e
    have ih' : SMap.get d (m.filter (fun e => e.1 != k)) j = SMap.get d m j := ih
    by_cases hi : i = k
    · subst hi
      simp only [SMap.del, List.filter_cons, bne_self_eq_false, SMap.get, if_neg (Ne.symm h)]
      exact ih'
    · simp only [SMap.del, List.filter_cons, bne_iff_ne, ne_eq, hi, not_false_eq_true, if_true, SMap.get, ih']

omit [DecidableEq α] in
theorem SMap.get_del_eq (d : Nat → α) (m : SMap α) (k : Nat) : SMap.get d (SMap.del k m) k = d k := by
  induction m with
  | nil => rfl
  | cons e m ih =>
    obtain ⟨i, w⟩ := e
    have ih' : SMap.get d (m.filter (fun e => e.1 != k)) k = d k := ih
    by_cases hi : i = k
    · subst hi
      simp only [SMap.del, List.filter_cons, bne_self_eq_false]
      exact ih'
    · simp only [SMap.del, List.filter_cons, bne_iff_ne, ne_eq, hi, not_false_eq_true, if_true, SMap.get, if_false, ih']

/-- A read after a write: the value written at its key, the old value elsewhere. -/
theorem SMap.get_set (d : Nat → α) (m : SMap α) (k j : Nat) (v : α) :
    SMap.get d (SMap.set d m k v) j = if j = k then v else SMap.get d m j := by
  unfold SMap.set
  split
  · rename_i hv
    by_cases h : j = k
    · subst h; simp only [if_true, SMap.get_del_eq, hv]
    · simp only [if_neg h, SMap.get_del_ne d m k j h]
  · exact SMap.get_ins d m k j v

end Sys2Proof.Machine
end

