-- ==== Sys2Proof/Laws/Keeps.lean ====
section
/-! SUPPORT. `Keeps s t`: a change of state from `s` to `t` leaves the queue of waiting commands alone, and keeps the
invariant of `Safety.lean`. How record updates, register writes and folds keep it. -/
namespace Sys2Proof.Machine

structure Keeps (s t : State) : Prop where
  pending : t.pending = s.pending
  inv : s.Inv → t.Inv

/-- An outcome that is a next state keeps the queue and the invariant. -/
def KeepsO (s : State) (o : Host.Outcome State Fault Refusal) : Prop := ∀ t, o = .next t → Keeps s t

theorem KeepsO.next {s t : State} (h : Keeps s t) : KeepsO s (.next t) := by
  intro u hu
  cases hu
  exact h

theorem Keeps.refl (s : State) : Keeps s s := ⟨rfl, id⟩
theorem Keeps.trans {s t u : State} (h : Keeps s t) (g : Keeps t u) : Keeps s u := ⟨g.1.trans h.1, fun i => g.2 (h.2 i)⟩

/-- The state of a pair. -/
theorem Keeps.fst {α : Type} {s : State} {p : State × α} {a : State} {b : α} (e : p = (a, b)) (h : Keeps s p.1) : Keeps s a := by
  subst e
  exact h

/-- A change of fields that the invariant does not speak of. -/
theorem Keeps.same {s t : State} (hp : t.pending = s.pending) (hr : t.regs = s.regs) (hs : t.store = s.store)
    (hm : t.mem.stack = s.mem.stack) (hb : t.boot.store = s.boot.store) (ht : t.tb.rod = s.tb.rod) : Keeps s t :=
  ⟨hp, fun i => ⟨⟨hr ▸ i.1.1, hs ▸ i.1.2, hm ▸ i.1.3, hb ▸ i.1.4⟩, ht ▸ i.2⟩⟩

/-- A change of the registers that keeps their canonical form. -/
theorem Keeps.regs {s t : State} (hp : t.pending = s.pending) (hr : SMap.wf regReset s.regs = true → SMap.wf regReset t.regs = true)
    (hs : t.store = s.store) (hm : t.mem.stack = s.mem.stack) (hb : t.boot.store = s.boot.store) (ht : t.tb.rod = s.tb.rod) :
    Keeps s t :=
  ⟨hp, fun i => ⟨⟨hr i.1.1, hs ▸ i.1.2, hm ▸ i.1.3, hb ▸ i.1.4⟩, ht ▸ i.2⟩⟩

theorem State.wr_keeps (s : State) (a : Nat) (w : Word) : Keeps s (s.wr a w) :=
  Keeps.regs rfl (fun h => SMap.wf_set _ _ _ _ h) rfl rfl rfl rfl

/-- A record update of fields that the invariant does not speak of, or that leaves what it speaks of as it was. -/
theorem Keeps.upd {s t : State} {x_waitB x_freeCtr x_tb x_sched x_rqt x_fab x_faults x_boot x_hostBox x_coreBox x_crc x_msix x_engines x_tiers x_clampNow x_clampDue x_asz x_mon x_sec x_mgmt x_mem x_mesh x_routing x_att x_weights x_rtv x_therm x_hostLink x_pins}
    (h : Keeps s t) (hm : x_mem.stack = t.mem.stack) (hb : x_boot.store = t.boot.store) (ht : x_tb.rod = t.tb.rod) :
    Keeps s (State.mk t.pending t.regs x_waitB x_freeCtr x_tb x_sched x_rqt x_fab x_faults x_boot x_hostBox x_coreBox x_crc x_msix x_engines x_tiers x_clampNow x_clampDue x_asz x_mon t.store x_sec x_mgmt x_mem x_mesh x_routing x_att x_weights x_rtv x_therm x_hostLink x_pins) :=
  h.trans (Keeps.same rfl rfl rfl hm hb ht)

theorem KeepsO.trans {s t : State} {o : Host.Outcome State Fault Refusal} (h : Keeps s t) (g : KeepsO t o) : KeepsO s o :=
  fun u hu => h.trans (g u hu)

theorem Keeps.foldl {α : Type} {s t : State} (f : State → α → State) (l : List α) (h : Keeps s t)
    (hf : ∀ u x, Keeps u (f u x)) : Keeps s (l.foldl f t) := by
  induction l generalizing t with
  | nil => exact h
  | cons x l ih => exact ih (h.trans (hf t x))

/-- A fold that carries the state with another value. -/
theorem Keeps.foldlFst {α β : Type} {s : State} {p : State × β} (f : State × β → α → State × β) (l : List α) (h : Keeps s p.1)
    (hf : ∀ q x, Keeps q.1 (f q x).1) : Keeps s (l.foldl f p).1 := by
  induction l generalizing p with
  | nil => exact h
  | cons x l ih => exact ih (h.trans (hf p x))

end Sys2Proof.Machine
end

