-- ==== Sys2Proof/Laws/Keeps1.lean ====
section
/-! SUPPORT. The operations and meanings of Machine leave the queue alone and keep the invariant: Ops, RegOps, FaultOps, StartOps, EngineOps. -/
namespace Sys2Proof.Machine

/-! ### Machine/Ops.lean -/

theorem State.putAt_keeps (s : State) (i : ℕ) (f : Fld) (v : ℕ) : Keeps s (State.putAt s i f v) := by
  unfold State.putAt
  refine Keeps.trans ?_ (State.wr_keeps ..)
  exact Keeps.refl _

theorem State.put_keeps (s : State) (f : Fld) (v : ℕ) : Keeps s (State.put s f v) := by
  unfold State.put
  refine Keeps.trans ?_ (State.putAt_keeps ..)
  exact Keeps.refl _

theorem State.addAt_keeps (s : State) (i : ℕ) (f : Fld) (n : ℕ) : Keeps s (State.addAt s i f n) := by
  unfold State.addAt
  refine Keeps.trans ?_ (State.putAt_keeps ..)
  exact Keeps.refl _

theorem State.add_keeps (s : State) (f : Fld) (n : ℕ) : Keeps s (State.add s f n) := by
  unfold State.add
  refine Keeps.trans ?_ (State.addAt_keeps ..)
  exact Keeps.refl _

theorem State.flagAt_keeps (s : State) (i : ℕ) (f : Fld) (b : Bool) : Keeps s (State.flagAt s i f b) := by
  unfold State.flagAt
  refine Keeps.trans ?_ (State.putAt_keeps ..)
  exact Keeps.refl _

theorem State.flag_keeps (s : State) (f : Fld) (b : Bool) : Keeps s (State.flag s f b) := by
  unfold State.flag
  refine Keeps.trans ?_ (State.flagAt_keeps ..)
  exact Keeps.refl _

theorem State.raiseIfAt_keeps (s : State) (i : ℕ) (f : Fld) (b : Bool) : Keeps s (State.raiseIfAt s i f b) := by
  unfold State.raiseIfAt
  split
  · rename_i a1
    refine Keeps.trans ?_ (State.putAt_keeps ..)
    exact Keeps.refl _
  · rename_i a2
    exact Keeps.refl _

theorem State.tick_keeps (s : State) : Keeps s (State.tick s) := by
  unfold State.tick
  refine Keeps.upd ?_ rfl rfl rfl
  exact Keeps.refl _

theorem State.sendVector_keeps (s : State) (v : ℕ) : Keeps s (State.sendVector s v) := by
  unfold State.sendVector
  extract_lets +onlyGivenNames x1
  clear_value x1
  split
  · rename_i a2
    refine Keeps.upd ?_ rfl rfl rfl
    exact Keeps.refl _
  · rename_i a3
    split
    · rename_i a4
      exact Keeps.refl _
    · rename_i a5
      refine Keeps.upd ?_ rfl rfl rfl
      exact Keeps.refl _

theorem State.putGlb_keeps (s : State) (f : Fld) (v : ℕ) : Keeps s (State.putGlb s f v) := by
  unfold State.putGlb
  split
  · rename_i a1
    exact Keeps.refl _
  · rename_i a2
    refine Keeps.trans ?_ (State.sendVector_keeps ..)
    refine Keeps.trans ?_ (State.put_keeps ..)
    exact Keeps.refl _

theorem State.complete17_keeps (s : State) (f : Fld) : Keeps s (State.complete17 s f) := by
  unfold State.complete17
  split
  · rename_i a1
    exact Keeps.refl _
  · rename_i a2
    refine Keeps.trans ?_ (State.sendVector_keeps ..)
    refine Keeps.trans ?_ (State.put_keeps ..)
    exact Keeps.refl _

theorem putLog_store (b : Boot) (r : LogRec) : (putLog b r).store = b.store := rfl

theorem putLogs_store (b : Boot) (l : List LogRec) : (l.foldl putLog b).store = b.store := by
  induction l generalizing b with
  | nil => rfl
  | cons r l ih => exact ih (putLog b r)

/-- Appending a record leaves the image area alone. -/
theorem Boot.append_store (b : Boot) (r : LogRec) : (b.append r).store = b.store := by
  unfold Boot.append
  extract_lets b1
  split
  · exact putLogs_store _ _
  · rfl

theorem State.logAppend_keeps (s : State) (type cause : Nat) (detail : List Byte) : Keeps s (s.logAppend type cause detail) :=
  Keeps.same rfl rfl rfl rfl (Boot.append_store ..) rfl

theorem State.pldm_keeps (s : State) (e : PldmEvent) : Keeps s (State.pldm s e) := by
  unfold State.pldm
  extract_lets +onlyGivenNames x1
  clear_value x1
  refine Keeps.upd ?_ rfl rfl rfl
  exact Keeps.refl _

theorem State.depth_keeps (s : State) : Keeps s (State.depth s) := by
  unfold State.depth
  refine Keeps.trans ?_ (State.put_keeps ..)
  exact Keeps.refl _

theorem State.enterSb_keeps (s : State) (m : SbMsg) : Keeps s (State.enterSb s m).1 := by
  unfold State.enterSb
  extract_lets +onlyGivenNames x1
  extract_lets +onlyGivenNames x2
  have h3 : Keeps s x2 := by
    unfold x2
    refine Keeps.trans ?_ (State.add_keeps ..)
    refine Keeps.upd ?_ rfl rfl rfl
    exact Keeps.refl _
  extract_lets +onlyGivenNames x4
  extract_lets +onlyGivenNames x5
  clear_value x5
  extract_lets +onlyGivenNames x6
  clear_value x6
  split
  · rename_i a8
    dsimp only
    exact Keeps.refl _
  · rename_i a9
    split
    · rename_i a11
      dsimp only
      refine Keeps.trans ?_ (State.add_keeps ..)
      assumption
    · rename_i a12
      split
      · rename_i a13
        split
        · rename_i a14 a15 a16
          split
          · rename_i a17
            dsimp only
            refine Keeps.trans ?_ (State.depth_keeps ..)
            refine Keeps.upd ?_ rfl rfl rfl
            assumption
          · rename_i a18
            dsimp only
            assumption
        · rename_i a19 a20
          split
          · rename_i a21
            dsimp only
            assumption
          · rename_i a22
            dsimp only
            refine Keeps.trans ?_ (State.depth_keeps ..)
            refine Keeps.upd ?_ rfl rfl rfl
            assumption
      · rename_i a23
        dsimp only
        refine Keeps.trans ?_ (State.depth_keeps ..)
        refine Keeps.upd ?_ rfl rfl rfl
        assumption

theorem State.raiseDated_keeps (s : State) (kind : ℕ) (data : ℕ) (mile : ℕ) : Keeps s (State.raiseDated s kind data mile) := by
  unfold State.raiseDated
  refine Keeps.trans ?_ (State.enterSb_keeps ..)
  exact Keeps.refl _

theorem State.raise_keeps (s : State) (kind : ℕ) (data : ℕ) : Keeps s (State.raise s kind data) := by
  unfold State.raise
  refine Keeps.trans ?_ (State.raiseDated_keeps ..)
  exact Keeps.refl _

theorem State.setReq_keeps (s : State) (slot : ℕ) (r : Req) : Keeps s (State.setReq s slot r) := by
  unfold State.setReq
  extract_lets +onlyGivenNames x1
  clear_value x1
  refine Keeps.upd ?_ rfl rfl rfl
  exact Keeps.refl _

theorem State.dropFold_keeps (s : State) (slot : ℕ) (gen : ℕ) : Keeps s (State.dropFold s slot gen) := by
  unfold State.dropFold
  extract_lets +onlyGivenNames x1
  clear_value x1
  refine Keeps.upd ?_ rfl rfl rfl
  exact Keeps.refl _

theorem State.fallRows_keeps (s : State) (rows : List BushelRow) (mask : BitVec 32) : Keeps s (State.fallRows s rows mask) := by
  unfold State.fallRows
  refine Keeps.foldl _ _ ?_ (fun u1 x2 => ?_)
  · beta_reduce
    exact Keeps.refl _
  · beta_reduce
    extract_lets +onlyGivenNames x3
    clear_value x3
    split
    · rename_i a4
      refine Keeps.trans ?_ (State.dropFold_keeps ..)
      refine Keeps.trans ?_ (State.setReq_keeps ..)
      exact Keeps.refl _
    · rename_i a5
      exact Keeps.refl _

theorem State.voidRows_keeps (s : State) (key : Option ℕ) (mask : BitVec 32) : Keeps s (State.voidRows s key mask) := by
  unfold State.voidRows
  split
  · rename_i a1
    exact Keeps.refl _
  · rename_i a2 a3
    split
    · rename_i a4 a5
      exact Keeps.refl _
    · rename_i a6 a7 a8
      extract_lets +onlyGivenNames x9
      have h10 : Keeps s x9 := by
        unfold x9
        refine Keeps.trans ?_ (State.fallRows_keeps ..)
        exact Keeps.refl _
      clear_value x9
      extract_lets +onlyGivenNames x11
      clear_value x11
      refine Keeps.upd ?_ rfl rfl rfl
      assumption

theorem State.lateRows_keeps (s : State) (key : Option ℕ) (mask : BitVec 32) : Keeps s (State.lateRows s key mask) := by
  unfold State.lateRows
  refine Keeps.trans ?_ (State.voidRows_keeps ..)
  refine Keeps.trans ?_ (State.add_keeps ..)
  exact Keeps.refl _

theorem State.setToken_keeps (s : State) (core : ℕ) (tok : ℕ) (t : Token) : Keeps s (State.setToken s core tok t) := by
  unfold State.setToken
  extract_lets +onlyGivenNames x1
  clear_value x1
  refine Keeps.upd ?_ rfl rfl rfl
  exact Keeps.refl _

theorem State.completeOut_keeps (s : State) (i : Issue) : Keeps s (State.completeOut s i) := by
  unfold State.completeOut
  split
  · rename_i a1
    exact Keeps.refl _
  · rename_i a2
    refine Keeps.trans ?_ (State.setToken_keeps ..)
    exact Keeps.refl _

theorem State.arrive_keeps (s : State) (core : ℕ) (tok : ℕ) (inst : ℕ) (rows : BitVec 32) (isVoid : Bool) : Keeps s (State.arrive s core tok inst rows isVoid).1 := by
  unfold State.arrive
  extract_lets +onlyGivenNames x1
  clear_value x1
  extract_lets +onlyGivenNames x2
  clear_value x2
  split
  · rename_i a3
    dsimp only
    refine Keeps.trans ?_ (State.add_keeps ..)
    refine Keeps.trans ?_ (State.addAt_keeps ..)
    exact Keeps.refl _
  · rename_i a4
    dsimp only
    refine Keeps.trans ?_ (State.setToken_keeps ..)
    exact Keeps.refl _

theorem State.consume_keeps (s : State) (i : Issue) : Keeps s (State.consume s i) := by
  unfold State.consume
  refine Keeps.foldl _ _ ?_ (fun u1 x2 => ?_)
  · beta_reduce
    exact Keeps.refl _
  · beta_reduce
    refine Keeps.trans ?_ (State.setToken_keeps ..)
    exact Keeps.refl _

theorem State.skipLate_keeps (s : State) (i : Issue) (key : Option ℕ) : Keeps s (State.skipLate s i key) := by
  unfold State.skipLate
  extract_lets +onlyGivenNames x1
  clear_value x1
  extract_lets +onlyGivenNames x2
  clear_value x2
  extract_lets +onlyGivenNames x3
  have h4 : Keeps s x3 := by
    unfold x3
    refine Keeps.trans ?_ (State.completeOut_keeps ..)
    refine Keeps.trans ?_ (State.consume_keeps ..)
    exact Keeps.refl _
  clear_value x3
  extract_lets +onlyGivenNames x5
  have h6 : Keeps s x5 := by
    unfold x5
    refine Keeps.trans ?_ (State.add_keeps ..)
    refine Keeps.trans ?_ (State.addAt_keeps ..)
    assumption
  clear_value x5
  refine Keeps.trans ?_ (State.lateRows_keeps ..)
  assumption

theorem State.produce_keeps (s : State) (i : Issue) (rows : BitVec 32) (voided : BitVec 32) (flagged : BitVec 32) : Keeps s (State.produce s i rows voided flagged) := by
  unfold State.produce
  extract_lets +onlyGivenNames x1
  clear_value x1
  split
  · rename_i a2
    exact Keeps.refl _
  · rename_i a3
    refine Keeps.trans ?_ (State.setToken_keeps ..)
    exact Keeps.refl _

theorem State.queueEg_keeps (s : State) (e : EgItem) : Keeps s (State.queueEg s e) := by
  unfold State.queueEg
  extract_lets +onlyGivenNames x1
  clear_value x1
  refine Keeps.upd ?_ rfl rfl rfl
  exact Keeps.refl _

theorem State.queueTokens_keeps (s : State) (slot : ℕ) : Keeps s (State.queueTokens s slot) := by
  unfold State.queueTokens
  split
  · rename_i a1
    exact Keeps.refl _
  · rename_i a2
    refine Keeps.trans ?_ (State.queueEg_keeps ..)
    exact Keeps.refl _

theorem State.stackWrite_keeps (s : State) (addr : Nat) (bs : List Byte) : Keeps s (s.stackWrite addr bs) :=
  ⟨rfl, fun i => ⟨⟨i.1.1, i.1.2, SMap.wf_setRange _ _ _ _ i.1.3, i.1.4⟩, i.2⟩⟩

theorem State.endPages_keeps (s : State) (slot : ℕ) (r : Req) : Keeps s (State.endPages s slot r) := by
  unfold State.endPages
  extract_lets +onlyGivenNames x1
  clear_value x1
  extract_lets +onlyGivenNames x2
  have h3 : Keeps s x2 := by
    unfold x2
    refine Keeps.foldl _ _ ?_ (fun u4 x5 => ?_)
    · beta_reduce
      exact Keeps.refl _
    · beta_reduce
      extract_lets +onlyGivenNames x6
      clear_value x6
      refine Keeps.trans ?_ (State.stackWrite_keeps ..)
      exact Keeps.refl _
  clear_value x2
  extract_lets +onlyGivenNames x7
  clear_value x7
  extract_lets +onlyGivenNames x8
  refine Keeps.upd ?_ rfl rfl rfl
  assumption

theorem State.endReq_keeps (s : State) (slot : ℕ) (st : ReqState) (code : ℕ) : Keeps s (State.endReq s slot st code) := by
  unfold State.endReq
  extract_lets +onlyGivenNames x1
  extract_lets +onlyGivenNames x2
  extract_lets +onlyGivenNames x3
  clear_value x3
  extract_lets +onlyGivenNames x4
  clear_value x4
  extract_lets +onlyGivenNames x5
  have h6 : Keeps s x5 := by
    unfold x5
    refine Keeps.trans ?_ (State.setReq_keeps ..)
    exact Keeps.refl _
  clear_value x5
  extract_lets +onlyGivenNames x7
  have h8 : Keeps s x7 := by
    unfold x7
    refine Keeps.trans ?_ (State.add_keeps ..)
    assumption
  clear_value x7
  extract_lets +onlyGivenNames x9
  have h10 : Keeps s x9 := by
    unfold x9
    refine Keeps.trans ?_ (State.raiseIfAt_keeps ..)
    assumption
  clear_value x9
  refine Keeps.trans ?_ (State.queueEg_keeps ..)
  refine Keeps.trans ?_ (State.endPages_keeps ..)
  assumption

theorem State.sendUpdate_keeps (s : State) (u : TableUpdate) : Keeps s (State.sendUpdate s u) := by
  unfold State.sendUpdate
  extract_lets +onlyGivenNames x1
  clear_value x1
  refine Keeps.upd ?_ rfl rfl rfl
  exact Keeps.refl _

theorem State.drain_keeps (s : State) (slot : ℕ) (code : ℕ) : Keeps s (State.drain s slot code) := by
  unfold State.drain
  extract_lets +onlyGivenNames x1
  clear_value x1
  extract_lets +onlyGivenNames x2
  have h3 : Keeps s x2 := by
    unfold x2
    refine Keeps.trans ?_ (State.setReq_keeps ..)
    exact Keeps.refl _
  clear_value x2
  split
  · rename_i a4
    refine Keeps.trans ?_ (State.endReq_keeps ..)
    exact Keeps.refl _
  · rename_i a5
    split
    · rename_i a6
      exact Keeps.refl _
    · rename_i a7
      split
      · rename_i a8
        refine Keeps.trans ?_ (State.sendUpdate_keeps ..)
        assumption
      · rename_i a9
        refine Keeps.trans ?_ (State.endReq_keeps ..)
        assumption

theorem State.completeAll_keeps (s : State) (code : ℕ) : Keeps s (State.completeAll s code) := by
  unfold State.completeAll
  refine Keeps.foldl _ _ ?_ (fun u1 x2 => ?_)
  · beta_reduce
    exact Keeps.refl _
  · beta_reduce
    split
    · rename_i a3
      refine Keeps.trans ?_ (State.drain_keeps ..)
      exact Keeps.refl _
    · rename_i a4
      exact Keeps.refl _

theorem State.clearEngines_keeps (s : State) : Keeps s (State.clearEngines s) := by
  unfold State.clearEngines
  refine Keeps.upd ?_ rfl rfl rfl
  exact Keeps.refl _

theorem State.stopSequencers_keeps (s : State) : Keeps s (State.stopSequencers s) := by
  unfold State.stopSequencers
  extract_lets +onlyGivenNames x1
  have h2 : Keeps s x1 := by
    unfold x1
    refine Keeps.foldl _ _ ?_ (fun u3 x4 => ?_)
    · beta_reduce
      exact Keeps.refl _
    · beta_reduce
      extract_lets +onlyGivenNames x5
      clear_value x5
      refine Keeps.trans ?_ (State.voidRows_keeps ..)
      exact Keeps.refl _
  clear_value x1
  extract_lets +onlyGivenNames x6
  have h7 : Keeps s x6 := by
    unfold x6
    refine Keeps.trans ?_ (State.clearEngines_keeps ..)
    assumption
  clear_value x6
  extract_lets +onlyGivenNames x8
  clear_value x8
  extract_lets +onlyGivenNames x9
  clear_value x9
  extract_lets +onlyGivenNames x10
  have h11 : Keeps s x10 := by
    unfold x10
    refine Keeps.upd ?_ rfl rfl rfl
    assumption
  clear_value x10
  refine Keeps.foldl _ _ ?_ (fun u12 x13 => ?_)
  · beta_reduce
    assumption
  · beta_reduce
    split
    · rename_i a14
      refine Keeps.trans ?_ (State.endReq_keeps ..)
      exact Keeps.refl _
    · rename_i a15
      split
      · rename_i a16
        refine Keeps.trans ?_ (State.setReq_keeps ..)
        exact Keeps.refl _
      · rename_i a17
        exact Keeps.refl _

theorem State.reAdmit_keeps (s : State) : Keeps s s.reAdmit := by
  unfold State.reAdmit
  split
  · exact Keeps.refl s
  · have h : Keeps s { s with sched := { s.sched with admDue := true } } := Keeps.same rfl rfl rfl rfl rfl rfl
    dsimp only
    split
    · exact h
    · exact h.trans (State.put_keeps ..)

/-! ### Machine/RegOps.lean -/

theorem State.settle_keeps (s : State) : Keeps s (State.settle s) := by
  unfold State.settle
  refine Keeps.upd ?_ rfl rfl rfl
  exact Keeps.refl _

theorem State.capture_keeps (s : State) (w : Wr) (a : ℕ) (bySeal : Bool) : Keeps s (State.capture s w a bySeal) := by
  unfold State.capture
  extract_lets +onlyGivenNames x1
  have h2 : Keeps s x1 := by
    unfold x1
    refine Keeps.trans ?_ (State.add_keeps ..)
    exact Keeps.refl _
  clear_value x1
  extract_lets +onlyGivenNames x3
  have h4 : Keeps s x3 := by
    unfold x3
    refine Keeps.trans ?_ (State.flag_keeps ..)
    refine Keeps.trans ?_ (State.flag_keeps ..)
    refine Keeps.trans ?_ (State.put_keeps ..)
    assumption
  clear_value x3
  split
  · rename_i a5
    assumption
  · rename_i a6
    refine Keeps.trans ?_ (State.put_keeps ..)
    refine Keeps.trans ?_ (State.put_keeps ..)
    assumption

theorem State.accErr_keeps (s : State) (f : Fld) : Keeps s (State.accErr s f) := by
  unfold State.accErr
  refine Keeps.trans ?_ (State.add_keeps ..)
  refine Keeps.trans ?_ (State.put_keeps ..)
  exact Keeps.refl _

theorem State.openCovered_keeps (s : State) (r : RegDef) (wrote : Bool) : Keeps s (State.openCovered s r wrote) := by
  unfold State.openCovered
  extract_lets +onlyGivenNames x1
  have h2 : Keeps s x1 := by
    unfold x1
    refine Keeps.trans ?_ (State.put_keeps ..)
    exact Keeps.refl _
  clear_value x1
  extract_lets +onlyGivenNames x3
  clear_value x3
  split
  · rename_i a4
    refine Keeps.upd ?_ rfl rfl rfl
    assumption
  · rename_i a5
    exact Keeps.refl _

theorem State.storeReg_keeps (s : State) (w : Wr) (a : ℕ) (r : RegDef) : Keeps s (State.storeReg s w a r) := by
  unfold State.storeReg
  extract_lets +onlyGivenNames x1
  clear_value x1
  extract_lets +onlyGivenNames x2
  clear_value x2
  extract_lets +onlyGivenNames x3
  clear_value x3
  extract_lets +onlyGivenNames x4
  clear_value x4
  extract_lets +onlyGivenNames x5
  clear_value x5
  extract_lets +onlyGivenNames x6
  clear_value x6
  extract_lets +onlyGivenNames x7
  clear_value x7
  extract_lets +onlyGivenNames x8
  have h9 : Keeps s x8 := by
    unfold x8
    split
    · rename_i a10
      refine Keeps.trans ?_ (State.capture_keeps ..)
      exact Keeps.refl _
    · rename_i a11
      split
      · rename_i a12
        refine Keeps.trans ?_ (State.capture_keeps ..)
        exact Keeps.refl _
      · rename_i a13
        exact Keeps.refl _
  clear_value x8
  split
  · rename_i a14 a15
    refine Keeps.trans ?_ (State.add_keeps ..)
    refine Keeps.trans ?_ (State.put_keeps ..)
    assumption
  · rename_i a16 a17 a18
    extract_lets +onlyGivenNames x19
    clear_value x19
    extract_lets +onlyGivenNames x20
    have h21 : Keeps s x20 := by
      unfold x20
      split
      · rename_i a22
        refine Keeps.upd ?_ rfl rfl rfl
        assumption
      · rename_i a23
        assumption
    clear_value x20
    refine Keeps.trans ?_ (State.openCovered_keeps ..)
    refine Keeps.trans ?_ (State.wr_keeps ..)
    assumption

theorem State.write_keeps (s : State) (w : Wr) (a : ℕ) : Keeps s (State.write s w a).1 := by
  unfold State.write
  split
  · rename_i a1
    dsimp only
    refine Keeps.trans ?_ (State.accErr_keeps ..)
    exact Keeps.refl _
  · rename_i a2
    split
    · rename_i a3
      dsimp only
      refine Keeps.trans ?_ (State.put_keeps ..)
      exact Keeps.refl _
    · rename_i a4
      split
      · rename_i a5 a6
        split
        · rename_i a7
          dsimp only
          refine Keeps.trans ?_ (State.accErr_keeps ..)
          exact Keeps.refl _
        · rename_i a8
          split
          · rename_i a9
            dsimp only
            refine Keeps.trans ?_ (State.accErr_keeps ..)
            exact Keeps.refl _
          · rename_i a10
            dsimp only
            exact Keeps.refl _
      · rename_i a11 a12 a13
        split
        · rename_i a14
          dsimp only
          refine Keeps.trans ?_ (State.accErr_keeps ..)
          exact Keeps.refl _
        · rename_i a15
          split
          · rename_i a16
            dsimp only
            exact Keeps.refl _
          · rename_i a17
            split
            · rename_i a18
              dsimp only
              exact Keeps.refl _
            · rename_i a19
              split
              · rename_i a20
                dsimp only
                exact Keeps.refl _
              · rename_i a21
                dsimp only
                refine Keeps.trans ?_ (State.storeReg_keeps ..)
                exact Keeps.refl _

/-! ### Machine/FaultOps.lean -/

theorem State.fired_keeps (s : State) : Keeps s (State.fired s) := by
  unfold State.fired
  split
  · rename_i a1 a2
    exact Keeps.refl _
  · rename_i a3 a4 a5
    extract_lets +onlyGivenNames x6
    clear_value x6
    extract_lets +onlyGivenNames x7
    have h8 : Keeps s x7 := by
      unfold x7
      refine Keeps.upd ?_ rfl rfl rfl
      exact Keeps.refl _
    clear_value x7
    extract_lets +onlyGivenNames x9
    have h10 : Keeps s x9 := by
      unfold x9
      refine Keeps.trans ?_ (State.add_keeps ..)
      refine Keeps.trans ?_ (State.put_keeps ..)
      refine Keeps.trans ?_ (State.put_keeps ..)
      assumption
    clear_value x9
    extract_lets +onlyGivenNames x11
    clear_value x11
    split
    · rename_i a12
      refine Keeps.trans ?_ (State.putAt_keeps ..)
      refine Keeps.trans ?_ (State.putAt_keeps ..)
      refine Keeps.trans ?_ (State.putAt_keeps ..)
      assumption
    · rename_i a13
      assumption

theorem State.tryInject_keeps (s : State) (point : ℕ) (core : ℕ) (unit : ℕ) : Keeps s (State.tryInject s point core unit).1 := by
  unfold State.tryInject
  split
  · rename_i a1 a2 a3
    dsimp only
    refine Keeps.trans ?_ (State.fired_keeps ..)
    exact Keeps.refl _
  · rename_i a4 a5
    dsimp only
    exact Keeps.refl _

theorem State.countSpares_keeps (s : State) : Keeps s (State.countSpares s) := by
  unfold State.countSpares
  extract_lets +onlyGivenNames x1
  clear_value x1
  extract_lets +onlyGivenNames x2
  clear_value x2
  refine Keeps.trans ?_ (State.put_keeps ..)
  refine Keeps.trans ?_ (State.put_keeps ..)
  exact Keeps.refl _

theorem State.mapCore_keeps (s : State) (logical : ℕ) (core : ℕ) : Keeps s (State.mapCore s logical core) := by
  unfold State.mapCore
  extract_lets +onlyGivenNames x1
  clear_value x1
  extract_lets +onlyGivenNames x2
  have h3 : Keeps s x2 := by
    unfold x2
    refine Keeps.upd ?_ rfl rfl rfl
    exact Keeps.refl _
  clear_value x2
  refine Keeps.trans ?_ (State.putAt_keeps ..)
  refine Keeps.trans ?_ (State.putAt_keeps ..)
  refine Keeps.trans ?_ (State.putAt_keeps ..)
  assumption

theorem State.setTier_keeps (s : State) (core : ℕ) (eng : ℕ) (tier : ℕ) (t : Tier) : Keeps s (State.setTier s core eng tier t) := by
  unfold State.setTier
  refine Keeps.upd ?_ rfl rfl rfl
  exact Keeps.refl _

theorem State.setRole_keeps (s : State) (core : ℕ) (eng : ℕ) (tier : ℕ) (role : ℕ) : Keeps s (State.setRole s core eng tier role) := by
  unfold State.setRole
  extract_lets +onlyGivenNames x1
  clear_value x1
  extract_lets +onlyGivenNames x2
  have h3 : Keeps s x2 := by
    unfold x2
    refine Keeps.trans ?_ (State.setTier_keeps ..)
    exact Keeps.refl _
  clear_value x2
  extract_lets +onlyGivenNames x4
  clear_value x4
  refine Keeps.trans ?_ (State.putAt_keeps ..)
  assumption

theorem State.markBad_keeps (s : State) (l : List (CoreId × EngId × TierId)) : Keeps s (State.markBad s l) := by
  unfold State.markBad
  refine Keeps.foldl _ _ ?_ (fun u1 x2 => ?_)
  · beta_reduce
    exact Keeps.refl _
  · beta_reduce
    extract_lets +onlyGivenNames x3
    clear_value x3
    refine Keeps.trans ?_ (State.setTier_keeps ..)
    exact Keeps.refl _

theorem State.logCoreMap_keeps (s : State) (core : ℕ) : Keeps s (State.logCoreMap s core) := by
  unfold State.logCoreMap
  extract_lets +onlyGivenNames x1
  clear_value x1
  refine Keeps.trans ?_ (State.logAppend_keeps ..)
  exact Keeps.refl _

theorem State.faultRecord_keeps (s : State) (r : FaultRec) : Keeps s (State.faultRecord s r) := by
  unfold State.faultRecord
  extract_lets +onlyGivenNames x1
  clear_value x1
  refine Keeps.trans ?_ (State.pldm_keeps ..)
  refine Keeps.upd ?_ rfl rfl rfl
  exact Keeps.refl _

theorem State.silentError_keeps (s : State) (r : FaultRec) (key : Option ℕ) (rows : BitVec 32) : Keeps s (State.silentError s r key rows) := by
  unfold State.silentError
  extract_lets +onlyGivenNames x1
  have h2 : Keeps s x1 := by
    unfold x1
    split
    · rename_i a3 a4
      refine Keeps.trans ?_ (State.voidRows_keeps ..)
      exact Keeps.refl _
    · rename_i a5
      exact Keeps.refl _
  clear_value x1
  extract_lets +onlyGivenNames x6
  have h7 : Keeps s x6 := by
    unfold x6
    refine Keeps.trans ?_ (State.faultRecord_keeps ..)
    assumption
  clear_value x6
  refine Keeps.trans ?_ (State.putAt_keeps ..)
  refine Keeps.trans ?_ (State.addAt_keeps ..)
  assumption

theorem State.requestFence_keeps (s : State) (core : ℕ) : Keeps s (State.requestFence s core) := by
  unfold State.requestFence
  extract_lets +onlyGivenNames x1
  clear_value x1
  extract_lets +onlyGivenNames x2
  clear_value x2
  split
  · rename_i a3
    exact Keeps.refl _
  · rename_i a4
    refine Keeps.trans ?_ (State.putAt_keeps ..)
    refine Keeps.upd ?_ rfl rfl rfl
    exact Keeps.refl _

theorem State.distrust_keeps (s : State) (core : ℕ) (unit : ℕ) : Keeps s (State.distrust s core unit) := by
  unfold State.distrust
  extract_lets +onlyGivenNames x1
  clear_value x1
  refine Keeps.trans ?_ (State.putAt_keeps ..)
  refine Keeps.upd ?_ rfl rfl rfl
  exact Keeps.refl _

theorem State.escalate_keeps (s : State) (core : ℕ) (unit : Option ℕ) (injected : Bool) : Keeps s (State.escalate s core unit injected) := by
  unfold State.escalate
  extract_lets +onlyGivenNames x1
  have h2 : Keeps s x1 := by
    unfold x1
    split
    · rename_i a3 a4
      refine Keeps.trans ?_ (State.distrust_keeps ..)
      exact Keeps.refl _
    · rename_i a5
      exact Keeps.refl _
  clear_value x1
  split
  · rename_i a6
    refine Keeps.trans ?_ (State.put_keeps ..)
    exact Keeps.refl _
  · rename_i a7
    refine Keeps.trans ?_ (State.requestFence_keeps ..)
    assumption

theorem State.setEngine_keeps (s : State) (core : ℕ) (eng : ℕ) (e : Engine) : Keeps s (State.setEngine s core eng e) := by
  unfold State.setEngine
  refine Keeps.upd ?_ rfl rfl rfl
  exact Keeps.refl _

theorem State.retire_keeps (s : State) (core : ℕ) (eng : ℕ) (band : ℕ) (conv : ℕ) (injected : Bool) : Keeps s (State.retire s core eng band conv injected) := by
  unfold State.retire
  extract_lets +onlyGivenNames x1
  clear_value x1
  extract_lets +onlyGivenNames x2
  have h3 : Keeps s x2 := by
    unfold x2
    refine Keeps.trans ?_ (State.setEngine_keeps ..)
    exact Keeps.refl _
  clear_value x2
  extract_lets +onlyGivenNames x4
  clear_value x4
  extract_lets +onlyGivenNames x5
  have h6 : Keeps s x5 := by
    unfold x5
    split
    · rename_i a7
      assumption
    · rename_i a8
      refine Keeps.trans ?_ (State.putAt_keeps ..)
      assumption
  clear_value x5
  split
  · rename_i a9
    refine Keeps.trans ?_ (State.put_keeps ..)
    exact Keeps.refl _
  · rename_i a10
    split
    · rename_i a11
      refine Keeps.trans ?_ (State.requestFence_keeps ..)
      exact Keeps.refl _
    · rename_i a12
      split
      · rename_i a13
        refine Keeps.trans ?_ (State.requestFence_keeps ..)
        refine Keeps.trans ?_ (State.setEngine_keeps ..)
        exact Keeps.refl _
      · rename_i a14
        refine Keeps.trans ?_ (State.requestFence_keeps ..)
        assumption

theorem State.weigh_keeps (s : State) (e : LedgerEvent) (injected : Bool) : Keeps s (State.weigh s e injected) := by
  unfold State.weigh
  extract_lets +onlyGivenNames x1
  clear_value x1
  extract_lets +onlyGivenNames x2
  clear_value x2
  extract_lets +onlyGivenNames x3
  have h4 : Keeps s x3 := by
    unfold x3
    refine Keeps.upd ?_ rfl rfl rfl
    exact Keeps.refl _
  clear_value x3
  extract_lets +onlyGivenNames x5
  clear_value x5
  split
  · rename_i a6
    split
    · rename_i a7
      refine Keeps.trans ?_ (State.escalate_keeps ..)
      assumption
    · rename_i a8
      assumption
  · rename_i a9
    split
    · rename_i a10
      assumption
    · rename_i a11
      split
      · rename_i a12 a13 a14 a15
        split
        · rename_i a16
          refine Keeps.trans ?_ (State.retire_keeps ..)
          assumption
        · rename_i a17
          refine Keeps.trans ?_ (State.escalate_keeps ..)
          assumption
      · rename_i a18 a19
        refine Keeps.trans ?_ (State.escalate_keeps ..)
        assumption

theorem State.escalateOverrun_keeps (s : State) (core : ℕ) (agent : ℕ) (injected : Bool) : Keeps s (State.escalateOverrun s core agent injected) := by
  unfold State.escalateOverrun
  refine Keeps.trans ?_ (State.escalate_keeps ..)
  exact Keeps.refl _

theorem State.tierFails_keeps (s : State) (core : ℕ) (eng : ℕ) (tier : ℕ) (injected : Bool) : Keeps s (State.tierFails s core eng tier injected) := by
  unfold State.tierFails
  extract_lets +onlyGivenNames x1
  clear_value x1
  extract_lets +onlyGivenNames x2
  have h3 : Keeps s x2 := by
    unfold x2
    refine Keeps.trans ?_ (State.setRole_keeps ..)
    exact Keeps.refl _
  clear_value x2
  split
  · rename_i a4
    refine Keeps.trans ?_ (State.put_keeps ..)
    exact Keeps.refl _
  · rename_i a5
    split
    · rename_i a6
      refine Keeps.trans ?_ (State.requestFence_keeps ..)
      assumption
    · rename_i a7
      assumption

theorem State.lessTiers_keeps (s : State) (adv : ℕ) (bey : ℕ) (fresh : ℕ) : Keeps s (State.lessTiers s adv bey fresh) := by
  unfold State.lessTiers
  refine Keeps.trans ?_ (State.put_keeps ..)
  refine Keeps.trans ?_ (State.put_keeps ..)
  refine Keeps.trans ?_ (State.put_keeps ..)
  exact Keeps.refl _

theorem State.dropAdvice_keeps (s : State) (p : ℕ → Bool) : Keeps s (State.dropAdvice s p) := by
  unfold State.dropAdvice
  refine Keeps.foldl _ _ ?_ (fun u1 x2 => ?_)
  · beta_reduce
    exact Keeps.refl _
  · beta_reduce
    split
    · rename_i a3 a4 a5
      split
      · rename_i a6
        refine Keeps.trans ?_ (State.lessTiers_keeps ..)
        exact Keeps.refl _
      · rename_i a7
        exact Keeps.refl _
    · rename_i a8 a9
      exact Keeps.refl _

theorem State.dropCoreRegs_keeps (s : State) (p : Nat → Bool) : Keeps s (s.dropCoreRegs p) :=
  (State.dropAdvice_keeps s p).trans (Keeps.regs rfl (fun h => SMap.wf_filter _ _ _ h) rfl rfl rfl rfl)

theorem State.eraseKeys_keeps (s : State) : Keeps s (State.eraseKeys s) := by
  unfold State.eraseKeys
  extract_lets +onlyGivenNames x1
  clear_value x1
  extract_lets +onlyGivenNames x2
  have h3 : Keeps s x2 := by
    unfold x2
    refine Keeps.upd ?_ rfl rfl rfl
    exact Keeps.refl _
  clear_value x2
  refine Keeps.trans ?_ (State.put_keeps ..)
  refine Keeps.trans ?_ (State.put_keeps ..)
  assumption

theorem State.enterChrysalis_keeps (s : State) (cause : ℕ) : Keeps s (State.enterChrysalis s cause) := by
  unfold State.enterChrysalis
  extract_lets +onlyGivenNames x1
  extract_lets +onlyGivenNames x2
  have h3 : Keeps s x2 := by
    unfold x2
    refine Keeps.upd ?_ rfl rfl rfl
    exact Keeps.refl _
  clear_value x2
  extract_lets +onlyGivenNames x4
  have h5 : Keeps s x4 := by
    unfold x4
    refine Keeps.trans ?_ (State.put_keeps ..)
    refine Keeps.trans ?_ (State.putGlb_keeps ..)
    assumption
  clear_value x4
  extract_lets +onlyGivenNames x6
  clear_value x6
  extract_lets +onlyGivenNames x7
  clear_value x7
  extract_lets +onlyGivenNames x8
  have h9 : Keeps s x8 := by
    unfold x8
    refine Keeps.upd ?_ rfl rfl rfl
    assumption
  clear_value x8
  extract_lets +onlyGivenNames x10
  have h11 : Keeps s x10 := by
    unfold x10
    refine Keeps.trans ?_ (State.eraseKeys_keeps ..)
    assumption
  clear_value x10
  extract_lets +onlyGivenNames x12
  have h13 : Keeps s x12 := by
    unfold x12
    refine Keeps.trans ?_ (State.put_keeps ..)
    assumption
  clear_value x12
  extract_lets +onlyGivenNames x14
  have h15 : Keeps s x14 := by
    unfold x14
    refine Keeps.trans ?_ (State.put_keeps ..)
    assumption
  clear_value x14
  extract_lets +onlyGivenNames x16
  clear_value x16
  extract_lets +onlyGivenNames x17
  have h18 : Keeps s x17 := by
    unfold x17
    refine Keeps.upd ?_ rfl rfl rfl
    assumption
  clear_value x17
  extract_lets +onlyGivenNames x19
  have h20 : Keeps s x19 := by
    unfold x19
    refine Keeps.trans ?_ (State.logAppend_keeps ..)
    assumption
  clear_value x19
  split
  · rename_i a21
    exact Keeps.refl _
  · rename_i a22
    refine Keeps.trans ?_ (State.dropCoreRegs_keeps ..)
    refine Keeps.trans ?_ (State.put_keeps ..)
    refine Keeps.trans ?_ (State.put_keeps ..)
    refine Keeps.trans ?_ (State.put_keeps ..)
    assumption

theorem State.startRepair_keeps (s : State) (logical : ℕ) (core : ℕ) : Keeps s (State.startRepair s logical core) := by
  unfold State.startRepair
  split
  · rename_i a1 a2 a3
    extract_lets +onlyGivenNames x4
    clear_value x4
    extract_lets +onlyGivenNames x5
    have h6 : Keeps s x5 := by
      unfold x5
      refine Keeps.upd ?_ rfl rfl rfl
      exact Keeps.refl _
    clear_value x5
    refine Keeps.trans ?_ (State.putAt_keeps ..)
    refine Keeps.trans ?_ (State.putAt_keeps ..)
    assumption
  · rename_i a7 a8
    split
    · rename_i a9
      exact Keeps.refl _
    · rename_i a10
      refine Keeps.trans ?_ (State.enterChrysalis_keeps ..)
      exact Keeps.refl _

theorem State.dropCore_keeps (s : State) (core : ℕ) : Keeps s (State.dropCore s core) := by
  unfold State.dropCore
  extract_lets +onlyGivenNames x1
  clear_value x1
  extract_lets +onlyGivenNames x2
  clear_value x2
  refine Keeps.upd ?_ rfl rfl rfl
  exact Keeps.refl _

theorem State.fenceRegs_keeps (s : State) (core : ℕ) : Keeps s (State.fenceRegs s core) := by
  unfold State.fenceRegs
  extract_lets +onlyGivenNames x1
  have h2 : Keeps s x1 := by
    unfold x1
    refine Keeps.trans ?_ (State.putAt_keeps ..)
    refine Keeps.trans ?_ (State.putAt_keeps ..)
    refine Keeps.trans ?_ (State.putAt_keeps ..)
    exact Keeps.refl _
  clear_value x1
  extract_lets +onlyGivenNames x3
  have h4 : Keeps s x3 := by
    unfold x3
    refine Keeps.trans ?_ (State.putAt_keeps ..)
    refine Keeps.trans ?_ (State.putAt_keeps ..)
    refine Keeps.trans ?_ (State.putAt_keeps ..)
    assumption
  clear_value x3
  refine Keeps.trans ?_ (State.dropCoreRegs_keeps ..)
  assumption

theorem State.yieldRole_keeps (s : State) : Keeps s (State.yieldRole s) := by
  unfold State.yieldRole
  extract_lets +onlyGivenNames x1
  clear_value x1
  extract_lets +onlyGivenNames x2
  clear_value x2
  refine Keeps.upd ?_ rfl rfl rfl
  exact Keeps.refl _

theorem State.fenceCore_keeps (s : State) (core : ℕ) : Keeps s (State.fenceCore s core) := by
  unfold State.fenceCore
  extract_lets +onlyGivenNames x1
  clear_value x1
  extract_lets +onlyGivenNames x2
  clear_value x2
  extract_lets +onlyGivenNames x3
  clear_value x3
  extract_lets +onlyGivenNames x4
  have h5 : Keeps s x4 := by
    unfold x4
    refine Keeps.trans ?_ (State.settle_keeps ..)
    refine Keeps.trans ?_ (State.dropCore_keeps ..)
    refine Keeps.trans ?_ (State.fenceRegs_keeps ..)
    exact Keeps.refl _
  clear_value x4
  extract_lets +onlyGivenNames x6
  have h7 : Keeps s x6 := by
    unfold x6
    split
    · rename_i a8
      refine Keeps.trans ?_ (State.yieldRole_keeps ..)
      assumption
    · rename_i a9
      assumption
  clear_value x6
  extract_lets +onlyGivenNames x10
  have h11 : Keeps s x10 := by
    unfold x10
    refine Keeps.trans ?_ (State.logCoreMap_keeps ..)
    assumption
  clear_value x10
  extract_lets +onlyGivenNames x12
  have h13 : Keeps s x12 := by
    unfold x12
    split
    · rename_i a14 a15
      refine Keeps.trans ?_ (State.startRepair_keeps ..)
      assumption
    · rename_i a16
      split
      · rename_i a17 a18
        refine Keeps.trans ?_ (State.startRepair_keeps ..)
        assumption
      · rename_i a19
        assumption
  clear_value x12
  split
  · rename_i a20
    exact Keeps.refl _
  · rename_i a21
    refine Keeps.trans ?_ (State.reAdmit_keeps ..)
    refine Keeps.trans ?_ (State.countSpares_keeps ..)
    assumption

theorem State.applyFences_keeps (s : State) : Keeps s (State.applyFences s) := by
  unfold State.applyFences
  extract_lets +onlyGivenNames x1
  clear_value x1
  extract_lets +onlyGivenNames x2
  clear_value x2
  extract_lets +onlyGivenNames x3
  have h4 : Keeps s x3 := by
    unfold x3
    refine Keeps.upd ?_ rfl rfl rfl
    exact Keeps.refl _
  clear_value x3
  refine Keeps.foldl _ _ ?_ (fun u5 x6 => ?_)
  · beta_reduce
    assumption
  · beta_reduce
    split
    · rename_i a7
      refine Keeps.trans ?_ (State.fenceCore_keeps ..)
      exact Keeps.refl _
    · rename_i a8
      exact Keeps.refl _

theorem State.loadMasks_keeps (s : State) : Keeps s (State.loadMasks s) := by
  unfold State.loadMasks
  refine Keeps.foldl _ _ ?_ (fun u1 x2 => ?_)
  · beta_reduce
    exact Keeps.refl _
  · beta_reduce
    split
    · rename_i a3
      split
      · rename_i a4 a5 a6
        extract_lets +onlyGivenNames x7
        clear_value x7
        refine Keeps.trans ?_ (State.setToken_keeps ..)
        exact Keeps.refl _
      · rename_i a8 a9
        exact Keeps.refl _
    · rename_i a10
      exact Keeps.refl _

theorem State.takeOvers_keeps (s : State) : Keeps s (State.takeOvers s) := by
  unfold State.takeOvers
  extract_lets +onlyGivenNames x1
  clear_value x1
  extract_lets +onlyGivenNames x2
  clear_value x2
  extract_lets +onlyGivenNames x3
  have h4 : Keeps s x3 := by
    unfold x3
    refine Keeps.upd ?_ rfl rfl rfl
    exact Keeps.refl _
  clear_value x3
  split
  · rename_i a5
    assumption
  · rename_i a6
    refine Keeps.trans ?_ (State.loadMasks_keeps ..)
    refine Keeps.foldl _ _ ?_ (fun u7 x8 => ?_)
    · beta_reduce
      assumption
    · beta_reduce
      refine Keeps.trans ?_ (State.reAdmit_keeps ..)
      refine Keeps.trans ?_ (State.countSpares_keeps ..)
      refine Keeps.trans ?_ (State.logCoreMap_keeps ..)
      refine Keeps.trans ?_ (State.putAt_keeps ..)
      refine Keeps.trans ?_ (State.mapCore_keeps ..)
      exact Keeps.refl _

/-! ### Machine/StartOps.lean -/

theorem State.setPort_keeps (s : State) (p : ℕ) (x : Port) : Keeps s (State.setPort s p x) := by
  unfold State.setPort
  extract_lets +onlyGivenNames x1
  clear_value x1
  refine Keeps.upd ?_ rfl rfl rfl
  exact Keeps.refl _

theorem State.mapRegion_keeps (s : State) (r : Region) : Keeps s (State.mapRegion s r) := by
  unfold State.mapRegion
  extract_lets +onlyGivenNames x1
  clear_value x1
  extract_lets +onlyGivenNames x2
  clear_value x2
  extract_lets +onlyGivenNames x3
  extract_lets +onlyGivenNames x4
  clear_value x4
  extract_lets +onlyGivenNames x5
  clear_value x5
  extract_lets +onlyGivenNames x6
  clear_value x6
  extract_lets +onlyGivenNames x7
  have h8 : Keeps s x7 := by
    unfold x7
    refine Keeps.foldl _ _ ?_ (fun u9 x10 => ?_)
    · beta_reduce
      exact Keeps.refl _
    · beta_reduce
      refine Keeps.trans ?_ (State.mapCore_keeps ..)
      exact Keeps.refl _
  clear_value x7
  refine Keeps.foldl _ _ ?_ (fun u11 x12 => ?_)
  · beta_reduce
    assumption
  · beta_reduce
    refine Keeps.trans ?_ (State.putAt_keeps ..)
    exact Keeps.refl _

theorem State.regionRegs_keeps (s : State) (c : ℕ) : Keeps s (State.regionRegs s c) := by
  unfold State.regionRegs
  split
  · rename_i a1 a2
    exact Keeps.refl _
  · rename_i a3 a4 a5
    extract_lets +onlyGivenNames x6
    have h7 : Keeps s x6 := by
      unfold x6
      refine Keeps.trans ?_ (State.putAt_keeps ..)
      exact Keeps.refl _
    clear_value x6
    extract_lets +onlyGivenNames x8
    have h9 : Keeps s x8 := by
      unfold x8
      refine Keeps.trans ?_ (State.putAt_keeps ..)
      assumption
    clear_value x8
    extract_lets +onlyGivenNames x10
    have h11 : Keeps s x10 := by
      unfold x10
      refine Keeps.trans ?_ (State.flagAt_keeps ..)
      assumption
    clear_value x10
    extract_lets +onlyGivenNames x12
    have h13 : Keeps s x12 := by
      unfold x12
      refine Keeps.trans ?_ (State.flagAt_keeps ..)
      assumption
    clear_value x12
    refine Keeps.trans ?_ (State.flagAt_keeps ..)
    assumption

theorem State.regionSetup_keeps (s : State) : Keeps s (State.regionSetup s) := by
  unfold State.regionSetup
  extract_lets +onlyGivenNames x1
  have h2 : Keeps s x1 := by
    unfold x1
    refine Keeps.foldl _ _ ?_ (fun u3 x4 => ?_)
    · beta_reduce
      exact Keeps.refl _
    · beta_reduce
      refine Keeps.trans ?_ (State.regionRegs_keeps ..)
      exact Keeps.refl _
  clear_value x1
  extract_lets +onlyGivenNames x5
  clear_value x5
  extract_lets +onlyGivenNames x6
  have h7 : Keeps s x6 := by
    unfold x6
    refine Keeps.foldl _ _ ?_ (fun u8 x9 => ?_)
    · beta_reduce
      refine Keeps.upd ?_ rfl rfl rfl
      assumption
    · beta_reduce
      refine Keeps.trans ?_ (State.mapRegion_keeps ..)
      exact Keeps.refl _
  clear_value x6
  extract_lets +onlyGivenNames x10
  have h11 : Keeps s x10 := by
    unfold x10
    refine Keeps.foldl _ _ ?_ (fun u12 x13 => ?_)
    · beta_reduce
      assumption
    · beta_reduce
      split
      · rename_i a14
        exact Keeps.refl _
      · rename_i a15
        refine Keeps.trans ?_ (State.logCoreMap_keeps ..)
        exact Keeps.refl _
  clear_value x10
  refine Keeps.trans ?_ (State.countSpares_keeps ..)
  assumption

theorem State.takeAssign_keeps (s : State) : Keeps s (State.takeAssign s) := by
  unfold State.takeAssign
  split
  rename_i a1 a2 a3 a4 a5
  refine Keeps.trans ?_ (State.put_keeps ..)
  refine Keeps.trans ?_ (State.put_keeps ..)
  refine Keeps.trans ?_ (State.put_keeps ..)
  exact Keeps.refl _

theorem State.assignTile_keeps (s : State) (core : ℕ) (d : TileDecl) (kind : ℕ) (cur : ℕ) (epoch : ℕ) : Keeps s (State.assignTile s core d kind cur epoch) := by
  unfold State.assignTile
  extract_lets +onlyGivenNames x1
  clear_value x1
  extract_lets +onlyGivenNames x2
  clear_value x2
  extract_lets +onlyGivenNames x3
  clear_value x3
  extract_lets +onlyGivenNames x4
  have h5 : Keeps s x4 := by
    unfold x4
    refine Keeps.foldl _ _ ?_ (fun u6 x7 => ?_)
    · beta_reduce
      exact Keeps.refl _
    · beta_reduce
      refine Keeps.trans ?_ (State.setRole_keeps ..)
      exact Keeps.refl _
  clear_value x4
  extract_lets +onlyGivenNames x8
  clear_value x8
  extract_lets +onlyGivenNames x9
  clear_value x9
  extract_lets +onlyGivenNames x10
  have h11 : Keeps s x10 := by
    unfold x10
    split
    · rename_i a12 a13
      refine Keeps.trans ?_ (State.setRole_keeps ..)
      assumption
    · rename_i a14
      assumption
  clear_value x10
  extract_lets +onlyGivenNames x15
  have h16 : Keeps s x15 := by
    unfold x15
    split
    · rename_i a17 a18
      refine Keeps.trans ?_ (State.setRole_keeps ..)
      assumption
    · rename_i a19
      assumption
  clear_value x15
  split
  · rename_i a20 a21
    extract_lets +onlyGivenNames x22
    refine Keeps.upd ?_ rfl rfl rfl
    assumption
  · rename_i a23 a24 a25
    assumption

theorem State.assignCorpus_keeps (s : State) (c : Corpus) : Keeps s (State.assignCorpus s c) := by
  unfold State.assignCorpus
  extract_lets +onlyGivenNames x1
  clear_value x1
  extract_lets +onlyGivenNames x2
  clear_value x2
  extract_lets +onlyGivenNames x3
  clear_value x3
  extract_lets +onlyGivenNames x4
  have h5 : Keeps s x4 := by
    unfold x4
    refine Keeps.foldl _ _ ?_ (fun u6 x7 => ?_)
    · beta_reduce
      exact Keeps.refl _
    · beta_reduce
      split
      · rename_i a8 a9
        exact Keeps.refl _
      · rename_i a10 a11 a12
        extract_lets +onlyGivenNames x13
        have h14 : Keeps u6 x13 := by
          unfold x13
          split
          · rename_i a15 a16 a17
            split
            · rename_i a18
              exact Keeps.refl _
            · rename_i a19
              refine Keeps.trans ?_ (State.setRole_keeps ..)
              exact Keeps.refl _
          · rename_i a20 a21
            exact Keeps.refl _
        clear_value x13
        refine Keeps.foldl _ _ ?_ (fun u22 x23 => ?_)
        · beta_reduce
          assumption
        · beta_reduce
          refine Keeps.trans ?_ (State.setRole_keeps ..)
          exact Keeps.refl _
  clear_value x4
  extract_lets +onlyGivenNames x24
  clear_value x24
  split
  · rename_i a25
    assumption
  · rename_i a26
    refine Keeps.upd ?_ rfl rfl rfl
    assumption

theorem State.assignRoles_keeps (s : State) : Keeps s (State.assignRoles s) := by
  unfold State.assignRoles
  extract_lets +onlyGivenNames x1
  clear_value x1
  extract_lets +onlyGivenNames x2
  clear_value x2
  extract_lets +onlyGivenNames x3
  extract_lets +onlyGivenNames x4
  have h5 : Keeps s x4 := by
    unfold x4
    refine Keeps.upd ?_ rfl rfl rfl
    exact Keeps.refl _
  clear_value x4
  extract_lets +onlyGivenNames x6
  have h7 : Keeps s x6 := by
    unfold x6
    refine Keeps.foldl _ _ ?_ (fun u8 x9 => ?_)
    · beta_reduce
      assumption
    · beta_reduce
      split
      · rename_i a10
        refine Keeps.trans ?_ (State.setRole_keeps ..)
        exact Keeps.refl _
      · rename_i a11
        refine Keeps.trans ?_ (State.setRole_keeps ..)
        exact Keeps.refl _
  clear_value x6
  extract_lets +onlyGivenNames x12
  have h13 : Keeps s x12 := by
    unfold x12
    refine Keeps.foldl _ _ ?_ (fun u14 x15 => ?_)
    · beta_reduce
      assumption
    · beta_reduce
      split
      · rename_i a16 a17
        exact Keeps.refl _
      · rename_i a18 a19 a20
        split
        · rename_i a21
          exact Keeps.refl _
        · rename_i a22
          split
          · rename_i a23
            refine Keeps.trans ?_ (State.assignTile_keeps ..)
            exact Keeps.refl _
          · rename_i a24
            refine Keeps.trans ?_ (State.assignTile_keeps ..)
            exact Keeps.refl _
  clear_value x12
  refine Keeps.foldl _ _ ?_ (fun u25 x26 => ?_)
  · beta_reduce
    assumption
  · beta_reduce
    refine Keeps.trans ?_ (State.assignCorpus_keeps ..)
    exact Keeps.refl _

theorem State.wantStart_keeps (s : State) : Keeps s (State.wantStart s) := by
  unfold State.wantStart
  extract_lets +onlyGivenNames x1
  clear_value x1
  split
  · rename_i a2
    refine Keeps.upd ?_ rfl rfl rfl
    exact Keeps.refl _
  · rename_i a3
    exact Keeps.refl _

theorem State.noteUnadmitted_keeps (s : State) : Keeps s (State.noteUnadmitted s) := by
  unfold State.noteUnadmitted
  split
  · rename_i a1
    refine Keeps.trans ?_ (State.logAppend_keeps ..)
    exact Keeps.refl _
  · rename_i a2
    exact Keeps.refl _

/-- A step of the start keeps the queue and the invariant. -/
theorem State.stepOnce_keeps (s t : State) (h : s.stepOnce = some t) : Keeps s t := by
  unfold State.stepOnce at h
  extract_lets dn at h
  have hd : ∀ n u, dn n u = some t → Keeps u t := by
    intro n u hu
    have : u.putGlb GLB_STATE_STEP n = t := Option.some.inj hu
    exact this ▸ State.putGlb_keeps ..
  split at h
  · cases h
  · split at h
    · split at h
      · exact hd _ _ h
      · cases h
    · split at h
      · exact hd _ _ h
      · cases h
    · exact (State.regionSetup_keeps s).trans (hd _ _ h)
    · split at h
      · cases h
      · split at h
        · exact Option.some.inj h ▸ State.reAdmit_keeps ..
        · split at h
          · cases h
          · exact hd _ _ h
    · split at h
      · exact (State.takeAssign_keeps s).trans (hd _ _ h)
      · cases h
    · split at h
      · exact hd _ _ h
      · cases h
    · split at h
      · exact ((State.wantStart_keeps s).trans (State.noteUnadmitted_keeps _)).trans (hd _ _ h)
      · cases h
    · split at h
      · exact (State.putGlb_keeps s GLB_STATE_STATE 1).trans (hd _ _ h)
      · cases h
    · cases h

theorem State.advanceN_keeps (n : Nat) (s : State) : Keeps s (State.advanceN n s) := by
  induction n generalizing s with
  | zero => exact Keeps.refl s
  | succ n ih =>
    unfold State.advanceN
    split
    · rename_i t h
      exact (State.stepOnce_keeps s t h).trans (ih t)
    · exact Keeps.refl s

theorem State.advanceStart_keeps (s : State) : Keeps s (State.advanceStart s) := by
  unfold State.advanceStart
  extract_lets +onlyGivenNames x1
  have h2 : Keeps s x1 := by
    unfold x1
    refine Keeps.trans ?_ (State.advanceN_keeps ..)
    exact Keeps.refl _
  clear_value x1
  split
  · rename_i a3
    assumption
  · rename_i a4
    refine Keeps.trans ?_ (State.putGlb_keeps ..)
    assumption

theorem State.startSequencers_keeps (s : State) : Keeps s (State.startSequencers s) := by
  unfold State.startSequencers
  split
  · rename_i a1 a2
    exact Keeps.refl _
  · rename_i a3 a4 a5
    extract_lets +onlyGivenNames x6
    clear_value x6
    extract_lets +onlyGivenNames x7
    extract_lets +onlyGivenNames x8
    clear_value x8
    extract_lets +onlyGivenNames x9
    have h10 : Keeps s x9 := by
      unfold x9
      refine Keeps.upd ?_ rfl rfl rfl
      exact Keeps.refl _
    clear_value x9
    extract_lets +onlyGivenNames x11
    have h12 : Keeps s x11 := by
      unfold x11
      refine Keeps.trans ?_ (State.put_keeps ..)
      refine Keeps.trans ?_ (State.put_keeps ..)
      refine Keeps.trans ?_ (State.put_keeps ..)
      refine Keeps.trans ?_ (State.put_keeps ..)
      assumption
    clear_value x11
    extract_lets +onlyGivenNames x13
    have h14 : Keeps s x13 := by
      unfold x13
      refine Keeps.trans ?_ (State.put_keeps ..)
      assumption
    clear_value x13
    extract_lets +onlyGivenNames x15
    have h16 : Keeps s x15 := by
      unfold x15
      split
      · rename_i a17
        refine Keeps.trans ?_ (State.logAppend_keeps ..)
        assumption
      · rename_i a18
        assumption
    clear_value x15
    split
    · rename_i a19
      exact Keeps.refl _
    · rename_i a20
      refine Keeps.trans ?_ (State.advanceStart_keeps ..)
      refine Keeps.trans ?_ (State.loadMasks_keeps ..)
      split
      · rename_i a21
        refine Keeps.trans ?_ (State.put_keeps ..)
        assumption
      · rename_i a22
        assumption

/-! ### Machine/EngineOps.lean -/

theorem State.setTierCal_keeps (s : State) (core : ℕ) (eng : ℕ) (tier : ℕ) (c : TierCal) : Keeps s (State.setTierCal s core eng tier c) := by
  unfold State.setTierCal
  extract_lets +onlyGivenNames x1
  clear_value x1
  refine Keeps.upd ?_ rfl rfl rfl
  exact Keeps.refl _

theorem State.setBand_keeps (s : State) (core : ℕ) (eng : ℕ) (tier : ℕ) (band : ℕ) (b : TierBand) : Keeps s (State.setBand s core eng tier band b) := by
  unfold State.setBand
  extract_lets +onlyGivenNames x1
  clear_value x1
  refine Keeps.upd ?_ rfl rfl rfl
  exact Keeps.refl _

theorem State.setConv_keeps (s : State) (core : ℕ) (eng : ℕ) (band : ℕ) (conv : ℕ) (c : Conv) : Keeps s (State.setConv s core eng band conv c) := by
  unfold State.setConv
  extract_lets +onlyGivenNames x1
  clear_value x1
  refine Keeps.upd ?_ rfl rfl rfl
  exact Keeps.refl _

theorem State.setEngCal_keeps (s : State) (core : ℕ) (eng : ℕ) (c : EngCal) : Keeps s (State.setEngCal s core eng c) := by
  unfold State.setEngCal
  extract_lets +onlyGivenNames x1
  clear_value x1
  refine Keeps.upd ?_ rfl rfl rfl
  exact Keeps.refl _

theorem State.countSat_keeps (s : State) (core : ℕ) (eng : ℕ) (n : ℕ) : Keeps s (State.countSat s core eng n) := by
  unfold State.countSat
  refine Keeps.trans ?_ (State.addAt_keeps ..)
  exact Keeps.refl _

theorem State.countCodes_keeps (s : State) (b : BeatRun) (m : SMap ℕ) : Keeps s (State.countCodes s b m) := by
  unfold State.countCodes
  extract_lets +onlyGivenNames x1
  clear_value x1
  extract_lets +onlyGivenNames x2
  clear_value x2
  extract_lets +onlyGivenNames x3
  clear_value x3
  extract_lets +onlyGivenNames x4
  clear_value x4
  extract_lets +onlyGivenNames x5
  have h6 : Keeps s x5 := by
    unfold x5
    refine Keeps.trans ?_ (State.addAt_keeps ..)
    refine Keeps.trans ?_ (State.countSat_keeps ..)
    exact Keeps.refl _
  clear_value x5
  refine Keeps.trans ?_ (State.raiseIfAt_keeps ..)
  assumption

theorem State.storeBytes_keeps (s : State) (core addr : Nat) (bs : List Byte) : Keeps s (s.storeBytes core addr bs) :=
  ⟨rfl, fun i => ⟨⟨i.1.1, SMap.wf_setRange _ _ _ _ i.1.2, i.1.3, i.1.4⟩, i.2⟩⟩

end Sys2Proof.Machine
end

