-- ==== Sys2Proof/Laws/Keeps2.lean ====
section
/-! SUPPORT. The operations and meanings of Machine leave the queue alone and keep the invariant: Store, AssizeOps, Variants. -/
namespace Sys2Proof.Machine

/-! ### Machine/Store.lean -/

theorem State.csCorrected_keeps (s : State) (core : ℕ) : Keeps s (State.csCorrected s core) := by
  unfold State.csCorrected
  refine Keeps.trans ?_ (State.putAt_keeps ..)
  refine Keeps.trans ?_ (State.addAt_keeps ..)
  exact Keeps.refl _

theorem State.csUncorrectable_keeps (s : State) (core : ℕ) (addr : ℕ) (injected : Bool) : Keeps s (State.csUncorrectable s core addr injected) := by
  unfold State.csUncorrectable
  extract_lets +onlyGivenNames x1
  clear_value x1
  extract_lets +onlyGivenNames x2
  have h3 : Keeps s x2 := by
    unfold x2
    refine Keeps.trans ?_ (State.putAt_keeps ..)
    refine Keeps.trans ?_ (State.addAt_keeps ..)
    exact Keeps.refl _
  clear_value x2
  extract_lets +onlyGivenNames x4
  clear_value x4
  extract_lets +onlyGivenNames x5
  clear_value x5
  extract_lets +onlyGivenNames x6
  extract_lets +onlyGivenNames x7
  have h8 : Keeps s x7 := by
    unfold x7
    refine Keeps.upd ?_ rfl rfl rfl
    assumption
  clear_value x7
  extract_lets +onlyGivenNames x9
  clear_value x9
  split
  · rename_i a10
    split
    · rename_i a11
      refine Keeps.trans ?_ (State.escalate_keeps ..)
      assumption
    · rename_i a12
      assumption
  · rename_i a13
    split
    · rename_i a14
      refine Keeps.upd ?_ rfl rfl rfl
      assumption
    · rename_i a15
      refine Keeps.upd ?_ rfl rfl rfl
      assumption

theorem State.csRead_keeps (s : State) (core : ℕ) (ranges : List (ℕ × ℕ)) (ecc : Upsets) : Keeps s (State.csRead s core ranges ecc).1 := by
  unfold State.csRead
  extract_lets +onlyGivenNames x1
  clear_value x1
  extract_lets +onlyGivenNames x2
  clear_value x2
  split
  rename_i a3 a4 a5 a6
  have h7 : Keeps s a4 := by
    refine Keeps.fst a6 ?_
    split
    · rename_i a8
      have h9 : Keeps s a4 := by
        refine Keeps.fst a6 ?_
        split
        · rename_i a10 a11
          dsimp only
          exact Keeps.refl _
        · rename_i a12 a13
          dsimp only
          exact Keeps.refl _
      dsimp only
      exact Keeps.refl _
    · rename_i a14 a15
      refine Keeps.trans ?_ (State.tryInject_keeps ..)
      exact Keeps.refl _
  extract_lets +onlyGivenNames x16
  clear_value x16
  split
  rename_i a17 a18 a19 a20
  have h21 : Keeps s a18 := by
    refine Keeps.fst a20 ?_
    split
    · rename_i a22
      have h23 : Keeps s a4 := by
        refine Keeps.fst a6 ?_
        split
        · rename_i a24
          have h25 : Keeps s a4 := by
            refine Keeps.fst a6 ?_
            split
            · rename_i a26 a27
              dsimp only
              exact Keeps.refl _
            · rename_i a28 a29
              dsimp only
              exact Keeps.refl _
          dsimp only
          exact Keeps.refl _
        · rename_i a30 a31
          refine Keeps.trans ?_ (State.tryInject_keeps ..)
          exact Keeps.refl _
      have h32 : Keeps s a18 := by
        refine Keeps.fst a20 ?_
        split
        · rename_i a33 a34
          dsimp only
          refine Keeps.trans ?_ (State.csCorrected_keeps ..)
          assumption
        · rename_i a35 a36 a37 a38
          dsimp only
          refine Keeps.trans ?_ (State.csUncorrectable_keeps ..)
          assumption
        · rename_i a39 a40
          dsimp only
          assumption
      dsimp only
      refine Keeps.trans ?_ (State.csCorrected_keeps ..)
      assumption
    · rename_i a41 a42 a43
      have h44 : Keeps s a4 := by
        refine Keeps.fst a6 ?_
        split
        · rename_i a45
          have h46 : Keeps s a4 := by
            refine Keeps.fst a6 ?_
            split
            · rename_i a47 a48
              dsimp only
              exact Keeps.refl _
            · rename_i a49 a50
              dsimp only
              exact Keeps.refl _
          dsimp only
          exact Keeps.refl _
        · rename_i a51 a52
          refine Keeps.trans ?_ (State.tryInject_keeps ..)
          exact Keeps.refl _
      have h53 : Keeps s a18 := by
        refine Keeps.fst a20 ?_
        split
        · rename_i a54 a55
          dsimp only
          refine Keeps.trans ?_ (State.csCorrected_keeps ..)
          assumption
        · rename_i a56 a57 a58 a59
          dsimp only
          refine Keeps.trans ?_ (State.csUncorrectable_keeps ..)
          assumption
        · rename_i a60 a61
          dsimp only
          assumption
      dsimp only
      refine Keeps.trans ?_ (State.csUncorrectable_keeps ..)
      assumption
    · rename_i a62
      have h63 : Keeps s a4 := by
        refine Keeps.fst a6 ?_
        split
        · rename_i a64
          have h65 : Keeps s a4 := by
            refine Keeps.fst a6 ?_
            split
            · rename_i a66 a67
              dsimp only
              exact Keeps.refl _
            · rename_i a68 a69
              dsimp only
              exact Keeps.refl _
          dsimp only
          exact Keeps.refl _
        · rename_i a70 a71
          refine Keeps.trans ?_ (State.tryInject_keeps ..)
          exact Keeps.refl _
      have h72 : Keeps s a18 := by
        refine Keeps.fst a20 ?_
        split
        · rename_i a73 a74
          dsimp only
          refine Keeps.trans ?_ (State.csCorrected_keeps ..)
          assumption
        · rename_i a75 a76 a77 a78
          dsimp only
          refine Keeps.trans ?_ (State.csUncorrectable_keeps ..)
          assumption
        · rename_i a79 a80
          dsimp only
          assumption
      dsimp only
      assumption
  refine Keeps.foldlFst _ _ ?_ (fun u81 x82 => ?_)
  · beta_reduce
    dsimp only
    assumption
  · beta_reduce
    split
    · rename_i a83
      dsimp only
      refine Keeps.trans ?_ (State.csUncorrectable_keeps ..)
      exact Keeps.refl _
    · rename_i a84
      dsimp only
      refine Keeps.trans ?_ (State.csCorrected_keeps ..)
      exact Keeps.refl _

theorem State.setAdSlot_keeps (s : State) (k : ℕ) (a : AdSlot) : Keeps s (State.setAdSlot s k a) := by
  unfold State.setAdSlot
  extract_lets +onlyGivenNames x1
  clear_value x1
  refine Keeps.upd ?_ rfl rfl rfl
  exact Keeps.refl _

theorem State.copyStatic_keeps (s : State) (r : Region) (x : StoreRegion) : Keeps s (State.copyStatic s r x) := by
  unfold State.copyStatic
  split
  · rename_i a1 a2 a3 a4 a5 a6
    refine Keeps.trans ?_ (State.stackWrite_keeps ..)
    exact Keeps.refl _
  · rename_i a7 a8 a9
    exact Keeps.refl _

theorem State.fillRestore_keeps (s : State) : Keeps s (State.fillRestore s) := by
  unfold State.fillRestore
  refine Keeps.foldl _ _ ?_ (fun u1 x2 => ?_)
  · beta_reduce
    exact Keeps.refl _
  · beta_reduce
    refine Keeps.foldl _ _ ?_ (fun u3 x4 => ?_)
    · beta_reduce
      exact Keeps.refl _
    · beta_reduce
      refine Keeps.trans ?_ (State.copyStatic_keeps ..)
      exact Keeps.refl _

theorem State.refillRestore_keeps (s : State) (addr : ℕ) : Keeps s (State.refillRestore s addr) := by
  unfold State.refillRestore
  refine Keeps.foldl _ _ ?_ (fun u1 x2 => ?_)
  · beta_reduce
    exact Keeps.refl _
  · beta_reduce
    refine Keeps.foldl _ _ ?_ (fun u3 x4 => ?_)
    · beta_reduce
      exact Keeps.refl _
    · beta_reduce
      split
      · rename_i a5 a6 a7 a8 a9 a10
        refine Keeps.foldl _ _ ?_ (fun u11 x12 => ?_)
        · beta_reduce
          exact Keeps.refl _
        · beta_reduce
          refine Keeps.trans ?_ (State.stackWrite_keeps ..)
          exact Keeps.refl _
      · rename_i a13 a14 a15
        exact Keeps.refl _

theorem State.adapterLost_keeps (s : State) (k : ℕ) : Keeps s (State.adapterLost s k) := by
  unfold State.adapterLost
  extract_lets +onlyGivenNames x1
  clear_value x1
  extract_lets +onlyGivenNames x2
  extract_lets +onlyGivenNames x3
  clear_value x3
  extract_lets +onlyGivenNames x4
  have h5 : Keeps s x4 := by
    unfold x4
    refine Keeps.trans ?_ (State.setAdSlot_keeps ..)
    exact Keeps.refl _
  clear_value x4
  extract_lets +onlyGivenNames x6
  clear_value x6
  split
  · rename_i a7
    refine Keeps.upd ?_ rfl rfl rfl
    exact Keeps.refl _
  · rename_i a8
    split
    · rename_i a9
      refine Keeps.upd ?_ rfl rfl rfl
      assumption
    · rename_i a10
      exact Keeps.refl _

theorem State.lineLost_keeps (s : State) (addr : ℕ) : Keeps s (State.lineLost s addr) := by
  unfold State.lineLost
  split
  · rename_i a1 a2 a3 a4
    extract_lets +onlyGivenNames x5
    refine Keeps.trans ?_ (State.drain_keeps ..)
    refine Keeps.upd ?_ rfl rfl rfl
    exact Keeps.refl _
  · rename_i a6 a7 a8
    refine Keeps.trans ?_ (State.drain_keeps ..)
    exact Keeps.refl _
  · rename_i a9 a10 a11
    refine Keeps.trans ?_ (State.drain_keeps ..)
    exact Keeps.refl _
  · rename_i a12 a13 a14
    refine Keeps.trans ?_ (State.adapterLost_keeps ..)
    exact Keeps.refl _
  · rename_i a15 a16
    extract_lets +onlyGivenNames x17
    clear_value x17
    refine Keeps.upd ?_ rfl rfl rfl
    exact Keeps.refl _
  · rename_i a18 a19
    refine Keeps.trans ?_ (State.refillRestore_keeps ..)
    exact Keeps.refl _

theorem State.countLines_keeps (s : State) (st : ℕ) (n : ℕ) : Keeps s (State.countLines s st n) := by
  unfold State.countLines
  extract_lets +onlyGivenNames x1
  refine Keeps.upd ?_ rfl rfl rfl
  exact Keeps.refl _

theorem State.stackErrors_keeps (s : State) (addr : ℕ) (ecc : Upsets) : Keeps s (State.stackErrors s addr ecc).1 := by
  unfold State.stackErrors
  extract_lets +onlyGivenNames x1
  clear_value x1
  split
  rename_i a2 a3 a4 a5
  have h6 : Keeps s a3 := by
    refine Keeps.fst a5 ?_
    refine Keeps.trans ?_ (State.tryInject_keeps ..)
    exact Keeps.refl _
  extract_lets +onlyGivenNames x7
  clear_value x7
  refine Keeps.foldlFst _ _ ?_ (fun u8 x9 => ?_)
  · beta_reduce
    dsimp only
    assumption
  · beta_reduce
    split
    · rename_i a10
      dsimp only
      refine Keeps.trans ?_ (State.lineLost_keeps ..)
      refine Keeps.trans ?_ (State.addAt_keeps ..)
      exact Keeps.refl _
    · rename_i a11
      dsimp only
      refine Keeps.trans ?_ (State.addAt_keeps ..)
      exact Keeps.refl _

theorem State.darkLines_keeps (s : State) (addr : ℕ) (lines : ℕ) : Keeps s (State.darkLines s addr lines) := by
  unfold State.darkLines
  refine Keeps.foldl _ _ ?_ (fun u1 x2 => ?_)
  · beta_reduce
    exact Keeps.refl _
  · beta_reduce
    refine Keeps.trans ?_ (State.lineLost_keeps ..)
    refine Keeps.trans ?_ (State.addAt_keeps ..)
    exact Keeps.refl _

theorem State.poolTake_keeps (s : State) (region : ℕ) (bytes : ℕ) : Keeps s (State.poolTake s region bytes).1 := by
  unfold State.poolTake
  split
  · rename_i a1 a2 a3
    extract_lets +onlyGivenNames x4
    dsimp only
    refine Keeps.upd ?_ rfl rfl rfl
    exact Keeps.refl _
  · rename_i a5 a6
    extract_lets +onlyGivenNames x7
    clear_value x7
    extract_lets +onlyGivenNames x8
    clear_value x8
    extract_lets +onlyGivenNames x9
    dsimp only
    refine Keeps.upd ?_ rfl rfl rfl
    exact Keeps.refl _

theorem State.reserve_keeps (s : State) (region : ℕ) (n : ℕ) : Keeps s (State.reserve s region n) := by
  unfold State.reserve
  extract_lets +onlyGivenNames x1
  refine Keeps.upd ?_ rfl rfl rfl
  exact Keeps.refl _

theorem State.allocTables_keeps (s : State) (slot : ℕ) : Keeps s (State.allocTables s slot) := by
  unfold State.allocTables
  extract_lets +onlyGivenNames x1
  clear_value x1
  extract_lets +onlyGivenNames x2
  clear_value x2
  extract_lets +onlyGivenNames x3
  clear_value x3
  split
  rename_i a4 a5 a6 a7
  have h8 : Keeps s a5 := by
    refine Keeps.fst a7 ?_
    split
    · rename_i a9
      dsimp only
      exact Keeps.refl _
    · rename_i a10
      split
      rename_i a11 a12 a13 a14
      have h15 : Keeps s a12 := by
        refine Keeps.fst a14 ?_
        refine Keeps.trans ?_ (State.poolTake_keeps ..)
        exact Keeps.refl _
      extract_lets +onlyGivenNames x16
      have h17 : Keeps s x16 := by
        unfold x16
        refine Keeps.trans ?_ (State.stackWrite_keeps ..)
        assumption
      extract_lets +onlyGivenNames x18
      dsimp only
      refine Keeps.upd ?_ rfl rfl rfl
      assumption
  extract_lets +onlyGivenNames x19
  clear_value x19
  split
  rename_i a20 a21 a22 a23
  have h24 : Keeps s a21 := by
    refine Keeps.fst a23 ?_
    split
    · rename_i a25
      split
      rename_i a26 a27 a28 a29
      have h30 : Keeps s a27 := by
        refine Keeps.fst a29 ?_
        refine Keeps.trans ?_ (State.poolTake_keeps ..)
        assumption
      extract_lets +onlyGivenNames x31
      have h32 : Keeps s x31 := by
        unfold x31
        refine Keeps.trans ?_ (State.stackWrite_keeps ..)
        assumption
      extract_lets +onlyGivenNames x33
      dsimp only
      refine Keeps.upd ?_ rfl rfl rfl
      assumption
    · rename_i a34
      dsimp only
      assumption
  refine Keeps.trans ?_ (State.setReq_keeps ..)
  assumption

theorem State.mapPage_keeps (s : State) (slot : ℕ) (l : KvLayer) (g : ℕ) : Keeps s (State.mapPage s slot l g) := by
  unfold State.mapPage
  extract_lets +onlyGivenNames x1
  clear_value x1
  extract_lets +onlyGivenNames x2
  clear_value x2
  extract_lets +onlyGivenNames x3
  clear_value x3
  extract_lets +onlyGivenNames x4
  have h5 : Keeps s x4 := by
    unfold x4
    split
    · rename_i a6
      exact Keeps.refl _
    · rename_i a7
      split
      rename_i a8 a9 a10 a11
      have h12 : Keeps s a9 := by
        refine Keeps.fst a11 ?_
        refine Keeps.trans ?_ (State.poolTake_keeps ..)
        exact Keeps.refl _
      extract_lets +onlyGivenNames x13
      have h14 : Keeps s x13 := by
        unfold x13
        refine Keeps.trans ?_ (State.stackWrite_keeps ..)
        refine Keeps.trans ?_ (State.stackWrite_keeps ..)
        assumption
      clear_value x13
      extract_lets +onlyGivenNames x15
      refine Keeps.upd ?_ rfl rfl rfl
      assumption
  clear_value x4
  extract_lets +onlyGivenNames x16
  clear_value x16
  split
  · rename_i a17
    exact Keeps.refl _
  · rename_i a18
    split
    rename_i a19 a20 a21 a22
    have h23 : Keeps s a20 := by
      refine Keeps.fst a22 ?_
      refine Keeps.trans ?_ (State.poolTake_keeps ..)
      assumption
    extract_lets +onlyGivenNames x24
    have h25 : Keeps s x24 := by
      unfold x24
      refine Keeps.trans ?_ (State.stackWrite_keeps ..)
      assumption
    clear_value x24
    extract_lets +onlyGivenNames x26
    refine Keeps.upd ?_ rfl rfl rfl
    assumption

theorem State.mapBelow_keeps (s : State) (slot : ℕ) (n : ℕ) : Keeps s (State.mapBelow s slot n) := by
  unfold State.mapBelow
  extract_lets +onlyGivenNames x1
  clear_value x1
  extract_lets +onlyGivenNames x2
  clear_value x2
  refine Keeps.foldl _ _ ?_ (fun u3 x4 => ?_)
  · beta_reduce
    exact Keeps.refl _
  · beta_reduce
    refine Keeps.foldl _ _ ?_ (fun u5 x6 => ?_)
    · beta_reduce
      exact Keeps.refl _
    · beta_reduce
      refine Keeps.trans ?_ (State.mapPage_keeps ..)
      exact Keeps.refl _

theorem State.releasePages_keeps (s : State) (slot : ℕ) (need : ℕ) : Keeps s (State.releasePages s slot need) := by
  unfold State.releasePages
  extract_lets +onlyGivenNames x1
  clear_value x1
  extract_lets +onlyGivenNames x2
  clear_value x2
  extract_lets +onlyGivenNames x3
  clear_value x3
  extract_lets +onlyGivenNames x4
  clear_value x4
  extract_lets +onlyGivenNames x5
  refine Keeps.upd ?_ rfl rfl rfl
  exact Keeps.refl _

theorem State.setPageUnit_keeps (s : State) (core : ℕ) (u : PageUnit) : Keeps s (State.setPageUnit s core u) := by
  unfold State.setPageUnit
  extract_lets +onlyGivenNames x1
  refine Keeps.upd ?_ rfl rfl rfl
  exact Keeps.refl _

theorem State.readEntry_keeps (s : State) (core : ℕ) (addr : ℕ) (ecc : Upsets) : Keeps s (State.readEntry s core addr ecc).1 := by
  unfold State.readEntry
  extract_lets +onlyGivenNames x1
  clear_value x1
  extract_lets +onlyGivenNames x2
  have h3 : Keeps s x2 := by
    unfold x2
    refine Keeps.trans ?_ (State.countLines_keeps ..)
    exact Keeps.refl _
  clear_value x2
  split
  · rename_i a4
    dsimp only
    refine Keeps.trans ?_ (State.addAt_keeps ..)
    exact Keeps.refl _
  · rename_i a5
    split
    · rename_i a6
      dsimp only
      refine Keeps.trans ?_ (State.darkLines_keeps ..)
      assumption
    · rename_i a7
      split
      rename_i a8 a9 a10 a11
      have h12 : Keeps s a9 := by
        refine Keeps.fst a11 ?_
        refine Keeps.trans ?_ (State.stackErrors_keeps ..)
        assumption
      split
      · rename_i a13
        dsimp only
        assumption
      · rename_i a14
        dsimp only
        refine Keeps.trans ?_ (State.setPageUnit_keeps ..)
        assumption

theorem State.pageExc_keeps (s : State) (core : ℕ) (slot : ℕ) (gen : ℕ) (loc : ℕ) (page : ℕ) (mismatch : Bool) : Keeps s (State.pageExc s core slot gen loc page mismatch) := by
  unfold State.pageExc
  extract_lets +onlyGivenNames x1
  have h2 : Keeps s x1 := by
    unfold x1
    refine Keeps.trans ?_ (State.putAt_keeps ..)
    exact Keeps.refl _
  clear_value x1
  extract_lets +onlyGivenNames x3
  refine Keeps.upd ?_ rfl rfl rfl
  assumption

theorem State.walkMiss_keeps (s : State) (core slot loc g : Nat) (eccDir eccLeaf : Upsets) :
    Keeps s (s.walkMiss core slot loc g eccDir eccLeaf).1 := by
  unfold State.walkMiss
  dsimp only
  generalize hp : (s.addAt (coreI core) PW_MISS_COUNT 1).tryInject 13 core 0 = p
  have hq : Keeps s p.1 := hp ▸ (State.addAt_keeps ..).trans (State.tryInject_keeps ..)
  obtain ⟨a, inj⟩ := p
  have ab : ∀ u, Keeps s u →
      Keeps s ((u.addAt (coreI core) PW_ABSENT_COUNT 1).pageExc core slot (s.req slot).gen loc g false) :=
    fun u h => (h.trans (State.addAt_keeps ..)).trans (State.pageExc_keeps ..)
  dsimp only
  split
  · rename_i e
    exact Keeps.fst e (hq.trans (State.readEntry_keeps ..))
  · rename_i e
    have h1 := Keeps.fst e (hq.trans (State.readEntry_keeps ..))
    split
    · exact ab _ h1
    · split
      · rename_i e2
        exact Keeps.fst e2 (h1.trans (State.readEntry_keeps ..))
      · rename_i e2
        have h2 := Keeps.fst e2 (h1.trans (State.readEntry_keeps ..))
        split
        · exact ab _ h2
        · split
          · exact (h2.trans (State.addAt_keeps ..)).trans (State.pageExc_keeps ..)
          · split
            · exact h2
            · exact h2.trans (State.setPageUnit_keeps ..)

theorem State.walk_keeps (s : State) (core : ℕ) (slot : ℕ) (loc : ℕ) (pos : ℕ) (eccDir : Upsets) (eccLeaf : Upsets) : Keeps s (State.walk s core slot loc pos eccDir eccLeaf).1 := by
  unfold State.walk
  extract_lets +onlyGivenNames x1
  clear_value x1
  extract_lets +onlyGivenNames x2
  clear_value x2
  split
  · rename_i a3 a4 a5
    dsimp only
    refine Keeps.trans ?_ (State.addAt_keeps ..)
    exact Keeps.refl _
  · rename_i a6 a7
    split
    · rename_i a8 a9 a10 a11
      have h12 : Keeps s a9 := by
        refine Keeps.fst a11 ?_
        refine Keeps.trans ?_ (State.walkMiss_keeps ..)
        exact Keeps.refl _
      dsimp only
      assumption
    · rename_i a13 a14
      refine Keeps.trans ?_ (State.walkMiss_keeps ..)
      exact Keeps.refl _

theorem State.invalidateLook_keeps (s : State) : Keeps s (State.invalidateLook s) := by
  unfold State.invalidateLook
  extract_lets +onlyGivenNames x1
  refine Keeps.upd ?_ rfl rfl rfl
  exact Keeps.refl _

/-! ### Machine/AssizeOps.lean -/

theorem State.updateDrift_keeps (s : State) (core : ℕ) (eng : ℕ) : Keeps s (State.updateDrift s core eng) := by
  unfold State.updateDrift
  extract_lets +onlyGivenNames x1
  split
  · rename_i a2 a3 a4
    refine Keeps.trans ?_ (State.putAt_keeps ..)
    unfold x1
    extract_lets +onlyGivenNames x5
    have h6 : Keeps s x5 := by
      unfold x5
      refine Keeps.foldl _ _ ?_ (fun u7 x8 => ?_)
      · beta_reduce
        exact Keeps.refl _
      · beta_reduce
        split
        · rename_i a9
          refine Keeps.foldl _ _ ?_ (fun u10 x11 => ?_)
          · beta_reduce
            exact Keeps.refl _
          · beta_reduce
            extract_lets +onlyGivenNames x12
            clear_value x12
            refine Keeps.trans ?_ (State.setBand_keeps ..)
            exact Keeps.refl _
        · rename_i a13
          exact Keeps.refl _
    clear_value x5
    extract_lets +onlyGivenNames x14
    clear_value x14
    refine Keeps.trans ?_ (State.setEngCal_keeps ..)
    assumption
  · rename_i a15 a16
    extract_lets +onlyGivenNames x17
    have h18 : Keeps s x17 := by
      unfold x17
      split
      · rename_i a19
        exact Keeps.refl _
      · rename_i a20
        unfold x1
        extract_lets +onlyGivenNames x21
        have h22 : Keeps s x21 := by
          unfold x21
          refine Keeps.foldl _ _ ?_ (fun u23 x24 => ?_)
          · beta_reduce
            exact Keeps.refl _
          · beta_reduce
            split
            · rename_i a25
              refine Keeps.foldl _ _ ?_ (fun u26 x27 => ?_)
              · beta_reduce
                exact Keeps.refl _
              · beta_reduce
                extract_lets +onlyGivenNames x28
                clear_value x28
                refine Keeps.trans ?_ (State.setBand_keeps ..)
                exact Keeps.refl _
            · rename_i a29
              exact Keeps.refl _
        clear_value x21
        extract_lets +onlyGivenNames x30
        clear_value x30
        refine Keeps.trans ?_ (State.setEngCal_keeps ..)
        assumption
    clear_value x17
    refine Keeps.trans ?_ (State.putAt_keeps ..)
    assumption

theorem State.adviseTier_keeps (s : State) (core : ℕ) (eng : ℕ) (tier : ℕ) : Keeps s (State.adviseTier s core eng tier) := by
  unfold State.adviseTier
  extract_lets +onlyGivenNames x1
  extract_lets +onlyGivenNames x2
  extract_lets +onlyGivenNames x3
  clear_value x3
  extract_lets +onlyGivenNames x4
  clear_value x4
  extract_lets +onlyGivenNames x5
  clear_value x5
  extract_lets +onlyGivenNames x6
  clear_value x6
  extract_lets +onlyGivenNames x7
  extract_lets +onlyGivenNames x8
  clear_value x8
  extract_lets +onlyGivenNames x9
  have h10 : Keeps s x9 := by
    unfold x9
    unfold x7
    extract_lets +onlyGivenNames x11
    clear_value x11
    extract_lets +onlyGivenNames x12
    clear_value x12
    extract_lets +onlyGivenNames x13
    clear_value x13
    extract_lets +onlyGivenNames x14
    clear_value x14
    split
    · rename_i a15
      split
      · rename_i a16
        exact Keeps.refl _
      · rename_i a17
        split
        · rename_i a18
          refine Keeps.trans ?_ (State.put_keeps ..)
          refine Keeps.trans ?_ (State.putAt_keeps ..)
          exact Keeps.refl _
        · rename_i a19
          refine Keeps.trans ?_ (State.put_keeps ..)
          refine Keeps.trans ?_ (State.putAt_keeps ..)
          exact Keeps.refl _
    · rename_i a20
      split
      · rename_i a21
        refine Keeps.trans ?_ (State.put_keeps ..)
        refine Keeps.trans ?_ (State.putAt_keeps ..)
        split
        · rename_i a22
          exact Keeps.refl _
        · rename_i a23
          split
          · rename_i a24
            refine Keeps.trans ?_ (State.put_keeps ..)
            refine Keeps.trans ?_ (State.putAt_keeps ..)
            exact Keeps.refl _
          · rename_i a25
            refine Keeps.trans ?_ (State.put_keeps ..)
            refine Keeps.trans ?_ (State.putAt_keeps ..)
            exact Keeps.refl _
      · rename_i a26
        refine Keeps.trans ?_ (State.put_keeps ..)
        refine Keeps.trans ?_ (State.putAt_keeps ..)
        split
        · rename_i a27
          exact Keeps.refl _
        · rename_i a28
          split
          · rename_i a29
            refine Keeps.trans ?_ (State.put_keeps ..)
            refine Keeps.trans ?_ (State.putAt_keeps ..)
            exact Keeps.refl _
          · rename_i a30
            refine Keeps.trans ?_ (State.put_keeps ..)
            refine Keeps.trans ?_ (State.putAt_keeps ..)
            exact Keeps.refl _
  clear_value x9
  split
  · rename_i a31
    refine Keeps.trans ?_ (State.pldm_keeps ..)
    assumption
  · rename_i a32
    assumption

theorem State.rejectSet_keeps (s : State) (d : TrimSetDue) (reason : ℕ) (injected : Bool) : Keeps s (State.rejectSet s d reason injected) := by
  unfold State.rejectSet
  extract_lets +onlyGivenNames x1
  clear_value x1
  extract_lets +onlyGivenNames x2
  have h3 : Keeps s x2 := by
    unfold x2
    refine Keeps.trans ?_ (State.putAt_keeps ..)
    refine Keeps.trans ?_ (State.add_keeps ..)
    refine Keeps.trans ?_ (State.addAt_keeps ..)
    exact Keeps.refl _
  clear_value x2
  extract_lets +onlyGivenNames x4
  clear_value x4
  extract_lets +onlyGivenNames x5
  have h6 : Keeps s x5 := by
    unfold x5
    refine Keeps.trans ?_ (State.putAt_keeps ..)
    assumption
  clear_value x5
  extract_lets +onlyGivenNames x7
  clear_value x7
  extract_lets +onlyGivenNames x8
  clear_value x8
  extract_lets +onlyGivenNames x9
  clear_value x9
  extract_lets +onlyGivenNames x10
  have h11 : Keeps s x10 := by
    unfold x10
    split
    · rename_i a12
      assumption
    · rename_i a13
      split
      · rename_i a14 a15 a16
        refine Keeps.trans ?_ (State.setEngCal_keeps ..)
        assumption
      · rename_i a17 a18
        refine Keeps.trans ?_ (State.setTierCal_keeps ..)
        assumption
  clear_value x10
  extract_lets +onlyGivenNames x19
  have h20 : Keeps s x19 := by
    unfold x19
    refine Keeps.trans ?_ (State.add_keeps ..)
    refine Keeps.trans ?_ (State.putAt_keeps ..)
    assumption
  clear_value x19
  split
  · rename_i a21
    refine Keeps.trans ?_ (State.escalate_keeps ..)
    refine Keeps.trans ?_ (State.faultRecord_keeps ..)
    assumption
  · rename_i a22
    assumption

theorem State.passSet_keeps (s : State) (d : TrimSetDue) : Keeps s (State.passSet s d) := by
  unfold State.passSet
  extract_lets +onlyGivenNames x1
  have h2 : Keeps s x1 := by
    unfold x1
    refine Keeps.trans ?_ (State.putAt_keeps ..)
    exact Keeps.refl _
  clear_value x1
  extract_lets +onlyGivenNames x3
  clear_value x3
  extract_lets +onlyGivenNames x4
  clear_value x4
  split
  · rename_i a5 a6 a7
    extract_lets +onlyGivenNames x8
    clear_value x8
    extract_lets +onlyGivenNames x9
    clear_value x9
    extract_lets +onlyGivenNames x10
    have h11 : Keeps s x10 := by
      unfold x10
      refine Keeps.trans ?_ (State.setConv_keeps ..)
      assumption
    clear_value x10
    extract_lets +onlyGivenNames x12
    clear_value x12
    split
    · rename_i a13
      assumption
    · rename_i a14
      refine Keeps.trans ?_ (State.setBand_keeps ..)
      assumption
  · rename_i a15 a16
    extract_lets +onlyGivenNames x17
    clear_value x17
    extract_lets +onlyGivenNames x18
    clear_value x18
    extract_lets +onlyGivenNames x19
    have h20 : Keeps s x19 := by
      unfold x19
      refine Keeps.trans ?_ (State.setBand_keeps ..)
      assumption
    clear_value x19
    extract_lets +onlyGivenNames x21
    clear_value x21
    extract_lets +onlyGivenNames x22
    clear_value x22
    extract_lets +onlyGivenNames x23
    have h24 : Keeps s x23 := by
      unfold x23
      split
      · rename_i a25 a26 a27
        refine Keeps.trans ?_ (State.setBand_keeps ..)
        assumption
      · rename_i a28 a29
        assumption
    clear_value x23
    extract_lets +onlyGivenNames x30
    have h31 : Keeps s x30 := by
      unfold x30
      split
      · rename_i a32
        refine Keeps.trans ?_ (State.updateDrift_keeps ..)
        assumption
      · rename_i a33
        assumption
    clear_value x30
    split
    · rename_i a34
      refine Keeps.trans ?_ (State.adviseTier_keeps ..)
      assumption
    · rename_i a35
      assumption

theorem State.endRound_keeps (s : State) (core : ℕ) (eng : ℕ) (tier : ℕ) (kind : RoundKind) (tr : ℚ) (age : ℚ) : Keeps s (State.endRound s core eng tier kind tr age) := by
  unfold State.endRound
  split
  rename_i a1 a2 a3 a4 a5 a6
  refine Keeps.foldl _ _ ?_ (fun u7 x8 => ?_)
  · beta_reduce
    exact Keeps.refl _
  · beta_reduce
    extract_lets +onlyGivenNames x9
    clear_value x9
    extract_lets +onlyGivenNames x10
    clear_value x10
    extract_lets +onlyGivenNames x11
    clear_value x11
    extract_lets +onlyGivenNames x12
    clear_value x12
    extract_lets +onlyGivenNames x13
    clear_value x13
    extract_lets +onlyGivenNames x14
    clear_value x14
    extract_lets +onlyGivenNames x15
    have h16 : Keeps u7 x15 := by
      unfold x15
      refine Keeps.trans ?_ (State.setBand_keeps ..)
      exact Keeps.refl _
    clear_value x15
    extract_lets +onlyGivenNames x17
    clear_value x17
    split
    · rename_i a18
      exact Keeps.refl _
    · rename_i a19
      refine Keeps.upd ?_ rfl rfl rfl
      assumption

theorem State.checkSet_keeps (s : State) (d : TrimSetDue) : Keeps s (State.checkSet s d) := by
  unfold State.checkSet
  split
  rename_i a1 a2 a3 a4
  have h5 : Keeps s a2 := by
    refine Keeps.fst a4 ?_
    refine Keeps.trans ?_ (State.tryInject_keeps ..)
    exact Keeps.refl _
  extract_lets +onlyGivenNames x6
  have h7 : Keeps s x6 := by
    unfold x6
    split
    · rename_i a8 a9
      refine Keeps.trans ?_ (State.passSet_keeps ..)
      assumption
    · rename_i a10 a11 a12
      refine Keeps.trans ?_ (State.rejectSet_keeps ..)
      assumption
  clear_value x6
  split
  · rename_i a13 a14 a15 a16
    refine Keeps.trans ?_ (State.endRound_keeps ..)
    assumption
  · rename_i a17 a18
    assumption

theorem State.rollSensors_keeps (s : State) : Keeps s (State.rollSensors s) := by
  unfold State.rollSensors
  extract_lets +onlyGivenNames x1
  clear_value x1
  refine Keeps.upd ?_ rfl rfl rfl
  exact Keeps.refl _

theorem State.applyTrimsOf_keeps (s : State) (p : ℕ → Bool) : Keeps s (State.applyTrimsOf s p) := by
  unfold State.applyTrimsOf
  extract_lets +onlyGivenNames x1
  have h2 : Keeps s x1 := by
    unfold x1
    refine Keeps.foldl _ _ ?_ (fun u3 x4 => ?_)
    · beta_reduce
      exact Keeps.refl _
    · beta_reduce
      extract_lets +onlyGivenNames x5
      clear_value x5
      extract_lets +onlyGivenNames x6
      clear_value x6
      extract_lets +onlyGivenNames x7
      clear_value x7
      split
      · rename_i a8 a9
        exact Keeps.refl _
      · rename_i a10 a11 a12 a13
        extract_lets +onlyGivenNames x14
        clear_value x14
        extract_lets +onlyGivenNames x15
        clear_value x15
        refine Keeps.upd ?_ rfl rfl rfl
        exact Keeps.refl _
  clear_value x1
  refine Keeps.foldl _ _ ?_ (fun u16 x17 => ?_)
  · beta_reduce
    assumption
  · beta_reduce
    extract_lets +onlyGivenNames x18
    clear_value x18
    split
    · rename_i a19 a20
      exact Keeps.refl _
    · rename_i a21 a22 a23 a24
      extract_lets +onlyGivenNames x25
      clear_value x25
      refine Keeps.trans ?_ (State.adviseTier_keeps ..)
      refine Keeps.upd ?_ rfl rfl rfl
      exact Keeps.refl _

theorem State.applyTrims_keeps (s : State) : Keeps s (State.applyTrims s) := by
  unfold State.applyTrims
  refine Keeps.trans ?_ (State.applyTrimsOf_keeps ..)
  exact Keeps.refl _

theorem State.checkOldest_keeps (s : State) : Keeps s (State.checkOldest s) := by
  unfold State.checkOldest
  split
  · rename_i a1 a2
    exact Keeps.refl _
  · rename_i a3 a4 a5 a6
    extract_lets +onlyGivenNames x7
    clear_value x7
    refine Keeps.trans ?_ (State.checkSet_keeps ..)
    refine Keeps.upd ?_ rfl rfl rfl
    exact Keeps.refl _

theorem State.boundaryTrims_keeps (s : State) (core : ℕ) (eng : ℕ) : Keeps s (State.boundaryTrims s core eng) := by
  unfold State.boundaryTrims
  extract_lets +onlyGivenNames x1
  have h2 : Keeps s x1 := by
    unfold x1
    refine Keeps.trans ?_ (State.applyTrimsOf_keeps ..)
    exact Keeps.refl _
  clear_value x1
  extract_lets +onlyGivenNames x3
  have h4 : Keeps s x3 := by
    unfold x3
    refine Keeps.trans ?_ (State.updateDrift_keeps ..)
    refine Keeps.trans ?_ (State.rollSensors_keeps ..)
    assumption
  clear_value x3
  extract_lets +onlyGivenNames x5
  clear_value x5
  refine Keeps.upd ?_ rfl rfl rfl
  assumption

theorem State.trimsAt_keeps (s : State) (core : ℕ) (eng : ℕ) (trims : List TrimAt) (slice : ℕ) : Keeps s (State.trimsAt s core eng trims slice) := by
  unfold State.trimsAt
  refine Keeps.foldl _ _ ?_ (fun u1 x2 => ?_)
  · beta_reduce
    exact Keeps.refl _
  · beta_reduce
    split
    · rename_i a3
      exact Keeps.refl _
    · rename_i a4
      split
      · rename_i a5
        refine Keeps.trans ?_ (State.boundaryTrims_keeps ..)
        exact Keeps.refl _
      · rename_i a6
        refine Keeps.trans ?_ (State.checkOldest_keeps ..)
        exact Keeps.refl _

theorem State.convertBeat_keeps (s : State) (b : BeatRun) (trims : List TrimAt) : Keeps s (State.convertBeat s b trims).1 := by
  unfold State.convertBeat
  refine Keeps.foldlFst _ _ ?_ (fun u1 x2 => ?_)
  · beta_reduce
    dsimp only
    exact Keeps.refl _
  · beta_reduce
    extract_lets +onlyGivenNames x3
    have h4 : Keeps u1.1 x3 := by
      unfold x3
      refine Keeps.trans ?_ (State.trimsAt_keeps ..)
      exact Keeps.refl _
    clear_value x3
    dsimp only
    assumption

/-! ### Machine/Variants.lean -/

theorem State.showSwitch_keeps (s : State) : Keeps s (State.showSwitch s) := by
  unfold State.showSwitch
  split
  · rename_i a1 a2
    refine Keeps.trans ?_ (State.put_keeps ..)
    refine Keeps.trans ?_ (State.put_keeps ..)
    exact Keeps.refl _
  · rename_i a3 a4 a5 a6
    refine Keeps.trans ?_ (State.put_keeps ..)
    refine Keeps.trans ?_ (State.put_keeps ..)
    exact Keeps.refl _

theorem State.applyRefusal_keeps (s : State) (mile : ℕ) (v : ℕ) : Keeps s (State.applyRefusal s mile v) := by
  unfold State.applyRefusal
  extract_lets +onlyGivenNames x1
  clear_value x1
  extract_lets +onlyGivenNames x2
  clear_value x2
  extract_lets +onlyGivenNames x3
  have h4 : Keeps s x3 := by
    unfold x3
    refine Keeps.upd ?_ rfl rfl rfl
    exact Keeps.refl _
  clear_value x3
  refine Keeps.trans ?_ (State.showSwitch_keeps ..)
  refine Keeps.trans ?_ (State.raiseIfAt_keeps ..)
  assumption

theorem State.refuseVar_keeps (s : State) (mile : ℕ) (v : ℕ) : Keeps s (State.refuseVar s mile v) := by
  unfold State.refuseVar
  refine Keeps.trans ?_ (State.applyRefusal_keeps ..)
  refine Keeps.trans ?_ (State.raiseDated_keeps ..)
  exact Keeps.refl _

theorem State.seeVarReq_keeps (s : State) (m : SbMsg) : Keeps s (State.seeVarReq s m) := by
  unfold State.seeVarReq
  split
  rename_i a1 a2 a3 a4
  have h5 : Keeps s a2 := by
    refine Keeps.fst a4 ?_
    refine Keeps.trans ?_ (State.enterSb_keeps ..)
    exact Keeps.refl _
  extract_lets +onlyGivenNames x6
  clear_value x6
  extract_lets +onlyGivenNames x7
  clear_value x7
  extract_lets +onlyGivenNames x8
  clear_value x8
  extract_lets +onlyGivenNames x9
  clear_value x9
  extract_lets +onlyGivenNames x10
  clear_value x10
  extract_lets +onlyGivenNames x11
  have h12 : Keeps s x11 := by
    unfold x11
    refine Keeps.upd ?_ rfl rfl rfl
    assumption
  clear_value x11
  split
  · rename_i a13
    assumption
  · rename_i a14
    split
    · rename_i a15
      assumption
    · rename_i a16
      refine Keeps.trans ?_ (State.refuseVar_keeps ..)
      assumption

theorem State.raiseVarReq_keeps (s : State) (v : ℕ) : Keeps s (State.raiseVarReq s v) := by
  unfold State.raiseVarReq
  refine Keeps.trans ?_ (State.seeVarReq_keeps ..)
  exact Keeps.refl _

theorem State.decideVariants_keeps (s : State) : Keeps s (State.decideVariants s) := by
  unfold State.decideVariants
  extract_lets +onlyGivenNames x1
  clear_value x1
  extract_lets +onlyGivenNames x2
  clear_value x2
  extract_lets +onlyGivenNames x3
  clear_value x3
  extract_lets +onlyGivenNames x4
  clear_value x4
  extract_lets +onlyGivenNames x5
  clear_value x5
  extract_lets +onlyGivenNames x6
  have h7 : Keeps s x6 := by
    unfold x6
    refine Keeps.upd ?_ rfl rfl rfl
    exact Keeps.refl _
  clear_value x6
  split
  · rename_i a8
    refine Keeps.trans ?_ (State.raiseIfAt_keeps ..)
    assumption
  · rename_i a9 a10
    extract_lets +onlyGivenNames x11
    clear_value x11
    extract_lets +onlyGivenNames x12
    have h13 : Keeps s x12 := by
      unfold x12
      refine Keeps.trans ?_ (State.raiseIfAt_keeps ..)
      assumption
    clear_value x12
    extract_lets +onlyGivenNames x14
    clear_value x14
    extract_lets +onlyGivenNames x15
    clear_value x15
    split
    · rename_i a16
      assumption
    · rename_i a17
      refine Keeps.trans ?_ (State.showSwitch_keeps ..)
      refine Keeps.upd ?_ rfl rfl rfl
      assumption

theorem State.mapFlight_keeps (s : State) (t : Transition) : Keeps s (State.mapFlight s t) := by
  unfold State.mapFlight
  extract_lets +onlyGivenNames x1
  clear_value x1
  extract_lets +onlyGivenNames x2
  clear_value x2
  refine Keeps.upd ?_ rfl rfl rfl
  exact Keeps.refl _

theorem State.applyTransition_keeps (s : State) (t : Transition) : Keeps s (State.applyTransition s t) := by
  unfold State.applyTransition
  extract_lets +onlyGivenNames x1
  clear_value x1
  extract_lets +onlyGivenNames x2
  clear_value x2
  extract_lets +onlyGivenNames x3
  have h4 : Keeps s x3 := by
    unfold x3
    refine Keeps.trans ?_ (State.mapFlight_keeps ..)
    exact Keeps.refl _
  clear_value x3
  extract_lets +onlyGivenNames x5
  have h6 : Keeps s x5 := by
    unfold x5
    refine Keeps.foldl _ _ ?_ (fun u7 x8 => ?_)
    · beta_reduce
      assumption
    · beta_reduce
      split
      · rename_i a9
        refine Keeps.trans ?_ (State.voidRows_keeps ..)
        exact Keeps.refl _
      · rename_i a10
        exact Keeps.refl _
  clear_value x5
  extract_lets +onlyGivenNames x11
  have h12 : Keeps s x11 := by
    unfold x11
    refine Keeps.foldl _ _ ?_ (fun u13 x14 => ?_)
    · beta_reduce
      assumption
    · beta_reduce
      split
      · rename_i a15
        exact Keeps.refl _
      · rename_i a16
        refine Keeps.trans ?_ (State.voidRows_keeps ..)
        exact Keeps.refl _
  clear_value x11
  extract_lets +onlyGivenNames x17
  clear_value x17
  extract_lets +onlyGivenNames x18
  clear_value x18
  refine Keeps.upd ?_ rfl rfl rfl
  assumption

theorem State.voidFlight_keeps (s : State) : Keeps s (State.voidFlight s) := by
  unfold State.voidFlight
  extract_lets +onlyGivenNames x1
  have h2 : Keeps s x1 := by
    unfold x1
    refine Keeps.foldl _ _ ?_ (fun u3 x4 => ?_)
    · beta_reduce
      exact Keeps.refl _
    · beta_reduce
      refine Keeps.trans ?_ (State.voidRows_keeps ..)
      exact Keeps.refl _
  clear_value x1
  extract_lets +onlyGivenNames x5
  have h6 : Keeps s x5 := by
    unfold x5
    refine Keeps.trans ?_ (State.clearEngines_keeps ..)
    assumption
  clear_value x5
  extract_lets +onlyGivenNames x7
  clear_value x7
  extract_lets +onlyGivenNames x8
  clear_value x8
  refine Keeps.upd ?_ rfl rfl rfl
  assumption

theorem State.switchVariant_keeps (s : State) : Keeps s (State.switchVariant s) := by
  unfold State.switchVariant
  split
  · rename_i a1 a2
    exact Keeps.refl _
  · rename_i a3 a4 a5
    extract_lets +onlyGivenNames x6
    have h7 : Keeps s x6 := by
      unfold x6
      exact Keeps.refl _
    clear_value x6
    extract_lets +onlyGivenNames x8
    clear_value x8
    extract_lets +onlyGivenNames x9
    have h10 : Keeps s x9 := by
      unfold x9
      refine Keeps.upd ?_ rfl rfl rfl
      exact Keeps.refl _
    clear_value x9
    extract_lets +onlyGivenNames x11
    have h12 : Keeps s x11 := by
      unfold x11
      split
      · rename_i a13 a14 a15
        refine Keeps.trans ?_ (State.applyTransition_keeps ..)
        assumption
      · rename_i a16 a17
        refine Keeps.trans ?_ (State.voidFlight_keeps ..)
        assumption
    clear_value x11
    extract_lets +onlyGivenNames x18
    clear_value x18
    split
    · rename_i a19
      refine Keeps.trans ?_ (State.refuseVar_keeps ..)
      assumption
    · rename_i a20
      refine Keeps.trans ?_ (State.wantStart_keeps ..)
      refine Keeps.trans ?_ (State.loadMasks_keeps ..)
      refine Keeps.trans ?_ (State.showSwitch_keeps ..)
      refine Keeps.trans ?_ (State.put_keeps ..)
      refine Keeps.upd ?_ rfl rfl rfl
      assumption

theorem State.recheckSwitches_keeps (s : State) : Keeps s (State.recheckSwitches s) := by
  unfold State.recheckSwitches
  extract_lets +onlyGivenNames x1
  have h2 : Keeps s x1 := by
    unfold x1
    refine Keeps.foldl _ _ ?_ (fun u3 x4 => ?_)
    · beta_reduce
      exact Keeps.refl _
    · beta_reduce
      split
      · rename_i a5
        exact Keeps.refl _
      · rename_i a6
        refine Keeps.trans ?_ (State.refuseVar_keeps ..)
        exact Keeps.refl _
  clear_value x1
  refine Keeps.foldl _ _ ?_ (fun u7 x8 => ?_)
  · beta_reduce
    assumption
  · beta_reduce
    split
    · rename_i a9
      exact Keeps.refl _
    · rename_i a10
      refine Keeps.trans ?_ (State.refuseVar_keeps ..)
      exact Keeps.refl _

theorem execTbVarReq_keeps (w : Wr) (s : State) : KeepsO s (execTbVarReq w s) := by
  unfold execTbVarReq
  split
  rename_i a1 a2 a3 a4
  have h5 : Keeps s a2 := by
    refine Keeps.fst a4 ?_
    refine Keeps.trans ?_ (State.write_keeps ..)
    exact Keeps.refl _
  refine KeepsO.next ?_
  split
  · rename_i a6
    refine Keeps.trans ?_ (State.raiseVarReq_keeps ..)
    assumption
  · rename_i a7
    assumption

theorem execSbVarReq_keeps (m : SbMsg) (s : State) : KeepsO s (execSbVarReq m s) := by
  unfold execSbVarReq
  refine KeepsO.next ?_
  split
  · rename_i a1
    refine Keeps.trans ?_ (State.seeVarReq_keeps ..)
    exact Keeps.refl _
  · rename_i a2
    exact Keeps.refl _

theorem State.seeRefusal_keeps (s : State) (m : SbMsg) : Keeps s (State.seeRefusal s m) := by
  unfold State.seeRefusal
  split
  rename_i a1 a2 a3 a4
  have h5 : Keeps s a2 := by
    refine Keeps.fst a4 ?_
    refine Keeps.trans ?_ (State.enterSb_keeps ..)
    exact Keeps.refl _
  split
  · rename_i a6
    refine Keeps.trans ?_ (State.applyRefusal_keeps ..)
    assumption
  · rename_i a7
    assumption

theorem execSbVarRefuse_keeps (m : SbMsg) (s : State) : KeepsO s (execSbVarRefuse m s) := by
  unfold execSbVarRefuse
  refine KeepsO.next ?_
  split
  · rename_i a1
    refine Keeps.trans ?_ (State.seeRefusal_keeps ..)
    exact Keeps.refl _
  · rename_i a2
    exact Keeps.refl _

theorem execMcVariantRequest_keeps (var : Fin 8) (s : State) : KeepsO s (execMcVariantRequest var s) := by
  unfold execMcVariantRequest
  refine KeepsO.next ?_
  split
  · rename_i a1
    refine Keeps.trans ?_ (State.raiseVarReq_keeps ..)
    exact Keeps.refl _
  · rename_i a2
    exact Keeps.refl _

end Sys2Proof.Machine
end

