-- ==== Sys2Proof/Laws/Keeps3.lean ====
section
/-! SUPPORT. The operations and meanings of Machine leave the queue alone and keep the invariant: Engine, Units, Stacks. -/
namespace Sys2Proof.Machine

/-! ### Machine/Engine.lean -/

theorem State.select_keeps (s : State) (core : ℕ) (eng : ℕ) (tier : ℕ) : Keeps s (State.select s core eng tier).1 := by
  unfold State.select
  extract_lets +onlyGivenNames x1
  clear_value x1
  extract_lets +onlyGivenNames x2
  clear_value x2
  extract_lets +onlyGivenNames x3
  have h4 : Keeps s x3 := by
    unfold x3
    split
    · rename_i a5
      refine Keeps.trans ?_ (State.fired_keeps ..)
      exact Keeps.refl _
    · rename_i a6
      exact Keeps.refl _
  clear_value x3
  extract_lets +onlyGivenNames x7
  have h8 : Keeps s x7 := by
    unfold x7
    refine Keeps.trans ?_ (State.addAt_keeps ..)
    refine Keeps.trans ?_ (State.putAt_keeps ..)
    assumption
  clear_value x7
  extract_lets +onlyGivenNames x9
  have h10 : Keeps s x9 := by
    unfold x9
    refine Keeps.trans ?_ (State.putAt_keeps ..)
    refine Keeps.trans ?_ (State.putAt_keeps ..)
    refine Keeps.trans ?_ (State.putAt_keeps ..)
    assumption
  clear_value x9
  split
  · rename_i a11
    dsimp only
    refine Keeps.trans ?_ (State.putAt_keeps ..)
    exact Keeps.refl _
  · rename_i a12
    split
    · rename_i a13
      split
      · rename_i a14
        dsimp only
        refine Keeps.trans ?_ (State.tierFails_keeps ..)
        refine Keeps.trans ?_ (State.faultRecord_keeps ..)
        assumption
      · rename_i a15
        dsimp only
        assumption
    · rename_i a16
      dsimp only
      refine Keeps.trans ?_ (State.flagAt_keeps ..)
      assumption

theorem State.selectBack_keeps (s : State) (core : ℕ) (eng : ℕ) (back : Option ℕ) : Keeps s (State.selectBack s core eng back) := by
  unfold State.selectBack
  split
  · rename_i a1
    exact Keeps.refl _
  · rename_i a2 a3
    split
    rename_i a4 a5 a6 a7
    have h8 : Keeps s a5 := by
      refine Keeps.fst a7 ?_
      refine Keeps.trans ?_ (State.select_keeps ..)
      exact Keeps.refl _
    extract_lets +onlyGivenNames x9
    clear_value x9
    split
    · rename_i a10
      refine Keeps.trans ?_ (State.setEngine_keeps ..)
      assumption
    · rename_i a11
      assumption

theorem execTierSelect_keeps (core : CoreId) (eng : EngId) (tier : TierId) (badWord : Bool) (s : State) : KeepsO s (execTierSelect core eng tier badWord s) := by
  unfold execTierSelect
  extract_lets +onlyGivenNames x1
  clear_value x1
  extract_lets +onlyGivenNames x2
  have h3 : Keeps s x2 := by
    unfold x2
    split
    · rename_i a4
      refine Keeps.trans ?_ (State.setTier_keeps ..)
      exact Keeps.refl _
    · rename_i a5
      exact Keeps.refl _
  clear_value x2
  refine KeepsO.next ?_
  split
  · rename_i a6
    exact Keeps.refl _
  · rename_i a7
    split
    rename_i a8 a9 a10 a11
    have h12 : Keeps s a9 := by
      refine Keeps.fst a11 ?_
      refine Keeps.trans ?_ (State.select_keeps ..)
      assumption
    extract_lets +onlyGivenNames x13
    clear_value x13
    refine Keeps.trans ?_ (State.setEngine_keeps ..)
    assumption

theorem execInputStaging_keeps (core : CoreId) (eng : EngId) (input : StageIn) (s : State) : KeepsO s (execInputStaging core eng input s) := by
  unfold execInputStaging
  extract_lets +onlyGivenNames x1
  clear_value x1
  extract_lets +onlyGivenNames x2
  clear_value x2
  extract_lets +onlyGivenNames x3
  clear_value x3
  split
  · rename_i a4 a5
    refine KeepsO.next ?_
    exact Keeps.refl _
  · rename_i a6 a7 a8
    extract_lets +onlyGivenNames x9
    extract_lets +onlyGivenNames x10
    clear_value x10
    extract_lets +onlyGivenNames x11
    clear_value x11
    extract_lets +onlyGivenNames x12
    clear_value x12
    extract_lets +onlyGivenNames x13
    have h14 : Keeps s x13 := by
      unfold x13
      refine Keeps.trans ?_ (State.raiseIfAt_keeps ..)
      refine Keeps.trans ?_ (State.raiseIfAt_keeps ..)
      refine Keeps.trans ?_ (State.raiseIfAt_keeps ..)
      exact Keeps.refl _
    clear_value x13
    extract_lets +onlyGivenNames x15
    have h16 : Keeps s x15 := by
      unfold x15
      refine Keeps.trans ?_ (State.addAt_keeps ..)
      assumption
    clear_value x15
    extract_lets +onlyGivenNames x17
    have h18 : Keeps s x17 := by
      unfold x17
      split
      · rename_i a19
        refine Keeps.trans ?_ (State.putAt_keeps ..)
        refine Keeps.trans ?_ (State.addAt_keeps ..)
        assumption
      · rename_i a20
        assumption
    clear_value x17
    extract_lets +onlyGivenNames x21
    clear_value x21
    extract_lets +onlyGivenNames x22
    have h23 : Keeps s x22 := by
      unfold x22
      split
      · rename_i a24
        refine Keeps.trans ?_ (State.addAt_keeps ..)
        assumption
      · rename_i a25
        assumption
    clear_value x22
    split
    · rename_i a26
      refine KeepsO.next ?_
      exact Keeps.refl _
    · rename_i a27
      refine KeepsO.next ?_
      refine Keeps.trans ?_ (State.setEngine_keeps ..)
      assumption

theorem State.evaluate_keeps (s : State) (d : TileDecl) (b : BeatRun) (trims : List TrimAt) : Keeps s (State.evaluate s d b trims).1 := by
  unfold State.evaluate
  extract_lets +onlyGivenNames x1
  clear_value x1
  split
  rename_i a2 a3 a4 a5
  have h6 : Keeps s a3 := by
    refine Keeps.fst a5 ?_
    refine Keeps.trans ?_ (State.convertBeat_keeps ..)
    exact Keeps.refl _
  split
  rename_i a7 a8 a9 a10
  have h11 : Keeps s a8 := by
    refine Keeps.fst a10 ?_
    refine Keeps.trans ?_ (State.tryInject_keeps ..)
    assumption
  extract_lets +onlyGivenNames x12
  clear_value x12
  split
  rename_i a13 a14 a15 a16
  have h17 : Keeps s a14 := by
    refine Keeps.fst a16 ?_
    refine Keeps.trans ?_ (State.tryInject_keeps ..)
    assumption
  extract_lets +onlyGivenNames x18
  clear_value x18
  extract_lets +onlyGivenNames x19
  clear_value x19
  extract_lets +onlyGivenNames x20
  have h21 : Keeps s x20 := by
    unfold x20
    refine Keeps.trans ?_ (State.tick_keeps ..)
    refine Keeps.trans ?_ (State.countCodes_keeps ..)
    assumption
  clear_value x20
  extract_lets +onlyGivenNames x22
  clear_value x22
  extract_lets +onlyGivenNames x23
  clear_value x23
  dsimp only
  assumption

theorem State.reportBeat_keeps (s : State) (core : ℕ) (eng : ℕ) (tier : ℕ) (ev : Evaluated) (residue : Bool) (injWit : Bool) (injRes : Bool) (key : Option ℕ) (rows : BitVec 32) : Keeps s (State.reportBeat s core eng tier ev residue injWit injRes key rows) := by
  unfold State.reportBeat
  extract_lets +onlyGivenNames x1
  clear_value x1
  extract_lets +onlyGivenNames x2
  clear_value x2
  extract_lets +onlyGivenNames x3
  have h4 : Keeps s x3 := by
    unfold x3
    refine Keeps.foldl _ _ ?_ (fun u5 x6 => ?_)
    · beta_reduce
      exact Keeps.refl _
    · beta_reduce
      extract_lets +onlyGivenNames x7
      clear_value x7
      extract_lets +onlyGivenNames x8
      have h9 : Keeps u5 x8 := by
        unfold x8
        refine Keeps.trans ?_ (State.silentError_keeps ..)
        refine Keeps.trans ?_ (State.addAt_keeps ..)
        exact Keeps.refl _
      clear_value x8
      refine Keeps.trans ?_ (State.weigh_keeps ..)
      assumption
  clear_value x3
  extract_lets +onlyGivenNames x10
  have h11 : Keeps s x10 := by
    unfold x10
    refine Keeps.trans ?_ (State.putAt_keeps ..)
    refine Keeps.trans ?_ (State.addAt_keeps ..)
    assumption
  clear_value x10
  split
  · rename_i a12
    refine Keeps.trans ?_ (State.weigh_keeps ..)
    refine Keeps.trans ?_ (State.silentError_keeps ..)
    assumption
  · rename_i a13
    assumption

theorem State.deadBeat_keeps (s : State) (core : ℕ) (eng : ℕ) (tier : ℕ) (key : Option ℕ) (rows : BitVec 32) : Keeps s (State.deadBeat s core eng tier key rows) := by
  unfold State.deadBeat
  split
  · rename_i a1
    refine Keeps.trans ?_ (State.silentError_keeps ..)
    exact Keeps.refl _
  · rename_i a2
    exact Keeps.refl _

theorem State.deliver_keeps (s : State) (core : ℕ) (eng : ℕ) (o : BeatOut) (void : Bool) : Keeps s (State.deliver s core eng o void) := by
  unfold State.deliver
  extract_lets +onlyGivenNames x1
  clear_value x1
  extract_lets +onlyGivenNames x2
  clear_value x2
  extract_lets +onlyGivenNames x3
  clear_value x3
  extract_lets +onlyGivenNames x4
  have h5 : Keeps s x4 := by
    unfold x4
    refine Keeps.trans ?_ (State.setEngine_keeps ..)
    exact Keeps.refl _
  clear_value x4
  split
  · rename_i a6 a7
    refine Keeps.trans ?_ (State.produce_keeps ..)
    assumption
  · rename_i a8 a9 a10
    extract_lets +onlyGivenNames x11
    clear_value x11
    extract_lets +onlyGivenNames x12
    clear_value x12
    extract_lets +onlyGivenNames x13
    clear_value x13
    extract_lets +onlyGivenNames x14
    clear_value x14
    extract_lets +onlyGivenNames x15
    clear_value x15
    extract_lets +onlyGivenNames x16
    clear_value x16
    extract_lets +onlyGivenNames x17
    clear_value x17
    extract_lets +onlyGivenNames x18
    clear_value x18
    extract_lets +onlyGivenNames x19
    have h20 : Keeps s x19 := by
      unfold x19
      refine Keeps.trans ?_ (State.raiseIfAt_keeps ..)
      assumption
    clear_value x19
    extract_lets +onlyGivenNames x21
    have h22 : Keeps s x21 := by
      unfold x21
      refine Keeps.foldl _ _ ?_ (fun u23 x24 => ?_)
      · beta_reduce
        assumption
      · beta_reduce
        refine Keeps.trans ?_ (State.storeBytes_keeps ..)
        exact Keeps.refl _
    clear_value x21
    refine Keeps.trans ?_ (State.produce_keeps ..)
    assumption

theorem State.tryMerge_keeps (s : State) (core : ℕ) (eng : ℕ) : Keeps s (State.tryMerge s core eng) := by
  unfold State.tryMerge
  split
  · rename_i a1 a2 a3
    refine Keeps.trans ?_ (State.deliver_keeps ..)
    exact Keeps.refl _
  · rename_i a4 a5
    exact Keeps.refl _

theorem State.formed_keeps (s : State) (core : ℕ) (eng : ℕ) (o : BeatOut) : Keeps s (State.formed s core eng o) := by
  unfold State.formed
  extract_lets +onlyGivenNames x1
  clear_value x1
  refine Keeps.trans ?_ (State.tryMerge_keeps ..)
  refine Keeps.trans ?_ (State.setEngine_keeps ..)
  exact Keeps.refl _

theorem State.contribute_keeps (s : State) (core : ℕ) (eng : ℕ) (tile : ℕ) (row : ℕ) (inst : ℕ) (lane : Bool) (c : Contribution) : Keeps s (State.contribute s core eng tile row inst lane c) := by
  unfold State.contribute
  extract_lets +onlyGivenNames x1
  clear_value x1
  extract_lets +onlyGivenNames x2
  extract_lets +onlyGivenNames x3
  extract_lets +onlyGivenNames x4
  extract_lets +onlyGivenNames x5
  clear_value x5
  refine Keeps.trans ?_ (State.tryMerge_keeps ..)
  refine Keeps.trans ?_ (State.setEngine_keeps ..)
  exact Keeps.refl _

theorem State.runPass_keeps (s : State) (issue : Issue) (eng : ℕ) (g : Staged) (tier : ℕ) (outAddr : ℕ) (key : Option ℕ) (void : Bool) (window : ℕ × ℕ) (residueUpset : Bool) (trims : List TrimAt) : Keeps s (State.runPass s issue eng g tier outAddr key void window residueUpset trims) := by
  unfold State.runPass
  extract_lets +onlyGivenNames x1
  clear_value x1
  extract_lets +onlyGivenNames x2
  clear_value x2
  extract_lets +onlyGivenNames x3
  clear_value x3
  split
  · rename_i a4 a5
    refine Keeps.trans ?_ (State.produce_keeps ..)
    refine Keeps.trans ?_ (State.voidRows_keeps ..)
    exact Keeps.refl _
  · rename_i a6 a7 a8
    extract_lets +onlyGivenNames x9
    clear_value x9
    extract_lets +onlyGivenNames x10
    have h11 : Keeps s x10 := by
      unfold x10
      refine Keeps.trans ?_ (State.setEngine_keeps ..)
      exact Keeps.refl _
    clear_value x10
    extract_lets +onlyGivenNames x12
    clear_value x12
    extract_lets +onlyGivenNames x13
    clear_value x13
    extract_lets +onlyGivenNames x14
    clear_value x14
    extract_lets +onlyGivenNames x15
    clear_value x15
    extract_lets +onlyGivenNames x16
    have h17 : Keeps s x16 := by
      unfold x16
      refine Keeps.trans ?_ (State.deadBeat_keeps ..)
      assumption
    clear_value x16
    extract_lets +onlyGivenNames x18
    have h19 : Keeps s x18 := by
      unfold x18
      split
      · rename_i a20
        refine Keeps.trans ?_ (State.voidRows_keeps ..)
        assumption
      · rename_i a21
        assumption
    clear_value x18
    extract_lets +onlyGivenNames x22
    clear_value x22
    extract_lets +onlyGivenNames x23
    extract_lets +onlyGivenNames x24
    clear_value x24
    extract_lets +onlyGivenNames x25
    clear_value x25
    extract_lets +onlyGivenNames x26
    clear_value x26
    extract_lets +onlyGivenNames x27
    clear_value x27
    split
    · rename_i a28
      refine Keeps.trans ?_ (State.formed_keeps ..)
      refine Keeps.trans ?_ (State.addAt_keeps ..)
      assumption
    · rename_i a29
      split
      rename_i a30 a31 a32 a33
      have h34 : Keeps s a31 := by
        refine Keeps.fst a33 ?_
        refine Keeps.trans ?_ (State.evaluate_keeps ..)
        assumption
      split
      rename_i a35 a36 a37 a38
      have h39 : Keeps s a36 := by
        refine Keeps.fst a38 ?_
        refine Keeps.trans ?_ (State.tryInject_keeps ..)
        assumption
      extract_lets +onlyGivenNames x40
      clear_value x40
      extract_lets +onlyGivenNames x41
      have h42 : Keeps s x41 := by
        unfold x41
        refine Keeps.trans ?_ (State.reportBeat_keeps ..)
        assumption
      clear_value x41
      extract_lets +onlyGivenNames x43
      clear_value x43
      extract_lets +onlyGivenNames x44
      clear_value x44
      extract_lets +onlyGivenNames x45
      clear_value x45
      extract_lets +onlyGivenNames x46
      clear_value x46
      extract_lets +onlyGivenNames x47
      clear_value x47
      extract_lets +onlyGivenNames x48
      have h49 : Keeps s x48 := by
        unfold x48
        refine Keeps.trans ?_ (State.putAt_keeps ..)
        refine Keeps.trans ?_ (State.addAt_keeps ..)
        assumption
      clear_value x48
      extract_lets +onlyGivenNames x50
      have h51 : Keeps s x50 := by
        unfold x50
        split
        · rename_i a52
          refine Keeps.upd ?_ rfl rfl rfl
          assumption
        · rename_i a53
          assumption
      clear_value x50
      split
      · rename_i a54
        refine Keeps.trans ?_ (State.setEngine_keeps ..)
        assumption
      · rename_i a55
        refine Keeps.trans ?_ (State.formed_keeps ..)
        assumption

theorem State.dropStaged_keeps (s : State) (core : ℕ) (eng : ℕ) : Keeps s (State.dropStaged s core eng) := by
  unfold State.dropStaged
  extract_lets +onlyGivenNames x1
  clear_value x1
  refine Keeps.trans ?_ (State.setEngine_keeps ..)
  exact Keeps.refl _

theorem execEngineBeat_keeps (issue : Issue) (eng : EngId) (outAddr : ℕ) (window : ℕ) (windowIssue : ℕ) (residueUpset : Bool) (trims : List TrimAt) (s : State) : KeepsO s (execEngineBeat issue eng outAddr window windowIssue residueUpset trims s) := by
  unfold execEngineBeat
  extract_lets +onlyGivenNames x1
  clear_value x1
  extract_lets +onlyGivenNames x2
  clear_value x2
  split
  · rename_i a3
    refine KeepsO.next ?_
    exact Keeps.refl _
  · rename_i a4
    split
    · rename_i a5 a6 a7 a8
      refine KeepsO.next ?_
      refine Keeps.trans ?_ (State.dropStaged_keeps ..)
      refine Keeps.trans ?_ (State.skipLate_keeps ..)
      exact Keeps.refl _
    · rename_i a9 a10 a11 a12
      extract_lets +onlyGivenNames x13
      have h14 : Keeps s x13 := by
        unfold x13
        refine Keeps.trans ?_ (State.consume_keeps ..)
        exact Keeps.refl _
      clear_value x13
      split
      · rename_i a15 a16
        refine KeepsO.next ?_
        assumption
      · rename_i a17 a18 a19 a20
        extract_lets +onlyGivenNames x21
        have h22 : Keeps s x21 := by
          unfold x21
          refine Keeps.trans ?_ (State.dropStaged_keeps ..)
          assumption
        clear_value x21
        extract_lets +onlyGivenNames x23
        clear_value x23
        extract_lets +onlyGivenNames x24
        clear_value x24
        split
        · rename_i a25
          refine KeepsO.next ?_
          assumption
        · rename_i a26
          split
          · rename_i a27
            refine KeepsO.next ?_
            refine Keeps.trans ?_ (State.produce_keeps ..)
            refine Keeps.trans ?_ (State.lateRows_keeps ..)
            assumption
          · rename_i a28
            split
            · rename_i a29
              refine KeepsO.next ?_
              refine Keeps.trans ?_ (State.produce_keeps ..)
              assumption
            · rename_i a30
              split
              rename_i a31 a32 a33 a34
              have h35 : Keeps s a32 := by
                refine Keeps.fst a34 ?_
                split
                · rename_i a36 a37 a38
                  refine Keeps.trans ?_ (State.select_keeps ..)
                  assumption
                · rename_i a39 a40
                  dsimp only
                  refine Keeps.trans ?_ (State.addAt_keeps ..)
                  refine Keeps.trans ?_ (State.putAt_keeps ..)
                  assumption
              split
              · rename_i a41
                refine KeepsO.next ?_
                refine Keeps.trans ?_ (State.produce_keeps ..)
                refine Keeps.trans ?_ (State.lateRows_keeps ..)
                assumption
              · rename_i a42
                refine KeepsO.next ?_
                refine Keeps.trans ?_ (State.runPass_keeps ..)
                assumption

theorem execMergeDeadline_keeps (core : CoreId) (eng : EngId) (tile : ℕ) (inst : ℕ) (row : Fin 32) (s : State) : KeepsO s (execMergeDeadline core eng tile inst row s) := by
  unfold execMergeDeadline
  split
  · rename_i a1 a2
    refine KeepsO.next ?_
    exact Keeps.refl _
  · rename_i a3 a4 a5
    split
    rename_i a6 a7 a8 a9
    have h10 : Keeps s a7 := by
      refine Keeps.fst a9 ?_
      refine Keeps.trans ?_ (State.tryInject_keeps ..)
      exact Keeps.refl _
    extract_lets +onlyGivenNames x11
    clear_value x11
    extract_lets +onlyGivenNames x12
    have h13 : Keeps s x12 := by
      unfold x12
      refine Keeps.trans ?_ (State.putAt_keeps ..)
      refine Keeps.trans ?_ (State.addAt_keeps ..)
      assumption
    clear_value x12
    split
    · rename_i a14
      refine KeepsO.next ?_
      refine Keeps.trans ?_ (State.deliver_keeps ..)
      assumption
    · rename_i a15
      refine KeepsO.next ?_
      refine Keeps.trans ?_ (State.deliver_keeps ..)
      refine Keeps.trans ?_ (State.lateRows_keeps ..)
      assumption

theorem execRepeatWindow_keeps (core : CoreId) (eng : EngId) (window : ℕ) (windowIssue : ℕ) (nextWindow : ℕ) (nextIssue : ℕ) (residueUpset : Bool) (trims : List TrimAt) (s : State) : KeepsO s (execRepeatWindow core eng window windowIssue nextWindow nextIssue residueUpset trims s) := by
  unfold execRepeatWindow
  extract_lets +onlyGivenNames x1
  clear_value x1
  extract_lets +onlyGivenNames x2
  clear_value x2
  split
  · rename_i a3 a4
    refine KeepsO.next ?_
    exact Keeps.refl _
  · rename_i a5 a6 a7
    extract_lets +onlyGivenNames x8
    have h9 : Keeps s x8 := by
      unfold x8
      refine Keeps.trans ?_ (State.setEngine_keeps ..)
      exact Keeps.refl _
    clear_value x8
    extract_lets +onlyGivenNames x10
    clear_value x10
    split
    · rename_i a11
      refine KeepsO.next ?_
      exact Keeps.refl _
    · rename_i a12
      split
      · rename_i a13
        refine KeepsO.next ?_
        refine Keeps.trans ?_ (State.voidRows_keeps ..)
        assumption
      · rename_i a14
        split
        rename_i a15 a16 a17 a18
        have h19 : Keeps s a16 := by
          refine Keeps.fst a18 ?_
          refine Keeps.trans ?_ (State.select_keeps ..)
          assumption
        split
        · rename_i a20
          refine KeepsO.next ?_
          refine Keeps.trans ?_ (State.produce_keeps ..)
          refine Keeps.trans ?_ (State.lateRows_keeps ..)
          assumption
        · rename_i a21
          split
          · rename_i a22 a23
            refine KeepsO.next ?_
            refine Keeps.trans ?_ (State.produce_keeps ..)
            refine Keeps.trans ?_ (State.voidRows_keeps ..)
            assumption
          · rename_i a24 a25 a26
            extract_lets +onlyGivenNames x27
            clear_value x27
            extract_lets +onlyGivenNames x28
            clear_value x28
            extract_lets +onlyGivenNames x29
            clear_value x29
            extract_lets +onlyGivenNames x30
            have h31 : Keeps s x30 := by
              unfold x30
              refine Keeps.trans ?_ (State.addAt_keeps ..)
              assumption
            clear_value x30
            extract_lets +onlyGivenNames x32
            have h33 : Keeps s x32 := by
              unfold x32
              split
              · rename_i a34
                refine Keeps.trans ?_ (State.addAt_keeps ..)
                assumption
              · rename_i a35
                assumption
            clear_value x32
            refine KeepsO.next ?_
            refine Keeps.trans ?_ (State.runPass_keeps ..)
            assumption

theorem execPrecisionSumComplete_keeps (s : State) : KeepsO s (execPrecisionSumComplete s) := by
  unfold execPrecisionSumComplete
  split
  · rename_i a1 a2
    refine KeepsO.next ?_
    exact Keeps.refl _
  · rename_i a3 a4 a5
    extract_lets +onlyGivenNames x6
    have h7 : Keeps s x6 := by
      unfold x6
      refine Keeps.trans ?_ (State.put_keeps ..)
      refine Keeps.upd ?_ rfl rfl rfl
      exact Keeps.refl _
    clear_value x6
    extract_lets +onlyGivenNames x8
    clear_value x8
    extract_lets +onlyGivenNames x9
    clear_value x9
    extract_lets +onlyGivenNames x10
    clear_value x10
    extract_lets +onlyGivenNames x11
    have h12 : Keeps s x11 := by
      unfold x11
      refine Keeps.trans ?_ (State.put_keeps ..)
      assumption
    clear_value x11
    split
    · rename_i a13
      refine KeepsO.next ?_
      assumption
    · rename_i a14
      split
      · rename_i a15 a16
        refine KeepsO.next ?_
        refine Keeps.trans ?_ (State.put_keeps ..)
        assumption
      · rename_i a17 a18 a19
        split
        · rename_i a20
          refine KeepsO.next ?_
          assumption
        · rename_i a21
          refine KeepsO.next ?_
          refine Keeps.trans ?_ (State.put_keeps ..)
          refine Keeps.trans ?_ (State.raiseVarReq_keeps ..)
          assumption

/-! ### Machine/Units.lean -/

theorem State.storeF32_keeps (s : State) (core : ℕ) (addr : ℕ) (l : List FpBits) : Keeps s (State.storeF32 s core addr l) := by
  unfold State.storeF32
  refine Keeps.trans ?_ (State.storeBytes_keeps ..)
  exact Keeps.refl _

theorem State.beginOp_keeps (s : State) (issue : Issue) (ranges : List (ℕ × ℕ)) (ecc : Upsets) : Keeps s (State.beginOp s issue ranges ecc).1 := by
  unfold State.beginOp
  split
  · rename_i a1 a2 a3 a4
    dsimp only
    refine Keeps.trans ?_ (State.skipLate_keeps ..)
    exact Keeps.refl _
  · rename_i a5 a6 a7 a8
    extract_lets +onlyGivenNames x9
    clear_value x9
    split
    rename_i a10 a11 a12 a13
    have h14 : Keeps s a11 := by
      refine Keeps.fst a13 ?_
      refine Keeps.trans ?_ (State.csRead_keeps ..)
      refine Keeps.trans ?_ (State.consume_keeps ..)
      exact Keeps.refl _
    dsimp only
    assumption

theorem State.finishOp_keeps (s : State) (issue : Issue) (b : Begun) (rows : BitVec 32) (flagged : BitVec 32) (allVoid : Bool) : Keeps s (State.finishOp s issue b rows flagged allVoid) := by
  unfold State.finishOp
  extract_lets +onlyGivenNames x1
  clear_value x1
  extract_lets +onlyGivenNames x2
  have h3 : Keeps s x2 := by
    unfold x2
    split
    · rename_i a4
      refine Keeps.trans ?_ (State.silentError_keeps ..)
      exact Keeps.refl _
    · rename_i a5
      exact Keeps.refl _
  clear_value x2
  refine Keeps.trans ?_ (State.produce_keeps ..)
  assumption

theorem State.finishUnit_keeps (s : State) (issue : Issue) (b : Begun) (rows : BitVec 32) (flagged : BitVec 32) (allVoid : Bool) : Keeps s (State.finishUnit s issue b rows flagged allVoid) := by
  unfold State.finishUnit
  refine Keeps.trans ?_ (State.finishOp_keeps ..)
  exact Keeps.refl _

theorem State.mxuResidue_keeps (s : State) (core : ℕ) (key : Option ℕ) (rows : BitVec 32) (injected : Bool) : Keeps s (State.mxuResidue s core key rows injected) := by
  unfold State.mxuResidue
  extract_lets +onlyGivenNames x1
  clear_value x1
  extract_lets +onlyGivenNames x2
  have h3 : Keeps s x2 := by
    unfold x2
    refine Keeps.trans ?_ (State.putAt_keeps ..)
    refine Keeps.trans ?_ (State.addAt_keeps ..)
    exact Keeps.refl _
  clear_value x2
  refine Keeps.trans ?_ (State.weigh_keeps ..)
  refine Keeps.trans ?_ (State.silentError_keeps ..)
  assumption

theorem State.product_keeps (s : State) (issue : Issue) (g : Begun) (rows : BitVec 32) (isVoid : Bool) (row0 : ℕ) (m : ℕ) (k : ℕ) (n : ℕ) (a : MatIn) (b : MatIn) (acc : Option ℕ) (outAddr : ℕ) (outFmt : NumFmt) : Keeps s (State.product s issue g rows isVoid row0 m k n a b acc outAddr outFmt) := by
  unfold State.product
  extract_lets +onlyGivenNames x1
  clear_value x1
  extract_lets +onlyGivenNames x2
  clear_value x2
  extract_lets +onlyGivenNames x3
  extract_lets +onlyGivenNames x4
  extract_lets +onlyGivenNames x5
  clear_value x5
  extract_lets +onlyGivenNames x6
  clear_value x6
  extract_lets +onlyGivenNames x7
  have h8 : Keeps s x7 := by
    unfold x7
    refine Keeps.trans ?_ (State.raiseIfAt_keeps ..)
    exact Keeps.refl _
  clear_value x7
  extract_lets +onlyGivenNames x9
  have h10 : Keeps s x9 := by
    unfold x9
    refine Keeps.trans ?_ (State.raiseIfAt_keeps ..)
    assumption
  clear_value x9
  extract_lets +onlyGivenNames x11
  have h12 : Keeps s x11 := by
    unfold x11
    refine Keeps.trans ?_ (State.storeBytes_keeps ..)
    assumption
  clear_value x11
  refine Keeps.trans ?_ (State.finishUnit_keeps ..)
  assumption

theorem State.outlier_keeps (s : State) (issue : Issue) (g : Begun) (rows : BitVec 32) (isVoid : Bool) (eng : ℕ) (tile : ℕ) (row : ℕ) : Keeps s (State.outlier s issue g rows isVoid eng tile row) := by
  unfold State.outlier
  extract_lets +onlyGivenNames x1
  clear_value x1
  split
  · rename_i a2 a3 a4 a5 a6 a7 a8
    extract_lets +onlyGivenNames x9
    clear_value x9
    extract_lets +onlyGivenNames x10
    clear_value x10
    extract_lets +onlyGivenNames x11
    clear_value x11
    extract_lets +onlyGivenNames x12
    have h13 : Keeps s x12 := by
      unfold x12
      refine Keeps.trans ?_ (State.raiseIfAt_keeps ..)
      exact Keeps.refl _
    clear_value x12
    extract_lets +onlyGivenNames x14
    clear_value x14
    refine Keeps.trans ?_ (State.contribute_keeps ..)
    refine Keeps.trans ?_ (State.finishUnit_keeps ..)
    assumption
  · rename_i a15 a16 a17
    refine Keeps.trans ?_ (State.finishUnit_keeps ..)
    exact Keeps.refl _

theorem State.adapterOp_keeps (s : State) (issue : Issue) (g : Begun) (rows : BitVec 32) (isVoid : Bool) (eng : ℕ) (tile : ℕ) (row : ℕ) (x : VecIn) (dIn : ℕ) (rank : ℕ) (dOut : ℕ) (aAddr : ℕ) (bAddr : ℕ) : Keeps s (State.adapterOp s issue g rows isVoid eng tile row x dIn rank dOut aAddr bAddr) := by
  unfold State.adapterOp
  extract_lets +onlyGivenNames x1
  clear_value x1
  extract_lets +onlyGivenNames x2
  clear_value x2
  extract_lets +onlyGivenNames x3
  clear_value x3
  extract_lets +onlyGivenNames x4
  clear_value x4
  extract_lets +onlyGivenNames x5
  clear_value x5
  extract_lets +onlyGivenNames x6
  clear_value x6
  extract_lets +onlyGivenNames x7
  have h8 : Keeps s x7 := by
    unfold x7
    split
    · rename_i a9
      exact Keeps.refl _
    · rename_i a10
      refine Keeps.trans ?_ (State.voidRows_keeps ..)
      refine Keeps.trans ?_ (State.add_keeps ..)
      exact Keeps.refl _
  clear_value x7
  split
  rename_i a11 a12 a13 a14
  extract_lets +onlyGivenNames x15
  clear_value x15
  extract_lets +onlyGivenNames x16
  have h17 : Keeps s x16 := by
    unfold x16
    refine Keeps.trans ?_ (State.raiseIfAt_keeps ..)
    refine Keeps.trans ?_ (State.raiseIfAt_keeps ..)
    assumption
  clear_value x16
  extract_lets +onlyGivenNames x18
  clear_value x18
  extract_lets +onlyGivenNames x19
  clear_value x19
  refine Keeps.trans ?_ (State.contribute_keeps ..)
  refine Keeps.trans ?_ (State.finishUnit_keeps ..)
  assumption

theorem execMatrixOp_keeps (issue : Issue) (op : MatOp) (ecc : Upsets) (residueUpset : Bool) (s : State) : KeepsO s (execMatrixOp issue op ecc residueUpset s) := by
  unfold execMatrixOp
  extract_lets +onlyGivenNames x1
  clear_value x1
  split
  · rename_i a2
    refine KeepsO.next ?_
    exact Keeps.refl _
  · rename_i a3
    split
    rename_i a4 a5 a6 a7
    have h8 : Keeps s a5 := by
      refine Keeps.fst a7 ?_
      refine Keeps.trans ?_ (State.beginOp_keeps ..)
      exact Keeps.refl _
    split
    · rename_i a9
      have h10 : Keeps s a5 := by
        refine Keeps.fst a7 ?_
        refine Keeps.trans ?_ (State.beginOp_keeps ..)
        exact Keeps.refl _
      refine KeepsO.next ?_
      assumption
    · rename_i a11 a12
      have h13 : Keeps s a5 := by
        refine Keeps.fst a7 ?_
        refine Keeps.trans ?_ (State.beginOp_keeps ..)
        exact Keeps.refl _
      extract_lets +onlyGivenNames x14
      clear_value x14
      split
      rename_i a15 a16 a17 a18
      have h19 : Keeps s a16 := by
        refine Keeps.fst a18 ?_
        refine Keeps.trans ?_ (State.tryInject_keeps ..)
        assumption
      extract_lets +onlyGivenNames x20
      clear_value x20
      extract_lets +onlyGivenNames x21
      have h22 : Keeps s x21 := by
        unfold x21
        split
        · rename_i a23
          refine Keeps.trans ?_ (State.mxuResidue_keeps ..)
          assumption
        · rename_i a24
          assumption
      clear_value x21
      extract_lets +onlyGivenNames x25
      clear_value x25
      extract_lets +onlyGivenNames x26
      have h27 : Keeps s x26 := by
        unfold x26
        split
        · rename_i a28
          refine Keeps.trans ?_ (State.voidRows_keeps ..)
          assumption
        · rename_i a29
          assumption
      clear_value x26
      extract_lets +onlyGivenNames x30
      clear_value x30
      refine KeepsO.next ?_
      split
      · rename_i a31 a32 a33 a34 a35 a36 a37 a38 a39 a40
        have h41 : Keeps s a5 := by
          refine Keeps.fst a7 ?_
          refine Keeps.trans ?_ (State.beginOp_keeps ..)
          exact Keeps.refl _
        refine Keeps.trans ?_ (State.product_keeps ..)
        assumption
      · rename_i a42 a43 a44 a45
        have h46 : Keeps s a5 := by
          refine Keeps.fst a7 ?_
          refine Keeps.trans ?_ (State.beginOp_keeps ..)
          exact Keeps.refl _
        refine Keeps.trans ?_ (State.outlier_keeps ..)
        assumption
      · rename_i a47 a48 a49 a50 a51 a52 a53 a54 a55 a56
        have h57 : Keeps s a5 := by
          refine Keeps.fst a7 ?_
          refine Keeps.trans ?_ (State.beginOp_keeps ..)
          exact Keeps.refl _
        refine Keeps.trans ?_ (State.adapterOp_keeps ..)
        assumption

theorem execVectorOp_keeps (issue : Issue) (op : VecOp) (ecc : Upsets) (s : State) : KeepsO s (execVectorOp issue op ecc s) := by
  unfold execVectorOp
  extract_lets +onlyGivenNames x1
  clear_value x1
  split
  · rename_i a2
    refine KeepsO.next ?_
    exact Keeps.refl _
  · rename_i a3
    split
    rename_i a4 a5 a6 a7
    have h8 : Keeps s a5 := by
      refine Keeps.fst a7 ?_
      refine Keeps.trans ?_ (State.beginOp_keeps ..)
      exact Keeps.refl _
    split
    · rename_i a9
      have h10 : Keeps s a5 := by
        refine Keeps.fst a7 ?_
        refine Keeps.trans ?_ (State.beginOp_keeps ..)
        exact Keeps.refl _
      refine KeepsO.next ?_
      assumption
    · rename_i a11 a12
      have h13 : Keeps s a5 := by
        refine Keeps.fst a7 ?_
        refine Keeps.trans ?_ (State.beginOp_keeps ..)
        exact Keeps.refl _
      extract_lets +onlyGivenNames x14
      clear_value x14
      extract_lets +onlyGivenNames x15
      clear_value x15
      extract_lets +onlyGivenNames x16
      have h17 : Keeps s x16 := by
        unfold x16
        split
        · rename_i a18
          refine Keeps.trans ?_ (State.voidRows_keeps ..)
          assumption
        · rename_i a19
          assumption
      clear_value x16
      split
      · rename_i a20 a21 a22 a23 a24 a25 a26 a27
        have h28 : Keeps s a5 := by
          refine Keeps.fst a7 ?_
          refine Keeps.trans ?_ (State.beginOp_keeps ..)
          exact Keeps.refl _
        extract_lets +onlyGivenNames x29
        clear_value x29
        refine KeepsO.next ?_
        refine Keeps.trans ?_ (State.finishUnit_keeps ..)
        refine Keeps.trans ?_ (State.storeBytes_keeps ..)
        assumption
      · rename_i a30 a31 a32 a33 a34
        have h35 : Keeps s a5 := by
          refine Keeps.fst a7 ?_
          refine Keeps.trans ?_ (State.beginOp_keeps ..)
          exact Keeps.refl _
        refine KeepsO.next ?_
        refine Keeps.trans ?_ (State.finishUnit_keeps ..)
        refine Keeps.trans ?_ (State.storeF32_keeps ..)
        assumption
      · rename_i a36 a37 a38 a39 a40
        have h41 : Keeps s a5 := by
          refine Keeps.fst a7 ?_
          refine Keeps.trans ?_ (State.beginOp_keeps ..)
          exact Keeps.refl _
        extract_lets +onlyGivenNames x42
        clear_value x42
        refine KeepsO.next ?_
        refine Keeps.trans ?_ (State.finishUnit_keeps ..)
        refine Keeps.trans ?_ (State.storeF32_keeps ..)
        assumption
      · rename_i a43 a44 a45 a46 a47 a48 a49 a50 a51
        have h52 : Keeps s a5 := by
          refine Keeps.fst a7 ?_
          refine Keeps.trans ?_ (State.beginOp_keeps ..)
          exact Keeps.refl _
        split
        rename_i a53 a54 a55 a56 a57 a58
        extract_lets +onlyGivenNames x59
        clear_value x59
        extract_lets +onlyGivenNames x60
        clear_value x60
        split
        rename_i a61 a62 a63 a64
        refine KeepsO.next ?_
        refine Keeps.trans ?_ (State.finishUnit_keeps ..)
        refine Keeps.trans ?_ (State.storeBytes_keeps ..)
        assumption
      · rename_i a65 a66 a67 a68 a69
        have h70 : Keeps s a5 := by
          refine Keeps.fst a7 ?_
          refine Keeps.trans ?_ (State.beginOp_keeps ..)
          exact Keeps.refl _
        extract_lets +onlyGivenNames x71
        clear_value x71
        extract_lets +onlyGivenNames x72
        clear_value x72
        refine KeepsO.next ?_
        refine Keeps.trans ?_ (State.finishUnit_keeps ..)
        refine Keeps.trans ?_ (State.storeF32_keeps ..)
        assumption
      · rename_i a73 a74 a75 a76
        have h77 : Keeps s a5 := by
          refine Keeps.fst a7 ?_
          refine Keeps.trans ?_ (State.beginOp_keeps ..)
          exact Keeps.refl _
        extract_lets +onlyGivenNames x78
        clear_value x78
        split
        · rename_i a79 a80
          refine KeepsO.next ?_
          refine Keeps.trans ?_ (State.finishUnit_keeps ..)
          assumption
        · rename_i a81 a82 a83
          split
          rename_i a84 a85 a86 a87
          extract_lets +onlyGivenNames x88
          have h89 : Keeps s x88 := by
            unfold x88
            refine Keeps.trans ?_ (State.raiseIfAt_keeps ..)
            assumption
          clear_value x88
          extract_lets +onlyGivenNames x90
          clear_value x90
          extract_lets +onlyGivenNames x91
          have h92 : Keeps s x91 := by
            unfold x91
            refine Keeps.upd ?_ rfl rfl rfl
            assumption
          clear_value x91
          refine KeepsO.next ?_
          refine Keeps.trans ?_ (State.finishUnit_keeps ..)
          assumption
      · rename_i a93 a94 a95 a96 a97 a98 a99 a100 a101
        have h102 : Keeps s a5 := by
          refine Keeps.fst a7 ?_
          refine Keeps.trans ?_ (State.beginOp_keeps ..)
          exact Keeps.refl _
        split
        rename_i a103 a104 a105 a106 a107 a108
        extract_lets +onlyGivenNames x109
        clear_value x109
        extract_lets +onlyGivenNames x110
        clear_value x110
        extract_lets +onlyGivenNames x111
        clear_value x111
        extract_lets +onlyGivenNames x112
        clear_value x112
        extract_lets +onlyGivenNames x113
        clear_value x113
        split
        rename_i a114 a115 a116 a117
        extract_lets +onlyGivenNames x118
        clear_value x118
        refine KeepsO.next ?_
        refine Keeps.trans ?_ (State.finishUnit_keeps ..)
        refine Keeps.trans ?_ (State.storeBytes_keeps ..)
        assumption
      · rename_i a119 a120 a121 a122 a123 a124
        have h125 : Keeps s a5 := by
          refine Keeps.fst a7 ?_
          refine Keeps.trans ?_ (State.beginOp_keeps ..)
          exact Keeps.refl _
        extract_lets +onlyGivenNames x126
        clear_value x126
        split
        · rename_i a127 a128
          refine KeepsO.next ?_
          refine Keeps.trans ?_ (State.finishUnit_keeps ..)
          assumption
        · rename_i a129 a130 a131
          split
          rename_i a132 a133 a134 a135 a136 a137
          split
          rename_i a138 a139 a140 a141
          extract_lets +onlyGivenNames x142
          have h143 : Keeps s x142 := by
            unfold x142
            split
            · rename_i a144
              refine Keeps.trans ?_ (State.putAt_keeps ..)
              refine Keeps.trans ?_ (State.addAt_keeps ..)
              assumption
            · rename_i a145
              assumption
          clear_value x142
          refine KeepsO.next ?_
          refine Keeps.trans ?_ (State.finishUnit_keeps ..)
          refine Keeps.trans ?_ (State.storeBytes_keeps ..)
          assumption

theorem execCoreStoreScrub_keeps (core : CoreId) (upset : Option Bool) (s : State) : KeepsO s (execCoreStoreScrub core upset s) := by
  unfold execCoreStoreScrub
  extract_lets +onlyGivenNames x1
  clear_value x1
  extract_lets +onlyGivenNames x2
  extract_lets +onlyGivenNames x3
  have h4 : Keeps s x3 := by
    unfold x3
    refine Keeps.upd ?_ rfl rfl rfl
    exact Keeps.refl _
  clear_value x3
  refine KeepsO.next ?_
  split
  · rename_i a5
    exact Keeps.refl _
  · rename_i a6
    split
    · rename_i a7
      assumption
    · rename_i a8
      refine Keeps.trans ?_ (State.csCorrected_keeps ..)
      assumption
    · rename_i a9
      refine Keeps.trans ?_ (State.csUncorrectable_keeps ..)
      assumption

theorem execLineRestore_keeps (core : CoreId) (line : ℕ) (s : State) : KeepsO s (execLineRestore core line s) := by
  unfold execLineRestore
  extract_lets +onlyGivenNames x1
  clear_value x1
  extract_lets +onlyGivenNames x2
  clear_value x2
  extract_lets +onlyGivenNames x3
  clear_value x3
  extract_lets +onlyGivenNames x4
  have h5 : Keeps s x4 := by
    unfold x4
    refine Keeps.trans ?_ (State.countLines_keeps ..)
    refine Keeps.foldl _ _ ?_ (fun u6 x7 => ?_)
    · beta_reduce
      exact Keeps.refl _
    · beta_reduce
      refine Keeps.trans ?_ (State.storeBytes_keeps ..)
      exact Keeps.refl _
  clear_value x4
  extract_lets +onlyGivenNames x8
  have h9 : Keeps s x8 := by
    unfold x8
    refine Keeps.trans ?_ (State.addAt_keeps ..)
    assumption
  clear_value x8
  extract_lets +onlyGivenNames x10
  refine KeepsO.next ?_
  split
  · rename_i a11
    refine Keeps.upd ?_ rfl rfl rfl
    assumption
  · rename_i a12
    exact Keeps.refl _

/-! ### Machine/Stacks.lean -/

theorem State.windowRetries_keeps (s : State) (st : ℕ) (retries : ℕ) : Keeps s (State.windowRetries s st retries) := by
  unfold State.windowRetries
  split
  rename_i a1 a2 a3 a4
  have h5 : Keeps s a2 := by
    refine Keeps.fst a4 ?_
    refine Keeps.trans ?_ (State.tryInject_keeps ..)
    exact Keeps.refl _
  refine Keeps.trans ?_ (State.addAt_keeps ..)
  assumption

theorem execStackRead_keeps (issue : Issue) (addr : ℕ) (lines : ℕ) (dst : ℕ) (ecc : Upsets) (retries : ℕ) (late : Bool) (s : State) : KeepsO s (execStackRead issue addr lines dst ecc retries late s) := by
  unfold execStackRead
  extract_lets +onlyGivenNames x1
  clear_value x1
  split
  · rename_i a2
    refine KeepsO.next ?_
    exact Keeps.refl _
  · rename_i a3
    split
    rename_i a4 a5 a6 a7
    have h8 : Keeps s a5 := by
      refine Keeps.fst a7 ?_
      refine Keeps.trans ?_ (State.beginOp_keeps ..)
      exact Keeps.refl _
    split
    · rename_i a9
      have h10 : Keeps s a5 := by
        refine Keeps.fst a7 ?_
        refine Keeps.trans ?_ (State.beginOp_keeps ..)
        exact Keeps.refl _
      refine KeepsO.next ?_
      assumption
    · rename_i a11 a12
      have h13 : Keeps s a5 := by
        refine Keeps.fst a7 ?_
        refine Keeps.trans ?_ (State.beginOp_keeps ..)
        exact Keeps.refl _
      extract_lets +onlyGivenNames x14
      clear_value x14
      extract_lets +onlyGivenNames x15
      clear_value x15
      extract_lets +onlyGivenNames x16
      extract_lets +onlyGivenNames x17
      have h18 : Keeps s x17 := by
        unfold x17
        refine Keeps.trans ?_ (State.countLines_keeps ..)
        refine Keeps.trans ?_ (State.windowRetries_keeps ..)
        assumption
      clear_value x17
      split
      · rename_i a19
        refine KeepsO.next ?_
        unfold x16
        refine Keeps.trans ?_ (State.finishOp_keeps ..)
        refine Keeps.trans ?_ (State.voidRows_keeps ..)
        refine Keeps.trans ?_ (State.addAt_keeps ..)
        assumption
      · rename_i a20
        split
        · rename_i a21
          refine KeepsO.next ?_
          unfold x16
          refine Keeps.trans ?_ (State.finishOp_keeps ..)
          refine Keeps.trans ?_ (State.voidRows_keeps ..)
          refine Keeps.trans ?_ (State.darkLines_keeps ..)
          assumption
        · rename_i a22
          split
          rename_i a23 a24 a25 a26
          have h27 : Keeps s a24 := by
            refine Keeps.fst a26 ?_
            refine Keeps.trans ?_ (State.stackErrors_keeps ..)
            assumption
          extract_lets +onlyGivenNames x28
          have h29 : Keeps s x28 := by
            unfold x28
            refine Keeps.trans ?_ (State.storeBytes_keeps ..)
            assumption
          clear_value x28
          refine KeepsO.next ?_
          split
          · rename_i a30
            unfold x16
            refine Keeps.trans ?_ (State.finishOp_keeps ..)
            refine Keeps.trans ?_ (State.voidRows_keeps ..)
            assumption
          · rename_i a31
            split
            · rename_i a32
              refine Keeps.trans ?_ (State.finishOp_keeps ..)
              refine Keeps.trans ?_ (State.lateRows_keeps ..)
              assumption
            · rename_i a33
              refine Keeps.trans ?_ (State.finishOp_keeps ..)
              assumption

theorem execStackWrite_keeps (issue : Issue) (src : ℕ) (lines : ℕ) (addr : ℕ) (ecc : Upsets) (s : State) : KeepsO s (execStackWrite issue src lines addr ecc s) := by
  unfold execStackWrite
  extract_lets +onlyGivenNames x1
  clear_value x1
  split
  · rename_i a2
    refine KeepsO.next ?_
    exact Keeps.refl _
  · rename_i a3
    split
    rename_i a4 a5 a6 a7
    have h8 : Keeps s a5 := by
      refine Keeps.fst a7 ?_
      refine Keeps.trans ?_ (State.beginOp_keeps ..)
      exact Keeps.refl _
    split
    · rename_i a9
      have h10 : Keeps s a5 := by
        refine Keeps.fst a7 ?_
        refine Keeps.trans ?_ (State.beginOp_keeps ..)
        exact Keeps.refl _
      refine KeepsO.next ?_
      assumption
    · rename_i a11 a12
      have h13 : Keeps s a5 := by
        refine Keeps.fst a7 ?_
        refine Keeps.trans ?_ (State.beginOp_keeps ..)
        exact Keeps.refl _
      extract_lets +onlyGivenNames x14
      clear_value x14
      extract_lets +onlyGivenNames x15
      clear_value x15
      split
      · rename_i a16
        refine KeepsO.next ?_
        refine Keeps.trans ?_ (State.finishOp_keeps ..)
        refine Keeps.trans ?_ (State.voidRows_keeps ..)
        refine Keeps.trans ?_ (State.addAt_keeps ..)
        assumption
      · rename_i a17
        refine KeepsO.next ?_
        refine Keeps.trans ?_ (State.finishOp_keeps ..)
        refine Keeps.trans ?_ (State.stackWrite_keeps ..)
        refine Keeps.trans ?_ (State.countLines_keeps ..)
        assumption

theorem execStackOutOfService_keeps (stack : StackId) (linkFailed : Bool) (s : State) : KeepsO s (execStackOutOfService stack linkFailed s) := by
  unfold execStackOutOfService
  extract_lets +onlyGivenNames x1
  clear_value x1
  extract_lets +onlyGivenNames x2
  have h3 : Keeps s x2 := by
    unfold x2
    refine Keeps.trans ?_ (State.putAt_keeps ..)
    exact Keeps.refl _
  clear_value x2
  refine KeepsO.next ?_
  split
  · rename_i a4
    refine Keeps.trans ?_ (State.reAdmit_keeps ..)
    split
    · rename_i a5
      refine Keeps.trans ?_ (State.putAt_keeps ..)
      assumption
    · rename_i a6
      assumption
  · rename_i a7
    exact Keeps.refl _

theorem execPageWalk_keeps (issue : Issue) (slot : ℕ) (loc : ℕ) (pos : ℕ) (row : Fin 32) (eccDir : Upsets) (eccLeaf : Upsets) (s : State) : KeepsO s (execPageWalk issue slot loc pos row eccDir eccLeaf s) := by
  unfold execPageWalk
  extract_lets +onlyGivenNames x1
  clear_value x1
  split
  · rename_i a2
    refine KeepsO.next ?_
    exact Keeps.refl _
  · rename_i a3
    split
    rename_i a4 a5 a6 a7
    have h8 : Keeps s a5 := by
      refine Keeps.fst a7 ?_
      refine Keeps.trans ?_ (State.beginOp_keeps ..)
      exact Keeps.refl _
    split
    · rename_i a9
      have h10 : Keeps s a5 := by
        refine Keeps.fst a7 ?_
        refine Keeps.trans ?_ (State.beginOp_keeps ..)
        exact Keeps.refl _
      refine KeepsO.next ?_
      assumption
    · rename_i a11 a12
      have h13 : Keeps s a5 := by
        refine Keeps.fst a7 ?_
        refine Keeps.trans ?_ (State.beginOp_keeps ..)
        exact Keeps.refl _
      extract_lets +onlyGivenNames x14
      clear_value x14
      split
      rename_i a15 a16 a17 a18
      have h19 : Keeps s a16 := by
        refine Keeps.fst a18 ?_
        refine Keeps.trans ?_ (State.walk_keeps ..)
        assumption
      refine KeepsO.next ?_
      split
      · rename_i a20 a21
        have h22 : Keeps s a16 := by
          refine Keeps.fst a18 ?_
          refine Keeps.trans ?_ (State.walk_keeps ..)
          assumption
        refine Keeps.trans ?_ (State.finishOp_keeps ..)
        assumption
      · rename_i a23 a24
        refine Keeps.trans ?_ (State.finishOp_keeps ..)
        refine Keeps.trans ?_ (State.voidRows_keeps ..)
        assumption

theorem execPageExceptionService_keeps (s : State) : KeepsO s (execPageExceptionService s) := by
  unfold execPageExceptionService
  split
  · rename_i a1 a2
    refine KeepsO.next ?_
    exact Keeps.refl _
  · rename_i a3 a4 a5 a6
    extract_lets +onlyGivenNames x7
    extract_lets +onlyGivenNames x8
    have h9 : Keeps s x8 := by
      unfold x8
      refine Keeps.upd ?_ rfl rfl rfl
      exact Keeps.refl _
    clear_value x8
    split
    · rename_i a10 a11
      refine KeepsO.next ?_
      assumption
    · rename_i a12 a13 a14
      extract_lets +onlyGivenNames x15
      clear_value x15
      split
      · rename_i a16
        refine KeepsO.next ?_
        assumption
      · rename_i a17
        split
        · rename_i a18 a19
          refine KeepsO.next ?_
          refine Keeps.trans ?_ (State.mapPage_keeps ..)
          assumption
        · rename_i a20 a21 a22
          extract_lets +onlyGivenNames x23
          clear_value x23
          extract_lets +onlyGivenNames x24
          clear_value x24
          refine KeepsO.next ?_
          refine Keeps.trans ?_ (State.stackWrite_keeps ..)
          assumption

theorem execPageFrameRelease_keeps (slot : ℕ) (s : State) : KeepsO s (execPageFrameRelease slot s) := by
  unfold execPageFrameRelease
  split
  · rename_i a1 a2
    refine KeepsO.next ?_
    exact Keeps.refl _
  · rename_i a3 a4 a5
    extract_lets +onlyGivenNames x6
    extract_lets +onlyGivenNames x7
    have h8 : Keeps s x7 := by
      unfold x7
      refine Keeps.upd ?_ rfl rfl rfl
      exact Keeps.refl _
    clear_value x7
    refine KeepsO.next ?_
    refine Keeps.trans ?_ (State.releasePages_keeps ..)
    assumption

end Sys2Proof.Machine
end

