-- ==== Sys2Proof/Laws/Keeps4.lean ====
section
/-! SUPPORT. The operations and meanings of Machine leave the queue alone and keep the invariant: Attention, Requests, Sampling. -/
namespace Sys2Proof.Machine

/-! ### Machine/Attention.lean -/

theorem execSpanSlot_keeps (issue : Issue) (loc : ℕ) (lane : ℕ) (slot : ℕ) (span : ℕ) (pos : ℕ) (row : Fin 32) (qAddr : ℕ) (kvAddr : ℕ) (late : Bool) (ecc : Upsets) (residueUpset : Bool) (s : State) : KeepsO s (execSpanSlot issue loc lane slot span pos row qAddr kvAddr late ecc residueUpset s) := by
  unfold execSpanSlot
  extract_lets +onlyGivenNames x1
  clear_value x1
  split
  · rename_i a2 a3
    refine KeepsO.next ?_
    exact Keeps.refl _
  · rename_i a4 a5 a6
    extract_lets +onlyGivenNames x7
    clear_value x7
    extract_lets +onlyGivenNames x8
    clear_value x8
    extract_lets +onlyGivenNames x9
    clear_value x9
    extract_lets +onlyGivenNames x10
    clear_value x10
    split
    · rename_i a11
      refine KeepsO.next ?_
      exact Keeps.refl _
    · rename_i a12
      split
      rename_i a13 a14 a15 a16
      have h17 : Keeps s a14 := by
        refine Keeps.fst a16 ?_
        refine Keeps.trans ?_ (State.beginOp_keeps ..)
        exact Keeps.refl _
      split
      · rename_i a18
        have h19 : Keeps s a14 := by
          refine Keeps.fst a16 ?_
          refine Keeps.trans ?_ (State.beginOp_keeps ..)
          exact Keeps.refl _
        refine KeepsO.next ?_
        assumption
      · rename_i a20 a21
        have h22 : Keeps s a14 := by
          refine Keeps.fst a16 ?_
          refine Keeps.trans ?_ (State.beginOp_keeps ..)
          exact Keeps.refl _
        extract_lets +onlyGivenNames x23
        clear_value x23
        split
        rename_i a24 a25 a26 a27
        have h28 : Keeps s a25 := by
          refine Keeps.fst a27 ?_
          refine Keeps.trans ?_ (State.tryInject_keeps ..)
          assumption
        extract_lets +onlyGivenNames x29
        clear_value x29
        extract_lets +onlyGivenNames x30
        have h31 : Keeps s x30 := by
          unfold x30
          split
          · rename_i a32
            refine Keeps.trans ?_ (State.mxuResidue_keeps ..)
            assumption
          · rename_i a33
            assumption
        clear_value x30
        extract_lets +onlyGivenNames x34
        clear_value x34
        extract_lets +onlyGivenNames x35
        clear_value x35
        extract_lets +onlyGivenNames x36
        clear_value x36
        extract_lets +onlyGivenNames x37
        clear_value x37
        extract_lets +onlyGivenNames x38
        clear_value x38
        extract_lets +onlyGivenNames x39
        have h40 : Keeps s x39 := by
          unfold x39
          refine Keeps.trans ?_ (State.raiseIfAt_keeps ..)
          assumption
        clear_value x39
        extract_lets +onlyGivenNames x41
        have h42 : Keeps s x41 := by
          unfold x41
          refine Keeps.trans ?_ (State.raiseIfAt_keeps ..)
          assumption
        clear_value x41
        extract_lets +onlyGivenNames x43
        have h44 : Keeps s x43 := by
          unfold x43
          refine Keeps.trans ?_ (State.raiseIfAt_keeps ..)
          assumption
        clear_value x43
        extract_lets +onlyGivenNames x45
        clear_value x45
        extract_lets +onlyGivenNames x46
        have h47 : Keeps s x46 := by
          unfold x46
          refine Keeps.trans ?_ (State.addAt_keeps ..)
          assumption
        clear_value x46
        extract_lets +onlyGivenNames x48
        clear_value x48
        extract_lets +onlyGivenNames x49
        have h50 : Keeps s x49 := by
          unfold x49
          refine Keeps.upd ?_ rfl rfl rfl
          assumption
        clear_value x49
        extract_lets +onlyGivenNames x51
        have h52 : Keeps s x51 := by
          unfold x51
          split
          · rename_i a53
            split
            · rename_i a54
              refine Keeps.trans ?_ (State.lateRows_keeps ..)
              assumption
            · rename_i a55
              refine Keeps.trans ?_ (State.voidRows_keeps ..)
              assumption
          · rename_i a56
            assumption
        clear_value x51
        refine KeepsO.next ?_
        refine Keeps.trans ?_ (State.finishOp_keeps ..)
        assumption

theorem execSpanMerge_keeps (issue : Issue) (loc slot head pos : Nat) (row : Fin 32) (outAddr : Nat) (s : State) :
    KeepsO s (execSpanMerge issue loc slot head pos row outAddr s) := by
  unfold execSpanMerge
  extract_lets core gen mine same bit
  split
  · exact KeepsO.next (Keeps.refl s)
  split
  · exact KeepsO.next (Keeps.refl s)
  extract_lets start f0
  split
  extract_lets s1 src1 s2 held key ys s3 src2 s4 src3 r s5
  have h1 : Keeps s s1 := State.addAt_keeps ..
  have h2 : Keeps s s2 := h1.trans (Keeps.same rfl rfl rfl rfl rfl rfl)
  have h3 : Keeps s s3 := h2.trans (State.storeBytes_keeps ..)
  have h4 : Keeps s s4 := h3.trans (Keeps.same rfl rfl rfl rfl rfl rfl)
  have h5 : Keeps s s5 := by
    unfold s5
    cases key with
    | some k =>
      dsimp only
      split
      · exact h2.trans (State.voidRows_keeps ..)
      · exact h2.trans (State.lateRows_keeps ..)
    | none => exact ((h2.trans (State.add_keeps ..)).trans (State.setReq_keeps ..)).trans (State.dropFold_keeps ..)
  split
  · exact KeepsO.next (h4.trans (State.produce_keeps ..))
  · split
    · exact KeepsO.next (h2.trans (Keeps.same rfl rfl rfl rfl rfl rfl))
    · exact KeepsO.next (h5.trans (State.produce_keeps ..))

theorem State.bindBushel_keeps (s : State) (b : Bushel) : Keeps s (State.bindBushel s b) := by
  unfold State.bindBushel
  extract_lets +onlyGivenNames x1
  clear_value x1
  extract_lets +onlyGivenNames x2
  clear_value x2
  extract_lets +onlyGivenNames x3
  clear_value x3
  refine Keeps.foldl _ _ ?_ (fun u4 x5 => ?_)
  · beta_reduce
    exact Keeps.refl _
  · beta_reduce
    split
    · rename_i a6 a7
      exact Keeps.refl _
    · rename_i a8 a9 a10
      refine Keeps.trans ?_ (State.setToken_keeps ..)
      exact Keeps.refl _

theorem State.markBushel_keeps (s : State) (key : ℕ) (loc : ℕ) (slot : ℕ) (held : Bool) : Keeps s (State.markBushel s key loc slot held) := by
  unfold State.markBushel
  extract_lets +onlyGivenNames x1
  clear_value x1
  refine Keeps.upd ?_ rfl rfl rfl
  exact Keeps.refl _

theorem State.syncHeld_keeps (s : State) (b : Bushel) : Keeps s (State.syncHeld s b) := by
  unfold State.syncHeld
  extract_lets +onlyGivenNames x1
  clear_value x1
  refine Keeps.upd ?_ rfl rfl rfl
  exact Keeps.refl _

theorem State.classReq_keeps (s : State) (l : KvLayer) (b : Bushel) (slot : ℕ) (free : ℕ) : Keeps s (State.classReq s l b slot free).1 := by
  unfold State.classReq
  extract_lets +onlyGivenNames x1
  clear_value x1
  extract_lets +onlyGivenNames x2
  clear_value x2
  extract_lets +onlyGivenNames x3
  clear_value x3
  extract_lets +onlyGivenNames x4
  clear_value x4
  split
  · rename_i a5
    dsimp only
    refine Keeps.upd ?_ rfl rfl rfl
    exact Keeps.refl _
  · rename_i a6
    split
    · rename_i a7
      dsimp only
      refine Keeps.trans ?_ (State.markBushel_keeps ..)
      refine Keeps.upd ?_ rfl rfl rfl
      exact Keeps.refl _
    · rename_i a8
      dsimp only
      refine Keeps.trans ?_ (State.markBushel_keeps ..)
      refine Keeps.upd ?_ rfl rfl rfl
      exact Keeps.refl _

theorem State.grantHeld_keeps (s : State) (l : KvLayer) (spare : ℕ) : Keeps s (State.grantHeld s l spare) := by
  unfold State.grantHeld
  extract_lets +onlyGivenNames x1
  clear_value x1
  refine Keeps.foldlFst _ _ ?_ (fun u2 x3 => ?_)
  · beta_reduce
    dsimp only
    exact Keeps.refl _
  · beta_reduce
    extract_lets +onlyGivenNames x4
    clear_value x4
    extract_lets +onlyGivenNames x5
    have h6 : Keeps u2.1 x5 := by
      unfold x5
      exact Keeps.refl _
    clear_value x5
    extract_lets +onlyGivenNames x7
    clear_value x7
    dsimp only
    refine Keeps.upd ?_ rfl rfl rfl
    assumption

theorem State.assignStep_keeps (s : State) (l : KvLayer) (key : ℕ) : Keeps s (State.assignStep s l key) := by
  unfold State.assignStep
  split
  · rename_i a1 a2
    exact Keeps.refl _
  · rename_i a3 a4 a5
    split
    rename_i a6 a7 a8 a9
    have h10 : Keeps s a7 := by
      refine Keeps.fst a9 ?_
      refine Keeps.foldlFst _ _ ?_ (fun u11 x12 => ?_)
      · beta_reduce
        dsimp only
        exact Keeps.refl _
      · beta_reduce
        split
        · rename_i a13 a14
          exact Keeps.refl _
        · rename_i a15 a16 a17
          refine Keeps.trans ?_ (State.classReq_keeps ..)
          exact Keeps.refl _
    refine Keeps.trans ?_ (State.grantHeld_keeps ..)
    assumption

theorem State.showHeld_keeps (s : State) : Keeps s (State.showHeld s) := by
  unfold State.showHeld
  refine Keeps.foldl _ _ ?_ (fun u1 x2 => ?_)
  · beta_reduce
    exact Keeps.refl _
  · beta_reduce
    extract_lets +onlyGivenNames x3
    clear_value x3
    refine Keeps.foldl _ _ ?_ (fun u4 x5 => ?_)
    · beta_reduce
      exact Keeps.refl _
    · beta_reduce
      split
      · rename_i a6 a7
        exact Keeps.refl _
      · rename_i a8 a9 a10
        refine Keeps.trans ?_ (State.putAt_keeps ..)
        refine Keeps.trans ?_ (State.putAt_keeps ..)
        exact Keeps.refl _

theorem State.rejoin_keeps (s : State) (l : KvLayer) : Keeps s (State.rejoin s l) := by
  unfold State.rejoin
  refine Keeps.foldl _ _ ?_ (fun u1 x2 => ?_)
  · beta_reduce
    exact Keeps.refl _
  · beta_reduce
    split
    · rename_i a3 a4
      exact Keeps.refl _
    · rename_i a5 a6 a7
      extract_lets +onlyGivenNames x8
      clear_value x8
      extract_lets +onlyGivenNames x9
      clear_value x9
      refine Keeps.upd ?_ rfl rfl rfl
      exact Keeps.refl _

theorem State.ringRows_keeps (s : State) (x : RingRun) : Keeps s (State.ringRows s x) := by
  unfold State.ringRows
  split
  · rename_i a1 a2
    exact Keeps.refl _
  · rename_i a3 a4 a5 a6
    extract_lets +onlyGivenNames x7
    clear_value x7
    extract_lets +onlyGivenNames x8
    clear_value x8
    extract_lets +onlyGivenNames x9
    clear_value x9
    split
    · rename_i a10
      exact Keeps.refl _
    · rename_i a11
      split
      · rename_i a12
        exact Keeps.refl _
      · rename_i a13
        split
        rename_i a14 a15 a16 a17
        have h18 : Keeps s a15 := by
          refine Keeps.fst a17 ?_
          refine Keeps.foldlFst _ _ ?_ (fun u19 x20 => ?_)
          · beta_reduce
            dsimp only
            exact Keeps.refl _
          · beta_reduce
            split
            · rename_i a21 a22
              exact Keeps.refl _
            · rename_i a23 a24 a25
              extract_lets +onlyGivenNames x26
              clear_value x26
              extract_lets +onlyGivenNames x27
              clear_value x27
              extract_lets +onlyGivenNames x28
              have h29 : Keeps u19.1 x28 := by
                unfold x28
                exact Keeps.refl _
              clear_value x28
              extract_lets +onlyGivenNames x30
              clear_value x30
              dsimp only
              refine Keeps.upd ?_ rfl rfl rfl
              assumption
        extract_lets +onlyGivenNames x31
        clear_value x31
        refine Keeps.upd ?_ rfl rfl rfl
        assumption

theorem State.pauseNew_keeps (s : State) (newKeys : List ℕ) : Keeps s (State.pauseNew s newKeys) := by
  unfold State.pauseNew
  refine Keeps.foldl _ _ ?_ (fun u1 x2 => ?_)
  · beta_reduce
    exact Keeps.refl _
  · beta_reduce
    refine Keeps.foldl _ _ ?_ (fun u3 x4 => ?_)
    · beta_reduce
      exact Keeps.refl _
    · beta_reduce
      refine Keeps.trans ?_ (State.markBushel_keeps ..)
      exact Keeps.refl _

theorem State.assignLanes_keeps (s : State) (newKeys : List ℕ) : Keeps s (State.assignLanes s newKeys) := by
  unfold State.assignLanes
  extract_lets +onlyGivenNames x1
  clear_value x1
  extract_lets +onlyGivenNames x2
  have h3 : Keeps s x2 := by
    unfold x2
    refine Keeps.upd ?_ rfl rfl rfl
    exact Keeps.refl _
  clear_value x2
  extract_lets +onlyGivenNames x4
  clear_value x4
  extract_lets +onlyGivenNames x5
  have h6 : Keeps s x5 := by
    unfold x5
    refine Keeps.foldl _ _ ?_ (fun u7 x8 => ?_)
    · beta_reduce
      assumption
    · beta_reduce
      refine Keeps.trans ?_ (State.rejoin_keeps ..)
      exact Keeps.refl _
  clear_value x5
  extract_lets +onlyGivenNames x9
  have h10 : Keeps s x9 := by
    unfold x9
    refine Keeps.foldl _ _ ?_ (fun u11 x12 => ?_)
    · beta_reduce
      assumption
    · beta_reduce
      refine Keeps.foldl _ _ ?_ (fun u13 x14 => ?_)
      · beta_reduce
        exact Keeps.refl _
      · beta_reduce
        refine Keeps.trans ?_ (State.assignStep_keeps ..)
        exact Keeps.refl _
  clear_value x9
  extract_lets +onlyGivenNames x15
  have h16 : Keeps s x15 := by
    unfold x15
    refine Keeps.trans ?_ (State.pauseNew_keeps ..)
    assumption
  clear_value x15
  extract_lets +onlyGivenNames x17
  have h18 : Keeps s x17 := by
    unfold x17
    refine Keeps.foldl _ _ ?_ (fun u19 x20 => ?_)
    · beta_reduce
      assumption
    · beta_reduce
      refine Keeps.trans ?_ (State.ringRows_keeps ..)
      exact Keeps.refl _
  clear_value x17
  refine Keeps.trans ?_ (State.showHeld_keeps ..)
  refine Keeps.foldl _ _ ?_ (fun u21 x22 => ?_)
  · beta_reduce
    assumption
  · beta_reduce
    refine Keeps.trans ?_ (State.bindBushel_keeps ..)
    exact Keeps.refl _

theorem execRingRequestStart_keeps (slot : ℕ) (ring : ℕ) (s : State) : KeepsO s (execRingRequestStart slot ring s) := by
  unfold execRingRequestStart
  extract_lets +onlyGivenNames x1
  clear_value x1
  split
  · rename_i a2 a3
    refine KeepsO.next ?_
    exact Keeps.refl _
  · rename_i a4 a5 a6
    extract_lets +onlyGivenNames x7
    clear_value x7
    extract_lets +onlyGivenNames x8
    clear_value x8
    extract_lets +onlyGivenNames x9
    clear_value x9
    extract_lets +onlyGivenNames x10
    have h11 : Keeps s x10 := by
      unfold x10
      refine Keeps.upd ?_ rfl rfl rfl
      exact Keeps.refl _
    clear_value x10
    split
    · rename_i a12
      refine KeepsO.next ?_
      refine Keeps.trans ?_ (State.sendUpdate_keeps ..)
      refine Keeps.trans ?_ (State.setReq_keeps ..)
      assumption
    · rename_i a13
      refine KeepsO.next ?_
      exact Keeps.refl _

theorem State.setRing_keeps (s : State) (x : RingRun) : Keeps s (State.setRing s x) := by
  unfold State.setRing
  extract_lets +onlyGivenNames x1
  clear_value x1
  refine Keeps.upd ?_ rfl rfl rfl
  exact Keeps.refl _

theorem State.ringVoid_keeps (s : State) (d : Ring) (x : RingRun) : Keeps s (State.ringVoid s d x) := by
  unfold State.ringVoid
  extract_lets +onlyGivenNames x1
  have h2 : Keeps s x1 := by
    unfold x1
    refine Keeps.foldl _ _ ?_ (fun u3 x4 => ?_)
    · beta_reduce
      exact Keeps.refl _
    · beta_reduce
      split
      · rename_i a5 a6 a7
        refine Keeps.trans ?_ (State.putAt_keeps ..)
        exact Keeps.refl _
      · rename_i a8 a9
        exact Keeps.refl _
  clear_value x1
  extract_lets +onlyGivenNames x10
  clear_value x10
  extract_lets +onlyGivenNames x11
  have h12 : Keeps s x11 := by
    unfold x11
    refine Keeps.trans ?_ (State.setReq_keeps ..)
    assumption
  clear_value x11
  extract_lets +onlyGivenNames x13
  have h14 : Keeps s x13 := by
    unfold x13
    refine Keeps.trans ?_ (State.setRing_keeps ..)
    assumption
  clear_value x13
  extract_lets +onlyGivenNames x15
  clear_value x15
  split
  · rename_i a16
    refine Keeps.trans ?_ (State.drain_keeps ..)
    refine Keeps.upd ?_ rfl rfl rfl
    assumption
  · rename_i a17
    assumption

theorem State.ringTake_keeps (s : State) (unit : List Byte) : Keeps s (State.ringTake s unit) := by
  unfold State.ringTake
  split
  · rename_i a1 a2
    exact Keeps.refl _
  · rename_i a3 a4 a5
    extract_lets +onlyGivenNames x6
    clear_value x6
    extract_lets +onlyGivenNames x7
    clear_value x7
    split
    · rename_i a8
      split
      · rename_i a9 a10 a11
        split
        · rename_i a12
          exact Keeps.refl _
        · rename_i a13
          refine Keeps.trans ?_ (State.ringVoid_keeps ..)
          exact Keeps.refl _
      · rename_i a14 a15
        exact Keeps.refl _
    · rename_i a16
      refine Keeps.trans ?_ (State.setRing_keeps ..)
      exact Keeps.refl _

theorem State.ringEval_keeps (s : State) (d : Ring) (l : KvLayer) (x : RingRun) (t : ℕ) : Keeps s (State.ringEval s d l x t) := by
  unfold State.ringEval
  extract_lets +onlyGivenNames x1
  clear_value x1
  extract_lets +onlyGivenNames x2
  clear_value x2
  extract_lets +onlyGivenNames x3
  clear_value x3
  extract_lets +onlyGivenNames x4
  have h5 : Keeps s x4 := by
    unfold x4
    refine Keeps.foldl _ _ ?_ (fun u6 x7 => ?_)
    · beta_reduce
      exact Keeps.refl _
    · beta_reduce
      split
      · rename_i a8 a9 a10
        refine Keeps.trans ?_ (State.addAt_keeps ..)
        exact Keeps.refl _
      · rename_i a11 a12
        exact Keeps.refl _
  clear_value x4
  split
  · rename_i a13
    refine Keeps.trans ?_ (State.ringVoid_keeps ..)
    exact Keeps.refl _
  · rename_i a14
    refine Keeps.trans ?_ (State.setRing_keeps ..)
    assumption

theorem State.ringLast_keeps (s : State) (x : RingRun) : Keeps s (State.ringLast s x) := by
  unfold State.ringLast
  extract_lets +onlyGivenNames x1
  clear_value x1
  refine Keeps.trans ?_ (State.setReq_keeps ..)
  exact Keeps.refl _

theorem execRingStep_keeps (ring : ℕ) (bad : Bool) (s : State) : KeepsO s (execRingStep ring bad s) := by
  unfold execRingStep
  split
  · rename_i a1 a2 a3 a4 a5 a6
    split
    · rename_i a7 a8
      refine KeepsO.next ?_
      exact Keeps.refl _
    · rename_i a9 a10 a11
      extract_lets +onlyGivenNames x12
      clear_value x12
      extract_lets +onlyGivenNames x13
      clear_value x13
      extract_lets +onlyGivenNames x14
      clear_value x14
      split
      · rename_i a15
        refine KeepsO.next ?_
        exact Keeps.refl _
      · rename_i a16
        split
        · rename_i a17
          refine KeepsO.next ?_
          refine Keeps.trans ?_ (State.ringVoid_keeps ..)
          exact Keeps.refl _
        · rename_i a18
          split
          · rename_i a19 a20
            refine KeepsO.next ?_
            split
            · rename_i a21
              refine Keeps.trans ?_ (State.ringEval_keeps ..)
              exact Keeps.refl _
            · rename_i a22
              exact Keeps.refl _
          · rename_i a23 a24
            extract_lets +onlyGivenNames x25
            clear_value x25
            extract_lets +onlyGivenNames x26
            have h27 : Keeps s x26 := by
              unfold x26
              refine Keeps.trans ?_ (State.setRing_keeps ..)
              exact Keeps.refl _
            clear_value x26
            split
            · rename_i a28
              refine KeepsO.next ?_
              exact Keeps.refl _
            · rename_i a29
              split
              · rename_i a30
                refine KeepsO.next ?_
                refine Keeps.trans ?_ (State.ringEval_keeps ..)
                exact Keeps.refl _
              · rename_i a31
                refine KeepsO.next ?_
                split
                · rename_i a32
                  assumption
                · rename_i a33
                  refine Keeps.trans ?_ (State.ringLast_keeps ..)
                  assumption
          · rename_i a34 a35
            extract_lets +onlyGivenNames x36
            clear_value x36
            extract_lets +onlyGivenNames x37
            clear_value x37
            extract_lets +onlyGivenNames x38
            have h39 : Keeps s x38 := by
              unfold x38
              refine Keeps.upd ?_ rfl rfl rfl
              exact Keeps.refl _
            clear_value x38
            split
            · rename_i a40
              refine KeepsO.next ?_
              exact Keeps.refl _
            · rename_i a41
              split
              · rename_i a42
                refine KeepsO.next ?_
                refine Keeps.trans ?_ (State.setRing_keeps ..)
                exact Keeps.refl _
              · rename_i a43
                refine KeepsO.next ?_
                refine Keeps.trans ?_ (State.setReq_keeps ..)
                assumption
  · rename_i a44 a45 a46
    refine KeepsO.next ?_
    exact Keeps.refl _

theorem State.restartRings_keeps (s : State) : Keeps s (State.restartRings s) := by
  unfold State.restartRings
  extract_lets +onlyGivenNames x1
  clear_value x1
  refine Keeps.upd ?_ rfl rfl rfl
  exact Keeps.refl _

theorem State.voidRingsOf_keeps (s : State) (gm : ℕ × ℕ) : Keeps s (State.voidRingsOf s gm) := by
  unfold State.voidRingsOf
  refine Keeps.foldl _ _ ?_ (fun u1 x2 => ?_)
  · beta_reduce
    exact Keeps.refl _
  · beta_reduce
    split
    · rename_i a3 a4 a5
      split
      · rename_i a6
        refine Keeps.trans ?_ (State.ringVoid_keeps ..)
        exact Keeps.refl _
      · rename_i a7
        exact Keeps.refl _
    · rename_i a8 a9
      exact Keeps.refl _

theorem State.kvLost_keeps (s : State) (gm : ℕ × ℕ) : Keeps s (State.kvLost s gm) := by
  unfold State.kvLost
  split
  · rename_i a1
    refine Keeps.foldl _ _ ?_ (fun u2 x3 => ?_)
    · beta_reduce
      exact Keeps.refl _
    · beta_reduce
      split
      · rename_i a4
        refine Keeps.trans ?_ (State.drain_keeps ..)
        exact Keeps.refl _
      · rename_i a5
        exact Keeps.refl _
  · rename_i a6
    exact Keeps.refl _

theorem State.endRingsOf_keeps (s : State) (gm : ℕ × ℕ) : Keeps s (State.endRingsOf s gm) := by
  unfold State.endRingsOf
  refine Keeps.foldl _ _ ?_ (fun u1 x2 => ?_)
  · beta_reduce
    exact Keeps.refl _
  · beta_reduce
    split
    · rename_i a3 a4 a5
      extract_lets +onlyGivenNames x6
      clear_value x6
      split
      · rename_i a7
        refine Keeps.trans ?_ (State.drain_keeps ..)
        refine Keeps.upd ?_ rfl rfl rfl
        exact Keeps.refl _
      · rename_i a8
        exact Keeps.refl _
    · rename_i a9 a10
      exact Keeps.refl _

/-! ### Machine/Requests.lean -/

theorem State.writeIdx_keeps (s : State) (r : RingPair) : Keeps s (State.writeIdx s r) := by
  unfold State.writeIdx
  extract_lets +onlyGivenNames x1
  clear_value x1
  split
  · rename_i a2
    refine Keeps.upd ?_ rfl rfl rfl
    exact Keeps.refl _
  · rename_i a3
    exact Keeps.refl _

theorem execIntakePoll_keeps (recs : List (List Byte)) (hostIdx : ℕ) (late : Bool) (s : State) : KeepsO s (execIntakePoll recs hostIdx late s) := by
  unfold execIntakePoll
  refine KeepsO.next ?_
  split
  · rename_i a1 a2
    exact Keeps.refl _
  · rename_i a3 a4 a5
    extract_lets +onlyGivenNames x6
    clear_value x6
    extract_lets +onlyGivenNames x7
    clear_value x7
    extract_lets +onlyGivenNames x8
    have h9 : Keeps s x8 := by
      unfold x8
      refine Keeps.trans ?_ (State.put_keeps ..)
      refine Keeps.trans ?_ (State.put_keeps ..)
      exact Keeps.refl _
    clear_value x8
    extract_lets +onlyGivenNames x10
    clear_value x10
    split
    · rename_i a11
      exact Keeps.refl _
    · rename_i a12
      split
      · rename_i a13
        refine Keeps.trans ?_ (State.add_keeps ..)
        refine Keeps.trans ?_ (State.addAt_keeps ..)
        exact Keeps.refl _
      · rename_i a14
        split
        · rename_i a15
          exact Keeps.refl _
        · rename_i a16
          refine Keeps.trans ?_ (State.writeIdx_keeps ..)
          refine Keeps.upd ?_ rfl rfl rfl
          assumption

theorem State.unpoll_keeps (s : State) (raw : List Byte) : Keeps s (State.unpoll s raw) := by
  unfold State.unpoll
  extract_lets +onlyGivenNames x1
  clear_value x1
  refine Keeps.upd ?_ rfl rfl rfl
  exact Keeps.refl _

theorem State.refuseSubmit_keeps (s : State) (handle : BitVec 64) (code : ℕ) : Keeps s (State.refuseSubmit s handle code) := by
  unfold State.refuseSubmit
  extract_lets +onlyGivenNames x1
  have h2 : Keeps s x1 := by
    unfold x1
    refine Keeps.trans ?_ (State.put_keeps ..)
    refine Keeps.trans ?_ (State.put_keeps ..)
    refine Keeps.trans ?_ (State.add_keeps ..)
    exact Keeps.refl _
  clear_value x1
  extract_lets +onlyGivenNames x3
  have h4 : Keeps s x3 := by
    unfold x3
    refine Keeps.trans ?_ (State.raiseIfAt_keeps ..)
    assumption
  clear_value x3
  refine Keeps.trans ?_ (State.queueEg_keeps ..)
  assumption

theorem State.trySeat_keeps (s : State) (slot : ℕ) : Keeps s (State.trySeat s slot) := by
  unfold State.trySeat
  extract_lets +onlyGivenNames x1
  clear_value x1
  extract_lets +onlyGivenNames x2
  clear_value x2
  split
  · rename_i a3
    refine Keeps.trans ?_ (State.sendUpdate_keeps ..)
    refine Keeps.trans ?_ (State.setReq_keeps ..)
    exact Keeps.refl _
  · rename_i a4
    exact Keeps.refl _

theorem execSubmit_keeps (raw : List Byte) (f : Fetch) (s : State) : KeepsO s (execSubmit raw f s) := by
  unfold execSubmit
  refine KeepsO.next ?_
  split
  · rename_i a1 a2
    exact Keeps.refl _
  · rename_i a3 a4 a5
    extract_lets +onlyGivenNames x6
    have h7 : Keeps s x6 := by
      unfold x6
      refine Keeps.trans ?_ (State.unpoll_keeps ..)
      exact Keeps.refl _
    clear_value x6
    extract_lets +onlyGivenNames x8
    clear_value x8
    split
    · rename_i a9 a10 a11
      refine Keeps.trans ?_ (State.refuseSubmit_keeps ..)
      assumption
    · rename_i a12 a13 a14
      extract_lets +onlyGivenNames x15
      clear_value x15
      extract_lets +onlyGivenNames x16
      clear_value x16
      extract_lets +onlyGivenNames x17
      clear_value x17
      extract_lets +onlyGivenNames x18
      clear_value x18
      extract_lets +onlyGivenNames x19
      clear_value x19
      extract_lets +onlyGivenNames x20
      have h21 : Keeps s x20 := by
        unfold x20
        refine Keeps.trans ?_ (State.add_keeps ..)
        refine Keeps.trans ?_ (State.reserve_keeps ..)
        refine Keeps.trans ?_ (State.setReq_keeps ..)
        assumption
      clear_value x20
      refine Keeps.trans ?_ (State.trySeat_keeps ..)
      refine Keeps.trans ?_ (State.queueEg_keeps ..)
      assumption

theorem State.ctrlMiss_keeps (s : State) : Keeps s (State.ctrlMiss s) := by
  unfold State.ctrlMiss
  refine Keeps.trans ?_ (State.add_keeps ..)
  exact Keeps.refl _

theorem execCancel_keeps (raw : List Byte) (s : State) : KeepsO s (execCancel raw s) := by
  unfold execCancel
  extract_lets +onlyGivenNames x1
  have h2 : Keeps s x1 := by
    unfold x1
    refine Keeps.trans ?_ (State.unpoll_keeps ..)
    exact Keeps.refl _
  clear_value x1
  split
  · rename_i a3 a4
    refine KeepsO.next ?_
    refine Keeps.trans ?_ (State.ctrlMiss_keeps ..)
    assumption
  · rename_i a5 a6 a7
    extract_lets +onlyGivenNames x8
    clear_value x8
    extract_lets +onlyGivenNames x9
    clear_value x9
    split
    · rename_i a10
      refine KeepsO.next ?_
      refine Keeps.trans ?_ (State.endReq_keeps ..)
      assumption
    · rename_i a11
      refine KeepsO.next ?_
      refine Keeps.trans ?_ (State.sendUpdate_keeps ..)
      assumption

theorem State.sendControl_keeps (s : State) (raw : List Byte) (type : ℕ) (k : UpdateKind) : Keeps s (State.sendControl s raw type k) := by
  unfold State.sendControl
  extract_lets +onlyGivenNames x1
  have h2 : Keeps s x1 := by
    unfold x1
    refine Keeps.trans ?_ (State.unpoll_keeps ..)
    exact Keeps.refl _
  clear_value x1
  split
  · rename_i a3 a4
    refine Keeps.trans ?_ (State.ctrlMiss_keeps ..)
    assumption
  · rename_i a5 a6 a7
    refine Keeps.trans ?_ (State.sendUpdate_keeps ..)
    assumption

theorem execPause_keeps (raw : List Byte) (s : State) : KeepsO s (execPause raw s) := by
  unfold execPause
  refine KeepsO.next ?_
  refine Keeps.trans ?_ (State.sendControl_keeps ..)
  exact Keeps.refl _

theorem execResume_keeps (raw : List Byte) (s : State) : KeepsO s (execResume raw s) := by
  unfold execResume
  refine KeepsO.next ?_
  refine Keeps.trans ?_ (State.sendControl_keeps ..)
  exact Keeps.refl _

theorem execDraft_keeps (raw : List Byte) (s : State) : KeepsO s (execDraft raw s) := by
  unfold execDraft
  extract_lets +onlyGivenNames x1
  have h2 : Keeps s x1 := by
    unfold x1
    refine Keeps.trans ?_ (State.unpoll_keeps ..)
    exact Keeps.refl _
  clear_value x1
  split
  · rename_i a3 a4
    refine KeepsO.next ?_
    refine Keeps.trans ?_ (State.ctrlMiss_keeps ..)
    assumption
  · rename_i a5 a6 a7
    extract_lets +onlyGivenNames x8
    clear_value x8
    split
    · rename_i a9
      refine KeepsO.next ?_
      refine Keeps.trans ?_ (State.ctrlMiss_keeps ..)
      assumption
    · rename_i a10
      split
      · rename_i a11 a12
        extract_lets +onlyGivenNames x13
        clear_value x13
        refine KeepsO.next ?_
        refine Keeps.trans ?_ (State.setReq_keeps ..)
        assumption
      · rename_i a14 a15
        extract_lets +onlyGivenNames x16
        clear_value x16
        refine KeepsO.next ?_
        refine Keeps.trans ?_ (State.setReq_keeps ..)
        assumption
      · rename_i a17 a18 a19
        refine KeepsO.next ?_
        refine Keeps.trans ?_ (State.add_keeps ..)
        assumption

theorem execHostReadCompletion_keeps (region : Fin 16) (core : CoreId) (token : ℕ) (inst : ℕ) (rows : BitVec 32) (addr : ℕ) (data : List Byte) (issuedAt : ℕ) (error : Bool) (s : State) : KeepsO s (execHostReadCompletion region core token inst rows addr data issuedAt error s) := by
  unfold execHostReadCompletion
  refine KeepsO.next ?_
  split
  · rename_i a1
    exact Keeps.refl _
  · rename_i a2
    split
    · rename_i a3
      refine Keeps.trans ?_ (State.add_keeps ..)
      refine Keeps.trans ?_ (State.addAt_keeps ..)
      exact Keeps.refl _
    · rename_i a4
      split
      rename_i a5 a6 a7 a8
      have h9 : Keeps s a6 := by
        refine Keeps.fst a8 ?_
        refine Keeps.trans ?_ (State.arrive_keeps ..)
        exact Keeps.refl _
      split
      · rename_i a10
        refine Keeps.trans ?_ (State.storeBytes_keeps ..)
        assumption
      · rename_i a11
        assumption

theorem State.formBushel_keeps (s : State) (v : Variant) (b : ℕ) (start : ℕ) : Keeps s (State.formBushel s v b start) := by
  unfold State.formBushel
  extract_lets +onlyGivenNames x1
  clear_value x1
  extract_lets +onlyGivenNames x2
  clear_value x2
  extract_lets +onlyGivenNames x3
  clear_value x3
  extract_lets +onlyGivenNames x4
  clear_value x4
  extract_lets +onlyGivenNames x5
  clear_value x5
  extract_lets +onlyGivenNames x6
  have h7 : Keeps s x6 := by
    unfold x6
    refine Keeps.trans ?_ (State.bindBushel_keeps ..)
    refine Keeps.upd ?_ rfl rfl rfl
    exact Keeps.refl _
  clear_value x6
  refine Keeps.foldl _ _ ?_ (fun u8 x9 => ?_)
  · beta_reduce
    assumption
  · beta_reduce
    extract_lets +onlyGivenNames x10
    clear_value x10
    extract_lets +onlyGivenNames x11
    clear_value x11
    extract_lets +onlyGivenNames x12
    clear_value x12
    extract_lets +onlyGivenNames x13
    clear_value x13
    refine Keeps.trans ?_ (State.setReq_keeps ..)
    exact Keeps.refl _

theorem State.formBushels_keeps (s : State) : Keeps s (State.formBushels s).1 := by
  unfold State.formBushels
  split
  · rename_i a1 a2
    dsimp only
    exact Keeps.refl _
  · rename_i a3 a4 a5
    extract_lets +onlyGivenNames x6
    clear_value x6
    split
    · rename_i a7
      dsimp only
      exact Keeps.refl _
    · rename_i a8
      refine Keeps.foldlFst _ _ ?_ (fun u9 x10 => ?_)
      · beta_reduce
        dsimp only
        exact Keeps.refl _
      · beta_reduce
        extract_lets +onlyGivenNames x11
        clear_value x11
        dsimp only
        refine Keeps.trans ?_ (State.formBushel_keeps ..)
        exact Keeps.refl _

theorem execEntryIssue_keeps (bushel : ℕ) (s : State) : KeepsO s (execEntryIssue bushel s) := by
  unfold execEntryIssue
  split
  · rename_i a1 a2
    refine KeepsO.next ?_
    exact Keeps.refl _
  · rename_i a3 a4 a5
    extract_lets +onlyGivenNames x6
    clear_value x6
    extract_lets +onlyGivenNames x7
    clear_value x7
    extract_lets +onlyGivenNames x8
    clear_value x8
    extract_lets +onlyGivenNames x9
    clear_value x9
    extract_lets +onlyGivenNames x10
    have h11 : Keeps s x10 := by
      unfold x10
      refine Keeps.upd ?_ rfl rfl rfl
      exact Keeps.refl _
    clear_value x10
    extract_lets +onlyGivenNames x12
    have h13 : Keeps s x12 := by
      unfold x12
      refine Keeps.foldl _ _ ?_ (fun u14 x15 => ?_)
      · beta_reduce
        assumption
      · beta_reduce
        extract_lets +onlyGivenNames x16
        clear_value x16
        extract_lets +onlyGivenNames x17
        clear_value x17
        extract_lets +onlyGivenNames x18
        clear_value x18
        extract_lets +onlyGivenNames x19
        clear_value x19
        extract_lets +onlyGivenNames x20
        clear_value x20
        extract_lets +onlyGivenNames x21
        clear_value x21
        extract_lets +onlyGivenNames x22
        clear_value x22
        extract_lets +onlyGivenNames x23
        clear_value x23
        extract_lets +onlyGivenNames x24
        have h25 : Keeps u14 x24 := by
          unfold x24
          refine Keeps.trans ?_ (State.add_keeps ..)
          refine Keeps.trans ?_ (State.add_keeps ..)
          exact Keeps.refl _
        clear_value x24
        split
        · rename_i a26
          exact Keeps.refl _
        · rename_i a27
          split
          · rename_i a28
            refine Keeps.trans ?_ (State.setReq_keeps ..)
            exact Keeps.refl _
          · rename_i a29
            refine Keeps.trans ?_ (State.setReq_keeps ..)
            assumption
    clear_value x12
    refine KeepsO.next ?_
    refine Keeps.trans ?_ (State.bindBushel_keeps ..)
    refine Keeps.trans ?_ (State.syncHeld_keeps ..)
    assumption

theorem State.countTokens_keeps (s : State) (r : Req) (toks : List ℕ) : Keeps s (State.countTokens s r toks) := by
  unfold State.countTokens
  split
  · rename_i a1
    exact Keeps.refl _
  · rename_i a2
    refine Keeps.foldl _ _ ?_ (fun u3 x4 => ?_)
    · beta_reduce
      exact Keeps.refl _
    · beta_reduce
      extract_lets +onlyGivenNames x5
      clear_value x5
      refine Keeps.trans ?_ (State.stackWrite_keeps ..)
      exact Keeps.refl _

theorem execCommitDecision_keeps (bushel : ℕ) (slot : ℕ) (s : State) : KeepsO s (execCommitDecision bushel slot s) := by
  unfold execCommitDecision
  split
  · rename_i a1 a2
    refine KeepsO.next ?_
    exact Keeps.refl _
  · rename_i a3 a4 a5
    extract_lets +onlyGivenNames x6
    clear_value x6
    extract_lets +onlyGivenNames x7
    clear_value x7
    extract_lets +onlyGivenNames x8
    clear_value x8
    extract_lets +onlyGivenNames x9
    clear_value x9
    extract_lets +onlyGivenNames x10
    clear_value x10
    extract_lets +onlyGivenNames x11
    have h12 : Keeps s x11 := by
      unfold x11
      refine Keeps.trans ?_ (State.add_keeps ..)
      refine Keeps.trans ?_ (State.add_keeps ..)
      exact Keeps.refl _
    clear_value x11
    extract_lets +onlyGivenNames x13
    clear_value x13
    extract_lets +onlyGivenNames x14
    clear_value x14
    extract_lets +onlyGivenNames x15
    have h16 : Keeps s x15 := by
      unfold x15
      refine Keeps.trans ?_ (State.setReq_keeps ..)
      refine Keeps.trans ?_ (State.countTokens_keeps ..)
      assumption
    clear_value x15
    extract_lets +onlyGivenNames x17
    clear_value x17
    extract_lets +onlyGivenNames x18
    clear_value x18
    extract_lets +onlyGivenNames x19
    clear_value x19
    extract_lets +onlyGivenNames x20
    clear_value x20
    refine KeepsO.next ?_
    refine Keeps.upd ?_ rfl rfl rfl
    assumption

theorem execReturnRecord_keeps (q : ReturnRec) (s : State) : KeepsO s (execReturnRecord q s) := by
  unfold execReturnRecord
  extract_lets +onlyGivenNames x1
  clear_value x1
  extract_lets +onlyGivenNames x2
  clear_value x2
  extract_lets +onlyGivenNames x3
  have h4 : Keeps s x3 := by
    unfold x3
    refine Keeps.upd ?_ rfl rfl rfl
    exact Keeps.refl _
  clear_value x3
  extract_lets +onlyGivenNames x5
  clear_value x5
  extract_lets +onlyGivenNames x6
  clear_value x6
  extract_lets +onlyGivenNames x7
  clear_value x7
  extract_lets +onlyGivenNames x8
  clear_value x8
  extract_lets +onlyGivenNames x9
  clear_value x9
  extract_lets +onlyGivenNames x10
  clear_value x10
  extract_lets +onlyGivenNames x11
  have h12 : Keeps s x11 := by
    unfold x11
    refine Keeps.trans ?_ (State.setReq_keeps ..)
    assumption
  clear_value x11
  extract_lets +onlyGivenNames x13
  have h14 : Keeps s x13 := by
    unfold x13
    split
    · rename_i a15
      assumption
    · rename_i a16
      refine Keeps.trans ?_ (State.queueTokens_keeps ..)
      assumption
  clear_value x13
  split
  · rename_i a17
    refine KeepsO.next ?_
    assumption
  · rename_i a18
    refine KeepsO.next ?_
    split
    · rename_i a19 a20 a21
      split
      · rename_i a22
        split
        · rename_i a23
          refine Keeps.trans ?_ (State.setReq_keeps ..)
          assumption
        · rename_i a24
          assumption
      · rename_i a25
        refine Keeps.trans ?_ (State.drain_keeps ..)
        assumption
    · rename_i a26 a27
      split
      · rename_i a28
        refine Keeps.trans ?_ (State.drain_keeps ..)
        assumption
      · rename_i a29
        assumption

theorem State.writeEg_keeps (s : State) (r : RingPair) (e : EgRec) : Keeps s (State.writeEg s r e) := by
  unfold State.writeEg
  extract_lets +onlyGivenNames x1
  clear_value x1
  extract_lets +onlyGivenNames x2
  clear_value x2
  extract_lets +onlyGivenNames x3
  have h4 : Keeps s x3 := by
    unfold x3
    refine Keeps.upd ?_ rfl rfl rfl
    exact Keeps.refl _
  clear_value x3
  refine Keeps.trans ?_ (State.put_keeps ..)
  assumption

theorem State.egStall_keeps (s : State) (slot : ℕ) : Keeps s (State.egStall s slot) := by
  unfold State.egStall
  extract_lets +onlyGivenNames x1
  have h2 : Keeps s x1 := by
    unfold x1
    refine Keeps.trans ?_ (State.put_keeps ..)
    refine Keeps.trans ?_ (State.add_keeps ..)
    exact Keeps.refl _
  clear_value x1
  extract_lets +onlyGivenNames x3
  clear_value x3
  split
  · rename_i a4 a5
    refine Keeps.trans ?_ (State.setReq_keeps ..)
    assumption
  · rename_i a6 a7
    refine Keeps.trans ?_ (State.setReq_keeps ..)
    assumption
  · rename_i a8 a9
    refine Keeps.trans ?_ (State.setReq_keeps ..)
    assumption
  · rename_i a10 a11 a12 a13
    assumption

theorem State.egClear_keeps (s : State) (slot : ℕ) : Keeps s (State.egClear s slot) := by
  unfold State.egClear
  extract_lets +onlyGivenNames x1
  clear_value x1
  split
  · rename_i a2
    refine Keeps.trans ?_ (State.setReq_keeps ..)
    exact Keeps.refl _
  · rename_i a3
    exact Keeps.refl _

theorem State.writeItem_keeps (s : State) (r : RingPair) (it : EgItem) : Keeps s (State.writeItem s r it).1 := by
  unfold State.writeItem
  split
  · rename_i a1 a2
    dsimp only
    refine Keeps.trans ?_ (State.writeEg_keeps ..)
    exact Keeps.refl _
  · rename_i a3 a4
    extract_lets +onlyGivenNames x5
    clear_value x5
    extract_lets +onlyGivenNames x6
    clear_value x6
    split
    · rename_i a7
      dsimp only
      exact Keeps.refl _
    · rename_i a8
      dsimp only
      refine Keeps.trans ?_ (State.egClear_keeps ..)
      refine Keeps.trans ?_ (State.setReq_keeps ..)
      refine Keeps.trans ?_ (State.writeEg_keeps ..)
      exact Keeps.refl _

theorem execEgressSlot_keeps (s : State) : KeepsO s (execEgressSlot s) := by
  unfold execEgressSlot
  refine KeepsO.next ?_
  split
  · rename_i a1 a2
    exact Keeps.refl _
  · rename_i a3 a4 a5
    extract_lets +onlyGivenNames x6
    clear_value x6
    extract_lets +onlyGivenNames x7
    clear_value x7
    extract_lets +onlyGivenNames x8
    have h9 : Keeps s x8 := by
      unfold x8
      refine Keeps.upd ?_ rfl rfl rfl
      exact Keeps.refl _
    clear_value x8
    split
    · rename_i a10
      exact Keeps.refl _
    · rename_i a11
      split
      rename_i a12 a13 a14 a15 a16
      have h17 : Keeps s a13 := by
        refine Keeps.fst a16 ?_
        refine Keeps.foldlFst _ _ ?_ (fun u18 x19 => ?_)
        · beta_reduce
          dsimp only
          assumption
        · beta_reduce
          split
          rename_i a20 a21 a22 a23
          extract_lets +onlyGivenNames x24
          clear_value x24
          extract_lets +onlyGivenNames x25
          clear_value x25
          split
          · rename_i a26
            split
            rename_i a27 a28 a29 a30
            have h31 : Keeps (a21, a22, a23).1 a28 := by
              refine Keeps.fst a30 ?_
              refine Keeps.trans ?_ (State.writeItem_keeps ..)
              exact Keeps.refl _
            dsimp only
            assumption
          · rename_i a32
            dsimp only
            refine Keeps.trans ?_ (State.egStall_keeps ..)
            refine Keeps.upd ?_ rfl rfl rfl
            exact Keeps.refl _
      extract_lets +onlyGivenNames x33
      have h34 : Keeps s x33 := by
        unfold x33
        split
        · rename_i a35
          assumption
        · rename_i a36
          refine Keeps.trans ?_ (State.writeIdx_keeps ..)
          assumption
      clear_value x33
      split
      · rename_i a37
        refine Keeps.trans ?_ (State.sendVector_keeps ..)
        assumption
      · rename_i a38
        assumption

theorem execSlotFree_keeps (slot : ℕ) (s : State) : KeepsO s (execSlotFree slot s) := by
  unfold execSlotFree
  extract_lets +onlyGivenNames x1
  clear_value x1
  refine KeepsO.next ?_
  split
  · rename_i a2 a3 a4
    extract_lets +onlyGivenNames x5
    clear_value x5
    split
    · rename_i a6
      refine Keeps.trans ?_ (State.setReq_keeps ..)
      exact Keeps.refl _
    · rename_i a7
      exact Keeps.refl _
  · rename_i a8 a9
    exact Keeps.refl _

theorem execIntakeEnWrite_keeps (w : Wr) (s : State) : KeepsO s (execIntakeEnWrite w s) := by
  unfold execIntakeEnWrite
  split
  rename_i a1 a2 a3 a4
  have h5 : Keeps s a2 := by
    refine Keeps.fst a4 ?_
    refine Keeps.trans ?_ (State.write_keeps ..)
    exact Keeps.refl _
  refine KeepsO.next ?_
  split
  · rename_i a6
    refine Keeps.trans ?_ (State.advanceStart_keeps ..)
    assumption
  · rename_i a7
    assumption

theorem execMcOpenIntake_keeps (s : State) : KeepsO s (execMcOpenIntake s) := by
  unfold execMcOpenIntake
  refine KeepsO.next ?_
  split
  · rename_i a1
    refine Keeps.trans ?_ (State.advanceStart_keeps ..)
    refine Keeps.trans ?_ (State.put_keeps ..)
    exact Keeps.refl _
  · rename_i a2
    exact Keeps.refl _

theorem execMcCloseIntake_keeps (s : State) : KeepsO s (execMcCloseIntake s) := by
  unfold execMcCloseIntake
  refine KeepsO.next ?_
  split
  · rename_i a1
    refine Keeps.trans ?_ (State.advanceStart_keeps ..)
    refine Keeps.trans ?_ (State.put_keeps ..)
    exact Keeps.refl _
  · rename_i a2
    exact Keeps.refl _

theorem State.applyAdmit_keeps (s : State) (slot : ℕ) : Keeps s (State.applyAdmit s slot) := by
  unfold State.applyAdmit
  extract_lets +onlyGivenNames x1
  clear_value x1
  extract_lets +onlyGivenNames x2
  clear_value x2
  extract_lets +onlyGivenNames x3
  clear_value x3
  extract_lets +onlyGivenNames x4
  clear_value x4
  extract_lets +onlyGivenNames x5
  clear_value x5
  extract_lets +onlyGivenNames x6
  clear_value x6
  extract_lets +onlyGivenNames x7
  have h8 : Keeps s x7 := by
    unfold x7
    refine Keeps.trans ?_ (State.setReq_keeps ..)
    exact Keeps.refl _
  clear_value x7
  extract_lets +onlyGivenNames x9
  clear_value x9
  extract_lets +onlyGivenNames x10
  have h11 : Keeps s x10 := by
    unfold x10
    refine Keeps.upd ?_ rfl rfl rfl
    assumption
  clear_value x10
  split
  · rename_i a12
    exact Keeps.refl _
  · rename_i a13
    refine Keeps.trans ?_ (State.mapBelow_keeps ..)
    refine Keeps.trans ?_ (State.allocTables_keeps ..)
    assumption

theorem State.applyUpdate_keeps (s : State) (u : TableUpdate) : Keeps s (State.applyUpdate s u) := by
  unfold State.applyUpdate
  extract_lets +onlyGivenNames x1
  clear_value x1
  extract_lets +onlyGivenNames x2
  clear_value x2
  split
  · rename_i a3 a4
    split
    · rename_i a5
      refine Keeps.trans ?_ (State.applyAdmit_keeps ..)
      exact Keeps.refl _
    · rename_i a6
      exact Keeps.refl _
  · rename_i a7 a8
    split
    · rename_i a9
      refine Keeps.trans ?_ (State.endReq_keeps ..)
      exact Keeps.refl _
    · rename_i a10
      exact Keeps.refl _
  · rename_i a11 a12
    split
    · rename_i a13
      refine Keeps.trans ?_ (State.endReq_keeps ..)
      exact Keeps.refl _
    · rename_i a14
      refine Keeps.trans ?_ (State.ctrlMiss_keeps ..)
      exact Keeps.refl _
  · rename_i a15 a16
    split
    · rename_i a17
      refine Keeps.trans ?_ (State.ctrlMiss_keeps ..)
      exact Keeps.refl _
    · rename_i a18
      split
      · rename_i a19 a20
        refine Keeps.trans ?_ (State.setReq_keeps ..)
        exact Keeps.refl _
      · rename_i a21 a22
        refine Keeps.trans ?_ (State.setReq_keeps ..)
        exact Keeps.refl _
      · rename_i a23 a24
        refine Keeps.trans ?_ (State.setReq_keeps ..)
        exact Keeps.refl _
      · rename_i a25 a26 a27 a28
        refine Keeps.trans ?_ (State.ctrlMiss_keeps ..)
        exact Keeps.refl _
  · rename_i a29 a30
    split
    · rename_i a31
      refine Keeps.trans ?_ (State.setReq_keeps ..)
      exact Keeps.refl _
    · rename_i a32
      refine Keeps.trans ?_ (State.ctrlMiss_keeps ..)
      exact Keeps.refl _
  · rename_i a33 a34 a35 a36 a37 a38
    exact Keeps.refl _

theorem State.checkDeadlines_keeps (s : State) : Keeps s (State.checkDeadlines s) := by
  unfold State.checkDeadlines
  refine Keeps.foldl _ _ ?_ (fun u1 x2 => ?_)
  · beta_reduce
    exact Keeps.refl _
  · beta_reduce
    extract_lets +onlyGivenNames x3
    clear_value x3
    split
    · rename_i a4
      refine Keeps.trans ?_ (State.drain_keeps ..)
      exact Keeps.refl _
    · rename_i a5
      exact Keeps.refl _

theorem State.recheckIntake_keeps (s : State) : Keeps s (State.recheckIntake s) := by
  unfold State.recheckIntake
  refine Keeps.foldl _ _ ?_ (fun u1 x2 => ?_)
  · beta_reduce
    exact Keeps.refl _
  · beta_reduce
    extract_lets +onlyGivenNames x3
    clear_value x3
    split
    · rename_i a4
      exact Keeps.refl _
    · rename_i a5
      split
      · rename_i a6
        refine Keeps.trans ?_ (State.endReq_keeps ..)
        exact Keeps.refl _
      · rename_i a7
        refine Keeps.trans ?_ (State.trySeat_keeps ..)
        exact Keeps.refl _

theorem State.mapAhead_keeps (s : State) : Keeps s (State.mapAhead s) := by
  unfold State.mapAhead
  refine Keeps.foldl _ _ ?_ (fun u1 x2 => ?_)
  · beta_reduce
    exact Keeps.refl _
  · beta_reduce
    extract_lets +onlyGivenNames x3
    clear_value x3
    split
    · rename_i a4
      refine Keeps.trans ?_ (State.mapBelow_keeps ..)
      exact Keeps.refl _
    · rename_i a5
      exact Keeps.refl _

theorem State.sampleTable_keeps (s : State) : Keeps s (State.sampleTable s) := by
  unfold State.sampleTable
  refine Keeps.trans ?_ (State.put_keeps ..)
  refine Keeps.trans ?_ (State.put_keeps ..)
  exact Keeps.refl _

/-! ### Machine/Sampling.lean -/

theorem execSampling_keeps (bushel : ℕ) (row : Fin 32) (logits : List FpBits) (flagIn : Bool) (isVoid : Bool) (s : State) : KeepsO s (execSampling bushel row logits flagIn isVoid s) := by
  unfold execSampling
  split
  · rename_i a1 a2
    refine KeepsO.next ?_
    exact Keeps.refl _
  · rename_i a3 a4 a5
    split
    · rename_i a6 a7
      refine KeepsO.next ?_
      exact Keeps.refl _
    · rename_i a8 a9 a10
      extract_lets +onlyGivenNames x11
      clear_value x11
      extract_lets +onlyGivenNames x12
      clear_value x12
      extract_lets +onlyGivenNames x13
      clear_value x13
      extract_lets +onlyGivenNames x14
      split
      · rename_i a15
        refine KeepsO.next ?_
        exact Keeps.refl _
      · rename_i a16
        split
        · rename_i a17
          refine KeepsO.next ?_
          refine Keeps.trans ?_ (State.voidRows_keeps ..)
          exact Keeps.refl _
        · rename_i a18
          split
          rename_i a19 a20 a21 a22 a23
          extract_lets +onlyGivenNames x24
          have h25 : Keeps s x24 := by
            unfold x24
            refine Keeps.trans ?_ (State.add_keeps ..)
            refine Keeps.trans ?_ (State.add_keeps ..)
            exact Keeps.refl _
          clear_value x24
          extract_lets +onlyGivenNames x26
          clear_value x26
          extract_lets +onlyGivenNames x27
          clear_value x27
          refine KeepsO.next ?_
          refine Keeps.upd ?_ rfl rfl rfl
          assumption

end Sys2Proof.Machine
end

