-- ==== Sys2Proof/Laws/Keeps5.lean ====
section
/-! SUPPORT. The operations and meanings of Machine leave the queue alone and keep the invariant: Weights, Adapters, Assize. -/
namespace Sys2Proof.Machine

/-! ### Machine/Weights.lean -/

theorem State.showEpochs_keeps (s : State) : Keeps s (State.showEpochs s) := by
  unfold State.showEpochs
  extract_lets +onlyGivenNames x1
  clear_value x1
  extract_lets +onlyGivenNames x2
  have h3 : Keeps s x2 := by
    unfold x2
    refine Keeps.trans ?_ (State.flag_keeps ..)
    refine Keeps.trans ?_ (State.put_keeps ..)
    exact Keeps.refl _
  clear_value x2
  extract_lets +onlyGivenNames x4
  have h5 : Keeps s x4 := by
    unfold x4
    split
    · rename_i a6
      assumption
    · rename_i a7
      refine Keeps.trans ?_ (State.put_keeps ..)
      assumption
  clear_value x4
  refine Keeps.trans ?_ (State.flag_keeps ..)
  refine Keeps.trans ?_ (State.flag_keeps ..)
  assumption

theorem State.startLoad_keeps (s : State) (addr : ℕ) (len : ℕ) : Keeps s (State.startLoad s addr len) := by
  unfold State.startLoad
  extract_lets +onlyGivenNames x1
  have h2 : Keeps s x1 := by
    unfold x1
    refine Keeps.trans ?_ (State.put_keeps ..)
    refine Keeps.trans ?_ (State.put_keeps ..)
    refine Keeps.trans ?_ (State.put_keeps ..)
    exact Keeps.refl _
  clear_value x1
  extract_lets +onlyGivenNames x3
  clear_value x3
  split
  · rename_i a4
    exact Keeps.refl _
  · rename_i a5
    refine Keeps.upd ?_ rfl rfl rfl
    assumption

theorem State.freeTier_keeps (s : State) (core : ℕ) (eng : ℕ) (tier : ℕ) : Keeps s (State.freeTier s core eng tier) := by
  unfold State.freeTier
  refine Keeps.trans ?_ (State.logCoreMap_keeps ..)
  refine Keeps.trans ?_ (State.setRole_keeps ..)
  exact Keeps.refl _

theorem State.failLoad_keeps (s : State) (code : ℕ) : Keeps s (State.failLoad s code) := by
  unfold State.failLoad
  split
  · rename_i a1 a2
    exact Keeps.refl _
  · rename_i a3 a4 a5
    extract_lets +onlyGivenNames x6
    have h7 : Keeps s x6 := by
      unfold x6
      refine Keeps.foldl _ _ ?_ (fun u8 x9 => ?_)
      · beta_reduce
        exact Keeps.refl _
      · beta_reduce
        split
        · rename_i a10 a11 a12
          split
          · rename_i a13
            exact Keeps.refl _
          · rename_i a14
            refine Keeps.trans ?_ (State.freeTier_keeps ..)
            exact Keeps.refl _
        · rename_i a15 a16
          exact Keeps.refl _
    clear_value x6
    extract_lets +onlyGivenNames x17
    clear_value x17
    extract_lets +onlyGivenNames x18
    have h19 : Keeps s x18 := by
      unfold x18
      refine Keeps.upd ?_ rfl rfl rfl
      assumption
    clear_value x18
    extract_lets +onlyGivenNames x20
    have h21 : Keeps s x20 := by
      unfold x20
      refine Keeps.trans ?_ (State.flag_keeps ..)
      refine Keeps.trans ?_ (State.add_keeps ..)
      refine Keeps.trans ?_ (State.put_keeps ..)
      refine Keeps.trans ?_ (State.complete17_keeps ..)
      assumption
    clear_value x20
    extract_lets +onlyGivenNames x22
    have h23 : Keeps s x22 := by
      unfold x22
      split
      · rename_i a24 a25 a26
        split
        · rename_i a27 a28 a29
          refine Keeps.trans ?_ (State.requestFence_keeps ..)
          assumption
        · rename_i a30 a31
          assumption
      · rename_i a32 a33
        assumption
    clear_value x22
    refine Keeps.trans ?_ (State.showEpochs_keeps ..)
    refine Keeps.trans ?_ (State.settle_keeps ..)
    assumption

theorem State.endLoad_keeps (s : State) : Keeps s (State.endLoad s) := by
  unfold State.endLoad
  split
  · rename_i a1 a2 a3
    extract_lets +onlyGivenNames x4
    clear_value x4
    extract_lets +onlyGivenNames x5
    have h6 : Keeps s x5 := by
      unfold x5
      refine Keeps.upd ?_ rfl rfl rfl
      exact Keeps.refl _
    clear_value x5
    split
    · rename_i a7
      refine Keeps.trans ?_ (State.advanceStart_keeps ..)
      refine Keeps.trans ?_ (State.showEpochs_keeps ..)
      refine Keeps.trans ?_ (State.settle_keeps ..)
      refine Keeps.trans ?_ (State.put_keeps ..)
      refine Keeps.trans ?_ (State.complete17_keeps ..)
      assumption
    · rename_i a8
      exact Keeps.refl _
  · rename_i a9 a10
    exact Keeps.refl _

theorem State.ldCtrl_keeps (s : State) (w : Wr) : Keeps s (State.ldCtrl s w) := by
  unfold State.ldCtrl
  split
  rename_i a1 a2 a3 a4
  have h5 : Keeps s a2 := by
    refine Keeps.fst a4 ?_
    refine Keeps.trans ?_ (State.write_keeps ..)
    exact Keeps.refl _
  split
  · rename_i a6
    split
    · rename_i a7
      refine Keeps.trans ?_ (State.failLoad_keeps ..)
      assumption
    · rename_i a8
      assumption
  · rename_i a9
    split
    · rename_i a10
      refine Keeps.trans ?_ (State.startLoad_keeps ..)
      assumption
    · rename_i a11
      assumption

theorem execLdStart_keeps (w : Wr) (s : State) : KeepsO s (execLdStart w s) := by
  unfold execLdStart
  refine KeepsO.next ?_
  refine Keeps.trans ?_ (State.ldCtrl_keeps ..)
  exact Keeps.refl _

theorem execLdAbort_keeps (w : Wr) (s : State) : KeepsO s (execLdAbort w s) := by
  unfold execLdAbort
  refine KeepsO.next ?_
  refine Keeps.trans ?_ (State.ldCtrl_keeps ..)
  exact Keeps.refl _

theorem execMcLoadCommand_keeps (addr : BitVec 64) (len : ℕ) (s : State) : KeepsO s (execMcLoadCommand addr len s) := by
  unfold execMcLoadCommand
  refine KeepsO.next ?_
  split
  · rename_i a1
    refine Keeps.trans ?_ (State.startLoad_keeps ..)
    exact Keeps.refl _
  · rename_i a2
    exact Keeps.refl _

theorem State.setLoad_keeps (s : State) (l : Load) : Keeps s (State.setLoad s l) := by
  unfold State.setLoad
  extract_lets +onlyGivenNames x1
  clear_value x1
  refine Keeps.upd ?_ rfl rfl rfl
  exact Keeps.refl _

theorem State.loadIn_keeps (s : State) (l : Load) (d : Fetched) : Keeps s (State.loadIn s l d) := by
  unfold State.loadIn
  split
  · rename_i a1
    split
    · rename_i a2
      refine Keeps.trans ?_ (State.failLoad_keeps ..)
      exact Keeps.refl _
    · rename_i a3
      refine Keeps.trans ?_ (State.setLoad_keeps ..)
      exact Keeps.refl _
  · rename_i a4 a5 a6
    split
    · rename_i a7
      exact Keeps.refl _
    · rename_i a8
      split
      · rename_i a9 a10 a11
        refine Keeps.trans ?_ (State.failLoad_keeps ..)
        exact Keeps.refl _
      · rename_i a12 a13 a14
        refine Keeps.trans ?_ (State.setLoad_keeps ..)
        exact Keeps.refl _
  · rename_i a15 a16 a17 a18 a19
    split
    · rename_i a20 a21
      exact Keeps.refl _
    · rename_i a22 a23 a24
      split
      · rename_i a25
        exact Keeps.refl _
      · rename_i a26
        split
        · rename_i a27
          refine Keeps.trans ?_ (State.failLoad_keeps ..)
          exact Keeps.refl _
        · rename_i a28
          split
          · rename_i a29 a30 a31
            refine Keeps.trans ?_ (State.failLoad_keeps ..)
            exact Keeps.refl _
          · rename_i a32 a33 a34
            extract_lets +onlyGivenNames x35
            have h36 : Keeps s x35 := by
              unfold x35
              refine Keeps.trans ?_ (State.add_keeps ..)
              exact Keeps.refl _
            clear_value x35
            extract_lets +onlyGivenNames x37
            clear_value x37
            split
            rename_i a38 a39 a40 a41
            split
            · rename_i a42 a43 a44
              refine Keeps.trans ?_ (State.failLoad_keeps ..)
              assumption
            · rename_i a45 a46 a47
              extract_lets +onlyGivenNames x48
              extract_lets +onlyGivenNames x49
              split
              · rename_i a50
                refine Keeps.trans ?_ (State.failLoad_keeps ..)
                assumption
              · rename_i a51
                split
                · rename_i a52
                  refine Keeps.trans ?_ (State.setLoad_keeps ..)
                  assumption
                · rename_i a53
                  refine Keeps.trans ?_ (State.endLoad_keeps ..)
                  refine Keeps.trans ?_ (State.setLoad_keeps ..)
                  assumption

theorem execChunkArrival_keeps (d : Fetched) (s : State) : KeepsO s (execChunkArrival d s) := by
  unfold execChunkArrival
  refine KeepsO.next ?_
  split
  · rename_i a1 a2
    exact Keeps.refl _
  · rename_i a3 a4 a5
    split
    · rename_i a6
      exact Keeps.refl _
    · rename_i a7
      refine Keeps.trans ?_ (State.loadIn_keeps ..)
      exact Keeps.refl _

theorem State.markFresh_keeps (s : State) (core : ℕ) (eng : ℕ) (tier : ℕ) : Keeps s (State.markFresh s core eng tier) := by
  unfold State.markFresh
  extract_lets +onlyGivenNames x1
  clear_value x1
  extract_lets +onlyGivenNames x2
  extract_lets +onlyGivenNames x3
  have h4 : Keeps s x3 := by
    unfold x3
    unfold x2
    extract_lets +onlyGivenNames x5
    clear_value x5
    extract_lets +onlyGivenNames x6
    clear_value x6
    split
    · rename_i a7
      refine Keeps.trans ?_ (State.put_keeps ..)
      refine Keeps.trans ?_ (State.putAt_keeps ..)
      split
      · rename_i a8
        refine Keeps.trans ?_ (State.put_keeps ..)
        refine Keeps.trans ?_ (State.putAt_keeps ..)
        exact Keeps.refl _
      · rename_i a9
        exact Keeps.refl _
    · rename_i a10
      split
      · rename_i a11
        refine Keeps.trans ?_ (State.put_keeps ..)
        refine Keeps.trans ?_ (State.putAt_keeps ..)
        exact Keeps.refl _
      · rename_i a12
        exact Keeps.refl _
  clear_value x3
  extract_lets +onlyGivenNames x13
  have h14 : Keeps s x13 := by
    unfold x13
    refine Keeps.foldl _ _ ?_ (fun u15 x16 => ?_)
    · beta_reduce
      refine Keeps.trans ?_ (State.setTierCal_keeps ..)
      assumption
    · beta_reduce
      extract_lets +onlyGivenNames x17
      clear_value x17
      refine Keeps.trans ?_ (State.setBand_keeps ..)
      exact Keeps.refl _
  clear_value x13
  split
  · rename_i a18
    assumption
  · rename_i a19
    refine Keeps.trans ?_ (State.add_keeps ..)
    refine Keeps.trans ?_ (State.putAt_keeps ..)
    assumption

theorem State.corpusForce_keeps (s : State) (epoch : ℕ) : Keeps s (State.corpusForce s epoch) := by
  unfold State.corpusForce
  refine Keeps.foldl _ _ ?_ (fun u1 x2 => ?_)
  · beta_reduce
    exact Keeps.refl _
  · beta_reduce
    extract_lets +onlyGivenNames x3
    clear_value x3
    extract_lets +onlyGivenNames x4
    have h5 : Keeps u1 x4 := by
      unfold x4
      refine Keeps.foldl _ _ ?_ (fun u6 x7 => ?_)
      · beta_reduce
        exact Keeps.refl _
      · beta_reduce
        split
        · rename_i a8 a9 a10 a11
          refine Keeps.trans ?_ (State.setRole_keeps ..)
          exact Keeps.refl _
        · rename_i a12
          exact Keeps.refl _
    clear_value x4
    extract_lets +onlyGivenNames x13
    clear_value x13
    split
    · rename_i a14
      exact Keeps.refl _
    · rename_i a15
      refine Keeps.upd ?_ rfl rfl rfl
      assumption

theorem State.finishTier_keeps (s : State) (t : StagedTile) (tier : ℕ) : Keeps s (State.finishTier s t tier) := by
  unfold State.finishTier
  split
  · rename_i a1 a2
    exact Keeps.refl _
  · rename_i a3 a4 a5
    extract_lets +onlyGivenNames x6
    clear_value x6
    extract_lets +onlyGivenNames x7
    clear_value x7
    extract_lets +onlyGivenNames x8
    clear_value x8
    extract_lets +onlyGivenNames x9
    clear_value x9
    extract_lets +onlyGivenNames x10
    have h11 : Keeps s x10 := by
      unfold x10
      refine Keeps.foldl _ _ ?_ (fun u12 x13 => ?_)
      · beta_reduce
        exact Keeps.refl _
      · beta_reduce
        refine Keeps.trans ?_ (State.setRole_keeps ..)
        exact Keeps.refl _
    clear_value x10
    extract_lets +onlyGivenNames x14
    have h15 : Keeps s x14 := by
      unfold x14
      refine Keeps.trans ?_ (State.setRole_keeps ..)
      refine Keeps.trans ?_ (State.setTier_keeps ..)
      assumption
    clear_value x14
    extract_lets +onlyGivenNames x16
    clear_value x16
    extract_lets +onlyGivenNames x17
    extract_lets +onlyGivenNames x18
    clear_value x18
    extract_lets +onlyGivenNames x19
    have h20 : Keeps s x19 := by
      unfold x19
      refine Keeps.upd ?_ rfl rfl rfl
      assumption
    clear_value x19
    extract_lets +onlyGivenNames x21
    have h22 : Keeps s x21 := by
      unfold x21
      refine Keeps.trans ?_ (State.logCoreMap_keeps ..)
      refine Keeps.trans ?_ (State.markFresh_keeps ..)
      refine Keeps.trans ?_ (State.add_keeps ..)
      assumption
    clear_value x21
    split
    · rename_i a23
      refine Keeps.trans ?_ (State.corpusForce_keeps ..)
      assumption
    · rename_i a24
      assumption

theorem State.setStaged_keeps (s : State) (k : ℕ) (t : StagedTile) : Keeps s (State.setStaged s k t) := by
  unfold State.setStaged
  split
  · rename_i a1 a2 a3
    refine Keeps.trans ?_ (State.setLoad_keeps ..)
    exact Keeps.refl _
  · rename_i a4 a5
    exact Keeps.refl _

theorem State.stepRow_keeps (s : State) (k : ℕ) (t : StagedTile) (tier : ℕ) (ok : Bool) (injected : Bool) : Keeps s (State.stepRow s k t tier ok injected) := by
  unfold State.stepRow
  extract_lets +onlyGivenNames x1
  clear_value x1
  extract_lets +onlyGivenNames x2
  have h3 : Keeps s x2 := by
    unfold x2
    refine Keeps.trans ?_ (State.faultRecord_keeps ..)
    exact Keeps.refl _
  clear_value x2
  split
  · rename_i a4
    split
    · rename_i a5
      refine Keeps.trans ?_ (State.setStaged_keeps ..)
      exact Keeps.refl _
    · rename_i a6
      refine Keeps.trans ?_ (State.advanceStart_keeps ..)
      refine Keeps.trans ?_ (State.endLoad_keeps ..)
      refine Keeps.trans ?_ (State.finishTier_keeps ..)
      refine Keeps.trans ?_ (State.setStaged_keeps ..)
      exact Keeps.refl _
  · rename_i a7
    split
    · rename_i a8
      refine Keeps.trans ?_ (State.setStaged_keeps ..)
      exact Keeps.refl _
    · rename_i a9
      split
      · rename_i a10
        refine Keeps.trans ?_ (State.setStaged_keeps ..)
        refine Keeps.trans ?_ (State.addAt_keeps ..)
        exact Keeps.refl _
      · rename_i a11
        refine Keeps.trans ?_ (State.failLoad_keeps ..)
        refine Keeps.trans ?_ (State.logCoreMap_keeps ..)
        refine Keeps.trans ?_ (State.setRole_keeps ..)
        assumption

theorem execProgramStep_keeps (core : CoreId) (eng : EngId) (verified : Bool) (s : State) : KeepsO s (execProgramStep core eng verified s) := by
  unfold execProgramStep
  refine KeepsO.next ?_
  split
  · rename_i a1 a2
    exact Keeps.refl _
  · rename_i a3 a4 a5
    extract_lets +onlyGivenNames x6
    clear_value x6
    split
    · rename_i a7 a8
      exact Keeps.refl _
    · rename_i a9 a10 a11
      split
      · rename_i a12
        exact Keeps.refl _
      · rename_i a13
        split
        · rename_i a14 a15 a16
          refine Keeps.trans ?_ (State.failLoad_keeps ..)
          exact Keeps.refl _
        · rename_i a17 a18 a19 a20
          extract_lets +onlyGivenNames x21
          clear_value x21
          extract_lets +onlyGivenNames x22
          clear_value x22
          extract_lets +onlyGivenNames x23
          clear_value x23
          extract_lets +onlyGivenNames x24
          have h25 : Keeps s x24 := by
            unfold x24
            split
            · rename_i a26
              exact Keeps.refl _
            · rename_i a27
              refine Keeps.trans ?_ (State.setRole_keeps ..)
              refine Keeps.trans ?_ (State.setTier_keeps ..)
              exact Keeps.refl _
          clear_value x24
          extract_lets +onlyGivenNames x28
          have h29 : Keeps s x28 := by
            unfold x28
            refine Keeps.trans ?_ (State.putAt_keeps ..)
            refine Keeps.trans ?_ (State.putAt_keeps ..)
            refine Keeps.trans ?_ (State.putAt_keeps ..)
            assumption
          clear_value x28
          split
          rename_i a30 a31 a32 a33
          have h34 : Keeps s a31 := by
            refine Keeps.fst a33 ?_
            refine Keeps.trans ?_ (State.tryInject_keeps ..)
            assumption
          extract_lets +onlyGivenNames x35
          clear_value x35
          refine Keeps.trans ?_ (State.stepRow_keeps ..)
          assumption

theorem State.seeEpoch_keeps (s : State) (m : SbMsg) : Keeps s (State.seeEpoch s m) := by
  unfold State.seeEpoch
  split
  rename_i a1 a2 a3 a4
  have h5 : Keeps s a2 := by
    refine Keeps.fst a4 ?_
    refine Keeps.trans ?_ (State.enterSb_keeps ..)
    exact Keeps.refl _
  extract_lets +onlyGivenNames x6
  clear_value x6
  split
  · rename_i a7
    assumption
  · rename_i a8
    split
    · rename_i a9
      refine Keeps.upd ?_ rfl rfl rfl
      assumption
    · rename_i a10
      split
      · rename_i a11
        assumption
      · rename_i a12
        refine Keeps.trans ?_ (State.showEpochs_keeps ..)
        refine Keeps.upd ?_ rfl rfl rfl
        assumption

theorem State.nameFlip_keeps (s : State) (epoch : ℕ) : Keeps s (State.nameFlip s epoch) := by
  unfold State.nameFlip
  split
  · rename_i a1
    refine Keeps.trans ?_ (State.put_keeps ..)
    exact Keeps.refl _
  · rename_i a2
    split
    · rename_i a3
      exact Keeps.refl _
    · rename_i a4
      refine Keeps.trans ?_ (State.seeEpoch_keeps ..)
      exact Keeps.refl _

theorem execLdFlipReq_keeps (w : Wr) (s : State) : KeepsO s (execLdFlipReq w s) := by
  unfold execLdFlipReq
  split
  rename_i a1 a2 a3 a4
  have h5 : Keeps s a2 := by
    refine Keeps.fst a4 ?_
    refine Keeps.trans ?_ (State.write_keeps ..)
    exact Keeps.refl _
  refine KeepsO.next ?_
  split
  · rename_i a6
    refine Keeps.trans ?_ (State.nameFlip_keeps ..)
    assumption
  · rename_i a7
    assumption

theorem execMcNameFlip_keeps (s : State) : KeepsO s (execMcNameFlip s) := by
  unfold execMcNameFlip
  refine KeepsO.next ?_
  split
  · rename_i a1
    refine Keeps.trans ?_ (State.nameFlip_keeps ..)
    exact Keeps.refl _
  · rename_i a2
    exact Keeps.refl _

theorem execSbEpoch_keeps (m : SbMsg) (s : State) : KeepsO s (execSbEpoch m s) := by
  unfold execSbEpoch
  refine KeepsO.next ?_
  split
  · rename_i a1
    refine Keeps.trans ?_ (State.seeEpoch_keeps ..)
    exact Keeps.refl _
  · rename_i a2
    exact Keeps.refl _

theorem State.takeFlip_keeps (s : State) (e : ℕ) : Keeps s (State.takeFlip s e) := by
  unfold State.takeFlip
  extract_lets +onlyGivenNames x1
  clear_value x1
  extract_lets +onlyGivenNames x2
  have h3 : Keeps s x2 := by
    unfold x2
    refine Keeps.foldl _ _ ?_ (fun u4 x5 => ?_)
    · beta_reduce
      exact Keeps.refl _
    · beta_reduce
      extract_lets +onlyGivenNames x6
      clear_value x6
      extract_lets +onlyGivenNames x7
      clear_value x7
      extract_lets +onlyGivenNames x8
      have h9 : Keeps u4 x8 := by
        unfold x8
        refine Keeps.foldl _ _ ?_ (fun u10 x11 => ?_)
        · beta_reduce
          exact Keeps.refl _
        · beta_reduce
          refine Keeps.trans ?_ (State.setRole_keeps ..)
          exact Keeps.refl _
      clear_value x8
      split
      · rename_i a12
        refine Keeps.trans ?_ (State.setRole_keeps ..)
        assumption
      · rename_i a13
        exact Keeps.refl _
  clear_value x2
  extract_lets +onlyGivenNames x14
  clear_value x14
  extract_lets +onlyGivenNames x15
  have h16 : Keeps s x15 := by
    unfold x15
    refine Keeps.trans ?_ (State.put_keeps ..)
    refine Keeps.trans ?_ (State.put_keeps ..)
    refine Keeps.trans ?_ (State.put_keeps ..)
    assumption
  clear_value x15
  extract_lets +onlyGivenNames x17
  clear_value x17
  extract_lets +onlyGivenNames x18
  have h19 : Keeps s x18 := by
    unfold x18
    refine Keeps.upd ?_ rfl rfl rfl
    assumption
  clear_value x18
  refine Keeps.trans ?_ (State.showEpochs_keeps ..)
  refine Keeps.trans ?_ (State.logAppend_keeps ..)
  assumption

theorem State.flipAtMile_keeps (s : State) : Keeps s (State.flipAtMile s) := by
  unfold State.flipAtMile
  split
  · rename_i a1 a2 a3
    split
    · rename_i a4
      refine Keeps.trans ?_ (State.takeFlip_keeps ..)
      exact Keeps.refl _
    · rename_i a5
      exact Keeps.refl _
  · rename_i a6 a7
    split
    · rename_i a8 a9 a10 a11
      extract_lets +onlyGivenNames x12
      clear_value x12
      split
      · rename_i a13
        exact Keeps.refl _
      · rename_i a14
        split
        · rename_i a15
          refine Keeps.trans ?_ (State.takeFlip_keeps ..)
          exact Keeps.refl _
        · rename_i a16
          refine Keeps.trans ?_ (State.put_keeps ..)
          refine Keeps.upd ?_ rfl rfl rfl
          exact Keeps.refl _
    · rename_i a17 a18
      exact Keeps.refl _

theorem State.refreshAtMile_keeps (s : State) : Keeps s (State.refreshAtMile s) := by
  unfold State.refreshAtMile
  refine Keeps.foldl _ _ ?_ (fun u1 x2 => ?_)
  · beta_reduce
    exact Keeps.refl _
  · beta_reduce
    extract_lets +onlyGivenNames x3
    clear_value x3
    extract_lets +onlyGivenNames x4
    clear_value x4
    extract_lets +onlyGivenNames x5
    clear_value x5
    extract_lets +onlyGivenNames x6
    clear_value x6
    split
    · rename_i a7
      refine Keeps.trans ?_ (State.logCoreMap_keeps ..)
      refine Keeps.foldl _ _ ?_ (fun u8 x9 => ?_)
      · beta_reduce
        refine Keeps.trans ?_ (State.setRole_keeps ..)
        exact Keeps.refl _
      · beta_reduce
        refine Keeps.trans ?_ (State.setRole_keeps ..)
        exact Keeps.refl _
    · rename_i a10
      exact Keeps.refl _

theorem State.planAtMile_keeps (s : State) : Keeps s (State.planAtMile s) := by
  unfold State.planAtMile
  extract_lets +onlyGivenNames x1
  have h2 : Keeps s x1 := by
    unfold x1
    refine Keeps.foldl _ _ ?_ (fun u3 x4 => ?_)
    · beta_reduce
      exact Keeps.refl _
    · beta_reduce
      refine Keeps.trans ?_ (State.startLoad_keeps ..)
      exact Keeps.refl _
  clear_value x1
  refine Keeps.foldl _ _ ?_ (fun u5 x6 => ?_)
  · beta_reduce
    assumption
  · beta_reduce
    extract_lets +onlyGivenNames x7
    clear_value x7
    refine Keeps.trans ?_ (State.nameFlip_keeps ..)
    refine Keeps.upd ?_ rfl rfl rfl
    exact Keeps.refl _

theorem State.sendRetire_keeps (s : State) : Keeps s (State.sendRetire s) := by
  unfold State.sendRetire
  extract_lets +onlyGivenNames x1
  clear_value x1
  extract_lets +onlyGivenNames x2
  clear_value x2
  split
  · rename_i a3
    refine Keeps.trans ?_ (State.sendUpdate_keeps ..)
    exact Keeps.refl _
  · rename_i a4
    exact Keeps.refl _

theorem State.retirePrev_keeps (s : State) : Keeps s (State.retirePrev s) := by
  unfold State.retirePrev
  refine Keeps.trans ?_ (State.showEpochs_keeps ..)
  refine Keeps.foldl _ _ ?_ (fun u1 x2 => ?_)
  · beta_reduce
    exact Keeps.refl _
  · beta_reduce
    split
    · rename_i a3
      refine Keeps.trans ?_ (State.freeTier_keeps ..)
      exact Keeps.refl _
    · rename_i a4
      exact Keeps.refl _

/-! ### Machine/Adapters.lean -/

theorem State.showAdapters_keeps (s : State) : Keeps s (State.showAdapters s) := by
  unfold State.showAdapters
  extract_lets +onlyGivenNames x1
  clear_value x1
  refine Keeps.trans ?_ (State.put_keeps ..)
  refine Keeps.trans ?_ (State.put_keeps ..)
  exact Keeps.refl _

theorem State.queueAd_keeps (s : State) (op : ℕ) (code : ℕ) (slot : ℕ) (ident : ℕ) (ver : ℕ) (base : ℕ) (handle : BitVec 64) : Keeps s (State.queueAd s op code slot ident ver base handle) := by
  unfold State.queueAd
  refine Keeps.trans ?_ (State.queueEg_keeps ..)
  exact Keeps.refl _

theorem execAdapterLoad_keeps (raw : List Byte) (s : State) : KeepsO s (execAdapterLoad raw s) := by
  unfold execAdapterLoad
  extract_lets +onlyGivenNames x1
  have h2 : Keeps s x1 := by
    unfold x1
    refine Keeps.trans ?_ (State.unpoll_keeps ..)
    exact Keeps.refl _
  clear_value x1
  extract_lets +onlyGivenNames x3
  clear_value x3
  extract_lets +onlyGivenNames x4
  clear_value x4
  extract_lets +onlyGivenNames x5
  clear_value x5
  extract_lets +onlyGivenNames x6
  clear_value x6
  extract_lets +onlyGivenNames x7
  clear_value x7
  extract_lets +onlyGivenNames x8
  clear_value x8
  extract_lets +onlyGivenNames x9
  clear_value x9
  split
  · rename_i a10
    refine KeepsO.next ?_
    assumption
  · rename_i a11
    split
    · rename_i a12
      refine KeepsO.next ?_
      refine Keeps.trans ?_ (State.queueAd_keeps ..)
      assumption
    · rename_i a13
      split
      · rename_i a14 a15
        split
        · rename_i a16
          refine KeepsO.next ?_
          refine Keeps.trans ?_ (State.queueAd_keeps ..)
          assumption
        · rename_i a17
          split
          · rename_i a18 a19
            refine KeepsO.next ?_
            refine Keeps.trans ?_ (State.queueAd_keeps ..)
            assumption
          · rename_i a20 a21 a22
            extract_lets +onlyGivenNames x23
            clear_value x23
            extract_lets +onlyGivenNames x24
            clear_value x24
            extract_lets +onlyGivenNames x25
            clear_value x25
            extract_lets +onlyGivenNames x26
            have h27 : Keeps s x26 := by
              unfold x26
              refine Keeps.upd ?_ rfl rfl rfl
              assumption
            clear_value x26
            refine KeepsO.next ?_
            refine Keeps.trans ?_ (State.showAdapters_keeps ..)
            refine Keeps.trans ?_ (State.sendUpdate_keeps ..)
            assumption
      · rename_i a28
        split
        · rename_i a29
          refine KeepsO.next ?_
          refine Keeps.trans ?_ (State.queueAd_keeps ..)
          assumption
        · rename_i a30
          split
          · rename_i a31 a32
            refine KeepsO.next ?_
            refine Keeps.trans ?_ (State.queueAd_keeps ..)
            assumption
          · rename_i a33 a34 a35
            extract_lets +onlyGivenNames x36
            clear_value x36
            extract_lets +onlyGivenNames x37
            clear_value x37
            extract_lets +onlyGivenNames x38
            clear_value x38
            extract_lets +onlyGivenNames x39
            have h40 : Keeps s x39 := by
              unfold x39
              refine Keeps.upd ?_ rfl rfl rfl
              assumption
            clear_value x39
            refine KeepsO.next ?_
            refine Keeps.trans ?_ (State.showAdapters_keeps ..)
            refine Keeps.trans ?_ (State.sendUpdate_keeps ..)
            assumption

theorem execAdapterDrop_keeps (raw : List Byte) (s : State) : KeepsO s (execAdapterDrop raw s) := by
  unfold execAdapterDrop
  extract_lets +onlyGivenNames x1
  have h2 : Keeps s x1 := by
    unfold x1
    refine Keeps.trans ?_ (State.unpoll_keeps ..)
    exact Keeps.refl _
  clear_value x1
  extract_lets +onlyGivenNames x3
  clear_value x3
  extract_lets +onlyGivenNames x4
  clear_value x4
  extract_lets +onlyGivenNames x5
  clear_value x5
  extract_lets +onlyGivenNames x6
  clear_value x6
  extract_lets +onlyGivenNames x7
  clear_value x7
  extract_lets +onlyGivenNames x8
  clear_value x8
  extract_lets +onlyGivenNames x9
  have h10 : Keeps s x9 := by
    unfold x9
    refine Keeps.upd ?_ rfl rfl rfl
    assumption
  clear_value x9
  split
  · rename_i a11
    refine KeepsO.next ?_
    assumption
  · rename_i a12
    split
    · rename_i a13
      refine KeepsO.next ?_
      refine Keeps.trans ?_ (State.queueAd_keeps ..)
      assumption
    · rename_i a14
      refine KeepsO.next ?_
      refine Keeps.trans ?_ (State.sendUpdate_keeps ..)
      assumption

theorem State.beginAdLoad_keeps (s : State) (k : ℕ) : Keeps s (State.beginAdLoad s k) := by
  unfold State.beginAdLoad
  split
  · rename_i a1 a2 a3
    refine Keeps.trans ?_ (State.setAdSlot_keeps ..)
    exact Keeps.refl _
  · rename_i a4 a5
    exact Keeps.refl _

theorem State.applyDrops_keeps (s : State) : Keeps s (State.applyDrops s) := by
  unfold State.applyDrops
  extract_lets +onlyGivenNames x1
  clear_value x1
  extract_lets +onlyGivenNames x2
  clear_value x2
  extract_lets +onlyGivenNames x3
  have h4 : Keeps s x3 := by
    unfold x3
    refine Keeps.upd ?_ rfl rfl rfl
    exact Keeps.refl _
  clear_value x3
  refine Keeps.foldl _ _ ?_ (fun u5 x6 => ?_)
  · beta_reduce
    assumption
  · beta_reduce
    extract_lets +onlyGivenNames x7
    clear_value x7
    extract_lets +onlyGivenNames x8
    clear_value x8
    extract_lets +onlyGivenNames x9
    clear_value x9
    extract_lets +onlyGivenNames x10
    have h11 : Keeps u5 x10 := by
      unfold x10
      refine Keeps.upd ?_ rfl rfl rfl
      exact Keeps.refl _
    clear_value x10
    refine Keeps.trans ?_ (State.queueAd_keeps ..)
    assumption

theorem State.setAdLoad_keeps (s : State) (l : AdLoad) : Keeps s (State.setAdLoad s l) := by
  unfold State.setAdLoad
  extract_lets +onlyGivenNames x1
  clear_value x1
  refine Keeps.upd ?_ rfl rfl rfl
  exact Keeps.refl _

theorem State.partFails_keeps (s : State) (l : AdLoad) : Keeps s (State.partFails s l) := by
  unfold State.partFails
  extract_lets +onlyGivenNames x1
  clear_value x1
  split
  · rename_i a2
    refine Keeps.trans ?_ (State.setAdLoad_keeps ..)
    exact Keeps.refl _
  · rename_i a3
    refine Keeps.trans ?_ (State.setAdLoad_keeps ..)
    refine Keeps.trans ?_ (State.setAdSlot_keeps ..)
    exact Keeps.refl _

theorem State.partDone_keeps (s : State) (l : AdLoad) (data : List Byte) : Keeps s (State.partDone s l data) := by
  unfold State.partDone
  extract_lets +onlyGivenNames x1
  clear_value x1
  extract_lets +onlyGivenNames x2
  clear_value x2
  extract_lets +onlyGivenNames x3
  have h4 : Keeps s x3 := by
    unfold x3
    refine Keeps.trans ?_ (State.countLines_keeps ..)
    refine Keeps.trans ?_ (State.stackWrite_keeps ..)
    exact Keeps.refl _
  clear_value x3
  refine Keeps.trans ?_ (State.add_keeps ..)
  refine Keeps.trans ?_ (State.setAdSlot_keeps ..)
  assumption

theorem State.partIn_keeps (s : State) (l : AdLoad) (d : Fetched) : Keeps s (State.partIn s l d) := by
  unfold State.partIn
  split
  · rename_i a1
    split
    · rename_i a2
      refine Keeps.trans ?_ (State.partFails_keeps ..)
      exact Keeps.refl _
    · rename_i a3
      refine Keeps.trans ?_ (State.setAdLoad_keeps ..)
      exact Keeps.refl _
  · rename_i a4 a5 a6
    split
    · rename_i a7
      exact Keeps.refl _
    · rename_i a8
      split
      · rename_i a9 a10
        refine Keeps.trans ?_ (State.partFails_keeps ..)
        exact Keeps.refl _
      · rename_i a11 a12 a13
        split
        · rename_i a14
          refine Keeps.trans ?_ (State.partFails_keeps ..)
          exact Keeps.refl _
        · rename_i a15
          refine Keeps.trans ?_ (State.setAdLoad_keeps ..)
          exact Keeps.refl _
  · rename_i a16 a17 a18 a19 a20
    split
    · rename_i a21 a22
      exact Keeps.refl _
    · rename_i a23 a24 a25
      split
      · rename_i a26
        exact Keeps.refl _
      · rename_i a27
        split
        · rename_i a28
          refine Keeps.trans ?_ (State.partFails_keeps ..)
          exact Keeps.refl _
        · rename_i a29
          split
          · rename_i a30 a31 a32
            refine Keeps.trans ?_ (State.partFails_keeps ..)
            exact Keeps.refl _
          · rename_i a33 a34 a35
            extract_lets +onlyGivenNames x36
            clear_value x36
            split
            · rename_i a37
              refine Keeps.trans ?_ (State.partDone_keeps ..)
              refine Keeps.trans ?_ (State.setAdLoad_keeps ..)
              exact Keeps.refl _
            · rename_i a38
              refine Keeps.trans ?_ (State.setAdLoad_keeps ..)
              exact Keeps.refl _

theorem execAdapterPartFetch_keeps (slot : ℕ) (part : PartFetch) (s : State) : KeepsO s (execAdapterPartFetch slot part s) := by
  unfold execAdapterPartFetch
  refine KeepsO.next ?_
  split
  · rename_i a1 a2
    exact Keeps.refl _
  · rename_i a3 a4 a5
    split
    · rename_i a6
      exact Keeps.refl _
    · rename_i a7
      split
      · rename_i a8 a9
        refine Keeps.trans ?_ (State.partIn_keeps ..)
        exact Keeps.refl _
      · rename_i a10 a11
        split
        · rename_i a12
          refine Keeps.trans ?_ (State.setAdLoad_keeps ..)
          exact Keeps.refl _
        · rename_i a13
          exact Keeps.refl _

theorem State.failAdLoads_keeps (s : State) : Keeps s (State.failAdLoads s) := by
  unfold State.failAdLoads
  extract_lets +onlyGivenNames x1
  clear_value x1
  extract_lets +onlyGivenNames x2
  clear_value x2
  extract_lets +onlyGivenNames x3
  have h4 : Keeps s x3 := by
    unfold x3
    refine Keeps.upd ?_ rfl rfl rfl
    exact Keeps.refl _
  clear_value x3
  refine Keeps.foldl _ _ ?_ (fun u5 x6 => ?_)
  · beta_reduce
    assumption
  · beta_reduce
    refine Keeps.trans ?_ (State.queueAd_keeps ..)
    exact Keeps.refl _

theorem execAdapterSwitch_keeps (slot : ℕ) (s : State) : KeepsO s (execAdapterSwitch slot s) := by
  unfold execAdapterSwitch
  refine KeepsO.next ?_
  split
  · rename_i a1 a2
    exact Keeps.refl _
  · rename_i a3 a4 a5
    extract_lets +onlyGivenNames x6
    clear_value x6
    extract_lets +onlyGivenNames x7
    have h8 : Keeps s x7 := by
      unfold x7
      refine Keeps.upd ?_ rfl rfl rfl
      exact Keeps.refl _
    clear_value x7
    split
    · rename_i a9
      exact Keeps.refl _
    · rename_i a10
      refine Keeps.trans ?_ (State.showAdapters_keeps ..)
      refine Keeps.trans ?_ (State.queueAd_keeps ..)
      assumption

theorem State.ageSlots_keeps (s : State) : Keeps s (State.ageSlots s) := by
  unfold State.ageSlots
  extract_lets +onlyGivenNames x1
  clear_value x1
  extract_lets +onlyGivenNames x2
  have h3 : Keeps s x2 := by
    unfold x2
    refine Keeps.upd ?_ rfl rfl rfl
    exact Keeps.refl _
  clear_value x2
  extract_lets +onlyGivenNames x4
  clear_value x4
  refine Keeps.trans ?_ (State.showAdapters_keeps ..)
  refine Keeps.foldl _ _ ?_ (fun u5 x6 => ?_)
  · beta_reduce
    assumption
  · beta_reduce
    extract_lets +onlyGivenNames x7
    clear_value x7
    refine Keeps.trans ?_ (State.setAdSlot_keeps ..)
    exact Keeps.refl _

theorem State.sendSwitches_keeps (s : State) : Keeps s (State.sendSwitches s) := by
  unfold State.sendSwitches
  refine Keeps.foldl _ _ ?_ (fun u1 x2 => ?_)
  · beta_reduce
    exact Keeps.refl _
  · beta_reduce
    refine Keeps.trans ?_ (State.sendUpdate_keeps ..)
    exact Keeps.refl _

theorem execAdapterSlotFree_keeps (slot : ℕ) (s : State) : KeepsO s (execAdapterSlotFree slot s) := by
  unfold execAdapterSlotFree
  refine KeepsO.next ?_
  split
  · rename_i a1 a2 a3
    split
    · rename_i a4
      exact Keeps.refl _
    · rename_i a5
      refine Keeps.trans ?_ (State.showAdapters_keeps ..)
      refine Keeps.trans ?_ (State.setAdSlot_keeps ..)
      exact Keeps.refl _
  · rename_i a6 a7
    exact Keeps.refl _

theorem State.weightsUpdate_keeps (s : State) (u : TableUpdate) : Keeps s (State.weightsUpdate s u) := by
  unfold State.weightsUpdate
  split
  · rename_i a1 a2
    refine Keeps.trans ?_ (State.beginAdLoad_keeps ..)
    exact Keeps.refl _
  · rename_i a3 a4
    refine Keeps.trans ?_ (State.applyDrops_keeps ..)
    exact Keeps.refl _
  · rename_i a5 a6
    refine Keeps.trans ?_ (State.retirePrev_keeps ..)
    exact Keeps.refl _
  · rename_i a7 a8
    exact Keeps.refl _
  · rename_i a9 a10
    exact Keeps.refl _
  · rename_i a11 a12
    exact Keeps.refl _
  · rename_i a13 a14
    exact Keeps.refl _
  · rename_i a15 a16
    exact Keeps.refl _
  · rename_i a17 a18
    exact Keeps.refl _

/-! ### Machine/Assize.lean -/

theorem execTrimSetCheck_keeps (s : State) : KeepsO s (execTrimSetCheck s) := by
  unfold execTrimSetCheck
  refine KeepsO.next ?_
  refine Keeps.trans ?_ (State.checkOldest_keeps ..)
  exact Keeps.refl _

theorem State.closeRound_keeps (s : State) (core : ℕ) (eng : ℕ) (tier : ℕ) (kind : RoundKind) (sets : List TrimSetDue) (tr : ℚ) (age : ℚ) : Keeps s (State.closeRound s core eng tier kind sets tr age) := by
  unfold State.closeRound
  split
  · rename_i a1 a2
    refine Keeps.trans ?_ (State.endRound_keeps ..)
    exact Keeps.refl _
  · rename_i a3 a4 a5 a6
    extract_lets +onlyGivenNames x7
    clear_value x7
    refine Keeps.upd ?_ rfl rfl rfl
    exact Keeps.refl _

theorem State.calBeat_keeps (s : State) (core : ℕ) (eng : ℕ) (tier : ℕ) (pos : ℕ) (kind : ℕ → Option RoundKind) (residueUpset : Bool) : Keeps s (State.calBeat s core eng tier pos kind residueUpset).1 := by
  unfold State.calBeat
  extract_lets +onlyGivenNames x1
  clear_value x1
  extract_lets +onlyGivenNames x2
  clear_value x2
  extract_lets +onlyGivenNames x3
  have h4 : Keeps s x3 := by
    unfold x3
    refine Keeps.trans ?_ (State.add_keeps ..)
    refine Keeps.trans ?_ (State.addAt_keeps ..)
    refine Keeps.trans ?_ (State.setEngine_keeps ..)
    exact Keeps.refl _
  clear_value x3
  extract_lets +onlyGivenNames x5
  clear_value x5
  extract_lets +onlyGivenNames x6
  clear_value x6
  extract_lets +onlyGivenNames x7
  have h8 : Keeps s x7 := by
    unfold x7
    refine Keeps.trans ?_ (State.deadBeat_keeps ..)
    assumption
  clear_value x7
  split
  rename_i a9 a10 a11 a12
  have h13 : Keeps s a10 := by
    refine Keeps.fst a12 ?_
    refine Keeps.trans ?_ (State.convertBeat_keeps ..)
    assumption
  extract_lets +onlyGivenNames x14
  clear_value x14
  extract_lets +onlyGivenNames x15
  clear_value x15
  split
  rename_i a16 a17 a18 a19
  have h20 : Keeps s a17 := by
    refine Keeps.fst a19 ?_
    refine Keeps.trans ?_ (State.tryInject_keeps ..)
    assumption
  extract_lets +onlyGivenNames x21
  clear_value x21
  extract_lets +onlyGivenNames x22
  clear_value x22
  extract_lets +onlyGivenNames x23
  have h24 : Keeps s x23 := by
    unfold x23
    refine Keeps.trans ?_ (State.countSat_keeps ..)
    refine Keeps.trans ?_ (State.countCodes_keeps ..)
    assumption
  clear_value x23
  extract_lets +onlyGivenNames x25
  have h26 : Keeps s x25 := by
    unfold x25
    refine Keeps.trans ?_ (State.reportBeat_keeps ..)
    assumption
  clear_value x25
  extract_lets +onlyGivenNames x27
  clear_value x27
  extract_lets +onlyGivenNames x28
  clear_value x28
  extract_lets +onlyGivenNames x29
  clear_value x29
  extract_lets +onlyGivenNames x30
  have h31 : Keeps s x30 := by
    unfold x30
    split
    · rename_i a32
      refine Keeps.trans ?_ (State.put_keeps ..)
      refine Keeps.upd ?_ rfl rfl rfl
      assumption
    · rename_i a33
      assumption
  clear_value x30
  dsimp only
  refine Keeps.trans ?_ (State.add_keeps ..)
  refine Keeps.trans ?_ (State.tick_keeps ..)
  assumption

theorem State.calSlot_keeps (s : State) (core : ℕ) (eng : ℕ) (tier : ℕ) (pos : ℕ) (kind : ℕ → Option RoundKind) (residueUpset : Bool) : Keeps s (State.calSlot s core eng tier pos kind residueUpset).1 := by
  unfold State.calSlot
  extract_lets +onlyGivenNames x1
  clear_value x1
  extract_lets +onlyGivenNames x2
  clear_value x2
  split
  rename_i a3 a4 a5 a6
  have h7 : Keeps s a4 := by
    refine Keeps.fst a6 ?_
    refine Keeps.trans ?_ (State.select_keeps ..)
    exact Keeps.refl _
  extract_lets +onlyGivenNames x8
  clear_value x8
  split
  · rename_i a9
    dsimp only
    refine Keeps.trans ?_ (State.add_keeps ..)
    refine Keeps.trans ?_ (State.addAt_keeps ..)
    assumption
  · rename_i a10
    split
    rename_i a11 a12 a13 a14
    have h15 : Keeps s a12 := by
      refine Keeps.fst a14 ?_
      refine Keeps.trans ?_ (State.calBeat_keeps ..)
      assumption
    dsimp only
    refine Keeps.trans ?_ (State.selectBack_keeps ..)
    assumption

theorem State.takeRound_keeps (s : State) (core : ℕ) (eng : ℕ) (tier : ℕ) (kind : RoundKind) : Keeps s (State.takeRound s core eng tier kind) := by
  unfold State.takeRound
  extract_lets +onlyGivenNames x1
  clear_value x1
  extract_lets +onlyGivenNames x2
  have h3 : Keeps s x2 := by
    unfold x2
    split
    · rename_i a4
      exact Keeps.refl _
    · rename_i a5
      refine Keeps.trans ?_ (State.setEngCal_keeps ..)
      exact Keeps.refl _
  clear_value x2
  extract_lets +onlyGivenNames x6
  clear_value x6
  extract_lets +onlyGivenNames x7
  clear_value x7
  split
  · rename_i a8 a9
    refine Keeps.trans ?_ (State.setTierCal_keeps ..)
    assumption
  · rename_i a10 a11 a12
    split
    · rename_i a13
      assumption
    · rename_i a14
      refine Keeps.trans ?_ (State.setTierCal_keeps ..)
      assumption

theorem State.resume_keeps (s : State) (core : ℕ) (eng : ℕ) (tier : ℕ) (c : TierCal) : Keeps s (State.resume s core eng tier c) := by
  unfold State.resume
  split
  · rename_i a1 a2 a3
    refine Keeps.trans ?_ (State.setTierCal_keeps ..)
    exact Keeps.refl _
  · rename_i a4 a5
    extract_lets +onlyGivenNames x6
    have h7 : Keeps s x6 := by
      unfold x6
      refine Keeps.trans ?_ (State.setTierCal_keeps ..)
      exact Keeps.refl _
    clear_value x6
    extract_lets +onlyGivenNames x8
    clear_value x8
    extract_lets +onlyGivenNames x9
    clear_value x9
    refine Keeps.trans ?_ (State.setEngCal_keeps ..)
    assumption

theorem State.lapseSettling_keeps (s : State) (core : ℕ) (eng : ℕ) (tier : ℕ) : Keeps s (State.lapseSettling s core eng tier) := by
  unfold State.lapseSettling
  extract_lets +onlyGivenNames x1
  clear_value x1
  extract_lets +onlyGivenNames x2
  clear_value x2
  split
  · rename_i a3
    exact Keeps.refl _
  · rename_i a4
    split
    · rename_i a5 a6 a7
      refine Keeps.trans ?_ (State.resume_keeps ..)
      exact Keeps.refl _
    · rename_i a8 a9
      refine Keeps.trans ?_ (State.setTierCal_keeps ..)
      exact Keeps.refl _

theorem State.roundOver_keeps (s : State) (core : ℕ) (eng : ℕ) (tier : ℕ) (kind : RoundKind) (tr : ℚ) (age : ℚ) : Keeps s (State.roundOver s core eng tier kind tr age) := by
  unfold State.roundOver
  extract_lets +onlyGivenNames x1
  clear_value x1
  extract_lets +onlyGivenNames x2
  clear_value x2
  extract_lets +onlyGivenNames x3
  clear_value x3
  refine Keeps.trans ?_ (State.resume_keeps ..)
  exact Keeps.refl _

theorem State.dropRound_keeps (s : State) (core : ℕ) (eng : ℕ) (tier : ℕ) : Keeps s (State.dropRound s core eng tier) := by
  unfold State.dropRound
  extract_lets +onlyGivenNames x1
  clear_value x1
  extract_lets +onlyGivenNames x2
  have h3 : Keeps s x2 := by
    unfold x2
    refine Keeps.trans ?_ (State.setEngCal_keeps ..)
    exact Keeps.refl _
  clear_value x2
  extract_lets +onlyGivenNames x4
  clear_value x4
  refine Keeps.trans ?_ (State.setTierCal_keeps ..)
  assumption

theorem execCalibrationSlot_keeps (core : CoreId) (eng : EngId) (residueUpset : Bool) (s : State) : KeepsO s (execCalibrationSlot core eng residueUpset s) := by
  unfold execCalibrationSlot
  extract_lets +onlyGivenNames x1
  have h2 : Keeps s x1 := by
    unfold x1
    refine Keeps.foldl _ _ ?_ (fun u3 x4 => ?_)
    · beta_reduce
      exact Keeps.refl _
    · beta_reduce
      extract_lets +onlyGivenNames x5
      clear_value x5
      split
      · rename_i a6
        refine Keeps.trans ?_ (State.lapseSettling_keeps ..)
        exact Keeps.refl _
      · rename_i a7
        split
        · rename_i a8
          refine Keeps.trans ?_ (State.dropRound_keeps ..)
          exact Keeps.refl _
        · rename_i a9
          exact Keeps.refl _
  clear_value x1
  split
  · rename_i a10
    refine KeepsO.next ?_
    exact Keeps.refl _
  · rename_i a11
    split
    · rename_i a12 a13
      refine KeepsO.next ?_
      assumption
    · rename_i a14 a15 a16 a17
      extract_lets +onlyGivenNames x18
      clear_value x18
      split
      rename_i a19 a20 a21 a22
      have h23 : Keeps s a20 := by
        refine Keeps.fst a22 ?_
        refine Keeps.trans ?_ (State.calSlot_keeps ..)
        assumption
      split
      · rename_i a24
        have h25 : Keeps s a20 := by
          refine Keeps.fst a22 ?_
          refine Keeps.trans ?_ (State.calSlot_keeps ..)
          assumption
        refine KeepsO.next ?_
        assumption
      · rename_i a26 a27
        have h28 : Keeps s a20 := by
          refine Keeps.fst a22 ?_
          refine Keeps.trans ?_ (State.calSlot_keeps ..)
          assumption
        extract_lets +onlyGivenNames x29
        clear_value x29
        extract_lets +onlyGivenNames x30
        have h31 : Keeps s x30 := by
          unfold x30
          refine Keeps.trans ?_ (State.setEngCal_keeps ..)
          assumption
        clear_value x30
        extract_lets +onlyGivenNames x32
        clear_value x32
        refine KeepsO.next ?_
        refine Keeps.upd ?_ rfl rfl rfl
        assumption
    · rename_i a33 a34 a35 a36
      extract_lets +onlyGivenNames x37
      have h38 : Keeps s x37 := by
        unfold x37
        refine Keeps.trans ?_ (State.takeRound_keeps ..)
        assumption
      clear_value x37
      extract_lets +onlyGivenNames x39
      clear_value x39
      split
      rename_i a40 a41 a42 a43
      have h44 : Keeps s a41 := by
        refine Keeps.fst a43 ?_
        refine Keeps.trans ?_ (State.calSlot_keeps ..)
        assumption
      split
      · rename_i a45
        have h46 : Keeps s a41 := by
          refine Keeps.fst a43 ?_
          refine Keeps.trans ?_ (State.calSlot_keeps ..)
          assumption
        refine KeepsO.next ?_
        assumption
      · rename_i a47 a48
        have h49 : Keeps s a41 := by
          refine Keeps.fst a43 ?_
          refine Keeps.trans ?_ (State.calSlot_keeps ..)
          assumption
        extract_lets +onlyGivenNames x50
        clear_value x50
        extract_lets +onlyGivenNames x51
        clear_value x51
        extract_lets +onlyGivenNames x52
        have h53 : Keeps s x52 := by
          unfold x52
          refine Keeps.trans ?_ (State.setTierCal_keeps ..)
          assumption
        clear_value x52
        extract_lets +onlyGivenNames x54
        clear_value x54
        extract_lets +onlyGivenNames x55
        clear_value x55
        extract_lets +onlyGivenNames x56
        clear_value x56
        split
        · rename_i a57
          refine KeepsO.next ?_
          refine Keeps.upd ?_ rfl rfl rfl
          assumption
        · rename_i a58
          refine KeepsO.next ?_
          refine Keeps.trans ?_ (State.closeRound_keeps ..)
          refine Keeps.trans ?_ (State.roundOver_keeps ..)
          assumption

theorem execSettlingDue_keeps (core : CoreId) (eng : EngId) (tier : TierId) (round : Fin 4) (s : State) : KeepsO s (execSettlingDue core eng tier round s) := by
  unfold execSettlingDue
  extract_lets +onlyGivenNames x1
  clear_value x1
  refine KeepsO.next ?_
  split
  · rename_i a2 a3
    exact Keeps.refl _
  · rename_i a4 a5 a6
    split
    · rename_i a7
      refine Keeps.trans ?_ (State.setTierCal_keeps ..)
      exact Keeps.refl _
    · rename_i a8
      exact Keeps.refl _

theorem execAgeTrigger_keeps (core : CoreId) (eng : EngId) (tier : TierId) (s : State) : KeepsO s (execAgeTrigger core eng tier s) := by
  unfold execAgeTrigger
  extract_lets +onlyGivenNames x1
  clear_value x1
  extract_lets +onlyGivenNames x2
  clear_value x2
  refine KeepsO.next ?_
  split
  · rename_i a3 a4
    exact Keeps.refl _
  · rename_i a5 a6 a7
    split
    · rename_i a8
      refine Keeps.trans ?_ (State.setTierCal_keeps ..)
      exact Keeps.refl _
    · rename_i a9
      exact Keeps.refl _

theorem execEngineDark_keeps (core : CoreId) (eng : EngId) (s : State) : KeepsO s (execEngineDark core eng s) := by
  unfold execEngineDark
  refine KeepsO.next ?_
  split
  · rename_i a1
    refine Keeps.trans ?_ (State.put_keeps ..)
    refine Keeps.trans ?_ (State.updateDrift_keeps ..)
    exact Keeps.refl _
  · rename_i a2
    exact Keeps.refl _

theorem execFreshTierEnd_keeps (core : CoreId) (eng : EngId) (tier : TierId) (s : State) : KeepsO s (execFreshTierEnd core eng tier s) := by
  unfold execFreshTierEnd
  extract_lets +onlyGivenNames x1
  clear_value x1
  extract_lets +onlyGivenNames x2
  clear_value x2
  extract_lets +onlyGivenNames x3
  clear_value x3
  refine KeepsO.next ?_
  split
  · rename_i a4
    refine Keeps.trans ?_ (State.put_keeps ..)
    refine Keeps.trans ?_ (State.putAt_keeps ..)
    exact Keeps.refl _
  · rename_i a5
    exact Keeps.refl _

theorem State.checkAll_keeps (s : State) : Keeps s (State.checkAll s) := by
  unfold State.checkAll
  extract_lets +onlyGivenNames x1
  clear_value x1
  refine Keeps.foldl _ _ ?_ (fun u2 x3 => ?_)
  · beta_reduce
    refine Keeps.upd ?_ rfl rfl rfl
    exact Keeps.refl _
  · beta_reduce
    refine Keeps.trans ?_ (State.checkSet_keeps ..)
    exact Keeps.refl _

theorem State.firstRound_keeps (s : State) (core : ℕ) (eng : ℕ) (tier : ℕ) (n : ℕ) : Keeps s (State.firstRound s core eng tier n) := by
  unfold State.firstRound
  extract_lets +onlyGivenNames x1
  have h2 : Keeps s x1 := by
    unfold x1
    refine Keeps.foldl _ _ ?_ (fun u3 x4 => ?_)
    · beta_reduce
      exact Keeps.refl _
    · beta_reduce
      split
      · rename_i a5
        exact Keeps.refl _
      · rename_i a6
        split
        rename_i a7 a8 a9 a10
        have h11 : Keeps u3 a8 := by
          refine Keeps.fst a10 ?_
          refine Keeps.trans ?_ (State.calSlot_keeps ..)
          exact Keeps.refl _
        extract_lets +onlyGivenNames x12
        clear_value x12
        extract_lets +onlyGivenNames x13
        have h14 : Keeps u3 x13 := by
          unfold x13
          refine Keeps.trans ?_ (State.checkAll_keeps ..)
          refine Keeps.upd ?_ rfl rfl rfl
          assumption
        clear_value x13
        extract_lets +onlyGivenNames x15
        clear_value x15
        refine Keeps.trans ?_ (State.setTierCal_keeps ..)
        assumption
  clear_value x1
  extract_lets +onlyGivenNames x16
  clear_value x16
  extract_lets +onlyGivenNames x17
  clear_value x17
  extract_lets +onlyGivenNames x18
  clear_value x18
  split
  · rename_i a19
    refine Keeps.trans ?_ (State.setTierCal_keeps ..)
    assumption
  · rename_i a20
    refine Keeps.trans ?_ (State.checkAll_keeps ..)
    refine Keeps.trans ?_ (State.endRound_keeps ..)
    refine Keeps.trans ?_ (State.setTierCal_keeps ..)
    assumption

theorem State.startTier_keeps (s : State) (core : ℕ) (eng : ℕ) (tier : ℕ) : Keeps s (State.startTier s core eng tier) := by
  unfold State.startTier
  extract_lets +onlyGivenNames x1
  clear_value x1
  extract_lets +onlyGivenNames x2
  clear_value x2
  extract_lets +onlyGivenNames x3
  have h4 : Keeps s x3 := by
    unfold x3
    refine Keeps.trans ?_ (State.setTierCal_keeps ..)
    exact Keeps.refl _
  clear_value x3
  extract_lets +onlyGivenNames x5
  clear_value x5
  extract_lets +onlyGivenNames x6
  clear_value x6
  split
  · rename_i a7
    refine Keeps.trans ?_ (State.add_keeps ..)
    refine Keeps.trans ?_ (State.putAt_keeps ..)
    assumption
  · rename_i a8
    assumption

theorem State.firstEngine_keeps (s : State) (core : ℕ) (eng : ℕ) : Keeps s (State.firstEngine s core eng) := by
  unfold State.firstEngine
  extract_lets +onlyGivenNames x1
  clear_value x1
  extract_lets +onlyGivenNames x2
  have h3 : Keeps s x2 := by
    unfold x2
    refine Keeps.trans ?_ (State.updateDrift_keeps ..)
    refine Keeps.foldl _ _ ?_ (fun u4 x5 => ?_)
    · beta_reduce
      exact Keeps.refl _
    · beta_reduce
      refine Keeps.trans ?_ (State.startTier_keeps ..)
      exact Keeps.refl _
  clear_value x2
  extract_lets +onlyGivenNames x6
  have h7 : Keeps s x6 := by
    unfold x6
    refine Keeps.foldl _ _ ?_ (fun u8 x9 => ?_)
    · beta_reduce
      assumption
    · beta_reduce
      refine Keeps.foldl _ _ ?_ (fun u10 x11 => ?_)
      · beta_reduce
        exact Keeps.refl _
      · beta_reduce
        refine Keeps.trans ?_ (State.firstRound_keeps ..)
        exact Keeps.refl _
  clear_value x6
  refine Keeps.trans ?_ (State.putAt_keeps ..)
  assumption

theorem execFirstPass_keeps (s : State) : KeepsO s (execFirstPass s) := by
  unfold execFirstPass
  extract_lets +onlyGivenNames x1
  clear_value x1
  extract_lets +onlyGivenNames x2
  have h3 : Keeps s x2 := by
    unfold x2
    refine Keeps.trans ?_ (State.put_keeps ..)
    refine Keeps.trans ?_ (State.put_keeps ..)
    exact Keeps.refl _
  clear_value x2
  extract_lets +onlyGivenNames x4
  clear_value x4
  extract_lets +onlyGivenNames x5
  have h6 : Keeps s x5 := by
    unfold x5
    refine Keeps.upd ?_ rfl rfl rfl
    assumption
  clear_value x5
  extract_lets +onlyGivenNames x7
  have h8 : Keeps s x7 := by
    unfold x7
    refine Keeps.foldl _ _ ?_ (fun u9 x10 => ?_)
    · beta_reduce
      assumption
    · beta_reduce
      refine Keeps.trans ?_ (State.firstEngine_keeps ..)
      exact Keeps.refl _
  clear_value x7
  extract_lets +onlyGivenNames x11
  have h12 : Keeps s x11 := by
    unfold x11
    refine Keeps.foldl _ _ ?_ (fun u13 x14 => ?_)
    · beta_reduce
      assumption
    · beta_reduce
      refine Keeps.trans ?_ (State.putAt_keeps ..)
      exact Keeps.refl _
  clear_value x11
  split
  · rename_i a15
    refine KeepsO.next ?_
    exact Keeps.refl _
  · rename_i a16
    refine KeepsO.next ?_
    refine Keeps.trans ?_ (State.advanceStart_keeps ..)
    refine Keeps.trans ?_ (State.put_keeps ..)
    refine Keeps.trans ?_ (State.put_keeps ..)
    assumption

theorem execAszForceRound_keeps (w : Wr) (s : State) : KeepsO s (execAszForceRound w s) := by
  unfold execAszForceRound
  split
  rename_i a1 a2 a3 a4
  have h5 : Keeps s a2 := by
    refine Keeps.fst a4 ?_
    refine Keeps.trans ?_ (State.write_keeps ..)
    exact Keeps.refl _
  extract_lets +onlyGivenNames x6
  clear_value x6
  extract_lets +onlyGivenNames x7
  clear_value x7
  extract_lets +onlyGivenNames x8
  clear_value x8
  extract_lets +onlyGivenNames x9
  clear_value x9
  refine KeepsO.next ?_
  split
  · rename_i a10
    refine Keeps.trans ?_ (State.setTierCal_keeps ..)
    assumption
  · rename_i a11
    assumption

end Sys2Proof.Machine
end

