-- ==== Sys2Proof/Laws/Keeps6.lean ====
section
/-! SUPPORT. The operations and meanings of Machine leave the queue alone and keep the invariant: Patrol, Routing, Network. -/
namespace Sys2Proof.Machine

/-! ### Machine/Patrol.lean -/

theorem State.useTraps_keeps (s : State) (t : TrapSet) (host : Bool) : Keeps s (State.useTraps s t host) := by
  unfold State.useTraps
  extract_lets +onlyGivenNames x1
  clear_value x1
  refine Keeps.trans ?_ (State.put_keeps ..)
  refine Keeps.upd ?_ rfl rfl rfl
  exact Keeps.refl _

theorem State.trapEffect_keeps (s : State) : Keeps s (State.trapEffect s) := by
  unfold State.trapEffect
  split
  · rename_i a1 a2 a3 a4
    extract_lets +onlyGivenNames x5
    clear_value x5
    split
    · rename_i a6
      refine Keeps.trans ?_ (State.useTraps_keeps ..)
      refine Keeps.upd ?_ rfl rfl rfl
      exact Keeps.refl _
    · rename_i a7
      exact Keeps.refl _
  · rename_i a8 a9
    exact Keeps.refl _

theorem execTrapLoad_keeps (w : Wr) (s : State) : KeepsO s (execTrapLoad w s) := by
  unfold execTrapLoad
  split
  rename_i a1 a2 a3 a4
  have h5 : Keeps s a2 := by
    refine Keeps.fst a4 ?_
    refine Keeps.trans ?_ (State.write_keeps ..)
    exact Keeps.refl _
  extract_lets +onlyGivenNames x6
  clear_value x6
  extract_lets +onlyGivenNames x7
  clear_value x7
  refine KeepsO.next ?_
  split
  · rename_i a8
    refine Keeps.trans ?_ (State.put_keeps ..)
    refine Keeps.upd ?_ rfl rfl rfl
    assumption
  · rename_i a9
    assumption

theorem execTrapSetVerifyDone_keeps (bytes : List Byte) (sigOk : Bool) (fetched : Bool) (s : State) : KeepsO s (execTrapSetVerifyDone bytes sigOk fetched s) := by
  unfold execTrapSetVerifyDone
  refine KeepsO.next ?_
  split
  · rename_i a1 a2
    exact Keeps.refl _
  · rename_i a3 a4 a5 a6
    extract_lets +onlyGivenNames x7
    clear_value x7
    extract_lets +onlyGivenNames x8
    have h9 : Keeps s x8 := by
      unfold x8
      refine Keeps.trans ?_ (State.put_keeps ..)
      refine Keeps.upd ?_ rfl rfl rfl
      exact Keeps.refl _
    clear_value x8
    extract_lets +onlyGivenNames x10
    extract_lets +onlyGivenNames x11
    clear_value x11
    split
    · rename_i a12
      unfold x10
      refine Keeps.trans ?_ (State.put_keeps ..)
      refine Keeps.trans ?_ (State.complete17_keeps ..)
      assumption
    · rename_i a13
      split
      · rename_i a14
        unfold x10
        refine Keeps.trans ?_ (State.put_keeps ..)
        refine Keeps.trans ?_ (State.complete17_keeps ..)
        assumption
      · rename_i a15
        split
        · rename_i a16 a17
          unfold x10
          refine Keeps.trans ?_ (State.put_keeps ..)
          refine Keeps.trans ?_ (State.complete17_keeps ..)
          assumption
        · rename_i a18 a19 a20
          extract_lets +onlyGivenNames x21
          clear_value x21
          split
          · rename_i a22
            unfold x10
            refine Keeps.trans ?_ (State.put_keeps ..)
            refine Keeps.trans ?_ (State.complete17_keeps ..)
            assumption
          · rename_i a23
            refine Keeps.trans ?_ (State.complete17_keeps ..)
            refine Keeps.upd ?_ rfl rfl rfl
            assumption

theorem State.confirmTrap_keeps (s : State) (core : ℕ) (eng : ℕ) (tier : ℕ) (l : Locus) (injected : Bool) : Keeps s (State.confirmTrap s core eng tier l injected) := by
  unfold State.confirmTrap
  extract_lets +onlyGivenNames x1
  clear_value x1
  extract_lets +onlyGivenNames x2
  have h3 : Keeps s x2 := by
    unfold x2
    refine Keeps.trans ?_ (State.silentError_keeps ..)
    exact Keeps.refl _
  clear_value x2
  split
  · rename_i a4 a5 a6
    refine Keeps.trans ?_ (State.retire_keeps ..)
    assumption
  · rename_i a7 a8
    refine Keeps.trans ?_ (State.retire_keeps ..)
    assumption
  · rename_i a9 a10 a11
    refine Keeps.trans ?_ (State.escalate_keeps ..)
    assumption

theorem State.setRerun_keeps (s : State) (core : ℕ) (eng : ℕ) (x : Option (ℕ × ℕ × Locus)) : Keeps s (State.setRerun s core eng x) := by
  unfold State.setRerun
  extract_lets +onlyGivenNames x1
  clear_value x1
  refine Keeps.upd ?_ rfl rfl rfl
  exact Keeps.refl _

theorem State.setEntry_keeps (s : State) (core : ℕ) (eng : ℕ) (tier : ℕ) (v : ℕ) : Keeps s (State.setEntry s core eng tier v) := by
  unfold State.setEntry
  extract_lets +onlyGivenNames x1
  clear_value x1
  refine Keeps.upd ?_ rfl rfl rfl
  exact Keeps.refl _

theorem State.rotationTier_keeps (s : State) (core : ℕ) (eng : ℕ) : Keeps s (State.rotationTier s core eng).1 := by
  unfold State.rotationTier
  extract_lets +onlyGivenNames x1
  clear_value x1
  extract_lets +onlyGivenNames x2
  split
  · rename_i a3 a4 a5
    dsimp only
    exact Keeps.refl _
  · rename_i a6 a7
    extract_lets +onlyGivenNames x8
    have h9 : Keeps s x8 := by
      unfold x8
      refine Keeps.foldl _ _ ?_ (fun u10 x11 => ?_)
      · beta_reduce
        exact Keeps.refl _
      · beta_reduce
        refine Keeps.trans ?_ (State.setEntry_keeps ..)
        exact Keeps.refl _
    clear_value x8
    dsimp only
    assumption

theorem State.patrolBeat_keeps (s : State) (core : ℕ) (eng : ℕ) (tier : ℕ) (entry : ℕ) (again : Option Locus) (residueUpset : Bool) (trims : List TrimAt) : Keeps s (State.patrolBeat s core eng tier entry again residueUpset trims) := by
  unfold State.patrolBeat
  split
  · rename_i a1 a2
    exact Keeps.refl _
  · rename_i a3 a4 a5
    extract_lets +onlyGivenNames x6
    have h7 : Keeps s x6 := by
      unfold x6
      refine Keeps.trans ?_ (State.addAt_keeps ..)
      exact Keeps.refl _
    clear_value x6
    extract_lets +onlyGivenNames x8
    clear_value x8
    extract_lets +onlyGivenNames x9
    have h10 : Keeps s x9 := by
      unfold x9
      refine Keeps.trans ?_ (State.setEngine_keeps ..)
      assumption
    clear_value x9
    extract_lets +onlyGivenNames x11
    clear_value x11
    extract_lets +onlyGivenNames x12
    clear_value x12
    extract_lets +onlyGivenNames x13
    have h14 : Keeps s x13 := by
      unfold x13
      refine Keeps.trans ?_ (State.deadBeat_keeps ..)
      assumption
    clear_value x13
    split
    rename_i a15 a16 a17 a18
    have h19 : Keeps s a16 := by
      refine Keeps.fst a18 ?_
      refine Keeps.trans ?_ (State.convertBeat_keeps ..)
      assumption
    extract_lets +onlyGivenNames x20
    clear_value x20
    split
    rename_i a21 a22 a23 a24
    have h25 : Keeps s a22 := by
      refine Keeps.fst a24 ?_
      refine Keeps.trans ?_ (State.tryInject_keeps ..)
      assumption
    extract_lets +onlyGivenNames x26
    clear_value x26
    split
    rename_i a27 a28 a29 a30
    have h31 : Keeps s a28 := by
      refine Keeps.fst a30 ?_
      refine Keeps.trans ?_ (State.tryInject_keeps ..)
      assumption
    split
    rename_i a32 a33 a34 a35
    have h36 : Keeps s a33 := by
      refine Keeps.fst a35 ?_
      refine Keeps.trans ?_ (State.tryInject_keeps ..)
      assumption
    extract_lets +onlyGivenNames x37
    clear_value x37
    extract_lets +onlyGivenNames x38
    clear_value x38
    extract_lets +onlyGivenNames x39
    have h40 : Keeps s x39 := by
      unfold x39
      refine Keeps.trans ?_ (State.tick_keeps ..)
      refine Keeps.trans ?_ (State.countSat_keeps ..)
      refine Keeps.trans ?_ (State.countCodes_keeps ..)
      assumption
    clear_value x39
    extract_lets +onlyGivenNames x41
    have h42 : Keeps s x41 := by
      unfold x41
      refine Keeps.trans ?_ (State.reportBeat_keeps ..)
      assumption
    clear_value x41
    split
    · rename_i a43
      assumption
    · rename_i a44
      split
      · rename_i a45 a46 a47
        assumption
      · rename_i a48 a49 a50 a51
        refine Keeps.trans ?_ (State.setRerun_keeps ..)
        refine Keeps.trans ?_ (State.addAt_keeps ..)
        assumption
      · rename_i a52 a53 a54 a55 a56
        extract_lets +onlyGivenNames x57
        have h58 : Keeps s x57 := by
          unfold x57
          refine Keeps.trans ?_ (State.addAt_keeps ..)
          assumption
        clear_value x57
        split
        · rename_i a59
          refine Keeps.trans ?_ (State.confirmTrap_keeps ..)
          refine Keeps.trans ?_ (State.setRerun_keeps ..)
          assumption
        · rename_i a60
          refine Keeps.trans ?_ (State.setRerun_keeps ..)
          assumption
      · rename_i a61 a62 a63 a64
        refine Keeps.trans ?_ (State.setRerun_keeps ..)
        refine Keeps.trans ?_ (State.addAt_keeps ..)
        assumption

theorem State.patrolBeats_keeps (s : State) (core eng tier : Nat) (u : Bool) (l : List TrimAt) (n : Nat) :
    Keeps s (s.patrolBeats core eng tier u l n) := by
  induction n generalizing s u l with
  | zero => exact Keeps.refl s
  | succ n ih =>
    unfold State.patrolBeats
    refine Keeps.trans ?_ (ih _ _ _)
    split
    · split
      · exact State.patrolBeat_keeps ..
      · exact Keeps.refl s
    · split
      · exact Keeps.refl s
      · exact (State.setEntry_keeps ..).trans (State.patrolBeat_keeps ..)

theorem execPatrolSlot_keeps (core : CoreId) (eng : EngId) (beats : ℕ) (residueUpset : Bool) (trims : List TrimAt) (s : State) : KeepsO s (execPatrolSlot core eng beats residueUpset trims s) := by
  unfold execPatrolSlot
  extract_lets +onlyGivenNames x1
  clear_value x1
  extract_lets +onlyGivenNames x2
  have h3 : Keeps s x2 := by
    unfold x2
    split
    · rename_i a4 a5 a6 a7 a8
      split
      · rename_i a9
        exact Keeps.refl _
      · rename_i a10
        refine Keeps.trans ?_ (State.setRerun_keeps ..)
        exact Keeps.refl _
    · rename_i a11 a12
      exact Keeps.refl _
  clear_value x2
  split
  · rename_i a13
    refine KeepsO.next ?_
    exact Keeps.refl _
  · rename_i a14
    split
    rename_i a15 a16 a17 a18
    have h19 : Keeps s a16 := by
      refine Keeps.fst a18 ?_
      split
      · rename_i a20 a21 a22 a23 a24
        dsimp only
        assumption
      · rename_i a25 a26
        refine Keeps.trans ?_ (State.rotationTier_keeps ..)
        assumption
    split
    · rename_i a27
      have h28 : Keeps s a16 := by
        refine Keeps.fst a18 ?_
        split
        · rename_i a29 a30 a31 a32 a33
          dsimp only
          assumption
        · rename_i a34 a35
          refine Keeps.trans ?_ (State.rotationTier_keeps ..)
          assumption
      refine KeepsO.next ?_
      assumption
    · rename_i a36 a37
      have h38 : Keeps s a16 := by
        refine Keeps.fst a18 ?_
        split
        · rename_i a39 a40 a41 a42 a43
          dsimp only
          assumption
        · rename_i a44 a45
          refine Keeps.trans ?_ (State.rotationTier_keeps ..)
          assumption
      split
      rename_i a46 a47 a48 a49
      have h50 : Keeps s a47 := by
        refine Keeps.fst a49 ?_
        refine Keeps.trans ?_ (State.select_keeps ..)
        assumption
      extract_lets +onlyGivenNames x51
      have h52 : Keeps s x51 := by
        unfold x51
        refine Keeps.trans ?_ (State.patrolBeats_keeps ..)
        assumption
      clear_value x51
      split
      · rename_i a53
        refine KeepsO.next ?_
        assumption
      · rename_i a54
        refine KeepsO.next ?_
        refine Keeps.trans ?_ (State.selectBack_keeps ..)
        assumption

theorem execVectorPatrolSlot_keeps (core : CoreId) (differs : Bool) (s : State) : KeepsO s (execVectorPatrolSlot core differs s) := by
  unfold execVectorPatrolSlot
  extract_lets +onlyGivenNames x1
  clear_value x1
  extract_lets +onlyGivenNames x2
  clear_value x2
  split
  · rename_i a3
    refine KeepsO.next ?_
    exact Keeps.refl _
  · rename_i a4
    split
    rename_i a5 a6 a7 a8
    have h9 : Keeps s a6 := by
      refine Keeps.fst a8 ?_
      refine Keeps.trans ?_ (State.tryInject_keeps ..)
      exact Keeps.refl _
    extract_lets +onlyGivenNames x10
    clear_value x10
    extract_lets +onlyGivenNames x11
    clear_value x11
    extract_lets +onlyGivenNames x12
    clear_value x12
    extract_lets +onlyGivenNames x13
    extract_lets +onlyGivenNames x14
    clear_value x14
    extract_lets +onlyGivenNames x15
    have h16 : Keeps s x15 := by
      unfold x15
      split
      · rename_i a17
        refine Keeps.upd ?_ rfl rfl rfl
        assumption
      · rename_i a18
        assumption
    clear_value x15
    extract_lets +onlyGivenNames x19
    have h20 : Keeps s x19 := by
      unfold x19
      refine Keeps.trans ?_ (State.addAt_keeps ..)
      assumption
    clear_value x19
    refine KeepsO.next ?_
    split
    · rename_i a21
      split
      · rename_i a22
        unfold x13
        extract_lets +onlyGivenNames x23
        clear_value x23
        refine Keeps.upd ?_ rfl rfl rfl
        assumption
      · rename_i a24
        refine Keeps.trans ?_ (State.escalate_keeps ..)
        refine Keeps.trans ?_ (State.silentError_keeps ..)
        unfold x13
        extract_lets +onlyGivenNames x25
        clear_value x25
        refine Keeps.upd ?_ rfl rfl rfl
        assumption
    · rename_i a26
      split
      · rename_i a27
        assumption
      · rename_i a28
        unfold x13
        extract_lets +onlyGivenNames x29
        clear_value x29
        refine Keeps.upd ?_ rfl rfl rfl
        refine Keeps.trans ?_ (State.addAt_keeps ..)
        assumption

theorem State.setRepair_keeps (s : State) (logical : ℕ) (step : ℕ) : Keeps s (State.setRepair s logical step) := by
  unfold State.setRepair
  extract_lets +onlyGivenNames x1
  clear_value x1
  refine Keeps.upd ?_ rfl rfl rfl
  exact Keeps.refl _

theorem State.repairStart_keeps (s : State) (r : Repair) : Keeps s (State.repairStart s r) := by
  unfold State.repairStart
  extract_lets +onlyGivenNames x1
  have h2 : Keeps s x1 := by
    unfold x1
    split
    · rename_i a3 a4
      exact Keeps.refl _
    · rename_i a5 a6 a7
      refine Keeps.foldl _ _ ?_ (fun u8 x9 => ?_)
      · beta_reduce
        exact Keeps.refl _
      · beta_reduce
        split
        · rename_i a10 a11 a12
          refine Keeps.trans ?_ (State.countLines_keeps ..)
          refine Keeps.trans ?_ (State.storeBytes_keeps ..)
          exact Keeps.refl _
        · rename_i a13 a14
          exact Keeps.refl _
  clear_value x1
  extract_lets +onlyGivenNames x15
  clear_value x15
  extract_lets +onlyGivenNames x16
  have h17 : Keeps s x16 := by
    unfold x16
    split
    · rename_i a18 a19 a20
      split
      · rename_i a21
        refine Keeps.upd ?_ rfl rfl rfl
        assumption
      · rename_i a22
        assumption
    · rename_i a23 a24
      assumption
  clear_value x16
  extract_lets +onlyGivenNames x25
  clear_value x25
  extract_lets +onlyGivenNames x26
  have h27 : Keeps s x26 := by
    unfold x26
    refine Keeps.upd ?_ rfl rfl rfl
    assumption
  clear_value x26
  refine Keeps.trans ?_ (State.setRepair_keeps ..)
  refine Keeps.trans ?_ (State.put_keeps ..)
  assumption

theorem execRepairStepDone_keeps (logical : ℕ) (ok : Bool) (s : State) : KeepsO s (execRepairStepDone logical ok s) := by
  unfold execRepairStepDone
  refine KeepsO.next ?_
  split
  · rename_i a1 a2
    exact Keeps.refl _
  · rename_i a3 a4 a5
    split
    · rename_i a6
      refine Keeps.trans ?_ (State.requestFence_keeps ..)
      exact Keeps.refl _
    · rename_i a7
      split
      · rename_i a8 a9
        split
        · rename_i a10 a11 a12
          split
          · rename_i a13
            exact Keeps.refl _
          · rename_i a14
            refine Keeps.trans ?_ (State.repairStart_keeps ..)
            exact Keeps.refl _
        · rename_i a15 a16
          split
          · rename_i a17
            exact Keeps.refl _
          · rename_i a18
            refine Keeps.trans ?_ (State.repairStart_keeps ..)
            exact Keeps.refl _
      · rename_i a19 a20
        split
        · rename_i a21
          refine Keeps.trans ?_ (State.setRepair_keeps ..)
          exact Keeps.refl _
        · rename_i a22
          exact Keeps.refl _
      · rename_i a23 a24
        extract_lets +onlyGivenNames x25
        clear_value x25
        extract_lets +onlyGivenNames x26
        have h27 : Keeps s x26 := by
          unfold x26
          refine Keeps.upd ?_ rfl rfl rfl
          exact Keeps.refl _
        clear_value x26
        split
        · rename_i a28 a29 a30
          split
          · rename_i a31
            refine Keeps.trans ?_ (State.setRepair_keeps ..)
            refine Keeps.trans ?_ (State.showEpochs_keeps ..)
            refine Keeps.trans ?_ (State.settle_keeps ..)
            refine Keeps.trans ?_ (State.flag_keeps ..)
            assumption
          · rename_i a32
            exact Keeps.refl _
        · rename_i a33 a34
          split
          · rename_i a35
            refine Keeps.trans ?_ (State.setRepair_keeps ..)
            refine Keeps.trans ?_ (State.showEpochs_keeps ..)
            refine Keeps.trans ?_ (State.settle_keeps ..)
            refine Keeps.trans ?_ (State.flag_keeps ..)
            assumption
          · rename_i a36
            exact Keeps.refl _
      · rename_i a37 a38
        refine Keeps.trans ?_ (State.setRepair_keeps ..)
        refine Keeps.foldl _ _ ?_ (fun u39 x40 => ?_)
        · beta_reduce
          exact Keeps.refl _
        · beta_reduce
          refine Keeps.trans ?_ (State.firstEngine_keeps ..)
          exact Keeps.refl _
      · rename_i a41 a42 a43 a44 a45
        exact Keeps.refl _

theorem execMcChrysalis_keeps (s : State) : KeepsO s (execMcChrysalis s) := by
  unfold execMcChrysalis
  refine KeepsO.next ?_
  split
  · rename_i a1
    refine Keeps.trans ?_ (State.enterChrysalis_keeps ..)
    exact Keeps.refl _
  · rename_i a2
    exact Keeps.refl _

/-! ### Machine/Routing.lean -/

theorem State.loadDirs_keeps (s : State) : Keeps s (State.loadDirs s) := by
  unfold State.loadDirs
  extract_lets +onlyGivenNames x1
  clear_value x1
  extract_lets +onlyGivenNames x2
  clear_value x2
  refine Keeps.upd ?_ rfl rfl rfl
  exact Keeps.refl _

theorem State.expectAnswers_keeps (s : State) (g : Grant) : Keeps s (State.expectAnswers s g) := by
  unfold State.expectAnswers
  refine Keeps.foldl _ _ ?_ (fun u1 x2 => ?_)
  · beta_reduce
    exact Keeps.refl _
  · beta_reduce
    split
    · rename_i a3 a4
      exact Keeps.refl _
    · rename_i a5 a6 a7
      extract_lets +onlyGivenNames x8
      clear_value x8
      refine Keeps.trans ?_ (State.setToken_keeps ..)
      exact Keeps.refl _

theorem State.startQuarantine_keeps (s : State) (g : Grant) (x : ℕ) : Keeps s (State.startQuarantine s g x) := by
  unfold State.startQuarantine
  extract_lets +onlyGivenNames x1
  have h2 : Keeps s x1 := by
    unfold x1
    refine Keeps.trans ?_ (State.addAt_keeps ..)
    exact Keeps.refl _
  clear_value x1
  extract_lets +onlyGivenNames x3
  clear_value x3
  extract_lets +onlyGivenNames x4
  clear_value x4
  extract_lets +onlyGivenNames x5
  clear_value x5
  split
  · rename_i a6
    refine Keeps.trans ?_ (State.put_keeps ..)
    exact Keeps.refl _
  · rename_i a7
    refine Keeps.upd ?_ rfl rfl rfl
    assumption

theorem State.judgeStep_keeps (s : State) (g : Grant) : Keeps s (State.judgeStep s g) := by
  unfold State.judgeStep
  extract_lets +onlyGivenNames x1
  clear_value x1
  extract_lets +onlyGivenNames x2
  clear_value x2
  extract_lets +onlyGivenNames x3
  clear_value x3
  extract_lets +onlyGivenNames x4
  clear_value x4
  extract_lets +onlyGivenNames x5
  clear_value x5
  extract_lets +onlyGivenNames x6
  clear_value x6
  extract_lets +onlyGivenNames x7
  have h8 : Keeps s x7 := by
    unfold x7
    refine Keeps.upd ?_ rfl rfl rfl
    exact Keeps.refl _
  clear_value x7
  refine Keeps.foldl _ _ ?_ (fun u9 x10 => ?_)
  · beta_reduce
    assumption
  · beta_reduce
    refine Keeps.trans ?_ (State.startQuarantine_keeps ..)
    exact Keeps.refl _

theorem execDispatchGrant_keeps (issue : Issue) (layer : ℕ) (ecc : Upsets) (s : State) : KeepsO s (execDispatchGrant issue layer ecc s) := by
  unfold execDispatchGrant
  extract_lets +onlyGivenNames x1
  clear_value x1
  extract_lets +onlyGivenNames x2
  clear_value x2
  split
  · rename_i a3
    refine KeepsO.next ?_
    exact Keeps.refl _
  · rename_i a4
    split
    · rename_i a5 a6
      refine KeepsO.next ?_
      exact Keeps.refl _
    · rename_i a7 a8 a9
      extract_lets +onlyGivenNames x10
      clear_value x10
      extract_lets +onlyGivenNames x11
      clear_value x11
      split
      rename_i a12 a13 a14 a15
      have h16 : Keeps s a13 := by
        refine Keeps.fst a15 ?_
        refine Keeps.trans ?_ (State.beginOp_keeps ..)
        exact Keeps.refl _
      split
      · rename_i a17
        have h18 : Keeps s a13 := by
          refine Keeps.fst a15 ?_
          refine Keeps.trans ?_ (State.beginOp_keeps ..)
          exact Keeps.refl _
        refine KeepsO.next ?_
        assumption
      · rename_i a19 a20
        have h21 : Keeps s a13 := by
          refine Keeps.fst a15 ?_
          refine Keeps.trans ?_ (State.beginOp_keeps ..)
          exact Keeps.refl _
        extract_lets +onlyGivenNames x22
        clear_value x22
        extract_lets +onlyGivenNames x23
        clear_value x23
        extract_lets +onlyGivenNames x24
        clear_value x24
        extract_lets +onlyGivenNames x25
        have h26 : Keeps s x25 := by
          unfold x25
          split
          · rename_i a27
            refine Keeps.trans ?_ (State.voidRows_keeps ..)
            assumption
          · rename_i a28
            assumption
        clear_value x25
        extract_lets +onlyGivenNames x29
        clear_value x29
        extract_lets +onlyGivenNames x30
        clear_value x30
        extract_lets +onlyGivenNames x31
        clear_value x31
        extract_lets +onlyGivenNames x32
        clear_value x32
        extract_lets +onlyGivenNames x33
        clear_value x33
        extract_lets +onlyGivenNames x34
        clear_value x34
        extract_lets +onlyGivenNames x35
        clear_value x35
        extract_lets +onlyGivenNames x36
        clear_value x36
        extract_lets +onlyGivenNames x37
        clear_value x37
        extract_lets +onlyGivenNames x38
        clear_value x38
        extract_lets +onlyGivenNames x39
        have h40 : Keeps s x39 := by
          unfold x39
          refine Keeps.trans ?_ (State.addAt_keeps ..)
          refine Keeps.trans ?_ (State.addAt_keeps ..)
          refine Keeps.trans ?_ (State.addAt_keeps ..)
          assumption
        clear_value x39
        extract_lets +onlyGivenNames x41
        have h42 : Keeps s x41 := by
          unfold x41
          refine Keeps.trans ?_ (State.addAt_keeps ..)
          assumption
        clear_value x41
        extract_lets +onlyGivenNames x43
        have h44 : Keeps s x43 := by
          unfold x43
          refine Keeps.trans ?_ (State.addAt_keeps ..)
          refine Keeps.trans ?_ (State.addAt_keeps ..)
          assumption
        clear_value x43
        extract_lets +onlyGivenNames x45
        have h46 : Keeps s x45 := by
          unfold x45
          refine Keeps.trans ?_ (State.raiseIfAt_keeps ..)
          assumption
        clear_value x45
        extract_lets +onlyGivenNames x47
        clear_value x47
        extract_lets +onlyGivenNames x48
        clear_value x48
        extract_lets +onlyGivenNames x49
        have h50 : Keeps s x49 := by
          unfold x49
          split
          · rename_i a51 a52 a53
            refine Keeps.trans ?_ (State.judgeStep_keeps ..)
            assumption
          · rename_i a54 a55
            assumption
        clear_value x49
        extract_lets +onlyGivenNames x56
        clear_value x56
        extract_lets +onlyGivenNames x57
        have h58 : Keeps s x57 := by
          unfold x57
          refine Keeps.upd ?_ rfl rfl rfl
          assumption
        clear_value x57
        extract_lets +onlyGivenNames x59
        have h60 : Keeps s x59 := by
          unfold x59
          refine Keeps.trans ?_ (State.expectAnswers_keeps ..)
          assumption
        clear_value x59
        extract_lets +onlyGivenNames x61
        clear_value x61
        refine KeepsO.next ?_
        refine Keeps.trans ?_ (State.finishOp_keeps ..)
        assumption

theorem State.updGrant_keeps (s : State) (core : ℕ) (layer : ℕ) (f : Grant → Grant) : Keeps s (State.updGrant s core layer f) := by
  unfold State.updGrant
  extract_lets +onlyGivenNames x1
  clear_value x1
  refine Keeps.upd ?_ rfl rfl rfl
  exact Keeps.refl _

theorem State.combineRow_keeps (s : State) (issue : Issue) (g : Grant) (el : ExpertLayer) (chunk : ℕ) (n : ℕ) (outAddr : ℕ) (row : ℕ) (tag : RowTag) (alter : Bool) (acc : CombineRun) : Keeps s (State.combineRow s issue g el chunk n outAddr row tag alter acc).1 := by
  unfold State.combineRow
  extract_lets +onlyGivenNames x1
  clear_value x1
  extract_lets +onlyGivenNames x2
  clear_value x2
  extract_lets +onlyGivenNames x3
  clear_value x3
  extract_lets +onlyGivenNames x4
  clear_value x4
  extract_lets +onlyGivenNames x5
  clear_value x5
  extract_lets +onlyGivenNames x6
  clear_value x6
  extract_lets +onlyGivenNames x7
  clear_value x7
  extract_lets +onlyGivenNames x8
  clear_value x8
  extract_lets +onlyGivenNames x9
  clear_value x9
  extract_lets +onlyGivenNames x10
  clear_value x10
  extract_lets +onlyGivenNames x11
  clear_value x11
  extract_lets +onlyGivenNames x12
  clear_value x12
  extract_lets +onlyGivenNames x13
  clear_value x13
  extract_lets +onlyGivenNames x14
  have h15 : Keeps s x14 := by
    unfold x14
    refine Keeps.trans ?_ (State.updGrant_keeps ..)
    exact Keeps.refl _
  clear_value x14
  extract_lets +onlyGivenNames x16
  have h17 : Keeps s x16 := by
    unfold x16
    refine Keeps.trans ?_ (State.addAt_keeps ..)
    refine Keeps.trans ?_ (State.add_keeps ..)
    refine Keeps.trans ?_ (State.addAt_keeps ..)
    assumption
  clear_value x16
  extract_lets +onlyGivenNames x18
  have h19 : Keeps s x18 := by
    unfold x18
    refine Keeps.trans ?_ (State.addAt_keeps ..)
    refine Keeps.trans ?_ (State.addAt_keeps ..)
    assumption
  clear_value x18
  extract_lets +onlyGivenNames x20
  have h21 : Keeps s x20 := by
    unfold x20
    refine Keeps.trans ?_ (State.raiseIfAt_keeps ..)
    refine Keeps.trans ?_ (State.raiseIfAt_keeps ..)
    assumption
  clear_value x20
  extract_lets +onlyGivenNames x22
  clear_value x22
  extract_lets +onlyGivenNames x23
  clear_value x23
  extract_lets +onlyGivenNames x24
  have h25 : Keeps s x24 := by
    unfold x24
    refine Keeps.trans ?_ (State.updGrant_keeps ..)
    assumption
  clear_value x24
  split
  · rename_i a26
    dsimp only
    refine Keeps.trans ?_ (State.lateRows_keeps ..)
    assumption
  · rename_i a27
    split
    · rename_i a28
      dsimp only
      refine Keeps.trans ?_ (State.voidRows_keeps ..)
      refine Keeps.trans ?_ (State.addAt_keeps ..)
      assumption
    · rename_i a29
      split
      · rename_i a30
        dsimp only
        refine Keeps.trans ?_ (State.addAt_keeps ..)
        assumption
      · rename_i a31
        dsimp only
        refine Keeps.trans ?_ (State.storeF32_keeps ..)
        assumption

theorem execReturnCombine_keeps (issue : Issue) (layer : ℕ) (chunk : ℕ) (n : ℕ) (outAddr : ℕ) (ecc : Upsets) (s : State) : KeepsO s (execReturnCombine issue layer chunk n outAddr ecc s) := by
  unfold execReturnCombine
  extract_lets +onlyGivenNames x1
  clear_value x1
  split
  · rename_i a2
    refine KeepsO.next ?_
    exact Keeps.refl _
  · rename_i a3
    split
    · rename_i a4 a5
      refine KeepsO.next ?_
      refine Keeps.trans ?_ (State.skipLate_keeps ..)
      exact Keeps.refl _
    · rename_i a6 a7 a8
      split
      · rename_i a9 a10
        refine KeepsO.next ?_
        exact Keeps.refl _
      · rename_i a11 a12 a13
        extract_lets +onlyGivenNames x14
        clear_value x14
        split
        rename_i a15 a16 a17 a18
        have h19 : Keeps s a16 := by
          refine Keeps.fst a18 ?_
          refine Keeps.trans ?_ (State.csRead_keeps ..)
          exact Keeps.refl _
        split
        rename_i a20 a21 a22 a23
        have h24 : Keeps s a21 := by
          refine Keeps.fst a23 ?_
          split
          · rename_i a25
            dsimp only
            assumption
          · rename_i a26
            refine Keeps.trans ?_ (State.tryInject_keeps ..)
            assumption
        extract_lets +onlyGivenNames x27
        have h28 : Keeps s x27 := by
          unfold x27
          refine Keeps.trans ?_ (State.consume_keeps ..)
          assumption
        clear_value x27
        extract_lets +onlyGivenNames x29
        clear_value x29
        extract_lets +onlyGivenNames x30
        clear_value x30
        extract_lets +onlyGivenNames x31
        clear_value x31
        split
        rename_i a32 a33 a34 a35
        have h36 : Keeps s a33 := by
          refine Keeps.fst a35 ?_
          refine Keeps.foldlFst _ _ ?_ (fun u37 x38 => ?_)
          · beta_reduce
            dsimp only
            assumption
          · beta_reduce
            refine Keeps.trans ?_ (State.combineRow_keeps ..)
            exact Keeps.refl _
        extract_lets +onlyGivenNames x39
        have h40 : Keeps s x39 := by
          unfold x39
          split
          · rename_i a41
            refine Keeps.trans ?_ (State.voidRows_keeps ..)
            assumption
          · rename_i a42
            assumption
        clear_value x39
        extract_lets +onlyGivenNames x43
        clear_value x43
        extract_lets +onlyGivenNames x44
        have h45 : Keeps s x44 := by
          unfold x44
          refine Keeps.trans ?_ (State.finishOp_keeps ..)
          assumption
        clear_value x44
        extract_lets +onlyGivenNames x46
        have h47 : Keeps s x46 := by
          unfold x46
          refine Keeps.trans ?_ (State.updGrant_keeps ..)
          assumption
        clear_value x46
        extract_lets +onlyGivenNames x48
        clear_value x48
        split
        · rename_i a49 a50
          refine KeepsO.next ?_
          assumption
        · rename_i a51 a52 a53
          extract_lets +onlyGivenNames x54
          have h55 : Keeps s x54 := by
            unfold x54
            refine Keeps.trans ?_ (State.judgeStep_keeps ..)
            assumption
          clear_value x54
          extract_lets +onlyGivenNames x56
          clear_value x56
          split
          · rename_i a57
            refine KeepsO.next ?_
            refine Keeps.upd ?_ rfl rfl rfl
            assumption
          · rename_i a58
            refine KeepsO.next ?_
            assumption

theorem execQuarantineLapse_keeps (layer : ℕ) (expert : ℕ) (s : State) : KeepsO s (execQuarantineLapse layer expert s) := by
  unfold execQuarantineLapse
  refine KeepsO.next ?_
  split
  · rename_i a1 a2
    exact Keeps.refl _
  · rename_i a3 a4 a5
    extract_lets +onlyGivenNames x6
    clear_value x6
    extract_lets +onlyGivenNames x7
    have h8 : Keeps s x7 := by
      unfold x7
      refine Keeps.upd ?_ rfl rfl rfl
      exact Keeps.refl _
    clear_value x7
    extract_lets +onlyGivenNames x9
    clear_value x9
    extract_lets +onlyGivenNames x10
    clear_value x10
    split
    · rename_i a11
      exact Keeps.refl _
    · rename_i a12
      refine Keeps.upd ?_ rfl rfl rfl
      assumption

/-! ### Machine/Network.lean -/

theorem State.placeRow_keeps (s : State) (key : Option ℕ) (row : ℕ) (posLo : ℕ) : Keeps s (State.placeRow s key row posLo) := by
  unfold State.placeRow
  split
  · rename_i a1
    exact Keeps.refl _
  · rename_i a2 a3
    extract_lets +onlyGivenNames x4
    clear_value x4
    refine Keeps.upd ?_ rfl rfl rfl
    exact Keeps.refl _

theorem State.dropRowTag_keeps (s : State) (core : ℕ) : Keeps s (State.dropRowTag s core) := by
  unfold State.dropRowTag
  refine Keeps.trans ?_ (State.putAt_keeps ..)
  refine Keeps.trans ?_ (State.addAt_keeps ..)
  exact Keeps.refl _

theorem State.deliverUnit_keeps (s : State) (core : ℕ) (b : TokenBuf) (inst : ℕ) (kind : ℕ) (u : UnitOut) : Keeps s (State.deliverUnit s core b inst kind u) := by
  unfold State.deliverUnit
  extract_lets +onlyGivenNames x1
  clear_value x1
  extract_lets +onlyGivenNames x2
  clear_value x2
  split
  · rename_i a3
    exact Keeps.refl _
  · rename_i a4
    split
    rename_i a5 a6 a7 a8
    have h9 : Keeps s a6 := by
      refine Keeps.fst a8 ?_
      refine Keeps.trans ?_ (State.tryInject_keeps ..)
      exact Keeps.refl _
    extract_lets +onlyGivenNames x10
    clear_value x10
    split
    rename_i a11 a12 a13 a14
    have h15 : Keeps s a12 := by
      refine Keeps.fst a14 ?_
      split
      · rename_i a16 a17 a18
        split
        · rename_i a19
          dsimp only
          refine Keeps.trans ?_ (State.fired_keeps ..)
          assumption
        · rename_i a20
          dsimp only
          assumption
      · rename_i a21 a22
        dsimp only
        assumption
    split
    · rename_i a23
      assumption
    · rename_i a24
      split
      rename_i a25 a26 a27 a28
      have h29 : Keeps s a26 := by
        refine Keeps.fst a28 ?_
        refine Keeps.trans ?_ (State.arrive_keeps ..)
        assumption
      split
      · rename_i a30
        have h31 : Keeps s a26 := by
          refine Keeps.fst a28 ?_
          refine Keeps.trans ?_ (State.arrive_keeps ..)
          assumption
        assumption
      · rename_i a32
        have h33 : Keeps s a26 := by
          refine Keeps.fst a28 ?_
          refine Keeps.trans ?_ (State.arrive_keeps ..)
          assumption
        extract_lets +onlyGivenNames x34
        clear_value x34
        split
        rename_i a35 a36 a37 a38
        have h39 : Keeps s a36 := by
          refine Keeps.fst a38 ?_
          split
          · rename_i a40
            refine Keeps.trans ?_ (State.tryInject_keeps ..)
            assumption
          · rename_i a41
            dsimp only
            assumption
        extract_lets +onlyGivenNames x42
        have h43 : Keeps s x42 := by
          unfold x42
          refine Keeps.trans ?_ (State.dropRowTag_keeps ..)
          assumption
        clear_value x42
        extract_lets +onlyGivenNames x44
        clear_value x44
        extract_lets +onlyGivenNames x45
        have h46 : Keeps s x45 := by
          unfold x45
          refine Keeps.trans ?_ (State.setToken_keeps ..)
          assumption
        clear_value x45
        extract_lets +onlyGivenNames x47
        have h48 : Keeps s x47 := by
          unfold x47
          split
          · rename_i a49
            refine Keeps.trans ?_ (State.placeRow_keeps ..)
            assumption
          · rename_i a50
            assumption
        clear_value x47
        extract_lets +onlyGivenNames x51
        have h52 : Keeps s x51 := by
          unfold x51
          refine Keeps.trans ?_ (State.storeBytes_keeps ..)
          assumption
        clear_value x51
        extract_lets +onlyGivenNames x53
        have h54 : Keeps s x53 := by
          unfold x53
          split
          · rename_i a55
            refine Keeps.trans ?_ (State.ringTake_keeps ..)
            assumption
          · rename_i a56
            assumption
        clear_value x53
        extract_lets +onlyGivenNames x57
        clear_value x57
        extract_lets +onlyGivenNames x58
        have h59 : Keeps s x58 := by
          unfold x58
          refine Keeps.trans ?_ (State.setToken_keeps ..)
          assumption
        clear_value x58
        extract_lets +onlyGivenNames x60
        have h61 : Keeps s x60 := by
          unfold x60
          refine Keeps.trans ?_ (State.dropRowTag_keeps ..)
          assumption
        clear_value x60
        extract_lets +onlyGivenNames x62
        clear_value x62
        split
        · rename_i a63
          refine Keeps.trans ?_ (State.lateRows_keeps ..)
          refine Keeps.trans ?_ (State.add_keeps ..)
          refine Keeps.trans ?_ (State.addAt_keeps ..)
          assumption
        · rename_i a64
          split
          · rename_i a65
            refine Keeps.trans ?_ (State.setToken_keeps ..)
            assumption
          · rename_i a66
            assumption

theorem execMeshTransfer_keeps (issue : Issue) (flow : ℕ) (send : Send) (ecc : Upsets) (s : State) : KeepsO s (execMeshTransfer issue flow send ecc s) := by
  unfold execMeshTransfer
  extract_lets +onlyGivenNames x1
  clear_value x1
  split
  · rename_i a2
    refine KeepsO.next ?_
    exact Keeps.refl _
  · rename_i a3
    split
    · rename_i a4 a5
      refine KeepsO.next ?_
      exact Keeps.refl _
    · rename_i a6 a7 a8
      extract_lets +onlyGivenNames x9
      clear_value x9
      split
      rename_i a10 a11 a12 a13
      have h14 : Keeps s a11 := by
        refine Keeps.fst a13 ?_
        refine Keeps.trans ?_ (State.beginOp_keeps ..)
        exact Keeps.refl _
      split
      · rename_i a15
        have h16 : Keeps s a11 := by
          refine Keeps.fst a13 ?_
          refine Keeps.trans ?_ (State.beginOp_keeps ..)
          exact Keeps.refl _
        refine KeepsO.next ?_
        assumption
      · rename_i a17 a18
        have h19 : Keeps s a11 := by
          refine Keeps.fst a13 ?_
          refine Keeps.trans ?_ (State.beginOp_keeps ..)
          exact Keeps.refl _
        split
        · rename_i a20 a21
          refine KeepsO.next ?_
          assumption
        · rename_i a22 a23 a24
          extract_lets +onlyGivenNames x25
          clear_value x25
          extract_lets +onlyGivenNames x26
          clear_value x26
          extract_lets +onlyGivenNames x27
          clear_value x27
          extract_lets +onlyGivenNames x28
          clear_value x28
          split
          rename_i a29 a30 a31 a32
          have h33 : Keeps s a30 := by
            refine Keeps.fst a32 ?_
            refine Keeps.trans ?_ (State.tryInject_keeps ..)
            assumption
          extract_lets +onlyGivenNames x34
          clear_value x34
          extract_lets +onlyGivenNames x35
          clear_value x35
          extract_lets +onlyGivenNames x36
          have h37 : Keeps s x36 := by
            unfold x36
            refine Keeps.trans ?_ (State.finishOp_keeps ..)
            assumption
          clear_value x36
          extract_lets +onlyGivenNames x38
          refine KeepsO.next ?_
          split
          · rename_i a39
            refine Keeps.trans ?_ (State.putAt_keeps ..)
            assumption
          · rename_i a40
            extract_lets +onlyGivenNames x41
            clear_value x41
            refine Keeps.upd ?_ rfl rfl rfl
            assumption
          · rename_i a42 a43
            extract_lets +onlyGivenNames x44
            clear_value x44
            refine Keeps.upd ?_ rfl rfl rfl
            assumption

theorem State.markRouter_keeps (s : State) (core : ℕ) (planeB : Bool) : Keeps s (State.markRouter s core planeB) := by
  unfold State.markRouter
  extract_lets +onlyGivenNames x1
  clear_value x1
  extract_lets +onlyGivenNames x2
  clear_value x2
  split
  · rename_i a3
    exact Keeps.refl _
  · rename_i a4
    refine Keeps.upd ?_ rfl rfl rfl
    exact Keeps.refl _

theorem State.applyMarks_keeps (s : State) : Keeps s (State.applyMarks s) := by
  unfold State.applyMarks
  split
  · rename_i a1 a2
    exact Keeps.refl _
  · rename_i a3 a4
    extract_lets +onlyGivenNames x5
    clear_value x5
    extract_lets +onlyGivenNames x6
    have h7 : Keeps s x6 := by
      unfold x6
      refine Keeps.foldl _ _ ?_ (fun u8 x9 => ?_)
      · beta_reduce
        exact Keeps.refl _
      · beta_reduce
        refine Keeps.trans ?_ (State.putAt_keeps ..)
        exact Keeps.refl _
    clear_value x6
    extract_lets +onlyGivenNames x10
    clear_value x10
    extract_lets +onlyGivenNames x11
    have h12 : Keeps s x11 := by
      unfold x11
      refine Keeps.upd ?_ rfl rfl rfl
      assumption
    clear_value x11
    split
    · rename_i a13
      assumption
    · rename_i a14
      refine Keeps.trans ?_ (State.reAdmit_keeps ..)
      assumption

theorem State.takeFlit_keeps (s : State) (n : ℕ) : Keeps s (State.takeFlit s n) := by
  unfold State.takeFlit
  extract_lets +onlyGivenNames x1
  clear_value x1
  refine Keeps.upd ?_ rfl rfl rfl
  exact Keeps.refl _

theorem State.countOut_keeps (s : State) (core : ℕ) (next : ℕ) (planeB : Bool) : Keeps s (State.countOut s core next planeB) := by
  unfold State.countOut
  extract_lets +onlyGivenNames x1
  clear_value x1
  extract_lets +onlyGivenNames x2
  clear_value x2
  extract_lets +onlyGivenNames x3
  clear_value x3
  refine Keeps.upd ?_ rfl rfl rfl
  exact Keeps.refl _

theorem execFlitForward_keeps (n : ℕ) (upset : Bool) (s : State) : KeepsO s (execFlitForward n upset s) := by
  unfold execFlitForward
  refine KeepsO.next ?_
  split
  · rename_i a1 a2
    exact Keeps.refl _
  · rename_i a3 a4 a5
    extract_lets +onlyGivenNames x6
    clear_value x6
    extract_lets +onlyGivenNames x7
    clear_value x7
    extract_lets +onlyGivenNames x8
    clear_value x8
    extract_lets +onlyGivenNames x9
    clear_value x9
    extract_lets +onlyGivenNames x10
    clear_value x10
    extract_lets +onlyGivenNames x11
    have h12 : Keeps s x11 := by
      unfold x11
      refine Keeps.trans ?_ (State.takeFlit_keeps ..)
      exact Keeps.refl _
    clear_value x11
    split
    · rename_i a13
      exact Keeps.refl _
    · rename_i a14
      split
      · rename_i a15
        assumption
      · rename_i a16
        split
        · rename_i a17
          refine Keeps.trans ?_ (State.putAt_keeps ..)
          refine Keeps.trans ?_ (State.addAt_keeps ..)
          assumption
        · rename_i a18
          split
          rename_i a19 a20 a21 a22
          have h23 : Keeps s a20 := by
            refine Keeps.fst a22 ?_
            split
            · rename_i a24 a25 a26
              split
              · rename_i a27
                split
                · rename_i a28
                  dsimp only
                  refine Keeps.trans ?_ (State.fired_keeps ..)
                  assumption
                · rename_i a29
                  dsimp only
                  assumption
              · rename_i a30
                split
                · rename_i a31
                  dsimp only
                  refine Keeps.trans ?_ (State.fired_keeps ..)
                  assumption
                · rename_i a32
                  dsimp only
                  assumption
            · rename_i a33 a34
              dsimp only
              assumption
          extract_lets +onlyGivenNames x35
          have h36 : Keeps s x35 := by
            unfold x35
            split
            · rename_i a37
              refine Keeps.trans ?_ (State.markRouter_keeps ..)
              assumption
            · rename_i a38
              assumption
          clear_value x35
          extract_lets +onlyGivenNames x39
          have h40 : Keeps s x39 := by
            unfold x39
            refine Keeps.trans ?_ (State.countOut_keeps ..)
            assumption
          clear_value x39
          extract_lets +onlyGivenNames x41
          have h42 : Keeps s x41 := by
            unfold x41
            split
            · rename_i a43
              refine Keeps.trans ?_ (State.addAt_keeps ..)
              assumption
            · rename_i a44
              assumption
          clear_value x41
          split
          rename_i a45 a46 a47 a48
          have h49 : Keeps s a46 := by
            refine Keeps.fst a48 ?_
            split
            · rename_i a50 a51 a52
              split
              · rename_i a53
                split
                · rename_i a54
                  dsimp only
                  refine Keeps.trans ?_ (State.fired_keeps ..)
                  assumption
                · rename_i a55
                  dsimp only
                  assumption
              · rename_i a56
                split
                · rename_i a57
                  dsimp only
                  refine Keeps.trans ?_ (State.fired_keeps ..)
                  assumption
                · rename_i a58
                  dsimp only
                  assumption
            · rename_i a59 a60
              dsimp only
              assumption
          extract_lets +onlyGivenNames x61
          have h62 : Keeps s x61 := by
            unfold x61
            refine Keeps.trans ?_ (State.putAt_keeps ..)
            refine Keeps.trans ?_ (State.addAt_keeps ..)
            assumption
          clear_value x61
          extract_lets +onlyGivenNames x63
          clear_value x63
          extract_lets +onlyGivenNames x64
          clear_value x64
          extract_lets +onlyGivenNames x65
          clear_value x65
          extract_lets +onlyGivenNames x66
          have h67 : Keeps s x66 := by
            unfold x66
            refine Keeps.upd ?_ rfl rfl rfl
            assumption
          clear_value x66
          extract_lets +onlyGivenNames x68
          clear_value x68
          split
          · rename_i a69
            split
            · rename_i a70
              refine Keeps.trans ?_ (State.markRouter_keeps ..)
              assumption
            · rename_i a71
              assumption
          · rename_i a72
            refine Keeps.upd ?_ rfl rfl rfl
            assumption

theorem execFlitArrival_keeps (n : ℕ) (s : State) : KeepsO s (execFlitArrival n s) := by
  unfold execFlitArrival
  refine KeepsO.next ?_
  split
  · rename_i a1 a2
    exact Keeps.refl _
  · rename_i a3 a4 a5
    extract_lets +onlyGivenNames x6
    clear_value x6
    extract_lets +onlyGivenNames x7
    have h8 : Keeps s x7 := by
      unfold x7
      refine Keeps.trans ?_ (State.takeFlit_keeps ..)
      exact Keeps.refl _
    clear_value x7
    extract_lets +onlyGivenNames x9
    have h10 : Keeps s x9 := by
      unfold x9
      refine Keeps.trans ?_ (State.countOut_keeps ..)
      assumption
    clear_value x9
    extract_lets +onlyGivenNames x11
    have h12 : Keeps s x11 := by
      unfold x11
      split
      · rename_i a13
        refine Keeps.trans ?_ (State.addAt_keeps ..)
        assumption
      · rename_i a14
        assumption
    clear_value x11
    extract_lets +onlyGivenNames x15
    have h16 : Keeps s x15 := by
      unfold x15
      refine Keeps.trans ?_ (State.putAt_keeps ..)
      refine Keeps.trans ?_ (State.addAt_keeps ..)
      assumption
    clear_value x15
    split
    · rename_i a17
      exact Keeps.refl _
    · rename_i a18
      split
      · rename_i a19
        assumption
      · rename_i a20
        split
        · rename_i a21
          assumption
        · rename_i a22
          split
          · rename_i a23 a24
            assumption
          · rename_i a25 a26 a27
            refine Keeps.trans ?_ (State.deliverUnit_keeps ..)
            assumption

theorem State.takePeck_keeps (s : State) (core : ℕ) (engs : BitVec 8) (kind : ℕ) (perRow : ℕ) (u : UnitOut) : Keeps s (State.takePeck s core engs kind perRow u) := by
  unfold State.takePeck
  split
  · rename_i a1
    exact Keeps.refl _
  · rename_i a2
    refine Keeps.foldl _ _ ?_ (fun u3 x4 => ?_)
    · beta_reduce
      exact Keeps.refl _
    · beta_reduce
      extract_lets +onlyGivenNames x5
      clear_value x5
      split
      · rename_i a6
        refine Keeps.trans ?_ (State.setEngine_keeps ..)
        exact Keeps.refl _
      · rename_i a7
        exact Keeps.refl _

theorem execBroadcast_keeps (issue : Issue) (column : Bool) (send : Send) (recv : List BusRecv) (ecc : Upsets) (s : State) : KeepsO s (execBroadcast issue column send recv ecc s) := by
  unfold execBroadcast
  extract_lets +onlyGivenNames x1
  clear_value x1
  extract_lets +onlyGivenNames x2
  clear_value x2
  split
  · rename_i a3
    split
    · rename_i a4
      refine KeepsO.next ?_
      exact Keeps.refl _
    · rename_i a5
      split
      rename_i a6 a7 a8 a9
      have h10 : Keeps s a7 := by
        refine Keeps.fst a9 ?_
        refine Keeps.trans ?_ (State.beginOp_keeps ..)
        exact Keeps.refl _
      split
      · rename_i a11
        have h12 : Keeps s a7 := by
          refine Keeps.fst a9 ?_
          refine Keeps.trans ?_ (State.beginOp_keeps ..)
          exact Keeps.refl _
        refine KeepsO.next ?_
        assumption
      · rename_i a13 a14
        have h15 : Keeps s a7 := by
          refine Keeps.fst a9 ?_
          refine Keeps.trans ?_ (State.beginOp_keeps ..)
          exact Keeps.refl _
        extract_lets +onlyGivenNames x16
        clear_value x16
        extract_lets +onlyGivenNames x17
        clear_value x17
        extract_lets +onlyGivenNames x18
        clear_value x18
        extract_lets +onlyGivenNames x19
        clear_value x19
        extract_lets +onlyGivenNames x20
        clear_value x20
        extract_lets +onlyGivenNames x21
        have h22 : Keeps s x21 := by
          unfold x21
          refine Keeps.foldl _ _ ?_ (fun u23 x24 => ?_)
          · beta_reduce
            assumption
          · beta_reduce
            split
            · rename_i a25
              exact Keeps.refl _
            · rename_i a26
              split
              · rename_i a27 a28
                exact Keeps.refl _
              · rename_i a29 a30 a31
                refine Keeps.foldl _ _ ?_ (fun u32 x33 => ?_)
                · beta_reduce
                  exact Keeps.refl _
                · beta_reduce
                  extract_lets +onlyGivenNames x34
                  clear_value x34
                  extract_lets +onlyGivenNames x35
                  clear_value x35
                  refine Keeps.trans ?_ (State.takePeck_keeps ..)
                  refine Keeps.trans ?_ (State.deliverUnit_keeps ..)
                  exact Keeps.refl _
        clear_value x21
        refine KeepsO.next ?_
        refine Keeps.trans ?_ (State.finishOp_keeps ..)
        assumption
  · rename_i a36
    split
    · rename_i a37
      refine KeepsO.next ?_
      exact Keeps.refl _
    · rename_i a38
      split
      rename_i a39 a40 a41 a42
      have h43 : Keeps s a40 := by
        refine Keeps.fst a42 ?_
        refine Keeps.trans ?_ (State.beginOp_keeps ..)
        exact Keeps.refl _
      split
      · rename_i a44
        have h45 : Keeps s a40 := by
          refine Keeps.fst a42 ?_
          refine Keeps.trans ?_ (State.beginOp_keeps ..)
          exact Keeps.refl _
        refine KeepsO.next ?_
        assumption
      · rename_i a46 a47
        have h48 : Keeps s a40 := by
          refine Keeps.fst a42 ?_
          refine Keeps.trans ?_ (State.beginOp_keeps ..)
          exact Keeps.refl _
        extract_lets +onlyGivenNames x49
        clear_value x49
        extract_lets +onlyGivenNames x50
        clear_value x50
        extract_lets +onlyGivenNames x51
        clear_value x51
        extract_lets +onlyGivenNames x52
        clear_value x52
        extract_lets +onlyGivenNames x53
        clear_value x53
        extract_lets +onlyGivenNames x54
        have h55 : Keeps s x54 := by
          unfold x54
          refine Keeps.foldl _ _ ?_ (fun u56 x57 => ?_)
          · beta_reduce
            assumption
          · beta_reduce
            split
            · rename_i a58
              exact Keeps.refl _
            · rename_i a59
              split
              · rename_i a60 a61
                exact Keeps.refl _
              · rename_i a62 a63 a64
                refine Keeps.foldl _ _ ?_ (fun u65 x66 => ?_)
                · beta_reduce
                  exact Keeps.refl _
                · beta_reduce
                  extract_lets +onlyGivenNames x67
                  clear_value x67
                  extract_lets +onlyGivenNames x68
                  clear_value x68
                  refine Keeps.trans ?_ (State.takePeck_keeps ..)
                  refine Keeps.trans ?_ (State.deliverUnit_keeps ..)
                  exact Keeps.refl _
        clear_value x54
        refine KeepsO.next ?_
        refine Keeps.trans ?_ (State.finishOp_keeps ..)
        assumption

theorem execRouterFaultEvent_keeps (core : CoreId) (kind : RouterFault) (s : State) : KeepsO s (execRouterFaultEvent core kind s) := by
  unfold execRouterFaultEvent
  refine KeepsO.next ?_
  split
  · rename_i a1
    refine Keeps.trans ?_ (State.markRouter_keeps ..)
    exact Keeps.refl _
  · rename_i a2
    refine Keeps.trans ?_ (State.markRouter_keeps ..)
    exact Keeps.refl _
  · rename_i a3
    refine Keeps.trans ?_ (State.markRouter_keeps ..)
    refine Keeps.trans ?_ (State.markRouter_keeps ..)
    refine Keeps.trans ?_ (State.putAt_keeps ..)
    refine Keeps.trans ?_ (State.putAt_keeps ..)
    exact Keeps.refl _

theorem execRtrMarkA_keeps (core : CoreId) (w : Wr) (s : State) : KeepsO s (execRtrMarkA core w s) := by
  unfold execRtrMarkA
  split
  rename_i a1 a2 a3 a4
  have h5 : Keeps s a2 := by
    refine Keeps.fst a4 ?_
    refine Keeps.trans ?_ (State.write_keeps ..)
    exact Keeps.refl _
  extract_lets +onlyGivenNames x6
  have h7 : Keeps s x6 := by
    unfold x6
    split
    · rename_i a8
      refine Keeps.trans ?_ (State.markRouter_keeps ..)
      assumption
    · rename_i a9
      assumption
  clear_value x6
  refine KeepsO.next ?_
  split
  · rename_i a10
    refine Keeps.trans ?_ (State.markRouter_keeps ..)
    assumption
  · rename_i a11
    assumption

theorem execRtrMarkB_keeps (core : CoreId) (w : Wr) (s : State) : KeepsO s (execRtrMarkB core w s) := by
  unfold execRtrMarkB
  split
  rename_i a1 a2 a3 a4
  have h5 : Keeps s a2 := by
    refine Keeps.fst a4 ?_
    refine Keeps.trans ?_ (State.write_keeps ..)
    exact Keeps.refl _
  extract_lets +onlyGivenNames x6
  have h7 : Keeps s x6 := by
    unfold x6
    split
    · rename_i a8
      refine Keeps.trans ?_ (State.markRouter_keeps ..)
      assumption
    · rename_i a9
      assumption
  clear_value x6
  refine KeepsO.next ?_
  split
  · rename_i a10
    refine Keeps.trans ?_ (State.markRouter_keeps ..)
    assumption
  · rename_i a11
    assumption

theorem State.meshRod_keeps (s : State) : Keeps s (State.meshRod s) := by
  unfold State.meshRod
  extract_lets +onlyGivenNames x1
  clear_value x1
  extract_lets +onlyGivenNames x2
  clear_value x2
  refine Keeps.upd ?_ rfl rfl rfl
  exact Keeps.refl _

theorem State.meshFurlong_keeps (s : State) : Keeps s (State.meshFurlong s) := by
  unfold State.meshFurlong
  extract_lets +onlyGivenNames x1
  clear_value x1
  refine Keeps.upd ?_ rfl rfl rfl
  exact Keeps.refl _

end Sys2Proof.Machine
end

