-- ==== Sys2Proof/Laws/Keeps7.lean ====
section
/-! SUPPORT. The operations and meanings of Machine leave the queue alone and keep the invariant: Fabric. -/
namespace Sys2Proof.Machine

/-! ### Machine/Fabric.lean -/

theorem State.putLnk_keeps (s : State) (p : ℕ) (f : Fld) (v : ℕ) : Keeps s (State.putLnk s p f v) := by
  unfold State.putLnk
  refine Keeps.trans ?_ (State.putAt_keeps ..)
  exact Keeps.refl _

theorem State.addLnk_keeps (s : State) (p : ℕ) (f : Fld) (n : ℕ) : Keeps s (State.addLnk s p f n) := by
  unfold State.addLnk
  refine Keeps.trans ?_ (State.addAt_keeps ..)
  exact Keeps.refl _

theorem State.updPort_keeps (s : State) (p : ℕ) (f : Port → Port) : Keeps s (State.updPort s p f) := by
  unfold State.updPort
  refine Keeps.trans ?_ (State.setPort_keeps ..)
  exact Keeps.refl _

theorem State.beginTraining_keeps (s : State) (p : ℕ) : Keeps s (State.beginTraining s p) := by
  unfold State.beginTraining
  extract_lets +onlyGivenNames x1
  have h2 : Keeps s x1 := by
    unfold x1
    refine Keeps.trans ?_ (State.putLnk_keeps ..)
    refine Keeps.trans ?_ (State.putLnk_keeps ..)
    refine Keeps.trans ?_ (State.putLnk_keeps ..)
    exact Keeps.refl _
  clear_value x1
  extract_lets +onlyGivenNames x3
  have h4 : Keeps s x3 := by
    unfold x3
    refine Keeps.trans ?_ (State.putLnk_keeps ..)
    refine Keeps.trans ?_ (State.putLnk_keeps ..)
    refine Keeps.trans ?_ (State.putLnk_keeps ..)
    assumption
  clear_value x3
  refine Keeps.trans ?_ (State.settle_keeps ..)
  refine Keeps.trans ?_ (State.updPort_keeps ..)
  assumption

theorem State.failTraining_keeps (s : State) (p : ℕ) : Keeps s (State.failTraining s p) := by
  unfold State.failTraining
  refine Keeps.trans ?_ (State.settle_keeps ..)
  refine Keeps.trans ?_ (State.updPort_keeps ..)
  refine Keeps.trans ?_ (State.putLnk_keeps ..)
  exact Keeps.refl _

theorem State.activate_keeps (s : State) (p : ℕ) : Keeps s (State.activate s p) := by
  unfold State.activate
  extract_lets +onlyGivenNames x1
  have h2 : Keeps s x1 := by
    unfold x1
    refine Keeps.trans ?_ (State.putLnk_keeps ..)
    refine Keeps.trans ?_ (State.putLnk_keeps ..)
    exact Keeps.refl _
  clear_value x1
  extract_lets +onlyGivenNames x3
  have h4 : Keeps s x3 := by
    unfold x3
    refine Keeps.trans ?_ (State.updPort_keeps ..)
    assumption
  clear_value x3
  extract_lets +onlyGivenNames x5
  clear_value x5
  extract_lets +onlyGivenNames x6
  have h7 : Keeps s x6 := by
    unfold x6
    refine Keeps.upd ?_ rfl rfl rfl
    assumption
  clear_value x6
  refine Keeps.trans ?_ (State.reAdmit_keeps ..)
  assumption

theorem State.disablePort_keeps (s : State) (p : ℕ) (plan : ℕ) : Keeps s (State.disablePort s p plan) := by
  unfold State.disablePort
  extract_lets +onlyGivenNames x1
  have h2 : Keeps s x1 := by
    unfold x1
    refine Keeps.trans ?_ (State.putLnk_keeps ..)
    refine Keeps.trans ?_ (State.putLnk_keeps ..)
    refine Keeps.trans ?_ (State.putLnk_keeps ..)
    exact Keeps.refl _
  clear_value x1
  extract_lets +onlyGivenNames x3
  have h4 : Keeps s x3 := by
    unfold x3
    refine Keeps.trans ?_ (State.updPort_keeps ..)
    assumption
  clear_value x3
  refine Keeps.trans ?_ (State.reAdmit_keeps ..)
  refine Keeps.trans ?_ (State.settle_keeps ..)
  refine Keeps.trans ?_ (State.pldm_keeps ..)
  assumption

theorem State.enterStep6_keeps (s : State) (p : ℕ) : Keeps s (State.enterStep6 s p) := by
  unfold State.enterStep6
  split
  · rename_i a1
    refine Keeps.trans ?_ (State.putLnk_keeps ..)
    exact Keeps.refl _
  · rename_i a2
    refine Keeps.trans ?_ (State.activate_keeps ..)
    exact Keeps.refl _

theorem State.startTrainings_keeps (s : State) : Keeps s (State.startTrainings s) := by
  unfold State.startTrainings
  refine Keeps.foldl _ _ ?_ (fun u1 x2 => ?_)
  · beta_reduce
    exact Keeps.refl _
  · beta_reduce
    extract_lets +onlyGivenNames x3
    clear_value x3
    extract_lets +onlyGivenNames x4
    clear_value x4
    extract_lets +onlyGivenNames x5
    clear_value x5
    extract_lets +onlyGivenNames x6
    have h7 : Keeps u1 x6 := by
      unfold x6
      refine Keeps.trans ?_ (State.beginTraining_keeps ..)
      exact Keeps.refl _
    clear_value x6
    split
    · rename_i a8
      exact Keeps.refl _
    · rename_i a9
      split
      · rename_i a10
        split
        · rename_i a11
          refine Keeps.trans ?_ (State.reAdmit_keeps ..)
          assumption
        · rename_i a12
          assumption
      · rename_i a13
        split
        · rename_i a14
          refine Keeps.trans ?_ (State.beginTraining_keeps ..)
          exact Keeps.refl _
        · rename_i a15
          exact Keeps.refl _

theorem execLaneTrainingDone_keeps (port : LaneId) (lanes : BitVec 8) (s : State) : KeepsO s (execLaneTrainingDone port lanes s) := by
  unfold execLaneTrainingDone
  extract_lets +onlyGivenNames x1
  clear_value x1
  refine KeepsO.next ?_
  split
  · rename_i a2
    refine Keeps.trans ?_ (State.updPort_keeps ..)
    refine Keeps.trans ?_ (State.putLnk_keeps ..)
    exact Keeps.refl _
  · rename_i a3
    exact Keeps.refl _

theorem State.emitFrame_keeps (s : State) (p : ℕ) (seq : ℕ) (hdr : FrameHdr) (payload : List Byte) : Keeps s (State.emitFrame s p seq hdr payload) := by
  unfold State.emitFrame
  extract_lets +onlyGivenNames x1
  clear_value x1
  refine Keeps.upd ?_ rfl rfl rfl
  exact Keeps.refl _

theorem execDeskewDone_keeps (port : LaneId) (lanes : BitVec 8) (s : State) : KeepsO s (execDeskewDone port lanes s) := by
  unfold execDeskewDone
  extract_lets +onlyGivenNames x1
  clear_value x1
  refine KeepsO.next ?_
  split
  · rename_i a2 a3
    exact Keeps.refl _
  · rename_i a4 a5 a6
    extract_lets +onlyGivenNames x7
    clear_value x7
    split
    · rename_i a8
      exact Keeps.refl _
    · rename_i a9
      split
      · rename_i a10 a11
        refine Keeps.trans ?_ (State.failTraining_keeps ..)
        exact Keeps.refl _
      · rename_i a12 a13 a14
        extract_lets +onlyGivenNames x15
        clear_value x15
        extract_lets +onlyGivenNames x16
        have h17 : Keeps s x16 := by
          unfold x16
          refine Keeps.trans ?_ (State.tick_keeps ..)
          exact Keeps.refl _
        clear_value x16
        extract_lets +onlyGivenNames x18
        have h19 : Keeps s x18 := by
          unfold x18
          refine Keeps.trans ?_ (State.putLnk_keeps ..)
          refine Keeps.trans ?_ (State.flagAt_keeps ..)
          refine Keeps.trans ?_ (State.putLnk_keeps ..)
          assumption
        clear_value x18
        extract_lets +onlyGivenNames x20
        have h21 : Keeps s x20 := by
          unfold x20
          refine Keeps.trans ?_ (State.updPort_keeps ..)
          assumption
        clear_value x20
        extract_lets +onlyGivenNames x22
        clear_value x22
        extract_lets +onlyGivenNames x23
        clear_value x23
        refine Keeps.trans ?_ (State.emitFrame_keeps ..)
        assumption

theorem State.rxFec_keeps (s : State) (p : ℕ) (rx : FrameRx) : Keeps s (State.rxFec s p rx).1 := by
  unfold State.rxFec
  extract_lets +onlyGivenNames x1
  have h2 : Keeps s x1 := by
    unfold x1
    refine Keeps.trans ?_ (State.addLnk_keeps ..)
    exact Keeps.refl _
  clear_value x1
  split
  rename_i a3 a4 a5 a6
  have h7 : Keeps s a4 := by
    refine Keeps.fst a6 ?_
    refine Keeps.trans ?_ (State.tryInject_keeps ..)
    assumption
  split
  · rename_i a8
    dsimp only
    refine Keeps.trans ?_ (State.addLnk_keeps ..)
    assumption
  · rename_i a9
    dsimp only
    assumption

theorem State.rxTag_keeps (s : State) (p : ℕ) (rx : FrameRx) : Keeps s (State.rxTag s p rx).1 := by
  unfold State.rxTag
  split
  rename_i a1 a2 a3 a4
  have h5 : Keeps s a2 := by
    refine Keeps.fst a4 ?_
    refine Keeps.trans ?_ (State.tryInject_keeps ..)
    exact Keeps.refl _
  extract_lets +onlyGivenNames x6
  have h7 : Keeps s x6 := by
    unfold x6
    refine Keeps.trans ?_ (State.updPort_keeps ..)
    refine Keeps.trans ?_ (State.addLnk_keeps ..)
    assumption
  clear_value x6
  split
  · rename_i a8
    dsimp only
    assumption
  · rename_i a9
    split
    · rename_i a10
      dsimp only
      refine Keeps.trans ?_ (State.reAdmit_keeps ..)
      refine Keeps.trans ?_ (State.settle_keeps ..)
      refine Keeps.trans ?_ (State.putLnk_keeps ..)
      refine Keeps.trans ?_ (State.putLnk_keeps ..)
      assumption
    · rename_i a11
      dsimp only
      assumption

theorem execHelloFrame_keeps (port : LaneId) (h : Hello) (rx : FrameRx) (s : State) : KeepsO s (execHelloFrame port h rx s) := by
  unfold execHelloFrame
  extract_lets +onlyGivenNames x1
  clear_value x1
  refine KeepsO.next ?_
  split
  · rename_i a2 a3
    exact Keeps.refl _
  · rename_i a4 a5 a6
    split
    · rename_i a7
      exact Keeps.refl _
    · rename_i a8
      split
      rename_i a9 a10 a11 a12
      have h13 : Keeps s a10 := by
        refine Keeps.fst a12 ?_
        refine Keeps.trans ?_ (State.rxFec_keeps ..)
        exact Keeps.refl _
      split
      · rename_i a14
        assumption
      · rename_i a15
        split
        rename_i a16 a17 a18 a19
        have h20 : Keeps s a17 := by
          refine Keeps.fst a19 ?_
          refine Keeps.trans ?_ (State.rxTag_keeps ..)
          assumption
        extract_lets +onlyGivenNames x21
        clear_value x21
        extract_lets +onlyGivenNames x22
        have h23 : Keeps s x22 := by
          unfold x22
          refine Keeps.trans ?_ (State.putLnk_keeps ..)
          refine Keeps.trans ?_ (State.putLnk_keeps ..)
          assumption
        clear_value x22
        extract_lets +onlyGivenNames x24
        have h25 : Keeps s x24 := by
          unfold x24
          refine Keeps.trans ?_ (State.putLnk_keeps ..)
          refine Keeps.trans ?_ (State.putLnk_keeps ..)
          assumption
        clear_value x24
        extract_lets +onlyGivenNames x26
        have h27 : Keeps s x26 := by
          unfold x26
          refine Keeps.trans ?_ (State.putLnk_keeps ..)
          assumption
        clear_value x26
        extract_lets +onlyGivenNames x28
        have h29 : Keeps s x28 := by
          unfold x28
          refine Keeps.trans ?_ (State.updPort_keeps ..)
          assumption
        clear_value x28
        extract_lets +onlyGivenNames x30
        clear_value x30
        extract_lets +onlyGivenNames x31
        clear_value x31
        extract_lets +onlyGivenNames x32
        clear_value x32
        extract_lets +onlyGivenNames x33
        clear_value x33
        split
        · rename_i a34
          assumption
        · rename_i a35
          refine Keeps.trans ?_ (State.emitFrame_keeps ..)
          assumption

theorem execConfirmFrame_keeps (port : LaneId) (c : Confirm) (rx : FrameRx) (s : State) : KeepsO s (execConfirmFrame port c rx s) := by
  unfold execConfirmFrame
  extract_lets +onlyGivenNames x1
  clear_value x1
  refine KeepsO.next ?_
  split
  · rename_i a2
    exact Keeps.refl _
  · rename_i a3
    split
    rename_i a4 a5 a6 a7
    have h8 : Keeps s a5 := by
      refine Keeps.fst a7 ?_
      refine Keeps.trans ?_ (State.rxFec_keeps ..)
      exact Keeps.refl _
    split
    · rename_i a9
      assumption
    · rename_i a10
      split
      rename_i a11 a12 a13 a14
      have h15 : Keeps s a12 := by
        refine Keeps.fst a14 ?_
        refine Keeps.trans ?_ (State.rxTag_keeps ..)
        assumption
      extract_lets +onlyGivenNames x16
      clear_value x16
      split
      · rename_i a17
        refine Keeps.trans ?_ (State.advanceStart_keeps ..)
        refine Keeps.trans ?_ (State.disablePort_keeps ..)
        assumption
      · rename_i a18
        split
        · rename_i a19 a20
          assumption
        · rename_i a21 a22 a23
          split
          rename_i a24 a25 a26 a27
          split
          · rename_i a28
            assumption
          · rename_i a29
            refine Keeps.trans ?_ (State.setPort_keeps ..)
            refine Keeps.trans ?_ (State.putLnk_keeps ..)
            assumption

theorem execCablingDecision_keeps (port : LaneId) (s : State) : KeepsO s (execCablingDecision port s) := by
  unfold execCablingDecision
  extract_lets +onlyGivenNames x1
  clear_value x1
  refine KeepsO.next ?_
  split
  · rename_i a2 a3
    exact Keeps.refl _
  · rename_i a4 a5 a6
    extract_lets +onlyGivenNames x7
    clear_value x7
    split
    · rename_i a8
      exact Keeps.refl _
    · rename_i a9
      split
      · rename_i a10 a11 a12 a13 a14 a15 a16 a17 a18
        split
        · rename_i a19
          split
          · rename_i a20
            refine Keeps.trans ?_ (State.advanceStart_keeps ..)
            refine Keeps.trans ?_ (State.enterStep6_keeps ..)
            refine Keeps.trans ?_ (State.putLnk_keeps ..)
            exact Keeps.refl _
          · rename_i a21
            refine Keeps.trans ?_ (State.advanceStart_keeps ..)
            refine Keeps.trans ?_ (State.disablePort_keeps ..)
            exact Keeps.refl _
        · rename_i a22
          split
          · rename_i a23
            split
            · rename_i a24 a25
              refine Keeps.trans ?_ (State.advanceStart_keeps ..)
              refine Keeps.trans ?_ (State.disablePort_keeps ..)
              exact Keeps.refl _
            · rename_i a26 a27 a28
              extract_lets +onlyGivenNames x29
              clear_value x29
              extract_lets +onlyGivenNames x30
              clear_value x30
              extract_lets +onlyGivenNames x31
              have h32 : Keeps s x31 := by
                unfold x31
                refine Keeps.trans ?_ (State.putLnk_keeps ..)
                refine Keeps.trans ?_ (State.putLnk_keeps ..)
                refine Keeps.trans ?_ (State.putLnk_keeps ..)
                exact Keeps.refl _
              clear_value x31
              extract_lets +onlyGivenNames x33
              have h34 : Keeps s x33 := by
                unfold x33
                refine Keeps.trans ?_ (State.putLnk_keeps ..)
                refine Keeps.trans ?_ (State.putLnk_keeps ..)
                refine Keeps.trans ?_ (State.putLnk_keeps ..)
                assumption
              clear_value x33
              split
              · rename_i a35
                exact Keeps.refl _
              · rename_i a36
                split
                · rename_i a37
                  refine Keeps.trans ?_ (State.advanceStart_keeps ..)
                  refine Keeps.trans ?_ (State.reAdmit_keeps ..)
                  refine Keeps.trans ?_ (State.enterStep6_keeps ..)
                  refine Keeps.trans ?_ (State.enterStep6_keeps ..)
                  assumption
                · rename_i a38
                  refine Keeps.trans ?_ (State.advanceStart_keeps ..)
                  refine Keeps.trans ?_ (State.disablePort_keeps ..)
                  exact Keeps.refl _
          · rename_i a39
            refine Keeps.trans ?_ (State.advanceStart_keeps ..)
            refine Keeps.trans ?_ (State.disablePort_keeps ..)
            exact Keeps.refl _
      · rename_i a40 a41 a42 a43
        exact Keeps.refl _

theorem execTrainingStepTimeout_keeps (port : LaneId) (s : State) : KeepsO s (execTrainingStepTimeout port s) := by
  unfold execTrainingStepTimeout
  extract_lets +onlyGivenNames x1
  clear_value x1
  refine KeepsO.next ?_
  split
  · rename_i a2
    exact Keeps.refl _
  · rename_i a3
    refine Keeps.trans ?_ (State.advanceStart_keeps ..)
    refine Keeps.trans ?_ (State.failTraining_keeps ..)
    exact Keeps.refl _

theorem State.sendFrame_keeps (s : State) (p : ℕ) (hdr : FrameHdr) (payload : List Byte) : Keeps s (State.sendFrame s p hdr payload) := by
  unfold State.sendFrame
  extract_lets +onlyGivenNames x1
  clear_value x1
  extract_lets +onlyGivenNames x2
  clear_value x2
  extract_lets +onlyGivenNames x3
  have h4 : Keeps s x3 := by
    unfold x3
    refine Keeps.trans ?_ (State.setPort_keeps ..)
    exact Keeps.refl _
  clear_value x3
  refine Keeps.trans ?_ (State.emitFrame_keeps ..)
  assumption

theorem execFrameSend_keeps (issue : Issue) (port : LaneId) (dstGroup : ℕ) (dstMod : ℕ) (dstRegion : ℕ) (send : Send) (ecc : Upsets) (s : State) : KeepsO s (execFrameSend issue port dstGroup dstMod dstRegion send ecc s) := by
  unfold execFrameSend
  extract_lets +onlyGivenNames x1
  clear_value x1
  extract_lets +onlyGivenNames x2
  clear_value x2
  split
  · rename_i a3
    refine KeepsO.next ?_
    exact Keeps.refl _
  · rename_i a4
    split
    rename_i a5 a6 a7 a8
    have h9 : Keeps s a6 := by
      refine Keeps.fst a8 ?_
      refine Keeps.trans ?_ (State.beginOp_keeps ..)
      exact Keeps.refl _
    split
    · rename_i a10
      have h11 : Keeps s a6 := by
        refine Keeps.fst a8 ?_
        refine Keeps.trans ?_ (State.beginOp_keeps ..)
        exact Keeps.refl _
      refine KeepsO.next ?_
      assumption
    · rename_i a12 a13
      have h14 : Keeps s a6 := by
        refine Keeps.fst a8 ?_
        refine Keeps.trans ?_ (State.beginOp_keeps ..)
        exact Keeps.refl _
      extract_lets +onlyGivenNames x15
      clear_value x15
      extract_lets +onlyGivenNames x16
      clear_value x16
      extract_lets +onlyGivenNames x17
      clear_value x17
      extract_lets +onlyGivenNames x18
      clear_value x18
      extract_lets +onlyGivenNames x19
      have h20 : Keeps s x19 := by
        unfold x19
        refine Keeps.trans ?_ (State.finishOp_keeps ..)
        assumption
      clear_value x19
      split
      · rename_i a21 a22
        refine KeepsO.next ?_
        assumption
      · rename_i a23 a24 a25
        extract_lets +onlyGivenNames x26
        clear_value x26
        extract_lets +onlyGivenNames x27
        clear_value x27
        extract_lets +onlyGivenNames x28
        have h29 : Keeps s x28 := by
          unfold x28
          refine Keeps.foldl _ _ ?_ (fun u30 x31 => ?_)
          · beta_reduce
            assumption
          · beta_reduce
            split
            rename_i a32 a33 a34 a35
            have h36 : Keeps u30 a33 := by
              refine Keeps.fst a35 ?_
              refine Keeps.trans ?_ (State.tryInject_keeps ..)
              exact Keeps.refl _
            extract_lets +onlyGivenNames x37
            clear_value x37
            refine Keeps.trans ?_ (State.sendFrame_keeps ..)
            assumption
        clear_value x28
        extract_lets +onlyGivenNames x38
        clear_value x38
        extract_lets +onlyGivenNames x39
        have h40 : Keeps s x39 := by
          unfold x39
          refine Keeps.upd ?_ rfl rfl rfl
          assumption
        clear_value x39
        refine KeepsO.next ?_
        assumption

theorem State.tableMsg_keeps (s : State) (m : TableMsg) : Keeps s (State.tableMsg s m) := by
  unfold State.tableMsg
  split
  · rename_i a1 a2 a3 a4 a5 a6 a7 a8 a9 a10 a11 a12 a13 a14 a15 a16 a17
    extract_lets +onlyGivenNames x18
    clear_value x18
    extract_lets +onlyGivenNames x19
    clear_value x19
    refine Keeps.trans ?_ (State.sendUpdate_keeps ..)
    refine Keeps.trans ?_ (State.setReq_keeps ..)
    exact Keeps.refl _
  · rename_i a20 a21
    refine Keeps.trans ?_ (State.sendUpdate_keeps ..)
    exact Keeps.refl _
  · rename_i a22 a23 a24 a25
    extract_lets +onlyGivenNames x26
    clear_value x26
    extract_lets +onlyGivenNames x27
    clear_value x27
    refine Keeps.trans ?_ (State.bindBushel_keeps ..)
    refine Keeps.upd ?_ rfl rfl rfl
    exact Keeps.refl _
  · rename_i a28 a29 a30 a31
    extract_lets +onlyGivenNames x32
    clear_value x32
    refine Keeps.upd ?_ rfl rfl rfl
    exact Keeps.refl _

theorem State.tableTraffic_keeps (s : State) (ms : List TableMsg) (isVoid : Bool) : Keeps s (State.tableTraffic s ms isVoid) := by
  unfold State.tableTraffic
  extract_lets +onlyGivenNames x1
  clear_value x1
  split
  · rename_i a2
    refine Keeps.trans ?_ (State.put_keeps ..)
    refine Keeps.upd ?_ rfl rfl rfl
    exact Keeps.refl _
  · rename_i a3
    refine Keeps.foldl _ _ ?_ (fun u4 x5 => ?_)
    · beta_reduce
      exact Keeps.refl _
    · beta_reduce
      refine Keeps.trans ?_ (State.tableMsg_keeps ..)
      exact Keeps.refl _

theorem State.takeUnits_keeps (s : State) (p : ℕ) (hdr : FrameHdr) (units : List (List Byte)) (r : RecvSlot) : Keeps s (State.takeUnits s p hdr units r) := by
  unfold State.takeUnits
  extract_lets +onlyGivenNames x1
  clear_value x1
  extract_lets +onlyGivenNames x2
  extract_lets +onlyGivenNames x3
  have h4 : Keeps s x3 := by
    unfold x3
    refine Keeps.trans ?_ (State.addLnk_keeps ..)
    exact Keeps.refl _
  clear_value x3
  extract_lets +onlyGivenNames x5
  clear_value x5
  extract_lets +onlyGivenNames x6
  clear_value x6
  split
  · rename_i a7 a8
    split
    · rename_i a9 a10
      assumption
    · rename_i a11 a12 a13
      refine Keeps.foldl _ _ ?_ (fun u14 x15 => ?_)
      · beta_reduce
        assumption
      · beta_reduce
        refine Keeps.trans ?_ (State.deliverUnit_keeps ..)
        exact Keeps.refl _
  · rename_i a16 a17 a18
    split
    · rename_i a19 a20
      assumption
    · rename_i a21 a22 a23
      split
      · rename_i a24 a25
        assumption
      · rename_i a26 a27 a28
        extract_lets +onlyGivenNames x29
        split
        · rename_i a30 a31
          refine Keeps.trans ?_ (State.putAt_keeps ..)
          assumption
        · rename_i a32 a33
          extract_lets +onlyGivenNames x34
          clear_value x34
          refine Keeps.upd ?_ rfl rfl rfl
          assumption
        · rename_i a35 a36 a37
          extract_lets +onlyGivenNames x38
          clear_value x38
          refine Keeps.upd ?_ rfl rfl rfl
          assumption

theorem execDataFrame_keeps (port : LaneId) (rx : FrameRx) (hdr : FrameHdr) (units : List (List Byte)) (slot : Option RecvSlot) (table : Option (List TableMsg)) (s : State) : KeepsO s (execDataFrame port rx hdr units slot table s) := by
  unfold execDataFrame
  extract_lets +onlyGivenNames x1
  clear_value x1
  split
  · rename_i a2
    refine KeepsO.next ?_
    exact Keeps.refl _
  · rename_i a3
    split
    rename_i a4 a5 a6 a7
    have h8 : Keeps s a5 := by
      refine Keeps.fst a7 ?_
      refine Keeps.trans ?_ (State.rxFec_keeps ..)
      exact Keeps.refl _
    extract_lets +onlyGivenNames x9
    split
    · rename_i a10
      refine KeepsO.next ?_
      assumption
    · rename_i a11
      split
      · rename_i a12
        refine KeepsO.next ?_
        unfold x9
        refine Keeps.trans ?_ (State.addLnk_keeps ..)
        assumption
      · rename_i a13
        split
        · rename_i a14
          refine KeepsO.next ?_
          refine Keeps.trans ?_ (State.putLnk_keeps ..)
          refine Keeps.trans ?_ (State.addLnk_keeps ..)
          assumption
        · rename_i a15
          split
          rename_i a16 a17 a18 a19
          have h20 : Keeps s a17 := by
            refine Keeps.fst a19 ?_
            refine Keeps.trans ?_ (State.rxTag_keeps ..)
            assumption
          extract_lets +onlyGivenNames x21
          have h22 : Keeps s x21 := by
            unfold x21
            refine Keeps.trans ?_ (State.updPort_keeps ..)
            assumption
          clear_value x21
          extract_lets +onlyGivenNames x23
          clear_value x23
          split
          · rename_i a24
            refine KeepsO.next ?_
            assumption
          · rename_i a25
            split
            · rename_i a26
              refine KeepsO.next ?_
              unfold x9
              refine Keeps.trans ?_ (State.addLnk_keeps ..)
              assumption
            · rename_i a27 a28
              extract_lets +onlyGivenNames x29
              clear_value x29
              extract_lets +onlyGivenNames x30
              clear_value x30
              split
              · rename_i a31
                refine KeepsO.next ?_
                unfold x9
                refine Keeps.trans ?_ (State.addLnk_keeps ..)
                assumption
              · rename_i a32
                split
                · rename_i a33
                  refine KeepsO.next ?_
                  refine Keeps.trans ?_ (State.add_keeps ..)
                  refine Keeps.trans ?_ (State.addAt_keeps ..)
                  assumption
                · rename_i a34
                  split
                  · rename_i a35 a36
                    refine KeepsO.next ?_
                    refine Keeps.trans ?_ (State.tableTraffic_keeps ..)
                    assumption
                  · rename_i a37
                    refine KeepsO.next ?_
                    refine Keeps.trans ?_ (State.takeUnits_keeps ..)
                    assumption

theorem State.voidOnce_keeps (s : State) (key : Option ℕ) (rows : BitVec 32) : Keeps s (State.voidOnce s key rows) := by
  unfold State.voidOnce
  split
  · rename_i a1
    exact Keeps.refl _
  · rename_i a2 a3
    split
    · rename_i a4 a5
      exact Keeps.refl _
    · rename_i a6 a7 a8
      extract_lets +onlyGivenNames x9
      clear_value x9
      split
      · rename_i a10
        exact Keeps.refl _
      · rename_i a11
        refine Keeps.trans ?_ (State.lateRows_keeps ..)
        exact Keeps.refl _

theorem State.voidPort_keeps (s : State) (p : ℕ) : Keeps s (State.voidPort s p) := by
  unfold State.voidPort
  extract_lets +onlyGivenNames x1
  have h2 : Keeps s x1 := by
    unfold x1
    refine Keeps.foldl _ _ ?_ (fun u3 x4 => ?_)
    · beta_reduce
      exact Keeps.refl _
    · beta_reduce
      split
      · rename_i a5
        exact Keeps.refl _
      · rename_i a6
        split
        · rename_i a7 a8
          refine Keeps.trans ?_ (State.voidOnce_keeps ..)
          exact Keeps.refl _
        · rename_i a9 a10 a11 a12 a13
          extract_lets +onlyGivenNames x14
          clear_value x14
          extract_lets +onlyGivenNames x15
          clear_value x15
          split
          · rename_i a16
            exact Keeps.refl _
          · rename_i a17
            refine Keeps.trans ?_ (State.voidOnce_keeps ..)
            refine Keeps.trans ?_ (State.setToken_keeps ..)
            exact Keeps.refl _
  clear_value x1
  extract_lets +onlyGivenNames x18
  clear_value x18
  extract_lets +onlyGivenNames x19
  clear_value x19
  extract_lets +onlyGivenNames x20
  have h21 : Keeps s x20 := by
    unfold x20
    refine Keeps.foldl _ _ ?_ (fun u22 x23 => ?_)
    · beta_reduce
      assumption
    · beta_reduce
      split
      · rename_i a24
        exact Keeps.refl _
      · rename_i a25
        split
        · rename_i a26 a27
          exact Keeps.refl _
        · rename_i a28 a29 a30
          extract_lets +onlyGivenNames x31
          clear_value x31
          extract_lets +onlyGivenNames x32
          clear_value x32
          extract_lets +onlyGivenNames x33
          have h34 : Keeps u22 x33 := by
            unfold x33
            refine Keeps.trans ?_ (State.setToken_keeps ..)
            exact Keeps.refl _
          clear_value x33
          split
          · rename_i a35
            exact Keeps.refl _
          · rename_i a36
            split
            · rename_i a37 a38 a39
              split
              · rename_i a40
                refine Keeps.trans ?_ (State.voidOnce_keeps ..)
                assumption
              · rename_i a41
                assumption
            · rename_i a42 a43
              assumption
  clear_value x20
  extract_lets +onlyGivenNames x44
  clear_value x44
  refine Keeps.upd ?_ rfl rfl rfl
  assumption

theorem State.notePresent_keeps (s : State) (gm : ℕ × ℕ) : Keeps s (State.notePresent s gm) := by
  unfold State.notePresent
  extract_lets +onlyGivenNames x1
  clear_value x1
  extract_lets +onlyGivenNames x2
  clear_value x2
  extract_lets +onlyGivenNames x3
  have h4 : Keeps s x3 := by
    unfold x3
    refine Keeps.upd ?_ rfl rfl rfl
    exact Keeps.refl _
  clear_value x3
  split
  · rename_i a5
    refine Keeps.trans ?_ (State.reAdmit_keeps ..)
    assumption
  · rename_i a6
    assumption

theorem State.seePresent_keeps (s : State) (m : SbMsg) : Keeps s (State.seePresent s m) := by
  unfold State.seePresent
  split
  rename_i a1 a2 a3 a4
  have h5 : Keeps s a2 := by
    refine Keeps.fst a4 ?_
    refine Keeps.trans ?_ (State.enterSb_keeps ..)
    exact Keeps.refl _
  split
  · rename_i a6
    refine Keeps.trans ?_ (State.notePresent_keeps ..)
    assumption
  · rename_i a7
    assumption

theorem State.raisePresent_keeps (s : State) (gm : ℕ × ℕ) : Keeps s (State.raisePresent s gm) := by
  unfold State.raisePresent
  refine Keeps.trans ?_ (State.seePresent_keeps ..)
  exact Keeps.refl _

theorem State.seeLoss_keeps (s : State) (m : SbMsg) (port : Option ℕ) : Keeps s (State.seeLoss s m port) := by
  unfold State.seeLoss
  extract_lets +onlyGivenNames x1
  clear_value x1
  split
  rename_i a2 a3 a4 a5
  have h6 : Keeps s a3 := by
    refine Keeps.fst a5 ?_
    refine Keeps.trans ?_ (State.enterSb_keeps ..)
    exact Keeps.refl _
  extract_lets +onlyGivenNames x7
  clear_value x7
  extract_lets +onlyGivenNames x8
  clear_value x8
  extract_lets +onlyGivenNames x9
  clear_value x9
  extract_lets +onlyGivenNames x10
  clear_value x10
  extract_lets +onlyGivenNames x11
  have h12 : Keeps s x11 := by
    unfold x11
    split
    · rename_i a13 a14
      refine Keeps.upd ?_ rfl rfl rfl
      assumption
    · rename_i a15
      refine Keeps.upd ?_ rfl rfl rfl
      assumption
  clear_value x11
  split
  · rename_i a16
    assumption
  · rename_i a17
    split
    · rename_i a18
      refine Keeps.trans ?_ (State.raisePresent_keeps ..)
      assumption
    · rename_i a19
      assumption

theorem State.detectLoss_keeps (s : State) (p : ℕ) (injected : Bool) : Keeps s (State.detectLoss s p injected) := by
  unfold State.detectLoss
  extract_lets +onlyGivenNames x1
  have h2 : Keeps s x1 := by
    unfold x1
    refine Keeps.trans ?_ (State.voidPort_keeps ..)
    exact Keeps.refl _
  clear_value x1
  extract_lets +onlyGivenNames x3
  clear_value x3
  extract_lets +onlyGivenNames x4
  have h5 : Keeps s x4 := by
    unfold x4
    refine Keeps.trans ?_ (State.putLnk_keeps ..)
    refine Keeps.trans ?_ (State.putLnk_keeps ..)
    refine Keeps.trans ?_ (State.putLnk_keeps ..)
    assumption
  clear_value x4
  extract_lets +onlyGivenNames x6
  have h7 : Keeps s x6 := by
    unfold x6
    refine Keeps.trans ?_ (State.settle_keeps ..)
    refine Keeps.trans ?_ (State.updPort_keeps ..)
    assumption
  clear_value x6
  split
  · rename_i a8
    exact Keeps.refl _
  · rename_i a9
    split
    · rename_i a10
      refine Keeps.trans ?_ (State.put_keeps ..)
      assumption
    · rename_i a11
      refine Keeps.trans ?_ (State.seeLoss_keeps ..)
      assumption

theorem execHeartbeatSend_keeps (port : LaneId) (s : State) : KeepsO s (execHeartbeatSend port s) := by
  unfold execHeartbeatSend
  extract_lets +onlyGivenNames x1
  clear_value x1
  extract_lets +onlyGivenNames x2
  clear_value x2
  extract_lets +onlyGivenNames x3
  clear_value x3
  extract_lets +onlyGivenNames x4
  clear_value x4
  extract_lets +onlyGivenNames x5
  have h6 : Keeps s x5 := by
    unfold x5
    refine Keeps.trans ?_ (State.sendFrame_keeps ..)
    exact Keeps.refl _
  clear_value x5
  extract_lets +onlyGivenNames x7
  have h8 : Keeps s x7 := by
    unfold x7
    refine Keeps.trans ?_ (State.updPort_keeps ..)
    assumption
  clear_value x7
  extract_lets +onlyGivenNames x9
  clear_value x9
  extract_lets +onlyGivenNames x10
  clear_value x10
  extract_lets +onlyGivenNames x11
  extract_lets +onlyGivenNames x12
  clear_value x12
  extract_lets +onlyGivenNames x13
  clear_value x13
  split
  · rename_i a14
    refine KeepsO.next ?_
    exact Keeps.refl _
  · rename_i a15
    refine KeepsO.next ?_
    refine Keeps.trans ?_ (State.depth_keeps ..)
    refine Keeps.upd ?_ rfl rfl rfl
    assumption

theorem State.takeSb_keeps (s : State) (m : SbMsg) : Keeps s (State.takeSb s m) := by
  unfold State.takeSb
  split
  · rename_i a1 a2
    refine Keeps.trans ?_ (State.enterSb_keeps ..)
    exact Keeps.refl _
  · rename_i a3 a4
    refine Keeps.trans ?_ (State.seeVarReq_keeps ..)
    exact Keeps.refl _
  · rename_i a5 a6
    refine Keeps.trans ?_ (State.seeRefusal_keeps ..)
    exact Keeps.refl _
  · rename_i a7 a8
    refine Keeps.trans ?_ (State.seeLoss_keeps ..)
    exact Keeps.refl _
  · rename_i a9 a10
    refine Keeps.trans ?_ (State.seePresent_keeps ..)
    exact Keeps.refl _
  · rename_i a11 a12
    refine Keeps.trans ?_ (State.seeEpoch_keeps ..)
    exact Keeps.refl _
  · rename_i a13 a14 a15 a16 a17 a18 a19
    exact Keeps.refl _

theorem State.peerTime_keeps (s : State) (p : ℕ) (rodLo : ℕ) (state : ℕ) : Keeps s (State.peerTime s p rodLo state) := by
  unfold State.peerTime
  extract_lets +onlyGivenNames x1
  clear_value x1
  extract_lets +onlyGivenNames x2
  clear_value x2
  extract_lets +onlyGivenNames x3
  clear_value x3
  extract_lets +onlyGivenNames x4
  clear_value x4
  extract_lets +onlyGivenNames x5
  clear_value x5
  extract_lets +onlyGivenNames x6
  have h7 : Keeps s x6 := by
    unfold x6
    refine Keeps.trans ?_ (State.setPort_keeps ..)
    exact Keeps.refl _
  clear_value x6
  split
  · rename_i a8
    split
    · rename_i a9
      refine Keeps.trans ?_ (State.advanceStart_keeps ..)
      refine Keeps.trans ?_ (State.activate_keeps ..)
      exact Keeps.refl _
    · rename_i a10
      exact Keeps.refl _
  · rename_i a11
    split
    · rename_i a12
      split
      · rename_i a13
        split
        · rename_i a14
          refine Keeps.trans ?_ (State.advanceStart_keeps ..)
          refine Keeps.trans ?_ (State.activate_keeps ..)
          exact Keeps.refl _
        · rename_i a15
          refine Keeps.trans ?_ (State.setPort_keeps ..)
          exact Keeps.refl _
      · rename_i a16
        refine Keeps.trans ?_ (State.setPort_keeps ..)
        exact Keeps.refl _
    · rename_i a17
      split
      · rename_i a18
        refine Keeps.trans ?_ (State.advanceStart_keeps ..)
        refine Keeps.trans ?_ (State.failTraining_keeps ..)
        refine Keeps.trans ?_ (State.put_keeps ..)
        exact Keeps.refl _
      · rename_i a19
        split
        · rename_i a20
          refine Keeps.trans ?_ (State.reAdmit_keeps ..)
          refine Keeps.trans ?_ (State.put_keeps ..)
          assumption
        · rename_i a21
          assumption

theorem State.takeBeat_keeps (s : State) (p : ℕ) (rodLo : ℕ) (state : ℕ) (msgs : List SbMsg) : Keeps s (State.takeBeat s p rodLo state msgs) := by
  unfold State.takeBeat
  split
  rename_i a1 a2 a3 a4
  have h5 : Keeps s a2 := by
    refine Keeps.fst a4 ?_
    split
    · rename_i a6 a7 a8 a9 a10
      extract_lets +onlyGivenNames x11
      clear_value x11
      split
      · rename_i a12
        dsimp only
        refine Keeps.upd ?_ rfl rfl rfl
        exact Keeps.refl _
      · rename_i a13
        dsimp only
        exact Keeps.refl _
    · rename_i a14 a15
      dsimp only
      exact Keeps.refl _
  extract_lets +onlyGivenNames x16
  have h17 : Keeps s x16 := by
    unfold x16
    refine Keeps.trans ?_ (State.peerTime_keeps ..)
    assumption
  clear_value x16
  extract_lets +onlyGivenNames x18
  clear_value x18
  extract_lets +onlyGivenNames x19
  clear_value x19
  extract_lets +onlyGivenNames x20
  have h21 : Keeps s x20 := by
    unfold x20
    refine Keeps.trans ?_ (State.updPort_keeps ..)
    assumption
  clear_value x20
  extract_lets +onlyGivenNames x22
  have h23 : Keeps s x22 := by
    unfold x22
    refine Keeps.foldl _ _ ?_ (fun u24 x25 => ?_)
    · beta_reduce
      assumption
    · beta_reduce
      refine Keeps.trans ?_ (State.takeSb_keeps ..)
      exact Keeps.refl _
  clear_value x22
  split
  · rename_i a26
    refine Keeps.trans ?_ (State.detectLoss_keeps ..)
    assumption
  · rename_i a27
    assumption

theorem execHeartbeatReceived_keeps (port : LaneId) (rx : FrameRx) (rodLo : ℕ) (state : ℕ) (msgs : List SbMsg) (s : State) : KeepsO s (execHeartbeatReceived port rx rodLo state msgs s) := by
  unfold execHeartbeatReceived
  extract_lets +onlyGivenNames x1
  clear_value x1
  split
  · rename_i a2
    refine KeepsO.next ?_
    exact Keeps.refl _
  · rename_i a3
    split
    rename_i a4 a5 a6 a7
    have h8 : Keeps s a5 := by
      refine Keeps.fst a7 ?_
      refine Keeps.trans ?_ (State.rxFec_keeps ..)
      exact Keeps.refl _
    split
    · rename_i a9
      refine KeepsO.next ?_
      assumption
    · rename_i a10
      split
      rename_i a11 a12 a13 a14
      have h15 : Keeps s a12 := by
        refine Keeps.fst a14 ?_
        refine Keeps.trans ?_ (State.rxTag_keeps ..)
        assumption
      split
      · rename_i a16
        refine KeepsO.next ?_
        assumption
      · rename_i a17
        split
        rename_i a18 a19 a20 a21
        have h22 : Keeps s a19 := by
          refine Keeps.fst a21 ?_
          refine Keeps.trans ?_ (State.tryInject_keeps ..)
          assumption
        extract_lets +onlyGivenNames x23
        clear_value x23
        extract_lets +onlyGivenNames x24
        have h25 : Keeps s x24 := by
          unfold x24
          split
          · rename_i a26 a27
            have h28 : Keeps s a19 := by
              refine Keeps.fst a21 ?_
              refine Keeps.trans ?_ (State.tryInject_keeps ..)
              assumption
            refine Keeps.upd ?_ rfl rfl rfl
            assumption
          · rename_i a29
            have h30 : Keeps s a19 := by
              refine Keeps.fst a21 ?_
              refine Keeps.trans ?_ (State.tryInject_keeps ..)
              assumption
            assumption
        clear_value x24
        split
        rename_i a31 a32 a33 a34
        have h35 : Keeps s a32 := by
          refine Keeps.fst a34 ?_
          refine Keeps.trans ?_ (State.tryInject_keeps ..)
          assumption
        extract_lets +onlyGivenNames x36
        clear_value x36
        extract_lets +onlyGivenNames x37
        have h38 : Keeps s x37 := by
          unfold x37
          split
          · rename_i a39 a40
            have h41 : Keeps s a32 := by
              refine Keeps.fst a34 ?_
              refine Keeps.trans ?_ (State.tryInject_keeps ..)
              assumption
            refine Keeps.upd ?_ rfl rfl rfl
            assumption
          · rename_i a42
            have h43 : Keeps s a32 := by
              refine Keeps.fst a34 ?_
              refine Keeps.trans ?_ (State.tryInject_keeps ..)
              assumption
            assumption
        clear_value x37
        split
        · rename_i a44 a45 a46 a47
          extract_lets +onlyGivenNames x48
          clear_value x48
          split
          · rename_i a49
            refine KeepsO.next ?_
            refine Keeps.trans ?_ (State.updPort_keeps ..)
            refine Keeps.upd ?_ rfl rfl rfl
            assumption
          · rename_i a50
            refine KeepsO.next ?_
            refine Keeps.trans ?_ (State.takeBeat_keeps ..)
            assumption
        · rename_i a51 a52
          refine KeepsO.next ?_
          refine Keeps.trans ?_ (State.takeBeat_keeps ..)
          assumption

theorem execSbHeat_keeps (m : SbMsg) (s : State) : KeepsO s (execSbHeat m s) := by
  unfold execSbHeat
  refine KeepsO.next ?_
  split
  · rename_i a1
    refine Keeps.trans ?_ (State.enterSb_keeps ..)
    exact Keeps.refl _
  · rename_i a2
    exact Keeps.refl _

theorem execSbLoss_keeps (m : SbMsg) (s : State) : KeepsO s (execSbLoss m s) := by
  unfold execSbLoss
  refine KeepsO.next ?_
  split
  · rename_i a1
    refine Keeps.trans ?_ (State.seeLoss_keeps ..)
    exact Keeps.refl _
  · rename_i a2
    exact Keeps.refl _

theorem execSbPresent_keeps (m : SbMsg) (s : State) : KeepsO s (execSbPresent m s) := by
  unfold execSbPresent
  refine KeepsO.next ?_
  split
  · rename_i a1
    refine Keeps.trans ?_ (State.seePresent_keeps ..)
    exact Keeps.refl _
  · rename_i a2
    exact Keeps.refl _

theorem execLaneSignalLoss_keeps (port : LaneId) (s : State) : KeepsO s (execLaneSignalLoss port s) := by
  unfold execLaneSignalLoss
  extract_lets +onlyGivenNames x1
  clear_value x1
  refine KeepsO.next ?_
  split
  · rename_i a2
    refine Keeps.trans ?_ (State.detectLoss_keeps ..)
    exact Keeps.refl _
  · rename_i a3
    split
    · rename_i a4
      exact Keeps.refl _
    · rename_i a5
      refine Keeps.trans ?_ (State.advanceStart_keeps ..)
      refine Keeps.trans ?_ (State.failTraining_keeps ..)
      exact Keeps.refl _

theorem execHeartbeatSlotMiss_keeps (port : LaneId) (s : State) : KeepsO s (execHeartbeatSlotMiss port s) := by
  unfold execHeartbeatSlotMiss
  extract_lets +onlyGivenNames x1
  clear_value x1
  extract_lets +onlyGivenNames x2
  clear_value x2
  extract_lets +onlyGivenNames x3
  clear_value x3
  extract_lets +onlyGivenNames x4
  clear_value x4
  extract_lets +onlyGivenNames x5
  have h6 : Keeps s x5 := by
    unfold x5
    refine Keeps.trans ?_ (State.setPort_keeps ..)
    refine Keeps.trans ?_ (State.addLnk_keeps ..)
    exact Keeps.refl _
  clear_value x5
  refine KeepsO.next ?_
  split
  · rename_i a7
    exact Keeps.refl _
  · rename_i a8
    split
    · rename_i a9
      refine Keeps.trans ?_ (State.detectLoss_keeps ..)
      assumption
    · rename_i a10
      assumption

theorem execLossConfirmation_keeps (group : ℕ) (module : ℕ) (s : State) : KeepsO s (execLossConfirmation group module s) := by
  unfold execLossConfirmation
  extract_lets +onlyGivenNames x1
  extract_lets +onlyGivenNames x2
  clear_value x2
  extract_lets +onlyGivenNames x3
  have h4 : Keeps s x3 := by
    unfold x3
    refine Keeps.trans ?_ (State.add_keeps ..)
    exact Keeps.refl _
  clear_value x3
  extract_lets +onlyGivenNames x5
  clear_value x5
  extract_lets +onlyGivenNames x6
  have h7 : Keeps s x6 := by
    unfold x6
    refine Keeps.upd ?_ rfl rfl rfl
    assumption
  clear_value x6
  refine KeepsO.next ?_
  split
  · rename_i a8
    split
    · rename_i a9
      assumption
    · rename_i a10
      refine Keeps.trans ?_ (State.reAdmit_keeps ..)
      refine Keeps.trans ?_ (State.kvLost_keeps ..)
      assumption
  · rename_i a11
    exact Keeps.refl _

theorem execLossDisableTimeout_keeps (group : ℕ) (module : ℕ) (s : State) : KeepsO s (execLossDisableTimeout group module s) := by
  unfold execLossDisableTimeout
  extract_lets +onlyGivenNames x1
  extract_lets +onlyGivenNames x2
  clear_value x2
  extract_lets +onlyGivenNames x3
  have h4 : Keeps s x3 := by
    unfold x3
    refine Keeps.upd ?_ rfl rfl rfl
    exact Keeps.refl _
  clear_value x3
  extract_lets +onlyGivenNames x5
  clear_value x5
  refine KeepsO.next ?_
  split
  · rename_i a6
    refine Keeps.trans ?_ (State.reAdmit_keeps ..)
    refine Keeps.trans ?_ (State.endRingsOf_keeps ..)
    refine Keeps.trans ?_ (State.kvLost_keeps ..)
    assumption
  · rename_i a7
    exact Keeps.refl _

theorem execLnkRetrain_keeps (port : LaneId) (w : Wr) (s : State) : KeepsO s (execLnkRetrain port w s) := by
  unfold execLnkRetrain
  extract_lets +onlyGivenNames x1
  clear_value x1
  extract_lets +onlyGivenNames x2
  clear_value x2
  split
  rename_i a3 a4 a5 a6
  have h7 : Keeps s a4 := by
    refine Keeps.fst a6 ?_
    refine Keeps.trans ?_ (State.write_keeps ..)
    exact Keeps.refl _
  extract_lets +onlyGivenNames x8
  have h9 : Keeps s x8 := by
    unfold x8
    split
    · rename_i a10
      refine Keeps.trans ?_ (State.advanceStart_keeps ..)
      refine Keeps.trans ?_ (State.reAdmit_keeps ..)
      assumption
    · rename_i a11
      assumption
  clear_value x8
  refine KeepsO.next ?_
  split
  · rename_i a12
    refine Keeps.trans ?_ (State.updPort_keeps ..)
    assumption
  · rename_i a13
    assumption

theorem execMcCoordinates_keeps (rack : BitVec 8) (group : BitVec 4) (slot : BitVec 6) (s : State) : KeepsO s (execMcCoordinates rack group slot s) := by
  unfold execMcCoordinates
  extract_lets +onlyGivenNames x1
  clear_value x1
  extract_lets +onlyGivenNames x2
  have h3 : Keeps s x2 := by
    unfold x2
    refine Keeps.trans ?_ (State.put_keeps ..)
    refine Keeps.trans ?_ (State.put_keeps ..)
    refine Keeps.trans ?_ (State.put_keeps ..)
    refine Keeps.trans ?_ (State.put_keeps ..)
    exact Keeps.refl _
  clear_value x2
  extract_lets +onlyGivenNames x4
  have h5 : Keeps s x4 := by
    unfold x4
    refine Keeps.trans ?_ (State.flag_keeps ..)
    assumption
  clear_value x4
  split
  · rename_i a6
    refine KeepsO.next ?_
    exact Keeps.refl _
  · rename_i a7
    refine KeepsO.next ?_
    split
    · rename_i a8
      refine Keeps.trans ?_ (State.pldm_keeps ..)
      assumption
    · rename_i a9
      assumption

theorem State.fabRod_keeps (s : State) : Keeps s (State.fabRod s) := by
  unfold State.fabRod
  extract_lets +onlyGivenNames x1
  have h2 : Keeps s x1 := by
    unfold x1
    refine Keeps.foldl _ _ ?_ (fun u3 x4 => ?_)
    · beta_reduce
      exact Keeps.refl _
    · beta_reduce
      refine Keeps.trans ?_ (State.updPort_keeps ..)
      refine Keeps.trans ?_ (State.putLnk_keeps ..)
      refine Keeps.trans ?_ (State.putLnk_keeps ..)
      exact Keeps.refl _
  clear_value x1
  extract_lets +onlyGivenNames x5
  clear_value x5
  refine Keeps.upd ?_ rfl rfl rfl
  assumption

theorem State.fabFurlong_keeps (s : State) : Keeps s (State.fabFurlong s) := by
  unfold State.fabFurlong
  refine Keeps.foldl _ _ ?_ (fun u1 x2 => ?_)
  · beta_reduce
    exact Keeps.refl _
  · beta_reduce
    refine Keeps.trans ?_ (State.updPort_keeps ..)
    exact Keeps.refl _

theorem State.expireSb_keeps (s : State) : Keeps s (State.expireSb s) := by
  unfold State.expireSb
  extract_lets +onlyGivenNames x1
  clear_value x1
  refine Keeps.upd ?_ rfl rfl rfl
  exact Keeps.refl _

theorem State.takeRole_keeps (s : State) (role : Option ℕ) : Keeps s (State.takeRole s role) := by
  unfold State.takeRole
  extract_lets +onlyGivenNames x1
  clear_value x1
  extract_lets +onlyGivenNames x2
  have h3 : Keeps s x2 := by
    unfold x2
    refine Keeps.foldl _ _ ?_ (fun u4 x5 => ?_)
    · beta_reduce
      exact Keeps.refl _
    · beta_reduce
      extract_lets +onlyGivenNames x6
      clear_value x6
      split
      · rename_i a7
        refine Keeps.trans ?_ (State.setRole_keeps ..)
        exact Keeps.refl _
      · rename_i a8
        exact Keeps.refl _
  clear_value x2
  extract_lets +onlyGivenNames x9
  have h10 : Keeps s x9 := by
    unfold x9
    refine Keeps.foldl _ _ ?_ (fun u11 x12 => ?_)
    · beta_reduce
      refine Keeps.trans ?_ (State.put_keeps ..)
      assumption
    · beta_reduce
      refine Keeps.trans ?_ (State.adapterLost_keeps ..)
      exact Keeps.refl _
  clear_value x9
  refine Keeps.trans ?_ (State.wantStart_keeps ..)
  refine Keeps.trans ?_ (State.reAdmit_keeps ..)
  refine Keeps.foldl _ _ ?_ (fun u13 x14 => ?_)
  · beta_reduce
    assumption
  · beta_reduce
    refine Keeps.trans ?_ (State.assignCorpus_keeps ..)
    exact Keeps.refl _

theorem State.standbyTakeovers_keeps (s : State) : Keeps s (State.standbyTakeovers s) := by
  unfold State.standbyTakeovers
  extract_lets +onlyGivenNames x1
  clear_value x1
  extract_lets +onlyGivenNames x2
  clear_value x2
  refine Keeps.foldl _ _ ?_ (fun u3 x4 => ?_)
  · beta_reduce
    exact Keeps.refl _
  · beta_reduce
    split
    · rename_i a5 a6
      exact Keeps.refl _
    · rename_i a7 a8 a9
      extract_lets +onlyGivenNames x10
      clear_value x10
      split
      · rename_i a11 a12
        exact Keeps.refl _
      · rename_i a13 a14 a15
        extract_lets +onlyGivenNames x16
        clear_value x16
        extract_lets +onlyGivenNames x17
        have h18 : Keeps u3 x17 := by
          unfold x17
          refine Keeps.upd ?_ rfl rfl rfl
          exact Keeps.refl _
        clear_value x17
        extract_lets +onlyGivenNames x19
        have h20 : Keeps u3 x19 := by
          unfold x19
          refine Keeps.foldl _ _ ?_ (fun u21 x22 => ?_)
          · beta_reduce
            assumption
          · beta_reduce
            refine Keeps.trans ?_ (State.updPort_keeps ..)
            exact Keeps.refl _
        clear_value x19
        extract_lets +onlyGivenNames x23
        have h24 : Keeps u3 x23 := by
          unfold x23
          refine Keeps.trans ?_ (State.kvLost_keeps ..)
          refine Keeps.trans ?_ (State.voidRingsOf_keeps ..)
          assumption
        clear_value x23
        split
        · rename_i a25
          refine Keeps.trans ?_ (State.takeRole_keeps ..)
          assumption
        · rename_i a26
          assumption

end Sys2Proof.Machine
end

