-- ==== Sys2Proof/Laws/Keeps8.lean ====
section
/-! SUPPORT. The operations and meanings of Machine leave the queue alone and keep the invariant: Time, Boot, Monitor. -/
namespace Sys2Proof.Machine

/-! ### Machine/Time.lean -/

theorem State.timeBaseFailure_keeps (s : State) (injected : Bool) : Keeps s (State.timeBaseFailure s injected) := by
  unfold State.timeBaseFailure
  extract_lets +onlyGivenNames x1
  have h2 : Keeps s x1 := by
    unfold x1
    refine Keeps.trans ?_ (State.put_keeps ..)
    refine Keeps.trans ?_ (State.put_keeps ..)
    refine Keeps.trans ?_ (State.put_keeps ..)
    refine Keeps.trans ?_ (State.put_keeps ..)
    exact Keeps.refl _
  clear_value x1
  extract_lets +onlyGivenNames x3
  have h4 : Keeps s x3 := by
    unfold x3
    refine Keeps.trans ?_ (State.put_keeps ..)
    refine Keeps.trans ?_ (State.put_keeps ..)
    refine Keeps.trans ?_ (State.put_keeps ..)
    refine Keeps.trans ?_ (State.put_keeps ..)
    assumption
  clear_value x3
  extract_lets +onlyGivenNames x5
  clear_value x5
  extract_lets +onlyGivenNames x6
  have h7 : Keeps s x6 := by
    unfold x6
    refine Keeps.upd ?_ rfl rfl rfl
    assumption
  clear_value x6
  extract_lets +onlyGivenNames x8
  extract_lets +onlyGivenNames x9
  have h10 : Keeps s x9 := by
    unfold x9
    refine Keeps.upd ?_ rfl rfl rfl
    assumption
  clear_value x9
  split
  · rename_i a11
    refine Keeps.trans ?_ (State.put_keeps ..)
    exact Keeps.refl _
  · rename_i a12
    refine Keeps.trans ?_ (State.completeAll_keeps ..)
    refine Keeps.trans ?_ (State.put_keeps ..)
    assumption

/-- A rod count set below P keeps the invariant. -/
theorem Keeps.setRod {s t : State} (hp : t.pending = s.pending) (hr : t.regs = s.regs) (hs : t.store = s.store)
    (hm : t.mem.stack = s.mem.stack) (hb : t.boot.store = s.boot.store) (ht : t.tb.rod < rodP) : Keeps s t :=
  ⟨hp, fun i => ⟨⟨hr ▸ i.1.1, hs ▸ i.1.2, hm ▸ i.1.3, hb ▸ i.1.4⟩, ht⟩⟩

theorem State.countEstablished_keeps (s : State) (f2 : Nat) : Keeps s (s.countEstablished f2) := by
  unfold State.countEstablished
  extract_lets tb1 s1 fab s2 s3
  have h1 : Keeps s s1 := Keeps.setRod rfl rfl rfl rfl rfl (Nat.mod_lt _ (by decide))
  have h2 : Keeps s s2 := h1.trans (Keeps.same rfl rfl rfl rfl rfl rfl)
  have h3 : Keeps s s3 := ((h2.trans (State.put_keeps ..)).trans (State.put_keeps ..)).trans (State.put_keeps ..)
  split
  · exact h3.trans (State.reAdmit_keeps ..)
  · exact h3.trans (State.advanceStart_keeps ..)

theorem State.frameWhileEstablishing_keeps (s : State) (fr : FrameIn) : Keeps s (State.frameWhileEstablishing s fr) := by
  unfold State.frameWhileEstablishing
  extract_lets +onlyGivenNames x1
  split
  · rename_i a2
    split
    · rename_i a3
      refine Keeps.upd ?_ rfl rfl rfl
      exact Keeps.refl _
    · rename_i a4
      refine Keeps.trans ?_ (State.put_keeps ..)
      refine Keeps.upd ?_ rfl rfl rfl
      exact Keeps.refl _
  · rename_i a5
    refine Keeps.trans ?_ (State.put_keeps ..)
    refine Keeps.upd ?_ rfl rfl rfl
    exact Keeps.refl _

theorem State.frameWhileValid_keeps (s : State) (fr : FrameIn) (mile : ℕ) (injected : Bool) : Keeps s (State.frameWhileValid s fr mile injected) := by
  unfold State.frameWhileValid
  extract_lets +onlyGivenNames x1
  clear_value x1
  extract_lets +onlyGivenNames x2
  extract_lets +onlyGivenNames x3
  have h4 : Keeps s x3 := by
    unfold x3
    refine Keeps.trans ?_ (State.put_keeps ..)
    refine Keeps.trans ?_ (State.put_keeps ..)
    refine Keeps.trans ?_ (State.add_keeps ..)
    exact Keeps.refl _
  clear_value x3
  split
  · rename_i a5
    refine Keeps.trans ?_ (State.put_keeps ..)
    refine Keeps.trans ?_ (State.put_keeps ..)
    refine Keeps.trans ?_ (State.add_keeps ..)
    exact Keeps.refl _
  · rename_i a6
    split
    · rename_i a7
      refine Keeps.trans ?_ (State.put_keeps ..)
      refine Keeps.upd ?_ rfl rfl rfl
      exact Keeps.refl _
    · rename_i a8
      split
      · rename_i a9 a10 a11 a12
        extract_lets +onlyGivenNames x13
        clear_value x13
        extract_lets +onlyGivenNames x14
        split
        · rename_i a15
          refine Keeps.trans ?_ (State.timeBaseFailure_keeps ..)
          assumption
        · rename_i a16
          refine Keeps.upd ?_ rfl rfl rfl
          assumption
      · rename_i a17 a18
        extract_lets +onlyGivenNames x19
        refine Keeps.upd ?_ rfl rfl rfl
        assumption

theorem State.symbolIn_keeps (s : State) (sym : Symbol) (mile : Nat) (injected : Bool) : Keeps s (s.symbolIn sym mile injected) := by
  have hf : ∀ f, Keeps s { s with tb := { s.tb with frame := f } } := fun _ => Keeps.same rfl rfl rfl rfl rfl rfl
  unfold State.symbolIn
  dsimp only
  split
  · split
    · exact hf _
    · split
      · split
        · exact hf _
        · split
          · exact (hf _).trans (State.countEstablished_keeps ..)
          · refine Keeps.trans ((hf (some [.sync])).trans ?_) (State.put_keeps ..)
            exact Keeps.setRod rfl rfl rfl rfl rfl (Nat.mod_lt _ (by decide))
          · exact hf _
      · refine Keeps.trans ?_ (State.put_keeps ..)
        exact Keeps.same rfl rfl rfl rfl rfl rfl
  · split
    · split
      · exact (hf _).trans (State.frameWhileValid_keeps ..)
      · exact (hf _).trans (State.frameWhileEstablishing_keeps ..)
    · split
      · split
        · exact (hf _).trans (State.frameWhileValid_keeps ..)
        · exact (hf _).trans (State.frameWhileEstablishing_keeps ..)
      · exact hf _

theorem execFmarkPulse_keeps (high : ℕ) (offset : ℤ) (s : State) : KeepsO s (execFmarkPulse high offset s) := by
  unfold execFmarkPulse
  extract_lets +onlyGivenNames x1
  clear_value x1
  extract_lets +onlyGivenNames x2
  clear_value x2
  extract_lets +onlyGivenNames x3
  clear_value x3
  extract_lets +onlyGivenNames x4
  clear_value x4
  extract_lets +onlyGivenNames x5
  have h6 : Keeps s x5 := by
    unfold x5
    split
    · rename_i a7
      refine Keeps.trans ?_ (State.fired_keeps ..)
      exact Keeps.refl _
    · rename_i a8
      exact Keeps.refl _
  clear_value x5
  extract_lets +onlyGivenNames x9
  clear_value x9
  extract_lets +onlyGivenNames x10
  clear_value x10
  extract_lets +onlyGivenNames x11
  extract_lets +onlyGivenNames x12
  have h13 : Keeps s x12 := by
    unfold x12
    refine Keeps.upd ?_ rfl rfl rfl
    assumption
  clear_value x12
  extract_lets +onlyGivenNames x14
  have h15 : Keeps s x14 := by
    unfold x14
    refine Keeps.trans ?_ (State.put_keeps ..)
    refine Keeps.trans ?_ (State.put_keeps ..)
    assumption
  clear_value x14
  extract_lets +onlyGivenNames x16
  have h17 : Keeps s x16 := by
    unfold x16
    refine Keeps.trans ?_ (State.put_keeps ..)
    refine Keeps.trans ?_ (State.add_keeps ..)
    assumption
  clear_value x16
  extract_lets +onlyGivenNames x18
  split
  · rename_i a19
    refine KeepsO.next ?_
    exact Keeps.refl _
  · rename_i a20
    split
    · rename_i a21
      refine KeepsO.next ?_
      split
      · rename_i a22
        exact Keeps.refl _
      · rename_i a23
        refine Keeps.trans ?_ (State.symbolIn_keeps ..)
        exact Keeps.refl _
    · rename_i a24
      split
      · rename_i a25
        refine KeepsO.next ?_
        refine Keeps.trans ?_ (State.symbolIn_keeps ..)
        assumption
      · rename_i a26
        split
        · rename_i a27
          refine KeepsO.next ?_
          refine Keeps.trans ?_ (State.symbolIn_keeps ..)
          assumption
        · rename_i a28
          split
          · rename_i a29
            refine KeepsO.next ?_
            refine Keeps.trans ?_ (State.timeBaseFailure_keeps ..)
            refine Keeps.trans ?_ (State.put_keeps ..)
            refine Keeps.upd ?_ rfl rfl rfl
            assumption
          · rename_i a30
            refine KeepsO.next ?_
            assumption

theorem execRefclkLoss_keeps (s : State) : KeepsO s (execRefclkLoss s) := by
  unfold execRefclkLoss
  extract_lets +onlyGivenNames x1
  refine KeepsO.next ?_
  split
  · rename_i a2
    exact Keeps.refl _
  · rename_i a3
    refine Keeps.trans ?_ (State.put_keeps ..)
    refine Keeps.trans ?_ (State.put_keeps ..)
    refine Keeps.upd ?_ rfl rfl rfl
    exact Keeps.refl _

theorem State.refclkReturn_keeps (s : State) (injected : Bool) : Keeps s (State.refclkReturn s injected) := by
  unfold State.refclkReturn
  extract_lets +onlyGivenNames x1
  extract_lets +onlyGivenNames x2
  have h3 : Keeps s x2 := by
    unfold x2
    refine Keeps.trans ?_ (State.put_keeps ..)
    exact Keeps.refl _
  clear_value x2
  split
  · rename_i a4
    exact Keeps.refl _
  · rename_i a5
    split
    · rename_i a6
      refine Keeps.upd ?_ rfl rfl rfl
      exact Keeps.refl _
    · rename_i a7
      split
      · rename_i a8
        refine Keeps.trans ?_ (State.timeBaseFailure_keeps ..)
        assumption
      · rename_i a9
        assumption

theorem execRefclkReturn_keeps (s : State) : KeepsO s (execRefclkReturn s) := by
  unfold execRefclkReturn
  refine KeepsO.next ?_
  refine Keeps.trans ?_ (State.refclkReturn_keeps ..)
  exact Keeps.refl _

theorem execRefclkHoldExpiry_keeps (s : State) : KeepsO s (execRefclkHoldExpiry s) := by
  unfold execRefclkHoldExpiry
  refine KeepsO.next ?_
  split
  · rename_i a1
    refine Keeps.trans ?_ (State.timeBaseFailure_keeps ..)
    exact Keeps.refl _
  · rename_i a2
    exact Keeps.refl _

theorem State.mileEdge_keeps (s : State) : Keeps s (State.mileEdge s) := by
  unfold State.mileEdge
  extract_lets +onlyGivenNames x1
  extract_lets +onlyGivenNames x2
  have h3 : Keeps s x2 := by
    unfold x2
    refine Keeps.upd ?_ rfl rfl rfl
    exact Keeps.refl _
  clear_value x2
  split
  · rename_i a4
    split
    · rename_i a5
      refine Keeps.trans ?_ (State.symbolIn_keeps ..)
      assumption
    · rename_i a6
      assumption
  · rename_i a7
    split
    · rename_i a8
      refine Keeps.upd ?_ rfl rfl rfl
      exact Keeps.refl _
    · rename_i a9
      refine Keeps.upd ?_ rfl rfl rfl
      exact Keeps.refl _

theorem State.judgeEdge_keeps (s : State) : Keeps s (State.judgeEdge s) := by
  unfold State.judgeEdge
  extract_lets +onlyGivenNames x1
  extract_lets +onlyGivenNames x2
  have h3 : Keeps s x2 := by
    unfold x2
    refine Keeps.upd ?_ rfl rfl rfl
    exact Keeps.refl _
  extract_lets +onlyGivenNames x4
  have h5 : Keeps s x4 := by
    unfold x4
    refine Keeps.trans ?_ (State.put_keeps ..)
    refine Keeps.trans ?_ (State.add_keeps ..)
    assumption
  extract_lets +onlyGivenNames x6
  have h7 : Keeps s x6 := by
    unfold x6
    split
    · rename_i a9
      refine Keeps.trans ?_ (State.put_keeps ..)
      assumption
    · rename_i a10
      assumption
  clear_value x6
  split
  · rename_i a11
    exact Keeps.refl _
  · rename_i a12
    refine Keeps.trans ?_ (State.symbolIn_keeps ..)
    assumption

theorem execOperationOverrun_keeps (i : Issue) (agent : ℕ) (s : State) : KeepsO s (execOperationOverrun i agent s) := by
  unfold execOperationOverrun
  extract_lets +onlyGivenNames x1
  clear_value x1
  extract_lets +onlyGivenNames x2
  clear_value x2
  extract_lets +onlyGivenNames x3
  have h4 : Keeps s x3 := by
    unfold x3
    refine Keeps.trans ?_ (State.completeOut_keeps ..)
    refine Keeps.trans ?_ (State.consume_keeps ..)
    exact Keeps.refl _
  clear_value x3
  extract_lets +onlyGivenNames x5
  have h6 : Keeps s x5 := by
    unfold x5
    refine Keeps.trans ?_ (State.add_keeps ..)
    refine Keeps.trans ?_ (State.addAt_keeps ..)
    assumption
  clear_value x5
  extract_lets +onlyGivenNames x7
  clear_value x7
  extract_lets +onlyGivenNames x8
  have h9 : Keeps s x8 := by
    unfold x8
    split
    · rename_i a10
      refine Keeps.trans ?_ (State.fired_keeps ..)
      assumption
    · rename_i a11
      assumption
  clear_value x8
  refine KeepsO.next ?_
  refine Keeps.trans ?_ (State.escalateOverrun_keeps ..)
  refine Keeps.trans ?_ (State.silentError_keeps ..)
  assumption

theorem execSlackWindow_keeps (core : CoreId) (len : ℕ) (s : State) : KeepsO s (execSlackWindow core len s) := by
  unfold execSlackWindow
  extract_lets +onlyGivenNames x1
  clear_value x1
  extract_lets +onlyGivenNames x2
  clear_value x2
  refine KeepsO.next ?_
  split
  · rename_i a3
    refine Keeps.upd ?_ rfl rfl rfl
    exact Keeps.refl _
  · rename_i a4
    exact Keeps.refl _

/-! ### Machine/Boot.lean -/

theorem State.dieReset_keeps (s : State) (keepArmed : Bool) (warm : Option Nat) : Keeps s (s.dieReset keepArmed warm) := by
  have base : ∀ (tiers : SMap Tier) (boot : Boot) (f : Nat) (p : Pins) (th : Thermal), boot.store = s.boot.store →
      Keeps s { State.reset with pending := s.pending, freeCtr := f, tiers := tiers, boot := boot, pins := p, therm := th } := by
    intro tiers boot f p th hb
    exact ⟨rfl, fun i => ⟨⟨rfl, rfl, rfl, hb ▸ i.1.4⟩, by show 0 < rodP; decide⟩⟩
  unfold State.dieReset
  extract_lets r tiers boot0 boot th n fl
  have hn : Keeps s n := base _ _ _ _ _ rfl
  split
  · extract_lets n1 n2
    have h1 : Keeps s n1 := hn.trans (Keeps.same rfl rfl rfl rfl rfl rfl)
    have h2 : Keeps s n2 := (h1.trans (State.put_keeps ..)).trans (State.put_keeps ..)
    split
    · exact (h2.trans (State.putAt_keeps ..)).trans (State.putAt_keeps ..)
    · exact h2
  · exact hn.trans (State.put_keeps ..)
  · exact hn

theorem execPowerLoss_keeps (s : State) : KeepsO s (execPowerLoss s) := by
  unfold execPowerLoss
  extract_lets +onlyGivenNames x1
  have h2 : Keeps s x1 := by
    unfold x1
    refine Keeps.trans ?_ (State.dieReset_keeps ..)
    exact Keeps.refl _
  clear_value x1
  extract_lets +onlyGivenNames x3
  clear_value x3
  extract_lets +onlyGivenNames x4
  clear_value x4
  refine KeepsO.next ?_
  refine Keeps.upd ?_ rfl rfl rfl
  assumption

theorem execPerstNAssert_keeps (s : State) : KeepsO s (execPerstNAssert s) := by
  unfold execPerstNAssert
  extract_lets +onlyGivenNames x1
  have h2 : Keeps s x1 := by
    unfold x1
    split
    · rename_i a3
      refine Keeps.trans ?_ (State.dieReset_keeps ..)
      exact Keeps.refl _
    · rename_i a4
      exact Keeps.refl _
  clear_value x1
  extract_lets +onlyGivenNames x5
  clear_value x5
  refine KeepsO.next ?_
  refine Keeps.upd ?_ rfl rfl rfl
  assumption

theorem execMrstNAssert_keeps (s : State) : KeepsO s (execMrstNAssert s) := by
  unfold execMrstNAssert
  extract_lets +onlyGivenNames x1
  have h2 : Keeps s x1 := by
    unfold x1
    refine Keeps.trans ?_ (State.dieReset_keeps ..)
    exact Keeps.refl _
  clear_value x1
  extract_lets +onlyGivenNames x3
  clear_value x3
  extract_lets +onlyGivenNames x4
  clear_value x4
  extract_lets +onlyGivenNames x5
  have h6 : Keeps s x5 := by
    unfold x5
    split
    · rename_i a7
      refine Keeps.upd ?_ rfl rfl rfl
      assumption
    · rename_i a8
      split
      · rename_i a9
        refine Keeps.trans ?_ (State.dieReset_keeps ..)
        exact Keeps.refl _
      · rename_i a10
        exact Keeps.refl _
  clear_value x5
  extract_lets +onlyGivenNames x11
  clear_value x11
  refine KeepsO.next ?_
  refine Keeps.upd ?_ rfl rfl rfl
  assumption

theorem State.commitImage_keeps (s : State) : Keeps s (State.commitImage s) := by
  unfold State.commitImage
  extract_lets +onlyGivenNames x1
  clear_value x1
  extract_lets +onlyGivenNames x2
  extract_lets +onlyGivenNames x3
  have h4 : Keeps s x3 := by
    unfold x3
    refine Keeps.upd ?_ rfl rfl rfl
    exact Keeps.refl _
  clear_value x3
  extract_lets +onlyGivenNames x5
  have h6 : Keeps s x5 := by
    unfold x5
    refine Keeps.trans ?_ (State.put_keeps ..)
    refine Keeps.trans ?_ (State.put_keeps ..)
    refine Keeps.trans ?_ (State.put_keeps ..)
    assumption
  clear_value x5
  extract_lets +onlyGivenNames x7
  have h8 : Keeps s x7 := by
    unfold x7
    refine Keeps.trans ?_ (State.put_keeps ..)
    refine Keeps.trans ?_ (State.put_keeps ..)
    refine Keeps.trans ?_ (State.put_keeps ..)
    assumption
  clear_value x7
  split
  · rename_i a9 a10 a11
    extract_lets +onlyGivenNames x12
    clear_value x12
    refine Keeps.trans ?_ (State.useTraps_keeps ..)
    refine Keeps.upd ?_ rfl rfl rfl
    assumption
  · rename_i a13 a14
    assumption

theorem State.goOn_keeps (s : State) : Keeps s (State.goOn s) := by
  unfold State.goOn
  extract_lets +onlyGivenNames x1
  have h2 : Keeps s x1 := by
    unfold x1
    refine Keeps.trans ?_ (State.advanceStart_keeps ..)
    exact Keeps.refl _
  clear_value x1
  split
  · rename_i a3
    refine Keeps.trans ?_ (State.advanceStart_keeps ..)
    refine Keeps.trans ?_ (State.startTrainings_keeps ..)
    assumption
  · rename_i a4
    assumption

theorem State.showAcks_keeps (s : State) : Keeps s (State.showAcks s) := by
  unfold State.showAcks
  refine Keeps.trans ?_ (State.put_keeps ..)
  exact Keeps.refl _

theorem State.selfTest_keeps (s : State) (f : StartFacts) : Keeps s (State.selfTest s f) := by
  unfold State.selfTest
  extract_lets +onlyGivenNames x1
  have h2 : Keeps s x1 := by
    unfold x1
    refine Keeps.foldl _ _ ?_ (fun u3 x4 => ?_)
    · beta_reduce
      refine Keeps.trans ?_ (State.markBad_keeps ..)
      exact Keeps.refl _
    · beta_reduce
      refine Keeps.trans ?_ (State.putAt_keeps ..)
      exact Keeps.refl _
  clear_value x1
  extract_lets +onlyGivenNames x5
  have h6 : Keeps s x5 := by
    unfold x5
    refine Keeps.foldl _ _ ?_ (fun u7 x8 => ?_)
    · beta_reduce
      assumption
    · beta_reduce
      extract_lets +onlyGivenNames x9
      clear_value x9
      refine Keeps.trans ?_ (State.putAt_keeps ..)
      refine Keeps.upd ?_ rfl rfl rfl
      exact Keeps.refl _
  clear_value x5
  extract_lets +onlyGivenNames x10
  have h11 : Keeps s x10 := by
    unfold x10
    refine Keeps.foldl _ _ ?_ (fun u12 x13 => ?_)
    · beta_reduce
      assumption
    · beta_reduce
      refine Keeps.trans ?_ (State.putAt_keeps ..)
      exact Keeps.refl _
  clear_value x10
  extract_lets +onlyGivenNames x14
  have h15 : Keeps s x14 := by
    unfold x14
    refine Keeps.foldl _ _ ?_ (fun u16 x17 => ?_)
    · beta_reduce
      assumption
    · beta_reduce
      split
      · rename_i a18
        exact Keeps.refl _
      · rename_i a19
        refine Keeps.trans ?_ (State.putAt_keeps ..)
        refine Keeps.trans ?_ (State.putAt_keeps ..)
        exact Keeps.refl _
  clear_value x14
  extract_lets +onlyGivenNames x20
  have h21 : Keeps s x20 := by
    unfold x20
    refine Keeps.trans ?_ (State.write_keeps ..)
    assumption
  clear_value x20
  extract_lets +onlyGivenNames x22
  extract_lets +onlyGivenNames x23
  clear_value x23
  refine Keeps.upd ?_ rfl rfl rfl
  assumption

theorem State.bootOn_keeps (s : State) (f : StartFacts) : Keeps s (State.bootOn s f) := by
  unfold State.bootOn
  extract_lets +onlyGivenNames x1
  extract_lets +onlyGivenNames x2
  have h3 : Keeps s x2 := by
    unfold x2
    refine Keeps.upd ?_ rfl rfl rfl
    exact Keeps.refl _
  clear_value x2
  extract_lets +onlyGivenNames x4
  have h5 : Keeps s x4 := by
    unfold x4
    refine Keeps.trans ?_ (State.flag_keeps ..)
    refine Keeps.trans ?_ (State.putGlb_keeps ..)
    assumption
  clear_value x4
  extract_lets +onlyGivenNames x6
  clear_value x6
  split
  rename_i a7 a8 a9 a10
  have h11 : Keeps s a8 := by
    refine Keeps.fst a10 ?_
    refine Keeps.trans ?_ (State.tryInject_keeps ..)
    assumption
  extract_lets +onlyGivenNames x12
  clear_value x12
  extract_lets +onlyGivenNames x13
  have h14 : Keeps s x13 := by
    unfold x13
    refine Keeps.trans ?_ (State.put_keeps ..)
    assumption
  clear_value x13
  extract_lets +onlyGivenNames x15
  have h16 : Keeps s x15 := by
    unfold x15
    split
    · rename_i a17
      refine Keeps.trans ?_ (State.put_keeps ..)
      assumption
    · rename_i a18
      assumption
  clear_value x15
  split
  · rename_i a19
    refine Keeps.trans ?_ (State.enterChrysalis_keeps ..)
    assumption
  · rename_i a20
    refine Keeps.trans ?_ (State.goOn_keeps ..)
    refine Keeps.trans ?_ (State.showAcks_keeps ..)
    refine Keeps.trans ?_ (State.selfTest_keeps ..)
    refine Keeps.trans ?_ (State.putGlb_keeps ..)
    refine Keeps.trans ?_ (State.commitImage_keeps ..)
    assumption

theorem State.readLog_keeps (s : State) (bad : List ℕ) : Keeps s (State.readLog s bad) := by
  unfold State.readLog
  extract_lets +onlyGivenNames x1
  clear_value x1
  extract_lets +onlyGivenNames x2
  extract_lets +onlyGivenNames x3
  have h4 : Keeps s x3 := by
    unfold x3
    refine Keeps.upd ?_ rfl rfl rfl
    exact Keeps.refl _
  clear_value x3
  extract_lets +onlyGivenNames x5
  have h6 : Keeps s x5 := by
    unfold x5
    split
    · rename_i a7 a8 a9 a10
      refine Keeps.trans ?_ (State.logAppend_keeps ..)
      assumption
    · rename_i a11 a12 a13 a14 a15
      split
      · rename_i a16
        assumption
      · rename_i a17
        refine Keeps.trans ?_ (State.logAppend_keeps ..)
        assumption
    · rename_i a18 a19 a20 a21
      assumption
  clear_value x5
  extract_lets +onlyGivenNames x22
  have h23 : Keeps s x22 := by
    unfold x22
    split
    · rename_i a24 a25 a26
      refine Keeps.trans ?_ (State.put_keeps ..)
      refine Keeps.trans ?_ (State.put_keeps ..)
      assumption
    · rename_i a27 a28
      assumption
  clear_value x22
  refine Keeps.trans ?_ (State.showAcks_keeps ..)
  refine Keeps.trans ?_ (State.flag_keeps ..)
  assumption

theorem execResetRelease_keeps (f : StartFacts) (s : State) : KeepsO s (execResetRelease f s) := by
  unfold execResetRelease
  extract_lets +onlyGivenNames x1
  clear_value x1
  extract_lets +onlyGivenNames x2
  have h3 : Keeps s x2 := by
    unfold x2
    refine Keeps.trans ?_ (State.tick_keeps ..)
    exact Keeps.refl _
  clear_value x2
  extract_lets +onlyGivenNames x4
  extract_lets +onlyGivenNames x5
  clear_value x5
  extract_lets +onlyGivenNames x6
  clear_value x6
  extract_lets +onlyGivenNames x7
  have h8 : Keeps s x7 := by
    unfold x7
    refine Keeps.upd ?_ rfl rfl rfl
    assumption
  clear_value x7
  extract_lets +onlyGivenNames x9
  have h10 : Keeps s x9 := by
    unfold x9
    refine Keeps.trans ?_ (State.put_keeps ..)
    refine Keeps.trans ?_ (State.put_keeps ..)
    refine Keeps.trans ?_ (State.put_keeps ..)
    assumption
  clear_value x9
  extract_lets +onlyGivenNames x11
  have h12 : Keeps s x11 := by
    unfold x11
    refine Keeps.trans ?_ (State.put_keeps ..)
    assumption
  clear_value x11
  extract_lets +onlyGivenNames x13
  have h14 : Keeps s x13 := by
    unfold x13
    refine Keeps.trans ?_ (State.readLog_keeps ..)
    assumption
  clear_value x13
  refine KeepsO.next ?_
  split
  · rename_i a15
    exact Keeps.refl _
  · rename_i a16
    split
    · rename_i a17
      refine Keeps.trans ?_ (State.bootOn_keeps ..)
      assumption
    · rename_i a18
      assumption

theorem execClockLock_keeps (s : State) : KeepsO s (execClockLock s) := by
  unfold execClockLock
  extract_lets +onlyGivenNames x1
  extract_lets +onlyGivenNames x2
  have h3 : Keeps s x2 := by
    unfold x2
    refine Keeps.trans ?_ (State.put_keeps ..)
    refine Keeps.upd ?_ rfl rfl rfl
    exact Keeps.refl _
  clear_value x2
  refine KeepsO.next ?_
  split
  · rename_i a4
    exact Keeps.refl _
  · rename_i a5
    split
    · rename_i a6 a7 a8
      refine Keeps.trans ?_ (State.bootOn_keeps ..)
      assumption
    · rename_i a9 a10
      assumption

theorem execStopRecordAck_keeps (s : State) : KeepsO s (execStopRecordAck s) := by
  unfold execStopRecordAck
  extract_lets +onlyGivenNames x1
  clear_value x1
  extract_lets +onlyGivenNames x2
  clear_value x2
  refine KeepsO.next ?_
  split
  · rename_i a3 a4
    extract_lets +onlyGivenNames x5
    extract_lets +onlyGivenNames x6
    have h7 : Keeps s x6 := by
      unfold x6
      refine Keeps.upd ?_ rfl rfl rfl
      exact Keeps.refl _
    clear_value x6
    split
    · rename_i a8
      refine Keeps.trans ?_ (State.goOn_keeps ..)
      refine Keeps.trans ?_ (State.showAcks_keeps ..)
      refine Keeps.trans ?_ (State.pldm_keeps ..)
      assumption
    · rename_i a9
      exact Keeps.refl _
  · rename_i a10
    exact Keeps.refl _

theorem State.imgAnswer_keeps (s : State) (msg : ℕ) (status : ℕ) : Keeps s (State.imgAnswer s msg status) := by
  unfold State.imgAnswer
  extract_lets +onlyGivenNames x1
  refine Keeps.upd ?_ rfl rfl rfl
  exact Keeps.refl _

theorem execImgBegin_keeps (length version : BitVec 32) (s : State) : KeepsO s (execImgBegin length version s) := by
  unfold execImgBegin
  refine KeepsO.next ?_
  split
  · exact Keeps.refl s
  · split
    · exact State.imgAnswer_keeps ..
    · refine Keeps.trans (Keeps.trans ?_ (State.put_keeps ..)) (State.imgAnswer_keeps ..)
      exact ⟨rfl, fun i => ⟨⟨i.1.1, i.1.2, i.1.3, SMap.wf_filter _ _ _ i.1.4⟩, i.2⟩⟩

theorem execImgData_keeps (offset : Nat) (bytes : List Byte) (s : State) : KeepsO s (execImgData offset bytes s) := by
  unfold execImgData
  refine KeepsO.next ?_
  split
  · exact Keeps.refl s
  · split
    · exact State.imgAnswer_keeps ..
    · refine Keeps.trans ?_ (State.imgAnswer_keeps ..)
      exact ⟨rfl, fun i => ⟨⟨i.1.1, i.1.2, i.1.3, SMap.wf_setRange _ _ _ _ i.1.4⟩, i.2⟩⟩

theorem execImgEnd_keeps (s : State) : KeepsO s (execImgEnd s) := by
  unfold execImgEnd
  extract_lets +onlyGivenNames x1
  refine KeepsO.next ?_
  split
  · rename_i a2
    exact Keeps.refl _
  · rename_i a3
    split
    · rename_i a4
      refine Keeps.trans ?_ (State.imgAnswer_keeps ..)
      exact Keeps.refl _
    · rename_i a5
      refine Keeps.trans ?_ (State.imgAnswer_keeps ..)
      refine Keeps.trans ?_ (State.put_keeps ..)
      refine Keeps.upd ?_ rfl rfl rfl
      exact Keeps.refl _

theorem execImgVerify_keeps (c : ImageChecks) (s : State) : KeepsO s (execImgVerify c s) := by
  unfold execImgVerify
  extract_lets +onlyGivenNames x1
  clear_value x1
  refine KeepsO.next ?_
  split
  · rename_i a2
    exact Keeps.refl _
  · rename_i a3
    split
    rename_i a4 a5 a6 a7
    have h8 : Keeps s a5 := by
      refine Keeps.fst a7 ?_
      refine Keeps.trans ?_ (State.tryInject_keeps ..)
      exact Keeps.refl _
    extract_lets +onlyGivenNames x9
    clear_value x9
    extract_lets +onlyGivenNames x10
    have h11 : Keeps s x10 := by
      unfold x10
      refine Keeps.trans ?_ (State.put_keeps ..)
      refine Keeps.trans ?_ (State.put_keeps ..)
      assumption
    clear_value x10
    refine Keeps.trans ?_ (State.imgAnswer_keeps ..)
    refine Keeps.trans ?_ (State.logAppend_keeps ..)
    assumption

/-! ### Machine/Monitor.lean -/

theorem State.updateAllDrift_keeps (s : State) : Keeps s (State.updateAllDrift s) := by
  unfold State.updateAllDrift
  refine Keeps.foldl _ _ ?_ (fun u1 x2 => ?_)
  · beta_reduce
    exact Keeps.refl _
  · beta_reduce
    refine Keeps.trans ?_ (State.updateDrift_keeps ..)
    exact Keeps.refl _

theorem State.showDark_keeps (s : State) : Keeps s (State.showDark s) := by
  unfold State.showDark
  extract_lets +onlyGivenNames x1
  clear_value x1
  refine Keeps.trans ?_ (State.flag_keeps ..)
  refine Keeps.trans ?_ (State.flag_keeps ..)
  exact Keeps.refl _

theorem State.monWrap_keeps (s : State) : Keeps s (State.monWrap s) := by
  unfold State.monWrap
  extract_lets +onlyGivenNames x1
  clear_value x1
  extract_lets +onlyGivenNames x2
  have h3 : Keeps s x2 := by
    unfold x2
    refine Keeps.trans ?_ (State.put_keeps ..)
    exact Keeps.refl _
  clear_value x2
  extract_lets +onlyGivenNames x4
  have h5 : Keeps s x4 := by
    unfold x4
    refine Keeps.upd ?_ rfl rfl rfl
    assumption
  clear_value x4
  split
  · rename_i a6
    refine Keeps.trans ?_ (State.showDark_keeps ..)
    refine Keeps.trans ?_ (State.put_keeps ..)
    refine Keeps.trans ?_ (State.put_keeps ..)
    assumption
  · rename_i a7
    split
    · rename_i a8
      refine Keeps.trans ?_ (State.showDark_keeps ..)
      refine Keeps.trans ?_ (State.put_keeps ..)
      assumption
    · rename_i a9
      assumption

theorem State.monAdvance_keeps (s : State) (i : ℕ) : Keeps s (State.monAdvance s i) := by
  unfold State.monAdvance
  extract_lets +onlyGivenNames x1
  clear_value x1
  split
  · rename_i a2
    refine Keeps.trans ?_ (State.monWrap_keeps ..)
    exact Keeps.refl _
  · rename_i a3
    refine Keeps.upd ?_ rfl rfl rfl
    exact Keeps.refl _

theorem State.monFind_keeps (n : Nat) (s : State) : Keeps s (State.monFind n s).1 := by
  induction n generalizing s with
  | zero => exact Keeps.refl s
  | succ n ih =>
    unfold State.monFind
    extract_lets e
    split
    · exact Keeps.refl s
    · exact (State.monAdvance_keeps ..).trans (ih _)

theorem State.monStore_keeps (s : State) (word : Word) : Keeps s (State.monStore s word) := by
  unfold State.monStore
  extract_lets +onlyGivenNames x1
  clear_value x1
  extract_lets +onlyGivenNames x2
  clear_value x2
  extract_lets +onlyGivenNames x3
  have h4 : Keeps s x3 := by
    unfold x3
    split
    · rename_i a5
      refine Keeps.trans ?_ (State.add_keeps ..)
      refine Keeps.trans ?_ (State.put_keeps ..)
      refine Keeps.trans ?_ (State.put_keeps ..)
      exact Keeps.refl _
    · rename_i a6
      exact Keeps.refl _
  clear_value x3
  extract_lets +onlyGivenNames x7
  clear_value x7
  extract_lets +onlyGivenNames x8
  clear_value x8
  refine Keeps.trans ?_ (State.put_keeps ..)
  refine Keeps.upd ?_ rfl rfl rfl
  assumption

theorem State.sensorIn_keeps (s : State) (ch : ℕ) (v : ℤ) : Keeps s (State.sensorIn s ch v) := by
  unfold State.sensorIn
  extract_lets +onlyGivenNames x1
  clear_value x1
  extract_lets +onlyGivenNames x2
  clear_value x2
  extract_lets +onlyGivenNames x3
  clear_value x3
  refine Keeps.upd ?_ rfl rfl rfl
  exact Keeps.refl _

theorem State.monRecord_keeps (s : State) (ch : ℕ) (tag : ℕ) (avg : Bool) (codes : List (BitVec 14)) : Keeps s (State.monRecord s ch tag avg codes) := by
  unfold State.monRecord
  extract_lets +onlyGivenNames x1
  clear_value x1
  extract_lets +onlyGivenNames x2
  clear_value x2
  extract_lets +onlyGivenNames x3
  clear_value x3
  extract_lets +onlyGivenNames x4
  clear_value x4
  extract_lets +onlyGivenNames x5
  clear_value x5
  extract_lets +onlyGivenNames x6
  clear_value x6
  extract_lets +onlyGivenNames x7
  have h8 : Keeps s x7 := by
    unfold x7
    refine Keeps.trans ?_ (State.monStore_keeps ..)
    exact Keeps.refl _
  clear_value x7
  split
  · rename_i a9
    split
    · rename_i a10
      assumption
    · rename_i a11
      refine Keeps.trans ?_ (State.sensorIn_keeps ..)
      assumption
  · rename_i a12
    split
    · rename_i a13
      split
      · rename_i a14 a15 a16
        extract_lets +onlyGivenNames x17
        have h18 : Keeps s x17 := by
          unfold x17
          refine Keeps.trans ?_ (State.fired_keeps ..)
          assumption
        clear_value x17
        extract_lets +onlyGivenNames x19
        clear_value x19
        extract_lets +onlyGivenNames x20
        clear_value x20
        split
        · rename_i a21
          refine Keeps.upd ?_ rfl rfl rfl
          assumption
        · rename_i a22
          refine Keeps.upd ?_ rfl rfl rfl
          assumption
      · rename_i a23 a24
        extract_lets +onlyGivenNames x25
        clear_value x25
        refine Keeps.upd ?_ rfl rfl rfl
        assumption
    · rename_i a26
      assumption

theorem execMonitorConversion_keeps (c1 : BitVec 14) (c2 : BitVec 14) (c3 : BitVec 14) (c4 : BitVec 14) (s : State) : KeepsO s (execMonitorConversion c1 c2 c3 c4 s) := by
  unfold execMonitorConversion
  refine KeepsO.next ?_
  split
  · rename_i a1
    exact Keeps.refl _
  · rename_i a2
    split
    rename_i a3 a4 a5 a6
    have h7 : Keeps s a4 := by
      refine Keeps.fst a6 ?_
      refine Keeps.trans ?_ (State.monFind_keeps ..)
      exact Keeps.refl _
    extract_lets +onlyGivenNames x8
    clear_value x8
    extract_lets +onlyGivenNames x9
    clear_value x9
    extract_lets +onlyGivenNames x10
    clear_value x10
    extract_lets +onlyGivenNames x11
    clear_value x11
    extract_lets +onlyGivenNames x12
    extract_lets +onlyGivenNames x13
    have h14 : Keeps s x13 := by
      unfold x13
      refine Keeps.trans ?_ (State.monRecord_keeps ..)
      assumption
    clear_value x13
    split
    · rename_i a15
      refine Keeps.trans ?_ (State.monAdvance_keeps ..)
      assumption
    · rename_i a16
      refine Keeps.trans ?_ (State.monWrap_keeps ..)
      assumption

theorem execReferenceSettled_keeps (s : State) : KeepsO s (execReferenceSettled s) := by
  unfold execReferenceSettled
  refine KeepsO.next ?_
  split
  · rename_i a1
    refine Keeps.trans ?_ (State.advanceStart_keeps ..)
    refine Keeps.trans ?_ (State.put_keeps ..)
    exact Keeps.refl _
  · rename_i a2
    exact Keeps.refl _

theorem execTestBusCaptureArm_keeps (w : Wr) (s : State) : KeepsO s (execTestBusCaptureArm w s) := by
  unfold execTestBusCaptureArm
  split
  rename_i a1 a2 a3 a4
  have h5 : Keeps s a2 := by
    refine Keeps.fst a4 ?_
    refine Keeps.trans ?_ (State.write_keeps ..)
    exact Keeps.refl _
  extract_lets +onlyGivenNames x6
  clear_value x6
  extract_lets +onlyGivenNames x7
  have h8 : Keeps s x7 := by
    unfold x7
    split
    · rename_i a9
      refine Keeps.trans ?_ (State.flag_keeps ..)
      refine Keeps.upd ?_ rfl rfl rfl
      assumption
    · rename_i a10
      assumption
  clear_value x7
  extract_lets +onlyGivenNames x11
  clear_value x11
  refine KeepsO.next ?_
  split
  · rename_i a12
    refine Keeps.upd ?_ rfl rfl rfl
    assumption
  · rename_i a13
    assumption

end Sys2Proof.Machine
end

