-- ==== Sys2Proof/Laws/Keeps9.lean ====
section
/-! SUPPORT. The operations and meanings of Machine leave the queue alone and keep the invariant: Thermal, Retrieval, Trust. -/
namespace Sys2Proof.Machine

/-! ### Machine/Thermal.lean -/

theorem State.setTherm_keeps (s : State) (i : ℕ) (x : ThermSensor) : Keeps s (State.setTherm s i x) := by
  unfold State.setTherm
  extract_lets +onlyGivenNames x1
  clear_value x1
  refine Keeps.upd ?_ rfl rfl rfl
  exact Keeps.refl _

theorem State.showTherm_keeps (s : State) : Keeps s (State.showTherm s) := by
  unfold State.showTherm
  extract_lets +onlyGivenNames x1
  have h2 : Keeps s x1 := by
    unfold x1
    refine Keeps.trans ?_ (State.put_keeps ..)
    refine Keeps.trans ?_ (State.put_keeps ..)
    refine Keeps.trans ?_ (State.put_keeps ..)
    exact Keeps.refl _
  clear_value x1
  extract_lets +onlyGivenNames x3
  have h4 : Keeps s x3 := by
    unfold x3
    refine Keeps.trans ?_ (State.flag_keeps ..)
    refine Keeps.trans ?_ (State.flag_keeps ..)
    assumption
  clear_value x3
  extract_lets +onlyGivenNames x5
  have h6 : Keeps s x5 := by
    unfold x5
    split
    · rename_i a7 a8 a9 a10 a11 a12 a13
      refine Keeps.trans ?_ (State.put_keeps ..)
      refine Keeps.trans ?_ (State.put_keeps ..)
      assumption
    · rename_i a14 a15 a16 a17 a18
      refine Keeps.trans ?_ (State.put_keeps ..)
      assumption
    · rename_i a19 a20 a21
      assumption
  clear_value x5
  refine Keeps.trans ?_ (State.showDark_keeps ..)
  assumption

theorem State.levelEvent_keeps (s : State) (old : ℕ) : Keeps s (State.levelEvent s old) := by
  unfold State.levelEvent
  split
  · rename_i a1
    exact Keeps.refl _
  · rename_i a2
    refine Keeps.trans ?_ (State.pldm_keeps ..)
    exact Keeps.refl _

theorem State.takeReading_keeps (s : State) (i : ℕ) (t : ℤ) (sat : Bool) : Keeps s (State.takeReading s i t sat) := by
  unfold State.takeReading
  extract_lets +onlyGivenNames x1
  clear_value x1
  extract_lets +onlyGivenNames x2
  clear_value x2
  extract_lets +onlyGivenNames x3
  clear_value x3
  extract_lets +onlyGivenNames x4
  clear_value x4
  extract_lets +onlyGivenNames x5
  clear_value x5
  extract_lets +onlyGivenNames x6
  clear_value x6
  refine Keeps.trans ?_ (State.setTherm_keeps ..)
  exact Keeps.refl _

theorem State.raiseHeat_keeps (s : State) : Keeps s (State.raiseHeat s) := by
  unfold State.raiseHeat
  split
  · rename_i a1 a2 a3 a4
    refine Keeps.trans ?_ (State.raise_keeps ..)
    exact Keeps.refl _
  · rename_i a5 a6
    refine Keeps.trans ?_ (State.raise_keeps ..)
    exact Keeps.refl _

theorem State.heatRequest_keeps (s : State) (v : Option ℕ) : Keeps s (State.heatRequest s v) := by
  unfold State.heatRequest
  split
  · rename_i a1
    extract_lets +onlyGivenNames x2
    clear_value x2
    refine Keeps.upd ?_ rfl rfl rfl
    exact Keeps.refl _
  · rename_i a3 a4
    extract_lets +onlyGivenNames x5
    clear_value x5
    refine Keeps.trans ?_ (State.raiseVarReq_keeps ..)
    refine Keeps.upd ?_ rfl rfl rfl
    exact Keeps.refl _

theorem State.heatOn_keeps (s : State) : Keeps s (State.heatOn s) := by
  unfold State.heatOn
  extract_lets +onlyGivenNames x1
  clear_value x1
  extract_lets +onlyGivenNames x2
  have h3 : Keeps s x2 := by
    unfold x2
    refine Keeps.upd ?_ rfl rfl rfl
    exact Keeps.refl _
  clear_value x2
  extract_lets +onlyGivenNames x4
  have h5 : Keeps s x4 := by
    unfold x4
    refine Keeps.trans ?_ (State.raiseHeat_keeps ..)
    refine Keeps.trans ?_ (State.add_keeps ..)
    refine Keeps.trans ?_ (State.put_keeps ..)
    assumption
  clear_value x4
  split
  · rename_i a6
    exact Keeps.refl _
  · rename_i a7
    refine Keeps.trans ?_ (State.heatRequest_keeps ..)
    assumption

theorem State.heatUp_keeps (s : State) : Keeps s (State.heatUp s) := by
  unfold State.heatUp
  split
  · rename_i a1
    refine Keeps.trans ?_ (State.heatOn_keeps ..)
    exact Keeps.refl _
  · rename_i a2
    exact Keeps.refl _

theorem State.shutdown_keeps (s : State) (causes : List ℕ) (rails : ℕ) (reg : ℕ) : Keeps s (State.shutdown s causes rails reg) := by
  unfold State.shutdown
  extract_lets +onlyGivenNames x1
  clear_value x1
  extract_lets +onlyGivenNames x2
  clear_value x2
  extract_lets +onlyGivenNames x3
  have h4 : Keeps s x3 := by
    unfold x3
    refine Keeps.trans ?_ (State.logAppend_keeps ..)
    exact Keeps.refl _
  clear_value x3
  extract_lets +onlyGivenNames x5
  have h6 : Keeps s x5 := by
    unfold x5
    refine Keeps.trans ?_ (State.dieReset_keeps ..)
    assumption
  clear_value x5
  extract_lets +onlyGivenNames x7
  clear_value x7
  extract_lets +onlyGivenNames x8
  clear_value x8
  refine Keeps.upd ?_ rfl rfl rfl
  assumption

theorem State.afterReading_keeps (s : State) : Keeps s (State.afterReading s) := by
  unfold State.afterReading
  extract_lets +onlyGivenNames x1
  clear_value x1
  extract_lets +onlyGivenNames x2
  clear_value x2
  extract_lets +onlyGivenNames x3
  clear_value x3
  extract_lets +onlyGivenNames x4
  clear_value x4
  extract_lets +onlyGivenNames x5
  clear_value x5
  extract_lets +onlyGivenNames x6
  have h7 : Keeps s x6 := by
    unfold x6
    refine Keeps.upd ?_ rfl rfl rfl
    exact Keeps.refl _
  clear_value x6
  extract_lets +onlyGivenNames x8
  have h9 : Keeps s x8 := by
    unfold x8
    refine Keeps.trans ?_ (State.levelEvent_keeps ..)
    refine Keeps.trans ?_ (State.heatUp_keeps ..)
    assumption
  clear_value x8
  split
  · rename_i a10
    assumption
  · rename_i a11
    refine Keeps.trans ?_ (State.shutdown_keeps ..)
    assumption

theorem execSensorReading_keeps (sensor : Fin 88) (value : BitVec 16) (sat : Bool) (s : State) : KeepsO s (execSensorReading sensor value sat s) := by
  unfold execSensorReading
  extract_lets +onlyGivenNames x1
  clear_value x1
  refine KeepsO.next ?_
  split
  · rename_i a2
    exact Keeps.refl _
  · rename_i a3
    split
    rename_i a4 a5 a6 a7
    have h8 : Keeps s a5 := by
      refine Keeps.fst a7 ?_
      split
      · rename_i a9 a10 a11
        split
        · rename_i a12
          dsimp only
          refine Keeps.trans ?_ (State.fired_keeps ..)
          exact Keeps.refl _
        · rename_i a13
          dsimp only
          exact Keeps.refl _
      · rename_i a14 a15
        dsimp only
        exact Keeps.refl _
    extract_lets +onlyGivenNames x16
    clear_value x16
    extract_lets +onlyGivenNames x17
    have h18 : Keeps s x17 := by
      unfold x17
      split
      · rename_i a19
        refine Keeps.trans ?_ (State.setTherm_keeps ..)
        assumption
      · rename_i a20
        assumption
    clear_value x17
    extract_lets +onlyGivenNames x21
    clear_value x21
    extract_lets +onlyGivenNames x22
    have h23 : Keeps s x22 := by
      unfold x22
      refine Keeps.trans ?_ (State.takeReading_keeps ..)
      assumption
    clear_value x22
    extract_lets +onlyGivenNames x24
    clear_value x24
    extract_lets +onlyGivenNames x25
    have h26 : Keeps s x25 := by
      unfold x25
      refine Keeps.trans ?_ (State.flagAt_keeps ..)
      refine Keeps.trans ?_ (State.putAt_keeps ..)
      assumption
    clear_value x25
    extract_lets +onlyGivenNames x27
    clear_value x27
    extract_lets +onlyGivenNames x28
    have h29 : Keeps s x28 := by
      unfold x28
      split
      · rename_i a30
        split
        · rename_i a31
          refine Keeps.upd ?_ rfl rfl rfl
          assumption
        · rename_i a32
          assumption
      · rename_i a33
        assumption
    clear_value x28
    refine Keeps.trans ?_ (State.afterReading_keeps ..)
    refine Keeps.trans ?_ (State.showTherm_keeps ..)
    assumption

theorem execSensorRestore_keeps (sensor : Fin 88) (s : State) : KeepsO s (execSensorRestore sensor s) := by
  unfold execSensorRestore
  extract_lets +onlyGivenNames x1
  clear_value x1
  refine KeepsO.next ?_
  split
  · rename_i a2
    refine Keeps.trans ?_ (State.afterReading_keeps ..)
    refine Keeps.trans ?_ (State.showTherm_keeps ..)
    refine Keeps.trans ?_ (State.setTherm_keeps ..)
    exact Keeps.refl _
  · rename_i a3
    exact Keeps.refl _

theorem execComparatorTrip_keeps (sensor : Fin 64) (others : List (Fin 64)) (s : State) : KeepsO s (execComparatorTrip sensor others s) := by
  unfold execComparatorTrip
  extract_lets +onlyGivenNames x1
  clear_value x1
  extract_lets +onlyGivenNames x2
  clear_value x2
  refine KeepsO.next ?_
  split
  · rename_i a3
    exact Keeps.refl _
  · rename_i a4
    split
    · rename_i a5
      refine Keeps.trans ?_ (State.shutdown_keeps ..)
      exact Keeps.refl _
    · rename_i a6
      split
      · rename_i a7 a8 a9
        split
        · rename_i a10
          refine Keeps.trans ?_ (State.afterReading_keeps ..)
          refine Keeps.trans ?_ (State.showTherm_keeps ..)
          refine Keeps.trans ?_ (State.setTherm_keeps ..)
          exact Keeps.refl _
        · rename_i a11
          exact Keeps.refl _
      · rename_i a12 a13
        exact Keeps.refl _

theorem execHeatFlagClear_keeps (s : State) : KeepsO s (execHeatFlagClear s) := by
  unfold execHeatFlagClear
  extract_lets +onlyGivenNames x1
  clear_value x1
  refine KeepsO.next ?_
  split
  · rename_i a2
    refine Keeps.trans ?_ (State.levelEvent_keeps ..)
    refine Keeps.trans ?_ (State.put_keeps ..)
    refine Keeps.upd ?_ rfl rfl rfl
    exact Keeps.refl _
  · rename_i a3
    exact Keeps.refl _

theorem execHeatRerequest_keeps (s : State) : KeepsO s (execHeatRerequest s) := by
  unfold execHeatRerequest
  refine KeepsO.next ?_
  split
  · rename_i a1
    split
    · rename_i a2 a3 a4
      refine Keeps.trans ?_ (State.heatRequest_keeps ..)
      exact Keeps.refl _
    · rename_i a5 a6
      refine Keeps.trans ?_ (State.heatRequest_keeps ..)
      exact Keeps.refl _
  · rename_i a7
    exact Keeps.refl _

theorem execClockDivide_keeps (s : State) : KeepsO s (execClockDivide s) := by
  unfold execClockDivide
  extract_lets +onlyGivenNames x1
  clear_value x1
  extract_lets +onlyGivenNames x2
  extract_lets +onlyGivenNames x3
  clear_value x3
  refine KeepsO.next ?_
  split
  · rename_i a4
    refine Keeps.upd ?_ rfl rfl rfl
    exact Keeps.refl _
  · rename_i a5
    exact Keeps.refl _

theorem execClockRestore_keeps (s : State) : KeepsO s (execClockRestore s) := by
  unfold execClockRestore
  extract_lets +onlyGivenNames x1
  clear_value x1
  refine KeepsO.next ?_
  split
  · rename_i a2
    refine Keeps.upd ?_ rfl rfl rfl
    exact Keeps.refl _
  · rename_i a3
    exact Keeps.refl _

theorem State.clockAtRod_keeps (s : State) : Keeps s (State.clockAtRod s) := by
  unfold State.clockAtRod
  split
  · rename_i a1 a2
    exact Keeps.refl _
  · rename_i a3 a4 a5
    extract_lets +onlyGivenNames x6
    clear_value x6
    extract_lets +onlyGivenNames x7
    clear_value x7
    extract_lets +onlyGivenNames x8
    have h9 : Keeps s x8 := by
      unfold x8
      refine Keeps.upd ?_ rfl rfl rfl
      exact Keeps.refl _
    clear_value x8
    extract_lets +onlyGivenNames x10
    have h11 : Keeps s x10 := by
      unfold x10
      split
      · rename_i a12
        refine Keeps.trans ?_ (State.heatOn_keeps ..)
        assumption
      · rename_i a13
        assumption
    clear_value x10
    refine Keeps.trans ?_ (State.reAdmit_keeps ..)
    refine Keeps.trans ?_ (State.levelEvent_keeps ..)
    refine Keeps.trans ?_ (State.flag_keeps ..)
    assumption

theorem State.thermSwitched_keeps (s : State) : Keeps s (State.thermSwitched s) := by
  unfold State.thermSwitched
  extract_lets +onlyGivenNames x1
  clear_value x1
  refine Keeps.upd ?_ rfl rfl rfl
  exact Keeps.refl _

theorem State.thermRefused_keeps (s : State) : Keeps s (State.thermRefused s) := by
  unfold State.thermRefused
  split
  · rename_i a1 a2 a3
    extract_lets +onlyGivenNames x4
    clear_value x4
    split
    · rename_i a5
      refine Keeps.upd ?_ rfl rfl rfl
      exact Keeps.refl _
    · rename_i a6
      exact Keeps.refl _
  · rename_i a7 a8
    exact Keeps.refl _

theorem State.measureInput_keeps (s : State) (p : ℕ) : Keeps s (State.measureInput s p) := by
  unfold State.measureInput
  extract_lets +onlyGivenNames x1
  clear_value x1
  extract_lets +onlyGivenNames x2
  clear_value x2
  extract_lets +onlyGivenNames x3
  have h4 : Keeps s x3 := by
    unfold x3
    refine Keeps.upd ?_ rfl rfl rfl
    exact Keeps.refl _
  clear_value x3
  extract_lets +onlyGivenNames x5
  have h6 : Keeps s x5 := by
    unfold x5
    refine Keeps.trans ?_ (State.put_keeps ..)
    refine Keeps.trans ?_ (State.put_keeps ..)
    assumption
  clear_value x5
  extract_lets +onlyGivenNames x7
  have h8 : Keeps s x7 := by
    unfold x7
    refine Keeps.trans ?_ (State.put_keeps ..)
    assumption
  clear_value x7
  split
  · rename_i a9
    refine Keeps.trans ?_ (State.put_keeps ..)
    assumption
  · rename_i a10
    assumption

theorem State.powerFurlong_keeps (s : State) (cap : ℕ) : Keeps s (State.powerFurlong s cap) := by
  unfold State.powerFurlong
  extract_lets +onlyGivenNames x1
  clear_value x1
  extract_lets +onlyGivenNames x2
  have h3 : Keeps s x2 := by
    unfold x2
    refine Keeps.trans ?_ (State.tick_keeps ..)
    refine Keeps.trans ?_ (State.measureInput_keeps ..)
    exact Keeps.refl _
  clear_value x2
  extract_lets +onlyGivenNames x4
  clear_value x4
  extract_lets +onlyGivenNames x5
  have h6 : Keeps s x5 := by
    unfold x5
    split
    · rename_i a7
      refine Keeps.trans ?_ (State.put_keeps ..)
      assumption
    · rename_i a8
      assumption
  clear_value x5
  extract_lets +onlyGivenNames x9
  clear_value x9
  extract_lets +onlyGivenNames x10
  clear_value x10
  refine Keeps.upd ?_ rfl rfl rfl
  assumption

theorem State.fracFurlong_keeps (s : State) : Keeps s (State.fracFurlong s) := by
  unfold State.fracFurlong
  extract_lets +onlyGivenNames x1
  clear_value x1
  extract_lets +onlyGivenNames x2
  clear_value x2
  extract_lets +onlyGivenNames x3
  clear_value x3
  extract_lets +onlyGivenNames x4
  have h5 : Keeps s x4 := by
    unfold x4
    refine Keeps.upd ?_ rfl rfl rfl
    exact Keeps.refl _
  clear_value x4
  extract_lets +onlyGivenNames x6
  have h7 : Keeps s x6 := by
    unfold x6
    refine Keeps.trans ?_ (State.flag_keeps ..)
    refine Keeps.trans ?_ (State.put_keeps ..)
    assumption
  clear_value x6
  refine Keeps.trans ?_ (State.flag_keeps ..)
  assumption

theorem State.hotStacks_keeps (s : State) : Keeps s (State.hotStacks s) := by
  unfold State.hotStacks
  extract_lets +onlyGivenNames x1
  clear_value x1
  extract_lets +onlyGivenNames x2
  have h3 : Keeps s x2 := by
    unfold x2
    refine Keeps.foldl _ _ ?_ (fun u4 x5 => ?_)
    · beta_reduce
      exact Keeps.refl _
    · beta_reduce
      split
      · rename_i a6
        refine Keeps.trans ?_ (State.reAdmit_keeps ..)
        refine Keeps.trans ?_ (State.putAt_keeps ..)
        exact Keeps.refl _
      · rename_i a7
        exact Keeps.refl _
  clear_value x2
  extract_lets +onlyGivenNames x8
  clear_value x8
  refine Keeps.upd ?_ rfl rfl rfl
  assumption

theorem State.thermFurlong_keeps (s : State) : Keeps s (State.thermFurlong s) := by
  unfold State.thermFurlong
  extract_lets +onlyGivenNames x1
  clear_value x1
  extract_lets +onlyGivenNames x2
  have h3 : Keeps s x2 := by
    unfold x2
    refine Keeps.trans ?_ (State.hotStacks_keeps ..)
    refine Keeps.trans ?_ (State.fracFurlong_keeps ..)
    refine Keeps.trans ?_ (State.powerFurlong_keeps ..)
    exact Keeps.refl _
  clear_value x2
  extract_lets +onlyGivenNames x4
  clear_value x4
  extract_lets +onlyGivenNames x5
  clear_value x5
  extract_lets +onlyGivenNames x6
  have h7 : Keeps s x6 := by
    unfold x6
    refine Keeps.upd ?_ rfl rfl rfl
    assumption
  clear_value x6
  split
  · rename_i a8
    exact Keeps.refl _
  · rename_i a9
    refine Keeps.trans ?_ (State.levelEvent_keeps ..)
    refine Keeps.trans ?_ (State.thermRefused_keeps ..)
    assumption

theorem State.thermMile_keeps (s : State) : Keeps s (State.thermMile s) := by
  unfold State.thermMile
  split
  · rename_i a1
    refine Keeps.trans ?_ (State.raiseHeat_keeps ..)
    exact Keeps.refl _
  · rename_i a2
    exact Keeps.refl _

theorem execPowerCapVariantRequest_keeps (s : State) : KeepsO s (execPowerCapVariantRequest s) := by
  unfold execPowerCapVariantRequest
  refine KeepsO.next ?_
  split
  · rename_i a1
    split
    · rename_i a2 a3 a4
      extract_lets +onlyGivenNames x5
      clear_value x5
      refine Keeps.trans ?_ (State.raiseVarReq_keeps ..)
      refine Keeps.upd ?_ rfl rfl rfl
      exact Keeps.refl _
    · rename_i a6 a7
      exact Keeps.refl _
  · rename_i a8
    exact Keeps.refl _

theorem State.vinSeen_keeps (s : State) (mv : ℕ) : Keeps s (State.vinSeen s mv) := by
  unfold State.vinSeen
  extract_lets +onlyGivenNames x1
  clear_value x1
  extract_lets +onlyGivenNames x2
  have h3 : Keeps s x2 := by
    unfold x2
    refine Keeps.trans ?_ (State.flag_keeps ..)
    refine Keeps.trans ?_ (State.put_keeps ..)
    exact Keeps.refl _
  clear_value x2
  extract_lets +onlyGivenNames x4
  have h5 : Keeps s x4 := by
    unfold x4
    refine Keeps.trans ?_ (State.raiseIfAt_keeps ..)
    refine Keeps.trans ?_ (State.raiseIfAt_keeps ..)
    assumption
  clear_value x4
  extract_lets +onlyGivenNames x6
  clear_value x6
  extract_lets +onlyGivenNames x7
  clear_value x7
  refine Keeps.upd ?_ rfl rfl rfl
  assumption

theorem execVinFault_keeps (f : InputFault) (s : State) : KeepsO s (execVinFault f s) := by
  unfold execVinFault
  refine KeepsO.next ?_
  split
  · rename_i a1
    exact Keeps.refl _
  · rename_i a2
    split
    · rename_i a3 a4
      split
      · rename_i a5
        refine Keeps.trans ?_ (State.shutdown_keeps ..)
        refine Keeps.trans ?_ (State.vinSeen_keeps ..)
        exact Keeps.refl _
      · rename_i a6
        exact Keeps.refl _
    · rename_i a7 a8
      split
      · rename_i a9
        refine Keeps.trans ?_ (State.shutdown_keeps ..)
        refine Keeps.trans ?_ (State.put_keeps ..)
        exact Keeps.refl _
      · rename_i a10
        exact Keeps.refl _

theorem execInputRangeExcursion_keeps (mv : ℕ) (s : State) : KeepsO s (execInputRangeExcursion mv s) := by
  unfold execInputRangeExcursion
  refine KeepsO.next ?_
  split
  · rename_i a1
    refine Keeps.trans ?_ (State.vinSeen_keeps ..)
    exact Keeps.refl _
  · rename_i a2
    exact Keeps.refl _

theorem execRegulatorFault_keeps (f : RegFault) (s : State) : KeepsO s (execRegulatorFault f s) := by
  unfold execRegulatorFault
  extract_lets +onlyGivenNames x1
  have h2 : Keeps s x1 := by
    unfold x1
    refine Keeps.trans ?_ (State.put_keeps ..)
    refine Keeps.trans ?_ (State.put_keeps ..)
    exact Keeps.refl _
  clear_value x1
  refine KeepsO.next ?_
  split
  · rename_i a3
    exact Keeps.refl _
  · rename_i a4
    split
    · rename_i a5 a6
      refine Keeps.trans ?_ (State.shutdown_keeps ..)
      assumption
    · rename_i a7 a8
      refine Keeps.trans ?_ (State.shutdown_keeps ..)
      assumption
    · rename_i a9
      split
      · rename_i a10
        refine Keeps.trans ?_ (State.shutdown_keeps ..)
        assumption
      · rename_i a11
        exact Keeps.refl _

theorem execMcPowerOff_keeps (s : State) : KeepsO s (execMcPowerOff s) := by
  unfold execMcPowerOff
  refine KeepsO.next ?_
  split
  · rename_i a1
    refine Keeps.trans ?_ (State.shutdown_keeps ..)
    exact Keeps.refl _
  · rename_i a2
    exact Keeps.refl _

theorem execMateNAssert_keeps (s : State) : KeepsO s (execMateNAssert s) := by
  unfold execMateNAssert
  extract_lets +onlyGivenNames x1
  clear_value x1
  refine KeepsO.next ?_
  refine Keeps.upd ?_ rfl rfl rfl
  exact Keeps.refl _

theorem execInputEnable_keeps (s : State) : KeepsO s (execInputEnable s) := by
  unfold execInputEnable
  extract_lets +onlyGivenNames x1
  clear_value x1
  extract_lets +onlyGivenNames x2
  clear_value x2
  refine KeepsO.next ?_
  split
  · rename_i a3
    exact Keeps.refl _
  · rename_i a4
    refine Keeps.upd ?_ rfl rfl rfl
    exact Keeps.refl _

theorem execVinReapply_keeps (s : State) : KeepsO s (execVinReapply s) := by
  unfold execVinReapply
  extract_lets +onlyGivenNames x1
  clear_value x1
  extract_lets +onlyGivenNames x2
  clear_value x2
  refine KeepsO.next ?_
  split
  · rename_i a3
    refine Keeps.upd ?_ rfl rfl rfl
    exact Keeps.refl _
  · rename_i a4
    exact Keeps.refl _

theorem execHostLinkTraining_keeps (up : Bool) (gen : ℕ) (width : ℕ) (s : State) : KeepsO s (execHostLinkTraining up gen width s) := by
  unfold execHostLinkTraining
  extract_lets +onlyGivenNames x1
  clear_value x1
  refine KeepsO.next ?_
  split
  · rename_i a2
    exact Keeps.refl _
  · rename_i a3
    refine Keeps.trans ?_ (State.reAdmit_keeps ..)
    refine Keeps.upd ?_ rfl rfl rfl
    exact Keeps.refl _

theorem execMcPowerCapRaise_keeps (cap : ℕ) (s : State) : KeepsO s (execMcPowerCapRaise cap s) := by
  unfold execMcPowerCapRaise
  extract_lets +onlyGivenNames x1
  clear_value x1
  extract_lets +onlyGivenNames x2
  have h3 : Keeps s x2 := by
    unfold x2
    split
    · rename_i a4
      refine Keeps.upd ?_ rfl rfl rfl
      exact Keeps.refl _
    · rename_i a5
      exact Keeps.refl _
  clear_value x2
  extract_lets +onlyGivenNames x6
  have h7 : Keeps s x6 := by
    unfold x6
    refine Keeps.trans ?_ (State.put_keeps ..)
    assumption
  clear_value x6
  refine KeepsO.next ?_
  split
  · rename_i a8
    exact Keeps.refl _
  · rename_i a9
    split
    · rename_i a10 a11 a12
      refine Keeps.trans ?_ (State.openCovered_keeps ..)
      assumption
    · rename_i a13 a14
      assumption

theorem execPldmEventFetch_keeps (s : State) : KeepsO s (execPldmEventFetch s) := by
  unfold execPldmEventFetch
  extract_lets +onlyGivenNames x1
  clear_value x1
  extract_lets +onlyGivenNames x2
  clear_value x2
  refine KeepsO.next ?_
  split
  · rename_i a3
    exact Keeps.refl _
  · rename_i a4
    refine Keeps.upd ?_ rfl rfl rfl
    exact Keeps.refl _

theorem execDynamicAddressAssignment_keeps (addr : BitVec 7) (s : State) : KeepsO s (execDynamicAddressAssignment addr s) := by
  unfold execDynamicAddressAssignment
  extract_lets +onlyGivenNames x1
  clear_value x1
  refine KeepsO.next ?_
  split
  · rename_i a2
    refine Keeps.upd ?_ rfl rfl rfl
    exact Keeps.refl _
  · rename_i a3
    exact Keeps.refl _

/-! ### Machine/Retrieval.lean -/

theorem execQuery_keeps (raw : List Byte) (f : QueryFetch) (s : State) : KeepsO s (execQuery raw f s) := by
  unfold execQuery
  refine KeepsO.next ?_
  split
  · rename_i a1 a2
    exact Keeps.refl _
  · rename_i a3 a4 a5
    extract_lets +onlyGivenNames x6
    have h7 : Keeps s x6 := by
      unfold x6
      refine Keeps.trans ?_ (State.unpoll_keeps ..)
      exact Keeps.refl _
    clear_value x6
    split
    · rename_i a8 a9 a10
      refine Keeps.trans ?_ (State.queueEg_keeps ..)
      refine Keeps.trans ?_ (State.add_keeps ..)
      assumption
    · rename_i a11 a12 a13
      extract_lets +onlyGivenNames x14
      clear_value x14
      refine Keeps.upd ?_ rfl rfl rfl
      assumption

theorem State.endQuery_keeps (s : State) (q : Query) (code : ℕ) : Keeps s (State.endQuery s q code) := by
  unfold State.endQuery
  refine Keeps.trans ?_ (State.queueEg_keeps ..)
  exact Keeps.refl _

theorem State.finishPass_keeps (s : State) (p : Pass) (theta : FpBits) (searched : Bool) : Keeps s (State.finishPass s p theta searched) := by
  unfold State.finishPass
  extract_lets +onlyGivenNames x1
  clear_value x1
  extract_lets +onlyGivenNames x2
  clear_value x2
  extract_lets +onlyGivenNames x3
  have h4 : Keeps s x3 := by
    unfold x3
    refine Keeps.upd ?_ rfl rfl rfl
    exact Keeps.refl _
  clear_value x3
  extract_lets +onlyGivenNames x5
  clear_value x5
  extract_lets +onlyGivenNames x6
  clear_value x6
  extract_lets +onlyGivenNames x7
  clear_value x7
  extract_lets +onlyGivenNames x8
  clear_value x8
  extract_lets +onlyGivenNames x9
  clear_value x9
  extract_lets +onlyGivenNames x10
  clear_value x10
  extract_lets +onlyGivenNames x11
  clear_value x11
  extract_lets +onlyGivenNames x12
  clear_value x12
  extract_lets +onlyGivenNames x13
  have h14 : Keeps s x13 := by
    unfold x13
    split
    · rename_i a15
      refine Keeps.upd ?_ rfl rfl rfl
      assumption
    · rename_i a16
      assumption
  clear_value x13
  extract_lets +onlyGivenNames x17
  have h18 : Keeps s x17 := by
    unfold x17
    refine Keeps.trans ?_ (State.add_keeps ..)
    refine Keeps.trans ?_ (State.add_keeps ..)
    assumption
  clear_value x17
  extract_lets +onlyGivenNames x19
  have h20 : Keeps s x19 := by
    unfold x19
    split
    · rename_i a21
      refine Keeps.trans ?_ (State.add_keeps ..)
      assumption
    · rename_i a22
      assumption
  clear_value x19
  split
  · rename_i a23
    refine Keeps.trans ?_ (State.endQuery_keeps ..)
    refine Keeps.upd ?_ rfl rfl rfl
    assumption
  · rename_i a24
    refine Keeps.trans ?_ (State.queueEg_keeps ..)
    assumption

theorem State.voidPass_keeps (s : State) (q : Query) : Keeps s (State.voidPass s q) := by
  unfold State.voidPass
  extract_lets +onlyGivenNames x1
  have h2 : Keeps s x1 := by
    unfold x1
    refine Keeps.trans ?_ (State.add_keeps ..)
    exact Keeps.refl _
  clear_value x1
  extract_lets +onlyGivenNames x3
  extract_lets +onlyGivenNames x4
  clear_value x4
  extract_lets +onlyGivenNames x5
  have h6 : Keeps s x5 := by
    unfold x5
    refine Keeps.upd ?_ rfl rfl rfl
    assumption
  clear_value x5
  extract_lets +onlyGivenNames x7
  clear_value x7
  split
  · rename_i a8
    refine Keeps.trans ?_ (State.endQuery_keeps ..)
    assumption
  · rename_i a9
    refine Keeps.upd ?_ rfl rfl rfl
    assumption

theorem State.scoreTile_keeps (s : State) (c : Corpus) (t : CorpusTile) (q : Query) (epoch : ℕ) (upset : Bool) (trims : List TrimAt) : Keeps s (State.scoreTile s c t q epoch upset trims).1 := by
  unfold State.scoreTile
  split
  · rename_i a1 a2
    dsimp only
    exact Keeps.refl _
  · rename_i a3 a4 a5
    extract_lets +onlyGivenNames x6
    clear_value x6
    extract_lets +onlyGivenNames x7
    clear_value x7
    split
    · rename_i a8 a9 a10 a11 a12 a13
      extract_lets +onlyGivenNames x14
      clear_value x14
      split
      · rename_i a15
        dsimp only
        exact Keeps.refl _
      · rename_i a16
        split
        rename_i a17 a18 a19 a20
        have h21 : Keeps s a18 := by
          refine Keeps.fst a20 ?_
          refine Keeps.trans ?_ (State.select_keeps ..)
          exact Keeps.refl _
        extract_lets +onlyGivenNames x22
        clear_value x22
        extract_lets +onlyGivenNames x23
        clear_value x23
        extract_lets +onlyGivenNames x24
        have h25 : Keeps s x24 := by
          unfold x24
          refine Keeps.trans ?_ (State.deadBeat_keeps ..)
          refine Keeps.trans ?_ (State.setEngine_keeps ..)
          assumption
        clear_value x24
        extract_lets +onlyGivenNames x26
        have h27 : Keeps s x26 := by
          unfold x26
          refine Keeps.trans ?_ (State.raiseIfAt_keeps ..)
          assumption
        clear_value x26
        extract_lets +onlyGivenNames x28
        clear_value x28
        extract_lets +onlyGivenNames x29
        clear_value x29
        extract_lets +onlyGivenNames x30
        clear_value x30
        extract_lets +onlyGivenNames x31
        clear_value x31
        extract_lets +onlyGivenNames x32
        clear_value x32
        extract_lets +onlyGivenNames x33
        extract_lets +onlyGivenNames x34
        clear_value x34
        extract_lets +onlyGivenNames x35
        clear_value x35
        extract_lets +onlyGivenNames x36
        clear_value x36
        split
        · rename_i a37
          dsimp only
          assumption
        · rename_i a38
          split
          rename_i a39 a40 a41 a42 a43 a44
          have h45 : Keeps s a40 := by
            refine Keeps.fst a44 ?_
            split
            · rename_i a46
              dsimp only
              refine Keeps.trans ?_ (State.addAt_keeps ..)
              assumption
            · rename_i a47
              split
              rename_i a48 a49 a50 a51
              have h52 : Keeps s a49 := by
                refine Keeps.fst a51 ?_
                refine Keeps.trans ?_ (State.evaluate_keeps ..)
                assumption
              split
              rename_i a53 a54 a55 a56
              have h57 : Keeps s a54 := by
                refine Keeps.fst a56 ?_
                refine Keeps.trans ?_ (State.tryInject_keeps ..)
                assumption
              extract_lets +onlyGivenNames x58
              clear_value x58
              extract_lets +onlyGivenNames x59
              have h60 : Keeps s x59 := by
                unfold x59
                refine Keeps.trans ?_ (State.reportBeat_keeps ..)
                assumption
              clear_value x59
              extract_lets +onlyGivenNames x61
              have h62 : Keeps s x61 := by
                unfold x61
                refine Keeps.trans ?_ (State.putAt_keeps ..)
                refine Keeps.trans ?_ (State.addAt_keeps ..)
                assumption
              clear_value x61
              extract_lets +onlyGivenNames x63
              have h64 : Keeps s x63 := by
                unfold x63
                split
                · rename_i a65
                  refine Keeps.upd ?_ rfl rfl rfl
                  assumption
                · rename_i a66
                  assumption
              clear_value x63
              dsimp only
              assumption
          extract_lets +onlyGivenNames x67
          clear_value x67
          extract_lets +onlyGivenNames x68
          have h69 : Keeps s x68 := by
            unfold x68
            refine Keeps.trans ?_ (State.selectBack_keeps ..)
            assumption
          clear_value x68
          dsimp only
          assumption
    · rename_i a70 a71 a72
      dsimp only
      exact Keeps.refl _

theorem execQueryPass_keeps (corpus : Fin 16) (late : Bool) (residueUpsets : List ℕ) (trims : List (ℕ × TrimAt)) (s : State) : KeepsO s (execQueryPass corpus late residueUpsets trims s) := by
  unfold execQueryPass
  refine KeepsO.next ?_
  split
  · rename_i a1 a2 a3 a4 a5 a6
    extract_lets +onlyGivenNames x7
    clear_value x7
    extract_lets +onlyGivenNames x8
    clear_value x8
    extract_lets +onlyGivenNames x9
    clear_value x9
    extract_lets +onlyGivenNames x10
    clear_value x10
    extract_lets +onlyGivenNames x11
    have h12 : Keeps s x11 := by
      unfold x11
      refine Keeps.upd ?_ rfl rfl rfl
      exact Keeps.refl _
    clear_value x11
    split
    · rename_i a13
      exact Keeps.refl _
    · rename_i a14
      split
      rename_i a15 a16 a17 a18
      have h19 : Keeps s a16 := by
        refine Keeps.fst a18 ?_
        refine Keeps.foldlFst _ _ ?_ (fun u20 x21 => ?_)
        · beta_reduce
          dsimp only
          assumption
        · beta_reduce
          extract_lets +onlyGivenNames x22
          have h23 : Keeps u20.1 x22.1 := by
            unfold x22
            refine Keeps.trans ?_ (State.scoreTile_keeps ..)
            exact Keeps.refl _
          clear_value x22
          dsimp only
          assumption
      extract_lets +onlyGivenNames x24
      clear_value x24
      extract_lets +onlyGivenNames x25
      clear_value x25
      split
      · rename_i a26
        refine Keeps.trans ?_ (State.voidPass_keeps ..)
        assumption
      · rename_i a27
        split
        · rename_i a28
          refine Keeps.upd ?_ rfl rfl rfl
          assumption
        · rename_i a29
          refine Keeps.trans ?_ (State.finishPass_keeps ..)
          assumption
  · rename_i a30 a31 a32
    exact Keeps.refl _

theorem execSearchRound_keeps (corpus : Fin 16) (late : Bool) (s : State) : KeepsO s (execSearchRound corpus late s) := by
  unfold execSearchRound
  refine KeepsO.next ?_
  split
  · rename_i a1 a2
    exact Keeps.refl _
  · rename_i a3 a4 a5
    split
    · rename_i a6
      exact Keeps.refl _
    · rename_i a7
      split
      · rename_i a8
        refine Keeps.trans ?_ (State.voidPass_keeps ..)
        exact Keeps.refl _
      · rename_i a9
        split
        · rename_i a10 a11 a12
          extract_lets +onlyGivenNames x13
          clear_value x13
          refine Keeps.upd ?_ rfl rfl rfl
          exact Keeps.refl _
        · rename_i a14 a15 a16 a17
          refine Keeps.trans ?_ (State.finishPass_keeps ..)
          exact Keeps.refl _

theorem State.abandonPasses_keeps (s : State) : Keeps s (State.abandonPasses s) := by
  unfold State.abandonPasses
  refine Keeps.foldl _ _ ?_ (fun u1 x2 => ?_)
  · beta_reduce
    exact Keeps.refl _
  · beta_reduce
    refine Keeps.trans ?_ (State.voidPass_keeps ..)
    exact Keeps.refl _

theorem execRtvFlipReq_keeps (w : Wr) (s : State) : KeepsO s (execRtvFlipReq w s) := by
  unfold execRtvFlipReq
  split
  rename_i a1 a2 a3 a4
  have h5 : Keeps s a2 := by
    refine Keeps.fst a4 ?_
    refine Keeps.trans ?_ (State.write_keeps ..)
    exact Keeps.refl _
  extract_lets +onlyGivenNames x6
  clear_value x6
  refine KeepsO.next ?_
  split
  · rename_i a7
    assumption
  · rename_i a8
    split
    · rename_i a9 a10
      refine Keeps.trans ?_ (State.put_keeps ..)
      assumption
    · rename_i a11 a12 a13
      extract_lets +onlyGivenNames x14
      clear_value x14
      split
      · rename_i a15
        refine Keeps.trans ?_ (State.put_keeps ..)
        assumption
      · rename_i a16
        split
        · rename_i a17
          assumption
        · rename_i a18
          refine Keeps.upd ?_ rfl rfl rfl
          assumption

theorem State.rtvMile_keeps (s : State) : Keeps s (State.rtvMile s) := by
  unfold State.rtvMile
  refine Keeps.foldl _ _ ?_ (fun u1 x2 => ?_)
  · beta_reduce
    exact Keeps.refl _
  · beta_reduce
    extract_lets +onlyGivenNames x3
    clear_value x3
    extract_lets +onlyGivenNames x4
    have h5 : Keeps u1 x4 := by
      unfold x4
      refine Keeps.upd ?_ rfl rfl rfl
      exact Keeps.refl _
    clear_value x4
    split
    · rename_i a6 a7
      assumption
    · rename_i a8 a9 a10
      extract_lets +onlyGivenNames x11
      clear_value x11
      extract_lets +onlyGivenNames x12
      clear_value x12
      extract_lets +onlyGivenNames x13
      have h14 : Keeps u1 x13 := by
        unfold x13
        refine Keeps.foldl _ _ ?_ (fun u15 x16 => ?_)
        · beta_reduce
          assumption
        · beta_reduce
          refine Keeps.trans ?_ (State.setRole_keeps ..)
          exact Keeps.refl _
      clear_value x13
      extract_lets +onlyGivenNames x17
      have h18 : Keeps u1 x17 := by
        unfold x17
        refine Keeps.foldl _ _ ?_ (fun u19 x20 => ?_)
        · beta_reduce
          assumption
        · beta_reduce
          refine Keeps.trans ?_ (State.setRole_keeps ..)
          exact Keeps.refl _
      clear_value x17
      extract_lets +onlyGivenNames x21
      clear_value x21
      extract_lets +onlyGivenNames x22
      clear_value x22
      refine Keeps.upd ?_ rfl rfl rfl
      assumption

theorem State.rtvFurlong_keeps (s : State) : Keeps s (State.rtvFurlong s) := by
  unfold State.rtvFurlong
  extract_lets +onlyGivenNames x1
  clear_value x1
  extract_lets +onlyGivenNames x2
  clear_value x2
  extract_lets +onlyGivenNames x3
  have h4 : Keeps s x3 := by
    unfold x3
    refine Keeps.upd ?_ rfl rfl rfl
    exact Keeps.refl _
  clear_value x3
  extract_lets +onlyGivenNames x5
  have h6 : Keeps s x5 := by
    unfold x5
    refine Keeps.foldl _ _ ?_ (fun u7 x8 => ?_)
    · beta_reduce
      assumption
    · beta_reduce
      refine Keeps.trans ?_ (State.endQuery_keeps ..)
      exact Keeps.refl _
  clear_value x5
  refine Keeps.foldl _ _ ?_ (fun u9 x10 => ?_)
  · beta_reduce
    assumption
  · beta_reduce
    extract_lets +onlyGivenNames x11
    clear_value x11
    split
    · rename_i a12 a13 a14 a15
      extract_lets +onlyGivenNames x16
      have h17 : Keeps u9 x16 := by
        unfold x16
        refine Keeps.foldl _ _ ?_ (fun u18 x19 => ?_)
        · beta_reduce
          exact Keeps.refl _
        · beta_reduce
          refine Keeps.trans ?_ (State.freeTier_keeps ..)
          exact Keeps.refl _
      clear_value x16
      extract_lets +onlyGivenNames x20
      clear_value x20
      refine Keeps.upd ?_ rfl rfl rfl
      assumption
    · rename_i a21 a22 a23 a24
      exact Keeps.refl _

/-! ### Machine/Trust.lean -/

theorem State.answer_keeps (s : State) (request : ℕ) (code : ℕ) (body : List Byte) : Keeps s (State.answer s request code body) := by
  unfold State.answer
  extract_lets +onlyGivenNames x1
  clear_value x1
  refine Keeps.upd ?_ rfl rfl rfl
  exact Keeps.refl _

theorem execHallmarkReq_keeps (nonce : List Byte) (s : State) : KeepsO s (execHallmarkReq nonce s) := by
  unfold execHallmarkReq
  extract_lets +onlyGivenNames x1
  clear_value x1
  extract_lets +onlyGivenNames x2
  have h3 : Keeps s x2 := by
    unfold x2
    refine Keeps.trans ?_ (State.answer_keeps ..)
    refine Keeps.trans ?_ (State.add_keeps ..)
    refine Keeps.trans ?_ (State.tick_keeps ..)
    exact Keeps.refl _
  clear_value x2
  extract_lets +onlyGivenNames x4
  clear_value x4
  refine KeepsO.next ?_
  split
  · rename_i a5
    exact Keeps.refl _
  · rename_i a6
    refine Keeps.upd ?_ rfl rfl rfl
    assumption

theorem execKeyRelease_keeps (o : List Byte) (c : ReleaseCheck) (s : State) : KeepsO s (execKeyRelease o c s) := by
  unfold execKeyRelease
  extract_lets +onlyGivenNames x1
  clear_value x1
  extract_lets +onlyGivenNames x2
  have h3 : Keeps s x2 := by
    unfold x2
    refine Keeps.trans ?_ (State.put_keeps ..)
    exact Keeps.refl _
  clear_value x2
  extract_lets +onlyGivenNames x4
  clear_value x4
  extract_lets +onlyGivenNames x5
  have h6 : Keeps s x5 := by
    unfold x5
    split
    · rename_i a7
      refine Keeps.trans ?_ (State.put_keeps ..)
      refine Keeps.upd ?_ rfl rfl rfl
      assumption
    · rename_i a8
      refine Keeps.trans ?_ (State.add_keeps ..)
      assumption
  clear_value x5
  extract_lets +onlyGivenNames x9
  have h10 : Keeps s x9 := by
    unfold x9
    refine Keeps.trans ?_ (State.answer_keeps ..)
    assumption
  clear_value x9
  refine KeepsO.next ?_
  split
  · rename_i a11
    exact Keeps.refl _
  · rename_i a12
    split
    · rename_i a13
      refine Keeps.trans ?_ (State.advanceStart_keeps ..)
      assumption
    · rename_i a14
      assumption

theorem execUnsealComplete_keeps (badRows : List (CoreId × EngId × TierId)) (s : State) : KeepsO s (execUnsealComplete badRows s) := by
  unfold execUnsealComplete
  extract_lets +onlyGivenNames x1
  have h2 : Keeps s x1 := by
    unfold x1
    refine Keeps.trans ?_ (State.markBad_keeps ..)
    exact Keeps.refl _
  clear_value x1
  extract_lets +onlyGivenNames x3
  clear_value x3
  extract_lets +onlyGivenNames x4
  have h5 : Keeps s x4 := by
    unfold x4
    refine Keeps.upd ?_ rfl rfl rfl
    assumption
  clear_value x4
  extract_lets +onlyGivenNames x6
  have h7 : Keeps s x6 := by
    unfold x6
    refine Keeps.trans ?_ (State.put_keeps ..)
    assumption
  clear_value x6
  refine KeepsO.next ?_
  split
  · rename_i a8
    exact Keeps.refl _
  · rename_i a9
    refine Keeps.trans ?_ (State.advanceStart_keeps ..)
    split
    · rename_i a10
      refine Keeps.trans ?_ (State.assignRoles_keeps ..)
      assumption
    · rename_i a11
      assumption

theorem State.spdmStep_keeps (s : State) (request : ℕ) (ok : Bool) (body : List Byte) (f : Sec → Sec) : Keeps s (State.spdmStep s request ok body f) := by
  unfold State.spdmStep
  split
  · rename_i a1
    exact Keeps.refl _
  · rename_i a2
    split
    · rename_i a3
      refine Keeps.trans ?_ (State.answer_keeps ..)
      refine Keeps.upd ?_ rfl rfl rfl
      exact Keeps.refl _
    · rename_i a4
      refine Keeps.trans ?_ (State.answer_keeps ..)
      exact Keeps.refl _

theorem execGetVersion_keeps (s : State) : KeepsO s (execGetVersion s) := by
  unfold execGetVersion
  refine KeepsO.next ?_
  refine Keeps.trans ?_ (State.spdmStep_keeps ..)
  exact Keeps.refl _

theorem execGetCapabilities_keeps (s : State) : KeepsO s (execGetCapabilities s) := by
  unfold execGetCapabilities
  refine KeepsO.next ?_
  refine Keeps.trans ?_ (State.spdmStep_keeps ..)
  exact Keeps.refl _

theorem execNegotiateAlgorithms_keeps (common : Bool) (s : State) : KeepsO s (execNegotiateAlgorithms common s) := by
  unfold execNegotiateAlgorithms
  refine KeepsO.next ?_
  refine Keeps.trans ?_ (State.spdmStep_keeps ..)
  exact Keeps.refl _

theorem execGetDigests_keeps (s : State) : KeepsO s (execGetDigests s) := by
  unfold execGetDigests
  refine KeepsO.next ?_
  refine Keeps.trans ?_ (State.spdmStep_keeps ..)
  exact Keeps.refl _

theorem execGetCertificate_keeps (slot : ℕ) (offset : ℕ) (length : ℕ) (s : State) : KeepsO s (execGetCertificate slot offset length s) := by
  unfold execGetCertificate
  refine KeepsO.next ?_
  refine Keeps.trans ?_ (State.spdmStep_keeps ..)
  exact Keeps.refl _

theorem execChallenge_keeps (slot : ℕ) (s : State) : KeepsO s (execChallenge slot s) := by
  unfold execChallenge
  refine KeepsO.next ?_
  refine Keeps.trans ?_ (State.spdmStep_keeps ..)
  exact Keeps.refl _

theorem execGetMeasurements_keeps (index : ℕ) (s : State) : KeepsO s (execGetMeasurements index s) := by
  unfold execGetMeasurements
  extract_lets +onlyGivenNames x1
  clear_value x1
  refine KeepsO.next ?_
  refine Keeps.trans ?_ (State.spdmStep_keeps ..)
  exact Keeps.refl _

theorem execKeyExchange_keeps (slot : ℕ) (s : State) : KeepsO s (execKeyExchange slot s) := by
  unfold execKeyExchange
  refine KeepsO.next ?_
  refine Keeps.trans ?_ (State.spdmStep_keeps ..)
  exact Keeps.refl _

theorem execSpdmFinish_keeps (verifyOk : Bool) (s : State) : KeepsO s (execSpdmFinish verifyOk s) := by
  unfold execSpdmFinish
  extract_lets +onlyGivenNames x1
  clear_value x1
  extract_lets +onlyGivenNames x2
  have h3 : Keeps s x2 := by
    unfold x2
    refine Keeps.trans ?_ (State.spdmStep_keeps ..)
    exact Keeps.refl _
  clear_value x2
  extract_lets +onlyGivenNames x4
  clear_value x4
  refine KeepsO.next ?_
  split
  · rename_i a5
    refine Keeps.trans ?_ (State.put_keeps ..)
    assumption
  · rename_i a6
    refine Keeps.upd ?_ rfl rfl rfl
    assumption

theorem execKeyUpdate_keeps (op : ℕ) (s : State) : KeepsO s (execKeyUpdate op s) := by
  unfold execKeyUpdate
  refine KeepsO.next ?_
  refine Keeps.trans ?_ (State.spdmStep_keeps ..)
  exact Keeps.refl _

theorem execSpdmHeartbeat_keeps (s : State) : KeepsO s (execSpdmHeartbeat s) := by
  unfold execSpdmHeartbeat
  refine KeepsO.next ?_
  refine Keeps.trans ?_ (State.spdmStep_keeps ..)
  exact Keeps.refl _

theorem execEndSession_keeps (s : State) : KeepsO s (execEndSession s) := by
  unfold execEndSession
  extract_lets +onlyGivenNames x1
  have h2 : Keeps s x1 := by
    unfold x1
    refine Keeps.trans ?_ (State.spdmStep_keeps ..)
    exact Keeps.refl _
  clear_value x1
  refine KeepsO.next ?_
  split
  · rename_i a3
    refine Keeps.trans ?_ (State.put_keeps ..)
    assumption
  · rename_i a4
    assumption

theorem execIdeKmKeyProgram_keeps (stream : ℕ) (s : State) : KeepsO s (execIdeKmKeyProgram stream s) := by
  unfold execIdeKmKeyProgram
  extract_lets +onlyGivenNames x1
  clear_value x1
  extract_lets +onlyGivenNames x2
  clear_value x2
  refine KeepsO.next ?_
  split
  · rename_i a3
    exact Keeps.refl _
  · rename_i a4
    refine Keeps.trans ?_ (State.put_keeps ..)
    refine Keeps.upd ?_ rfl rfl rfl
    exact Keeps.refl _

theorem State.ideFails_keeps (s : State) : Keeps s (State.ideFails s) := by
  unfold State.ideFails
  refine Keeps.trans ?_ (State.put_keeps ..)
  refine Keeps.trans ?_ (State.add_keeps ..)
  exact Keeps.refl _

theorem execIdeIntegrityFailure_keeps (stream : ℕ) (s : State) : KeepsO s (execIdeIntegrityFailure stream s) := by
  unfold execIdeIntegrityFailure
  refine KeepsO.next ?_
  split
  · rename_i a1
    refine Keeps.trans ?_ (State.ideFails_keeps ..)
    exact Keeps.refl _
  · rename_i a2
    exact Keeps.refl _

theorem execLockInterface_keeps (s : State) : KeepsO s (execLockInterface s) := by
  unfold execLockInterface
  extract_lets +onlyGivenNames x1
  have h2 : Keeps s x1 := by
    unfold x1
    split
    · rename_i a3
      exact Keeps.refl _
    · rename_i a4
      refine Keeps.trans ?_ (State.put_keeps ..)
      refine Keeps.trans ?_ (State.put_keeps ..)
      exact Keeps.refl _
  clear_value x1
  extract_lets +onlyGivenNames x5
  clear_value x5
  refine KeepsO.next ?_
  split
  · rename_i a6
    refine Keeps.trans ?_ (State.put_keeps ..)
    refine Keeps.upd ?_ rfl rfl rfl
    assumption
  · rename_i a7
    exact Keeps.refl _

theorem execStartInterface_keeps (s : State) : KeepsO s (execStartInterface s) := by
  unfold execStartInterface
  refine KeepsO.next ?_
  split
  · rename_i a1
    refine Keeps.trans ?_ (State.put_keeps ..)
    exact Keeps.refl _
  · rename_i a2
    exact Keeps.refl _

theorem State.unlockTdi_keeps (s : State) : Keeps s (State.unlockTdi s) := by
  unfold State.unlockTdi
  extract_lets +onlyGivenNames x1
  clear_value x1
  refine Keeps.trans ?_ (State.put_keeps ..)
  refine Keeps.upd ?_ rfl rfl rfl
  exact Keeps.refl _

theorem execStopInterface_keeps (s : State) : KeepsO s (execStopInterface s) := by
  unfold execStopInterface
  refine KeepsO.next ?_
  refine Keeps.trans ?_ (State.unlockTdi_keeps ..)
  exact Keeps.refl _

theorem execFunctionLevelReset_keeps (s : State) : KeepsO s (execFunctionLevelReset s) := by
  unfold execFunctionLevelReset
  refine KeepsO.next ?_
  refine Keeps.trans ?_ (State.unlockTdi_keeps ..)
  exact Keeps.refl _

theorem execSecWdogKick_keeps (w : Wr) (s : State) : KeepsO s (execSecWdogKick w s) := by
  unfold execSecWdogKick
  split
  rename_i a1 a2 a3 a4
  have h5 : Keeps s a2 := by
    refine Keeps.fst a4 ?_
    refine Keeps.trans ?_ (State.write_keeps ..)
    exact Keeps.refl _
  refine KeepsO.next ?_
  split
  · rename_i a6
    split
    rename_i a7 a8 a9 a10
    have h11 : Keeps s a8 := by
      refine Keeps.fst a10 ?_
      refine Keeps.trans ?_ (State.tryInject_keeps ..)
      assumption
    extract_lets +onlyGivenNames x12
    clear_value x12
    refine Keeps.upd ?_ rfl rfl rfl
    assumption
  · rename_i a13
    assumption

theorem execWatchdogExpiry_keeps (s : State) : KeepsO s (execWatchdogExpiry s) := by
  unfold execWatchdogExpiry
  extract_lets +onlyGivenNames x1
  have h2 : Keeps s x1 := by
    unfold x1
    refine Keeps.trans ?_ (State.put_keeps ..)
    exact Keeps.refl _
  clear_value x1
  refine KeepsO.next ?_
  split
  · rename_i a3
    split
    · rename_i a4
      refine Keeps.trans ?_ (State.put_keeps ..)
      assumption
    · rename_i a5
      refine Keeps.trans ?_ (State.enterChrysalis_keeps ..)
      assumption
  · rename_i a6
    exact Keeps.refl _

theorem State.violate_keeps (s : State) (f : Fld) : Keeps s (State.violate s f) := by
  unfold State.violate
  refine Keeps.trans ?_ (State.add_keeps ..)
  refine Keeps.trans ?_ (State.put_keeps ..)
  exact Keeps.refl _

theorem execControlCoreBreach_keeps (b : Breach) (s : State) : KeepsO s (execControlCoreBreach b s) := by
  unfold execControlCoreBreach
  refine KeepsO.next ?_
  split
  · rename_i a1
    refine Keeps.trans ?_ (State.violate_keeps ..)
    exact Keeps.refl _
  · rename_i a2 a3
    extract_lets +onlyGivenNames x4
    clear_value x4
    split
    · rename_i a5
      refine Keeps.upd ?_ rfl rfl rfl
      exact Keeps.refl _
    · rename_i a6
      refine Keeps.trans ?_ (State.violate_keeps ..)
      exact Keeps.refl _
  · rename_i a7
    refine Keeps.trans ?_ (State.violate_keeps ..)
    exact Keeps.refl _
  · rename_i a8
    refine Keeps.trans ?_ (State.violate_keeps ..)
    exact Keeps.refl _
  · rename_i a9
    split
    · rename_i a10
      refine Keeps.trans ?_ (State.violate_keeps ..)
      exact Keeps.refl _
    · rename_i a11
      exact Keeps.refl _
  · rename_i a12 a13
    split
    · rename_i a14
      exact Keeps.refl _
    · rename_i a15
      refine Keeps.trans ?_ (State.raiseVarReq_keeps ..)
      exact Keeps.refl _

theorem State.fireAtOnce_keeps (s : State) (a : Armed) : Keeps s (State.fireAtOnce s a) := by
  unfold State.fireAtOnce
  extract_lets +onlyGivenNames x1
  have h2 : Keeps s x1 := by
    unfold x1
    refine Keeps.trans ?_ (State.fired_keeps ..)
    exact Keeps.refl _
  clear_value x1
  extract_lets +onlyGivenNames x3
  extract_lets +onlyGivenNames x4
  have h5 : Keeps s x4 := by
    unfold x4
    refine Keeps.upd ?_ rfl rfl rfl
    assumption
  clear_value x4
  split
  · rename_i a6
    split
    · rename_i a7
      assumption
    · rename_i a8
      refine Keeps.trans ?_ (State.put_keeps ..)
      refine Keeps.trans ?_ (State.put_keeps ..)
      assumption
  · rename_i a9
    split
    · rename_i a10
      refine Keeps.trans ?_ (State.ideFails_keeps ..)
      refine Keeps.trans ?_ (State.fired_keeps ..)
      exact Keeps.refl _
    · rename_i a11
      exact Keeps.refl _

theorem State.disarm_keeps (s : State) : Keeps s (State.disarm s) := by
  unfold State.disarm
  split
  · rename_i a1 a2
    exact Keeps.refl _
  · rename_i a3 a4 a5
    extract_lets +onlyGivenNames x6
    clear_value x6
    extract_lets +onlyGivenNames x7
    have h8 : Keeps s x7 := by
      unfold x7
      refine Keeps.trans ?_ (State.put_keeps ..)
      refine Keeps.upd ?_ rfl rfl rfl
      exact Keeps.refl _
    clear_value x7
    split
    · rename_i a9
      refine Keeps.trans ?_ (State.putAt_keeps ..)
      refine Keeps.trans ?_ (State.putAt_keeps ..)
      assumption
    · rename_i a10
      assumption

theorem execInjArm_keeps (w : Wr) (s : State) : KeepsO s (execInjArm w s) := by
  unfold execInjArm
  split
  rename_i a1 a2 a3 a4
  have h5 : Keeps s a2 := by
    refine Keeps.fst a4 ?_
    refine Keeps.trans ?_ (State.write_keeps ..)
    exact Keeps.refl _
  extract_lets +onlyGivenNames x6
  have h7 : Keeps s x6 := by
    unfold x6
    refine Keeps.trans ?_ (State.disarm_keeps ..)
    assumption
  clear_value x6
  extract_lets +onlyGivenNames x8
  clear_value x8
  extract_lets +onlyGivenNames x9
  clear_value x9
  extract_lets +onlyGivenNames x10
  have h11 : Keeps s x10 := by
    unfold x10
    refine Keeps.trans ?_ (State.put_keeps ..)
    refine Keeps.upd ?_ rfl rfl rfl
    assumption
  clear_value x10
  extract_lets +onlyGivenNames x12
  have h13 : Keeps s x12 := by
    unfold x12
    split
    · rename_i a14
      refine Keeps.trans ?_ (State.putAt_keeps ..)
      refine Keeps.trans ?_ (State.putAt_keeps ..)
      assumption
    · rename_i a15
      assumption
  clear_value x12
  refine KeepsO.next ?_
  split
  · rename_i a16
    refine Keeps.trans ?_ (State.fireAtOnce_keeps ..)
    assumption
  · rename_i a17
    assumption

end Sys2Proof.Machine
end

