-- ==== Sys2Proof/Laws/Keeps10.lean ====
section
/-! SUPPORT. The operations and meanings of Machine leave the queue alone and keep the invariant: Registers, Admission, Boundaries. -/
namespace Sys2Proof.Machine

/-! ### Machine/Registers.lean -/

theorem State.setBox_keeps (s : State) (p : PortId) (b : Mailbox) : Keeps s (State.setBox s p b) := by
  unfold State.setBox
  split
  · rename_i a1
    refine Keeps.upd ?_ rfl rfl rfl
    exact Keeps.refl _
  · rename_i a2
    refine Keeps.upd ?_ rfl rfl rfl
    exact Keeps.refl _

theorem State.monCtrl_keeps (s : State) : Keeps s (State.monCtrl s) := by
  unfold State.monCtrl
  extract_lets +onlyGivenNames x1
  clear_value x1
  extract_lets +onlyGivenNames x2
  clear_value x2
  extract_lets +onlyGivenNames x3
  have h4 : Keeps s x3 := by
    unfold x3
    split
    · rename_i a5
      refine Keeps.upd ?_ rfl rfl rfl
      exact Keeps.refl _
    · rename_i a6
      exact Keeps.refl _
  clear_value x3
  extract_lets +onlyGivenNames x7
  have h8 : Keeps s x7 := by
    unfold x7
    refine Keeps.trans ?_ (State.flag_keeps ..)
    assumption
  clear_value x7
  split
  · rename_i a9
    assumption
  · rename_i a10
    refine Keeps.trans ?_ (State.put_keeps ..)
    assumption

theorem State.standing_keeps (s : State) : Keeps s (State.standing s) := by
  unfold State.standing
  extract_lets +onlyGivenNames x1
  have h2 : Keeps s x1 := by
    unfold x1
    refine Keeps.trans ?_ (State.raiseIfAt_keeps ..)
    refine Keeps.trans ?_ (State.raiseIfAt_keeps ..)
    exact Keeps.refl _
  clear_value x1
  refine Keeps.trans ?_ (State.raiseIfAt_keeps ..)
  assumption

theorem State.plainWrite_keeps (s : State) (a : ℕ) (w : Wr) : Keeps s (State.plainWrite s a w) := by
  unfold State.plainWrite
  split
  rename_i a1 a2 a3 a4
  have h5 : Keeps s a2 := by
    refine Keeps.fst a4 ?_
    refine Keeps.trans ?_ (State.write_keeps ..)
    exact Keeps.refl _
  extract_lets +onlyGivenNames x6
  have h7 : Keeps s x6 := by
    unfold x6
    split
    · rename_i a8
      refine Keeps.trans ?_ (State.monCtrl_keeps ..)
      assumption
    · rename_i a9
      assumption
  clear_value x6
  refine Keeps.trans ?_ (State.settle_keeps ..)
  split
  · rename_i a10
    refine Keeps.trans ?_ (State.standing_keeps ..)
    assumption
  · rename_i a11
    assumption

theorem execCfgSealSet_keeps (w : Wr) (s : State) : KeepsO s (execCfgSealSet w s) := by
  unfold execCfgSealSet
  refine KeepsO.next ?_
  refine Keeps.trans ?_ (State.write_keeps ..)
  exact Keeps.refl _

theorem execWideSelWrite_keeps (w : Wr) (s : State) : KeepsO s (execWideSelWrite w s) := by
  unfold execWideSelWrite
  split
  rename_i a1 a2 a3 a4
  have h5 : Keeps s a2 := by
    refine Keeps.fst a4 ?_
    refine Keeps.trans ?_ (State.write_keeps ..)
    exact Keeps.refl _
  refine KeepsO.next ?_
  split
  · rename_i a6 a7
    have h8 : Keeps s a2 := by
      refine Keeps.fst a4 ?_
      refine Keeps.trans ?_ (State.write_keeps ..)
      exact Keeps.refl _
    extract_lets +onlyGivenNames x9
    clear_value x9
    refine Keeps.trans ?_ (State.setBox_keeps ..)
    assumption
  · rename_i a10
    have h11 : Keeps s a2 := by
      refine Keeps.fst a4 ?_
      refine Keeps.trans ?_ (State.write_keeps ..)
      exact Keeps.refl _
    assumption

theorem execWideSnapshotDone_keeps (port : PortId) (s : State) : KeepsO s (execWideSnapshotDone port s) := by
  unfold execWideSnapshotDone
  extract_lets +onlyGivenNames x1
  clear_value x1
  refine KeepsO.next ?_
  split
  · rename_i a2
    exact Keeps.refl _
  · rename_i a3
    split
    · rename_i a4 a5 a6
      refine Keeps.trans ?_ (State.setBox_keeps ..)
      exact Keeps.refl _
    · rename_i a7 a8
      refine Keeps.trans ?_ (State.setBox_keeps ..)
      exact Keeps.refl _

theorem State.crcCommit_keeps (s : State) (ref : Word) : Keeps s (State.crcCommit s ref) := by
  unfold State.crcCommit
  extract_lets +onlyGivenNames x1
  have h2 : Keeps s x1 := by
    unfold x1
    refine Keeps.trans ?_ (State.put_keeps ..)
    refine Keeps.trans ?_ (State.put_keeps ..)
    refine Keeps.trans ?_ (State.put_keeps ..)
    exact Keeps.refl _
  clear_value x1
  refine Keeps.upd ?_ rfl rfl rfl
  assumption

theorem State.crcCtrl_keeps (s : State) (w : Wr) : Keeps s (State.crcCtrl s w) := by
  unfold State.crcCtrl
  split
  rename_i a1 a2 a3 a4
  have h5 : Keeps s a2 := by
    refine Keeps.fst a4 ?_
    refine Keeps.trans ?_ (State.write_keeps ..)
    exact Keeps.refl _
  extract_lets +onlyGivenNames x6
  clear_value x6
  split
  · rename_i a7
    refine Keeps.trans ?_ (State.crcCommit_keeps ..)
    assumption
  · rename_i a8
    split
    · rename_i a9
      refine Keeps.upd ?_ rfl rfl rfl
      assumption
    · rename_i a10
      assumption

theorem execCfgCrcCommit_keeps (w : Wr) (s : State) : KeepsO s (execCfgCrcCommit w s) := by
  unfold execCfgCrcCommit
  refine KeepsO.next ?_
  refine Keeps.trans ?_ (State.crcCtrl_keeps ..)
  exact Keeps.refl _

theorem execCfgCrcAdopt_keeps (w : Wr) (s : State) : KeepsO s (execCfgCrcAdopt w s) := by
  unfold execCfgCrcAdopt
  refine KeepsO.next ?_
  refine Keeps.trans ?_ (State.crcCtrl_keeps ..)
  exact Keeps.refl _

theorem State.crcAlarm_keeps (s : State) (injected : Bool) : Keeps s (State.crcAlarm s injected) := by
  unfold State.crcAlarm
  refine Keeps.trans ?_ (State.faultRecord_keeps ..)
  refine Keeps.trans ?_ (State.add_keeps ..)
  refine Keeps.trans ?_ (State.put_keeps ..)
  exact Keeps.refl _

theorem execCrcPassEnd_keeps (s : State) : KeepsO s (execCrcPassEnd s) := by
  unfold execCrcPassEnd
  refine KeepsO.next ?_
  split
  · rename_i a1
    exact Keeps.refl _
  · rename_i a2
    split
    rename_i a3 a4 a5 a6
    have h7 : Keeps s a4 := by
      refine Keeps.fst a6 ?_
      refine Keeps.trans ?_ (State.tryInject_keeps ..)
      exact Keeps.refl _
    extract_lets +onlyGivenNames x8
    clear_value x8
    extract_lets +onlyGivenNames x9
    have h10 : Keeps s x9 := by
      unfold x9
      refine Keeps.trans ?_ (State.put_keeps ..)
      assumption
    clear_value x9
    extract_lets +onlyGivenNames x11
    clear_value x11
    extract_lets +onlyGivenNames x12
    have h13 : Keeps s x12 := by
      unfold x12
      split
      · rename_i a14
        refine Keeps.upd ?_ rfl rfl rfl
        assumption
      · rename_i a15
        assumption
    clear_value x12
    extract_lets +onlyGivenNames x16
    clear_value x16
    extract_lets +onlyGivenNames x17
    have h18 : Keeps s x17 := by
      unfold x17
      refine Keeps.trans ?_ (State.flag_keeps ..)
      assumption
    clear_value x17
    extract_lets +onlyGivenNames x19
    clear_value x19
    split
    · rename_i a20
      refine Keeps.trans ?_ (State.put_keeps ..)
      refine Keeps.trans ?_ (State.crcCommit_keeps ..)
      assumption
    · rename_i a21
      split
      · rename_i a22
        assumption
      · rename_i a23
        split
        · rename_i a24
          refine Keeps.trans ?_ (State.crcAlarm_keeps ..)
          assumption
        · rename_i a25
          assumption

theorem execMsixTableWrite_keeps (vector : Fin 64) (mask : Bool) (s : State) : KeepsO s (execMsixTableWrite vector mask s) := by
  unfold execMsixTableWrite
  refine KeepsO.next ?_
  split
  · exact Keeps.refl s
  · split
    · exact Keeps.same rfl rfl rfl rfl rfl rfl
    · dsimp only
      split
      · refine Keeps.trans ?_ (State.sendVector_keeps ..)
        exact Keeps.same rfl rfl rfl rfl rfl rfl
      · exact Keeps.same rfl rfl rfl rfl rfl rfl

theorem KeepsO.ite {c : Prop} [Decidable c] {s : State} {a b : Host.Outcome State Fault Refusal} (ha : KeepsO s a)
    (hb : KeepsO s b) : KeepsO s (if c then a else b) := by
  by_cases h : c
  · rw [if_pos h]; exact ha
  · rw [if_neg h]; exact hb

theorem KeepsO.dite {c : Prop} [Decidable c] {s : State} {a : c → Host.Outcome State Fault Refusal}
    {b : Host.Outcome State Fault Refusal} (ha : ∀ h, KeepsO s (a h)) (hb : KeepsO s b) : KeepsO s (if h : c then a h else b) := by
  by_cases h : c
  · rw [dif_pos h]; exact ha h
  · rw [dif_neg h]; exact hb

theorem execRegisterWrite_keeps (addr : Nat) (w : Wr) (s : State) : KeepsO s (execRegisterWrite addr w s) := by
  unfold execRegisterWrite
  refine KeepsO.ite (execTbVarReq_keeps w s) ?_
  refine KeepsO.ite (execAszForceRound_keeps w s) ?_
  refine KeepsO.ite (execTestBusCaptureArm_keeps w s) ?_
  refine KeepsO.ite (KeepsO.dite (fun _ => execRtrMarkA_keeps _ w s) (KeepsO.next (Keeps.refl s))) ?_
  refine KeepsO.ite (KeepsO.dite (fun _ => execLnkRetrain_keeps _ w s) (KeepsO.next (Keeps.refl s))) ?_
  refine KeepsO.ite (execIntakeEnWrite_keeps w s) ?_
  refine KeepsO.ite (execLdStart_keeps w s) ?_
  refine KeepsO.ite (execLdFlipReq_keeps w s) ?_
  refine KeepsO.ite (execSecWdogKick_keeps w s) ?_
  refine KeepsO.ite (execTrapLoad_keeps w s) ?_
  refine KeepsO.ite (execInjArm_keeps w s) ?_
  refine KeepsO.ite (execRtvFlipReq_keeps w s) ?_
  refine KeepsO.ite (execCfgSealSet_keeps w s) ?_
  refine KeepsO.ite (execWideSelWrite_keeps w s) ?_
  refine KeepsO.ite (execCfgCrcCommit_keeps w s) ?_
  exact KeepsO.next (State.plainWrite_keeps ..)

theorem State.faultSum_keeps (s : State) : Keeps s (State.faultSum s) := by
  unfold State.faultSum
  extract_lets +onlyGivenNames x1
  clear_value x1
  extract_lets +onlyGivenNames x2
  clear_value x2
  extract_lets +onlyGivenNames x3
  clear_value x3
  extract_lets +onlyGivenNames x4
  have h5 : Keeps s x4 := by
    unfold x4
    refine Keeps.trans ?_ (State.wr_keeps ..)
    exact Keeps.refl _
  clear_value x4
  split
  · rename_i a6
    assumption
  · rename_i a7
    refine Keeps.trans ?_ (State.sendVector_keeps ..)
    assumption

/-! ### Machine/Admission.lean -/

theorem State.showAdmit_keeps (s : State) (passed : List ℕ) (failed : Bool) : Keeps s (State.showAdmit s passed failed) := by
  unfold State.showAdmit
  extract_lets +onlyGivenNames x1
  clear_value x1
  extract_lets +onlyGivenNames x2
  extract_lets +onlyGivenNames x3
  clear_value x3
  extract_lets +onlyGivenNames x4
  have h5 : Keeps s x4 := by
    unfold x4
    refine Keeps.trans ?_ (State.put_keeps ..)
    refine Keeps.trans ?_ (State.put_keeps ..)
    exact Keeps.refl _
  clear_value x4
  extract_lets +onlyGivenNames x6
  have h7 : Keeps s x6 := by
    unfold x6
    refine Keeps.trans ?_ (State.put_keeps ..)
    refine Keeps.trans ?_ (State.flag_keeps ..)
    assumption
  clear_value x6
  extract_lets +onlyGivenNames x8
  have h9 : Keeps s x8 := by
    unfold x8
    refine Keeps.trans ?_ (State.add_keeps ..)
    assumption
  clear_value x8
  split
  · rename_i a10
    refine Keeps.trans ?_ (State.add_keeps ..)
    assumption
  · rename_i a11
    assumption

theorem State.admStat_keeps (s : State) (state : ℕ) (code : ℕ) (item : ℕ) : Keeps s (State.admStat s state code item) := by
  unfold State.admStat
  refine Keeps.trans ?_ (State.flag_keeps ..)
  refine Keeps.trans ?_ (State.put_keeps ..)
  refine Keeps.trans ?_ (State.put_keeps ..)
  refine Keeps.trans ?_ (State.put_keeps ..)
  exact Keeps.refl _

theorem State.initReg_keeps (s : State) (a : ℕ) (v : Word) : Keeps s (State.initReg s a v) := by
  unfold State.initReg
  split
  · rename_i a1 a2
    exact Keeps.refl _
  · rename_i a3 a4 a5
    refine Keeps.trans ?_ (State.wr_keeps ..)
    exact Keeps.refl _

theorem State.loadTables_keeps (s : State) : Keeps s (State.loadTables s) := by
  unfold State.loadTables
  extract_lets +onlyGivenNames x1
  have h2 : Keeps s x1 := by
    unfold x1
    refine Keeps.foldl _ _ ?_ (fun u3 x4 => ?_)
    · beta_reduce
      exact Keeps.refl _
    · beta_reduce
      refine Keeps.trans ?_ (State.initReg_keeps ..)
      exact Keeps.refl _
  clear_value x1
  extract_lets +onlyGivenNames x5
  have h6 : Keeps s x5 := by
    unfold x5
    refine Keeps.trans ?_ (State.fillRestore_keeps ..)
    refine Keeps.trans ?_ (State.loadDirs_keeps ..)
    assumption
  clear_value x5
  extract_lets +onlyGivenNames x7
  clear_value x7
  refine Keeps.trans ?_ (State.crcCommit_keeps ..)
  refine Keeps.trans ?_ (State.wr_keeps ..)
  assumption

theorem State.takeVariant_keeps (s : State) (v : ℕ) : Keeps s (State.takeVariant s v) := by
  unfold State.takeVariant
  extract_lets +onlyGivenNames x1
  extract_lets +onlyGivenNames x2
  clear_value x2
  refine Keeps.upd ?_ rfl rfl rfl
  exact Keeps.refl _

theorem State.setAdmitted_keeps (s : State) : Keeps s (State.setAdmitted s) := by
  unfold State.setAdmitted
  extract_lets +onlyGivenNames x1
  clear_value x1
  refine Keeps.upd ?_ rfl rfl rfl
  exact Keeps.refl _

theorem State.setStartDue_keeps (s : State) : Keeps s (State.setStartDue s) := by
  unfold State.setStartDue
  extract_lets +onlyGivenNames x1
  clear_value x1
  refine Keeps.upd ?_ rfl rfl rfl
  exact Keeps.refl _

theorem State.passVariant_keeps (s : State) (v : ℕ) : Keeps s (State.passVariant s v) := by
  unfold State.passVariant
  extract_lets +onlyGivenNames x1
  have h2 : Keeps s x1 := by
    unfold x1
    refine Keeps.trans ?_ (State.put_keeps ..)
    refine Keeps.trans ?_ (State.takeVariant_keeps ..)
    exact Keeps.refl _
  clear_value x1
  split
  · rename_i a3
    refine Keeps.trans ?_ (State.setStartDue_keeps ..)
    refine Keeps.trans ?_ (State.admStat_keeps ..)
    assumption
  · rename_i a4
    refine Keeps.trans ?_ (State.wantStart_keeps ..)
    refine Keeps.trans ?_ (State.setAdmitted_keeps ..)
    refine Keeps.trans ?_ (State.admStat_keeps ..)
    refine Keeps.trans ?_ (State.put_keeps ..)
    assumption

theorem State.admitFail_keeps (s : State) : Keeps s (State.admitFail s) := by
  unfold State.admitFail
  extract_lets +onlyGivenNames x1
  extract_lets +onlyGivenNames x2
  clear_value x2
  refine Keeps.trans ?_ (State.completeAll_keeps ..)
  refine Keeps.trans ?_ (State.put_keeps ..)
  refine Keeps.trans ?_ (State.put_keeps ..)
  refine Keeps.upd ?_ rfl rfl rfl
  exact Keeps.refl _

theorem State.failInForce_keeps (s : State) (code : ℕ) (item : ℕ) : Keeps s (State.failInForce s code item) := by
  unfold State.failInForce
  split
  · rename_i a1 a2 a3
    extract_lets +onlyGivenNames x4
    have h5 : Keeps s x4 := by
      unfold x4
      refine Keeps.trans ?_ (State.admStat_keeps ..)
      exact Keeps.refl _
    clear_value x4
    extract_lets +onlyGivenNames x6
    clear_value x6
    split
    · rename_i a7
      refine Keeps.trans ?_ (State.passVariant_keeps ..)
      exact Keeps.refl _
    · rename_i a8
      refine Keeps.trans ?_ (State.raiseVarReq_keeps ..)
      refine Keeps.upd ?_ rfl rfl rfl
      assumption
  · rename_i a9 a10
    extract_lets +onlyGivenNames x11
    have h12 : Keeps s x11 := by
      unfold x11
      refine Keeps.trans ?_ (State.admStat_keeps ..)
      refine Keeps.trans ?_ (State.put_keeps ..)
      exact Keeps.refl _
    clear_value x11
    extract_lets +onlyGivenNames x13
    extract_lets +onlyGivenNames x14
    clear_value x14
    split
    · rename_i a15
      refine Keeps.upd ?_ rfl rfl rfl
      assumption
    · rename_i a16
      refine Keeps.trans ?_ (State.admitFail_keeps ..)
      assumption

theorem execAdmissionRun_keeps (s : State) : KeepsO s (execAdmissionRun s) := by
  unfold execAdmissionRun
  extract_lets +onlyGivenNames x1
  clear_value x1
  extract_lets +onlyGivenNames x2
  clear_value x2
  extract_lets +onlyGivenNames x3
  have h4 : Keeps s x3 := by
    unfold x3
    refine Keeps.upd ?_ rfl rfl rfl
    exact Keeps.refl _
  extract_lets +onlyGivenNames x5
  clear_value x5
  extract_lets +onlyGivenNames x6
  have h7 : Keeps s x6 := by
    unfold x6
    split
    · rename_i a8
      refine Keeps.trans ?_ (State.loadTables_keeps ..)
      assumption
    · rename_i a9
      assumption
  clear_value x6
  extract_lets +onlyGivenNames x10
  clear_value x10
  extract_lets +onlyGivenNames x11
  clear_value x11
  extract_lets +onlyGivenNames x12
  clear_value x12
  extract_lets +onlyGivenNames x13
  clear_value x13
  extract_lets +onlyGivenNames x14
  clear_value x14
  extract_lets +onlyGivenNames x15
  have h16 : Keeps s x15 := by
    unfold x15
    refine Keeps.trans ?_ (State.showAdmit_keeps ..)
    assumption
  clear_value x15
  extract_lets +onlyGivenNames x17
  clear_value x17
  extract_lets +onlyGivenNames x18
  have h19 : Keeps s x18 := by
    unfold x18
    split
    · rename_i a20
      refine Keeps.trans ?_ (State.passVariant_keeps ..)
      assumption
    · rename_i a21 a22
      extract_lets +onlyGivenNames x23
      have h24 : Keeps s x23 := by
        unfold x23
        refine Keeps.trans ?_ (State.admStat_keeps ..)
        assumption
      clear_value x23
      split
      · rename_i a25
        refine Keeps.trans ?_ (State.failInForce_keeps ..)
        assumption
      · rename_i a26
        refine Keeps.upd ?_ rfl rfl rfl
        assumption
  clear_value x18
  refine KeepsO.next ?_
  split
  · rename_i a27
    exact Keeps.refl _
  · rename_i a28
    refine Keeps.trans ?_ (State.advanceStart_keeps ..)
    refine Keeps.trans ?_ (State.recheckSwitches_keeps ..)
    assumption

theorem execMcAdmissionCommand_keeps (s : State) : KeepsO s (execMcAdmissionCommand s) := by
  unfold execMcAdmissionCommand
  refine KeepsO.next ?_
  split
  · rename_i a1
    refine Keeps.trans ?_ (State.reAdmit_keeps ..)
    exact Keeps.refl _
  · rename_i a2
    exact Keeps.refl _

/-! ### Machine/Boundaries.lean -/

theorem State.countRod_keeps (s : State) : Keeps s s.countRod := by
  refine ⟨rfl, fun i => ⟨⟨i.1.1, i.1.2, i.1.3, i.1.4⟩, ?_⟩⟩
  show (if s.isSet TB_STAT_RUNNING = true then (s.tb.rod + 1) % rodP else s.tb.rod) < rodP
  split
  · exact Nat.mod_lt _ (by decide)
  · exact i.2

theorem State.refInjOver_keeps (s : State) : Keeps s (State.refInjOver s) := by
  unfold State.refInjOver
  extract_lets +onlyGivenNames x1
  split
  · rename_i a2
    refine Keeps.trans ?_ (State.refclkReturn_keeps ..)
    refine Keeps.upd ?_ rfl rfl rfl
    exact Keeps.refl _
  · rename_i a3
    exact Keeps.refl _

theorem State.stopNow_keeps (s : State) : Keeps s (State.stopNow s) := by
  unfold State.stopNow
  extract_lets +onlyGivenNames x1
  split
  · rename_i a2
    refine Keeps.trans ?_ (State.abandonPasses_keeps ..)
    refine Keeps.trans ?_ (State.settle_keeps ..)
    refine Keeps.trans ?_ (State.stopSequencers_keeps ..)
    refine Keeps.upd ?_ rfl rfl rfl
    exact Keeps.refl _
  · rename_i a3
    exact Keeps.refl _

theorem State.loadDue_keeps (s : State) : Keeps s (State.loadDue s) := by
  unfold State.loadDue
  extract_lets +onlyGivenNames x1
  clear_value x1
  extract_lets +onlyGivenNames x2
  clear_value x2
  refine Keeps.upd ?_ rfl rfl rfl
  exact Keeps.refl _

theorem execRodBoundary_keeps (s : State) : KeepsO s (execRodBoundary s) := by
  unfold execRodBoundary
  extract_lets +onlyGivenNames x1
  have h2 : Keeps s x1 := by
    unfold x1
    refine Keeps.trans ?_ (State.refInjOver_keeps ..)
    refine Keeps.trans ?_ (State.countRod_keeps ..)
    refine Keeps.trans ?_ (State.judgeEdge_keeps ..)
    exact Keeps.refl _
  clear_value x1
  extract_lets +onlyGivenNames x3
  have h4 : Keeps s x3 := by
    unfold x3
    split
    · rename_i a5
      refine Keeps.trans ?_ (State.mileEdge_keeps ..)
      assumption
    · rename_i a6
      assumption
  clear_value x3
  extract_lets +onlyGivenNames x7
  have h8 : Keeps s x7 := by
    unfold x7
    refine Keeps.trans ?_ (State.applyMarks_keeps ..)
    refine Keeps.trans ?_ (State.clockAtRod_keeps ..)
    refine Keeps.trans ?_ (State.stopNow_keeps ..)
    assumption
  clear_value x7
  refine KeepsO.next ?_
  refine Keeps.trans ?_ (State.faultSum_keeps ..)
  refine Keeps.trans ?_ (State.loadDue_keeps ..)
  refine Keeps.trans ?_ (State.fabRod_keeps ..)
  refine Keeps.trans ?_ (State.meshRod_keeps ..)
  assumption

theorem State.warmTiers_keeps (s : State) : Keeps s (State.warmTiers s) := by
  unfold State.warmTiers
  refine Keeps.foldl _ _ ?_ (fun u1 x2 => ?_)
  · beta_reduce
    exact Keeps.refl _
  · beta_reduce
    split
    · rename_i a3 a4
      exact Keeps.refl _
    · rename_i a5 a6 a7
      refine Keeps.foldl _ _ ?_ (fun u8 x9 => ?_)
      · beta_reduce
        exact Keeps.refl _
      · beta_reduce
        extract_lets +onlyGivenNames x10
        clear_value x10
        split
        · rename_i a11 a12
          exact Keeps.refl _
        · rename_i a13 a14 a15
          extract_lets +onlyGivenNames x16
          clear_value x16
          split
          · rename_i a17
            refine Keeps.trans ?_ (State.setTierCal_keeps ..)
            exact Keeps.refl _
          · rename_i a18
            exact Keeps.refl _

theorem State.tableFurlong_keeps (s : State) : Keeps s (State.tableFurlong s) := by
  unfold State.tableFurlong
  extract_lets +onlyGivenNames x1
  clear_value x1
  extract_lets +onlyGivenNames x2
  clear_value x2
  extract_lets +onlyGivenNames x3
  have h4 : Keeps s x3 := by
    unfold x3
    refine Keeps.upd ?_ rfl rfl rfl
    exact Keeps.refl _
  clear_value x3
  refine Keeps.foldl _ _ ?_ (fun u5 x6 => ?_)
  · beta_reduce
    assumption
  · beta_reduce
    refine Keeps.trans ?_ (State.weightsUpdate_keeps ..)
    refine Keeps.trans ?_ (State.applyUpdate_keeps ..)
    exact Keeps.refl _

theorem State.furlongCounts_keeps (s : State) : Keeps s (State.furlongCounts s) := by
  unfold State.furlongCounts
  extract_lets +onlyGivenNames x1
  have h2 : Keeps s x1 := by
    unfold x1
    refine Keeps.upd ?_ rfl rfl rfl
    exact Keeps.refl _
  clear_value x1
  extract_lets +onlyGivenNames x3
  have h4 : Keeps s x3 := by
    unfold x3
    refine Keeps.foldl _ _ ?_ (fun u5 x6 => ?_)
    · beta_reduce
      assumption
    · beta_reduce
      extract_lets +onlyGivenNames x7
      clear_value x7
      extract_lets +onlyGivenNames x8
      have h9 : Keeps u5 x8 := by
        unfold x8
        refine Keeps.trans ?_ (State.putAt_keeps ..)
        exact Keeps.refl _
      clear_value x8
      extract_lets +onlyGivenNames x10
      clear_value x10
      extract_lets +onlyGivenNames x11
      clear_value x11
      extract_lets +onlyGivenNames x12
      refine Keeps.upd ?_ rfl rfl rfl
      assumption
  clear_value x3
  extract_lets +onlyGivenNames x13
  extract_lets +onlyGivenNames x14
  have h15 : Keeps s x14 := by
    unfold x14
    refine Keeps.upd ?_ rfl rfl rfl
    assumption
  clear_value x14
  extract_lets +onlyGivenNames x16
  clear_value x16
  extract_lets +onlyGivenNames x17
  have h18 : Keeps s x17 := by
    unfold x17
    refine Keeps.foldl _ _ ?_ (fun u19 x20 => ?_)
    · beta_reduce
      assumption
    · beta_reduce
      extract_lets +onlyGivenNames x21
      clear_value x21
      extract_lets +onlyGivenNames x22
      have h23 : Keeps u19 x22 := by
        unfold x22
        refine Keeps.trans ?_ (State.putAt_keeps ..)
        exact Keeps.refl _
      clear_value x22
      extract_lets +onlyGivenNames x24
      have h25 : Keeps u19 x24 := by
        unfold x24
        refine Keeps.trans ?_ (State.putAt_keeps ..)
        assumption
      clear_value x24
      refine Keeps.trans ?_ (State.putAt_keeps ..)
      assumption
  clear_value x17
  extract_lets +onlyGivenNames x26
  clear_value x26
  extract_lets +onlyGivenNames x27
  clear_value x27
  extract_lets +onlyGivenNames x28
  have h29 : Keeps s x28 := by
    unfold x28
    refine Keeps.trans ?_ (State.put_keeps ..)
    refine Keeps.trans ?_ (State.put_keeps ..)
    assumption
  clear_value x28
  extract_lets +onlyGivenNames x30
  clear_value x30
  extract_lets +onlyGivenNames x31
  clear_value x31
  refine Keeps.upd ?_ rfl rfl rfl
  assumption

theorem execFurlongBoundary_keeps (s : State) : KeepsO s (execFurlongBoundary s) := by
  unfold execFurlongBoundary
  extract_lets +onlyGivenNames x1
  extract_lets +onlyGivenNames x2
  have h3 : Keeps s x2 := by
    unfold x2
    refine Keeps.upd ?_ rfl rfl rfl
    exact Keeps.refl _
  clear_value x2
  extract_lets +onlyGivenNames x4
  have h5 : Keeps s x4 := by
    unfold x4
    refine Keeps.trans ?_ (State.furlongCounts_keeps ..)
    assumption
  clear_value x4
  extract_lets +onlyGivenNames x6
  have h7 : Keeps s x6 := by
    unfold x6
    refine Keeps.trans ?_ (State.showDark_keeps ..)
    refine Keeps.trans ?_ (State.warmTiers_keeps ..)
    refine Keeps.trans ?_ (State.updateAllDrift_keeps ..)
    refine Keeps.trans ?_ (State.applyTrims_keeps ..)
    refine Keeps.trans ?_ (State.rollSensors_keeps ..)
    assumption
  clear_value x6
  extract_lets +onlyGivenNames x8
  have h9 : Keeps s x8 := by
    unfold x8
    refine Keeps.trans ?_ (State.ageSlots_keeps ..)
    refine Keeps.trans ?_ (State.failAdLoads_keeps ..)
    refine Keeps.trans ?_ (State.tableFurlong_keeps ..)
    refine Keeps.trans ?_ (State.invalidateLook_keeps ..)
    assumption
  clear_value x8
  extract_lets +onlyGivenNames x10
  have h11 : Keeps s x10 := by
    unfold x10
    refine Keeps.trans ?_ (State.mapAhead_keeps ..)
    refine Keeps.trans ?_ (State.recheckIntake_keeps ..)
    refine Keeps.trans ?_ (State.checkDeadlines_keeps ..)
    assumption
  clear_value x10
  split
  · rename_i a12
    refine KeepsO.next ?_
    exact Keeps.refl _
  · rename_i a13
    split
    rename_i a14 a15 a16 a17
    have h18 : Keeps s a15 := by
      refine Keeps.fst a17 ?_
      refine Keeps.trans ?_ (State.formBushels_keeps ..)
      assumption
    extract_lets +onlyGivenNames x19
    have h20 : Keeps s x19 := by
      unfold x19
      refine Keeps.trans ?_ (State.sampleTable_keeps ..)
      refine Keeps.trans ?_ (State.showEpochs_keeps ..)
      refine Keeps.trans ?_ (State.sendSwitches_keeps ..)
      refine Keeps.trans ?_ (State.sendRetire_keeps ..)
      refine Keeps.trans ?_ (State.assignLanes_keeps ..)
      assumption
    clear_value x19
    refine KeepsO.next ?_
    refine Keeps.trans ?_ (State.rtvFurlong_keeps ..)
    refine Keeps.trans ?_ (State.thermFurlong_keeps ..)
    refine Keeps.trans ?_ (State.fabFurlong_keeps ..)
    refine Keeps.trans ?_ (State.meshFurlong_keeps ..)
    assumption

theorem State.switchMile_keeps (s : State) : Keeps s (State.switchMile s) := by
  unfold State.switchMile
  extract_lets +onlyGivenNames x1
  clear_value x1
  extract_lets +onlyGivenNames x2
  have h3 : Keeps s x2 := by
    unfold x2
    refine Keeps.trans ?_ (State.switchVariant_keeps ..)
    exact Keeps.refl _
  clear_value x2
  split
  · rename_i a4
    refine Keeps.trans ?_ (State.thermSwitched_keeps ..)
    assumption
  · rename_i a5
    assumption

theorem State.stopMile_keeps (s : State) : Keeps s (State.stopMile s) := by
  unfold State.stopMile
  extract_lets +onlyGivenNames x1
  split
  · rename_i a2
    refine Keeps.trans ?_ (State.admitFail_keeps ..)
    refine Keeps.trans ?_ (State.abandonPasses_keeps ..)
    refine Keeps.trans ?_ (State.settle_keeps ..)
    refine Keeps.trans ?_ (State.stopSequencers_keeps ..)
    refine Keeps.upd ?_ rfl rfl rfl
    exact Keeps.refl _
  · rename_i a3
    exact Keeps.refl _

theorem State.mileSchedule_keeps (s : State) : Keeps s (State.mileSchedule s) := by
  unfold State.mileSchedule
  refine Keeps.trans ?_ (State.planAtMile_keeps ..)
  refine Keeps.trans ?_ (State.refreshAtMile_keeps ..)
  refine Keeps.trans ?_ (State.flipAtMile_keeps ..)
  refine Keeps.trans ?_ (State.switchMile_keeps ..)
  refine Keeps.trans ?_ (State.decideVariants_keeps ..)
  refine Keeps.trans ?_ (State.stopMile_keeps ..)
  exact Keeps.refl _

theorem State.mileRoles_keeps (s : State) : Keeps s (State.mileRoles s) := by
  unfold State.mileRoles
  extract_lets +onlyGivenNames x1
  have h2 : Keeps s x1 := by
    unfold x1
    split
    · rename_i a3
      refine Keeps.trans ?_ (State.startTrainings_keeps ..)
      exact Keeps.refl _
    · rename_i a4
      exact Keeps.refl _
  clear_value x1
  refine Keeps.trans ?_ (State.standbyTakeovers_keeps ..)
  refine Keeps.trans ?_ (State.takeOvers_keeps ..)
  refine Keeps.trans ?_ (State.applyFences_keeps ..)
  assumption

theorem State.mileRest_keeps (s : State) : Keeps s (State.mileRest s) := by
  unfold State.mileRest
  refine Keeps.trans ?_ (State.thermMile_keeps ..)
  refine Keeps.trans ?_ (State.expireSb_keeps ..)
  refine Keeps.trans ?_ (State.startSequencers_keeps ..)
  refine Keeps.trans ?_ (State.restartRings_keeps ..)
  refine Keeps.trans ?_ (State.trapEffect_keeps ..)
  refine Keeps.trans ?_ (State.rtvMile_keeps ..)
  exact Keeps.refl _

theorem execMileBoundary_keeps (s : State) : KeepsO s (execMileBoundary s) := by
  unfold execMileBoundary
  extract_lets +onlyGivenNames x1
  split
  · rename_i a2
    refine KeepsO.next ?_
    exact Keeps.refl _
  · rename_i a3
    refine KeepsO.next ?_
    refine Keeps.trans ?_ (State.loadDue_keeps ..)
    refine Keeps.trans ?_ (State.advanceStart_keeps ..)
    refine Keeps.trans ?_ (State.mileRest_keeps ..)
    refine Keeps.trans ?_ (State.mileRoles_keeps ..)
    refine Keeps.trans ?_ (State.mileSchedule_keeps ..)
    refine Keeps.upd ?_ rfl rfl rfl
    exact Keeps.refl _

end Sys2Proof.Machine
end

