-- ==== Sys2Proof/Laws/State.lean ====
section
/-! SUPPORT. The small laws of the state: which fields an update leaves alone, and what a register field reads after a write
of it or of another one. -/
namespace Sys2Proof.Machine


/-! ### wr -/

@[simp] theorem State.wr_pending (s : State) (a : Nat) (w : Word) : (s.wr a w).pending = s.pending := rfl
@[simp] theorem State.wr_waitB (s : State) (a : Nat) (w : Word) : (s.wr a w).waitB = s.waitB := rfl
@[simp] theorem State.wr_freeCtr (s : State) (a : Nat) (w : Word) : (s.wr a w).freeCtr = s.freeCtr := rfl
@[simp] theorem State.wr_tb (s : State) (a : Nat) (w : Word) : (s.wr a w).tb = s.tb := rfl
@[simp] theorem State.wr_sched (s : State) (a : Nat) (w : Word) : (s.wr a w).sched = s.sched := rfl
@[simp] theorem State.wr_rqt (s : State) (a : Nat) (w : Word) : (s.wr a w).rqt = s.rqt := rfl
@[simp] theorem State.wr_fab (s : State) (a : Nat) (w : Word) : (s.wr a w).fab = s.fab := rfl
@[simp] theorem State.wr_faults (s : State) (a : Nat) (w : Word) : (s.wr a w).faults = s.faults := rfl
@[simp] theorem State.wr_boot (s : State) (a : Nat) (w : Word) : (s.wr a w).boot = s.boot := rfl
@[simp] theorem State.wr_hostBox (s : State) (a : Nat) (w : Word) : (s.wr a w).hostBox = s.hostBox := rfl
@[simp] theorem State.wr_coreBox (s : State) (a : Nat) (w : Word) : (s.wr a w).coreBox = s.coreBox := rfl
@[simp] theorem State.wr_crc (s : State) (a : Nat) (w : Word) : (s.wr a w).crc = s.crc := rfl
@[simp] theorem State.wr_msix (s : State) (a : Nat) (w : Word) : (s.wr a w).msix = s.msix := rfl
@[simp] theorem State.wr_engines (s : State) (a : Nat) (w : Word) : (s.wr a w).engines = s.engines := rfl
@[simp] theorem State.wr_tiers (s : State) (a : Nat) (w : Word) : (s.wr a w).tiers = s.tiers := rfl
@[simp] theorem State.wr_clampNow (s : State) (a : Nat) (w : Word) : (s.wr a w).clampNow = s.clampNow := rfl
@[simp] theorem State.wr_clampDue (s : State) (a : Nat) (w : Word) : (s.wr a w).clampDue = s.clampDue := rfl
@[simp] theorem State.wr_asz (s : State) (a : Nat) (w : Word) : (s.wr a w).asz = s.asz := rfl
@[simp] theorem State.wr_mon (s : State) (a : Nat) (w : Word) : (s.wr a w).mon = s.mon := rfl
@[simp] theorem State.wr_store (s : State) (a : Nat) (w : Word) : (s.wr a w).store = s.store := rfl
@[simp] theorem State.wr_sec (s : State) (a : Nat) (w : Word) : (s.wr a w).sec = s.sec := rfl
@[simp] theorem State.wr_mgmt (s : State) (a : Nat) (w : Word) : (s.wr a w).mgmt = s.mgmt := rfl
@[simp] theorem State.wr_mem (s : State) (a : Nat) (w : Word) : (s.wr a w).mem = s.mem := rfl
@[simp] theorem State.wr_mesh (s : State) (a : Nat) (w : Word) : (s.wr a w).mesh = s.mesh := rfl
@[simp] theorem State.wr_routing (s : State) (a : Nat) (w : Word) : (s.wr a w).routing = s.routing := rfl
@[simp] theorem State.wr_att (s : State) (a : Nat) (w : Word) : (s.wr a w).att = s.att := rfl
@[simp] theorem State.wr_weights (s : State) (a : Nat) (w : Word) : (s.wr a w).weights = s.weights := rfl
@[simp] theorem State.wr_rtv (s : State) (a : Nat) (w : Word) : (s.wr a w).rtv = s.rtv := rfl
@[simp] theorem State.wr_therm (s : State) (a : Nat) (w : Word) : (s.wr a w).therm = s.therm := rfl
@[simp] theorem State.wr_hostLink (s : State) (a : Nat) (w : Word) : (s.wr a w).hostLink = s.hostLink := rfl
@[simp] theorem State.wr_pins (s : State) (a : Nat) (w : Word) : (s.wr a w).pins = s.pins := rfl

/-! ### putAt -/

@[simp] theorem State.putAt_pending (s : State) (i : Nat) (f : Fld) (v : Nat) : (s.putAt i f v).pending = s.pending := rfl
@[simp] theorem State.putAt_waitB (s : State) (i : Nat) (f : Fld) (v : Nat) : (s.putAt i f v).waitB = s.waitB := rfl
@[simp] theorem State.putAt_freeCtr (s : State) (i : Nat) (f : Fld) (v : Nat) : (s.putAt i f v).freeCtr = s.freeCtr := rfl
@[simp] theorem State.putAt_tb (s : State) (i : Nat) (f : Fld) (v : Nat) : (s.putAt i f v).tb = s.tb := rfl
@[simp] theorem State.putAt_sched (s : State) (i : Nat) (f : Fld) (v : Nat) : (s.putAt i f v).sched = s.sched := rfl
@[simp] theorem State.putAt_rqt (s : State) (i : Nat) (f : Fld) (v : Nat) : (s.putAt i f v).rqt = s.rqt := rfl
@[simp] theorem State.putAt_fab (s : State) (i : Nat) (f : Fld) (v : Nat) : (s.putAt i f v).fab = s.fab := rfl
@[simp] theorem State.putAt_faults (s : State) (i : Nat) (f : Fld) (v : Nat) : (s.putAt i f v).faults = s.faults := rfl
@[simp] theorem State.putAt_boot (s : State) (i : Nat) (f : Fld) (v : Nat) : (s.putAt i f v).boot = s.boot := rfl
@[simp] theorem State.putAt_hostBox (s : State) (i : Nat) (f : Fld) (v : Nat) : (s.putAt i f v).hostBox = s.hostBox := rfl
@[simp] theorem State.putAt_coreBox (s : State) (i : Nat) (f : Fld) (v : Nat) : (s.putAt i f v).coreBox = s.coreBox := rfl
@[simp] theorem State.putAt_crc (s : State) (i : Nat) (f : Fld) (v : Nat) : (s.putAt i f v).crc = s.crc := rfl
@[simp] theorem State.putAt_msix (s : State) (i : Nat) (f : Fld) (v : Nat) : (s.putAt i f v).msix = s.msix := rfl
@[simp] theorem State.putAt_engines (s : State) (i : Nat) (f : Fld) (v : Nat) : (s.putAt i f v).engines = s.engines := rfl
@[simp] theorem State.putAt_tiers (s : State) (i : Nat) (f : Fld) (v : Nat) : (s.putAt i f v).tiers = s.tiers := rfl
@[simp] theorem State.putAt_clampNow (s : State) (i : Nat) (f : Fld) (v : Nat) : (s.putAt i f v).clampNow = s.clampNow := rfl
@[simp] theorem State.putAt_clampDue (s : State) (i : Nat) (f : Fld) (v : Nat) : (s.putAt i f v).clampDue = s.clampDue := rfl
@[simp] theorem State.putAt_asz (s : State) (i : Nat) (f : Fld) (v : Nat) : (s.putAt i f v).asz = s.asz := rfl
@[simp] theorem State.putAt_mon (s : State) (i : Nat) (f : Fld) (v : Nat) : (s.putAt i f v).mon = s.mon := rfl
@[simp] theorem State.putAt_store (s : State) (i : Nat) (f : Fld) (v : Nat) : (s.putAt i f v).store = s.store := rfl
@[simp] theorem State.putAt_sec (s : State) (i : Nat) (f : Fld) (v : Nat) : (s.putAt i f v).sec = s.sec := rfl
@[simp] theorem State.putAt_mgmt (s : State) (i : Nat) (f : Fld) (v : Nat) : (s.putAt i f v).mgmt = s.mgmt := rfl
@[simp] theorem State.putAt_mem (s : State) (i : Nat) (f : Fld) (v : Nat) : (s.putAt i f v).mem = s.mem := rfl
@[simp] theorem State.putAt_mesh (s : State) (i : Nat) (f : Fld) (v : Nat) : (s.putAt i f v).mesh = s.mesh := rfl
@[simp] theorem State.putAt_routing (s : State) (i : Nat) (f : Fld) (v : Nat) : (s.putAt i f v).routing = s.routing := rfl
@[simp] theorem State.putAt_att (s : State) (i : Nat) (f : Fld) (v : Nat) : (s.putAt i f v).att = s.att := rfl
@[simp] theorem State.putAt_weights (s : State) (i : Nat) (f : Fld) (v : Nat) : (s.putAt i f v).weights = s.weights := rfl
@[simp] theorem State.putAt_rtv (s : State) (i : Nat) (f : Fld) (v : Nat) : (s.putAt i f v).rtv = s.rtv := rfl
@[simp] theorem State.putAt_therm (s : State) (i : Nat) (f : Fld) (v : Nat) : (s.putAt i f v).therm = s.therm := rfl
@[simp] theorem State.putAt_hostLink (s : State) (i : Nat) (f : Fld) (v : Nat) : (s.putAt i f v).hostLink = s.hostLink := rfl
@[simp] theorem State.putAt_pins (s : State) (i : Nat) (f : Fld) (v : Nat) : (s.putAt i f v).pins = s.pins := rfl

/-! ### put -/

@[simp] theorem State.put_pending (s : State) (f : Fld) (v : Nat) : (s.put f v).pending = s.pending := rfl
@[simp] theorem State.put_waitB (s : State) (f : Fld) (v : Nat) : (s.put f v).waitB = s.waitB := rfl
@[simp] theorem State.put_freeCtr (s : State) (f : Fld) (v : Nat) : (s.put f v).freeCtr = s.freeCtr := rfl
@[simp] theorem State.put_tb (s : State) (f : Fld) (v : Nat) : (s.put f v).tb = s.tb := rfl
@[simp] theorem State.put_sched (s : State) (f : Fld) (v : Nat) : (s.put f v).sched = s.sched := rfl
@[simp] theorem State.put_rqt (s : State) (f : Fld) (v : Nat) : (s.put f v).rqt = s.rqt := rfl
@[simp] theorem State.put_fab (s : State) (f : Fld) (v : Nat) : (s.put f v).fab = s.fab := rfl
@[simp] theorem State.put_faults (s : State) (f : Fld) (v : Nat) : (s.put f v).faults = s.faults := rfl
@[simp] theorem State.put_boot (s : State) (f : Fld) (v : Nat) : (s.put f v).boot = s.boot := rfl
@[simp] theorem State.put_hostBox (s : State) (f : Fld) (v : Nat) : (s.put f v).hostBox = s.hostBox := rfl
@[simp] theorem State.put_coreBox (s : State) (f : Fld) (v : Nat) : (s.put f v).coreBox = s.coreBox := rfl
@[simp] theorem State.put_crc (s : State) (f : Fld) (v : Nat) : (s.put f v).crc = s.crc := rfl
@[simp] theorem State.put_msix (s : State) (f : Fld) (v : Nat) : (s.put f v).msix = s.msix := rfl
@[simp] theorem State.put_engines (s : State) (f : Fld) (v : Nat) : (s.put f v).engines = s.engines := rfl
@[simp] theorem State.put_tiers (s : State) (f : Fld) (v : Nat) : (s.put f v).tiers = s.tiers := rfl
@[simp] theorem State.put_clampNow (s : State) (f : Fld) (v : Nat) : (s.put f v).clampNow = s.clampNow := rfl
@[simp] theorem State.put_clampDue (s : State) (f : Fld) (v : Nat) : (s.put f v).clampDue = s.clampDue := rfl
@[simp] theorem State.put_asz (s : State) (f : Fld) (v : Nat) : (s.put f v).asz = s.asz := rfl
@[simp] theorem State.put_mon (s : State) (f : Fld) (v : Nat) : (s.put f v).mon = s.mon := rfl
@[simp] theorem State.put_store (s : State) (f : Fld) (v : Nat) : (s.put f v).store = s.store := rfl
@[simp] theorem State.put_sec (s : State) (f : Fld) (v : Nat) : (s.put f v).sec = s.sec := rfl
@[simp] theorem State.put_mgmt (s : State) (f : Fld) (v : Nat) : (s.put f v).mgmt = s.mgmt := rfl
@[simp] theorem State.put_mem (s : State) (f : Fld) (v : Nat) : (s.put f v).mem = s.mem := rfl
@[simp] theorem State.put_mesh (s : State) (f : Fld) (v : Nat) : (s.put f v).mesh = s.mesh := rfl
@[simp] theorem State.put_routing (s : State) (f : Fld) (v : Nat) : (s.put f v).routing = s.routing := rfl
@[simp] theorem State.put_att (s : State) (f : Fld) (v : Nat) : (s.put f v).att = s.att := rfl
@[simp] theorem State.put_weights (s : State) (f : Fld) (v : Nat) : (s.put f v).weights = s.weights := rfl
@[simp] theorem State.put_rtv (s : State) (f : Fld) (v : Nat) : (s.put f v).rtv = s.rtv := rfl
@[simp] theorem State.put_therm (s : State) (f : Fld) (v : Nat) : (s.put f v).therm = s.therm := rfl
@[simp] theorem State.put_hostLink (s : State) (f : Fld) (v : Nat) : (s.put f v).hostLink = s.hostLink := rfl
@[simp] theorem State.put_pins (s : State) (f : Fld) (v : Nat) : (s.put f v).pins = s.pins := rfl

/-! ### addAt -/

@[simp] theorem State.addAt_pending (s : State) (i : Nat) (f : Fld) (n : Nat) : (s.addAt i f n).pending = s.pending := rfl
@[simp] theorem State.addAt_waitB (s : State) (i : Nat) (f : Fld) (n : Nat) : (s.addAt i f n).waitB = s.waitB := rfl
@[simp] theorem State.addAt_freeCtr (s : State) (i : Nat) (f : Fld) (n : Nat) : (s.addAt i f n).freeCtr = s.freeCtr := rfl
@[simp] theorem State.addAt_tb (s : State) (i : Nat) (f : Fld) (n : Nat) : (s.addAt i f n).tb = s.tb := rfl
@[simp] theorem State.addAt_sched (s : State) (i : Nat) (f : Fld) (n : Nat) : (s.addAt i f n).sched = s.sched := rfl
@[simp] theorem State.addAt_rqt (s : State) (i : Nat) (f : Fld) (n : Nat) : (s.addAt i f n).rqt = s.rqt := rfl
@[simp] theorem State.addAt_fab (s : State) (i : Nat) (f : Fld) (n : Nat) : (s.addAt i f n).fab = s.fab := rfl
@[simp] theorem State.addAt_faults (s : State) (i : Nat) (f : Fld) (n : Nat) : (s.addAt i f n).faults = s.faults := rfl
@[simp] theorem State.addAt_boot (s : State) (i : Nat) (f : Fld) (n : Nat) : (s.addAt i f n).boot = s.boot := rfl
@[simp] theorem State.addAt_hostBox (s : State) (i : Nat) (f : Fld) (n : Nat) : (s.addAt i f n).hostBox = s.hostBox := rfl
@[simp] theorem State.addAt_coreBox (s : State) (i : Nat) (f : Fld) (n : Nat) : (s.addAt i f n).coreBox = s.coreBox := rfl
@[simp] theorem State.addAt_crc (s : State) (i : Nat) (f : Fld) (n : Nat) : (s.addAt i f n).crc = s.crc := rfl
@[simp] theorem State.addAt_msix (s : State) (i : Nat) (f : Fld) (n : Nat) : (s.addAt i f n).msix = s.msix := rfl
@[simp] theorem State.addAt_engines (s : State) (i : Nat) (f : Fld) (n : Nat) : (s.addAt i f n).engines = s.engines := rfl
@[simp] theorem State.addAt_tiers (s : State) (i : Nat) (f : Fld) (n : Nat) : (s.addAt i f n).tiers = s.tiers := rfl
@[simp] theorem State.addAt_clampNow (s : State) (i : Nat) (f : Fld) (n : Nat) : (s.addAt i f n).clampNow = s.clampNow := rfl
@[simp] theorem State.addAt_clampDue (s : State) (i : Nat) (f : Fld) (n : Nat) : (s.addAt i f n).clampDue = s.clampDue := rfl
@[simp] theorem State.addAt_asz (s : State) (i : Nat) (f : Fld) (n : Nat) : (s.addAt i f n).asz = s.asz := rfl
@[simp] theorem State.addAt_mon (s : State) (i : Nat) (f : Fld) (n : Nat) : (s.addAt i f n).mon = s.mon := rfl
@[simp] theorem State.addAt_store (s : State) (i : Nat) (f : Fld) (n : Nat) : (s.addAt i f n).store = s.store := rfl
@[simp] theorem State.addAt_sec (s : State) (i : Nat) (f : Fld) (n : Nat) : (s.addAt i f n).sec = s.sec := rfl
@[simp] theorem State.addAt_mgmt (s : State) (i : Nat) (f : Fld) (n : Nat) : (s.addAt i f n).mgmt = s.mgmt := rfl
@[simp] theorem State.addAt_mem (s : State) (i : Nat) (f : Fld) (n : Nat) : (s.addAt i f n).mem = s.mem := rfl
@[simp] theorem State.addAt_mesh (s : State) (i : Nat) (f : Fld) (n : Nat) : (s.addAt i f n).mesh = s.mesh := rfl
@[simp] theorem State.addAt_routing (s : State) (i : Nat) (f : Fld) (n : Nat) : (s.addAt i f n).routing = s.routing := rfl
@[simp] theorem State.addAt_att (s : State) (i : Nat) (f : Fld) (n : Nat) : (s.addAt i f n).att = s.att := rfl
@[simp] theorem State.addAt_weights (s : State) (i : Nat) (f : Fld) (n : Nat) : (s.addAt i f n).weights = s.weights := rfl
@[simp] theorem State.addAt_rtv (s : State) (i : Nat) (f : Fld) (n : Nat) : (s.addAt i f n).rtv = s.rtv := rfl
@[simp] theorem State.addAt_therm (s : State) (i : Nat) (f : Fld) (n : Nat) : (s.addAt i f n).therm = s.therm := rfl
@[simp] theorem State.addAt_hostLink (s : State) (i : Nat) (f : Fld) (n : Nat) : (s.addAt i f n).hostLink = s.hostLink := rfl
@[simp] theorem State.addAt_pins (s : State) (i : Nat) (f : Fld) (n : Nat) : (s.addAt i f n).pins = s.pins := rfl

/-! ### add -/

@[simp] theorem State.add_pending (s : State) (f : Fld) (n : Nat) : (s.add f n).pending = s.pending := rfl
@[simp] theorem State.add_waitB (s : State) (f : Fld) (n : Nat) : (s.add f n).waitB = s.waitB := rfl
@[simp] theorem State.add_freeCtr (s : State) (f : Fld) (n : Nat) : (s.add f n).freeCtr = s.freeCtr := rfl
@[simp] theorem State.add_tb (s : State) (f : Fld) (n : Nat) : (s.add f n).tb = s.tb := rfl
@[simp] theorem State.add_sched (s : State) (f : Fld) (n : Nat) : (s.add f n).sched = s.sched := rfl
@[simp] theorem State.add_rqt (s : State) (f : Fld) (n : Nat) : (s.add f n).rqt = s.rqt := rfl
@[simp] theorem State.add_fab (s : State) (f : Fld) (n : Nat) : (s.add f n).fab = s.fab := rfl
@[simp] theorem State.add_faults (s : State) (f : Fld) (n : Nat) : (s.add f n).faults = s.faults := rfl
@[simp] theorem State.add_boot (s : State) (f : Fld) (n : Nat) : (s.add f n).boot = s.boot := rfl
@[simp] theorem State.add_hostBox (s : State) (f : Fld) (n : Nat) : (s.add f n).hostBox = s.hostBox := rfl
@[simp] theorem State.add_coreBox (s : State) (f : Fld) (n : Nat) : (s.add f n).coreBox = s.coreBox := rfl
@[simp] theorem State.add_crc (s : State) (f : Fld) (n : Nat) : (s.add f n).crc = s.crc := rfl
@[simp] theorem State.add_msix (s : State) (f : Fld) (n : Nat) : (s.add f n).msix = s.msix := rfl
@[simp] theorem State.add_engines (s : State) (f : Fld) (n : Nat) : (s.add f n).engines = s.engines := rfl
@[simp] theorem State.add_tiers (s : State) (f : Fld) (n : Nat) : (s.add f n).tiers = s.tiers := rfl
@[simp] theorem State.add_clampNow (s : State) (f : Fld) (n : Nat) : (s.add f n).clampNow = s.clampNow := rfl
@[simp] theorem State.add_clampDue (s : State) (f : Fld) (n : Nat) : (s.add f n).clampDue = s.clampDue := rfl
@[simp] theorem State.add_asz (s : State) (f : Fld) (n : Nat) : (s.add f n).asz = s.asz := rfl
@[simp] theorem State.add_mon (s : State) (f : Fld) (n : Nat) : (s.add f n).mon = s.mon := rfl
@[simp] theorem State.add_store (s : State) (f : Fld) (n : Nat) : (s.add f n).store = s.store := rfl
@[simp] theorem State.add_sec (s : State) (f : Fld) (n : Nat) : (s.add f n).sec = s.sec := rfl
@[simp] theorem State.add_mgmt (s : State) (f : Fld) (n : Nat) : (s.add f n).mgmt = s.mgmt := rfl
@[simp] theorem State.add_mem (s : State) (f : Fld) (n : Nat) : (s.add f n).mem = s.mem := rfl
@[simp] theorem State.add_mesh (s : State) (f : Fld) (n : Nat) : (s.add f n).mesh = s.mesh := rfl
@[simp] theorem State.add_routing (s : State) (f : Fld) (n : Nat) : (s.add f n).routing = s.routing := rfl
@[simp] theorem State.add_att (s : State) (f : Fld) (n : Nat) : (s.add f n).att = s.att := rfl
@[simp] theorem State.add_weights (s : State) (f : Fld) (n : Nat) : (s.add f n).weights = s.weights := rfl
@[simp] theorem State.add_rtv (s : State) (f : Fld) (n : Nat) : (s.add f n).rtv = s.rtv := rfl
@[simp] theorem State.add_therm (s : State) (f : Fld) (n : Nat) : (s.add f n).therm = s.therm := rfl
@[simp] theorem State.add_hostLink (s : State) (f : Fld) (n : Nat) : (s.add f n).hostLink = s.hostLink := rfl
@[simp] theorem State.add_pins (s : State) (f : Fld) (n : Nat) : (s.add f n).pins = s.pins := rfl

/-! ### flagAt -/

@[simp] theorem State.flagAt_pending (s : State) (i : Nat) (f : Fld) (b : Bool) : (s.flagAt i f b).pending = s.pending := rfl
@[simp] theorem State.flagAt_waitB (s : State) (i : Nat) (f : Fld) (b : Bool) : (s.flagAt i f b).waitB = s.waitB := rfl
@[simp] theorem State.flagAt_freeCtr (s : State) (i : Nat) (f : Fld) (b : Bool) : (s.flagAt i f b).freeCtr = s.freeCtr := rfl
@[simp] theorem State.flagAt_tb (s : State) (i : Nat) (f : Fld) (b : Bool) : (s.flagAt i f b).tb = s.tb := rfl
@[simp] theorem State.flagAt_sched (s : State) (i : Nat) (f : Fld) (b : Bool) : (s.flagAt i f b).sched = s.sched := rfl
@[simp] theorem State.flagAt_rqt (s : State) (i : Nat) (f : Fld) (b : Bool) : (s.flagAt i f b).rqt = s.rqt := rfl
@[simp] theorem State.flagAt_fab (s : State) (i : Nat) (f : Fld) (b : Bool) : (s.flagAt i f b).fab = s.fab := rfl
@[simp] theorem State.flagAt_faults (s : State) (i : Nat) (f : Fld) (b : Bool) : (s.flagAt i f b).faults = s.faults := rfl
@[simp] theorem State.flagAt_boot (s : State) (i : Nat) (f : Fld) (b : Bool) : (s.flagAt i f b).boot = s.boot := rfl
@[simp] theorem State.flagAt_hostBox (s : State) (i : Nat) (f : Fld) (b : Bool) : (s.flagAt i f b).hostBox = s.hostBox := rfl
@[simp] theorem State.flagAt_coreBox (s : State) (i : Nat) (f : Fld) (b : Bool) : (s.flagAt i f b).coreBox = s.coreBox := rfl
@[simp] theorem State.flagAt_crc (s : State) (i : Nat) (f : Fld) (b : Bool) : (s.flagAt i f b).crc = s.crc := rfl
@[simp] theorem State.flagAt_msix (s : State) (i : Nat) (f : Fld) (b : Bool) : (s.flagAt i f b).msix = s.msix := rfl
@[simp] theorem State.flagAt_engines (s : State) (i : Nat) (f : Fld) (b : Bool) : (s.flagAt i f b).engines = s.engines := rfl
@[simp] theorem State.flagAt_tiers (s : State) (i : Nat) (f : Fld) (b : Bool) : (s.flagAt i f b).tiers = s.tiers := rfl
@[simp] theorem State.flagAt_clampNow (s : State) (i : Nat) (f : Fld) (b : Bool) : (s.flagAt i f b).clampNow = s.clampNow := rfl
@[simp] theorem State.flagAt_clampDue (s : State) (i : Nat) (f : Fld) (b : Bool) : (s.flagAt i f b).clampDue = s.clampDue := rfl
@[simp] theorem State.flagAt_asz (s : State) (i : Nat) (f : Fld) (b : Bool) : (s.flagAt i f b).asz = s.asz := rfl
@[simp] theorem State.flagAt_mon (s : State) (i : Nat) (f : Fld) (b : Bool) : (s.flagAt i f b).mon = s.mon := rfl
@[simp] theorem State.flagAt_store (s : State) (i : Nat) (f : Fld) (b : Bool) : (s.flagAt i f b).store = s.store := rfl
@[simp] theorem State.flagAt_sec (s : State) (i : Nat) (f : Fld) (b : Bool) : (s.flagAt i f b).sec = s.sec := rfl
@[simp] theorem State.flagAt_mgmt (s : State) (i : Nat) (f : Fld) (b : Bool) : (s.flagAt i f b).mgmt = s.mgmt := rfl
@[simp] theorem State.flagAt_mem (s : State) (i : Nat) (f : Fld) (b : Bool) : (s.flagAt i f b).mem = s.mem := rfl
@[simp] theorem State.flagAt_mesh (s : State) (i : Nat) (f : Fld) (b : Bool) : (s.flagAt i f b).mesh = s.mesh := rfl
@[simp] theorem State.flagAt_routing (s : State) (i : Nat) (f : Fld) (b : Bool) : (s.flagAt i f b).routing = s.routing := rfl
@[simp] theorem State.flagAt_att (s : State) (i : Nat) (f : Fld) (b : Bool) : (s.flagAt i f b).att = s.att := rfl
@[simp] theorem State.flagAt_weights (s : State) (i : Nat) (f : Fld) (b : Bool) : (s.flagAt i f b).weights = s.weights := rfl
@[simp] theorem State.flagAt_rtv (s : State) (i : Nat) (f : Fld) (b : Bool) : (s.flagAt i f b).rtv = s.rtv := rfl
@[simp] theorem State.flagAt_therm (s : State) (i : Nat) (f : Fld) (b : Bool) : (s.flagAt i f b).therm = s.therm := rfl
@[simp] theorem State.flagAt_hostLink (s : State) (i : Nat) (f : Fld) (b : Bool) : (s.flagAt i f b).hostLink = s.hostLink := rfl
@[simp] theorem State.flagAt_pins (s : State) (i : Nat) (f : Fld) (b : Bool) : (s.flagAt i f b).pins = s.pins := rfl

/-! ### flag -/

@[simp] theorem State.flag_pending (s : State) (f : Fld) (b : Bool) : (s.flag f b).pending = s.pending := rfl
@[simp] theorem State.flag_waitB (s : State) (f : Fld) (b : Bool) : (s.flag f b).waitB = s.waitB := rfl
@[simp] theorem State.flag_freeCtr (s : State) (f : Fld) (b : Bool) : (s.flag f b).freeCtr = s.freeCtr := rfl
@[simp] theorem State.flag_tb (s : State) (f : Fld) (b : Bool) : (s.flag f b).tb = s.tb := rfl
@[simp] theorem State.flag_sched (s : State) (f : Fld) (b : Bool) : (s.flag f b).sched = s.sched := rfl
@[simp] theorem State.flag_rqt (s : State) (f : Fld) (b : Bool) : (s.flag f b).rqt = s.rqt := rfl
@[simp] theorem State.flag_fab (s : State) (f : Fld) (b : Bool) : (s.flag f b).fab = s.fab := rfl
@[simp] theorem State.flag_faults (s : State) (f : Fld) (b : Bool) : (s.flag f b).faults = s.faults := rfl
@[simp] theorem State.flag_boot (s : State) (f : Fld) (b : Bool) : (s.flag f b).boot = s.boot := rfl
@[simp] theorem State.flag_hostBox (s : State) (f : Fld) (b : Bool) : (s.flag f b).hostBox = s.hostBox := rfl
@[simp] theorem State.flag_coreBox (s : State) (f : Fld) (b : Bool) : (s.flag f b).coreBox = s.coreBox := rfl
@[simp] theorem State.flag_crc (s : State) (f : Fld) (b : Bool) : (s.flag f b).crc = s.crc := rfl
@[simp] theorem State.flag_msix (s : State) (f : Fld) (b : Bool) : (s.flag f b).msix = s.msix := rfl
@[simp] theorem State.flag_engines (s : State) (f : Fld) (b : Bool) : (s.flag f b).engines = s.engines := rfl
@[simp] theorem State.flag_tiers (s : State) (f : Fld) (b : Bool) : (s.flag f b).tiers = s.tiers := rfl
@[simp] theorem State.flag_clampNow (s : State) (f : Fld) (b : Bool) : (s.flag f b).clampNow = s.clampNow := rfl
@[simp] theorem State.flag_clampDue (s : State) (f : Fld) (b : Bool) : (s.flag f b).clampDue = s.clampDue := rfl
@[simp] theorem State.flag_asz (s : State) (f : Fld) (b : Bool) : (s.flag f b).asz = s.asz := rfl
@[simp] theorem State.flag_mon (s : State) (f : Fld) (b : Bool) : (s.flag f b).mon = s.mon := rfl
@[simp] theorem State.flag_store (s : State) (f : Fld) (b : Bool) : (s.flag f b).store = s.store := rfl
@[simp] theorem State.flag_sec (s : State) (f : Fld) (b : Bool) : (s.flag f b).sec = s.sec := rfl
@[simp] theorem State.flag_mgmt (s : State) (f : Fld) (b : Bool) : (s.flag f b).mgmt = s.mgmt := rfl
@[simp] theorem State.flag_mem (s : State) (f : Fld) (b : Bool) : (s.flag f b).mem = s.mem := rfl
@[simp] theorem State.flag_mesh (s : State) (f : Fld) (b : Bool) : (s.flag f b).mesh = s.mesh := rfl
@[simp] theorem State.flag_routing (s : State) (f : Fld) (b : Bool) : (s.flag f b).routing = s.routing := rfl
@[simp] theorem State.flag_att (s : State) (f : Fld) (b : Bool) : (s.flag f b).att = s.att := rfl
@[simp] theorem State.flag_weights (s : State) (f : Fld) (b : Bool) : (s.flag f b).weights = s.weights := rfl
@[simp] theorem State.flag_rtv (s : State) (f : Fld) (b : Bool) : (s.flag f b).rtv = s.rtv := rfl
@[simp] theorem State.flag_therm (s : State) (f : Fld) (b : Bool) : (s.flag f b).therm = s.therm := rfl
@[simp] theorem State.flag_hostLink (s : State) (f : Fld) (b : Bool) : (s.flag f b).hostLink = s.hostLink := rfl
@[simp] theorem State.flag_pins (s : State) (f : Fld) (b : Bool) : (s.flag f b).pins = s.pins := rfl

/-! ### tick -/

@[simp] theorem State.tick_pending (s : State) : (s.tick).pending = s.pending := rfl
@[simp] theorem State.tick_regs (s : State) : (s.tick).regs = s.regs := rfl
@[simp] theorem State.tick_waitB (s : State) : (s.tick).waitB = s.waitB := rfl
@[simp] theorem State.tick_tb (s : State) : (s.tick).tb = s.tb := rfl
@[simp] theorem State.tick_sched (s : State) : (s.tick).sched = s.sched := rfl
@[simp] theorem State.tick_rqt (s : State) : (s.tick).rqt = s.rqt := rfl
@[simp] theorem State.tick_fab (s : State) : (s.tick).fab = s.fab := rfl
@[simp] theorem State.tick_faults (s : State) : (s.tick).faults = s.faults := rfl
@[simp] theorem State.tick_boot (s : State) : (s.tick).boot = s.boot := rfl
@[simp] theorem State.tick_hostBox (s : State) : (s.tick).hostBox = s.hostBox := rfl
@[simp] theorem State.tick_coreBox (s : State) : (s.tick).coreBox = s.coreBox := rfl
@[simp] theorem State.tick_crc (s : State) : (s.tick).crc = s.crc := rfl
@[simp] theorem State.tick_msix (s : State) : (s.tick).msix = s.msix := rfl
@[simp] theorem State.tick_engines (s : State) : (s.tick).engines = s.engines := rfl
@[simp] theorem State.tick_tiers (s : State) : (s.tick).tiers = s.tiers := rfl
@[simp] theorem State.tick_clampNow (s : State) : (s.tick).clampNow = s.clampNow := rfl
@[simp] theorem State.tick_clampDue (s : State) : (s.tick).clampDue = s.clampDue := rfl
@[simp] theorem State.tick_asz (s : State) : (s.tick).asz = s.asz := rfl
@[simp] theorem State.tick_mon (s : State) : (s.tick).mon = s.mon := rfl
@[simp] theorem State.tick_store (s : State) : (s.tick).store = s.store := rfl
@[simp] theorem State.tick_sec (s : State) : (s.tick).sec = s.sec := rfl
@[simp] theorem State.tick_mgmt (s : State) : (s.tick).mgmt = s.mgmt := rfl
@[simp] theorem State.tick_mem (s : State) : (s.tick).mem = s.mem := rfl
@[simp] theorem State.tick_mesh (s : State) : (s.tick).mesh = s.mesh := rfl
@[simp] theorem State.tick_routing (s : State) : (s.tick).routing = s.routing := rfl
@[simp] theorem State.tick_att (s : State) : (s.tick).att = s.att := rfl
@[simp] theorem State.tick_weights (s : State) : (s.tick).weights = s.weights := rfl
@[simp] theorem State.tick_rtv (s : State) : (s.tick).rtv = s.rtv := rfl
@[simp] theorem State.tick_therm (s : State) : (s.tick).therm = s.therm := rfl
@[simp] theorem State.tick_hostLink (s : State) : (s.tick).hostLink = s.hostLink := rfl
@[simp] theorem State.tick_pins (s : State) : (s.tick).pins = s.pins := rfl

/-! ### Registers -/

theorem State.rd_wr (s : State) (a b : Nat) (w : Word) : (s.wr a w).rd b = if b = a then w else s.rd b :=
  SMap.get_set _ _ _ _ _

@[simp] theorem State.rd_wr_self (s : State) (a : Nat) (w : Word) : (s.wr a w).rd a = w := by rw [State.rd_wr, if_pos rfl]

theorem State.rd_wr_ne (s : State) (a b : Nat) (w : Word) (h : b ≠ a) : (s.wr a w).rd b = s.rd b := by rw [State.rd_wr, if_neg h]

theorem State.rd_putAt_ne (s : State) (i : Nat) (f : Fld) (v b : Nat) (h : b ≠ f.addr + i) : (s.putAt i f v).rd b = s.rd b :=
  State.rd_wr_ne _ _ _ _ h

theorem State.rd_put_ne (s : State) (f : Fld) (v b : Nat) (h : b ≠ f.addr) : (s.put f v).rd b = s.rd b :=
  State.rd_wr_ne _ _ _ _ h

/-- A field of a register lies in its word. -/
def Fld.inWord (f : Fld) : Prop := f.lo ≤ f.hi ∧ f.hi < 32

/-- A field reads what was put into it. -/
theorem State.fldAt_putAt (s : State) (i : Nat) (f : Fld) (v : Nat) (h : f.inWord) :
    (s.putAt i f v).fldAt i f = v % 2 ^ (f.hi + 1 - f.lo) := by
  unfold State.fldAt State.putAt
  rw [State.rd_wr_self]
  exact getBits_setBits _ _ _ _ h.1 h.2

theorem State.fld_put (s : State) (f : Fld) (v : Nat) (h : f.inWord) : (s.put f v).fld f = v % 2 ^ (f.hi + 1 - f.lo) :=
  State.fldAt_putAt s 0 f v h

/-- Two fields that do not meet. -/
def Fld.apart (f g : Fld) : Prop := f.hi < g.lo ∨ (g.hi < f.lo ∧ g.lo ≤ g.hi)

/-- A field of another word, or another field of the same word, stays. -/
theorem State.fldAt_putAt_ne (s : State) (i j : Nat) (f g : Fld) (v : Nat) (h : g.addr + j ≠ f.addr + i) :
    (s.putAt i f v).fldAt j g = s.fldAt j g := by
  unfold State.fldAt
  rw [State.rd_putAt_ne _ _ _ _ _ h]

theorem State.fldAt_putAt_apart (s : State) (i j : Nat) (f g : Fld) (v : Nat) (h : f.inWord) (ha : f.apart g) :
    (s.putAt i f v).fldAt j g = s.fldAt j g := by
  by_cases hj : g.addr + j = f.addr + i
  · unfold State.fldAt State.putAt
    rw [hj, State.rd_wr_self]
    cases ha with
    | inl ha => exact getBits_setBits_above _ _ _ _ _ _ h.1 h.2 ha
    | inr ha => exact getBits_setBits_below _ _ _ _ _ _ h.1 h.2 ha.1 ha.2
  · exact State.fldAt_putAt_ne s i j f g v hj

theorem State.fld_put_ne (s : State) (f g : Fld) (v : Nat) (h : g.addr ≠ f.addr) : (s.put f v).fld g = s.fld g :=
  State.fldAt_putAt_ne s 0 0 f g v h

theorem State.fld_put_apart (s : State) (f g : Fld) (v : Nat) (h : f.inWord) (ha : f.apart g) : (s.put f v).fld g = s.fld g :=
  State.fldAt_putAt_apart s 0 0 f g v h ha

/-- A counter saturates at its all-ones value. -/
theorem State.fldAt_addAt (s : State) (i : Nat) (f : Fld) (n : Nat) (h : f.inWord) :
    (s.addAt i f n).fldAt i f = min (s.fldAt i f + n) f.top := by
  unfold State.addAt
  rw [State.fldAt_putAt _ _ _ _ h]
  apply Nat.mod_eq_of_lt
  have : f.top < 2 ^ (f.hi + 1 - f.lo) := Nat.sub_lt (Nat.two_pow_pos _) (by decide)
  omega

end Sys2Proof.Machine
end

