-- ==== Sys2Proof/Tests/Slice0.lean ====
section
/-! SUPPORT. The ill-formed terms that WellFormed refuses, small tests of single steps, and for every statement with
hypotheses a state and operands that meet them. -/
namespace Sys2Proof.Tests
-- each theorem is checked before the next one begins: the kernel evaluations are many, and each would hold a thread of its own
set_option Elab.async false
open Sys2Proof.Machine


/-! ### Helpers -/

/-- A host write with all byte enables. -/
def wr (d : Word) : Wr := ⟨.host, d, 0xF, true⟩
/-- The definition of the register at an address. -/
def regOf (a : Nat) : RegDef := (regAt a).getD ⟨"", 0, 1, .glb, false, false, false, []⟩
/-- A field of a register. -/
def fieldOf (a k : Nat) : FieldDef := (regOf a).fields.getD k ⟨⟨0, 0, 0⟩, .ro, .none, 0⟩
/-- A write with one byte enable clear. -/
def wrPart : Wr := ⟨.host, 1, 7, true⟩
def core3 : CoreId := 3
def eng2 : EngId := 2
/-- Reset, and reset with the seal set. -/
def fresh : State := State.reset
def closed : State := State.reset.put GLB_LOCK_CFG_SEAL 1
/-- A running schedule: variant 0 in force and admitted, the control core up, in service. -/
def alive : State :=
  (({ State.reset with sched := { State.reset.sched with running := true, admitted := true } }.put SEC_STAT_RUNNING 1).put
    GLB_STATE_STATE 1).put TB_STAT_COUNT_VALID 1
/-- A small tile on engine 2 of logical core 3, with four active rows and two columns. -/
def tile0 : TileDecl :=
  ⟨0, 0, 0, 3, 2, 4, false, 4, 4, 2, [], false, 0, [], 0, [], [], 0, false, false, false, [], false, 0, false, none, false⟩
/-- A request-bushel variant of one mile. -/
def var0 : Variant := ⟨0, 50, false, 1, [], [], 1, [], 10, [], [], [], [], [], [], [], [], []⟩
/-- Region 0: tiles (0, 0) to (9, 9), attachment core 0, restore area at 0. -/
def region0 : Region := ⟨0, 0, 0, 10, 10, 0, 5, [3, 4], [0, 1, 2], [1], 0⟩
/-- The same schedule with an image of one tile, one region and two logical cores on their own numbers. -/
def image0 : Image := { Image.none with version := 1, serving := true, entry := true, exit := true, tiles := [tile0], variants := [var0], regions := [region0] }
/-- A slot of core 3 that the schedule places in the running rod, with token 1 in and token 2 out. -/
def dueOn (a : Agent) (k : SlotKind) : DueIssue := ⟨3, 0, 0, 0, a, 0, [1], 2, k⟩
def dueAll : List DueIssue :=
  [.engine 2, .matrix, .vector, .dispatch, .pageWalk, .stack 0, .meshA, .rowBus, .colBus, .poller].map (fun a => dueOn a .request) ++
  [dueOn (.engine 2) .calibration, dueOn (.engine 2) .patrol, dueOn (.engine 2) .program, dueOn (.engine 2) .repeatWindow,
   dueOn .vector .patrol]
def busy : State :=
  { alive with sched := { alive.sched with due := dueAll }, boot := { alive.boot with image := image0, imageOk := true },
               faults := { alive.faults with logMap := [(3, 4), (4, 5)] } }
def issue0 : Issue := ⟨3, 0, [1], 2⟩

/-! ### The register interface -/

/-- PlainWriteFollowsAccessCodes: an RWS field, through a write that reaches it. -/
theorem witness_plainWrite_rw :
    (4868 % 4 = 0) ∧
    (regAt 4868 = some (regOf 4868)) ∧
    (fieldOf 4868 0 ∈ (regOf 4868).fields) ∧
    (ownCommand 4868 = false) ∧
    ((regOf 4868).name ≠ "ENG_WIT_CFG") ∧
    ((regOf 4868).name ≠ "THM_SKIP_AT") ∧
    ((regOf 4868).name ≠ "PWR_CAP") ∧
    (writeReaches fresh (wr 5) 4868 (regOf 4868) = true) ∧
    (fresh.refuses (fresh.blockRuns (regOf 4868).blk 4868) 4868 (fieldOf 4868 0) = Refuse.no) := by decide +kernel

def state_plainWrite_w1c : State :=
  fresh.put GLB_ACC_ERR_PARTIAL 1
/-- PlainWriteFollowsAccessCodes: a W1C field. -/
theorem witness_plainWrite_w1c :
    (56 % 4 = 0) ∧
    (regAt 56 = some (regOf 56)) ∧
    (fieldOf 56 1 ∈ (regOf 56).fields) ∧
    (ownCommand 56 = false) ∧
    ((regOf 56).name ≠ "ENG_WIT_CFG") ∧
    ((regOf 56).name ≠ "THM_SKIP_AT") ∧
    ((regOf 56).name ≠ "PWR_CAP") ∧
    (writeReaches state_plainWrite_w1c (wr 4294967295) 56 (regOf 56) = true) ∧
    (state_plainWrite_w1c.refuses (state_plainWrite_w1c.blockRuns (regOf 56).blk 56) 56 (fieldOf 56 1) = Refuse.no) := by decide +kernel

/-- PlainWriteFollowsAccessCodes: an RO field. -/
theorem witness_plainWrite_ro :
    (16 % 4 = 0) ∧
    (regAt 16 = some (regOf 16)) ∧
    (fieldOf 16 0 ∈ (regOf 16).fields) ∧
    (ownCommand 16 = false) ∧
    ((regOf 16).name ≠ "ENG_WIT_CFG") ∧
    ((regOf 16).name ≠ "THM_SKIP_AT") ∧
    ((regOf 16).name ≠ "PWR_CAP") ∧
    (writeReaches fresh (wr 4294967295) 16 (regOf 16) = true) ∧
    (fresh.refuses (fresh.blockRuns (regOf 16).blk 16) 16 (fieldOf 16 0) = Refuse.no) := by decide +kernel

/-- RefusedWriteKeepsFieldAndIsCaptured: a sealed RWS field of class L, a class B field under the seal, and a frozen field of a running block. -/
theorem witness_refusedWrite_sealed :
    (4868 % 4 = 0) ∧
    (4868 < 134217728) ∧
    (regAt 4868 = some (regOf 4868)) ∧
    (fieldOf 4868 0 ∈ (regOf 4868).fields) ∧
    (ownCommand 4868 = false) ∧
    (writeReaches closed (wr 7) 4868 (regOf 4868) = true) ∧
    ((fieldOf 4868 0).acc = Access.rws ∧ closed.isSet GLB_LOCK_CFG_SEAL = true ∨ (fieldOf 4868 0).cls = FieldClass.frozen ∧ closed.blockRuns (regOf 4868).blk 4868 = true) := by decide +kernel

def state_refusedWrite_frozen : State :=
  (alive.put LD_STAT_BUSY 1).put CFG_WREF_VALID 1
/-- RefusedWriteKeepsFieldAndIsCaptured: a class F field of a running block, its capture already taken. -/
theorem witness_refusedWrite_frozen :
    (LD_MAN_LO_VALUE.addr % 4 = 0) ∧
    (LD_MAN_LO_VALUE.addr < 134217728) ∧
    (regAt LD_MAN_LO_VALUE.addr = some (regOf LD_MAN_LO_VALUE.addr)) ∧
    (fieldOf LD_MAN_LO_VALUE.addr 0 ∈ (regOf LD_MAN_LO_VALUE.addr).fields) ∧
    (ownCommand LD_MAN_LO_VALUE.addr = false) ∧
    (writeReaches state_refusedWrite_frozen (wr 7) LD_MAN_LO_VALUE.addr (regOf LD_MAN_LO_VALUE.addr) = true) ∧
    ((fieldOf LD_MAN_LO_VALUE.addr 0).acc = Access.rws ∧ state_refusedWrite_frozen.isSet GLB_LOCK_CFG_SEAL = true ∨ (fieldOf LD_MAN_LO_VALUE.addr 0).cls = FieldClass.frozen ∧ state_refusedWrite_frozen.blockRuns (regOf LD_MAN_LO_VALUE.addr).blk LD_MAN_LO_VALUE.addr = true) := by decide +kernel

/-- DroppedWritesOnlyCount: an address in no register. -/
theorem witness_dropped_read :
    (regAt 327680 = none) ∧
    (inMonBuffer 327680 = false) := by decide +kernel

/-- DroppedWritesOnlyCount: a state and operands that meet its hypotheses. -/
theorem witness_dropped_chrysalisRead :
    (regAt 56 = some (regOf 56)) ∧
    ((regOf 56).blk = Block.glb) ∧
    (56 ≠ GLB_STATE_STATE.addr) := by decide +kernel

def state_dropped_chrysalis : State :=
  fresh.put GLB_STATE_STATE 2
/-- DroppedWritesOnlyCount: a state and operands that meet its hypotheses. -/
theorem witness_dropped_chrysalis :
    ((wr 1).port = PortId.host) ∧
    (state_dropped_chrysalis.fld GLB_STATE_STATE = 2) := by decide +kernel

/-- DroppedWritesOnlyCount: a state and operands that meet its hypotheses. -/
theorem witness_dropped_unmapped :
    (¬((wr 1).port = PortId.host ∧ fresh.fld GLB_STATE_STATE = 2)) ∧
    (¬((wr 1).port = PortId.host ∧ fresh.sec.guard = true ∧ (!(wr 1).tbit) = true)) ∧
    (regAt 327680 = none) ∧
    (inMonBuffer 327680 = false) := by decide +kernel

/-- DroppedWritesOnlyCount: a state and operands that meet its hypotheses. -/
theorem witness_dropped_partial :
    (¬(wrPart.port = PortId.host ∧ fresh.fld GLB_STATE_STATE = 2)) ∧
    (¬(wrPart.port = PortId.host ∧ fresh.sec.guard = true ∧ (!wrPart.tbit) = true)) ∧
    ((regAt 4718596).isSome = true) ∧
    (wrPart.be ≠ 15) := by decide +kernel

/-- DroppedWritesOnlyCount: a state and operands that meet its hypotheses. -/
theorem witness_dropped_ro :
    (¬((wr 4294967295).port = PortId.host ∧ fresh.fld GLB_STATE_STATE = 2)) ∧
    (¬((wr 4294967295).port = PortId.host ∧ fresh.sec.guard = true ∧ (!(wr 4294967295).tbit) = true)) ∧
    (regAt 16 = some (regOf 16)) ∧
    ((wr 4294967295).be = 15) ∧
    (ownCommand 16 = false) ∧
    (∀ f ∈ (regOf 16).fields, f.acc = Access.ro ∧ f.cls = FieldClass.none) ∧
    ((regOf 16).name ≠ "ENG_WIT_CFG") ∧
    ((regOf 16).name ≠ "THM_SKIP_AT") ∧
    ((regOf 16).name ≠ "PWR_CAP") := by decide +kernel

/-- BoundedFieldsStoreWithinTheirBounds: at the three bounded registers, at the values next to the bounds. -/
theorem witness_bounded_tol :
    (regAt (ENG_WIT_CFG_TOL.addr + engI ↑core3 ↑eng2) = some (regOf (ENG_WIT_CFG_TOL.addr + engI ↑core3 ↑eng2))) ∧
    (writeReaches fresh (wr 2) (ENG_WIT_CFG_TOL.addr + engI ↑core3 ↑eng2) (regOf (ENG_WIT_CFG_TOL.addr + engI ↑core3 ↑eng2)) = true) ∧
    (fresh.isSet GLB_LOCK_CFG_SEAL = false) := by decide +kernel

/-- BoundedFieldsStoreWithinTheirBounds: a state and operands that meet its hypotheses. -/
theorem witness_bounded_tol16 :
    (regAt (ENG_WIT_CFG_TOL.addr + engI ↑core3 ↑eng2) = some (regOf (ENG_WIT_CFG_TOL.addr + engI ↑core3 ↑eng2))) ∧
    (writeReaches fresh (wr 16) (ENG_WIT_CFG_TOL.addr + engI ↑core3 ↑eng2) (regOf (ENG_WIT_CFG_TOL.addr + engI ↑core3 ↑eng2)) = true) ∧
    (fresh.isSet GLB_LOCK_CFG_SEAL = false) := by decide +kernel

/-- BoundedFieldsStoreWithinTheirBounds: a state and operands that meet its hypotheses. -/
theorem witness_bounded_skip :
    ((THM_SKIP_AT_TEMP, 21760) = (THM_SKIP_AT_TEMP, 21760) ∨ (THM_SKIP_AT_TEMP, 21760) = (PWR_CAP_CAP, 6000)) ∧
    (regAt THM_SKIP_AT_TEMP.addr = some (regOf THM_SKIP_AT_TEMP.addr)) ∧
    (writeReaches fresh (wr 21759) THM_SKIP_AT_TEMP.addr (regOf THM_SKIP_AT_TEMP.addr) = true) := by decide +kernel

/-- BoundedFieldsStoreWithinTheirBounds: a negative threshold, and the two sides of the one in force. -/
theorem witness_bounded_below :
    (0x8000 ≤ wbits (wr 0x8000).data THM_SKIP_AT_TEMP) ∧
    (wbits (wr 25600).data THM_SKIP_AT_TEMP < 0x8000 ∧ wbits (wr 25600).data THM_SKIP_AT_TEMP ≤ fresh.inForceAt 0 THM_SKIP_AT_TEMP) ∧
    (wbits (wr 25601).data THM_SKIP_AT_TEMP < 0x8000 ∧ fresh.inForceAt 0 THM_SKIP_AT_TEMP < wbits (wr 25601).data THM_SKIP_AT_TEMP) ∧
    (writeReaches fresh (wr 0x8000) THM_SKIP_AT_TEMP.addr (regOf THM_SKIP_AT_TEMP.addr) = true) := by decide +kernel

/-- BoundedFieldsStoreWithinTheirBounds: a state and operands that meet its hypotheses. -/
theorem witness_bounded_cap :
    ((PWR_CAP_CAP, 6000) = (THM_SKIP_AT_TEMP, 21760) ∨ (PWR_CAP_CAP, 6000) = (PWR_CAP_CAP, 6000)) ∧
    (regAt PWR_CAP_CAP.addr = some (regOf PWR_CAP_CAP.addr)) ∧
    (writeReaches fresh (wr 14001) PWR_CAP_CAP.addr (regOf PWR_CAP_CAP.addr) = true) := by decide +kernel

/-- RegisterWriteFrame: a state and operands that meet its hypotheses. -/
theorem witness_frame :
    (ownCommand 1048576 = false) := by decide +kernel

def state_boundary_runs : State :=
  alive.put TB_STAT_RUNNING 1
/-- BoundaryClassWaitsForItsFurlong: while the block runs and while it does not. -/
theorem witness_boundary_runs :
    (4868 % 4 = 0) ∧
    (regAt 4868 = some (regOf 4868)) ∧
    (ownCommand 4868 = false) ∧
    ((regOf 4868).name ≠ "ENG_WIT_CFG") ∧
    ((regOf 4868).name ≠ "THM_SKIP_AT") ∧
    ((regOf 4868).name ≠ "PWR_CAP") ∧
    (writeReaches state_boundary_runs (wr 3) 4868 (regOf 4868) = true) ∧
    ((regOf 4868).fields ≠ []) ∧
    (∀ f ∈ (regOf 4868).fields, f.cls = FieldClass.boundary ∧ (f.acc = Access.rw ∨ f.acc = Access.rws) ∧ state_boundary_runs.refuses (state_boundary_runs.blockRuns (regOf 4868).blk 4868) 4868 f = Refuse.no) := by decide +kernel

/-- BoundaryClassWaitsForItsFurlong: a state and operands that meet its hypotheses. -/
theorem witness_boundary_stopped :
    (4868 % 4 = 0) ∧
    (regAt 4868 = some (regOf 4868)) ∧
    (ownCommand 4868 = false) ∧
    ((regOf 4868).name ≠ "ENG_WIT_CFG") ∧
    ((regOf 4868).name ≠ "THM_SKIP_AT") ∧
    ((regOf 4868).name ≠ "PWR_CAP") ∧
    (writeReaches fresh (wr 3) 4868 (regOf 4868) = true) ∧
    ((regOf 4868).fields ≠ []) ∧
    (∀ f ∈ (regOf 4868).fields, f.cls = FieldClass.boundary ∧ (f.acc = Access.rw ∨ f.acc = Access.rws) ∧ fresh.refuses (fresh.blockRuns (regOf 4868).blk 4868) 4868 f = Refuse.no) := by decide +kernel

/-- SealSetOnceUntilReset: a state and operands that meet its hypotheses. -/
theorem witness_seal :
    (regAt GLB_LOCK_CFG_SEAL.addr = some (regOf GLB_LOCK_CFG_SEAL.addr)) ∧
    (writeReaches fresh (wr 2147483648) GLB_LOCK_CFG_SEAL.addr (regOf GLB_LOCK_CFG_SEAL.addr) = true) := by decide +kernel

/-- SealSetOnceUntilReset: a state and operands that meet its hypotheses. -/
theorem witness_seal_again :
    (regAt GLB_LOCK_CFG_SEAL.addr = some (regOf GLB_LOCK_CFG_SEAL.addr)) ∧
    (writeReaches closed (wr 0) GLB_LOCK_CFG_SEAL.addr (regOf GLB_LOCK_CFG_SEAL.addr) = true) := by decide +kernel

/-- WideMailboxReadsSnapshot: a state and operands that meet its hypotheses. -/
theorem witness_wideSel :
    (regAt WIDE_SEL_ADDR.addr = some (regOf WIDE_SEL_ADDR.addr)) ∧
    (writeReaches fresh (wr 4160) WIDE_SEL_ADDR.addr (regOf WIDE_SEL_ADDR.addr) = true) := by decide +kernel

def state_wideSnap : State :=
  { fresh with hostBox := { fresh.hostBox with busy := true, addr := TB_ROD_COUNT.addr } }
/-- WideMailboxReadsSnapshot: a state and operands that meet its hypotheses. -/
theorem witness_wideSnap :
    ((state_wideSnap.box PortId.host).busy = true) := by decide +kernel

def state_wideSnap_none : State :=
  { fresh with coreBox := { fresh.hostBox with busy := true, addr := 4 } }
/-- WideMailboxReadsSnapshot: a state and operands that meet its hypotheses. -/
theorem witness_wideSnap_none :
    ((state_wideSnap_none.box PortId.controlCore).busy = true) := by decide +kernel

def state_commit : State :=
  fresh.put CFG_CRC_CTRL_ALARM 1
/-- CommitPutsReferenceInForce: a state and operands that meet its hypotheses. -/
theorem witness_commit :
    (regAt CFG_CRC_CTRL_COMMIT.addr = some (regOf CFG_CRC_CTRL_COMMIT.addr)) ∧
    (writeReaches state_commit (wr 4294967295) CFG_CRC_CTRL_COMMIT.addr (regOf CFG_CRC_CTRL_COMMIT.addr) = true) ∧
    (wbits (wr 4294967295).data CFG_CRC_CTRL_COMMIT = 1) := by decide +kernel

/-- CommitPutsReferenceInForce: a state and operands that meet its hypotheses. -/
theorem witness_adopt :
    (regAt CFG_CRC_CTRL_COMMIT.addr = some (regOf CFG_CRC_CTRL_COMMIT.addr)) ∧
    (writeReaches fresh (wr (CFG_CRC_CTRL_ADOPT.of 1)) CFG_CRC_CTRL_COMMIT.addr (regOf CFG_CRC_CTRL_COMMIT.addr) = true) ∧
    (wbits (wr (CFG_CRC_CTRL_ADOPT.of 1)).data CFG_CRC_CTRL_COMMIT = 0) ∧
    (wbits (wr (CFG_CRC_CTRL_ADOPT.of 1)).data CFG_CRC_CTRL_ADOPT = 1) := by decide +kernel

def state_adoptPass : State :=
  { alive with crc := { alive.crc with adopt := true, adoptPass := true } }
/-- CommitPutsReferenceInForce: a state and operands that meet its hypotheses. -/
theorem witness_adoptPass :
    (state_adoptPass.isSet SEC_STAT_RUNNING = true) ∧
    (state_adoptPass.injects 30 0 0 = none) ∧
    (state_adoptPass.crc.adopt = true) ∧
    (state_adoptPass.crc.adoptPass = true) := by decide +kernel

def state_crcPass : State :=
  { (alive.put CFG_CRC_CTRL_ARMED 1).put CFG_CRC_CTRL_OPEN 1 with crc := { alive.crc with openRod := some 0 }, sec := { alive.sec with clockRods := 1023 } }
/-- CrcPassComparesAndAlarms: armed with an open write at the last rod before the limit, and at it. -/
theorem witness_crcPass :
    (state_crcPass.isSet SEC_STAT_RUNNING = true) ∧
    (state_crcPass.injects 30 0 0 = none) ∧
    (state_crcPass.crc.adopt = false) := by decide +kernel

def state_crcPass_late : State :=
  { (alive.put CFG_CRC_CTRL_ARMED 1).put CFG_CRC_CTRL_OPEN 1 with crc := { alive.crc with openRod := some 0 }, sec := { alive.sec with clockRods := 1024 } }
/-- CrcPassComparesAndAlarms: a state and operands that meet its hypotheses. -/
theorem witness_crcPass_late :
    (state_crcPass_late.isSet SEC_STAT_RUNNING = true) ∧
    (state_crcPass_late.injects 30 0 0 = none) ∧
    (state_crcPass_late.crc.adopt = false) := by decide +kernel

def state_msix : State :=
  { fresh with msix := { fresh.msix with pend := [5] } }
/-- MsixMaskAndUnmask: a state and operands that meet its hypotheses. -/
theorem witness_msix :
    (state_msix.fld GLB_STATE_STATE ≠ 2) := by decide +kernel

/-! ### Ill-formed terms, one for each check of WellFormed -/

def okIssue : Issue := ⟨0, 0, [], 0⟩
def okSend : Send := ⟨.units 0, 0, 0, 1, 1, 0, 72⟩
def okMsg : SbMsg := ⟨6, 0, 0, 0, 0⟩
def okHdr : FrameHdr := ⟨0, 0, 0, 0, 0, 0, 0, 0, 0, 0, 0, 0, 0, 0⟩
def okRx : FrameRx := ⟨0, false, true⟩
def okHello : Hello := ⟨0, 0, 0, 0, 0, [], 0, 0⟩
def okConfirm : Confirm := ⟨0, 0, 0, 0, true⟩
def okIn : StageIn := ⟨0, .bf16 [], 0, 0, 0, .request⟩
def okReturn : ReturnRec := ⟨0, 0, 0, 0, [], 0, none, false⟩
def okRead : List Byte := List.replicate 128 0

/-- The terms from which the ill-formed ones are made are well formed. -/
theorem wellFormed_bases : ([.dispatchGrant okIssue 0 [], .meshTransfer okIssue 0 okSend [], .sbHeat okMsg, .dataFrame 0 okRx okHdr [[]] none none,
    .helloFrame 0 okHello okRx, .confirmFrame 0 okConfirm okRx, .inputStaging 0 0 okIn, .returnRecord okReturn,
    .stackRead okIssue 64 1 0 [] 0 false, .cancel okRead] : List Instr).all Instr.wellFormed = true := by decide +kernel
theorem illFormed_issues : ([⟨0, 256, [], 0⟩, ⟨0, 0, [0, 0, 0, 0, 0], 0⟩, ⟨0, 0, [256], 0⟩, ⟨0, 0, [], 256⟩] : List Issue).all
    (fun i => !(Instr.dispatchGrant i 0 []).wellFormed) = true := by decide +kernel
theorem illFormed_upsets : (Instr.dispatchGrant okIssue 0 [(1099511627776, true)]).wellFormed = false := by decide
theorem illFormed_sends : ([{ okSend with token := 256 }, { okSend with kind := 8 }, { okSend with bytes := 71 }, { okSend with index := 1024 },
    { okSend with perRow := 0 }, { okSend with index := 32 }] : List Send).all
    (fun x => !(Instr.meshTransfer okIssue 0 x []).wellFormed) = true := by decide +kernel
theorem illFormed_receivers : ([⟨0, 256, 0, 1, 0⟩, ⟨0, 0, 0, 0, 0⟩, ⟨0, 0, 0, 1025, 0⟩] : List BusRecv).all
    (fun x => !(Instr.broadcast okIssue true okSend [x] []).wellFormed) = true := by decide +kernel
theorem illFormed_messages : ([{ okMsg with kind := 16 }, { okMsg with group := 16 }, { okMsg with module := 64 }, { okMsg with mile := 65536 },
    { okMsg with data := 4294967296 }] : List SbMsg).all (fun m => !(Instr.sbHeat m).wellFormed) = true := by decide +kernel
theorem illFormed_headers : ([{ okHdr with type := 16 }, { okHdr with rev := 256 }, { okHdr with prec := 65536 }, { okHdr with dstRegion := 16 },
    { okHdr with dstGroup := 16 }, { okHdr with srcMod := 64 }, { okHdr with token := 256 }, { okHdr with inst := 256 }, { okHdr with count := 16 },
    { okHdr with fmt := 4 }, { okHdr with index := 1024 }, { okHdr with seqLo := 65536 }] : List FrameHdr).all
    (fun h => !(Instr.dataFrame 0 okRx h (List.replicate (h.count + 1) []) none none).wellFormed) = true := by decide +kernel
theorem illFormed_frames : ([.dataFrame 0 okRx okHdr [] none none, .dataFrame 0 ⟨65536, false, true⟩ okHdr [[]] none none,
    .heartbeatReceived 0 okRx 65536 0 [], .heartbeatReceived 0 okRx 0 16 [], .heartbeatReceived 0 okRx 0 0 (List.replicate 4 okMsg),
    .frameSend okIssue 0 0 0 8 okSend [], .lossConfirmation 0 64, .lossDisableTimeout 16 0] : List Instr).all
    (fun c => !c.wellFormed) = true := by decide +kernel
theorem illFormed_training : ([.helloFrame 0 { okHello with port := 64 } okRx, .helloFrame 0 { okHello with width := 9 } okRx,
    .helloFrame 0 { okHello with group := 16 } okRx, .helloFrame 0 { okHello with compat := List.replicate 9 0 } okRx,
    .confirmFrame 0 { okConfirm with result := 4 } okRx, .confirmFrame 0 { okConfirm with logical := 64 } okRx] : List Instr).all
    (fun c => !c.wellFormed) = true := by decide +kernel
theorem illFormed_stores : ([.returnCombine okIssue 0 0 0 786432 [], .lineRestore 0 12288, .stackRead okIssue 1099511627776 1 0 [] 0 false,
    .stackRead okIssue 51539607552 1 0 [] 0 false, .stackRead okIssue 32 1 0 [] 0 false, .stackRead okIssue 64 0 0 [] 0 false,
    .stackRead okIssue 64 1 786432 [] 0 false, .stackWrite okIssue 0 0 64 [], .engineBeat okIssue 0 786432 0 0 false [], .engineBeat okIssue 0 0 0 0 false [⟨8, true⟩], .mergeDeadline 0 0 8 0 0, .mergeDeadline 0 0 0 256 0,
    .repeatWindow 0 0 0 0 0 0 false [⟨8, false⟩]] : List Instr).all
    (fun c => !c.wellFormed) = true := by decide +kernel
theorem illFormed_requests : ([.cancel [], .intakePoll [[]] 0 false, .pageWalk okIssue 8192 0 0 0 [] [], .pageWalk okIssue 0 64 0 0 [] [], .pageWalk okIssue 0 0 2097152 0 [] [],
    .slotFree 8192, .entryIssue 256,
    .sampling 256 0 [] false false, .commitDecision 0 8192, .returnRecord { okReturn with bushel := 256 },
    .hostReadCompletion 0 0 255 0 0 0 [] 0 false, .hostReadCompletion 0 0 0 256 0 0 [] 0 false, .hostReadCompletion 0 0 0 0 0 786432 [] 0 false] : List Instr).all
    (fun c => !c.wellFormed) = true := by decide +kernel
theorem illFormed_attention : ([.spanSlot okIssue 0 0 8192 0 0 0 0 0 false [] false, .spanSlot okIssue 0 0 0 0 2097152 0 0 0 false [] false,
    .spanSlot okIssue 0 0 0 0 0 0 786432 0 false [] false, .spanMerge okIssue 0 0 0 0 0 786432, .pageFrameRelease 8192,
    .ringRequestStart 8192 0, .quarantineLapse 0 512] : List Instr).all (fun c => !c.wellFormed) = true := by decide +kernel
theorem illFormed_rest : ([.inputStaging 0 0 { okIn with tile := 8 }, .inputStaging 0 0 { okIn with pos := 2097152 }, .fmarkPulse 0 0,
    .operationOverrun okIssue 16, .slackWindow 0 15, .hallmarkReq [], .getCertificate 8 0 0, .challenge 8, .getMeasurements 256,
    .keyExchange 8, .keyUpdate 256, .ideKmKeyProgram 256, .ideIntegrityFailure 256, .patrolSlot 0 0 0 false [], .patrolSlot 0 0 1 false [⟨8, true⟩], .queryPass 0 false [] [(0, ⟨8, true⟩)], .repairStepDone 800 true,
    .imgData 4294967296 [], .registerWrite 2 ⟨.host, 0, 15, true⟩, .registerWrite 134217728 ⟨.host, 0, 15, true⟩,
    .hostLinkTraining true 7 1, .hostLinkTraining true 1 17] : List Instr).all (fun c => !c.wellFormed) = true := by decide +kernel

def okMat : MatIn := ⟨.bf16, 0, 0, 1, 0, 0⟩
def okMatrix : MatOp := .product 0 1 1 32 okMat okMat none 0 .f32
/-- A product whose formats or addresses the matrix unit does not have (R155, R160). -/
theorem illFormed_products : (Instr.matrixOp okIssue okMatrix [] false).wellFormed = true ∧
    ([.product 0 1 1 32 okMat okMat none 0 .int4, .product 0 1 1 32 { okMat with fmt := .f32 } okMat none 0 .f32,
      .product 0 1 1 32 okMat { okMat with fmt := .e4m3 } none 0 .f32, .product 1 32 1 32 okMat okMat none 0 .f32,
      .product 0 1 1 32 { okMat with addr := 786432 } okMat none 0 .f32, .outlier 0 8 0] : List MatOp).all
    (fun o => !(Instr.matrixOp okIssue o [] false).wellFormed) = true := by decide +kernel

/-! ### The worked cases of the manual -/

def rowsFirst : RowMap := ⟨[0], [List.range 32]⟩
/-- 02_engine_array.md, "Worked case: one dot product": the staged input, its reference exponent and the slices of its four rows. -/
def dotTile : TileDecl := ⟨0, 0, 0, 3, 2, 4, false, 8, 4, 1, [], false, 0, [], 0, [], [], 0, false, false, false, [], false, 0, false, none, false⟩
def dotStaged : Staged := State.reset.stage dotTile ⟨0, .a8 [(120, [100, -37, 0, 64])], 0, 0, 0, .request⟩ 8 0 []
theorem test_dot_staging : dotStaged.x = [100, -37, 0, 64] ∧ dotStaged.h = [7] ∧ dotStaged.eRef = -14 ∧
    (List.range 4).map (fun i => (List.range 4).map (dotStaged.level false rowsFirst (3 - i))) =
      [[3, 1, 2, 3], [2, 1, 0, 0], [1, 2, 0, 0], [0, 3, 0, 0]] := by decide +kernel
/-- The same case from its codes: P, and the output −0.0263671875. -/
def dotTier : Tier :=
  { Tier.blank with bits := 4, active := [(0, 4)], digits := [(0, 9), (32, 5)], sigma := [(0, 0x2800)], shifts := [(0, List.replicate 8 2)] }
def dotCodes : SMap Nat := ([(3, 0, 18), (3, 1, 12), (2, 0, 9), (2, 1, 4), (1, 0, 9), (1, 1, 2), (0, 0, 9)] : List (Nat × Nat × Nat)).foldl
  (fun m e => SMap.set (fun _ => 0) m (e.1 * 32 * 1040 + e.2.1) e.2.2) []
theorem test_dot_result : dotTier.columnInt rowsFirst dotStaged dotCodes 4 0 false = -13824 ∧ (dotTier.scaled 0 (-13824) (-14)).1 = 0xBCD80000 := by
  decide +kernel
/-- 03_segment_conversion.md: a held value of 137.4 grains gives 138 for ρ = 5 and 137 for ρ = 6. -/
theorem test_conversion : convert (fun t _ => decide (5 * t ≤ 137 * 160 + 64)) 5 = 138 ∧ convert (fun t _ => decide (5 * t ≤ 137 * 160 + 64)) 6 = 137 := by
  decide +kernel
/-- 05_assize_calibration.md: the DAC codes of a threshold before and after the update. -/
theorem test_threshold : dacCode 8274 37 (-431) 4395 = 4359 ∧ dacCode 8275 38 (-422) 4395 = 4363 := by decide +kernel
/-- 04_formats_widening.md, "Worked case: one widening event": the A6 restaging is exact, E_ref −11, and does not crush. -/
def widenTile : TileDecl := { dotTile with nAct := 32, inBits := 4, widen := true, crushLimit := 4 }
def widenIn : StageIn := ⟨0, .a8 [(121, [120, 8, -8, 4, -4, 8, 4, -8, 4] ++ List.replicate 23 0)], 0, 0, 0, .request⟩
theorem test_widening : (State.reset.stage widenTile widenIn 6 1 []).x.take 9 = [30, 2, -2, 1, -1, 2, 1, -2, 1] ∧
    (State.reset.stage widenTile widenIn 6 1 []).eRef = -11 ∧ (State.reset.stage widenTile widenIn 6 1 []).crush = false ∧
    (State.reset.stage widenTile widenIn 4 0 []).eRef = -8 := by decide +kernel
/-- 17_retrieval.md: the search's bounds of THRESH 0.0 and a largest score of 0.8125. -/
theorem test_order_keys : orderKey 0 = 0x80000000 ∧ orderKey 0x3F500000 = 0xBF500000 := by decide +kernel
/-- 18_registers.md: the address of the witness tolerance of engine 3 of core 212, and what a write of 2 leaves there. -/
def tolWrite : Host.Outcome State Fault Refusal := exec (.registerWrite 0x01D44010 ⟨.host, 2, 15, true⟩) State.reset
def readAfter (o : Host.Outcome State Fault Refusal) (a : Nat) : Option Word := match o with | .next t => some (t.rd a) | _ => none
theorem test_tolerance : ENG_WIT_CFG_TOL.addr + engI 212 3 = 0x01D44010 ∧ readAfter tolWrite 0x01D44010 = some 3 := by decide +kernel
/-- No row of the table has bits, so no word spells a command. -/
theorem test_no_words : decodeTableWord 32 5 = none ∧ State.reset.withFetchWord 32 5 = State.reset := by decide +kernel

/-! ### The engines -/

/-- Tier 1 of the engine mapped, tier 0 live. -/
def engined : State :=
  ({ busy with tiers := [(tierKey 3 2 0, { Tier.blank with mapped := true, role := 1, tile := some 0 }),
                         (tierKey 3 2 1, { Tier.blank with mapped := true, role := 1 })] }.putAt (engI 3 2) ENG_STAT_LIVE 1).putAt
    (engI 3 2) ENG_STAT_LIVE_TIER 0
def tier0 : TierId := 0
def tier1 : TierId := 1
def tier2 : TierId := 2
def stage0 : StageIn := ⟨0, .bf16 [0x3F80, 0x7FC0, 0x7F80, 0x4000], 7, 0, 0, .request⟩
def stageZ : StageIn := ⟨0, .bf16 [0, 0, 0, 0], 7, 0, 0, .request⟩
def staged0 : Staged := ⟨stageZ, 4, 0, [0, 0, 0, 0], [0], 0, true, false, [], false, none, none⟩
def beatOut0 : BeatOut := ⟨issue0, 31, 0, [1, 2], 0, 64, false, false, none, 0, false, [], none, none⟩

def repeat0 : RepeatDue := ⟨(0, 0), staged0, issue0, 64, none, false, 0⟩
def noRows : BitVec 32 := 0
def rowZero : BitVec 32 := 1
/-- TierSelectMakesLiveOrRefuses: a select of the live tier. -/
theorem witness_select_same :
    (engined.coreRunning ↑core3 = true) ∧
    (engined.injects 7 ↑core3 ↑eng2 ≠ some ↑tier0) ∧
    (engined.isSetAt (engI ↑core3 ↑eng2) ENG_STAT_LIVE = true ∧ engined.fldAt (engI ↑core3 ↑eng2) ENG_STAT_LIVE_TIER = ↑tier0) := by decide +kernel

/-- TierSelectMakesLiveOrRefuses: a state and operands that meet its hypotheses. -/
theorem witness_select_other :
    (engined.coreRunning ↑core3 = true) ∧
    (engined.injects 7 ↑core3 ↑eng2 ≠ some ↑tier1) ∧
    (¬(engined.isSetAt (engI ↑core3 ↑eng2) ENG_STAT_LIVE = true ∧ engined.fldAt (engI ↑core3 ↑eng2) ENG_STAT_LIVE_TIER = ↑tier1)) ∧
    (engined.selectBad ↑core3 ↑eng2 ↑tier1 = false) := by decide +kernel

/-- TierSelectMakesLiveOrRefuses: a tier without a row map; tier 1 with a word that fails is refused by `badWord` alone. -/
theorem witness_select_refused :
    (engined.coreRunning ↑core3 = true) ∧
    (engined.injects 7 ↑core3 ↑eng2 ≠ some ↑tier2) ∧
    (¬(engined.isSetAt (engI ↑core3 ↑eng2) ENG_STAT_LIVE = true ∧ engined.fldAt (engI ↑core3 ↑eng2) ENG_STAT_LIVE_TIER = ↑tier2)) ∧
    (engined.selectBad ↑core3 ↑eng2 ↑tier2 = true) ∧
    (engined.tier core3 eng2 tier2).bad = false := by decide +kernel

/-- StagingQueuesTheVector: a vector with a NaN and an infinity. -/
theorem witness_staging :
    (engined.coreRunning ↑core3 = true) ∧
    (engined.tileDecl (↑core3) (↑eng2) stage0.tile = some tile0) ∧
    ((engined.engine ↑core3 ↑eng2).staged.length < 2) := by decide +kernel

/-- The vector in front of the engine, its token complete. -/
def state_beat : State :=
  { engined with
    engines := [(engKey 3 2, { Engine.idle with staged := [staged0] })]
    sched := { engined.sched with tokens := [(tokKey 3 1, { Token.idle with arrived := 1 })] } }
/-- BeatTakesTheStagedVector: a zero vector that the live tier takes; nothing else waits at the output stage. -/
theorem witness_beat_zero :
    (state_beat.runs issue0 (.engine eng2.val) = true) ∧
    ((state_beat.engine ↑issue0.core ↑eng2).staged = [staged0]) ∧
    (state_beat.ready issue0 = Ready.run noRows none) ∧
    (noRows.getLsbD ↑staged0.input.row = false) ∧
    (staged0.zero = true) ∧
    ((((state_beat.consume issue0).dropStaged issue0.core eng2).rowsIn issue0).getLsbD staged0.input.row = true) ∧
    ((state_beat.engine ↑issue0.core ↑eng2).selBad = false) ∧
    (state_beat.isSetAt (engI ↑issue0.core ↑eng2) ENG_STAT_LIVE = true) ∧
    (state_beat.fldAt (engI ↑issue0.core ↑eng2) ENG_STAT_LIVE_TIER = 0) ∧
    (((state_beat.consume issue0).dropStaged issue0.core eng2).rowTier issue0.core eng2 0 issue0.ins none staged0.input.row = some 0) ∧
    (state_beat.tileDecl (↑issue0.core) (↑eng2) staged0.input.tile = some tile0) ∧
    ((state_beat.engine ↑issue0.core ↑eng2).dead = false) ∧
    (state_beat.untrustedUnit ↑issue0.core ↑eng2 = false) ∧
    ((state_beat.engine ↑issue0.core ↑eng2).outs = [] ∧ tile0.mirror = [] ∧ tile0.adapterMerge = false ∧ issue0.out ≠ 255) := by decide +kernel

def state_beat_late : State := { state_beat with sched := engined.sched }
/-- BeatTakesTheStagedVector: the token has not come. -/
theorem witness_beat_late :
    (state_beat_late.runs issue0 (.engine eng2.val) = true) ∧
    ((state_beat_late.engine ↑issue0.core ↑eng2).staged = [staged0]) ∧
    (state_beat_late.ready issue0 = Ready.late rowZero none) := by decide +kernel

def state_merge : State :=
  { engined with engines := [(engKey 3 2, { Engine.idle with outs := [beatOut0] })] }
/-- MergeDeadlineDelivers: a beat of the last row, with nothing missing. -/
theorem witness_merge :
    ((state_merge.engine ↑core3 ↑eng2).outs.find? (fun x => x.serves 0 31 0) = some beatOut0) ∧
    (beatOut0.issue.core = core3) ∧
    (beatOut0.issue.out ≠ 255) ∧
    (state_merge.injects 4 ↑core3 ↑eng2 = none) ∧
    (state_merge.contributed ↑core3 ↑eng2 beatOut0 = true) := by decide +kernel

/-- The same beat of a tile that takes an adapter's contribution, which has not come. -/
def state_merge_lacks : State :=
  { state_merge with boot := { state_merge.boot with image := { image0 with tiles := [{ tile0 with adapterMerge := true }] } } }
/-- MergeDeadlineDelivers: a contribution missing. -/
theorem witness_merge_lacks :
    ((state_merge_lacks.engine ↑core3 ↑eng2).outs.find? (fun x => x.serves 0 31 0) = some beatOut0) ∧
    (state_merge_lacks.injects 4 ↑core3 ↑eng2 = none) ∧
    (state_merge_lacks.contributed ↑core3 ↑eng2 beatOut0 = false) := by decide +kernel

/-- MergeDeadlineDelivers: no beat waits. -/
theorem witness_merge_none : (engined.engine ↑core3 ↑eng2).outs.find? (fun x => x.serves 0 31 0) = none := by decide +kernel

def state_repeat_6 : State :=
  { engined with engines := [(engKey 3 2, { Engine.idle with windows := [repeat0] })] }
/-- RepeatWindowRunsWiderPass: a beat at four bits. -/
theorem witness_repeat_6 :
    ((state_repeat_6.engine ↑core3 ↑eng2).windows.find? (fun x => x.window = (0, 0)) = some repeat0) ∧
    (state_repeat_6.coreRunning ↑core3 = true) ∧
    (state_repeat_6.sched.due.any (fun d => d.core = core3.val ∧ d.agent = .engine eng2 ∧ d.slot = 0 ∧ d.issue = 0 ∧
      d.kind = .repeatWindow) = true) ∧
    (state_repeat_6.isSetAt (engI ↑core3 ↑eng2) ENG_STAT_LIVE = true) ∧
    (state_repeat_6.fldAt (engI ↑core3 ↑eng2) ENG_STAT_LIVE_TIER = repeat0.tier) ∧
    (state_repeat_6.tileDecl (↑core3) (↑eng2) repeat0.staged.input.tile = some tile0) := by decide +kernel

def state_repeat_stopped : State :=
  { fresh with engines := [(engKey 3 2, { Engine.idle with windows := [repeat0] })] }
/-- RepeatWindowRunsWiderPass: the core has stopped; and a window that no beat has taken. -/
theorem witness_repeat_stopped :
    ((state_repeat_stopped.engine ↑core3 ↑eng2).windows.find? (fun x => x.window = (0, 0)) = some repeat0) ∧
    (state_repeat_stopped.coreRunning ↑core3 = false) ∧
    ((state_repeat_stopped.engine ↑core3 ↑eng2).windows.find? (fun x => x.window = (1, 0)) = none) := by decide +kernel

def state_precision : State :=
  { alive.put TB_PREC_THR_THRESH 10 with clampDue := some 10 }
/-- PrecisionSumRunsToARequest: the sum at the threshold, and one above it in a run of 7 and of 8. -/
theorem witness_precision :
    (state_precision.clampDue = some 10) ∧
    (10 < 2 ^ 32) ∧
    (state_precision.fld TB_PREC_RUN_RUN ≤ 8) := by decide +kernel

def state_precision7 : State :=
  { (alive.put TB_PREC_THR_THRESH 10).put TB_PREC_RUN_RUN 7 with clampDue := some 11 }
/-- PrecisionSumRunsToARequest: a state and operands that meet its hypotheses. -/
theorem witness_precision7 :
    (state_precision7.clampDue = some 11) ∧
    (11 < 2 ^ 32) ∧
    (state_precision7.fld TB_PREC_RUN_RUN ≤ 8) := by decide +kernel

def state_precision8 : State :=
  { (alive.put TB_PREC_THR_THRESH 10).put TB_PREC_RUN_RUN 8 with clampDue := some 11 }
/-- PrecisionSumRunsToARequest: a state and operands that meet its hypotheses. -/
theorem witness_precision8 :
    (state_precision8.clampDue = some 11) ∧
    (11 < 2 ^ 32) ∧
    (state_precision8.fld TB_PREC_RUN_RUN ≤ 8) := by decide +kernel

/-! ### The Assize and the monitor converter -/

/-- Tier 0 of engine 2 of core 3 in use and live, its normal round begun. -/
def calTier : TierCal := { TierCal.init with active := some .normal, pos := 31 }
def calibrating : State :=
  { (busy.putAt (engI 3 2) ENG_STAT_LIVE 1) with
    tiers := [(tierKey 3 2 0, { Tier.blank with mapped := true, role := 1, tile := some 0, active := [(0, 4)] })],
    asz := { busy.asz with engs := [(engKey 3 2, { EngCal.init with cur := some 0 })], tiers := [(tierKey 3 2 0, calTier)] } }
def set0 : TrimSetDue := ⟨3, 2, 0, 0, some 4, 8192, 0, 0, 0, 0, 0, false, .normal, 0, none⟩
def setBad : TrimSetDue := ⟨3, 2, 0, 0, some 4, 20000, 0, 0, 0, 0, 0, false, .normal, 0, none⟩
def round0 : Fin 4 := 0
def round3 : Fin 4 := 3
def tierA : TierId := 0

/-- CalibrationSlotMeasuresItsPosition: the last position before 32. -/
theorem witness_calSlot :
    (calibrating.placed ↑core3 (.engine eng2) .calibration = true) ∧
    ((calibrating.engCal ↑core3 ↑eng2).held = [] ∧ (calibrating.engCal ↑core3 ↑eng2).retries = []) ∧
    (∀ x, x < 8 → calibrating.inUse (↑core3) (↑eng2) x = true → (calibrating.tierAge (↑core3) (↑eng2) x).isSome = true) ∧
    ((calibrating.engine ↑core3 ↑eng2).dead = false) ∧
    (calibrating.calWork ↑core3 ↑eng2 = CalWork.round 0 RoundKind.normal) ∧
    ((calibrating.engCal ↑core3 ↑eng2).cur = some 0) ∧
    ((calibrating.tierCal (↑core3) (↑eng2) 0).active = some RoundKind.normal) ∧
    ((calibrating.tierCal (↑core3) (↑eng2) 0).retry = false) ∧
    ((calibrating.tierCal (↑core3) (↑eng2) 0).pos < 32) ∧
    (calibrating.inUse (↑core3) (↑eng2) 0 = true) ∧
    (calibrating.isSetAt (engI ↑core3 ↑eng2) ENG_STAT_LIVE = true) ∧
    (calibrating.fldAt (engI ↑core3 ↑eng2) ENG_STAT_LIVE_TIER = 0) := by decide +kernel

/-- CalibrationSlotMeasuresItsPosition: nothing to do; and an engine for which the tables place no slot. -/
theorem witness_calSlot_nothing :
    (∀ x, x < 8 → busy.inUse (↑core3) (↑eng2) x = false) ∧
    ((busy.engCal ↑core3 ↑eng2).cur = none) ∧
    ((busy.engCal ↑core3 ↑eng2).held = []) ∧
    ((busy.engCal ↑core3 ↑eng2).retries = []) ∧
    (busy.placed ↑core3 (.engine 3) .calibration = false) := by decide +kernel

def state_set_pass : State :=
  { calibrating with asz := { calibrating.asz with sets := [set0] } }
/-- ConverterSetPassesOrIsRejected: a state and operands that meet its hypotheses. -/
theorem witness_set_pass :
    (state_set_pass.asz.sets = [set0]) ∧
    (set0.conv = some 4) ∧
    (∀ (n : ℕ), set0.kind ≠ RoundKind.first n) ∧
    (set0.ends = none) ∧
    (set0.core < 800) ∧
    (set0.eng < 8) ∧
    (state_set_pass.injects 6 set0.core set0.eng = none) ∧
    (((state_set_pass.engine set0.core set0.eng).retired.any fun r ↦ decide (r = (set0.band, 4))) = false) ∧
    (state_set_pass.setReason set0 = 0) := by
  refine ⟨?_, ?_, ?_, ?_, ?_, ?_, ?_, ?_, ?_⟩ <;> first | decide +kernel | exact fun _ h => nomatch h

def state_set_reject : State :=
  { calibrating with asz := { calibrating.asz with sets := [setBad] } }
/-- ConverterSetPassesOrIsRejected: the gain word past its range. -/
theorem witness_set_reject :
    (state_set_reject.asz.sets = [setBad]) ∧
    (setBad.conv = some 4) ∧
    (∀ (n : ℕ), setBad.kind ≠ RoundKind.first n) ∧
    (setBad.ends = none) ∧
    (setBad.core < 800) ∧
    (setBad.eng < 8) ∧
    (state_set_reject.injects 6 setBad.core setBad.eng = none) ∧
    (((state_set_reject.engine setBad.core setBad.eng).retired.any fun r ↦ decide (r = (setBad.band, 4))) = false) ∧
    (state_set_reject.setReason setBad ≠ 0) := by
  refine ⟨?_, ?_, ?_, ?_, ?_, ?_, ?_, ?_, ?_⟩ <;> first | decide +kernel | exact fun _ h => nomatch h

def state_settling : State :=
  { calibrating with tb := { calibrating.tb with rod := 1000000 } }
/-- CalibrationTriggersOpenRounds: an age of exactly 1 s. -/
theorem witness_settling :
    (state_settling.tierAge ↑core3 ↑eng2 ↑tierA = some 1) ∧
    (state_settling.inUse ↑core3 ↑eng2 ↑tierA = true) ∧
    (10 ^ (round0).val ≤ 1) ∧
    ((state_settling.tierCal ↑core3 ↑eng2 ↑tierA).settleDone ≤ ↑round0) ∧
    (↑round0 ∉ (state_settling.tierCal ↑core3 ↑eng2 ↑tierA).settleDue) := by decide +kernel

def state_age : State :=
  { calibrating with tb := { calibrating.tb with rod := 10240 }, asz := { calibrating.asz with tiers := [(tierKey 3 2 0, { calTier with lastEnd := some 0 })] } }
/-- CalibrationTriggersOpenRounds: a state and operands that meet its hypotheses. -/
theorem witness_age :
    (state_age.inUse ↑core3 ↑eng2 ↑tierA = true) ∧
    ((state_age.tierCal ↑core3 ↑eng2 ↑tierA).lastEnd = some 0) ∧
    ((state_age.tierCal ↑core3 ↑eng2 ↑tierA).ageSince = none) ∧
    (256 ≤ (state_age.tb.rod / 40 + rodP / 40 - 0) % (rodP / 40)) := by decide +kernel

def state_force : State :=
  ((calibrating.put ASZ_TRIM_SEL_CORE 3).put ASZ_TRIM_SEL_ENG 2).put ASZ_TRIM_SEL_TIER 0
/-- CalibrationTriggersOpenRounds: a state and operands that meet its hypotheses. -/
theorem witness_force :
    (regAt ASZ_FORCE_ROUND.addr = some (regOf ASZ_FORCE_ROUND.addr)) ∧
    (writeReaches state_force (wr (ASZ_FORCE_ROUND.of 1)) ASZ_FORCE_ROUND.addr (regOf ASZ_FORCE_ROUND.addr) = true) ∧
    (wbits (wr (ASZ_FORCE_ROUND.of 1)).data ASZ_FORCE_ROUND = 1) ∧
    (state_force.fld ASZ_TRIM_SEL_CORE = ↑core3) ∧
    (state_force.fld ASZ_TRIM_SEL_ENG = ↑eng2) ∧
    (state_force.fld ASZ_TRIM_SEL_TIER = ↑tierA) ∧
    (state_force.inUse ↑core3 ↑eng2 ↑tierA = true) := by decide +kernel

def state_fresh : State :=
  { (calibrating.putAt (engI 3 2) ENG_TIER_ADV_FRESH 1).put ASZ_FRESH_CNT_COUNT 1 with tb := { calibrating.tb with rod := 600000000 }, asz := { calibrating.asz with tiers := [(tierKey 3 2 0, { calTier with settleDone := 3 })] } }
/-- CalibrationTriggersOpenRounds: a state and operands that meet its hypotheses. -/
theorem witness_fresh :
    (∀ a, state_fresh.tierAge ↑core3 ↑eng2 ↑tierA = some a → 600 ≤ a ∧ 3 ≤ (state_fresh.tierCal ↑core3 ↑eng2 ↑tierA).settleDone) ∧
    (state_fresh.fldAt (engI ↑core3 ↑eng2) ENG_TIER_ADV_FRESH / 2 ^ (tierA).val % 2 = 1) := by decide +kernel

/-- DarkEngineHoldsItsWords: a state and operands that meet its hypotheses. -/
theorem witness_dark :
    (calibrating.dark ↑core3 = true) ∧
    (calibrating.tLoc ↑core3 = none) := by decide +kernel

def state_dark_near : State :=
  { calibrating with asz := { calibrating.asz with sensors := [(2, { Sensor.init with ever := true, prevSum := 50 * 2 ^ 20, prevCnt := 1 })] } }
/-- DarkEngineHoldsItsWords: a state and operands that meet its hypotheses. -/
theorem witness_dark_near :
    (state_dark_near.dark ↑core3 = true) ∧
    (state_dark_near.tLoc ↑core3 = some 50) := by decide +kernel

def state_first : State :=
  { (((alive.put SEC_STAT_UNSEALED 1).put MON_STAT_REF_SETTLED 1).put GLB_STATE_STEP 8) with asz := { alive.asz with sensors := (List.range 64).map (fun (k : Nat) => (k, { Sensor.init with ever := true })) } }
/-- FirstPassRunsOnceReady: a state and operands that meet its hypotheses. -/
theorem witness_first :
    (state_first.isSet SEC_STAT_UNSEALED = true) ∧
    (state_first.isSet MON_STAT_REF_SETTLED = true) ∧
    (∀ i < 64, (state_first.sensor i).ever = true) ∧
    (state_first.isSet ASZ_STAT_FIRST_DONE = false) ∧
    (state_first.fld GLB_STATE_STEP = 8) := by decide +kernel

/-- FirstPassRunsOnceReady: a state and operands that meet its hypotheses. -/
theorem witness_first_not :
    (fresh.isSet SEC_STAT_UNSEALED = false ∨ fresh.isSet MON_STAT_REF_SETTLED = false ∨ (∃ i < 64, (fresh.sensor i).ever = false) ∨ fresh.isSet ASZ_STAT_FIRST_DONE = true ∨ fresh.fld GLB_STATE_STEP ≠ 8) := by decide +kernel

def state_monitor : State :=
  { (alive.put MON_CTRL_RUN 1).put MON_WR_PTR_INDEX 16383 with mon := { alive.mon with entry := 94 } }
/-- MonitorRecordsItsChannel: the highest channel, and a temperature channel, at the last slot of the buffer. -/
theorem witness_monitor :
    (state_monitor.isSet MON_CTRL_RUN = true) ∧
    (state_monitor.isSet MON_CTRL_SW_RD_EN = false) ∧
    (getBits (state_monitor.seqEntry state_monitor.mon.entry) 6 0 = 94) ∧
    (94 ≤ 95) ∧
    (¬(80 ≤ 94 ∧ 94 ≤ 87)) ∧
    (getBits (state_monitor.seqEntry state_monitor.mon.entry) 7 7 = 0) ∧
    (getBits (state_monitor.seqEntry state_monitor.mon.entry) 15 15 = 0) ∧
    (state_monitor.mon.entry < 127) := by decide +kernel

def state_monitor_temp : State :=
  { (((alive.put MON_CTRL_RUN 1).put MON_CTRL_REF_EN 1).put MON_STAT_REF_SETTLED 1) with mon := { alive.mon with entry := 63 } }
/-- MonitorRecordsItsChannel: a state and operands that meet its hypotheses. -/
theorem witness_monitor_temp :
    (state_monitor_temp.isSet MON_CTRL_RUN = true) ∧
    (state_monitor_temp.isSet MON_CTRL_SW_RD_EN = false) ∧
    (getBits (state_monitor_temp.seqEntry state_monitor_temp.mon.entry) 6 0 = 63) ∧
    (63 ≤ 95) ∧
    (¬(80 ≤ 63 ∧ 63 ≤ 87)) ∧
    (getBits (state_monitor_temp.seqEntry state_monitor_temp.mon.entry) 7 7 = 0) ∧
    (getBits (state_monitor_temp.seqEntry state_monitor_temp.mon.entry) 15 15 = 0) ∧
    (state_monitor_temp.mon.entry < 127) := by decide +kernel

def state_settled : State :=
  fresh.put MON_CTRL_REF_EN 1
/-- ReferenceSettlesAndCaptureArms: a state and operands that meet its hypotheses. -/
theorem witness_settled :
    (state_settled.isSet MON_CTRL_REF_EN = true) := by decide +kernel

/-- ReferenceSettlesAndCaptureArms: a state and operands that meet its hypotheses. -/
theorem witness_unsettled :
    (fresh.isSet MON_CTRL_REF_EN = false) := by decide +kernel

def state_capture : State :=
  fresh.put MON_STAT_TB_VALID 1
/-- ReferenceSettlesAndCaptureArms: a state and operands that meet its hypotheses. -/
theorem witness_capture :
    (regAt MON_TB_SEL_CAPTURE.addr = some (regOf MON_TB_SEL_CAPTURE.addr)) ∧
    (writeReaches state_capture (wr 4294967295) MON_TB_SEL_CAPTURE.addr (regOf MON_TB_SEL_CAPTURE.addr) = true) ∧
    (wbits (wr 4294967295).data MON_TB_SEL_CAPTURE = 1) := by decide +kernel

/-! ### Digital units, core stores and stacks -/

/-- The schedule with the input token of `issue0` complete. -/
def fed : State := { busy with sched := { busy.sched with tokens := [(tokKey 3 1, { Token.idle with arrived := 1 })] } }
def none0 : BitVec 32 := 0
def vec32 (a : Nat) : VecIn := ⟨.f32, a⟩
def mat16 (a : Nat) : MatIn := ⟨.bf16, a, 3, 1, 0, 0⟩
/-- Core 3 holds 1.0, 2.0, -3.0 at address 0. -/
def vecs : State := (fed.storeBytes 3 0 [0, 0, 0x80, 0x3F, 0, 0, 0, 0x40, 0, 0, 0x40, 0xC0])
def stack0 : StackId := 0
def kv0 : KvLayer := ⟨0, 0, 1, 32, 1, false, true, 4096, 256, 1, 32, 1, 1, 8, [(0, 3, 0)], [(0, 3)], 0⟩
def row31 : Fin 32 := 31
/-- A directory entry of slot 7 to frame 17, whose first leaf maps frame 18 at generation 5. -/
def tabled : State := (fed.stackWrite (16 * 4096) (leBytes 8 (2 ^ 63 + 34))).stackWrite (34 * 2048) (leBytes 8 (2 ^ 63 + 5 * 2 ^ 29 + 18))
/-- Slot 7 with its tables in frames 16 and 17 and one page in frame 18. -/
def paged : State :=
  { tabled with
    boot := { fed.boot with image := { image0 with kvLayers := [kv0] } },
    rqt := { fed.rqt with table := [(7, { Req.empty with gen := 5, state := .decode, ptBase := 256, p := 10, nMax := 5 })] },
    mem := { tabled.mem with
      pages := [(7, 0, 0, 18 * 4096)] } }
def exc0 : PageExc := ⟨3, 7, 5, 0, 0, true⟩
def page0 : Nat × Nat × Nat × Nat := (7, 0, 0, 18 * 4096)

/-- VectorOpStoresItsResults: a result at the very end of the core store. -/
theorem witness_elementwise :
    runsClean vecs issue0 .vector none0 (vecs.vecRanges 3 (.elementwise .add 3 (vec32 0) (vec32 0) (vec32 0) (storeSize - 12) .f32)) ∧
    storeSize - 12 + 4 * 3 ≤ storeSize := by unfold runsClean; decide +kernel

/-- VectorOpStoresItsResults: a sum of three words. -/
theorem witness_reduction :
    runsClean vecs issue0 .vector none0 (vecs.vecRanges 3 (.reduction false 3 (vec32 0) 128)) ∧ 128 + 4 ≤ storeSize := by
  unfold runsClean; decide +kernel

/-- MatrixProductStoresItsDots: a product of one row and column, without and with an accumulator word. -/
theorem witness_product :
    runsClean vecs issue0 .matrix none0 (vecs.matRanges 3 (.product 0 1 1 3 (mat16 0) (mat16 0) none 64 .f32)) ∧
    runsClean vecs issue0 .matrix none0 (vecs.matRanges 3 (.product 0 1 1 3 (mat16 0) (mat16 0) (some 0) 64 .f32)) ∧
    pairOk (mat16 0).fmt (mat16 0).fmt = true ∧ 64 + 4 * (1 * 1) ≤ storeSize := by unfold runsClean; decide +kernel

/-- MatrixProductStoresItsDots: a format pair that the unit does not take. -/
theorem witness_product_unlisted : pairOk .int4 .int4 = false := by decide

/-- ScrubCorrectsOrPoisons: a state and operands that meet its hypotheses. -/
theorem witness_scrub_none :
    (busy.domainOff ↑core3 = false) := by decide +kernel

/-- ScrubCorrectsOrPoisons: a state and operands that meet its hypotheses. -/
theorem witness_scrub_ce :
    (busy.domainOff ↑core3 = false) := by decide +kernel

def state_scrub_ue : State :=
  { busy with boot := { busy.boot with image := { image0 with stores := [⟨3, .tables, 786368, 64⟩] } }, mem := { busy.mem with scrubAt := [(3, 98303)] } }
/-- ScrubCorrectsOrPoisons: the last word of the core, static. -/
theorem witness_scrub_ue :
    (state_scrub_ue.domainOff ↑core3 = false) := by decide +kernel

def state_restore : State :=
  { busy with mem := { busy.mem with poison := [storeKey 3 0 / 64 + 5] } }
/-- ScrubCorrectsOrPoisons: a state and operands that meet its hypotheses. -/
theorem witness_restore :
    (state_restore.domainOff ↑core3 = false) ∧
    (state_restore.copyAddr ↑core3 (64 * 5) = none) ∧
    (storeKey (↑core3) 0 / 64 + 5 ∈ state_restore.mem.poison) := by decide +kernel

/-- StackWindowsMoveTheirLines: a write of two lines. -/
theorem witness_stackWrite :
    runsClean vecs issue0 (.stack (stackOf 64)) none0 [(0, 64 * 2)] ∧ vecs.windowRefused 3 64 2 = false := by
  unfold runsClean; decide +kernel

def state_stackRead : State :=
  (vecs.putAt (stkI 0) STK_STAT_IN_SERVICE 1).stackWrite 64 [1, 2, 3]
/-- StackWindowsMoveTheirLines: a read of one line to the end of the core store. -/
theorem witness_stackRead :
    runsClean state_stackRead issue0 (.stack (stackOf 64)) none0 [] ∧ state_stackRead.windowRefused 3 64 1 = false ∧
    state_stackRead.isSetAt (stkI (stackOf 64)) STK_STAT_IN_SERVICE = true ∧ storeSize - 64 + 64 * 1 ≤ storeSize := by
  unfold runsClean; decide +kernel

/-- StackWindowsMoveTheirLines: the first extent past the region's. -/
theorem witness_stackRefuse :
    runsClean vecs issue0 (.stack (stackOf 3221225472)) none0 [] ∧
    runsClean vecs issue0 (.stack (stackOf 3221225472)) none0 [(0, 64 * 1)] ∧ vecs.windowRefused 3 3221225472 1 = true := by
  unfold runsClean; decide +kernel

def state_stackOut : State :=
  (busy.putAt (stkI 0) STK_STAT_IN_SERVICE 1).put GLB_STATE_STEP 5
/-- StackLeavesService: a state and operands that meet its hypotheses. -/
theorem witness_stackOut :
    (state_stackOut.isSetAt (stkI ↑stack0) STK_STAT_IN_SERVICE = true) ∧
    (true = true ∨ 8 ≤ SMap.get (fun x ↦ 0) state_stackOut.mem.ueRun ↑stack0) := by decide +kernel

def state_stackOut_lost : State :=
  { busy.putAt (stkI 0) STK_STAT_IN_SERVICE 1 with mem := { busy.mem with ueRun := [(0, 8)] } }
/-- StackLeavesService: a state and operands that meet its hypotheses. -/
theorem witness_stackOut_lost :
    (state_stackOut_lost.isSetAt (stkI ↑stack0) STK_STAT_IN_SERVICE = true) ∧
    (false = true ∨ 8 ≤ SMap.get (fun x ↦ 0) state_stackOut_lost.mem.ueRun ↑stack0) := by decide +kernel

/-- The tables with their stack in service. -/
def walkable : State := paged.putAt (stkI 0) STK_STAT_IN_SERVICE 1
/-- PageWalkFollowsItsEntries: a page that is found. -/
theorem witness_walk :
    runsClean walkable issue0 .pageWalk none0 [] ∧ (walkable.pageUnit 3).entries = [] ∧
    2 ^ 63 + 34 = walkable.entryAt ((walkable.req 7).ptBase * 256 + 8 * (32 * 0 + 255 / 256 / 256)) ∧
    2 ^ 63 + 5 * 2 ^ 29 + 18 = walkable.entryAt ((2 ^ 63 + 34) % 2 ^ 29 * 2048 + 8 * (255 / 256 % 256)) ∧
    walkable.stackRefused 3 ((walkable.req 7).ptBase * 256) = false ∧ walkable.isSetAt (stkI 0) STK_STAT_IN_SERVICE = true ∧
    walkable.stackRefused 3 (34 * 2048) = false ∧ stackOf (34 * 2048) = 0 ∧ stackOf ((walkable.req 7).ptBase * 256) = 0 ∧
    (2 ^ 63 + 5 * 2 ^ 29 + 18) / 2 ^ 29 % 128 = (walkable.req 7).gen ∧
    walkable.stackRefused 3 ((2 ^ 63 + 5 * 2 ^ 29 + 18) % 2 ^ 28 * 4096) = false := by unfold runsClean; decide +kernel

/-- PageWalkFollowsItsEntries: a page whose leaf entry is not valid. -/
theorem witness_walk_absent :
    runsClean walkable issue0 .pageWalk none0 [] ∧
    0 = walkable.entryAt ((2 ^ 63 + 34) % 2 ^ 29 * 2048 + 8 * (256 / 256 % 256)) := by unfold runsClean; decide +kernel

def state_walk_gen : State :=
  { walkable with rqt := { paged.rqt with table := [(7, { Req.empty with gen := 6, state := .decode, ptBase := 256 })] } }
/-- PageWalkFollowsItsEntries: an entry of another generation. -/
theorem witness_walk_gen :
    runsClean state_walk_gen issue0 .pageWalk none0 [] ∧ (state_walk_gen.pageUnit 3).entries = [] ∧
    2 ^ 63 + 34 = state_walk_gen.entryAt ((state_walk_gen.req 7).ptBase * 256 + 8 * (32 * 0 + 0 / 256 / 256)) ∧
    (2 ^ 63 + 5 * 2 ^ 29 + 18) / 2 ^ 29 % 128 ≠ (state_walk_gen.req 7).gen := by unfold runsClean; decide +kernel

def state_walk_out : State :=
  { walkable with rqt := { paged.rqt with table := [(7, { Req.empty with gen := 5, state := .decode, ptBase := 3221225472 / 256 })] } }
/-- PageWalkFollowsItsEntries: a directory outside the region's extents. -/
theorem witness_walk_refused :
    runsClean state_walk_out issue0 .pageWalk none0 [] ∧ (state_walk_out.pageUnit 3).entries = [] ∧
    state_walk_out.stackRefused 3 ((state_walk_out.req 7).ptBase * 256 + 8 * (32 * 0 + 0 / 256 / 256)) = true := by
  unfold runsClean; decide +kernel

def state_pageRepair : State :=
  { paged with mem := { paged.mem with excs := [exc0] } }
/-- PagesAreRepairedAndReturned: a state and operands that meet its hypotheses. -/
theorem witness_pageRepair :
    (state_pageRepair.mem.excs = [exc0]) ∧
    (List.find? (fun l ↦ decide (l.loc = exc0.layer)) state_pageRepair.boot.image.kvLayers = some kv0) ∧
    ((state_pageRepair.req exc0.slot).state.live = true) ∧
    ((state_pageRepair.req exc0.slot).gen = exc0.gen) ∧
    (exc0.page < ((state_pageRepair.req exc0.slot).p + (state_pageRepair.req exc0.slot).nMax + 8 + 255) / 256) ∧
    (List.find? (fun p ↦ decide (p.1 = exc0.slot ∧ p.2.1 = exc0.layer ∧ p.2.2.1 = exc0.page)) state_pageRepair.mem.pages = some page0) := by decide +kernel

def state_pageReturn : State :=
  { paged with mem := { paged.mem with returning := [(0, 7, 5, 0)] } }
/-- PagesAreRepairedAndReturned: a state and operands that meet its hypotheses. -/
theorem witness_pageReturn :
    (List.find? (fun e ↦ decide (e.2.1 = 7 ∧ (!rodAfter state_pageReturn.tb.rod e.1) = true)) state_pageReturn.mem.returning = some (0, 7, 5, 0)) := by decide +kernel

/-! ### Rack time, the schedule and admission -/

def ticking : State := { (busy.put TB_STAT_RUNNING 1).put TB_STAT_REF_LOCK 1 with tb := { busy.tb with rod := rodP - 1 } }
def var1 : Variant := { var0 with num := 1, rate := 25 }
def sw1 : Switch := ⟨0, 1, 879609302205, true⟩
def sb (kind mile data : Nat) : SbMsg := ⟨kind, 0, 0, mile, data⟩
def v1 : Fin 8 := 1
/-- Both variants admitted, in the last rod of a mile. -/
def twoVars : State :=
  { ticking.put TB_VAR_ADMIT_ADMITTED 3 with boot := { busy.boot with image := { image0 with variants := [var0, var1] } } }
def due0 : State := { twoVars with sched := { twoVars.sched with admDue := true, started := true }, rqt := { twoVars.rqt with flowLate := true } }
/-- A variant and an image that pass every check: one region over the whole die, no logical core used. -/
def varOk : Variant := { var0 with cost := [(0, 1)] }
def imageOk : Image := { Image.none with variants := [varOk], regions := [⟨0, 0, 0, 10, 20, 0, 16, [], [0], [0], 0⟩] }
def dueOk : State := { due0 with boot := { due0.boot with image := imageOk } }
def symbols62 : List Symbol := List.replicate 62 .one

/-- RodBoundaryCountsOneRod: the last rod before the wrap. -/
theorem witness_rod :
    (ticking.tb.edgeDue = false) ∧
    (ticking.isSet TB_STAT_RUNNING = true) := by decide +kernel

/-- RodBoundaryCountsOneRod: a state and operands that meet its hypotheses. -/
theorem witness_rod_stopped :
    (fresh.tb.edgeDue = false) ∧
    (fresh.isSet TB_STAT_RUNNING = false) := by decide +kernel

def state_furlong : State :=
  { ticking with waitB := [(0x1304, 5)], clampNow := 3, tb := { ticking.tb with furDue := true, rod := 40 } }
/-- FurlongBoundaryTakesClassB: a state and operands that meet its hypotheses. -/
theorem witness_furlong :
    (state_furlong.tb.furDue = true) := by decide +kernel

/-- FurlongBoundaryTakesClassB: a state and operands that meet its hypotheses. -/
theorem witness_furlong_not :
    (ticking.tb.furDue = false) := by decide +kernel

def state_mile : State :=
  { twoVars with tb := { twoVars.tb with mileDue := true, rod := 0 }, sched := { twoVars.sched with switches := [sw1] } }
/-- MileBoundaryTakesTheSwitch: a state and operands that meet its hypotheses. -/
theorem witness_mile :
    (state_mile.tb.mileDue = true) ∧
    (state_mile.tb.stopAtMile = false) ∧
    (state_mile.sched.switches = [sw1]) ∧
    (sw1.atMile = state_mile.mileNow) ∧
    (state_mile.admittedVar sw1.var = true) := by decide +kernel

def state_mile_unadmitted : State := state_mile.put TB_VAR_ADMIT_ADMITTED 1
/-- MileBoundaryTakesTheSwitch: the switch of this mile names a variant that is no longer admitted. -/
theorem witness_mile_unadmitted :
    (state_mile_unadmitted.tb.mileDue = true) ∧
    (state_mile_unadmitted.tb.stopAtMile = false) ∧
    (state_mile_unadmitted.sched.switches = [sw1]) ∧
    (sw1.atMile = state_mile_unadmitted.mileNow) ∧
    (state_mile_unadmitted.admittedVar sw1.var = false) := by decide +kernel

def state_mile_stay : State :=
  { twoVars with tb := { twoVars.tb with mileDue := true, rod := 320 }, sched := { twoVars.sched with switches := [sw1] } }
/-- MileBoundaryTakesTheSwitch: a state and operands that meet its hypotheses. -/
theorem witness_mile_stay :
    (state_mile_stay.tb.mileDue = true) ∧
    (state_mile_stay.tb.stopAtMile = false) ∧
    (∀ w ∈ state_mile_stay.sched.switches, w.atMile ≠ state_mile_stay.mileNow) := by decide +kernel

/-- MileBoundaryTakesTheSwitch: a state and operands that meet its hypotheses. -/
theorem witness_mile_not :
    (twoVars.tb.mileDue = false) := by decide +kernel

def state_fmark : State :=
  { ticking with tb := { ticking.tb with frame := some symbols62 } }
/-- FmarkPulsesKeepOrSetTheCount: an edge one cycle off, on the last symbol before the frame's end. -/
theorem witness_fmark :
    (state_fmark.isSet TB_STAT_REF_LOCK = true) ∧
    (state_fmark.isSet TB_STAT_REFCLK_HOLD = false) ∧
    (state_fmark.injects 25 0 0 = none) ∧
    (state_fmark.isSet TB_STAT_COUNT_VALID = true) ∧
    (-1 ≤ 1) ∧
    (1 ≤ 1) ∧
    (state_fmark.tb.frame = some symbols62) ∧
    (symbols62.length < 63) ∧
    (symbolOf 5 ≠ Symbol.sync) := by decide +kernel

/-- FmarkPulsesKeepOrSetTheCount: a state and operands that meet its hypotheses. -/
theorem witness_fmark_far :
    (ticking.isSet TB_STAT_REF_LOCK = true) ∧
    (ticking.isSet TB_STAT_REFCLK_HOLD = false) ∧
    (ticking.injects 25 0 0 = none) ∧
    (ticking.isSet TB_STAT_COUNT_VALID = true) ∧
    (2 < -1 ∨ 1 < 2) := by decide +kernel

def state_fmark_set : State :=
  { (fresh.put TB_STAT_REF_LOCK 1) with tb := { fresh.tb with pair := some (879609302144, 2) } }
/-- FmarkPulsesKeepOrSetTheCount: a state and operands that meet its hypotheses. -/
theorem witness_fmark_set :
    (state_fmark_set.isSet TB_STAT_REF_LOCK = true) ∧
    (state_fmark_set.isSet TB_STAT_REFCLK_HOLD = false) ∧
    (state_fmark_set.injects 25 0 0 = none) ∧
    (state_fmark_set.isSet TB_STAT_COUNT_VALID = false) ∧
    (state_fmark_set.tb.frame = none) ∧
    (state_fmark_set.tb.pair = some (879609302144, 2)) ∧
    (symbolOf 8 = Symbol.sync) := by decide +kernel

/-- RefclkLossHoldsThenFails: a state and operands that meet its hypotheses. -/
theorem witness_refLoss :
    (ticking.isSet TB_STAT_REFCLK_HOLD = false) := by decide +kernel

def state_refReturn : State :=
  { ticking.put TB_STAT_REFCLK_HOLD 1 with tb := { ticking.tb with holdRods := 32 } }
/-- RefclkLossHoldsThenFails: a state and operands that meet its hypotheses. -/
theorem witness_refReturn :
    (state_refReturn.isSet TB_STAT_REFCLK_HOLD = true) ∧
    (state_refReturn.isSet TB_STAT_COUNT_VALID = true) ∧
    (state_refReturn.tb.holdRods ≤ 32) := by decide +kernel

def state_refReturn_late : State :=
  { ticking.put TB_STAT_REFCLK_HOLD 1 with tb := { ticking.tb with holdRods := 33 } }
/-- RefclkLossHoldsThenFails: a return one rod past the limit. -/
theorem witness_refReturn_late :
    (state_refReturn_late.isSet TB_STAT_REFCLK_HOLD = true) ∧
    (state_refReturn_late.isSet TB_STAT_COUNT_VALID = true) ∧
    (32 < state_refReturn_late.tb.holdRods) := by decide +kernel

def state_refReturn_invalid : State :=
  (ticking.put TB_STAT_REFCLK_HOLD 1).put TB_STAT_COUNT_VALID 0
/-- RefclkLossHoldsThenFails: a state and operands that meet its hypotheses. -/
theorem witness_refReturn_invalid :
    (state_refReturn_invalid.isSet TB_STAT_REFCLK_HOLD = true) ∧
    (state_refReturn_invalid.isSet TB_STAT_COUNT_VALID = false) := by decide +kernel

def state_refExpiry : State :=
  { ticking.put TB_STAT_REFCLK_HOLD 1 with tb := { ticking.tb with holdRods := 32 } }
/-- RefclkLossHoldsThenFails: a state and operands that meet its hypotheses. -/
theorem witness_refExpiry :
    (state_refExpiry.isSet TB_STAT_REFCLK_HOLD = true) ∧
    (state_refExpiry.isSet TB_STAT_COUNT_VALID = true) ∧
    (state_refExpiry.tb.refBack = false) ∧
    (32 ≤ state_refExpiry.tb.holdRods) ∧
    (state_refExpiry.tb.refInj = none) := by decide +kernel

/-- OverrunVoidsCountsAndFences: an engine, and the agent that is the core's largest number. -/
theorem witness_overrun :
    (busy.faults.armed = none) := by decide +kernel

def state_overrun_9 : State :=
  busy.putAt (coreI 3) CORE_STAT_FENCED 1
/-- OverrunVoidsCountsAndFences: a state and operands that meet its hypotheses. -/
theorem witness_overrun_9 :
    (state_overrun_9.faults.armed = none) := by decide +kernel

def state_slack : State :=
  { busy.put TB_SKIP_FRAC_FRAC 50 with sched := { busy.sched with due := [dueOn .vector .slack] } }
/-- SlackWindowSkipsItsShare: a state and operands that meet its hypotheses. -/
theorem witness_slack :
    (state_slack.coreRunning ↑core3 = true) ∧
    ((state_slack.sched.due.any fun d ↦ decide (d.core = ↑core3 ∧ d.kind = SlotKind.slack)) = true) := by decide +kernel

def state_admission : State :=
  { dueOk with sched := { dueOk.sched with admDue := false }, rqt := { dueOk.rqt with flowLate := false } }
/-- AdmissionPassesOrFailsByItsFirstCode: a state and operands that meet its hypotheses. -/
theorem witness_admission :
    (dueOk.sched.admDue = true) ∧
    (state_admission = { dueOk with sched := { dueOk.sched with admDue := false }, rqt := { dueOk.rqt with flowLate := false } }) ∧
    (dueOk.fld GLB_STATE_STEP ≠ 5) ∧
    (dueOk.sched.started = true) ∧
    (dueOk.isSet TB_STAT_TIME_FAIL = false) ∧
    (dueOk.isSet TB_STAT_COUNT_VALID = true) ∧
    (List.find? (fun x ↦ decide (x.num = dueOk.sched.var)) dueOk.boot.image.variants = some varOk) ∧
    (dueOk.therm.divided = false) ∧
    (state_admission.checkVariant varOk = none) := by decide +kernel

def state_admission_divided : State :=
  { due0 with therm := { due0.therm with divided := true } }
def state_admission_divided1 : State :=
  { due0 with therm := { due0.therm with divided := true }, sched := { due0.sched with admDue := false }, rqt := { due0.rqt with flowLate := false } }
/-- AdmissionPassesOrFailsByItsFirstCode: a state and operands that meet its hypotheses. -/
theorem witness_admission_divided :
    (state_admission_divided.sched.admDue = true) ∧
    (state_admission_divided1 = { state_admission_divided with sched := { state_admission_divided.sched with admDue := false }, rqt := { state_admission_divided.rqt with flowLate := false } }) ∧
    (state_admission_divided.fld GLB_STATE_STEP ≠ 5) ∧
    (state_admission_divided.sched.started = true) ∧
    (state_admission_divided.isSet TB_STAT_TIME_FAIL = false) ∧
    (state_admission_divided.isSet TB_STAT_COUNT_VALID = true) ∧
    (List.find? (fun x ↦ decide (x.num = state_admission_divided.sched.var)) state_admission_divided.boot.image.variants = some var0) ∧
    (state_admission_divided.therm.divided = true) ∧
    (state_admission_divided.sched.running = true) := by decide +kernel

/-- AdmissionPassesOrFailsByItsFirstCode: no valid count. -/
theorem witness_admission_waits :
    (fresh.isSet TB_STAT_COUNT_VALID = false) := by decide +kernel

def state_mcAdmission : State :=
  busy.put GLB_STATE_STEP 5
/-- AdmissionPassesOrFailsByItsFirstCode: a state and operands that meet its hypotheses. -/
theorem witness_mcAdmission :
    (state_mcAdmission.mgmtUp = true) ∧
    (5 ≤ state_mcAdmission.fld GLB_STATE_STEP) ∧
    (state_mcAdmission.isSet TB_STAT_TIME_FAIL = false ∨ state_mcAdmission.isSet TB_STAT_COUNT_VALID = true) := by decide +kernel

/-- VariantRequestsEnterTheirMile: a state and operands that meet its hypotheses. -/
theorem witness_sbVarReq :
    ((sb 2 5 1).kind = 2) ∧
    (sb 2 5 1 ∉ twoVars.fab.seen) ∧
    ((twoVars.sched.switches.any fun w ↦ decide (w.var = (sb 2 5 1).data % 8)) = false) := by decide +kernel

/-- VariantRequestsEnterTheirMile: a state and operands that meet its hypotheses. -/
theorem witness_mcVarReq :
    (twoVars.mgmtUp = true) ∧
    ({ kind := 2, group := twoVars.self.1, module := twoVars.self.2, mile := twoVars.datedMile % 65536, data := ↑v1 } ∉ twoVars.fab.seen) ∧
    ((twoVars.sched.switches.any fun w ↦ decide (w.var = ↑v1)) = false) := by decide +kernel

/-- VariantRequestsEnterTheirMile: a state and operands that meet its hypotheses. -/
theorem witness_tbVarReq :
    (regAt TB_VAR_REQ_REQ.addr = some (regOf TB_VAR_REQ_REQ.addr)) ∧
    (writeReaches twoVars (wr (TB_VAR_REQ_REQ.of 1 ||| TB_VAR_REQ_VAR.of 1)) TB_VAR_REQ_REQ.addr (regOf TB_VAR_REQ_REQ.addr) = true) ∧
    (wbits (wr (TB_VAR_REQ_REQ.of 1 ||| TB_VAR_REQ_VAR.of 1)).data TB_VAR_REQ_REQ = 1) ∧
    ({ kind := 2, group := twoVars.self.1, module := twoVars.self.2, mile := twoVars.datedMile % 65536, data := wbits (wr (TB_VAR_REQ_REQ.of 1 ||| TB_VAR_REQ_VAR.of 1)).data TB_VAR_REQ_VAR } ∉ twoVars.fab.seen) ∧
    ((twoVars.sched.switches.any fun x ↦ decide (x.var = wbits (wr (TB_VAR_REQ_REQ.of 1 ||| TB_VAR_REQ_VAR.of 1)).data TB_VAR_REQ_VAR)) = false) := by decide +kernel

def state_sbVarRefuse : State :=
  { twoVars with sched := { twoVars.sched with switches := [sw1], reqs := [⟨5, 1, true, false⟩] } }
/-- VariantRequestsEnterTheirMile: a state and operands that meet its hypotheses. -/
theorem witness_sbVarRefuse :
    ((sb 3 5 1).kind = 3) ∧
    (sb 3 5 1 ∉ state_sbVarRefuse.fab.seen) := by decide +kernel

/-! ### The on-die network -/

/-- The schedule with the input token of `issue0` complete, a flow from core 3 to core 4 and token buffers on core 4. -/
def flow0 : Flow := ⟨9, 3, 4, 2, []⟩
def buf0 : TokenBuf := ⟨4, 6, 128, 72, 2, .bushel, 1, none, 0⟩
def netted : State :=
  { busy with boot := { busy.boot with image := { image0 with flows := [flow0], buffers := [buf0] } },
              sched := { busy.sched with tokens := [(tokKey 3 1, { Token.idle with arrived := 1 })] } }
def sendTwo : Send := ⟨.units 0, 6, 0, 2, 2, 2, 72⟩
def sendOne : Send := ⟨.units 0, 6, 0, 1, 2, 2, 72⟩
def flit0 : Flit := ⟨flitHead 4 4 6 0 1 0 2 0 false false false true, List.replicate 72 7⟩
def recv0 : BusRecv := ⟨4, 6, 1, 2, 0⟩
def offFlit : FlitAt := ⟨3, { flit0 with head := flitHead 4 4 6 0 1 0 2 1 false false false true }⟩
def atFlit : FlitAt := ⟨3, flit0⟩
def hereFlit : FlitAt := ⟨4, flit0⟩
def lostFlit : FlitAt := ⟨4, { flit0 with head := flitHead 4 4 7 0 1 0 2 0 false false false true }⟩

/-- MeshTransferSendsItsUnits: a state and operands that meet its hypotheses. -/
theorem witness_mesh :
    (sendTwo.src = SendSrc.units 0) ∧
    (runsClean netted issue0 .meshA 0 [(0, sendTwo.bytes * sendTwo.units)]) ∧
    (List.find? (fun f ↦ decide (f.num = 9)) netted.boot.image.flows = some flow0) ∧
    (netted.destOf flow0.dst = some 4) ∧
    (netted.routeOf flow0 (↑issue0.core) 4 = Route.planeA) := 
    by and_intros <;> first | decide +kernel | (unfold runsClean; decide +kernel)

/-- The router of core 4 out of plane A, for a flow from core 3 to core 5 whose detour goes round it by core 43. -/
def flow1 : Flow := ⟨10, 3, 5, 2, [(4, 43)]⟩
def state_mesh_detour : State :=
  { netted.putAt (coreI 4) RTR_STAT_A_FAULTY 1 with boot := { netted.boot with image := { netted.boot.image with flows := [flow0, flow1] } },
                                                    faults := { netted.faults with logMap := [(3, 4), (4, 5), (5, 6)] } }
/-- MeshTransferSendsItsUnits: a detour on plane B. -/
theorem witness_mesh_detour :
    (sendTwo.src = SendSrc.units 0) ∧
    (runsClean state_mesh_detour issue0 .meshA 0 [(0, sendTwo.bytes * sendTwo.units)]) ∧
    (List.find? (fun f ↦ decide (f.num = 10)) state_mesh_detour.boot.image.flows = some flow1) ∧
    (state_mesh_detour.destOf flow1.dst = some 5) ∧
    (state_mesh_detour.routeOf flow1 (↑issue0.core) 5 = Route.detour 43) := 
    by and_intros <;> first | decide +kernel | (unfold runsClean; decide +kernel)

def state_mesh_none : State :=
  netted.putAt (coreI 4) RTR_STAT_A_FAULTY 1
/-- MeshTransferSendsItsUnits: a state and operands that meet its hypotheses. -/
theorem witness_mesh_none :
    (sendTwo.src = SendSrc.units 0) ∧
    (runsClean state_mesh_none issue0 .meshA 0 [(0, sendTwo.bytes * sendTwo.units)]) ∧
    (List.find? (fun f ↦ decide (f.num = 9)) state_mesh_none.boot.image.flows = some flow0) ∧
    (state_mesh_none.destOf flow0.dst = some 4) ∧
    (state_mesh_none.routeOf flow0 (↑issue0.core) 4 = Route.none) := 
    by and_intros <;> first | decide +kernel | (unfold runsClean; decide +kernel)

def state_forward : State :=
  { netted with mesh := { netted.mesh with flits := [atFlit] } }
/-- FlitsGoTheirWay: a state and operands that meet its hypotheses. -/
theorem witness_forward :
    (state_forward.mesh.flits[0]? = some atFlit) ∧
    (atFlit.flit.plane = false) ∧
    (atFlit.core ≠ atFlit.flit.dest) ∧
    (state_forward.faults.armed = none) ∧
    (state_forward.routerFaulty atFlit.core false = false) ∧
    (state_forward.routerFaulty (nextHop atFlit.core atFlit.flit.dest) false = false) ∧
    (state_forward.regionNum (nextHop atFlit.core atFlit.flit.dest) = atFlit.flit.region) := by decide +kernel

def state_forward_bad : State :=
  { netted with mesh := { netted.mesh with flits := [atFlit] } }
/-- FlitsGoTheirWay: a state and operands that meet its hypotheses. -/
theorem witness_forward_bad :
    (state_forward_bad.mesh.flits[0]? = some atFlit) ∧
    (atFlit.flit.plane = false) ∧
    (atFlit.core ≠ atFlit.flit.dest) ∧
    (state_forward_bad.faults.armed = none) ∧
    (state_forward_bad.routerFaulty atFlit.core false = false) ∧
    (state_forward_bad.routerFaulty (nextHop atFlit.core atFlit.flit.dest) false = false) ∧
    (state_forward_bad.regionNum (nextHop atFlit.core atFlit.flit.dest) = atFlit.flit.region) := by decide +kernel

def state_forward_other : State :=
  { netted with mesh := { netted.mesh with flits := [offFlit] } }
/-- FlitsGoTheirWay: a state and operands that meet its hypotheses. -/
theorem witness_forward_other :
    (state_forward_other.mesh.flits[0]? = some offFlit) ∧
    (offFlit.flit.plane = false) ∧
    (offFlit.core ≠ offFlit.flit.dest) ∧
    (state_forward_other.faults.armed = none) ∧
    (state_forward_other.routerFaulty offFlit.core false = false) ∧
    (state_forward_other.routerFaulty (nextHop offFlit.core offFlit.flit.dest) false = false) ∧
    (state_forward_other.regionNum (nextHop offFlit.core offFlit.flit.dest) ≠ offFlit.flit.region) := by decide +kernel

def state_arrival : State :=
  { netted with mesh := { netted.mesh with flits := [hereFlit] } }
/-- ArrivalsLandInTheirBuffers: a state and operands that meet its hypotheses. -/
theorem witness_arrival :
    (state_arrival.mesh.flits[0]? = some hereFlit) ∧
    (hereFlit.core = hereFlit.flit.dest) ∧
    (hereFlit.flit.plane = false) ∧
    (state_arrival.routerFaulty hereFlit.core false = false) ∧
    (state_arrival.domainOff hereFlit.core = false) ∧
    (2 ≤ hereFlit.flit.kind) ∧
    (hereFlit.flit.kind < 6) ∧
    (hereFlit.flit.isVoid = false) ∧
    (state_arrival.faults.armed = none) ∧
    (state_arrival.tokenBuf hereFlit.core hereFlit.flit.token = some buf0) ∧
    (buf0.token = hereFlit.flit.token) ∧
    ((state_arrival.token hereFlit.core hereFlit.flit.token).inst = hereFlit.flit.inst % 256) ∧
    ((state_arrival.token hereFlit.core hereFlit.flit.token).consumed = false) ∧
    ((state_arrival.token hereFlit.core hereFlit.flit.token).stubbed.getLsbD hereFlit.flit.row = false) ∧
    (buf0.base + hereFlit.flit.index * buf0.unit + hereFlit.flit.payload.length ≤ storeSize) := by decide +kernel

def state_arrival_drop : State :=
  { netted with mesh := { netted.mesh with flits := [lostFlit] } }
/-- ArrivalsLandInTheirBuffers: a state and operands that meet its hypotheses. -/
theorem witness_arrival_drop :
    (state_arrival_drop.mesh.flits[0]? = some lostFlit) ∧
    (lostFlit.core = lostFlit.flit.dest) ∧
    (lostFlit.flit.plane = false) ∧
    (state_arrival_drop.routerFaulty lostFlit.core false = false) ∧
    (state_arrival_drop.domainOff lostFlit.core = false) ∧
    (2 ≤ lostFlit.flit.kind) ∧
    (lostFlit.flit.kind < 6) ∧
    (lostFlit.flit.isVoid = false) ∧
    (state_arrival_drop.faults.armed = none) ∧
    (state_arrival_drop.tokenBuf lostFlit.core lostFlit.flit.token = none) := by decide +kernel

/-- ArrivalsLandInTheirBuffers: a state and operands that meet its hypotheses. -/
theorem witness_broadcast :
    (sendOne.src = SendSrc.units 0) ∧
    (sendOne.units = 1) ∧
    (runsClean (netted.storeBytes 3 0 [1, 2, 3]) issue0 .rowBus 0 [(0, sendOne.bytes * sendOne.units)]) ∧
    (2 ≤ sendOne.kind) ∧
    (sendOne.kind < 8) ∧
    (sendOne.index < 1024) ∧
    ((netted.storeBytes 3 0 [1, 2, 3]).onSegment false ↑issue0.core ↑recv0.core = true) ∧
    ((netted.storeBytes 3 0 [1, 2, 3]).domainOff ↑recv0.core = false) ∧
    ((netted.storeBytes 3 0 [1, 2, 3]).tokenBuf (↑recv0.core) recv0.token = some buf0) ∧
    (buf0.token = recv0.token) ∧
    (((netted.storeBytes 3 0 [1, 2, 3]).token (↑recv0.core) recv0.token).inst = issue0.inst % 256) ∧
    (((netted.storeBytes 3 0 [1, 2, 3]).token (↑recv0.core) recv0.token).consumed = false) ∧
    (((netted.storeBytes 3 0 [1, 2, 3]).token (↑recv0.core) recv0.token).stubbed.getLsbD (recv0.index / recv0.perRow) = false) ∧
    (recv0.token ∉ issue0.ins) ∧
    (buf0.base + recv0.index * buf0.unit + sendOne.bytes ≤ storeSize) ∧
    (recv0.core ≠ issue0.core) := 
    by and_intros <;> first | decide +kernel | (unfold runsClean; decide +kernel)

/-- RouterFaultsAreMarked: a state and operands that meet its hypotheses. -/
theorem witness_rtrMarkA :
    (regAt (RTR_CTRL_MARK_A.addr + coreI ↑core3) = some (regOf (RTR_CTRL_MARK_A.addr + coreI 3))) ∧
    (writeReaches netted (wr (RTR_CTRL_MARK_A.of 1)) (RTR_CTRL_MARK_A.addr + coreI ↑core3) (regOf (RTR_CTRL_MARK_A.addr + coreI 3)) = true) ∧
    (wbits (wr (RTR_CTRL_MARK_A.of 1)).data RTR_CTRL_MARK_A = 1) := by decide +kernel

/-- RouterFaultsAreMarked: a state and operands that meet its hypotheses. -/
theorem witness_rtrMarkB :
    (regAt (RTR_CTRL_MARK_A.addr + coreI ↑core3) = some (regOf (RTR_CTRL_MARK_A.addr + coreI 3))) ∧
    (writeReaches netted (wr (RTR_CTRL_MARK_B.of 1)) (RTR_CTRL_MARK_A.addr + coreI ↑core3) (regOf (RTR_CTRL_MARK_A.addr + coreI 3)) = true) ∧
    (wbits (wr (RTR_CTRL_MARK_B.of 1)).data RTR_CTRL_MARK_B = 1) := by decide +kernel

/-! ### The module fabric -/

/-- Lane 5 planned two lanes wide, to port 4 of the module (1, 2). -/
def plan5 : PlanPort := ⟨5, 2, 0, 1, 2, 77, 4, [5], 0, []⟩
def planned (st : Nat) : State :=
  { busy.putAt (lnkI 5) LNK_STAT_STATE st with
    boot := { busy.boot with image := { image0 with ports := [plan5], buffers := [⟨3, 6, 128, 72, 2, .bushel, 1, none, 0⟩] } } }
def lane5 : LaneId := 5
def rxGood : FrameRx := ⟨0, false, true⟩
def rxTag : FrameRx := ⟨0, false, false⟩
def hello0 : Hello := ⟨77, 9, 4, 2, 0, [], 1, 2⟩
def confirmYes : Confirm := ⟨0, 9, 0, 5, true⟩
def confirmNo : Confirm := ⟨0, 9, 0, 5, false⟩
def lanes3 : BitVec 8 := 3
def lanes2 : BitVec 8 := 2
def lanes0 : BitVec 8 := 0
def withPort (s : State) (q : Port) : State := { s with fab := { s.fab with ports := [(5, q)] } }
def ring0 : RingRun := ⟨0, 0, 0, 1, 0, .circulation, 0, 0, false, 0, 0, [], []⟩
/-- An active port, a ring under way, its schedule fed for a send slot. -/
def linked : State :=
  { (planned 7).putAt (lnkI 5) LNK_STAT_LOGICAL 5 with
    sched := { busy.sched with tokens := [(tokKey 3 1, { Token.idle with arrived := 1 })],
                               due := [dueOn (.port 5) .request, { dueOn (.port 5) .request with ins := [], out := 6 }] },
    att := { busy.att with rings := [ring0] } }
def sendFab : Send := ⟨.units 0, 6, 0, 2, 2, 0, 72⟩
def hdr0 : FrameHdr := ⟨0, 0, 0, 0, 1, 2, 6, 0, 0, 2, 0, 1, 0, 0⟩
def hdrRev : FrameHdr := ⟨0, 3, 0, 0, 1, 2, 6, 0, 0, 2, 0, 1, 0, 0⟩
/-- A data unit of the ring of request slot 0, generation 0. -/
def unit72 : List Byte := List.replicate 64 9 ++ List.replicate 8 0
def slot5 : RecvSlot := ⟨⟨3, 0, [], 6⟩, 2, none, false⟩
def buf3 : TokenBuf := ⟨3, 6, 128, 72, 2, .bushel, 1, none, 0⟩
def sbm (kind mile data : Nat) : SbMsg := ⟨kind, 4, 5, mile, data⟩
def loss0 : Loss := ⟨1, 2, 0, false, none, [5], false⟩
def lossC : Loss := ⟨1, 2, 0, false, some 0, [5], false⟩

/-- PortTrainsLanesWidthAndHello: a state and operands that meet its hypotheses. -/
theorem witness_laneTraining :
    ((planned 1).plan ↑lane5 = some plan5) ∧
    (plan5.width ≤ 8) ∧
    ((planned 1).lnk (↑lane5) LNK_STAT_STATE = 1) ∧
    (lanes3 ≠ 0) := by decide +kernel

/-- PortTrainsLanesWidthAndHello: a state and operands that meet its hypotheses. -/
theorem witness_deskew :
    ((withPort (planned 2)         { Port.idle with lanes := 3 }).plan     ↑lane5 =   some plan5) ∧
    (plan5.width ≤ 8) ∧
    ((withPort (planned 2)         { Port.idle with lanes := 3 }).lnk     (↑lane5) LNK_STAT_STATE =   2) ∧
    (trainedWidth plan5.width     (((withPort (planned 2)               { Port.idle with lanes := 3 }).port           ↑lane5).lanes &&&       lanes2) =   some 1) := by decide +kernel

/-- PortTrainsLanesWidthAndHello: a state and operands that meet its hypotheses. -/
theorem witness_deskew_none :
    ((withPort (planned 2)         { Port.idle with lanes := 3 }).plan     ↑lane5 =   some plan5) ∧
    (plan5.width ≤ 8) ∧
    ((withPort (planned 2)         { Port.idle with lanes := 3 }).lnk     (↑lane5) LNK_STAT_STATE =   2) ∧
    (trainedWidth plan5.width     (((withPort (planned 2)               { Port.idle with lanes := 3 }).port           ↑lane5).lanes &&&       lanes0) =   none) := by decide +kernel

/-- PortTrainsLanesWidthAndHello: a state and operands that meet its hypotheses. -/
theorem witness_hello :
    ((planned 3).plan ↑lane5 = some plan5) ∧
    (plan5.width ≤ 8) ∧
    ((planned 3).lnk (↑lane5) LNK_STAT_STATE = 3) ∧
    (cleanFrame (planned 3) rxGood) ∧
    (hello0.group < 16) ∧
    (hello0.module < 64) ∧
    (hello0.port < 64) := 
    by unfold cleanFrame; decide +kernel

/-- PortConfirmsAndIsDecided: a state and operands that meet its hypotheses. -/
theorem witness_confirm_tag :
    ((withPort (planned 4)         { Port.idle with hello := some hello0 }).plan     ↑lane5 =   some plan5) ∧
    ((withPort (planned 4)         { Port.idle with hello := some hello0 }).lnk     (↑lane5) LNK_STAT_STATE =   4) ∧
    (((withPort (planned 4)           { Port.idle with hello := some hello0 }).port       ↑lane5).hello =   some hello0) ∧
    ((withPort (planned 4)         { Port.idle with hello := some hello0 }).faults.armed =   none) ∧
    (rxTag.uncorrectable = false) ∧
    (rxTag.tagOk = false) := by decide +kernel

/-- PortConfirmsAndIsDecided: a state and operands that meet its hypotheses. -/
theorem witness_decided :
    ((withPort (planned 5)         { Port.idle with hello := some hello0, confirm := some confirmYes, result := some 1 }).plan     ↑lane5 =   some plan5) ∧
    ((withPort (planned 5)         { Port.idle with hello := some hello0, confirm := some confirmYes, result := some 1 }).lnk     (↑lane5) LNK_STAT_STATE =   5) ∧
    (((withPort (planned 5)           { Port.idle with hello := some hello0, confirm := some confirmYes, result := some 1 }).port       ↑lane5).result =   some 1) ∧
    (((withPort (planned 5)           { Port.idle with hello := some hello0, confirm := some confirmYes, result := some 1 }).port       ↑lane5).confirm =   some confirmYes) ∧
    (((withPort (planned 5)           { Port.idle with hello := some hello0, confirm := some confirmYes, result := some 1 }).port       ↑lane5).hello =   some hello0) ∧
    (1 ≤ 1) ∧
    (confirmYes.accept = true) := by decide +kernel

/-- PortConfirmsAndIsDecided: a state and operands that meet its hypotheses. -/
theorem witness_decided_off :
    ((withPort (planned 5)         { Port.idle with hello := some hello0, confirm := some confirmNo, result := some 0 }).plan     ↑lane5 =   some plan5) ∧
    ((withPort (planned 5)         { Port.idle with hello := some hello0, confirm := some confirmNo, result := some 0 }).lnk     (↑lane5) LNK_STAT_STATE =   5) ∧
    (((withPort (planned 5)           { Port.idle with hello := some hello0, confirm := some confirmNo, result := some 0 }).port       ↑lane5).result =   some 0) ∧
    (((withPort (planned 5)           { Port.idle with hello := some hello0, confirm := some confirmNo, result := some 0 }).port       ↑lane5).confirm =   some confirmNo) ∧
    (((withPort (planned 5)           { Port.idle with hello := some hello0, confirm := some confirmNo, result := some 0 }).port       ↑lane5).hello =   some hello0) ∧
    (0 ≤ 1) ∧
    (confirmNo.accept = false) := by decide +kernel

/-- PortConfirmsAndIsDecided: a state and operands that meet its hypotheses. -/
theorem witness_timeout :
    ((planned 6).plan ↑lane5 = some plan5) ∧
    ((planned 6).lnk (↑lane5) LNK_STAT_STATE ≠ 0) ∧
    ((planned 6).lnk (↑lane5) LNK_STAT_STATE ≠ 7) := by decide +kernel

/-- DataFramesCarryUnits: a state and operands that meet its hypotheses. -/
theorem witness_send :
    (sendFab.src = SendSrc.units 0) ∧
    (1 ≤ sendFab.units) ∧
    (sendFab.units ≤ 16) ∧
    (runsClean linked issue0 (.port 5) 0 [(0, sendFab.bytes * sendFab.units)]) ∧
    (linked.physPort ↑lane5 = some 5) := 
    by and_intros <;> first | decide +kernel | (unfold runsClean; decide +kernel)

def state_send_down : State :=
  { (planned 0) with sched := linked.sched }
/-- DataFramesCarryUnits: a state and operands that meet its hypotheses. -/
theorem witness_send_down :
    (sendFab.src = SendSrc.units 0) ∧
    (1 ≤ sendFab.units) ∧
    (sendFab.units ≤ 16) ∧
    (runsClean state_send_down issue0 (.port 5) 0 [(0, sendFab.bytes * sendFab.units)]) ∧
    (state_send_down.physPort ↑lane5 = none) := 
    by and_intros <;> first | decide +kernel | (unfold runsClean; decide +kernel)

/-- DataFramesCarryUnits: a state and operands that meet its hypotheses. -/
theorem witness_data :
    (linked.portActive ↑lane5 = true) ∧
    (cleanFrame linked rxGood) ∧
    (hdr0.type = 0) ∧
    (hdr0.fmt = 2) ∧
    (hdr0.count = 0) ∧
    (unit72.length = 72) ∧
    (linked.revOk hdr0.rev = true) ∧
    ((linked.port ↑lane5).refuseData = false) ∧
    ((linked.port ↑lane5).held = false) ∧
    (hdr0.dstRegion = (Option.map PlanPort.region (linked.plan ↑lane5)).getD 0) ∧
    (slot5.issue.out = hdr0.token) ∧
    (slot5.flow = none) ∧
    ((hdr0.dstGroup, hdr0.dstMod) = linked.self) ∧
    (linked.runs slot5.issue (.port (linked.lnk (↑lane5) LNK_STAT_LOGICAL)) = true) ∧
    ((linked.ringOf unit72).isSome = true) ∧
    (linked.tokenBuf (↑slot5.issue.core) hdr0.token = some buf3) ∧
    (buf3.token = hdr0.token) ∧
    ((linked.token (↑slot5.issue.core) hdr0.token).inst = hdr0.inst % 256) ∧
    ((linked.token (↑slot5.issue.core) hdr0.token).consumed = false) ∧
    ((linked.token (↑slot5.issue.core) hdr0.token).stubbed.getLsbD (hdr0.index / slot5.perRow) = false) ∧
    (buf3.base + hdr0.index * buf3.unit + 72 ≤ storeSize) := 
    by unfold cleanFrame; decide +kernel

/-- DataFramesCarryUnits: a state and operands that meet its hypotheses. -/
theorem witness_data_rev :
    (linked.portActive ↑lane5 = true) ∧
    (cleanFrame linked rxGood) ∧
    (hdrRev.type = 0) ∧
    (hdrRev.fmt = 2) ∧
    (hdrRev.count = 0) ∧
    (unit72.length = 72) ∧
    (linked.revOk hdrRev.rev = false) := 
    by unfold cleanFrame; decide +kernel

/-- HeartbeatsTellTheRod: a state and operands that meet its hypotheses. -/
theorem witness_heartbeat :
    (6 ≤ (planned 6).lnk (↑lane5) LNK_STAT_STATE) ∧
    (((planned 6).port ↑lane5).quiet = false) ∧
    ((planned 6).timeBaseDown = false) ∧
    (((planned 6).port ↑lane5).hbSent ≠ some (planned 6).sec.clockRods) := by decide +kernel

/-- HeartbeatsTellTheRod: a state and operands that meet its hypotheses. -/
theorem witness_heartbeat_twice :
    (6 ≤   (withPort (planned 6)         { Port.idle with hbSent := some 0 }).lnk     (↑lane5) LNK_STAT_STATE) ∧
    (((withPort (planned 6)           { Port.idle with hbSent := some 0 }).port       ↑lane5).quiet =   false) ∧
    ((withPort (planned 6)       { Port.idle with hbSent := some 0 }).timeBaseDown =   false) ∧
    (((withPort (planned 6)           { Port.idle with hbSent := some 0 }).port       ↑lane5).hbSent =   some     (withPort (planned 6)           { Port.idle with hbSent := some 0 }).sec.clockRods) := by decide +kernel

def state_hbReceived : State :=
  { (planned 7) with tb := { busy.tb with rod := 65536 } }
/-- HeartbeatsTellTheRod: a state and operands that meet its hypotheses. -/
theorem witness_hbReceived :
    (state_hbReceived.lnk (↑lane5) LNK_STAT_STATE = 7) ∧
    (cleanFrame state_hbReceived rxGood) ∧
    (state_hbReceived.faults.hbDiscard = none) ∧
    (state_hbReceived.faults.hbOffset = none) ∧
    (state_hbReceived.isSet TB_STAT_COUNT_VALID = true) ∧
    (hbTimeValid 1 = true) ∧
    (hbChrysalis 1 = false) ∧
    ((state_hbReceived.tb.rod % 65536 + 65536 - 65535 % 65536) % 65536 ≤ 1) := 
    by unfold cleanFrame; decide +kernel

def state_hbReceived_off : State :=
  { (withPort (planned 7) { Port.idle with peerRun := 2 }) with tb := { busy.tb with rod := 65536 } }
/-- HeartbeatsTellTheRod: a state and operands that meet its hypotheses. -/
theorem witness_hbReceived_off :
    (state_hbReceived_off.lnk (↑lane5) LNK_STAT_STATE = 7) ∧
    (cleanFrame state_hbReceived_off rxGood) ∧
    (state_hbReceived_off.faults.hbDiscard = none) ∧
    (state_hbReceived_off.faults.hbOffset = none) ∧
    (state_hbReceived_off.isSet TB_STAT_COUNT_VALID = true) ∧
    (hbTimeValid 1 = true) ∧
    (hbChrysalis 1 = false) ∧
    (1 < (state_hbReceived_off.tb.rod % 65536 + 65536 - 65534 % 65536) % 65536) ∧
    ((state_hbReceived_off.port ↑lane5).peerRun = 2) := 
    by unfold cleanFrame; decide +kernel

/-- SidebandMessagesAreKept: a state and operands that meet its hypotheses. -/
theorem witness_heat :
    ((sbm 1 0 0).kind = 1) ∧
    (sbm 1 0 0 ∉ busy.fab.seen) := by decide +kernel

def state_heat_stop : State :=
  { busy with fab := { busy.fab with heatStop := true } }
/-- SidebandMessagesAreKept: a state and operands that meet its hypotheses. -/
theorem witness_heat_stop :
    ((sbm 1 0 0).kind = 1) ∧
    (sbm 1 0 0 ∉ state_heat_stop.fab.seen) := by decide +kernel

def state_heat_seen : State :=
  { busy with fab := { busy.fab with seen := [sbm 1 0 0] } }
/-- SidebandMessagesAreKept: a state and operands that meet its hypotheses. -/
theorem witness_heat_seen :
    ((sbm 1 0 0).kind = 1) ∧
    (sbm 1 0 0 ∈ state_heat_seen.fab.seen) := by decide +kernel

/-- SidebandMessagesAreKept: a state and operands that meet its hypotheses. -/
theorem witness_loss :
    ((sbm 4 0 66).kind = 4) ∧
    (sbm 4 0 66 ∉ busy.fab.seen) := by decide +kernel

def state_present : State :=
  { busy with fab := { busy.fab with losses := [loss0] } }
/-- SidebandMessagesAreKept: a state and operands that meet its hypotheses. -/
theorem witness_present :
    ((sbm 5 0 66).kind = 5) ∧
    (sbm 5 0 66 ∉ state_present.fab.seen) := by decide +kernel

/-- LostPartnersAreDetected: a state and operands that meet its hypotheses. -/
theorem witness_signalLoss :
    (linked.portActive ↑lane5 = true) := by decide +kernel

/-- LostPartnersAreDetected: a state and operands that meet its hypotheses. -/
theorem witness_signalLoss_training :
    ((planned 6).portActive ↑lane5 = false) ∧
    ((planned 6).lnk (↑lane5) LNK_STAT_STATE ≠ 0) := by decide +kernel

/-- LostPartnersAreDetected: a state and operands that meet its hypotheses. -/
theorem witness_slotMiss :
    ((withPort linked         { Port.idle with hbMiss := 2 }).portActive     ↑lane5 =   true) ∧
    (((withPort linked           { Port.idle with hbMiss := 2 }).port       ↑lane5).hbRod =   none) := by decide +kernel

/-- LostPartnersAreDetected: a state and operands that meet its hypotheses. -/
theorem witness_slotMiss_first :
    ((withPort linked         { Port.idle with hbMiss := 1 }).portActive     ↑lane5 =   true) ∧
    (((withPort linked           { Port.idle with hbMiss := 1 }).port       ↑lane5).hbRod =   none) := by decide +kernel

def state_slotMiss_none : State :=
  { withPort linked { Port.idle with hbRod := some 5 } with tb := { linked.tb with rod := 7 } }
/-- LostPartnersAreDetected: a state and operands that meet its hypotheses. -/
theorem witness_slotMiss_none :
    (state_slotMiss_none.isSet TB_STAT_COUNT_VALID = true) ∧
    ((state_slotMiss_none.port ↑lane5).hbRod = some ((state_slotMiss_none.tb.rod + rodP - 2) % rodP)) := by decide +kernel

def state_lossConfirmation : State :=
  { busy with fab := { busy.fab with losses := [loss0] }, tb := { busy.tb with rod := 320 } }
/-- LossesAreConfirmedAndClosed: one mile after the mile of the loss. -/
theorem witness_lossConfirmation :
    (loss0 ∈ state_lossConfirmation.fab.losses) ∧
    (loss0.group = 1) ∧
    (loss0.module = 2) ∧
    (loss0.confirmed = none) ∧
    (loss0.present = false) ∧
    ((state_lossConfirmation.mileNow + mileP - loss0.mile) % mileP ≠ 0) ∧
    ((state_lossConfirmation.mileNow + mileP - loss0.mile) % mileP ≤ mileP / 2) := by decide +kernel

def state_lossDisable : State :=
  { busy.put GLB_STATE_STEP 5 with fab := { busy.fab with losses := [lossC] }, tb := { busy.tb with rod := 640 } }
/-- LossesAreConfirmedAndClosed: a state and operands that meet its hypotheses. -/
theorem witness_lossDisable :
    (lossC ∈ state_lossDisable.fab.losses) ∧
    (lossC.group = 1) ∧
    (lossC.module = 2) ∧
    (lossC.closed = false) ∧
    (lossC.confirmed = some 0) ∧
    (2 ≤ (state_lossDisable.mileNow + mileP - 0) % mileP) ∧
    (∀ x ∈ state_lossDisable.fab.takeovers, ¬(x.1 = 1 ∧ x.2.1 = 2)) ∧
    (5 ≤ state_lossDisable.fld GLB_STATE_STEP) := by decide +kernel

/-- RetrainAndCoordinates: a state and operands that meet its hypotheses. -/
theorem witness_retrain :
    (regAt (LNK_CTRL_RETRAIN.addr + lnkI ↑lane5) = some (regOf (LNK_CTRL_RETRAIN.addr + lnkI 5))) ∧
    (writeReaches (planned 7) (wr (LNK_CTRL_RETRAIN.of 1)) (LNK_CTRL_RETRAIN.addr + lnkI ↑lane5) (regOf (LNK_CTRL_RETRAIN.addr + lnkI 5)) = true) ∧
    (wbits (wr (LNK_CTRL_RETRAIN.of 1)).data LNK_CTRL_RETRAIN = 1) := by decide +kernel

/-- RetrainAndCoordinates: a state and operands that meet its hypotheses. -/
theorem witness_coordinates :
    (busy.mgmtUp = true) := by decide +kernel

/-- PortConfirmsAndIsDecided: the echo that the rule of the smaller die identifier asks for, whichever die is the smaller, with the
rest of the clause's hypotheses. -/
theorem witness_confirm : ∃ c : Confirm,
    (c.echoA, c.echoB) = (if Config.dieId.toNat < hello0.dieId.toNat then
      (((withPort (planned 4) { Port.idle with hello := some hello0 }).port lane5).random, hello0.random) else
      (hello0.random, ((withPort (planned 4) { Port.idle with hello := some hello0 }).port lane5).random)) ∧
    (withPort (planned 4) { Port.idle with hello := some hello0 }).plan lane5 = some plan5 ∧
    (withPort (planned 4) { Port.idle with hello := some hello0 }).lnk lane5 LNK_STAT_STATE = 4 ∧
    ((withPort (planned 4) { Port.idle with hello := some hello0 }).port lane5).hello = some hello0 ∧
    cleanFrame (withPort (planned 4) { Port.idle with hello := some hello0 }) rxGood := by
  by_cases h : Config.dieId.toNat < hello0.dieId.toNat
  · exact ⟨⟨((withPort (planned 4) { Port.idle with hello := some hello0 }).port lane5).random, hello0.random, 0, 0, true⟩,
      by simp [h], by decide +kernel, by decide +kernel, by decide +kernel, by unfold cleanFrame; decide +kernel⟩
  · exact ⟨⟨hello0.random, ((withPort (planned 4) { Port.idle with hello := some hello0 }).port lane5).random, 0, 0, true⟩,
      by simp [h], by decide +kernel, by decide +kernel, by decide +kernel, by unfold cleanFrame; decide +kernel⟩

/-! ### Expert routing and attention -/

/-- Expert 0 is valid with an allotment of one at block row 0; expert 1 is not valid. -/
def expert0 : ExpertLayer := ⟨3, 5, 2, 1, 0, 0, false, [], [2 ^ 63 + 2 ^ 57, 0]⟩
def rowTag0 : RowTag := ⟨0, 0, 0, 0, false⟩
def grant0 : Grant := ⟨3, 5, 0, none, [(0, rowTag0)], [⟨0, 0, 0, true, 0, 0x3F800000⟩], 0, [], [], [], [], false⟩
/-- The schedule with a bushel's choices made, a grant record, and an answer token complete. -/
def routed : State :=
  { busy with
    boot := { busy.boot with image := { image0 with
      experts := [expert0], exchange := [⟨5, 0, 0, 0, 3, 1, 0⟩], buffers := [⟨3, 1, 0, 72, 1, .answer, 1, none, 0⟩] } },
    sched := { busy.sched with tokens := [(tokKey 3 1, { Token.idle with arrived := 1 })] },
    routing := { busy.routing with dir := [(dirKey 3 5 0, 2 ^ 63 + 2 ^ 57)], choices := [⟨3, 5, 0, 0, [(0, 0x3F800000)], false⟩, ⟨3, 5, 0, 1, [(0, 0x3F800000)], false⟩, ⟨3, 5, 0, 2, [(1, 0x3F800000)], false⟩] } }
def combined : State := { routed with routing := { routed.routing with grants := [grant0] } }
def lateAnswers : State := { combined with sched := { combined.sched with tokens := [] } }
def rowsNone : BitVec 32 := 0
def quar0 : Quarantine := ⟨5, 0, 3, 0⟩
def kv1 : KvLayer := ⟨0, 0, 1, 32, 1, false, false, 4096, 4, 1, 1, 1, 1, 8, [(0, 3, 0)], [(0, 3)], 0⟩
/-- A ring of two modules whose layers have one head of 32 elements and 64 bytes a position. -/
def ringGeo (n : Nat) : KvLayer := { kv1 with layer := n, bytes := 64 }
def ringA : Ring := ⟨[(0, 0), (0, 1)], 0, 1, [3], [⟨(0, 0), ringGeo 0⟩, ⟨(0, 0), ringGeo 1⟩]⟩
/-- A KV layer of one head and spans of 256 positions, with one span slot given to request 0. -/
def attended : State :=
  { busy with boot := { busy.boot with image := { image0 with kvLayers := [kv1], ringDecls := [ringA] } },
              att := { busy.att with grants := [⟨0, 0, false, 1, 0⟩] },
              sched := { busy.sched with tokens := [(tokKey 3 1, { Token.idle with arrived := 1 })] } }
def part0 : Partial := ⟨0, 0, 5, 0, 0, 0, false, false, [(0x3F800000, 0x40000000, List.replicate 32 0x40400000)]⟩
def partsAll : Nat → Partial := fun _ => part0
def row0 : Fin 32 := 0
def mineOf (s : State) : Partial → Bool :=
  fun (p : Partial) => p.slot == 0 && p.gen == (s.req 0).gen && p.pos == 5 && p.layer == 0 && p.head == 0
/-- A run for a request of two positions: its query line and its two KV lines, and the rows placed. -/
def ringLine (layer utype k : Nat) : RingLine := ⟨layer, utype, 0, k, List.replicate 64 0x38⟩
def run0 (p : RingPhase) (layer step : Nat) : RingRun :=
  ⟨0, 4, 0, 1, layer, p, step, 0, false, 0, 2, [ringLine layer 1 0, ringLine layer 0 0, ringLine layer 0 1], []⟩
def ringing (x : RingRun) (rod : Nat) : State :=
  { attended with att := { attended.att with rings := [x] }, tb := { attended.tb with rod := rod },
                  rqt := { attended.rqt with table := [(4, { Req.empty with state := .prefill, ring := true, p := 2 })] } }

/-- GrantsKeepTheAllotments: a state and operands that meet its hypotheses. -/
theorem witness_grant :
    (routed.runs issue0 .dispatch = true) ∧
    (routed.ready issue0 = Ready.run rowsNone none) ∧
    (routed.faults.armed = none) ∧
    (routed.faults.untrusted = []) ∧
    (List.find? (fun x ↦ decide (x.core = (routed.logicalOf ↑issue0.core).getD 0 ∧ x.layer = 5)) routed.boot.image.experts = some expert0) ∧
    (routed.csPoisoned (↑issue0.core) (List.map (fun r ↦ (r.base, r.len)) (List.filter (fun r ↦ decide (r.core = (routed.logicalOf ↑issue0.core).getD 0 ∧ r.kind = StoreKind.directory)) routed.boot.image.stores)) = false) := by decide +kernel

/-- AnswersAreCombined: a state and operands that meet its hypotheses. -/
theorem witness_combine :
    (combined.runs issue0 .dispatch = true) ∧
    (combined.faults.armed = none) ∧
    (combined.faults.untrusted = []) ∧
    (0 < 32) ∧
    (List.find? (fun g ↦ decide (g.layer = 5 ∧ g.inst = issue0.inst)) combined.routing.grants = some grant0) ∧
    (List.find? (fun x ↦ decide (some x.core = combined.logicalOf grant0.core ∧ x.layer = 5)) combined.boot.image.experts = some expert0) ∧
    (combined.csPoisoned (↑issue0.core) (List.map (fun b ↦ (b.base, 32 * 72 * ((4 + 63) / 64))) (List.filterMap (fun t ↦ combined.tokenBuf (↑issue0.core) t) (List.filter (fun x ↦ decide (x ≠ 255)) issue0.ins))) = false) ∧
    (grant0.rows = [(0, rowTag0)]) ∧
    (4096 + 4 * 4 * 0 + 4 * 4 ≤ storeSize) ∧
    (∀ p ∈ rowAnswers combined issue0 grant0 expert0 0 4 0 rowTag0, p.2.isOk = true) := by decide +kernel

/-- AnswersAreCombined: a state and operands that meet its hypotheses. -/
theorem witness_combine_late :
    (lateAnswers.runs issue0 .dispatch = true) ∧
    (lateAnswers.faults.armed = none) ∧
    (lateAnswers.faults.untrusted = []) ∧
    (0 < 32) ∧
    (List.find? (fun g ↦ decide (g.layer = 5 ∧ g.inst = issue0.inst)) lateAnswers.routing.grants = some grant0) ∧
    (List.find? (fun x ↦ decide (some x.core = lateAnswers.logicalOf grant0.core ∧ x.layer = 5)) lateAnswers.boot.image.experts = some expert0) ∧
    (lateAnswers.csPoisoned (↑issue0.core) (List.map (fun b ↦ (b.base, 32 * 72 * ((4 + 63) / 64))) (List.filterMap (fun t ↦ lateAnswers.tokenBuf (↑issue0.core) t) (List.filter (fun x ↦ decide (x ≠ 255)) issue0.ins))) = false) ∧
    (grant0.rows = [(0, rowTag0)]) ∧
    (4096 + 4 * 4 * 0 + 4 * 4 ≤ storeSize) ∧
    (∃ p ∈ rowAnswers lateAnswers issue0 grant0 expert0 0 4 0 rowTag0, p.2.isLate = true) := by decide +kernel

/-- AnswersAreCombined: a state and operands that meet its hypotheses. -/
theorem witness_combine_none :
    (routed.runs issue0 .dispatch = true) ∧
    (routed.faults.armed = none) ∧
    (routed.faults.untrusted = []) ∧
    (List.find? (fun g ↦ decide (g.layer = 5 ∧ g.inst = issue0.inst)) routed.routing.grants = none) := by decide +kernel

def state_quarantine : State :=
  { routed with faults := { routed.faults with quarantines := [quar0] }, tb := { routed.tb with rod := 32 * 320 } }
/-- QuarantinesLapse: 32 miles after the quarantine began, and one mile before that. -/
theorem witness_quarantine :
    (List.find? (fun q ↦ decide (q.layer = 5 ∧ q.expert = 0)) state_quarantine.faults.quarantines = some quar0) ∧
    (32 ≤ (state_quarantine.mileNow + mileP - quar0.mile) % mileP) := by decide +kernel

def state_quarantine_before : State :=
  { routed with faults := { routed.faults with quarantines := [quar0] }, tb := { routed.tb with rod := 31 * 320 } }
/-- QuarantinesLapse: a state and operands that meet its hypotheses. -/
theorem witness_quarantine_before :
    (List.find? (fun q ↦ decide (q.layer = 5 ∧ q.expert = 0)) state_quarantine_before.faults.quarantines = some quar0) ∧
    ((state_quarantine_before.mileNow + mileP - quar0.mile) % mileP < 32) := by decide +kernel

/-- SpansAreEvaluated: a state and operands that meet its hypotheses. -/
theorem witness_span :
    (attended.kvLayer 0 = some kv1) ∧
    (0 = (Option.map (fun e ↦ e.2.2) (List.find? (fun e ↦ decide (e.1 = 0 ∧ some e.2.1 = attended.logicalOf ↑issue0.core)) kv1.lanes)).getD 0) ∧
    (32 = (if kv1.bf16Att = true then 2 else 1) * kv1.dim) ∧
    (attended.spanGiven kv1 0 0 0 5 0 = true) ∧
    (runsClean attended issue0 .matrix rowsNone [(0, kv1.heads / max kv1.width 1 * kv1.group * 32), (4096, 64 * kv1.span * kv1.bytes)]) := 
    by and_intros <;> first | decide +kernel | (unfold runsClean; decide +kernel)

def state_fold : State :=
  { attended with att := { attended.att with partials := [part0] } }
/-- SpansAreFolded: a state and operands that meet its hypotheses. -/
theorem witness_fold :
    (state_fold.runs issue0 .vector = true) ∧
    (4096 + 2 * (kv1.group * kv1.dim) ≤ storeSize) ∧
    (state_fold.kvLayer 0 = some kv1) ∧
    (0 < kv1.span) ∧
    (mineOf state_fold = fun p ↦ p.slot == 0 && p.gen == (state_fold.req 0).gen && p.pos == 5 && p.layer == 0 && p.head == 0) ∧
    (List.find? (fun f ↦ f.slot == 0 && f.gen == (state_fold.req 0).gen && f.pos == 5 && f.layer == 0 && f.head == 0) state_fold.att.folds = none) ∧
    (∀ k < kv1.spans 5, List.find? (fun p ↦ decide (p.span = k)) (List.filter (mineOf state_fold) state_fold.att.partials) = some (partsAll k) ∧ (partsAll k).isVoid = false ∧ (partsAll k).heads.length = kv1.group ∧ ∀ h ∈ (partsAll k).heads, h.2.2.length = kv1.dim) := 
    by and_intros <;> first | decide +kernel | exact rfl

/-- SpansAreFolded: a state and operands that meet its hypotheses. -/
theorem witness_fold_none :
    (attended.runs issue0 .vector = true) ∧
    (4096 + 2 * (kv1.group * kv1.dim) ≤ storeSize) ∧
    (attended.kvLayer 0 = some kv1) ∧
    (0 < kv1.span) ∧
    (mineOf attended = fun p ↦ p.slot == 0 && p.gen == (attended.req 0).gen && p.pos == 5 && p.layer == 0 && p.head == 0) ∧
    (List.find? (fun f ↦ f.slot == 0 && f.gen == (attended.req 0).gen && f.pos == 5 && f.layer == 0 && f.head == 0) attended.att.folds = none) ∧
    (∀ p ∈ attended.att.partials, mineOf attended p = true → p.span ≠ 0) ∧
    ((attended.att.held.any fun h ↦ h.slot == 0 && h.gen == (attended.req 0).gen && h.layer == 0) = false) := 
    by and_intros <;> first | decide +kernel | exact rfl

def state_ringStart : State :=
  { attended with rqt := { attended.rqt with table := [(4, { Req.empty with state := .intake, ring := true, p := 8192 })] } }
/-- RingsRunLongRequests: a state and operands that meet its hypotheses. -/
theorem witness_ringStart :
    (state_ringStart.ringDecl 0 = some ringA) ∧
    ((state_ringStart.req 4).state = ReqState.intake) ∧
    ((state_ringStart.req 4).ring = true) ∧
    ((state_ringStart.req 4).admitAt = none) ∧
    (ringA.region = (state_ringStart.req 4).region) ∧
    ((state_ringStart.att.rings.any fun x ↦ x.ring == 0) = false) := by decide +kernel

/-- RingsRunLongRequests: a bad line is reported. -/
theorem witness_ring_bad :
    ((ringing (run0 .projection 0 0) 320).ringDecl 0 = some ringA) ∧
    (List.find? (fun x ↦ x.ring == 0) (ringing (run0 .projection 0 0) 320).att.rings = some (run0 .projection 0 0)) ∧
    (ringA.layers[(run0 .projection 0 0).layer]? = some ⟨(0, 0), ringGeo 0⟩) ∧
    ((run0 .projection 0 0).voided = false) ∧
    ((ringing (run0 .projection 0 0) 320).tb.rod % 320 = 0) ∧
    ((run0 .projection 0 0).voids < 4) := by decide +kernel

/-- RingsRunLongRequests: the rows placed and every line there. -/
theorem witness_ring_projection :
    ((ringing (run0 .projection 0 0) 320).ringDecl 0 = some ringA) ∧
    (List.find? (fun x ↦ x.ring == 0) (ringing (run0 .projection 0 0) 320).att.rings = some (run0 .projection 0 0)) ∧
    (ringA.layers[(run0 .projection 0 0).layer]? = some ⟨(0, 0), ringGeo 0⟩) ∧
    ((run0 .projection 0 0).voided = false) ∧
    ((ringing (run0 .projection 0 0) 320).tb.rod % 320 = 0) ∧
    ((run0 .projection 0 0).phase = .projection) ∧
    ((ringing (run0 .projection 0 0) 320).ringPlaced ⟨(0, 0), ringGeo 0⟩ (run0 .projection 0 0) = true) ∧
    ((run0 .projection 0 0).lacks (ringGeo 0) ((ringing (run0 .projection 0 0) 320).req 4).p (max ringA.members.length 1) ((ringing (run0 .projection 0 0) 320).ringMember ringA) 0 = false) := by decide +kernel

def runShort : RingRun := { run0 .projection 0 0 with lines := [] }
/-- RingsRunLongRequests: no line has come. -/
theorem witness_ring_lacks :
    ((ringing runShort 320).ringDecl 0 = some ringA) ∧
    (List.find? (fun x ↦ x.ring == 0) (ringing runShort 320).att.rings = some (runShort)) ∧
    (ringA.layers[(runShort).layer]? = some ⟨(0, 0), ringGeo 0⟩) ∧
    ((runShort).voided = false) ∧
    ((ringing runShort 320).tb.rod % 320 = 0) ∧
    (runShort.phase = .projection) ∧
    ((ringing runShort 320).ringPlaced ⟨(0, 0), ringGeo 0⟩ runShort = true) ∧
    (¬runShort.lacks (ringGeo 0) ((ringing runShort 320).req 4).p (max ringA.members.length 1) ((ringing runShort 320).ringMember ringA) 0 = false) ∧
    (runShort.voids < 4) := by decide +kernel

/-- RingsRunLongRequests: the first step is over. -/
theorem witness_ring_step :
    ((ringing (run0 .circulation 0 0) 320).ringDecl 0 = some ringA) ∧
    (List.find? (fun x ↦ x.ring == 0) (ringing (run0 .circulation 0 0) 320).att.rings = some (run0 .circulation 0 0)) ∧
    (ringA.layers[(run0 .circulation 0 0).layer]? = some ⟨(0, 0), ringGeo 0⟩) ∧
    ((run0 .circulation 0 0).voided = false) ∧
    ((ringing (run0 .circulation 0 0) 320).tb.rod % 320 = 0) ∧
    ((run0 .circulation 0 0).phase = .circulation) ∧
    (ringA.stepMiles (run0 .circulation 0 0).chunks ≤ ((ringing (run0 .circulation 0 0) 320).mileNow + mileP - (run0 .circulation 0 0).startMile) % mileP) ∧
    ((run0 .circulation 0 0).step + 1 < ringA.members.length) ∧
    ((run0 .circulation 0 0).lacks (ringGeo 0) ((ringing (run0 .circulation 0 0) 320).req 4).p (max ringA.members.length 1) ((ringing (run0 .circulation 0 0) 320).ringMember ringA) 1 = false) := by decide +kernel

/-- RingsRunLongRequests: the last step of the last layer is over. -/
theorem witness_ring_last :
    ((ringing (run0 .circulation 1 1) 320).ringDecl 0 = some ringA) ∧
    (List.find? (fun x ↦ x.ring == 0) (ringing (run0 .circulation 1 1) 320).att.rings = some (run0 .circulation 1 1)) ∧
    (ringA.layers[(run0 .circulation 1 1).layer]? = some ⟨(0, 0), ringGeo 1⟩) ∧
    ((run0 .circulation 1 1).voided = false) ∧
    ((ringing (run0 .circulation 1 1) 320).tb.rod % 320 = 0) ∧
    ((run0 .circulation 1 1).phase = .circulation) ∧
    (ringA.stepMiles (run0 .circulation 1 1).chunks ≤ ((ringing (run0 .circulation 1 1) 320).mileNow + mileP - (run0 .circulation 1 1).startMile) % mileP) ∧
    (ringA.members.length ≤ (run0 .circulation 1 1).step + 1) ∧
    (ringA.layers.length ≤ (run0 .circulation 1 1).layer + 1) := by decide +kernel

/-- RingsRunLongRequests: the first layer returns. -/
theorem witness_ring_return :
    ((ringing (run0 .return 0 1) 320).ringDecl 0 = some ringA) ∧
    (List.find? (fun x ↦ x.ring == 0) (ringing (run0 .return 0 1) 320).att.rings = some (run0 .return 0 1)) ∧
    (ringA.layers[(run0 .return 0 1).layer]? = some ⟨(0, 0), ringGeo 0⟩) ∧
    ((run0 .return 0 1).voided = false) ∧
    ((ringing (run0 .return 0 1) 320).tb.rod % 320 = 0) ∧
    ((run0 .return 0 1).phase = .return) ∧
    ((ringing (run0 .return 0 1) 320).ringPlaced ⟨(0, 0), ringGeo 0⟩ (run0 .return 0 1) = true) ∧
    ((run0 .return 0 1).layer + 1 < ringA.layers.length) := by decide +kernel

/-- RingsRunLongRequests: the last layer returns. -/
theorem witness_ring_end :
    ((ringing (run0 .return 1 1) 320).ringDecl 0 = some ringA) ∧
    (List.find? (fun x ↦ x.ring == 0) (ringing (run0 .return 1 1) 320).att.rings = some (run0 .return 1 1)) ∧
    (ringA.layers[(run0 .return 1 1).layer]? = some ⟨(0, 0), ringGeo 1⟩) ∧
    ((run0 .return 1 1).voided = false) ∧
    ((ringing (run0 .return 1 1) 320).tb.rod % 320 = 0) ∧
    ((run0 .return 1 1).phase = .return) ∧
    ((ringing (run0 .return 1 1) 320).ringPlaced ⟨(0, 0), ringGeo 1⟩ (run0 .return 1 1) = true) ∧
    (ringA.layers.length ≤ (run0 .return 1 1).layer + 1) := by decide +kernel

/-! ### Serving requests -/

def ringPair0 : RingPair := ⟨0, 4096, 16, 8192, 8, 0, 0, 17, [(65536, 65536)], 4, 2, 32000⟩
def varB : Variant := { var0 with bushels := [0] }
/-- An entry module in service, its intake open. -/
def serving : State :=
  { (busy.put RQT_CTRL_INTAKE_EN 1).put SEC_STAT_UNSEALED 1 with
    boot := { busy.boot with image := { image0 with entry := true, rings := [ringPair0], variants := [varB] } } }
/-- A SUBMIT of two prompt tokens at 65,536, four to generate. -/
def rawSubmit (p : Nat) (addr : Nat) : List Byte :=
  [1, 3, 0, 0] ++ leBytes 4 0 ++ leBytes 8 99 ++ leBytes 8 7 ++ leBytes 6 0 ++ [0, 0] ++ leBytes 8 addr ++ leBytes 4 p ++ leBytes 4 4 ++
    List.replicate 76 0
def rawBad : List Byte := [1, 9] ++ List.replicate 126 0
def fetchOk : Fetch := ⟨0, false, [5, 6], [], [], true⟩
def rawCtl (type : Nat) : List Byte := [BitVec.ofNat 8 type] ++ List.replicate 7 0 ++ leBytes 8 99 ++ leBytes 2 7 ++ [5] ++ List.replicate 109 0
def rawDraft : List Byte :=
  [3, 1] ++ List.replicate 6 0 ++ leBytes 8 99 ++ leBytes 2 7 ++ [5, 0] ++ leBytes 4 10 ++ leBytes 4 21 ++ List.replicate 100 0
def reqOf (st : ReqState) : Req := { Req.empty with handle := 99, gen := 5, state := st, lC := 10, lT := 10, p := 10, pendTok := 3 }
def withReq (r : Req) : State := { serving with rqt := { serving.rqt with table := [(7, r)] } }
/-- Every slot taken. -/
def allTaken : State := { serving with rqt := { serving.rqt with table := (List.range 8192).map (fun (k : Nat) => (k, reqOf .decode)) } }
theorem get_const (r : Req) (k : Nat) : ∀ l : List Nat, k ∈ l →
    SMap.get (fun _ => Req.empty) (l.map (fun (j : Nat) => (j, r))) k = r
  | j :: l, h => by
    rcases List.mem_cons.mp h with h | h
    · simp [SMap.get, h]
    · by_cases e : j = k
      · simp [SMap.get, e]
      · simp [SMap.get, e, get_const r k l h]
theorem allTaken_req (k : Nat) (h : k < 8192) : allTaken.req k = reqOf .decode := by
  have e := get_const (reqOf .decode) k (List.range 8192) (List.mem_range.mpr h)
  revert e
  unfold State.req allTaken
  generalize List.range 8192 = l
  exact id
def rec0 (type : Nat) : List Byte := [BitVec.ofNat 8 type] ++ List.replicate 123 0 ++ [1, 0, 0, 0]
def rec1 : List Byte := [1] ++ List.replicate 127 0
def cells4 : List Byte := [1, 2, 3, 4]
def rows1 : BitVec 32 := 1
def brow (k : Nat) (prompt : Bool) : BushelRow := ⟨7, 5, 10, k, prompt, 3, true, 10, 0, none⟩
def bushel0 : Bushel := ⟨0, 0, [brow 0 false, brow 1 false, brow 0 true], false, 0, 0, 0, [], []⟩
def bushel1 : Bushel := { bushel0 with rows := [brow 0 false], entered := true, drawn := [(0, (3, false))] }
def bushelV : Bushel := { bushel1 with voided := 1 }
def rowFirst : Fin 32 := 0
def inBushel (b : Bushel) (r : Req) : State := { withReq r with rqt := { (withReq r).rqt with bushels := [b] } }
def logits0 : List FpBits := [0x3F800000, 0x40000000, 0xBF800000]
def ret0 (lc : Nat) (toks : List (Nat × Bool)) (code : Option Nat) (v : Bool) : ReturnRec := ⟨0, 7, 5, lc, toks, 11, code, v⟩
def eg0 : EgRec := ⟨1, 99, 0, 7, 5, 0, [], 0, []⟩
def eg1 : EgRec := ⟨2, 99, 1, 7, 5, 0, [], 0, []⟩
def emptyMembers : List (Nat × Nat × Nat) := [(3, 1, 0)]

/-- IntakePollTakesPresentRecords: the records up to the first that is not present. -/
theorem witness_poll :
    (serving.ring = some ringPair0) ∧
    (serving.fld GLB_STATE_STATE ≠ 2) ∧
    (serving.cutOff ringPair0.region = false) ∧
    (serving.dma ringPair0.inAddr (128 * ringPair0.nIn) = true) ∧
    (serving.dma ringPair0.hostIdxAddr 8 = true) := by decide +kernel

def state_submit_closed : State :=
  serving.put RQT_CTRL_INTAKE_EN 0
/-- SubmitTakesASlotOrIsRefused: a state and operands that meet its hypotheses. -/
theorem witness_submit_closed :
    (state_submit_closed.ring = some ringPair0) ∧
    (state_submit_closed.boot.image.entry = true) ∧
    (state_submit_closed.intakeOpen = false) := by decide +kernel

/-- SubmitTakesASlotOrIsRefused: a state and operands that meet its hypotheses. -/
theorem witness_submit_form :
    (serving.ring = some ringPair0) ∧
    (serving.boot.image.entry = true) ∧
    (serving.intakeOpen = true) ∧
    (submitOk rawBad = false) := by decide +kernel

/-- SubmitTakesASlotOrIsRefused: one position too many. -/
theorem witness_submit_long :
    (serving.ring = some ringPair0) ∧
    (serving.boot.image.entry = true) ∧
    (serving.intakeOpen = true) ∧
    (submitOk (rawSubmit 2097149 65536) = true) ∧
    (2097152 < fieldLE (rawSubmit 2097149 65536) 40 4 + fieldLE (rawSubmit 2097149 65536) 44 4) := by decide +kernel

/-- SubmitTakesASlotOrIsRefused: the longest context, with no slot free. -/
theorem witness_submit_full :
    (allTaken.ring = some ringPair0) ∧
    (allTaken.boot.image.entry = true) ∧
    (allTaken.intakeOpen = true) ∧
    (submitOk (rawSubmit 2097148 65536) = true) ∧
    (fieldLE (rawSubmit 2097148 65536) 40 4 + fieldLE (rawSubmit 2097148 65536) 44 4 ≤ 2097152) ∧
    (∀ k < 8192, (allTaken.req k).state ≠ ReqState.free) := 
    by and_intros <;> first | exact fun k h => by rw [allTaken_req k h]; decide | decide +kernel

/-- SubmitTakesASlotOrIsRefused: a prompt that ends one token past its window. -/
theorem witness_submit_window :
    (serving.ring = some ringPair0) ∧
    (serving.boot.image.entry = true) ∧
    (serving.intakeOpen = true) ∧
    (submitOk (rawSubmit 2 131068) = true) ∧
    (fieldLE (rawSubmit 2 131068) 40 4 + fieldLE (rawSubmit 2 131068) 44 4 ≤ 2097152) ∧
    (0 < 8192) ∧
    ((serving.req 0).state = ReqState.free) ∧
    (ringPair0.inWindow (fieldLE (rawSubmit 2 131068) 32 8) (4 * fieldLE (rawSubmit 2 131068) 40 4) = false) := by decide +kernel

/-- SubmitTakesASlotOrIsRefused: a state and operands that meet its hypotheses. -/
theorem witness_submit :
    (serving.ring = some ringPair0) ∧
    (serving.boot.image.entry = true) ∧
    (serving.checkSubmit (rawSubmit 2 65536) fetchOk = Sum.inr 0) ∧
    (fieldLE (rawSubmit 2 65536) 40 4 ≤ 131072) ∧ (serving.seatsUsed < serving.seatTotal) ∧
    (fieldLE (rawSubmit 2 65536) 24 6 = 0) ∧ (serving.seatsUsed + serving.reservations < serving.seatTotal) := by decide +kernel

/-- SubmitTakesASlotOrIsRefused: a state and operands that meet its hypotheses. -/
theorem witness_cancel_wait :
    (namesLive (withReq (reqOf ReqState.intake)) (rawCtl 2) 7) ∧
    (controlOk (rawCtl 2) 2 = true) ∧
    (((withReq (reqOf ReqState.intake)).req 7).state = ReqState.intake) ∧
    (((withReq (reqOf ReqState.intake)).req 7).admitAt = none) := 
    ⟨by unfold namesLive; decide +kernel, by decide +kernel, by decide +kernel, by decide +kernel⟩

def state_cancel_sent : State :=
  withReq { reqOf .intake with admitAt := some 80 }
/-- ControlRecordsReachTheirRequest: a state and operands that meet its hypotheses. -/
theorem witness_cancel_sent :
    (namesLive state_cancel_sent (rawCtl 2) 7) ∧
    (controlOk (rawCtl 2) 2 = true) ∧
    ((state_cancel_sent.req 7).state = ReqState.intake) ∧
    ((state_cancel_sent.req 7).admitAt = some 80) := 
    ⟨by unfold namesLive; decide +kernel, by decide +kernel, by decide +kernel, by decide +kernel⟩

/-- ControlRecordsReachTheirRequest: a state and operands that meet its hypotheses. -/
theorem witness_cancel :
    (namesLive (withReq (reqOf ReqState.decode)) (rawCtl 2) 7) ∧
    (controlOk (rawCtl 2) 2 = true) ∧
    (((withReq (reqOf ReqState.decode)).req 7).state ≠ ReqState.intake) := 
    ⟨by unfold namesLive; decide +kernel, by decide +kernel, by decide +kernel⟩

/-- ControlRecordsReachTheirRequest: a state and operands that meet its hypotheses. -/
theorem witness_pause :
    (namesLive (withReq (reqOf ReqState.decode)) (rawCtl 4) 7) ∧
    (controlOk (rawCtl 4) 4 = true) := 
    ⟨by unfold namesLive; decide +kernel, by decide +kernel⟩

/-- ControlRecordsReachTheirRequest: a state and operands that meet its hypotheses. -/
theorem witness_resume :
    (namesLive (withReq (reqOf ReqState.paused)) (rawCtl 5) 7) ∧
    (controlOk (rawCtl 5) 5 = true) := 
    ⟨by unfold namesLive; decide +kernel, by decide +kernel⟩

def state_draft : State :=
  withReq { reqOf .decode with spec := true }
/-- ControlRecordsReachTheirRequest: a state and operands that meet its hypotheses. -/
theorem witness_draft :
    (namesLive state_draft rawDraft 7) ∧
    (draftOk rawDraft = true) ∧
    ((state_draft.req 7).spec = true) ∧
    ((state_draft.req 7).state = ReqState.decode ∨ (state_draft.req 7).state = ReqState.paused) := 
    ⟨by unfold namesLive; decide +kernel, by decide +kernel, by decide +kernel, by decide +kernel⟩

def state_draft_early : State :=
  withReq { reqOf .prefill with spec := true }
/-- ControlRecordsReachTheirRequest: a state and operands that meet its hypotheses. -/
theorem witness_draft_early :
    (namesLive state_draft_early rawDraft 7) ∧
    (draftOk rawDraft = true) ∧
    ((state_draft_early.req 7).spec = true) ∧
    ((state_draft_early.req 7).state ≠ ReqState.decode) ∧
    ((state_draft_early.req 7).state ≠ ReqState.paused) := 
    ⟨by unfold namesLive; decide +kernel, by decide +kernel, by decide +kernel, by decide +kernel, by decide +kernel⟩

/-- ControlRecordsReachTheirRequest: a state and operands that meet its hypotheses. -/
theorem witness_missed :
    (Instr.cancel (rawCtl 2) = Instr.cancel (rawCtl 2) ∧ controlOk (rawCtl 2) 2 = false ∨ Instr.cancel (rawCtl 2) = Instr.pause (rawCtl 2) ∧ controlOk (rawCtl 2) 4 = false ∨ Instr.cancel (rawCtl 2) = Instr.resume (rawCtl 2) ∧ controlOk (rawCtl 2) 5 = false ∨ Instr.cancel (rawCtl 2) = Instr.draft (rawCtl 2) ∧ (draftOk (rawCtl 2) = false ∨ (serving.req (fieldLE (rawCtl 2) 16 2)).spec = false) ∨ (Instr.cancel (rawCtl 2) = Instr.cancel (rawCtl 2) ∨ Instr.cancel (rawCtl 2) = Instr.pause (rawCtl 2) ∨ Instr.cancel (rawCtl 2) = Instr.resume (rawCtl 2) ∨ Instr.cancel (rawCtl 2) = Instr.draft (rawCtl 2)) ∧ ¬namesLive serving (rawCtl 2) (fieldLE (rawCtl 2) 16 2)) := Or.inr (Or.inr (Or.inr (Or.inr ⟨Or.inl rfl, fun h => absurd h.2.1 (by decide +kernel)⟩)))

def regionA : Fin 16 := 0
def regionB : Fin 16 := 1
def state_hostRead : State :=
  { serving with tb := { serving.tb with rod := 8 } }
/-- HostReadsLandInTime: on the last rod allowed, and one rod later. -/
theorem witness_hostRead :
    (state_hostRead.domainOff ↑core3 = false) ∧
    (state_hostRead.regionNum ↑core3 = ↑regionA) ∧
    (state_hostRead.cutOff ↑regionA = false) ∧
    (rodsSince 0 state_hostRead.tb.rod ≤ state_hostRead.boot.image.hostReadRods) ∧
    (instNewer (state_hostRead.token (↑core3) 1).inst 0 = false) ∧
    ((state_hostRead.token (↑core3) 1).consumed = true → (state_hostRead.token (↑core3) 1).inst ≠ 0 % 256) ∧
    (128 + cells4.length ≤ storeSize) := by decide +kernel

/-- HostReadsLandInTime: a read of another region's window. -/
theorem witness_hostRead_other :
    (state_hostRead.regionNum ↑core3 ≠ ↑regionB) := by decide +kernel

def state_hostRead_late : State :=
  { serving with tb := { serving.tb with rod := 9 } }
/-- HostReadsLandInTime: a state and operands that meet its hypotheses. -/
theorem witness_hostRead_late :
    (state_hostRead_late.domainOff ↑core3 = false) ∧
    (state_hostRead_late.regionNum ↑core3 = ↑regionA) ∧
    (state_hostRead_late.cutOff ↑regionA = false) ∧
    (state_hostRead_late.boot.image.hostReadRods < rodsSince 0 state_hostRead_late.tb.rod) := by decide +kernel

/-- A buffer that the image ties to the bushel instance. -/
def tied0 : TokenBuf := ⟨3, 1, 0, 72, 1, .bushel, 0, some (0, 0), 0⟩
def state_entry : State :=
  let s := inBushel bushel0 { reqOf .decode with draft := some (10, [21]) }
  { s with boot := { s.boot with image := { s.boot.image with buffers := [tied0] } } }
/-- EntryIssueFillsTheRows: a state and operands that meet its hypotheses. -/
theorem witness_entry :
    (List.find? (fun b ↦ decide (b.slot = 0 ∧ (!b.entered) = true)) state_entry.rqt.bushels = some bushel0) ∧
    (tied0 ∈ state_entry.boot.image.buffers) ∧
    (tied0.tied = some (bushel0.slot, bushel0.start / 320 % max (((state_entry.variant? state_entry.sched.var).map Variant.period).getD 1) 1)) ∧
    (state_entry.physOf tied0.core = some 3) ∧
    (∀ y ∈ state_entry.boot.image.buffers, y.stage = tied0.stage) ∧
    ((state_entry.token 3 tied0.token).inst =
      bushel0.start / 320 / max (((state_entry.variant? state_entry.sched.var).map Variant.period).getD 1) 1 % 256 % 256) := by decide +kernel

theorem logits0_top : ∀ j x, j ≠ 1 → logits0[j]? = some x → vLt x 0x40000000 = true ∧ vLt 0x40000000 x = false
  | 0, x, _, h => by
    have e : (0x3F800000 : FpBits) = x := Option.some.inj h
    rw [← e]; decide +kernel
  | 1, x, hj, _ => absurd rfl hj
  | 2, x, _, h => by
    have e : (0xBF800000 : FpBits) = x := Option.some.inj h
    rw [← e]; decide +kernel
  | j + 3, x, _, h => nomatch (show none = some x from h)
def state_sampling : State :=
  inBushel bushel1 (reqOf .decode)
/-- SamplingDrawsGreedily: three finite logits, the second above the others. -/
theorem witness_sampling :
    (state_sampling.rqt.bushels.find? (fun b => b.slot = 0 ∧ b.entered) = some bushel1) ∧
    (bushel1.rows[rowFirst.val]? = some (brow 0 false)) ∧ ((brow 0 false).filled = true) ∧
    (bushel1.voided.getLsbD rowFirst.val = false) ∧ ((state_sampling.req (brow 0 false).slot).pen = false) ∧
    ((f32Val (sampleCfg (state_sampling.req (brow 0 false).slot).samp).temp).m = 0) ∧ (∀ x ∈ logits0, f32Finite x = true) ∧
    (logits0[1]? = some 0x40000000) ∧
    (∀ j x, j ≠ 1 → logits0[j]? = some x → vLt x 0x40000000 = true ∧ vLt 0x40000000 x = false) :=
  by and_intros <;> first | with_reducible exact List.all_eq_true.mp (by decide +kernel : logits0.all f32Finite = true) | with_reducible exact logits0_top | decide +kernel

/-- SamplingDrawsGreedily: a state and operands that meet its hypotheses. -/
theorem witness_sampling_void :
    (List.find? (fun b ↦ decide (b.slot = 0 ∧ b.entered = true)) (inBushel bushelV (reqOf ReqState.decode)).rqt.bushels = some bushelV) ∧
    (bushelV.rows[↑rowFirst]? = some (brow 0 false)) ∧
    ((brow 0 false).filled = true) ∧
    (bushelV.voided.getLsbD ↑rowFirst = true) := by decide +kernel

/-- CommitsReturnTheirTokens: a state and operands that meet its hypotheses. -/
theorem witness_commit_one :
    (0 < 32) ∧
    (List.find? (fun b ↦ decide (b.slot = 0 ∧ b.entered = true)) (inBushel bushel1 (reqOf ReqState.decode)).rqt.bushels = some bushel1) ∧
    (bushel1.rows[0]? = some (brow 0 false)) ∧
    ((brow 0 false).slot = 7) ∧
    ((brow 0 false).gen = ((inBushel bushel1 (reqOf ReqState.decode)).req 7).gen) ∧
    ((brow 0 false).filled = true) ∧
    ((brow 0 false).isPrompt = false) ∧
    ((brow 0 false).last = none) ∧
    (∀ (j : ℕ) (x : BushelRow), bushel1.rows[j]? = some x → x.slot = 7 → x.gen = ((inBushel bushel1 (reqOf ReqState.decode)).req 7).gen → j = 0) ∧
    (bushel1.lanePaused.getLsbD 0 = false) ∧
    (bushel1.heldRows.getLsbD 0 = false) ∧
    ((brow 0 false).pos = (inBushel bushel1 (reqOf ReqState.decode)).lcNow 7) ∧
    (bushel1.voided.getLsbD 0 = false) := 
    by and_intros <;> first | decide +kernel | (intro j x hx _ _; match j, hx with | 0, _ => rfl)

/-- CommitsReturnTheirTokens: a state and operands that meet its hypotheses. -/
theorem witness_commit_void :
    (0 < 32) ∧
    (List.find? (fun b ↦ decide (b.slot = 0 ∧ b.entered = true)) (inBushel bushelV (reqOf ReqState.decode)).rqt.bushels = some bushelV) ∧
    (bushelV.rows[0]? = some (brow 0 false)) ∧
    ((brow 0 false).slot = 7) ∧
    ((brow 0 false).gen = ((inBushel bushelV (reqOf ReqState.decode)).req 7).gen) ∧
    ((brow 0 false).filled = true) ∧
    ((brow 0 false).isPrompt = false) ∧
    ((brow 0 false).last = none) ∧
    (∀ (j : ℕ) (x : BushelRow), bushelV.rows[j]? = some x → x.slot = 7 → x.gen = ((inBushel bushelV (reqOf ReqState.decode)).req 7).gen → j = 0) ∧
    (bushelV.lanePaused.getLsbD 0 = false) ∧
    (bushelV.heldRows.getLsbD 0 = false) ∧
    ((brow 0 false).pos = (inBushel bushelV (reqOf ReqState.decode)).lcNow 7) ∧
    (bushelV.voided.getLsbD 0 = true) := 
    by and_intros <;> first | decide +kernel | (intro j x hx _ _; match j, hx with | 0, _ => rfl)

/-- CommitsReturnTheirTokens: a state and operands that meet its hypotheses. -/
theorem witness_return :
    (((withReq (reqOf ReqState.decode)).req (ret0 11 [(3, true)] none false).slot).gen = (ret0 11 [(3, true)] none false).gen) ∧
    (((withReq (reqOf ReqState.decode)).req (ret0 11 [(3, true)] none false).slot).state = ReqState.decode) ∧
    (((withReq (reqOf ReqState.decode)).req (ret0 11 [(3, true)] none false).slot).p ≤ ((withReq (reqOf ReqState.decode)).req (ret0 11 [(3, true)] none false).slot).lC) ∧
    (((withReq (reqOf ReqState.decode)).req (ret0 11 [(3, true)] none false).slot).p ≤ (ret0 11 [(3, true)] none false).newLC) ∧
    (((withReq (reqOf ReqState.decode)).req (ret0 11 [(3, true)] none false).slot).lC < (ret0 11 [(3, true)] none false).newLC) ∧
    ((ret0 11 [(3, true)] none false).code = none) := by decide +kernel

/-- CommitsReturnTheirTokens: a state and operands that meet its hypotheses. -/
theorem witness_return_code :
    (((withReq (reqOf ReqState.decode)).req (ret0 11 [(3, true)] (some 2) false).slot).gen = (ret0 11 [(3, true)] (some 2) false).gen) ∧
    (((withReq (reqOf ReqState.decode)).req (ret0 11 [(3, true)] (some 2) false).slot).state = ReqState.decode) ∧
    (((withReq (reqOf ReqState.decode)).req (ret0 11 [(3, true)] (some 2) false).slot).p ≤ ((withReq (reqOf ReqState.decode)).req (ret0 11 [(3, true)] (some 2) false).slot).lC) ∧
    (((withReq (reqOf ReqState.decode)).req (ret0 11 [(3, true)] (some 2) false).slot).p ≤ (ret0 11 [(3, true)] (some 2) false).newLC) ∧
    ((ret0 11 [(3, true)] (some 2) false).code = some 2) ∧
    ((withReq (reqOf ReqState.decode)).sched.running = true) := by decide +kernel

def state_return_void : State :=
  withReq { reqOf .decode with voidrun := 4 }
/-- CommitsReturnTheirTokens: a state and operands that meet its hypotheses. -/
theorem witness_return_void :
    ((state_return_void.req (ret0 10 [] none true).slot).gen = (ret0 10 [] none true).gen) ∧
    ((state_return_void.req (ret0 10 [] none true).slot).state = ReqState.decode) ∧
    ((state_return_void.req (ret0 10 [] none true).slot).p ≤ (state_return_void.req (ret0 10 [] none true).slot).lC) ∧
    ((state_return_void.req (ret0 10 [] none true).slot).p ≤ (ret0 10 [] none true).newLC) ∧
    ((ret0 10 [] none true).newLC = (state_return_void.req (ret0 10 [] none true).slot).lC) ∧
    ((ret0 10 [] none true).row0Void = true) ∧
    ((ret0 10 [] none true).code = none) ∧
    ((state_return_void.req (ret0 10 [] none true).slot).voidrun = 4) ∧
    (state_return_void.sched.running = true) := by decide +kernel

def state_return_old : State :=
  withReq { reqOf .decode with gen := 6 }
/-- CommitsReturnTheirTokens: a state and operands that meet its hypotheses. -/
theorem witness_return_old :
    ((state_return_old.req (ret0 10 [] none true).slot).gen ≠ (ret0 10 [] none true).gen) := by decide +kernel

def state_egress : State :=
  { (serving.put RQT_EG_IDX_INDEX 4294967295).put RQT_EG_CREDIT_INDEX 4294967289 with rqt := { serving.rqt with egress := [.record eg0, .record eg1] } }
/-- EgressWritesInOrder: the ring full after them, and full before. -/
theorem witness_egress :
    (state_egress.ring = some ringPair0) ∧
    (state_egress.fld GLB_STATE_STATE ≠ 2) ∧
    (ringPair0.nEg < 2 ^ 32) ∧
    (state_egress.cutOff ringPair0.region = false) ∧
    (state_egress.dma ringPair0.egAddr (64 * ringPair0.nEg) = true) ∧
    (state_egress.rqt.egress = List.map EgItem.record [eg0, eg1]) ∧
    ([eg0, eg1].length ≤ ringPair0.egCap) ∧
    ((state_egress.fld RQT_EG_IDX_INDEX + 2 ^ 32 - state_egress.fld RQT_EG_CREDIT_INDEX) % 2 ^ 32 + [eg0, eg1].length ≤ ringPair0.nEg) := by decide +kernel

def state_egress_full : State :=
  { serving.put RQT_EG_IDX_INDEX 8 with rqt := { serving.rqt with egress := [.record eg0] } }
/-- EgressWritesInOrder: a state and operands that meet its hypotheses. -/
theorem witness_egress_full :
    (state_egress_full.ring = some ringPair0) ∧
    (state_egress_full.fld GLB_STATE_STATE ≠ 2) ∧
    (ringPair0.nEg < 2 ^ 32) ∧
    (state_egress_full.cutOff ringPair0.region = false) ∧
    (state_egress_full.dma ringPair0.egAddr (64 * ringPair0.nEg) = true) ∧
    (state_egress_full.rqt.egress = [EgItem.record eg0]) ∧
    (ringPair0.nEg ≤ (state_egress_full.fld RQT_EG_IDX_INDEX + 2 ^ 32 - state_egress_full.fld RQT_EG_CREDIT_INDEX) % 2 ^ 32) := by decide +kernel

/-- IntakeOpensAndSlotsFree: a state and operands that meet its hypotheses. -/
theorem witness_intakeEn :
    (regAt RQT_CTRL_INTAKE_EN.addr = some (regOf RQT_CTRL_INTAKE_EN.addr)) ∧
    (writeReaches serving (wr 0) RQT_CTRL_INTAKE_EN.addr (regOf RQT_CTRL_INTAKE_EN.addr) = true) ∧
    (serving.fld GLB_STATE_STATE ≠ 0 ∨ 5 ≤ serving.fld GLB_STATE_STEP) := by decide +kernel

def state_intakeEn_sealed : State :=
  serving.put GLB_LOCK_CFG_SEAL 1
/-- IntakeOpensAndSlotsFree: a state and operands that meet its hypotheses. -/
theorem witness_intakeEn_sealed :
    (regAt RQT_CTRL_INTAKE_EN.addr = some (regOf RQT_CTRL_INTAKE_EN.addr)) ∧
    (writeReaches state_intakeEn_sealed (wr 0) RQT_CTRL_INTAKE_EN.addr (regOf RQT_CTRL_INTAKE_EN.addr) = true) ∧
    (state_intakeEn_sealed.fld GLB_STATE_STATE ≠ 0 ∨ 5 ≤ state_intakeEn_sealed.fld GLB_STATE_STEP) := by decide +kernel

def state_openIntake : State :=
  (serving.put GLB_STATE_STATE 0).put GLB_STATE_STEP 9
/-- IntakeOpensAndSlotsFree: a state and operands that meet its hypotheses. -/
theorem witness_openIntake :
    (state_openIntake.mgmtUp = true) ∧
    (state_openIntake.fld GLB_STATE_STATE ≠ 0 ∨ 5 ≤ state_openIntake.fld GLB_STATE_STEP) := by decide +kernel

/-- IntakeOpensAndSlotsFree: a state and operands that meet its hypotheses. -/
theorem witness_closeIntake :
    (serving.mgmtUp = true) ∧
    (serving.fld GLB_STATE_STATE ≠ 0 ∨ 5 ≤ serving.fld GLB_STATE_STEP) := by decide +kernel

def state_slotFree : State :=
  { withReq { reqOf .done with freeAt := some 80 } with tb := { serving.tb with rod := 80 } }
/-- IntakeOpensAndSlotsFree: a state and operands that meet its hypotheses. -/
theorem witness_slotFree :
    ((state_slotFree.req 7).freeAt = some 80) ∧
    ((state_slotFree.req 7).state = ReqState.done ∨ (state_slotFree.req 7).state = ReqState.cancelled) ∧
    (rodAfter state_slotFree.tb.rod 80 = false) := by decide +kernel

def state_slotFree_before : State :=
  { withReq { reqOf .done with freeAt := some 80 } with tb := { serving.tb with rod := 79 } }
/-- IntakeOpensAndSlotsFree: a state and operands that meet its hypotheses. -/
theorem witness_slotFree_before :
    ((state_slotFree_before.req 7).freeAt = some 80) ∧
    ((state_slotFree_before.req 7).state = ReqState.done ∨ (state_slotFree_before.req 7).state = ReqState.cancelled) ∧
    (rodAfter state_slotFree_before.tb.rod 80 = true) := by decide +kernel

/-! ### Weights, epochs and adapters -/

/-- Four public keys are in force, and the staging extents hold four tiles. -/
def imageW : Image :=
  { image0 with pubKeys := 1, stageTiles := 4, adapters := { AdapterDecl.none with rMax := 64, slotBytes := 64, base := 4096 } }
def weighing : State := { busy with boot := { busy.boot with image := imageW } }
def man2 : Manifest := ⟨0, 0, 0, 5, 0, 0, 2, 0, 0, [1048624, 52]⟩
def man1 : Manifest := { man2 with nChunk := 1, slens := [52] }
def load0 : Load := ⟨4096, 288, none, 0, 0, [], [], none⟩
def load3 : Load := { load0 with attempts := 3 }
def loadM : Load := { load0 with man := some man1 }
def load2 : Load := { load0 with man := some man2 }
def loading (l : Load) : State := { weighing.put LD_STAT_BUSY 1 with weights := { weighing.weights with load := some l } }
/-- The bytes of a manifest of one chunk, signed with a public key. -/
def manBytes (key : Nat) : List Byte :=
  leBytes 4 0x51544D46 ++ leBytes 2 1 ++ [0, 0] ++ leBytes 8 0 ++ leBytes 4 5 ++ List.replicate 12 0 ++ leBytes 4 1 ++ leBytes 1 key ++
    List.replicate 91 0 ++ List.replicate 160 0
def manOf (key : Nat) : Manifest := ⟨0, 0, 0, 5, 0, 0, 1, key, 0, [0]⟩
def chunkHdr (n : Nat) : List Byte := List.replicate 8 0 ++ leBytes 4 n ++ leBytes 4 n ++ List.replicate 16 0
def text4 : List Byte := [1, 2, 3, 4]
/-- A whole mebibyte whose first record is longer than that, so that none is complete yet. -/
def bigPlain : List Byte := (List.replicate 16 (0 : Byte) ++ leBytes 4 0xFFFFFFFF ++ List.replicate 12 0) ++ List.replicate 1048544 0
theorem bigPlain_len : bigPlain.length = 1048576 := by
  unfold bigPlain
  rw [List.length_append, List.length_replicate]
  rfl
theorem big_chunk : chunkPlain man2 load2.chunk (chunkHdr 1048576) bigPlain true true = .inr bigPlain := by
  have h1 : fieldLE (chunkHdr 1048576) 8 4 = 1048576 := by decide +kernel
  have h2 : fieldLE (chunkHdr 1048576) 12 4 = 1048576 := by decide +kernel
  have h3 : fieldLE (chunkHdr 1048576) 4 1 = 0 := by decide +kernel
  have h4 : fieldLE (chunkHdr 1048576) 0 4 = 0 := by decide +kernel
  have h5 : (chunkHdr 1048576).length = 32 := by decide +kernel
  simp [chunkPlain, h1, h2, h3, h4, h5, bigPlain_len, man2, load2, load0]
theorem big_split : splitRecs ((load2.stream ++ bigPlain).length + 1) (load2.stream ++ bigPlain) = ([], bigPlain) := by
  have h : fieldLE bigPlain 16 4 = 0xFFFFFFFF := by decide +kernel
  have e : load2.stream ++ bigPlain = bigPlain := rfl
  rw [e, bigPlain_len]
  unfold splitRecs
  simp [h, bigPlain_len]
def data1 : TileRec := ⟨[[1, 1]], [], [], [], [], []⟩
def stagedTile0 : StagedTile := ⟨3, 2, 0, none, none, 0, 0, false, 0, false, 1, 5, data1⟩
def loadT (x : StagedTile) : Load := { loadM with tiles := [x] }
def programming (x : StagedTile) : State :=
  let s := loading (loadT x)
  match x.tier with
  | some q => s.setTier 3 2 q { Tier.blank with role := 6 }
  | none => s
def flip6 : SbMsg := ⟨6, 1, 2, 40, 7⟩
def adLoad0 : AdLoad := ⟨3, 7, 1, 5, 8, 99, 160, 400, false, false, none, 0, 0, []⟩
def adLoadM : AdLoad := { adLoad0 with man := some man1 }
def adLoad3 : AdLoad := { adLoad0 with attempts := 3 }
def adLoadR : AdLoad := { adLoad3 with reload := true }
def withAd (st : Nat) (l : AdLoad) : State :=
  { weighing.put SEC_STAT_KEY_RELEASED 1 with
    weights := { weighing.weights with adLoads := [l], adSlots := [(3, ⟨st, 7, 1, 5, 8, none⟩)] } }
def rawAd (ver : Nat) : List Byte :=
  [7, 0, 0, 0] ++ leBytes 2 7 ++ leBytes 2 ver ++ leBytes 8 99 ++ leBytes 4 5 ++ List.replicate 12 0 ++ List.replicate 96 0
def rawDrop : List Byte := [8, 0, 0, 0] ++ leBytes 2 7 ++ [0, 0] ++ leBytes 8 99 ++ leBytes 4 5 ++ List.replicate 108 0
def rawNo : List Byte := List.replicate 128 0
def metaEnd : Nat := 1024 + Config.metaRows.val
def staged4 : StagedTile := { stagedTile0 with tier := some 4 }
def stagedFail : StagedTile := { stagedTile0 with tier := some 4, step := 7, retried := true }
def stagedEnd : StagedTile := { stagedTile0 with tier := some 4, row := metaEnd }

/-- LoadsStartAndAbort: a state and operands that meet its hypotheses. -/
theorem witness_mcLoad :
    (weighing.isSet LD_STAT_BUSY = false) ∧
    (weighing.mgmtUp = true) := by decide +kernel

/-- LoadsStartAndAbort: a state and operands that meet its hypotheses. -/
theorem witness_ldStart :
    (regAt LD_CTRL_START.addr = some (regOf LD_CTRL_START.addr)) ∧
    (writeReaches weighing (wr 1) LD_CTRL_START.addr (regOf LD_CTRL_START.addr) = true) ∧
    (weighing.isSet LD_STAT_BUSY = false) ∧
    (wbits (wr 1).data LD_CTRL_START = 1) := by decide +kernel

/-- LoadsStartAndAbort: a state and operands that meet its hypotheses. -/
theorem witness_ldStart_busy :
    (regAt LD_CTRL_START.addr = some (regOf LD_CTRL_START.addr)) ∧
    (writeReaches (loading load0) (wr 1) LD_CTRL_START.addr (regOf LD_CTRL_START.addr) = true) ∧
    ((loading load0).isSet LD_STAT_BUSY = true) ∧
    (wbits (wr 1).data LD_CTRL_ABORT = 0) := by decide +kernel

/-- LoadsStartAndAbort: a state and operands that meet its hypotheses. -/
theorem witness_ldAbort :
    (regAt LD_CTRL_START.addr = some (regOf LD_CTRL_START.addr)) ∧
    (writeReaches (programming staged4) (wr 2) LD_CTRL_START.addr (regOf LD_CTRL_START.addr) = true) ∧
    ((programming staged4).isSet LD_STAT_BUSY = true) ∧
    (wbits (wr 2).data LD_CTRL_ABORT = 1) ∧
    ((programming staged4).weights.load = some (loadT staged4)) := by decide +kernel

/-- FetchedPartsAreChecked: a state and operands that meet its hypotheses. -/
theorem witness_fetch_failed :
    ((loading load0).weights.load = some load0) ∧
    (List.countP (fun t ↦ !t.done) load0.tiles < (loading load0).boot.image.stageTiles) ∧
    ((loading load0).fetched load0 .failed = .failed) ∧
    (load0.attempts < 3) := by decide +kernel

/-- FetchedPartsAreChecked: a state and operands that meet its hypotheses. -/
theorem witness_fetch_failed4 :
    ((loading load3).weights.load = some load3) ∧
    (List.countP (fun t ↦ !t.done) load3.tiles < (loading load3).boot.image.stageTiles) ∧
    ((loading load3).fetched load3 .failed = .failed) ∧
    (3 ≤ load3.attempts) := by decide +kernel

def state_fetch_private : State :=
  { loading load0 with boot := { weighing.boot with image := { imageW with privWindows := [(4096, 4096)], weightWindows := [(0, 4096, 4096)] } } }
/-- FetchedPartsAreChecked: a manifest in a private window that DMA does not reach. -/
theorem witness_fetch_private :
    (state_fetch_private.weights.load = some load0) ∧
    (List.countP (fun t ↦ !t.done) load0.tiles < state_fetch_private.boot.image.stageTiles) ∧
    (state_fetch_private.fetched load0 (.manifest (manBytes 0) true) = .failed) ∧
    (load0.attempts < 3) := by decide +kernel

/-- No weight window stands in the way of a load. -/
theorem fetched_open (s : State) (l : Load) (h : s.boot.image.weightWindows = []) (d : Fetched) : s.fetched l d = d := by
  simp [State.fetched, h]

/-- FetchedPartsAreChecked: a state and operands that meet its hypotheses. -/
theorem witness_manifest_form :
    ((loading load0).weights.load = some load0) ∧
    (List.countP (fun t ↦ !t.done) load0.tiles < (loading load0).boot.image.stageTiles) ∧
    (load0.man = none) ∧
    (parseManifest rawNo = none) ∧
    (∀ d, (loading load0).fetched load0 d = d) :=
    by and_intros <;> first | with_reducible exact fetched_open _ _ (by decide +kernel) | decide +kernel

/-- FetchedPartsAreChecked: a state and operands that meet its hypotheses. -/
theorem witness_manifest_key :
    ((loading load0).weights.load = some load0) ∧
    (List.countP (fun t ↦ !t.done) load0.tiles < (loading load0).boot.image.stageTiles) ∧
    (load0.man = none) ∧
    (parseManifest (manBytes 1) = some (manOf 1)) ∧
    ((manBytes 1).length = load0.len) ∧
    ((loading load0).boot.image.pubKeys ≤ (manOf 1).pubKey) ∧
    (∀ d, (loading load0).fetched load0 d = d) :=
    by and_intros <;> first | with_reducible exact fetched_open _ _ (by decide +kernel) | decide +kernel

/-- FetchedPartsAreChecked: a state and operands that meet its hypotheses. -/
theorem witness_manifest_sig :
    ((loading load0).weights.load = some load0) ∧
    (List.countP (fun t ↦ !t.done) load0.tiles < (loading load0).boot.image.stageTiles) ∧
    (load0.man = none) ∧
    (parseManifest (manBytes 0) = some (manOf 0)) ∧
    ((manBytes 0).length = load0.len) ∧
    ((manOf 0).pubKey < (loading load0).boot.image.pubKeys) ∧
    (false = false) ∧
    (∀ d, (loading load0).fetched load0 d = d) :=
    by and_intros <;> first | with_reducible exact fetched_open _ _ (by decide +kernel) | decide +kernel

/-- FetchedPartsAreChecked: a state and operands that meet its hypotheses. -/
theorem witness_chunk_noKey :
    ((loading loadM).weights.load = some loadM) ∧
    (List.countP (fun t ↦ !t.done) loadM.tiles < (loading loadM).boot.image.stageTiles) ∧
    (loadM.man = some man1) ∧
    (loadM.chunk < man1.nChunk) ∧
    ((loading loadM).isSet SEC_STAT_KEY_RELEASED = false) ∧
    (∀ d, (loading loadM).fetched loadM d = d) :=
    by and_intros <;> first | with_reducible exact fetched_open _ _ (by decide +kernel) | decide +kernel

def state_chunk_bad : State :=
  (loading loadM).put SEC_STAT_KEY_RELEASED 1
/-- FetchedPartsAreChecked: a state and operands that meet its hypotheses. -/
theorem witness_chunk_bad :
    (state_chunk_bad.weights.load = some loadM) ∧
    (List.countP (fun t ↦ !t.done) loadM.tiles < state_chunk_bad.boot.image.stageTiles) ∧
    (loadM.man = some man1) ∧
    (loadM.chunk < man1.nChunk) ∧
    (state_chunk_bad.isSet SEC_STAT_KEY_RELEASED = true) ∧
    (chunkPlain man1 loadM.chunk (chunkHdr 4) text4 true true ≠ Sum.inl 3) ∧
    (∀ d, state_chunk_bad.fetched loadM d = d) :=
    by and_intros <;> first | with_reducible exact fetched_open _ _ (by decide +kernel) | decide +kernel

def state_chunk : State :=
  (loading load2).put SEC_STAT_KEY_RELEASED 1
/-- FetchedPartsAreChecked: a whole chunk before the last, of which no record is complete. -/
theorem witness_chunk :
    (state_chunk.weights.load = some load2) ∧
    (List.countP (fun t ↦ !t.done) load2.tiles < state_chunk.boot.image.stageTiles) ∧
    (load2.man = some man2) ∧
    (load2.chunk < man2.nChunk) ∧
    (state_chunk.isSet SEC_STAT_KEY_RELEASED = true) ∧
    (chunkPlain man2 load2.chunk (chunkHdr 1048576) bigPlain true true = Sum.inr bigPlain) ∧
    (load2.chunk + 1 < man2.nChunk) ∧
    ((state_chunk.add LD_CHUNK_DONE_COUNT 1).stageRecs load2 man2 (splitRecs ((load2.stream ++ bigPlain).length + 1) (load2.stream ++ bigPlain)).1 [] = Sum.inr []) ∧
    (∀ d, state_chunk.fetched load2 d = d) := 
    by and_intros <;> first | with_reducible exact big_chunk | with_reducible exact fetched_open _ _ (by decide +kernel) | (rw [big_split]; rfl) | decide +kernel

/-- ProgramStepsFillATier: the first step takes tier 0. -/
theorem witness_program_first :
    ((programming stagedTile0).weights.load = some (loadT stagedTile0)) ∧
    ((programming stagedTile0).domainOff ↑core3 = false) ∧
    ((programming stagedTile0).coreRunning ↑core3 = false ∨ (programming stagedTile0).placed ↑core3 (.engine ↑eng2) .program = true) ∧
    ((programming stagedTile0).faults.armed = none) ∧
    (List.findIdx (fun t ↦ decide (t.core = ↑core3 ∧ t.eng = ↑eng2) && !t.done) (loadT stagedTile0).tiles = 0) ∧
    ((loadT stagedTile0).tiles[0]? = some stagedTile0) ∧
    (stagedTile0.forced = 0) ∧
    (stagedTile0.tier = none) ∧
    ((programming stagedTile0).loadVariant = false) ∧
    (stagedTile0.step < 7) ∧
    (stagedTile0.row = 0) ∧
    (List.filter (fun k ↦ decide (((programming stagedTile0).tier (↑core3) (↑eng2) k).progCount < 100000)) (List.filter (fun k ↦ decide (((programming stagedTile0).tier (↑core3) (↑eng2) k).role = 0)) (List.range 8)) = [0, 1, 2, 3, 4, 5, 6, 7]) := by decide +kernel

/-- ProgramStepsFillATier: a state and operands that meet its hypotheses. -/
theorem witness_program_repeat :
    ((programming staged4).weights.load = some (loadT staged4)) ∧
    ((programming staged4).domainOff ↑core3 = false) ∧
    ((programming staged4).coreRunning ↑core3 = false ∨ (programming staged4).placed ↑core3 (.engine ↑eng2) .program = true) ∧
    ((programming staged4).faults.armed = none) ∧
    (List.findIdx (fun t ↦ decide (t.core = ↑core3 ∧ t.eng = ↑eng2) && !t.done) (loadT staged4).tiles = 0) ∧
    ((loadT staged4).tiles[0]? = some staged4) ∧
    (staged4.forced = 0) ∧
    (4 < 8) ∧
    (staged4.tier = some 4) ∧
    (((programming staged4).tier (↑core3) (↑eng2) 4).role = 6) ∧
    (staged4.step < 7) := by decide +kernel

/-- ProgramStepsFillATier: a state and operands that meet its hypotheses. -/
theorem witness_program_row :
    ((programming staged4).weights.load = some (loadT staged4)) ∧
    ((programming staged4).domainOff ↑core3 = false) ∧
    ((programming staged4).coreRunning ↑core3 = false ∨ (programming staged4).placed ↑core3 (.engine ↑eng2) .program = true) ∧
    ((programming staged4).faults.armed = none) ∧
    (List.findIdx (fun t ↦ decide (t.core = ↑core3 ∧ t.eng = ↑eng2) && !t.done) (loadT staged4).tiles = 0) ∧
    ((loadT staged4).tiles[0]? = some staged4) ∧
    (staged4.forced = 0) ∧
    (4 < 8) ∧
    (staged4.tier = some 4) ∧
    (((programming staged4).tier (↑core3) (↑eng2) 4).role = 6) ∧
    (staged4.row + 1 < 1025 + ↑Config.metaRows) := 
    by and_intros <;> first | with_reducible exact Nat.lt_of_lt_of_le (by decide) (Nat.le_add_right _ _) | decide +kernel

/-- ProgramStepsFillATier: a state and operands that meet its hypotheses. -/
theorem witness_program_fails :
    ((programming stagedFail).weights.load = some (loadT stagedFail)) ∧
    ((programming stagedFail).domainOff ↑core3 = false) ∧
    ((programming stagedFail).coreRunning ↑core3 = false ∨ (programming stagedFail).placed ↑core3 (.engine ↑eng2) .program = true) ∧
    ((programming stagedFail).faults.armed = none) ∧
    (List.findIdx (fun t ↦ decide (t.core = ↑core3 ∧ t.eng = ↑eng2) && !t.done) (loadT stagedFail).tiles = 0) ∧
    ((loadT stagedFail).tiles[0]? = some stagedFail) ∧
    (stagedFail.forced = 0) ∧
    (4 < 8) ∧
    (stagedFail.tier = some 4) ∧
    (((programming stagedFail).tier (↑core3) (↑eng2) 4).role = 6) ∧
    (7 ≤ stagedFail.step) ∧
    (stagedFail.retried = true) := by decide +kernel

/-- ProgramStepsFillATier: a state and operands that meet its hypotheses. -/
theorem witness_program_last :
    ((programming stagedEnd).weights.load = some (loadT stagedEnd)) ∧
    ((programming stagedEnd).domainOff ↑core3 = false) ∧
    ((programming stagedEnd).coreRunning ↑core3 = false ∨ (programming stagedEnd).placed ↑core3 (.engine ↑eng2) .program = true) ∧
    ((programming stagedEnd).faults.armed = none) ∧
    (List.findIdx (fun t ↦ decide (t.core = ↑core3 ∧ t.eng = ↑eng2) && !t.done) (loadT stagedEnd).tiles = 0) ∧
    ((loadT stagedEnd).tiles[0]? = some stagedEnd) ∧
    (stagedEnd.forced = 0) ∧
    (4 < 8) ∧
    (stagedEnd.tier = some 4) ∧
    (((programming stagedEnd).tier (↑core3) (↑eng2) 4).role = 6) ∧
    (1025 + ↑Config.metaRows ≤ stagedEnd.row + 1) ∧
    ((programming stagedEnd).faults.repairs = []) ∧
    (List.find? (fun d ↦ decide (some d.core = (programming stagedEnd).logicalOf ↑core3) && decide (d.engine = stagedEnd.eng ∧ d.num = stagedEnd.num ∧ d.standby = stagedEnd.copy)) (programming stagedEnd).boot.image.tiles = some tile0) ∧
    ((programming stagedEnd).boot.image.isCorpus tile0.core tile0.engine tile0.num = false) := 
    ⟨rfl, by decide +kernel, by decide +kernel, by decide +kernel, by decide +kernel, rfl, by decide +kernel, by decide +kernel, by decide +kernel, by decide +kernel, by show 1025 + Config.metaRows.val ≤ 1024 + Config.metaRows.val + 1; omega, by decide +kernel, by decide +kernel, by decide +kernel⟩

def state_epoch_seen : State :=
  { weighing with fab := { weighing.fab with seen := [flip6] } }
/-- FlipsAreNamedForTheirMile: a state and operands that meet its hypotheses. -/
theorem witness_epoch_seen :
    (flip6.kind = 6) ∧
    (flip6 ∈ state_epoch_seen.fab.seen) := by decide +kernel

/-- FlipsAreNamedForTheirMile: a state and operands that meet its hypotheses. -/
theorem witness_epoch_ignored :
    (flip6.kind = 6) ∧
    (flip6 ∉   (weighing.setTier 3 2 4         { Tier.blank with role := 2 }).fab.seen) ∧
    ((weighing.setTier 3 2 4       { Tier.blank with role := 2 }).prevHeld =   true) := by decide +kernel

/-- FlipsAreNamedForTheirMile: a state and operands that meet its hypotheses. -/
theorem witness_epoch :
    (flip6.kind = 6) ∧
    (flip6 ∉ weighing.fab.seen) ∧
    (weighing.prevHeld = false) ∧
    (weighing.weights.flip = none) := by decide +kernel

def state_flip_refused : State := weighing.setTier 3 2 4 { Tier.blank with role := 2 }
/-- FlipsAreNamedForTheirMile: a PREV tier exists, for the controller and for a write. -/
theorem witness_flip_refused :
    (state_flip_refused.mgmtUp = true) ∧
    (state_flip_refused.prevHeld = true) ∧
    (regAt LD_FLIP_REQ.addr = some (regOf LD_FLIP_REQ.addr)) ∧
    (writeReaches state_flip_refused (wr 2147483648) LD_FLIP_REQ.addr (regOf LD_FLIP_REQ.addr) = true) ∧
    (wbits (wr 2147483648).data LD_FLIP_REQ = 1) := by decide +kernel

def state_flip_mc : State :=
  weighing.put LD_EPOCH_PEND_EPOCH 6
/-- FlipsAreNamedForTheirMile: a flip that can be named, for the controller and for a write. -/
theorem witness_flip_mc :
    (state_flip_mc.mgmtUp = true) ∧
    (flipNamable state_flip_mc) ∧
    (writeReaches state_flip_mc (wr 2147483648) LD_FLIP_REQ.addr (regOf LD_FLIP_REQ.addr) = true) :=
  ⟨by decide +kernel, by unfold flipNamable; decide +kernel, by decide +kernel⟩

/-- AdaptersAreAcceptedOrAnswered: a state and operands that meet its hypotheses. -/
theorem witness_adLoad_form :
    (weighing.boot.image.entry = true) ∧
    (adLoadOk weighing rawNo = false) := by decide +kernel

def state_adLoad_old : State :=
  { withAd 2 adLoad0 with weights := { (withAd 2 adLoad0).weights with current := [(7, 5, 3)] } }
/-- AdaptersAreAcceptedOrAnswered: a state and operands that meet its hypotheses. -/
theorem witness_adLoad_old :
    (state_adLoad_old.boot.image.entry = true) ∧
    (adLoadOk state_adLoad_old (rawAd 1) = true) ∧
    (state_adLoad_old.currentAdapter (fieldLE (rawAd 1) 4 2) (fieldLE (rawAd 1) 16 4) = some 3) ∧
    (fieldLE (rawAd 1) 6 2 ≤ (state_adLoad_old.adSlot 3).ver) := by decide +kernel

def state_adLoad_full : State :=
  { weighing with boot := { weighing.boot with image := { imageW with adapters := { imageW.adapters with share := [(0, 0, 0)] } } } }
/-- AdaptersAreAcceptedOrAnswered: no free slot: the region has none. -/
theorem witness_adLoad_full :
    (state_adLoad_full.boot.image.entry = true) ∧
    (adLoadOk state_adLoad_full (rawAd 1) = true) ∧
    (state_adLoad_full.currentAdapter (fieldLE (rawAd 1) 4 2) (fieldLE (rawAd 1) 16 4) = none) ∧
    (∀ (k : ℕ), none = some k → (state_adLoad_full.adSlot k).ver < fieldLE (rawAd 1) 6 2) ∧
    (∀ k ∈ state_adLoad_full.slotShare, state_adLoad_full.adFree k = false) := by decide +kernel

/-- AdaptersAreAcceptedOrAnswered: a state and operands that meet its hypotheses. -/
theorem witness_adLoad :
    (weighing.boot.image.entry = true) ∧
    (adLoadOk weighing (rawAd 1) = true) ∧
    (weighing.currentAdapter (fieldLE (rawAd 1) 4 2) (fieldLE (rawAd 1) 16 4) = none) ∧
    (∀ (k : ℕ), none = some k → (weighing.adSlot k).ver < fieldLE (rawAd 1) 6 2) ∧
    (List.find? (fun k ↦ weighing.adFree k) weighing.slotShare = some 0) := by decide +kernel

/-- AdaptersAreAcceptedOrAnswered: a state and operands that meet its hypotheses. -/
theorem witness_adDrop_form :
    (weighing.boot.image.entry = true) ∧
    (adDropOk rawNo = false) := by decide +kernel

/-- AdaptersAreAcceptedOrAnswered: a state and operands that meet its hypotheses. -/
theorem witness_adDrop :
    (weighing.boot.image.entry = true) ∧
    (adDropOk rawDrop = true) := by decide +kernel

/-- AdapterPartsSwitchAndFree: a state and operands that meet its hypotheses. -/
theorem witness_part :
    (List.find? (fun l ↦ decide (l.slot = 3)) (withAd 1 adLoadM).weights.adLoads = some adLoadM) ∧
    (((withAd 1 adLoadM).adSlot 3).state = 1) ∧
    (adLoadM.man = some man1) ∧
    (adLoadM.chunk + 1 = man1.nChunk) ∧
    ((withAd 1 adLoadM).isSet SEC_STAT_KEY_RELEASED = true) ∧
    (chunkPlain man1 adLoadM.chunk (chunkHdr 4) text4 true true = Sum.inr text4) ∧
    (10 ≤ (withAd 1 adLoadM).boot.image.adapters.slotBytes) := by decide +kernel

/-- AdapterPartsSwitchAndFree: a state and operands that meet its hypotheses. -/
theorem witness_part_again :
    (List.find? (fun l ↦ decide (l.slot = 3)) (withAd 1 adLoad0).weights.adLoads = some adLoad0) ∧
    (((withAd 1 adLoad0).adSlot 3).state = 1) ∧
    (adLoad0.attempts < 3) := by decide +kernel

/-- AdapterPartsSwitchAndFree: a state and operands that meet its hypotheses. -/
theorem witness_part_fails :
    (List.find? (fun l ↦ decide (l.slot = 3)) (withAd 1 adLoad3).weights.adLoads = some adLoad3) ∧
    (((withAd 1 adLoad3).adSlot 3).state = 1) ∧
    (3 ≤ adLoad3.attempts) ∧
    (adLoad3.reload = false) := by decide +kernel

/-- AdapterPartsSwitchAndFree: a part that is fetched again for a lost line. -/
theorem witness_part_reload :
    (List.find? (fun l ↦ decide (l.slot = 3)) (withAd 1 adLoadR).weights.adLoads = some adLoadR) ∧
    (((withAd 1 adLoadR).adSlot 3).state = 1) ∧
    (3 ≤ adLoadR.attempts) ∧
    (adLoadR.reload = true) := by decide +kernel

/-- AdapterPartsSwitchAndFree: a state and operands that meet its hypotheses. -/
theorem witness_part_other :
    (List.find? (fun l ↦ decide (l.slot = 3)) (withAd 1 adLoad0).weights.adLoads = some adLoad0) ∧
    (((withAd 1 adLoad0).adSlot 3).state = 1) := by decide +kernel

def state_switch : State :=
  { withAd 2 adLoad0 with tb := { weighing.tb with rod := 400 } }
/-- AdapterPartsSwitchAndFree: on its boundary. -/
theorem witness_switch :
    (List.find? (fun l ↦ decide (l.slot = 3)) state_switch.weights.adLoads = some adLoad0) ∧
    (adLoad0.failed = false) ∧
    (rodAfter state_switch.tb.rod adLoad0.switchAt = false) ∧
    (state_switch.isCurrent 3 = false) := by decide +kernel

def state_slotFree_ad : State :=
  { weighing with tb := { weighing.tb with rod := 80 }, weights := { weighing.weights with adSlots := [(3, { AdSlot.empty with ident := 7, freeAt := some 80 })] } }
/-- AdapterPartsSwitchAndFree: a state and operands that meet its hypotheses. -/
theorem witness_slotFree_ad :
    ((state_slotFree_ad.adSlot 3).freeAt = some 80) ∧
    (rodAfter state_slotFree_ad.tb.rod 80 = false) ∧
    (state_slotFree_ad.pinCount 3 = 0) ∧
    (state_slotFree_ad.isCurrent 3 = false) := by decide +kernel

def state_slotFree_early : State :=
  { weighing with tb := { weighing.tb with rod := 79 }, weights := { weighing.weights with adSlots := [(3, { AdSlot.empty with ident := 7, freeAt := some 80 })] } }
/-- AdapterPartsSwitchAndFree: a state and operands that meet its hypotheses. -/
theorem witness_slotFree_early :
    ((state_slotFree_early.adSlot 3).freeAt = some 80) ∧
    (rodAfter state_slotFree_early.tb.rod 80 = true ∨ state_slotFree_early.pinCount 3 ≠ 0 ∨ state_slotFree_early.isCurrent 3 = true) := by decide +kernel

/-! ### Attestation, keys and the host interface's trust -/

def imageK : Image := { image0 with authKeys := 1, model := 6, wkcv := keyCheck 5 }
def imageNo : Image := { image0 with authKeys := 1, model := 6, wkcv := (0 : Byte) :: keyCheck 5 }
def nonce0 : List Byte := List.replicate 48 7
/-- Out of reset at step 6, a report's nonce a moment old. -/
def releasing (im : Image) (f : Sec → Sec) : State :=
  let s := (busy.put GLB_STATE_STEP 6).put GLB_STATE_STATE 0
  { s with boot := { s.boot with image := im },
           sec := f { s.sec with nonces := [(nonce0, 4)], clockRods := 4 + 2 ^ 24, accepted := false } }
def keepSec (x : Sec) : Sec := x
def release0 (model : Nat) : List Byte :=
  leBytes 4 0x4C525154 ++ leBytes 2 1 ++ [0, 0] ++ leBytes 8 model ++ nonce0 ++ List.replicate 256 0
def release1 : List Byte := List.replicate 319 0
def checks0 : ReleaseCheck := ⟨true, true, true, 5⟩
def checksSig : ReleaseCheck := ⟨false, true, true, 5⟩
def checksPoint : ReleaseCheck := ⟨true, false, true, 5⟩
def nonceGone (x : Sec) : Sec := { x with clockRods := 5 + 2 ^ 24 }
def taken (x : Sec) : Sec := { x with accepted := true }
def secState (f : Sec → Sec) : State := { busy with sec := f busy.sec }
def kick : Wr := ⟨.controlCore, 1, 0xF, true⟩

/-- HallmarkReportsAnswerTheirNonce: a state and operands that meet its hypotheses. -/
theorem witness_report :
    (busy.isSet SEC_STAT_RUNNING = true) ∧
    (nonce0.length = 48) := by decide +kernel

/-- HallmarkReportsAnswerTheirNonce: a state and operands that meet its hypotheses. -/
theorem witness_report_len :
    (busy.isSet SEC_STAT_RUNNING = true) ∧
    (release1.length ≠ 48) := by decide +kernel

/-- KeyReleasesAreChecked: a state and operands that meet its hypotheses. -/
theorem witness_release_early :
    (busy.isSet SEC_STAT_RUNNING = true) ∧
    (busy.fld GLB_STATE_STEP < 6 ∨ busy.fld GLB_STATE_STATE = 2) := by decide +kernel

/-- KeyReleasesAreChecked: a state and operands that meet its hypotheses. -/
theorem witness_release_taken :
    ((releasing imageK taken).isSet SEC_STAT_RUNNING = true) ∧
    (6 ≤ (releasing imageK taken).fld GLB_STATE_STEP) ∧
    ((releasing imageK taken).fld GLB_STATE_STATE ≠ 2) ∧
    ((releasing imageK taken).sec.accepted = true) := by decide +kernel

/-- KeyReleasesAreChecked: a state and operands that meet its hypotheses. -/
theorem witness_release_form :
    ((releasing imageK keepSec).isSet SEC_STAT_RUNNING = true) ∧
    (6 ≤ (releasing imageK keepSec).fld GLB_STATE_STEP) ∧
    ((releasing imageK keepSec).fld GLB_STATE_STATE ≠ 2) ∧
    ((releasing imageK keepSec).sec.accepted = false) ∧
    (¬releaseForm (releasing imageK keepSec) release1) := 
    by and_intros <;> first | exact fun h => absurd h.1 (by decide +kernel) | decide +kernel

/-- KeyReleasesAreChecked: a state and operands that meet its hypotheses. -/
theorem witness_release_sig :
    ((releasing imageK keepSec).isSet SEC_STAT_RUNNING = true) ∧
    (6 ≤ (releasing imageK keepSec).fld GLB_STATE_STEP) ∧
    ((releasing imageK keepSec).fld GLB_STATE_STATE ≠ 2) ∧
    ((releasing imageK keepSec).sec.accepted = false) ∧
    (releaseForm (releasing imageK keepSec) (release0 6)) ∧
    (checksSig.sigOk = false) := 
    by and_intros <;> first | decide +kernel | (unfold releaseForm; decide +kernel)

/-- KeyReleasesAreChecked: one rod too old. -/
theorem witness_release_nonce :
    ((releasing imageK nonceGone).isSet SEC_STAT_RUNNING = true) ∧
    (6 ≤ (releasing imageK nonceGone).fld GLB_STATE_STEP) ∧
    ((releasing imageK nonceGone).fld GLB_STATE_STATE ≠ 2) ∧
    ((releasing imageK nonceGone).sec.accepted = false) ∧
    (releaseForm (releasing imageK nonceGone) (release0 6)) ∧
    (checks0.sigOk = true) ∧
    (∀ n ∈ (releasing imageK nonceGone).sec.nonces, n.1 = List.take 48 (List.drop 16 (release0 6)) → n.2 + 2 ^ 24 < (releasing imageK nonceGone).sec.clockRods) := 
    by and_intros <;> first | decide +kernel | (unfold releaseForm; decide +kernel)

/-- KeyReleasesAreChecked: a state and operands that meet its hypotheses. -/
theorem witness_release_model :
    ((releasing imageK keepSec).isSet SEC_STAT_RUNNING = true) ∧
    (6 ≤ (releasing imageK keepSec).fld GLB_STATE_STEP) ∧
    ((releasing imageK keepSec).fld GLB_STATE_STATE ≠ 2) ∧
    ((releasing imageK keepSec).sec.accepted = false) ∧
    (releaseForm (releasing imageK keepSec) (release0 7)) ∧
    ((nonce0, 4) ∈ (releasing imageK keepSec).sec.nonces) ∧
    ((nonce0, 4).1 = List.take 48 (List.drop 16 (release0 7))) ∧
    ((releasing imageK keepSec).sec.clockRods ≤ (nonce0, 4).2 + 2 ^ 24) ∧
    (checks0.sigOk = true) ∧
    (fieldLE (release0 7) 8 8 ≠ (releasing imageK keepSec).boot.image.model) := 
    by and_intros <;> first | decide +kernel | (unfold releaseForm; decide +kernel)

/-- KeyReleasesAreChecked: a state and operands that meet its hypotheses. -/
theorem witness_release_point :
    ((releasing imageK keepSec).isSet SEC_STAT_RUNNING = true) ∧
    (6 ≤ (releasing imageK keepSec).fld GLB_STATE_STEP) ∧
    ((releasing imageK keepSec).fld GLB_STATE_STATE ≠ 2) ∧
    ((releasing imageK keepSec).sec.accepted = false) ∧
    (releaseForm (releasing imageK keepSec) (release0 6)) ∧
    ((nonce0, 4) ∈ (releasing imageK keepSec).sec.nonces) ∧
    ((nonce0, 4).1 = List.take 48 (List.drop 16 (release0 6))) ∧
    ((releasing imageK keepSec).sec.clockRods ≤ (nonce0, 4).2 + 2 ^ 24) ∧
    (checksPoint.sigOk = true) ∧
    (fieldLE (release0 6) 8 8 = (releasing imageK keepSec).boot.image.model) ∧
    (checksPoint.onCurve = false ∨ checksPoint.tagOk = false) := 
    by and_intros <;> first | decide +kernel | (unfold releaseForm; decide +kernel)

/-- KeyReleasesAreChecked: a state and operands that meet its hypotheses. -/
theorem witness_release_check :
    ((releasing imageNo keepSec).isSet SEC_STAT_RUNNING = true) ∧
    (6 ≤ (releasing imageNo keepSec).fld GLB_STATE_STEP) ∧
    ((releasing imageNo keepSec).fld GLB_STATE_STATE ≠ 2) ∧
    ((releasing imageNo keepSec).sec.accepted = false) ∧
    (releaseForm (releasing imageNo keepSec) (release0 6)) ∧
    ((nonce0, 4) ∈ (releasing imageNo keepSec).sec.nonces) ∧
    ((nonce0, 4).1 = List.take 48 (List.drop 16 (release0 6))) ∧
    ((releasing imageNo keepSec).sec.clockRods ≤ (nonce0, 4).2 + 2 ^ 24) ∧
    (checks0.sigOk = true) ∧
    (fieldLE (release0 6) 8 8 = (releasing imageNo keepSec).boot.image.model) ∧
    (checks0.onCurve = true) ∧
    (checks0.tagOk = true) ∧
    (keyCheck checks0.key ≠ (releasing imageNo keepSec).boot.image.wkcv) := 
    by and_intros <;> first | exact fun h => absurd (congrArg List.length h) (Nat.ne_of_lt (Nat.lt_succ_self _)) | decide +kernel | (unfold releaseForm; decide +kernel)

/-- KeyReleasesAreChecked: the nonce at the end of its time. -/
theorem witness_release :
    ((releasing imageK keepSec).isSet SEC_STAT_RUNNING = true) ∧
    (6 ≤ (releasing imageK keepSec).fld GLB_STATE_STEP) ∧
    ((releasing imageK keepSec).fld GLB_STATE_STATE ≠ 2) ∧
    ((releasing imageK keepSec).sec.accepted = false) ∧
    (releaseForm (releasing imageK keepSec) (release0 6)) ∧
    ((nonce0, 4) ∈ (releasing imageK keepSec).sec.nonces) ∧
    ((nonce0, 4).1 = List.take 48 (List.drop 16 (release0 6))) ∧
    ((releasing imageK keepSec).sec.clockRods ≤ (nonce0, 4).2 + 2 ^ 24) ∧
    (checks0.sigOk = true) ∧
    (fieldLE (release0 6) 8 8 = (releasing imageK keepSec).boot.image.model) ∧
    (checks0.onCurve = true) ∧
    (checks0.tagOk = true) ∧
    (keyCheck checks0.key = (releasing imageK keepSec).boot.image.wkcv) := 
    by and_intros <;> first | decide +kernel | (unfold releaseForm; decide +kernel) | exact rfl

def state_unseal : State :=
  { (busy.setTier 3 2 4 { Tier.blank with epoch := 1 }) with sec := { busy.sec with unsealing := true } }
/-- KeyReleasesAreChecked: a sound tier with an epoch, and no row that fails. -/
theorem witness_unseal :
    (state_unseal.sec.unsealing = true) ∧
    ((state_unseal.tier core3 eng2 4).bad = false) ∧
    ((state_unseal.tier core3 eng2 4).epoch ≠ 0) := by decide +kernel

/-- SpdmFollowsItsPhases: a state and operands that meet its hypotheses. -/
theorem witness_spdm :
    (busy.isSet SEC_STAT_RUNNING = true) := by decide +kernel

def state_s2 : State :=
  secState (fun x => { x with spdm := .version })
/-- SpdmFollowsItsPhases: the phases of the connection, and a session. -/
theorem witness_spdm_version :
    (state_s2.isSet SEC_STAT_RUNNING = true) ∧ (decide (state_s2.sec.spdm = .version) = true) := by decide +kernel

def state_s3 : State :=
  secState (fun x => { x with spdm := .capabilities })
/-- SpdmFollowsItsPhases: capabilities answered. -/
theorem witness_spdm_capabilities :
    (state_s3.isSet SEC_STAT_RUNNING = true) ∧ ((decide (state_s3.sec.spdm = .capabilities) && true) = true) := by decide +kernel

def state_s4 : State :=
  secState (fun x => { x with spdm := .algorithms })
/-- SpdmFollowsItsPhases: algorithms negotiated, slot 0, measurement index 6, no session. -/
theorem witness_spdm_algorithms :
    (state_s4.isSet SEC_STAT_RUNNING = true) ∧ (decide (state_s4.sec.spdm = .algorithms ∧ 0 = 0) = true) ∧
    (decide (state_s4.sec.spdm = .algorithms ∧ (6 ≤ 6 ∨ 6 = 255)) = true) ∧
    ((decide (state_s4.sec.spdm = .algorithms ∧ 0 = 0) && !state_s4.sec.session) = true) := by decide +kernel

def state_s9 : State :=
  secState (fun x => { x with session := true })
/-- SpdmFollowsItsPhases: a session. -/
theorem witness_spdm_session :
    (state_s9.isSet SEC_STAT_RUNNING = true) ∧ ((state_s9.sec.session && decide (1 ≤ 3 ∧ 3 ≤ 3)) = true) := by decide +kernel

def state_spdmFinish : State :=
  secState (fun x => { x with handshake := true })
/-- SpdmFollowsItsPhases: a state and operands that meet its hypotheses. -/
theorem witness_spdmFinish :
    (state_spdmFinish.isSet SEC_STAT_RUNNING = true) ∧
    (state_spdmFinish.sec.handshake = true) := by decide +kernel

def state_spdmFinish_bad : State :=
  secState (fun x => { x with handshake := true })
/-- SpdmFollowsItsPhases: a state and operands that meet its hypotheses. -/
theorem witness_spdmFinish_bad :
    (state_spdmFinish_bad.isSet SEC_STAT_RUNNING = true) ∧
    (state_spdmFinish_bad.sec.handshake = false ∨ false = false) := by decide +kernel

def state_endSession : State :=
  (secState (fun x => { x with session := true })).put SEC_STAT_SPDM_SESSION 1
/-- SpdmFollowsItsPhases: a state and operands that meet its hypotheses. -/
theorem witness_endSession :
    (state_endSession.isSet SEC_STAT_RUNNING = true) ∧
    (state_endSession.sec.session = true) := by decide +kernel

def state_digests : State :=
  secState (fun x => { x with spdm := .algorithms })
/-- SpdmFollowsItsPhases: a state and operands that meet its hypotheses. -/
theorem witness_digests :
    (state_digests.isSet SEC_STAT_RUNNING = true) ∧
    (state_digests.sec.spdm = SpdmPhase.algorithms) := by decide +kernel

def state_lock : State :=
  busy.put GLB_STATE_STEP 7
/-- TdiStatesFollowTheirMessages: a state and operands that meet its hypotheses. -/
theorem witness_lock :
    (state_lock.fld SEC_STAT_TDI_STATE = 0) ∧
    (7 ≤ state_lock.fld GLB_STATE_STEP) := by decide +kernel

def state_lock_early : State :=
  busy.put GLB_STATE_STEP 6
/-- TdiStatesFollowTheirMessages: a state and operands that meet its hypotheses. -/
theorem witness_lock_early :
    (state_lock_early.fld SEC_STAT_TDI_STATE ≠ 0 ∨ state_lock_early.fld GLB_STATE_STEP < 7) := by decide +kernel

def state_startTdi : State :=
  busy.put SEC_STAT_TDI_STATE 1
/-- TdiStatesFollowTheirMessages: a state and operands that meet its hypotheses. -/
theorem witness_startTdi :
    (state_startTdi.fld SEC_STAT_TDI_STATE = 1) := by decide +kernel

def state_startTdi_not : State :=
  secState (fun x => { x with spdm := .algorithms })
/-- TdiStatesFollowTheirMessages: a state and operands that meet its hypotheses. -/
theorem witness_startTdi_not :
    (state_startTdi_not.fld SEC_STAT_TDI_STATE ≠ 1) := by decide +kernel

def state_ideKey : State :=
  secState (fun x => { x with session := true, ide := [1] })
/-- TdiStatesFollowTheirMessages: a state and operands that meet its hypotheses. -/
theorem witness_ideKey :
    (state_ideKey.sec.session = true) ∧
    (2 ∉ state_ideKey.sec.ide) ∧
    (state_ideKey.sec.ide.length < 2) := by decide +kernel

def state_ideFail : State :=
  secState (fun x => { x with ide := [1] })
/-- TdiStatesFollowTheirMessages: a state and operands that meet its hypotheses. -/
theorem witness_ideFail :
    (1 ∈ state_ideFail.sec.ide) := by decide +kernel

def state_ideFail_other : State :=
  secState (fun x => { x with ide := [1] })
/-- TdiStatesFollowTheirMessages: a state and operands that meet its hypotheses. -/
theorem witness_ideFail_other :
    (2 ∉ state_ideFail_other.sec.ide) := by decide +kernel

def state_kick : State :=
  secState (fun x => { x with wdog := 9 })
/-- WatchdogAndBoundsHold: a state and operands that meet its hypotheses. -/
theorem witness_kick :
    (regAt SEC_WDOG_KICK.addr = some (regOf SEC_WDOG_KICK.addr)) ∧
    (writeReaches state_kick kick SEC_WDOG_KICK.addr (regOf SEC_WDOG_KICK.addr) = true) ∧
    (kick.port = PortId.controlCore) ∧
    (wbits kick.data SEC_WDOG_KICK = 1) ∧
    (state_kick.faults.armed = none) := by decide +kernel

def state_wdog : State :=
  { (busy.setTier 3 2 4 { Tier.blank with mapped := true }) with boot := { busy.boot with firmware := true }, sec := { busy.sec with wdog := 65536 } }
/-- WatchdogAndBoundsHold: a state and operands that meet its hypotheses. -/
theorem witness_wdog :
    (state_wdog.fld GLB_STATE_STATE ≠ 2) ∧
    (state_wdog.boot.firmware = true) ∧
    (state_wdog.sec.wdogLimit = 65536) ∧
    (65536 ≤ state_wdog.sec.wdog) := by decide +kernel

/-- WatchdogAndBoundsHold: a state and operands that meet its hypotheses. -/
theorem witness_mcChrysalis :
    (busy.fld GLB_STATE_STATE ≠ 2) ∧
    (busy.mgmtUp = true) := by decide +kernel

def state_wdog_early : State :=
  secState (fun x => { x with wdog := 65535 })
/-- WatchdogAndBoundsHold: a state and operands that meet its hypotheses. -/
theorem witness_wdog_early :
    (state_wdog_early.sec.wdog < state_wdog_early.sec.wdogLimit) := by decide +kernel

def state_breach : State :=
  secState (fun x => { x with bucket := 4096 })
/-- WatchdogAndBoundsHold: a state and operands that meet its hypotheses. -/
theorem witness_breach :
    ((Breach.keyAccess, SEC_VIOL_KEY_ACCESS) = (Breach.dmaWindow, SEC_VIOL_DMA_WINDOW) ∨ (Breach.keyAccess, SEC_VIOL_KEY_ACCESS) = (Breach.keyAccess, SEC_VIOL_KEY_ACCESS) ∨ (Breach.keyAccess, SEC_VIOL_KEY_ACCESS) = (Breach.thermalWrite, SEC_VIOL_THERMAL_WRITE) ∨ (∃ n, state_breach.sec.bucket < n ∧ (Breach.keyAccess, SEC_VIOL_KEY_ACCESS) = (Breach.rate n, SEC_VIOL_RATE)) ∨ state_breach.sched.admitted = true ∧ (Breach.keyAccess, SEC_VIOL_KEY_ACCESS) = (Breach.tableWrite, SEC_VIOL_TABLE_WRITE)) := Or.inr (Or.inl rfl)

def state_breach_rate : State :=
  secState (fun x => { x with bucket := 4096 })
/-- WatchdogAndBoundsHold: a state and operands that meet its hypotheses. -/
theorem witness_breach_rate :
    ((Breach.rate 4097, SEC_VIOL_RATE) = (Breach.dmaWindow, SEC_VIOL_DMA_WINDOW) ∨ (Breach.rate 4097, SEC_VIOL_RATE) = (Breach.keyAccess, SEC_VIOL_KEY_ACCESS) ∨ (Breach.rate 4097, SEC_VIOL_RATE) = (Breach.thermalWrite, SEC_VIOL_THERMAL_WRITE) ∨ (∃ n, state_breach_rate.sec.bucket < n ∧ (Breach.rate 4097, SEC_VIOL_RATE) = (Breach.rate n, SEC_VIOL_RATE)) ∨ state_breach_rate.sched.admitted = true ∧ (Breach.rate 4097, SEC_VIOL_RATE) = (Breach.tableWrite, SEC_VIOL_TABLE_WRITE)) := Or.inr (Or.inr (Or.inr (Or.inl ⟨4097, by decide, rfl⟩)))

def state_bucket : State :=
  secState (fun x => { x with bucket := 4096 })
/-- WatchdogAndBoundsHold: a state and operands that meet its hypotheses. -/
theorem witness_bucket :
    (4096 ≤ state_bucket.sec.bucket) := by decide +kernel

/-! ### Faults, patrol, trap sets and repair -/

def entry0 : ArrayEntry := ⟨List.replicate 32 0, []⟩
def vecEntry0 : VectorEntry := ⟨1, [], [], []⟩
def trapSet0 : TrapSet := ⟨1, 3, 8, [entry0, entry0], [vecEntry0, vecEntry0], []⟩
def tier4 : TierId := 4
/-- A trap set in force, one tier in use whose next entry is the first. -/
def patrolling : State :=
  let s := busy.setTier 3 2 4 { Tier.blank with role := 1, mapped := true, epoch := 1 }
  { s with faults := { s.faults with traps := trapSet0, rotation := [(tierKey 3 2 4, 1)] } }
def rerunning : State := { patrolling with faults := { patrolling.faults with vecRerun := [(3, 1)] } }
def trapRing : RingPair := ⟨0, 4096, 16, 8192, 8, 0, 0, 17, [(65536, 65536)], 4, 2, 32000⟩
/-- The load of a trap set runs: 224 bytes at the end of a window. -/
def trapping (ver : Nat) : State :=
  { busy with boot := { busy.boot with image := { image0 with rings := [trapRing] } },
              faults := { busy.faults with trapLoad := some (131072 - 224, 224), traps := { trapSet0 with version := ver } } }
def trapBytes (magic : Nat) : List Byte :=
  leBytes 4 magic ++ leBytes 2 1 ++ [0, 0] ++ leBytes 4 5 ++ leBytes 2 1 ++ leBytes 2 0 ++ [3, 8] ++ List.replicate 206 0
def trapGood : List Byte := trapBytes 0x50545154
def trapSet5 : TrapSet := ⟨5, 3, 8, [⟨List.replicate 32 0, [0, 0, 0, 0]⟩], [], trapGood⟩
def repair0 (k : Nat) : Repair := ⟨0, 3, 9, k⟩
def repairLoad : Load := ⟨0, 0, none, 0, 0, [], [], some 0⟩
def repairing (k : Nat) (l : Option Load) : State :=
  { busy with faults := { busy.faults with repairs := [repair0 k] }, weights := { busy.weights with load := l } }
def injecting (point : Nat) : State := ((busy.put INJ_CTRL_ENABLE 1).put INJ_SEL_POINT point).put INJ_SEL_CORE 3

/-- PatrolSlotsCheckTheirEntries: a state and operands that meet its hypotheses. -/
theorem witness_arrayPatrol :
    (patrolling.faults.armed = none) ∧
    (patrolling.placed ↑core3 (.engine ↑eng2) .patrol = true) ∧
    (patrolling.rerunOf ↑core3 ↑eng2 = none) ∧
    (patrolling.inUse ↑core3 ↑eng2 ↑tier4 = true) ∧
    (patrolling.nextEntry ↑core3 ↑eng2 ↑tier4 = some 0) ∧
    (∀ (j : TierId), j ≠ tier4 → patrolling.nextEntry ↑core3 ↑eng2 ↑j = none) ∧
    (0 < patrolling.faults.traps.arr.length) ∧
    (patrolling.selectBad ↑core3 ↑eng2 ↑tier4 = false) := by decide +kernel

/-- PatrolSlotsCheckTheirEntries: a state and operands that meet its hypotheses. -/
theorem witness_vectorPatrol :
    (patrolling.faults.armed = none) ∧
    (patrolling.placed ↑core3 .vector .patrol = true) ∧
    (0 < patrolling.faults.traps.vec.length) ∧
    (SMap.get (fun x ↦ 0) patrolling.faults.vecRerun ↑core3 = 0) := by decide +kernel

/-- PatrolSlotsCheckTheirEntries: a state and operands that meet its hypotheses. -/
theorem witness_vectorRerun :
    (rerunning.faults.armed = none) ∧
    (rerunning.placed ↑core3 .vector .patrol = true) ∧
    (0 < rerunning.faults.traps.vec.length) ∧
    (SMap.get (fun x ↦ 0) rerunning.faults.vecRerun ↑core3 ≠ 0) := by decide +kernel

/-- TrapSetsAreLoadedAndVerified: a state and operands that meet its hypotheses. -/
theorem witness_trapLoad :
    (regAt TRAP_CTRL_LOAD.addr = some (regOf TRAP_CTRL_LOAD.addr)) ∧
    (writeReaches busy (wr 1) TRAP_CTRL_LOAD.addr (regOf TRAP_CTRL_LOAD.addr) = true) ∧
    (wbits (wr 1).data TRAP_CTRL_LOAD = 1) ∧
    (busy.isSet TRAP_STAT_BUSY = false) := by decide +kernel

/-- TrapSetsAreLoadedAndVerified: a failed fetch, and a set of the length asked for, inside a request window. -/
theorem witness_trapFetch :
    ((trapping 4).faults.trapLoad = some (131072 - 224, 224)) ∧
    (true = ((trapping 4).dma (131072 - 224) 224 && ((trapping 4).boot.image.rings.flatMap RingPair.windows ++ (trapping 4).boot.image.weightWindows.map Prod.snd).any (fun w =>
      decide (w.1 ≤ 131072 - 224) && decide (131072 - 224 + 224 ≤ w.1 + w.2)))) ∧
    (trapGood.length = 224) := by decide +kernel

def state_trap_private : State :=
  let s := trapping 4
  { s with boot := { s.boot with image := { s.boot.image with privWindows := [(65536, 65536)] } } }
/-- TrapSetsAreLoadedAndVerified: the window is private, and DMA does not reach it. -/
theorem witness_trapPrivate :
    (state_trap_private.faults.trapLoad = some (131072 - 224, 224)) ∧
    (false = (state_trap_private.dma (131072 - 224) 224 && (state_trap_private.boot.image.rings.flatMap RingPair.windows ++ state_trap_private.boot.image.weightWindows.map Prod.snd).any (fun w =>
      decide (w.1 ≤ 131072 - 224) && decide (131072 - 224 + 224 ≤ w.1 + w.2)))) := by decide +kernel

/-- TrapSetsAreLoadedAndVerified: the set of the wrong form has the length asked for, and so has the one of a version that is not newer. -/
theorem witness_trapOld :
    ((trapping 5).faults.trapLoad = some (131072 - 224, 224)) ∧
    (true = ((trapping 5).dma (131072 - 224) 224 && ((trapping 5).boot.image.rings.flatMap RingPair.windows ++ (trapping 5).boot.image.weightWindows.map Prod.snd).any (fun w =>
      decide (w.1 ≤ 131072 - 224) && decide (131072 - 224 + 224 ≤ w.1 + w.2)))) ∧
    ((trapBytes 0).length = 224) := by decide +kernel

/-- RepairsGoStepByStep: a state and operands that meet its hypotheses. -/
theorem witness_repairFetch :
    (List.find? (fun r ↦ decide (r.logical = 0)) (repairing 0 (some repairLoad)).faults.repairs = some (repair0 0)) := by decide +kernel

/-- RepairsGoStepByStep: a state and operands that meet its hypotheses. -/
theorem witness_repairStart :
    (List.find? (fun r ↦ decide (r.logical = 0)) (repairing 0 none).faults.repairs = some (repair0 0)) ∧
    ((repair0 0).step = 0) ∧
    (∀ (l : Load), (repairing 0 none).weights.load = some l → l.repair = none) := by decide +kernel

/-- RepairsGoStepByStep: a state and operands that meet its hypotheses. -/
theorem witness_repairStaged :
    (List.find? (fun r ↦ decide (r.logical = 0)) (repairing 1 (some repairLoad)).faults.repairs = some (repair0 1)) ∧
    ((repairing 1 (some repairLoad)).weights.load = some repairLoad) ∧
    (repairLoad.repair = some 0) ∧
    (((repairing 1 (some repairLoad)).repairNeeds (repair0 1).fenced).length ≤ repairLoad.tiles.length) ∧
    ((repair0 1).step = 1) := by decide +kernel

/-- RepairsGoStepByStep: a state and operands that meet its hypotheses. -/
theorem witness_repairLoaded :
    (List.find? (fun r ↦ decide (r.logical = 0)) (repairing 2 (some repairLoad)).faults.repairs = some (repair0 2)) ∧
    ((repairing 2 (some repairLoad)).weights.load = some repairLoad) ∧
    (repairLoad.repair = some 0) ∧
    (((repairing 2 (some repairLoad)).repairNeeds (repair0 2).fenced).length ≤ repairLoad.tiles.length) ∧
    ((repair0 2).step = 2) ∧
    ((repairLoad.tiles.all fun t ↦ t.done) = true) := by decide +kernel

/-- RepairsGoStepByStep: a state and operands that meet its hypotheses. -/
theorem witness_repairCal :
    (List.find? (fun r ↦ decide (r.logical = 0)) (repairing 3 none).faults.repairs = some (repair0 3)) ∧
    ((repair0 3).step = 3) := by decide +kernel

/-- InjectionArmsItsPoint: a state and operands that meet its hypotheses. -/
theorem witness_inject :
    (regAt INJ_CTRL_ARM.addr = some (regOf INJ_CTRL_ARM.addr)) ∧
    (writeReaches (injecting 3) (wr 3) INJ_CTRL_ARM.addr (regOf INJ_CTRL_ARM.addr) = true) ∧
    (wbits (wr 3).data INJ_CTRL_ARM = 1) ∧
    ((injecting 3).fld INJ_CTRL_ENABLE = 1) ∧
    (wbits (wr 3).data INJ_CTRL_ENABLE = 1) ∧
    ((injecting 3).fld INJ_SEL_POINT ≠ 26) ∧
    ((injecting 3).fld INJ_SEL_POINT ≠ 31) := by decide +kernel

/-- InjectionArmsItsPoint: a state and operands that meet its hypotheses. -/
theorem witness_inject_off :
    (regAt INJ_CTRL_ARM.addr = some (regOf INJ_CTRL_ARM.addr)) ∧
    (writeReaches busy (wr 2) INJ_CTRL_ARM.addr (regOf INJ_CTRL_ARM.addr) = true) ∧
    (wbits (wr 2).data INJ_CTRL_ARM = 1) ∧
    (busy.fld INJ_CTRL_ENABLE = 0) ∧
    (wbits (wr 2).data INJ_CTRL_ENABLE = 0) := by decide +kernel

/-- TrapSetsAreLoadedAndVerified: a set that parses, newer than one set in force and not than another; and one of a wrong form. -/
theorem witness_trapForms : parseTraps trapGood = some trapSet5 ∧ (trapping 4).faults.traps.version < trapSet5.version ∧
    trapSet5.version ≤ (trapping 5).faults.traps.version ∧ parseTraps (trapBytes 0) = none := by decide +kernel

/-! ### Starting, resets and the stored image -/

def checksBoot : ImageChecks := ⟨true, true, true, true, true⟩
def facts0 : StartFacts := ⟨[], false, checksBoot, [], [], [], []⟩
/-- Out of service with the reset pin high; the module's endpoint does not run yet. -/
def dark : State := { busy.put SEC_STAT_RUNNING 0 with boot := { busy.boot with warm := some 1 } }
/-- Cells that hold an epoch. -/
def celled : State := busy.setTier 3 2 4 { Tier.blank with role := 1, mapped := true, epoch := 9, cells := [(5, 2)] }
def waitingClock : State := { busy.put GLB_STATE_STATE 0 with boot := { busy.boot with facts := some facts0 } }
def record0 (seq : Nat) (ack : Bool) : LogRec := ⟨1, 2, ack, seq, 0, false, 1, 1, []⟩
def logged (l : SMap LogRec) : State := { busy with boot := { busy.boot with log := l, firmware := true } }
def updating : State := { busy.put GLB_UPD_STATE 1 with boot := { busy.boot with updLen := 1028, updNext := 4, updOpen := true, store := [(3, 1), (2000, 2)] } }
def data4 : List Byte := [1, 2, 3, 255]
def len70000 : BitVec 32 := 70000

/-- ResetsEraseAllButTheCells: a state and operands that meet its hypotheses. -/
theorem witness_resets :
    (celled.pins.pwrgd = true) ∧
    (celled.therm.latched = false) := by decide +kernel

/-- StartsRunToStepOneAndOn: a state and operands that meet its hypotheses. -/
theorem witness_release_reset :
    (dark.pins.pwrgd = true) ∧
    (dark.isSet SEC_STAT_RUNNING = false) ∧
    (dark.isSet TB_STAT_REF_LOCK = false) := by decide +kernel

/-- StartsRunToStepOneAndOn: a state and operands that meet its hypotheses. -/
theorem witness_clockLock :
    (busy.isSet TB_STAT_REF_LOCK = false) ∧
    (busy.boot.facts = none) := by decide +kernel

/-- StartsRunToStepOneAndOn: a state and operands that meet its hypotheses. -/
theorem witness_clockLock_start :
    (waitingClock.isSet TB_STAT_REF_LOCK = false) ∧
    (waitingClock.boot.facts = some facts0) ∧
    (waitingClock.faults.armed = none) ∧
    (waitingClock.fld GLB_STATE_STATE ≠ 2) ∧
    (waitingClock.boot.verifyCode facts0.checks ≠ 0) := by decide +kernel

def state_clockLock_again : State :=
  busy.put TB_STAT_REF_LOCK 1
/-- StartsRunToStepOneAndOn: a state and operands that meet its hypotheses. -/
theorem witness_clockLock_again :
    (state_clockLock_again.isSet TB_STAT_REF_LOCK = true) := by decide +kernel

/-- StopRecordsAreAcknowledged: the older of two open records, outside the start. -/
theorem witness_ack :
    ((8, record0 6 false) ∈ (logged [(7, record0 5 true), (8, record0 6 false), (9, record0 7 false)]).boot.log) ∧
    (ackType (8, record0 6 false).2.type = true) ∧
    ((8, record0 6 false).2.ack = false) ∧
    ((logged [(7, record0 5 true), (8, record0 6 false), (9, record0 7 false)]).boot.firmware = true) ∧
    (∀ x ∈ (logged [(7, record0 5 true), (8, record0 6 false), (9, record0 7 false)]).boot.log, ackType x.2.type = true → x.2.ack = false → x ≠ (8, record0 6 false) → (8, record0 6 false).2.seq < x.2.seq) ∧
    ((logged [(7, record0 5 true), (8, record0 6 false), (9, record0 7 false)]).fld GLB_STATE_STATE ≠ 0 ∨ (logged [(7, record0 5 true), (8, record0 6 false), (9, record0 7 false)]).fld GLB_STATE_STEP = 2 ∧ ∃ x ∈ (logged [(7, record0 5 true), (8, record0 6 false), (9, record0 7 false)]).boot.log, x.1 ≠ (8, record0 6 false).1 ∧ ackType x.2.type = true ∧ x.2.ack = false) := 
    by and_intros <;> decide +kernel

/-- StopRecordsAreAcknowledged: a state and operands that meet its hypotheses. -/
theorem witness_ack_none :
    (∀ e ∈ (logged [(7, record0 5 true)]).boot.log, ackType e.2.type = true → e.2.ack = true) := by decide +kernel

def state_imgBegin : State :=
  { busy.put GLB_STATE_STEP 2 with boot := updating.boot }
/-- ImagesAreWrittenAndVerified: a state and operands that meet its hypotheses. -/
theorem witness_imgBegin :
    (state_imgBegin.isSet SEC_STAT_RUNNING = true) ∧
    (len70000.toNat ≤ 234881024) ∧
    (2 ≤ state_imgBegin.fld GLB_STATE_STEP ∨ state_imgBegin.fld GLB_STATE_STATE = 2) := by decide +kernel

def state_imgBegin_early : State :=
  busy.put GLB_STATE_STEP 1
/-- ImagesAreWrittenAndVerified: a state and operands that meet its hypotheses. -/
theorem witness_imgBegin_early :
    (state_imgBegin_early.isSet SEC_STAT_RUNNING = true) ∧
    (len70000.toNat ≤ 234881024) ∧
    (state_imgBegin_early.fld GLB_STATE_STEP < 2) ∧
    (state_imgBegin_early.fld GLB_STATE_STATE ≠ 2) := by decide +kernel

/-- ImagesAreWrittenAndVerified: at the end of the image, and before the last end. -/
theorem witness_imgData :
    (updating.isSet SEC_STAT_RUNNING = true) ∧
    (updating.fld GLB_UPD_STATE = 1) ∧
    (4 ≤ data4.length) ∧
    (data4.length ≤ 1024) ∧
    (updating.boot.updNext ≤ 1024) ∧
    (1024 + data4.length ≤ updating.boot.updLen) := by decide +kernel

/-- ImagesAreWrittenAndVerified: a state and operands that meet its hypotheses. -/
theorem witness_imgData_low :
    (updating.isSet SEC_STAT_RUNNING = true) ∧
    (updating.fld GLB_UPD_STATE = 1) ∧
    (3 < updating.boot.updNext) := by decide +kernel

/-- ImagesAreWrittenAndVerified: a state and operands that meet its hypotheses. -/
theorem witness_imgEnd :
    (updating.isSet SEC_STAT_RUNNING = true) ∧
    (updating.fld GLB_UPD_STATE = 1) := by decide +kernel

/-- ImagesAreWrittenAndVerified: a state and operands that meet its hypotheses. -/
theorem witness_imgVerify :
    (updating.isSet SEC_STAT_RUNNING = true) ∧
    (updating.faults.armed = none) := by decide +kernel

/-- A log entry's bytes: magic word, type, cause, ACK, sequence number; an acknowledgement changes the ACK byte alone, and the CRC
is taken with that byte as erased (R429). -/
theorem test_logRec_bytes : (record0 6 false).bytes.take 16 = [0x54, 0x51, 0x45, 0x4C, 1, 2, 0xFF, 0, 6, 0, 0, 0, 0, 0, 0, 0] ∧
    (record0 6 true).bytes.take 252 = ((record0 6 false).bytes.take 252).set 6 0 ∧
    (record0 6 true).body 0xFF = (record0 6 false).body 0xFF := by decide +kernel

/-! ### Retrieval -/

def rtvRing : RingPair := ⟨0, 4096, 16, 8192, 8, 0, 0, 17, [(65536, 65536)], 4, 2, 32000⟩
def corpusTile0 : CorpusTile := ⟨3, 2, 0, 2, 0⟩
def corpus0 : Corpus := ⟨2, 0, 4, false, false, [corpusTile0], 0⟩
def fin2 : Fin 16 := 2
def varQ : Variant := { var0 with passes := [(2, 1)] }
/-- A corpus of two vectors in force at epoch 5, in a corpus tier. -/
def retrieving : State :=
  let s := ((busy.put RQT_CTRL_INTAKE_EN 1).put SEC_STAT_UNSEALED 1).setTier 3 2 4 { Tier.blank with role := 4, mapped := true, epoch := 5, tile := some 0 }
  { s with boot := { s.boot with image := { image0 with rings := [rtvRing], corpora := [corpus0], variants := [varQ] } },
           rtv := { s.rtv with epoch := [(2, 5)] } }
/-- A query of corpus `c` for up to four hits at 65,536 and 68,096, its result at 69,632. -/
def rawQuery (c k : Nat) : List Byte :=
  [6, 1] ++ leBytes 1 c ++ [0] ++ leBytes 2 k ++ [0, 0] ++ leBytes 8 99 ++ leBytes 4 0 ++ leBytes 4 0 ++ leBytes 6 0 ++ [0, 0] ++
    leBytes 8 65536 ++ leBytes 8 0 ++ leBytes 8 69632 ++ leBytes 4 64 ++ leBytes 4 2 ++ List.replicate 64 0
def queryOk : QueryFetch := ⟨true, List.replicate 1056 0, []⟩
def query0 : Query := ⟨99, true, false, false, 2, 1, 0, 0, 69632, 2, queryGroups (List.replicate 1056 0), [], none, 0, 0⟩
def query5 : Query := { query0 with epoch := some 5 }
def query4 : Query := { query0 with voids := 4 }
def pass0 : Pass := ⟨2, query5, [(0, 0x3F800000), (1, 0x80000001)], false, 0, 0, 0, none⟩
def pass1 : Pass := { pass0 with round := 1, lo := 0x80000000, hi := 0xBF800000 }
def queued (q : Query) : State := { retrieving with rtv := { retrieving.rtv with queue := [q] } }
def passing (p : Pass) : State := { retrieving with rtv := { retrieving.rtv with passes := [p] } }
def fullQueue : State := { retrieving with rtv := { retrieving.rtv with queue := List.replicate 256 query0 } }
def unscored : State := { queued query0 with rtv := { (queued query0).rtv with queue := (queued query0).rtv.queue.erase query0 } }
def scored : State × TileScores := unscored.scoreTile corpus0 corpusTile0 query5 5 false []
theorem scored_eta : unscored.scoreTile corpus0 corpusTile0 query5 5 false [] = (scored.1, scored.2) := by
  unfold scored
  generalize unscored.scoreTile corpus0 corpusTile0 query5 5 false [] = x
  rfl
def flipping (r : Nat) : State := retrieving.setTier 3 2 5 { Tier.blank with role := r, mapped := true, epoch := 6, tile := some 0 }

def state_query_closed : State :=
  retrieving.put RQT_CTRL_INTAKE_EN 0
/-- QueriesAreQueuedOrRefused: a state and operands that meet its hypotheses. -/
theorem witness_query_closed :
    (state_query_closed.ring = some rtvRing) ∧
    (state_query_closed.isSet RQT_CTRL_INTAKE_EN = false) := by decide +kernel

/-- QueriesAreQueuedOrRefused: a state and operands that meet its hypotheses. -/
theorem witness_query_unknown :
    (retrieving.ring = some rtvRing) ∧
    (retrieving.isSet RQT_CTRL_INTAKE_EN = true) ∧
    (retrieving.isSet SEC_STAT_UNSEALED = true) ∧
    (retrieving.isSet GLB_STATE_STANDBY = false) ∧
    (retrieving.admitted = true) ∧
    (retrieving.corpus? (recByte (rawQuery 3 1) 2) = none) := by decide +kernel

/-- QueriesAreQueuedOrRefused: a state and operands that meet its hypotheses. -/
theorem witness_query_form :
    (retrieving.ring = some rtvRing) ∧
    (retrieving.isSet RQT_CTRL_INTAKE_EN = true) ∧
    (retrieving.isSet SEC_STAT_UNSEALED = true) ∧
    (retrieving.isSet GLB_STATE_STANDBY = false) ∧
    (retrieving.admitted = true) ∧
    (retrieving.corpus? (recByte (rawQuery 2 0) 2) = some corpus0) ∧
    (retrieving.corpusEpoch (recByte (rawQuery 2 0) 2) ≠ 0) ∧
    (corpus0.region ≠ rtvRing.region ∨ queryForm (rawQuery 2 0) corpus0 = false) := by decide +kernel

def corpusB : Corpus := { corpus0 with region := 1 }
def state_query_region : State :=
  { retrieving with boot := { retrieving.boot with image := { retrieving.boot.image with corpora := [corpusB] } } }
/-- QueriesAreQueuedOrRefused: a well-formed query of a corpus of another region. -/
theorem witness_query_region :
    (state_query_region.ring = some rtvRing) ∧
    (state_query_region.isSet RQT_CTRL_INTAKE_EN = true) ∧
    (state_query_region.isSet SEC_STAT_UNSEALED = true) ∧
    (state_query_region.isSet GLB_STATE_STANDBY = false) ∧
    (state_query_region.admitted = true) ∧
    (state_query_region.corpus? (recByte (rawQuery 2 1) 2) = some corpusB) ∧
    (state_query_region.corpusEpoch (recByte (rawQuery 2 1) 2) ≠ 0) ∧
    (corpusB.region ≠ rtvRing.region ∨ queryForm (rawQuery 2 1) corpusB = false) := by decide +kernel

/-- QueriesAreQueuedOrRefused: a state and operands that meet its hypotheses. -/
theorem witness_query_full :
    (fullQueue.ring = some rtvRing) ∧
    (fullQueue.isSet RQT_CTRL_INTAKE_EN = true) ∧
    (fullQueue.isSet SEC_STAT_UNSEALED = true) ∧
    (fullQueue.isSet GLB_STATE_STANDBY = false) ∧
    (fullQueue.admitted = true) ∧
    (fullQueue.corpus? (recByte (rawQuery 2 1) 2) = some corpus0) ∧
    (fullQueue.corpusEpoch (recByte (rawQuery 2 1) 2) ≠ 0) ∧
    (corpus0.region = rtvRing.region) ∧
    (queryForm (rawQuery 2 1) corpus0 = true) ∧
    (256 ≤ fullQueue.rtv.queue.length) := by decide +kernel

/-- QueriesAreQueuedOrRefused: a state and operands that meet its hypotheses. -/
theorem witness_query :
    (retrieving.ring = some rtvRing) ∧
    (retrieving.checkQuery (rawQuery 2 1) queryOk rtvRing = Sum.inr query0) := by decide +kernel

/-- QueriesAreQueuedOrRefused: the corpus's number in the low bits, REQ in bit 31. -/
theorem witness_rtvFlip :
    (regAt RTV_FLIP_REQ.addr = some (regOf RTV_FLIP_REQ.addr)) ∧
    (writeReaches (flipping 3) (wr 2147483650) RTV_FLIP_REQ.addr (regOf RTV_FLIP_REQ.addr) = true) ∧
    (wbits (wr 2147483650).data RTV_FLIP_REQ = 1) ∧
    ((flipping 3).corpus? (wbits (wr 2147483650).data RTV_FLIP_CORPUS) = some corpus0) ∧
    ((flipping 3).corpusReady corpus0 = true) ∧
    ((flipping 3).corpusRole corpus0 2 = []) ∧
    (∀ x ∈ (flipping 3).rtv.flips, x.1 ≠ wbits (wr 2147483650).data RTV_FLIP_CORPUS) := by decide +kernel

/-- QueriesAreQueuedOrRefused: a state and operands that meet its hypotheses. -/
theorem witness_rtvFlip_no :
    (regAt RTV_FLIP_REQ.addr = some (regOf RTV_FLIP_REQ.addr)) ∧
    (writeReaches retrieving (wr 2147483651) RTV_FLIP_REQ.addr (regOf RTV_FLIP_REQ.addr) = true) ∧
    (wbits (wr 2147483651).data RTV_FLIP_REQ = 1) ∧
    (retrieving.corpus? (wbits (wr 2147483651).data RTV_FLIP_CORPUS) = none ∨ ∃ c, retrieving.corpus? (wbits (wr 2147483651).data RTV_FLIP_CORPUS) = some c ∧ retrieving.corpusReady c = false) := by decide +kernel

/-- PassesScoreSearchAndFinish: a state and operands that meet its hypotheses. -/
theorem witness_pass_void :
    ((queued query0).sched.running = true) ∧
    ((queued query0).corpus? ↑fin2 = some corpus0) ∧
    (List.find? (fun q ↦ decide (q.corpus = ↑fin2)) (queued query0).rtv.queue = some query0) ∧
    ((queued query0).corpusEpoch ↑fin2 ≠ 0) ∧
    ((Option.map (fun v ↦ v.passesOf ↑fin2) (queued query0).inVar).getD 0 ≠ 0) ∧
    (((queued query0).rtv.passes.any fun p ↦ decide (p.corpus = ↑fin2)) = false) ∧
    (query0.voids < 4) := by decide +kernel

/-- PassesScoreSearchAndFinish: a state and operands that meet its hypotheses. -/
theorem witness_pass_void5 :
    ((queued query4).sched.running = true) ∧
    ((queued query4).corpus? ↑fin2 = some corpus0) ∧
    (List.find? (fun q ↦ decide (q.corpus = ↑fin2)) (queued query4).rtv.queue = some query4) ∧
    ((queued query4).corpusEpoch ↑fin2 ≠ 0) ∧
    ((Option.map (fun v ↦ v.passesOf ↑fin2) (queued query4).inVar).getD 0 ≠ 0) ∧
    (((queued query4).rtv.passes.any fun p ↦ decide (p.corpus = ↑fin2)) = false) ∧
    (4 ≤ query4.voids) := by decide +kernel

/-- PassesScoreSearchAndFinish: a state and operands that meet its hypotheses. -/
theorem witness_pass :
    ((queued query0).sched.running = true) ∧
    ((queued query0).corpus? ↑fin2 = some corpus0) ∧
    (List.find? (fun q ↦ decide (q.corpus = ↑fin2)) (queued query0).rtv.queue = some query0) ∧
    ((queued query0).corpusEpoch ↑fin2 ≠ 0) ∧
    ((Option.map (fun v ↦ v.passesOf ↑fin2) (queued query0).inVar).getD 0 ≠ 0) ∧
    (((queued query0).rtv.passes.any fun p ↦ decide (p.corpus = ↑fin2)) = false) ∧
    (corpus0.tiles = [corpusTile0]) ∧
    (5 = query0.epoch.getD ((queued query0).corpusEpoch ↑fin2)) ∧
    (query0.topK = true) ∧
    (unscored.scoreTile corpus0 corpusTile0 query5 5 false [] = (scored.1, scored.2)) ∧
    (scored.2.bad = false) := 
    by and_intros <;> first | with_reducible exact scored_eta | decide +kernel

/-- PassesScoreSearchAndFinish: a state and operands that meet its hypotheses. -/
theorem witness_search :
    ((passing pass1).sched.running = true) ∧
    (List.find? (fun p ↦ decide (p.corpus = ↑fin2)) (passing pass1).rtv.passes = some pass1) ∧
    (pass1.round ≠ 0) ∧
    (pass1.lo + 4 ≤ pass1.hi) := by decide +kernel

/-- PassesScoreSearchAndFinish: a state and operands that meet its hypotheses. -/
theorem witness_search_done :
    ((passing pass0).sched.running = true) ∧
    (List.find? (fun p ↦ decide (p.corpus = ↑fin2)) (passing pass0).rtv.passes = some pass0) ∧
    (pass0.round = 0) ∧
    (List.countP (fun k ↦ decide (orderKey (plusZero pass0.query.thresh) < k)) pass0.keys ≤ pass0.query.k) ∧
    ((passing pass0).rtv.bufLost = false) := by decide +kernel

/-! ### Power, heat and connectors -/

def sens0 : ThermSensor := ThermSensor.init
def sensAt (d : Int) : ThermSensor := { sens0 with last := some (d * 256) }
/-- The thermal and power controllers run, sensor 0 as given, two admitted variants. -/
def heated (x : ThermSensor) (f : Thermal → Thermal) : State :=
  let s := (((busy.put THM_STAT_RUNNING 1).put PWR_STAT_RUNNING 1).put TB_VAR_ADMIT_ADMITTED 3).setTherm 0 x
  { s with therm := f s.therm,
           boot := { s.boot with logNext := 5, image := { image0 with variants := [var0, { var0 with num := 1, rate := 25 }] } } }
def keepT (x : Thermal) : Thermal := x
def s0 : Fin 88 := 0
def c0 : Fin 64 := 0
def c1 : Fin 64 := 1
def c63 : Fin 64 := 63
def hotFlag (x : Thermal) : Thermal := { x with heat := true, heatWait := some 0, cool2 := 8 }
def capOver8 (x : Thermal) : Thermal := { x with capOver := 8 }
def hotRod (x : Thermal) : Thermal := { x with hotSince := some 0 }
def slowed (x : Thermal) : Thermal := { x with divided := true, cool3 := 8 }
def slowed7 (x : Thermal) : Thermal := { x with divided := true, cool3 := 7 }
def shutOff (x : Thermal) : Thermal := { x with off := true, latched := true }
def readLow : BitVec 16 := 0xEC00
def read40 : BitVec 16 := 0x2800
def read116 : BitVec 16 := 0x7400
def withPins (m i : Bool) (f : Thermal → Thermal) : State :=
  { heated sens0 f with pins := { (heated sens0 f).pins with mateN := m, inputOn := i } }
def addr9 : BitVec 7 := 9

/-- SensorReadingsAreJudged: −20 °C on the first reading, where nothing is to compare with. -/
theorem witness_reading :
    ((heated sens0 keepT).isSet THM_STAT_RUNNING = true) ∧
    ((heated sens0 keepT).faults.armed = none) ∧
    (((heated sens0 keepT).therm? ↑s0).stuck = none) ∧
    (((heated sens0 keepT).takeReading (↑s0) readLow.toInt false).standingCauses = []) := by decide +kernel

def state_reading_ignored : State :=
  heated { sensAt 51 with ignored := 3 } keepT
/-- SensorReadingsAreJudged: 116 °C. -/
theorem witness_reading_shut :
    ((heated (sensAt 114) keepT).isSet THM_STAT_RUNNING = true) ∧
    ((heated (sensAt 114) keepT).faults.armed = none) ∧
    (((heated (sensAt 114) keepT).therm? ↑s0).stuck = none) ∧
    (((heated (sensAt 114) keepT).takeReading (↑s0) read116.toInt false).standingCauses ≠ []) := by decide +kernel

def state_sensorRestore : State :=
  heated { sensAt 40 with ignored := 2, good := 8 } keepT
/-- SensorReadingsAreJudged: a state and operands that meet its hypotheses. -/
theorem witness_sensorRestore :
    ((state_sensorRestore.therm? ↑s0).ignored ≠ 0) ∧
    (8 ≤ (state_sensorRestore.therm? ↑s0).good) ∧
    ((state_sensorRestore.setTherm s0 { state_sensorRestore.therm? s0 with ignored := 0, good := 0, disagree := 0 }).standingCauses = []) := by decide +kernel

def state_sensorRestore_early : State :=
  heated { sensAt 40 with ignored := 2, good := 7 } keepT
/-- SensorReadingsAreJudged: a state and operands that meet its hypotheses. -/
theorem witness_sensorRestore_early :
    ((state_sensorRestore_early.therm? ↑s0).good < 8) := by decide +kernel

/-- HeatAndPowerAskForLowerRates: a state and operands that meet its hypotheses. -/
theorem witness_heatAgain :
    (((heated (sensAt 106) hotFlag).sched.switches.any fun w ↦ decide (w.var = 1 % 8)) = false) ∧
    ({ kind := 2, group := (heated (sensAt 106) hotFlag).self.1, module := (heated (sensAt 106) hotFlag).self.2, mile := (heated (sensAt 106) hotFlag).datedMile % 65536, data := 1 % 8 } ∉ (heated (sensAt 106) hotFlag).fab.seen) ∧
    ((heated (sensAt 106) hotFlag).therm.heat = true) ∧
    ((heated (sensAt 106) hotFlag).therm.heatWait = some 0) ∧
    ((heated (sensAt 106) hotFlag).level2Now = true) ∧
    ((heated (sensAt 106) hotFlag).therm.heatVar = some 1 ∨ (heated (sensAt 106) hotFlag).therm.heatVar = none ∧ (heated (sensAt 106) hotFlag).nextLower = some 1) := by decide +kernel

/-- HeatAndPowerAskForLowerRates: a state and operands that meet its hypotheses. -/
theorem witness_cap :
    (((heated sens0 capOver8).sched.switches.any fun w ↦ decide (w.var = 1 % 8)) = false) ∧
    ({ kind := 2, group := (heated sens0 capOver8).self.1, module := (heated sens0 capOver8).self.2, mile := (heated sens0 capOver8).datedMile % 65536, data := 1 % 8 } ∉ (heated sens0 capOver8).fab.seen) ∧
    (8 ≤ (heated sens0 capOver8).therm.capOver) ∧
    ((heated sens0 capOver8).nextLower = some 1) ∧
    ((heated sens0 capOver8).therm.capWait = none ∨ (heated sens0 capOver8).therm.capWait = some 0) := by decide +kernel

/-- HeatAndPowerAskForLowerRates: a state and operands that meet its hypotheses. -/
theorem witness_cap_early :
    ((heated sens0 keepT).therm.capOver < 8 ∨ ∃ n, (heated sens0 keepT).therm.capWait = some (n + 1)) := Or.inl (by decide +kernel)

/-- HeatAndPowerAskForLowerRates: a state and operands that meet its hypotheses. -/
theorem witness_heatClear :
    ((heated sens0 hotFlag).therm.heat = true) ∧
    (8 ≤ (heated sens0 hotFlag).therm.cool2) := by decide +kernel

/-- HeatAndPowerAskForLowerRates: a state and operands that meet its hypotheses. -/
theorem witness_heatClear_early :
    ((heated sens0 keepT).therm.cool2 < 8) := by decide +kernel

/-- HeatAndPowerAskForLowerRates: a state and operands that meet its hypotheses. -/
theorem witness_heatAgain_no :
    ((heated sens0 keepT).therm.heatWait ≠ some 0) := by decide +kernel

def state_divide : State :=
  { heated (sensAt 110) hotRod with sec := { busy.sec with clockRods := 1 } }
/-- TheClockDividesAndReturns: a state and operands that meet its hypotheses. -/
theorem witness_divide :
    (state_divide.isSet THM_STAT_RUNNING = true) ∧
    (state_divide.therm.divided = false) ∧
    ((∃ r, state_divide.therm.hotSince = some r ∧ r + 1 ≤ state_divide.sec.clockRods) ∨ state_divide.noDieSensor = true ∨ state_divide.therm.inputLow = true) := by decide +kernel

/-- TheClockDividesAndReturns: a state and operands that meet its hypotheses. -/
theorem witness_divide_no :
    ((heated sens0 keepT).isSet THM_STAT_RUNNING = true) ∧
    ((heated sens0 keepT).therm.divided = false) ∧
    (∀ (r : ℕ), (heated sens0 keepT).therm.hotSince = some r → (heated sens0 keepT).sec.clockRods < r + 1) ∧
    ((heated sens0 keepT).noDieSensor = false) ∧
    ((heated sens0 keepT).therm.inputLow = false) := 
    by and_intros <;> first | exact (fun r h => nomatch (show none = some r from h)) | decide +kernel

/-- TheClockDividesAndReturns: a state and operands that meet its hypotheses. -/
theorem witness_clockRestore :
    ((heated sens0 slowed).therm.divided = true) ∧
    (8 ≤ (heated sens0 slowed).therm.cool3) ∧
    ((heated sens0 slowed).fld GLB_STATE_STATE ≠ 2) := by decide +kernel

/-- TheClockDividesAndReturns: a state and operands that meet its hypotheses. -/
theorem witness_clockRestore_early :
    ((heated sens0 slowed7).therm.cool3 < 8 ∨ (heated sens0 slowed7).fld GLB_STATE_STATE = 2) := by decide +kernel

/-- ShutdownsAreRecorded: a state and operands that meet its hypotheses. -/
theorem witness_trip :
    ((heated sens0 keepT).isSet THM_STAT_RUNNING = true) ∧
    (∃ o ∈ [c1], ↑o ∈ gridNeighbours ↑c0) := by decide +kernel

/-- ShutdownsAreRecorded: a state and operands that meet its hypotheses. -/
theorem witness_trip_alone :
    ((heated (sensAt 109) keepT).isSet THM_STAT_RUNNING = true) ∧
    (∀ o ∈ [c63], ↑o ∉ gridNeighbours ↑c0) ∧
    (((heated (sensAt 109) keepT).therm? ↑c0).last = some 27904) ∧
    (27904 < deg 110) ∧
    (((heated (sensAt 109) keepT).therm? ↑c0).ignored = 0) ∧
    (((heated (sensAt 109) keepT).setTherm (↑c0) (((heated (sensAt 109) keepT).therm? ↑c0).fail 3)).standingCauses = []) := by decide +kernel

/-- ShutdownsAreRecorded: a state and operands that meet its hypotheses. -/
theorem witness_voltage_low :
    ((heated sens0 keepT).standingCauses = []) ∧
    ((heated sens0 keepT).isSet PWR_STAT_RUNNING = true) ∧
    (49999 < 50000 ∨ 64000 < 49999) := by decide +kernel

/-- ShutdownsAreRecorded: a state and operands that meet its hypotheses. -/
theorem witness_voltage_high :
    ((heated sens0 keepT).standingCauses = []) ∧
    ((heated sens0 keepT).isSet PWR_STAT_RUNNING = true) ∧
    (64001 < 50000 ∨ 64000 < 64001) := by decide +kernel

/-- ShutdownsAreRecorded: a state and operands that meet its hypotheses. -/
theorem witness_current :
    ((heated sens0 keepT).standingCauses = []) ∧
    ((heated sens0 keepT).isSet PWR_STAT_RUNNING = true) ∧
    (3200 < 3201) := by decide +kernel

/-- ShutdownsAreRecorded: a state and operands that meet its hypotheses. -/
theorem witness_regulator :
    ((heated sens0 keepT).standingCauses = []) ∧
    ((heated sens0 keepT).isSet PWR_STAT_RUNNING = true) := by decide +kernel

/-- ShutdownsAreRecorded: a state and operands that meet its hypotheses. -/
theorem witness_powerOff :
    ((heated sens0 keepT).standingCauses = []) ∧
    ((heated sens0 keepT).isSet SEC_STAT_RUNNING = true) := by decide +kernel

/-- ShutdownsAreRecorded: a state and operands that meet its hypotheses. -/
theorem witness_voltage_in :
    (50000 ≤ 50000) ∧
    (50000 ≤ 64000) := by decide +kernel

/-- PowerComesOnAndTheInputIsWatched: a state and operands that meet its hypotheses. -/
theorem witness_inputEnable :
    ((withPins false false keepT).pins.mateN = false) ∧
    ((withPins false false keepT).pins.inputOn = false) := by decide +kernel

/-- PowerComesOnAndTheInputIsWatched: a state and operands that meet its hypotheses. -/
theorem witness_inputEnable_no :
    ((withPins true false keepT).pins.mateN = true) := by decide +kernel

/-- PowerComesOnAndTheInputIsWatched: a state and operands that meet its hypotheses. -/
theorem witness_reapply :
    ((withPins false false shutOff).therm.off = true) ∧
    ((withPins false false shutOff).pins.mateN = false) := by decide +kernel

/-- PowerComesOnAndTheInputIsWatched: a state and operands that meet its hypotheses. -/
theorem witness_input :
    ((heated sens0 keepT).isSet PWR_STAT_RUNNING = true) ∧
    (53999 < 65536) := by decide +kernel

def state_capRaise : State :=
  (heated sens0 keepT).put PWR_CAP_CAP 13999
/-- ManagementAndHostLinkAct: a state and operands that meet its hypotheses. -/
theorem witness_capRaise :
    (state_capRaise.isSet SEC_STAT_RUNNING = true) ∧
    (state_capRaise.inForceAt 0 PWR_CAP_CAP < 14000) ∧
    (14000 ≤ 14000) := by decide +kernel

/-- ManagementAndHostLinkAct: a state and operands that meet its hypotheses. -/
theorem witness_capRaise_not :
    ((heated sens0 keepT).isSet SEC_STAT_RUNNING = true) ∧
    (14000 ≤ (heated sens0 keepT).inForceAt 0 PWR_CAP_CAP ∨ 14000 < 14000) := by decide +kernel

def state_eventFetch : State :=
  { heated sens0 keepT with mgmt := ⟨[.level 1, .coordinates], true, none⟩ }
/-- ManagementAndHostLinkAct: a state and operands that meet its hypotheses. -/
theorem witness_eventFetch :
    (state_eventFetch.isSet SEC_STAT_RUNNING = true) ∧
    (state_eventFetch.mgmt.events = [PldmEvent.level 1, PldmEvent.coordinates]) := by decide +kernel

/-- ManagementAndHostLinkAct: a state and operands that meet its hypotheses. -/
theorem witness_address :
    ((heated sens0 keepT).isSet SEC_STAT_RUNNING = true) := by decide +kernel

def state_hostLink : State :=
  (heated sens0 keepT).put GLB_STATE_STEP 5
/-- ManagementAndHostLinkAct: a state and operands that meet its hypotheses. -/
theorem witness_hostLink :
    (state_hostLink.hostLink ≠ { up := true, gen := 5, width := 16 }) ∧
    (5 ≤ state_hostLink.fld GLB_STATE_STEP) ∧
    (state_hostLink.isSet TB_STAT_TIME_FAIL = false ∨ state_hostLink.isSet TB_STAT_COUNT_VALID = true) := by decide +kernel

def state_hostLink_down : State :=
  { (heated sens0 keepT).put GLB_STATE_STEP 5 with hostLink := ⟨true, 5, 16⟩ }
/-- ManagementAndHostLinkAct: a state and operands that meet its hypotheses. -/
theorem witness_hostLink_down :
    (state_hostLink_down.hostLink ≠ { up := false, gen := 0, width := 0 }) ∧
    (5 ≤ state_hostLink_down.fld GLB_STATE_STEP) := by decide +kernel

def state_hostLink_same : State :=
  { heated sens0 keepT with hostLink := ⟨true, 5, 16⟩ }
/-- ManagementAndHostLinkAct: a state and operands that meet its hypotheses. -/
theorem witness_hostLink_same :
    (state_hostLink_same.hostLink = { up := true, gen := 5, width := 16 }) := by decide +kernel

/-! ### The machine as a whole -/

/-- StepRunsTheFrontCommand: a state whose queue is empty. -/
theorem witness_idle : State.reset.pending = [] := by decide +kernel
/-- EveryStepCompletesAndKeepsTheInvariant: a state that no reset leaves, with a command in front. -/
def state_sound : State := { busy with pending := [.mileBoundary] }
theorem witness_inv : state_sound.Inv :=
  ⟨⟨by decide +kernel, by decide +kernel, by decide +kernel, by decide +kernel⟩, by decide +kernel⟩

end Sys2Proof.Tests
end

section
/-! Every meaning answers a next state, every step keeps the invariant, and the queue loses its front command (O60). -/
namespace Sys2Proof.Machine

/-! ### Completion -/

/-- A meaning answers a next state, no fault and no refusal. -/
def Completes (o : Host.Outcome State Fault Refusal) : Prop := ∃ t, o = .next t

theorem Completes.next (t : State) : Completes (.next t) := ⟨t, rfl⟩

theorem Completes.ite {c : Prop} [Decidable c] {a b : Host.Outcome State Fault Refusal} (ha : Completes a)
    (hb : Completes b) : Completes (if c then a else b) := by
  split
  · exact ha
  · exact hb

theorem Completes.dite {c : Prop} [Decidable c] {a : c → Host.Outcome State Fault Refusal}
    {b : Host.Outcome State Fault Refusal} (ha : ∀ h, Completes (a h)) (hb : Completes b) :
    Completes (if h : c then a h else b) := by
  split
  · exact ha _
  · exact hb

theorem execInputStaging_completes (core : CoreId) (eng : EngId) (input : StageIn) (s : State) :
    Completes (execInputStaging core eng input s) := by
  unfold execInputStaging
  extract_lets
  split
  · exact .next _
  · exact .ite (.next _) (.next _)

theorem execEngineBeat_completes (issue : Issue) (eng : EngId) (outAddr window windowIssue : Nat) (residueUpset : Bool)
    (trims : List TrimAt) (s : State) :
    Completes (execEngineBeat issue eng outAddr window windowIssue residueUpset trims s) := by
  unfold execEngineBeat
  refine .ite (.next _) ?_
  split
  · exact .next _
  · extract_lets
    split
    · exact .next _
    · exact .ite (.next _) (.ite (.next _) (.ite (.next _) (.ite (.next _) (.next _))))

theorem execMergeDeadline_completes (core : CoreId) (eng : EngId) (tile inst : Nat) (row : Fin 32) (s : State) :
    Completes (execMergeDeadline core eng tile inst row s) := by
  unfold execMergeDeadline
  split
  · exact .next _
  · exact .ite (.next _) (.next _)

theorem execRepeatWindow_completes (core : CoreId) (eng : EngId) (window windowIssue nextWindow nextIssue : Nat)
    (residueUpset : Bool) (trims : List TrimAt) (s : State) :
    Completes (execRepeatWindow core eng window windowIssue nextWindow nextIssue residueUpset trims s) := by
  unfold execRepeatWindow
  extract_lets
  split
  · exact .next _
  · refine .ite (.next _) ?_
    refine .ite (.next _) ?_
    refine .ite (.next _) ?_
    split <;> exact .next _

theorem execPrecisionSumComplete_completes (s : State) : Completes (execPrecisionSumComplete s) := by
  unfold execPrecisionSumComplete
  split
  · exact .next _
  · refine .ite (.next _) ?_
    split
    · exact .next _
    · exact .ite (.next _) (.next _)

theorem execCalibrationSlot_completes (core : CoreId) (eng : EngId) (residueUpset : Bool) (s : State) :
    Completes (execCalibrationSlot core eng residueUpset s) := by
  unfold execCalibrationSlot
  split
  · exact .next _
  · extract_lets s1
    clear_value s1
    split
    · exact .next _
    · extract_lets mine
      split
      split <;> exact .next _
    · extract_lets s2 pos
      clear_value s2
      split
      split
      · exact .next _
      · exact .ite (.next _) (.next _)

theorem execFirstPass_completes (s : State) : Completes (execFirstPass s) := by
  unfold execFirstPass
  exact .ite (.next _) (.next _)

theorem execMatrixOp_completes (issue : Issue) (op : MatOp) (ecc : Upsets) (residueUpset : Bool) (s : State) :
    Completes (execMatrixOp issue op ecc residueUpset s) := by
  unfold execMatrixOp
  refine .ite (.next _) ?_
  split
  split <;> exact .next _

theorem execVectorOp_completes (issue : Issue) (op : VecOp) (ecc : Upsets) (s : State) :
    Completes (execVectorOp issue op ecc s) := by
  unfold execVectorOp
  refine .ite (.next _) ?_
  split
  split
  · exact .next _
  · extract_lets
    split
    · exact .next _
    · exact .next _
    · exact .next _
    · exact .next _
    · exact .next _
    · extract_lets
      split <;> exact .next _
    · exact .next _
    · extract_lets
      split <;> exact .next _

theorem execStackRead_completes (issue : Issue) (addr lines dst : Nat) (ecc : Upsets) (retries : Nat) (late : Bool)
    (s : State) :
    Completes (execStackRead issue addr lines dst ecc retries late s) := by
  unfold execStackRead
  refine .ite (.next _) ?_
  split
  split
  · exact .next _
  · exact .ite (.next _) (.ite (.next _) (.next _))

theorem execStackWrite_completes (issue : Issue) (src lines addr : Nat) (ecc : Upsets) (s : State) :
    Completes (execStackWrite issue src lines addr ecc s) := by
  unfold execStackWrite
  refine .ite (.next _) ?_
  split
  split
  · exact .next _
  · exact .ite (.next _) (.next _)

theorem execPageWalk_completes (issue : Issue) (slot loc pos : Nat) (row : Fin 32) (eccDir eccLeaf : Upsets) (s : State) :
    Completes (execPageWalk issue slot loc pos row eccDir eccLeaf s) := by
  unfold execPageWalk
  refine .ite (.next _) ?_
  split
  split <;> exact .next _

theorem execFurlongBoundary_completes (s : State) : Completes (execFurlongBoundary s) := by
  unfold execFurlongBoundary
  split
  · exact .next _
  · extract_lets s1 s2 s3 s4 s5
    clear_value s5
    exact .next _

theorem execMileBoundary_completes (s : State) : Completes (execMileBoundary s) := by
  unfold execMileBoundary
  exact .ite (.next _) (.next _)

theorem execFmarkPulse_completes (high : Nat) (offset : Int) (s : State) : Completes (execFmarkPulse high offset s) := by
  unfold execFmarkPulse
  exact .ite (.next _) (.ite (.next _) (.ite (.next _) (.ite (.next _) (.ite (.next _) (.next _)))))

theorem execMeshTransfer_completes (issue : Issue) (flow : Nat) (send : Send) (ecc : Upsets) (s : State) :
    Completes (execMeshTransfer issue flow send ecc s) := by
  unfold execMeshTransfer
  refine .ite (.next _) ?_
  split
  · exact .next _
  · extract_lets
    split
    split
    · exact .next _
    · split <;> exact .next _

theorem execBroadcast_completes (issue : Issue) (column : Bool) (send : Send) (recv : List BusRecv) (ecc : Upsets) (s : State) :
    Completes (execBroadcast issue column send recv ecc s) := by
  unfold execBroadcast
  refine .ite (.next _) ?_
  extract_lets
  split
  split <;> exact .next _

theorem execFrameSend_completes (issue : Issue) (port : LaneId) (dstGroup dstMod dstRegion : Nat) (send : Send)
    (ecc : Upsets) (s : State) :
    Completes (execFrameSend issue port dstGroup dstMod dstRegion send ecc s) := by
  unfold execFrameSend
  refine .ite (.next _) ?_
  extract_lets
  split
  split
  · exact .next _
  · extract_lets
    split <;> exact .next _

theorem execDataFrame_completes (port : LaneId) (rx : FrameRx) (hdr : FrameHdr) (units : List (List Byte))
    (slot : Option RecvSlot) (table : Option (List TableMsg)) (s : State) :
    Completes (execDataFrame port rx hdr units slot table s) := by
  unfold execDataFrame
  refine .ite (.next _) ?_
  refine .ite (.next _) ?_
  refine .ite (.next _) ?_
  refine .ite (.next _) ?_
  refine .ite (.next _) ?_
  extract_lets
  split
  · exact .next _
  · refine .ite (.next _) ?_
    refine .ite (.next _) ?_
    split <;> exact .next _

theorem execHeartbeatSend_completes (port : LaneId) (s : State) : Completes (execHeartbeatSend port s) := by
  unfold execHeartbeatSend
  exact .ite (.next _) (.next _)

theorem execHeartbeatReceived_completes (port : LaneId) (rx : FrameRx) (rodLo state : Nat) (msgs : List SbMsg) (s : State) :
    Completes (execHeartbeatReceived port rx rodLo state msgs s) := by
  unfold execHeartbeatReceived
  refine .ite (.next _) ?_
  refine .ite (.next _) ?_
  refine .ite (.next _) ?_
  split
  extract_lets
  split
  extract_lets
  split
  · exact .ite (.next _) (.next _)
  · exact .next _

theorem execMcCoordinates_completes (rack : BitVec 8) (group : BitVec 4) (slot : BitVec 6) (s : State) :
    Completes (execMcCoordinates rack group slot s) := by
  unfold execMcCoordinates
  exact .ite (.next _) (.next _)

theorem execDispatchGrant_completes (issue : Issue) (layer : Nat) (ecc : Upsets) (s : State) :
    Completes (execDispatchGrant issue layer ecc s) := by
  unfold execDispatchGrant
  refine .ite (.next _) ?_
  split
  · exact .next _
  · extract_lets
    split
    split <;> exact .next _

theorem execReturnCombine_completes (issue : Issue) (layer chunk n outAddr : Nat) (ecc : Upsets) (s : State) :
    Completes (execReturnCombine issue layer chunk n outAddr ecc s) := by
  unfold execReturnCombine
  refine .ite (.next _) ?_
  split
  · exact .next _
  · split
    · exact .next _
    · extract_lets
      split
      split
      extract_lets
      split
      extract_lets
      split
      · exact .next _
      · exact .ite (.next _) (.next _)

theorem execSpanSlot_completes (issue : Issue) (loc lane slot span pos : Nat) (row : Fin 32) (qAddr kvAddr : Nat)
    (late : Bool) (ecc : Upsets) (residueUpset : Bool) (s : State) :
    Completes (execSpanSlot issue loc lane slot span pos row qAddr kvAddr late ecc residueUpset s) := by
  unfold execSpanSlot
  extract_lets
  split
  · exact .next _
  · refine .ite (.next _) ?_
    extract_lets
    split
    split <;> exact .next _

theorem execSpanMerge_completes (issue : Issue) (loc slot head pos : Nat) (row : Fin 32) (outAddr : Nat) (s : State) :
    Completes (execSpanMerge issue loc slot head pos row outAddr s) := by
  unfold execSpanMerge
  refine .ite (.next _) ?_
  split
  · exact .next _
  · exact .ite (.next _) (.ite (.next _) (.next _))

theorem execPageExceptionService_completes (s : State) : Completes (execPageExceptionService s) := by
  unfold execPageExceptionService
  split
  · exact .next _
  · extract_lets
    split
    · exact .next _
    · refine .ite (.next _) ?_
      split <;> exact .next _

theorem execPageFrameRelease_completes (slot : Nat) (s : State) : Completes (execPageFrameRelease slot s) := by
  unfold execPageFrameRelease
  split <;> exact .next _

theorem execRingRequestStart_completes (slot ring : Nat) (s : State) : Completes (execRingRequestStart slot ring s) := by
  unfold execRingRequestStart
  extract_lets
  split
  · exact .next _
  · exact .ite (.next _) (.next _)

theorem execRingStep_completes (ring : Nat) (bad : Bool) (s : State) : Completes (execRingStep ring bad s) := by
  unfold execRingStep
  split
  · split
    · exact .next _
    · refine .ite (.next _) ?_
      refine .ite (.next _) ?_
      extract_lets
      split
      · exact .next _
      · exact .ite (.next _) (.ite (.next _) (.next _))
      · exact .ite (.next _) (.ite (.next _) (.next _))
  · exact .next _

theorem execCancel_completes (raw : List Byte) (s : State) : Completes (execCancel raw s) := by
  unfold execCancel
  extract_lets
  split
  · exact .next _
  · exact .ite (.next _) (.next _)

theorem execDraft_completes (raw : List Byte) (s : State) : Completes (execDraft raw s) := by
  unfold execDraft
  extract_lets
  split
  · exact .next _
  · refine .ite (.next _) ?_
    split <;> exact .next _

theorem execEntryIssue_completes (bushel : Nat) (s : State) : Completes (execEntryIssue bushel s) := by
  unfold execEntryIssue
  split <;> exact .next _

theorem execSampling_completes (bushel : Nat) (row : Fin 32) (logits : List FpBits) (flagIn isVoid : Bool) (s : State) :
    Completes (execSampling bushel row logits flagIn isVoid s) := by
  unfold execSampling
  split
  · exact .next _
  · split
    · exact .next _
    · exact .ite (.next _) (.ite (.next _) (.next _))

theorem execCommitDecision_completes (bushel slot : Nat) (s : State) : Completes (execCommitDecision bushel slot s) := by
  unfold execCommitDecision
  split <;> exact .next _

theorem execReturnRecord_completes (q : ReturnRec) (s : State) : Completes (execReturnRecord q s) := by
  unfold execReturnRecord
  exact .ite (.next _) (.next _)

theorem execAdapterLoad_completes (raw : List Byte) (s : State) : Completes (execAdapterLoad raw s) := by
  unfold execAdapterLoad
  refine .ite (.next _) ?_
  refine .ite (.next _) ?_
  refine .ite (.next _) ?_
  split <;> exact .next _

theorem execAdapterDrop_completes (raw : List Byte) (s : State) : Completes (execAdapterDrop raw s) := by
  unfold execAdapterDrop
  exact .ite (.next _) (.ite (.next _) (.next _))

theorem execPatrolSlot_completes (core : CoreId) (eng : EngId) (beats : Nat) (residueUpset : Bool) (trims : List TrimAt)
    (s : State) :
    Completes (execPatrolSlot core eng beats residueUpset trims s) := by
  unfold execPatrolSlot
  refine .ite (.next _) ?_
  extract_lets back s1
  clear_value s1
  split
  split
  · exact .next _
  · exact .ite (.next _) (.next _)

theorem execVectorPatrolSlot_completes (core : CoreId) (differs : Bool) (s : State) :
    Completes (execVectorPatrolSlot core differs s) := by
  unfold execVectorPatrolSlot
  exact .ite (.next _) (.next _)

theorem execRegisterWrite_completes (addr : Nat) (w : Wr) (s : State) : Completes (execRegisterWrite addr w s) := by
  unfold execRegisterWrite
  refine .ite ⟨_, rfl⟩ (.ite ⟨_, rfl⟩ (.ite ⟨_, rfl⟩ ?_))
  refine .ite (.dite (fun _ => ⟨_, rfl⟩) (.next _)) (.ite (.dite (fun _ => ⟨_, rfl⟩) (.next _)) ?_)
  refine .ite ⟨_, rfl⟩ (.ite ⟨_, rfl⟩ (.ite ⟨_, rfl⟩ (.ite ⟨_, rfl⟩ (.ite ⟨_, rfl⟩ ?_))))
  exact .ite ⟨_, rfl⟩ (.ite ⟨_, rfl⟩ (.ite ⟨_, rfl⟩ (.ite ⟨_, rfl⟩ (.ite ⟨_, rfl⟩ (.next _)))))

/-- No command of the opcode table ends in a fault or a refusal. The meanings that branch before they answer have lemmas
of their own above; each of the others is one next state. -/
theorem exec_completes (c : Instr) (s : State) : Completes (exec c s) := by
  cases c with
  | inputStaging core eng input => exact execInputStaging_completes core eng input s
  | engineBeat issue eng outAddr window windowIssue residueUpset trims =>
    exact execEngineBeat_completes issue eng outAddr window windowIssue residueUpset trims s
  | mergeDeadline core eng tile inst row => exact execMergeDeadline_completes core eng tile inst row s
  | repeatWindow core eng window windowIssue nextWindow nextIssue residueUpset trims =>
    exact execRepeatWindow_completes core eng window windowIssue nextWindow nextIssue residueUpset trims s
  | precisionSumComplete => exact execPrecisionSumComplete_completes s
  | calibrationSlot core eng residueUpset => exact execCalibrationSlot_completes core eng residueUpset s
  | firstPass => exact execFirstPass_completes s
  | matrixOp issue op ecc residueUpset => exact execMatrixOp_completes issue op ecc residueUpset s
  | vectorOp issue op ecc => exact execVectorOp_completes issue op ecc s
  | stackRead issue addr lines dst ecc retries late => exact execStackRead_completes issue addr lines dst ecc retries late s
  | stackWrite issue src lines addr ecc => exact execStackWrite_completes issue src lines addr ecc s
  | pageWalk issue slot loc pos row eccDir eccLeaf => exact execPageWalk_completes issue slot loc pos row eccDir eccLeaf s
  | furlongBoundary => exact execFurlongBoundary_completes s
  | mileBoundary => exact execMileBoundary_completes s
  | fmarkPulse high offset => exact execFmarkPulse_completes high offset s
  | meshTransfer issue flow send ecc => exact execMeshTransfer_completes issue flow send ecc s
  | broadcast issue column send recv ecc => exact execBroadcast_completes issue column send recv ecc s
  | frameSend issue port dstGroup dstMod dstRegion send ecc =>
    exact execFrameSend_completes issue port dstGroup dstMod dstRegion send ecc s
  | dataFrame port rx hdr units slot table => exact execDataFrame_completes port rx hdr units slot table s
  | heartbeatSend port => exact execHeartbeatSend_completes port s
  | heartbeatReceived port rx rodLo state msgs => exact execHeartbeatReceived_completes port rx rodLo state msgs s
  | mcCoordinates rack group slot => exact execMcCoordinates_completes rack group slot s
  | dispatchGrant issue layer ecc => exact execDispatchGrant_completes issue layer ecc s
  | returnCombine issue layer chunk n outAddr ecc => exact execReturnCombine_completes issue layer chunk n outAddr ecc s
  | spanSlot issue loc lane slot span pos row qAddr kvAddr late ecc residueUpset =>
    exact execSpanSlot_completes issue loc lane slot span pos row qAddr kvAddr late ecc residueUpset s
  | spanMerge issue loc slot head pos row outAddr => exact execSpanMerge_completes issue loc slot head pos row outAddr s
  | pageExceptionService => exact execPageExceptionService_completes s
  | pageFrameRelease slot => exact execPageFrameRelease_completes slot s
  | ringRequestStart slot ring => exact execRingRequestStart_completes slot ring s
  | ringStep ring bad => exact execRingStep_completes ring bad s
  | cancel raw => exact execCancel_completes raw s
  | draft raw => exact execDraft_completes raw s
  | entryIssue bushel => exact execEntryIssue_completes bushel s
  | sampling bushel row logits flagIn isVoid => exact execSampling_completes bushel row logits flagIn isVoid s
  | commitDecision bushel slot => exact execCommitDecision_completes bushel slot s
  | returnRecord r => exact execReturnRecord_completes r s
  | adapterLoad raw => exact execAdapterLoad_completes raw s
  | adapterDrop raw => exact execAdapterDrop_completes raw s
  | patrolSlot core eng beats residueUpset trims => exact execPatrolSlot_completes core eng beats residueUpset trims s
  | vectorPatrolSlot core differs => exact execVectorPatrolSlot_completes core differs s
  | registerWrite addr w => exact execRegisterWrite_completes addr w s
  | _ => exact ⟨_, rfl⟩

/-! ### The step -/

/-- Every command leaves the queue of waiting commands alone and keeps the invariant. -/
theorem exec_keeps (c : Instr) (s : State) : KeepsO s (exec c s) := by
  cases c with
  | tierSelect core eng tier badWord => exact execTierSelect_keeps core eng tier badWord s
  | inputStaging core eng input => exact execInputStaging_keeps core eng input s
  | engineBeat issue eng outAddr window windowIssue residueUpset trims =>
    exact execEngineBeat_keeps issue eng outAddr window windowIssue residueUpset trims s
  | mergeDeadline core eng tile inst row => exact execMergeDeadline_keeps core eng tile inst row s
  | repeatWindow core eng window windowIssue nextWindow nextIssue residueUpset trims =>
    exact execRepeatWindow_keeps core eng window windowIssue nextWindow nextIssue residueUpset trims s
  | precisionSumComplete => exact execPrecisionSumComplete_keeps s
  | calibrationSlot core eng residueUpset => exact execCalibrationSlot_keeps core eng residueUpset s
  | trimSetCheck => exact execTrimSetCheck_keeps s
  | settlingDue core eng tier round => exact execSettlingDue_keeps core eng tier round s
  | ageTrigger core eng tier => exact execAgeTrigger_keeps core eng tier s
  | engineDark core eng => exact execEngineDark_keeps core eng s
  | freshTierEnd core eng tier => exact execFreshTierEnd_keeps core eng tier s
  | firstPass => exact execFirstPass_keeps s
  | aszForceRound w => exact execAszForceRound_keeps w s
  | monitorConversion code code2 code3 code4 => exact execMonitorConversion_keeps code code2 code3 code4 s
  | referenceSettled => exact execReferenceSettled_keeps s
  | testBusCaptureArm w => exact execTestBusCaptureArm_keeps w s
  | matrixOp issue op ecc residueUpset => exact execMatrixOp_keeps issue op ecc residueUpset s
  | vectorOp issue op ecc => exact execVectorOp_keeps issue op ecc s
  | coreStoreScrub core upset => exact execCoreStoreScrub_keeps core upset s
  | lineRestore core line => exact execLineRestore_keeps core line s
  | stackRead issue addr lines dst ecc retries late => exact execStackRead_keeps issue addr lines dst ecc retries late s
  | stackWrite issue src lines addr ecc => exact execStackWrite_keeps issue src lines addr ecc s
  | stackOutOfService stack linkFailed => exact execStackOutOfService_keeps stack linkFailed s
  | pageWalk issue slot loc pos row eccDir eccLeaf => exact execPageWalk_keeps issue slot loc pos row eccDir eccLeaf s
  | rodBoundary => exact execRodBoundary_keeps s
  | furlongBoundary => exact execFurlongBoundary_keeps s
  | mileBoundary => exact execMileBoundary_keeps s
  | clockLock => exact execClockLock_keeps s
  | fmarkPulse high offset => exact execFmarkPulse_keeps high offset s
  | refclkLoss => exact execRefclkLoss_keeps s
  | refclkReturn => exact execRefclkReturn_keeps s
  | refclkHoldExpiry => exact execRefclkHoldExpiry_keeps s
  | operationOverrun issue agent => exact execOperationOverrun_keeps issue agent s
  | slackWindow core len => exact execSlackWindow_keeps core len s
  | admissionRun => exact execAdmissionRun_keeps s
  | mcAdmissionCommand => exact execMcAdmissionCommand_keeps s
  | tbVarReq w => exact execTbVarReq_keeps w s
  | sbVarReq m => exact execSbVarReq_keeps m s
  | sbVarRefuse m => exact execSbVarRefuse_keeps m s
  | mcVariantRequest var => exact execMcVariantRequest_keeps var s
  | meshTransfer issue flow send ecc => exact execMeshTransfer_keeps issue flow send ecc s
  | flitForward n upset => exact execFlitForward_keeps n upset s
  | flitArrival n => exact execFlitArrival_keeps n s
  | broadcast issue column send recv ecc => exact execBroadcast_keeps issue column send recv ecc s
  | routerFaultEvent core kind => exact execRouterFaultEvent_keeps core kind s
  | rtrMarkA core w => exact execRtrMarkA_keeps core w s
  | rtrMarkB core w => exact execRtrMarkB_keeps core w s
  | laneTrainingDone port lanes => exact execLaneTrainingDone_keeps port lanes s
  | deskewDone port lanes => exact execDeskewDone_keeps port lanes s
  | helloFrame port h rx => exact execHelloFrame_keeps port h rx s
  | confirmFrame port c rx => exact execConfirmFrame_keeps port c rx s
  | cablingDecision port => exact execCablingDecision_keeps port s
  | trainingStepTimeout port => exact execTrainingStepTimeout_keeps port s
  | frameSend issue port dstGroup dstMod dstRegion send ecc =>
    exact execFrameSend_keeps issue port dstGroup dstMod dstRegion send ecc s
  | dataFrame port rx hdr units slot table => exact execDataFrame_keeps port rx hdr units slot table s
  | heartbeatSend port => exact execHeartbeatSend_keeps port s
  | heartbeatReceived port rx rodLo state msgs => exact execHeartbeatReceived_keeps port rx rodLo state msgs s
  | sbHeat m => exact execSbHeat_keeps m s
  | sbLoss m => exact execSbLoss_keeps m s
  | sbPresent m => exact execSbPresent_keeps m s
  | laneSignalLoss port => exact execLaneSignalLoss_keeps port s
  | heartbeatSlotMiss port => exact execHeartbeatSlotMiss_keeps port s
  | lossConfirmation group module => exact execLossConfirmation_keeps group module s
  | lossDisableTimeout group module => exact execLossDisableTimeout_keeps group module s
  | lnkRetrain port w => exact execLnkRetrain_keeps port w s
  | mcCoordinates rack group slot => exact execMcCoordinates_keeps rack group slot s
  | dispatchGrant issue layer ecc => exact execDispatchGrant_keeps issue layer ecc s
  | returnCombine issue layer chunk n outAddr ecc => exact execReturnCombine_keeps issue layer chunk n outAddr ecc s
  | quarantineLapse layer expert => exact execQuarantineLapse_keeps layer expert s
  | spanSlot issue loc lane slot span pos row qAddr kvAddr late ecc residueUpset =>
    exact execSpanSlot_keeps issue loc lane slot span pos row qAddr kvAddr late ecc residueUpset s
  | spanMerge issue loc slot head pos row outAddr => exact execSpanMerge_keeps issue loc slot head pos row outAddr s
  | pageExceptionService => exact execPageExceptionService_keeps s
  | pageFrameRelease slot => exact execPageFrameRelease_keeps slot s
  | ringRequestStart slot ring => exact execRingRequestStart_keeps slot ring s
  | ringStep ring bad => exact execRingStep_keeps ring bad s
  | intakePoll recs hostIdx late => exact execIntakePoll_keeps recs hostIdx late s
  | submit raw fetch => exact execSubmit_keeps raw fetch s
  | cancel raw => exact execCancel_keeps raw s
  | pause raw => exact execPause_keeps raw s
  | resume raw => exact execResume_keeps raw s
  | draft raw => exact execDraft_keeps raw s
  | hostReadCompletion region core token inst rows addr data issuedAt error =>
    exact execHostReadCompletion_keeps region core token inst rows addr data issuedAt error s
  | entryIssue bushel => exact execEntryIssue_keeps bushel s
  | sampling bushel row logits flagIn isVoid => exact execSampling_keeps bushel row logits flagIn isVoid s
  | commitDecision bushel slot => exact execCommitDecision_keeps bushel slot s
  | returnRecord r => exact execReturnRecord_keeps r s
  | egressSlot => exact execEgressSlot_keeps s
  | slotFree slot => exact execSlotFree_keeps slot s
  | intakeEnWrite w => exact execIntakeEnWrite_keeps w s
  | mcOpenIntake => exact execMcOpenIntake_keeps s
  | mcCloseIntake => exact execMcCloseIntake_keeps s
  | ldStart w => exact execLdStart_keeps w s
  | ldAbort w => exact execLdAbort_keeps w s
  | chunkArrival d => exact execChunkArrival_keeps d s
  | programStep core eng verified => exact execProgramStep_keeps core eng verified s
  | ldFlipReq w => exact execLdFlipReq_keeps w s
  | mcNameFlip => exact execMcNameFlip_keeps s
  | sbEpoch m => exact execSbEpoch_keeps m s
  | adapterLoad raw => exact execAdapterLoad_keeps raw s
  | adapterDrop raw => exact execAdapterDrop_keeps raw s
  | adapterPartFetch slot part => exact execAdapterPartFetch_keeps slot part s
  | adapterSwitch slot => exact execAdapterSwitch_keeps slot s
  | adapterSlotFree slot => exact execAdapterSlotFree_keeps slot s
  | mcLoadCommand addr len => exact execMcLoadCommand_keeps addr len s
  | hallmarkReq nonce => exact execHallmarkReq_keeps nonce s
  | keyRelease object check => exact execKeyRelease_keeps object check s
  | unsealComplete badRows => exact execUnsealComplete_keeps badRows s
  | getVersion => exact execGetVersion_keeps s
  | getCapabilities => exact execGetCapabilities_keeps s
  | negotiateAlgorithms common => exact execNegotiateAlgorithms_keeps common s
  | getDigests => exact execGetDigests_keeps s
  | getCertificate slot offset length => exact execGetCertificate_keeps slot offset length s
  | challenge slot => exact execChallenge_keeps slot s
  | getMeasurements index => exact execGetMeasurements_keeps index s
  | keyExchange slot => exact execKeyExchange_keeps slot s
  | spdmFinish verifyOk => exact execSpdmFinish_keeps verifyOk s
  | keyUpdate op => exact execKeyUpdate_keeps op s
  | spdmHeartbeat => exact execSpdmHeartbeat_keeps s
  | endSession => exact execEndSession_keeps s
  | ideKmKeyProgram stream => exact execIdeKmKeyProgram_keeps stream s
  | ideIntegrityFailure stream => exact execIdeIntegrityFailure_keeps stream s
  | lockInterface => exact execLockInterface_keeps s
  | startInterface => exact execStartInterface_keeps s
  | stopInterface => exact execStopInterface_keeps s
  | functionLevelReset => exact execFunctionLevelReset_keeps s
  | secWdogKick w => exact execSecWdogKick_keeps w s
  | watchdogExpiry => exact execWatchdogExpiry_keeps s
  | controlCoreBreach b => exact execControlCoreBreach_keeps b s
  | patrolSlot core eng beats residueUpset trims => exact execPatrolSlot_keeps core eng beats residueUpset trims s
  | vectorPatrolSlot core differs => exact execVectorPatrolSlot_keeps core differs s
  | trapLoad w => exact execTrapLoad_keeps w s
  | trapSetVerifyDone bytes sigOk fetched => exact execTrapSetVerifyDone_keeps bytes sigOk fetched s
  | repairStepDone logical ok => exact execRepairStepDone_keeps logical ok s
  | injArm w => exact execInjArm_keeps w s
  | mcChrysalis => exact execMcChrysalis_keeps s
  | powerLoss => exact execPowerLoss_keeps s
  | perstNAssert => exact execPerstNAssert_keeps s
  | mrstNAssert => exact execMrstNAssert_keeps s
  | resetRelease facts => exact execResetRelease_keeps facts s
  | stopRecordAck => exact execStopRecordAck_keeps s
  | imgBegin length version => exact execImgBegin_keeps length version s
  | imgData offset bytes => exact execImgData_keeps offset bytes s
  | imgEnd => exact execImgEnd_keeps s
  | imgVerify checks => exact execImgVerify_keeps checks s
  | query raw fetch => exact execQuery_keeps raw fetch s
  | queryPass corpus late residueUpsets trims => exact execQueryPass_keeps corpus late residueUpsets trims s
  | searchRound corpus late => exact execSearchRound_keeps corpus late s
  | rtvFlipReq w => exact execRtvFlipReq_keeps w s
  | registerWrite addr w => exact execRegisterWrite_keeps addr w s
  | cfgSealSet w => exact execCfgSealSet_keeps w s
  | wideSelWrite w => exact execWideSelWrite_keeps w s
  | wideSnapshotDone port => exact execWideSnapshotDone_keeps port s
  | cfgCrcCommit w => exact execCfgCrcCommit_keeps w s
  | cfgCrcAdopt w => exact execCfgCrcAdopt_keeps w s
  | crcPassEnd => exact execCrcPassEnd_keeps s
  | msixTableWrite vector mask => exact execMsixTableWrite_keeps vector mask s
  | sensorReading sensor value sat => exact execSensorReading_keeps sensor value sat s
  | sensorRestore sensor => exact execSensorRestore_keeps sensor s
  | powerCapVariantRequest => exact execPowerCapVariantRequest_keeps s
  | heatRerequest => exact execHeatRerequest_keeps s
  | heatFlagClear => exact execHeatFlagClear_keeps s
  | clockDivide => exact execClockDivide_keeps s
  | clockRestore => exact execClockRestore_keeps s
  | comparatorTrip sensor others => exact execComparatorTrip_keeps sensor others s
  | vinFault f => exact execVinFault_keeps f s
  | regulatorFault f => exact execRegulatorFault_keeps f s
  | mcPowerOff => exact execMcPowerOff_keeps s
  | mateNAssert => exact execMateNAssert_keeps s
  | inputEnable => exact execInputEnable_keeps s
  | vinReapply => exact execVinReapply_keeps s
  | hostLinkTraining up gen width => exact execHostLinkTraining_keeps up gen width s
  | mcPowerCapRaise cap => exact execMcPowerCapRaise_keeps cap s
  | pldmEventFetch => exact execPldmEventFetch_keeps s
  | dynamicAddressAssignment addr => exact execDynamicAddressAssignment_keeps addr s
  | inputRangeExcursion mv => exact execInputRangeExcursion_keeps mv s

theorem step_of_empty {s : State} (h : s.pending = []) : step s = .next s := by
  unfold step
  rw [h]

theorem step_of_front {s : State} {c : Instr} {rest : List Instr} (h : s.pending = c :: rest) :
    step s = exec c { s with pending := rest } := by
  unfold step
  rw [h]

/-- The invariant does not speak of the queue. -/
theorem State.Inv.withPending {s : State} (h : s.Inv) (q : List Instr) : State.Inv { s with pending := q } :=
  ⟨⟨h.canonical.regs, h.canonical.store, h.canonical.stack, h.canonical.boot⟩, h.rod⟩

/-- Settles O60: each command completes (`exec_completes`) and keeps the invariant and the queue behind it (`exec_keeps`);
an empty queue idles. -/
theorem everyStepCompletesAndKeepsTheInvariant : Obligations.EveryStepCompletesAndKeepsTheInvariant := by
  unfold Obligations.EveryStepCompletesAndKeepsTheInvariant
  intro s hs
  cases hq : s.pending with
  | nil => exact ⟨s, step_of_empty hq, hs, hq⟩
  | cons c rest =>
    obtain ⟨t, ht⟩ := exec_completes c { s with pending := rest }
    have hkeeps := exec_keeps c { s with pending := rest } t ht
    exact ⟨t, (step_of_front hq).trans ht, hkeeps.inv (hs.withPending rest), hkeeps.pending⟩

end Sys2Proof.Machine
end

section
/-! The laws of the register interface: the fields of the register map, what a write stores in a field, and what it
leaves as it was. -/
namespace Sys2Proof.Machine

/-! ### The register map -/

theorem mem_regs_of_regAt {a : Nat} {r : RegDef} (h : regAt a = some r) : ∃ b : Block, r ∈ b.regs := by
  unfold regAt at h
  split at h
  · cases h
  · exact ⟨_, List.mem_of_find?_eq_some h⟩

/-- Every table lists the fields of a 32-bit register from the top of the word down, and no two of them meet. -/
theorem Block.fields_descend (b : Block) : ∀ r ∈ b.regs, r.wide = false →
    (∀ f ∈ r.fields, f.fld.lo ≤ f.fld.hi ∧ f.fld.hi < 32) ∧ r.fields.Pairwise (fun f g => g.fld.hi < f.fld.lo) := by
  cases b <;> decide +kernel

theorem inWord_of_regAt {a : Nat} {r : RegDef} (h : regAt a = some r) (hw : r.wide = false) :
    ∀ f ∈ r.fields, f.fld.inWord := by
  obtain ⟨b, hb⟩ := mem_regs_of_regAt h
  exact (b.fields_descend r hb hw).1

theorem descend_of_regAt {a : Nat} {r : RegDef} (h : regAt a = some r) (hw : r.wide = false) :
    r.fields.Pairwise (fun f g => g.fld.hi < f.fld.lo) := by
  obtain ⟨b, hb⟩ := mem_regs_of_regAt h
  exact (b.fields_descend r hb hw).2

/-- An address of engine e of core n lies where the same offset of engine 0 of core 0 does (R465). -/
theorem locate_engine (n : CoreId) (e : EngId) (o : Nat) (ho : o < 0x1000) :
    locate (0x1001000 + o + engI n e) = some (.eng, 0x1001000 + o) := by
  have hn := n.isLt
  have he := e.isLt
  unfold locate engI
  have hcore : (0x1001000 + o + (n.val * 0x10000 + e.val * 0x1000) - 0x1000000) % 0x10000 =
      0x1000 + o + e.val * 0x1000 := by omega
  repeat rw [if_neg (by omega)]
  rw [if_pos (by omega), hcore, if_neg (by omega), if_pos (by omega)]
  rw [Nat.add_assoc, Nat.add_sub_cancel_left, Nat.add_mul_mod_self_right, Nat.mod_eq_of_lt ho]

theorem regAt_engine (n : CoreId) (e : EngId) (o : Nat) (ho : o < 0x1000) :
    regAt (0x1001000 + o + engI n e) = regAt (0x1001000 + o) := by
  have h0 : locate (0x1001000 + o) = some (.eng, 0x1001000 + o) := by
    have h := locate_engine 0 0 o ho
    rwa [show engI (0 : CoreId) (0 : EngId) = 0 from rfl, Nat.add_zero] at h
  unfold regAt
  rw [locate_engine n e o ho, h0]

/-! ### What a write stores in a field (R12) -/

theorem getBits_lt (w : Word) (hi lo : Nat) : getBits w hi lo < 2 ^ (hi + 1 - lo) :=
  Nat.mod_lt _ (Nat.two_pow_pos _)

theorem wbits_mod (w : Word) (f : Fld) : wbits w f % 2 ^ (f.hi + 1 - f.lo) = wbits w f :=
  Nat.mod_eq_of_lt (getBits_lt w f.hi f.lo)

theorem getBits_setBits_apart (w : Word) (f g : Fld) (v : Nat) (h : f.inWord) (ha : f.apart g) :
    getBits (setBits w f.hi f.lo v) g.hi g.lo = getBits w g.hi g.lo := by
  obtain ha | ⟨hb, hg⟩ := ha
  · exact getBits_setBits_above _ _ _ _ _ _ h.1 h.2 ha
  · exact getBits_setBits_below _ _ _ _ _ _ h.1 h.2 hb hg

/-- What a field holds after a write of `data` over the word `w` that is not refused: what its access code says. -/
def FieldDef.after (f : FieldDef) (data w : Word) : Nat :=
  match f.acc with
  | .ro | .w1s => getBits w f.fld.hi f.fld.lo
  | .rw | .rws => wbits data f.fld
  | .w1c => getBits w f.fld.hi f.fld.lo &&& (wbits data f.fld ^^^ (2 ^ (f.fld.hi + 1 - f.fld.lo) - 1))

theorem FieldDef.after_congr (f : FieldDef) (data : Word) {w w' : Word}
    (h : getBits w' f.fld.hi f.fld.lo = getBits w f.fld.hi f.fld.lo) : f.after data w' = f.after data w := by
  unfold FieldDef.after
  rw [h]

theorem getBits_storeField (data w : Word) (f : FieldDef) (h : f.fld.inWord) :
    getBits (storeField data w f) f.fld.hi f.fld.lo = f.after data w := by
  cases hacc : f.acc <;> simp only [storeField, FieldDef.after, hacc, getBits_setBits _ _ _ _ h.1 h.2, wbits_mod]
  case w1c => exact Nat.mod_eq_of_lt (lt_of_le_of_lt Nat.and_le_left (getBits_lt w f.fld.hi f.fld.lo))

theorem getBits_storeField_apart (data w : Word) (f : FieldDef) (g : Fld) (h : f.fld.inWord) (ha : f.fld.apart g) :
    getBits (storeField data w f) g.hi g.lo = getBits w g.hi g.lo := by
  cases hacc : f.acc <;> simp only [storeField, hacc, getBits_setBits_apart _ _ _ _ h ha]

/-- The word after a write of `data` has stored in each of the fields `l`. -/
def storeFields (data : Word) (l : List FieldDef) (w : Word) : Word := l.foldl (fun acc f => storeField data acc f) w

theorem getBits_storeFields_apart (data : Word) (l : List FieldDef) (w : Word) (g : Fld)
    (h : ∀ f ∈ l, f.fld.inWord ∧ f.fld.apart g) : getBits (storeFields data l w) g.hi g.lo = getBits w g.hi g.lo := by
  induction l generalizing w with
  | nil => rfl
  | cons f l ih =>
    obtain ⟨⟨hf, ha⟩, hl⟩ := List.forall_mem_cons.mp h
    exact (ih _ hl).trans (getBits_storeField_apart data w f g hf ha)

theorem getBits_storeFields (data : Word) (l : List FieldDef) (w : Word) (g : FieldDef) (hg : g ∈ l)
    (hin : ∀ f ∈ l, f.fld.inWord) (hd : l.Pairwise (fun f g => g.fld.hi < f.fld.lo)) :
    getBits (storeFields data l w) g.fld.hi g.fld.lo = g.after data w := by
  induction l generalizing w with
  | nil => cases hg
  | cons f l ih =>
    obtain ⟨hf, hl⟩ := List.forall_mem_cons.mp hin
    obtain ⟨hfl, hdl⟩ := List.pairwise_cons.mp hd
    obtain rfl | hg := List.mem_cons.mp hg
    · have hrest : ∀ x ∈ l, x.fld.inWord ∧ x.fld.apart g.fld := fun x hx => ⟨hl x hx, .inl (hfl x hx)⟩
      exact (getBits_storeFields_apart data l _ g.fld hrest).trans (getBits_storeField data w g hf)
    · have hbelow : f.fld.apart g.fld := .inr ⟨hfl g hg, (hl g hg).1⟩
      exact (ih _ hg hl hdl).trans (g.after_congr data (getBits_storeField_apart data w f g.fld hf hbelow))

/-! ### What a write stores in a register -/

/-- The fields of a register that a write is not refused. -/
def State.okFields (s : State) (a : Nat) (r : RegDef) : List FieldDef :=
  r.fields.filter (fun f => s.refuses (s.blockRuns r.blk a) a f = .no)

/-- The word that a write makes of a register before the bounds of its table are applied. -/
def State.newWord (s : State) (w : Wr) (a : Nat) (r : RegDef) : Word := storeFields w.data (s.okFields a r) (s.rd a)

/-- The state once a refused field of the register has been captured (R16). -/
def State.captured (s : State) (w : Wr) (a : Nat) (r : RegDef) : State :=
  if r.fields.any (fun f => s.refuses (s.blockRuns r.blk a) a f = .seal) then s.capture w a true
  else if r.fields.any (fun f => s.refuses (s.blockRuns r.blk a) a f = .frozen) then s.capture w a false else s

/-- The old word begins to wait where class B is written while its block runs (R15). -/
def State.holdOld (s u : State) (a : Nat) (r : RegDef) (new : Word) : State :=
  if (s.blockRuns r.blk a && (s.okFields a r).any (fun f => f.cls = .boundary)) ∧ new ≠ s.rd a ∧
      (u.waitB.find? (fun e => e.1 = a)).isNone then
    { u with waitB := (a, s.rd a) :: u.waitB } else u

theorem State.storeReg_of_some (s : State) (w : Wr) (a : Nat) (r : RegDef) (new : Word)
    (h : clampStore r ((s.captured w a r).inForce a) (s.newWord w a r) = some new) :
    s.storeReg w a r = ((s.holdOld (s.captured w a r) a r new).wr a new).openCovered r
      ((s.okFields a r).any (fun f => f.acc = .rw ∨ f.acc = .rws)) := by
  unfold State.storeReg
  extract_lets running old sealed frozen ok new' wrote u
  have hu : clampStore r (u.inForce a) new' = some new := h
  rw [hu]
  rfl

theorem State.storeReg_of_none (s : State) (w : Wr) (a : Nat) (r : RegDef)
    (h : clampStore r ((s.captured w a r).inForce a) (s.newWord w a r) = none) :
    s.storeReg w a r = ((s.captured w a r).put SEC_VIOL_THERMAL_WRITE 1).add SEC_VIOL_CNT_COUNT 1 := by
  unfold State.storeReg
  extract_lets running old sealed frozen ok new' wrote u
  have hu : clampStore r (u.inForce a) new' = none := h
  rw [hu]
  rfl

theorem clampStore_unbounded {r : RegDef} (h1 : r.name ≠ "ENG_WIT_CFG") (h2 : r.name ≠ "THM_SKIP_AT")
    (h3 : r.name ≠ "PWR_CAP") (old new : Word) : clampStore r old new = some new := by
  unfold clampStore
  rw [if_neg h1, if_neg h2, if_neg h3]

theorem State.rd_openCovered (s : State) (r : RegDef) (x : Bool) (b : Nat) (h : b ≠ CFG_CRC_CTRL_OPEN.addr) :
    (s.openCovered r x).rd b = s.rd b := by
  unfold State.openCovered
  split
  · exact State.rd_put_ne s CFG_CRC_CTRL_OPEN 1 b h
  · rfl

theorem State.openCovered_waitB (s : State) (r : RegDef) (x : Bool) : (s.openCovered r x).waitB = s.waitB := by
  unfold State.openCovered
  split <;> rfl

theorem State.openCovered_mon (s : State) (r : RegDef) (x : Bool) : (s.openCovered r x).mon = s.mon := by
  unfold State.openCovered
  split <;> rfl

theorem State.holdOld_mon (s u : State) (a : Nat) (r : RegDef) (new : Word) : (s.holdOld u a r new).mon = u.mon := by
  unfold State.holdOld
  split <;> rfl

/-- The register written holds the word that its table's bounds leave of the new word. -/
theorem State.rd_storeReg (s : State) (w : Wr) (a : Nat) (r : RegDef) (new : Word) (ha : a ≠ CFG_CRC_CTRL_OPEN.addr)
    (h : clampStore r ((s.captured w a r).inForce a) (s.newWord w a r) = some new) : (s.storeReg w a r).rd a = new := by
  rw [s.storeReg_of_some w a r new h, State.rd_openCovered _ _ _ _ ha, State.rd_wr_self]

/-- A field that is not refused holds in the new word what its access code says. -/
theorem State.getBits_newWord (s : State) (w : Wr) (a : Nat) (r : RegDef) (f : FieldDef) (hr : regAt a = some r)
    (hw : r.wide = false) (hf : f ∈ r.fields) (hno : s.refuses (s.blockRuns r.blk a) a f = .no) :
    getBits (s.newWord w a r) f.fld.hi f.fld.lo = f.after w.data (s.rd a) := by
  refine getBits_storeFields w.data _ _ f (List.mem_filter.mpr ⟨hf, by simpa using hno⟩) ?_ ?_
  · exact fun g hg => inWord_of_regAt hr hw g (List.mem_of_mem_filter hg)
  · exact (descend_of_regAt hr hw).filter _

/-! ### What a write leaves as it was -/

/-- From `s` to `t`, no register outside the listed addresses changes, and of the rest only the class B values that wait, the
CRC's open window and the monitor's sequence position. -/
structure TouchesOnly (as : List Nat) (s t : State) : Prop where
  regs : regsKept s t as
  rest : t = { s with regs := t.regs, waitB := t.waitB, crc := t.crc, mon := t.mon }

theorem TouchesOnly.refl (as : List Nat) (s : State) : TouchesOnly as s s := ⟨fun _ _ => rfl, rfl⟩

theorem TouchesOnly.trans {as : List Nat} {s t u : State} (h : TouchesOnly as s t) (g : TouchesOnly as t u) :
    TouchesOnly as s u where
  regs b hb := (g.regs b hb).trans (h.regs b hb)
  rest := by
    rw [g.rest, h.rest]

theorem TouchesOnly.fld {as : List Nat} {s t : State} (h : TouchesOnly as s t) {f : Fld} (hf : f.addr ∉ as) :
    t.fld f = s.fld f := by
  show getBits (t.rd f.addr) f.hi f.lo = getBits (s.rd f.addr) f.hi f.lo
  rw [h.regs f.addr hf]

theorem TouchesOnly.isSet {as : List Nat} {s t : State} (h : TouchesOnly as s t) {f : Fld} (hf : f.addr ∉ as) :
    t.isSet f = s.isSet f := by
  unfold State.isSet
  rw [h.fld hf]

theorem TouchesOnly.wr {as : List Nat} {s t : State} (h : TouchesOnly as s t) {a : Nat} (ha : a ∈ as) (v : Word) :
    TouchesOnly as s (t.wr a v) :=
  h.trans ⟨fun _ hb => State.rd_wr_ne _ _ _ _ (fun e => hb (e ▸ ha)), rfl⟩

theorem TouchesOnly.put {as : List Nat} {s t : State} (h : TouchesOnly as s t) {f : Fld} (hf : f.addr ∈ as) (v : Nat) :
    TouchesOnly as s (t.put f v) := h.wr hf _

theorem TouchesOnly.add {as : List Nat} {s t : State} (h : TouchesOnly as s t) {f : Fld} (hf : f.addr ∈ as) (n : Nat) :
    TouchesOnly as s (t.add f n) := h.wr hf _

theorem TouchesOnly.flag {as : List Nat} {s t : State} (h : TouchesOnly as s t) {f : Fld} (hf : f.addr ∈ as) (b : Bool) :
    TouchesOnly as s (t.flag f b) := h.wr hf _

theorem TouchesOnly.raise {as : List Nat} {s t : State} (h : TouchesOnly as s t) {f : Fld} (hf : f.addr ∈ as) (b : Bool) :
    TouchesOnly as s (t.raiseIfAt 0 f b) := by
  unfold State.raiseIfAt
  split
  · exact h.wr hf _
  · exact h

theorem TouchesOnly.ite {as : List Nat} {s t u : State} {c : Prop} [Decidable c] (h : TouchesOnly as s t)
    (g : TouchesOnly as s u) : TouchesOnly as s (if c then t else u) := by
  split
  · exact h
  · exact g

theorem TouchesOnly.capture {as : List Nat} {s t : State} (h : TouchesOnly as s t) (hb : writeBooks ⊆ as) (w : Wr) (a : Nat)
    (x : Bool) : TouchesOnly as s (t.capture w a x) := by
  have hcnt := h.add (f := CFG_WREF_CNT_VALUE) (hb (by decide)) 1
  have hwref : CFG_WREF_VALID.addr ∈ as := hb (by decide)
  have hdata : CFG_WREF_DATA_VALUE.addr ∈ as := hb (by decide)
  unfold State.capture
  extract_lets u v
  split
  · exact hcnt
  · exact (((((hcnt.put hwref 1).flag (f := CFG_WREF_SEALED) hwref x).flag (f := CFG_WREF_SRC) hwref _).put
      (f := CFG_WREF_ADDR) hwref a).put hdata _)

theorem TouchesOnly.captured {as : List Nat} {s t : State} (h : TouchesOnly as s t) (hb : writeBooks ⊆ as) (w : Wr) (a : Nat)
    (r : RegDef) : TouchesOnly as s (t.captured w a r) :=
  .ite (h.capture hb w a true) (.ite (h.capture hb w a false) h)

theorem TouchesOnly.accErr {as : List Nat} {s t : State} (h : TouchesOnly as s t) (hb : writeBooks ⊆ as) {f : Fld}
    (hf : f.addr = GLB_ACC_ERR_COUNT.addr) : TouchesOnly as s (t.accErr f) :=
  (h.put (hf ▸ hb (by decide)) 1).add (hb (by decide)) 1

theorem TouchesOnly.openCovered {as : List Nat} {s t : State} (h : TouchesOnly as s t) (hb : writeBooks ⊆ as) (r : RegDef)
    (x : Bool) : TouchesOnly as s (t.openCovered r x) := by
  have hopen := h.put (f := CFG_CRC_CTRL_OPEN) (hb (by decide)) 1
  exact .ite (hopen.trans ⟨fun _ _ => rfl, rfl⟩) h

theorem TouchesOnly.holdOld {as : List Nat} {s t : State} (h : TouchesOnly as s t) (u : State) (a : Nat) (r : RegDef)
    (new : Word) : TouchesOnly as s (u.holdOld t a r new) :=
  .ite (h.trans ⟨fun _ _ => rfl, rfl⟩) h

theorem TouchesOnly.storeReg {as : List Nat} (s : State) (w : Wr) {a : Nat} (r : RegDef) (hb : writeBooks ⊆ as) (ha : a ∈ as) :
    TouchesOnly as s (s.storeReg w a r) := by
  have hcap := (TouchesOnly.refl as s).captured hb w a r
  cases h : clampStore r ((s.captured w a r).inForce a) (s.newWord w a r) with
  | none =>
    rw [s.storeReg_of_none w a r h]
    exact (hcap.put (hb (by decide)) 1).add (hb (by decide)) 1
  | some new =>
    rw [s.storeReg_of_some w a r new h]
    exact ((hcap.holdOld s a r new).wr ha new).openCovered hb r _

/-- The whole path of a write, through the gates or not. -/
theorem TouchesOnly.write {as : List Nat} (s : State) (w : Wr) {a : Nat} (hb : writeBooks ⊆ as) (ha : a ∈ as) :
    TouchesOnly as s (s.write w a).1 := by
  have hs := TouchesOnly.refl as s
  unfold State.write
  split
  · exact hs.accErr hb rfl
  · split
    · exact hs.put (hb (by decide)) 1
    · split
      · split
        · exact hs.accErr hb rfl
        · split
          · exact hs.accErr hb rfl
          · exact hs
      · split
        · exact hs.accErr hb rfl
        · split
          · exact hs
          · split
            · exact hs
            · split
              · exact hs
              · exact TouchesOnly.storeReg s w _ hb ha

theorem TouchesOnly.monCtrl {as : List Nat} {s t : State} (h : TouchesOnly as s t) (hmon : MON_STAT_RUNNING.addr ∈ as) :
    TouchesOnly as s t.monCtrl := by
  unfold State.monCtrl
  extract_lets run mon u v
  have hu : TouchesOnly as s u := .ite (h.trans ⟨fun _ _ => rfl, rfl⟩) h
  have hv : TouchesOnly as s v := hu.flag hmon run
  split
  · exact hv
  · exact hv.put (f := MON_STAT_REF_SETTLED) hmon 0

theorem TouchesOnly.standing {as : List Nat} {s t : State} (h : TouchesOnly as s t) (ha : PWR_FLAG_VIN_LOW.addr ∈ as) :
    TouchesOnly as s t.standing :=
  ((h.raise (f := PWR_FLAG_VIN_LOW) ha _).raise (f := PWR_FLAG_VIN_HIGH) ha _).raise (f := PWR_FLAG_REG_FAULT) ha _

theorem TouchesOnly.plainWrite {as : List Nat} (s : State) (w : Wr) {a : Nat} (hb : writeBooks ⊆ as) (ha : a ∈ as) :
    TouchesOnly as s (s.plainWrite a w) := by
  have hw := TouchesOnly.write s w hb ha
  unfold State.plainWrite
  generalize s.write w a = p at hw ⊢
  obtain ⟨t, d⟩ := p
  have h1 : TouchesOnly as s (if d.isSome ∧ a = MON_CTRL_RUN.addr then t.monCtrl else t) :=
    .ite (hw.monCtrl (hb (by decide))) hw
  refine TouchesOnly.trans (t := if a = PWR_FLAG_VIN_LOW.addr then _ else _) ?_ ⟨fun _ _ => rfl, rfl⟩
  split
  next hp => exact h1.standing (hp ▸ ha)
  next => exact h1

/-! ### A write that reaches its register -/

theorem exec_registerWrite_of_plain {a : Nat} (h : ownCommand a = false) (w : Wr) (s : State) :
    exec (.registerWrite a w) s = .next (s.plainWrite a w) := by
  show execRegisterWrite a w s = _
  unfold ownCommand at h
  unfold execRegisterWrite
  split at h
  next hl => rw [hl]; rfl
  next b a0 hl =>
    rw [hl]
    simp only [List.mem_cons, List.not_mem_nil, or_false, not_or, decide_eq_false_iff_not] at h
    simp only [h, if_false]

@[simp] theorem State.rd_settle (s : State) (b : Nat) : s.settle.rd b = s.rd b := rfl

@[simp] theorem State.fld_settle (s : State) (f : Fld) : s.settle.fld f = s.fld f := rfl

theorem ne_of_plain {a b : Nat} (h : ownCommand a = false) (hb : ownCommand b = true) : a ≠ b := by
  rintro rfl
  rw [h] at hb
  cases hb

theorem wide_of_reaches {s : State} {w : Wr} {a : Nat} {r : RegDef} (h : writeReaches s w a r = true) : r.wide = false := by
  unfold writeReaches at h
  simp_all

/-- Past the gates, a write is a store, but in WIDE_SEL, which lies in the port's mailbox (R466). -/
theorem State.write_past_gates {s : State} {w : Wr} {a : Nat} {r : RegDef} (hr : regAt a = some r)
    (h : writeReaches s w a r = true) :
    s.write w a = if a = WIDE_SEL_ADDR.addr then (s, some w.data) else (s.storeReg w a r, some w.data) := by
  simp only [writeReaches, Bool.and_eq_true, Bool.not_eq_true', Bool.and_eq_false_iff, decide_eq_true_eq] at h
  obtain ⟨⟨⟨⟨hchrys, hguard⟩, hbe⟩, hdom⟩, hwide⟩ := h
  have hchrys' : ¬(w.port = .host ∧ s.fld GLB_STATE_STATE = 2) := by rintro ⟨h1, h2⟩; simp [h1, h2] at hchrys
  have hguard' : ¬(w.port = .host ∧ s.sec.guard ∧ !w.tbit) := by rintro ⟨h1, h2, h3⟩; simp_all
  have hdom' : ¬(inCoreDomain r ∧ s.domainOff (coreOf a)) := by rintro ⟨h1, h2⟩; simp [h1, h2] at hdom
  unfold State.write
  rw [if_neg hchrys', if_neg hguard', hr]
  dsimp only
  rw [if_neg (by simp [hbe]), if_neg hdom', if_neg (ne_true_of_eq_false hwide)]

theorem State.write_of_reaches {s : State} {w : Wr} {a : Nat} {r : RegDef} (hr : regAt a = some r)
    (h : writeReaches s w a r = true) (ha : a ≠ WIDE_SEL_ADDR.addr) : s.write w a = (s.storeReg w a r, some w.data) := by
  rw [State.write_past_gates hr h, if_neg ha]

/-- A write that reaches its register is the store, and what follows a store in PWR_FLAG (R13) and MON_CTRL (R146). -/
theorem State.plainWrite_of_reaches {s : State} {w : Wr} {a : Nat} {r : RegDef} (hr : regAt a = some r)
    (h : writeReaches s w a r = true) (hown : ownCommand a = false) :
    s.plainWrite a w = (if a = PWR_FLAG_VIN_LOW.addr then (s.storeReg w a r).standing
      else if a = MON_CTRL_RUN.addr then (s.storeReg w a r).monCtrl else s.storeReg w a r).settle := by
  unfold State.plainWrite
  rw [State.write_of_reaches hr h (ne_of_plain hown (by decide))]
  by_cases hpwr : a = PWR_FLAG_VIN_LOW.addr
  · have hmon : a ≠ MON_CTRL_RUN.addr := by rw [hpwr]; decide
    simp only [hpwr, if_true, hpwr ▸ hmon, and_false, if_false]
  · simp only [hpwr, if_false, Option.isSome_some, true_and]

theorem State.rd_monCtrl (s : State) (b : Nat) (h : b ≠ MON_STAT_RUNNING.addr) : s.monCtrl.rd b = s.rd b :=
  ((TouchesOnly.refl [MON_STAT_RUNNING.addr] s).monCtrl (List.mem_singleton.mpr rfl)).regs b (by simpa using h)

/-- The register written reads after the write what the store left there, PWR_FLAG what its standing conditions make of it. -/
theorem State.rd_plainWrite {s : State} {w : Wr} {a : Nat} {r : RegDef} (hr : regAt a = some r)
    (h : writeReaches s w a r = true) (hown : ownCommand a = false) :
    (s.plainWrite a w).rd a = (if a = PWR_FLAG_VIN_LOW.addr then (s.storeReg w a r).standing else s.storeReg w a r).rd a := by
  rw [State.plainWrite_of_reaches hr h hown]
  by_cases hmon : a = MON_CTRL_RUN.addr
  · subst hmon
    exact State.rd_monCtrl _ MON_CTRL_RUN.addr (by decide)
  · rw [if_neg hmon]
    rfl

theorem State.captured_of_unrefused {s : State} {a : Nat} {r : RegDef}
    (h : ∀ f ∈ r.fields, s.refuses (s.blockRuns r.blk a) a f = .no) (w : Wr) : s.captured w a r = s := by
  have hnone : ∀ x : Refuse, x ≠ .no → ¬ r.fields.any (fun f => s.refuses (s.blockRuns r.blk a) a f = x) = true := by
    intro x hx hany
    obtain ⟨f, hf, hfx⟩ := List.any_eq_true.mp hany
    exact hx ((of_decide_eq_true hfx).symm.trans (h f hf))
  unfold State.captured
  rw [if_neg (hnone .seal (by decide)), if_neg (hnone .frozen (by decide))]

end Sys2Proof.Machine
end

section
/-! The register interface: refused writes, the access codes, the bounds, the frame of a write, class B, the seal and
the wide mailboxes (O1, O3, O4, O5), and the state after reset (O59). -/
namespace Sys2Proof.Machine

/-! ### Refused writes (R16) -/

/-- A sealed module in which TOL of engine 0 of core 0 is 0. No write leaves a value below 3 there (R69); the statement speaks
of every state. -/
def sealedLowTol : State := (State.reset.put GLB_LOCK_CFG_SEAL 1).put ENG_WIT_CFG_TOL 0

/-- The control core writes zeros. -/
def zeroWrite : Wr := ⟨.controlCore, 0, 0xF, true⟩

/-- The table's row of ENG_WIT_CFG (R69). -/
def engWitCfg : RegDef := ⟨"ENG_WIT_CFG", 0x1001010, 1, .eng, true, false, false, [⟨ENG_WIT_CFG_TOL, .rws, .boundary, 6⟩]⟩

theorem regAt_engWitCfg : regAt ENG_WIT_CFG_TOL.addr = some engWitCfg := by decide +kernel

/-- The bounds of R69 are applied to the word that a refused write leaves as well, and so change the refused field. -/
theorem tol_after_refused_write :
    (sealedLowTol.plainWrite ENG_WIT_CFG_TOL.addr zeroWrite).fld ENG_WIT_CFG_TOL = 3 ∧
      sealedLowTol.fld ENG_WIT_CFG_TOL = 0 := by
  decide +kernel

/-- Refutes O1: under the seal, a write of ENG_WIT_CFG where TOL holds 0 leaves TOL at 3. -/
theorem not_refusedWriteKeepsFieldAndIsCaptured : ¬ Obligations.RefusedWriteKeepsFieldAndIsCaptured := by
  unfold Obligations.RefusedWriteKeepsFieldAndIsCaptured
  intro h
  have hplain : ownCommand ENG_WIT_CFG_TOL.addr = false := by decide +kernel
  obtain ⟨t, ht, hkept, -⟩ := h sealedLowTol zeroWrite ENG_WIT_CFG_TOL.addr engWitCfg ⟨ENG_WIT_CFG_TOL, .rws, .boundary, 6⟩
    (by decide) (by decide) regAt_engWitCfg (List.mem_singleton.mpr rfl) hplain (by decide +kernel)
    (.inl ⟨rfl, by decide +kernel⟩)
  rw [exec_registerWrite_of_plain hplain] at ht
  cases ht
  obtain ⟨h3, h0⟩ := tol_after_refused_write
  exact absurd (h3.symm.trans (hkept.trans h0)) (by decide)

/-! ### Access codes (R12, R13) -/

/-- The flags of PWR_FLAG, as its table lists them (R479). -/
def pwrFlags : List Fld := [PWR_FLAG_CAP_MISS, PWR_FLAG_REG_FAULT, PWR_FLAG_VIN_LOW, PWR_FLAG_VIN_HIGH]

theorem pwrFlags_oneBit : ∀ f ∈ pwrFlags, f.inWord ∧ 1 % 2 ^ (f.hi + 1 - f.lo) = 1 := by
  unfold Fld.inWord
  decide

theorem pwrFlags_apart : ∀ f ∈ pwrFlags, ∀ g ∈ pwrFlags, g ≠ f → f.apart g := by
  unfold Fld.apart
  decide

theorem State.fld_raise (s : State) (f g : Fld) (b : Bool) (hf : f ∈ pwrFlags) (hg : g ∈ pwrFlags) :
    (s.raiseIfAt 0 f b).fld g = if g = f ∧ b then 1 else s.fld g := by
  obtain ⟨hin, hone⟩ := pwrFlags_oneBit f hf
  cases b with
  | false => simp [State.raiseIfAt]
  | true =>
    by_cases hgf : g = f
    · subst hgf
      rw [if_pos ⟨rfl, rfl⟩]
      exact (State.fld_put s g 1 hin).trans hone
    · rw [if_neg (fun hc => hgf hc.1)]
      exact State.fld_put_apart s f g 1 hin (pwrFlags_apart f hf g hg hgf)

/-- A flag of PWR_FLAG whose condition stands reads 1; the others stay. -/
theorem State.fld_standing (u : State) (g : Fld) (hg : g ∈ pwrFlags) :
    u.standing.fld g = if u.stands g then 1 else u.fld g := by
  unfold State.standing State.stands
  extract_lets v
  have htouch : TouchesOnly [PWR_FLAG_VIN_LOW.addr] u v :=
    ((TouchesOnly.refl _ u).raise (f := PWR_FLAG_VIN_LOW) (by decide) _).raise (f := PWR_FLAG_VIN_HIGH) (by decide) _
  rw [State.fld_raise _ _ _ _ (by decide) hg, State.fld_raise _ _ _ _ (by decide) hg, State.fld_raise _ _ _ _ (by decide) hg,
    htouch.isSet (f := PWR_STAT_REG_FAULT) (by decide)]
  simp only [Bool.or_eq_true, Bool.and_eq_true, decide_eq_true_eq]
  split_ifs <;> tauto

/-- The conditions of PWR_FLAG do not depend on what a register write may change. -/
theorem TouchesOnly.stands {s t : State} (h : TouchesOnly (PWR_FLAG_VIN_LOW.addr :: writeBooks) s t) (f : Fld) :
    t.stands f = s.stands f := by
  have htherm : t.therm = s.therm := by rw [h.rest]
  unfold State.stands
  rw [htherm, h.fld (f := PWR_VIN_VIN) (by decide), h.isSet (f := PWR_STAT_REG_FAULT) (by decide)]

theorem pwrFlag_fields : ∀ r ∈ regAt PWR_FLAG_VIN_LOW.addr, ∀ f ∈ r.fields,
    f.fld ∈ pwrFlags ∧ f.fld.addr = PWR_FLAG_VIN_LOW.addr ∧ f.acc = .w1c := by
  decide +kernel

theorem State.getBits_storeReg {s : State} {w : Wr} {a : Nat} {r : RegDef} {f : FieldDef} (hr : regAt a = some r)
    (hreach : writeReaches s w a r = true) (hown : ownCommand a = false) (hf : f ∈ r.fields) (h1 : r.name ≠ "ENG_WIT_CFG")
    (h2 : r.name ≠ "THM_SKIP_AT") (h3 : r.name ≠ "PWR_CAP") (hno : s.refuses (s.blockRuns r.blk a) a f = .no) :
    getBits ((s.storeReg w a r).rd a) f.fld.hi f.fld.lo = f.after w.data (s.rd a) := by
  rw [State.rd_storeReg s w a r _ (ne_of_plain hown (by decide)) (clampStore_unbounded h1 h2 h3 _ _)]
  exact s.getBits_newWord w a r f hr (wide_of_reaches hreach) hf hno

theorem plainWriteFollowsAccessCodes : PlainWriteFollowsAccessCodes := by
  intro s w a r f _ hr hf hown h1 h2 h3 hreach hno
  refine ⟨_, exec_registerWrite_of_plain hown w s, ?_⟩
  have hstore := State.getBits_storeReg hr hreach hown hf h1 h2 h3 hno
  rw [State.rd_plainWrite hr hreach hown]
  by_cases hpwr : a = PWR_FLAG_VIN_LOW.addr
  · subst hpwr
    obtain ⟨hflag, haddr, hacc⟩ := pwrFlag_fields r hr f hf
    have hst := (TouchesOnly.storeReg s w r (List.subset_cons_self _ _) List.mem_cons_self).stands f.fld
    have hfld : ∀ u : State, u.fld f.fld = getBits (u.rd PWR_FLAG_VIN_LOW.addr) f.fld.hi f.fld.lo := fun u => by
      rw [← haddr]; rfl
    rw [if_pos rfl, ← hfld, State.fld_standing _ _ hflag, hst, hfld, hstore]
    simp only [FieldDef.after, hacc, true_and]
  · rw [if_neg hpwr, hstore]
    unfold FieldDef.after
    cases f.acc <;> simp only [hpwr, false_and, if_false]

/-! ### Bounds (R69, R478, R479) -/

theorem State.refuses_unsealed {s : State} {f : FieldDef} (h : f.acc = .rws → s.isSet GLB_LOCK_CFG_SEAL = false)
    (hc : f.cls = .boundary) (x : Bool) (a : Nat) : s.refuses x a f = .no := by
  unfold State.refuses
  rw [if_neg (fun hs => by simp [h hs.1] at hs), hc]

/-- The word that an unrefused write of an ENG_WIT_CFG stores. -/
theorem clampStore_engWitCfg (old new : Word) : clampStore engWitCfg old new =
    some (setBits new 4 0 (max 3 (min 15 (getBits new 4 0)))) := by
  have hclamp : (if getBits new 4 0 < 3 then 3 else if 15 < getBits new 4 0 then 15 else getBits new 4 0) =
      max 3 (min 15 (getBits new 4 0)) := by split_ifs <;> omega
  rw [← hclamp]
  rfl

theorem tolStoresWithinItsBounds (s : State) (w : Wr) (n : CoreId) (e : EngId) (r : RegDef)
    (hr : regAt (ENG_WIT_CFG_TOL.addr + engI n e) = some r)
    (hreach : writeReaches s w (ENG_WIT_CFG_TOL.addr + engI n e) r = true) (hseal : s.isSet GLB_LOCK_CFG_SEAL = false) :
    ∃ t, exec (.registerWrite (ENG_WIT_CFG_TOL.addr + engI n e) w) s = .next t ∧
      t.fldAt (engI n e) ENG_WIT_CFG_TOL = max 3 (min 15 (wbits w.data ENG_WIT_CFG_TOL)) := by
  have hloc : locate (ENG_WIT_CFG_TOL.addr + engI n e) = some (.eng, 0x1001010) := locate_engine n e 0x10 (by decide)
  have hown : ownCommand (ENG_WIT_CFG_TOL.addr + engI n e) = false := by
    unfold ownCommand
    rw [hloc]
    decide +kernel
  obtain rfl : engWitCfg = r := by
    have hreg := (regAt_engine n e 0x10 (by decide)).trans regAt_engWitCfg
    exact Option.some.inj (hreg.symm.trans hr)
  have hpwr : ENG_WIT_CFG_TOL.addr + engI n e ≠ PWR_FLAG_VIN_LOW.addr := by
    simp only [ENG_WIT_CFG_TOL, PWR_FLAG_VIN_LOW]
    omega
  have hno := s.refuses_unsealed (f := ⟨ENG_WIT_CFG_TOL, .rws, .boundary, 6⟩) (fun _ => hseal) rfl
    (s.blockRuns .eng (ENG_WIT_CFG_TOL.addr + engI n e)) (ENG_WIT_CFG_TOL.addr + engI n e)
  have hnew : getBits (s.newWord w (ENG_WIT_CFG_TOL.addr + engI n e) engWitCfg) 4 0 = wbits w.data ENG_WIT_CFG_TOL :=
    s.getBits_newWord w _ engWitCfg _ hr rfl (List.mem_singleton.mpr rfl) hno
  refine ⟨_, exec_registerWrite_of_plain hown w s, ?_⟩
  show getBits ((s.plainWrite _ w).rd _) 4 0 = _
  rw [State.rd_plainWrite hr hreach hown, if_neg hpwr,
    State.rd_storeReg s w _ engWitCfg _ (ne_of_plain hown (by decide)) (clampStore_engWitCfg _ _),
    getBits_setBits _ _ _ _ (by decide) (by decide), hnew]
  exact Nat.mod_eq_of_lt (by omega)

/-- The register at `a`, whose one field is a limit in bits 15:0 that a write may lower, not below `low`, and not raise;
where `signed`, the value is in two's complement, and a negative one is stored as `low`. -/
structure LoweredOnly (a low : Nat) (signed : Bool) (r : RegDef) : Prop where
  reg : regAt a = some r
  wide : r.wide = false
  fields : ∃ reset, r.fields = [⟨⟨a, 15, 0⟩, .rw, .boundary, reset⟩]
  clamp : ∀ old new, clampStore r old new =
    if signed ∧ 0x8000 ≤ getBits new 15 0 then some (setBits new 15 0 low)
    else if getBits old 15 0 < getBits new 15 0 then none else some (setBits new 15 0 (max low (getBits new 15 0)))

theorem max_eq_raise (low v : Nat) : max low v = if v < low then low else v := by
  split_ifs <;> omega

/-- The table's row of THM_SKIP_AT (R478). -/
def thmSkipAt : RegDef :=
  ⟨"THM_SKIP_AT", 0x0180030, 1, .thm, true, false, false, [⟨THM_SKIP_AT_TEMP, .rw, .boundary, 25600⟩]⟩

/-- The table's row of PWR_CAP (R479). -/
def pwrCap : RegDef := ⟨"PWR_CAP", 0x01C000C, 1, .pwr, true, false, false, [⟨PWR_CAP_CAP, .rw, .boundary, 14000⟩]⟩

theorem thmSkipAt_loweredOnly : LoweredOnly THM_SKIP_AT_TEMP.addr 0x5500 true thmSkipAt where
  reg := by decide +kernel
  wide := rfl
  fields := ⟨_, rfl⟩
  clamp old new := by
    rw [max_eq_raise]
    simp only [true_and]
    rfl

theorem pwrCap_loweredOnly : LoweredOnly PWR_CAP_CAP.addr 0x1770 false pwrCap where
  reg := by decide +kernel
  wide := rfl
  fields := ⟨_, rfl⟩
  clamp old new := by
    rw [max_eq_raise, if_neg (by simp)]
    rfl

theorem LoweredOnly.unrefused {a low : Nat} {signed : Bool} {r : RegDef} (h : LoweredOnly a low signed r) (s : State) :
    ∀ f ∈ r.fields, s.refuses (s.blockRuns r.blk a) a f = .no := by
  obtain ⟨reset, hfields⟩ := h.fields
  rw [hfields]
  intro f hf
  obtain rfl := List.mem_singleton.mp hf
  exact s.refuses_unsealed (fun hc => by cases hc) rfl _ a

theorem LoweredOnly.getBits_newWord {a low : Nat} {signed : Bool} {r : RegDef} (h : LoweredOnly a low signed r) (s : State)
    (w : Wr) : getBits (s.newWord w a r) 15 0 = wbits w.data ⟨a, 15, 0⟩ := by
  obtain ⟨reset, hfields⟩ := h.fields
  have hmem : (⟨⟨a, 15, 0⟩, .rw, .boundary, reset⟩ : FieldDef) ∈ r.fields := by
    rw [hfields]
    exact List.mem_singleton.mpr rfl
  exact s.getBits_newWord w a r _ h.reg h.wide hmem (h.unrefused s _ hmem)

/-- What such a register holds after a write that stores a value below 2^16. -/
theorem LoweredOnly.fld_of_stored {a low : Nat} {signed : Bool} {r : RegDef} (h : LoweredOnly a low signed r) {s : State}
    {w : Wr} (hreach : writeReaches s w a r = true) (hown : ownCommand a = false) (hpwr : a ≠ PWR_FLAG_VIN_LOW.addr) {x : Nat}
    (hx : x < 2 ^ 16)
    (hc : clampStore r (s.inForce a) (s.newWord w a r) = some (setBits (s.newWord w a r) 15 0 x)) :
    (s.plainWrite a w).fld ⟨a, 15, 0⟩ = x := by
  have hcap := State.captured_of_unrefused (h.unrefused s) w
  show getBits ((s.plainWrite a w).rd a) 15 0 = x
  rw [State.rd_plainWrite h.reg hreach hown, if_neg hpwr,
    State.rd_storeReg s w a r _ (ne_of_plain hown (by decide)) (by rwa [hcap]),
    getBits_setBits _ _ _ _ (by decide) (by decide)]
  exact Nat.mod_eq_of_lt hx

/-- A value that would raise the limit is dropped, and SEC_VIOL.THERMAL_WRITE set. -/
theorem LoweredOnly.of_dropped {a low : Nat} {signed : Bool} {r : RegDef} (h : LoweredOnly a low signed r) {s : State}
    {w : Wr} (hreach : writeReaches s w a r = true) (hown : ownCommand a = false) (hpwr : a ≠ PWR_FLAG_VIN_LOW.addr)
    (hmon : a ≠ MON_CTRL_RUN.addr) (hviol : a ∉ [SEC_VIOL_THERMAL_WRITE.addr, SEC_VIOL_CNT_COUNT.addr])
    (hc : clampStore r (s.inForce a) (s.newWord w a r) = none) :
    (s.plainWrite a w).rd a = s.rd a ∧ (s.plainWrite a w).fld SEC_VIOL_THERMAL_WRITE = 1 := by
  have hcap := State.captured_of_unrefused (h.unrefused s) w
  have hwrite : s.plainWrite a w = ((s.put SEC_VIOL_THERMAL_WRITE 1).add SEC_VIOL_CNT_COUNT 1).settle := by
    rw [State.plainWrite_of_reaches h.reg hreach hown, if_neg hpwr, if_neg hmon,
      State.storeReg_of_none _ _ _ _ (by rwa [hcap]), hcap]
  have hviolIn : SEC_VIOL_THERMAL_WRITE.inWord := by unfold Fld.inWord; decide
  rw [hwrite, State.rd_settle, State.fld_settle]
  constructor
  · have htouch := ((TouchesOnly.refl [SEC_VIOL_THERMAL_WRITE.addr, SEC_VIOL_CNT_COUNT.addr] s).put
      (f := SEC_VIOL_THERMAL_WRITE) (by simp) 1).add (f := SEC_VIOL_CNT_COUNT) (by simp) 1
    exact htouch.regs a hviol
  · have hcount := (TouchesOnly.refl [SEC_VIOL_CNT_COUNT.addr] (s.put SEC_VIOL_THERMAL_WRITE 1)).add
      (f := SEC_VIOL_CNT_COUNT) (by simp) 1
    rw [hcount.fld (f := SEC_VIOL_THERMAL_WRITE) (by decide), State.fld_put _ _ _ hviolIn]
    rfl

theorem LoweredOnly.write {a low : Nat} {signed : Bool} {r : RegDef} (h : LoweredOnly a low signed r) (s : State) (w : Wr)
    (hlow : low < 2 ^ 16) (hown : ownCommand a = false) (hpwr : a ≠ PWR_FLAG_VIN_LOW.addr) (hmon : a ≠ MON_CTRL_RUN.addr)
    (hviol : a ∉ [SEC_VIOL_THERMAL_WRITE.addr, SEC_VIOL_CNT_COUNT.addr]) (hreach : writeReaches s w a r = true) :
    (signed = true → 0x8000 ≤ wbits w.data ⟨a, 15, 0⟩ → (s.plainWrite a w).fld ⟨a, 15, 0⟩ = low) ∧
    (signed = false ∨ wbits w.data ⟨a, 15, 0⟩ < 0x8000 →
      (wbits w.data ⟨a, 15, 0⟩ ≤ s.inForceAt 0 ⟨a, 15, 0⟩ →
        (s.plainWrite a w).fld ⟨a, 15, 0⟩ = max low (wbits w.data ⟨a, 15, 0⟩)) ∧
      (s.inForceAt 0 ⟨a, 15, 0⟩ < wbits w.data ⟨a, 15, 0⟩ →
        (s.plainWrite a w).rd a = s.rd a ∧ (s.plainWrite a w).fld SEC_VIOL_THERMAL_WRITE = 1)) := by
  have hclamp := h.clamp (s.inForce a) (s.newWord w a r)
  rw [h.getBits_newWord s w] at hclamp
  have hv : wbits w.data ⟨a, 15, 0⟩ < 2 ^ 16 := getBits_lt w.data 15 0
  have hforce : s.inForceAt 0 ⟨a, 15, 0⟩ = getBits (s.inForce a) 15 0 := rfl
  rw [hforce]
  refine ⟨fun hs hneg => ?_, fun hpos => ⟨fun hle => ?_, fun hgt => ?_⟩⟩
  · rw [if_pos ⟨hs, hneg⟩] at hclamp
    exact h.fld_of_stored hreach hown hpwr hlow hclamp
  · rw [if_neg (by rintro ⟨hs, hneg⟩; simp [hs] at hpos; omega), if_neg (by omega)] at hclamp
    exact h.fld_of_stored hreach hown hpwr (by omega) hclamp
  · rw [if_neg (by rintro ⟨hs, hneg⟩; simp [hs] at hpos; omega), if_pos hgt] at hclamp
    exact h.of_dropped hreach hown hpwr hmon hviol hclamp

theorem boundedFieldsStoreWithinTheirBounds : BoundedFieldsStoreWithinTheirBounds := by
  intro s w
  refine ⟨tolStoresWithinItsBounds s w, fun f low r hf hr hreach => ?_⟩
  obtain hf | hf := hf
  · obtain ⟨rfl, rfl⟩ := Prod.mk.inj hf
    obtain rfl := Option.some.inj (thmSkipAt_loweredOnly.reg.symm.trans hr)
    have hown : ownCommand THM_SKIP_AT_TEMP.addr = false := by decide +kernel
    obtain ⟨hneg, hpos⟩ := thmSkipAt_loweredOnly.write s w (by decide) hown (by decide) (by decide) (by decide) hreach
    refine ⟨_, exec_registerWrite_of_plain hown w s, fun _ => hneg rfl, fun hor => hpos (.inr ?_)⟩
    exact hor.resolve_left (by decide)
  · obtain ⟨rfl, rfl⟩ := Prod.mk.inj hf
    obtain rfl := Option.some.inj (pwrCap_loweredOnly.reg.symm.trans hr)
    have hown : ownCommand PWR_CAP_CAP.addr = false := by decide +kernel
    obtain ⟨-, hpos⟩ := pwrCap_loweredOnly.write s w (by decide) hown (by decide) (by decide) (by decide) hreach
    exact ⟨_, exec_registerWrite_of_plain hown w s, fun hf => absurd hf (by decide), fun _ => hpos (.inl rfl)⟩

/-- Settles O3: the access codes, and the three registers with bounds. -/
theorem registerWritesAct : Obligations.RegisterWritesAct :=
  ⟨plainWriteFollowsAccessCodes, boundedFieldsStoreWithinTheirBounds⟩

/-! ### The frame of a write, and class B (R15, R16) -/

theorem registerWriteFrame : RegisterWriteFrame := by
  intro s w a hown
  have htouch : TouchesOnly (a :: writeBooks) s (s.plainWrite a w) :=
    TouchesOnly.plainWrite s w (List.subset_cons_self _ _) List.mem_cons_self
  exact ⟨_, exec_registerWrite_of_plain hown w s, htouch.regs, htouch.rest⟩

/-- Beside the registers with bounds, the registers whose fields are all writable and of class B lie in the blocks TB and ASZ. -/
theorem Block.boundary_registers (b : Block) : ∀ r ∈ b.regs, r.fields ≠ [] →
    (∀ f ∈ r.fields, f.cls = .boundary ∧ (f.acc = .rw ∨ f.acc = .rws)) →
    r.name = "ENG_WIT_CFG" ∨ r.name = "THM_SKIP_AT" ∨ r.name = "PWR_CAP" ∨ r.blk = .tb ∨ r.blk = .asz := by
  cases b <;> decide +kernel

/-- The status registers that say whether TB and ASZ run, and the two registers whose writes have more to follow, hold a
field that is not of class B. -/
theorem exists_not_boundary : ∀ a ∈ [TB_STAT_RUNNING.addr, ASZ_STAT_RUNNING.addr, PWR_FLAG_VIN_LOW.addr, MON_CTRL_RUN.addr],
    ∀ r ∈ regAt a, ∃ f ∈ r.fields, f.cls ≠ .boundary := by
  decide +kernel

/-- Whether TB or ASZ runs does not depend on a register that is not its status register. -/
theorem TouchesOnly.blockRuns {as : List Nat} {s t : State} (h : TouchesOnly as s t) (htb : TB_STAT_RUNNING.addr ∉ as)
    (hasz : ASZ_STAT_RUNNING.addr ∉ as) {b : Block} (hb : b = .tb ∨ b = .asz) (a : Nat) :
    t.blockRuns b a = s.blockRuns b a := by
  obtain rfl | rfl := hb
  · exact h.isSet htb
  · exact h.isSet hasz

theorem State.inForce_settle_of_runs {s : State} {a : Nat} {r : RegDef} (hr : regAt a = some r) (h : s.blockRuns r.blk a = true) :
    s.settle.inForce a = s.inForce a := by
  have hfind : s.settle.waitB.find? (fun e => e.1 = a) = s.waitB.find? (fun e => e.1 = a) := by
    unfold State.settle
    rw [List.find?_filter]
    congr 1
    funext e
    by_cases he : e.1 = a
    · simp [he, hr, h]
    · simp [he]
  unfold State.inForce
  rw [hfind]
  rfl

theorem State.inForce_settle_of_stopped {s : State} {a : Nat} {r : RegDef} (hr : regAt a = some r)
    (h : s.blockRuns r.blk a = false) : s.settle.inForce a = s.rd a := by
  have hfind : s.settle.waitB.find? (fun e => e.1 = a) = none := by
    unfold State.settle
    rw [List.find?_filter, List.find?_eq_none]
    intro e _
    by_cases he : e.1 = a
    · simp [he, hr, h]
    · simp [he]
  unfold State.inForce
  rw [hfind]
  rfl

/-- While the block runs, the old word of a class B register waits, and stays in force. -/
theorem State.inForce_holdOld {s : State} {a : Nat} {r : RegDef} (hruns : s.blockRuns r.blk a = true)
    (hb : (s.okFields a r).any (fun f => f.cls = .boundary) = true) (new : Word) :
    ((s.holdOld s a r new).wr a new).inForce a = s.inForce a := by
  unfold State.holdOld
  rw [hruns, hb]
  split
  next hc =>
    obtain ⟨-, -, hnone⟩ := hc
    unfold State.inForce
    rw [Option.isNone_iff_eq_none.mp hnone]
    simp [State.wr]
  next hc =>
    unfold State.inForce
    rw [State.wr_waitB]
    cases hw : s.waitB.find? (fun e => e.1 = a) with
    | some e => rfl
    | none =>
      have hsame : new = s.rd a := by
        by_contra hne
        exact hc ⟨rfl, hne, by rw [hw]; rfl⟩
      exact (State.rd_wr_self s a new).trans hsame

theorem State.inForce_openCovered (s : State) (r : RegDef) (x : Bool) {a : Nat} (ha : a ≠ CFG_CRC_CTRL_OPEN.addr) :
    (s.openCovered r x).inForce a = s.inForce a := by
  unfold State.inForce
  rw [State.openCovered_waitB, State.rd_openCovered s r x a ha]

theorem boundaryClassWaitsForItsFurlong : BoundaryClassWaitsForItsFurlong := by
  intro s w a r _ hr hown h1 h2 h3 hreach hne hfields
  have hno : ∀ f ∈ r.fields, s.refuses (s.blockRuns r.blk a) a f = .no := fun f hf => (hfields f hf).2.2
  have hblk : r.blk = .tb ∨ r.blk = .asz := by
    obtain ⟨b, hb⟩ := mem_regs_of_regAt hr
    have hcases := b.boundary_registers r hb hne (fun f hf => ⟨(hfields f hf).1, (hfields f hf).2.1⟩)
    tauto
  have hother : ∀ x ∈ [TB_STAT_RUNNING.addr, ASZ_STAT_RUNNING.addr, PWR_FLAG_VIN_LOW.addr, MON_CTRL_RUN.addr], x ≠ a := by
    rintro x hx rfl
    obtain ⟨f, hf, hcls⟩ := exists_not_boundary x hx r hr
    exact hcls (hfields f hf).1
  have hpwr : a ≠ PWR_FLAG_VIN_LOW.addr := (hother _ (by simp)).symm
  have hmon : a ≠ MON_CTRL_RUN.addr := (hother _ (by simp)).symm
  have hcrc : a ≠ CFG_CRC_CTRL_OPEN.addr := ne_of_plain hown (by decide)
  have hruns : (s.storeReg w a r).blockRuns r.blk a = s.blockRuns r.blk a := by
    refine (TouchesOnly.storeReg s w r (List.subset_cons_self _ _) List.mem_cons_self).blockRuns ?_ ?_ hblk a
    · exact List.not_mem_cons_of_ne_of_not_mem (hother _ (by simp)) (by decide)
    · exact List.not_mem_cons_of_ne_of_not_mem (hother _ (by simp)) (by decide)
  refine ⟨_, exec_registerWrite_of_plain hown w s, fun f hf => ?_, fun hrun => ?_, fun hstop => ?_⟩
  · rw [State.rd_plainWrite hr hreach hown, if_neg hpwr, State.getBits_storeReg hr hreach hown hf h1 h2 h3 (hno f hf)]
    obtain hacc | hacc := (hfields f hf).2.1 <;> simp only [FieldDef.after, hacc]
  · rw [State.plainWrite_of_reaches hr hreach hown, if_neg hpwr, if_neg hmon,
      State.inForce_settle_of_runs hr (hruns.trans hrun),
      s.storeReg_of_some w a r _ (clampStore_unbounded h1 h2 h3 _ _), State.inForce_openCovered _ _ _ hcrc,
      State.captured_of_unrefused hno]
    refine State.inForce_holdOld hrun ?_ _
    obtain ⟨f, hf⟩ := List.exists_mem_of_ne_nil _ hne
    exact List.any_eq_true.mpr ⟨f, List.mem_filter.mpr ⟨hf, by simpa using hno f hf⟩, by simpa using (hfields f hf).1⟩
  · rw [State.plainWrite_of_reaches hr hreach hown, if_neg hpwr, if_neg hmon, State.rd_settle]
    exact State.inForce_settle_of_stopped hr (hruns.trans hstop)

/-- Settles O4: the frame of every write, and the wait of class B. -/
theorem writesTouchOnlyTheirRegister : Obligations.WritesTouchOnlyTheirRegister :=
  ⟨registerWriteFrame, boundaryClassWaitsForItsFurlong⟩

/-! ### The seal (R14, R473) -/

/-- The table's row of GLB_LOCK. -/
def glbLock : RegDef :=
  ⟨"GLB_LOCK", 0x0000020, 1, .glb, false, false, false, [⟨GLB_LOCK_BY_TDISP, .ro, .none, 0⟩, ⟨GLB_LOCK_CFG_SEAL, .rws, .live, 0⟩]⟩

/-- The table's row of GLB_LOCK.CFG_SEAL. -/
def cfgSeal : FieldDef := ⟨GLB_LOCK_CFG_SEAL, .rws, .live, 0⟩

theorem regAt_glbLock : regAt GLB_LOCK_CFG_SEAL.addr = some glbLock := by decide +kernel

theorem State.capture_mon (s : State) (w : Wr) (a : Nat) (x : Bool) : (s.capture w a x).mon = s.mon := by
  unfold State.capture
  extract_lets u v
  have hu : u.mon = s.mon := s.add_mon _ _
  have hv : v.mon = u.mon := ((State.flag_mon _ _ _).trans (State.flag_mon _ _ _)).trans (State.put_mon _ _ _)
  clear_value v u
  split
  · exact hu
  · exact ((State.put_mon _ _ _).trans (State.put_mon _ _ _)).trans (hv.trans hu)

theorem State.captured_mon (s : State) (w : Wr) (a : Nat) (r : RegDef) : (s.captured w a r).mon = s.mon := by
  unfold State.captured
  split
  · exact s.capture_mon w a true
  · split
    · exact s.capture_mon w a false
    · rfl

theorem State.storeReg_mon (s : State) (w : Wr) (a : Nat) (r : RegDef) : (s.storeReg w a r).mon = s.mon := by
  cases h : clampStore r ((s.captured w a r).inForce a) (s.newWord w a r) with
  | none =>
    rw [s.storeReg_of_none w a r h, State.add_mon, State.put_mon, State.captured_mon]
  | some new =>
    rw [s.storeReg_of_some w a r new h, State.openCovered_mon, State.wr_mon, State.holdOld_mon, State.captured_mon]

/-- CFG_SEAL in the word that a write of GLB_LOCK leaves: the seal refuses its own change. -/
theorem State.cfgSeal_newWord (s : State) (w : Wr) :
    getBits (s.newWord w GLB_LOCK_CFG_SEAL.addr glbLock) 0 0 =
      if s.isSet GLB_LOCK_CFG_SEAL then s.fld GLB_LOCK_CFG_SEAL else wbits w.data GLB_LOCK_CFG_SEAL := by
  cases hseal : s.isSet GLB_LOCK_CFG_SEAL with
  | true =>
    have hrefused : ∀ x a, s.refuses x a cfgSeal = .seal := fun x a => if_pos ⟨rfl, hseal⟩
    have hlock : GLB_LOCK_BY_TDISP.inWord ∧ GLB_LOCK_BY_TDISP.apart GLB_LOCK_CFG_SEAL := by
      unfold Fld.inWord Fld.apart
      decide
    refine getBits_storeFields_apart w.data _ _ GLB_LOCK_CFG_SEAL fun f hf => ?_
    obtain ⟨hmem, hno⟩ := List.mem_filter.mp hf
    obtain rfl | hmem := List.mem_cons.mp hmem
    · exact hlock
    · obtain rfl : f = cfgSeal := List.mem_singleton.mp hmem
      simp [hrefused] at hno
  | false =>
    have hno : s.refuses (s.blockRuns .glb GLB_LOCK_CFG_SEAL.addr) GLB_LOCK_CFG_SEAL.addr cfgSeal = .no := by
      unfold State.refuses
      rw [hseal, if_neg (by simp)]
      rfl
    exact s.getBits_newWord w _ glbLock cfgSeal regAt_glbLock rfl (by decide) hno

theorem sealSetOnceUntilReset : SealSetOnceUntilReset := by
  intro s w r hr hreach
  obtain rfl := Option.some.inj (regAt_glbLock.symm.trans hr)
  refine ⟨_, rfl, ?_⟩
  rw [State.write_of_reaches hr hreach (by decide)]
  have htouch : TouchesOnly (GLB_LOCK_CFG_SEAL.addr :: writeBooks) s (s.storeReg w GLB_LOCK_CFG_SEAL.addr glbLock) :=
    TouchesOnly.storeReg s w glbLock (List.subset_cons_self _ _) List.mem_cons_self
  refine ⟨?_, htouch.regs, ?_⟩
  · have hrd : (s.storeReg w GLB_LOCK_CFG_SEAL.addr glbLock).rd GLB_LOCK_CFG_SEAL.addr =
        s.newWord w GLB_LOCK_CFG_SEAL.addr glbLock := State.rd_storeReg _ _ _ _ _ (by decide) rfl
    have hfld : (s.storeReg w GLB_LOCK_CFG_SEAL.addr glbLock).fld GLB_LOCK_CFG_SEAL =
        getBits (s.newWord w GLB_LOCK_CFG_SEAL.addr glbLock) 0 0 := congrArg (getBits · 0 0) hrd
    rw [s.cfgSeal_newWord w] at hfld
    show decide (State.fld _ GLB_LOCK_CFG_SEAL = 1) = _
    rw [hfld]
    cases hseal : s.isSet GLB_LOCK_CFG_SEAL with
    | true => simpa [State.isSet] using hseal
    | false => rfl
  · have hrest := htouch.rest
    rwa [State.storeReg_mon] at hrest

/-! ### The wide mailboxes (R466, R469, R470) -/

theorem State.box_setBox (s : State) (p q : PortId) (b : Mailbox) :
    (s.setBox p b).box q = if q = p then b else s.box q := by
  cases p <;> cases q <;> rfl

theorem State.setBox_rest (s : State) (p : PortId) (b : Mailbox) :
    s.setBox p b = { s with hostBox := (s.setBox p b).hostBox, coreBox := (s.setBox p b).coreBox } := by
  cases p <;> rfl

/-- A mailbox once its snapshot is done, of a wide register's words or of an address that names none. -/
def Mailbox.filled (b : Mailbox) : Option (List Word) → Mailbox
  | some ws => { b with busy := false, valid := true, err := false, words := ws.length - 1,
                        data := ws ++ List.replicate (16 - ws.length) 0 }
  | none => { b with busy := false, valid := true, err := true, words := 0, data := List.replicate 16 0 }

theorem Mailbox.filled_done (b : Mailbox) (v : Option (List Word)) : (b.filled v).busy = false ∧ (b.filled v).valid = true := by
  cases v <;> exact ⟨rfl, rfl⟩

theorem exec_wideSelWrite {s : State} {w : Wr} {r : RegDef} (hr : regAt WIDE_SEL_ADDR.addr = some r)
    (h : writeReaches s w WIDE_SEL_ADDR.addr r = true) : exec (.wideSelWrite w) s = .next (s.setBox w.port
      { s.box w.port with addr := wbits w.data WIDE_SEL_ADDR * 4, busy := true, valid := false }) := by
  show execWideSelWrite w s = _
  unfold execWideSelWrite
  rw [State.write_past_gates hr h, if_pos rfl]

theorem exec_wideSnapshotDone {s : State} {p : PortId} (h : (s.box p).busy = true) :
    exec (.wideSnapshotDone p) s = .next (s.setBox p ((s.box p).filled (s.wide (s.box p).addr))) := by
  show execWideSnapshotDone p s = _
  unfold execWideSnapshotDone
  dsimp only
  rw [h]
  cases s.wide (s.box p).addr <;> rfl

theorem wideMailboxReadsSnapshot : WideMailboxReadsSnapshot := by
  intro s
  refine ⟨fun w r hr hreach => ⟨_, exec_wideSelWrite hr hreach, ?_⟩, fun p hbusy => ⟨_, exec_wideSnapshotDone hbusy, ?_⟩⟩
  · rw [State.box_setBox, if_pos rfl]
    refine ⟨rfl, rfl, rfl, fun p hp => ?_, State.setBox_rest s _ _⟩
    rw [State.box_setBox, if_neg hp]
  · obtain ⟨hidle, hvalid⟩ := (s.box p).filled_done (s.wide (s.box p).addr)
    rw [State.box_setBox, if_pos rfl]
    refine ⟨hidle, hvalid, fun ha => ?_, fun hn => ?_, fun q hq => ?_, State.setBox_rest s _ _⟩
    · rw [ha]
      exact ⟨rfl, rfl⟩
    · rw [hn]
      exact ⟨rfl, rfl⟩
    · rw [State.box_setBox, if_neg hq]

/-- Settles O5: the seal, and the wide mailboxes. -/
theorem sealAndWideMailboxes : Obligations.SealAndWideMailboxes := ⟨sealSetOnceUntilReset, wideMailboxReadsSnapshot⟩

/-! ### The state after reset -/

theorem State.reset_inv : State.reset.Inv := ⟨⟨rfl, rfl, rfl, rfl⟩, by decide⟩

/-- TOL of every engine reads 6 after reset (R69). -/
theorem reset_tol (n : CoreId) (e : EngId) : State.reset.fldAt (engI n e) ENG_WIT_CFG_TOL = 6 := by
  have hreg : regAt (ENG_WIT_CFG_TOL.addr + engI n e) = some engWitCfg :=
    (regAt_engine n e 0x10 (by decide)).trans regAt_engWitCfg
  have hword : State.reset.rd (ENG_WIT_CFG_TOL.addr + engI n e) = engWitCfg.resetWord := by
    show regReset _ = _
    unfold regReset
    rw [hreg]
    rfl
  unfold State.fldAt
  rw [hword]
  decide +kernel

/-- Settles O59: no register is listed after reset, so each reads its reset value; the values are those of the map. -/
theorem resetLeavesTheMachineAtRest : Obligations.ResetLeavesTheMachineAtRest := by
  unfold Obligations.ResetLeavesTheMachineAtRest
  refine ⟨State.reset_inv, rfl, fun _ => rfl, ?_, ?_, ?_, ?_, ?_, ?_, ?_, rfl, ?_, ?_, ?_, ?_, ?_, reset_tol, fun _ => rfl,
    rfl, rfl⟩
    <;> decide +kernel

end Sys2Proof.Machine
end

section
/-! What the tokens' operations, late data and voided rows leave of the state, and the counts of a late issue (R194 to R196). -/
namespace Sys2Proof.Machine

/-! ### What a fold leaves as it was -/

/-- A fold whose every step leaves a part of the state as it was leaves it so. -/
theorem foldl_leaves {σ α β : Type} (part : σ → β) (f : σ → α → σ) (l : List α) (s : σ) (h : ∀ u x, part (f u x) = part u) :
    part (l.foldl f s) = part s := by
  induction l generalizing s with
  | nil => rfl
  | cons x l ih => exact (ih _).trans (h s x)

/-- Operations in a choice that leave a part of the state as it was. -/
theorem ite_leaves {σ β : Type} {part : σ → β} {c : Prop} [Decidable c] {a b : σ} {x : β} (ha : part a = x) (hb : part b = x) :
    part (if c then a else b) = x := by
  split
  · exact ha
  · exact hb

/-! ### Tokens -/

theorem State.token_setToken (s : State) (core tok : Nat) (t : Token) : (s.setToken core tok t).token core tok = t :=
  (SMap.get_set _ _ _ _ _).trans (if_pos rfl)

@[simp] theorem State.consume_regs (s : State) (i : Issue) : (s.consume i).regs = s.regs :=
  foldl_leaves State.regs _ _ _ fun _ _ => rfl
@[simp] theorem State.consume_engines (s : State) (i : Issue) : (s.consume i).engines = s.engines :=
  foldl_leaves State.engines _ _ _ fun _ _ => rfl
@[simp] theorem State.consume_faults (s : State) (i : Issue) : (s.consume i).faults = s.faults :=
  foldl_leaves State.faults _ _ _ fun _ _ => rfl
@[simp] theorem State.consume_boot (s : State) (i : Issue) : (s.consume i).boot = s.boot :=
  foldl_leaves State.boot _ _ _ fun _ _ => rfl
@[simp] theorem State.consume_freeCtr (s : State) (i : Issue) : (s.consume i).freeCtr = s.freeCtr :=
  foldl_leaves State.freeCtr _ _ _ fun _ _ => rfl

@[simp] theorem State.completeOut_regs (s : State) (i : Issue) : (s.completeOut i).regs = s.regs := ite_leaves rfl rfl
@[simp] theorem State.completeOut_engines (s : State) (i : Issue) : (s.completeOut i).engines = s.engines := ite_leaves rfl rfl

@[simp] theorem State.produce_regs (s : State) (i : Issue) (a v f : BitVec 32) : (s.produce i a v f).regs = s.regs :=
  ite_leaves rfl rfl
@[simp] theorem State.produce_engines (s : State) (i : Issue) (a v f : BitVec 32) : (s.produce i a v f).engines = s.engines :=
  ite_leaves rfl rfl
@[simp] theorem State.produce_freeCtr (s : State) (i : Issue) (a v f : BitVec 32) : (s.produce i a v f).freeCtr = s.freeCtr :=
  ite_leaves rfl rfl

/-- The row of a beat's result arrives in the OUT token that the issue names. -/
theorem State.arrived_produce (s : State) (i : Issue) (row : Fin 32) (v f : BitVec 32) (h : i.out ≠ 255) :
    ((s.produce i ((1 : BitVec 32) <<< row.val) v f).token i.core i.out).arrived.getLsbD row = true := by
  unfold State.produce
  rw [if_neg h, State.token_setToken]
  simp

/-! ### Rows that fall void -/

theorem State.fallRows_leaves {β : Type} (part : State → β) (h : ∀ s r a, part { s with rqt := r, att := a } = part s) (s : State)
    (rows : List BushelRow) (mask : BitVec 32) : part (s.fallRows rows mask) = part s :=
  foldl_leaves part _ _ _ fun u _ => ite_leaves (h u _ _) rfl

/-- Voiding rows changes the request table and the attention's folds only. -/
theorem State.voidRows_leaves {β : Type} (part : State → β) (h : ∀ s r a, part { s with rqt := r, att := a } = part s) (s : State)
    (key : Option Nat) (mask : BitVec 32) : part (s.voidRows key mask) = part s := by
  unfold State.voidRows
  split
  · rfl
  · split
    · rfl
    · exact (h _ _ _).trans (State.fallRows_leaves part h s _ _)

@[simp] theorem State.voidRows_regs (s : State) (key : Option Nat) (mask : BitVec 32) : (s.voidRows key mask).regs = s.regs :=
  s.voidRows_leaves State.regs (fun _ _ _ => rfl) key mask
@[simp] theorem State.voidRows_engines (s : State) (key : Option Nat) (mask : BitVec 32) :
    (s.voidRows key mask).engines = s.engines := s.voidRows_leaves State.engines (fun _ _ _ => rfl) key mask
@[simp] theorem State.lateRows_engines (s : State) (key : Option Nat) (mask : BitVec 32) :
    (s.lateRows key mask).engines = s.engines := by simp [State.lateRows]

/-- The registers after late data: the void positions are counted. -/
theorem State.lateRows_regs (s : State) (key : Option Nat) (mask : BitVec 32) :
    (s.lateRows key mask).regs = (s.add TB_VOID_CNT_COUNT (popcount mask)).regs :=
  State.voidRows_regs _ _ _

/-! ### Registers -/

theorem State.fldAt_of_regs {s t : State} (h : t.regs = s.regs) (i : Nat) (f : Fld) : t.fldAt i f = s.fldAt i f := by
  unfold State.fldAt State.rd
  rw [h]

theorem State.fldAt_addAt_ne (s : State) (i j : Nat) (f g : Fld) (n : Nat) (h : g.addr + j ≠ f.addr + i) :
    (s.addAt i f n).fldAt j g = s.fldAt j g := State.fldAt_putAt_ne s i j f g _ h

/-- A late input's issue is counted on its core and on the die (R195). -/
theorem State.skipLate_counts (s : State) (i : Issue) (key : Option Nat) :
    (s.skipLate i key).fldAt (coreI i.core) SEQ_LATE_CNT_COUNT =
        min (s.fldAt (coreI i.core) SEQ_LATE_CNT_COUNT + 1) SEQ_LATE_CNT_COUNT.top ∧
      (s.skipLate i key).fld TB_LATE_CNT_COUNT = min (s.fld TB_LATE_CNT_COUNT + 1) TB_LATE_CNT_COUNT.top := by
  have hin : SEQ_LATE_CNT_COUNT.inWord ∧ TB_LATE_CNT_COUNT.inWord := by
    unfold Fld.inWord
    decide
  have hregs : ((s.consume i).completeOut i).regs = s.regs := by simp
  have hseq : SEQ_LATE_CNT_COUNT.addr = 0x1000040 := rfl
  have htb : TB_LATE_CNT_COUNT.addr = 0x1100 := rfl
  have hvoid : TB_VOID_CNT_COUNT.addr = 0x1108 := rfl
  unfold State.skipLate State.fld
  extract_lets rows old u w
  have hw : ∀ j f, TB_VOID_CNT_COUNT.addr ≠ f.addr + j → (w.lateRows key (rows &&& ~~~ old)).fldAt j f = w.fldAt j f :=
    fun j f h => (State.fldAt_of_regs (State.lateRows_regs _ _ _) j f).trans (State.fldAt_addAt_ne w 0 j _ f _ (by omega))
  refine ⟨?_, ?_⟩
  · rw [hw _ _ (by unfold coreI; omega)]
    refine (State.fldAt_addAt_ne _ 0 _ _ _ 1 (by unfold coreI; omega)).trans ?_
    rw [State.fldAt_addAt _ _ _ _ hin.1, State.fldAt_of_regs hregs]
  · rw [hw _ _ (by omega)]
    refine (State.fldAt_addAt _ 0 _ 1 hin.2).trans ?_
    rw [State.fldAt_addAt_ne _ _ _ _ _ _ (by unfold coreI; omega), State.fldAt_of_regs hregs]

@[simp] theorem State.skipLate_engines (s : State) (i : Issue) (key : Option Nat) : (s.skipLate i key).engines = s.engines := by
  simp [State.skipLate]

end Sys2Proof.Machine
end

section
/-! The staging registers under a beat's operations (R45, R56): faults, trim sets, conversions, merges and passes leave the vectors
that are staged. -/
namespace Sys2Proof.Machine

/-! ### The staging registers of every engine -/

theorem State.engine_of_engines {s t : State} (h : t.engines = s.engines) (core eng : Nat) :
    t.engine core eng = s.engine core eng := by
  unfold State.engine
  rw [h]

theorem State.engine_setEngine (s : State) (core eng : Nat) (e : Engine) : (s.setEngine core eng e).engine core eng = e :=
  (SMap.get_set _ _ _ _ _).trans (if_pos rfl)

/-- From `s` to `t`, the vectors in the staging registers stay. -/
structure KeepsStaged (s t : State) : Prop where
  staged : ∀ core eng, (t.engine core eng).staged = (s.engine core eng).staged

section
variable {s t : State}

theorem KeepsStaged.refl (s : State) : KeepsStaged s s := ⟨fun _ _ => rfl⟩

theorem KeepsStaged.trans {u : State} (h : KeepsStaged s t) (g : KeepsStaged t u) : KeepsStaged s u :=
  ⟨fun core eng => (g.staged core eng).trans (h.staged core eng)⟩

/-- An operation that leaves the engines alone. -/
theorem KeepsStaged.same {u : State} (h : KeepsStaged s t) (e : u.engines = t.engines) : KeepsStaged s u :=
  ⟨fun core eng => (congrArg Engine.staged (State.engine_of_engines e core eng)).trans (h.staged core eng)⟩

theorem KeepsStaged.ite {u : State} {c : Prop} [Decidable c] (h : KeepsStaged s t) (g : KeepsStaged s u) :
    KeepsStaged s (if c then t else u) := by
  split
  · exact h
  · exact g

theorem KeepsStaged.foldl {α : Type} (f : State → α → State) (l : List α) (h : KeepsStaged s t)
    (hf : ∀ u x, KeepsStaged u (f u x)) : KeepsStaged s (l.foldl f t) := by
  induction l generalizing t with
  | nil => exact h
  | cons x l ih => exact ih (h.trans (hf t x))

theorem KeepsStaged.setEngine (h : KeepsStaged s t) {core eng : Nat} {e : Engine}
    (he : e.staged = (t.engine core eng).staged) : KeepsStaged s (t.setEngine core eng e) := by
  refine h.trans ⟨fun c' e' => ?_⟩
  by_cases hk : engKey c' e' = engKey core eng
  · have hsame : t.engine c' e' = t.engine core eng := by
      unfold State.engine
      rw [hk]
    rw [hsame, ← he]
    exact congrArg Engine.staged ((SMap.get_set _ _ _ _ _).trans (if_pos hk))
  · exact congrArg Engine.staged ((SMap.get_set _ _ _ _ _).trans (if_neg hk))

theorem KeepsStaged.putAt (h : KeepsStaged s t) (i : Nat) (f : Fld) (v : Nat) : KeepsStaged s (t.putAt i f v) := h.same rfl
theorem KeepsStaged.addAt (h : KeepsStaged s t) (i : Nat) (f : Fld) (n : Nat) : KeepsStaged s (t.addAt i f n) := h.same rfl
theorem KeepsStaged.put (h : KeepsStaged s t) (f : Fld) (v : Nat) : KeepsStaged s (t.put f v) := h.same rfl
theorem KeepsStaged.add (h : KeepsStaged s t) (f : Fld) (n : Nat) : KeepsStaged s (t.add f n) := h.same rfl
theorem KeepsStaged.raiseIfAt (h : KeepsStaged s t) (i : Nat) (f : Fld) (b : Bool) : KeepsStaged s (t.raiseIfAt i f b) :=
  .ite (h.putAt i f 1) h

theorem KeepsStaged.produce (h : KeepsStaged s t) (i : Issue) (a v f : BitVec 32) : KeepsStaged s (t.produce i a v f) :=
  h.same (t.produce_engines i a v f)

theorem KeepsStaged.voidRows (h : KeepsStaged s t) (key : Option Nat) (mask : BitVec 32) : KeepsStaged s (t.voidRows key mask) :=
  h.same (t.voidRows_engines key mask)

theorem KeepsStaged.lateRows (h : KeepsStaged s t) (key : Option Nat) (mask : BitVec 32) : KeepsStaged s (t.lateRows key mask) :=
  (h.add TB_VOID_CNT_COUNT (popcount mask)).voidRows key mask

/-! ### Faults -/

theorem KeepsStaged.fired (h : KeepsStaged s t) : KeepsStaged s t.fired := by
  unfold State.fired
  split
  · exact h
  · extract_lets faults u v i
    have hu : KeepsStaged s u := .same h rfl
    clear_value u
    have hv : KeepsStaged s v := .add (.put (.put hu _ _) _ _) _ _
    clear_value v
    exact .ite (.putAt (.putAt (.putAt hv _ _ _) _ _ _) _ _ _) hv

theorem KeepsStaged.tryInject (h : KeepsStaged s t) (point core unit : Nat) :
    KeepsStaged s (t.tryInject point core unit).1 := by
  unfold State.tryInject
  split
  · exact .fired h
  · exact h

theorem KeepsStaged.faultRecord (h : KeepsStaged s t) (r : FaultRec) : KeepsStaged s (t.faultRecord r) := .same h rfl

theorem KeepsStaged.silentError (h : KeepsStaged s t) (r : FaultRec) (key : Option Nat) (rows : BitVec 32) :
    KeepsStaged s (t.silentError r key rows) := by
  unfold State.silentError
  extract_lets u v
  have hu : KeepsStaged s u := by
    unfold u
    split
    · exact .voidRows h _ rows
    · exact h
  clear_value u
  exact .putAt (.addAt (.faultRecord hu r) _ _ _) _ _ _

theorem KeepsStaged.requestFence (h : KeepsStaged s t) (core : Nat) : KeepsStaged s (t.requestFence core) := by
  unfold State.requestFence
  refine .ite h (.putAt ?_ _ _ _)
  exact .same h rfl

theorem KeepsStaged.distrust (h : KeepsStaged s t) (core unit : Nat) : KeepsStaged s (t.distrust core unit) := .same h rfl

theorem KeepsStaged.escalate (h : KeepsStaged s t) (core : Nat) (unit : Option Nat) (injected : Bool) :
    KeepsStaged s (t.escalate core unit injected) := by
  unfold State.escalate
  refine .ite (.put h _ _) (.requestFence ?_ core)
  cases unit with
  | none => exact h
  | some u => exact .distrust h core u

theorem KeepsStaged.setRole (h : KeepsStaged s t) (core eng tier role : Nat) : KeepsStaged s (t.setRole core eng tier role) :=
  .same h rfl

theorem KeepsStaged.tierFails (h : KeepsStaged s t) (core eng tier : Nat) (injected : Bool) :
    KeepsStaged s (t.tierFails core eng tier injected) := by
  unfold State.tierFails
  exact .ite (.put h _ _) (.ite (.requestFence (.setRole h _ _ _ _) core) (.setRole h _ _ _ _))

theorem KeepsStaged.select (h : KeepsStaged s t) (core eng tier : Nat) : KeepsStaged s (t.select core eng tier).1 := by
  unfold State.select
  extract_lets i inj u v w
  have hu : KeepsStaged s u := .ite (.fired h) h
  clear_value u
  have hv : KeepsStaged s v := .addAt (.putAt hu _ _ _) _ _ _
  clear_value v
  have hw : KeepsStaged s w := .putAt (.putAt (.putAt hu _ _ _) _ _ _) _ _ _
  clear_value w
  split
  · exact .putAt h _ _ _
  · split
    · split
      · exact .tierFails (.faultRecord hv _) _ _ _ _
      · exact hv
    · exact .same hw rfl

theorem KeepsStaged.retire (h : KeepsStaged s t) (core eng band conv : Nat) (injected : Bool) :
    KeepsStaged s (t.retire core eng band conv injected) := by
  unfold State.retire
  extract_lets e u old v
  have hu : KeepsStaged s u := .setEngine h rfl
  clear_value u
  have hv : KeepsStaged s v := .ite hu (.putAt hu _ _ _)
  clear_value v
  refine .ite (.put h _ _) ?_
  refine .ite (.requestFence h core) ?_
  refine .ite (.requestFence ?_ core) ?_
  · exact .setEngine h rfl
  · exact .requestFence hv core

theorem KeepsStaged.weigh (h : KeepsStaged s t) (e : LedgerEvent) (injected : Bool) : KeepsStaged s (t.weigh e injected) := by
  unfold State.weigh
  extract_lets recent faults u same
  have hu : KeepsStaged s u := .same h rfl
  clear_value u
  refine .ite (.ite (.escalate hu _ _ _) hu) (.ite hu ?_)
  split
  · exact .ite (.retire hu _ _ _ _ _) (.escalate hu _ _ _)
  · exact .escalate hu _ _ _

/-! ### Trim sets and conversions -/

theorem KeepsStaged.setBand (h : KeepsStaged s t) (core eng tier band : Nat) (b : TierBand) :
    KeepsStaged s (t.setBand core eng tier band b) := .same h rfl

theorem KeepsStaged.setConv (h : KeepsStaged s t) (core eng band conv : Nat) (c : Conv) :
    KeepsStaged s (t.setConv core eng band conv c) := .same h rfl

theorem KeepsStaged.setEngCal (h : KeepsStaged s t) (core eng : Nat) (c : EngCal) :
    KeepsStaged s (t.setEngCal core eng c) := .same h rfl

theorem KeepsStaged.setTierCal (h : KeepsStaged s t) (core eng tier : Nat) (c : TierCal) :
    KeepsStaged s (t.setTierCal core eng tier c) := .same h rfl

theorem KeepsStaged.updateDrift (h : KeepsStaged s t) (core eng : Nat) : KeepsStaged s (t.updateDrift core eng) := by
  unfold State.updateDrift
  extract_lets apply
  have happly : ∀ x, KeepsStaged s (apply t x) := fun x => by
    refine .setEngCal (.foldl _ _ h fun u tier => .ite (.foldl _ _ (.refl u) fun v b => ?_) (.refl u)) _ _ _
    exact .setBand (.refl v) _ _ _ _ _
  clear_value apply
  split
  · exact .putAt (happly _) _ _ _
  · exact .putAt (.ite h (happly _)) _ _ _

theorem KeepsStaged.adviseTier (h : KeepsStaged s t) (core eng tier : Nat) : KeepsStaged s (t.adviseTier core eng tier) := by
  unfold State.adviseTier
  extract_lets hot cold bs adv bey i upd before u
  have hupd : ∀ v, KeepsStaged s v → ∀ f g on, KeepsStaged s (upd v f g on) := fun v hv f g on =>
    .ite hv (.ite (.put (.putAt hv _ _ _) _ _) (.put (.putAt hv _ _ _) _ _))
  clear_value upd
  have hu : KeepsStaged s u := hupd _ (hupd _ h _ _ _) _ _ _
  clear_value u
  exact .ite (.same hu rfl) hu

theorem KeepsStaged.rejectSet (h : KeepsStaged s t) (d : TrimSetDue) (reason : Nat) (injected : Bool) :
    KeepsStaged s (t.rejectSet d reason injected) := by
  unfold State.rejectSet
  extract_lets i u run v inFirst e c w x
  have hv : KeepsStaged s v := .putAt (.putAt (.add (.addAt h _ _ _) _ _) _ _ _) _ _ _
  clear_value v
  have hw : KeepsStaged s w := by
    refine .ite hv ?_
    split
    · exact .setEngCal hv _ _ _
    · exact .setTierCal hv _ _ _ _
  clear_value w
  exact .ite (.escalate (.faultRecord (.add (.putAt hw _ _ _) _ _) _) _ _ _) hw

theorem KeepsStaged.passSet (h : KeepsStaged s t) (d : TrimSetDue) : KeepsStaged s (t.passSet d) := by
  unfold State.passSet
  extract_lets u first now b b' v b'' decade w x
  have hu : KeepsStaged s u := .putAt h _ _ _
  clear_value u
  have hv : KeepsStaged s v := .setBand hu _ _ _ _ _
  clear_value v
  have hw : KeepsStaged s w := by
    unfold w
    split
    · exact .setBand hv _ _ _ _ _
    · exact hv
  clear_value w
  have hx : KeepsStaged s x := .ite (.updateDrift hw _ _) hw
  clear_value x
  split
  · exact .ite hu (.setBand (.setConv hu _ _ _ _ _) _ _ _ _ _)
  · exact .ite (.adviseTier hx _ _ _) hx

theorem KeepsStaged.endRound (h : KeepsStaged s t) (core eng tier : Nat) (kind : RoundKind) (tr age : Rat) :
    KeepsStaged s (t.endRound core eng tier kind tr age) := by
  refine .foldl _ _ h fun u p => .ite (.refl u) ?_
  exact .same (.refl u) rfl

theorem KeepsStaged.checkSet (h : KeepsStaged s t) (d : TrimSetDue) : KeepsStaged s (t.checkSet d) := by
  have hinj := h.tryInject 0x06 d.core d.eng
  unfold State.checkSet
  generalize t.tryInject 0x06 d.core d.eng = p at hinj ⊢
  obtain ⟨u, inj⟩ := p
  dsimp -zeta only
  extract_lets v
  have hv : KeepsStaged s v := by
    unfold v
    split
    · exact .passSet hinj d
    · exact .rejectSet hinj d _ _
  clear_value v
  split
  · exact .endRound hv _ _ _ _ _ _
  · exact hv

theorem KeepsStaged.checkOldest (h : KeepsStaged s t) : KeepsStaged s t.checkOldest := by
  unfold State.checkOldest
  split
  · exact h
  · refine .checkSet ?_ _
    exact .same h rfl

theorem KeepsStaged.applyTrimsOf (h : KeepsStaged s t) (p : Nat → Bool) : KeepsStaged s (t.applyTrimsOf p) := by
  unfold State.applyTrimsOf
  refine .foldl _ _ (.foldl _ _ h fun u k => ?_) fun u k => ?_
  · dsimp only
    split
    · exact .refl u
    · exact .same (.refl u) rfl
  · dsimp only
    split
    · exact .refl u
    · refine .adviseTier ?_ _ _ _
      exact .same (.refl u) rfl

theorem KeepsStaged.trimsAt (h : KeepsStaged s t) (core eng : Nat) (trims : List TrimAt) (slice : Nat) :
    KeepsStaged s (t.trimsAt core eng trims slice) := by
  refine .foldl _ _ h fun u e => .ite (.refl u) (.ite ?_ (.checkOldest (.refl u)))
  exact .same (.applyTrimsOf (.refl u) _) rfl

theorem KeepsStaged.convertBeat (h : KeepsStaged s t) (b : BeatRun) (trims : List TrimAt) :
    KeepsStaged s (t.convertBeat b trims).1 := by
  unfold State.convertBeat
  generalize ([] : SMap Nat) = m
  induction (List.range b.slices).reverse generalizing t m with
  | nil => exact h
  | cons sl l ih => exact ih (.trimsAt h b.core b.eng trims sl) _

theorem KeepsStaged.countCodes (h : KeepsStaged s t) (b : BeatRun) (m : SMap Nat) : KeepsStaged s (t.countCodes b m) :=
  .raiseIfAt (.addAt (.addAt h _ _ _) _ _ _) _ _ _

theorem KeepsStaged.evaluate (h : KeepsStaged s t) (d : TileDecl) (b : BeatRun) (trims : List TrimAt) :
    KeepsStaged s (t.evaluate d b trims).1 := by
  have hinj := ((h.convertBeat b trims).tryInject 0x05 b.core b.eng).tryInject 0x01 b.core b.eng
  exact .same (.countCodes hinj b _) rfl

/-! ### A pass of a beat -/

theorem KeepsStaged.reportBeat (h : KeepsStaged s t) (core eng tier : Nat) (ev : Evaluated) (residue injWit injRes : Bool)
    (key : Option Nat) (rows : BitVec 32) : KeepsStaged s (t.reportBeat core eng tier ev residue injWit injRes key rows) := by
  unfold State.reportBeat
  extract_lets i charged u v
  have hu : KeepsStaged s u :=
    .foldl _ _ h fun w e => .weigh (.silentError (.addAt (.refl w) _ _ _) _ _ _) _ _
  clear_value u
  exact .ite (.weigh (.silentError (.putAt (.addAt hu _ _ _) _ _ _) _ _ _) _ _) hu

theorem KeepsStaged.deadBeat (h : KeepsStaged s t) (core eng tier : Nat) (key : Option Nat) (rows : BitVec 32) :
    KeepsStaged s (t.deadBeat core eng tier key rows) :=
  .ite (.silentError h _ _ _) h

theorem KeepsStaged.deliver (h : KeepsStaged s t) (core eng : Nat) (o : BeatOut) (void : Bool) :
    KeepsStaged s (t.deliver core eng o void) := by
  unfold State.deliver
  extract_lets e tier row u
  have hu : KeepsStaged s u := .setEngine h rfl
  clear_value u
  split
  · exact .produce hu _ _ _ _
  · refine .produce (.foldl _ _ (.raiseIfAt hu _ _ _) fun v y => ?_) _ _ _ _
    exact .same (.refl v) rfl

theorem KeepsStaged.tryMerge (h : KeepsStaged s t) (core eng : Nat) : KeepsStaged s (t.tryMerge core eng) := by
  unfold State.tryMerge
  split
  · exact .deliver h _ _ _ _
  · exact h

theorem KeepsStaged.formed (h : KeepsStaged s t) (core eng : Nat) (o : BeatOut) : KeepsStaged s (t.formed core eng o) := by
  refine .tryMerge ?_ core eng
  exact .setEngine h rfl

theorem KeepsStaged.runPass (h : KeepsStaged s t) (issue : Issue) (eng : Nat) (g : Staged) (tier outAddr : Nat)
    (key : Option Nat) (void : Bool) (window : Nat × Nat) (residueUpset : Bool) (trims : List TrimAt) :
    KeepsStaged s (t.runPass issue eng g tier outAddr key void window residueUpset trims) := by
  unfold State.runPass
  extract_lets core i row e u tierNow query dead untrusted v w void' out rm n injWit next
  have hu : KeepsStaged s u := .setEngine h rfl
  clear_value u
  have hv : KeepsStaged s v := .deadBeat hu _ _ _ _ _
  clear_value v
  have hw : KeepsStaged s w := .ite (.voidRows hv _ _) hv
  clear_value w
  split
  · exact .produce (.voidRows h _ _) _ _ _ _
  · refine .ite (.formed (.addAt hw _ _ _) _ _ _) ?_
    dsimp -zeta only
    extract_lets b residue x void'' trig e' clamp counted y
    have hx : KeepsStaged s x := .reportBeat (.tryInject (.evaluate hw _ b trims) _ _ _) _ _ _ _ _ _ _ _ _
    clear_value x
    have hcounted : KeepsStaged s counted := .putAt (.addAt hx _ _ _) _ _ _
    clear_value counted
    have hy : KeepsStaged s y := by
      refine .ite ?_ hx
      exact .same hcounted rfl
    clear_value y
    refine .ite ?_ (.formed hy _ _ _)
    exact .setEngine hx rfl
end

end Sys2Proof.Machine
end

section
/-! A beat of an engine (R28, R56, R60, R194, R195): what it takes, a zero vector's skip, and a late input's. -/
namespace Sys2Proof.Machine

/-! ### The delivery of a beat (R88) -/

/-- A beat's delivery puts its row in the OUT token of its issue; of the registers it may raise its tile's sticky overflow. -/
theorem State.deliver_eq_produce (s : State) (core eng : Nat) (o : BeatOut) (void : Bool) :
    ∃ (u : State) (v f : BitVec 32), s.deliver core eng o void = u.produce o.issue ((1 : BitVec 32) <<< o.row) v f ∧
      (∀ a, a ≠ ENG_OUT_FLAG_OVF.addr + engI core eng → u.rd a = s.rd a) ∧ u.freeCtr = s.freeCtr := by
  unfold State.deliver
  extract_lets e tier row u none'
  cases u.tileDecl core eng o.tile with
  | none => exact ⟨_, _, _, rfl, fun _ _ => rfl, rfl⟩
  | some d =>
    dsimp -zeta only
    extract_lets ol ad w ys ovf flag void' x y
    have hy : ∀ a, y.rd a = x.rd a := fun a => foldl_leaves (fun z : State => z.rd a) _ ys x fun _ _ => rfl
    have hx : ∀ a, a ≠ ENG_OUT_FLAG_OVF.addr + engI core eng → x.rd a = s.rd a := fun a ha =>
      ite_leaves (part := fun z : State => z.rd a) (State.rd_putAt_ne u _ _ 1 a ha) rfl
    have hyfree : y.freeCtr = x.freeCtr := foldl_leaves State.freeCtr _ ys x fun _ _ => rfl
    have hxfree : x.freeCtr = s.freeCtr := ite_leaves (part := State.freeCtr) rfl rfl
    exact ⟨y, _, _, rfl, fun a ha => (hy a).trans (hx a ha), hyfree.trans hxfree⟩

theorem State.deliver_rd (s : State) (core eng : Nat) (o : BeatOut) (void : Bool) (a : Nat)
    (ha : a ≠ ENG_OUT_FLAG_OVF.addr + engI core eng) : (s.deliver core eng o void).rd a = s.rd a := by
  obtain ⟨u, v, f, heq, hrd, -⟩ := s.deliver_eq_produce core eng o void
  rw [heq, ← hrd a ha]
  unfold State.rd
  rw [State.produce_regs]

theorem State.deliver_freeCtr (s : State) (core eng : Nat) (o : BeatOut) (void : Bool) :
    (s.deliver core eng o void).freeCtr = s.freeCtr := by
  obtain ⟨u, v, f, heq, -, hfree⟩ := s.deliver_eq_produce core eng o void
  rw [heq, State.produce_freeCtr, hfree]

theorem State.arrived_deliver (s : State) (core eng : Nat) (o : BeatOut) (void : Bool) (row : Fin 32) (hrow : o.row = row.val)
    (hout : o.issue.out ≠ 255) :
    ((s.deliver core eng o void).token o.issue.core o.issue.out).arrived.getLsbD row = true := by
  obtain ⟨u, v, f, heq, -⟩ := s.deliver_eq_produce core eng o void
  rw [heq, hrow]
  exact u.arrived_produce o.issue row v f hout

theorem State.formed_rd (s : State) (core eng : Nat) (o : BeatOut) (a : Nat)
    (ha : a ≠ ENG_OUT_FLAG_OVF.addr + engI core eng) : (s.formed core eng o).rd a = s.rd a := by
  unfold State.formed State.tryMerge
  extract_lets e
  split
  · exact State.deliver_rd _ core eng _ _ a ha
  · rfl

theorem State.fldAt_formed (s : State) (core eng i : Nat) (o : BeatOut) (f : Fld)
    (h : f.addr + i ≠ ENG_OUT_FLAG_OVF.addr + engI core eng) : (s.formed core eng o).fldAt i f = s.fldAt i f := by
  unfold State.fldAt
  rw [s.formed_rd core eng o _ h]

theorem State.formed_freeCtr (s : State) (core eng : Nat) (o : BeatOut) : (s.formed core eng o).freeCtr = s.freeCtr := by
  unfold State.formed State.tryMerge
  extract_lets e
  split
  · exact State.deliver_freeCtr _ core eng _ _
  · rfl

/-- A tile that mirrors no rows and merges no adapter awaits no contribution (R88, R109). -/
theorem State.contributed_of_alone (s : State) (core eng : Nat) (o : BeatOut) (d : TileDecl)
    (hd : s.tileDecl core eng o.tile = some d) (hmirror : d.mirror = []) (hmerge : d.adapterMerge = false) :
    s.contributed core eng o = true := by
  unfold State.contributed
  rw [hd]
  simp [TileDecl.takesOutlier, TileDecl.takesAdapter, hmirror, hmerge]

/-- At an empty output stage, a beat whose tile awaits no contribution is delivered at once. -/
theorem State.arrived_formed (s : State) (core eng : Nat) (o : BeatOut) (d : TileDecl) (row : Fin 32)
    (houts : (s.engine core eng).outs = []) (hd : s.tileDecl core eng o.tile = some d) (hmirror : d.mirror = [])
    (hmerge : d.adapterMerge = false) (hrow : o.row = row.val) (hout : o.issue.out ≠ 255) :
    ((s.formed core eng o).token o.issue.core o.issue.out).arrived.getLsbD row = true := by
  unfold State.formed
  extract_lets e
  generalize hu : s.setEngine core eng { e with outs := e.outs ++ [o] } = u
  have hwaits : (u.engine core eng).outs = [o] := by
    rw [← hu, State.engine_setEngine]
    exact congrArg (· ++ [o]) houts
  have hc : u.contributed core eng o = true := by
    refine u.contributed_of_alone core eng o d ?_ hmirror hmerge
    rw [← hu]
    exact hd
  have hfind : (u.engine core eng).outs.find? (fun x => u.contributed core eng x) = some o := by
    rw [hwaits, List.find?_cons_of_pos hc]
  unfold State.tryMerge
  rw [hfind]
  exact u.arrived_deliver core eng o o.void row hrow hout

/-! ### The pass of a zero vector (R60) -/

theorem State.tileDecl_congr {s t : State} (hf : t.faults = s.faults) (hb : t.boot = s.boot) (core eng num : Nat) :
    t.tileDecl core eng num = s.tileDecl core eng num := by
  unfold State.tileDecl State.logicalOf
  rw [hf, hb]

theorem State.untrustedUnit_congr {s t : State} (hf : t.faults = s.faults) (core unit : Nat) :
    t.untrustedUnit core unit = s.untrustedUnit core unit := by
  unfold State.untrustedUnit
  rw [hf]

/-- A zero vector's pass on an engine that is neither dead nor distrusted is counted as skipped, and its zero outputs are formed. -/
theorem State.runPass_zero (s : State) (issue : Issue) (eng : Nat) (g : Staged) (tier outAddr : Nat) (key : Option Nat)
    (void : Bool) (window : Nat × Nat) (residueUpset : Bool) (trims : List TrimAt) (d : TileDecl)
    (hd : s.tileDecl issue.core eng g.input.tile = some d) (hdead : (s.engine issue.core eng).dead = false)
    (htrust : s.untrustedUnit issue.core eng = false) (hz : g.zero = true) :
    ∃ o : BeatOut, o.issue = issue ∧ o.row = g.input.row.val ∧ o.tile = g.input.tile ∧
      s.runPass issue eng g tier outAddr key void window residueUpset trims =
        ((s.setEngine issue.core eng { s.engine issue.core eng with newRetired := [] }).addAt (engI issue.core eng)
          ENG_SKIP_CNT_COUNT 1).formed issue.core eng o := by
  unfold State.runPass
  extract_lets core i row e u tierNow query dead untrusted v w void' out rm n injWit next
  have hudead : (u.engine core eng).dead = false := (congrArg Engine.dead (State.engine_setEngine s core eng _)).trans hdead
  have hv : v = u := if_neg (by rw [hudead]; exact Bool.false_ne_true)
  have hw : w = u := (if_neg (fun hc => absurd (htrust.symm.trans hc.1) Bool.false_ne_true)).trans hv
  rw [hd]
  dsimp -zeta only
  rw [if_pos hz, hw]
  refine ⟨_, ?_, ?_, ?_, rfl⟩ <;> rfl

/-- What a zero vector's pass counts, and where its row goes (R60): a skipped beat, no conversion and no free value; at an empty
output stage the row of a tile that awaits no contribution arrives. -/
theorem State.runPass_zero_counts (s : State) (issue : Issue) (eng : Nat) (g : Staged) (tier outAddr : Nat) (key : Option Nat)
    (void : Bool) (window : Nat × Nat) (residueUpset : Bool) (trims : List TrimAt) (d : TileDecl)
    (hd : s.tileDecl issue.core eng g.input.tile = some d) (hdead : (s.engine issue.core eng).dead = false)
    (htrust : s.untrustedUnit issue.core eng = false) (hz : g.zero = true) :
    ∃ t, s.runPass issue eng g tier outAddr key void window residueUpset trims = t ∧
      t.fldAt (engI issue.core eng) ENG_SKIP_CNT_COUNT =
        min (s.fldAt (engI issue.core eng) ENG_SKIP_CNT_COUNT + 1) ENG_SKIP_CNT_COUNT.top ∧
      t.fldAt (engI issue.core eng) ENG_CONV_SAT_COUNT = s.fldAt (engI issue.core eng) ENG_CONV_SAT_COUNT ∧
      t.freeCtr = s.freeCtr ∧
      ((s.engine issue.core eng).outs = [] → d.mirror = [] → d.adapterMerge = false → issue.out ≠ 255 →
        (t.token issue.core issue.out).arrived.getLsbD g.input.row = true) := by
  obtain ⟨o, hissue, horow, hotile, hpass⟩ :=
    s.runPass_zero issue eng g tier outAddr key void window residueUpset trims d hd hdead htrust hz
  generalize hu : s.setEngine issue.core eng { s.engine issue.core eng with newRetired := [] } = u at hpass
  have hufld : ∀ i f, u.fldAt i f = s.fldAt i f := fun i f => State.fldAt_of_regs (hu ▸ rfl) i f
  have hapart : ENG_SKIP_CNT_COUNT.addr ≠ ENG_OUT_FLAG_OVF.addr ∧ ENG_CONV_SAT_COUNT.addr ≠ ENG_OUT_FLAG_OVF.addr ∧
      ENG_CONV_SAT_COUNT.addr ≠ ENG_SKIP_CNT_COUNT.addr := by decide
  obtain ⟨hskipOvf, hsatOvf, hsatSkip⟩ := hapart
  refine ⟨_, hpass, ?_, ?_, ?_, fun houts hmirror hmerge hout => ?_⟩
  · rw [State.fldAt_formed _ _ _ _ _ _ (by omega), State.fldAt_addAt _ _ _ _ (by unfold Fld.inWord; decide), hufld]
  · rw [State.fldAt_formed _ _ _ _ _ _ (by omega), State.fldAt_addAt_ne _ _ _ _ _ _ (by omega), hufld]
  · rw [State.formed_freeCtr, ← hu]
    rfl
  · have huouts : (u.engine issue.core eng).outs = [] := by
      rw [← hu, State.engine_setEngine]
      exact houts
    have hutile : u.tileDecl issue.core eng o.tile = some d := by
      rw [← hu, hotile]
      exact hd
    have harrived := State.arrived_formed (u.addAt (engI issue.core eng) ENG_SKIP_CNT_COUNT 1) issue.core eng o d g.input.row
      huouts hutile hmirror hmerge horow (hissue ▸ hout)
    rwa [hissue] at harrived

/-! ### The branches of a beat -/

/-- A row's bit, masked in a word of 32 rows. -/
theorem and_bit_eq_zero_iff (x : BitVec 32) (row : Fin 32) : x &&& (1 : BitVec 32) <<< row.val = 0 ↔ x.getLsbD row = false := by
  constructor
  · intro h
    have hbit := congrArg (fun y : BitVec 32 => y.getLsbD row) h
    simpa using hbit
  · intro h
    ext i hi
    by_cases hrow : i = row.val
    · subst hrow
      simp [← BitVec.getLsbD_eq_getElem, h]
    · simp
      omega

theorem State.select_live {s : State} {core eng tier : Nat} (hlive : s.isSetAt (engI core eng) ENG_STAT_LIVE = true)
    (htier : s.fldAt (engI core eng) ENG_STAT_LIVE_TIER = tier) :
    s.select core eng tier = (s.putAt (engI core eng) ENG_STAT_SEL_REFUSED 0, false) :=
  if_pos ⟨hlive, htier⟩

/-- Dropping the vector in front leaves those behind it. -/
theorem State.engine_dropStaged (s : State) (core eng : Nat) :
    (s.dropStaged core eng).engine core eng =
      { s.engine core eng with staged := (s.engine core eng).staged.drop 1 } :=
  s.engine_setEngine core eng _

/-- A staged vector as its beat evaluates it: with the precision flag of its row's inputs (R101). -/
def State.flagStaged (s : State) (issue : Issue) (g : Staged) : Staged :=
  { g with flag := g.flag || decide (s.flagsIn issue &&& (1 : BitVec 32) <<< g.input.row.val ≠ 0) }

/-- An outcome that is a next state in which the staging registers are as they were. -/
def KeepsStagedO (s : State) (o : Host.Outcome State Fault Refusal) : Prop := ∃ t, o = .next t ∧ KeepsStaged s t

theorem KeepsStagedO.next {s t : State} (h : KeepsStaged s t) : KeepsStagedO s (.next t) := ⟨t, rfl, h⟩

theorem KeepsStagedO.ite {s : State} {c : Prop} [Decidable c] {a b : Host.Outcome State Fault Refusal}
    (ha : KeepsStagedO s a) (hb : KeepsStagedO s b) : KeepsStagedO s (if c then a else b) := by
  split
  · exact ha
  · exact hb

/-- The engine's issue runs with its inputs complete, and the vector `g` stands in front of the staging registers; `u` is the state
once the inputs and the vector are taken. -/
structure BeatStarts (s u : State) (issue : Issue) (eng : EngId) (v : BitVec 32) (k : Option Nat) (g : Staged)
    (rest : List Staged) : Prop where
  runs : s.runs issue (.engine eng.val) = true
  ready : s.ready issue = .run v k
  staged : (s.engine issue.core eng).staged = g :: rest
  taken : u = (s.consume issue).dropStaged issue.core eng

/-- The row of the vector in front is expected and not void, and the tier that it selects is live, with no refused select before
it (R28, R35, R361). -/
structure RowOnLiveTier (u : State) (issue : Issue) (eng : EngId) (v : BitVec 32) (k : Option Nat) (g : Staged) (live : Nat) :
    Prop where
  notVoid : v.getLsbD g.input.row = false
  expected : issue.ins.any (· ≠ 255) = true → (u.rowsIn issue).getLsbD g.input.row = true
  notRefused : (u.engine issue.core eng).selBad = false
  isLive : u.isSetAt (engI issue.core eng) ENG_STAT_LIVE = true
  tier : u.fldAt (engI issue.core eng) ENG_STAT_LIVE_TIER = live
  selects : u.rowTier issue.core eng live issue.ins k g.input.row = some live

section
variable {s u : State} {issue : Issue} {eng : EngId} {v : BitVec 32} {k : Option Nat} {g : Staged} {rest : List Staged}

theorem BeatStarts.regs (h : BeatStarts s u issue eng v k g rest) : u.regs = s.regs := h.taken ▸ s.consume_regs issue
theorem BeatStarts.faults (h : BeatStarts s u issue eng v k g rest) : u.faults = s.faults := h.taken ▸ s.consume_faults issue
theorem BeatStarts.boot (h : BeatStarts s u issue eng v k g rest) : u.boot = s.boot := h.taken ▸ s.consume_boot issue
theorem BeatStarts.freeCtr (h : BeatStarts s u issue eng v k g rest) : u.freeCtr = s.freeCtr :=
  h.taken ▸ s.consume_freeCtr issue

theorem BeatStarts.inFront (h : BeatStarts s u issue eng v k g rest) :
    ((s.consume issue).engine issue.core eng).staged = g :: rest :=
  (congrArg Engine.staged (State.engine_of_engines (s.consume_engines issue) _ _)).trans h.staged

theorem BeatStarts.engine (h : BeatStarts s u issue eng v k g rest) :
    u.engine issue.core eng = { s.engine issue.core eng with staged := rest } := by
  rw [h.taken, State.engine_dropStaged, State.engine_of_engines (s.consume_engines issue), h.staged]
  rfl

theorem execEngineBeat_of_late {m : BitVec 32} (outAddr w wi : Nat) (up : Bool) (trims : List TrimAt)
    (hruns : s.runs issue (.engine eng.val) = true) (hready : s.ready issue = .late m k) :
    execEngineBeat issue eng outAddr w wi up trims s = .next ((s.skipLate issue k).dropStaged issue.core eng) := by
  unfold execEngineBeat
  rw [hruns, hready]
  rfl

/-- Whatever becomes of the vector taken, those behind it stay in the staging registers. -/
theorem execEngineBeat_keepsStaged (h : BeatStarts s u issue eng v k g rest) (outAddr w wi : Nat) (up : Bool)
    (trims : List TrimAt) : KeepsStagedO u (execEngineBeat issue eng outAddr w wi up trims s) := by
  unfold execEngineBeat
  rw [h.runs, h.ready]
  dsimp -zeta only
  extract_lets core i z x
  rw [if_neg (by decide), h.inFront]
  dsimp -zeta only
  extract_lets row g'
  have hx : KeepsStaged u x := h.taken ▸ .refl x
  clear_value x
  refine .ite (.next hx) (.ite (.next (.produce (.lateRows hx _ _) _ _ _ _)) (.ite (.next (.produce hx _ _ _ _)) ?_))
  cases x.rowTier core eng (x.fldAt i ENG_STAT_LIVE_TIER) issue.ins k g.input.row with
  | none =>
    have href : KeepsStaged u ((x.putAt i ENG_STAT_SEL_REFUSED 1).addAt i ENG_SEL_REFUSE_COUNT 1) :=
      .addAt (.putAt hx _ _ _) _ _ _
    exact .ite (.next (.produce (.lateRows href _ _) _ _ _ _)) (.next (.runPass href _ _ _ _ _ _ _ _ _ _))
  | some t =>
    have hsel : KeepsStaged u (x.select core eng t).1 := .select hx _ _ _
    exact .ite (.next (.produce (.lateRows hsel _ _) _ _ _ _)) (.next (.runPass hsel _ _ _ _ _ _ _ _ _ _))

/-- The vector of such a row is evaluated on the live tier. -/
theorem execEngineBeat_of_liveTier {live : Nat} (h : BeatStarts s u issue eng v k g rest)
    (hrow : RowOnLiveTier u issue eng v k g live) (outAddr w wi : Nat) (up : Bool) (trims : List TrimAt) :
    execEngineBeat issue eng outAddr w wi up trims s = .next ((u.putAt (engI issue.core eng) ENG_STAT_SEL_REFUSED 0).runPass
      issue eng (u.flagStaged issue g) live outAddr k false (w, wi) up trims) := by
  unfold execEngineBeat
  rw [h.runs, h.ready]
  dsimp -zeta only
  extract_lets core i z x
  obtain rfl : u = x := h.taken
  rw [if_neg (by decide), h.inFront]
  dsimp -zeta only
  extract_lets row g'
  have hexpected : ¬(issue.ins.any (· ≠ 255) = true ∧ x.rowsIn issue &&& row = 0) := by
    rintro ⟨hins, hnone⟩
    exact Bool.false_ne_true (((and_bit_eq_zero_iff _ g.input.row).mp hnone).symm.trans (hrow.expected hins))
  have hselected : ¬((x.engine core eng).selBad = true ∨ (!x.isSetAt i ENG_STAT_LIVE) = true) := by
    rw [hrow.notRefused, hrow.isLive]
    decide
  have hnotVoid : ¬(v &&& row ≠ 0) := not_not.mpr ((and_bit_eq_zero_iff v g.input.row).mpr hrow.notVoid)
  have hpick := State.select_live hrow.isLive hrow.tier
  have htier : (x.putAt i ENG_STAT_SEL_REFUSED 0).fldAt i ENG_STAT_LIVE_TIER = live :=
    (State.fldAt_putAt_apart x i i _ _ 0 (by unfold Fld.inWord; decide) (by unfold Fld.apart; decide)).trans hrow.tier
  rw [if_neg hexpected, if_neg hselected, if_neg hnotVoid, hrow.tier, hrow.selects]
  dsimp -zeta only
  rw [if_neg (by rw [hpick]; exact Bool.false_ne_true), hpick, htier]
  rfl

/-- The vector in front is taken, whether the issue's inputs are complete or late. -/
theorem execEngineBeat_takesFront (outAddr w wi : Nat) (up : Bool) (trims : List TrimAt)
    (hruns : s.runs issue (.engine eng.val) = true) (hstaged : (s.engine issue.core eng).staged = g :: rest) :
    ∃ t, execEngineBeat issue eng outAddr w wi up trims s = .next t ∧ (t.engine issue.core eng).staged = rest := by
  cases hready : s.ready issue with
  | late m k =>
    refine ⟨_, execEngineBeat_of_late outAddr w wi up trims hruns hready, ?_⟩
    rw [State.engine_dropStaged, State.engine_of_engines (s.skipLate_engines issue k), hstaged]
    rfl
  | run v k =>
    have h : BeatStarts s _ issue eng v k g rest := ⟨hruns, hready, hstaged, rfl⟩
    obtain ⟨t, ht, hkeeps⟩ := execEngineBeat_keepsStaged h outAddr w wi up trims
    exact ⟨t, ht, (hkeeps.staged _ _).trans (congrArg Engine.staged h.engine)⟩

end

/-! ### The obligation -/

/-- Settles O9: the vector in front is taken, a zero vector on the live tier is skipped, and a late input's issue is counted. -/
theorem beatTakesTheStagedVector : Obligations.BeatTakesTheStagedVector := by
  intro s u issue eng outAddr w wi up trims g rest hruns hstaged hu
  refine ⟨execEngineBeat_takesFront outAddr w wi up trims hruns hstaged, ?_, fun m k hready =>
    ⟨_, execEngineBeat_of_late outAddr w wi up trims hruns hready, s.skipLate_counts issue k⟩⟩
  intro v k d live hready hvoid hzero hrows hsel hlive htier hselects hd hdead htrust
  have h : BeatStarts s u issue eng v k g rest := ⟨hruns, hready, hstaged, hu⟩
  have hfld : ∀ i f, u.fldAt i f = s.fldAt i f := State.fldAt_of_regs h.regs
  have hrow : RowOnLiveTier u issue eng v k g live :=
    { notVoid := hvoid
      expected := hrows
      notRefused := (congrArg Engine.selBad h.engine).trans hsel
      isLive := (congrArg (fun n => decide (n = 1)) (hfld _ _)).trans hlive
      tier := (hfld _ _).trans htier
      selects := hselects }
  obtain ⟨t, hpass, hskip, hsat, hfree, harrives⟩ := (u.putAt (engI issue.core eng) ENG_STAT_SEL_REFUSED 0).runPass_zero_counts
    issue eng (u.flagStaged issue g) live outAddr k false (w, wi) up trims d
    ((State.tileDecl_congr h.faults h.boot _ _ _).trans hd) ((congrArg Engine.dead h.engine).trans hdead)
    ((State.untrustedUnit_congr h.faults _ _).trans htrust) hzero
  have hput : ∀ f : Fld, f.addr ≠ ENG_STAT_SEL_REFUSED.addr →
      (u.putAt (engI issue.core eng) ENG_STAT_SEL_REFUSED 0).fldAt (engI issue.core eng) f = s.fldAt (engI issue.core eng) f :=
    fun f hf => (State.fldAt_putAt_ne u _ _ _ f 0 (by omega)).trans (hfld _ _)
  rw [hput _ (by decide)] at hskip hsat
  exact ⟨t, (execEngineBeat_of_liveTier h hrow outAddr w wi up trims).trans (congrArg _ hpass), hskip, hsat,
    hfree.trans h.freeCtr, fun houts => harrives ((congrArg Engine.outs h.engine).trans houts)⟩

end Sys2Proof.Machine
end

section
/-! The laws that the commands of tiers share: the register fields of one unit, frames over registers, tiers, and what a fault
record and a fence request leave (R34, R35, R347, R397, R410, R465). -/
namespace Sys2Proof.Machine

/-! ### The register fields of one unit (R465) -/

theorem State.fldAt_putAt_same (s : State) (i : Nat) (f : Fld) (v : Nat) (h : f.lo ≤ f.hi ∧ f.hi < 32) :
    (s.putAt i f v).fldAt i f = v % 2 ^ (f.hi + 1 - f.lo) := State.fldAt_putAt s i f v h

/-- Writing `f` leaves `g` of the same unit: `g` is in another register, or does not meet `f` in the word. -/
def Fld.misses (f g : Fld) : Bool :=
  g.addr != f.addr || (decide (f.lo ≤ f.hi ∧ f.hi < 32) && decide (f.hi < g.lo ∨ g.hi < f.lo ∧ g.lo ≤ g.hi))

theorem State.fldAt_putAt_other (s : State) (i : Nat) (f g : Fld) (v : Nat) (h : f.misses g = true) :
    (s.putAt i f v).fldAt i g = s.fldAt i g := by
  simp only [Fld.misses, Bool.or_eq_true, Bool.and_eq_true, bne_iff_ne, decide_eq_true_eq] at h
  obtain haddr | ⟨hin, hapart⟩ := h
  · exact State.fldAt_putAt_ne s i i f g v (by omega)
  · exact State.fldAt_putAt_apart s i i f g v hin hapart

theorem State.fldAt_addAt_same (s : State) (i : Nat) (f : Fld) (n : Nat) (h : f.lo ≤ f.hi ∧ f.hi < 32) :
    (s.addAt i f n).fldAt i f = min (s.fldAt i f + n) f.top := State.fldAt_addAt s i f n h

theorem State.fldAt_addAt_other (s : State) (i : Nat) (f g : Fld) (n : Nat) (h : f.misses g = true) :
    (s.addAt i f n).fldAt i g = s.fldAt i g := State.fldAt_putAt_other s i f g _ h

theorem State.fldAt_flagAt_other (s : State) (i : Nat) (f g : Fld) (b : Bool) (h : f.misses g = true) :
    (s.flagAt i f b).fldAt i g = s.fldAt i g := State.fldAt_putAt_other s i f g _ h

theorem State.fldAt_raiseIfAt_other (s : State) (i : Nat) (f g : Fld) (b : Bool) (h : f.misses g = true) :
    (s.raiseIfAt i f b).fldAt i g = s.fldAt i g :=
  ite_leaves (part := fun u : State => u.fldAt i g) (State.fldAt_putAt_other s i f g 1 h) rfl

theorem State.fldAt_of_isSetAt {s : State} {i : Nat} {f : Fld} (h : s.isSetAt i f = true) : s.fldAt i f = 1 :=
  of_decide_eq_true h

/-! ### Frames over registers -/

/-- From `s` to `t`, the registers at the listed addresses may change, and nothing else. -/
structure RegsOnly (as : List Nat) (s t : State) : Prop where
  regs : regsKept s t as
  rest : t = { s with regs := t.regs }

theorem RegsOnly.refl (as : List Nat) (s : State) : RegsOnly as s s := ⟨fun _ _ => rfl, rfl⟩

section
variable {as : List Nat} {s t : State} (h : RegsOnly as s t)
include h

theorem RegsOnly.trans {u : State} (g : RegsOnly as t u) : RegsOnly as s u where
  regs a ha := (g.regs a ha).trans (h.regs a ha)
  rest := by
    rw [g.rest, h.rest]

theorem RegsOnly.putAt {i : Nat} {f : Fld} (hf : f.addr + i ∈ as) (v : Nat) : RegsOnly as s (t.putAt i f v) :=
  h.trans ⟨fun a ha => State.rd_putAt_ne t i f v a (fun e => ha (e ▸ hf)), rfl⟩

theorem RegsOnly.addAt {i : Nat} {f : Fld} (hf : f.addr + i ∈ as) (n : Nat) : RegsOnly as s (t.addAt i f n) := h.putAt hf _

theorem RegsOnly.flagAt {i : Nat} {f : Fld} (hf : f.addr + i ∈ as) (b : Bool) : RegsOnly as s (t.flagAt i f b) := h.putAt hf _

theorem RegsOnly.ite {u : State} {c : Prop} [Decidable c] (g : RegsOnly as s u) : RegsOnly as s (if c then t else u) := by
  split
  · exact h
  · exact g

theorem RegsOnly.raiseIfAt {i : Nat} {f : Fld} (hf : f.addr + i ∈ as) (b : Bool) : RegsOnly as s (t.raiseIfAt i f b) :=
  (h.putAt hf 1).ite h

theorem RegsOnly.engines : t.engines = s.engines := by rw [h.rest]
theorem RegsOnly.tiers : t.tiers = s.tiers := by rw [h.rest]
theorem RegsOnly.faults : t.faults = s.faults := by rw [h.rest]
theorem RegsOnly.weights : t.weights = s.weights := by rw [h.rest]
theorem RegsOnly.boot : t.boot = s.boot := by rw [h.rest]

/-- An engine's record replaced as well: registers and engines change, and nothing else. -/
theorem RegsOnly.setEngine_rest (core eng : Nat) (e : Engine) : t.setEngine core eng e =
    { s with regs := (t.setEngine core eng e).regs, engines := (t.setEngine core eng e).engines } := by
  rw [h.rest]
  rfl
end

/-! ### Tiers -/

theorem State.tier_of_tiers {s t : State} (h : t.tiers = s.tiers) (core eng k : Nat) :
    t.tier core eng k = s.tier core eng k := by
  unfold State.tier
  rw [h]

theorem State.tier_setTier (s : State) (core eng tier c e k : Nat) (t : Tier) :
    (s.setTier core eng tier t).tier c e k = if tierKey c e k = tierKey core eng tier then t else s.tier c e k :=
  SMap.get_set _ _ _ _ _

@[simp] theorem State.tier_setTier_same (s : State) (core eng tier : Nat) (t : Tier) :
    (s.setTier core eng tier t).tier core eng tier = t := (s.tier_setTier ..).trans (if_pos rfl)

/-- A tier's role is set in its record; ENG_TIER_ROLE shows it and touches no tier. -/
theorem State.tier_setRole (s : State) (core eng tier role c e k : Nat) :
    (s.setRole core eng tier role).tier c e k =
      if tierKey c e k = tierKey core eng tier then { s.tier core eng tier with role := role } else s.tier c e k :=
  (State.tier_of_tiers (State.putAt_tiers _ _ _ _) c e k).trans (s.tier_setTier ..)

@[simp] theorem State.tier_setRole_same (s : State) (core eng tier role : Nat) :
    (s.setRole core eng tier role).tier core eng tier = { s.tier core eng tier with role := role } :=
  (s.tier_setRole ..).trans (if_pos rfl)

theorem State.rd_setRole (s : State) (core eng tier role a : Nat) (h : a ≠ ENG_TIER_ROLE_ROLES.addr + engI core eng) :
    (s.setRole core eng tier role).rd a = s.rd a := State.rd_putAt_ne _ _ _ _ a h

@[simp] theorem State.setRole_engines (s : State) (core eng tier role : Nat) :
    (s.setRole core eng tier role).engines = s.engines := rfl
@[simp] theorem State.setRole_weights (s : State) (core eng tier role : Nat) :
    (s.setRole core eng tier role).weights = s.weights := rfl
@[simp] theorem State.setRole_faults (s : State) (core eng tier role : Nat) :
    (s.setRole core eng tier role).faults = s.faults := rfl

/-! ### Fault records and fence requests (R397, R410) -/

@[simp] theorem State.faultRecord_regs (s : State) (r : FaultRec) : (s.faultRecord r).regs = s.regs := rfl
@[simp] theorem State.faultRecord_engines (s : State) (r : FaultRec) : (s.faultRecord r).engines = s.engines := rfl
@[simp] theorem State.faultRecord_weights (s : State) (r : FaultRec) : (s.faultRecord r).weights = s.weights := rfl
@[simp] theorem State.faultRecord_log (s : State) (r : FaultRec) : (s.faultRecord r).faults.log = r :: s.faults.log := rfl

/-- A fence request changes the requested fences and CORE_FAULT only. -/
theorem State.requestFence_leaves {β : Type} (part : State → β)
    (h : ∀ (s : State) l r, part { s with faults := { s.faults with fences := l }, regs := r } = part s) (s : State)
    (core : Nat) : part (s.requestFence core) = part s := by
  unfold State.requestFence
  split
  · rfl
  · exact h s _ _

theorem State.rd_requestFence (s : State) (core a : Nat) (h : a ≠ CORE_FAULT_FENCE_REQ.addr + coreI core) :
    (s.requestFence core).rd a = s.rd a := by
  unfold State.requestFence
  split
  · rfl
  · exact State.rd_putAt_ne _ _ _ _ a h

@[simp] theorem State.requestFence_engines (s : State) (core : Nat) : (s.requestFence core).engines = s.engines :=
  State.requestFence_leaves State.engines (fun _ _ _ => rfl) s core
@[simp] theorem State.requestFence_tiers (s : State) (core : Nat) : (s.requestFence core).tiers = s.tiers :=
  State.requestFence_leaves State.tiers (fun _ _ _ => rfl) s core
@[simp] theorem State.requestFence_weights (s : State) (core : Nat) : (s.requestFence core).weights = s.weights :=
  State.requestFence_leaves State.weights (fun _ _ _ => rfl) s core
@[simp] theorem State.requestFence_log (s : State) (core : Nat) : (s.requestFence core).faults.log = s.faults.log :=
  State.requestFence_leaves (fun u => u.faults.log) (fun _ _ _ => rfl) s core

end Sys2Proof.Machine
end

section
/-! Tier selects (R34, R35, R37, R87): the cases of a select, and what TIER_SELECT leaves of the state. -/
namespace Sys2Proof.Machine

/-! ### The cases of a select -/

/-- The select takes effect: the tier is live, and EXACT shows its cells. -/
def State.goLive (s : State) (core eng tier : Nat) : State :=
  let s := ((s.putAt (engI core eng) ENG_STAT_SEL_REFUSED 0).putAt (engI core eng) ENG_STAT_LIVE 1).putAt (engI core eng)
    ENG_STAT_LIVE_TIER tier
  s.flagAt (engI core eng) ENG_STAT_EXACT (s.tier core eng tier).exact

/-- The select is refused: SEL_REFUSED is set, and the refusal counted. -/
def State.refuseSelect (s : State) (core eng : Nat) : State :=
  (s.putAt (engI core eng) ENG_STAT_SEL_REFUSED 1).addAt (engI core eng) ENG_SEL_REFUSE_COUNT 1

/-- The metadata of a tier that was selected fails its check: the tier fails, and the fault log has it (R406). -/
def State.failMetadata (s : State) (core eng tier : Nat) : State :=
  (s.faultRecord ⟨7, core, eng, tier, 0, 0, 0, s.tb.rod, false⟩).tierFails core eng tier false

theorem State.refuseSelect_touches (s : State) (core eng : Nat) :
    RegsOnly [ENG_STAT_LIVE.addr + engI core eng, ENG_SEL_REFUSE_COUNT.addr + engI core eng] s (s.refuseSelect core eng) := by
  refine ((RegsOnly.refl _ s).putAt (f := ENG_STAT_SEL_REFUSED) ?_ 1).addAt ?_ 1
  · exact List.mem_cons_self
  · exact List.mem_cons_of_mem _ (List.mem_singleton.mpr rfl)

section
variable {s : State} {core eng tier : Nat}
  (hother : ¬(s.isSetAt (engI core eng) ENG_STAT_LIVE = true ∧ s.fldAt (engI core eng) ENG_STAT_LIVE_TIER = tier))
  (hinj : s.injects 0x07 core eng ≠ some tier)
include hother hinj

theorem State.select_goLive (hgood : s.selectBad core eng tier = false) :
    s.select core eng tier = (s.goLive core eng tier, false) := by
  unfold State.select
  simp only [if_neg hother, hinj, hgood, decide_false, or_self, if_false, Bool.false_eq_true]
  rfl

theorem State.select_refused (hbad : s.selectBad core eng tier = true) :
    s.select core eng tier =
      (if (s.tier core eng tier).bad then (s.refuseSelect core eng).failMetadata core eng tier else s.refuseSelect core eng,
        true) := by
  unfold State.select
  simp only [if_neg hother, hinj, hbad, decide_false, Bool.false_eq_true, or_false, if_true, if_false]
  have htier : ((s.refuseSelect core eng).tier core eng tier).bad = (s.tier core eng tier).bad :=
    congrArg Tier.bad (State.tier_of_tiers (s.refuseSelect_touches core eng).tiers core eng tier)
  unfold State.refuseSelect at htier
  rw [htier]
  cases (s.tier core eng tier).bad with
  | true => rfl
  | false => rfl

end

theorem State.goLive_fields (s : State) (core eng : Nat) (tier : TierId) :
    (s.goLive core eng tier).fldAt (engI core eng) ENG_STAT_LIVE = 1 ∧
      (s.goLive core eng tier).fldAt (engI core eng) ENG_STAT_LIVE_TIER = tier ∧
      (s.goLive core eng tier).fldAt (engI core eng) ENG_STAT_SEL_REFUSED = 0 ∧
      (s.goLive core eng tier).fldAt (engI core eng) ENG_STAT_EXACT = if (s.tier core eng tier).exact then 1 else 0 := by
  have htier : tier.val % 2 ^ 3 = tier := Nat.mod_eq_of_lt tier.isLt
  have hexact : ((((s.putAt (engI core eng) ENG_STAT_SEL_REFUSED 0).putAt (engI core eng) ENG_STAT_LIVE 1).putAt (engI core eng)
      ENG_STAT_LIVE_TIER tier).tier core eng tier).exact = (s.tier core eng tier).exact :=
    congrArg Tier.exact (State.tier_of_tiers (by simp only [State.putAt_tiers]) core eng tier)
  unfold State.goLive State.flagAt
  dsimp only
  rw [hexact]
  refine ⟨?_, ?_, ?_, ?_⟩ <;> simp (disch := decide) only [State.fldAt_putAt_other, State.fldAt_putAt_same]
  · rfl
  · exact htier
  · rfl
  · cases (s.tier core eng tier).exact <;> rfl

theorem State.goLive_touches (s : State) (core eng tier : Nat) :
    RegsOnly [ENG_STAT_LIVE.addr + engI core eng] s (s.goLive core eng tier) := by
  have hstat : ENG_STAT_LIVE.addr + engI core eng ∈ [ENG_STAT_LIVE.addr + engI core eng] := List.mem_singleton.mpr rfl
  exact ((((RegsOnly.refl _ s).putAt (f := ENG_STAT_SEL_REFUSED) hstat 0).putAt (f := ENG_STAT_LIVE) hstat 1).putAt
    (f := ENG_STAT_LIVE_TIER) hstat tier).flagAt (f := ENG_STAT_EXACT) hstat _

/-- What a refused select shows at its engine, whether or not the tier fails with it. -/
structure SelectRefused (s t : State) (core eng : Nat) : Prop where
  flag : t.fldAt (engI core eng) ENG_STAT_SEL_REFUSED = 1
  count : t.fldAt (engI core eng) ENG_SEL_REFUSE_COUNT =
    min (s.fldAt (engI core eng) ENG_SEL_REFUSE_COUNT + 1) ENG_SEL_REFUSE_COUNT.top
  live : t.fldAt (engI core eng) ENG_STAT_LIVE = s.fldAt (engI core eng) ENG_STAT_LIVE
  liveTier : t.fldAt (engI core eng) ENG_STAT_LIVE_TIER = s.fldAt (engI core eng) ENG_STAT_LIVE_TIER
  engines : t.engines = s.engines

theorem State.refuseSelect_refused (s : State) (core eng : Nat) : SelectRefused s (s.refuseSelect core eng) core eng := by
  have hengines := (s.refuseSelect_touches core eng).engines
  unfold State.refuseSelect at hengines ⊢
  refine ⟨?_, ?_, ?_, ?_, hengines⟩ <;> simp (disch := decide) only [State.fldAt_addAt_other, State.fldAt_addAt_same,
    State.fldAt_putAt_other, State.fldAt_putAt_same]
  rfl

theorem State.tierFails_uninjected (s : State) (core eng tier : Nat) : s.tierFails core eng tier false =
    if (s.tier core eng tier).role ∈ [1, 2, 3, 5] then (s.setRole core eng tier 7).requestFence core
    else s.setRole core eng tier 7 := rfl

/-- A failing tier touches, of its engine's registers, ENG_TIER_ROLE only. -/
theorem State.fldAt_tierFails (s : State) (core eng tier : Nat) (f : Fld) (hrole : f.addr ≠ ENG_TIER_ROLE_ROLES.addr)
    (hengine : 0x1001000 ≤ f.addr) :
    (s.tierFails core eng tier false).fldAt (engI core eng) f = s.fldAt (engI core eng) f := by
  have hfail : (s.setRole core eng tier 7).fldAt (engI core eng) f = s.fldAt (engI core eng) f :=
    State.fldAt_putAt_ne _ _ _ _ _ _ (by omega)
  have hfence : ((s.setRole core eng tier 7).requestFence core).fldAt (engI core eng) f =
      (s.setRole core eng tier 7).fldAt (engI core eng) f := by
    unfold State.fldAt
    rw [State.rd_requestFence]
    simp only [CORE_FAULT_FENCE_REQ, coreI, engI]
    omega
  rw [State.tierFails_uninjected]
  split
  · exact hfence.trans hfail
  · exact hfail

theorem State.tierFails_engines (s : State) (core eng tier : Nat) : (s.tierFails core eng tier false).engines = s.engines := by
  rw [State.tierFails_uninjected]
  split
  · rw [State.requestFence_engines, State.setRole_engines]
  · exact State.setRole_engines s core eng tier 7

theorem State.failMetadata_refused (s : State) (core eng tier : Nat) :
    SelectRefused s ((s.refuseSelect core eng).failMetadata core eng tier) core eng := by
  obtain ⟨hflag, hcount, hlive, htier, hengines⟩ := s.refuseSelect_refused core eng
  have hfld : ∀ f : Fld, f.addr ≠ ENG_TIER_ROLE_ROLES.addr → 0x1001000 ≤ f.addr →
      ((s.refuseSelect core eng).failMetadata core eng tier).fldAt (engI core eng) f =
        (s.refuseSelect core eng).fldAt (engI core eng) f :=
    fun f hrole hengine => (State.fldAt_tierFails _ core eng tier f hrole hengine).trans
      (State.fldAt_of_regs (State.faultRecord_regs _ _) _ f)
  refine ⟨?_, ?_, ?_, ?_, ?_⟩
  · exact (hfld _ (by decide) (by decide)).trans hflag
  · exact (hfld _ (by decide) (by decide)).trans hcount
  · exact (hfld _ (by decide) (by decide)).trans hlive
  · exact (hfld _ (by decide) (by decide)).trans htier
  · unfold State.failMetadata
    rw [State.tierFails_engines, State.faultRecord_engines, hengines]

/-! ### The command -/

/-- The tier as the engine's read of its metadata finds it: bad where a word of it fails its check. -/
def State.readMetadata (s : State) (core eng tier : Nat) (badWord : Bool) : State :=
  if badWord then s.setTier core eng tier { s.tier core eng tier with bad := true } else s

/-- The engine notes the select's outcome, on which the beats after it depend. -/
def State.noteSelect (s : State) (core eng : Nat) (refused : Bool) : State :=
  s.setEngine core eng { s.engine core eng with selBad := refused }

theorem exec_tierSelect {s : State} {core : CoreId} {eng : EngId} {tier : TierId} {badWord refused : Bool} {t : State}
    (hruns : s.coreRunning core = true) (ht : (s.readMetadata core eng tier badWord).select core eng tier = (t, refused)) :
    exec (.tierSelect core eng tier badWord) s = .next (t.noteSelect core eng refused) := by
  show execTierSelect core eng tier badWord s = _
  unfold execTierSelect
  rw [hruns, if_neg (by decide)]
  unfold State.readMetadata at ht
  dsimp only
  rw [ht]
  rfl

theorem State.noteSelect_engine {s t : State} (h : t.engines = s.engines) (core eng : Nat) (refused : Bool) :
    (t.noteSelect core eng refused).engine core eng = { s.engine core eng with selBad := refused } := by
  rw [← State.engine_of_engines h core eng]
  exact t.engine_setEngine core eng _

/-- Reading the metadata may mark the tier, and touches nothing else. -/
theorem State.readMetadata_leaves {β : Type} (part : State → β) (h : ∀ (s : State) m, part { s with tiers := m } = part s)
    (s : State) (core eng tier : Nat) (badWord : Bool) : part (s.readMetadata core eng tier badWord) = part s :=
  ite_leaves (h s _) rfl

theorem State.readMetadata_bad (s : State) (core eng tier : Nat) :
    ((s.readMetadata core eng tier true).tier core eng tier).bad = true :=
  congrArg Tier.bad (s.tier_setTier_same core eng tier _)

theorem State.selectBad_of_bad {s : State} {core eng tier : Nat} (h : (s.tier core eng tier).bad = true) :
    s.selectBad core eng tier = true := by
  unfold State.selectBad
  simp [h]

/-- A select of the live tier clears the refusal flag. -/
theorem tierSelect_live {s : State} {core : CoreId} {eng : EngId} {tier : TierId} (badWord : Bool)
    (hruns : s.coreRunning core = true) (hlive : s.isSetAt (engI core eng) ENG_STAT_LIVE = true)
    (htier : s.fldAt (engI core eng) ENG_STAT_LIVE_TIER = tier) :
    ∃ t, exec (.tierSelect core eng tier badWord) s = .next t ∧ t.fldAt (engI core eng) ENG_STAT_SEL_REFUSED = 0 ∧
      t.fldAt (engI core eng) ENG_STAT_LIVE = 1 ∧ t.fldAt (engI core eng) ENG_STAT_LIVE_TIER = tier ∧
      t.engine core eng = { s.engine core eng with selBad := false } ∧
      regsKept s t [ENG_STAT_LIVE.addr + engI core eng] ∧
      t = { s with regs := t.regs, engines := t.engines, tiers := t.tiers } := by
  have hregs : (s.readMetadata core eng tier badWord).regs = s.regs := s.readMetadata_leaves State.regs (fun _ _ => rfl) ..
  have hengines : (s.readMetadata core eng tier badWord).engines = s.engines :=
    s.readMetadata_leaves State.engines (fun _ _ => rfl) ..
  have hrest : s.readMetadata core eng tier badWord = { s with tiers := (s.readMetadata core eng tier badWord).tiers } := by
    cases badWord <;> rfl
  generalize hu : s.readMetadata core eng tier badWord = u at hregs hengines hrest
  have hfld : ∀ f, u.fldAt (engI core eng) f = s.fldAt (engI core eng) f := State.fldAt_of_regs hregs _
  have hsel := State.select_live (s := u) ((congrArg (fun n => decide (n = 1)) (hfld _)).trans hlive) ((hfld _).trans htier)
  refine ⟨_, exec_tierSelect hruns ((congrArg (fun x => x.select core eng tier) hu).trans hsel), ?_⟩
  have hput := (RegsOnly.refl [ENG_STAT_LIVE.addr + engI core eng] u).putAt (f := ENG_STAT_SEL_REFUSED)
    (List.mem_singleton.mpr rfl) 0
  have hflag := State.fldAt_putAt_same u (engI core eng) ENG_STAT_SEL_REFUSED 0 (by decide)
  have hother : ∀ f : Fld, ENG_STAT_SEL_REFUSED.misses f = true →
      (u.putAt (engI core eng) ENG_STAT_SEL_REFUSED 0).fldAt (engI core eng) f = s.fldAt (engI core eng) f :=
    fun f hf => (State.fldAt_putAt_other u _ _ f 0 hf).trans (hfld f)
  generalize u.putAt (engI core eng) ENG_STAT_SEL_REFUSED 0 = v at hput hflag hother
  refine ⟨hflag, (hother ENG_STAT_LIVE (by decide)).trans (State.fldAt_of_isSetAt hlive),
    (hother ENG_STAT_LIVE_TIER (by decide)).trans htier, State.noteSelect_engine (hput.engines.trans hengines) .., ?_, ?_⟩
  · exact fun a ha => (hput.regs a ha).trans (congrArg (fun m => SMap.get regReset m a) hregs)
  · unfold State.noteSelect
    rw [hput.setEngine_rest, hrest]

/-- A select of another tier, which may go live, makes it the live tier. -/
theorem tierSelect_good {s : State} {core : CoreId} {eng : EngId} {tier : TierId} (hruns : s.coreRunning core = true)
    (hother : ¬(s.isSetAt (engI core eng) ENG_STAT_LIVE = true ∧ s.fldAt (engI core eng) ENG_STAT_LIVE_TIER = tier))
    (hinj : s.injects 0x07 core eng ≠ some tier.val) (hgood : s.selectBad core eng tier = false) :
    ∃ t, exec (.tierSelect core eng tier false) s = .next t ∧ t.fldAt (engI core eng) ENG_STAT_LIVE = 1 ∧
      t.fldAt (engI core eng) ENG_STAT_LIVE_TIER = tier ∧ t.fldAt (engI core eng) ENG_STAT_SEL_REFUSED = 0 ∧
      t.fldAt (engI core eng) ENG_STAT_EXACT = (if (s.tier core eng tier).exact then 1 else 0) ∧
      t.engine core eng = { s.engine core eng with selBad := false } ∧
      regsKept s t [ENG_STAT_LIVE.addr + engI core eng] ∧ t = { s with regs := t.regs, engines := t.engines } := by
  have hsel := State.select_goLive hother hinj hgood
  have hfields := s.goLive_fields core eng tier
  have htouches := s.goLive_touches core eng tier
  generalize s.goLive core eng tier = u at hsel hfields htouches
  obtain ⟨hlive, htier, hflag, hexact⟩ := hfields
  exact ⟨_, exec_tierSelect hruns hsel, hlive, htier, hflag, hexact, State.noteSelect_engine htouches.engines ..,
    htouches.regs, htouches.setEngine_rest ..⟩

/-- The select of a state with the tier that it refuses, whatever becomes of the tier. -/
theorem State.select_refuses {s : State} {core eng tier : Nat}
    (hother : ¬(s.isSetAt (engI core eng) ENG_STAT_LIVE = true ∧ s.fldAt (engI core eng) ENG_STAT_LIVE_TIER = tier))
    (hinj : s.injects 0x07 core eng ≠ some tier) (hbad : s.selectBad core eng tier = true) :
    ∃ t, s.select core eng tier = (t, true) ∧ SelectRefused s t core eng ∧
      ((s.tier core eng tier).bad = false → t = s.refuseSelect core eng) := by
  refine ⟨_, State.select_refused hother hinj hbad, ?_, fun hgood => if_neg (ne_true_of_eq_false hgood)⟩
  split
  · exact s.failMetadata_refused core eng tier
  · exact s.refuseSelect_refused core eng

theorem SelectRefused.congr {s u t : State} {core eng : Nat} (h : SelectRefused u t core eng) (hregs : u.regs = s.regs)
    (hengines : u.engines = s.engines) : SelectRefused s t core eng where
  flag := h.flag
  count := h.count.trans (by rw [State.fldAt_of_regs hregs])
  live := h.live.trans (State.fldAt_of_regs hregs _ _)
  liveTier := h.liveTier.trans (State.fldAt_of_regs hregs _ _)
  engines := h.engines.trans hengines

/-- A select of another tier that may not go live, or whose metadata fails as it is read, is refused. -/
theorem tierSelect_refused {s : State} {core : CoreId} {eng : EngId} {tier : TierId} {badWord : Bool}
    (hruns : s.coreRunning core = true)
    (hother : ¬(s.isSetAt (engI core eng) ENG_STAT_LIVE = true ∧ s.fldAt (engI core eng) ENG_STAT_LIVE_TIER = tier))
    (hinj : s.injects 0x07 core eng ≠ some tier.val) (hbad : s.selectBad core eng tier = true ∨ badWord = true) :
    ∃ t, exec (.tierSelect core eng tier badWord) s = .next (t.noteSelect core eng true) ∧ SelectRefused s t core eng ∧
      ((s.tier core eng tier).bad = false → badWord = false → t = s.refuseSelect core eng) := by
  cases badWord with
  | false =>
    obtain ⟨t, hsel, href, hgood⟩ := State.select_refuses hother hinj (hbad.resolve_right Bool.false_ne_true)
    exact ⟨t, exec_tierSelect hruns hsel, href, fun h _ => hgood h⟩
  | true =>
    have hregs : (s.readMetadata core eng tier true).regs = s.regs := rfl
    have hengines : (s.readMetadata core eng tier true).engines = s.engines := rfl
    have hinj' : (s.readMetadata core eng tier true).injects 0x07 core eng ≠ some tier.val := hinj
    have hmarked := s.readMetadata_bad core eng tier
    generalize hu : s.readMetadata core eng tier true = u at hregs hengines hinj' hmarked
    have hfld : ∀ f, u.fldAt (engI core eng) f = s.fldAt (engI core eng) f := State.fldAt_of_regs hregs _
    have hother' : ¬(u.isSetAt (engI core eng) ENG_STAT_LIVE = true ∧
        u.fldAt (engI core eng) ENG_STAT_LIVE_TIER = tier) := by
      unfold State.isSetAt
      rwa [hfld, hfld]
    obtain ⟨t, hsel, href, -⟩ := State.select_refuses hother' hinj' (State.selectBad_of_bad hmarked)
    exact ⟨t, exec_tierSelect hruns ((congrArg (fun x => x.select core eng tier) hu).trans hsel), href.congr hregs hengines,
      fun _ h => absurd h (by decide)⟩

theorem tierSelectMakesLiveOrRefuses : TierSelectMakesLiveOrRefuses := by
  intro s core eng tier badWord hruns hinj
  refine ⟨fun ⟨hlive, htier⟩ => tierSelect_live badWord hruns hlive htier,
    fun hother => ⟨fun hgood hword => ?_, fun hbad => ?_⟩⟩
  · subst hword
    exact tierSelect_good hruns hother hinj hgood
  · obtain ⟨t, hexec, href, hgood⟩ := tierSelect_refused hruns hother hinj hbad
    refine ⟨_, hexec, href.flag, href.count, href.live, href.liveTier, State.noteSelect_engine href.engines core eng true,
      fun hmeta hword => ?_⟩
    have htouches := s.refuseSelect_touches core eng
    rw [← hgood hmeta hword] at htouches
    exact ⟨htouches.regs, htouches.setEngine_rest ..⟩

end Sys2Proof.Machine
end

section
/-! Input staging (R45 to R50, R108, R111, R224), and both commands of engines together (O8). -/
namespace Sys2Proof.Machine

/-! ### What staging counts -/

/-- The sticky flags of an input's specials (R47). -/
def State.flagInput (s : State) (i : Nat) (specials : Bool × Bool × Bool) : State :=
  ((s.raiseIfAt i ENG_IN_FLAG_NAN_IN specials.1).raiseIfAt i ENG_IN_FLAG_INF_IN specials.2.1).raiseIfAt i
    ENG_IN_FLAG_SCALE_NAN specials.2.2

/-- More elements qualified for the outlier lane than it takes (R108), and the vector's pass is widened (R111). -/
def State.countOverflow (s : State) (i : Nat) (overflow crushed : Bool) : State :=
  let s := if overflow then (s.addAt i ENG_OL_OVF_COUNT 1).putAt i ENG_WD_FLAG_OL_OVF 1 else s
  if crushed then s.addAt i ENG_CRUSH_TRIG_COUNT 1 else s

/-- The flags and counts of an engine once a vector is staged of which the outlier lane removed some elements. -/
def State.countStaging (s : State) (i : Nat) (specials : Bool × Bool × Bool) (removed : Nat) (overflow crushed : Bool) :
    State :=
  ((s.flagInput i specials).addAt i ENG_OL_CNT_COUNT removed).countOverflow i overflow crushed

theorem State.fldAt_raised (s : State) (i : Nat) (f : Fld) {b : Bool} (hb : b = true)
    (hf : (f.lo ≤ f.hi ∧ f.hi < 32) ∧ 1 % 2 ^ (f.hi + 1 - f.lo) = 1) : (s.raiseIfAt i f b).fldAt i f = 1 := by
  subst hb
  exact (s.fldAt_putAt_same i f 1 hf.1).trans hf.2

theorem State.flagInput_raises (s : State) (i : Nat) (sp : Bool × Bool × Bool) :
    (sp.1 = true → (s.flagInput i sp).fldAt i ENG_IN_FLAG_NAN_IN = 1) ∧
      (sp.2.1 = true → (s.flagInput i sp).fldAt i ENG_IN_FLAG_INF_IN = 1) ∧
      (sp.2.2 = true → (s.flagInput i sp).fldAt i ENG_IN_FLAG_SCALE_NAN = 1) := by
  unfold State.flagInput
  refine ⟨fun h => ?_, fun h => ?_, fun h => ?_⟩
  · rw [State.fldAt_raiseIfAt_other _ _ _ _ _ (by decide), State.fldAt_raiseIfAt_other _ _ _ _ _ (by decide)]
    exact State.fldAt_raised s i _ h (by decide)
  · rw [State.fldAt_raiseIfAt_other _ _ _ _ _ (by decide)]
    exact State.fldAt_raised _ i _ h (by decide)
  · exact State.fldAt_raised _ i _ h (by decide)

theorem State.fldAt_flagInput (s : State) (i : Nat) (sp : Bool × Bool × Bool) (f : Fld)
    (h : f.addr ≠ ENG_IN_FLAG_NAN_IN.addr) : (s.flagInput i sp).fldAt i f = s.fldAt i f := by
  have hmiss : ∀ g : Fld, g.addr = ENG_IN_FLAG_NAN_IN.addr → g.misses f = true := fun g hg => by simp [Fld.misses, hg, h]
  unfold State.flagInput
  rw [State.fldAt_raiseIfAt_other _ _ _ _ _ (hmiss ENG_IN_FLAG_SCALE_NAN rfl),
    State.fldAt_raiseIfAt_other _ _ _ _ _ (hmiss ENG_IN_FLAG_INF_IN rfl),
    State.fldAt_raiseIfAt_other _ _ _ _ _ (hmiss ENG_IN_FLAG_NAN_IN rfl)]

theorem State.fldAt_countOverflow (s : State) (i : Nat) (overflow crushed : Bool) (f : Fld)
    (hovf : ENG_OL_OVF_COUNT.misses f = true) (hflag : ENG_WD_FLAG_OL_OVF.misses f = true)
    (hcrush : ENG_CRUSH_TRIG_COUNT.misses f = true) : (s.countOverflow i overflow crushed).fldAt i f = s.fldAt i f := by
  unfold State.countOverflow
  extract_lets u
  have hu : u.fldAt i f = s.fldAt i f := ite_leaves (part := fun v : State => v.fldAt i f)
    ((State.fldAt_putAt_other _ i _ f 1 hflag).trans (State.fldAt_addAt_other s i _ f 1 hovf)) rfl
  exact ite_leaves (part := fun v : State => v.fldAt i f) ((State.fldAt_addAt_other u i _ f 1 hcrush).trans hu) hu

theorem State.countStaging_flags (s : State) (i : Nat) (sp : Bool × Bool × Bool) (n : Nat) (overflow crushed : Bool) :
    (sp.1 = true → (s.countStaging i sp n overflow crushed).fldAt i ENG_IN_FLAG_NAN_IN = 1) ∧
      (sp.2.1 = true → (s.countStaging i sp n overflow crushed).fldAt i ENG_IN_FLAG_INF_IN = 1) ∧
      (sp.2.2 = true → (s.countStaging i sp n overflow crushed).fldAt i ENG_IN_FLAG_SCALE_NAN = 1) := by
  have hkeep : ∀ f : Fld, ENG_OL_OVF_COUNT.misses f = true → ENG_WD_FLAG_OL_OVF.misses f = true →
      ENG_CRUSH_TRIG_COUNT.misses f = true → ENG_OL_CNT_COUNT.misses f = true →
      (s.countStaging i sp n overflow crushed).fldAt i f = (s.flagInput i sp).fldAt i f := fun f hovf hflag hcrush hcnt =>
    (State.fldAt_countOverflow _ i overflow crushed f hovf hflag hcrush).trans (State.fldAt_addAt_other _ i _ f n hcnt)
  rw [hkeep _ (by decide) (by decide) (by decide) (by decide), hkeep _ (by decide) (by decide) (by decide) (by decide),
    hkeep _ (by decide) (by decide) (by decide) (by decide)]
  exact s.flagInput_raises i sp

theorem State.countStaging_removed (s : State) (i : Nat) (sp : Bool × Bool × Bool) (n : Nat) (overflow crushed : Bool) :
    (s.countStaging i sp n overflow crushed).fldAt i ENG_OL_CNT_COUNT =
      min (s.fldAt i ENG_OL_CNT_COUNT + n) ENG_OL_CNT_COUNT.top := by
  unfold State.countStaging
  rw [State.fldAt_countOverflow _ _ _ _ _ (by decide) (by decide) (by decide), State.fldAt_addAt_same _ _ _ _ (by decide),
    State.fldAt_flagInput _ _ _ _ (by decide)]

/-- The registers of the engine at offset `i` that staging may change. -/
def stagingRegs (i : Nat) : List Nat :=
  [ENG_IN_FLAG_NAN_IN, ENG_OL_CNT_COUNT, ENG_OL_OVF_COUNT, ENG_WD_FLAG_OL_OVF, ENG_CRUSH_TRIG_COUNT].map (fun f => f.addr + i)

theorem State.countStaging_touches (s : State) (i : Nat) (sp : Bool × Bool × Bool) (n : Nat) (overflow crushed : Bool) :
    RegsOnly (stagingRegs i) s (s.countStaging i sp n overflow crushed) := by
  have hflags : ENG_IN_FLAG_NAN_IN.addr + i ∈ stagingRegs i := List.mem_map_of_mem (by decide)
  have hcnt : ENG_OL_CNT_COUNT.addr + i ∈ stagingRegs i := List.mem_map_of_mem (by decide)
  have hovf : ENG_OL_OVF_COUNT.addr + i ∈ stagingRegs i := List.mem_map_of_mem (by decide)
  have hflag : ENG_WD_FLAG_OL_OVF.addr + i ∈ stagingRegs i := List.mem_map_of_mem (by decide)
  have hcrush : ENG_CRUSH_TRIG_COUNT.addr + i ∈ stagingRegs i := List.mem_map_of_mem (by decide)
  have hinput : RegsOnly (stagingRegs i) s (s.flagInput i sp) :=
    (((RegsOnly.refl _ s).raiseIfAt (f := ENG_IN_FLAG_NAN_IN) hflags _).raiseIfAt (f := ENG_IN_FLAG_INF_IN) hflags _).raiseIfAt
      (f := ENG_IN_FLAG_SCALE_NAN) hflags _
  have hremoved := hinput.addAt hcnt n
  have hover := ((hremoved.addAt hovf 1).putAt hflag 1).ite (c := overflow = true) hremoved
  exact (hover.addAt hcrush 1).ite (c := crushed = true) hover

/-! ### The command -/

/-- The engine with a vector that joins those staged, the pecks of its row gone from the bus registers. -/
def Engine.stageNext (e : Engine) (row : Nat) (g : Staged) : Engine :=
  { e with bus := e.bus.filter (fun p => p.row ≠ row), staged := e.staged ++ [g] }

theorem exec_inputStaging {s : State} {core : CoreId} {eng : EngId} {input : StageIn} {d : TileDecl}
    (hruns : s.coreRunning core = true) (htile : s.tileDecl core eng input.tile = some d)
    (hfree : (s.engine core eng).staged.length < 2) (src : Source)
    (hsrc : src = ((s.engine core eng).busSource input.row).getD input.source) :
    ∃ out overflow crushed crush, exec (.inputStaging core eng input) s =
      .next ((s.countStaging (engI core eng) (specials src) out.length overflow crushed).setEngine core eng
        ((s.engine core eng).stageNext input.row
          { s.stage d { input with source := src } d.inBits 0 out with crush := crush })) := by
  show ∃ out overflow crushed crush, execInputStaging core eng input s = _
  unfold execInputStaging
  extract_lets e i input'
  have hinput : input' = { input with source := src } := by
    unfold input'
    rw [hsrc]
    cases (s.engine core eng).busSource input.row <;> rfl
  clear_value input'
  subst hinput
  have hstages : ¬((!s.coreRunning core) = true ∨ 2 ≤ e.staged.length) := by
    rw [hruns]
    exact not_or.mpr ⟨by decide, Nat.not_le.mpr hfree⟩
  rw [htile]
  dsimp -zeta only
  rw [if_neg hstages]
  extract_lets pick o g u v widens w
  have hw : w = s.countStaging i (specials src) o.1.length o.2 (widens && g.crush) := by
    unfold State.countStaging State.countOverflow
    simp only [Bool.and_eq_true]
    rfl
  clear_value o w
  exact ⟨o.1, o.2, widens && g.crush, g.crush && widens, hw ▸ rfl⟩

theorem State.stage_outliers_length (s : State) (d : TileDecl) (i : StageIn) (a pass : Nat) (out : List Nat) :
    (s.stage d i a pass out).outliers.length = out.length := List.length_map _

theorem stagingQueuesTheVector : StagingQueuesTheVector := by
  intro s core eng input d src hruns htile hfree hsrc
  obtain ⟨out, overflow, crushed, crush, hexec⟩ := exec_inputStaging hruns htile hfree src hsrc
  have htouches := s.countStaging_touches (engI core eng) (specials src) out.length overflow crushed
  obtain ⟨hnan, hinf, hscale⟩ := s.countStaging_flags (engI core eng) (specials src) out.length overflow crushed
  have hremoved := s.countStaging_removed (engI core eng) (specials src) out.length overflow crushed
  generalize s.countStaging (engI core eng) (specials src) out.length overflow crushed = u
    at hexec htouches hnan hinf hscale hremoved
  have hlength := s.stage_outliers_length d { input with source := src } d.inBits 0 out
  refine ⟨_, _, hexec, u.engine_setEngine core eng _, rfl, rfl, rfl, rfl, List.length_take_le _ _, hnan, hinf, hscale,
    hlength ▸ hremoved, fun c' e' hkey => ?_, htouches.regs, htouches.setEngine_rest ..⟩
  exact (SMap.get_set _ _ _ _ _).trans ((if_neg hkey).trans (congrArg (fun m => SMap.get _ m _) htouches.engines))

/-- Settles O8: the cases of a tier select, and the vector that staging queues. -/
theorem tiersAndStaging : Obligations.TiersAndStaging := ⟨tierSelectMakesLiveOrRefuses, stagingQueuesTheVector⟩

end Sys2Proof.Machine
end

section
/-! A load that fails (R356): what becomes of its tiers, and what LD_STAT shows. -/
namespace Sys2Proof.Machine

/-! ### What stays as it was -/

/-- From `s` to `t`, tiers that have failed stay failed, the fault log and the loads are as they were, and of the registers only
words of the core blocks change. -/
structure KeepsFailed (s t : State) : Prop where
  failed : ∀ c e k, (s.tier c e k).role = 7 → (t.tier c e k).role = 7
  log : t.faults.log = s.faults.log
  weights : t.weights = s.weights
  regs : ∀ a, a < 0x1000000 → t.rd a = s.rd a

theorem KeepsFailed.refl (s : State) : KeepsFailed s s := ⟨fun _ _ _ h => h, rfl, rfl, fun _ _ => rfl⟩

theorem KeepsFailed.trans {s t u : State} (h : KeepsFailed s t) (g : KeepsFailed t u) : KeepsFailed s u where
  failed c e k hc := g.failed c e k (h.failed c e k hc)
  log := g.log.trans h.log
  weights := g.weights.trans h.weights
  regs a ha := (g.regs a ha).trans (h.regs a ha)

theorem KeepsFailed.fld {s t : State} (h : KeepsFailed s t) {f : Fld} (hf : f.addr < 0x1000000) : t.fld f = s.fld f :=
  congrArg (fun w => getBits w f.hi f.lo) (h.regs (f.addr + 0) hf)

theorem KeepsFailed.foldl {α : Type} (f : State → α → State) (l : List α) (s : State)
    (hf : ∀ u x, KeepsFailed u (f u x)) : KeepsFailed s (l.foldl f s) := by
  induction l generalizing s with
  | nil => exact .refl s
  | cons x l ih => exact (hf s x).trans (ih _)

theorem KeepsFailed.requestFence (s : State) (core : Nat) : KeepsFailed s (s.requestFence core) where
  failed c e k h := (congrArg Tier.role (State.tier_of_tiers (s.requestFence_tiers core) c e k)).trans h
  log := s.requestFence_log core
  weights := s.requestFence_weights core
  regs a ha := s.rd_requestFence core a (by simp only [CORE_FAULT_FENCE_REQ]; omega)

/-- A tier takes a role that leaves no failed tier behind in another role. -/
theorem KeepsFailed.setRole (s : State) {core eng k role : Nat} (h : (s.tier core eng k).role = 7 → role = 7) :
    KeepsFailed s (s.setRole core eng k role) where
  failed c e k' hk := by
    rw [s.tier_setRole]
    split
    next hkey =>
      have hsame : s.tier c e k' = s.tier core eng k := by
        unfold State.tier
        rw [hkey]
      exact h (hsame ▸ hk)
    next => exact hk
  log := rfl
  weights := rfl
  regs a ha := s.rd_setRole core eng k role a (by simp only [ENG_TIER_ROLE_ROLES]; omega)

theorem KeepsFailed.logCoreMap (s : State) (core : Nat) : KeepsFailed s (s.logCoreMap core) :=
  ⟨fun _ _ _ h => h, rfl, rfl, fun _ _ => rfl⟩

/-- The tiers that a failed load programmed, or was programming, become free; those that failed stay so. -/
def State.freeTaken (s : State) (l : Load) : State :=
  l.tiles.foldl (fun s (t : StagedTile) =>
    match t.tier with
    | some k => if (s.tier t.core t.eng k).role = 7 then s else s.freeTier t.core t.eng k
    | none => s) s

theorem KeepsFailed.freeTaken (s : State) (l : Load) : KeepsFailed s (s.freeTaken l) := by
  refine .foldl _ _ s fun u x => ?_
  split
  next k _ =>
    split
    next => exact .refl u
    next h => exact (KeepsFailed.setRole u (fun h7 => absurd h7 h)).trans (.logCoreMap _ _)
  next => exact .refl u

/-! ### LD_STAT -/

@[simp] theorem State.sendVector_regs (s : State) (v : Nat) : (s.sendVector v).regs = s.regs :=
  ite_leaves rfl (ite_leaves rfl rfl)

/-- A completion bit changes its register and the vectors only. -/
theorem State.complete17_leaves {β : Type} (part : State → β)
    (h : ∀ (s : State) r m, part { s with regs := r, msix := m } = part s) (s : State) (f : Fld) :
    part (s.complete17 f) = part s := by
  unfold State.complete17 State.sendVector
  split
  · rfl
  · split
    · exact h s _ _
    · split
      · exact h s _ s.msix
      · exact h s _ _

theorem State.complete17_sets (s : State) (f : Fld) (hf : (f.lo ≤ f.hi ∧ f.hi < 32) ∧ 1 % 2 ^ (f.hi + 1 - f.lo) = 1) :
    (s.complete17 f).fld f = 1 := by
  unfold State.complete17
  split
  next h => exact State.fldAt_of_isSetAt h
  next => exact (State.fldAt_of_regs (State.sendVector_regs _ _) 0 f).trans ((State.fldAt_putAt_same s 0 f 1 hf.1).trans hf.2)

theorem State.fldAt_complete17 (s : State) (f g : Fld) (h : f.misses g = true) : (s.complete17 f).fldAt 0 g = s.fldAt 0 g := by
  unfold State.complete17
  split
  · rfl
  · exact (State.fldAt_of_regs (State.sendVector_regs _ _) 0 g).trans (State.fldAt_putAt_other s 0 f g 1 h)

/-- The code of a load's failure, its count, and whether a load still runs. -/
def State.putFailure (s : State) (code : Nat) (busy : Bool) : State :=
  ((s.put LD_STAT_FAIL_CODE code).add LD_FAIL_CNT_COUNT 1).flag LD_STAT_BUSY busy

theorem State.putFailure_touches (s : State) (code : Nat) (busy : Bool) :
    RegsOnly [LD_STAT_FAIL_CODE.addr, LD_FAIL_CNT_COUNT.addr] s (s.putFailure code busy) :=
  (((RegsOnly.refl _ s).putAt (i := 0) (f := LD_STAT_FAIL_CODE) (by decide) code).addAt (i := 0) (f := LD_FAIL_CNT_COUNT)
    (by decide) 1).flagAt (i := 0) (f := LD_STAT_BUSY) (by decide) busy

theorem State.putFailure_fields (s : State) (code : Nat) (busy : Bool) (hcode : code < 256) :
    (s.putFailure code busy).fld LD_STAT_FAILED = s.fld LD_STAT_FAILED ∧
      (s.putFailure code busy).fld LD_STAT_FAIL_CODE = code ∧
      (s.putFailure code busy).fld LD_FAIL_CNT_COUNT = min (s.fld LD_FAIL_CNT_COUNT + 1) LD_FAIL_CNT_COUNT.top := by
  unfold State.putFailure State.fld State.put State.add State.flag
  refine ⟨?_, ?_, ?_⟩ <;> rw [State.fldAt_flagAt_other _ _ _ _ _ (by decide)]
  · rw [State.fldAt_addAt_other _ _ _ _ _ (by decide), State.fldAt_putAt_other _ _ _ _ _ (by decide)]
  · rw [State.fldAt_addAt_other _ _ _ _ _ (by decide), State.fldAt_putAt_same _ _ _ _ (by decide)]
    exact Nat.mod_eq_of_lt hcode
  · rw [State.fldAt_addAt_same _ _ _ _ (by decide), State.fldAt_putAt_other _ _ _ _ _ (by decide)]

/-- LD_STAT and LD_FAIL_CNT as a load fails. -/
def State.showFailure (s : State) (code : Nat) : State :=
  (s.complete17 LD_STAT_FAILED).putFailure code s.weights.load.isSome

theorem State.showFailure_leaves {β : Type} (part : State → β)
    (h : ∀ (s : State) r m, part { s with regs := r, msix := m } = part s) (s : State) (code : Nat) :
    part (s.showFailure code) = part s := by
  unfold State.showFailure
  rw [((s.complete17 LD_STAT_FAILED).putFailure_touches code _).rest]
  exact (h _ _ _).trans (State.complete17_leaves part h s LD_STAT_FAILED)

theorem State.showFailure_fields (s : State) (code : Nat) (hcode : code < 256) :
    (s.showFailure code).fld LD_STAT_FAILED = 1 ∧ (s.showFailure code).fld LD_STAT_FAIL_CODE = code ∧
      (s.showFailure code).fld LD_FAIL_CNT_COUNT = min (s.fld LD_FAIL_CNT_COUNT + 1) LD_FAIL_CNT_COUNT.top := by
  obtain ⟨hfailed, hshown, hcnt⟩ := (s.complete17 LD_STAT_FAILED).putFailure_fields code s.weights.load.isSome hcode
  have hother : (s.complete17 LD_STAT_FAILED).fld LD_FAIL_CNT_COUNT = s.fld LD_FAIL_CNT_COUNT :=
    s.fldAt_complete17 LD_STAT_FAILED LD_FAIL_CNT_COUNT (by decide)
  rw [hother] at hcnt
  exact ⟨hfailed.trans (s.complete17_sets LD_STAT_FAILED (by decide)), hshown, hcnt⟩

/-! ### The epochs shown -/

/-- The registers of the epochs and of the flip. -/
def epochRegs : List Nat := [LD_EPOCH_PEND_EPOCH.addr, LD_EPOCH_PREV_EPOCH.addr, LD_FLIP_STAT_READY.addr]

theorem State.settle_touches (as : List Nat) (s : State) : TouchesOnly as s s.settle := ⟨fun _ _ => rfl, rfl⟩

theorem State.showEpochs_touches (s : State) : TouchesOnly epochRegs s s.showEpochs := by
  have hflip : LD_FLIP_STAT_READY.addr ∈ epochRegs := by decide
  unfold State.showEpochs
  extract_lets p u v
  have hu : TouchesOnly epochRegs s u :=
    ((TouchesOnly.refl _ s).put (f := LD_EPOCH_PEND_EPOCH) (by decide) p).flag (f := LD_FLIP_STAT_PREV_HELD) hflip _
  have hv : TouchesOnly epochRegs s v := .ite hu (hu.put (f := LD_EPOCH_PREV_EPOCH) (by decide) 0)
  exact (hv.flag (f := LD_FLIP_STAT_PENDING) hflip _).flag (f := LD_FLIP_STAT_READY) hflip _

/-! ### The failure of a load -/

/-- The spare that a failed repair fetch was for is fenced (R363, R414). -/
def State.fenceRepair (s : State) (l : Load) : State :=
  match l.repair with
  | some c => (match s.faults.repairs.find? (fun (r : Repair) => r.logical = c) with
    | some r => s.requestFence r.spare
    | none => s)
  | none => s

theorem KeepsFailed.fenceRepair (s : State) (l : Load) : KeepsFailed s (s.fenceRepair l) := by
  unfold State.fenceRepair
  split
  next =>
    split
    next => exact .requestFence _ _
    next => exact .refl s
  next => exact .refl s

/-- The loads once one has failed: the one that it paused goes on. -/
def State.dropLoad (s : State) : State := { s with weights := { s.weights with load := s.weights.paused, paused := none } }

/-- From `s` to `t` the running load has failed with a code: LD_STAT and LD_FAIL_CNT show it, a load that it had paused goes on,
and failed tiers and the fault log are as they were. -/
structure LoadFails (code : Nat) (s t : State) : Prop where
  flag : t.fld LD_STAT_FAILED = 1
  shown : t.fld LD_STAT_FAIL_CODE = code
  count : t.fld LD_FAIL_CNT_COUNT = min (s.fld LD_FAIL_CNT_COUNT + 1) LD_FAIL_CNT_COUNT.top
  load : t.weights.load = s.weights.paused
  failed : ∀ c e k, (s.tier c e k).role = 7 → (t.tier c e k).role = 7
  log : t.faults.log = s.faults.log

theorem LoadFails.of_keepsFailed {code : Nat} {s t u : State} (h : KeepsFailed s t) (g : LoadFails code t u) :
    LoadFails code s u where
  flag := g.flag
  shown := g.shown
  count := g.count.trans (by rw [h.fld (by decide)])
  load := g.load.trans (congrArg Weights.paused h.weights)
  failed c e k h7 := g.failed c e k (h.failed c e k h7)
  log := g.log.trans h.log

theorem LoadFails.keepsFailed {code : Nat} {s t u : State} (g : LoadFails code s t) (h : KeepsFailed t u) :
    LoadFails code s u where
  flag := (h.fld (by decide)).trans g.flag
  shown := (h.fld (by decide)).trans g.shown
  count := (h.fld (by decide)).trans g.count
  load := (congrArg Weights.load h.weights).trans g.load
  failed c e k h7 := h.failed c e k (g.failed c e k h7)
  log := h.log.trans g.log

theorem LoadFails.touchesEpochs {code : Nat} {s t u : State} (g : LoadFails code s t) (h : TouchesOnly epochRegs t u) :
    LoadFails code s u where
  flag := (h.fld (by decide)).trans g.flag
  shown := (h.fld (by decide)).trans g.shown
  count := (h.fld (by decide)).trans g.count
  load := (by rw [h.rest] : u.weights.load = t.weights.load).trans g.load
  failed c e k h7 := (by rw [State.tier_of_tiers (by rw [h.rest])]; exact g.failed c e k h7)
  log := (by rw [h.rest] : u.faults.log = t.faults.log).trans g.log

theorem State.showFailure_fails (s : State) (code : Nat) (hcode : code < 256) :
    LoadFails code s (s.dropLoad.showFailure code) := by
  have htiers : (s.dropLoad.showFailure code).tiers = s.tiers := State.showFailure_leaves State.tiers (fun _ _ _ => rfl) _ code
  obtain ⟨hflag, hshown, hcount⟩ := s.dropLoad.showFailure_fields code hcode
  exact
    { flag := hflag
      shown := hshown
      count := hcount
      load := State.showFailure_leaves (fun u => u.weights.load) (fun _ _ _ => rfl) s.dropLoad code
      failed := fun c e k h7 => (congrArg Tier.role (State.tier_of_tiers htiers c e k)).trans h7
      log := State.showFailure_leaves (fun u => u.faults.log) (fun _ _ _ => rfl) s.dropLoad code }

theorem State.failLoad_eq {s : State} {l : Load} (h : s.weights.load = some l) (code : Nat) :
    s.failLoad code = (((s.freeTaken l).dropLoad.showFailure code).fenceRepair l).settle.showEpochs := by
  unfold State.failLoad
  rw [h]
  dsimp -zeta only
  extract_lets u v w x y
  have hu : u = s.freeTaken l := rfl
  have hw : w = u.dropLoad := rfl
  have hx : x = w.showFailure code := rfl
  have hy : y = x.fenceRepair l := rfl
  rw [hy, hx, hw, hu]

theorem State.failLoad_fails {s : State} {l : Load} (h : s.weights.load = some l) (code : Nat) (hcode : code < 256) :
    LoadFails code s (s.failLoad code) := by
  rw [State.failLoad_eq h]
  have hshow := (State.showFailure_fails (s.freeTaken l) code hcode).keepsFailed (.fenceRepair _ l)
  exact .of_keepsFailed (.freeTaken s l) ((hshow.touchesEpochs (State.settle_touches _ _)).touchesEpochs
    (State.showEpochs_touches _))

end Sys2Proof.Machine
end

section
/-! The steps of the start, and the end of a load, leave the tiers as they are (R353, R434 to R439). -/
namespace Sys2Proof.Machine

/-! ### The steps of the start -/

@[simp] theorem State.sendVector_tiers (s : State) (v : Nat) : (s.sendVector v).tiers = s.tiers :=
  ite_leaves rfl (ite_leaves rfl rfl)

@[simp] theorem State.putGlb_tiers (s : State) (f : Fld) (v : Nat) : (s.putGlb f v).tiers = s.tiers :=
  ite_leaves rfl (State.sendVector_tiers _ _)

theorem State.mapCore_tiers (s : State) (logical core : Nat) : (s.mapCore logical core).tiers = s.tiers := by
  unfold State.mapCore
  rw [State.putAt_tiers, State.putAt_tiers, State.putAt_tiers]

theorem State.mapRegion_tiers (s : State) (r : Region) : (s.mapRegion r).tiers = s.tiers := by
  unfold State.mapRegion
  extract_lets cores claims winner kept rest free u
  have hu : u.tiers = s.tiers := foldl_leaves State.tiers _ _ s fun v k => v.mapCore_tiers k.1 k.2
  exact (foldl_leaves State.tiers (fun v c => v.putAt (coreI c) CORE_STAT_SPARE 1) _ u fun v _ => v.putAt_tiers _ _ _).trans hu

theorem State.regionRegs_tiers (s : State) (c : Nat) : (s.regionRegs c).tiers = s.tiers := by
  unfold State.regionRegs
  split
  · rfl
  · simp only [State.flagAt_tiers, State.putAt_tiers]

theorem State.countSpares_tiers (s : State) : s.countSpares.tiers = s.tiers := by
  unfold State.countSpares
  rw [State.put_tiers, State.put_tiers]

/-- The logical map of every region, made anew (R436). -/
def State.newMap (s : State) : State :=
  s.boot.image.regions.foldl State.mapRegion { s with faults := { s.faults with logMap := [], former := [] } }

/-- The cores whose latest CORE_MAP record is out of date are recorded again (R436). -/
def State.recordMaps (s : State) : State :=
  (List.range 800).foldl (fun s c => if s.recorded c = (s.logicalOf c).getD 0xFFFF then s else s.logCoreMap c) s

theorem State.newMap_tiers (s : State) : s.newMap.tiers = s.tiers :=
  foldl_leaves State.tiers State.mapRegion s.boot.image.regions
    { s with faults := { s.faults with logMap := [], former := [] } } State.mapRegion_tiers

theorem State.recordMaps_tiers (s : State) : s.recordMaps.tiers = s.tiers :=
  foldl_leaves State.tiers _ _ s fun _ _ => ite_leaves rfl rfl

theorem State.regionSetup_eq (s : State) :
    s.regionSetup = ((List.range 800).foldl State.regionRegs s).newMap.recordMaps.countSpares := rfl

theorem State.regionSetup_tiers (s : State) : s.regionSetup.tiers = s.tiers := by
  rw [State.regionSetup_eq, State.countSpares_tiers, State.recordMaps_tiers, State.newMap_tiers]
  exact foldl_leaves State.tiers State.regionRegs _ s State.regionRegs_tiers

theorem State.reAdmit_tiers (s : State) : s.reAdmit.tiers = s.tiers := by
  unfold State.reAdmit
  exact ite_leaves rfl (ite_leaves rfl rfl)

theorem State.noteUnadmitted_tiers (s : State) : s.noteUnadmitted.tiers = s.tiers := ite_leaves rfl rfl

theorem State.wantStart_tiers (s : State) : s.wantStart.tiers = s.tiers := ite_leaves rfl rfl

/-- What completing one step of the start can do (R434): the step's own work and its number, or the admission of step 6. -/
theorem State.stepOnce_cases {s t : State} (h : s.stepOnce = some t) : t = s.reAdmit ∨
    ∃ n, ∃ u ∈ [s, s.regionSetup, s.takeAssign, s.wantStart.noteUnadmitted, s.putGlb GLB_STATE_STATE 1],
      t = u.putGlb GLB_STATE_STEP n := by
  unfold State.stepOnce at h
  extract_lets done at h
  have hdone : ∀ n u, done n u = some t → t = u.putGlb GLB_STATE_STEP n := fun n u hu => (Option.some.inj hu).symm
  clear_value done
  have hown : ∀ n u, done n u = some t → u ∈ [s, s.regionSetup, s.takeAssign, s.wantStart.noteUnadmitted,
      s.putGlb GLB_STATE_STATE 1] → ∃ n, ∃ u ∈ [s, s.regionSetup, s.takeAssign, s.wantStart.noteUnadmitted,
      s.putGlb GLB_STATE_STATE 1], t = u.putGlb GLB_STATE_STEP n := fun n u hu hmem => ⟨n, u, hmem, hdone n u hu⟩
  have hguard : ∀ {c : Prop} [Decidable c] {o : Option State}, (if c then o else none) = some t → o = some t := fun hc =>
    (Option.ite_none_right_eq_some.mp hc).2
  split at h
  · cases h
  · split at h
    · exact .inr (hown _ _ (hguard h) (by simp))
    · exact .inr (hown _ _ (hguard h) (by simp))
    · exact .inr (hown _ _ h (by simp))
    · split at h
      · cases h
      · split at h
        · exact .inl (Option.some.inj h).symm
        · split at h
          · cases h
          · exact .inr (hown _ _ h (by simp))
    · exact .inr (hown _ _ (hguard h) (by simp))
    · exact .inr (hown _ _ (hguard h) (by simp))
    · exact .inr (hown _ _ (hguard h) (by simp))
    · exact .inr (hown _ _ (hguard h) (by simp))
    · cases h

theorem State.stepOnce_tiers {s t : State} (h : s.stepOnce = some t) : t.tiers = s.tiers := by
  obtain rfl | ⟨n, u, hu, rfl⟩ := State.stepOnce_cases h
  · exact s.reAdmit_tiers
  · rw [State.putGlb_tiers]
    simp only [List.mem_cons, List.not_mem_nil, or_false] at hu
    obtain rfl | rfl | rfl | rfl | rfl := hu
    · rfl
    · exact s.regionSetup_tiers
    · rfl
    · exact (State.noteUnadmitted_tiers _).trans s.wantStart_tiers
    · exact s.putGlb_tiers _ _

theorem State.advanceN_tiers (n : Nat) (s : State) : (State.advanceN n s).tiers = s.tiers := by
  induction n generalizing s with
  | zero => rfl
  | succ n ih =>
    unfold State.advanceN
    cases h : s.stepOnce with
    | none => rfl
    | some t => exact (ih t).trans (State.stepOnce_tiers h)

theorem State.advanceStart_tiers (s : State) : s.advanceStart.tiers = s.tiers := by
  unfold State.advanceStart
  extract_lets t
  have ht : t.tiers = s.tiers := State.advanceN_tiers 10 s
  clear_value t
  exact ite_leaves ht ((State.putGlb_tiers _ _ _).trans ht)

/-! ### The end of a load -/

theorem State.endLoad_tiers (s : State) : s.endLoad.tiers = s.tiers := by
  unfold State.endLoad
  split
  next l _ =>
    refine ite_leaves ?_ rfl
    rw [State.advanceStart_tiers, (State.showEpochs_touches _).rest]
    exact State.complete17_leaves State.tiers (fun _ _ _ => rfl) _ LD_STAT_DONE
  next => rfl

/-- A tier that is marked fresh stays as programmed: its calibration and ENG_TIER_ADV start anew. -/
theorem State.markFresh_tiers (s : State) (core eng tier : Nat) : (s.markFresh core eng tier).tiers = s.tiers := by
  unfold State.markFresh
  extract_lets i off u v
  have hoff : ∀ x f g, (off x f g).tiers = x.tiers := fun x f g => ite_leaves rfl rfl
  have hu : u.tiers = s.tiers := (hoff _ _ _).trans (hoff _ _ _)
  have hv : v.tiers = u.tiers := foldl_leaves State.tiers
    (fun x p => x.setBand core eng tier p { x.band core eng tier p with lastSettle := none, decade := none }) _ _ fun _ _ => rfl
  rw [apply_ite State.tiers, State.add_tiers, State.putAt_tiers, ite_self, hv, hu]

end Sys2Proof.Machine
end

section
/-! Program steps (R36, R354, R355): the step that a command makes, the cases of its verify, and the end of the last row
(O40). -/
namespace Sys2Proof.Machine

/-! ### The step -/

/-- A program step may run: a load runs, the first of its unfinished tiles of the engine is `x`, of index `k`, no verify of it
is due to fail by an injection and none is armed, and the core is powered, and stopped or in a program window of the engine. -/
structure ProgramRuns (s : State) (c : CoreId) (e : EngId) (l : Load) (k : Nat) (x : StagedTile) : Prop where
  load : s.weights.load = some l
  powered : s.domainOff c = false
  window : s.coreRunning c = false ∨ s.placed c (.engine e) .program = true
  disarmed : s.faults.armed = none
  first : l.tiles.findIdx (fun t => decide (t.core = c.val ∧ t.eng = e.val) && !t.done) = k
  tile : l.tiles[k]? = some x
  unforced : x.forced = 0

/-- The tile that a program step runs is one of the engine's. -/
theorem ProgramRuns.place {s : State} {c : CoreId} {e : EngId} {l : Load} {k : Nat} {x : StagedTile}
    (h : ProgramRuns s c e l k x) : x.core = c ∧ x.eng = e := by
  obtain ⟨hk, hx⟩ := List.getElem?_eq_some_iff.mp h.tile
  have hp := List.findIdx_getElem (w := h.first ▸ hk)
  simp only [h.first, hx, Bool.and_eq_true, decide_eq_true_eq] at hp
  exact hp.1

/-- The tier that a tile's program is for becomes programming, if it is not: it holds nothing, and keeps its program count. -/
def State.takeTier (s : State) (x : StagedTile) (core eng tier : Nat) : State :=
  if (s.tier core eng tier).role = 6 then s
  else (s.setTier core eng tier { Tier.blank with
    progCount := (s.tier core eng tier).progCount, tile := some x.num, copy := x.copy }).setRole core eng tier 6

/-- A program step leaves no tier live (R36). -/
def State.pulsed (s : State) (core eng tier : Nat) : State :=
  ((s.putAt (engI core eng) ENG_STAT_LIVE 0).putAt (engI core eng) ENG_STAT_EXACT 0).putAt (engI core eng)
    ENG_STAT_PROG_TIER tier

theorem State.takeTier_of_programming {s : State} {core eng tier : Nat} (h : (s.tier core eng tier).role = 6) (x : StagedTile) :
    s.takeTier x core eng tier = s := if_pos h

theorem State.takeTier_faults (s : State) (x : StagedTile) (core eng tier : Nat) :
    (s.takeTier x core eng tier).faults = s.faults := ite_leaves rfl (State.setRole_faults _ _ _ _ _)

theorem State.takeTier_weights (s : State) (x : StagedTile) (core eng tier : Nat) :
    (s.takeTier x core eng tier).weights = s.weights := ite_leaves rfl (State.setRole_weights _ _ _ _ _)

theorem State.takeTier_tier {s : State} {core eng tier : Nat} (h : (s.tier core eng tier).role ≠ 6) (x : StagedTile) :
    (s.takeTier x core eng tier).tier core eng tier =
      { Tier.blank with progCount := (s.tier core eng tier).progCount, tile := some x.num, copy := x.copy, role := 6 } := by
  unfold State.takeTier
  rw [if_neg h, State.tier_setRole_same, State.tier_setTier_same]

theorem State.pulsed_touches (s : State) (core eng tier : Nat) :
    RegsOnly [ENG_STAT_LIVE.addr + engI core eng] s (s.pulsed core eng tier) := by
  have hstat : ENG_STAT_LIVE.addr + engI core eng ∈ [ENG_STAT_LIVE.addr + engI core eng] := List.mem_singleton.mpr rfl
  exact (((RegsOnly.refl _ s).putAt (f := ENG_STAT_LIVE) hstat 0).putAt (f := ENG_STAT_EXACT) hstat 0).putAt
    (f := ENG_STAT_PROG_TIER) hstat tier

theorem State.pulsed_notLive (s : State) (core eng tier : Nat) :
    (s.pulsed core eng tier).fldAt (engI core eng) ENG_STAT_LIVE = 0 := by
  unfold State.pulsed
  rw [State.fldAt_putAt_other _ _ _ _ _ (by decide), State.fldAt_putAt_other _ _ _ _ _ (by decide),
    State.fldAt_putAt_same _ _ _ _ (by decide)]
  rfl

theorem State.pulsed_progTier (s : State) (core eng tier : Nat) (h : tier < 8) :
    (s.pulsed core eng tier).fldAt (engI core eng) ENG_STAT_PROG_TIER = tier :=
  (State.fldAt_putAt_same _ _ _ _ (by decide)).trans (Nat.mod_eq_of_lt h)

theorem State.tryInject_disarmed {s : State} (h : s.faults.armed = none) (point core unit : Nat) :
    s.tryInject point core unit = (s, none) := by
  unfold State.tryInject State.injects
  rw [h]

/-- The step that a command makes: on the tile's tier, or on the one that its first step chooses. -/
theorem exec_programStep {s : State} {c : CoreId} {e : EngId} {l : Load} {k : Nat} {x : StagedTile}
    (h : ProgramRuns s c e l k x) (q : Nat)
    (hq : x.tier = some q ∨ x.tier = none ∧ s.chooseTier x l.repair.isSome = .inr (q, false)) (ok : Bool) :
    exec (.programStep c e ok) s =
      .next (((s.takeTier x c e q).pulsed c e q).stepRow k { x with tier := some q } q ok false) := by
  have hgate : ¬(s.domainOff c = true ∨ s.coreRunning c = true ∧ (!s.placed c (.engine e) .program) = true) := by
    rintro (hoff | ⟨hrun, hplaced⟩)
    · exact Bool.false_ne_true (h.powered.symm.trans hoff)
    · obtain hstop | hin := h.window
      · exact Bool.false_ne_true (hstop.symm.trans hrun)
      · rw [hin] at hplaced
        exact absurd hplaced (by decide)
  show execProgramStep c e ok s = _
  unfold execProgramStep
  rw [h.load]
  dsimp -zeta only
  extract_lets i
  rw [show i = k from h.first, h.tile]
  dsimp -zeta only
  rw [if_neg hgate]
  split
  next code hpick =>
    obtain hq | ⟨hnone, hchoose⟩ := hq
    · simp [hq] at hpick
    · simp [hnone, hchoose] at hpick
  next tier inPlace hpick =>
    obtain ⟨rfl, rfl⟩ : tier = q ∧ inPlace = false := by
      obtain hq | ⟨hnone, hchoose⟩ := hq
      · simpa [hq, eq_comm] using hpick
      · simpa [hnone, hchoose, eq_comm] using hpick
    extract_lets t old u v forced
    have hv : v = (s.takeTier x c e tier).pulsed c e tier := rfl
    have hfaults : v.faults = s.faults := by
      rw [hv, (State.pulsed_touches _ _ _ _).faults, State.takeTier_faults]
    have hinj : v.tryInject 0x20 c e = (v, none) := State.tryInject_disarmed (hfaults ▸ h.disarmed) _ _ _
    have hforced : forced = 0 := by
      unfold forced
      rw [hinj]
      exact h.unforced
    have hok : (ok && (0 : Nat) == 0) = ok := Bool.and_true ok
    rw [hinj, hforced, hok, hv, h.unforced]
    rfl

/-! ### The verify (R354) -/

theorem State.setStaged_of_load {s : State} {l : Load} (h : s.weights.load = some l) (k : Nat) (x : StagedTile) :
    s.setStaged k x = s.setLoad { l with tiles := l.tiles.set k x } := by
  unfold State.setStaged
  rw [h]

/-- A tier whose program fails: the fault is recorded, the tier takes role 7, and CORE_MAP says so. -/
def State.failProgram (s : State) (r : FaultRec) (core eng tier : Nat) : State :=
  ((s.faultRecord r).setRole core eng tier 7).logCoreMap core

theorem State.failProgram_keeps (s : State) (r : FaultRec) (core eng tier : Nat) :
    KeepsFailed (s.faultRecord r) (s.failProgram r core eng tier) :=
  (KeepsFailed.setRole _ (fun _ => rfl)).trans (.logCoreMap _ core)

theorem State.failProgram_tier (s : State) (r : FaultRec) (core eng tier : Nat) :
    ((s.failProgram r core eng tier).tier core eng tier).role = 7 :=
  congrArg Tier.role (State.tier_setRole_same (s.faultRecord r) core eng tier 7)

section
variable (s : State) (k : Nat) (x : StagedTile) (tier : Nat)

/-- A row that verifies before the last one is followed by the next. -/
theorem State.stepRow_nextRow (h : x.row + 1 < 1025 + Config.metaRows.val) (injected : Bool) :
    s.stepRow k x tier true injected = s.setStaged k { x with row := x.row + 1, step := 0, retried := false } := if_pos h

theorem State.stepRow_lastRow (h : 1025 + Config.metaRows.val ≤ x.row + 1) (injected : Bool) :
    s.stepRow k x tier true injected = ((s.setStaged k { x with done := true }).finishTier x tier).endLoad.advanceStart :=
  if_neg (Nat.not_lt.mpr h)

theorem State.stepRow_again (h : x.step < 7) (injected : Bool) :
    s.stepRow k x tier false injected = s.setStaged k { x with step := x.step + 1 } := if_pos h

/-- The eighth step of a row's second try fails the tier and the load. -/
theorem State.stepRow_fails (h : 7 ≤ x.step) (hretried : x.retried = true) (injected : Bool) :
    s.stepRow k x tier false injected = (s.failProgram
      ⟨0x20, x.core, x.eng, tier, x.row / 32 % 32, x.row, 0, s.tb.rod, injected⟩ x.core x.eng tier).failLoad 0x09 := by
  unfold State.stepRow
  rw [if_neg (by decide), if_neg (Nat.not_lt.mpr h), hretried, if_neg (by decide)]
  rfl
end

/-- The tile that is stepped is written back into its load, and the engine has no live tier. -/
theorem State.setStaged_pulsed {s : State} {l : Load} (h : s.weights.load = some l) (core eng tier k : Nat) (x : StagedTile) :
    ((s.pulsed core eng tier).setStaged k x).weights.load = some { l with tiles := l.tiles.set k x } ∧
      ((s.pulsed core eng tier).setStaged k x).fldAt (engI core eng) ENG_STAT_LIVE = 0 ∧
      regsKept s ((s.pulsed core eng tier).setStaged k x) [ENG_STAT_LIVE.addr + engI core eng] ∧
      ((s.pulsed core eng tier).setStaged k x).tiers = s.tiers ∧
      (tier < 8 → ((s.pulsed core eng tier).setStaged k x).fldAt (engI core eng) ENG_STAT_PROG_TIER = tier) := by
  have htouches := s.pulsed_touches core eng tier
  have hlive := s.pulsed_notLive core eng tier
  have hprog := s.pulsed_progTier core eng tier
  generalize s.pulsed core eng tier = u at htouches hlive hprog
  rw [State.setStaged_of_load (htouches.weights ▸ h)]
  exact ⟨rfl, hlive, htouches.regs, htouches.tiers, hprog⟩

/-! ### The first step of a tile (R353, R364) -/

/-- Outside a load variant the target is the lowest free tier with programs left. -/
theorem State.chooseTier_free {s : State} {x : StagedTile} {f : Nat} {v : List Nat} (hvar : s.loadVariant = false)
    (hfree : ((List.range 8).filter (fun k => (s.tier x.core x.eng k).role = 0)).filter
      (fun k => (s.tier x.core x.eng k).progCount < 100000) = f :: v) (repair : Bool) :
    s.chooseTier x repair = .inr (f, false) := by
  unfold State.chooseTier
  extract_lets free cur dbl inPlace ok
  have hok : ok = f :: v := hfree
  rw [if_neg (by simp [hvar]), hok]
  rfl

theorem programStep_takesTier {s : State} {c : CoreId} {e : EngId} {l : Load} {k f : Nat} {x : StagedTile} {v : List Nat}
    (h : ProgramRuns s c e l k x) (htier : x.tier = none) (hvar : s.loadVariant = false) (hstep : x.step < 7)
    (hfree : ((List.range 8).filter (fun k => (s.tier c e k).role = 0)).filter
      (fun k => (s.tier c e k).progCount < 100000) = f :: v) :
    ∃ t y, exec (.programStep c e false) s = .next t ∧ (t.tier c e f).role = 6 ∧
      (t.tier c e f).progCount = (s.tier c e f).progCount ∧ (t.tier c e f).tile = some x.num ∧
      (t.weights.load.map Load.tiles) = some (l.tiles.set k y) ∧ y.tier = some f ∧
      t.fldAt (engI c e) ENG_STAT_LIVE = 0 ∧ t.fldAt (engI c e) ENG_STAT_PROG_TIER = f := by
  have hplace := h.place
  obtain ⟨hmem, -⟩ := List.mem_filter.mp (hfree ▸ List.mem_cons_self : f ∈ _)
  obtain ⟨hrange, hrole⟩ := List.mem_filter.mp hmem
  have hf : f < 8 := List.mem_range.mp hrange
  have hfresh : (s.tier c e f).role ≠ 6 := by
    rw [of_decide_eq_true hrole]
    decide
  have hchoose : s.chooseTier x l.repair.isSome = .inr (f, false) := by
    refine State.chooseTier_free (v := v) hvar ?_ _
    rwa [hplace.1, hplace.2]
  have hload : (s.takeTier x c e f).weights.load = some l :=
    (congrArg Weights.load (s.takeTier_weights x c e f)).trans h.load
  have hexec := exec_programStep h f (.inr ⟨htier, hchoose⟩) false
  rw [State.stepRow_again _ k { x with tier := some f } f hstep] at hexec
  obtain ⟨hset, hlive, -, htiers, hprog⟩ :=
    State.setStaged_pulsed hload c e f k { x with tier := some f, step := x.step + 1 }
  have htaken := State.takeTier_tier hfresh x
  generalize ((s.takeTier x c e f).pulsed c e f).setStaged k { x with tier := some f, step := x.step + 1 } = t
    at hexec hset hlive htiers hprog
  rw [← State.tier_of_tiers htiers] at htaken
  exact ⟨t, _, hexec, congrArg Tier.role htaken, (congrArg Tier.progCount htaken :), congrArg Tier.tile htaken,
    congrArg (Option.map Load.tiles) hset, rfl, hlive, hprog hf⟩

/-! ### The steps on a tier that is programming -/

theorem programStep_onTier {s : State} {c : CoreId} {e : EngId} {l : Load} {k q : Nat} {x : StagedTile}
    (h : ProgramRuns s c e l k x) (hq : x.tier = some q) (hrole : (s.tier c e q).role = 6) (ok : Bool) :
    exec (.programStep c e ok) s = .next ((s.pulsed c e q).stepRow k x q ok false) := by
  have hx : { x with tier := some q } = x := by rw [← hq]
  rw [exec_programStep h q (.inl hq), State.takeTier_of_programming hrole, hx]

theorem KeepsFailed.pulsed (s : State) (core eng tier : Nat) : KeepsFailed s (s.pulsed core eng tier) where
  failed c e k h7 := (congrArg Tier.role (State.tier_of_tiers (s.pulsed_touches core eng tier).tiers c e k)).trans h7
  log := congrArg Faults.log (s.pulsed_touches core eng tier).faults
  weights := (s.pulsed_touches core eng tier).weights
  regs a ha := (s.pulsed_touches core eng tier).regs a (by simp only [List.mem_singleton, ENG_STAT_LIVE]; omega)

/-- The eighth step of a row's second try fails the tier and the load, and is in the fault log. -/
theorem programStep_fails {s : State} {c : CoreId} {e : EngId} {l : Load} {k q : Nat} {x : StagedTile}
    (h : ProgramRuns s c e l k x) (hq : x.tier = some q) (hrole : (s.tier c e q).role = 6) (hstep : 7 ≤ x.step)
    (hretried : x.retried = true) :
    loadFailedAs s (.programStep c e false) 0x09 ∧
      ∀ t, exec (.programStep c e false) s = .next t →
        (t.tier c e q).role = 7 ∧ t.faults.log.head?.map FaultRec.det = some 0x20 := by
  obtain ⟨hcore, heng⟩ := h.place
  have hpulsed := KeepsFailed.pulsed s c e q
  have hexec := programStep_onTier h hq hrole false
  generalize s.pulsed c e q = u at hexec hpulsed
  rw [State.stepRow_fails u k x q hstep hretried, hcore, heng] at hexec
  generalize hr : (⟨0x20, c, e, q, x.row / 32 % 32, x.row, 0, u.tb.rod, false⟩ : FaultRec) = r at hexec
  have hdet : r.det = 0x20 := hr ▸ rfl
  have hkeeps := u.failProgram_keeps r c e q
  have htier := u.failProgram_tier r c e q
  generalize u.failProgram r c e q = v at hexec hkeeps htier
  have hweights : v.weights = s.weights :=
    hkeeps.weights.trans ((State.faultRecord_weights u r).trans hpulsed.weights)
  have hload : v.weights.load = some l := (congrArg Weights.load hweights).trans h.load
  have hcount : v.fld LD_FAIL_CNT_COUNT = s.fld LD_FAIL_CNT_COUNT := (hkeeps.fld (by decide)).trans (hpulsed.fld (by decide))
  have hfail := State.failLoad_fails hload 0x09 (by decide)
  generalize v.failLoad 0x09 = t at hexec hfail
  have hpaused := hfail.load.trans (congrArg Weights.paused hweights)
  refine ⟨⟨t, hexec, hfail.flag, hfail.shown, hcount ▸ hfail.count, hpaused⟩, ?_⟩
  rintro _ ht
  obtain rfl := Host.Outcome.next.inj (hexec.symm.trans ht)
  refine ⟨hfail.failed c e q htier, ?_⟩
  rw [hfail.log, hkeeps.log, State.faultRecord_log, ← hdet]
  rfl

/-! ### The last row -/

theorem State.finishTier_tier {s : State} {x : StagedTile} {q : Nat} {d : TileDecl} (hrepairs : s.faults.repairs = [])
    (hfind : s.boot.image.tiles.find? (fun d => decide (some d.core = s.logicalOf x.core) &&
      decide (d.engine = x.eng ∧ d.num = x.num ∧ d.standby = x.copy)) = some d)
    (hcorpus : s.boot.image.isCorpus d.core d.engine d.num = false) :
    (s.finishTier x q).tier x.core x.eng q = tileTier d (s.rowMapAt x.core x.eng q x.epoch) x.data false x.copy x.epoch
      (s.tier x.core x.eng q).progCount s.tb.rod x.role := by
  have hdecl : s.boot.image.tiles.find? (fun d => decide (some d.core = s.logicalOf x.core ∨
      s.faults.repairs.any (fun r => r.spare = x.core ∧ r.logical = d.core)) &&
      decide (d.engine = x.eng ∧ d.num = x.num ∧ d.standby = x.copy)) = some d := by
    simpa only [hrepairs, List.any_nil, Bool.false_eq_true, or_false] using hfind
  unfold State.finishTier
  rw [hdecl]
  dsimp -zeta only
  extract_lets corpus w new old u v mirror boot weights y z
  have hc : corpus = false := hcorpus
  clear_value corpus
  subst hc
  have hz : z.tiers = v.tiers := State.markFresh_tiers (y.add LD_TILE_DONE_COUNT 1) x.core x.eng q
  have hv : v.tier x.core x.eng q = { new with role := x.role } := by
    unfold v
    rw [State.tier_setRole_same, State.tier_setTier_same]
  clear_value z v
  rw [if_neg (by simp), State.tier_of_tiers hz, hv]
  rfl

/-- The last row of a tile leaves its tier as programmed: what it holds, and one program more. -/
theorem programStep_fillsTier {s : State} {c : CoreId} {e : EngId} {l : Load} {k q : Nat} {x : StagedTile} {d : TileDecl}
    (h : ProgramRuns s c e l k x) (hq : x.tier = some q) (hrole : (s.tier c e q).role = 6)
    (hlast : 1025 + Config.metaRows.val ≤ x.row + 1) (hrepairs : s.faults.repairs = [])
    (hfind : s.boot.image.tiles.find? (fun d => decide (some d.core = s.logicalOf c) &&
      decide (d.engine = x.eng ∧ d.num = x.num ∧ d.standby = x.copy)) = some d)
    (hcorpus : s.boot.image.isCorpus d.core d.engine d.num = false) :
    ∃ t rm time, exec (.programStep c e true) s = .next t ∧
      t.tier c e q = tileTier d rm x.data false x.copy x.epoch (s.tier c e q).progCount time x.role := by
  obtain ⟨hcore, heng⟩ := h.place
  have hexec := programStep_onTier h hq hrole true
  rw [State.stepRow_lastRow _ k x q hlast] at hexec
  have htouches := s.pulsed_touches c e q
  generalize s.pulsed c e q = u at hexec htouches
  have hload : u.weights.load = some l := (congrArg Weights.load htouches.weights).trans h.load
  rw [State.setStaged_of_load hload] at hexec
  have htiers : (u.setLoad { l with tiles := l.tiles.set k { x with done := true } }).tiers = s.tiers := htouches.tiers
  have hfaults : (u.setLoad { l with tiles := l.tiles.set k { x with done := true } }).faults = s.faults := htouches.faults
  have hboot : (u.setLoad { l with tiles := l.tiles.set k { x with done := true } }).boot = s.boot := htouches.boot
  generalize u.setLoad { l with tiles := l.tiles.set k { x with done := true } } = w at hexec htiers hfaults hboot
  have hlogical : w.logicalOf x.core = s.logicalOf c := by
    unfold State.logicalOf
    rw [hfaults, hcore]
  have hdone := State.finishTier_tier (s := w) (x := x) (q := q) (d := d) (hfaults ▸ hrepairs)
    (by rw [hboot, hlogical]; exact hfind) (by rw [hboot]; exact hcorpus)
  rw [hcore, heng, State.tier_of_tiers htiers] at hdone
  have hend : (w.finishTier x q).endLoad.advanceStart.tiers = (w.finishTier x q).tiers :=
    (State.advanceStart_tiers _).trans (State.endLoad_tiers _)
  exact ⟨_, _, _, hexec, (State.tier_of_tiers hend c e q).trans hdone⟩

/-- Settles O40: the first step takes a tier, and each verify of a step on it is one of the cases of `stepRow`. -/
theorem programStepsFillATier : Obligations.ProgramStepsFillATier := by
  intro s c e l k x hload hpowered hwindow hdisarmed hfirst htile hunforced
  have h : ProgramRuns s c e l k x := ⟨hload, hpowered, hwindow, hdisarmed, hfirst, htile, hunforced⟩
  refine ⟨fun v f htier hvar hstep _ hfree => programStep_takesTier h htier hvar hstep hfree,
    fun q _ hq hrole => ⟨?_, ?_, ?_, ?_⟩⟩
  · intro hstep
    have hexec := programStep_onTier h hq hrole false
    rw [State.stepRow_again _ k x q hstep] at hexec
    obtain ⟨hset, hlive, hregs, -⟩ := State.setStaged_pulsed hload c e q k { x with step := x.step + 1 }
    exact ⟨_, hexec, hset, hlive, hregs⟩
  · intro hrow
    have hexec := programStep_onTier h hq hrole true
    rw [State.stepRow_nextRow _ k x q hrow] at hexec
    obtain ⟨hset, hlive, hregs, -⟩ :=
      State.setStaged_pulsed hload c e q k { x with row := x.row + 1, step := 0, retried := false }
    exact ⟨_, hexec, hset, hlive, hregs⟩
  · exact programStep_fails h hq hrole
  · intro d hlast hrepairs hfind hcorpus
    obtain ⟨t, rm, time, hexec, htier⟩ := programStep_fillsTier h hq hrole hlast hrepairs hfind hcorpus
    refine ⟨t, hexec, ?_⟩
    rw [htier]
    exact ⟨rfl, rfl, rfl, rfl, rfl⟩

end Sys2Proof.Machine
end

section
/-! The deadline of a beat's merge (R89, R90): what a delivery leaves at the output stage, in the OUT token and in the engine's
registers, and the cases of MERGE_DEADLINE (O10). -/
namespace Sys2Proof.Machine

/-! ### The delivery (R88, R89) -/

/-- A beat leaves the output stage and its row goes to the OUT token, as a void row where the beat is delivered void. Of the
registers of its engine only the sticky overflow may change. -/
theorem State.deliver_delivers (s : State) (core eng : Nat) (o : BeatOut) (void : Bool) :
    ∃ (u : State) (v f : BitVec 32), s.deliver core eng o void = u.produce o.issue ((1 : BitVec 32) <<< o.row) v f ∧
      (void = true → v = (1 : BitVec 32) <<< o.row) ∧
      (u.engine core eng).outs = (s.engine core eng).outs.erase o ∧
      (∀ g : Fld, ENG_OUT_FLAG_OVF.misses g = true → u.fldAt (engI core eng) g = s.fldAt (engI core eng) g) := by
  unfold State.deliver
  extract_lets e tier row u none'
  have hu : (u.engine core eng).outs = (s.engine core eng).outs.erase o :=
    congrArg Engine.outs (s.engine_setEngine core eng { e with outs := e.outs.erase o })
  cases u.tileDecl core eng o.tile with
  | none => exact ⟨u, row, 0, rfl, fun _ => rfl, hu, fun _ _ => rfl⟩
  | some d =>
    dsimp -zeta only
    extract_lets ol ad w ys ovf flag void' x y
    have hx : x.engines = u.engines := ite_leaves rfl rfl
    have hy : y.engines = x.engines := foldl_leaves State.engines _ ys x fun _ _ => rfl
    have hregs : y.regs = x.regs := foldl_leaves State.regs _ ys x fun _ _ => rfl
    refine ⟨y, _, _, rfl, fun hvoid => ?_, ?_, fun g hg => ?_⟩
    · have hvoid' : void' = true := by simp [void', hvoid]
      exact if_pos hvoid'
    · rw [State.engine_of_engines (hy.trans hx), hu]
    · exact (State.fldAt_of_regs hregs _ g).trans (State.fldAt_raiseIfAt_other u _ _ g ovf hg)

theorem State.outs_deliver (s : State) (core eng : Nat) (o : BeatOut) (void : Bool) :
    ((s.deliver core eng o void).engine core eng).outs = (s.engine core eng).outs.erase o := by
  obtain ⟨u, v, f, heq, -, houts, -⟩ := s.deliver_delivers core eng o void
  rw [heq, State.engine_of_engines (u.produce_engines ..), houts]

theorem State.fldAt_deliver_other (s : State) (core eng : Nat) (o : BeatOut) (void : Bool) (g : Fld)
    (hg : ENG_OUT_FLAG_OVF.misses g = true) :
    (s.deliver core eng o void).fldAt (engI core eng) g = s.fldAt (engI core eng) g := by
  obtain ⟨u, v, f, heq, -, -, hfld⟩ := s.deliver_delivers core eng o void
  rw [heq, State.fldAt_of_regs (u.produce_regs ..), hfld g hg]

theorem State.voided_produce (s : State) (i : Issue) (rows f : BitVec 32) (row : Fin 32) (h : i.out ≠ 255) :
    ((s.produce i rows ((1 : BitVec 32) <<< row.val) f).token i.core i.out).voided.getLsbD row = true := by
  unfold State.produce
  rw [if_neg h, State.token_setToken]
  simp

theorem State.voided_deliver (s : State) (core eng : Nat) (o : BeatOut) (row : Fin 32) (hrow : o.row = row.val)
    (hout : o.issue.out ≠ 255) :
    ((s.deliver core eng o true).token o.issue.core o.issue.out).voided.getLsbD row = true := by
  obtain ⟨u, v, f, heq, hv, -⟩ := s.deliver_delivers core eng o true
  rw [heq, hv rfl, hrow]
  exact u.voided_produce o.issue _ f row hout

/-! ### A merge that lacks a contribution (R90) -/

/-- The event counts and sets MERGE_LATE, and the beat's position is voided as late data. -/
def State.noteMergeLate (s : State) (core eng : Nat) (o : BeatOut) : State :=
  ((s.addAt (engI core eng) ENG_MERGE_LATE_COUNT 1).putAt (engI core eng) ENG_OUT_FLAG_MERGE_LATE 1).lateRows o.key
    ((1 : BitVec 32) <<< o.row)

@[simp] theorem State.noteMergeLate_engines (s : State) (core eng : Nat) (o : BeatOut) :
    (s.noteMergeLate core eng o).engines = s.engines := State.lateRows_engines _ _ _

/-- Late data changes no register but the count of void positions. -/
theorem State.fldAt_lateRows_ne (s : State) (key : Option Nat) (mask : BitVec 32) (i : Nat) (f : Fld)
    (h : f.addr + i ≠ TB_VOID_CNT_COUNT.addr) : (s.lateRows key mask).fldAt i f = s.fldAt i f :=
  (State.fldAt_of_regs (s.lateRows_regs key mask) i f).trans (s.fldAt_addAt_ne 0 i _ f _ h)

theorem State.noteMergeLate_counts (s : State) (core eng : Nat) (o : BeatOut) :
    (s.noteMergeLate core eng o).fldAt (engI core eng) ENG_MERGE_LATE_COUNT =
        min (s.fldAt (engI core eng) ENG_MERGE_LATE_COUNT + 1) ENG_MERGE_LATE_COUNT.top ∧
      (s.noteMergeLate core eng o).fldAt (engI core eng) ENG_OUT_FLAG_MERGE_LATE = 1 := by
  have hcount : TB_VOID_CNT_COUNT.addr < ENG_MERGE_LATE_COUNT.addr := by decide
  have hflag : TB_VOID_CNT_COUNT.addr < ENG_OUT_FLAG_MERGE_LATE.addr := by decide
  unfold State.noteMergeLate
  constructor
  · rw [State.fldAt_lateRows_ne _ _ _ _ _ (by omega), State.fldAt_putAt_other _ _ _ _ _ (by decide),
      State.fldAt_addAt_same _ _ _ _ (by decide)]
  · rw [State.fldAt_lateRows_ne _ _ _ _ _ (by omega), State.fldAt_putAt_same _ _ _ _ (by decide)]
    rfl

/-! ### The cases of the command -/

theorem BeatOut.row_of_serves {o : BeatOut} {tile row inst : Nat} (h : o.serves tile row inst = true) : o.row = row := by
  simp only [BeatOut.serves, Bool.and_eq_true, decide_eq_true_eq] at h
  obtain ⟨⟨-, hrow⟩, -⟩ := h
  exact hrow

section
variable {s : State} {core : CoreId} {eng : EngId} {tile inst : Nat} {row : Fin 32} {o : BeatOut}

theorem execMergeDeadline_of_noBeat (hfind : (s.engine core eng).outs.find? (fun x => x.serves tile row inst) = none) :
    execMergeDeadline core eng tile inst row s = .next s := by
  unfold execMergeDeadline
  rw [hfind]

variable (hfind : (s.engine core eng).outs.find? (fun x => x.serves tile row inst) = some o)
include hfind

theorem execMergeDeadline_of_contributed (hinj : s.injects 0x04 core eng = none) (hc : s.contributed core eng o = true) :
    execMergeDeadline core eng tile inst row s = .next (s.deliver core eng o o.void) := by
  unfold execMergeDeadline State.tryInject
  rw [hfind, hinj]
  exact if_pos ⟨hc, rfl⟩

theorem execMergeDeadline_of_missing (hinj : s.injects 0x04 core eng = none) (hc : s.contributed core eng o = false) :
    execMergeDeadline core eng tile inst row s = .next ((s.noteMergeLate core eng o).deliver core eng o true) := by
  unfold execMergeDeadline State.tryInject
  rw [hfind, hinj]
  exact if_neg fun h => Bool.false_ne_true (hc.symm.trans h.1)

end

/-! ### The obligation -/

/-- Settles O10: the beat is delivered in either case, and void and counted where a contribution is missing. -/
theorem mergeDeadlineDelivers : Obligations.MergeDeadlineDelivers := by
  intro s core eng tile inst row
  refine ⟨fun o hfind hcore hout hinj => ?_, execMergeDeadline_of_noBeat⟩
  subst hcore
  have hrow : o.row = row.val := BeatOut.row_of_serves (inst := inst) (List.find?_some hfind :)
  cases hc : s.contributed o.issue.core eng o with
  | true =>
    exact ⟨_, execMergeDeadline_of_contributed hfind hinj hc, s.outs_deliver _ _ _ _,
      s.arrived_deliver _ _ _ _ row hrow hout,
      fun _ => ⟨s.fldAt_deliver_other _ _ _ _ _ (by decide), s.fldAt_deliver_other _ _ _ _ _ (by decide)⟩,
      fun h => absurd h.symm Bool.false_ne_true⟩
  | false =>
    obtain ⟨hcount, hflag⟩ := s.noteMergeLate_counts o.issue.core eng o
    refine ⟨_, execMergeDeadline_of_missing hfind hinj hc, ?_, State.arrived_deliver _ _ _ _ _ row hrow hout,
      fun h => absurd h Bool.false_ne_true,
      fun _ => ⟨State.voided_deliver _ _ _ _ row hrow hout, ?_, ?_⟩⟩
    · rw [State.outs_deliver, State.engine_of_engines (s.noteMergeLate_engines ..)]
    · rw [State.fldAt_deliver_other _ _ _ _ _ _ (by decide), hcount]
    · rw [State.fldAt_deliver_other _ _ _ _ _ _ (by decide), hflag]

end Sys2Proof.Machine
end

section
/-! The registers that a pass of a beat may write (R56 to R68, R73, R76, R86, R112, R115): those of its counts and flags, and those of
what it can set off, which are injections, faults, retirements and trim sets. A trim set or a fault names its own unit, so the frame
is by the place of a register in the 4 KB of its unit (R465). -/
namespace Sys2Proof.Machine

/-! ### The frame -/

/-- The places, in the 4 KB of a unit, of the registers that a pass may write. -/
def passPlaces : List Nat :=
  [INJ_STAT_FIRED, INJ_HIT_COUNT, LINJ_STAT_FIRED, FLT_SE_CNT_COUNT, CORE_FAULT_FENCE_REQ, ENG_RET_BANDS, ENG_ASZ_STAT_DOUBTFUL,
    ENG_TRIM_REJ_COUNT, ASZ_REJ_CNT_COUNT, ASZ_DOUBT_CNT_COUNT, ENG_TIER_ADV_ADVISED, ENG_CONV_SAT_COUNT, ENG_OVR_CNT_COUNT,
    ENG_WD_FLAG_OVR, ENG_WIT_CNT_COUNT, ENG_RES_CNT_COUNT, ENG_OUT_FLAG_RES_ERR, ENG_SKIP_CNT_COUNT,
    ENG_CLAMP_CNT_COUNT].map (fun f => f.addr % 0x1000)

/-- From `s` to `t`, only registers at those places change. -/
structure PassFrame (s t : State) : Prop where
  rd : ∀ a, a % 0x1000 ∉ passPlaces → t.rd a = s.rd a

section
variable {s t : State}

theorem PassFrame.refl (s : State) : PassFrame s s := ⟨fun _ _ => rfl⟩

theorem PassFrame.trans {u : State} (h : PassFrame s t) (g : PassFrame t u) : PassFrame s u :=
  ⟨fun a ha => (g.rd a ha).trans (h.rd a ha)⟩

theorem PassFrame.fldAt (h : PassFrame s t) {i : Nat} {f : Fld} (hf : (f.addr + i) % 0x1000 ∉ passPlaces) :
    t.fldAt i f = s.fldAt i f := by
  unfold State.fldAt
  rw [h.rd _ hf]

/-- An operation that leaves the registers alone. -/
theorem PassFrame.same {u : State} (h : PassFrame s t) (e : u.regs = t.regs) : PassFrame s u :=
  h.trans ⟨fun a _ => congrArg (fun m => SMap.get regReset m a) e⟩

theorem PassFrame.ite {u : State} {c : Prop} [Decidable c] (h : PassFrame s t) (g : PassFrame s u) :
    PassFrame s (if c then t else u) := by
  split
  · exact h
  · exact g

theorem PassFrame.foldl {α : Type} (f : State → α → State) (l : List α) (h : PassFrame s t)
    (hf : ∀ u x, PassFrame u (f u x)) : PassFrame s (l.foldl f t) := by
  induction l generalizing t with
  | nil => exact h
  | cons x l ih => exact ih (h.trans (hf t x))

theorem PassFrame.putAt (h : PassFrame s t) {i : Nat} {f : Fld} (hi : i % 0x1000 = 0) (hf : f.addr % 0x1000 ∈ passPlaces)
    (v : Nat) : PassFrame s (t.putAt i f v) := by
  refine h.trans ⟨fun a ha => State.rd_putAt_ne t i f v a ?_⟩
  rintro rfl
  exact ha (by rwa [Nat.add_mod, hi, Nat.add_zero, Nat.mod_mod])

theorem engI_mod (core eng : Nat) : engI core eng % 0x1000 = 0 := by
  unfold engI
  omega

theorem coreI_mod (core : Nat) : coreI core % 0x1000 = 0 := by
  unfold coreI
  omega

variable (h : PassFrame s t)
include h

theorem PassFrame.putEng {core eng : Nat} {f : Fld} (v : Nat) (hf : f.addr % 0x1000 ∈ passPlaces := by decide) :
    PassFrame s (t.putAt (engI core eng) f v) := h.putAt (engI_mod core eng) hf v

theorem PassFrame.addEng {core eng : Nat} {f : Fld} (n : Nat) (hf : f.addr % 0x1000 ∈ passPlaces := by decide) :
    PassFrame s (t.addAt (engI core eng) f n) := h.putEng _ hf

theorem PassFrame.putCore {core : Nat} {f : Fld} (v : Nat) (hf : f.addr % 0x1000 ∈ passPlaces := by decide) :
    PassFrame s (t.putAt (coreI core) f v) := h.putAt (coreI_mod core) hf v

theorem PassFrame.addCore {core : Nat} {f : Fld} (n : Nat) (hf : f.addr % 0x1000 ∈ passPlaces := by decide) :
    PassFrame s (t.addAt (coreI core) f n) := h.putCore _ hf

theorem PassFrame.put {f : Fld} (v : Nat) (hf : f.addr % 0x1000 ∈ passPlaces := by decide) : PassFrame s (t.put f v) :=
  h.putAt rfl hf v

theorem PassFrame.add {f : Fld} (n : Nat) (hf : f.addr % 0x1000 ∈ passPlaces := by decide) : PassFrame s (t.add f n) :=
  h.put _ hf

theorem PassFrame.setEngine (core eng : Nat) (e : Engine) : PassFrame s (t.setEngine core eng e) := h.same rfl

theorem PassFrame.voidRows (key : Option Nat) (mask : BitVec 32) : PassFrame s (t.voidRows key mask) :=
  h.same (t.voidRows_regs key mask)

theorem PassFrame.produce (i : Issue) (a v f : BitVec 32) : PassFrame s (t.produce i a v f) := h.same (t.produce_regs i a v f)

theorem PassFrame.faultRecord (r : FaultRec) : PassFrame s (t.faultRecord r) := h.same (t.faultRecord_regs r)

/-! ### Faults (R81, R82, R397, R406, R409, R410) -/

theorem PassFrame.fired : PassFrame s t.fired := by
  unfold State.fired
  split
  · exact h
  · extract_lets faults u v i
    have hu : PassFrame s u := h.same rfl
    have hv : PassFrame s v := ((hu.put _).put _).add _
    exact .ite (((hv.putCore _).putCore _).putCore _) hv

theorem PassFrame.tryInject (point core unit : Nat) : PassFrame s (t.tryInject point core unit).1 := by
  unfold State.tryInject
  split
  · exact h.fired
  · exact h

theorem PassFrame.silentError (r : FaultRec) (key : Option Nat) (rows : BitVec 32) : PassFrame s (t.silentError r key rows) := by
  unfold State.silentError
  extract_lets u v
  have hu : PassFrame s u := by
    unfold u
    split
    · exact h.voidRows _ rows
    · exact h
  exact ((hu.faultRecord r).addCore _).putCore _

theorem PassFrame.requestFence (core : Nat) : PassFrame s (t.requestFence core) := by
  refine .ite h (.putCore ?_ _)
  exact h.same rfl

theorem PassFrame.distrust (core unit : Nat) : PassFrame s (t.distrust core unit) := by
  refine .putCore (f := CORE_FAULT_UNTRUSTED) ?_ _
  exact h.same rfl

theorem PassFrame.escalate (core : Nat) (unit : Option Nat) (injected : Bool) :
    PassFrame s (t.escalate core unit injected) := by
  refine .ite (h.put _) (.requestFence ?_ core)
  cases unit with
  | none => exact h
  | some u => exact h.distrust core u

theorem PassFrame.retire (core eng band conv : Nat) (injected : Bool) :
    PassFrame s (t.retire core eng band conv injected) := by
  unfold State.retire
  extract_lets e u old v
  have hu : PassFrame s u := h.setEngine ..
  have hv : PassFrame s v := .ite hu (hu.putEng _)
  exact .ite (h.put _) (.ite (h.requestFence core) (.ite ((h.setEngine ..).requestFence core) (hv.requestFence core)))

theorem PassFrame.weigh (e : LedgerEvent) (injected : Bool) : PassFrame s (t.weigh e injected) := by
  unfold State.weigh
  extract_lets recent faults u same
  have hu : PassFrame s u := h.same rfl
  refine .ite (.ite (hu.escalate ..) hu) (.ite hu ?_)
  split
  · exact .ite (hu.retire ..) (hu.escalate ..)
  · exact hu.escalate ..

/-! ### Trim sets and conversions (R73, R76, R112, R129 to R136, R143) -/

theorem PassFrame.setBand (core eng tier band : Nat) (b : TierBand) : PassFrame s (t.setBand core eng tier band b) :=
  h.same rfl

theorem PassFrame.setEngCal (core eng : Nat) (c : EngCal) : PassFrame s (t.setEngCal core eng c) := h.same rfl

theorem PassFrame.setConv (core eng band conv : Nat) (c : Conv) : PassFrame s (t.setConv core eng band conv c) := h.same rfl

theorem PassFrame.setTierCal (core eng tier : Nat) (c : TierCal) : PassFrame s (t.setTierCal core eng tier c) := h.same rfl

theorem PassFrame.updateDrift (core eng : Nat) : PassFrame s (t.updateDrift core eng) := by
  unfold State.updateDrift
  extract_lets apply
  have happly : ∀ x, PassFrame s (apply t x) := fun x => .setEngCal
    (.foldl _ _ h fun u tier => .ite (.foldl _ _ (.refl u) fun v b => .setBand (.refl v) ..) (.refl u)) ..
  clear_value apply
  split
  · exact (happly _).putEng _
  · exact .putEng (.ite h (happly _)) _

theorem PassFrame.adviseTier (core eng tier : Nat) : PassFrame s (t.adviseTier core eng tier) := by
  unfold State.adviseTier
  extract_lets hot cold bs adv bey i upd before u
  have hupd : ∀ {v : State} {f g : Fld} (on : Bool), PassFrame s v → f.addr % 0x1000 ∈ passPlaces → g.addr % 0x1000 ∈ passPlaces →
      PassFrame s (upd v f g on) := fun on hv hf hg =>
    .ite hv (.ite ((hv.putEng _ hf).put _ hg) ((hv.putEng _ hf).put _ hg))
  have hu : PassFrame s u := hupd bey (hupd adv h (by decide) (by decide)) (by decide) (by decide)
  exact .ite (hu.same rfl) hu

theorem PassFrame.rejectSet (d : TrimSetDue) (reason : Nat) (injected : Bool) :
    PassFrame s (t.rejectSet d reason injected) := by
  unfold State.rejectSet
  extract_lets i u run v inFirst e c w x
  have hu : PassFrame s u := ((h.addEng _).add _).putEng _
  have hv : PassFrame s v := hu.putEng _
  have hw : PassFrame s w := by
    refine .ite hv ?_
    split
    · exact hv.setEngCal ..
    · exact hv.setTierCal ..
  have hx : PassFrame s x := (hw.putEng _).add _
  exact .ite ((hx.faultRecord _).escalate ..) hw

theorem PassFrame.passSet (d : TrimSetDue) : PassFrame s (t.passSet d) := by
  unfold State.passSet
  extract_lets u first now b b' v b'' decade w x
  have hu : PassFrame s u := h.putEng _
  have hv : PassFrame s v := hu.setBand ..
  have hw : PassFrame s w := by
    unfold w
    split
    · exact hv.setBand ..
    · exact hv
  have hx : PassFrame s x := .ite (hw.updateDrift ..) hw
  split
  · exact .ite hu ((hu.setConv ..).setBand ..)
  · exact .ite (hx.adviseTier ..) hx

theorem PassFrame.endRound (core eng tier : Nat) (kind : RoundKind) (tr age : Rat) :
    PassFrame s (t.endRound core eng tier kind tr age) := by
  refine .foldl _ _ h fun u p => .ite (.refl u) ?_
  exact .same (.refl u) rfl

theorem PassFrame.checkSet (d : TrimSetDue) : PassFrame s (t.checkSet d) := by
  have hinj := h.tryInject 0x06 d.core d.eng
  unfold State.checkSet
  generalize t.tryInject 0x06 d.core d.eng = p at hinj ⊢
  obtain ⟨u, inj⟩ := p
  dsimp -zeta only
  extract_lets v
  have hv : PassFrame s v := by
    unfold v
    split
    · exact hinj.passSet d
    · exact hinj.rejectSet d _ _
  split
  · exact hv.endRound ..
  · exact hv

theorem PassFrame.checkOldest : PassFrame s t.checkOldest := by
  unfold State.checkOldest
  split
  · exact h
  · refine .checkSet ?_ _
    exact h.same rfl

theorem PassFrame.applyTrimsOf (p : Nat → Bool) : PassFrame s (t.applyTrimsOf p) := by
  unfold State.applyTrimsOf
  refine .foldl _ _ (.foldl _ _ h fun u k => ?_) fun u k => ?_
  · dsimp only
    split
    · exact .refl u
    · exact .same (.refl u) rfl
  · dsimp only
    split
    · exact .refl u
    · refine .adviseTier ?_ _ _ _
      exact .same (.refl u) rfl

theorem PassFrame.trimsAt (core eng : Nat) (trims : List TrimAt) (slice : Nat) :
    PassFrame s (t.trimsAt core eng trims slice) := by
  refine .foldl _ _ h fun u e => .ite (.refl u) (.ite ?_ (.checkOldest (.refl u)))
  exact .same (.applyTrimsOf (.refl u) _) rfl

omit h in
theorem PassFrame.convertBeat (h : PassFrame s t) (b : BeatRun) (trims : List TrimAt) :
    PassFrame s (t.convertBeat b trims).1 := by
  unfold State.convertBeat
  generalize ([] : SMap Nat) = m
  induction (List.range b.slices).reverse generalizing t m with
  | nil => exact h
  | cons sl l ih => exact ih (h.trimsAt b.core b.eng trims sl) _

theorem PassFrame.countCodes (b : BeatRun) (m : SMap Nat) : PassFrame s (t.countCodes b m) := by
  unfold State.countCodes
  extract_lets seen sat overs i u
  have hu : PassFrame s u := (h.addEng (f := ENG_CONV_SAT_COUNT) sat).addEng _
  exact .ite (hu.putEng 1) hu

theorem PassFrame.evaluate (d : TileDecl) (b : BeatRun) (trims : List TrimAt) :
    PassFrame s (t.evaluate d b trims).1 := by
  have hinj := ((h.convertBeat b trims).tryInject 0x05 b.core b.eng).tryInject 0x01 b.core b.eng
  exact .same (hinj.countCodes b _) rfl

/-! ### A pass of a beat (R56, R60, R68, R82, R86, R88, R114) -/

theorem PassFrame.reportBeat (core eng tier : Nat) (ev : Evaluated) (residue injWit injRes : Bool) (key : Option Nat)
    (rows : BitVec 32) : PassFrame s (t.reportBeat core eng tier ev residue injWit injRes key rows) := by
  unfold State.reportBeat
  extract_lets i charged u v
  have hu : PassFrame s u :=
    .foldl _ _ h fun w e => .weigh (.silentError (.addEng (.refl w) _) _ _ _) _ _
  have hv : PassFrame s v := (hu.addEng _).putEng _
  exact .ite ((hv.silentError ..).weigh ..) hu

theorem PassFrame.deadBeat (core eng tier : Nat) (key : Option Nat) (rows : BitVec 32) :
    PassFrame s (t.deadBeat core eng tier key rows) := .ite (h.silentError ..) h

theorem PassFrame.formed (core eng : Nat) (o : BeatOut) : PassFrame s (t.formed core eng o) := by
  refine h.trans ⟨fun a ha => t.formed_rd core eng o a ?_⟩
  rintro rfl
  have hplace : ENG_OUT_FLAG_OVF.addr % 0x1000 ∈ passPlaces := by decide
  exact ha (by rwa [Nat.add_mod, engI_mod, Nat.add_zero, Nat.mod_mod])

theorem PassFrame.runPass (issue : Issue) (eng : Nat) (g : Staged) (tier outAddr : Nat) (key : Option Nat) (void : Bool)
    (window : Nat × Nat) (residueUpset : Bool) (trims : List TrimAt) :
    PassFrame s (t.runPass issue eng g tier outAddr key void window residueUpset trims) := by
  unfold State.runPass
  extract_lets core i row e u tierNow query dead untrusted v w void' out rm n injWit next
  have hu : PassFrame s u := h.same rfl
  have hv : PassFrame s v := hu.deadBeat ..
  have hw : PassFrame s w := .ite (hv.voidRows ..) hv
  clear_value w
  split
  · exact (h.voidRows ..).produce ..
  · refine .ite (.formed (hw.addEng _) _ _ _) ?_
    dsimp -zeta only
    extract_lets b residue x void'' trig e' clamp counted y
    have hx : PassFrame s x := ((hw.evaluate _ b trims).tryInject 0x02 core eng).reportBeat ..
    clear_value x
    have hcounted : PassFrame s counted := (hx.addEng _).putEng _
    have hy : PassFrame s y := .ite (hcounted.same rfl) hx
    exact .ite (hx.same rfl) (hy.formed ..)

end

end Sys2Proof.Machine
end

section
/-! REPEAT_WINDOW (R113, R114, R116) and PRECISION_SUM_COMPLETE (R119): the cases of each command, and what they count (O11). -/
namespace Sys2Proof.Machine

/-! ### The counts of repeats (R120) -/

/-- The counter of passes at six bits, or at eight. -/
def widenCount (a : Nat) : Fld := if a = 6 then ENG_WIDEN_CNT_A6 else ENG_WIDEN_CNT_A8

theorem widenCount_addr (a : Nat) : (widenCount a).addr = ENG_WIDEN_CNT_A6.addr := by
  unfold widenCount
  split <;> rfl

theorem widenCount_inWord (a : Nat) : (widenCount a).inWord := by
  unfold widenCount Fld.inWord
  split <;> decide

/-- A field of another register of the engine leaves both counts. -/
theorem Fld.misses_widenCount {f : Fld} (h : f.addr ≠ ENG_WIDEN_CNT_A6.addr) (a : Nat) : f.misses (widenCount a) = true := by
  unfold Fld.misses
  rw [widenCount_addr, bne_iff_ne.mpr h.symm, Bool.true_or]

/-- No pass writes the counts of repeats. -/
theorem PassFrame.widenCount {s t : State} (h : PassFrame s t) (core eng a : Nat) :
    t.fldAt (engI core eng) (widenCount a) = s.fldAt (engI core eng) (widenCount a) := by
  refine h.fldAt ?_
  rw [widenCount_addr, Nat.add_mod, engI_mod]
  decide

/-- The format of the pass in a window: six bits for a vector that stood at four, else eight. -/
def RepeatDue.width (r : RepeatDue) : Nat := if r.staged.a = 4 then 6 else 8

/-! ### The repeat window -/

/-- The beat leaves the list of taken windows. -/
def State.leaveWindow (s : State) (core eng : Nat) (r : RepeatDue) : State :=
  s.setEngine core eng { s.engine core eng with windows := (s.engine core eng).windows.erase r }

/-- The tables place an issue of the window on the engine in this rod (R113). -/
def State.windowDue (s : State) (core : CoreId) (eng : EngId) (win iss : Nat) : Bool :=
  s.sched.due.any (fun d => d.core = core.val ∧ d.agent = .engine eng ∧ d.slot = win ∧ d.issue = iss ∧ d.kind = .repeatWindow)

/-- The pass in a window: the restaged vector `g`, counted at its width and run. -/
def State.repeatPass (s : State) (core eng : Nat) (r : RepeatDue) (g : Staged) (window : Nat × Nat) (residueUpset : Bool)
    (trims : List TrimAt) : State :=
  let s := s.addAt (engI core eng) (widenCount r.width) 1
  let s := if g.crush then s.addAt (engI core eng) ENG_CRUSH_TRIG_COUNT 1 else s
  s.runPass r.issue eng g r.tier r.outAddr r.key r.void window residueUpset trims

theorem State.repeatPass_counts (s : State) (core eng : Nat) (r : RepeatDue) (g : Staged) (window : Nat × Nat)
    (residueUpset : Bool) (trims : List TrimAt) :
    (s.repeatPass core eng r g window residueUpset trims).fldAt (engI core eng) (widenCount r.width) =
      min (s.fldAt (engI core eng) (widenCount r.width) + 1) (widenCount r.width).top := by
  unfold State.repeatPass
  extract_lets u v
  have hv : v.fldAt (engI core eng) (widenCount r.width) = u.fldAt (engI core eng) (widenCount r.width) :=
    ite_leaves (part := fun x : State => x.fldAt (engI core eng) (widenCount r.width))
      (u.fldAt_addAt_other _ ENG_CRUSH_TRIG_COUNT _ 1 (Fld.misses_widenCount (by decide) _)) rfl
  rw [((PassFrame.refl v).runPass ..).widenCount, hv]
  exact s.fldAt_addAt_same _ _ 1 (widenCount_inWord _)

section
variable {s : State} {core : CoreId} {eng : EngId} {win iss : Nat} (w wi : Nat) (up : Bool) (trims : List TrimAt)

theorem execRepeatWindow_of_idle (hfind : (s.engine core eng).windows.find? (fun x => x.window = (win, iss)) = none) :
    execRepeatWindow core eng win iss w wi up trims s = .next s := by
  unfold execRepeatWindow
  dsimp only
  rw [hfind]

variable {r : RepeatDue} (hfind : (s.engine core eng).windows.find? (fun x => x.window = (win, iss)) = some r)
include hfind

theorem execRepeatWindow_of_stopped (hstop : s.coreRunning core = false) :
    execRepeatWindow core eng win iss w wi up trims s =
      .next ((s.leaveWindow core eng r).voidRows r.key ((1 : BitVec 32) <<< r.staged.input.row.val)) := by
  have hstop' : (s.leaveWindow core eng r).coreRunning core = false := hstop
  unfold execRepeatWindow
  dsimp -zeta only
  extract_lets e here
  rw [hfind]
  dsimp -zeta only
  rw [if_neg (by simp [hstop])]
  extract_lets u row
  exact if_pos (by rw [show u = s.leaveWindow core eng r from rfl, hstop']; rfl)

/-- On a running core, in the rod of the window, with the tier live and the tile declared, the restaged vector's pass runs. -/
theorem execRepeatWindow_of_due {d : TileDecl} (hrun : s.coreRunning core = true) (hdue : s.windowDue core eng win iss = true)
    (hlive : s.isSetAt (engI core eng) ENG_STAT_LIVE = true) (htier : s.fldAt (engI core eng) ENG_STAT_LIVE_TIER = r.tier)
    (hd : s.tileDecl core eng r.staged.input.tile = some d) :
    ∃ g, execRepeatWindow core eng win iss w wi up trims s =
      .next (((s.leaveWindow core eng r).putAt (engI core eng) ENG_STAT_SEL_REFUSED 0).repeatPass core eng r g (w, wi) up trims) := by
  have hsel : (s.leaveWindow core eng r).select core eng r.tier =
      ((s.leaveWindow core eng r).putAt (engI core eng) ENG_STAT_SEL_REFUSED 0, false) := State.select_live hlive htier
  have hrun' : (s.leaveWindow core eng r).coreRunning core = true := hrun
  have hd' : ((s.leaveWindow core eng r).putAt (engI core eng) ENG_STAT_SEL_REFUSED 0).tileDecl core eng r.staged.input.tile =
    some d := hd
  unfold execRepeatWindow
  dsimp -zeta only
  extract_lets e here
  have hhere : here = true := hdue
  rw [hfind]
  dsimp -zeta only
  rw [if_neg (by simp [hhere])]
  extract_lets +onlyGivenNames u row
  have hu : u = s.leaveWindow core eng r := rfl
  clear_value u
  subst hu
  rw [hrun', hsel]
  dsimp -zeta only
  rw [if_neg (by decide), if_neg (by decide), hd']
  dsimp -zeta only
  extract_lets a g g'
  exact ⟨g', rfl⟩

end

theorem repeatWindowRunsWiderPass : RepeatWindowRunsWiderPass := by
  intro s core eng win iss w wi up trims
  refine ⟨fun r d hfind hrun hdue hlive htier hd => ?_, fun r hfind hstop => ?_, execRepeatWindow_of_idle w wi up trims⟩
  · obtain ⟨g, hexec⟩ := execRepeatWindow_of_due w wi up trims hfind hrun hdue hlive htier hd
    have hcount := State.repeatPass_counts ((s.leaveWindow core eng r).putAt (engI core eng) ENG_STAT_SEL_REFUSED 0)
      core eng r g (w, wi) up trims
    have hput : ((s.leaveWindow core eng r).putAt (engI core eng) ENG_STAT_SEL_REFUSED 0).fldAt (engI core eng)
        (widenCount r.width) = s.fldAt (engI core eng) (widenCount r.width) :=
      State.fldAt_putAt_other _ _ _ _ 0 (Fld.misses_widenCount (by decide) _)
    rw [hput] at hcount
    refine ⟨_, hexec, fun h4 => ?_, fun h4 => ?_⟩
    · rwa [show widenCount r.width = ENG_WIDEN_CNT_A6 by rw [RepeatDue.width, if_pos h4]; rfl] at hcount
    · rwa [show widenCount r.width = ENG_WIDEN_CNT_A8 by rw [RepeatDue.width, if_neg h4]; rfl] at hcount
  · refine ⟨_, execRepeatWindow_of_stopped w wi up trims hfind hstop, ?_, ?_, ?_⟩
    · rw [State.engine_of_engines (State.voidRows_engines ..)]
      exact congrArg Engine.windows (s.engine_setEngine ..)
    · exact State.fldAt_of_regs (State.voidRows_regs ..) _ _
    · exact State.fldAt_of_regs (State.voidRows_regs ..) _ _

/-! ### A request for a variant (R205, R206, R246) -/

/-- The registers that the request of this module may write: the sideband's counts, and the report of the pending switch. -/
def requestRegs : List Nat :=
  [FAB_SB_SEEN_COUNT.addr, FAB_SB_DROP_COUNT.addr, FAB_SB_QUEUE_DEPTH.addr, TB_VAR_STAT_PENDING.addr]

/-- From `s` to `t`, only those registers change, and the clamp sum that waits stays. -/
structure RequestFrame (s t : State) : Prop where
  regs : regsKept s t requestRegs
  clampDue : t.clampDue = s.clampDue

theorem RequestFrame.refl (s : State) : RequestFrame s s := ⟨fun _ _ => rfl, rfl⟩

section
variable {s t : State} (h : RequestFrame s t)
include h

theorem RequestFrame.same {u : State} (hregs : u.regs = t.regs) (hdue : u.clampDue = t.clampDue) : RequestFrame s u where
  regs a ha := (congrArg (fun m => SMap.get regReset m a) hregs).trans (h.regs a ha)
  clampDue := hdue.trans h.clampDue

theorem RequestFrame.put {f : Fld} (v : Nat) (hf : f.addr ∈ requestRegs := by decide) : RequestFrame s (t.put f v) where
  regs a ha := (State.rd_put_ne t f v a (fun e => ha (e ▸ hf))).trans (h.regs a ha)
  clampDue := h.clampDue

theorem RequestFrame.ite {u : State} {c : Prop} [Decidable c] (g : RequestFrame s u) : RequestFrame s (if c then t else u) := by
  split
  · exact h
  · exact g

theorem RequestFrame.fld {f : Fld} (hf : f.addr ∉ requestRegs) : t.fld f = s.fld f :=
  congrArg (getBits · f.hi f.lo) (h.regs f.addr hf)

theorem RequestFrame.enterSb (m : SbMsg) : RequestFrame s (t.enterSb m).1 := by
  unfold State.enterSb
  split
  · exact h
  extract_lets fab u own q
  have hu : RequestFrame s u := by
    refine .put (f := FAB_SB_SEEN_COUNT) ?_ _
    exact h.same rfl rfl
  have hqueue : ∀ fab, RequestFrame s ({ u with fab := fab }.depth) := fun fab =>
    .put (f := FAB_SB_QUEUE_DEPTH) (t := { u with fab := fab }) (hu.same rfl rfl) _
  split
  · exact hu.put (f := FAB_SB_DROP_COUNT) _
  split
  · split
    · split
      · exact hqueue _
      · exact hu
    · split
      · exact hu
      · exact hqueue _
  · exact hqueue _

theorem RequestFrame.applyRefusal (mile v : Nat) : RequestFrame s (t.applyRefusal mile v) := by
  unfold State.applyRefusal State.showSwitch
  extract_lets hit sched u
  have hu : RequestFrame s u := h.same rfl rfl
  have hflag : RequestFrame s (u.raiseIfAt 0 TB_VAR_STAT_REFUSED hit) := .ite (hu.put 1) hu
  split
  · exact (hflag.put _).put _
  · exact (hflag.put _).put _

theorem RequestFrame.refuseVar (mile v : Nat) : RequestFrame s (t.refuseVar mile v) := (h.enterSb _).applyRefusal mile v

theorem RequestFrame.seeVarReq (m : SbMsg) : RequestFrame s (t.seeVarReq m) := by
  have hnew := h.enterSb m
  unfold State.seeVarReq
  generalize t.enterSb m = p at hnew ⊢
  obtain ⟨u, new⟩ := p
  dsimp -zeta only
  extract_lets mile v own before sched x
  have hx : RequestFrame s x := .same hnew rfl rfl
  exact .ite hnew (.ite hx (hx.refuseVar ..))

end

theorem State.raiseVarReq_frame (s : State) (v : Nat) : RequestFrame s (s.raiseVarReq v) := (RequestFrame.refl s).seeVarReq _

/-! ### The clamp sum (R119) -/

/-- The run of furlongs over the threshold, once the sum `n` of another is complete. -/
def State.clampRun (s : State) (n : Nat) : Nat :=
  if s.inForceAt 0 TB_PREC_THR_THRESH = 0 ∨ n ≤ s.inForceAt 0 TB_PREC_THR_THRESH then 0
  else if s.fld TB_PREC_RUN_RUN = 8 then 1 else s.fld TB_PREC_RUN_RUN + 1

theorem State.clampRun_le (s : State) (n : Nat) (h : s.fld TB_PREC_RUN_RUN ≤ 8) : s.clampRun n ≤ 8 := by
  unfold State.clampRun
  split
  · omega
  · split <;> omega

/-- The sum and the run are shown, and the sum waits no longer. -/
def State.showClamps (s : State) (n : Nat) : State :=
  ({ s with clampDue := none }.put TB_PREC_CNT_COUNT (min n (2 ^ 32 - 1))).put TB_PREC_RUN_RUN (s.clampRun n)

theorem State.showClamps_rd (s : State) (n a : Nat) (hcnt : a ≠ TB_PREC_CNT_COUNT.addr) (hrun : a ≠ TB_PREC_RUN_RUN.addr) :
    (s.showClamps n).rd a = s.rd a :=
  (State.rd_put_ne _ _ _ a hrun).trans (State.rd_put_ne _ _ _ a hcnt)

theorem State.showClamps_a8Variant (s : State) (n : Nat) : (s.showClamps n).a8Variant = s.a8Variant := by
  have hadmit : ∀ v, (s.showClamps n).admittedVar v = s.admittedVar v := fun v => by
    unfold State.admittedVar State.fld State.fldAt
    rw [s.showClamps_rd n _ (by decide) (by decide)]
  unfold State.a8Variant
  simp only [hadmit]
  rfl

/-- The sum `n` is complete in `t`: the monitor shows it and its run. -/
structure ClampsShown (s t : State) (n : Nat) : Prop where
  count : t.fld TB_PREC_CNT_COUNT = n
  due : t.clampDue = none
  run : t.fld TB_PREC_RUN_RUN = s.clampRun n

theorem State.showClamps_shown (s : State) {n : Nat} (hn : n < 2 ^ 32) (hrun : s.fld TB_PREC_RUN_RUN ≤ 8) :
    ClampsShown s (s.showClamps n) n where
  count := by
    unfold State.showClamps
    rw [State.fld_put_ne _ _ _ _ (by decide), State.fld_put _ _ _ (by unfold Fld.inWord; decide), Nat.min_eq_left (by omega)]
    exact Nat.mod_eq_of_lt hn
  due := rfl
  run := by
    have hle := s.clampRun_le n hrun
    unfold State.showClamps
    rw [State.fld_put _ _ _ (by unfold Fld.inWord; decide)]
    exact Nat.mod_eq_of_lt (show _ < 16 by omega)

section
variable {s t : State} {n : Nat} (h : ClampsShown s t n)
include h

theorem ClampsShown.put {f : Fld} (v : Nat) (hcnt : TB_PREC_CNT_COUNT.addr ≠ f.addr) (hrun : TB_PREC_RUN_RUN.addr ≠ f.addr) :
    ClampsShown s (t.put f v) n where
  count := (State.fld_put_ne t f _ v hcnt).trans h.count
  due := h.due
  run := (State.fld_put_ne t f _ v hrun).trans h.run

theorem ClampsShown.request {u : State} (g : RequestFrame t u) : ClampsShown s u n where
  count := (g.fld (by decide)).trans h.count
  due := g.clampDue.trans h.due
  run := (g.fld (by decide)).trans h.run

end

/-! ### The A8 variant is asked for (R119, R205) -/

/-- The variant is in force, asked for, or due. -/
def State.variantTaken (s : State) (v : Nat) : Bool :=
  decide (s.sched.var = v) || s.sched.reqs.any (fun r => r.var = v) || s.sched.switches.any (fun x => x.var = v)

/-- What a run of eight furlongs sets off. -/
def State.askForA8 (s : State) : State :=
  match s.a8Variant with
  | none => s.put TB_PREC_STAT_NO_VARIANT 1
  | some v => if s.variantTaken v then s else (s.raiseVarReq v).put TB_PREC_STAT_REQ_RAISED 1

theorem ClampsShown.askForA8 {s t : State} {n : Nat} (h : ClampsShown s t n) : ClampsShown s t.askForA8 n := by
  unfold State.askForA8
  split
  · exact h.put 1 (by decide) (by decide)
  · split
    · exact h
    · exact (h.request (t.raiseVarReq_frame _)).put 1 (by decide) (by decide)

theorem State.askForA8_noVariant {s : State} (h : s.a8Variant = none) : s.askForA8.fld TB_PREC_STAT_NO_VARIANT = 1 := by
  unfold State.askForA8
  rw [h]
  exact State.fld_put _ _ _ (by unfold Fld.inWord; decide)

theorem State.askForA8_raises {s : State} {v : Nat} (h : s.a8Variant = some v) (hfree : s.variantTaken v = false) :
    s.askForA8.fld TB_PREC_STAT_REQ_RAISED = 1 := by
  unfold State.askForA8
  rw [h]
  dsimp only
  rw [hfree, if_neg Bool.false_ne_true]
  exact State.fld_put _ _ _ (by unfold Fld.inWord; decide)

/-! ### The command -/

theorem State.inForceAt_put_ne (s : State) (f g : Fld) (v : Nat) (h : g.addr ≠ f.addr) :
    (s.put f v).inForceAt 0 g = s.inForceAt 0 g := by
  unfold State.inForceAt State.inForce
  rw [State.rd_put_ne s f v (g.addr + 0) h]
  rfl

theorem execPrecisionSumComplete_of_due {s : State} {n : Nat} (hdue : s.clampDue = some n) :
    execPrecisionSumComplete s = .next (if s.clampRun n = 8 then (s.showClamps n).askForA8 else s.showClamps n) := by
  unfold execPrecisionSumComplete
  rw [hdue]
  dsimp -zeta only
  extract_lets u thr old run v
  have hthr : thr = s.inForceAt 0 TB_PREC_THR_THRESH := State.inForceAt_put_ne _ _ _ _ (by decide)
  have hold : old = s.fld TB_PREC_RUN_RUN := State.fld_put_ne _ _ _ _ (by decide)
  have hrun : run = s.clampRun n := by
    unfold run State.clampRun
    rw [hthr, hold]
  have hv : v = s.showClamps n := congrArg (u.put TB_PREC_RUN_RUN) hrun
  rw [hrun, hv]
  by_cases h8 : s.clampRun n = 8
  · rw [if_neg (not_not.mpr h8), if_pos h8]
    unfold State.askForA8
    cases (s.showClamps n).a8Variant with
    | none => rfl
    | some v =>
      unfold State.variantTaken
      simp only [Bool.or_eq_true, decide_eq_true_eq, or_assoc]
      split <;> rfl
  · rw [if_pos h8, if_neg h8]

theorem precisionSumRunsToARequest : PrecisionSumRunsToARequest := by
  intro s n hdue hn hrun
  have hshown := s.showClamps_shown hn hrun
  refine ⟨_, execPrecisionSumComplete_of_due hdue, ?_⟩
  by_cases h8 : s.clampRun n = 8
  · rw [if_pos h8]
    obtain ⟨hcount, hnone, hlen⟩ := hshown.askForA8
    refine ⟨hcount, hnone, hlen, fun h => absurd (hlen.trans h8) h, fun _ hvar => ?_, fun v _ hvar hforce hreqs hswitches => ?_⟩
    · exact State.askForA8_noVariant ((s.showClamps_a8Variant n).trans hvar)
    · refine State.askForA8_raises ((s.showClamps_a8Variant n).trans hvar) ?_
      show s.variantTaken v = false
      unfold State.variantTaken
      rw [decide_eq_false hforce, hreqs, hswitches]
      rfl
  · rw [if_neg h8]
    obtain ⟨hcount, hnone, hlen⟩ := hshown
    exact ⟨hcount, hnone, hlen, fun _ => s.showClamps_rd n _ (by decide) (by decide), fun h => absurd (hlen.symm.trans h) h8,
      fun _ h => absurd (hlen.symm.trans h) h8⟩

/-! ### The obligation -/

/-- Settles O11: no pass writes the counts of repeats, so a repeat is counted once, at its width; a run of eight furlongs asks for the
A8 variant, and the request leaves the monitor's registers. -/
theorem repeatsAndPrecisionSums : Obligations.RepeatsAndPrecisionSums :=
  ⟨repeatWindowRunsWiderPass, precisionSumRunsToARequest⟩

end Sys2Proof.Machine
end

section
/-! What the steps of the start write (R434 to R439): below the core blocks only the registers of the start, and nothing of the
monitor converter. -/
namespace Sys2Proof.Machine

/-- The registers below the core blocks that the steps of the start may write. -/
def startRegs : List Nat := [GLB_STATE_STEP.addr, TB_ADM_STAT_STATE.addr, LD_EPOCH_CUR_EPOCH.addr, FLT_SPARES_SPARES.addr]

/-- From `s` to `t`, only those registers and registers of core blocks change, and the monitor converter stays. -/
structure StartFrame (s t : State) : Prop where
  regs : ∀ a, a < 0x1000000 → a ∉ startRegs → t.rd a = s.rd a
  mon : t.mon = s.mon

section
variable {s t : State}

theorem StartFrame.refl (s : State) : StartFrame s s := ⟨fun _ _ _ => rfl, rfl⟩

theorem StartFrame.trans {u : State} (h : StartFrame s t) (g : StartFrame t u) : StartFrame s u where
  regs a ha hs := (g.regs a ha hs).trans (h.regs a ha hs)
  mon := g.mon.trans h.mon

theorem StartFrame.foldl {α : Type} (f : State → α → State) (l : List α) (h : StartFrame s t)
    (hf : ∀ u x, StartFrame u (f u x)) : StartFrame s (l.foldl f t) := by
  induction l generalizing t with
  | nil => exact h
  | cons x l ih => exact ih (h.trans (hf t x))

variable (h : StartFrame s t)
include h

theorem StartFrame.fld {f : Fld} (ha : f.addr < 0x1000000) (hs : f.addr ∉ startRegs) : t.fld f = s.fld f :=
  congrArg (getBits · f.hi f.lo) (h.regs f.addr ha hs)

theorem StartFrame.same {u : State} (hregs : u.regs = t.regs) (hmon : u.mon = t.mon) : StartFrame s u :=
  h.trans ⟨fun a _ _ => congrArg (fun m => SMap.get regReset m a) hregs, hmon⟩

theorem StartFrame.ite {u : State} {c : Prop} [Decidable c] (g : StartFrame s u) : StartFrame s (if c then t else u) := by
  split
  · exact h
  · exact g

theorem StartFrame.put {f : Fld} (v : Nat) (hf : f.addr ∈ startRegs := by decide) : StartFrame s (t.put f v) :=
  h.trans ⟨fun a _ hs => State.rd_put_ne t f v a (fun e => hs (e ▸ hf)), rfl⟩

theorem StartFrame.putCore {i : Nat} {f : Fld} (v : Nat) (hf : 0x1000000 ≤ f.addr := by decide) :
    StartFrame s (t.putAt i f v) :=
  h.trans ⟨fun a ha _ => State.rd_putAt_ne t i f v a (by omega), rfl⟩

theorem StartFrame.sendVector (v : Nat) : StartFrame s (t.sendVector v) := by
  refine .ite ?_ (.ite h ?_)
  · exact h.same rfl rfl
  · exact h.same rfl rfl

theorem StartFrame.putGlb {f : Fld} (v : Nat) (hf : f.addr ∈ startRegs := by decide) : StartFrame s (t.putGlb f v) :=
  h.ite ((h.put v hf).sendVector 18)

theorem StartFrame.mapCore (logical core : Nat) : StartFrame s (t.mapCore logical core) := by
  unfold State.mapCore
  extract_lets faults u
  have hu : StartFrame s u := h.same rfl rfl
  exact ((hu.putCore _).putCore _).putCore _

theorem StartFrame.mapRegion (r : Region) : StartFrame s (t.mapRegion r) := by
  unfold State.mapRegion
  extract_lets cores claims winner kept rest free u
  have hu : StartFrame s u := .foldl _ _ h fun v k => (refl v).mapCore k.1 k.2
  exact .foldl _ _ hu fun v _ => (refl v).putCore _

theorem StartFrame.regionRegs (c : Nat) : StartFrame s (t.regionRegs c) := by
  unfold State.regionRegs
  split
  · exact h
  · exact ((((h.putCore _).putCore _).putCore (f := RTR_STAT_BOUNDARY) _).putCore (f := RTR_STAT_ATTACH) _).putCore
      (f := RTR_STAT_EDGE) _

theorem StartFrame.countSpares : StartFrame s t.countSpares := (h.put _).put _

theorem StartFrame.newMap : StartFrame s t.newMap := by
  refine .foldl _ _ ?_ fun v r => (refl v).mapRegion r
  exact h.same rfl rfl

theorem StartFrame.recordMaps : StartFrame s t.recordMaps := .foldl _ _ h fun v _ => (refl v).ite ((refl v).same rfl rfl)

theorem StartFrame.regionSetup : StartFrame s t.regionSetup := by
  rw [State.regionSetup_eq]
  have hregs : StartFrame s ((List.range 800).foldl State.regionRegs t) := .foldl _ _ h fun v c => (refl v).regionRegs c
  exact hregs.newMap.recordMaps.countSpares

theorem StartFrame.reAdmit : StartFrame s t.reAdmit := by
  unfold State.reAdmit
  extract_lets sched u
  have hu : StartFrame s u := h.same rfl rfl
  exact h.ite (hu.ite (hu.put _))

theorem StartFrame.takeAssign : StartFrame s t.takeAssign := ((h.put _).put _).put _

theorem StartFrame.noteUnadmitted : StartFrame s t.noteUnadmitted := by
  refine .ite ?_ h
  exact h.same rfl rfl

theorem StartFrame.wantStart : StartFrame s t.wantStart := by
  refine .ite ?_ h
  exact h.same rfl rfl

theorem StartFrame.stepOnce {u : State} (hu : t.stepOnce = some u) : StartFrame s u := by
  obtain rfl | ⟨n, v, hv, rfl⟩ := State.stepOnce_cases hu
  · exact h.reAdmit
  · refine StartFrame.putGlb ?_ n
    simp only [List.mem_cons, List.not_mem_nil, or_false] at hv
    obtain rfl | rfl | rfl | rfl | rfl := hv
    · exact h
    · exact h.regionSetup
    · exact h.takeAssign
    · exact h.wantStart.noteUnadmitted
    · exact h.putGlb 1

omit h in
theorem StartFrame.advanceN (n : Nat) (h : StartFrame s t) : StartFrame s (State.advanceN n t) := by
  induction n generalizing t with
  | zero => exact h
  | succ n ih =>
    unfold State.advanceN
    cases hstep : t.stepOnce with
    | none => exact h
    | some u => exact ih (h.stepOnce hstep)

theorem StartFrame.advanceStart : StartFrame s t.advanceStart := (h.advanceN 10).ite ((h.advanceN 10).putGlb _)

end

end Sys2Proof.Machine
end

section
/-! The monitor converter (R146 to R151): what a record holds and where it is stored, and the commands REFERENCE_SETTLED and
TEST_BUS_CAPTURE_ARM (O14). -/
namespace Sys2Proof.Machine

/-! ### The word of a record (R148) -/

/-- A record of a channel: whether it is unsettled, saturated or averaged, its tag, its channel and its result. -/
def recordWord (unsettled sat avg : Bool) (tag ch result : Nat) : Word :=
  BitVec.ofNat 32 ((if unsettled then 2 ^ 31 else 0) + (if sat then 2 ^ 30 else 0) + (if avg then 2 ^ 28 else 0) +
    tag * 2 ^ 24 + ch * 2 ^ 16 + result)

/-- A record that is not averaged, as a number. -/
theorem recordWord_toNat (unsettled sat : Bool) {tag ch result : Nat} (htag : tag < 16) (hch : ch < 128)
    (hresult : result < 65536) :
    (recordWord unsettled sat false tag ch result).toNat =
      2147483648 * unsettled.toNat + 1073741824 * sat.toNat + 16777216 * tag + 65536 * ch + result := by
  have hbit : ∀ (b : Bool) (n : Nat), (if b = true then n else 0) = n * b.toNat := fun b n => by cases b <;> simp
  have hu := unsettled.toNat_le
  have hs := sat.toNat_le
  unfold recordWord
  rw [BitVec.toNat_ofNat, hbit, hbit, if_neg Bool.false_ne_true]
  omega

/-- The fields of a record that is not averaged. -/
theorem recordWord_fields (unsettled sat : Bool) {tag ch result : Nat} (htag : tag < 16) (hch : ch < 128)
    (hresult : result < 65536) :
    getBits (recordWord unsettled sat false tag ch result) 15 0 = result ∧
      getBits (recordWord unsettled sat false tag ch result) 22 16 = ch ∧
      getBits (recordWord unsettled sat false tag ch result) 27 24 = tag ∧
      getBits (recordWord unsettled sat false tag ch result) 31 31 = unsettled.toNat := by
  have hu := unsettled.toNat_le
  have hs := sat.toNat_le
  unfold getBits
  rw [recordWord_toNat unsettled sat htag hch hresult]
  omega

/-! ### The monitor converter under what a record sets off -/

theorem State.fired_mon (s : State) : s.fired.mon = s.mon := by
  unfold State.fired
  split
  · rfl
  · extract_lets faults u v i
    have hv : v.mon = s.mon := by rw [State.add_mon, State.put_mon, State.put_mon]
    refine ite_leaves ?_ hv
    rw [State.putAt_mon, State.putAt_mon, State.putAt_mon, hv]

/-- A point that fires reports in the injection registers, and nowhere below them (R424, R425). -/
theorem State.rd_fired (s : State) {a : Nat} (ha : a < INJ_STAT_FIRED.addr) : s.fired.rd a = s.rd a := by
  have hput : ∀ (u : State) (i : Nat) (f : Fld) (v : Nat), INJ_STAT_FIRED.addr ≤ f.addr → (u.putAt i f v).rd a = u.rd a :=
    fun u i f v hf => State.rd_putAt_ne u i f v a (by omega)
  unfold State.fired
  split
  · rfl
  · extract_lets faults u v i
    have hv : v.rd a = s.rd a := ((hput _ 0 INJ_HIT_COUNT _ (by decide)).trans (hput _ 0 INJ_STAT_ARMED 0 (by decide))).trans
      (hput _ 0 INJ_STAT_FIRED 1 (by decide))
    refine ite_leaves (part := fun x : State => x.rd a) ?_ hv
    exact ((hput _ i LINJ_STAT_POINT 0 (by decide)).trans (hput _ i LINJ_STAT_ARMED 0 (by decide))).trans
      ((hput _ i LINJ_STAT_FIRED 1 (by decide)).trans hv)

/-- From `s` to `t` the records, the place in the list and the registers of the monitor converter stay. -/
structure MonKept (s t : State) : Prop where
  entry : t.mon.entry = s.mon.entry
  buf : t.mon.buf = s.mon.buf
  regs : ∀ a, 0x100000 ≤ a → a < 0x101000 → t.rd a = s.rd a

theorem MonKept.refl (s : State) : MonKept s s := ⟨rfl, rfl, fun _ _ _ => rfl⟩

theorem MonKept.fired (s : State) : MonKept s s.fired where
  entry := congrArg Monitor.entry s.fired_mon
  buf := congrArg Monitor.buf s.fired_mon
  regs _ _ ha := s.rd_fired (Nat.lt_trans ha (by decide))

/-- A reference has been read, in tolerance or not (R150). -/
theorem MonKept.refRead {s t : State} (h : MonKept s t) (bad : Bool) :
    MonKept s { t with mon := { t.mon with refRead := true, refBad := bad } } :=
  ⟨h.entry, h.buf, h.regs⟩

theorem State.seqEntry_of_regs {s t : State} (h : ∀ a, 0x100000 ≤ a → a < 0x101000 → a ≠ MON_WR_PTR_INDEX.addr → t.rd a = s.rd a)
    {i : Nat} (hi : i < 128) : t.seqEntry i = s.seqEntry i := by
  have hptr : MON_WR_PTR_INDEX.addr = 0x100008 := rfl
  have hbank : t.fld MON_STAT_BANK_ACTIVE = s.fld MON_STAT_BANK_ACTIVE :=
    congrArg (getBits · 1 1) (h MON_STAT_BANK_ACTIVE.addr (by decide) (by decide) (by decide))
  unfold State.seqEntry
  rw [hbank]
  split <;> exact h _ (by omega) (by omega) (by omega)

/-! ### Records go to the buffer (R149) -/

/-- From `s` to `t` a record has been stored in the slot at MON_WR_PTR, which moves on; the list and the place in it stay. -/
structure RecordStored (s t : State) (word : Word) : Prop where
  entry : t.mon.entry = s.mon.entry
  record : SMap.get (fun _ => 0) t.mon.buf (s.fld MON_WR_PTR_INDEX) = word
  index : t.fld MON_WR_PTR_INDEX = (s.fld MON_WR_PTR_INDEX + 1) % 16384
  list : ∀ i, i < 128 → t.seqEntry i = s.seqEntry i

/-- No record is held back for reading: the slot at MON_WR_PTR is free. -/
theorem State.monStore_stores {s : State} (h : s.isSet MON_CTRL_SW_RD_EN = false) (word : Word) :
    RecordStored s (s.monStore word) word := by
  unfold State.monStore
  rw [h]
  exact
    { entry := rfl
      record := (SMap.get_set _ _ _ _ _).trans (if_pos rfl)
      index := (State.fld_put _ _ _ (by unfold Fld.inWord; decide)).trans (Nat.mod_mod _ _)
      list := fun i hi => State.seqEntry_of_regs (fun a _ _ ha => State.rd_put_ne _ MON_WR_PTR_INDEX _ a ha) hi }

theorem RecordStored.kept {s t u : State} {word : Word} (h : RecordStored s t word) (g : MonKept t u) : RecordStored s u word where
  entry := g.entry.trans h.entry
  record := g.buf ▸ h.record
  index := (congrArg (getBits · 13 0) (g.regs MON_WR_PTR_INDEX.addr (by decide) (by decide))).trans h.index
  list i hi := (State.seqEntry_of_regs (fun a hlo hhi _ => g.regs a hlo hhi) hi).trans (h.list i hi)

/-- The record of one conversion of a channel that is not one of the test bus. -/
def State.singleRecord (s : State) (ch tag : Nat) (code : BitVec 14) : Word :=
  recordWord (!s.isSet MON_STAT_REF_SETTLED) ([code].any (fun c => c = 0 ∨ c = 16383)) false tag ch (code.toNat * 4)

theorem State.monRecord_stores {s : State} (hread : s.isSet MON_CTRL_SW_RD_EN = false) {ch : Nat} (hbus : ¬(80 ≤ ch ∧ ch ≤ 87))
    (tag : Nat) (code : BitVec 14) :
    RecordStored s (s.monRecord ch tag false [code]) (s.singleRecord ch tag code) := by
  unfold State.monRecord
  extract_lets result bus unsettled sat word v u
  have hword : word = s.singleRecord ch tag code := by
    unfold State.singleRecord
    rw [show (!s.isSet MON_STAT_REF_SETTLED) = unsettled by simp [unsettled, bus, hbus]]
    rfl
  have hu : RecordStored s u (s.singleRecord ch tag code) := hword ▸ State.monStore_stores hread word
  clear_value u
  refine hu.kept ?_
  split
  · split
    · exact .refl u
    · exact ⟨rfl, rfl, fun _ _ _ => rfl⟩
  · split
    · split
      · split
        · exact (MonKept.fired u).refRead _
        · exact (MonKept.refl u).refRead _
      · exact (MonKept.refl u).refRead _
    · exact .refl u

/-- A settled record of a temperature channel reaches the Assize (R129). -/
theorem State.monRecord_sensor {s : State} {ch : Nat} (hch : ch < 64) (hset : s.isSet MON_STAT_REF_SETTLED = true) (tag : Nat)
    (code : BitVec 14) :
    ((s.monRecord ch tag false [code]).sensor ch).last = s.monValue ch (code.toNat * 4) ∧
      ((s.monRecord ch tag false [code]).sensor ch).ever = true := by
  unfold State.monRecord
  extract_lets result bus unsettled sat word v u
  have hsettled : ¬unsettled = true := by
    simp [unsettled, bus, hset]
    omega
  rw [if_pos hch, if_neg hsettled]
  have hget : (u.sensorIn ch v).sensor ch = _ := (SMap.get_set _ _ _ _ _).trans (if_pos rfl)
  rw [hget]
  exact ⟨rfl, rfl⟩

/-! ### MONITOR_CONVERSION (R146, R147) -/

theorem State.monFind_of_channel {s : State} (h : getBits (s.seqEntry s.mon.entry) 6 0 ≤ 95) (n : Nat) :
    State.monFind (n + 1) s = (s, some (s.seqEntry s.mon.entry)) := if_pos h

theorem State.monAdvance_of_inner {s : State} {i : Nat} (hlast : getBits (s.seqEntry i) 15 15 = 0) (hi : i < 127) :
    s.monAdvance i = { s with mon := { s.mon with entry := i + 1 } } := if_neg (by omega)

theorem exec_monitorConversion {s : State} (hrun : s.isSet MON_CTRL_RUN = true) {ch : Nat}
    (hch : getBits (s.seqEntry s.mon.entry) 6 0 = ch) (hle : ch ≤ 95) (hbus : ¬(80 ≤ ch ∧ ch ≤ 87))
    (havg : getBits (s.seqEntry s.mon.entry) 7 7 = 0) (c1 c2 c3 c4 : BitVec 14) :
    ∃ t, t = s.monRecord ch (getBits (s.seqEntry s.mon.entry) 11 8) false [c1] ∧
      exec (.monitorConversion c1 c2 c3 c4) s = .next (t.monAdvance t.mon.entry) := by
  refine ⟨_, rfl, ?_⟩
  show execMonitorConversion c1 c2 c3 c4 s = _
  unfold execMonitorConversion
  rw [hrun, State.monFind_of_channel (hch ▸ hle) 256]
  dsimp -zeta only
  extract_lets w ch' tag avg code u
  have hch' : ch' = ch := hch
  have havg' : avg = false := by
    show decide (getBits (s.seqEntry s.mon.entry) 7 7 = 1) = false
    rw [havg]
    rfl
  have hcode : code c1 = c1 := by
    unfold code
    rw [hch']
    split
    · exact if_neg hbus
    · rfl
  have hu : u = s.monRecord ch (getBits (s.seqEntry s.mon.entry) 11 8) false [c1] := by
    unfold u
    rw [hch', havg', hcode]
    rfl
  rw [hu]
  rfl

theorem monitorRecordsItsChannel : MonitorRecordsItsChannel := by
  intro s c1 c2 c3 c4 ch hrun hread hch hle hbus havg hlast hentry
  obtain ⟨t, ht, hexec⟩ := exec_monitorConversion hrun hch hle hbus havg c1 c2 c3 c4
  have hstored : RecordStored s t _ := ht ▸ State.monRecord_stores hread hbus _ c1
  have hsensor := fun h64 hset => State.monRecord_sensor (s := s) (ch := ch) h64 hset (getBits (s.seqEntry s.mon.entry) 11 8) c1
  rw [← ht] at hsensor
  obtain ⟨hplace, hrecord, hindex, hlist⟩ := hstored
  have hinner : getBits (t.seqEntry t.mon.entry) 15 15 = 0 := by
    rw [hplace, hlist _ (by omega)]
    exact hlast
  rw [State.monAdvance_of_inner hinner (by omega), hplace] at hexec
  unfold State.singleRecord at hrecord
  obtain ⟨hcode, hchan, htag, hflag⟩ := recordWord_fields (!s.isSet MON_STAT_REF_SETTLED)
    ([c1].any (fun c => c = 0 ∨ c = 16383)) (getBits_lt (s.seqEntry s.mon.entry) 11 8) (show ch < 128 by omega)
    (show c1.toNat * 4 < 65536 by omega)
  refine ⟨_, hexec, rfl, hindex, ?_, ?_, ?_, ?_, hsensor⟩ <;> dsimp only <;> rw [hrecord]
  · exact hcode
  · exact hchan
  · exact htag
  · rw [hflag, Bool.toNat_eq_one, Bool.not_eq_true']

/-! ### REFERENCE_SETTLED and TEST_BUS_CAPTURE_ARM (R150, R151) -/

theorem referenceSettled_settles {s : State} (h : s.isSet MON_CTRL_REF_EN = true) :
    ∃ t, exec .referenceSettled s = .next t ∧ t.fld MON_STAT_REF_SETTLED = 1 ∧ t.mon = s.mon := by
  have hstart := (StartFrame.refl (s.put MON_STAT_REF_SETTLED 1)).advanceStart
  refine ⟨_, congrArg Host.Outcome.next (if_pos h), ?_, hstart.mon⟩
  rw [hstart.fld (by decide) (by decide)]
  exact State.fld_put _ _ _ (by unfold Fld.inWord; decide)

/-- The last capture, if any, was taken for the selection `sel` (R151). -/
def State.capturedFor (s : State) (sel : Word) : Bool :=
  match s.mon.cap with
  | some (x, _) => decide (x = sel)
  | none => false

/-- No capture has been made since MON_TB_SEL was written; TB_VALID tells whether the last one is for its selection (R151). -/
def State.reselect (s : State) : State :=
  { s with mon := { s.mon with capSince := false } }.flag MON_STAT_TB_VALID (s.capturedFor (s.rd MON_TB_SEL_CAPTURE.addr))

/-- A capture is armed. -/
def State.armCapture (s : State) : State := { s with mon := { s.mon with capArmed := true } }

theorem exec_testBusCaptureArm {s : State} {w : Wr} {r : RegDef} (hr : regAt MON_TB_SEL_CAPTURE.addr = some r)
    (hreach : writeReaches s w MON_TB_SEL_CAPTURE.addr r = true) (hcap : wbits w.data MON_TB_SEL_CAPTURE = 1) :
    exec (.testBusCaptureArm w) s = .next (s.storeReg w MON_TB_SEL_CAPTURE.addr r).reselect.armCapture := by
  have hwrite : s.write w 0x100020 = (s.storeReg w MON_TB_SEL_CAPTURE.addr r, some w.data) :=
    State.write_of_reaches hr hreach (by decide)
  show execTestBusCaptureArm w s = _
  unfold execTestBusCaptureArm
  rw [hwrite]
  exact congrArg _ (if_pos (decide_eq_true hcap))

theorem State.isSet_flag (s : State) (f : Fld) (b : Bool) (hf : f.inWord) : (s.flag f b).isSet f = b := by
  have hwidth : 1 < 2 ^ (f.hi + 1 - f.lo) := Nat.one_lt_two_pow (by have := hf.1; omega)
  unfold State.isSet
  rw [show (s.flag f b).fld f = _ from State.fld_put s f _ hf]
  cases b with
  | false => exact decide_eq_false (by rw [if_neg (by decide), Nat.zero_mod]; decide)
  | true => exact decide_eq_true (by rw [if_pos rfl, Nat.mod_eq_of_lt hwidth])

theorem State.reselect_rd (s : State) (a : Nat) (ha : a ≠ MON_STAT_TB_VALID.addr) : s.reselect.armCapture.rd a = s.rd a :=
  State.rd_put_ne { s with mon := { s.mon with capSince := false } } MON_STAT_TB_VALID _ a ha

theorem testBusCaptureArm_arms {s : State} {w : Wr} {r : RegDef} (hr : regAt MON_TB_SEL_CAPTURE.addr = some r)
    (hreach : writeReaches s w MON_TB_SEL_CAPTURE.addr r = true) (hcap : wbits w.data MON_TB_SEL_CAPTURE = 1) :
    ∃ t, exec (.testBusCaptureArm w) s = .next t ∧ t.mon = { s.mon with capArmed := true, capSince := false } ∧
      t.isSet MON_STAT_TB_VALID = s.capturedFor (t.rd MON_TB_SEL_CAPTURE.addr) ∧
      regsKept s t (MON_TB_SEL_CAPTURE.addr :: MON_STAT_TB_VALID.addr :: writeBooks) := by
  have hmon := s.storeReg_mon w MON_TB_SEL_CAPTURE.addr r
  have hstore : TouchesOnly (MON_TB_SEL_CAPTURE.addr :: MON_STAT_TB_VALID.addr :: writeBooks) s
      (s.storeReg w MON_TB_SEL_CAPTURE.addr r) := .storeReg s w r (by decide) (by decide)
  have hexec := exec_testBusCaptureArm hr hreach hcap
  generalize s.storeReg w MON_TB_SEL_CAPTURE.addr r = u at hmon hstore hexec
  have hfor : ∀ sel, u.capturedFor sel = s.capturedFor sel := fun sel => by
    unfold State.capturedFor
    rw [hmon]
  have hvalid : u.reselect.armCapture.isSet MON_STAT_TB_VALID = u.capturedFor (u.rd MON_TB_SEL_CAPTURE.addr) :=
    State.isSet_flag { u with mon := { u.mon with capSince := false } } _ _ (by unfold Fld.inWord; decide)
  refine ⟨_, hexec, congrArg (fun m : Monitor => { m with capArmed := true, capSince := false }) hmon, ?_, fun a ha => ?_⟩
  · rw [hvalid, hfor, u.reselect_rd _ (by decide)]
  · have hstat : a ≠ MON_STAT_TB_VALID.addr := fun e => ha (by rw [e]; decide)
    exact (u.reselect_rd a hstat).trans (hstore.regs a ha)

theorem referenceSettlesAndCaptureArms : ReferenceSettlesAndCaptureArms :=
  ⟨fun _ => referenceSettled_settles, fun _ h => congrArg _ (if_neg (ne_true_of_eq_false h)),
    fun _ _ _ => testBusCaptureArm_arms⟩

/-- Settles O14: one conversion stores one record and moves the list on, and the steps of the start that a settled reference sets off
leave the monitor converter alone. -/
theorem monitorAndReference : Obligations.MonitorAndReference := ⟨monitorRecordsItsChannel, referenceSettlesAndCaptureArms⟩

end Sys2Proof.Machine
end

section
/-! Settling rounds, age triggers, forced rounds and fresh tiers (R127, R128, R141, R142, R152), the drift words of a dark engine (R129,
R130), and the first pass (R144): the commands of O13. -/
namespace Sys2Proof.Machine

/-! ### What a tier's age, use and words follow from -/

theorem State.tierAge_congr {s t : State} (htb : t.tb = s.tb) (htiers : t.tiers = s.tiers) (core eng tier : Nat) :
    t.tierAge core eng tier = s.tierAge core eng tier := by
  unfold State.tierAge
  rw [htb, State.tier_of_tiers htiers]

theorem State.inUse_congr {s t : State} (htiers : t.tiers = s.tiers) (core eng tier : Nat) :
    t.inUse core eng tier = s.inUse core eng tier := by
  unfold State.inUse
  rw [State.tier_of_tiers htiers]

theorem State.tierCal_congr {s t : State} (h : t.asz.tiers = s.asz.tiers) (core eng tier : Nat) :
    t.tierCal core eng tier = s.tierCal core eng tier := by
  unfold State.tierCal
  rw [h]

theorem State.band_congr {s t : State} (h : t.asz.bands = s.asz.bands) (core eng tier band : Nat) :
    t.band core eng tier band = s.band core eng tier band := by
  unfold State.band
  rw [h]

section
variable {s t : State} {core eng tier band : Nat}

/-- The settling term follows from the age, the rounds ended and the change per decade (R140). The definition is unfolded as a whole,
not at `s`, where the kernel would set out to evaluate the age. -/
theorem State.lambdaTerm_congr (hage : t.tierAge core eng tier = s.tierAge core eng tier)
    (hcal : t.tierCal core eng tier = s.tierCal core eng tier)
    (hdecade : (t.band core eng tier band).decade = (s.band core eng tier band).decade) :
    t.lambdaTerm core eng tier band = s.lambdaTerm core eng tier band := by
  have hdef : @State.lambdaTerm = @State.lambdaTerm := rfl
  conv at hdef => rhs; delta State.lambdaTerm
  rw [hdef]
  beta_reduce
  rw [hage, hcal, hdecade]

theorem State.driftWord_congr (hterm : t.lambdaTerm core eng tier band = s.lambdaTerm core eng tier band)
    (hage : (t.band core eng tier band).kAge = (s.band core eng tier band).kAge)
    (hkappa : (t.band core eng tier band).kappa = (s.band core eng tier band).kappa) (x : Rat) :
    t.driftWord core eng tier band x = s.driftWord core eng tier band x := by
  unfold State.driftWord
  dsimp only
  rw [hterm, hage, hkappa]

end

/-! ### The triggers of a tier (R127, R128, R152) -/

theorem State.tierCal_setTierCal (s : State) (core eng tier c e k : Nat) (x : TierCal) :
    (s.setTierCal core eng tier x).tierCal c e k = if tierKey c e k = tierKey core eng tier then x else s.tierCal c e k :=
  SMap.get_set _ _ _ _ _

@[simp] theorem State.tierCal_setTierCal_same (s : State) (core eng tier : Nat) (x : TierCal) :
    (s.setTierCal core eng tier x).tierCal core eng tier = x := (s.tierCal_setTierCal ..).trans (if_pos rfl)

section
variable {s : State} {core : CoreId} {eng : EngId} {tier : TierId}

theorem exec_settlingDue {n : Fin 4} {a : Nat} (hage : s.tierAge core eng tier = some (a : Rat))
    (huse : s.inUse core eng tier = true) (hreached : 10 ^ n.val ≤ a) (hopen : (s.tierCal core eng tier).settleDone ≤ n)
    (hnew : n.val ∉ (s.tierCal core eng tier).settleDue) :
    exec (.settlingDue core eng tier n) s = .next (s.setTierCal core eng tier
      { s.tierCal core eng tier with settleDue := (s.tierCal core eng tier).settleDue ++ [n.val] }) := by
  have hreached' : (10 : Rat) ^ n.val ≤ a := by exact_mod_cast hreached
  have hnew' : (!(s.tierCal core eng tier).settleDue.contains n.val) = true := by simpa using hnew
  show execSettlingDue core eng tier n s = _
  unfold execSettlingDue
  rw [hage]
  exact congrArg _ (if_pos ⟨huse, hreached', hopen, hnew'⟩)

theorem exec_ageTrigger {f : Nat} (huse : s.inUse core eng tier = true) (hend : (s.tierCal core eng tier).lastEnd = some f)
    (hfirst : (s.tierCal core eng tier).ageSince = none) (hold : 256 ≤ (s.tb.rod / 40 + rodP / 40 - f) % (rodP / 40)) :
    exec (.ageTrigger core eng tier) s = .next (s.setTierCal core eng tier
      { s.tierCal core eng tier with ageSince := some (s.tb.rod / 40) }) := by
  show execAgeTrigger core eng tier s = _
  unfold execAgeTrigger
  dsimp only
  rw [hend]
  exact congrArg _ (if_pos ⟨huse, hold, by rw [hfirst]; rfl⟩)

/-- A write of ASZ_FORCE that reaches it leaves the selection and the tiers as they are, and the trigger is raised. -/
theorem exec_aszForceRound {w : Wr} {r : RegDef} (hr : regAt ASZ_FORCE_ROUND.addr = some r)
    (hreach : writeReaches s w ASZ_FORCE_ROUND.addr r = true) (hround : wbits w.data ASZ_FORCE_ROUND = 1)
    (hcore : s.fld ASZ_TRIM_SEL_CORE = core) (heng : s.fld ASZ_TRIM_SEL_ENG = eng) (htier : s.fld ASZ_TRIM_SEL_TIER = tier)
    (huse : s.inUse core eng tier = true) :
    exec (.aszForceRound w) s = .next ((s.storeReg w ASZ_FORCE_ROUND.addr r).setTierCal core eng tier
      { s.tierCal core eng tier with tempMove := some ((s.tierCal core eng tier).tempMove.getD 0) }) := by
  have hwrite : s.write w 0x140050 = (s.storeReg w ASZ_FORCE_ROUND.addr r, some w.data) :=
    State.write_of_reaches hr hreach (by decide)
  have hstore : TouchesOnly (ASZ_FORCE_ROUND.addr :: writeBooks) s (s.storeReg w ASZ_FORCE_ROUND.addr r) :=
    .storeReg s w r (by decide) (by decide)
  show execAszForceRound w s = _
  unfold execAszForceRound
  rw [hwrite]
  dsimp only
  generalize s.storeReg w ASZ_FORCE_ROUND.addr r = u at hstore
  have htiers : u.tiers = s.tiers := by rw [hstore.rest]
  have hcal : u.tierCal core eng tier = s.tierCal core eng tier := State.tierCal_congr (by rw [hstore.rest]) _ _ _
  have huse' : u.inUse core eng tier = true := (State.inUse_congr htiers _ _ _).trans huse
  rw [hstore.fld (f := ASZ_TRIM_SEL_CORE) (by decide), hstore.fld (f := ASZ_TRIM_SEL_ENG) (by decide),
    hstore.fld (f := ASZ_TRIM_SEL_TIER) (by decide), hcore, heng, htier, hcal]
  exact congrArg _ (if_pos ⟨decide_eq_true hround, huse'⟩)

/-! ### The end of a fresh tier (R141, R142) -/

/-- The tier is counted out of the fresh ones. -/
def State.endFresh (s : State) (core eng tier : Nat) : State :=
  (s.putAt (engI core eng) ENG_TIER_ADV_FRESH (s.fldAt (engI core eng) ENG_TIER_ADV_FRESH - 2 ^ tier)).put ASZ_FRESH_CNT_COUNT
    (s.fld ASZ_FRESH_CNT_COUNT - 1)

theorem exec_freshTierEnd
    (hold : ∀ a, s.tierAge core eng tier = some a → 600 ≤ a ∧ 3 ≤ (s.tierCal core eng tier).settleDone)
    (hfresh : s.fldAt (engI core eng) ENG_TIER_ADV_FRESH / 2 ^ tier.val % 2 = 1) :
    exec (.freshTierEnd core eng tier) s = .next (s.endFresh core eng tier) := by
  show execFreshTierEnd core eng tier s = _
  unfold execFreshTierEnd
  extract_lets i old done
  have hdone : done = true := by
    unfold done
    cases hage : s.tierAge core eng tier with
    | none => rfl
    | some a =>
      obtain ⟨hlong, hsettled⟩ := hold a hage
      simp only [decide_eq_true hlong, decide_eq_true hsettled, Bool.and_self]
  exact congrArg _ (if_pos ⟨hdone, hfresh⟩)

theorem State.endFresh_fields (s : State) (core eng tier : Nat) :
    (s.endFresh core eng tier).fldAt (engI core eng) ENG_TIER_ADV_FRESH =
        s.fldAt (engI core eng) ENG_TIER_ADV_FRESH - 2 ^ tier ∧
      (s.endFresh core eng tier).fld ASZ_FRESH_CNT_COUNT = s.fld ASZ_FRESH_CNT_COUNT - 1 := by
  have hwidth : ∀ (w : Word) (f : Fld) (n : Nat), (getBits w f.hi f.lo - n) % 2 ^ (f.hi + 1 - f.lo) = getBits w f.hi f.lo - n :=
    fun w f n => Nat.mod_eq_of_lt (Nat.lt_of_le_of_lt (Nat.sub_le _ _) (getBits_lt w f.hi f.lo))
  have happart : ENG_TIER_ADV_FRESH.addr = 0x1001074 ∧ ASZ_FRESH_CNT_COUNT.addr = 0x140034 := ⟨rfl, rfl⟩
  unfold State.endFresh
  constructor
  · rw [show (State.put _ ASZ_FRESH_CNT_COUNT _).fldAt (engI core eng) ENG_TIER_ADV_FRESH = _ from
      State.fldAt_putAt_ne _ 0 _ _ _ _ (by omega), State.fldAt_putAt_same _ _ _ _ (by decide)]
    exact hwidth _ ENG_TIER_ADV_FRESH _
  · rw [State.fld_put _ _ _ (by unfold Fld.inWord; decide)]
    exact hwidth _ ASZ_FRESH_CNT_COUNT 1

theorem State.endFresh_touches (s : State) (core eng tier : Nat) :
    RegsOnly [ENG_TIER_ADV_FRESH.addr + engI core eng, ASZ_FRESH_CNT_COUNT.addr] s (s.endFresh core eng tier) :=
  ((RegsOnly.refl _ s).putAt (by simp) _).putAt (i := 0) (f := ASZ_FRESH_CNT_COUNT) (by simp) _

end

theorem calibrationTriggersOpenRounds : CalibrationTriggersOpenRounds := by
  intro s core eng tier
  refine ⟨fun n a hage huse hreached hopen hnew => ?_, fun f huse hend hfirst hold => ?_,
    fun w r hr hreach hround hcore heng htier huse => ?_, fun hold hfresh => ?_⟩
  · exact ⟨_, exec_settlingDue hage huse hreached hopen hnew, State.tierCal_setTierCal_same .., rfl⟩
  · exact ⟨_, exec_ageTrigger huse hend hfirst hold, State.tierCal_setTierCal_same .., rfl⟩
  · refine ⟨_, exec_aszForceRound hr hreach hround hcore heng htier huse, ?_⟩
    rw [State.tierCal_setTierCal_same]
    exact ⟨rfl, rfl⟩
  · obtain ⟨hadv, hcnt⟩ := s.endFresh_fields core eng tier
    have htouches := s.endFresh_touches core eng tier
    exact ⟨_, exec_freshTierEnd hold hfresh, hadv, hcnt, htouches.regs, htouches.rest⟩

/-! ### What a fold brings about -/

/-- What one step of a fold brings about, and the other steps keep, holds at its end. -/
theorem foldl_brings {σ α : Type} {I P : σ → Prop} (f : σ → α → σ) {l : List α} {x : α} (hx : x ∈ l)
    (hkeep : ∀ u, I u → ∀ y ∈ l, I (f u y)) (hstay : ∀ u, I u → P u → ∀ y ∈ l, P (f u y)) (hset : ∀ u, I u → P (f u x)) {s : σ}
    (hs : I s) : P (l.foldl f s) := by
  obtain ⟨before, after, rfl⟩ := List.append_of_mem hx
  rw [List.foldl_append, List.foldl_cons]
  have hbefore : I (before.foldl f s) :=
    List.foldlRecOn before f hs fun u hu y hy => hkeep u hu y (List.mem_append_left _ hy)
  have hafter : ∀ y ∈ after, y ∈ before ++ x :: after := fun y hy => List.mem_append_right _ (List.mem_cons_of_mem _ hy)
  have hboth : I (after.foldl f (f (before.foldl f s) x)) ∧ P (after.foldl f (f (before.foldl f s) x)) :=
    List.foldlRecOn (motive := fun u => I u ∧ P u) after f ⟨hkeep _ hbefore x hx, hset _ hbefore⟩
      fun u hu y hy => ⟨hkeep u hu.1 y (hafter y hy), hstay u hu.1 hu.2 y (hafter y hy)⟩
  exact hboth.2

/-! ### Drift words (R129) -/

/-- A band takes its drift word for the local temperature `x`. -/
def State.applyWord (s : State) (core eng tier : Nat) (x : Rat) (b : Nat) : State :=
  s.setBand core eng tier b { s.band core eng tier b with applied := s.driftWord core eng tier b x }

/-- The bands of a tier in use take their drift words. -/
def State.applyTier (s : State) (core eng : Nat) (x : Rat) (tier : Nat) : State :=
  if s.inUse core eng tier then (List.range 32).foldl (fun s b => s.applyWord core eng tier x b) s else s

/-- The tiers in use of an engine take their drift words. -/
def State.applyTiers (s : State) (core eng : Nat) (x : Rat) : State :=
  (List.range 8).foldl (fun s tier => s.applyTier core eng x tier) s

/-- The engine has applied drift words. -/
def State.applyDrift (s : State) (core eng : Nat) (x : Rat) : State :=
  (s.applyTiers core eng x).setEngCal core eng { (s.applyTiers core eng x).engCal core eng with everApplied := true }

/-- From `s` to `t` only applied drift words change. -/
structure WordsApplied (s t : State) : Prop where
  bands : ∀ c e k b, ∃ w, t.band c e k b = { s.band c e k b with applied := w }
  rest : t = { s with asz := { s.asz with bands := t.asz.bands } }

theorem WordsApplied.refl (s : State) : WordsApplied s s := ⟨fun _ _ _ _ => ⟨_, rfl⟩, rfl⟩

theorem State.band_setBand (s : State) (core eng tier band c e k b : Nat) (x : TierBand) :
    (s.setBand core eng tier band x).band c e k b =
      if bandKey c e k b = bandKey core eng tier band then x else s.band c e k b := SMap.get_set _ _ _ _ _

section
variable {s t : State} (h : WordsApplied s t)
include h

/-- The drift word of a band follows from what stays. -/
theorem WordsApplied.driftWord (core eng tier band : Nat) (x : Rat) :
    t.driftWord core eng tier band x = s.driftWord core eng tier band x := by
  obtain ⟨w, hband⟩ := h.bands core eng tier band
  have hage : t.tierAge core eng tier = s.tierAge core eng tier := State.tierAge_congr (by rw [h.rest]) (by rw [h.rest]) _ _ _
  have hcal : t.tierCal core eng tier = s.tierCal core eng tier := State.tierCal_congr (by rw [h.rest]) _ _ _
  refine State.driftWord_congr (State.lambdaTerm_congr hage hcal ?_) ?_ ?_ x <;> rw [hband]

theorem WordsApplied.inUse (core eng tier : Nat) : t.inUse core eng tier = s.inUse core eng tier :=
  State.inUse_congr (by rw [h.rest]) core eng tier

theorem WordsApplied.applyWord (core eng tier : Nat) (x : Rat) (b : Nat) : WordsApplied s (t.applyWord core eng tier x b) where
  bands c e k b' := by
    unfold State.applyWord
    rw [State.band_setBand]
    split
    next hkey =>
      obtain ⟨w, hband⟩ := h.bands core eng tier b
      have hsame : s.band c e k b' = s.band core eng tier b := congrArg (SMap.get (fun _ => TierBand.init) s.asz.bands) hkey
      exact ⟨_, by rw [hband, hsame]⟩
    next => exact h.bands c e k b'
  rest := by
    unfold State.applyWord
    rw [h.rest]
    rfl

theorem WordsApplied.applyTier (core eng : Nat) (x : Rat) (tier : Nat) : WordsApplied s (t.applyTier core eng x tier) := by
  unfold State.applyTier
  split
  · exact List.foldlRecOn _ _ h fun u hu b _ => hu.applyWord core eng tier x b
  · exact h

/-- A band that has its word keeps it as the others take theirs. -/
theorem WordsApplied.applied_stays {core eng tier b k b' : Nat} {x : Rat} (hb : b < 32) (hb' : b' < 32)
    (hdone : (t.band core eng tier b).applied = s.driftWord core eng tier b x) :
    ((t.applyWord core eng k x b').band core eng tier b).applied = s.driftWord core eng tier b x := by
  unfold State.applyWord
  rw [State.band_setBand]
  split
  next hkey =>
    obtain ⟨rfl, rfl⟩ : tier = k ∧ b = b' := by
      unfold bandKey tierKey at hkey
      omega
    exact h.driftWord core eng tier b x
  next => exact hdone

theorem WordsApplied.applied_applyWord (core eng tier b : Nat) (x : Rat) :
    ((t.applyWord core eng tier x b).band core eng tier b).applied = s.driftWord core eng tier b x := by
  unfold State.applyWord
  rw [State.band_setBand, if_pos rfl]
  exact h.driftWord core eng tier b x

end

/-- Every band of a tier in use has the drift word of `x`. -/
theorem State.applied_applyTiers {s : State} {core eng tier b : Nat} (x : Rat) (htier : tier < 8) (hb : b < 32)
    (huse : s.inUse core eng tier = true) :
    ((s.applyTiers core eng x).band core eng tier b).applied = s.driftWord core eng tier b x := by
  refine foldl_brings (I := WordsApplied s) (P := fun u => (u.band core eng tier b).applied = s.driftWord core eng tier b x)
    (fun u k => u.applyTier core eng x k) (List.mem_range.mpr htier) (fun u hu k _ => hu.applyTier core eng x k) ?_ ?_ (.refl s)
  · intro u hu hdone k _
    unfold State.applyTier
    split
    · have hboth := List.foldlRecOn (motive := fun v => WordsApplied s v ∧
        (v.band core eng tier b).applied = s.driftWord core eng tier b x) (List.range 32) (fun v b' => v.applyWord core eng k x b')
        ⟨hu, hdone⟩ fun v hv b' hb' => ⟨hv.1.applyWord core eng k x b', hv.1.applied_stays hb (List.mem_range.mp hb') hv.2⟩
      exact hboth.2
    · exact hdone
  · intro u hu
    unfold State.applyTier
    rw [if_pos (hu.inUse core eng tier ▸ huse)]
    exact foldl_brings (I := WordsApplied s) (fun v b' => v.applyWord core eng tier x b') (List.mem_range.mpr hb)
      (fun v hv b' _ => hv.applyWord core eng tier x b') (fun v hv hdone b' hb' => hv.applied_stays hb (List.mem_range.mp hb') hdone)
      (fun v hv => hv.applied_applyWord core eng tier b x) hu

theorem State.setEngCal_bands (s : State) (core eng : Nat) (c : EngCal) : (s.setEngCal core eng c).asz.bands = s.asz.bands :=
  rfl

/-! ### ENGINE_DARK (R130) -/

/-- The engine reports whether it holds its words for want of a temperature, and the die that an engine is dark. -/
def State.showSensorDark (s : State) (core eng v : Nat) : State :=
  (s.putAt (engI core eng) ENG_ASZ_STAT_SENSOR_DARK v).put ASZ_STAT_DARK 1

theorem State.showSensorDark_fields (s : State) (core eng v : Nat) :
    (s.showSensorDark core eng v).fld ASZ_STAT_DARK = 1 ∧
      (s.showSensorDark core eng v).fldAt (engI core eng) ENG_ASZ_STAT_SENSOR_DARK = v % 2 := by
  have hdark : ASZ_STAT_DARK.addr = 0x140000 := rfl
  have hsensor : ENG_ASZ_STAT_SENSOR_DARK.addr = 0x1001070 := rfl
  refine ⟨State.fld_put _ _ _ (by unfold Fld.inWord; decide), ?_⟩
  exact (State.fldAt_putAt_ne _ 0 _ ASZ_STAT_DARK _ 1 (by omega)).trans (State.fldAt_putAt_same _ _ _ _ (by decide))

theorem State.showSensorDark_asz (s : State) (core eng v : Nat) : (s.showSensorDark core eng v).asz = s.asz := by
  unfold State.showSensorDark
  rw [State.put_asz, State.putAt_asz]

/-- Once its words are applied and shown, every band of a tier in use has the drift word of `x`. -/
theorem State.applied_shown {s : State} {core eng tier b : Nat} (x : Rat) (v : Nat) (htier : tier < 8) (hb : b < 32)
    (huse : s.inUse core eng tier = true) :
    (((s.applyDrift core eng x).showSensorDark core eng v).band core eng tier b).applied = s.driftWord core eng tier b x := by
  rw [State.band_congr (congrArg Assize.bands (State.showSensorDark_asz _ core eng v))]
  unfold State.applyDrift
  rw [State.band_congr (State.setEngCal_bands _ _ _ _)]
  exact State.applied_applyTiers x htier hb huse

/-- The words of a dark engine without a temperature: those it has, or at 62.5 °C if it has applied none. -/
def State.holdWords (s : State) (core eng : Nat) : State :=
  if (s.engCal core eng).everApplied then s else s.applyDrift core eng (125 / 2)

section
variable {s : State} {core : CoreId} {eng : EngId} (hdark : s.dark core = true)
include hdark

theorem exec_engineDark_of_none (hloc : s.tLoc core = none) :
    exec (.engineDark core eng) s = .next ((s.holdWords core eng).showSensorDark core eng 1) := by
  show execEngineDark core eng s = _
  unfold execEngineDark State.updateDrift
  rw [if_pos hdark, hloc]
  rfl

theorem exec_engineDark_of_some {x : Rat} (hloc : s.tLoc core = some x) :
    exec (.engineDark core eng) s = .next ((s.applyDrift core eng x).showSensorDark core eng 0) := by
  show execEngineDark core eng s = _
  unfold execEngineDark State.updateDrift
  rw [if_pos hdark, hloc]
  rfl

end

theorem State.degraded_of_sensorDark {s : State} {core eng : Nat}
    (h : s.fldAt (engI core eng) ENG_ASZ_STAT_SENSOR_DARK = 1) (tier : Nat) : s.degraded core eng tier = true := by
  have hset : s.isSetAt (engI core eng) ENG_ASZ_STAT_SENSOR_DARK = true := decide_eq_true h
  unfold State.degraded
  simp only [hset, Bool.true_or]

theorem darkEngineHoldsItsWords : DarkEngineHoldsItsWords := by
  intro s core eng hdark
  refine ⟨fun hloc => ?_, fun x hloc => ?_⟩
  · obtain ⟨hstat, hsensor⟩ := (s.holdWords core eng).showSensorDark_fields core eng 1
    refine ⟨_, exec_engineDark_of_none hdark hloc, hstat, hsensor, State.degraded_of_sensorDark hsensor,
      fun hever => (State.showSensorDark_asz _ core eng 1).trans (congrArg State.asz (if_pos hever)), fun hever tier b huse => ?_⟩
    unfold State.holdWords
    rw [hever, if_neg Bool.false_ne_true]
    exact State.applied_shown _ 1 tier.isLt b.isLt huse
  · obtain ⟨hstat, hsensor⟩ := (s.applyDrift core eng x).showSensorDark_fields core eng 0
    exact ⟨_, exec_engineDark_of_some hdark hloc, hstat, hsensor, fun tier b => State.applied_shown x 0 tier.isLt b.isLt⟩

/-! ### FIRST_PASS (R144) -/

/-- The conditions of the first pass. -/
structure FirstPassReady (s : State) : Prop where
  unsealed : s.isSet SEC_STAT_UNSEALED = true
  settled : s.isSet MON_STAT_REF_SETTLED = true
  heard : ∀ i, i < 64 → (s.sensor i).ever = true
  notDone : s.isSet ASZ_STAT_FIRST_DONE = false
  step : s.fld GLB_STATE_STEP = 8

theorem firstPassReady_iff (s : State) :
    (s.isSet SEC_STAT_UNSEALED && s.isSet MON_STAT_REF_SETTLED && (List.range 64).all (fun i => (s.sensor i).ever) &&
      !s.isSet ASZ_STAT_FIRST_DONE && decide (s.fld GLB_STATE_STEP = 8)) = true ↔ FirstPassReady s := by
  simp only [Bool.and_eq_true, List.all_eq_true, List.mem_range, Bool.not_eq_true', decide_eq_true_eq]
  exact ⟨fun ⟨⟨⟨⟨h1, h2⟩, h3⟩, h4⟩, h5⟩ => ⟨h1, h2, h3, h4, h5⟩, fun ⟨h1, h2, h3, h4, h5⟩ => ⟨⟨⟨⟨h1, h2⟩, h3⟩, h4⟩, h5⟩⟩

theorem exec_firstPass_of_ready {s : State} (h : FirstPassReady s) :
    ∃ u : State, exec .firstPass s = .next ((u.put ASZ_STAT_FIRST_PASS 0).put ASZ_STAT_FIRST_DONE 1).advanceStart := by
  show ∃ u : State, execFirstPass s = _
  unfold execFirstPass
  rw [(firstPassReady_iff s).mpr h]
  exact ⟨_, rfl⟩

theorem exec_firstPass_of_not_ready {s : State} (h : ¬FirstPassReady s) : exec .firstPass s = .next s := by
  show execFirstPass s = _
  unfold execFirstPass
  rw [eq_false_of_ne_true (mt (firstPassReady_iff s).mp h)]
  rfl

theorem firstPassRunsOnceReady : FirstPassRunsOnceReady := by
  refine fun s => ⟨fun hun href hheard hdone hstep => ?_, fun hfails => exec_firstPass_of_not_ready ?_⟩
  · obtain ⟨u, hexec⟩ := exec_firstPass_of_ready ⟨hun, href, hheard, hdone, hstep⟩
    have hstart := (StartFrame.refl ((u.put ASZ_STAT_FIRST_PASS 0).put ASZ_STAT_FIRST_DONE 1)).advanceStart
    refine ⟨_, hexec, ?_, ?_⟩
    · rw [hstart.fld (by decide) (by decide)]
      exact State.fld_put _ _ _ (by unfold Fld.inWord; decide)
    · rw [hstart.fld (by decide) (by decide),
        State.fld_put_apart _ _ _ _ (by unfold Fld.inWord; decide) (by unfold Fld.apart; decide)]
      exact State.fld_put _ _ _ (by unfold Fld.inWord; decide)
  · rintro ⟨hun, href, hheard, hdone, hstep⟩
    obtain h | h | ⟨i, hi, h⟩ | h | h := hfails
    · exact Bool.false_ne_true (h.symm.trans hun)
    · exact Bool.false_ne_true (h.symm.trans href)
    · exact Bool.false_ne_true (h.symm.trans (hheard i hi))
    · exact Bool.false_ne_true (hdone.symm.trans h)
    · exact h hstep

/-- Settles O13: each trigger is one entry of its tier's record; every band of a tier in use takes its drift word, for the words of
the others do not enter into it; and the steps of the start leave ASZ_STAT as the first pass leaves it. -/
theorem calibrationRounds : Obligations.CalibrationRounds :=
  ⟨calibrationTriggersOpenRounds, darkEngineHoldsItsWords, firstPassRunsOnceReady⟩

end Sys2Proof.Machine
end

section
/-! What the operations of a beat leave of the Assize (R34, R67, R68, R81, R82, R397, R406 to R410): its state, and the count of its
measurements. -/
namespace Sys2Proof.Machine

/-- From `s` to `t` the Assize stays as it is, and so does ASZ_MEAS_CNT. -/
structure AssizeKept (s t : State) : Prop where
  asz : t.asz = s.asz
  measured : t.fld ASZ_MEAS_CNT_COUNT = s.fld ASZ_MEAS_CNT_COUNT

theorem AssizeKept.refl (s : State) : AssizeKept s s := ⟨rfl, rfl⟩

section
variable {s t : State} (h : AssizeKept s t)
include h

theorem AssizeKept.trans {u : State} (g : AssizeKept t u) : AssizeKept s u :=
  ⟨g.asz.trans h.asz, g.measured.trans h.measured⟩

/-- An operation that leaves the registers and the Assize alone. -/
theorem AssizeKept.same {u : State} (hregs : u.regs = t.regs) (hasz : u.asz = t.asz) : AssizeKept s u :=
  h.trans ⟨hasz, State.fldAt_of_regs hregs 0 _⟩

theorem AssizeKept.ite {u : State} {c : Prop} [Decidable c] (g : AssizeKept s u) : AssizeKept s (if c then t else u) := by
  split
  · exact h
  · exact g

omit h in
theorem AssizeKept.foldl {α : Type} (f : State → α → State) (l : List α) (h : AssizeKept s t)
    (hf : ∀ u x, AssizeKept u (f u x)) : AssizeKept s (l.foldl f t) := by
  induction l generalizing t with
  | nil => exact h
  | cons x l ih => exact ih (h.trans (hf t x))

/-- A register above ASZ_MEAS_CNT, of any unit. -/
theorem AssizeKept.putAt {i : Nat} {f : Fld} (v : Nat) (hf : ASZ_MEAS_CNT_COUNT.addr < f.addr := by decide) :
    AssizeKept s (t.putAt i f v) :=
  h.trans ⟨rfl, State.fldAt_putAt_ne t i 0 f _ v (by omega)⟩

theorem AssizeKept.addAt {i : Nat} {f : Fld} (n : Nat) (hf : ASZ_MEAS_CNT_COUNT.addr < f.addr := by decide) :
    AssizeKept s (t.addAt i f n) := h.putAt _ hf

theorem AssizeKept.put {f : Fld} (v : Nat) (hf : ASZ_MEAS_CNT_COUNT.addr < f.addr := by decide) : AssizeKept s (t.put f v) :=
  h.putAt v hf

theorem AssizeKept.add {f : Fld} (n : Nat) (hf : ASZ_MEAS_CNT_COUNT.addr < f.addr := by decide) : AssizeKept s (t.add f n) :=
  h.putAt _ hf

theorem AssizeKept.setEngine (core eng : Nat) (e : Engine) : AssizeKept s (t.setEngine core eng e) := h.same rfl rfl

/-! ### Faults -/

theorem AssizeKept.fired : AssizeKept s t.fired := by
  unfold State.fired
  split
  · exact h
  · extract_lets faults u v i
    have hu : AssizeKept s u := h.same rfl rfl
    have hv : AssizeKept s v := ((hu.put _).put _).add _
    exact .ite (((hv.putAt _).putAt _).putAt _) hv

theorem AssizeKept.tryInject (point core unit : Nat) : AssizeKept s (t.tryInject point core unit).1 := by
  unfold State.tryInject
  split
  · exact h.fired
  · exact h

theorem AssizeKept.faultRecord (r : FaultRec) : AssizeKept s (t.faultRecord r) := h.same rfl rfl

/-- A silent error of a beat that serves no request. -/
theorem AssizeKept.silentError (r : FaultRec) (rows : BitVec 32) : AssizeKept s (t.silentError r none rows) :=
  ((h.faultRecord r).addAt _).putAt _

theorem AssizeKept.requestFence (core : Nat) : AssizeKept s (t.requestFence core) := by
  refine .ite h (.putAt ?_ _)
  exact h.same rfl rfl

theorem AssizeKept.distrust (core unit : Nat) : AssizeKept s (t.distrust core unit) := by
  refine .putAt (f := CORE_FAULT_UNTRUSTED) ?_ _
  exact h.same rfl rfl

theorem AssizeKept.escalate (core : Nat) (unit : Option Nat) (injected : Bool) :
    AssizeKept s (t.escalate core unit injected) := by
  refine .ite (h.put _) (.requestFence ?_ core)
  cases unit with
  | none => exact h
  | some u => exact h.distrust core u

theorem AssizeKept.retire (core eng band conv : Nat) (injected : Bool) :
    AssizeKept s (t.retire core eng band conv injected) := by
  unfold State.retire
  extract_lets e u old v
  have hu : AssizeKept s u := h.setEngine ..
  have hv : AssizeKept s v := .ite hu (hu.putAt _)
  exact .ite (h.put _) (.ite (h.requestFence core) (.ite ((h.setEngine ..).requestFence core) (hv.requestFence core)))

theorem AssizeKept.weigh (e : LedgerEvent) (injected : Bool) : AssizeKept s (t.weigh e injected) := by
  unfold State.weigh
  extract_lets recent faults u same
  have hu : AssizeKept s u := h.same rfl rfl
  refine .ite (.ite (hu.escalate ..) hu) (.ite hu ?_)
  split
  · exact .ite (hu.retire ..) (hu.escalate ..)
  · exact hu.escalate ..

theorem AssizeKept.tierFails (core eng tier : Nat) (injected : Bool) : AssizeKept s (t.tierFails core eng tier injected) := by
  have hrole : AssizeKept s (t.setRole core eng tier 7) := by
    refine .putAt (f := ENG_TIER_ROLE_ROLES) ?_ _
    exact h.same rfl rfl
  exact .ite (h.put _) (.ite (hrole.requestFence core) hrole)

/-! ### Selects and beats -/

theorem AssizeKept.select (core eng tier : Nat) : AssizeKept s (t.select core eng tier).1 := by
  unfold State.select
  extract_lets i inj u v w
  have hu : AssizeKept s u := h.fired.ite h
  have hv : AssizeKept s v := (hu.putAt _).addAt _
  have hw : AssizeKept s w := ((hu.putAt _).putAt _).putAt _
  clear_value u v w
  split
  · exact h.putAt _
  · split
    · split
      · exact (hv.faultRecord _).tierFails ..
      · exact hv
    · exact hw.putAt (f := ENG_STAT_EXACT) _

theorem AssizeKept.selectBack (core eng : Nat) (back : Option Nat) : AssizeKept s (t.selectBack core eng back) := by
  unfold State.selectBack
  split
  · exact h
  next k =>
    have hsel := h.select core eng k
    generalize t.select core eng k = p at hsel ⊢
    obtain ⟨u, refused⟩ := p
    exact .ite (hsel.setEngine ..) hsel

theorem AssizeKept.countCodes (b : BeatRun) (m : SMap Nat) : AssizeKept s (t.countCodes b m) := by
  unfold State.countCodes
  extract_lets seen sat overs i u
  have hu : AssizeKept s u := (h.addAt (f := ENG_CONV_SAT_COUNT) sat).addAt _
  exact .ite (hu.putAt 1) hu

/-- The report of a beat that serves no request. -/
theorem AssizeKept.reportBeat (core eng tier : Nat) (ev : Evaluated) (residue injWit injRes : Bool) (rows : BitVec 32) :
    AssizeKept s (t.reportBeat core eng tier ev residue injWit injRes none rows) := by
  unfold State.reportBeat
  extract_lets i charged u v
  have hu : AssizeKept s u := .foldl _ _ h fun w e => (((refl w).addAt _).silentError _ rows).weigh _ _
  have hv : AssizeKept s v := (hu.addAt _).putAt _
  exact .ite ((hv.silentError _ rows).weigh ..) hu

end

end Sys2Proof.Machine
end

section
/-! CALIBRATION_SLOT (R123 to R127, R142): the sets that a calibration beat stages, and a slot in a round that runs. -/
namespace Sys2Proof.Machine

/-! ### The beat (R123, R124, R126) -/

/-- The bands of an engine that convert their witnesses. -/
def State.bandsMeasured (s : State) (core eng : Nat) : Nat := (List.range 32).countP (fun p => s.witnessed core eng p)

theorem State.witnessed_congr {s t : State} {core eng : Nat}
    (h : (t.engine core eng).retired = (s.engine core eng).retired) (band : Nat) :
    t.witnessed core eng band = s.witnessed core eng band := by
  unfold State.witnessed
  rw [h]

/-- No trim set is checked and no boundary passes inside a calibration beat. -/
theorem State.convertBeat_untrimmed (s : State) (b : BeatRun) : (s.convertBeat b []).1 = s := by
  unfold State.convertBeat
  exact List.foldlRecOn (motive := fun p : State × SMap Nat => p.1 = s) _ _ rfl fun p hp _ _ => hp

theorem State.fired_engines (s : State) : s.fired.engines = s.engines := by
  unfold State.fired
  split
  · rfl
  · extract_lets faults u v i
    have hv : v.engines = s.engines := by rw [State.add_engines, State.put_engines, State.put_engines]
    refine ite_leaves ?_ hv
    rw [State.putAt_engines, State.putAt_engines, State.putAt_engines, hv]

theorem State.tryInject_engines (s : State) (point core unit : Nat) : (s.tryInject point core unit).1.engines = s.engines := by
  unfold State.tryInject
  split
  · exact s.fired_engines
  · rfl

/-- A capture that the beat matches arms no other and leaves the Assize alone (R151). -/
theorem AssizeKept.capture {s t : State} (h : AssizeKept s t) (mon : Monitor) :
    AssizeKept s ({ t with mon := mon }.put MON_STAT_TB_VALID 1) :=
  h.trans ⟨rfl, State.fld_put_ne { t with mon := mon } _ _ 1 (by decide)⟩

/-- A calibration beat of an engine that has its spares measures every band that converts its witnesses, and counts what it
measures; the Assize takes its sets from the answer. -/
theorem State.calBeat_measures (s : State) (core eng tier pos : Nat) (kind : RoundKind) (up : Bool)
    (hdead : (s.engine core eng).dead = false) :
    ∃ u sets, s.calBeat core eng tier pos (fun _ => some kind) up = (u, sets) ∧ sets.length = s.bandsMeasured core eng ∧
      u.asz = s.asz ∧ u.fld ASZ_MEAS_CNT_COUNT =
        min (s.fld ASZ_MEAS_CNT_COUNT + s.bandsMeasured core eng) ASZ_MEAS_CNT_COUNT.top := by
  unfold State.calBeat
  extract_lets e gone u b dead v
  have hu : AssizeKept s u := (((AssizeKept.refl s).setEngine ..).addAt _).add _
  have hengine : u.engine core eng = { e with newRetired := [] } := s.engine_setEngine core eng _
  have hv : v = u := if_neg (by rw [hengine]; exact ne_true_of_eq_false hdead)
  clear_value v
  subst hv
  have hconv := u.convertBeat_untrimmed b
  generalize u.convertBeat b [] = p at hconv ⊢
  obtain ⟨u', codes⟩ := p
  dsimp -zeta only at hconv ⊢
  subst hconv
  extract_lets +onlyGivenNames inj fails
  have hinj := hu.tryInject 0x02 core eng
  have hengines := u.tryInject_engines 0x02 core eng
  generalize u.tryInject 0x02 core eng = q at hinj hengines ⊢
  obtain ⟨w, i2⟩ := q
  dsimp -zeta only at hinj hengines ⊢
  extract_lets +onlyGivenNames made sets x y sel hit mon z
  have hretired : (w.engine core eng).retired = (s.engine core eng).retired := by
    rw [State.engine_of_engines hengines, hengine]
  have hlength : sets.length = s.bandsMeasured core eng := by
    refine (List.length_map _).trans (List.length_filterMap_eq_countP.trans (List.countP_congr fun p _ => ?_))
    have hband := State.witnessed_congr hretired p
    have hlive : dead = false := hdead
    cases hw : s.witnessed core eng p <;> simp [hband, hw, hlive]
  have hx : AssizeKept s x := (hinj.countCodes b codes).addAt (f := ENG_CONV_SAT_COUNT) _
  have hy : AssizeKept s y := hx.reportBeat ..
  have hz : AssizeKept s z := (hy.capture _).ite hy
  refine ⟨_, _, rfl, hlength, hz.asz, ?_⟩
  rw [← hlength, ← hz.measured]
  exact State.fldAt_addAt z.tick 0 _ _ (by unfold Fld.inWord; decide)

/-! ### The slot (R123, R127, R142) -/

theorem State.bandsMeasured_congr {s t : State} (h : t.engines = s.engines) (core eng : Nat) :
    t.bandsMeasured core eng = s.bandsMeasured core eng :=
  List.countP_congr fun p _ => by rw [State.witnessed_congr (congrArg Engine.retired (State.engine_of_engines h core eng)) p]

/-- On the live tier nothing refuses the selects, and the slot gives the sets of its beat. -/
theorem State.calSlot_measures (s : State) (core eng tier pos : Nat) (kind : RoundKind) (up : Bool)
    (hlive : s.isSetAt (engI core eng) ENG_STAT_LIVE = true) (htier : s.fldAt (engI core eng) ENG_STAT_LIVE_TIER = tier)
    (hdead : (s.engine core eng).dead = false) :
    ∃ u sets, s.calSlot core eng tier pos (fun _ => some kind) up = (u, some sets) ∧
      sets.length = s.bandsMeasured core eng ∧ u.asz = s.asz ∧ u.fld ASZ_MEAS_CNT_COUNT =
        min (s.fld ASZ_MEAS_CNT_COUNT + s.bandsMeasured core eng) ASZ_MEAS_CNT_COUNT.top := by
  obtain ⟨u, sets, hbeat, hlength, hasz, hcount⟩ :=
    (s.putAt (engI core eng) ENG_STAT_SEL_REFUSED 0).calBeat_measures core eng tier pos kind up hdead
  have hput : AssizeKept s (s.putAt (engI core eng) ENG_STAT_SEL_REFUSED 0) := (AssizeKept.refl s).putAt 0
  have hback := (AssizeKept.refl u).selectBack core eng (s.liveTier core eng)
  have hbands : (s.putAt (engI core eng) ENG_STAT_SEL_REFUSED 0).bandsMeasured core eng = s.bandsMeasured core eng :=
    State.bandsMeasured_congr (s.putAt_engines ..) core eng
  rw [hbands] at hlength hcount
  rw [hput.measured] at hcount
  refine ⟨u.selectBack core eng (s.liveTier core eng), sets, ?_, hlength, hback.asz.trans (hasz.trans hput.asz),
    hback.measured.trans hcount⟩
  unfold State.calSlot
  rw [State.select_live hlive htier]
  dsimp only
  rw [if_neg Bool.false_ne_true, hbeat]

/-- A round that runs, with no drift set of the tier to retry, goes on. -/
theorem State.takeRound_of_running {s : State} {core eng tier : Nat} {kind : RoundKind}
    (hcur : (s.engCal core eng).cur = some tier) (hactive : (s.tierCal core eng tier).active = some kind)
    (hretry : (s.tierCal core eng tier).retry = false) : s.takeRound core eng tier kind = s := by
  unfold State.takeRound
  extract_lets e u c isRetry
  have hu : u = s := if_pos hcur
  have hc : c.active = some kind := (congrArg (fun x => (State.tierCal x core eng tier).active) hu).trans hactive
  have hnot : isRetry = false := by
    unfold isRetry c
    rw [hu, hretry, Bool.false_and, Bool.false_and]
  rw [hc]
  dsimp only
  rw [if_pos (.inr ⟨rfl, by rw [hnot]; rfl⟩), hu]

/-- What a slot does with the tiers before it takes up its work (R126, R142): settling rounds lapse where a tier has no age, and the
round and the retries of a tier out of use are dropped. -/
def State.clearRounds (s : State) (core eng : Nat) : State :=
  (List.range 8).foldl (fun (s : State) t =>
    let e := s.engCal core eng
    if s.inUse core eng t then s.lapseSettling core eng t
    else if e.cur = some t ∨ e.held.contains t ∨ e.retries.any (fun r => r.tier = t) then s.dropRound core eng t
    else s) s

theorem State.clearRounds_of_clear {s : State} {core eng : Nat}
    (hages : ∀ x, x < 8 → s.inUse core eng x = true → (s.tierAge core eng x).isSome = true)
    (hcur : ∀ x, (s.engCal core eng).cur = some x → s.inUse core eng x = true) (hheld : (s.engCal core eng).held = [])
    (hretries : (s.engCal core eng).retries = []) : s.clearRounds core eng = s := by
  refine List.foldlRecOn (motive := fun u : State => u = s) _ _ rfl fun u hu x hx => ?_
  subst hu
  dsimp only
  split
  next huse => exact if_pos (hages x (List.mem_range.mp hx) huse)
  next hidle =>
    refine if_neg ?_
    rw [hheld, hretries]
    rintro (hx | hx | hx)
    · exact hidle (hcur x hx)
    · exact absurd hx (by simp)
    · exact absurd hx (by simp)

/-- Without tiers in use, a round held or a set to retry, a slot has nothing to do. -/
theorem State.calWork_of_idle {s : State} {core eng : Nat} (hidle : ∀ x, x < 8 → s.inUse core eng x = false)
    (hcur : (s.engCal core eng).cur = none) (hretries : (s.engCal core eng).retries = []) :
    s.calWork core eng = .nothing := by
  have huse : (List.range 8).filter (fun t => s.inUse core eng t) = [] :=
    List.filter_eq_nil_iff.mpr fun x hx => ne_true_of_eq_false (hidle x (List.mem_range.mp hx))
  unfold State.calWork
  dsimp only
  rw [hretries, huse, hcur]
  rfl

section
variable {s : State} {core : CoreId} {eng : EngId} (up : Bool)

theorem exec_calibrationSlot_of_unplaced (h : s.placed core (.engine eng) .calibration = false) :
    exec (.calibrationSlot core eng up) s = .next s := by
  show execCalibrationSlot core eng up s = _
  unfold execCalibrationSlot
  rw [h]
  rfl

theorem exec_calibrationSlot_of_nothing (hplaced : s.placed core (.engine eng) .calibration = true)
    (hclear : s.clearRounds core eng = s) (hwork : s.calWork core eng = .nothing) :
    exec (.calibrationSlot core eng up) s = .next s := by
  show execCalibrationSlot core eng up s = _
  unfold execCalibrationSlot
  extract_lets u
  rw [show u = s from hclear, hplaced, hwork]
  rfl

/-- A round stands at a position after the slot that measured it. -/
def TierCal.advance (c : TierCal) (pos : Nat) (x : Rat) : TierCal :=
  { c with pos := pos + 1, tSum := c.tSum + x, tCnt := c.tCnt + 1 }

/-- The sets of a beat join those that are staged. -/
def State.stageSets (s : State) (l : List TrimSetDue) : State := { s with asz := { s.asz with sets := s.asz.sets ++ l } }

theorem State.tierCal_stageSets (s : State) (l : List TrimSetDue) (core eng tier : Nat) :
    (s.stageSets l).tierCal core eng tier = s.tierCal core eng tier :=
  State.tierCal_congr rfl core eng tier

theorem exec_calibrationSlot_of_round {t : Nat} {kind : RoundKind} {u : State} {sets : List TrimSetDue}
    (hplaced : s.placed core (.engine eng) .calibration = true) (hclear : s.clearRounds core eng = s)
    (hwork : s.calWork core eng = .round t kind) (htake : s.takeRound core eng t kind = s)
    (hpos : (s.tierCal core eng t).pos < 32)
    (hslot : s.calSlot core eng t (s.tierCal core eng t).pos (fun _ => some kind) up = (u, some sets)) :
    ∃ x, exec (.calibrationSlot core eng up) s = .next ((u.setTierCal core eng t
      ((u.tierCal core eng t).advance (s.tierCal core eng t).pos x)).stageSets sets) := by
  show ∃ x, execCalibrationSlot core eng up s = _
  unfold execCalibrationSlot
  extract_lets v
  rw [show v = s from hclear, hplaced, hwork]
  dsimp only
  rw [htake, hslot]
  dsimp only
  rw [if_pos hpos]
  exact ⟨_, rfl⟩

end

theorem calibrationSlotMeasuresItsPosition : CalibrationSlotMeasuresItsPosition := by
  intro s core eng up
  refine ⟨fun t kind hplaced hwork hcur hheld hretries hages hactive hretry hpos huse hdead hlive htier => ?_,
    fun hidle hcur hheld hretries => ?_, exec_calibrationSlot_of_unplaced up⟩
  · obtain ⟨u, sets, hslot, hlength, hasz, hcount⟩ :=
      s.calSlot_measures core eng t (s.tierCal core eng t).pos kind up hlive htier hdead
    have hclear : s.clearRounds core eng = s := State.clearRounds_of_clear hages
      (fun x hx => by rw [hcur] at hx; exact Option.some.inj hx ▸ huse) hheld hretries
    obtain ⟨x, hexec⟩ := exec_calibrationSlot_of_round up hplaced hclear hwork
      (State.takeRound_of_running hcur hactive hretry) hpos hslot
    refine ⟨_, hexec, ?_, ?_, hcount⟩
    · rw [State.tierCal_stageSets, State.tierCal_setTierCal_same]
      rfl
    · show (u.asz.sets ++ sets).length = _
      rw [List.length_append, hasz, hlength]
      rfl
  · cases hplaced : s.placed core (.engine eng) .calibration with
    | false => exact exec_calibrationSlot_of_unplaced up hplaced
    | true =>
      have hclear : s.clearRounds core eng = s := State.clearRounds_of_clear
        (fun x hx huse => absurd huse (ne_true_of_eq_false (hidle x hx))) (fun x hx => by rw [hcur] at hx; cases hx) hheld hretries
      exact exec_calibrationSlot_of_nothing up hplaced hclear (State.calWork_of_idle hidle hcur hretries)

end Sys2Proof.Machine
end

section
/-! TRIM_SET_CHECK (R133 to R136): a converter set of the phases after the first pass passes or is rejected; and O12. -/
namespace Sys2Proof.Machine

/-! ### The set leaves the queue (R133) -/

/-- The staged sets after the oldest was taken off the queue. -/
def State.dropSet (s : State) (rest : List TrimSetDue) : State := { s with asz := { s.asz with sets := rest } }

theorem exec_trimSetCheck {s : State} {d : TrimSetDue} {rest : List TrimSetDue} (h : s.asz.sets = d :: rest) :
    exec .trimSetCheck s = .next ((s.dropSet rest).checkSet d) := by
  show execTrimSetCheck s = _
  unfold execTrimSetCheck State.checkOldest
  rw [h]
  rfl

/-! ### The reason of a set (R133, R134) -/

theorem State.driftNow_congr {s t : State} {core eng tier band : Nat} (hloc : t.tLoc core = s.tLoc core)
    (hword : ∀ x, t.driftWord core eng tier band x = s.driftWord core eng tier band x)
    (hcal : t.engCal core eng = s.engCal core eng) (hband : t.band core eng tier band = s.band core eng tier band) :
    t.driftNow core eng tier band = s.driftNow core eng tier band := by
  unfold State.driftNow
  simp only [hloc, hword, hcal, hband]

theorem State.driftNow_dropSet (s : State) (rest : List TrimSetDue) (core eng tier band : Nat) :
    (s.dropSet rest).driftNow core eng tier band = s.driftNow core eng tier band := by
  have hband := State.band_congr (s := s) (t := s.dropSet rest) rfl core eng tier band
  have hterm := State.lambdaTerm_congr (State.tierAge_congr (s := s) (t := s.dropSet rest) rfl rfl core eng tier)
    (State.tierCal_congr rfl core eng tier) (congrArg TierBand.decade hband)
  exact State.driftNow_congr rfl
    (State.driftWord_congr hterm (congrArg TierBand.kAge hband) (congrArg TierBand.kappa hband)) rfl hband

/-- The reason of a converter set follows from the converter's words in force and the drift word. -/
theorem State.setReason_congr {s t : State} {d : TrimSetDue} {c : Nat} (hc : d.conv = some c)
    (hconv : t.conv d.core d.eng d.band c = s.conv d.core d.eng d.band c)
    (hdrift : t.driftNow d.core d.eng d.tier d.band = s.driftNow d.core d.eng d.tier d.band) :
    t.setReason d = s.setReason d := by
  unfold State.setReason
  rw [hc]
  dsimp only
  rw [hconv, hdrift]

theorem State.setReason_le (s : State) {d : TrimSetDue} {c : Nat} (hc : d.conv = some c) : s.setReason d ≤ 4 := by
  unfold State.setReason
  rw [hc]
  dsimp only
  split_ifs <;> decide

section
variable {s : State} {d : TrimSetDue} {c : Nat}

/-- Without an armed point 0x06 a set that ends no round passes for reason 0 and is rejected for another. -/
theorem State.checkSet_of_uninjected (hends : d.ends = none) (hinj : s.injects 0x06 d.core d.eng = none) :
    s.checkSet d = if s.setReason d = 0 then s.passSet d else s.rejectSet d (s.setReason d) false := by
  have htry : s.tryInject 0x06 d.core d.eng = (s, none) := by
    unfold State.tryInject
    rw [hinj]
  have hset : ({ d with badFit := d.badFit || (none : Option Nat).isSome } : TrimSetDue) = d :=
    congrArg (fun x => { d with badFit := x }) (Bool.or_false d.badFit)
  unfold State.checkSet
  rw [htry]
  dsimp only
  rw [hset, hends]
  cases h : s.setReason d with
  | zero => rfl
  | succ n => rfl

/-! ### A set that passes (R135, R136) -/

/-- The words of a converter whose set passed: in force at once in step mode, waiting for the boundary otherwise. -/
def Conv.pass (w : Conv) (d : TrimSetDue) (now : Bool) : Conv :=
  if now then { w with gacc := d.acc0, oacc := d.acc1, g := d.w0, o := d.w1, pend := none }
  else { w with gacc := d.acc0, oacc := d.acc1, pend := some (d.w0, d.w1) }

theorem State.conv_setConv_same (s : State) (core eng band conv : Nat) (w : Conv) :
    (s.setConv core eng band conv w).conv core eng band conv = w := (SMap.get_set _ _ _ _ _).trans (if_pos rfl)

/-- The trim mode does not follow from ENG_ASZ_STAT. -/
theorem State.stepMode_putAt (s : State) (core eng i : Nat) (f : Fld) (v : Nat) (hf : ASZ_MODE_STEP.addr < f.addr) :
    (s.putAt i f v).stepMode core eng = s.stepMode core eng := by
  have hforce : (s.putAt i f v).inForceAt 0 ASZ_MODE_STEP = s.inForceAt 0 ASZ_MODE_STEP := by
    unfold State.inForceAt State.inForce
    rw [State.rd_putAt_ne s i f v _ (by omega)]
    rfl
  unfold State.stepMode
  rw [hforce]
  rfl

/-- A passing converter set gives its converter the words and clears REJ_RUN. -/
theorem State.passSet_fields (hc : d.conv = some c) (hkind : ∀ n, d.kind ≠ .first n)
    (hretired : (s.engine d.core d.eng).retired.any (fun r => r = (d.band, c)) = false) :
    (s.passSet d).asz.sets = s.asz.sets ∧ (s.passSet d).fldAt (engI d.core d.eng) ENG_ASZ_STAT_REJ_RUN = 0 ∧
      (s.passSet d).conv d.core d.eng d.band c = (s.conv d.core d.eng d.band c).pass d (s.stepMode d.core d.eng) := by
  unfold State.passSet
  extract_lets u first now
  have hu : u = s.putAt (engI d.core d.eng) ENG_ASZ_STAT_REJ_RUN 0 := rfl
  have hnow : now = s.stepMode d.core d.eng := by
    have hfirst : first = false := by
      unfold first
      split
      next n hn => exact absurd hn (hkind n)
      next => rfl
    unfold now
    rw [hfirst, Bool.false_or, hu, State.stepMode_putAt _ _ _ _ _ _ (by decide)]
  have hkeep : u.asz = s.asz := by rw [hu, State.putAt_asz]
  have hrun : u.fldAt (engI d.core d.eng) ENG_ASZ_STAT_REJ_RUN = 0 :=
    hu ▸ State.fldAt_putAt_same s _ _ 0 (by decide)
  have hused : (u.engine d.core d.eng).retired.any (fun r => r = (d.band, c)) = false := hretired
  have hw : u.conv d.core d.eng d.band c = s.conv d.core d.eng d.band c := by
    unfold State.conv
    rw [hkeep]
  clear_value u now
  rw [hc, hnow]
  dsimp only
  rw [if_neg (ne_true_of_eq_false hused), ← hw, ← hkeep]
  refine ⟨rfl, hrun, ?_⟩
  exact (State.conv_setConv_same ..)

/-! ### A set that is rejected (R134) -/

/-- Counts and reason of a rejected set. -/
def State.countReject (s : State) (i reason : Nat) : State :=
  let u := ((s.addAt i ENG_TRIM_REJ_COUNT 1).add ASZ_REJ_CNT_COUNT 1).putAt i ENG_ASZ_STAT_LAST_REJ reason
  u.putAt i ENG_ASZ_STAT_REJ_RUN (min 3 (u.fldAt i ENG_ASZ_STAT_REJ_RUN + 1))

/-- The Assize's own state, and what counts an engine's rejected sets and names the last one's reason. -/
structure RejectsKept (i : Nat) (s t : State) : Prop where
  asz : t.asz = s.asz
  reason : t.fldAt i ENG_ASZ_STAT_LAST_REJ = s.fldAt i ENG_ASZ_STAT_LAST_REJ
  ofEngine : t.fldAt i ENG_TRIM_REJ_COUNT = s.fldAt i ENG_TRIM_REJ_COUNT
  ofDie : t.fld ASZ_REJ_CNT_COUNT = s.fld ASZ_REJ_CNT_COUNT

/-- The die's count of rejected sets is in no engine's registers. -/
theorem aszRejCnt_ne_engine {f : Fld} (hf : 0x1000000 ≤ f.addr) (i : Nat) : ASZ_REJ_CNT_COUNT.addr + 0 ≠ f.addr + i := by
  show 0x0140024 + 0 ≠ f.addr + i
  omega

theorem State.countReject_fields (s : State) (i : Nat) {reason : Nat} (h : reason < 8) :
    (s.countReject i reason).asz = s.asz ∧ (s.countReject i reason).fldAt i ENG_ASZ_STAT_LAST_REJ = reason ∧
      (s.countReject i reason).fldAt i ENG_TRIM_REJ_COUNT = min (s.fldAt i ENG_TRIM_REJ_COUNT + 1) ENG_TRIM_REJ_COUNT.top ∧
      (s.countReject i reason).fld ASZ_REJ_CNT_COUNT = min (s.fld ASZ_REJ_CNT_COUNT + 1) ASZ_REJ_CNT_COUNT.top := by
  unfold State.countReject
  extract_lets u
  refine ⟨?_, ?_, ?_, ?_⟩
  · rw [State.putAt_asz]
    rfl
  · rw [State.fldAt_putAt_other _ _ _ _ _ (by decide)]
    exact (State.fldAt_putAt_same _ _ _ _ (by decide)).trans (Nat.mod_eq_of_lt h)
  · have hdie : ENG_TRIM_REJ_COUNT.addr + i ≠ ASZ_REJ_CNT_COUNT.addr + 0 := by
      show 0x1001078 + i ≠ 0x0140024 + 0
      omega
    rw [State.fldAt_putAt_other _ _ _ _ _ (by decide)]
    exact (State.fldAt_putAt_other _ _ _ _ _ (by decide)).trans
      ((State.fldAt_addAt_ne _ 0 i _ _ 1 hdie).trans (State.fldAt_addAt_same s i _ 1 (by decide)))
  · have hfar : ∀ f : Fld, 0x1000000 ≤ f.addr → ASZ_REJ_CNT_COUNT.addr + 0 ≠ f.addr + i := fun f hf =>
      aszRejCnt_ne_engine hf i
    have hdie := State.fldAt_addAt_same (s.addAt i ENG_TRIM_REJ_COUNT 1) 0 ASZ_REJ_CNT_COUNT 1 (by decide)
    rw [State.fldAt_addAt_ne s i 0 _ _ 1 (hfar _ (by decide))] at hdie
    exact (State.fldAt_putAt_ne _ i 0 _ _ _ (hfar _ (by decide))).trans
      ((State.fldAt_putAt_ne _ i 0 _ _ _ (hfar _ (by decide))).trans hdie)

/-- The third rejected set in a row: the engine is doubtful, which is recorded and escalated (R134, R406). -/
def State.raiseDoubt (s : State) (d : TrimSetDue) : State :=
  let s := (s.putAt (engI d.core d.eng) ENG_ASZ_STAT_DOUBTFUL 1).add ASZ_DOUBT_CNT_COUNT 1
  (s.faultRecord ⟨6, d.core, d.eng, d.tier, d.band, d.conv.getD 0, 0, s.tb.rod, false⟩).escalate d.core none false

theorem State.escalate_core (s : State) (core : Nat) : s.escalate core none false = s.requestFence core :=
  if_neg Bool.false_ne_true

theorem State.raiseDoubt_asz (s : State) (d : TrimSetDue) : (s.raiseDoubt d).asz = s.asz := by
  unfold State.raiseDoubt
  extract_lets u
  have hu : u.asz = s.asz := (State.putAt_asz ..).trans (State.putAt_asz ..)
  rw [State.escalate_core, State.requestFence_leaves State.asz (fun _ _ _ => rfl)]
  exact hu

/-- Doubt writes DOUBTFUL, the count of doubtful engines and the core's fence request. -/
theorem State.rd_raiseDoubt (s : State) (d : TrimSetDue) {a : Nat} (hfence : a ≠ CORE_FAULT_FENCE_REQ.addr + coreI d.core)
    (hdoubt : a ≠ ASZ_DOUBT_CNT_COUNT.addr + 0) :
    (s.raiseDoubt d).rd a = (s.putAt (engI d.core d.eng) ENG_ASZ_STAT_DOUBTFUL 1).rd a := by
  unfold State.raiseDoubt
  extract_lets u
  have hu : u.rd a = (s.putAt (engI d.core d.eng) ENG_ASZ_STAT_DOUBTFUL 1).rd a := State.rd_putAt_ne _ _ _ _ _ hdoubt
  rw [State.escalate_core, State.rd_requestFence _ _ _ hfence, ← hu]
  unfold State.rd
  rw [State.faultRecord_regs]

theorem State.fldAt_raiseDoubt (s : State) (d : TrimSetDue) {f : Fld} (hlow : 0x1000000 ≤ f.addr)
    (hfence : f.addr % 0x1000 ≠ 0xE0) (hmiss : ENG_ASZ_STAT_DOUBTFUL.misses f = true) :
    (s.raiseDoubt d).fldAt (engI d.core d.eng) f = s.fldAt (engI d.core d.eng) f := by
  have hmod := engI_mod d.core d.eng
  have hcore := coreI_mod d.core
  have hfence' : f.addr + engI d.core d.eng ≠ CORE_FAULT_FENCE_REQ.addr + coreI d.core := by
    show f.addr + engI d.core d.eng ≠ 0x10000E0 + coreI d.core
    omega
  have hdoubt : f.addr + engI d.core d.eng ≠ ASZ_DOUBT_CNT_COUNT.addr + 0 := by
    show f.addr + engI d.core d.eng ≠ 0x014002C + 0
    omega
  rw [← State.fldAt_putAt_other s _ ENG_ASZ_STAT_DOUBTFUL f 1 hmiss]
  unfold State.fldAt
  rw [s.rd_raiseDoubt d hfence' hdoubt]

theorem RejectsKept.raiseDoubt (s : State) (d : TrimSetDue) : RejectsKept (engI d.core d.eng) s (s.raiseDoubt d) := by
  refine ⟨s.raiseDoubt_asz d, s.fldAt_raiseDoubt d (by decide) (by decide) (by decide),
    s.fldAt_raiseDoubt d (by decide) (by decide) (by decide), ?_⟩
  unfold State.fld State.fldAt
  rw [s.rd_raiseDoubt d (aszRejCnt_ne_engine (by decide) _) (by decide),
    State.rd_putAt_ne _ _ _ _ _ (aszRejCnt_ne_engine (by decide) _)]

/-- A converter set's position joins those to be measured again. -/
def State.queueRetry (s : State) (d : TrimSetDue) (c : Nat) : State :=
  s.setEngCal d.core d.eng { s.engCal d.core d.eng with
    retries := (s.engCal d.core d.eng).retries ++ [⟨d.tier, c, d.band, d.kind⟩] }

/-- A rejected converter set counts and queues its position; beyond that it can only raise doubt. -/
theorem State.rejectSet_cases (hc : d.conv = some c) (hkind : ∀ n, d.kind ≠ .first n) (reason : Nat) :
    s.rejectSet d reason false = (s.countReject (engI d.core d.eng) reason).queueRetry d c ∨
      s.rejectSet d reason false = ((s.countReject (engI d.core d.eng) reason).queueRetry d c).raiseDoubt d := by
  have hafter : d.kind.after = d.kind := by
    unfold RoundKind.after
    split
    next n hn => exact absurd hn (hkind n)
    next => rfl
  unfold State.rejectSet
  extract_lets i u run v inFirst e cal w doubt
  have hfirst : inFirst = false := by
    unfold inFirst
    split
    next n hn => exact absurd hn (hkind n)
    next => rfl
  have hw : w = (s.countReject (engI d.core d.eng) reason).queueRetry d c := by
    unfold w
    rw [hfirst, if_neg Bool.false_ne_true, hc]
    dsimp only
    rw [hafter]
    rfl
  clear_value w
  subst hw
  split
  · exact .inr rfl
  · exact .inl rfl

theorem State.fldAt_queueRetry (s : State) (d : TrimSetDue) (c i : Nat) (f : Fld) :
    (s.queueRetry d c).fldAt i f = s.fldAt i f := rfl

theorem State.queueRetry_asz (s : State) (d : TrimSetDue) (c : Nat) :
    (s.queueRetry d c).asz.sets = s.asz.sets ∧ (s.queueRetry d c).asz.convs = s.asz.convs ∧
      (s.queueRetry d c).asz.bands = s.asz.bands := ⟨rfl, rfl, rfl⟩

theorem State.retries_queueRetry (s : State) (d : TrimSetDue) (c : Nat) :
    ((s.queueRetry d c).engCal d.core d.eng).retries =
      (s.engCal d.core d.eng).retries ++ [⟨d.tier, c, d.band, d.kind⟩] :=
  congrArg EngCal.retries ((SMap.get_set _ _ _ _ _).trans (if_pos rfl))

theorem State.engCal_congr {s t : State} (h : t.asz = s.asz) (core eng : Nat) : t.engCal core eng = s.engCal core eng := by
  unfold State.engCal
  rw [h]

/-- A rejected converter set counts and gives its reason, and its position is queued; the words and the band sums stay. -/
theorem State.rejectSet_fields (hc : d.conv = some c) (hkind : ∀ n, d.kind ≠ .first n) {reason : Nat} (h : reason < 8) :
    ((s.rejectSet d reason false).asz.sets = s.asz.sets ∧ (s.rejectSet d reason false).asz.convs = s.asz.convs ∧
      (s.rejectSet d reason false).asz.bands = s.asz.bands) ∧
    (s.rejectSet d reason false).fldAt (engI d.core d.eng) ENG_ASZ_STAT_LAST_REJ = reason ∧
    (s.rejectSet d reason false).fldAt (engI d.core d.eng) ENG_TRIM_REJ_COUNT =
      min (s.fldAt (engI d.core d.eng) ENG_TRIM_REJ_COUNT + 1) ENG_TRIM_REJ_COUNT.top ∧
    (s.rejectSet d reason false).fld ASZ_REJ_CNT_COUNT = min (s.fld ASZ_REJ_CNT_COUNT + 1) ASZ_REJ_CNT_COUNT.top ∧
    ((s.rejectSet d reason false).engCal d.core d.eng).retries =
      (s.engCal d.core d.eng).retries ++ [⟨d.tier, c, d.band, d.kind⟩] := by
  have hcases := State.rejectSet_cases (s := s) hc hkind reason
  obtain ⟨hcount, hreason, hengine, hdie⟩ := s.countReject_fields (engI d.core d.eng) h
  have hcal := State.engCal_congr hcount d.core d.eng
  generalize s.countReject (engI d.core d.eng) reason = u at *
  have hkept : RejectsKept (engI d.core d.eng) (u.queueRetry d c) (s.rejectSet d reason false) := by
    obtain heq | heq := hcases <;> rw [heq]
    · exact ⟨rfl, rfl, rfl, rfl⟩
    · exact RejectsKept.raiseDoubt ..
  have hasz := u.queueRetry_asz d c
  rw [← hkept.asz, hcount] at hasz
  refine ⟨hasz, hkept.reason.trans ((u.fldAt_queueRetry ..).trans hreason),
    hkept.ofEngine.trans ((u.fldAt_queueRetry ..).trans hengine), hkept.ofDie.trans ((u.fldAt_queueRetry ..).trans hdie), ?_⟩
  rw [State.engCal_congr hkept.asz, State.retries_queueRetry, hcal]

end

theorem converterSetPassesOrIsRejected : ConverterSetPassesOrIsRejected := by
  intro s d rest c hsets hc hkind hends _ _ hinj hretired
  have hexec := exec_trimSetCheck hsets
  have hreason : (s.dropSet rest).setReason d = s.setReason d :=
    State.setReason_congr hc rfl (s.driftNow_dropSet rest ..)
  rw [State.checkSet_of_uninjected (s := s.dropSet rest) hends hinj, hreason] at hexec
  refine ⟨fun hpass => ?_, fun hfail => ?_⟩
  · rw [if_pos hpass] at hexec
    obtain ⟨hrest, hrun, hconv⟩ := State.passSet_fields (s := s.dropSet rest) hc hkind hretired
    refine ⟨_, hexec, hrest, hrun, fun hstep => ?_, fun hstep => ?_⟩
    · rw [hconv, show (s.dropSet rest).stepMode d.core d.eng = true from hstep]
      exact ⟨rfl, rfl⟩
    · rw [hconv, show (s.dropSet rest).stepMode d.core d.eng = false from hstep]
      exact ⟨rfl, rfl, rfl⟩
  · rw [if_neg hfail] at hexec
    have hsmall : s.setReason d < 8 := Nat.lt_of_le_of_lt (s.setReason_le hc) (by decide)
    obtain ⟨⟨hrest, hconvs, hbands⟩, hcounts⟩ := State.rejectSet_fields (s := s.dropSet rest) hc hkind hsmall
    exact ⟨_, hexec, hrest, hconvs, hbands, hcounts⟩

/-- Settles O12: a slot of the round in progress stages one set for each band measured, and the oldest staged set passes or is
rejected by its reason. -/
theorem calibrationSlots : Obligations.CalibrationSlots :=
  ⟨calibrationSlotMeasuresItsPosition, converterSetPassesOrIsRejected⟩

end Sys2Proof.Machine
end

section
/-! The resets of the die (R379, R409, R433, R501): what a tier keeps, and the state that every reset leaves. -/
namespace Sys2Proof.Machine

/-! ### What a tier keeps without power -/

/-- The tiers as a reset leaves them: cells and metadata without row map and role. -/
def sealedTiers (m : SMap Tier) : SMap Tier :=
  (m.map (fun (e : Nat × Tier) => (e.1, e.2.sealed))).filter (fun e => e.2 ≠ Tier.blank)

/-- A tier that a reset leaves has no row map and no role, and its cells stay where it holds any. -/
theorem get_sealedTiers (m : SMap Tier) (k : Nat) :
    (SMap.get (fun _ => Tier.blank) (sealedTiers m) k).mapped = false ∧
    (SMap.get (fun _ => Tier.blank) (sealedTiers m) k).role = 0 ∧
    ((SMap.get (fun _ => Tier.blank) m k).sealed ≠ Tier.blank →
      SMap.get (fun _ => Tier.blank) (sealedTiers m) k = (SMap.get (fun _ => Tier.blank) m k).sealed) := by
  induction m with
  | nil => exact ⟨rfl, rfl, fun h => absurd rfl h⟩
  | cons e m ih =>
    obtain ⟨j, w⟩ := e
    by_cases hw : w.sealed = Tier.blank
    · have hdrop : sealedTiers ((j, w) :: m) = sealedTiers m := List.filter_cons_of_neg (by simpa using hw)
      obtain ⟨hmapped, hrole, hcells⟩ := ih
      rw [hdrop]
      refine ⟨hmapped, hrole, fun h => ?_⟩
      by_cases hj : j = k
      · simp only [SMap.get, if_pos hj] at h
        exact absurd hw h
      · simp only [SMap.get, if_neg hj] at h ⊢
        exact hcells h
    · have hkeep : sealedTiers ((j, w) :: m) = (j, w.sealed) :: sealedTiers m := List.filter_cons_of_pos (by simpa using hw)
      rw [hkeep]
      by_cases hj : j = k
      · have hget : ∀ (v : Tier) l, SMap.get (fun _ => Tier.blank) ((j, v) :: l) k = v := fun _ _ => if_pos hj
        rw [hget, hget]
        exact ⟨rfl, rfl, fun _ => rfl⟩
      · simpa only [SMap.get, if_neg hj] using ih

/-! ### The state after a reset -/

theorem State.dieReset_disarmed (s : State) (warm : Option Nat) :
    s.dieReset false warm =
      { State.reset with
        pending := s.pending, freeCtr := s.freeCtr, tiers := sealedTiers s.tiers, pins := s.pins
        boot := { State.reset.boot with
          store := s.boot.store, log := s.boot.log, logNext := s.boot.logNext, seq := s.boot.seq
          startNo := s.boot.startNo, updOpen := s.boot.updOpen, warm := warm }
        therm := { State.reset.therm with latched := s.therm.latched, off := s.therm.off } } := by
  unfold State.dieReset
  cases s.faults.armed <;> rfl

theorem resetKeeps_dieReset_disarmed (s : State) (warm : Option Nat) : resetKeeps s (s.dieReset false warm) := by
  rw [State.dieReset_disarmed]
  exact ⟨rfl, rfl, rfl, rfl, rfl, rfl, rfl, rfl, rfl, fun core eng k => get_sealedTiers s.tiers (tierKey core eng k)⟩

/-- The registers show an injection that stays armed, and the count of injections before the reset (R409, R424). -/
def State.showArmed (s : State) (a : Armed) (hits : Nat) : State :=
  let s := (s.put INJ_STAT_ARMED 1).put INJ_HIT_COUNT hits
  if pointOnCore a.point ∨ pointOnEngine a.point then
    (s.putAt (coreI a.core) LINJ_STAT_ARMED 1).putAt (coreI a.core) LINJ_STAT_POINT a.point
  else s

theorem State.showArmed_touches (s : State) (a : Armed) (hits : Nat) :
    RegsOnly [INJ_STAT_ARMED.addr, INJ_HIT_COUNT.addr, LINJ_STAT_ARMED.addr + coreI a.core] s (s.showArmed a hits) := by
  have hput := ((RegsOnly.refl [INJ_STAT_ARMED.addr, INJ_HIT_COUNT.addr, LINJ_STAT_ARMED.addr + coreI a.core] s).putAt
    (i := 0) (f := INJ_STAT_ARMED) (by simp) 1).putAt (i := 0) (f := INJ_HIT_COUNT) (by simp) hits
  exact .ite ((hput.putAt (f := LINJ_STAT_ARMED) (by simp) 1).putAt (f := LINJ_STAT_POINT)
    (by simp [LINJ_STAT_ARMED, LINJ_STAT_POINT]) a.point) hput

/-- A reset that keeps an armed injection differs from one that does not in its registers and in the injection (R409). -/
theorem State.dieReset_armed (s : State) (warm : Option Nat) : ∃ as,
    RegsOnly as { s.dieReset false warm with faults := { State.reset.faults with armed := s.faults.armed } }
      (s.dieReset true warm) := by
  rw [State.dieReset_disarmed]
  unfold State.dieReset
  cases s.faults.armed with
  | none => exact ⟨_, (RegsOnly.refl [INJ_HIT_COUNT.addr] _).putAt (i := 0) (f := INJ_HIT_COUNT) List.mem_cons_self _⟩
  | some a => exact ⟨_, State.showArmed_touches _ a (s.fld INJ_HIT_COUNT)⟩

theorem State.putAt_regs_congr {s t : State} (h : t.regs = s.regs) (i : Nat) (f : Fld) (v : Nat) :
    (t.putAt i f v).regs = (s.putAt i f v).regs := by
  unfold State.putAt State.wr State.rd
  rw [h]

/-- With no injection armed, the registers keep the count of injections and nothing else. -/
theorem State.dieReset_unarmed_regs {s : State} (h : s.faults.armed = none) (warm : Option Nat) :
    (s.dieReset true warm).regs = (State.reset.put INJ_HIT_COUNT (s.fld INJ_HIT_COUNT)).regs := by
  unfold State.dieReset
  rw [h]
  exact State.putAt_regs_congr rfl 0 INJ_HIT_COUNT _

/-! ### The obligation -/

theorem exec_perstNAssert_powered {s : State} (h : s.pins.pwrgd = true) :
    exec .perstNAssert s =
      .next { s.dieReset false (some 1) with pins := { (s.dieReset false (some 1)).pins with perstN := false } } := by
  show execPerstNAssert s = _
  unfold execPerstNAssert
  rw [if_pos h]

theorem exec_mrstNAssert_powered {s : State} (h : s.pins.pwrgd = true) (hlatch : s.therm.latched = false) :
    exec .mrstNAssert s =
      .next { s.dieReset true (some 2) with pins := { (s.dieReset true (some 2)).pins with mrstN := false } } := by
  have hcold : ¬(s.therm.latched = true ∧ s.pins.inputOn = true) := by simp [hlatch]
  show execMrstNAssert s = _
  unfold execMrstNAssert
  rw [if_neg hcold, if_pos h]

/-- Settles O49: every reset leaves the volatile state as at reset, and the tiers' cells and the boot store as they were;
MRST_N alone keeps an armed injection. -/
theorem resetsEraseAllButTheCells : Obligations.ResetsEraseAllButTheCells := by
  intro s
  refine ⟨?_, fun hgood => ⟨?_, fun hlatch => ?_⟩⟩
  · have hreset := resetKeeps_dieReset_disarmed s none
    refine ⟨_, rfl, hreset, ?_⟩
    rw [State.dieReset_disarmed]
    exact ⟨rfl, rfl, rfl, rfl⟩
  · have hreset := resetKeeps_dieReset_disarmed s (some 1)
    refine ⟨_, exec_perstNAssert_powered hgood, hreset, ?_⟩
    rw [State.dieReset_disarmed]
    exact ⟨rfl, rfl, rfl, rfl⟩
  · have hreset := resetKeeps_dieReset_disarmed s (some 2)
    obtain ⟨as, -, harmed⟩ := s.dieReset_armed (some 2)
    refine ⟨_, exec_mrstNAssert_powered hgood hlatch, ?_, ?_, ?_, rfl, fun hnone => ?_⟩
    · rw [harmed]
      exact hreset
    · rw [harmed, State.dieReset_disarmed]
    · rw [harmed]
    · intro a ha
      show SMap.get regReset (s.dieReset true (some 2)).regs a = _
      rw [State.dieReset_unarmed_regs hnone]
      exact State.rd_put_ne State.reset INJ_HIT_COUNT _ a (List.ne_of_not_mem_cons ha)

end Sys2Proof.Machine
end

section
/-! The bytes of the core stores and of the stacks (R160, R166): what a read returns after a write, and what a write leaves. -/
namespace Sys2Proof.Machine

/-! ### Runs of a sparse map -/

section
variable {α : Type} (d : Nat → α) (m : SMap α)

theorem SMap.getRange_eq_map (k n : Nat) : SMap.getRange d m k n = (List.range n).map (fun j => SMap.get d m (k + j)) := by
  induction n generalizing k with
  | zero => rfl
  | succ n ih =>
    rw [List.range_succ_eq_map, List.map_cons, List.map_map]
    show SMap.get d m k :: SMap.getRange d m (k + 1) n = _
    rw [ih]
    congr 1
    refine List.map_congr_left fun j _ => ?_
    show SMap.get d m (k + 1 + j) = SMap.get d m (k + (j + 1))
    congr 1
    omega

@[simp] theorem SMap.length_getRange (k n : Nat) : (SMap.getRange d m k n).length = n := by
  rw [SMap.getRange_eq_map, List.length_map, List.length_range]

variable [DecidableEq α]

theorem SMap.get_setRange_outside (k j : Nat) (l : List α) (h : ¬(k ≤ j ∧ j < k + l.length)) :
    SMap.get d (SMap.setRange d m k l) j = SMap.get d m j := by
  induction l generalizing m k with
  | nil => rfl
  | cons v vs ih =>
    rw [List.length_cons] at h
    refine (ih (SMap.set d m k v) (k + 1) (by omega)).trans ?_
    rw [SMap.get_set, if_neg (by omega)]

theorem SMap.get_setRange_inside (k j : Nat) (l : List α) (h : j < l.length) :
    SMap.get d (SMap.setRange d m k l) (k + j) = l[j] := by
  induction l generalizing m k j with
  | nil => cases h
  | cons v vs ih =>
    cases j with
    | zero =>
      refine (SMap.get_setRange_outside d _ (k + 1) (k + 0) vs (by omega)).trans ?_
      rw [SMap.get_set, if_pos (Nat.add_zero k)]
      rfl
    | succ j =>
      have hj : k + (j + 1) = k + 1 + j := by omega
      rw [hj]
      exact ih (SMap.set d m k v) (k + 1) j (Nat.lt_of_succ_lt_succ h)

/-- A read within the values written returns them. -/
theorem SMap.getRange_setRange (k j n : Nat) (l : List α) (h : j + n ≤ l.length) :
    SMap.getRange d (SMap.setRange d m k l) (k + j) n = (l.drop j).take n := by
  rw [SMap.getRange_eq_map]
  refine List.ext_getElem (by simp; omega) fun i hi hi' => ?_
  rw [List.length_map, List.length_range] at hi
  rw [List.getElem_map, List.getElem_range, List.getElem_take, List.getElem_drop, Nat.add_assoc]
  exact SMap.get_setRange_inside d m k (j + i) l (by omega)

end

/-! ### Core stores -/

theorem storeKey_add (core addr j : Nat) : storeKey core (addr + j) = storeKey core addr + j :=
  (Nat.add_assoc _ addr j).symm

theorem State.loadBytes_of_store {s t : State} (h : t.store = s.store) (core addr n : Nat) :
    t.loadBytes core addr n = s.loadBytes core addr n := by
  unfold State.loadBytes
  rw [h]

@[simp] theorem State.length_loadBytes (s : State) (core addr n : Nat) : (s.loadBytes core addr n).length = n := by
  unfold State.loadBytes
  rw [List.length_append, SMap.length_getRange, List.length_map, List.length_range]
  omega

/-- A read that ends within the core store returns the bytes listed. -/
theorem State.loadBytes_within (s : State) {core addr n : Nat} (h : addr + n ≤ storeSize) :
    s.loadBytes core addr n = SMap.getRange (fun _ => 0) s.store (storeKey core addr) n := by
  have hmin : min n (storeSize - addr) = n := by omega
  have hrest : n - (storeSize - addr) = 0 := by omega
  unfold State.loadBytes
  rw [hmin, hrest]
  exact List.append_nil _

theorem State.store_storeBytes (s : State) {core addr : Nat} {bs : List Byte} (h : addr + bs.length ≤ storeSize) :
    (s.storeBytes core addr bs).store = SMap.setRange (fun _ => 0) s.store (storeKey core addr) bs := by
  have htake : bs.take (storeSize - addr) = bs := List.take_of_length_le (by omega)
  unfold State.storeBytes
  rw [htake]

/-- A read within the bytes just written. -/
theorem State.loadBytes_storeBytes (s : State) {core addr j n : Nat} {bs : List Byte} (h : addr + bs.length ≤ storeSize)
    (hj : j + n ≤ bs.length) : (s.storeBytes core addr bs).loadBytes core (addr + j) n = (bs.drop j).take n := by
  rw [State.loadBytes_within _ (by omega), s.store_storeBytes h, storeKey_add]
  exact SMap.getRange_setRange _ _ (storeKey core addr) j n bs hj

/-- A write reaches no byte outside the range of its bytes. -/
theorem State.storeBytes_kept (s : State) (core addr : Nat) {bs : List Byte} {n : Nat} (h : bs.length ≤ n) :
    storeKept s (s.storeBytes core addr bs) core addr n := by
  intro k hk
  refine SMap.get_setRange_outside _ _ _ _ _ fun hin => hk ⟨hin.1, ?_⟩
  have hlen : (bs.take (storeSize - addr)).length ≤ bs.length := by
    rw [List.length_take]
    exact Nat.min_le_right _ _
  omega

@[simp] theorem State.storeBytes_regs (s : State) (core addr : Nat) (bs : List Byte) :
    (s.storeBytes core addr bs).regs = s.regs := rfl
@[simp] theorem State.storeBytes_sched (s : State) (core addr : Nat) (bs : List Byte) :
    (s.storeBytes core addr bs).sched = s.sched := rfl
@[simp] theorem State.storeBytes_lines (s : State) (core addr : Nat) (bs : List Byte) :
    (s.storeBytes core addr bs).mem.lines = s.mem.lines := rfl
@[simp] theorem State.storeBytes_stack (s : State) (core addr : Nat) (bs : List Byte) :
    (s.storeBytes core addr bs).mem.stack = s.mem.stack := rfl

/-! ### Stacks -/

/-- A read of all the bytes just written. -/
theorem State.stackRead_stackWrite (s : State) (addr : Nat) (bs : List Byte) :
    (s.stackWrite addr bs).stackRead addr bs.length = bs := by
  have hread := SMap.getRange_setRange (fun _ => 0) s.mem.stack addr 0 bs.length bs (by omega)
  rwa [Nat.add_zero, List.drop_zero, List.take_length] at hread

@[simp] theorem State.length_stackRead (s : State) (addr n : Nat) : (s.stackRead addr n).length = n :=
  SMap.length_getRange _ _ _ _

/-! ### Words of several bytes -/

@[simp] theorem length_leBytes (n v : Nat) : (leBytes n v).length = n := by
  induction n generalizing v with
  | zero => rfl
  | succ n ih => exact congrArg (· + 1) (ih (v / 256))

/-- The value of a number's bytes is the number, without what lies beyond them. -/
theorem leNat_leBytes (n v : Nat) : leNat (leBytes n v) = v % 256 ^ n := by
  induction n generalizing v with
  | zero => simp [leBytes, leNat, Nat.mod_one]
  | succ n ih =>
    show (BitVec.ofNat 8 v).toNat + 256 * leNat (leBytes n (v / 256)) = _
    rw [ih, BitVec.toNat_ofNat, pow_succ' 256 n, Nat.mod_mul]

/-- The pieces of one length that make up a list. -/
theorem take_drop_flatMap {α β : Type} (f : α → List β) (n : Nat) (hf : ∀ x, (f x).length = n) (l : List α) (k : Nat)
    (hk : k < l.length) : ((l.flatMap f).drop (n * k)).take n = f l[k] := by
  induction l generalizing k with
  | nil => cases hk
  | cons x l ih =>
    rw [List.flatMap_cons]
    cases k with
    | zero => simp [hf x]
    | succ k =>
      have hskip : n * (k + 1) = (f x).length + n * k := by rw [hf, Nat.mul_succ, Nat.add_comm]
      rw [hskip, List.drop_append, List.drop_of_length_le (Nat.le_add_right _ _), List.nil_append, Nat.add_sub_cancel_left]
      exact ih k (Nat.lt_of_succ_lt_succ hk)

theorem length_flatMap_const {α β : Type} (f : α → List β) (n : Nat) (hf : ∀ x, (f x).length = n) (l : List α) :
    (l.flatMap f).length = n * l.length := by
  induction l with
  | nil => rfl
  | cons x l ih => rw [List.flatMap_cons, List.length_append, hf, ih, List.length_cons, Nat.mul_succ, Nat.add_comm]

theorem State.vecElem_of_store {s t : State} (h : t.store = s.store) (core : Nat) (x : VecIn) (k : Nat) :
    t.vecElem core x k = s.vecElem core x k := by
  unfold State.vecElem State.elem
  simp only [State.loadBytes_of_store h]

theorem length_storeF32 (l : List FpBits) : (l.flatMap (fun y => leBytes 4 y.toNat)).length = 4 * l.length :=
  length_flatMap_const _ 4 (fun _ => length_leBytes 4 _) l

/-- FP32 words in the core store read as they were written. -/
theorem State.vecElem_storeF32 (s : State) {core out : Nat} {l : List FpBits} (h : out + 4 * l.length ≤ storeSize) {k : Nat}
    (hk : k < l.length) : (s.storeF32 core out l).vecElem core ⟨.f32, out⟩ k = l[k] := by
  show BitVec.ofNat 32 (leNat ((s.storeF32 core out l).loadBytes core (out + 4 * k) 4)) = _
  unfold State.storeF32
  rw [State.loadBytes_storeBytes _ (by rwa [length_storeF32]) (by rw [length_storeF32]; omega),
    take_drop_flatMap _ 4 (fun _ => length_leBytes 4 _) l k hk, leNat_leBytes]
  refine BitVec.eq_of_toNat_eq ?_
  have hlt := l[k].isLt
  rw [BitVec.toNat_ofNat]
  omega

@[simp] theorem State.storeF32_regs (s : State) (core out : Nat) (l : List FpBits) : (s.storeF32 core out l).regs = s.regs := rfl
@[simp] theorem State.storeF32_sched (s : State) (core out : Nat) (l : List FpBits) :
    (s.storeF32 core out l).sched = s.sched := rfl
@[simp] theorem State.storeF32_stack (s : State) (core out : Nat) (l : List FpBits) :
    (s.storeF32 core out l).mem.stack = s.mem.stack := rfl

theorem State.storeF32_kept (s : State) (core out : Nat) (l : List FpBits) :
    storeKept s (s.storeF32 core out l) core out (4 * l.length) := s.storeBytes_kept core out (length_storeF32 l).le

end Sys2Proof.Machine
end

section
/-! Scheduled operations that run undisturbed (R194, R195): their start, what it leaves as it was, and the arrival of their rows
in the OUT token. -/
namespace Sys2Proof.Machine

/-! ### The input tokens taken -/

@[simp] theorem State.consume_store (s : State) (i : Issue) : (s.consume i).store = s.store :=
  foldl_leaves State.store _ _ _ fun _ _ => rfl
@[simp] theorem State.consume_mem (s : State) (i : Issue) : (s.consume i).mem = s.mem :=
  foldl_leaves State.mem _ _ _ fun _ _ => rfl

theorem instNewer_mod (inst : Nat) : instNewer inst (inst % 256) = false := by
  have hd : (inst % 256 + 256 - inst % 256 % 256) % 256 = 0 := by omega
  unfold instNewer
  rw [hd]
  rfl

/-- A token that was moved to an instance is not moved again. -/
theorem Token.instNewer_forInst (t : Token) (inst : Nat) : instNewer inst (t.forInst inst).inst = false := by
  by_cases h : instNewer inst t.inst = true
  · have hinst : (t.forInst inst).inst = inst % 256 := congrArg Token.inst (if_pos h)
    rw [hinst, instNewer_mod]
  · rw [show t.forInst inst = t from if_neg h]
    exact Bool.eq_false_of_not_eq_true h

/-- The first consuming issue leaves the rows that the token expects. -/
theorem Token.expected_taken (t : Token) (inst : Nat) : ((t.taken inst).forInst inst).expected = (t.forInst inst).expected := by
  have hmoved := t.instNewer_forInst inst
  have hstays : ∀ u : Token, u.inst = (t.forInst inst).inst → (u.forInst inst).expected = u.expected := fun u hu =>
    congrArg Token.expected (if_neg (by rw [hu, hmoved]; exact Bool.false_ne_true))
  unfold Token.taken
  dsimp only
  split
  · exact hstays _ rfl
  · exact hstays _ rfl

theorem State.token_setToken_ne (s : State) (core tok n : Nat) (t : Token) (h : tok ≠ n) :
    (s.setToken core n t).token core tok = s.token core tok :=
  (SMap.get_set _ _ _ _ _).trans (if_neg (by unfold tokKey; omega))

/-- The rows that an issue's OUT token expects stay as its input tokens are taken. -/
theorem State.expected_consume (s : State) (i : Issue) : ((s.consume i).outToken i).expected = (s.outToken i).expected := by
  unfold State.consume
  generalize i.ins.filter (· ≠ 255) = l
  refine foldl_leaves (fun u : State => (u.outToken i).expected) _ l s fun u n => ?_
  show (((u.setToken i.core n ((u.token i.core n).taken i.inst)).token i.core i.out).forInst i.inst).expected =
    ((u.token i.core i.out).forInst i.inst).expected
  by_cases hn : i.out = n
  · subst hn
    rw [State.token_setToken, Token.expected_taken]
  · rw [State.token_setToken_ne _ _ _ _ _ hn]

theorem State.outRows_consume (s : State) (i : Issue) : (s.consume i).outRows i = s.outRows i := by
  unfold State.outRows
  rw [State.expected_consume]

theorem State.opRows_consume (s : State) (i : Issue) (row0 m : Nat) : (s.consume i).opRows i row0 m = s.opRows i row0 m := by
  unfold State.opRows
  rw [State.outRows_consume]

/-! ### The start -/

/-- With nothing armed and no error found, a read of the core store changes nothing. -/
theorem State.csRead_clean {s : State} (h : s.faults.armed = none) (core : Nat) (ranges : List (Nat × Nat)) :
    s.csRead core ranges [] = (s, s.csPoisoned core ranges) := by
  unfold State.csRead
  cases ranges with
  | nil => rfl
  | cons r rs =>
    dsimp only
    rw [State.tryInject_disarmed h]
    rfl

/-- What an undisturbed operation begins with: the void rows of its inputs, no bushel, no poisoned data, and the flagged rows. -/
def State.begun (s : State) (i : Issue) (v : BitVec 32) : Begun := ⟨v, none, false, s.flagsIn i⟩

theorem State.beginOp_clean {s : State} {i : Issue} {a : Agent} {v : BitVec 32} {ranges : List (Nat × Nat)}
    (h : runsClean s i a v ranges) : s.beginOp i ranges [] = (s.consume i, some (s.begun i v)) := by
  obtain ⟨-, hready, harmed, -, hpoison⟩ := h
  have hread := State.csRead_clean (s := s.consume i) ((congrArg Faults.armed (s.consume_faults i)).trans harmed) i.core ranges
  have hsound : (s.consume i).csPoisoned i.core ranges = false := by
    unfold State.csPoisoned at hpoison ⊢
    rwa [State.consume_mem]
  unfold State.beginOp
  rw [hready]
  dsimp only
  rw [hread, hsound]
  rfl

theorem State.untrustedUnit_none {s : State} (h : s.faults.untrusted = []) (core unit : Nat) : s.untrustedUnit core unit = false := by
  unfold State.untrustedUnit
  rw [h]
  rfl

/-! ### The delivery -/

@[simp] theorem State.produce_store (s : State) (i : Issue) (a v f : BitVec 32) : (s.produce i a v f).store = s.store :=
  ite_leaves rfl rfl
@[simp] theorem State.produce_mem (s : State) (i : Issue) (a v f : BitVec 32) : (s.produce i a v f).mem = s.mem :=
  ite_leaves rfl rfl

theorem State.arrived_produce_of (s : State) (i : Issue) {rows : BitVec 32} (v f : BitVec 32) (h : i.out ≠ 255) {k : Nat}
    (hk : rows.getLsbD k = true) : ((s.produce i rows v f).token i.core i.out).arrived.getLsbD k = true := by
  unfold State.produce
  rw [if_neg h, State.token_setToken]
  simp [hk]

theorem State.flagged_produce_of (s : State) (i : Issue) (rows v : BitVec 32) {f : BitVec 32} (h : i.out ≠ 255) {k : Nat}
    (hk : f.getLsbD k = true) : ((s.produce i rows v f).token i.core i.out).flagged.getLsbD k = true := by
  unfold State.produce
  rw [if_neg h, State.token_setToken]
  simp [hk]

/-- `t` is `u` once the rows of an issue of `s` have been delivered. -/
structure Delivers (s u t : State) (i : Issue) (rows : BitVec 32) : Prop where
  store : t.store = u.store
  mem : t.mem = u.mem
  regs : t.regs = u.regs
  arrived : rowsArrived s t i rows

/-- The result of sound data is produced, and nothing else happens. -/
theorem State.finishOp_sound {u : State} {i : Issue} {b : Begun} (hbad : b.bad = false) (rows f : BitVec 32) (allVoid : Bool) :
    ∃ exp v, u.finishOp i b rows f allVoid = u.produce i exp v f ∧ (i.out ≠ 255 → exp = rows &&& (u.outToken i).expected) := by
  unfold State.finishOp
  rw [hbad]
  exact ⟨_, _, rfl, fun h => if_neg h⟩

/-- The rows of sound data arrive, as far as the OUT token expects them. -/
theorem finishOp_delivers {s u : State} {i : Issue} {b : Begun} (hbad : b.bad = false) (hsched : u.sched = (s.consume i).sched)
    (rows f : BitVec 32) (allVoid : Bool) : Delivers s u (u.finishOp i b rows f allVoid) i rows := by
  obtain ⟨exp, v, heq, hexp⟩ := State.finishOp_sound (u := u) (i := i) hbad rows f allVoid
  have htoken : (u.outToken i).expected = (s.outToken i).expected := by
    rw [← s.expected_consume i]
    unfold State.outToken State.token
    rw [hsched]
  rw [heq]
  refine ⟨u.produce_store .., u.produce_mem .., u.produce_regs .., fun hout k hk => u.arrived_produce_of i v f hout ?_⟩
  rwa [hexp hout, htoken]

theorem finishUnit_delivers {s u : State} {i : Issue} {b : Begun} (hbad : b.bad = false) (hsched : u.sched = (s.consume i).sched)
    (rows f : BitVec 32) (allVoid : Bool) : Delivers s u (u.finishUnit i b rows f allVoid) i rows :=
  finishOp_delivers hbad hsched rows _ allVoid

theorem Delivers.outArrived {s u t : State} {i : Issue} (h : Delivers s u t i (s.outRows i)) : outArrived s t i := by
  intro hout k hk
  have hrows : s.outRows i = (s.outToken i).expected := if_neg hout
  exact h.arrived hout k (by rwa [hrows])

/-- A digital unit's result carries the flags of its inputs. -/
theorem flagsCarried_finishUnit {s u : State} {i : Issue} (v f : BitVec 32) (allVoid : Bool) :
    flagsCarried s (u.finishUnit i (s.begun i v) (s.outRows i) f allVoid) i := by
  intro hout k hk
  obtain ⟨exp, x, heq, -⟩ := State.finishOp_sound (u := u) (i := i) (b := s.begun i v) rfl (s.outRows i)
    ((f ||| s.flagsIn i) &&& s.outRows i) allVoid
  have hrows : s.outRows i = (s.outToken i).expected := if_neg hout
  have hflag : ((f ||| s.flagsIn i) &&& s.outRows i).getLsbD k = true := by
    rw [BitVec.getLsbD_and, Bool.and_eq_true] at hk
    rw [hrows, BitVec.getLsbD_and, BitVec.getLsbD_or, hk.1, hk.2, Bool.or_true]
    rfl
  show ((u.finishOp i (s.begun i v) (s.outRows i) ((f ||| s.flagsIn i) &&& s.outRows i) allVoid).token i.core i.out).flagged.getLsbD
    k = true
  rw [heq]
  exact u.flagged_produce_of i exp x hout hflag

theorem storeKept_of_store {s s' t t' : State} {core addr n : Nat} (h : storeKept s t core addr n) (hs : s'.store = s.store)
    (ht : t'.store = t.store) : storeKept s' t' core addr n := by
  intro k hk
  rw [hs, ht]
  exact h k hk

end Sys2Proof.Machine
end

section
/-! The vector unit and the matrix unit (R155 to R158): elementwise operations, reductions and products store their FP32 results
and nothing else (O15). -/
namespace Sys2Proof.Machine

/-! ### The vector unit -/

/-- From `s` to `t`, an undisturbed operation of the vector unit has stored the FP32 words `l` from `out` on, and delivered the
rows of its OUT token. -/
structure StoresWords (s t : State) (i : Issue) (out : Nat) (l : List FpBits) : Prop where
  words : ∀ k (hk : k < l.length), t.vecElem i.core ⟨.f32, out⟩ k = l[k]
  store : storeKept s t i.core out (4 * l.length)
  arrived : outArrived s t i
  flagged : flagsCarried s t i
  regs : t.regs = s.regs
  stack : t.mem.stack = s.mem.stack

/-- The state after an operation of the vector unit that stores FP32 words. -/
def State.vectorDone (s : State) (i : Issue) (v : BitVec 32) (out : Nat) (l : List FpBits) : State :=
  ((s.consume i).storeF32 i.core out l).finishUnit i (s.begun i v) (s.outRows i) 0 false

theorem State.vectorDone_stores (s : State) (i : Issue) (v : BitVec 32) {out : Nat} {l : List FpBits}
    (h : out + 4 * l.length ≤ storeSize) : StoresWords s (s.vectorDone i v out l) i out l := by
  have hdone : Delivers s _ (s.vectorDone i v out l) i (s.outRows i) :=
    finishUnit_delivers rfl ((s.consume i).storeF32_sched i.core out l) _ _ _
  have hflagged : flagsCarried s (s.vectorDone i v out l) i := flagsCarried_finishUnit v 0 false
  generalize s.vectorDone i v out l = t at hdone hflagged
  constructor
  case words =>
    intro k hk
    rw [State.vecElem_of_store hdone.store]
    exact (s.consume i).vecElem_storeF32 h hk
  case store => exact storeKept_of_store ((s.consume i).storeF32_kept i.core out l) (s.consume_store i).symm hdone.store
  case arrived => exact hdone.outArrived
  case flagged => exact hflagged
  case regs => rw [hdone.regs, State.storeF32_regs, State.consume_regs]
  case stack => rw [hdone.mem, State.storeF32_stack, State.consume_mem]

theorem exec_vectorOp (i : Issue) (op : VecOp) (ecc : Upsets) (s : State) : exec (.vectorOp i op ecc) s = execVectorOp i op ecc s :=
  rfl

section
variable {s : State} {i : Issue} {v : BitVec 32}

theorem exec_vectorOp_elementwise {f : EwFn} {n : Nat} {x y z : VecIn} {out : Nat}
    (h : runsClean s i .vector v (s.vecRanges i.core (.elementwise f n x y z out .f32))) :
    exec (.vectorOp i (.elementwise f n x y z out .f32) []) s = .next (s.vectorDone i v out
      ((List.range n).map (fun k => ewApply f (s.vecElem i.core x k) (s.vecElem i.core y k) (s.vecElem i.core z k)))) := by
  have hbegin := State.beginOp_clean h
  obtain ⟨hruns, -, -, htrust, -⟩ := h
  have htrusted := State.untrustedUnit_none ((congrArg Faults.untrusted (s.consume_faults i)).trans htrust) i.core 19
  rw [exec_vectorOp]
  unfold execVectorOp State.vectorDone State.storeF32
  dsimp only
  rw [hruns, hbegin]
  simp only [Bool.not_true, Bool.false_eq_true, if_false, htrusted, State.outRows_consume,
    State.vecElem_of_store (s.consume_store i), List.flatMap_map]
  rfl

theorem exec_vectorOp_reduction {mx : Bool} {n : Nat} {x : VecIn} {out : Nat}
    (h : runsClean s i .vector v (s.vecRanges i.core (.reduction mx n x out))) :
    exec (.vectorOp i (.reduction mx n x out) []) s =
      .next (s.vectorDone i v out [if mx then vMaxOf (s.vec i.core x n) else vSum (s.vec i.core x n)]) := by
  have hbegin := State.beginOp_clean h
  have hvec : (s.consume i).vec i.core x n = s.vec i.core x n :=
    List.map_congr_left fun k _ => State.vecElem_of_store (s.consume_store i) i.core x k
  obtain ⟨hruns, -, -, htrust, -⟩ := h
  have htrusted := State.untrustedUnit_none ((congrArg Faults.untrusted (s.consume_faults i)).trans htrust) i.core 19
  rw [exec_vectorOp]
  unfold execVectorOp State.vectorDone
  dsimp only
  rw [hruns, hbegin]
  simp only [Bool.not_true, Bool.false_eq_true, if_false, htrusted, State.outRows_consume, hvec]

end

theorem vectorOpStoresItsResults : VectorOpStoresItsResults := by
  refine ⟨fun s i v f n x y z out hclean hout => ?_, fun s i v mx n x out hclean hout => ?_⟩
  · have hlen : ((List.range n).map (fun k =>
        ewApply f (s.vecElem i.core x k) (s.vecElem i.core y k) (s.vecElem i.core z k))).length = n := by simp
    have hdone := s.vectorDone_stores i v (out := out) (by rwa [hlen])
    have hkept := hdone.store
    rw [hlen] at hkept
    refine ⟨_, exec_vectorOp_elementwise hclean, fun k hk => ?_, hkept, hdone.arrived, hdone.flagged, hdone.regs, hdone.stack⟩
    rw [hdone.words k (by rwa [hlen]), List.getElem_map, List.getElem_range]
  · have hdone := s.vectorDone_stores i v (out := out)
      (l := [if mx then vMaxOf (s.vec i.core x n) else vSum (s.vec i.core x n)]) hout
    exact ⟨_, exec_vectorOp_reduction hclean, hdone.words 0 Nat.zero_lt_one, hdone.store, hdone.arrived, hdone.flagged,
      hdone.regs, hdone.stack⟩

/-! ### The matrix unit -/

theorem State.dotOut_of_store {s t : State} (h : t.store = s.store) (core : Nat) (a b : MatIn) (k i j : Nat) (acc : FpBits) :
    t.dotOut core a b k i j acc = s.dotOut core a b k i j acc := by
  unfold State.dotOut State.chunkSum State.mat State.matScale State.elem
  simp only [State.loadBytes_of_store h]

/-- The output of a product at row i and column j, with its accumulator word where one is named (R156). -/
def State.dotAt (s : State) (core : Nat) (a b : MatIn) (acc : Option Nat) (k n i j : Nat) : FpBits × Bool :=
  s.dotOut core a b k i j (match acc with
    | some x => s.vecElem core ⟨.f32, x⟩ (i * n + j)
    | none => 0)

theorem State.dotAt_of_store {s t : State} (h : t.store = s.store) (core : Nat) (a b : MatIn) (acc : Option Nat) (k n i j : Nat) :
    t.dotAt core a b acc k n i j = s.dotAt core a b acc k n i j := by
  unfold State.dotAt
  simp only [State.dotOut_of_store h, State.vecElem_of_store h]

/-- The outputs of a product, row after row. -/
def State.dots (s : State) (core : Nat) (a b : MatIn) (acc : Option Nat) (k m n : Nat) : List (FpBits × Bool) :=
  (List.range m).flatMap (fun i => (List.range n).map (fun j => s.dotAt core a b acc k n i j))

theorem State.length_dots (s : State) (core : Nat) (a b : MatIn) (acc : Option Nat) (k m n : Nat) :
    (s.dots core a b acc k m n).length = m * n := by
  have hrow : ∀ i : Nat, ((List.range n).map (fun j => s.dotAt core a b acc k n i j)).length = n := fun i => by simp
  unfold State.dots
  rw [length_flatMap_const _ n hrow, List.length_range, Nat.mul_comm]

/-- Row i begins at word i × n. -/
theorem State.getElem?_dots (s : State) (core : Nat) (a b : MatIn) (acc : Option Nat) (k : Nat) {m n i j : Nat} (hi : i < m)
    (hj : j < n) : (s.dots core a b acc k m n)[i * n + j]? = some (s.dotAt core a b acc k n i j) := by
  have hlen : ∀ i : Nat, ((List.range n).map (fun j => s.dotAt core a b acc k n i j)).length = n := fun i => by simp
  have hrow := take_drop_flatMap _ n hlen (List.range m) i (by rwa [List.length_range])
  have hword := congrArg (fun l => l[j]?) hrow
  simpa [State.dots, List.getElem?_take, List.getElem?_drop, hj, Nat.mul_comm n i] using hword

/-- A product with FP32 results: its flags, its words in the core store, its rows delivered. -/
theorem State.product_f32 (s : State) (q : Issue) (g : Begun) (rows : BitVec 32) (isVoid : Bool) (row0 m k n : Nat) (a b : MatIn)
    (acc : Option Nat) (out : Nat) : ∃ ovf bad f,
    s.product q g rows isVoid row0 m k n a b acc out .f32 =
      (((s.raiseIfAt (coreI q.core) MXU_FLAG_OVF ovf).raiseIfAt (coreI q.core) MXU_FLAG_BAD_IN bad).storeF32 q.core out
        ((s.dots q.core a b acc k m n).map Prod.fst)).finishUnit q g rows f isVoid := by
  unfold State.storeF32
  rw [List.flatMap_map]
  exact ⟨_, _, _, rfl⟩

theorem exec_matrixOp (i : Issue) (op : MatOp) (ecc : Upsets) (res : Bool) (s : State) :
    exec (.matrixOp i op ecc res) s = execMatrixOp i op ecc res s := rfl

section
variable {s : State} {q : Issue} {v : BitVec 32} {row0 m k n : Nat} {a b : MatIn} {acc : Option Nat} {out : Nat}

theorem exec_matrixOp_product (h : runsClean s q .matrix v (s.matRanges q.core (.product row0 m k n a b acc out .f32)))
    (hpair : pairOk a.fmt b.fmt = true) :
    exec (.matrixOp q (.product row0 m k n a b acc out .f32) [] false) s =
      .next ((s.consume q).product q (s.begun q v) (s.opRows q row0 m) false row0 m k n a b acc out .f32) := by
  have hbegin := State.beginOp_clean h
  obtain ⟨hruns, -, harmed, htrust, -⟩ := h
  have hinj := State.tryInject_disarmed ((congrArg Faults.armed (s.consume_faults q)).trans harmed) 0x03 q.core 0
  have htrusted := State.untrustedUnit_none ((congrArg Faults.untrusted (s.consume_faults q)).trans htrust) q.core 8
  have haccepted : matAccepted (.product row0 m k n a b acc out .f32) = true := by
    simp [matAccepted, hpair]
  rw [exec_matrixOp]
  unfold execMatrixOp
  dsimp only
  rw [hruns, haccepted, hbegin]
  simp only [hinj, State.matRows, State.opRows_consume, Option.isSome_none, Bool.or_false, Bool.false_eq_true, if_false, htrusted,
    Bool.not_true]

theorem exec_matrixOp_unlisted (hpair : pairOk a.fmt b.fmt = false) (fmt : NumFmt) (ecc : Upsets) (res : Bool) :
    exec (.matrixOp q (.product row0 m k n a b acc out fmt) ecc res) s = .next s := by
  have hrefused : matAccepted (.product row0 m k n a b acc out fmt) = false := by
    simp [matAccepted, hpair]
  rw [exec_matrixOp]
  unfold execMatrixOp
  rw [hrefused, Bool.not_false, Bool.or_true, if_pos rfl]

end

theorem matrixProductStoresItsDots : MatrixProductStoresItsDots := by
  refine ⟨fun s q v row0 m k n a b acc out hclean hpair hout => ?_,
    fun s q row0 m k n a b acc out fmt ecc res hpair => exec_matrixOp_unlisted hpair fmt ecc res⟩
  obtain ⟨ovf, bad, f, hproduct⟩ := (s.consume q).product_f32 q (s.begun q v) (s.opRows q row0 m) false row0 m k n a b acc out
  have hlen : (((s.consume q).dots q.core a b acc k m n).map Prod.fst).length = m * n := by
    rw [List.length_map, State.length_dots]
  refine ⟨_, (exec_matrixOp_product hclean hpair).trans (congrArg _ hproduct), ?_⟩
  have hmarked : RegsOnly [MXU_FLAG_OVF.addr + coreI q.core] (s.consume q)
      (((s.consume q).raiseIfAt (coreI q.core) MXU_FLAG_OVF ovf).raiseIfAt (coreI q.core) MXU_FLAG_BAD_IN bad) :=
    ((RegsOnly.refl _ _).raiseIfAt (f := MXU_FLAG_OVF) List.mem_cons_self ovf).raiseIfAt (f := MXU_FLAG_BAD_IN)
      List.mem_cons_self bad
  generalize ((s.consume q).raiseIfAt (coreI q.core) MXU_FLAG_OVF ovf).raiseIfAt (coreI q.core) MXU_FLAG_BAD_IN bad = u at hmarked
  generalize hwords : ((s.consume q).dots q.core a b acc k m n).map Prod.fst = words at hlen
  have hstore : u.store = s.store := by rw [hmarked.rest]; exact s.consume_store q
  have hmem : u.mem = s.mem := by rw [hmarked.rest]; exact s.consume_mem q
  have hsched : u.sched = (s.consume q).sched := by rw [hmarked.rest]
  have hdone : Delivers s _ ((u.storeF32 q.core out words).finishUnit q (s.begun q v) (s.opRows q row0 m) f false) q _ :=
    finishUnit_delivers rfl ((u.storeF32_sched q.core out words).trans hsched) _ _ _
  generalize (u.storeF32 q.core out words).finishUnit q (s.begun q v) (s.opRows q row0 m) f false = t at hdone
  refine ⟨fun i j hi hj => ?_, ?_, hdone.arrived, ?_, fun r hr => ?_⟩
  · have hk : i * n + j < words.length := by
      rw [hlen]
      calc i * n + j < i * n + n := Nat.add_lt_add_left hj _
        _ = (i + 1) * n := (Nat.succ_mul i n).symm
        _ ≤ m * n := Nat.mul_le_mul_right n hi
    have hdot : words[i * n + j]? = some (s.dotAt q.core a b acc k n i j).1 := by
      rw [← hwords, List.getElem?_map, State.getElem?_dots _ _ _ _ _ _ hi hj, State.dotAt_of_store (s.consume_store q)]
      rfl
    rw [State.vecElem_of_store hdone.store, State.vecElem_storeF32 u (by rwa [hlen]) hk]
    exact Option.some.inj ((List.getElem?_eq_getElem hk).symm.trans hdot)
  · rw [← hlen]
    exact storeKept_of_store (u.storeF32_kept q.core out words) hstore.symm hdone.store
  · rw [hdone.mem, State.storeF32_stack, hmem]
  · unfold State.rd
    rw [hdone.regs, State.storeF32_regs, ← s.consume_regs q]
    exact hmarked.regs r hr

/-- Settles O15: the words are stored and the rows arrive; a format pair that the unit does not take changes nothing. -/
theorem vectorAndMatrixUnits : Obligations.VectorAndMatrixUnits := ⟨vectorOpStoresItsResults, matrixProductStoresItsDots⟩

end Sys2Proof.Machine
end

section
/-! Stack windows (R166 to R170): a window moves exactly its lines and counts them, and a refused one moves none (O16). -/
namespace Sys2Proof.Machine

/-! ### What a window's operations read -/

theorem State.windowRefused_of_boot {s t : State} (h : t.boot = s.boot) (core addr lines : Nat) :
    t.windowRefused core addr lines = s.windowRefused core addr lines := by
  unfold State.windowRefused State.stackRefused State.regionOf
  rw [h]

theorem State.stackRead_of_stack {s t : State} (h : t.mem.stack = s.mem.stack) (addr n : Nat) :
    t.stackRead addr n = s.stackRead addr n := by
  unfold State.stackRead
  rw [h]

theorem State.isSetAt_of_regs {s t : State} (h : t.regs = s.regs) (i : Nat) (f : Fld) : t.isSetAt i f = s.isSetAt i f := by
  unfold State.isSetAt
  rw [State.fldAt_of_regs h]

theorem State.isSetAt_addAt_other (s : State) (i : Nat) (f g : Fld) (n : Nat) (h : f.misses g = true) :
    (s.addAt i f n).isSetAt i g = s.isSetAt i g := by
  unfold State.isSetAt
  rw [State.fldAt_addAt_other s i f g n h]

/-- With nothing armed, a window without errors has no lost line. -/
theorem State.stackErrors_clean {s : State} (h : s.faults.armed = none) (addr : Nat) : s.stackErrors addr [] = (s, false) := by
  unfold State.stackErrors
  dsimp only
  rw [State.tryInject_disarmed h]
  rfl

theorem State.windowRetries_clean {s : State} (h : s.faults.armed = none) (st n : Nat) :
    s.windowRetries st n = s.addAt (stkI st) STK_RETRY_CNT_COUNT n := by
  unfold State.windowRetries
  rw [State.tryInject_disarmed h]
  rfl

/-! ### The three outcomes of a window -/

/-- A write window has sent its lines. -/
def State.linesWritten (s : State) (loc lines addr core : Nat) : State :=
  (s.countLines (stackOf addr) lines).stackWrite addr (s.loadBytes core loc (64 * lines))

/-- A read window has delivered its lines. -/
def State.linesRead (s : State) (addr lines loc retries core : Nat) : State :=
  ((s.addAt (stkI (stackOf addr)) STK_RETRY_CNT_COUNT retries).countLines (stackOf addr) lines).storeBytes core loc
    (s.stackRead addr (64 * lines))

/-- A window is refused. -/
def State.countRefusal (s : State) (addr : Nat) : State := s.addAt (stkI (stackOf addr)) STK_REFUSE_CNT_COUNT 1

@[simp] theorem State.countLines_regs (s : State) (st n : Nat) : (s.countLines st n).regs = s.regs := rfl
@[simp] theorem State.countLines_sched (s : State) (st n : Nat) : (s.countLines st n).sched = s.sched := rfl
@[simp] theorem State.countLines_faults (s : State) (st n : Nat) : (s.countLines st n).faults = s.faults := rfl
@[simp] theorem State.countLines_store (s : State) (st n : Nat) : (s.countLines st n).store = s.store := rfl
@[simp] theorem State.countLines_stack (s : State) (st n : Nat) : (s.countLines st n).mem.stack = s.mem.stack := rfl

theorem State.lines_countLines (s : State) (st n : Nat) :
    SMap.get (fun _ => 0) (s.countLines st n).mem.lines st = SMap.get (fun _ => 0) s.mem.lines st + n :=
  (SMap.get_set _ _ _ _ _).trans (if_pos rfl)

section
variable (s : State) (loc lines addr retries core : Nat)

@[simp] theorem State.linesWritten_store : (s.linesWritten loc lines addr core).store = s.store := rfl
@[simp] theorem State.linesWritten_regs : (s.linesWritten loc lines addr core).regs = s.regs := rfl
@[simp] theorem State.linesWritten_sched : (s.linesWritten loc lines addr core).sched = s.sched := rfl
theorem State.linesWritten_stack : (s.linesWritten loc lines addr core).mem.stack =
    SMap.setRange (fun _ => 0) s.mem.stack addr (s.loadBytes core loc (64 * lines)) := rfl
theorem State.linesWritten_lines : (s.linesWritten loc lines addr core).mem.lines = (s.countLines (stackOf addr) lines).mem.lines :=
  rfl

@[simp] theorem State.linesRead_sched : (s.linesRead addr lines loc retries core).sched = s.sched := by
  rw [State.linesRead, State.storeBytes_sched, State.countLines_sched, State.addAt_sched]
@[simp] theorem State.linesRead_stack : (s.linesRead addr lines loc retries core).mem.stack = s.mem.stack := by
  rw [State.linesRead, State.storeBytes_stack, State.countLines_stack, State.addAt_mem]
theorem State.linesRead_regs : (s.linesRead addr lines loc retries core).regs =
    (s.addAt (stkI (stackOf addr)) STK_RETRY_CNT_COUNT retries).regs := rfl
theorem State.linesRead_lines : SMap.get (fun _ => 0) (s.linesRead addr lines loc retries core).mem.lines (stackOf addr) =
    SMap.get (fun _ => 0) s.mem.lines (stackOf addr) + lines := by
  rw [State.linesRead, State.storeBytes_lines, State.lines_countLines, State.addAt_mem]

/-- The lines of the window, and no other byte of the core's store, are those of the stack. -/
theorem State.linesRead_loads (h : loc + 64 * lines ≤ storeSize) :
    (s.linesRead addr lines loc retries core).loadBytes core loc (64 * lines) = s.stackRead addr (64 * lines) := by
  have hlen := s.length_stackRead addr (64 * lines)
  refine (State.loadBytes_storeBytes _ (j := 0) (by rwa [hlen]) (by rw [hlen]; omega)).trans ?_
  rw [List.drop_zero, List.take_of_length_le hlen.le]

theorem State.linesRead_kept : storeKept s (s.linesRead addr lines loc retries core) core loc (64 * lines) :=
  storeKept_of_store (State.storeBytes_kept _ core loc (s.length_stackRead addr (64 * lines)).le)
    (by rw [State.countLines_store, State.addAt_store]) rfl

@[simp] theorem State.countRefusal_sched : (s.countRefusal addr).sched = s.sched := s.addAt_sched ..
@[simp] theorem State.countRefusal_store : (s.countRefusal addr).store = s.store := s.addAt_store ..
@[simp] theorem State.countRefusal_mem : (s.countRefusal addr).mem = s.mem := s.addAt_mem ..

end

theorem exec_stackWrite (i : Issue) (loc lines addr : Nat) (ecc : Upsets) (s : State) :
    exec (.stackWrite i loc lines addr ecc) s = execStackWrite i loc lines addr ecc s := rfl

theorem exec_stackRead (i : Issue) (addr lines loc : Nat) (ecc : Upsets) (retries : Nat) (late : Bool) (s : State) :
    exec (.stackRead i addr lines loc ecc retries late) s = execStackRead i addr lines loc ecc retries late s := rfl

section
variable {s : State} {i : Issue} {v : BitVec 32} {addr lines loc : Nat}

theorem exec_stackWrite_moves (h : runsClean s i (.stack (stackOf addr)) v [(loc, 64 * lines)])
    (hin : s.windowRefused i.core addr lines = false) :
    exec (.stackWrite i loc lines addr []) s =
      .next (((s.consume i).linesWritten loc lines addr i.core).finishOp i (s.begun i v) (s.outRows i) 0 false) := by
  have hbegin := State.beginOp_clean h
  have hallowed := (State.windowRefused_of_boot (s.consume_boot i) i.core addr lines).trans hin
  obtain ⟨hruns, -⟩ := h
  rw [exec_stackWrite]
  unfold execStackWrite
  dsimp only
  rw [hruns, hbegin]
  simp only [Bool.not_true, Bool.false_eq_true, if_false, State.outRows_consume, hallowed]
  rfl

theorem exec_stackWrite_refused (h : runsClean s i (.stack (stackOf addr)) v [(loc, 64 * lines)])
    (hout : s.windowRefused i.core addr lines = true) :
    exec (.stackWrite i loc lines addr []) s =
      .next (((s.consume i).countRefusal addr).finishOp i (s.begun i v) (s.outRows i) 0 true) := by
  have hbegin := State.beginOp_clean h
  have hrefused := (State.windowRefused_of_boot (s.consume_boot i) i.core addr lines).trans hout
  obtain ⟨hruns, -⟩ := h
  rw [exec_stackWrite]
  unfold execStackWrite
  dsimp only
  rw [hruns, hbegin]
  simp only [Bool.not_true, Bool.false_eq_true, if_false, if_true, State.outRows_consume, hrefused]
  rfl

theorem exec_stackRead_refused (h : runsClean s i (.stack (stackOf addr)) v []) (hout : s.windowRefused i.core addr lines = true)
    (retries : Nat) (late : Bool) :
    exec (.stackRead i addr lines loc [] retries late) s =
      .next (((s.consume i).countRefusal addr).finishOp i (s.begun i v) (s.outRows i) 0 true) := by
  have hbegin := State.beginOp_clean h
  have hrefused := (State.windowRefused_of_boot (s.consume_boot i) i.core addr lines).trans hout
  obtain ⟨hruns, -⟩ := h
  rw [exec_stackRead]
  unfold execStackRead
  dsimp only
  rw [hruns, hbegin]
  simp only [Bool.not_true, Bool.false_eq_true, if_false, if_true, State.outRows_consume, hrefused]
  rfl

theorem exec_stackRead_moves (h : runsClean s i (.stack (stackOf addr)) v []) (hin : s.windowRefused i.core addr lines = false)
    (hserves : s.isSetAt (stkI (stackOf addr)) STK_STAT_IN_SERVICE = true) (retries : Nat) :
    exec (.stackRead i addr lines loc [] retries false) s =
      .next (((s.consume i).linesRead addr lines loc retries i.core).finishOp i (s.begun i v) (s.outRows i) 0 false) := by
  have hbegin := State.beginOp_clean h
  have hallowed := (State.windowRefused_of_boot (s.consume_boot i) i.core addr lines).trans hin
  obtain ⟨hruns, -, harmed, -⟩ := h
  have harmed' : (s.consume i).faults.armed = none := (congrArg Faults.armed (s.consume_faults i)).trans harmed
  have hretries := State.windowRetries_clean harmed' (stackOf addr) retries
  have herrors := State.stackErrors_clean (s := ((s.consume i).addAt (stkI (stackOf addr)) STK_RETRY_CNT_COUNT retries).countLines
    (stackOf addr) lines) (by rw [State.countLines_faults, State.addAt_faults, harmed']) addr
  have hstays : (((s.consume i).addAt (stkI (stackOf addr)) STK_RETRY_CNT_COUNT retries).countLines (stackOf addr) lines).isSetAt
      (stkI (stackOf addr)) STK_STAT_IN_SERVICE = true := by
    rw [State.isSetAt_of_regs (State.countLines_regs _ _ _), State.isSetAt_addAt_other _ _ _ _ _ (by decide),
      State.isSetAt_of_regs (s.consume_regs i), hserves]
  have hread : (((s.consume i).addAt (stkI (stackOf addr)) STK_RETRY_CNT_COUNT retries).countLines (stackOf addr) lines).stackRead
      addr (64 * lines) = (s.consume i).stackRead addr (64 * lines) :=
    State.stackRead_of_stack (by rw [State.countLines_stack, State.addAt_mem]) _ _
  rw [exec_stackRead]
  unfold execStackRead State.linesRead
  dsimp only
  rw [hruns, hbegin]
  simp only [Bool.not_true, Bool.false_eq_true, if_false, State.outRows_consume, hallowed, hretries, hstays, herrors, hread]

end

/-! ### What the outcomes leave -/

/-- What a window that is refused leaves, of an undisturbed issue. -/
theorem State.refusal_moves_nothing (s : State) (i : Issue) (v : BitVec 32) (addr : Nat) :
    let t := ((s.consume i).countRefusal addr).finishOp i (s.begun i v) (s.outRows i) 0 true
    t.store = s.store ∧ t.mem.stack = s.mem.stack ∧
      t.fldAt (stkI (stackOf addr)) STK_REFUSE_CNT_COUNT =
        min (s.fldAt (stkI (stackOf addr)) STK_REFUSE_CNT_COUNT + 1) STK_REFUSE_CNT_COUNT.top := by
  intro t
  have hdone : Delivers s _ t i (s.outRows i) := finishOp_delivers rfl (State.countRefusal_sched _ addr) _ _ _
  refine ⟨?_, ?_, ?_⟩
  · rw [hdone.store, State.countRefusal_store, State.consume_store]
  · rw [hdone.mem, State.countRefusal_mem, State.consume_mem]
  · rw [State.fldAt_of_regs hdone.regs, ← State.fldAt_of_regs (s.consume_regs i)]
    exact State.fldAt_addAt_same _ _ _ 1 (by decide)

/-! ### The obligation -/

/-- Settles O16: inside the extents the lines move and are counted; a window that is refused is counted, and nothing moves. -/
theorem stackWindowsMoveTheirLines : Obligations.StackWindowsMoveTheirLines := by
  intro s i v addr lines loc
  refine ⟨fun hclean hin => ?_, fun retries hclean hin hserves hdst => ?_, fun retries late hclean hout => ?_,
    fun hclean hout => ?_⟩
  · have hdone : Delivers s _ (((s.consume i).linesWritten loc lines addr i.core).finishOp i (s.begun i v) (s.outRows i) 0 false) i
        (s.outRows i) := finishOp_delivers rfl (State.linesWritten_sched _ loc lines addr i.core) _ _ _
    have hlen : ((s.consume i).loadBytes i.core loc (64 * lines)).length = 64 * lines := State.length_loadBytes _ _ _ _
    refine ⟨_, exec_stackWrite_moves hclean hin, ?_, fun a ha => ?_, ?_, ?_, hdone.outArrived, ?_⟩
    · rw [State.stackRead_of_stack (congrArg Mem.stack hdone.mem), ← State.loadBytes_of_store (s.consume_store i)]
      conv => lhs; rw [← hlen]
      exact State.stackRead_stackWrite _ addr _
    · rw [hdone.mem, State.linesWritten_stack, SMap.get_setRange_outside _ _ _ _ _ (by rwa [hlen]), State.consume_mem]
    · rw [hdone.store, State.linesWritten_store, State.consume_store]
    · rw [hdone.regs, State.linesWritten_regs, State.consume_regs]
    · rw [hdone.mem, State.linesWritten_lines, State.lines_countLines, State.consume_mem]
  · have hdone : Delivers s _ (((s.consume i).linesRead addr lines loc retries i.core).finishOp i (s.begun i v) (s.outRows i) 0
        false) i (s.outRows i) := finishOp_delivers rfl (State.linesRead_sched _ loc lines addr retries i.core) _ _ _
    have hread : (s.consume i).stackRead addr (64 * lines) = s.stackRead addr (64 * lines) :=
      State.stackRead_of_stack (congrArg Mem.stack (s.consume_mem i)) _ _
    have hcounted : RegsOnly [STK_RETRY_CNT_COUNT.addr + stkI (stackOf addr)] (s.consume i)
        ((s.consume i).addAt (stkI (stackOf addr)) STK_RETRY_CNT_COUNT retries) :=
      (RegsOnly.refl _ _).addAt List.mem_cons_self retries
    refine ⟨_, exec_stackRead_moves hclean hin hserves retries, ?_, ?_, ?_, ?_, fun a ha => ?_, hdone.outArrived, ?_⟩
    · rw [State.loadBytes_of_store hdone.store, State.linesRead_loads _ _ _ _ _ _ hdst, hread]
    · exact storeKept_of_store ((s.consume i).linesRead_kept loc lines addr retries i.core) (s.consume_store i).symm hdone.store
    · rw [hdone.mem, State.linesRead_stack, State.consume_mem]
    · rw [State.fldAt_of_regs (hdone.regs.trans (State.linesRead_regs ..)), ← State.fldAt_of_regs (s.consume_regs i)]
      exact State.fldAt_addAt_same _ _ STK_RETRY_CNT_COUNT retries (by decide)
    · unfold State.rd
      rw [hdone.regs, State.linesRead_regs, ← s.consume_regs i]
      exact hcounted.regs a ha
    · rw [hdone.mem, State.linesRead_lines, State.consume_mem]
  · exact ⟨_, exec_stackRead_refused hclean hout retries late, s.refusal_moves_nothing i v addr⟩
  · exact ⟨_, exec_stackWrite_refused hclean hout, s.refusal_moves_nothing i v addr⟩

end Sys2Proof.Machine
end

section
/-! A page walk of a line that a stack out of service holds (R168, R170): the loss of a line of the restore area has the line
copied again, and so changes the stack (O18). -/
namespace Sys2Proof.Machine

/-- A walk of core 0, with no token in and none out. -/
def walkIssue : Issue := ⟨0, 0, [], 255⟩

/-- One region over core 0 in the first extent of stack 0, its restore area at address 0, and one static line in the core's
store. -/
def oneStatic : Image :=
  { Image.none with
    regions := [⟨0, 0, 0, 1, 1, 0, 0, [0], [0], [], 0⟩]
    stores := [⟨0, .tables, 0, 64⟩] }

/-- Every stack is out of service as at reset. The walk is due on core 0, whose first static byte is 1; the restore area does not
hold that byte. Slot 0 is free, so that its directory address is 0, the first of the restore area. -/
def darkWalk : State :=
  { State.reset with
    sched := { State.reset.sched with running := true, due := [⟨0, 0, 0, 0, .pageWalk, 0, [], 255, .request⟩] }
    boot := { State.reset.boot with image := oneStatic }
    faults := { State.reset.faults with logMap := [(0, 1)] }
    store := [(0, 1)] }

theorem darkWalk_runsClean : runsClean darkWalk walkIssue .pageWalk 0 [] := by
  unfold runsClean
  decide +kernel

/-- The stacks after a command. -/
def stacksAfter (c : Instr) (s : State) : SMap Byte :=
  match exec c s with
  | .next t => t.mem.stack
  | _ => s.mem.stack

/-- The walk's directory line is lost, and the byte of the restore area is copied into it. -/
theorem darkWalk_writes : stacksAfter (.pageWalk walkIssue 0 0 0 0 [] []) darkWalk = [(0, 1)] := by
  decide +kernel

/-- Refutes O18: a walk whose directory line lies in the restore area, in a stack that is out of service, writes a stack byte. -/
theorem not_pagesWalkedAndRepaired : ¬ Obligations.PagesWalkedAndRepaired := by
  rintro ⟨hwalk, -⟩
  have hdir : darkWalk.entryAt 0 = 0 := by decide +kernel
  obtain ⟨t, ht, -, hkept, -⟩ := hwalk darkWalk walkIssue 0 0 0 0 0 0 0 0 0 darkWalk_runsClean rfl rfl hdir.symm rfl hdir.symm
  have hwrites := darkWalk_writes
  unfold stacksAfter at hwrites
  rw [ht] at hwrites
  exact absurd (hwrites.symm.trans hkept) (by decide)

end Sys2Proof.Machine
end

section
/-! The scrub of a core store, the restore of a poisoned line, and a stack that leaves service (R160, R162, R163, R170): O17. -/
namespace Sys2Proof.Machine

/-! ### The scrub (R160, R163) -/

theorem exec_coreStoreScrub (core : CoreId) (upset : Option Bool) (s : State) :
    exec (.coreStoreScrub core upset) s = execCoreStoreScrub core upset s := rfl

/-- The scrub has moved to the next word. -/
def State.scrubMoved (s : State) (core : Nat) : State :=
  { s with mem := { s.mem with
    scrubAt := SMap.set (fun _ => 0) s.mem.scrubAt core ((SMap.get (fun _ => 0) s.mem.scrubAt core + 1) % 98304) } }

@[simp] theorem State.scrubMoved_regs (s : State) (core : Nat) : (s.scrubMoved core).regs = s.regs := rfl
@[simp] theorem State.scrubMoved_store (s : State) (core : Nat) : (s.scrubMoved core).store = s.store := rfl
@[simp] theorem State.scrubMoved_boot (s : State) (core : Nat) : (s.scrubMoved core).boot = s.boot := rfl
@[simp] theorem State.scrubMoved_faults (s : State) (core : Nat) : (s.scrubMoved core).faults = s.faults := rfl

theorem State.scrubAt_scrubMoved (s : State) (core : Nat) : SMap.get (fun _ => 0) (s.scrubMoved core).mem.scrubAt core =
    (SMap.get (fun _ => 0) s.mem.scrubAt core + 1) % 98304 := (SMap.get_set _ _ _ _ _).trans (if_pos rfl)

/-- What the image says of a core-store address follows from the image and the map of the cores. -/
theorem State.storeStatic_of {s t : State} (hboot : t.boot = s.boot) (hfaults : t.faults = s.faults) (core addr : Nat) :
    t.storeStatic core addr = s.storeStatic core addr := by
  unfold State.storeStatic State.storeKind State.logicalOf
  rw [hboot, hfaults]

/-- A corrected word is counted and flagged. -/
theorem State.csCorrected_counts (s : State) (core : Nat) : (s.csCorrected core).fldAt (coreI core) CS_CE_CNT_COUNT =
    min (s.fldAt (coreI core) CS_CE_CNT_COUNT + 1) CS_CE_CNT_COUNT.top :=
  (State.fldAt_putAt_other _ _ CS_FLAG_CE CS_CE_CNT_COUNT _ (by decide)).trans (s.fldAt_addAt_same _ _ _ (by decide))

theorem State.csCorrected_only (s : State) (core : Nat) :
    RegsOnly [CS_FLAG_CE.addr + coreI core, CS_CE_CNT_COUNT.addr + coreI core] s (s.csCorrected core) :=
  ((RegsOnly.refl _ s).addAt (List.mem_cons_of_mem _ List.mem_cons_self) 1).putAt List.mem_cons_self 1

/-- An uncorrectable word is counted and flagged, before anything is done about its line. -/
def State.csUeNoted (s : State) (core : Nat) : State :=
  (s.addAt (coreI core) CS_UE_CNT_COUNT 1).putAt (coreI core) CS_FLAG_UE 1

theorem State.csUeNoted_only (s : State) (core : Nat) :
    RegsOnly [CS_FLAG_UE.addr + coreI core, CS_UE_CNT_COUNT.addr + coreI core] s (s.csUeNoted core) :=
  ((RegsOnly.refl _ s).addAt (List.mem_cons_of_mem _ List.mem_cons_self) 1).putAt List.mem_cons_self 1

theorem State.csUeNoted_mem (s : State) (core : Nat) : (s.csUeNoted core).mem = s.mem := by
  rw [State.csUeNoted, State.putAt_mem, State.addAt_mem]

theorem State.csUeNoted_store (s : State) (core : Nat) : (s.csUeNoted core).store = s.store := by
  rw [State.csUeNoted, State.putAt_store, State.addAt_store]

theorem State.csUeNoted_flag (s : State) (core : Nat) : (s.csUeNoted core).fldAt (coreI core) CS_FLAG_UE = 1 :=
  State.fldAt_putAt_same _ _ _ 1 (by decide)

theorem State.csUeNoted_counts (s : State) (core : Nat) : (s.csUeNoted core).fldAt (coreI core) CS_UE_CNT_COUNT =
    min (s.fldAt (coreI core) CS_UE_CNT_COUNT + 1) CS_UE_CNT_COUNT.top :=
  (State.fldAt_putAt_other _ _ CS_FLAG_UE CS_UE_CNT_COUNT _ (by decide)).trans (s.fldAt_addAt_same _ _ _ (by decide))

/-- The memory `m` in place of a state's own. -/
def State.withMem (s : State) (m : Mem) : State := { s with mem := m }

@[simp] theorem State.withMem_regs (s : State) (m : Mem) : (s.withMem m).regs = s.regs := rfl
@[simp] theorem State.withMem_store (s : State) (m : Mem) : (s.withMem m).store = s.store := rfl
@[simp] theorem State.withMem_mem (s : State) (m : Mem) : (s.withMem m).mem = m := rfl

/-- What an uncorrectable word does: it is noted, its line is poisoned or dropped, and the core may be fenced. -/
theorem State.csUncorrectable_outcome (s : State) (core addr : Nat) : ∃ m : Mem, m.scrubAt = s.mem.scrubAt ∧
    (s.storeStatic core addr = true → storeKey core addr / 64 ∈ m.poison) ∧
    (s.csUncorrectable core addr false = (s.csUeNoted core).withMem m ∨
      s.csUncorrectable core addr false = ((s.csUeNoted core).withMem m).requestFence core) := by
  have hmem := s.csUeNoted_mem core
  have hstatic := State.storeStatic_of (s.csUeNoted_only core).boot (s.csUeNoted_only core).faults core addr
  generalize ht : s.csUncorrectable core addr false = t
  have hnoted : (s.addAt (coreI core) CS_UE_CNT_COUNT 1).putAt (coreI core) CS_FLAG_UE 1 = s.csUeNoted core := rfl
  unfold State.csUncorrectable at ht
  dsimp only at ht
  rw [hnoted] at ht
  clear hnoted
  generalize s.csUeNoted core = u at *
  rw [← hmem, ← hstatic]
  split at ht
  · refine ⟨{ u.mem with
      poison := if storeKey core addr / 64 ∈ u.mem.poison then u.mem.poison else storeKey core addr / 64 :: u.mem.poison
      ueLines := (storeKey core addr / 64, u.sec.clockRods) :: u.mem.ueLines.filter (fun e => e.1 ≠ storeKey core addr / 64) },
      rfl, fun _ => ?_, ?_⟩
    · dsimp only
      split
      · assumption
      · exact List.mem_cons_self
    · split at ht
      · exact .inr (ht.symm.trans (State.escalate_core _ core))
      · exact .inl ht.symm
  · next hdynamic =>
    have hmemOnly : t = u.withMem t.mem ∧ t.mem.scrubAt = u.mem.scrubAt := by
      split at ht
      · exact ht ▸ ⟨rfl, rfl⟩
      · exact ht ▸ ⟨rfl, rfl⟩
    exact ⟨t.mem, hmemOnly.2, fun h => absurd h hdynamic, .inl hmemOnly.1⟩

/-- An uncorrectable word of core `core` at `addr` has taken the state from `s` to `t`. -/
structure UeTaken (s t : State) (core addr : Nat) : Prop where
  store : t.store = s.store
  scrubAt : t.mem.scrubAt = s.mem.scrubAt
  flag : t.fldAt (coreI core) CS_FLAG_UE = 1
  count : t.fldAt (coreI core) CS_UE_CNT_COUNT = min (s.fldAt (coreI core) CS_UE_CNT_COUNT + 1) CS_UE_CNT_COUNT.top
  poison : s.storeStatic core addr = true → storeKey core addr / 64 ∈ t.mem.poison

/-- A fence request touches no register of the core but CORE_FAULT. -/
theorem State.fldAt_requestFence (s : State) (core : Nat) (f : Fld) (h : f.addr ≠ CORE_FAULT_FENCE_REQ.addr) :
    (s.requestFence core).fldAt (coreI core) f = s.fldAt (coreI core) f := by
  unfold State.fldAt
  rw [State.rd_requestFence s core _ (by omega)]

theorem UeTaken.requestFence {s t : State} {core addr : Nat} (h : UeTaken s t core addr) :
    UeTaken s (t.requestFence core) core addr where
  store := (State.requestFence_leaves State.store (fun _ _ _ => rfl) t core).trans h.store
  scrubAt := (State.requestFence_leaves (fun u => u.mem.scrubAt) (fun _ _ _ => rfl) t core).trans h.scrubAt
  flag := (t.fldAt_requestFence core _ (by decide)).trans h.flag
  count := (t.fldAt_requestFence core _ (by decide)).trans h.count
  poison hs := (State.requestFence_leaves (fun u => u.mem.poison) (fun _ _ _ => rfl) t core).symm ▸ h.poison hs

theorem State.csUncorrectable_taken (s : State) (core addr : Nat) : UeTaken s (s.csUncorrectable core addr false) core addr := by
  obtain ⟨m, hscrub, hpoison, heq⟩ := s.csUncorrectable_outcome core addr
  have hnoted : UeTaken s ((s.csUeNoted core).withMem m) core addr := by
    refine ⟨?_, hscrub, ?_, ?_, hpoison⟩
    · rw [State.withMem_store, State.csUeNoted_store]
    · rw [State.fldAt_of_regs (State.withMem_regs _ m), State.csUeNoted_flag]
    · rw [State.fldAt_of_regs (State.withMem_regs _ m), State.csUeNoted_counts]
  obtain heq | heq := heq
  · rwa [heq]
  · rw [heq]
    exact hnoted.requestFence

theorem exec_coreStoreScrub_powered {s : State} {core : CoreId} (h : s.domainOff core = false) (u : Option Bool) :
    exec (.coreStoreScrub core u) s = .next (match u with
      | none => s.scrubMoved core
      | some false => (s.scrubMoved core).csCorrected core
      | some true => (s.scrubMoved core).csUncorrectable core (8 * SMap.get (fun _ => 0) s.mem.scrubAt core) false) := by
  rw [exec_coreStoreScrub]
  unfold execCoreStoreScrub
  rw [h, if_neg Bool.false_ne_true]
  rfl

/-! ### The restore of a line (R162) -/

theorem exec_lineRestore (core : CoreId) (line : Nat) (s : State) :
    exec (.lineRestore core line) s = execLineRestore core line s := rfl

/-- The bytes of a core-store line that have a copy, with the addresses of their copies. -/
def State.lineCopies (s : State) (core line : Nat) : List (Nat × Nat) :=
  (List.range 64).filterMap (fun j => (s.copyAddr core (64 * line + j)).map (fun a => (64 * line + j, a)))

/-- Bytes of a core store take their copies. -/
def State.bringBack (s : State) (core : Nat) (l : List (Nat × Nat)) : State :=
  l.foldl (fun s e => s.storeBytes core e.1 (s.stackRead e.2 1)) s

/-- The line `k` of a core store is free again, and the restore is counted. -/
def State.freeLine (s : State) (core k : Nat) : State :=
  let u := s.addAt (coreI core) CS_RESTORE_CNT_COUNT 1
  u.withMem { u.mem with poison := u.mem.poison.filter (· ≠ k) }

theorem State.mem_lineCopies {s : State} {core line : Nat} {e : Nat × Nat} :
    e ∈ s.lineCopies core line ↔ (64 * line ≤ e.1 ∧ e.1 < 64 * line + 64) ∧ s.copyAddr core e.1 = some e.2 := by
  unfold State.lineCopies
  simp only [List.mem_filterMap, List.mem_range, Option.map_eq_some_iff]
  constructor
  · rintro ⟨j, hj, a, ha, rfl⟩
    exact ⟨⟨Nat.le_add_right _ _, by omega⟩, ha⟩
  · rintro ⟨⟨hlo, hhi⟩, ha⟩
    have hj : 64 * line + (e.1 - 64 * line) = e.1 := by omega
    exact ⟨e.1 - 64 * line, by omega, e.2, by rwa [hj], by rw [hj]⟩

section
variable (s : State) (core k : Nat) (l : List (Nat × Nat))

@[simp] theorem State.bringBack_regs : (s.bringBack core l).regs = s.regs := foldl_leaves State.regs _ _ _ fun _ _ => rfl
@[simp] theorem State.bringBack_stack : (s.bringBack core l).mem.stack = s.mem.stack :=
  foldl_leaves (fun u : State => u.mem.stack) _ _ _ fun _ _ => rfl

@[simp] theorem State.freeLine_store : (s.freeLine core k).store = s.store := by
  rw [State.freeLine, State.withMem_store, State.addAt_store]
@[simp] theorem State.freeLine_stack : (s.freeLine core k).mem.stack = s.mem.stack := by
  rw [State.freeLine, State.withMem_mem, State.addAt_mem]
theorem State.freeLine_regs : (s.freeLine core k).regs = (s.addAt (coreI core) CS_RESTORE_CNT_COUNT 1).regs := by
  rw [State.freeLine, State.withMem_regs]
theorem State.freeLine_poison : k ∉ (s.freeLine core k).mem.poison := by
  rw [State.freeLine, State.withMem_mem]
  exact fun h => of_decide_eq_true (List.mem_filter.mp h).2 rfl

end

/-- Bytes of one line that take their copies leave every other byte. -/
theorem State.bringBack_kept (s : State) (core addr n : Nat) {l : List (Nat × Nat)} (h : ∀ e ∈ l, addr ≤ e.1 ∧ e.1 < addr + n) :
    storeKept s (s.bringBack core l) core addr n := by
  refine List.foldlRecOn (motive := fun u => storeKept s u core addr n) l _ (fun _ _ => rfl) fun u hu e he k hk => ?_
  obtain ⟨hlo, hhi⟩ := h e he
  refine (State.storeBytes_kept u core e.1 (u.length_stackRead e.2 1).le k fun hin => hk ?_).trans (hu k hk)
  unfold storeKey at hin ⊢
  omega

/-- A byte of the core store that a write does not reach. -/
theorem storeKept.loadByte {s t : State} {core addr n b : Nat} (h : storeKept s t core addr n) (hb : b < addr ∨ addr + n ≤ b)
    (hin : b < storeSize) : t.loadBytes core b 1 = s.loadBytes core b 1 := by
  rw [State.loadBytes_within t hin, State.loadBytes_within s hin]
  refine congrArg (fun x => [x]) (h (storeKey core b) ?_)
  unfold storeKey
  omega

/-- Every byte listed takes its copy. -/
theorem State.bringBack_loads (s : State) (core : Nat) {l : List (Nat × Nat)} (hl : ∀ e ∈ l, s.copyAddr core e.1 = some e.2)
    {b a : Nat} (hba : (b, a) ∈ l) (hin : b < storeSize) : (s.bringBack core l).loadBytes core b 1 = s.stackRead a 1 := by
  have hset : ∀ u : State, u.mem.stack = s.mem.stack →
      (u.storeBytes core b (u.stackRead a 1)).loadBytes core b 1 = s.stackRead a 1 := fun u hu => by
    have hlen := u.length_stackRead a 1
    refine (State.loadBytes_storeBytes u (j := 0) (by rw [hlen]; omega) (by rw [hlen])).trans ?_
    rw [List.drop_zero, List.take_of_length_le hlen.le, State.stackRead_of_stack hu]
  refine foldl_brings (I := fun u : State => u.mem.stack = s.mem.stack) (P := fun u => u.loadBytes core b 1 = s.stackRead a 1)
    (fun u e => u.storeBytes core e.1 (u.stackRead e.2 1)) hba (fun u hu _ _ => hu) (fun u hu hload e he => ?_) hset rfl
  by_cases heq : e.1 = b
  · have ha : e = (b, a) := by
      have hcopy := hl (b, a) hba
      rw [← heq, hl e he] at hcopy
      exact Prod.ext heq (Option.some.inj hcopy)
    rw [ha]
    exact hset u hu
  · rw [(State.storeBytes_kept u core e.1 (u.length_stackRead e.2 1).le).loadByte (by omega) hin]
    exact hload

/-- The line restored, its lines counted for the stack `st`. -/
def State.lineRestored (s : State) (core line st n : Nat) : State :=
  ((s.bringBack core (s.lineCopies core line)).countLines st n).freeLine core (storeKey core 0 / 64 + line)

theorem exec_lineRestore_restores {s : State} {core : CoreId} {line : Nat} (hon : s.domainOff core = false)
    (hpoison : storeKey core 0 / 64 + line ∈ s.mem.poison)
    (hserves : ∀ b a, s.copyAddr core b = some a → s.isSetAt (stkI (stackOf a)) STK_STAT_IN_SERVICE = true) :
    ∃ st n, exec (.lineRestore core line) s = .next (s.lineRestored core line st n) := by
  have hready : s.lineCopies core line = [] ∨
      s.isSetAt (stkI (((s.lineCopies core line).head?.map (fun e => stackOf e.2)).getD 0)) STK_STAT_IN_SERVICE = true := by
    cases hcopies : s.lineCopies core line with
    | nil => exact .inl rfl
    | cons e l =>
      have he : e ∈ s.lineCopies core line := hcopies ▸ List.mem_cons_self
      exact .inr (hserves e.1 e.2 (State.mem_lineCopies.mp he).2)
  refine ⟨((s.lineCopies core line).head?.map (fun e => stackOf e.2)).getD 0, if s.lineCopies core line = [] then 0 else 1, ?_⟩
  rw [exec_lineRestore]
  unfold execLineRestore
  dsimp only
  rw [hon]
  exact congrArg Host.Outcome.next (if_pos ⟨hpoison, rfl, hready⟩)

theorem State.lineRestored_regs (s : State) (core line st n : Nat) : (s.lineRestored core line st n).regs =
    (((s.bringBack core (s.lineCopies core line)).countLines st n).addAt (coreI core) CS_RESTORE_CNT_COUNT 1).regs :=
  State.freeLine_regs _ _ _

theorem State.lineRestored_store (s : State) (core line st n : Nat) :
    (s.lineRestored core line st n).store = (s.bringBack core (s.lineCopies core line)).store := by
  rw [State.lineRestored, State.freeLine_store, State.countLines_store]

/-- The registers before the restore is counted. -/
theorem State.countedBack_regs (s : State) (core line st n : Nat) :
    ((s.bringBack core (s.lineCopies core line)).countLines st n).regs = s.regs := by
  rw [State.countLines_regs, State.bringBack_regs]

/-- The scrub corrects or poisons, and a poisoned line takes its copies. -/
theorem scrubCorrectsOrPoisons : ScrubCorrectsOrPoisons := by
  intro s core hon
  refine ⟨fun u => ⟨_, exec_coreStoreScrub_powered hon u, ?_⟩, fun line hpoison hserves => ?_⟩
  · have hcount : ∀ f, (s.scrubMoved core).fldAt (coreI core) f = s.fldAt (coreI core) f :=
      State.fldAt_of_regs (s.scrubMoved_regs core) _
    match u with
    | none => exact ⟨s.scrubAt_scrubMoved core, rfl, fun _ => rfl, nofun, nofun⟩
    | some false =>
      have honly := (s.scrubMoved core).csCorrected_only core
      refine ⟨?_, ?_, nofun, fun _ => ⟨State.fldAt_putAt_same _ _ _ 1 (by decide), ?_, honly.regs⟩, nofun⟩
      · dsimp only
        rw [State.csCorrected, State.putAt_mem, State.addAt_mem]
        exact s.scrubAt_scrubMoved core
      · dsimp only
        rw [State.csCorrected, State.putAt_store, State.addAt_store, State.scrubMoved_store]
      · rw [← hcount]
        exact (s.scrubMoved core).csCorrected_counts core
    | some true =>
      have htaken := (s.scrubMoved core).csUncorrectable_taken core (8 * SMap.get (fun _ => 0) s.mem.scrubAt core)
      refine ⟨?_, htaken.store, nofun, nofun, fun _ => ⟨htaken.flag, ?_, fun hstatic => htaken.poison ?_⟩⟩
      · dsimp only
        rw [htaken.scrubAt]
        exact s.scrubAt_scrubMoved core
      · rw [← hcount]
        exact htaken.count
      · rw [State.storeStatic_of (s.scrubMoved_boot core) (s.scrubMoved_faults core), hstatic]
  · obtain ⟨st, n, hexec⟩ := exec_lineRestore_restores hon hpoison hserves
    have hregs := s.countedBack_regs core line st n
    have hstore := s.lineRestored_store core line st n
    refine ⟨_, hexec, State.freeLine_poison _ _ _, fun j a hj hin ha => ?_, ?_, ?_, ?_, fun a ha => ?_⟩
    · rw [State.loadBytes_of_store hstore]
      exact s.bringBack_loads core (fun e he => (State.mem_lineCopies.mp he).2)
        (State.mem_lineCopies.mpr ⟨⟨Nat.le_add_right _ _, Nat.add_lt_add_left hj _⟩, ha⟩) hin
    · exact storeKept_of_store (s.bringBack_kept core (64 * line) 64 fun e he => (State.mem_lineCopies.mp he).1) rfl hstore
    · rw [State.lineRestored, State.freeLine_stack, State.countLines_stack, State.bringBack_stack]
    · rw [State.fldAt_of_regs (s.lineRestored_regs core line st n), ← State.fldAt_of_regs hregs]
      exact State.fldAt_addAt_same _ _ _ 1 (by decide)
    · unfold State.rd
      rw [s.lineRestored_regs core line st n, ← hregs]
      exact ((RegsOnly.refl [CS_RESTORE_CNT_COUNT.addr + coreI core] _).addAt List.mem_cons_self 1).regs a ha

/-! ### A stack leaves service (R170) -/

theorem exec_stackOutOfService (k : StackId) (failed : Bool) (s : State) :
    exec (.stackOutOfService k failed) s = execStackOutOfService k failed s := rfl

/-- The marks of a stack out of service, before admission is asked for. -/
def State.stackDark (s : State) (k : Nat) (failed : Bool) : State :=
  let u := s.putAt (stkI k) STK_STAT_IN_SERVICE 0
  if failed then u.putAt (stkI k) STK_STAT_LINK_UP 0 else u

theorem State.stackDark_only (s : State) (k : Nat) (failed : Bool) :
    RegsOnly [STK_STAT_IN_SERVICE.addr + stkI k] s (s.stackDark k failed) :=
  have hout := (RegsOnly.refl [STK_STAT_IN_SERVICE.addr + stkI k] s).putAt List.mem_cons_self 0
  (hout.putAt (f := STK_STAT_LINK_UP) List.mem_cons_self 0).ite hout

theorem State.stackDark_inService (s : State) (k : Nat) (failed : Bool) :
    (s.stackDark k failed).fldAt (stkI k) STK_STAT_IN_SERVICE = 0 := by
  have hout := s.fldAt_putAt_same (stkI k) STK_STAT_IN_SERVICE 0 (by decide)
  unfold State.stackDark
  cases failed with
  | false => exact hout
  | true => exact (State.fldAt_putAt_other _ _ STK_STAT_LINK_UP STK_STAT_IN_SERVICE 0 (by decide)).trans hout

theorem State.stackDark_linkUp (s : State) (k : Nat) : (s.stackDark k true).fldAt (stkI k) STK_STAT_LINK_UP = 0 :=
  State.fldAt_putAt_same _ _ _ 0 (by decide)

/-- The registers of the module itself lie below those of the stacks. -/
theorem State.stackDark_fld (s : State) (k : Nat) (failed : Bool) (f : Fld) (h : f.addr < STK_STAT_IN_SERVICE.addr) :
    (s.stackDark k failed).fld f = s.fld f := by
  show (s.stackDark k failed).fldAt 0 f = s.fldAt 0 f
  unfold State.fldAt
  rw [(s.stackDark_only k failed).regs (f.addr + 0) (by rw [List.mem_singleton]; omega)]

/-- Asking for admission leaves the registers but TB_ADM_STAT, and no more than marks it due. -/
theorem State.fldAt_reAdmit (s : State) (i : Nat) (f : Fld) (h : f.addr + i ≠ TB_ADM_STAT_STATE.addr) :
    s.reAdmit.fldAt i f = s.fldAt i f := by
  unfold State.reAdmit
  exact ite_leaves (part := fun u : State => u.fldAt i f) rfl
    (ite_leaves (part := fun u : State => u.fldAt i f) rfl (State.fldAt_putAt_ne _ 0 i _ f 1 h))

theorem State.reAdmit_mem (s : State) : s.reAdmit.mem = s.mem := by
  unfold State.reAdmit
  exact ite_leaves rfl (ite_leaves rfl rfl)

/-- Admission has become due. -/
def State.withAdmDue (s : State) : State := { s with sched := { s.sched with admDue := true } }

/-- From step 5 on admission is due, and its status says so unless the time base waits for its count. -/
theorem State.reAdmit_of_step {s : State} (h : 5 ≤ s.fld GLB_STATE_STEP) : s.reAdmit =
    if s.isSet TB_STAT_TIME_FAIL ∧ !s.isSet TB_STAT_COUNT_VALID then s.withAdmDue else s.withAdmDue.put TB_ADM_STAT_STATE 1 :=
  if_neg fun hearly => by omega

theorem State.reAdmit_due {s : State} (h : 5 ≤ s.fld GLB_STATE_STEP) : s.reAdmit.sched.admDue = true := by
  rw [State.reAdmit_of_step h]
  exact ite_leaves (part := fun u : State => u.sched.admDue) rfl rfl

theorem State.reAdmit_status {s : State} (h : 5 ≤ s.fld GLB_STATE_STEP)
    (hcount : s.isSet TB_STAT_TIME_FAIL = false ∨ s.isSet TB_STAT_COUNT_VALID = true) :
    s.reAdmit.fld TB_ADM_STAT_STATE = 1 := by
  rw [State.reAdmit_of_step h, if_neg]
  · exact State.fld_put _ _ 1 ⟨by decide, by decide⟩
  · rintro ⟨hfail, hinvalid⟩
    obtain hok | hvalid := hcount
    · exact Bool.false_ne_true (hok.symm.trans hfail)
    · rw [hvalid] at hinvalid
      exact Bool.false_ne_true hinvalid

theorem stackLeavesService : StackLeavesService := by
  refine ⟨fun s k hstays => ?_, fun s k failed hserves hcause => ?_⟩
  · rw [exec_stackOutOfService]
    refine congrArg Host.Outcome.next (if_neg ?_)
    rintro ⟨hserves, hlost⟩
    obtain hout | hfew := hstays
    · exact Bool.false_ne_true (hout.symm.trans hserves)
    · obtain hfailed | hmany := hlost
      · exact Bool.false_ne_true hfailed
      · omega
  · have hexec : exec (.stackOutOfService k failed) s = .next (s.stackDark k failed).reAdmit := by
      rw [exec_stackOutOfService]
      exact congrArg Host.Outcome.next (if_pos ⟨hserves, hcause⟩)
    have hfar : STK_STAT_IN_SERVICE.addr + stkI k ≠ TB_ADM_STAT_STATE.addr :=
      (Nat.lt_of_lt_of_le (show TB_ADM_STAT_STATE.addr < STK_STAT_IN_SERVICE.addr by decide) (Nat.le_add_right _ _)).ne'
    have hglobal := fun (f : Fld) h => s.stackDark_fld k failed f h
    refine ⟨_, hexec, ?_, fun hfailed => ?_, fun hstep => ?_, ?_⟩
    · rw [State.fldAt_reAdmit _ _ _ hfar, State.stackDark_inService]
    · rw [State.fldAt_reAdmit _ _ STK_STAT_LINK_UP hfar, hfailed, State.stackDark_linkUp]
    · rw [← hglobal GLB_STATE_STEP (by decide)] at hstep
      refine ⟨State.reAdmit_due hstep, fun hcount => State.reAdmit_status hstep ?_⟩
      unfold State.isSet at hcount ⊢
      rwa [hglobal TB_STAT_TIME_FAIL (by decide), hglobal TB_STAT_COUNT_VALID (by decide)]
    · rw [State.reAdmit_mem, (s.stackDark_only k failed).rest]

/-- Settles O17: an uncorrectable word is noted before its line is dealt with, a restore writes each byte once, from a stack
that it leaves as it is, and a stack out of service asks for admission. -/
theorem scrubAndStackService : Obligations.ScrubAndStackService := ⟨scrubCorrectsOrPoisons, stackLeavesService⟩

end Sys2Proof.Machine
end

section
/-! A broadcast whose issue names an input token beyond the 256 of its core (R193, R224): the key of that token is the key of
another core's token, so the issue consumes what it then sends to (O24). -/
namespace Sys2Proof.Machine

/-- An issue of core 0 with input token 261: the key of token 5 of core 1. -/
def aliasIssue : Issue := ⟨0, 0, [261], 255⟩

/-- One unit of 72 bytes, a data unit of kind 2, from the start of the core store. -/
def aliasSend : Send := ⟨.units 0, 5, 0, 1, 1, 2, 72⟩

/-- Token 5 of core 1 receives it at its first index. -/
def aliasRecv : BusRecv := ⟨1, 5, 0, 1, 0⟩

/-- The buffer of token 5 of core 1. -/
def aliasBuf : TokenBuf := ⟨1, 5, 0, 72, 1, .other, 1, none, 0⟩

/-- Cores 0 and 1 run, the broadcast is due on core 0, and token 261 of core 0 is complete. -/
def aliased : State :=
  { State.reset with
    sched := { State.reset.sched with
      running := true
      due := [⟨0, 0, 0, 0, .rowBus, 0, [261], 255, .request⟩]
      tokens := [(261, { Token.idle with arrived := 1 })] }
    boot := { State.reset.boot with image := { Image.none with buffers := [aliasBuf] } }
    faults := { State.reset.faults with logMap := [(0, 1), (1, 2)] } }

theorem aliased_runsClean : runsClean aliased aliasIssue .rowBus 0 [(0, 72)] := by
  unfold runsClean
  decide +kernel

/-- The registers after a command. -/
def regsAfter (c : Instr) (s : State) : SMap Word :=
  match exec c s with
  | .next t => t.regs
  | _ => s.regs

/-- The unit arrives at a consumed token and is counted as stale. -/
theorem aliased_counts : regsAfter (.broadcast aliasIssue false aliasSend [aliasRecv] []) aliased ≠ aliased.regs := by
  decide +kernel

/-- Refutes O24: token 261 of the sending core has the key of token 5 of the receiving core, so that the broadcast consumes
the token before its unit arrives: the unit is discarded, and the stale counters change. -/
theorem not_arrivalsAndRouterFaults : ¬ Obligations.ArrivalsAndRouterFaults := by
  rintro ⟨⟨-, hbroadcast⟩, -⟩
  have hbuf : aliased.tokenBuf 1 5 = some aliasBuf := by decide +kernel
  have hinst : (aliased.token 1 5).inst = 0 := by decide +kernel
  have hopen : (aliased.token 1 5).consumed = false := by decide +kernel
  have hstub : (aliased.token 1 5).stubbed.getLsbD 0 = false := by decide +kernel
  have hseg : aliased.onSegment false 0 1 = true := by decide +kernel
  have hon : aliased.domainOff 1 = false := by decide +kernel
  obtain ⟨t, ht, -, -, hregs, -⟩ := hbroadcast aliased aliasIssue false 0 aliasSend aliasRecv aliasBuf rfl rfl
    aliased_runsClean (by decide) (by decide) (by decide) hseg hon hbuf rfl hinst hopen hstub (by decide) (by decide)
  have hcounts := aliased_counts
  unfold regsAfter at hcounts
  rw [ht] at hcounts
  exact hcounts hregs

end Sys2Proof.Machine
end

section
/-! The entry issue of a stage with a row that a lane's overload has paused (R331, R332): the row stays filled in the
bushel, and its tokens do not expect it (O35). -/
namespace Sys2Proof.Machine

/-- A row of slot 0 that joins at layer step 1. -/
def joiningRow : BushelRow := ⟨0, 0, 0, 0, false, 0, true, 0, 1, none⟩

/-- A bushel of that row alone, paused. -/
def pausedBushel : Bushel := ⟨0, 0, [joiningRow], false, 0, 1, 0, [], []⟩

/-- A buffer of core 0 tied to the bushel, at the stage where the row joins. -/
def tiedBuf : TokenBuf := ⟨0, 5, 0, 72, 1, .bushel, 0, some (0, 0), 1⟩

/-- The paused bushel waits for its entry issue. -/
def pausedEntry : State :=
  { State.reset with
    rqt := { State.reset.rqt with bushels := [pausedBushel] }
    boot := { State.reset.boot with image := { Image.none with buffers := [tiedBuf] } }
    faults := { State.reset.faults with logMap := [(0, 1)] } }

/-- What the entry issue leaves: the bushels, and whether the tied token expects row 0. -/
def entryOutcome (s : State) : List Bushel × Bool :=
  match exec (.entryIssue 0) s with
  | .next t => (t.rqt.bushels, (t.token 0 5).expected.getLsbD 0)
  | _ => (s.rqt.bushels, true)

/-- The row stays in the bushel as it was, and the tied token does not expect it. -/
theorem pausedEntry_expects_nothing : entryOutcome pausedEntry = ([{ pausedBushel with entered := true }], false) := by
  decide +kernel

/-- Refutes O35: a row that a lane has paused before the entry issue is filled and present, and no token expects it. -/
theorem not_readsAndEntries : ¬ Obligations.ReadsAndEntries := by
  rintro ⟨-, hentry⟩
  obtain ⟨t, nb, ht, hmem, -, -, -, -, hexpects⟩ := hentry pausedEntry 0 pausedBushel (by decide +kernel)
  have houtcome := pausedEntry_expects_nothing
  unfold entryOutcome at houtcome
  rw [ht] at houtcome
  obtain ⟨hbushels, hexp⟩ := Prod.mk.inj houtcome
  dsimp only at hbushels hexp
  have hnb : nb = { pausedBushel with entered := true } := by simpa [hbushels] using hmem
  have hinst : (pausedEntry.token 0 5).inst = 0 := by decide +kernel
  have hphys : pausedEntry.physOf 0 = some 0 := by decide +kernel
  have hper : max (((pausedEntry.variant? pausedEntry.sched.var).map Variant.period).getD 1) 1 = 1 := by decide +kernel
  have hrow := hexpects 1 0 hper.symm rfl tiedBuf 0 (by decide +kernel) rfl hphys
    (fun y hy _ _ _ _ => by rw [List.mem_singleton.mp hy]) hinst 0 (by decide)
  refine absurd (hrow.mpr ⟨joiningRow, by rw [hnb]; rfl, rfl, by decide⟩) ?_
  rw [show (t.token 0 tiedBuf.token).expected.getLsbD 0 = false from hexp]
  decide

end Sys2Proof.Machine
end

section
/-! What a sideband message and a variant request change (R205, R206, R209, R246): the tables of messages and of requests, the
pending switches, and their registers. -/
namespace Sys2Proof.Machine

/-! ### Register updates -/

/-- A part of the state that the registers do not touch. -/
theorem State.putAt_leaves {β : Type} {part : State → β} (h : ∀ s r, part { s with regs := r } = part s) (s : State) (i : Nat)
    (f : Fld) (v : Nat) : part (s.putAt i f v) = part s := h s _

theorem State.raiseIfAt_leaves {β : Type} {part : State → β} (h : ∀ s r, part { s with regs := r } = part s) (s : State) (i : Nat)
    (f : Fld) (b : Bool) : part (s.raiseIfAt i f b) = part s := ite_leaves (s.putAt_leaves h i f 1) rfl

/-! ### The message table (R246) -/

/-- A message entered in the table leaves all but the registers and the fabric's tables. -/
theorem State.enterSb_leaves {β : Type} (part : State → β) (h : ∀ s r f, part { s with regs := r, fab := f } = part s)
    (s : State) (m : SbMsg) : part (s.enterSb m).1 = part s := by
  unfold State.enterSb
  split
  · rfl
  extract_lets fab u own q
  split
  · exact h s _ _
  split
  · split
    · split
      · exact h s _ _
      · exact h s _ _
    · split
      · exact h s _ _
      · exact h s _ _
  · exact h s _ _

theorem State.enterSb_new {s : State} {m : SbMsg} (h : m ∉ s.fab.seen) : (s.enterSb m).2 = true := by
  unfold State.enterSb
  rw [if_neg h]
  extract_lets fab u own q
  split
  · rfl
  split
  · split
    · split
      · rfl
      · rfl
    · split
      · rfl
      · rfl
  · rfl

/-! ### Refusals (R206, R208) -/

/-- A refusal marks the requests that it names. -/
def VarReq.refuse (mile v : Nat) (r : VarReq) : VarReq := if r.mile = mile ∧ r.var = v then { r with refused := true } else r

theorem State.showSwitch_leaves {β : Type} (part : State → β) (h : ∀ s r, part { s with regs := r } = part s) (s : State) :
    part s.showSwitch = part s := by
  have hput : ∀ s f v, part (State.put s f v) = part s := fun s f v => s.putAt_leaves h 0 f v
  unfold State.showSwitch
  split
  · exact (hput _ _ _).trans (hput _ _ _)
  · exact (hput _ _ _).trans (hput _ _ _)

/-- A refusal applied leaves all but the registers, the requests and the switches. -/
theorem State.applyRefusal_leaves {β : Type} (part : State → β)
    (h : ∀ s r q w, part { s with regs := r, sched := { s.sched with reqs := q, switches := w } } = part s)
    (s : State) (mile v : Nat) : part (s.applyRefusal mile v) = part s := by
  have hregs : ∀ s r, part { s with regs := r } = part s := fun s r => h s r s.sched.reqs s.sched.switches
  unfold State.applyRefusal
  extract_lets hit sched u
  exact ((State.showSwitch_leaves part hregs _).trans (u.raiseIfAt_leaves hregs ..)).trans (h s s.regs _ _)

theorem State.applyRefusal_reqs (s : State) (mile v : Nat) :
    (s.applyRefusal mile v).sched.reqs = s.sched.reqs.map (VarReq.refuse mile v) := by
  unfold State.applyRefusal
  extract_lets hit sched u
  exact (State.showSwitch_leaves (fun s => s.sched.reqs) (fun _ _ => rfl) _).trans
    (u.raiseIfAt_leaves (part := fun s => s.sched.reqs) (fun _ _ => rfl) ..)

theorem State.applyRefusal_switches (s : State) (mile v : Nat) :
    (s.applyRefusal mile v).sched.switches = s.sched.switches.filter (fun w => !(w.dated = mile ∧ w.var = v)) := by
  unfold State.applyRefusal
  extract_lets hit sched u
  exact (State.showSwitch_leaves (fun s => s.sched.switches) (fun _ _ => rfl) _).trans
    (u.raiseIfAt_leaves (part := fun s => s.sched.switches) (fun _ _ => rfl) ..)

theorem State.enterSb_reqs (s : State) (m : SbMsg) : (s.enterSb m).1.sched.reqs = s.sched.reqs :=
  State.enterSb_leaves (fun s => s.sched.reqs) (fun _ _ _ => rfl) s m

theorem State.refuseVar_reqs (s : State) (mile v : Nat) :
    (s.refuseVar mile v).sched.reqs = s.sched.reqs.map (VarReq.refuse mile v) := by
  unfold State.refuseVar State.raiseDated
  rw [State.applyRefusal_reqs, State.enterSb_reqs]

/-- A refusal raised here leaves all but the registers, the fabric's tables, the requests and the switches. -/
theorem State.refuseVar_leaves {β : Type} (part : State → β)
    (h : ∀ s r f q w, part { s with regs := r, fab := f, sched := { s.sched with reqs := q, switches := w } } = part s)
    (s : State) (mile v : Nat) : part (s.refuseVar mile v) = part s :=
  (State.applyRefusal_leaves part (fun s r q w => h s r s.fab q w) _ mile v).trans
    (State.enterSb_leaves part (fun s r f => h s r f s.sched.reqs s.sched.switches) s _)

/-! ### Requests (R205, R206) -/

/-- A refusal of the request that a message carries has been seen (R206). -/
def State.refusalSeen (s : State) (m : SbMsg) : Bool :=
  s.fab.seen.any (fun q => decide (q.kind = 3 ∧ q.mile = m.mile ∧ q.data % 8 = m.data % 8))

/-- A request seen or raised here leaves all but the registers, the fabric's tables, the requests and the switches. -/
theorem State.seeVarReq_leaves {β : Type} (part : State → β)
    (h : ∀ s r f q w, part { s with regs := r, fab := f, sched := { s.sched with reqs := q, switches := w } } = part s)
    (s : State) (m : SbMsg) : part (s.seeVarReq m) = part s := by
  have hnew := State.enterSb_leaves part (fun s r f => h s r f s.sched.reqs s.sched.switches) s m
  unfold State.seeVarReq
  generalize s.enterSb m = p at hnew ⊢
  obtain ⟨u, new⟩ := p
  have hadded : ∀ q, part { u with sched := { u.sched with reqs := q } } = part s := fun q =>
    (h u u.regs u.fab q u.sched.switches).trans hnew
  exact ite_leaves hnew (ite_leaves (hadded _) ((State.refuseVar_leaves part h _ _ _).trans (hadded _)))

theorem State.raiseVarReq_leaves {β : Type} (part : State → β)
    (h : ∀ s r f q w, part { s with regs := r, fab := f, sched := { s.sched with reqs := q, switches := w } } = part s)
    (s : State) (v : Nat) : part (s.raiseVarReq v) = part s := s.seeVarReq_leaves part h _

/-- A request that is new here, for a variant whose switch is not pending, is kept for its mile: as refused where the variant is
not admitted or a refusal of it was seen before. -/
theorem State.seeVarReq_keeps_request {s : State} {m : SbMsg} (hnew : m ∉ s.fab.seen)
    (hswitch : s.sched.switches.any (fun w => w.var = m.data % 8) = false) :
    (⟨nearestMile s.mileNow m.mile, m.data % 8, decide ((m.group, m.module) = s.self),
      !s.admittedVar (m.data % 8) || s.refusalSeen m⟩ : VarReq) ∈ (s.seeVarReq m).sched.reqs := by
  have hentered := State.enterSb_new hnew
  have hreqs := s.enterSb_reqs m
  unfold State.seeVarReq
  generalize s.enterSb m = p at hentered hreqs ⊢
  obtain ⟨u, new⟩ := p
  dsimp only at hentered hreqs ⊢
  rw [if_neg (by simp [hentered, hswitch]), hreqs, ← State.refusalSeen]
  by_cases hkept : s.admittedVar (m.data % 8) = true ∨ s.refusalSeen m = true
  · rw [if_pos hkept]
    have hflag : (!s.admittedVar (m.data % 8) || s.refusalSeen m) = s.refusalSeen m := by
      obtain h | h := hkept <;> simp [h]
    rw [hflag]
    exact List.mem_append_right _ (List.mem_singleton.mpr rfl)
  · rw [if_neg hkept, State.refuseVar_reqs]
    simp only [not_or, Bool.not_eq_true] at hkept
    refine List.mem_map.mpr ⟨_, List.mem_append_right _ (List.mem_singleton.mpr rfl), ?_⟩
    simp [VarReq.refuse, hkept.1]

/-- A request raised here is kept as one of this module's own. -/
theorem State.raiseVarReq_keeps_request {s : State} {v : Nat}
    (hnew : (⟨2, s.self.1, s.self.2, s.datedMile % 65536, v % 8⟩ : SbMsg) ∉ s.fab.seen)
    (hswitch : s.sched.switches.any (fun w => w.var = v % 8) = false) :
    (⟨nearestMile s.mileNow (s.datedMile % 65536), v % 8, true, !s.admittedVar (v % 8) ||
      s.refusalSeen ⟨2, s.self.1, s.self.2, s.datedMile % 65536, v % 8⟩⟩ : VarReq) ∈ (s.raiseVarReq v).sched.reqs := by
  have hkept := State.seeVarReq_keeps_request hnew (by simpa using hswitch)
  simpa [State.raiseVarReq] using hkept

end Sys2Proof.Machine
end

section
/-! The heat flag and the power cap ask for lower rates, and the clock divides and returns (R205, R484, R487 to R489): O55. -/
namespace Sys2Proof.Machine

theorem exec_heatRerequest (s : State) : exec .heatRerequest s = execHeatRerequest s := rfl
theorem exec_powerCapVariantRequest (s : State) : exec .powerCapVariantRequest s = execPowerCapVariantRequest s := rfl
theorem exec_heatFlagClear (s : State) : exec .heatFlagClear s = execHeatFlagClear s := rfl
theorem exec_clockDivide (s : State) : exec .clockDivide s = execClockDivide s := rfl
theorem exec_clockRestore (s : State) : exec .clockRestore s = execClockRestore s := rfl

theorem State.raiseVarReq_therm (s : State) (v : Nat) : (s.raiseVarReq v).therm = s.therm :=
  s.raiseVarReq_leaves State.therm (fun _ _ _ _ _ => rfl) v

theorem State.levelEvent_regs (s : State) (old : Nat) : (s.levelEvent old).regs = s.regs := by
  unfold State.levelEvent
  exact ite_leaves rfl rfl

theorem State.levelEvent_therm (s : State) (old : Nat) : (s.levelEvent old).therm = s.therm := by
  unfold State.levelEvent
  exact ite_leaves rfl rfl

/-- A heat flag whose wait is over, with level 2 still met, asks for the variant it asked for before, or for the next lower one. -/
theorem exec_heatRerequest_of_due {s : State} {v : Nat} (hheat : s.therm.heat = true) (hwait : s.therm.heatWait = some 0)
    (hlevel : s.level2Now = true) (hvar : s.therm.heatVar = some v ∨ s.therm.heatVar = none ∧ s.nextLower = some v) :
    exec .heatRerequest s = .next (s.heatRequest (some v)) := by
  rw [exec_heatRerequest]
  unfold execHeatRerequest
  rw [if_pos ⟨hheat, hwait, hlevel⟩]
  obtain hvar | ⟨hvar, hlower⟩ := hvar
  · rw [hvar]
  · rw [hvar, hlower]

theorem exec_powerCapVariantRequest_of_due {s : State} {v : Nat} (hover : 8 ≤ s.therm.capOver) (hlower : s.nextLower = some v)
    (hwait : s.therm.capWait = none ∨ s.therm.capWait = some 0) :
    exec .powerCapVariantRequest s = .next ({ s with therm := { s.therm with capWait := some 9 } }.raiseVarReq v) := by
  rw [exec_powerCapVariantRequest]
  unfold execPowerCapVariantRequest
  rw [if_pos ⟨hover, hwait⟩, hlower]

/-- The heat flag and the cap raise their requests, and wait anew. -/
theorem heatAndPowerAskForLowerRates : HeatAndPowerAskForLowerRates := by
  refine fun s => ⟨fun v hswitch hnew => ⟨fun hheat hwait hlevel hvar => ?_, fun hover hlower hwait => ?_⟩, fun h => ?_,
    fun hheat hcool => ?_, fun hcool => ?_, fun hwait => ?_⟩
  · refine ⟨_, exec_heatRerequest_of_due hheat hwait hlevel hvar, ?_, ?_, _, State.raiseVarReq_keeps_request hnew hswitch, rfl,
      rfl, rfl⟩
    · rw [State.heatRequest, State.raiseVarReq_therm]
    · rw [State.heatRequest, State.raiseVarReq_therm]
  · refine ⟨_, exec_powerCapVariantRequest_of_due hover hlower hwait, ?_, _, State.raiseVarReq_keeps_request hnew hswitch, rfl,
      rfl, rfl⟩
    rw [State.raiseVarReq_therm]
  · rw [exec_powerCapVariantRequest]
    unfold execPowerCapVariantRequest
    rw [if_neg]
    rintro ⟨hover, hwait⟩
    obtain h | ⟨n, h⟩ := h
    · omega
    · simp [h] at hwait
  · rw [exec_heatFlagClear]
    unfold execHeatFlagClear
    refine ⟨_, by rw [if_pos ⟨hheat, hcool⟩], ?_, ?_, ?_, fun a ha => ?_⟩
    · rw [State.levelEvent_therm]
      rfl
    · unfold State.fld
      rw [State.fldAt_of_regs (State.levelEvent_regs ..)]
      exact State.fld_put _ THM_STAT_HEAT 0 (by unfold Fld.inWord; decide)
    · rw [State.levelEvent_therm]
      rfl
    · unfold State.rd
      rw [State.levelEvent_regs]
      exact State.rd_put_ne _ _ _ a (fun e => ha (e ▸ List.mem_singleton.mpr rfl))
  · rw [exec_heatFlagClear]
    unfold execHeatFlagClear
    rw [if_neg (by omega)]
  · rw [exec_heatRerequest]
    unfold execHeatRerequest
    rw [if_neg (by simp [hwait])]

/-- The condition of level 3 that divides the clock, as the command reads it (R487). -/
theorem State.hotFor_iff (s : State) :
    (match s.therm.hotSince with | some r => decide (r + 1 ≤ s.sec.clockRods) | none => false) = true ↔
      ∃ r, s.therm.hotSince = some r ∧ r + 1 ≤ s.sec.clockRods := by
  cases h : s.therm.hotSince with
  | none => simp
  | some r => simp

theorem theClockDividesAndReturns : TheClockDividesAndReturns := by
  refine fun s => ⟨fun hrun hdiv => ⟨fun hcause => ?_, fun hhot hsensor hlow => ?_⟩, fun hdiv hcool hstate => ?_, fun h => ?_⟩
  · rw [exec_clockDivide]
    unfold execClockDivide
    rw [← s.hotFor_iff] at hcause
    extract_lets hot
    have hany : (hot || s.noDieSensor || s.therm.inputLow) = true := by rwa [Bool.or_eq_true, Bool.or_eq_true, or_assoc]
    exact ⟨_, by rw [if_pos ⟨hrun, by simp [hdiv], hany⟩], rfl, rfl, rfl⟩
  · rw [exec_clockDivide]
    unfold execClockDivide
    have hcool : ¬ (match s.therm.hotSince with | some r => decide (r + 1 ≤ s.sec.clockRods) | none => false) = true := by
      rw [s.hotFor_iff]
      rintro ⟨r, hr, hle⟩
      exact absurd (hhot r hr) (by omega)
    extract_lets hot
    rw [if_neg]
    rintro ⟨-, -, h⟩
    simp only [Bool.or_eq_true] at h
    obtain (h | h) | h := h
    · exact hcool h
    · simp [hsensor] at h
    · simp [hlow] at h
  · rw [exec_clockRestore]
    unfold execClockRestore
    rw [if_pos ⟨hdiv, hcool, hstate⟩]
  · rw [exec_clockRestore]
    unfold execClockRestore
    rw [if_neg]
    rintro ⟨-, hcool, hstate⟩
    exact h.elim (by omega) hstate

/-- Settles O55: the requests enter by the rule of every variant request, and the flag and the clock change by one step each. -/
theorem heatAndClock : Obligations.HeatAndClock := ⟨heatAndPowerAskForLowerRates, theClockDividesAndReturns⟩

end Sys2Proof.Machine
end

section
/-! What the steps of the start leave (R434 to R439): any part of the state that the core blocks' registers, the registers of the
start, the vectors, the fault tables, the boot records and the wish to start do not touch; and, once admission has a status,
that status. -/
namespace Sys2Proof.Machine

/-! ### Fields of the single blocks -/

@[simp] theorem State.fld_put_same (s : State) (f : Fld) (v : Nat) (h : f.lo ≤ f.hi ∧ f.hi < 32) :
    (s.put f v).fld f = v % 2 ^ (f.hi + 1 - f.lo) := s.fldAt_putAt_same 0 f v h

@[simp] theorem State.fld_put_other (s : State) (f g : Fld) (v : Nat) (h : f.misses g = true) : (s.put f v).fld g = s.fld g :=
  s.fldAt_putAt_other 0 f g v h

@[simp] theorem State.fld_add_same (s : State) (f : Fld) (n : Nat) (h : f.lo ≤ f.hi ∧ f.hi < 32) :
    (s.add f n).fld f = min (s.fld f + n) f.top := s.fldAt_addAt_same 0 f n h

@[simp] theorem State.fld_add_other (s : State) (f g : Fld) (n : Nat) (h : f.misses g = true) : (s.add f n).fld g = s.fld g :=
  s.fldAt_addAt_other 0 f g n h

@[simp] theorem State.fld_flag_other (s : State) (f g : Fld) (b : Bool) (h : f.misses g = true) : (s.flag f b).fld g = s.fld g :=
  s.fldAt_flagAt_other 0 f g b h

/-! ### Parts that a start leaves -/

/-- A part of the state that no step of the start but its admission touches. -/
structure StartLeaves {β : Type} (part : State → β) : Prop where
  core : ∀ (u : State) (i : Nat) (f : Fld) (v : Nat), 0x1000000 ≤ f.addr → part (u.putAt i f v) = part u
  start : ∀ (u : State) (f : Fld) (v : Nat), f.addr ∈ [GLB_STATE_STEP.addr, LD_EPOCH_CUR_EPOCH.addr, FLT_SPARES_SPARES.addr] →
    part (u.put f v) = part u
  rest : ∀ (u : State) m f b d,
    part { u with msix := m, faults := f, boot := b, sched := { u.sched with startDue := d } } = part u

/-- A part that no register touches. -/
theorem StartLeaves.of_regs {β : Type} {part : State → β}
    (h : ∀ (u : State) r m f b d,
      part { u with regs := r, msix := m, faults := f, boot := b, sched := { u.sched with startDue := d } } = part u) :
    StartLeaves part where
  core u _ _ _ _ := h u _ u.msix u.faults u.boot u.sched.startDue
  start u _ _ _ := h u _ u.msix u.faults u.boot u.sched.startDue
  rest u := h u u.regs

/-- A field below the core blocks that the start does not write. -/
theorem StartLeaves.fld {g : Fld} (hcore : g.addr < 0x1000000)
    (hstart : g.addr ∉ [GLB_STATE_STEP.addr, LD_EPOCH_CUR_EPOCH.addr, FLT_SPARES_SPARES.addr]) : StartLeaves (State.fld · g) where
  core u i f v hf := State.fldAt_putAt_ne u i 0 f g v (by omega)
  start u f v hf := State.fldAt_putAt_ne u 0 0 f g v fun e => hstart ((show g.addr = f.addr from e) ▸ hf)
  rest _ _ _ _ _ := rfl

section
variable {β : Type} {part : State → β} (h : StartLeaves part)
include h

theorem StartLeaves.sendVector (u : State) (v : Nat) : part (u.sendVector v) = part u := by
  have hmsix : ∀ m, part { u with msix := m } = part u := fun m => h.rest u m u.faults u.boot u.sched.startDue
  exact ite_leaves (hmsix _) (ite_leaves rfl (hmsix _))

theorem StartLeaves.putGlb (u : State) {f : Fld} (v : Nat)
    (hf : f.addr ∈ [GLB_STATE_STEP.addr, LD_EPOCH_CUR_EPOCH.addr, FLT_SPARES_SPARES.addr] := by decide) :
    part (u.putGlb f v) = part u :=
  ite_leaves rfl ((h.sendVector _ 18).trans (h.start u f v hf))

theorem StartLeaves.faults (u : State) (f : Faults) : part { u with faults := f } = part u :=
  h.rest u u.msix f u.boot u.sched.startDue

theorem StartLeaves.boot (u : State) (b : Boot) : part { u with boot := b } = part u :=
  h.rest u u.msix u.faults b u.sched.startDue

theorem StartLeaves.mapCore (u : State) (logical core : Nat) : part (u.mapCore logical core) = part u := by
  unfold State.mapCore
  extract_lets faults v
  have hv : part v = part u := h.faults u _
  exact ((h.core _ _ CORE_STAT_SPARE _ (by decide)).trans (h.core _ _ CORE_STAT_LOGICAL _ (by decide))).trans
    ((h.core _ _ CORE_STAT_MAPPED _ (by decide)).trans hv)

theorem StartLeaves.mapRegion (u : State) (r : Region) : part (u.mapRegion r) = part u := by
  unfold State.mapRegion
  extract_lets cores claims winner kept rest free v
  exact (foldl_leaves part _ _ _ fun x _ => h.core x _ CORE_STAT_SPARE _ (by decide)).trans
    (foldl_leaves part _ _ _ fun x k => h.mapCore x k.1 k.2)

theorem StartLeaves.regionRegs (u : State) (c : Nat) : part (u.regionRegs c) = part u := by
  unfold State.regionRegs
  split
  · rfl
  · exact (((h.core _ _ RTR_STAT_EDGE _ (by decide)).trans (h.core _ _ RTR_STAT_ATTACH _ (by decide))).trans
      ((h.core _ _ RTR_STAT_BOUNDARY _ (by decide)).trans (h.core _ _ CORE_STAT_REGION _ (by decide)))).trans
      (h.core _ _ RTR_STAT_REGION _ (by decide))

theorem StartLeaves.newMap (u : State) : part u.newMap = part u :=
  (foldl_leaves part _ _ _ fun x r => h.mapRegion x r).trans (h.faults u _)

theorem StartLeaves.logAppend (u : State) (type cause : Nat) (detail : List Byte) : part (u.logAppend type cause detail) = part u :=
  h.boot u _

theorem StartLeaves.recordMaps (u : State) : part u.recordMaps = part u :=
  foldl_leaves part _ _ _ fun x _ => ite_leaves rfl (h.logAppend x _ _ _)

theorem StartLeaves.countSpares (u : State) : part u.countSpares = part u :=
  (h.start _ _ _ (by decide)).trans (h.start _ _ _ (by decide))

theorem StartLeaves.regionSetup (u : State) : part u.regionSetup = part u := by
  rw [State.regionSetup_eq]
  have hregs : part ((List.range 800).foldl State.regionRegs u) = part u := foldl_leaves part _ _ _ fun x c => h.regionRegs x c
  exact (h.countSpares _).trans ((h.recordMaps _).trans ((h.newMap _).trans hregs))

theorem StartLeaves.takeAssign (u : State) : part u.takeAssign = part u :=
  (h.start _ LD_EPOCH_CUR_EPOCH _ (by decide)).trans ((h.start _ GLB_STATE_FLIP_PARITY _ (by decide)).trans
    (h.start _ GLB_STATE_STANDBY _ (by decide)))

theorem StartLeaves.wantStart (u : State) : part u.wantStart = part u :=
  ite_leaves (h.rest u u.msix u.faults u.boot true) rfl

theorem StartLeaves.noteUnadmitted (u : State) : part u.noteUnadmitted = part u := ite_leaves (h.logAppend u _ _ _) rfl

/-- The work of a step that is not the admission. -/
theorem StartLeaves.stepDone {u v : State} {n : Nat}
    (hv : v ∈ [u, u.regionSetup, u.takeAssign, u.wantStart.noteUnadmitted, u.putGlb GLB_STATE_STATE 1]) :
    part (v.putGlb GLB_STATE_STEP n) = part u := by
  refine (h.putGlb v n).trans ?_
  simp only [List.mem_cons, List.not_mem_nil, or_false] at hv
  obtain rfl | rfl | rfl | rfl | rfl := hv
  · rfl
  · exact h.regionSetup u
  · exact h.takeAssign u
  · exact (h.noteUnadmitted _).trans (h.wantStart u)
  · exact h.putGlb u 1

theorem StartLeaves.showWait (u : State) :
    part (if u.fld GLB_STATE_STATE = 2 then u else u.putGlb GLB_STATE_WAIT u.waitCode) = part u := ite_leaves rfl (h.putGlb u _)

/-! ### The start goes on -/

/-- A part that an admission becoming due does not touch either. -/
theorem StartLeaves.advanceStart (hadm : ∀ u : State, part u.reAdmit = part u) (u : State) : part u.advanceStart = part u := by
  have hsteps : ∀ n v, part (State.advanceN n v) = part v := by
    intro n
    induction n with
    | zero => exact fun v => rfl
    | succ n ih =>
      intro v
      unfold State.advanceN
      cases hstep : v.stepOnce with
      | none => rfl
      | some w =>
        obtain rfl | ⟨k, x, hx, rfl⟩ := State.stepOnce_cases hstep
        · exact (ih _).trans (hadm v)
        · exact (ih _).trans (h.stepDone hx)
  exact (h.showWait _).trans (hsteps 10 u)

end

/-- An admission that becomes due leaves all but the registers and its mark. -/
theorem State.reAdmit_leaves {β : Type} (part : State → β)
    (h : ∀ (u : State) r a, part { u with regs := r, sched := { u.sched with admDue := a } } = part u) (s : State) :
    part s.reAdmit = part s := by
  unfold State.reAdmit
  exact ite_leaves rfl (ite_leaves (h s s.regs true) (h s _ true))

/-- A part that neither registers nor the due admission touch. -/
theorem State.advanceStart_leaves {β : Type} (part : State → β)
    (h : ∀ (u : State) r m f b a d,
      part { u with regs := r, msix := m, faults := f, boot := b, sched := { u.sched with admDue := a, startDue := d } } = part u)
    (s : State) : part s.advanceStart = part s := by
  have hleaves : StartLeaves part := .of_regs fun u r m f b d => h u r m f b u.sched.admDue d
  exact hleaves.advanceStart
    (State.reAdmit_leaves part fun u r a => h u r u.msix u.faults u.boot a u.sched.startDue) s

/-- The steps other than the admission of step 6. -/
def State.StepDone (s t : State) : Prop :=
  ∃ n, ∃ u ∈ [s, s.regionSetup, s.takeAssign, s.wantStart.noteUnadmitted, s.putGlb GLB_STATE_STATE 1], t = u.putGlb GLB_STATE_STEP n

/-- A step admits only while admission has no status. -/
theorem State.stepOnce_admits {s t : State} (h : s.stepOnce = some t) :
    t = s.reAdmit ∧ s.fld TB_ADM_STAT_STATE = 0 ∨ s.StepDone t := by
  unfold State.stepOnce at h
  extract_lets done at h
  have hdone : ∀ n u, u ∈ [s, s.regionSetup, s.takeAssign, s.wantStart.noteUnadmitted, s.putGlb GLB_STATE_STATE 1] →
      done n u = some t → s.StepDone t := fun n u hu h => ⟨n, u, hu, (Option.some.inj h).symm⟩
  clear_value done
  obtain ⟨-, h⟩ := Option.ite_none_left_eq_some.mp h
  split at h
  case h_4 =>
    obtain ⟨-, h⟩ := Option.ite_none_left_eq_some.mp h
    split at h
    next hstatus => exact .inl ⟨(Option.some.inj h).symm, hstatus⟩
    next => exact .inr (hdone _ _ (by simp) (Option.ite_none_left_eq_some.mp h).2)
  case h_3 => exact .inr (hdone _ _ (by simp) h)
  case h_9 => cases h
  all_goals exact .inr (hdone _ _ (by simp) (Option.ite_none_right_eq_some.mp h).2)

section
variable {β : Type} {part : State → β} (h : StartLeaves part)
include h

/-- Once admission has a status, a start that goes on keeps it, and leaves the part. -/
theorem StartLeaves.advanceN_of_status (n : Nat) {s : State} (hstatus : s.fld TB_ADM_STAT_STATE ≠ 0) :
    part (State.advanceN n s) = part s := by
  have hkept : StartLeaves (State.fld · TB_ADM_STAT_STATE) := .fld (by decide) (by decide)
  induction n generalizing s with
  | zero => rfl
  | succ n ih =>
    unfold State.advanceN
    cases hstep : s.stepOnce with
    | none => rfl
    | some t =>
      obtain ⟨-, hnone⟩ | ⟨k, x, hx, rfl⟩ := State.stepOnce_admits hstep
      · exact absurd hnone hstatus
      · exact (ih ((hkept.stepDone hx).trans_ne hstatus)).trans (h.stepDone hx)

theorem StartLeaves.advanceStart_of_status {s : State} (hstatus : s.fld TB_ADM_STAT_STATE ≠ 0) :
    part s.advanceStart = part s := (h.showWait _).trans (h.advanceN_of_status 10 hstatus)

end

end Sys2Proof.Machine
end

section
/-! Admission runs (R210 to R216), and the requests and refusals of variants (R205, R206): O22. -/
namespace Sys2Proof.Machine

theorem exec_admissionRun (s : State) : exec .admissionRun s = execAdmissionRun s := rfl

/-! ### What an admission shows -/

theorem State.recheckSwitches_leaves {β : Type} (part : State → β)
    (h : ∀ s r f q w, part { s with regs := r, fab := f, sched := { s.sched with reqs := q, switches := w } } = part s)
    (s : State) : part s.recheckSwitches = part s := by
  unfold State.recheckSwitches
  extract_lets t
  have hswitch : ∀ u (w : Switch), part (if u.admittedVar w.var then u else u.refuseVar w.dated w.var) = part u :=
    fun u w => ite_leaves rfl (u.refuseVar_leaves part h w.dated w.var)
  have hreq : ∀ u (r : VarReq), part (if u.admittedVar r.var ∨ r.refused then u else u.refuseVar r.mile r.var) = part u :=
    fun u r => ite_leaves rfl (u.refuseVar_leaves part h r.mile r.var)
  exact (foldl_leaves part _ _ t hreq).trans (foldl_leaves part _ _ s hswitch)

theorem State.recheckSwitches_frame (s : State) : RequestFrame s s.recheckSwitches := by
  unfold State.recheckSwitches
  extract_lets t
  have hswitch : ∀ u (w : Switch), RequestFrame s u → RequestFrame s (if u.admittedVar w.var then u else u.refuseVar w.dated w.var) :=
    fun u w hu => hu.ite (hu.refuseVar w.dated w.var)
  have hreq : ∀ u (r : VarReq), RequestFrame s u →
      RequestFrame s (if u.admittedVar r.var ∨ r.refused then u else u.refuseVar r.mile r.var) :=
    fun u r hu => hu.ite (hu.refuseVar r.mile r.var)
  have ht : RequestFrame s t := List.foldlRecOn (motive := RequestFrame s) _ _ (.refl s) fun u hu w _ => hswitch u w hu
  exact List.foldlRecOn (motive := RequestFrame s) _ _ ht fun u hu r _ => hreq u r hu

/-- The counts of runs and of failures that an admission shows. -/
theorem State.showAdmit_counts (s : State) (passed : List Nat) (failed : Bool) :
    (s.showAdmit passed failed).fld TB_ADM_CNT_RUNS = min (s.fld TB_ADM_CNT_RUNS + 1) TB_ADM_CNT_RUNS.top ∧
    (s.showAdmit passed failed).fld TB_ADM_CNT_FAILED =
      if failed then min (s.fld TB_ADM_CNT_FAILED + 1) TB_ADM_CNT_FAILED.top else s.fld TB_ADM_CNT_FAILED := by
  unfold State.showAdmit
  cases failed <;> simp (disch := decide)

/-- No variant is shown as admitted where none passed. -/
theorem State.showAdmit_none (s : State) (failed : Bool) : (s.showAdmit [] failed).fld TB_VAR_ADMIT_ADMITTED = 0 := by
  unfold State.showAdmit
  cases failed <;> simp (disch := decide)

/-- An admission's report writes its two registers. -/
theorem State.showAdmit_only (s : State) (passed : List Nat) (failed : Bool) :
    RegsOnly [TB_VAR_ADMIT_ADMITTED.addr, TB_ADM_CNT_RUNS.addr] s (s.showAdmit passed failed) := by
  have hvar : TB_VAR_ADMIT_ADMITTED.addr ∈ [TB_VAR_ADMIT_ADMITTED.addr, TB_ADM_CNT_RUNS.addr] := List.mem_cons_self
  have hcnt : TB_ADM_CNT_RUNS.addr ∈ [TB_VAR_ADMIT_ADMITTED.addr, TB_ADM_CNT_RUNS.addr] := by simp
  unfold State.showAdmit
  extract_lets vs mask a8 u v w
  have hu := ((RegsOnly.refl _ s).putAt (i := 0) (f := TB_VAR_ADMIT_ADMITTED) hvar (mask passed)).putAt (i := 0)
    (f := TB_VAR_ADMIT_PRESENT) hvar (mask (vs.map Variant.num))
  have hv := (hu.flagAt (i := 0) (f := TB_VAR_ADMIT_A8_VALID) hvar a8.isSome).putAt (i := 0) (f := TB_VAR_ADMIT_A8_VAR) hvar
    ((a8.map Variant.num).getD 0)
  have hw := hv.addAt (i := 0) (f := TB_ADM_CNT_RUNS) hcnt 1
  exact (hw.addAt (i := 0) (f := TB_ADM_CNT_FAILED) hcnt 1).ite hw

/-- The admission status that is shown. -/
theorem State.admStat_shows (s : State) (state code item : Nat) :
    (s.admStat state code item).fld TB_ADM_STAT_STATE = state % 2 ^ (TB_ADM_STAT_STATE.hi + 1 - TB_ADM_STAT_STATE.lo) ∧
    (s.admStat state code item).fld TB_ADM_STAT_CODE = code % 2 ^ (TB_ADM_STAT_CODE.hi + 1 - TB_ADM_STAT_CODE.lo) ∧
    (s.admStat state code item).fld TB_ADM_STAT_ITEM = item % 2 ^ (TB_ADM_STAT_ITEM.hi + 1 - TB_ADM_STAT_ITEM.lo) := by
  unfold State.admStat
  simp (disch := decide)

theorem State.admStat_only (s : State) (state code item : Nat) :
    RegsOnly [TB_ADM_STAT_STATE.addr, GLB_STATE_ADMIT_FAILED.addr] s (s.admStat state code item) := by
  have hstat : TB_ADM_STAT_STATE.addr ∈ [TB_ADM_STAT_STATE.addr, GLB_STATE_ADMIT_FAILED.addr] := List.mem_cons_self
  exact ((((RegsOnly.refl _ s).putAt (i := 0) (f := TB_ADM_STAT_STATE) hstat state).putAt (i := 0) (f := TB_ADM_STAT_CODE) hstat
    code).putAt (i := 0) (f := TB_ADM_STAT_ITEM) hstat item).flagAt (i := 0) (f := GLB_STATE_ADMIT_FAILED) (by simp) _

theorem RegsOnly.fld {as : List Nat} {s t : State} (h : RegsOnly as s t) {f : Fld} (hf : f.addr ∉ as) : t.fld f = s.fld f :=
  congrArg (getBits · f.hi f.lo) (h.regs f.addr hf)

theorem RegsOnly.isSet {as : List Nat} {s t : State} (h : RegsOnly as s t) {f : Fld} (hf : f.addr ∉ as) :
    t.isSet f = s.isSet f := by
  unfold State.isSet
  rw [h.fld hf]

theorem RegsOnly.leaves {β : Type} {part : State → β} (hp : ∀ s r, part { s with regs := r } = part s) {as : List Nat}
    {s t : State} (h : RegsOnly as s t) : part t = part s := by
  rw [h.rest]
  exact hp s _

/-! ### What follows the outcome -/

/-- Once admission has a status, the check of the switches and the start leave a register outside theirs. -/
theorem State.fld_after_outcome {s : State} (hstatus : s.fld TB_ADM_STAT_STATE ≠ 0) {g : Fld} (hreq : g.addr ∉ requestRegs)
    (hcore : g.addr < 0x1000000) (hstart : g.addr ∉ [GLB_STATE_STEP.addr, LD_EPOCH_CUR_EPOCH.addr, FLT_SPARES_SPARES.addr]) :
    s.recheckSwitches.advanceStart.fld g = s.fld g := by
  have hframe := s.recheckSwitches_frame
  have hkept : s.recheckSwitches.fld TB_ADM_STAT_STATE ≠ 0 := by rwa [hframe.fld (by decide)]
  exact ((StartLeaves.fld hcore hstart).advanceStart_of_status hkept).trans (hframe.fld hreq)

/-- And a part of the state that no register is. -/
theorem State.leaves_after_outcome {β : Type} {part : State → β}
    (hreq : ∀ s r f q w, part { s with regs := r, fab := f, sched := { s.sched with reqs := q, switches := w } } = part s)
    (hstart : ∀ (u : State) r m f b d,
      part { u with regs := r, msix := m, faults := f, boot := b, sched := { u.sched with startDue := d } } = part u)
    {s : State} (hstatus : s.fld TB_ADM_STAT_STATE ≠ 0) : part s.recheckSwitches.advanceStart = part s := by
  have hkept : s.recheckSwitches.fld TB_ADM_STAT_STATE ≠ 0 := by rwa [s.recheckSwitches_frame.fld (by decide)]
  exact ((StartLeaves.of_regs hstart).advanceStart_of_status hkept).trans (s.recheckSwitches_leaves part hreq)

/-! ### The two outcomes -/

/-- The run is taken up: it is no longer due. -/
def State.takeRun (s : State) : State :=
  { s with sched := { s.sched with admDue := false }, rqt := { s.rqt with flowLate := false } }

/-- The results of the variants, with their numbers. -/
def State.results (s : State) : List (Nat × Option (Nat × Nat)) :=
  s.boot.image.variants.map (fun v => (v.num, if s.globalFail.isSome then s.globalFail else s.checkVariant v))

/-- What the run shows. -/
def State.shown (s : State) (fail : Option (Nat × Nat)) : State :=
  s.showAdmit ((s.results.filter (fun r => r.2.isNone)).map Prod.fst) fail.isSome

/-- The variant that the module is to run. -/
def State.runVar (s : State) : Nat := if s.sched.started then s.sched.var else s.boot.image.startVar

/-- The failure of that variant, if it fails. -/
def State.verdict (s : State) : Option (Nat × Nat) :=
  match s.globalFail with
  | some f => some f
  | none =>
    match s.results.find? (fun r => r.1 = s.runVar) with
    | some r => r.2
    | none => some (0x1A, s.runVar)

/-- What the verdict makes of the module. -/
def State.conclude (s : State) : State :=
  match s.verdict with
  | none => (s.shown s.verdict).passVariant s.runVar
  | some f =>
    if (s.shown s.verdict).sched.started then (s.shown s.verdict).failInForce f.1 f.2
    else { ((s.shown s.verdict).admStat 3 f.1 f.2) with sched := { (s.shown s.verdict).sched with admitted := false } }

theorem execAdmissionRun_eq (s : State) : execAdmissionRun s =
    .next (if !s.sched.admDue ∨ !s.isSet TB_STAT_COUNT_VALID then s
      else (if decide (s.startStep = 5) then s.takeRun.loadTables else s.takeRun).conclude.recheckSwitches.advanceStart) := rfl

/-- A run that is due outside step 5. -/
theorem exec_admissionRun_of_due {s : State} (hdue : s.sched.admDue = true) (hcount : s.isSet TB_STAT_COUNT_VALID = true)
    (hstep : s.fld GLB_STATE_STEP ≠ 5) : exec .admissionRun s = .next s.takeRun.conclude.recheckSwitches.advanceStart := by
  rw [exec_admissionRun, execAdmissionRun_eq, if_neg (by simp [hdue, hcount]), if_neg (by rw [decide_eq_true_iff]; exact hstep)]

/-! ### The module is admitted -/

/-- On a valid count, with an undivided clock, the verdict is that of the variant in force. -/
theorem State.verdict_of_variant {s : State} {v : Variant} (hcount : s.isSet TB_STAT_COUNT_VALID = true)
    (hclock : s.therm.divided = false) (hstarted : s.sched.started = true)
    (hv : s.boot.image.variants.find? (fun x => x.num = s.sched.var) = some v) : s.verdict = s.checkVariant v := by
  have hglobal : s.globalFail = none := by simp [State.globalFail, hcount, hclock]
  have hfind : s.results.find? (fun r => r.1 = s.sched.var) = some (v.num, s.checkVariant v) := by
    unfold State.results
    rw [hglobal, List.find?_map]
    exact congrArg (Option.map _) hv
  unfold State.verdict
  rw [hglobal, show s.runVar = s.sched.var from if_pos hstarted, hfind]

/-- A variant is put in force, and no time-base failure is open. -/
def State.putInForce (s : State) (v : Nat) : State :=
  ((s.takeVariant v).put TB_VAR_STAT_IN_FORCE v).put TB_STAT_TIME_FAIL 0

theorem State.passVariant_eq {s : State} (htime : s.isSet TB_STAT_TIME_FAIL = false) (v : Nat) :
    s.passVariant v = ((s.putInForce v).admStat 2 0 0xFFFF).setAdmitted.wantStart := by
  have hkept : ((s.takeVariant v).put TB_VAR_STAT_IN_FORCE v).isSet TB_STAT_TIME_FAIL = false := by
    unfold State.isSet at htime ⊢
    rwa [State.fld_put_other _ _ _ _ (by decide)]
  exact if_neg (by simp [hkept])

theorem State.fld_admitted (s : State) (g : Fld) : s.setAdmitted.wantStart.fld g = s.fld g := by
  have hregs : s.setAdmitted.wantStart.regs = s.setAdmitted.regs := by
    unfold State.wantStart
    exact ite_leaves rfl rfl
  exact State.fldAt_of_regs (hregs.trans rfl) 0 g

/-- A variant that passes leaves the module admitted. -/
theorem State.passVariant_shows {s : State} (htime : s.isSet TB_STAT_TIME_FAIL = false) (v : Nat) :
    (s.passVariant v).fld TB_ADM_STAT_STATE = 2 ∧ (s.passVariant v).fld TB_ADM_STAT_CODE = 0 := by
  obtain ⟨hstate, hcode, -⟩ := (s.putInForce v).admStat_shows 2 0 0xFFFF
  rw [State.passVariant_eq htime, State.fld_admitted, State.fld_admitted, hstate, hcode]
  decide

theorem State.passVariant_admDue {s : State} (htime : s.isSet TB_STAT_TIME_FAIL = false) (v : Nat) :
    (s.passVariant v).sched.admDue = s.sched.admDue := by
  have hstart : StartLeaves (fun s : State => s.sched.admDue) := .of_regs fun _ _ _ _ _ _ => rfl
  have hput : ∀ (u : State) (f : Fld) (x : Nat), (u.put f x).sched.admDue = u.sched.admDue := fun _ _ _ => rfl
  have hforce : (s.putInForce v).sched.admDue = s.sched.admDue := (hput _ _ _).trans (hput _ _ _)
  have hadm : ((s.putInForce v).admStat 2 0 0xFFFF).sched.admDue = (s.putInForce v).sched.admDue :=
    ((s.putInForce v).admStat_only 2 0 0xFFFF).leaves (part := fun s => s.sched.admDue) fun _ _ => rfl
  have hset : ∀ u : State, u.setAdmitted.sched.admDue = u.sched.admDue := fun _ => rfl
  rw [State.passVariant_eq htime]
  exact (hstart.wantStart _).trans ((hset _).trans (hadm.trans hforce))

theorem State.passVariant_other {s : State} (htime : s.isSet TB_STAT_TIME_FAIL = false) (v : Nat) {g : Fld}
    (hforce : TB_VAR_STAT_IN_FORCE.misses g = true) (htb : TB_STAT_TIME_FAIL.misses g = true)
    (hadm : g.addr ∉ [TB_ADM_STAT_STATE.addr, GLB_STATE_ADMIT_FAILED.addr]) : (s.passVariant v).fld g = s.fld g := by
  rw [State.passVariant_eq htime, State.fld_admitted, ((s.putInForce v).admStat_only 2 0 0xFFFF).fld hadm]
  exact (State.fld_put_other _ _ _ _ htb).trans (State.fld_put_other _ _ _ _ hforce)

/-- A run that passes, from its outcome on. -/
theorem admissionRun_admits {s : State} {v : Variant} (hdue : s.sched.admDue = true) (hstep : s.fld GLB_STATE_STEP ≠ 5)
    (hstarted : s.sched.started = true) (htime : s.isSet TB_STAT_TIME_FAIL = false)
    (hcount : s.isSet TB_STAT_COUNT_VALID = true)
    (hv : s.boot.image.variants.find? (fun x => x.num = s.sched.var) = some v) (hclock : s.therm.divided = false)
    (hpass : s.takeRun.checkVariant v = none) :
    ∃ t, exec .admissionRun s = .next t ∧ t.fld TB_ADM_STAT_STATE = 2 ∧ t.fld TB_ADM_STAT_CODE = 0 ∧ t.sched.admDue = false ∧
      t.fld TB_ADM_CNT_RUNS = min (s.fld TB_ADM_CNT_RUNS + 1) TB_ADM_CNT_RUNS.top ∧
      t.fld TB_ADM_CNT_FAILED = s.fld TB_ADM_CNT_FAILED := by
  have hverdict : s.takeRun.verdict = none := (State.verdict_of_variant hcount hclock hstarted hv).trans hpass
  have hconclude : s.takeRun.conclude = (s.takeRun.shown none).passVariant s.takeRun.runVar := by
    unfold State.conclude
    rw [hverdict]
  have honly : RegsOnly [TB_VAR_ADMIT_ADMITTED.addr, TB_ADM_CNT_RUNS.addr] s.takeRun (s.takeRun.shown none) :=
    s.takeRun.showAdmit_only _ _
  obtain ⟨hruns, hfailed⟩ := s.takeRun.showAdmit_counts ((s.takeRun.results.filter (fun r => r.2.isNone)).map Prod.fst) false
  have hopen : (s.takeRun.shown none).isSet TB_STAT_TIME_FAIL = false := (honly.isSet (by decide)).trans htime
  obtain ⟨hstate, hcode⟩ := State.passVariant_shows hopen s.takeRun.runVar
  rw [← hconclude] at hstate hcode
  have hstatus : s.takeRun.conclude.fld TB_ADM_STAT_STATE ≠ 0 := by rw [hstate]; decide
  refine ⟨_, exec_admissionRun_of_due hdue hcount hstep, ?_, ?_, ?_, ?_, ?_⟩
  · rw [State.fld_after_outcome hstatus (by decide) (by decide) (by decide), hstate]
  · rw [State.fld_after_outcome hstatus (by decide) (by decide) (by decide), hcode]
  · rw [State.leaves_after_outcome (part := fun s => s.sched.admDue) (fun _ _ _ _ _ => rfl) (fun _ _ _ _ _ _ => rfl) hstatus,
      hconclude, State.passVariant_admDue hopen]
    exact honly.leaves (part := fun s => s.sched.admDue) fun _ _ => rfl
  · rw [State.fld_after_outcome hstatus (by decide) (by decide) (by decide), hconclude,
      State.passVariant_other hopen _ (by decide) (by decide) (by decide)]
    exact hruns
  · rw [State.fld_after_outcome hstatus (by decide) (by decide) (by decide), hconclude,
      State.passVariant_other hopen _ (by decide) (by decide) (by decide)]
    exact hfailed

/-! ### No variant passes -/

theorem State.globalFail_of_divided {s : State} (hcount : s.isSet TB_STAT_COUNT_VALID = true) (hclock : s.therm.divided = true) :
    s.globalFail = some (3, 0xFFFF) := by
  simp [State.globalFail, hcount, hclock]

/-- A failure of every variant shows none as admitted. -/
theorem State.shown_of_globalFail {s : State} {f : Nat × Nat} (h : s.globalFail = some f) (fail : Option (Nat × Nat)) :
    s.shown fail = s.showAdmit [] fail.isSome := by
  have hnone : s.results.filter (fun r => r.2.isNone) = [] := by
    unfold State.results
    rw [h, List.filter_eq_nil_iff]
    simp
  unfold State.shown
  rw [hnone]
  rfl

theorem State.bestAdmitted_none {s : State} (h : s.fld TB_VAR_ADMIT_ADMITTED = 0) : s.bestAdmitted = none := by
  have hall : s.boot.image.variants.filter (fun v => s.admittedVar v.num) = [] := by
    rw [List.filter_eq_nil_iff]
    simp [State.admittedVar, h]
  unfold State.bestAdmitted
  rw [hall]
  rfl

/-- The variant in force is barred, and the sequencers are to stop at the next mile boundary. -/
def State.barAndStop (s : State) : State :=
  { s with sched := { s.sched with barred := true }, tb := { s.tb with stopAtMile := true } }

theorem State.fld_barAndStop (s : State) (g : Fld) : s.barAndStop.fld g = s.fld g :=
  State.fldAt_of_regs (s := s) (t := s.barAndStop) rfl 0 g

/-- The failure of the variant in force is shown. -/
def State.failStops (s : State) (code item : Nat) : State := ((s.put TB_STAT_TIME_FAIL 0).admStat 2 code item).barAndStop

theorem State.fld_failStops (s : State) (code item : Nat) (g : Fld) :
    (s.failStops code item).fld g = ((s.put TB_STAT_TIME_FAIL 0).admStat 2 code item).fld g :=
  State.fld_barAndStop _ g

theorem State.failInForce_stops {s : State} (hrun : s.sched.running = true) (hnone : s.fld TB_VAR_ADMIT_ADMITTED = 0)
    (code item : Nat) : s.failInForce code item = s.failStops code item := by
  have hkept : ((s.put TB_STAT_TIME_FAIL 0).admStat 2 code item).sched.running = true :=
    ((State.admStat_only _ 2 code item).leaves (part := fun s => s.sched.running) fun _ _ => rfl).trans hrun
  unfold State.failInForce
  rw [State.bestAdmitted_none hnone]
  exact if_pos hkept

/-- A run with the clock divided, from its outcome on. -/
theorem admissionRun_fails {s : State} (hdue : s.sched.admDue = true) (hstep : s.fld GLB_STATE_STEP ≠ 5)
    (hstarted : s.sched.started = true) (hcount : s.isSet TB_STAT_COUNT_VALID = true) (hclock : s.therm.divided = true)
    (hrun : s.sched.running = true) :
    ∃ t, exec .admissionRun s = .next t ∧ t.fld TB_VAR_ADMIT_ADMITTED = 0 ∧ t.fld TB_ADM_STAT_CODE = 3 ∧
      t.fld TB_ADM_STAT_ITEM = 0xFFFF ∧ t.fld TB_ADM_CNT_FAILED = min (s.fld TB_ADM_CNT_FAILED + 1) TB_ADM_CNT_FAILED.top ∧
      t.tb.stopAtMile = true := by
  have hglobal : s.takeRun.globalFail = some (3, 0xFFFF) := State.globalFail_of_divided hcount hclock
  have hverdict : s.takeRun.verdict = some (3, 0xFFFF) := by
    unfold State.verdict
    rw [hglobal]
  have honly := s.takeRun.showAdmit_only [] true
  have hconclude : s.takeRun.conclude = (s.takeRun.showAdmit [] true).failStops 3 0xFFFF := by
    unfold State.conclude
    rw [hverdict, State.shown_of_globalFail hglobal]
    refine (if_pos ?_).trans (State.failInForce_stops ?_ (State.showAdmit_none _ true) 3 0xFFFF)
    · exact (honly.leaves (part := fun s => s.sched.started) fun _ _ => rfl).trans hstarted
    · exact (honly.leaves (part := fun s => s.sched.running) fun _ _ => rfl).trans hrun
  obtain ⟨hstate, hcode, hitem⟩ := ((s.takeRun.showAdmit [] true).put TB_STAT_TIME_FAIL 0).admStat_shows 2 3 0xFFFF
  have hadm := ((s.takeRun.showAdmit [] true).put TB_STAT_TIME_FAIL 0).admStat_only 2 3 0xFFFF
  obtain ⟨-, hfailed⟩ := s.takeRun.showAdmit_counts [] true
  have hstatus : s.takeRun.conclude.fld TB_ADM_STAT_STATE ≠ 0 := by
    rw [hconclude, State.fld_failStops, hstate]
    decide
  refine ⟨_, exec_admissionRun_of_due hdue hcount hstep, ?_, ?_, ?_, ?_, ?_⟩
  · rw [State.fld_after_outcome hstatus (by decide) (by decide) (by decide), hconclude, State.fld_failStops]
    exact (hadm.fld (by decide)).trans ((State.fld_put_other _ _ _ _ (by decide)).trans (State.showAdmit_none _ true))
  · rw [State.fld_after_outcome hstatus (by decide) (by decide) (by decide), hconclude, State.fld_failStops, hcode]
    decide
  · rw [State.fld_after_outcome hstatus (by decide) (by decide) (by decide), hconclude, State.fld_failStops, hitem]
    decide
  · rw [State.fld_after_outcome hstatus (by decide) (by decide) (by decide), hconclude, State.fld_failStops]
    exact (hadm.fld (by decide)).trans ((State.fld_put_other _ _ _ _ (by decide)).trans hfailed)
  · rw [State.leaves_after_outcome (part := fun s => s.tb.stopAtMile) (fun _ _ _ _ _ => rfl) (fun _ _ _ _ _ _ => rfl) hstatus,
      hconclude]
    rfl

/-- The management controller's command makes a run due, and shows it unless the time base waits for its count. -/
theorem exec_mcAdmissionCommand {s : State} (h : s.mgmtUp = true) : exec .mcAdmissionCommand s = .next s.reAdmit :=
  congrArg Host.Outcome.next (if_pos h)

theorem State.reAdmit_regs (s : State) : regsKept s s.reAdmit [TB_ADM_STAT_STATE.addr] := by
  intro a ha
  unfold State.reAdmit
  exact ite_leaves (part := fun u : State => u.rd a) rfl (ite_leaves (part := fun u : State => u.rd a) rfl
    (State.rd_put_ne _ TB_ADM_STAT_STATE 1 a fun e => ha (e ▸ List.mem_singleton.mpr rfl)))

theorem admissionPassesOrFailsByItsFirstCode : AdmissionPassesOrFailsByItsFirstCode := by
  refine fun s => ⟨fun s' v hdue hs' hstep hstarted htime hcount hv => ⟨fun hclock hpass => ?_, fun hclock hrun => ?_⟩,
    fun hcount => ?_, fun hup hstep => ?_⟩
  · subst hs'
    exact admissionRun_admits hdue hstep hstarted htime hcount hv hclock hpass
  · exact admissionRun_fails hdue hstep hstarted hcount hclock hrun
  · rw [exec_admissionRun, execAdmissionRun_eq, if_pos (by simp [hcount])]
  · exact ⟨_, exec_mcAdmissionCommand hup, State.reAdmit_due hstep, State.reAdmit_status hstep, s.reAdmit_regs⟩

/-! ### Requests and refusals -/

theorem exec_sbVarReq {m : SbMsg} (hm : m.kind = 2) (s : State) : exec (.sbVarReq m) s = .next (s.seeVarReq m) :=
  congrArg Host.Outcome.next (if_pos hm)

theorem exec_mcVariantRequest {s : State} (h : s.mgmtUp = true) (v : Fin 8) :
    exec (.mcVariantRequest v) s = .next (s.raiseVarReq v) := congrArg Host.Outcome.next (if_pos h)

theorem exec_sbVarRefuse {m : SbMsg} (hm : m.kind = 3) (s : State) : exec (.sbVarRefuse m) s = .next (s.seeRefusal m) :=
  congrArg Host.Outcome.next (if_pos hm)

/-- The table's row of TB_VAR_REQ. -/
def tbVarReg : RegDef :=
  ⟨"TB_VAR_REQ", 0x0001284, 1, .tb, false, false, false, [⟨TB_VAR_REQ_REQ, .w1s, .live, 0⟩, ⟨TB_VAR_REQ_VAR, .rw, .live, 0⟩]⟩

theorem regAt_tbVarReg : regAt TB_VAR_REQ_REQ.addr = some tbVarReg := by decide +kernel

/-- A write of TB_VAR_REQ that passes the gates with REQ set raises a request for the variant written. -/
theorem exec_tbVarReq {s : State} {w : Wr} (hreach : writeReaches s w TB_VAR_REQ_REQ.addr tbVarReg = true)
    (hreq : wbits w.data TB_VAR_REQ_REQ = 1) :
    exec (.tbVarReq w) s = .next ((s.storeReg w TB_VAR_REQ_REQ.addr tbVarReg).raiseVarReq (wbits w.data TB_VAR_REQ_VAR)) := by
  have hwrite : s.write w 0x1284 = (s.storeReg w TB_VAR_REQ_REQ.addr tbVarReg, some w.data) :=
    State.write_of_reaches regAt_tbVarReg hreach (by decide)
  have hrd : (s.storeReg w TB_VAR_REQ_REQ.addr tbVarReg).rd TB_VAR_REQ_REQ.addr = s.newWord w TB_VAR_REQ_REQ.addr tbVarReg :=
    State.rd_storeReg _ _ _ _ _ (by decide) (clampStore_unbounded (by decide) (by decide) (by decide) _ _)
  have hno : s.refuses (s.blockRuns .tb TB_VAR_REQ_REQ.addr) TB_VAR_REQ_REQ.addr ⟨TB_VAR_REQ_VAR, .rw, .live, 0⟩ = .no := if_neg
    fun h => absurd h.1 (by decide)
  have hvar : (s.storeReg w TB_VAR_REQ_REQ.addr tbVarReg).fld TB_VAR_REQ_VAR = wbits w.data TB_VAR_REQ_VAR :=
    (congrArg (getBits · 2 0) hrd).trans (s.getBits_newWord w _ tbVarReg _ regAt_tbVarReg rfl (by decide) hno)
  have hacts : acts (some w.data) TB_VAR_REQ_REQ = true := decide_eq_true hreq
  show execTbVarReq w s = _
  unfold execTbVarReq
  rw [hwrite]
  dsimp only
  rw [if_pos hacts, hvar]

/-- A refusal that is new marks the requests it names and cancels the switch. -/
theorem State.seeRefusal_of_new {s : State} {m : SbMsg} (hnew : m ∉ s.fab.seen) :
    s.seeRefusal m = (s.enterSb m).1.applyRefusal (nearestMile s.mileNow m.mile) (m.data % 8) :=
  if_pos (State.enterSb_new hnew)

theorem variantRequestsEnterTheirMile : VariantRequestsEnterTheirMile := by
  refine fun s => ⟨fun m hm hnew hswitch => ?_, fun v hup hnew hswitch => ?_, fun w g hg hreach hreq hnew hswitch => ?_,
    fun m hm hnew => ?_⟩
  · exact ⟨_, exec_sbVarReq hm s, _, State.seeVarReq_keeps_request hnew hswitch, rfl, rfl, rfl⟩
  · have hv : v.val % 8 = v.val := Nat.mod_eq_of_lt v.isLt
    have hkept := State.raiseVarReq_keeps_request (s := s) (v := v.val) (by rwa [hv]) (by rwa [hv])
    rw [hv] at hkept
    refine ⟨_, exec_mcVariantRequest hup v, _, hkept, rfl, rfl, rfl, ?_⟩
    show (!s.admittedVar v || s.refusalSeen _) = _
    unfold State.refusalSeen
    rw [hv]
  · obtain rfl := Option.some.inj (regAt_tbVarReg.symm.trans hg)
    obtain ⟨u, hu⟩ : ∃ u, u = s.storeReg w TB_VAR_REQ_REQ.addr tbVarReg := ⟨_, rfl⟩
    have htouch : TouchesOnly (TB_VAR_REQ_REQ.addr :: writeBooks) s u :=
      hu ▸ TouchesOnly.storeReg s w tbVarReg (List.subset_cons_self _ _) List.mem_cons_self
    have hv : wbits w.data TB_VAR_REQ_VAR % 8 = wbits w.data TB_VAR_REQ_VAR := Nat.mod_eq_of_lt (getBits_lt w.data 2 0)
    obtain ⟨htb, hfab, hsched⟩ : u.tb = s.tb ∧ u.fab = s.fab ∧ u.sched = s.sched := by
      rw [htouch.rest]
      exact ⟨rfl, rfl, rfl⟩
    have hself : u.self = s.self := by
      unfold State.self
      rw [htouch.fld (f := FAB_SELF_GROUP) (by decide), htouch.fld (f := FAB_SELF_MODULE) (by decide)]
    have hmile : u.mileNow = s.mileNow := congrArg (fun b => b.rod / 320) htb
    have hdated : u.datedMile = s.datedMile := by
      unfold State.datedMile
      rw [hmile, htb]
    have hkept := State.raiseVarReq_keeps_request (s := u) (v := wbits w.data TB_VAR_REQ_VAR)
      (by rwa [hv, hself, hdated, hfab]) (by rwa [hv, hsched])
    rw [hv, hmile, hdated] at hkept
    rw [hu] at hkept
    exact ⟨_, exec_tbVarReq hreach hreq, _, hkept, rfl, rfl, rfl⟩
  · refine ⟨_, exec_sbVarRefuse hm s, ?_, ?_⟩
    · rw [State.seeRefusal_of_new hnew, State.applyRefusal_reqs]
      intro r hr hmile hvar
      obtain ⟨q, -, rfl⟩ := List.mem_map.mp hr
      unfold VarReq.refuse at hmile hvar ⊢
      split at hmile
      next h => rw [if_pos h]
      next h => rw [if_neg h] at hvar; exact absurd ⟨hmile, hvar⟩ h
    · rw [State.seeRefusal_of_new hnew, State.applyRefusal_switches]
      intro x hx
      have hkept := (List.mem_filter.mp hx).2
      rwa [Bool.not_eq_true', decide_eq_false_iff_not] at hkept

/-- Settles O22: a run shows its verdict in registers that the check of the switches and the start leave, and a request that is new
enters the table for its mile. -/
theorem admissionAndVariantRequests : Obligations.AdmissionAndVariantRequests :=
  ⟨admissionPassesOrFailsByItsFirstCode, variantRequestsEnterTheirMile⟩

end Sys2Proof.Machine
end

section
/-! The time base's references and its failure (R180 to R186): O20. -/
namespace Sys2Proof.Machine

/-! ### Requests that complete (R324, R328) -/

/-- A part of the state that completing a request does not touch. -/
structure DrainLeaves {β : Type} (part : State → β) : Prop where
  count : ∀ (u : State) (f : Fld) (v : Nat),
    f.addr ∈ [RQT_FLAG_VOID_LIMIT.addr, RQT_DONE_CNT_COUNT.addr, RQT_CANCEL_CNT_COUNT.addr] → part (u.put f v) = part u
  rest : ∀ (u : State) q m, part { u with rqt := q, mem := m } = part u

theorem DrainLeaves.of_regs {β : Type} {part : State → β}
    (h : ∀ (u : State) r q m, part { u with regs := r, rqt := q, mem := m } = part u) : DrainLeaves part where
  count u _ _ _ := h u _ u.rqt u.mem
  rest u := h u u.regs

/-- A field outside the request table's counts. -/
theorem DrainLeaves.fld {g : Fld}
    (hg : g.addr ∉ [RQT_FLAG_VOID_LIMIT.addr, RQT_DONE_CNT_COUNT.addr, RQT_CANCEL_CNT_COUNT.addr]) :
    DrainLeaves (State.fld · g) where
  count u f v hf := State.fldAt_putAt_ne u 0 0 f g v fun e => hg ((show g.addr = f.addr from e) ▸ hf)
  rest _ _ _ := rfl

section
variable {β : Type} {part : State → β} (h : DrainLeaves part)
include h

theorem DrainLeaves.setReq (u : State) (slot : Nat) (r : Req) : part (u.setReq slot r) = part u := h.rest u _ u.mem

theorem DrainLeaves.endPages (u : State) (slot : Nat) (r : Req) : part (u.endPages slot r) = part u := by
  have hmem : ∀ (v : State) m, part { v with mem := m } = part v := fun v => h.rest v v.rqt
  unfold State.endPages
  extract_lets dirs v need
  exact (hmem v _).trans (foldl_leaves part _ dirs u fun x _ => hmem x _)

theorem DrainLeaves.endReq (u : State) (slot : Nat) (st : ReqState) (code : Nat) : part (u.endReq slot st code) = part u := by
  have hcount : ∀ (v : State) (f : Fld), f.addr ∈ [RQT_FLAG_VOID_LIMIT.addr, RQT_DONE_CNT_COUNT.addr, RQT_CANCEL_CNT_COUNT.addr] →
      part (v.add f 1) = part v := fun v f hf => h.count v f _ hf
  unfold State.endReq
  extract_lets r q rec gen v w x
  have hv : part v = part u := h.setReq u slot _
  have hw : part w = part v := hcount v _ (by split <;> decide)
  have hx : part x = part w := ite_leaves (h.count w RQT_FLAG_VOID_LIMIT 1 (by decide)) rfl
  exact (h.rest _ _ _).trans ((h.endPages x slot q).trans (hx.trans (hw.trans hv)))

theorem DrainLeaves.drain (u : State) (slot code : Nat) : part (u.drain slot code) = part u := by
  unfold State.drain
  extract_lets r v
  have hv : part v = part u := h.setReq u slot _
  exact ite_leaves (h.endReq u slot .done code) (ite_leaves rfl
    (ite_leaves ((h.rest v _ v.mem).trans hv) ((h.endReq v slot .done code).trans hv)))

theorem DrainLeaves.completeAll (u : State) (code : Nat) : part (u.completeAll code) = part u :=
  foldl_leaves part _ _ u fun v k => ite_leaves (h.drain v k code) rfl

end

/-! ### A time-base failure (R186) -/

/-- The status registers show the failure. -/
def State.showTimeFail (s : State) : State :=
  (((((((s.put TB_STAT_TIME_FAIL 1).put TB_STAT_COUNT_VALID 0).put TB_STAT_FRAME_OK 0).put TB_STAT_RUNNING 0).put
    TB_ADM_STAT_STATE 3).put TB_ADM_STAT_CODE 0x02).put TB_ADM_STAT_ITEM 0xFFFF).put GLB_STATE_ADMIT_FAILED 1

/-- The module is no longer admitted. -/
def State.dropAdmission (s : State) : State := { s with sched := { s.sched with admitted := false, startDue := false } }

/-- The sequencers are due to stop, and the count is to be established again. -/
def State.dropCount (s : State) : State :=
  { s with tb := { s.tb with stopAtRod := true, frame := none, lastF := none, provisional := false, pair := none,
                             edgeSeen := false, edgeDue := false, missRun := 0 } }

theorem State.fld_dropCount (s : State) (g : Fld) : s.dropAdmission.dropCount.fld g = s.fld g :=
  State.fldAt_of_regs (s := s) (t := s.dropAdmission.dropCount) rfl 0 g

theorem State.timeBaseFailure_eq (s : State) :
    s.timeBaseFailure false = ((s.showTimeFail.dropAdmission.dropCount).put TB_STAT_HOLDOVER 0).completeAll 0x22 := by
  unfold State.timeBaseFailure
  rw [if_neg (by simp)]
  rfl

/-- What an uninjected failure leaves in a field of the status registers. -/
theorem State.fld_timeBaseFailure (s : State) {g : Fld}
    (hcounts : g.addr ∉ [RQT_FLAG_VOID_LIMIT.addr, RQT_DONE_CNT_COUNT.addr, RQT_CANCEL_CNT_COUNT.addr])
    (hhold : TB_STAT_HOLDOVER.misses g = true) : (s.timeBaseFailure false).fld g = s.showTimeFail.fld g := by
  rw [State.timeBaseFailure_eq]
  exact ((DrainLeaves.fld hcounts).completeAll _ _).trans ((State.fld_put_other _ _ _ _ hhold).trans
    (State.fld_dropCount _ g))

theorem State.showTimeFail_shows (s : State) : s.showTimeFail.fld TB_STAT_TIME_FAIL = 1 ∧ s.showTimeFail.fld TB_STAT_COUNT_VALID = 0 ∧
    s.showTimeFail.fld TB_STAT_RUNNING = 0 ∧ s.showTimeFail.fld TB_ADM_STAT_STATE = 3 ∧ s.showTimeFail.fld TB_ADM_STAT_CODE = 2 := by
  unfold State.showTimeFail
  simp (disch := decide)
  decide

theorem State.showTimeFail_hold (s : State) : s.showTimeFail.fld TB_STAT_REFCLK_HOLD = s.fld TB_STAT_REFCLK_HOLD := by
  unfold State.showTimeFail
  simp (disch := decide)

theorem State.timeBaseFailure_shows (s : State) : (s.timeBaseFailure false).fld TB_STAT_TIME_FAIL = 1 ∧
    (s.timeBaseFailure false).fld TB_STAT_COUNT_VALID = 0 ∧ (s.timeBaseFailure false).fld TB_STAT_RUNNING = 0 ∧
    (s.timeBaseFailure false).fld TB_ADM_STAT_STATE = 3 ∧ (s.timeBaseFailure false).fld TB_ADM_STAT_CODE = 2 ∧
    (s.timeBaseFailure false).tb.stopAtRod = true := by
  obtain ⟨hfail, hvalid, hrun, hstate, hcode⟩ := s.showTimeFail_shows
  have hdrain : DrainLeaves (fun s : State => s.tb.stopAtRod) := .of_regs fun _ _ _ _ => rfl
  have hfld : ∀ g : Fld, g.addr ∉ [RQT_FLAG_VOID_LIMIT.addr, RQT_DONE_CNT_COUNT.addr, RQT_CANCEL_CNT_COUNT.addr] →
      TB_STAT_HOLDOVER.misses g = true → (s.timeBaseFailure false).fld g = s.showTimeFail.fld g := fun _ =>
    s.fld_timeBaseFailure
  refine ⟨(hfld _ (by decide) (by decide)).trans hfail, (hfld _ (by decide) (by decide)).trans hvalid,
    (hfld _ (by decide) (by decide)).trans hrun, (hfld _ (by decide) (by decide)).trans hstate,
    (hfld _ (by decide) (by decide)).trans hcode, ?_⟩
  rw [State.timeBaseFailure_eq]
  exact hdrain.completeAll _ _

/-! ### REFCLK (R184) -/

theorem exec_refclkLoss {s : State} (h : s.isSet TB_STAT_REFCLK_HOLD = false) : exec .refclkLoss s =
    .next (({ s with tb := { s.tb with holdRods := 0, refBack := false } }.put TB_FAULT_REFCLK_LOSS 1).put TB_STAT_REFCLK_HOLD 1) :=
  congrArg Host.Outcome.next (if_neg (by simp [h]))

theorem exec_refclkReturn (s : State) : exec .refclkReturn s = .next (s.refclkReturn false) := rfl
theorem exec_refclkHoldExpiry (s : State) : exec .refclkHoldExpiry s = execRefclkHoldExpiry s := rfl

theorem State.refclkReturn_waits {s : State} (hhold : s.isSet TB_STAT_REFCLK_HOLD = true)
    (hvalid : s.isSet TB_STAT_COUNT_VALID = true) (hrods : s.tb.holdRods ≤ 32) (injected : Bool) :
    s.refclkReturn injected = { s with tb := { s.tb with refBack := true } } := by
  unfold State.refclkReturn
  rw [if_neg (by simp [hhold]), if_pos ⟨hvalid, hrods⟩]

theorem State.refclkReturn_fails {s : State} (hhold : s.isSet TB_STAT_REFCLK_HOLD = true)
    (hvalid : s.isSet TB_STAT_COUNT_VALID = true) (hrods : 32 < s.tb.holdRods) (injected : Bool) :
    s.refclkReturn injected = (s.put TB_STAT_REFCLK_HOLD 0).timeBaseFailure injected := by
  unfold State.refclkReturn
  rw [if_neg (by simp [hhold]), if_neg (by omega)]
  exact if_pos hvalid

theorem State.refclkReturn_ends {s : State} (hhold : s.isSet TB_STAT_REFCLK_HOLD = true)
    (hvalid : s.isSet TB_STAT_COUNT_VALID = false) (injected : Bool) : s.refclkReturn injected = s.put TB_STAT_REFCLK_HOLD 0 := by
  unfold State.refclkReturn
  rw [if_neg (by simp [hhold]), if_neg (by simp [hvalid])]
  exact if_neg (by simp [hvalid])

theorem refclkLossHoldsThenFails : RefclkLossHoldsThenFails := by
  refine fun s => ⟨fun hhold => ?_, fun hhold => ⟨fun hvalid hrods => ?_, fun hvalid hrods => ?_, fun hvalid => ?_,
    fun hvalid hback hrods hinj => ?_⟩⟩
  · have honly : RegsOnly [TB_STAT_REFCLK_HOLD.addr, TB_FAULT_REFCLK_LOSS.addr] { s with tb := { s.tb with holdRods := 0, refBack := false } }
        (({ s with tb := { s.tb with holdRods := 0, refBack := false } }.put TB_FAULT_REFCLK_LOSS 1).put TB_STAT_REFCLK_HOLD 1) :=
      ((RegsOnly.refl _ _).putAt (i := 0) (f := TB_FAULT_REFCLK_LOSS) (by simp) 1).putAt (i := 0) (f := TB_STAT_REFCLK_HOLD) (by simp) 1
    refine ⟨_, exec_refclkLoss hhold, ?_, ?_, rfl, rfl, honly.regs, rfl⟩
    · exact (State.fld_put_same _ _ 1 (by decide)).trans (by decide)
    · exact ((State.fld_put_other _ _ _ _ (by decide)).trans (State.fld_put_same _ _ 1 (by decide))).trans (by decide)
  · rw [exec_refclkReturn, State.refclkReturn_waits hhold hvalid hrods]
  · refine ⟨_, congrArg Host.Outcome.next (State.refclkReturn_fails hhold hvalid hrods false), ?_, State.timeBaseFailure_shows _⟩
    rw [State.fld_timeBaseFailure _ (by decide) (by decide), State.showTimeFail_hold, State.fld_put_same _ _ _ (by decide)]
    decide
  · have honly := (RegsOnly.refl [TB_STAT_REFCLK_HOLD.addr] s).putAt (i := 0) (f := TB_STAT_REFCLK_HOLD) (by simp) 0
    refine ⟨_, congrArg Host.Outcome.next (State.refclkReturn_ends hhold hvalid false), ?_, honly.regs, honly.rest⟩
    exact (State.fld_put_same _ _ 0 (by decide)).trans (by decide)
  · have hexec : exec .refclkHoldExpiry s = .next (s.timeBaseFailure false) := by
      rw [exec_refclkHoldExpiry]
      unfold execRefclkHoldExpiry
      rw [if_pos ⟨hhold, hback, hrods, hvalid⟩, hinj]
      rfl
    exact ⟨_, hexec, State.timeBaseFailure_shows s⟩

/-! ### FMARK (R180 to R183) -/

/-- With the clock locked, outside a hold and without an injection, a pulse is judged by its offset, or taken as it is while the
count is not valid. -/
theorem exec_fmarkPulse {s : State} (hlock : s.isSet TB_STAT_REF_LOCK = true) (hhold : s.isSet TB_STAT_REFCLK_HOLD = false)
    (hinj : s.injects 0x19 0 0 = none) (high : Nat) (offset : Int) : exec (.fmarkPulse high offset) s =
      if !s.isSet TB_STAT_COUNT_VALID then .next (s.symbolIn (symbolOf high) s.pulseMile false)
      else if -1 ≤ offset ∧ offset ≤ 1 then
        .next (((({ s with tb := { s.tb with edgeSeen := decide (s.tb.rod % 320 ≠ 0), edgeDue := false, missRun := 0, refBack := false } }).put
          TB_STAT_HOLDOVER 0).put TB_STAT_REFCLK_HOLD 0).symbolIn (symbolOf high) s.pulseMile false)
      else .next ((s.add TB_EDGE_ERR_COUNT 1).put TB_FAULT_FMARK_EDGE 1) := by
  show execFmarkPulse high offset s = _
  unfold execFmarkPulse
  simp [hlock, hhold, hinj]

/-- The frame being received, with another symbol. -/
def State.takeFrame (s : State) (l : List Symbol) : State := { s with tb := { s.tb with frame := some l } }

theorem State.symbolIn_of_open {s : State} {l : List Symbol} {sym : Symbol} (hframe : s.tb.frame = some l) (hlen : l.length < 63)
    (hsym : sym ≠ .sync) (mile : Nat) (injected : Bool) :
    s.symbolIn sym mile injected = s.takeFrame (sym :: l) := by
  have hshort : (sym :: l).length ≠ 64 := by
    rw [List.length_cons]
    omega
  unfold State.symbolIn
  rw [hframe]
  dsimp only
  rw [if_neg hshort, if_neg hsym]
  rfl

theorem State.symbolIn_sets_count {s : State} {f n : Nat} (hvalid : s.isSet TB_STAT_COUNT_VALID = false) (hframe : s.tb.frame = none)
    (hpair : s.tb.pair = some (f, n)) (mile : Nat) (injected : Bool) :
    s.symbolIn .sync mile injected = { s with tb := { s.tb with frame := some [.sync] } }.countEstablished f := by
  unfold State.symbolIn
  simp [hframe, hvalid, hpair]

/-- The count is set. -/
def State.setCount (s : State) (f : Nat) : State :=
  { s with tb := { s.tb with rod := (320 * (f + 64)) % rodP, provisional := false, lastF := none, pair := none,
                             missRun := 0, edgeDue := false, edgeSeen := false,
                             furDue := true, mileDue := true } }

/-- The ports' heartbeats are dated anew. -/
def State.redatePorts (s : State) : State :=
  { s with fab := { s.fab with ports := s.fab.ports.map (fun (e : Nat × Port) =>
    (e.1, if e.2.hbRod.isSome then { e.2 with hbRod := some s.tb.rod } else e.2)) } }

/-- The count is shown, valid and running. -/
def State.showCount (s : State) : State := ((s.put TB_STAT_COUNT_VALID 1).put TB_STAT_RUNNING 1).put TB_STAT_FRAME_OK 1

theorem State.countEstablished_eq (s : State) (f : Nat) : s.countEstablished f =
    if (s.setCount f).redatePorts.showCount.isSet TB_STAT_TIME_FAIL then (s.setCount f).redatePorts.showCount.reAdmit
    else (s.setCount f).redatePorts.showCount.advanceStart := rfl

theorem State.showCount_shows (s : State) : s.showCount.fld TB_STAT_COUNT_VALID = 1 ∧ s.showCount.fld TB_STAT_RUNNING = 1 := by
  unfold State.showCount
  simp (disch := decide)

/-- What follows the count leaves the count and its status. -/
theorem State.countEstablished_leaves {β : Type} {part : State → β} (hstart : StartLeaves part)
    (hadm : ∀ u : State, part u.reAdmit = part u) (s : State) (f : Nat) :
    part (s.countEstablished f) = part (s.setCount f).redatePorts.showCount := by
  rw [State.countEstablished_eq]
  exact ite_leaves (hadm _) (hstart.advanceStart hadm _)

/-- The count is set by the second good frame, valid and running. -/
theorem State.countEstablished_shows (s : State) (f : Nat) : (s.countEstablished f).tb.rod = 320 * (f + 64) % rodP ∧
    (s.countEstablished f).fld TB_STAT_COUNT_VALID = 1 ∧ (s.countEstablished f).fld TB_STAT_RUNNING = 1 ∧
    (s.countEstablished f).tb.provisional = false := by
  have htb : (s.countEstablished f).tb = (s.setCount f).redatePorts.showCount.tb :=
    State.countEstablished_leaves (.of_regs fun _ _ _ _ _ _ => rfl) (State.reAdmit_leaves State.tb fun _ _ _ => rfl) s f
  have hput : (s.setCount f).redatePorts.showCount.tb = (s.setCount f).redatePorts.tb := rfl
  have hstat : ∀ g : Fld, g.addr = TB_STAT_RUNNING.addr →
      (s.countEstablished f).fld g = (s.setCount f).redatePorts.showCount.fld g := fun g hg =>
    State.countEstablished_leaves (part := (State.fld · g)) (.fld (by rw [hg]; decide) (by rw [hg]; decide))
      (fun u => u.fldAt_reAdmit 0 g (by rw [hg]; decide)) s f
  obtain ⟨hvalid, hrun⟩ := (s.setCount f).redatePorts.showCount_shows
  rw [htb, hput]
  exact ⟨rfl, (hstat TB_STAT_COUNT_VALID rfl).trans hvalid, (hstat TB_STAT_RUNNING rfl).trans hrun, rfl⟩

/-- A pulse within its window: what the pulse itself changes before its symbol is taken. -/
def State.pulseSeen (s : State) : State :=
  { s with tb := { s.tb with edgeSeen := decide (s.tb.rod % 320 ≠ 0), edgeDue := false, missRun := 0, refBack := false } }

/-- Holdover and a hold end with it. -/
def State.endHoldover (s : State) : State := (s.put TB_STAT_HOLDOVER 0).put TB_STAT_REFCLK_HOLD 0

theorem State.endHoldover_only (s : State) : RegsOnly [TB_STAT_HOLDOVER.addr] s s.endHoldover :=
  ((RegsOnly.refl _ s).putAt (i := 0) (f := TB_STAT_HOLDOVER) (by decide) 0).putAt (i := 0) (f := TB_STAT_REFCLK_HOLD) (by decide) 0

theorem State.endHoldover_tb (s : State) : s.endHoldover.tb = s.tb := s.endHoldover_only.leaves fun _ _ => rfl

theorem State.endHoldover_shows (s : State) : s.endHoldover.fld TB_STAT_HOLDOVER = 0 := by
  unfold State.endHoldover
  simp (disch := decide)

/-- A pulse within its window, at a symbol that neither opens nor ends a frame. -/
theorem State.pulse_kept {s : State} {l : List Symbol} :
    regsKept s ((s.pulseSeen.endHoldover).takeFrame l) [TB_STAT_HOLDOVER.addr] ∧
    (s.pulseSeen.endHoldover).takeFrame l = { s with
      regs := s.pulseSeen.endHoldover.regs, tb := ((s.pulseSeen.endHoldover).takeFrame l).tb } := by
  have honly := s.pulseSeen.endHoldover_only
  refine ⟨fun a ha => honly.regs a ha, ?_⟩
  have hrest : ∀ (u v : State), v = { u with regs := v.regs } →
      v.takeFrame l = { u with regs := v.regs, tb := (v.takeFrame l).tb } := by
    intro u v h
    unfold State.takeFrame
    rw [h]
  exact hrest s.pulseSeen _ honly.rest

theorem fmarkPulsesKeepOrSetTheCount : FmarkPulsesKeepOrSetTheCount := by
  refine fun s high offset hlock hhold hinj => ⟨fun hvalid => ⟨fun l hlow hhigh hframe hlen hsym => ?_, fun hfar => ?_⟩,
    fun f n hvalid hframe hpair hsync => ?_⟩
  · have hexec : exec (.fmarkPulse high offset) s =
        .next (s.pulseSeen.endHoldover.symbolIn (symbolOf high) s.pulseMile false) := by
      rw [exec_fmarkPulse hlock hhold hinj, if_neg (by simp [hvalid]), if_pos ⟨hlow, hhigh⟩]
      rfl
    have htb := s.pulseSeen.endHoldover_tb
    rw [State.symbolIn_of_open (s := s.pulseSeen.endHoldover) (l := l) (by rw [htb]; exact hframe) hlen hsym] at hexec
    obtain ⟨hregs, hrest⟩ := State.pulse_kept (s := s) (l := symbolOf high :: l)
    refine ⟨_, hexec, rfl, s.pulseSeen.endHoldover_shows, ?_, ?_, hregs, hrest⟩
    · show s.pulseSeen.endHoldover.tb.missRun = s.pulseSeen.tb.missRun
      rw [htb]
    · show s.pulseSeen.endHoldover.tb.rod = s.pulseSeen.tb.rod
      rw [htb]
  · have honly := ((RegsOnly.refl [TB_EDGE_ERR_COUNT.addr, TB_FAULT_FMARK_EDGE.addr] s).addAt (i := 0) (f := TB_EDGE_ERR_COUNT)
      (by simp) 1).putAt (i := 0) (f := TB_FAULT_FMARK_EDGE) (by simp) 1
    refine ⟨(s.add TB_EDGE_ERR_COUNT 1).put TB_FAULT_FMARK_EDGE 1, ?_, ?_, ?_, honly.regs, honly.rest⟩
    · rw [exec_fmarkPulse hlock hhold hinj, if_neg (by simp [hvalid]), if_neg (by omega)]
    · exact (State.fld_put_other _ _ _ _ (by decide)).trans (State.fld_add_same _ _ _ (by decide))
    · exact (State.fld_put_same _ _ _ (by decide)).trans (by decide)
  · have hexec : exec (.fmarkPulse high offset) s =
        .next ({ s with tb := { s.tb with frame := some [.sync] } }.countEstablished f) := by
      rw [exec_fmarkPulse hlock hhold hinj, if_pos (by simp [hvalid]), hsync, State.symbolIn_sets_count hvalid hframe hpair]
    exact ⟨_, hexec, State.countEstablished_shows _ f⟩

/-- Settles O20: the start and the completion of requests leave the time base's status, so that what a pulse, a loss or a
failure writes there stands. -/
theorem timeReferences : Obligations.TimeReferences := ⟨fmarkPulsesKeepOrSetTheCount, refclkLossHoldsThenFails⟩

end Sys2Proof.Machine
end

section
/-! An operation that overruns its reserved length, and a slack window (R191, R201, R406): O21. -/
namespace Sys2Proof.Machine

/-! ### A detected silent error (R397) -/

/-- It changes the request table, the attention's folds, the fault records, the events and the registers. -/
theorem State.silentError_leaves {β : Type} (part : State → β)
    (h : ∀ (s : State) r q a l m,
      part { s with regs := r, rqt := q, att := a, faults := { s.faults with log := l }, mgmt := m } = part s)
    (s : State) (r : FaultRec) (key : Option Nat) (rows : BitVec 32) : part (s.silentError r key rows) = part s := by
  have hrows : ∀ (u : State) q a, part { u with rqt := q, att := a } = part u := fun u q a => h u u.regs q a u.faults.log u.mgmt
  have hput : ∀ (u : State) i f v, part (u.putAt i f v) = part u := fun u i f v => h u _ u.rqt u.att u.faults.log u.mgmt
  have hrecord : ∀ (u : State), part (u.faultRecord r) = part u := fun u => h u u.regs u.rqt u.att _ _
  unfold State.silentError
  extract_lets u v
  have hu : part u = part s := by
    cases key with
    | none => rfl
    | some k => exact s.voidRows_leaves part hrows _ _
  exact (hput _ _ _ _).trans ((hput _ _ _ _).trans ((hrecord u).trans hu))

/-- In the registers it counts in its core and shows its detector. -/
theorem State.silentError_regs (s : State) (r : FaultRec) (key : Option Nat) (rows : BitVec 32) :
    regsKept s (s.silentError r key rows) [FLT_SE_CNT_COUNT.addr + coreI r.core, CORE_FAULT_LAST_DET.addr + coreI r.core] := by
  unfold State.silentError
  extract_lets u v
  have hu : u.regs = s.regs := by
    cases key with
    | none => rfl
    | some k => exact s.voidRows_regs _ _
  have honly := ((RegsOnly.refl [FLT_SE_CNT_COUNT.addr + coreI r.core, CORE_FAULT_LAST_DET.addr + coreI r.core] v).addAt
    (i := coreI r.core) (f := FLT_SE_CNT_COUNT) (by simp) 1).putAt (f := CORE_FAULT_LAST_DET) (i := coreI r.core) (by simp) r.det
  intro a ha
  exact (honly.regs a ha).trans (congrArg (fun m => SMap.get regReset m a) hu)

/-! ### An escalation that no injection contains (R406, R410) -/

theorem State.escalateOverrun_eq (s : State) (core agent : Nat) :
    s.escalateOverrun core agent false = (s.distrust core (if agent ≤ 8 then agent else 10 + agent)).requestFence core := rfl

theorem State.fence_requested (s : State) (core : Nat) : s.isSetAt (coreI core) CORE_STAT_FENCED = true ∨
    (s.requestFence core).faults.fences.any (fun f => f.1 = core) = true := by
  unfold State.requestFence
  split
  next h =>
    obtain hfenced | hasked := h
    · exact .inl hfenced
    · exact .inr hasked
  next =>
    refine .inr (List.any_eq_true.mpr ⟨_, List.mem_append_right _ (List.mem_singleton.mpr rfl), ?_⟩)
    simp

theorem State.distrust_untrusted (s : State) (core unit : Nat) : (s.distrust core unit).untrustedUnit core unit = true :=
  List.any_eq_true.mpr ⟨(core, unit), List.mem_cons_self, by simp⟩

/-- A fence request leaves what is trusted. -/
theorem State.untrustedUnit_requestFence (s : State) (core c unit : Nat) :
    (s.requestFence core).untrustedUnit c unit = s.untrustedUnit c unit :=
  State.requestFence_leaves (fun s => s.untrustedUnit c unit) (fun _ _ _ => rfl) s core

theorem State.escalateOverrun_regs (s : State) (core agent : Nat) :
    regsKept s (s.escalateOverrun core agent false) [CORE_FAULT_LAST_DET.addr + coreI core] := by
  intro a ha
  have hfault : a ≠ CORE_FAULT_LAST_DET.addr + coreI core := fun e => ha (List.mem_singleton.mpr e)
  rw [State.escalateOverrun_eq, State.rd_requestFence _ _ _ hfault]
  exact State.rd_putAt_ne _ _ CORE_FAULT_UNTRUSTED _ a hfault

/-! ### The overrun -/

/-- The overrun's token and counts, before its error is recorded. -/
def State.countOverrun (s : State) (i : Issue) : State :=
  (((s.consume i).completeOut i).addAt (coreI i.core) SEQ_OVERRUN_CNT_COUNT 1).add TB_OVERRUN_CNT_COUNT 1

/-- The record of an overrun that no injection made. -/
def State.overrunRec (s : State) (i : Issue) (agent : Nat) : FaultRec := ⟨0x10, i.core, agent, 0, 0, 0, 0, s.tb.rod, false⟩

theorem State.countOverrun_faults (s : State) (i : Issue) : (s.countOverrun i).faults = s.faults := by
  have hcompleted : ((s.consume i).completeOut i).faults = (s.consume i).faults := ite_leaves rfl rfl
  exact hcompleted.trans (s.consume_faults i)

theorem State.countOverrun_tb (s : State) (i : Issue) : (s.countOverrun i).tb = s.tb := by
  have hcompleted : ((s.consume i).completeOut i).tb = (s.consume i).tb := ite_leaves rfl rfl
  exact hcompleted.trans (foldl_leaves State.tb _ _ s fun _ _ => rfl)

theorem exec_operationOverrun {s : State} (h : s.faults.armed = none) (i : Issue) (agent : Nat) :
    ∃ key rows, exec (.operationOverrun i agent) s =
      .next (((s.countOverrun i).silentError (s.overrunRec i agent) key rows).escalateOverrun i.core agent false) := by
  refine ⟨(s.tokensFor i).findSome? (fun t => t.slot), if i.out = 255 then 0 else (s.outToken i).expected, ?_⟩
  have hinj : (s.countOverrun i).injects 0x10 i.core agent = none := by
    unfold State.injects
    rw [s.countOverrun_faults, h]
  show execOperationOverrun i agent s = _
  unfold execOperationOverrun
  extract_lets rows key a b inj c
  have hnone : inj = none := hinj
  have hc : c = s.countOverrun i := if_neg (by rw [hnone]; exact Bool.false_ne_true)
  rw [hc, hnone, s.countOverrun_tb]
  rfl

/-- The OUT token is complete with every expected row void. -/
theorem State.countOverrun_completes {s : State} {i : Issue} (hout : i.out ≠ 255) {k : Nat}
    (hk : (s.outToken i).expected.getLsbD k = true) :
    ((s.countOverrun i).token i.core i.out).arrived.getLsbD k = true ∧
    ((s.countOverrun i).token i.core i.out).voided.getLsbD k = true := by
  have htoken : (s.countOverrun i).token i.core i.out = ((s.consume i).outToken i).completeVoid i.inst := by
    show ((s.consume i).completeOut i).token i.core i.out = _
    unfold State.completeOut
    rw [if_neg hout, State.token_setToken]
    rfl
  have hexpected : (((s.consume i).outToken i)).expected.getLsbD k = true := by rwa [State.expected_consume]
  rw [htoken]
  simp [Token.completeVoid, hexpected]

theorem State.countOverrun_counts (s : State) (i : Issue) :
    (s.countOverrun i).fldAt (coreI i.core) SEQ_OVERRUN_CNT_COUNT =
      min (s.fldAt (coreI i.core) SEQ_OVERRUN_CNT_COUNT + 1) SEQ_OVERRUN_CNT_COUNT.top ∧
    (s.countOverrun i).fld TB_OVERRUN_CNT_COUNT = min (s.fld TB_OVERRUN_CNT_COUNT + 1) TB_OVERRUN_CNT_COUNT.top := by
  have hregs : ((s.consume i).completeOut i).regs = s.regs := by simp
  have hcore : SEQ_OVERRUN_CNT_COUNT.addr + coreI i.core ≠ TB_OVERRUN_CNT_COUNT.addr + 0 := by
    simp only [SEQ_OVERRUN_CNT_COUNT, TB_OVERRUN_CNT_COUNT]
    omega
  unfold State.countOverrun
  constructor
  · refine (State.fldAt_addAt_ne _ 0 _ _ _ _ hcore).trans ?_
    rw [State.fldAt_addAt_same _ _ _ _ (by decide), State.fldAt_of_regs hregs]
  · rw [State.fld_add_same _ _ _ (by decide)]
    have hkept := State.fldAt_addAt_ne ((s.consume i).completeOut i) (coreI i.core) 0 SEQ_OVERRUN_CNT_COUNT TB_OVERRUN_CNT_COUNT 1
      hcore.symm
    unfold State.fld
    rw [hkept, State.fldAt_of_regs hregs]

theorem State.countOverrun_fenced (s : State) (i : Issue) :
    (s.countOverrun i).fldAt (coreI i.core) CORE_STAT_FENCED = s.fldAt (coreI i.core) CORE_STAT_FENCED := by
  have hregs : ((s.consume i).completeOut i).regs = s.regs := by simp
  have hdie : CORE_STAT_FENCED.addr + coreI i.core ≠ TB_OVERRUN_CNT_COUNT.addr + 0 := by
    simp only [CORE_STAT_FENCED, TB_OVERRUN_CNT_COUNT]
    omega
  exact (State.fldAt_addAt_ne _ 0 _ _ _ _ hdie).trans ((State.fldAt_addAt_other _ _ _ _ _ (by decide)).trans
    (State.fldAt_of_regs hregs _ _))

theorem overrunVoidsCountsAndFences : OverrunVoidsCountsAndFences := by
  intro s i agent harmed
  obtain ⟨key, rows, hexec⟩ := exec_operationOverrun harmed i agent
  obtain ⟨u, hu⟩ : ∃ u, u = (s.countOverrun i).silentError (s.overrunRec i agent) key rows := ⟨_, rfl⟩
  rw [← hu] at hexec
  have htoken : (u.escalateOverrun i.core agent false).sched = (s.countOverrun i).sched := by
    have herror : u.sched = (s.countOverrun i).sched :=
      hu ▸ State.silentError_leaves State.sched (fun _ _ _ _ _ _ => rfl) _ _ _ _
    exact (State.requestFence_leaves State.sched (fun _ _ _ => rfl) _ _).trans herror
  have hregs : regsKept (s.countOverrun i) (u.escalateOverrun i.core agent false)
      [FLT_SE_CNT_COUNT.addr + coreI i.core, CORE_FAULT_LAST_DET.addr + coreI i.core] := fun a ha =>
    (u.escalateOverrun_regs i.core agent a fun h => ha (List.mem_cons_of_mem _ h)).trans
      (hu ▸ State.silentError_regs _ (s.overrunRec i agent) key rows a ha)
  have hfence : ∀ unit, (u.distrust i.core unit).isSetAt (coreI i.core) CORE_STAT_FENCED = s.isSetAt (coreI i.core) CORE_STAT_FENCED := by
    intro unit
    have hdistrust : (u.distrust i.core unit).fldAt (coreI i.core) CORE_STAT_FENCED = u.fldAt (coreI i.core) CORE_STAT_FENCED :=
      State.fldAt_putAt_other _ _ CORE_FAULT_UNTRUSTED _ _ (by decide)
    have herror : u.fldAt (coreI i.core) CORE_STAT_FENCED = (s.countOverrun i).fldAt (coreI i.core) CORE_STAT_FENCED :=
      congrArg (getBits · _ _) (hu ▸ State.silentError_regs _ (s.overrunRec i agent) key rows _ (by
        simp [CORE_STAT_FENCED, FLT_SE_CNT_COUNT, CORE_FAULT_LAST_DET, State.overrunRec]))
    unfold State.isSetAt
    rw [hdistrust, herror, s.countOverrun_fenced]
  obtain ⟨hseq, htb⟩ := s.countOverrun_counts i
  refine ⟨_, hexec, fun hout k hk => ?_, ?_, ?_, ?_, ?_⟩
  · have hsame : (u.escalateOverrun i.core agent false).token i.core i.out = (s.countOverrun i).token i.core i.out := by
      unfold State.token
      rw [htoken]
    rw [hsame]
    exact State.countOverrun_completes hout hk
  · refine (congrArg (getBits · _ _) (hregs _ ?_)).trans hseq
    simp [SEQ_OVERRUN_CNT_COUNT, FLT_SE_CNT_COUNT, CORE_FAULT_LAST_DET]
  · refine (congrArg (getBits · _ _) (hregs TB_OVERRUN_CNT_COUNT.addr ?_)).trans htb
    simp only [TB_OVERRUN_CNT_COUNT, FLT_SE_CNT_COUNT, CORE_FAULT_LAST_DET, List.mem_cons, List.not_mem_nil, or_false]
    omega
  · rw [State.escalateOverrun_eq, State.untrustedUnit_requestFence]
    exact State.distrust_untrusted _ _ _
  · rw [State.escalateOverrun_eq]
    obtain hfenced | hasked := (u.distrust i.core (if agent ≤ 8 then agent else 10 + agent)).fence_requested i.core
    · exact .inl ((hfence _).symm.trans hfenced)
    · exact .inr hasked

theorem slackWindowSkipsItsShare : SlackWindowSkipsItsShare := by
  intro s core len hrun hslack
  refine ⟨_, congrArg Host.Outcome.next (if_pos ⟨hrun, hslack⟩), ?_, ?_, rfl⟩
  · exact (SMap.get_set _ _ _ _ _).trans (if_pos rfl)
  · exact (SMap.get_set _ _ _ _ _).trans (if_pos rfl)

/-- Settles O21: the error's record and the fence leave the token and the counts of the overrun. -/
theorem overrunsAndSlack : Obligations.OverrunsAndSlack := ⟨overrunVoidsCountsAndFences, slackWindowSkipsItsShare⟩

end Sys2Proof.Machine
end

section
/-! Units that become flits, and flits that go their way (R218 to R221, R228, R230 to R232): O23. -/
namespace Sys2Proof.Machine

/-! ### The header of a flit (R220) -/

/-- A header's flag bit is at most its place. -/
theorem flag_le (x : Bool) (n : Nat) : (if x then 2 ^ n else 0) ≤ 2 ^ n := by
  split
  · exact le_rfl
  · exact Nat.zero_le _

/-- The fields of a header stand side by side in its 64 bits. -/
theorem flitHead_toNat (dest via token inst index row kind region : Nat) (planeB prec isVoid last : Bool) :
    (flitHead dest via token inst index row kind region planeB prec isVoid last).toNat =
      dest % 1024 * 2 ^ 54 + via % 1024 * 2 ^ 44 + token % 256 * 2 ^ 36 + inst % 256 * 2 ^ 28 +
        index % 1024 * 2 ^ 18 + row % 32 * 2 ^ 13 + kind % 8 * 2 ^ 10 + region % 16 * 2 ^ 6 + (if planeB then 2 ^ 5 else 0) +
        (if prec then 2 ^ 4 else 0) + (if isVoid then 2 ^ 3 else 0) + (if last then 2 ^ 2 else 0) := by
  have h5 := flag_le planeB 5
  have h4 := flag_le prec 4
  have h3 := flag_le isVoid 3
  have h2 := flag_le last 2
  unfold flitHead
  rw [BitVec.toNat_ofNat]
  exact Nat.mod_eq_of_lt (by dsimp only; omega)

section
variable (u : UnitOut) (dest via token inst kind region : Nat) (planeB : Bool)

theorem UnitOut.flit_dest : (u.flit dest via token inst kind region planeB).dest = dest % 1024 := by
  have h5 := flag_le planeB 5
  have h4 := flag_le u.prec 4
  have h3 := flag_le u.isVoid 3
  have h2 := flag_le u.last 2
  show (flitHead ..).toNat / 2 ^ 54 % 2 ^ 10 = _
  rw [flitHead_toNat]
  omega

theorem UnitOut.flit_via : (u.flit dest via token inst kind region planeB).via = via % 1024 := by
  have h5 := flag_le planeB 5
  have h4 := flag_le u.prec 4
  have h3 := flag_le u.isVoid 3
  have h2 := flag_le u.last 2
  show (flitHead ..).toNat / 2 ^ 44 % 2 ^ 10 = _
  rw [flitHead_toNat]
  omega

theorem UnitOut.flit_index : (u.flit dest via token inst kind region planeB).index = u.index % 1024 := by
  have h5 := flag_le planeB 5
  have h4 := flag_le u.prec 4
  have h3 := flag_le u.isVoid 3
  have h2 := flag_le u.last 2
  show (flitHead ..).toNat / 2 ^ 18 % 2 ^ 10 = _
  rw [flitHead_toNat]
  omega

theorem UnitOut.flit_plane : (u.flit dest via token inst kind region planeB).plane = planeB := by
  have h4 := flag_le u.prec 4
  have h3 := flag_le u.isVoid 3
  have h2 := flag_le u.last 2
  show (flitHead ..).toNat.testBit 5 = _
  rw [flitHead_toNat, Nat.testBit_eq_decide_div_mod_eq]
  cases planeB with
  | false => exact decide_eq_false (by simp only [Bool.false_eq_true, if_false]; omega)
  | true => exact decide_eq_true (by simp only [if_true]; omega)

theorem UnitOut.flit_isVoid : (u.flit dest via token inst kind region planeB).isVoid = u.isVoid := by
  have h2 := flag_le u.last 2
  show (flitHead ..).toNat.testBit 3 = _
  rw [flitHead_toNat, Nat.testBit_eq_decide_div_mod_eq]
  cases u.isVoid with
  | false => exact decide_eq_false (by simp only [Bool.false_eq_true, if_false]; split <;> split <;> omega)
  | true => exact decide_eq_true (by simp only [if_true]; split <;> split <;> omega)

end

/-- A flit's way set to where it goes already. -/
theorem Flit.setVia_self (f : Flit) : f.setVia f.via = f := by
  have hvia : f.via < 1024 := Nat.mod_lt _ (by decide)
  have hle : f.via * 2 ^ 44 ≤ f.head.toNat := by
    unfold Flit.via Flit.field
    omega
  have hhead : f.head.toNat - f.via * 2 ^ 44 + f.via % 1024 * 2 ^ 44 = f.head.toNat := by
    rw [Nat.mod_eq_of_lt hvia]
    omega
  unfold Flit.setVia
  rw [hhead, BitVec.ofNat_toNat, BitVec.setWidth_eq]

/-! ### A transfer (R198, R505) -/

/-- Unit `k` of a transfer from the core store, of a row that is not void. -/
def State.soundUnit (s : State) (core : Nat) (v : Send) (addr : Nat) (flagged : BitVec 32) (k : Nat) : UnitOut :=
  ⟨v.index + k, (v.index + k) / v.perRow, false, flagged.getLsbD ((v.index + k) / v.perRow),
    decide ((v.index + k + 1) % v.perRow = 0), s.loadBytes core (addr + v.bytes * k) v.bytes⟩

/-- The units of a transfer with no row void. -/
def State.soundUnits (s : State) (core : Nat) (v : Send) (addr : Nat) (flagged : BitVec 32) : List UnitOut :=
  (List.range v.units).map (s.soundUnit core v addr flagged)

theorem State.formUnits_sound (s : State) (core inst : Nat) (ins : List Nat) {v : Send} {addr : Nat} (hsrc : v.src = .units addr)
    (flagged : BitVec 32) : s.formUnits core inst ins v none 0 flagged = s.soundUnits core v addr flagged := by
  unfold State.formUnits State.soundUnits
  rw [hsrc, ← List.filterMap_eq_map]
  refine List.filterMap_congr fun k _ => ?_
  simp [State.soundUnit]

/-- The issue's inputs are taken, and its rows delivered. -/
def State.transferred (s : State) (i : Issue) : State :=
  (s.consume i).finishOp i (s.begun i 0) (s.outRows i) (s.flagsIn i) false

theorem State.transferred_delivers (s : State) (i : Issue) : Delivers s (s.consume i) (s.transferred i) i (s.outRows i) :=
  finishOp_delivers rfl rfl _ _ _

theorem State.consume_mesh (s : State) (i : Issue) : (s.consume i).mesh = s.mesh := foldl_leaves State.mesh _ _ _ fun _ _ => rfl

theorem State.transferred_mesh (s : State) (i : Issue) : (s.transferred i).mesh = s.mesh := by
  obtain ⟨rows, void, heq, -⟩ := State.finishOp_sound (u := s.consume i) (i := i) (b := s.begun i 0) rfl (s.outRows i) (s.flagsIn i) false
  have hproduce : ((s.consume i).produce i rows void (s.flagsIn i)).mesh = (s.consume i).mesh := ite_leaves rfl rfl
  unfold State.transferred
  rw [heq, hproduce, State.consume_mesh]

theorem State.destOf_of_faults {s t : State} (h : t.faults = s.faults) (logical : Nat) : t.destOf logical = s.destOf logical := by
  unfold State.destOf State.physOf
  rw [h]

theorem State.routeOf_of_regs {s t : State} (h : t.regs = s.regs) (f : Flow) (src dst : Nat) : t.routeOf f src dst = s.routeOf f src dst := by
  have hfaulty : t.routerFaulty = s.routerFaulty := by
    funext core planeB
    exact State.isSetAt_of_regs h _ _
  unfold State.routeOf
  rw [hfaulty]

/-- The flit of a unit, at its source. -/
def State.flitOf (s : State) (i : Issue) (v : Send) (dst via : Nat) (planeB : Bool) (u : UnitOut) : FlitAt :=
  ⟨i.core, u.flit dst via v.token i.inst v.kind (((s.consume i).regionNum i.core + 0) % 16) planeB⟩

/-- The flits of a transfer, at its source. -/
def State.transferFlits (s : State) (i : Issue) (v : Send) (addr dst via : Nat) (planeB : Bool) : List FlitAt :=
  (s.soundUnits i.core v addr (s.flagsIn i)).map (s.flitOf i v dst via planeB)

/-- Flits join the mesh. -/
def State.addFlits (s : State) (l : List FlitAt) : State := { s with mesh := { s.mesh with flits := s.mesh.flits ++ l } }

/-- An undisturbed transfer sends its units by the route that is left. -/
theorem exec_meshTransfer {s : State} {i : Issue} {flow addr dst : Nat} {f : Flow} {v : Send} (hsrc : v.src = .units addr)
    (h : runsClean s i .meshA 0 [(addr, v.bytes * v.units)])
    (hflow : s.boot.image.flows.find? (fun (f : Flow) => f.num = flow) = some f) (hdst : s.destOf f.dst = some dst) :
    exec (.meshTransfer i flow v []) s = .next (match s.routeOf f i.core dst with
      | .none => (s.transferred i).putAt (coreI i.core) RTR_FLAG_NO_ROUTE 1
      | .planeA => (s.transferred i).addFlits (s.transferFlits i v addr dst dst false)
      | .detour via => (s.transferred i).addFlits (s.transferFlits i v addr dst via true)) := by
  have hranges : sendRanges v = [(addr, v.bytes * v.units)] := by
    unfold sendRanges
    rw [hsrc]
  have hbegin : s.beginOp i (sendRanges v) [] = (s.consume i, some (s.begun i 0)) := hranges ▸ State.beginOp_clean h
  obtain ⟨hruns, -, harmed, htrust, -⟩ := h
  have hfaults := s.consume_faults i
  have htrusted := State.untrustedUnit_none ((congrArg Faults.untrusted hfaults).trans htrust) i.core 9
  have hinject := State.tryInject_disarmed (s := s.consume i) ((congrArg Faults.armed hfaults).trans harmed) 0x13 i.core 0
  have hunits : (s.consume i).formUnits i.core i.inst i.ins v none (0 ||| (s.consume i).emptyRows i none) (s.flagsIn i) =
      s.soundUnits i.core v addr (s.flagsIn i) := by
    have hvoid : (0 : BitVec 32) ||| (s.consume i).emptyRows i none = 0 := by simp [State.emptyRows]
    rw [hvoid, State.formUnits_sound _ _ _ _ hsrc]
    unfold State.soundUnits State.soundUnit
    simp only [State.loadBytes_of_store (s.consume_store i)]
  show execMeshTransfer i flow v [] s = _
  unfold execMeshTransfer
  dsimp only
  rw [hruns, hflow, hbegin]
  simp only [Bool.not_true, Bool.false_eq_true, if_false, State.destOf_of_faults hfaults, hdst, htrusted, hinject, State.begun,
    or_self, hunits, State.routeOf_of_regs (s.consume_regs i), State.outRows_consume]
  cases s.routeOf f i.core dst <;> rfl

/-- One flit for each unit, in order, with the destination, the way, the unit's index and its bytes. -/
theorem State.transferFlits_sends (s : State) (i : Issue) (v : Send) (addr dst via : Nat) (planeB : Bool) :
    (s.transferFlits i v addr dst via planeB).length = v.units ∧
    ∀ k, k < v.units → ∃ x, (s.transferFlits i v addr dst via planeB)[k]? = some x ∧ x.core = i.core ∧ x.flit.dest = dst % 1024 ∧
      x.flit.via = via % 1024 ∧ x.flit.index = (v.index + k) % 1024 ∧ x.flit.plane = planeB ∧ x.flit.isVoid = false ∧
      x.flit.payload = s.loadBytes i.core (addr + v.bytes * k) v.bytes := by
  unfold State.transferFlits State.soundUnits
  refine ⟨by simp, fun k hk => ⟨s.flitOf i v dst via planeB (s.soundUnit i.core v addr (s.flagsIn i) k), ?_, rfl, ?_⟩⟩
  · rw [List.getElem?_map, List.getElem?_map, List.getElem?_range hk]
    rfl
  · exact ⟨UnitOut.flit_dest .., UnitOut.flit_via .., UnitOut.flit_index .., UnitOut.flit_plane .., UnitOut.flit_isVoid .., rfl⟩

theorem meshTransferSendsItsUnits : MeshTransferSendsItsUnits := by
  intro s i flow addr dst f v hsrc hclean hflow hdst
  have hexec := exec_meshTransfer hsrc hclean hflow hdst
  have hdone := s.transferred_delivers i
  have hmesh := s.transferred_mesh i
  have hstore : (s.transferred i).store = s.store := hdone.store.trans (s.consume_store i)
  have hregs : (s.transferred i).regs = s.regs := hdone.regs.trans (s.consume_regs i)
  have hsent : ∀ via planeB, ((s.transferred i).addFlits (s.transferFlits i v addr dst via planeB)).mesh.flits =
      s.mesh.flits ++ s.transferFlits i v addr dst via planeB := fun via planeB =>
    congrArg (fun m : Mesh => m.flits ++ _) hmesh
  refine ⟨fun planeB via hroute hvia => ?_, fun hroute => ?_⟩
  · obtain ⟨hlen, hflits⟩ := s.transferFlits_sends i v addr dst via planeB
    refine ⟨(s.transferred i).addFlits (s.transferFlits i v addr dst via planeB), s.transferFlits i v addr dst via planeB, ?_,
      hsent via planeB, hlen, hflits, hstore, hregs, hdone.outArrived⟩
    rw [hexec, hroute]
    cases planeB with
    | false => rw [hvia rfl]; rfl
    | true => rfl
  · rw [hroute] at hexec
    refine ⟨_, hexec, hmesh, hstore, ?_, fun a ha => ?_⟩
    · exact (State.fldAt_putAt_same _ _ _ _ (by decide)).trans (by decide)
    · rw [State.rd_putAt_ne _ _ _ _ a fun e => ha (List.mem_singleton.mpr e)]
      exact congrArg (fun m => SMap.get regReset m a) hregs

/-! ### A flit at a router (R219, R228, R230, R231) -/

/-- The flit has left its router on a link of plane A, which its load counts. -/
def State.leaveOn (s : State) (n core next : Nat) : State := (s.takeFlit n).countOut core next false

/-- The receiving router's check has failed; a third failure of a link in a furlong marks the sending router. -/
def State.failCheck (s : State) (core next : Nat) : State :=
  let s := (s.addAt (coreI next) RTR_CHK_ERR_COUNT 1).putAt (coreI next) RTR_FLAG_CHK_ERR 1
  let k := rtrKey core false
  let m := SMap.get (fun _ => 0) s.mesh.chk k + 1
  let s := { s with mesh := { s.mesh with chk := SMap.set (fun _ => 0) s.mesh.chk k m } }
  if 3 ≤ m then s.markRouter core false else s

section
variable {s : State} {n : Nat} {f : FlitAt} (hf : s.mesh.flits[n]? = some f) (hplane : f.flit.plane = false)
  (hgo : f.core ≠ f.flit.dest) (hhere : s.routerFaulty f.core false = false)
  (hthere : s.routerFaulty (nextHop f.core f.flit.dest) false = false)
include hf hplane hgo hhere hthere

/-- Into its own region: the flit moves on, or fails the receiving router's check. -/
theorem exec_flitForward_own (harmed : s.faults.armed = none) (hregion : s.regionNum (nextHop f.core f.flit.dest) = f.flit.region)
    (upset : Bool) : exec (.flitForward n upset) s = .next
      (if upset then (s.leaveOn n f.core (nextHop f.core f.flit.dest)).failCheck f.core (nextHop f.core f.flit.dest)
       else (s.leaveOn n f.core (nextHop f.core f.flit.dest)).addFlits [⟨nextHop f.core f.flit.dest, f.flit⟩]) := by
  have hinj : ∀ (u : State) point core, u.faults = s.faults → u.injects point core 0 = none := fun u point core hu => by
    unfold State.injects
    rw [hu, harmed]
  have hhere' : (s.takeFlit n).routerFaulty f.core false = false := hhere
  have hthere' : (s.takeFlit n).routerFaulty (nextHop f.core f.flit.dest) false = false := hthere
  have hregion' : (s.takeFlit n).regionNum (nextHop f.core f.flit.dest) = f.flit.region := hregion
  have hbad := hinj (s.takeFlit n) 0x12 f.core rfl
  have hlost := hinj ((s.takeFlit n).countOut f.core (nextHop f.core f.flit.dest) false) 0x11 (nextHop f.core f.flit.dest) rfl
  show execFlitForward n upset s = _
  unfold execFlitForward
  rw [hf]
  simp only [hplane, Bool.false_eq_true, false_and, if_false, hgo, or_false, hhere', hthere', hregion', ne_eq, not_true_eq_false,
    hbad, hlost, Flit.setVia_self]
  rfl

/-- Into another region: the flit is dropped and counted. -/
theorem exec_flitForward_foreign (hregion : s.regionNum (nextHop f.core f.flit.dest) ≠ f.flit.region) (upset : Bool) :
    exec (.flitForward n upset) s =
      .next (((s.takeFlit n).addAt (coreI f.core) RTR_XDROP_COUNT 1).putAt (coreI f.core) RTR_FLAG_XDROP 1) := by
  have hhere' : (s.takeFlit n).routerFaulty f.core false = false := hhere
  have hthere' : (s.takeFlit n).routerFaulty (nextHop f.core f.flit.dest) false = false := hthere
  have hregion' : (s.takeFlit n).regionNum (nextHop f.core f.flit.dest) ≠ f.flit.region := hregion
  show execFlitForward n upset s = _
  unfold execFlitForward
  rw [hf]
  simp only [hplane, Bool.false_eq_true, false_and, if_false, hgo, or_false, hhere', hthere', hregion', ne_eq, not_false_eq_true,
    if_true]

end

theorem State.markRouter_leaves {β : Type} (part : State → β) (h : ∀ (s : State) m, part { s with mesh := { s.mesh with marks := m } } = part s)
    (s : State) (core : Nat) (planeB : Bool) : part (s.markRouter core planeB) = part s := ite_leaves rfl (h s _)

/-- A failed check leaves the flits and the core stores. -/
theorem State.failCheck_leaves {β : Type} (part : State → β)
    (h : ∀ (s : State) r m c, part { s with regs := r, mesh := { s.mesh with marks := m, chk := c } } = part s)
    (s : State) (core next : Nat) : part (s.failCheck core next) = part s := by
  have hmark : ∀ (u : State) m, part { u with mesh := { u.mesh with marks := m } } = part u := fun u m => h u u.regs m u.mesh.chk
  have hput : ∀ (u : State) i g v, part (u.putAt i g v) = part u := fun u i g v => h u _ u.mesh.marks u.mesh.chk
  have hchk : ∀ (u : State) c, part { u with mesh := { u.mesh with chk := c } } = part u := fun u c => h u u.regs u.mesh.marks c
  unfold State.failCheck
  extract_lets u k m mesh v
  have hu : part u = part s := (hput _ _ _ _).trans (hput _ _ _ _)
  have hv : part v = part s := (hchk u _).trans hu
  exact ite_leaves ((State.markRouter_leaves part hmark v core false).trans hv) hv

theorem State.failCheck_counts (s : State) (core next : Nat) : (s.failCheck core next).fldAt (coreI next) RTR_CHK_ERR_COUNT =
    min (s.fldAt (coreI next) RTR_CHK_ERR_COUNT + 1) RTR_CHK_ERR_COUNT.top := by
  unfold State.failCheck
  extract_lets u k m mesh v
  have hregs : (if 3 ≤ m then v.markRouter core false else v).regs = u.regs :=
    ite_leaves (State.markRouter_leaves State.regs (fun _ _ => rfl) v core false) rfl
  rw [State.fldAt_of_regs hregs]
  exact (State.fldAt_putAt_other _ _ _ _ _ (by decide)).trans (State.fldAt_addAt_same _ _ _ _ (by decide))

theorem flitsGoTheirWay : FlitsGoTheirWay := by
  intro s n f hf hplane hgo harmed hhere hthere
  refine ⟨fun hregion => ⟨?_, ?_⟩, fun up hregion => ?_⟩
  · exact ⟨_, exec_flitForward_own hf hplane hgo hhere hthere harmed hregion false, rfl, rfl, rfl⟩
  · refine ⟨_, exec_flitForward_own hf hplane hgo hhere hthere harmed hregion true, ?_, ?_, ?_⟩
    · exact State.failCheck_leaves (fun s => s.mesh.flits) (fun _ _ _ _ => rfl) _ _ _
    · exact State.failCheck_counts _ _ _
    · exact State.failCheck_leaves State.store (fun _ _ _ _ => rfl) _ _ _
  · refine ⟨_, exec_flitForward_foreign hf hplane hgo hhere hthere hregion up, rfl, ?_, rfl⟩
    exact (State.fldAt_putAt_other _ _ _ _ _ (by decide)).trans (State.fldAt_addAt_same _ _ _ _ (by decide))

/-- Settles O23: the header's fields stand side by side, so a flit says where its unit goes, and a router changes none of them. -/
theorem meshTransfersAndFlits : Obligations.MeshTransfersAndFlits := ⟨meshTransferSendsItsUnits, flitsGoTheirWay⟩

end Sys2Proof.Machine
end

section
/-! The intake poll, the opening of intake and the return of slots (R317, R318, R324, R325, R439, R473): O38. -/
namespace Sys2Proof.Machine

/-! ### The poll (R318) -/

/-- The entries of a list up to the first that fails a test of entry and place. -/
theorem takeWhile_zipIdx {α : Type} (l : List α) (p : α × Nat → Bool) : ∃ n, n ≤ l.length ∧
    (l.zipIdx.takeWhile p).map Prod.fst = l.take n ∧ (∀ j x, j < n → l[j]? = some x → p (x, j) = true) ∧
    (∀ x, l[n]? = some x → p (x, n) = false) := by
  have hat : ∀ j x, l[j]? = some x → l.zipIdx[j]? = some (x, j) := fun j x hx => by
    rw [List.getElem?_zipIdx, hx, Option.map_some, Nat.zero_add]
  refine ⟨l.zipIdx.findIdx (fun e => !p e), ?_, ?_, fun j x hj hx => ?_, fun x hx => ?_⟩
  · exact List.findIdx_le_length.trans (List.length_zipIdx ..).le
  · rw [List.takeWhile_eq_take_findIdx_not, List.map_take, List.zipIdx_map_fst]
  · obtain ⟨hlt, hget⟩ := List.getElem?_eq_some_iff.mp (hat j x hx)
    have hpass := List.not_of_lt_findIdx hj
    rwa [hget, Bool.not_eq_false'] at hpass
  · obtain ⟨hlt, hget⟩ := List.getElem?_eq_some_iff.mp (hat _ x hx)
    have hfail := List.findIdx_getElem (p := fun e => !p e) (w := hlt)
    rwa [hget, Bool.not_eq_true'] at hfail

/-- The records that a poll takes. -/
def State.pollTakes (s : State) (r : RingPair) (recs : List (List Byte)) : List (List Byte) :=
  ((recs.take r.bPoll).zipIdx.takeWhile (fun e => recPresent e.1 (s.fld RQT_IN_IDX_INDEX + e.2) r.nIn)).map Prod.fst

/-- The two index registers after a poll that takes `n` records. -/
def State.moveIdx (s : State) (n host : Nat) : State :=
  (s.put RQT_IN_IDX_INDEX ((s.fld RQT_IN_IDX_INDEX + n) % 2 ^ 32)).put RQT_EG_CREDIT_INDEX (host % 2 ^ 32)

/-- Records taken wait for their commands. -/
def State.takeRecs (s : State) (l : List (List Byte)) : State := { s with rqt := { s.rqt with polled := s.rqt.polled ++ l } }

section
variable {s : State} {r : RingPair} (hring : s.ring = some r) (hstate : s.fld GLB_STATE_STATE ≠ 2) (hregion : s.cutOff r.region = false)
include hring hstate hregion

theorem exec_intakePoll_inTime (hin : s.dma r.inAddr (128 * r.nIn) = true) (hhost : s.dma r.hostIdxAddr 8 = true)
    (recs : List (List Byte)) (host : Nat) : exec (.intakePoll recs host false) s =
      .next (((s.moveIdx (s.pollTakes r recs).length host).takeRecs (s.pollTakes r recs)).writeIdx r) := by
  show execIntakePoll recs host false s = _
  unfold execIntakePoll
  rw [hring]
  simp only [hstate, hregion, Bool.false_eq_true, or_self, if_false, hin, hhost, Bool.not_true]
  rfl

theorem exec_intakePoll_late (recs : List (List Byte)) (host : Nat) : exec (.intakePoll recs host true) s =
    .next ((s.addAt (coreI (s.attachOf r.region)) SEQ_STALE_CNT_COUNT 1).add TB_STALE_CNT_COUNT 1) := by
  show execIntakePoll recs host true s = _
  unfold execIntakePoll
  rw [hring]
  simp only [hstate, hregion, Bool.false_eq_true, or_self, if_false, if_true]

end

theorem State.moveIdx_only (s : State) (n host : Nat) :
    RegsOnly [RQT_IN_IDX_INDEX.addr, RQT_EG_CREDIT_INDEX.addr] s (s.moveIdx n host) :=
  ((RegsOnly.refl _ s).putAt (i := 0) (f := RQT_IN_IDX_INDEX) (by decide) _).putAt (i := 0) (f := RQT_EG_CREDIT_INDEX) (by decide) _

theorem State.moveIdx_shows (s : State) (n host : Nat) :
    (s.moveIdx n host).fld RQT_IN_IDX_INDEX = (s.fld RQT_IN_IDX_INDEX + n) % 2 ^ 32 ∧
    (s.moveIdx n host).fld RQT_EG_CREDIT_INDEX = host % 2 ^ 32 := by
  have hin : 2 ^ (RQT_IN_IDX_INDEX.hi + 1 - RQT_IN_IDX_INDEX.lo) = 2 ^ 32 := rfl
  have hcredit : 2 ^ (RQT_EG_CREDIT_INDEX.hi + 1 - RQT_EG_CREDIT_INDEX.lo) = 2 ^ 32 := rfl
  unfold State.moveIdx
  rw [State.fld_put_other _ _ _ _ (by decide), State.fld_put_same _ _ _ (by decide), State.fld_put_same _ _ _ (by decide), hin,
    hcredit, Nat.mod_mod, Nat.mod_mod]
  exact ⟨rfl, rfl⟩

/-- The index word written to the host leaves all but the list of those words. -/
theorem State.writeIdx_leaves {β : Type} (part : State → β)
    (h : ∀ (s : State) w, part { s with rqt := { s.rqt with idxWrites := w } } = part s) (s : State) (r : RingPair) :
    part (s.writeIdx r) = part s := ite_leaves (h s _) rfl

theorem State.writeIdx_rest (s : State) (r : RingPair) : s.writeIdx r = { s with rqt := (s.writeIdx r).rqt } := by
  unfold State.writeIdx
  split
  · rfl
  · rfl

/-- A poll writes the two index registers and the serving state. -/
theorem State.poll_rest {s u : State} (h : u = { s with regs := u.regs }) (l : List (List Byte)) (r : RingPair) :
    (u.takeRecs l).writeIdx r =
      { s with regs := ((u.takeRecs l).writeIdx r).regs, rqt := ((u.takeRecs l).writeIdx r).rqt } := by
  obtain ⟨m, rfl⟩ : ∃ m, u = { s with regs := m } := ⟨_, h⟩
  rw [State.writeIdx_rest]
  rfl

/-- A count in a core, and the same count of the die. -/
theorem State.count_twice (s : State) (core : Nat) :
    ((s.addAt (coreI core) SEQ_STALE_CNT_COUNT 1).add TB_STALE_CNT_COUNT 1).fldAt (coreI core) SEQ_STALE_CNT_COUNT =
      min (s.fldAt (coreI core) SEQ_STALE_CNT_COUNT + 1) SEQ_STALE_CNT_COUNT.top ∧
    ((s.addAt (coreI core) SEQ_STALE_CNT_COUNT 1).add TB_STALE_CNT_COUNT 1).fld TB_STALE_CNT_COUNT =
      min (s.fld TB_STALE_CNT_COUNT + 1) TB_STALE_CNT_COUNT.top := by
  have hapart : SEQ_STALE_CNT_COUNT.addr + coreI core ≠ TB_STALE_CNT_COUNT.addr + 0 := by
    simp only [SEQ_STALE_CNT_COUNT, TB_STALE_CNT_COUNT]
    omega
  refine ⟨(State.fldAt_addAt_ne _ 0 _ _ _ _ hapart).trans (State.fldAt_addAt_same _ _ _ _ (by decide)), ?_⟩
  rw [State.fld_add_same _ _ _ (by decide)]
  unfold State.fld
  rw [State.fldAt_addAt_ne _ _ 0 _ _ _ hapart.symm]

theorem intakePollTakesPresentRecords : IntakePollTakesPresentRecords := by
  intro s r recs host hring hstate hregion
  refine ⟨fun hin hhost => ?_, ?_⟩
  · obtain ⟨n, hn, htakes, hpresent, hstop⟩ := takeWhile_zipIdx (recs.take r.bPoll)
      (fun e => recPresent e.1 (s.fld RQT_IN_IDX_INDEX + e.2) r.nIn)
    rw [List.length_take, le_min_iff] at hn
    obtain ⟨hbatch, hlen⟩ := hn
    have htook : s.pollTakes r recs = recs.take n := by
      refine htakes.trans ?_
      rw [List.take_take, min_eq_left hbatch]
    have hcount : (s.pollTakes r recs).length = n := by rw [htook, List.length_take, min_eq_left hlen]
    have hexec := exec_intakePoll_inTime hring hstate hregion hin hhost recs host
    rw [hcount, htook] at hexec
    obtain ⟨hidx, hcredit⟩ := s.moveIdx_shows n host
    have honly := s.moveIdx_only n host
    have hrqt : (s.moveIdx n host).rqt = s.rqt := honly.leaves fun _ _ => rfl
    have hregs : (((s.moveIdx n host).takeRecs (recs.take n)).writeIdx r).regs = (s.moveIdx n host).regs :=
      State.writeIdx_leaves State.regs (fun _ _ => rfl) _ r
    refine ⟨_, n, hexec, hbatch, hlen, fun j raw hj hraw => ?_, fun raw hj hraw => ?_, ?_, ?_, ?_, fun a ha => ?_, ?_,
      State.poll_rest honly.rest _ r⟩
    · exact hpresent j raw hj (by rwa [List.getElem?_take_of_lt (by omega)])
    · exact hstop raw (by rwa [List.getElem?_take_of_lt hj])
    · rw [State.writeIdx_leaves (fun s => s.rqt.polled) (fun _ _ => rfl)]
      show (s.moveIdx n host).rqt.polled ++ recs.take n = _
      rw [hrqt]
    · exact (State.fldAt_of_regs hregs 0 _).trans hidx
    · exact (State.fldAt_of_regs hregs 0 _).trans hcredit
    · exact (congrArg (fun m => SMap.get regReset m a) hregs).trans (honly.regs a ha)
    · rw [State.writeIdx_leaves (fun s => s.rqt.table) (fun _ _ => rfl)]
      show (s.moveIdx n host).rqt.table = _
      rw [hrqt]
  · obtain ⟨hcore, hdie⟩ := s.count_twice (s.attachOf r.region)
    exact ⟨_, exec_intakePoll_late hring hstate hregion recs host, hcore, hdie, rfl⟩

/-! ### Opening and closing (R439, R473) -/

theorem State.fld_putGlb_same (s : State) {f : Fld} {v : Nat} (h : f.lo ≤ f.hi ∧ f.hi < 32) (hv : v < 2 ^ (f.hi + 1 - f.lo)) :
    (s.putGlb f v).fld f = v := by
  unfold State.putGlb
  split
  next hsame => exact hsame
  next =>
    exact (State.fldAt_of_regs (State.sendVector_regs _ _) 0 f).trans ((State.fld_put_same s f v h).trans (Nat.mod_eq_of_lt hv))

theorem State.fld_putGlb_other (s : State) {f g : Fld} (v : Nat) (h : f.misses g = true) : (s.putGlb f v).fld g = s.fld g := by
  unfold State.putGlb
  split
  · rfl
  · exact (State.fldAt_of_regs (State.sendVector_regs _ _) 0 g).trans (State.fld_put_other s f g v h)

/-- In step 9, with the sequencers running and intake open, the start is complete. -/
theorem State.stepOnce_opens {s : State} (hstate : s.fld GLB_STATE_STATE = 0) (hstep : s.fld GLB_STATE_STEP = 9)
    (hrun : s.sched.running = true) (hopen : s.isSet RQT_CTRL_INTAKE_EN = true) :
    s.stepOnce = some ((s.putGlb GLB_STATE_STATE 1).putGlb GLB_STATE_STEP 10) := by
  unfold State.stepOnce State.startStep
  rw [if_neg (by simp [hstate]), hstep]
  exact if_pos ⟨hrun, .inr hopen⟩

/-- Nothing follows: the start is over. -/
theorem State.advanceStart_opens {s : State} (hstate : s.fld GLB_STATE_STATE = 0) (hstep : s.fld GLB_STATE_STEP = 9)
    (hrun : s.sched.running = true) (hopen : s.isSet RQT_CTRL_INTAKE_EN = true) :
    s.advanceStart.fld GLB_STATE_STEP = 10 ∧ s.advanceStart.fld GLB_STATE_STATE = 1 := by
  obtain ⟨t, ht⟩ : ∃ t, t = (s.putGlb GLB_STATE_STATE 1).putGlb GLB_STATE_STEP 10 := ⟨_, rfl⟩
  have hten : t.fld GLB_STATE_STEP = 10 := ht ▸ State.fld_putGlb_same _ (by decide) (by decide)
  have hone : t.fld GLB_STATE_STATE = 1 := by
    rw [ht, State.fld_putGlb_other _ _ (by decide)]
    exact State.fld_putGlb_same _ (by decide) (by decide)
  have hover : t.stepOnce = none := if_pos (by rw [hone]; decide)
  have hsteps : State.advanceN 10 s = t := by
    unfold State.advanceN
    rw [State.stepOnce_opens hstate hstep hrun hopen, ← ht]
    show State.advanceN 9 t = t
    unfold State.advanceN
    rw [hover]
  have hadvance : s.advanceStart = t.putGlb GLB_STATE_WAIT t.waitCode := by
    unfold State.advanceStart
    rw [hsteps, if_neg (by rw [hone]; decide)]
  rw [hadvance, State.fld_putGlb_other _ _ (by decide), State.fld_putGlb_other _ _ (by decide)]
  exact ⟨hten, hone⟩

/-- The start goes on without a change of the opening. -/
theorem State.advanceStart_intake (s : State) : s.advanceStart.fld RQT_CTRL_INTAKE_EN = s.fld RQT_CTRL_INTAKE_EN :=
  (StartFrame.refl s).advanceStart.fld (by decide) (by decide)

theorem State.advanceStart_rqt (s : State) : s.advanceStart.rqt = s.rqt :=
  State.advanceStart_leaves State.rqt (fun _ _ _ _ _ _ _ => rfl) s

/-- The table's row of RQT_CTRL, and its one field. -/
def intakeEn : FieldDef := ⟨RQT_CTRL_INTAKE_EN, .rws, .live, 0⟩
def rqtCtrl : RegDef := ⟨"RQT_CTRL", 0x0480004, 1, .rqt, true, false, false, [intakeEn]⟩

theorem regAt_rqtCtrl : regAt RQT_CTRL_INTAKE_EN.addr = some rqtCtrl := by decide +kernel

/-- INTAKE_EN in the word that a write of RQT_CTRL leaves: the seal refuses its change. -/
theorem State.intakeEn_newWord (s : State) (w : Wr) :
    getBits (s.newWord w RQT_CTRL_INTAKE_EN.addr rqtCtrl) 0 0 =
      if s.isSet GLB_LOCK_CFG_SEAL then s.fld RQT_CTRL_INTAKE_EN else wbits w.data RQT_CTRL_INTAKE_EN := by
  cases hseal : s.isSet GLB_LOCK_CFG_SEAL with
  | true =>
    have hrefused : ∀ x a, s.refuses x a intakeEn = .seal := fun x a => if_pos ⟨rfl, hseal⟩
    refine getBits_storeFields_apart w.data _ _ RQT_CTRL_INTAKE_EN fun f hf => ?_
    obtain ⟨hmem, hno⟩ := List.mem_filter.mp hf
    obtain rfl : f = intakeEn := List.mem_singleton.mp hmem
    simp [hrefused] at hno
  | false =>
    have hno : s.refuses (s.blockRuns .rqt RQT_CTRL_INTAKE_EN.addr) RQT_CTRL_INTAKE_EN.addr intakeEn = .no := by
      unfold State.refuses
      rw [hseal, if_neg (by simp)]
      rfl
    exact s.getBits_newWord w _ rqtCtrl intakeEn regAt_rqtCtrl rfl List.mem_cons_self hno

theorem exec_intakeEnWrite {s : State} {w : Wr} (hreach : writeReaches s w RQT_CTRL_INTAKE_EN.addr rqtCtrl = true) :
    exec (.intakeEnWrite w) s = .next (s.storeReg w RQT_CTRL_INTAKE_EN.addr rqtCtrl).advanceStart := by
  show execIntakeEnWrite w s = _
  unfold execIntakeEnWrite
  rw [State.write_of_reaches regAt_rqtCtrl hreach (by decide)]
  rfl

theorem exec_mcOpenIntake {s : State} (h : s.mgmtUp = true) :
    exec .mcOpenIntake s = .next (s.put RQT_CTRL_INTAKE_EN 1).advanceStart := congrArg Host.Outcome.next (if_pos h)

theorem exec_mcCloseIntake {s : State} (h : s.mgmtUp = true) :
    exec .mcCloseIntake s = .next (s.put RQT_CTRL_INTAKE_EN 0).advanceStart := congrArg Host.Outcome.next (if_pos h)

/-! ### The return of a slot (R324, R325) -/

theorem exec_slotFree {s : State} {slot b : Nat} (hfree : (s.req slot).freeAt = some b)
    (hend : (s.req slot).state = .done ∨ (s.req slot).state = .cancelled) : exec (.slotFree slot) s =
      .next (if rodAfter s.tb.rod b then s else s.setReq slot { Req.empty with gen := (s.req slot).gen }) := by
  show execSlotFree slot s = _
  unfold execSlotFree
  dsimp only
  rw [hfree]
  cases hafter : rodAfter s.tb.rod b <;> simp [hend, hafter]

theorem State.req_setReq (s : State) (slot k : Nat) (r : Req) : (s.setReq slot r).req k = if k = slot then r else s.req k :=
  SMap.get_set _ _ _ _ _

theorem intakeOpensAndSlotsFree : IntakeOpensAndSlotsFree := by
  refine fun s => ⟨fun w r hr hreach _ => ?_, fun hup _ => ⟨?_, ?_⟩, fun slot b hfree hend => ⟨fun hnow => ?_, fun hlater => ?_⟩⟩
  · obtain rfl := Option.some.inj (regAt_rqtCtrl.symm.trans hr)
    have hrd : (s.storeReg w RQT_CTRL_INTAKE_EN.addr rqtCtrl).rd RQT_CTRL_INTAKE_EN.addr =
        s.newWord w RQT_CTRL_INTAKE_EN.addr rqtCtrl :=
      State.rd_storeReg _ _ _ _ _ (by decide) (clampStore_unbounded (by decide) (by decide) (by decide) _ _)
    refine ⟨_, exec_intakeEnWrite hreach, ?_⟩
    rw [State.advanceStart_intake, ← s.intakeEn_newWord w]
    exact congrArg (getBits · 0 0) hrd
  · have hopen : (s.put RQT_CTRL_INTAKE_EN 1).fld RQT_CTRL_INTAKE_EN = 1 := State.fld_put_same s _ 1 (by decide)
    refine ⟨_, exec_mcOpenIntake hup, (State.advanceStart_intake _).trans hopen, State.advanceStart_rqt _,
      fun hstate hstep hrun => State.advanceStart_opens ?_ ?_ hrun (decide_eq_true hopen)⟩
    · rwa [State.fld_put_other _ _ _ _ (by decide)]
    · rwa [State.fld_put_other _ _ _ _ (by decide)]
  · have hclosed : (s.put RQT_CTRL_INTAKE_EN 0).fld RQT_CTRL_INTAKE_EN = 0 := State.fld_put_same s _ 0 (by decide)
    exact ⟨_, exec_mcCloseIntake hup, (State.advanceStart_intake _).trans hclosed, State.advanceStart_rqt _⟩
  · have hexec := exec_slotFree hfree hend
    rw [hnow] at hexec
    refine ⟨_, hexec, (s.req_setReq slot slot _).trans (if_pos rfl), fun k hk => (s.req_setReq slot k _).trans (if_neg hk), rfl⟩
  · rw [exec_slotFree hfree hend, hlater]
    rfl

/-- Settles O38: a poll stops at the first absent record, and the start that an opening completes leaves intake and the serving
state. -/
theorem intakePollAndOpening : Obligations.IntakePollAndOpening := ⟨intakePollTakesPresentRecords, intakeOpensAndSlotsFree⟩

end Sys2Proof.Machine
end

section
/-! The release of reset, the lock of the clock and the acknowledgement of stop records (R177, R181, R428 to R434, R500,
R504): O50. -/
namespace Sys2Proof.Machine

/-! ### The event log is read (R429, R433) -/

/-- A part that a record of the event log does not touch. -/
structure LogLeaves {β : Type} (part : Boot → β) : Prop where
  put : ∀ (b : Boot) l n q, part { b with log := l, logNext := n, seq := q } = part b
  fails : ∀ (b : Boot) l k, part { b with log := l, crcFails := k } = part b

theorem LogLeaves.append {β : Type} {part : Boot → β} (h : LogLeaves part) (b : Boot) (r : LogRec) :
    part (b.append r) = part b := by
  have hput : ∀ b r, part (putLog b r) = part b := fun b r => h.put b _ _ _
  unfold Boot.append
  extract_lets first sector old copied
  have hcopied : part copied = part b := (foldl_leaves part putLog _ _ hput).trans (hput b r)
  exact ite_leaves ((h.put copied _ copied.logNext copied.seq).trans hcopied) (hput b r)

/-- The words that the reading of the log writes. -/
def logRegs : List Nat := [GLB_LAST_STOP_TYPE.addr, GLB_BOOT_WARM.addr]

/-- A part of the state that the reading of the event log does not touch. -/
structure ReadLeaves {β : Type} (part : State → β) : Prop where
  put : ∀ (u : State) (f : Fld) (v : Nat), f.addr ∈ logRegs → part (u.put f v) = part u
  log : ∀ (u : State) l n q, part { u with boot := { u.boot with log := l, logNext := n, seq := q } } = part u
  fails : ∀ (u : State) l k, part { u with boot := { u.boot with log := l, crcFails := k } } = part u

/-- A field outside its two words. -/
theorem ReadLeaves.fld {g : Fld} (hg : g.addr ∉ logRegs) : ReadLeaves (State.fld · g) where
  put u f v hf := State.fldAt_putAt_ne u 0 0 f g v fun e => hg ((show g.addr = f.addr from e) ▸ hf)
  log _ _ _ _ := rfl
  fails _ _ _ := rfl

/-- A part of the boot state. -/
theorem LogLeaves.state {β : Type} {part : Boot → β} (h : LogLeaves part) : ReadLeaves (fun s => part s.boot) where
  put _ _ _ _ := rfl
  log u := h.put u.boot
  fails u := h.fails u.boot

/-- The log without the records whose CRC fails. -/
def State.skipBad (s : State) (bad : List Nat) : State :=
  { s with boot := { s.boot with
    log := s.boot.log.filter (fun e => !bad.contains e.1)
    crcFails := (bad.eraseDups.filter (fun n => (s.boot.log.any (fun e => e.1 = n)))).length } }

/-- The RESET or UNRECORDED_STOP record of a start. -/
def State.noteStop (s : State) : State :=
  match s.boot.warm, s.boot.newest with
  | some c, _ => s.logAppend 3 c []
  | none, some r => if r.type = 1 then s else s.logAppend 2 0 []
  | none, none => s

/-- The last stop is shown. -/
def State.showStop (s : State) : State :=
  match s.boot.newest with
  | some r => (s.put GLB_LAST_STOP_TYPE r.type).put GLB_LAST_STOP_CAUSE r.cause
  | none => s

theorem State.readLog_eq (s : State) (bad : List Nat) : s.readLog bad =
    ((s.skipBad bad).noteStop.showStop.flag GLB_BOOT_WARM (s.skipBad bad).noteStop.showStop.boot.warm.isSome).showAcks := rfl

section
variable {β : Type} {part : State → β} (h : ReadLeaves part)
include h

theorem ReadLeaves.logAppend (u : State) (type cause : Nat) (detail : List Byte) : part (u.logAppend type cause detail) = part u := by
  have hboot : LogLeaves (fun b => part { u with boot := b }) := ⟨fun b => h.log { u with boot := b }, fun b => h.fails { u with boot := b }⟩
  exact hboot.append u.boot _

theorem ReadLeaves.noteStop (u : State) : part u.noteStop = part u := by
  unfold State.noteStop
  split
  · exact h.logAppend u _ _ _
  · exact ite_leaves rfl (h.logAppend u _ _ _)
  · rfl

theorem ReadLeaves.showStop (u : State) : part u.showStop = part u := by
  unfold State.showStop
  split
  · exact (h.put _ GLB_LAST_STOP_CAUSE _ (by decide)).trans (h.put _ GLB_LAST_STOP_TYPE _ (by decide))
  · rfl

theorem ReadLeaves.beforeFlag (s : State) (bad : List Nat) : part (s.skipBad bad).noteStop.showStop = part s :=
  (h.showStop _).trans ((h.noteStop _).trans (h.fails s _ _))

theorem ReadLeaves.readLog (s : State) (bad : List Nat) : part (s.readLog bad) = part s := by
  rw [State.readLog_eq]
  exact (h.put _ GLB_BOOT_PENDING_ACK _ (by decide)).trans ((h.put _ GLB_BOOT_WARM _ (by decide)).trans (h.beforeFlag s bad))

end

theorem State.fld_showAcks (s : State) : s.showAcks.fld GLB_BOOT_PENDING_ACK = min s.pendingAcks 255 := by
  have hwidth : min s.pendingAcks 255 < 2 ^ (GLB_BOOT_PENDING_ACK.hi + 1 - GLB_BOOT_PENDING_ACK.lo) := by
    have := Nat.min_le_right s.pendingAcks 255
    show _ < 256
    omega
  exact (State.fld_put_same s _ _ (by decide)).trans (Nat.mod_eq_of_lt hwidth)

theorem State.readLog_warm (s : State) (bad : List Nat) : (s.readLog bad).isSet GLB_BOOT_WARM = s.boot.warm.isSome := by
  have hwarm : LogLeaves Boot.warm := ⟨fun _ _ _ _ => rfl, fun _ _ _ => rfl⟩
  have hkept : (s.skipBad bad).noteStop.showStop.boot.warm = s.boot.warm := hwarm.state.beforeFlag s bad
  rw [State.readLog_eq, hkept]
  unfold State.isSet State.showAcks
  rw [State.fld_put_other _ _ _ _ (by decide)]
  exact State.isSet_flag _ _ _ (by unfold Fld.inWord; decide)

/-! ### A start begins (R433, R434, R504) -/

/-- The state of a start before its log is read. -/
def State.starting (s : State) (f : StartFacts) : State :=
  let u := { s.tick with
    pins := { s.tick.pins with perstN := true, mrstN := true }
    sec := { s.tick.sec with releaseKey := true, relNo := s.tick.freeCtr }
    boot := { s.tick.boot with startNo := s.tick.boot.startNo + 1, bootRandom := Config.bootRandom s.freeCtr, facts := some f } }
  (((u.put SEC_STAT_RUNNING 1).put THM_STAT_RUNNING 1).put PWR_STAT_RUNNING 1).put PWR_STAT_VIN_OK 1

theorem exec_resetRelease {s : State} (f : StartFacts) (hgood : s.pins.pwrgd = true) (hrun : s.isSet SEC_STAT_RUNNING = false) :
    exec (.resetRelease f) s = .next (if ((s.starting f).readLog f.badRecs).isSet TB_STAT_REF_LOCK then
      ((s.starting f).readLog f.badRecs).bootOn f else (s.starting f).readLog f.badRecs) :=
  congrArg Host.Outcome.next (if_neg (by simp [hgood, hrun]))

/-- The words of the running bits. -/
theorem State.starting_fld_other (s : State) (f : StartFacts) {g : Fld}
    (hg : SEC_STAT_RUNNING.misses g = true ∧ THM_STAT_RUNNING.misses g = true ∧ PWR_STAT_RUNNING.misses g = true ∧
      PWR_STAT_VIN_OK.misses g = true) : (s.starting f).fld g = s.fld g := by
  obtain ⟨hsec, hthm, hpwr, hvin⟩ := hg
  unfold State.starting
  extract_lets u
  rw [State.fld_put_other _ _ _ _ hvin, State.fld_put_other _ _ _ _ hpwr, State.fld_put_other _ _ _ _ hthm,
    State.fld_put_other _ _ _ _ hsec]
  rfl

theorem State.starting_runs (s : State) (f : StartFacts) :
    (s.starting f).fld SEC_STAT_RUNNING = 1 ∧ (s.starting f).fld THM_STAT_RUNNING = 1 := by
  unfold State.starting
  extract_lets u
  simp (disch := decide)

theorem State.resetRelease_waits {s : State} (f : StartFacts) (hgood : s.pins.pwrgd = true)
    (hrun : s.isSet SEC_STAT_RUNNING = false) (hlock : s.isSet TB_STAT_REF_LOCK = false) :
    ∃ t, exec (.resetRelease f) s = .next t ∧ t.boot.startNo = s.boot.startNo + 1 ∧ t.fld SEC_STAT_RUNNING = 1 ∧ t.fld THM_STAT_RUNNING = 1 ∧
      t.pins.perstN = true ∧ t.pins.mrstN = true ∧ t.boot.facts = some f ∧ t.fld GLB_STATE_STEP = s.fld GLB_STATE_STEP ∧
      t.isSet GLB_BOOT_WARM = s.boot.warm.isSome := by
  have hfld : ∀ g : Fld, g.addr ∉ logRegs → ((s.starting f).readLog f.badRecs).fld g = (s.starting f).fld g :=
    fun g hg => (ReadLeaves.fld hg).readLog _ _
  have hstart : LogLeaves Boot.startNo := ⟨fun _ _ _ _ => rfl, fun _ _ _ => rfl⟩
  have hfacts : LogLeaves Boot.facts := ⟨fun _ _ _ _ => rfl, fun _ _ _ => rfl⟩
  have hpins : ReadLeaves State.pins := ⟨fun _ _ _ _ => rfl, fun _ _ _ _ => rfl, fun _ _ _ => rfl⟩
  have hunlocked : ((s.starting f).readLog f.badRecs).isSet TB_STAT_REF_LOCK = false := by
    unfold State.isSet at hlock ⊢
    rwa [hfld _ (by decide), s.starting_fld_other f (by decide)]
  obtain ⟨hsec, hthm⟩ := s.starting_runs f
  refine ⟨_, (exec_resetRelease f hgood hrun).trans (by rw [hunlocked]), ?_, ?_, ?_, ?_, ?_, ?_, ?_, ?_⟩
  · exact hstart.state.readLog _ _
  · exact (hfld _ (by decide)).trans hsec
  · exact (hfld _ (by decide)).trans hthm
  · exact congrArg Pins.perstN (hpins.readLog _ _)
  · exact congrArg Pins.mrstN (hpins.readLog _ _)
  · exact hfacts.state.readLog _ _
  · exact (hfld _ (by decide)).trans (s.starting_fld_other f (by decide))
  · exact State.readLog_warm _ _

/-! ### Entry into chrysalis mode (R421, R432) -/

theorem SMap.get_filter {α : Type} (d : Nat → α) (m : SMap α) (p : Nat × α → Bool) (k : Nat) (h : ∀ v, p (k, v) = true) :
    SMap.get d (m.filter p) k = SMap.get d m k := by
  induction m with
  | nil => rfl
  | cons e m ih =>
    obtain ⟨j, v⟩ := e
    rw [List.filter_cons]
    by_cases hj : j = k
    · subst hj
      rw [if_pos (h v), SMap.get, SMap.get, if_pos rfl, if_pos rfl]
    · split
      · rw [SMap.get, SMap.get, if_neg hj, if_neg hj, ih]
      · rw [SMap.get, if_neg hj, ih]

/-- The die's words of GLB_STATE and GLB_BOOT are in no core domain. -/
def glbWords : List Nat := [GLB_STATE_STATE.addr, GLB_BOOT_VERIFY_FAIL.addr]

theorem glbWords_stay {a : Nat} (h : a ∈ glbWords) :
    (match regAt a with | some r => !(inCoreDomain r && true) | none => true) = true := by
  simp only [glbWords, List.mem_cons, List.not_mem_nil, or_false] at h
  obtain rfl | rfl := h
  · decide +kernel
  · decide +kernel

/-- The cause shown, and the sequencers due to stop. -/
def State.showChrysalis (s : State) (cause : Nat) : State :=
  let s := { s with tb := { s.tb with stopAtRod := true } }
  (s.putGlb GLB_STATE_STATE 2).put GLB_STATE_CAUSE cause

/-- Work is lost. -/
def State.dropWork (s : State) : State :=
  { s with
    rqt := { s.rqt with table := [], updates := [], bushels := [], egress := [] }
    engines := []
    faults := { s.faults with repairs := [] } }

/-- The TDI is in ERROR and the clock divided. -/
def State.slowDown (s : State) : State :=
  let s := s.put SEC_STAT_TDI_STATE 3
  let s := (s.put THM_STAT_DIVIDED 1)
  { s with therm := { s.therm with divided := true } }

/-- Work and keys are lost, and the CHRYSALIS record is appended. -/
def State.closeDown (s : State) (cause : Nat) : State :=
  let s := s.dropWork.eraseKeys.slowDown
  s.logAppend 4 cause (match s.faults.log with | [] => [] | r :: _ => Config.faultBytes r.nums)

theorem State.enterChrysalis_eq {s : State} (hout : s.fld GLB_STATE_STATE ≠ 2) (cause : Nat) : s.enterChrysalis cause =
    ((((((s.showChrysalis cause).closeDown cause).put RQT_STAT_LIVE 0).put RQT_STAT_RUNNING 0).put ASZ_STAT_RUNNING 0).dropCoreRegs
      (fun _ => true)) := if_neg hout

section
variable {g : Fld} (hg : g.addr ∈ glbWords)
include hg

theorem glbWords_apart {a : Nat} (ha : a ∉ glbWords) : g.addr ≠ a := fun e => ha (e ▸ hg)

theorem State.fld_lessTiers_glb (s : State) (adv bey fresh : Nat) : (s.lessTiers adv bey fresh).fld g = s.fld g :=
  (State.fld_put_ne _ _ _ _ (glbWords_apart hg (by decide))).trans
    ((State.fld_put_ne _ _ _ _ (glbWords_apart hg (by decide))).trans (State.fld_put_ne _ _ _ _ (glbWords_apart hg (by decide))))

theorem State.fld_dropAdvice_glb (s : State) (p : Nat → Bool) : (s.dropAdvice p).fld g = s.fld g := by
  refine foldl_leaves (State.fld · g) _ _ _ fun u e => ?_
  show State.fld (match regAt e.1 with | some _ => _ | none => u) g = u.fld g
  split
  · exact ite_leaves (part := (State.fld · g)) (u.fld_lessTiers_glb hg _ _ _) rfl
  · rfl

theorem State.fld_dropCoreRegs_glb (s : State) : (s.dropCoreRegs (fun _ => true)).fld g = s.fld g := by
  refine Eq.trans ?_ (s.fld_dropAdvice_glb hg (fun _ => true))
  refine congrArg (getBits · g.hi g.lo) (SMap.get_filter _ _ _ (g.addr + 0) fun v => ?_)
  exact glbWords_stay (a := g.addr + 0) hg

theorem State.fld_eraseKeys_glb (s : State) : s.eraseKeys.fld g = s.fld g := by
  unfold State.eraseKeys
  extract_lets u
  rw [State.fld_put_ne _ _ _ _ (glbWords_apart hg (by decide)), State.fld_put_ne _ _ _ _ (glbWords_apart hg (by decide))]
  rfl

theorem State.fld_slowDown_glb (s : State) : s.slowDown.fld g = s.fld g := by
  show ((s.put SEC_STAT_TDI_STATE 3).put THM_STAT_DIVIDED 1).fld g = s.fld g
  rw [State.fld_put_ne _ _ _ _ (glbWords_apart hg (by decide)), State.fld_put_ne _ _ _ _ (glbWords_apart hg (by decide))]

theorem State.fld_closeDown_glb (s : State) (cause : Nat) : (s.closeDown cause).fld g = s.fld g := by
  show s.dropWork.eraseKeys.slowDown.fld g = s.fld g
  rw [State.fld_slowDown_glb hg, State.fld_eraseKeys_glb hg]
  rfl

theorem State.fld_enterChrysalis_glb {s : State} (hout : s.fld GLB_STATE_STATE ≠ 2) (cause : Nat) :
    (s.enterChrysalis cause).fld g = (s.showChrysalis cause).fld g := by
  have hne : ∀ (u : State) (f : Fld) v, f.addr ∉ glbWords → (u.put f v).fld g = u.fld g :=
    fun u f v hf => u.fld_put_ne f g v (glbWords_apart hg hf)
  rw [State.enterChrysalis_eq hout, State.fld_dropCoreRegs_glb hg, hne _ ASZ_STAT_RUNNING _ (by decide),
    hne _ RQT_STAT_RUNNING _ (by decide), hne _ RQT_STAT_LIVE _ (by decide), State.fld_closeDown_glb hg]

end

/-- The state and the cause that chrysalis mode shows. -/
theorem State.enterChrysalis_shows {s : State} (hout : s.fld GLB_STATE_STATE ≠ 2) {cause : Nat} (hc : cause < 256) :
    (s.enterChrysalis cause).fld GLB_STATE_STATE = 2 ∧ (s.enterChrysalis cause).fld GLB_STATE_CAUSE = cause ∧
    (s.enterChrysalis cause).fld GLB_BOOT_VERIFY_FAIL = s.fld GLB_BOOT_VERIFY_FAIL := by
  obtain ⟨u, hu⟩ : ∃ u : State, u = { s with tb := { s.tb with stopAtRod := true } } := ⟨_, rfl⟩
  have hu2 : u.fld GLB_STATE_STATE ≠ 2 := by rw [hu]; exact hout
  have hput : u.putGlb GLB_STATE_STATE 2 = (u.put GLB_STATE_STATE 2).sendVector 18 := if_neg hu2
  have hfld : ∀ g, ((u.put GLB_STATE_STATE 2).sendVector 18).fld g = (u.put GLB_STATE_STATE 2).fld g :=
    fun g => State.fldAt_of_regs (State.sendVector_regs _ _) 0 g
  have hshow : s.showChrysalis cause = ((u.put GLB_STATE_STATE 2).sendVector 18).put GLB_STATE_CAUSE cause := by
    rw [← hput, hu]
    rfl
  rw [State.fld_enterChrysalis_glb (by decide) hout, State.fld_enterChrysalis_glb (by decide) hout,
    State.fld_enterChrysalis_glb (by decide) hout, hshow, State.fld_put_other _ _ _ _ (by decide),
    State.fld_put_same _ _ _ (by decide), State.fld_put_other _ _ _ _ (by decide), hfld, hfld,
    State.fld_put_same _ _ _ (by decide), State.fld_put_other _ _ _ _ (by decide), hu]
  exact ⟨rfl, Nat.mod_eq_of_lt hc, rfl⟩

/-! ### An image that fails (R428) -/

theorem Boot.verifyCode_le (b : Boot) (c : ImageChecks) : b.verifyCode c ≤ 6 := by
  unfold Boot.verifyCode
  split_ifs
  all_goals decide

/-- A field of GLB_STATE and its vector leave all but the registers and the vectors. -/
theorem State.putGlb_leaves {β : Type} (part : State → β) (h : ∀ (u : State) r m, part { u with regs := r, msix := m } = part u)
    (s : State) (f : Fld) (v : Nat) : part (s.putGlb f v) = part s := by
  have hput : part (s.put f v) = part s := h s _ s.msix
  have hsent : ∀ m, part { s.put f v with msix := m } = part (s.put f v) := fun m => h _ (s.put f v).regs m
  have hsend : part ((s.put f v).sendVector 18) = part (s.put f v) := ite_leaves (hsent _) (ite_leaves rfl (hsent _))
  exact ite_leaves rfl (hsend.trans hput)

/-- Step 1 of the start. -/
def State.verifying (s : State) (f : StartFacts) : State :=
  (({ s with boot := { s.boot with facts := none } } : State).putGlb GLB_STATE_STEP 1).flag GLB_BOOT_FALLBACK f.fallback

theorem State.verifying_boot (s : State) (f : StartFacts) : (s.verifying f).boot = { s.boot with facts := none } :=
  State.putGlb_leaves State.boot (fun _ _ _ => rfl) _ GLB_STATE_STEP 1

theorem State.verifying_faults (s : State) (f : StartFacts) : (s.verifying f).faults = s.faults :=
  State.putGlb_leaves State.faults (fun _ _ _ => rfl) _ GLB_STATE_STEP 1

theorem State.bootOn_fails {s : State} {f : StartFacts} (harmed : s.faults.armed = none) (hfail : s.boot.verifyCode f.checks ≠ 0) :
    s.bootOn f = ((s.verifying f).put GLB_BOOT_VERIFY_FAIL (s.boot.verifyCode f.checks)).enterChrysalis 2 := by
  have hcode : (s.verifying f).boot.verifyCode f.checks = s.boot.verifyCode f.checks := by
    rw [State.verifying_boot]
    rfl
  have hdisarmed : (s.verifying f).tryInject 0x22 0 0 = (s.verifying f, none) :=
    State.tryInject_disarmed (by rw [State.verifying_faults, harmed]) _ _ _
  show (match (s.verifying f).tryInject 0x22 0 0 with
    | (u, inj) =>
      let code := if inj.isSome then (if (s.verifying f).boot.verifyCode f.checks = 0 then 4 else 0)
        else (s.verifying f).boot.verifyCode f.checks
      let u := u.put GLB_BOOT_VERIFY_FAIL code
      if code ≠ 0 ∧ !u.contained inj.isSome then u.enterChrysalis 2
      else
        let u := if code ≠ 0 then u.put INJ_STAT_CONTAINED 1 else u
        ((u.commitImage.putGlb GLB_STATE_STEP 2).selfTest f).showAcks.goOn) = _
  rw [hdisarmed, hcode]
  exact if_pos ⟨hfail, rfl⟩

theorem State.bootOn_fails_shows {s : State} {f : StartFacts} (harmed : s.faults.armed = none) (hout : s.fld GLB_STATE_STATE ≠ 2)
    (hfail : s.boot.verifyCode f.checks ≠ 0) : (s.bootOn f).fld GLB_STATE_STATE = 2 ∧ (s.bootOn f).fld GLB_STATE_CAUSE = 2 ∧
    (s.bootOn f).fld GLB_BOOT_VERIFY_FAIL = s.boot.verifyCode f.checks := by
  have hstep : (s.verifying f).fld GLB_STATE_STATE = s.fld GLB_STATE_STATE := by
    unfold State.verifying
    rw [State.fld_flag_other _ _ _ _ (by decide), State.fld_putGlb_other _ _ (by decide)]
    rfl
  have hcode := s.boot.verifyCode_le f.checks
  have hwidth : s.boot.verifyCode f.checks % 2 ^ (GLB_BOOT_VERIFY_FAIL.hi + 1 - GLB_BOOT_VERIFY_FAIL.lo) =
      s.boot.verifyCode f.checks := Nat.mod_eq_of_lt (by show _ < 16; omega)
  obtain ⟨hstate, hcause, hshown⟩ := State.enterChrysalis_shows
    (s := (s.verifying f).put GLB_BOOT_VERIFY_FAIL (s.boot.verifyCode f.checks))
    (by rwa [State.fld_put_other _ _ _ _ (by decide), hstep]) (show 2 < 256 by decide)
  rw [State.bootOn_fails harmed hfail]
  exact ⟨hstate, hcause, hshown.trans ((State.fld_put_same _ _ _ (by decide)).trans hwidth)⟩

/-! ### The clock locks (R177, R181, R504) -/

/-- The clock is locked and no frame is begun. -/
def State.locked (s : State) : State :=
  ({ s with tb := { s.tb with frame := none, lastF := none, provisional := false, pair := none } } : State).put TB_STAT_REF_LOCK 1

theorem exec_clockLock {s : State} (h : s.isSet TB_STAT_REF_LOCK = false) :
    exec .clockLock s = .next (match s.boot.facts with | some f => s.locked.bootOn f | none => s.locked) :=
  congrArg Host.Outcome.next (if_neg (by simp [h]))

theorem startsRunToStepOneAndOn : StartsRunToStepOneAndOn := by
  refine fun s => ⟨fun f hgood hrun hlock => State.resetRelease_waits f hgood hrun hlock, fun hlock => ⟨fun hfacts => ?_,
    fun f hfacts harmed hout hfail => ?_⟩, fun hlock => congrArg Host.Outcome.next (if_pos hlock)⟩
  · refine ⟨s.locked, by rw [exec_clockLock hlock, hfacts], State.fld_put_same _ _ 1 (by decide), rfl, rfl, fun a ha => ?_, rfl⟩
    exact State.rd_put_ne _ _ _ _ fun e => ha (e ▸ List.mem_cons_self)
  · refine ⟨s.locked.bootOn f, by rw [exec_clockLock hlock, hfacts], State.bootOn_fails_shows harmed ?_ hfail⟩
    exact (State.fld_put_other _ _ _ _ (by decide)).trans_ne hout

/-! ### Stop records (R429, R433) -/

/-- The older of a record and the one found before it. -/
def olderRec (x : Option (Nat × LogRec)) (e : Nat × LogRec) : Option (Nat × LogRec) :=
  match x with
  | none => some e
  | some y => if e.2.seq < y.2.seq then some e else x

/-- The search finds the record of the lowest sequence number. -/
theorem foldl_olderRec {l : List (Nat × LogRec)} {e : Nat × LogRec} {x : Option (Nat × LogRec)} (hin : e ∈ l ∨ x = some e)
    (hlist : ∀ y ∈ l, y ≠ e → e.2.seq < y.2.seq) (hfound : ∀ y ∈ x, y ≠ e → e.2.seq < y.2.seq) :
    l.foldl olderRec x = some e := by
  induction l generalizing x with
  | nil => exact hin.resolve_left List.not_mem_nil
  | cons a l ih =>
    have hlater : ∀ y ∈ l, y ≠ e → e.2.seq < y.2.seq := fun y hy => hlist y (List.mem_cons_of_mem _ hy)
    have hstep : ∀ y ∈ olderRec x a, y = a ∨ y ∈ x := by
      intro y hy
      unfold olderRec at hy
      split at hy
      · exact .inl (Option.some.inj hy).symm
      · split at hy
        · exact .inl (Option.some.inj hy).symm
        · exact .inr hy
    refine ih ?_ hlater fun y hy hne => ?_
    · by_cases hl : e ∈ l
      · exact .inl hl
      · refine .inr ?_
        unfold olderRec
        obtain hcons | hx := hin
        · obtain rfl := (List.mem_cons.mp hcons).resolve_right hl
          cases x with
          | none => rfl
          | some y =>
            by_cases hy : y = e
            · subst hy
              exact ite_self _
            · exact if_pos (hfound y rfl hy)
        · subst hx
          by_cases ha : a = e
          · subst ha
            exact ite_self _
          · exact if_neg (hlist a List.mem_cons_self ha).asymm
    · obtain rfl | hy := hstep y hy
      · exact hlist y List.mem_cons_self hne
      · exact hfound y hy hne

/-- The records that await acknowledgement. -/
def Boot.openRecs (b : Boot) : List (Nat × LogRec) := b.log.filter (fun e => ackType e.2.type && !e.2.ack)

theorem Boot.mem_openRecs (b : Boot) (e : Nat × LogRec) : e ∈ b.openRecs ↔ e ∈ b.log ∧ ackType e.2.type = true ∧ e.2.ack = false := by
  simp [Boot.openRecs]

/-- The log with the record at a place acknowledged. -/
def ackAt (log : List (Nat × LogRec)) (k : Nat) : List (Nat × LogRec) :=
  log.map (fun (x : Nat × LogRec) => if x.1 = k then (x.1, { x.2 with ack := true }) else x)

/-- The record is acknowledged and reported. -/
def State.ackRec (s : State) (e : Nat × LogRec) : State :=
  ({ s with boot := { s.boot with log := ackAt s.boot.log e.1 } } : State).pldm (.stopRecord e.2.seq)

theorem exec_stopRecordAck (s : State) : exec .stopRecordAck s = .next (match s.boot.openRecs.foldl olderRec none with
    | some e => if s.boot.firmware then (s.ackRec e).showAcks.goOn else s
    | none => s) := rfl

/-- A start whose next step cannot complete only shows what it waits for. -/
theorem State.advanceStart_stuck {s : State} (h : s.stepOnce = none) :
    s.advanceStart = if s.fld GLB_STATE_STATE = 2 then s else s.putGlb GLB_STATE_WAIT s.waitCode := by
  have hsteps : State.advanceN 10 s = s := by
    unfold State.advanceN
    rw [h]
  unfold State.advanceStart
  rw [hsteps]

theorem State.goOn_stuck {s : State} (h : s.stepOnce = none) : s.goOn = s.advanceStart := by
  have hstep : s.advanceStart.startStep = s.startStep := by
    rw [State.advanceStart_stuck h]
    exact ite_leaves (part := State.startStep) rfl (State.fld_putGlb_other s _ (by decide))
  unfold State.goOn
  exact if_neg fun ⟨hbefore, hafter, _⟩ => absurd (hstep ▸ hafter) (Nat.not_le.mpr hbefore)

/-- Outside the start, or in step 2 while a record is open, no step completes. -/
theorem State.stepOnce_stuck {s : State} (h : s.fld GLB_STATE_STATE ≠ 0 ∨ s.fld GLB_STATE_STEP = 2 ∧ s.pendingAcks ≠ 0) :
    s.stepOnce = none := by
  unfold State.stepOnce State.startStep
  by_cases hstate : s.fld GLB_STATE_STATE = 0
  · obtain ⟨hstep, hopen⟩ := h.resolve_left (absurd hstate)
    rw [if_neg (absurd hstate), hstep]
    exact if_neg fun hdone => hopen hdone.2
  · exact if_pos hstate

theorem State.showAcks_fld (s : State) {g : Fld} (hg : GLB_BOOT_PENDING_ACK.misses g = true) : s.showAcks.fld g = s.fld g :=
  State.fld_put_other _ _ _ _ hg

/-- An open record elsewhere stays open. -/
theorem State.ackRec_pending {s : State} {e x : Nat × LogRec} (hx : x ∈ s.boot.log) (hne : x.1 ≠ e.1)
    (hack : ackType x.2.type = true) (hopen : x.2.ack = false) : (s.ackRec e).pendingAcks ≠ 0 := by
  have hstays : x ∈ ackAt s.boot.log e.1 := List.mem_map.mpr ⟨x, hx, if_neg hne⟩
  have hpos : 0 < (s.ackRec e).pendingAcks := List.countP_pos_iff.mpr ⟨x, hstays, by simp [hack, hopen]⟩
  exact hpos.ne'

theorem stopRecordsAreAcknowledged : StopRecordsAreAcknowledged := by
  refine fun s => ⟨fun e he hack hopen hfirm hfirst hstays => ?_, fun hnone => ?_⟩
  · have hfound : s.boot.openRecs.foldl olderRec none = some e := by
      refine foldl_olderRec (.inl ((s.boot.mem_openRecs e).mpr ⟨he, hack, hopen⟩)) (fun y hy hne => ?_) (by simp)
      obtain ⟨hy, hyack, hyopen⟩ := (s.boot.mem_openRecs y).mp hy
      exact hfirst y hy hyack hyopen hne
    have hstuck : (s.ackRec e).showAcks.stepOnce = none := by
      refine State.stepOnce_stuck ?_
      rw [State.showAcks_fld _ (by decide), State.showAcks_fld _ (by decide)]
      refine hstays.imp_right fun ⟨hstep, x, hx, hne, hxack, hxopen⟩ => ⟨hstep, State.ackRec_pending hx hne hxack hxopen⟩
    have hexec : exec .stopRecordAck s = .next (s.ackRec e).showAcks.advanceStart := by
      rw [exec_stopRecordAck, hfound, hfirm, ← State.goOn_stuck hstuck]
      rfl
    have hkeeps : ∀ {β : Type} (part : State → β), (∀ u v, part (State.putGlb u GLB_STATE_WAIT v) = part u) →
        part (s.ackRec e).showAcks.advanceStart = part (s.ackRec e).showAcks := fun part hpart => by
      rw [State.advanceStart_stuck hstuck]
      exact ite_leaves rfl (hpart _ _)
    have hboot : (s.ackRec e).showAcks.advanceStart.boot = (s.ackRec e).boot :=
      hkeeps State.boot fun u => State.putGlb_leaves State.boot (fun _ _ _ => rfl) u _
    refine ⟨_, hexec, congrArg Boot.log hboot, ?_, ?_⟩
    · exact hkeeps (fun u => u.mgmt.events)
        fun u => State.putGlb_leaves (fun u => u.mgmt.events) (fun _ _ _ => rfl) u _
    · refine (hkeeps (State.fld · GLB_BOOT_PENDING_ACK) fun u v => State.fld_putGlb_other u v (by decide)).trans ?_
      unfold State.pendingAcks
      rw [hboot]
      exact State.fld_showAcks _
  · have hempty : s.boot.openRecs = [] := List.filter_eq_nil_iff.mpr fun e he => by
      cases hack : ackType e.2.type with
      | false => simp
      | true => simp [hnone e he hack]
    rw [exec_stopRecordAck, hempty]
    rfl

/-- Settles O50: a start waits for its clock and ends where its image fails, and the acknowledgement takes the oldest open
record. -/
theorem startsAndStops : Obligations.StartsAndStops := ⟨startsRunToStepOneAndOn, stopRecordsAreAcknowledged⟩

end Sys2Proof.Machine
end

section
/-! What the changes of a boundary leave (R190, R192): the count of rods and what is due at it, the count of the core clock, the
variant in force, the clamp sums of a furlong and the values of class B that wait. One lemma for each operation. -/
namespace Sys2Proof.Machine

/-- The part of the state that only a rod's count, a switch of variants, a furlong's counts and the settling of class B change. -/
structure Clock where
  rod : Nat
  furDue : Bool
  mileDue : Bool
  clockRods : Nat
  var : Nat
  clampDue : Option Nat
  clampNow : Nat
  waitB : List (Nat × Word)

def State.clock (s : State) : Clock :=
  ⟨s.tb.rod, s.tb.furDue, s.tb.mileDue, s.sec.clockRods, s.sched.var, s.clampDue, s.clampNow, s.waitB⟩

/-! ### How a state is built

A lemma that holds by `rfl` is closed by `(rfl)`, so that `simp` rewrites with it as an equation: `dsimp` would unfold the clock
in a proof about a fold. -/

@[simp] theorem State.clock_ite (c : Prop) [Decidable c] (s t : State) : (if c then s else t).clock =
    if c then s.clock else t.clock :=
  apply_ite State.clock c s t

@[simp] theorem State.foldl_clock {α : Type} (f : State → α → State) (l : List α) (s : State)
    (h : ∀ u x, (f u x).clock = u.clock) : (l.foldl f s).clock = s.clock := foldl_leaves State.clock f l s h

/-- The state of a pair. -/
theorem State.clock_fst {β : Type} {p : State × β} {u : State} {x : β} {k : Clock} (e : p = (u, x)) (h : p.1.clock = k) :
    u.clock = k := by
  subst e
  exact h

/-! ### Parts of the state outside the clock -/

@[simp] theorem State.regs_clock (s : State) (x) : { s with regs := x }.clock = s.clock := (rfl)

@[simp] theorem State.rqt_clock (s : State) (x) : { s with rqt := x }.clock = s.clock := (rfl)

@[simp] theorem State.fab_clock (s : State) (x) : { s with fab := x }.clock = s.clock := (rfl)

@[simp] theorem State.faults_clock (s : State) (x) : { s with faults := x }.clock = s.clock := (rfl)

@[simp] theorem State.boot_clock (s : State) (x) : { s with boot := x }.clock = s.clock := (rfl)

@[simp] theorem State.msix_clock (s : State) (x) : { s with msix := x }.clock = s.clock := (rfl)

@[simp] theorem State.engines_clock (s : State) (x) : { s with engines := x }.clock = s.clock := (rfl)

@[simp] theorem State.tiers_clock (s : State) (x) : { s with tiers := x }.clock = s.clock := (rfl)

@[simp] theorem State.asz_clock (s : State) (x) : { s with asz := x }.clock = s.clock := (rfl)

@[simp] theorem State.mem_clock (s : State) (x) : { s with mem := x }.clock = s.clock := (rfl)

@[simp] theorem State.mesh_clock (s : State) (x) : { s with mesh := x }.clock = s.clock := (rfl)

@[simp] theorem State.routing_clock (s : State) (x) : { s with routing := x }.clock = s.clock := (rfl)

@[simp] theorem State.att_clock (s : State) (x) : { s with att := x }.clock = s.clock := (rfl)

@[simp] theorem State.weights_clock (s : State) (x) : { s with weights := x }.clock = s.clock := (rfl)

@[simp] theorem State.rtv_clock (s : State) (x) : { s with rtv := x }.clock = s.clock := (rfl)

@[simp] theorem State.therm_clock (s : State) (x) : { s with therm := x }.clock = s.clock := (rfl)

@[simp] theorem State.mgmt_clock (s : State) (x) : { s with mgmt := x }.clock = s.clock := (rfl)

/-! ### Machine/Ops.lean -/

@[simp] theorem State.wr_clock (s : State) (a : Nat) (w : Word) : (s.wr a w).clock = s.clock := (rfl)

@[simp] theorem State.putAt_clock (s : State) (i : ℕ) (f : Fld) (v : ℕ) : (s.putAt i f v).clock = s.clock := (rfl)

@[simp] theorem State.put_clock (s : State) (f : Fld) (v : ℕ) : (s.put f v).clock = s.clock := (rfl)

@[simp] theorem State.addAt_clock (s : State) (i : ℕ) (f : Fld) (n : ℕ) : (s.addAt i f n).clock = s.clock := (rfl)

@[simp] theorem State.add_clock (s : State) (f : Fld) (n : ℕ) : (s.add f n).clock = s.clock := (rfl)

@[simp] theorem State.flagAt_clock (s : State) (i : ℕ) (f : Fld) (b : Bool) : (s.flagAt i f b).clock = s.clock := (rfl)

@[simp] theorem State.flag_clock (s : State) (f : Fld) (b : Bool) : (s.flag f b).clock = s.clock := (rfl)

@[simp] theorem State.raiseIfAt_clock (s : State) (i : ℕ) (f : Fld) (b : Bool) : (s.raiseIfAt i f b).clock = s.clock := by
  simp [State.raiseIfAt]

@[simp] theorem State.tick_clock (s : State) : s.tick.clock = s.clock := (rfl)

@[simp] theorem State.sendVector_clock (s : State) (v : ℕ) : (s.sendVector v).clock = s.clock :=
  ite_leaves (part := State.clock) rfl (ite_leaves rfl rfl)

@[simp] theorem State.putGlb_clock (s : State) (f : Fld) (v : ℕ) : (s.putGlb f v).clock = s.clock := by
  simp [State.putGlb]

@[simp] theorem State.logAppend_clock (s : State) (type cause : Nat) (detail : List Byte) :
    (s.logAppend type cause detail).clock = s.clock := (rfl)

@[simp] theorem State.pldm_clock (s : State) (e : PldmEvent) : (s.pldm e).clock = s.clock := (rfl)

@[simp] theorem State.depth_clock (s : State) : s.depth.clock = s.clock := (rfl)

@[simp] theorem State.enterSb_clock (s : State) (m : SbMsg) : (s.enterSb m).1.clock = s.clock :=
  State.enterSb_leaves State.clock (fun _ _ _ => rfl) s m

@[simp] theorem State.raiseDated_clock (s : State) (kind data mile : ℕ) : (s.raiseDated kind data mile).clock = s.clock := by
  simp [State.raiseDated]

@[simp] theorem State.raise_clock (s : State) (kind data : ℕ) : (s.raise kind data).clock = s.clock := by
  simp [State.raise]

@[simp] theorem State.setReq_clock (s : State) (slot : ℕ) (r : Req) : (s.setReq slot r).clock = s.clock := (rfl)

@[simp] theorem State.dropFold_clock (s : State) (slot gen : ℕ) : (s.dropFold slot gen).clock = s.clock := (rfl)

@[simp] theorem State.fallRows_clock (s : State) (rows : List BushelRow) (mask : BitVec 32) :
    (s.fallRows rows mask).clock = s.clock := by
  simp [State.fallRows]

@[simp] theorem State.voidRows_clock (s : State) (key : Option ℕ) (mask : BitVec 32) : (s.voidRows key mask).clock = s.clock :=
  State.voidRows_leaves State.clock (fun _ _ _ => rfl) s key mask

@[simp] theorem State.setToken_clock (s : State) (core tok : ℕ) (t : Token) : (s.setToken core tok t).clock = s.clock := (rfl)

@[simp] theorem State.queueEg_clock (s : State) (e : EgItem) : (s.queueEg e).clock = s.clock := (rfl)

@[simp] theorem State.stackWrite_clock (s : State) (addr : Nat) (bs : List Byte) : (s.stackWrite addr bs).clock = s.clock := (rfl)

@[simp] theorem State.endPages_clock (s : State) (slot : ℕ) (r : Req) : (s.endPages slot r).clock = s.clock :=
  (DrainLeaves.of_regs (part := State.clock) fun _ _ _ _ => rfl).endPages s slot r

@[simp] theorem State.endReq_clock (s : State) (slot : ℕ) (st : ReqState) (code : ℕ) :
    (s.endReq slot st code).clock = s.clock := by
  simp [State.endReq]

@[simp] theorem State.sendUpdate_clock (s : State) (u : TableUpdate) : (s.sendUpdate u).clock = s.clock := (rfl)

@[simp] theorem State.drain_clock (s : State) (slot code : ℕ) : (s.drain slot code).clock = s.clock := by
  simp [State.drain]

@[simp] theorem State.completeAll_clock (s : State) (code : ℕ) : (s.completeAll code).clock = s.clock := by
  simp [State.completeAll]

@[simp] theorem State.clearEngines_clock (s : State) : s.clearEngines.clock = s.clock := (rfl)

@[simp] theorem State.stopSequencers_clock (s : State) : s.stopSequencers.clock = s.clock := by
  unfold State.stopSequencers
  extract_lets u v sched rqt w
  have hu : u.clock = s.clock := by simp [u]
  clear_value u
  have hw : w.clock = s.clock := hu
  simp [hw]

@[simp] theorem State.reAdmit_clock (s : State) : s.reAdmit.clock = s.clock :=
  State.reAdmit_leaves State.clock (fun _ _ _ => rfl) s

/-! ### Machine/FaultOps.lean -/

@[simp] theorem State.countSpares_clock (s : State) : s.countSpares.clock = s.clock := by
  simp [State.countSpares]

@[simp] theorem State.mapCore_clock (s : State) (logical core : ℕ) : (s.mapCore logical core).clock = s.clock := (rfl)

@[simp] theorem State.setTier_clock (s : State) (core eng tier : ℕ) (t : Tier) :
    (s.setTier core eng tier t).clock = s.clock := (rfl)

@[simp] theorem State.setRole_clock (s : State) (core eng tier role : ℕ) : (s.setRole core eng tier role).clock = s.clock := (rfl)

@[simp] theorem State.logCoreMap_clock (s : State) (core : ℕ) : (s.logCoreMap core).clock = s.clock := (rfl)

@[simp] theorem State.lessTiers_clock (s : State) (adv bey fresh : ℕ) : (s.lessTiers adv bey fresh).clock = s.clock := (rfl)

@[simp] theorem State.dropAdvice_clock (s : State) (p : ℕ → Bool) : (s.dropAdvice p).clock = s.clock := by
  refine foldl_leaves State.clock _ _ s fun u e => ?_
  split
  · simp
  · rfl

@[simp] theorem State.dropCoreRegs_clock (s : State) (p : Nat → Bool) : (s.dropCoreRegs p).clock = s.clock :=
  State.dropAdvice_clock s p

@[simp] theorem State.eraseKeys_clock (s : State) : s.eraseKeys.clock = s.clock := (rfl)

@[simp] theorem State.dropWork_clock (s : State) : s.dropWork.clock = s.clock := (rfl)

@[simp] theorem State.showChrysalis_clock (s : State) (cause : Nat) : (s.showChrysalis cause).clock = s.clock := by
  simp [State.showChrysalis]
  rfl

@[simp] theorem State.slowDown_clock (s : State) : s.slowDown.clock = s.clock := by
  refine (State.therm_clock _ _).trans ?_
  simp

@[simp] theorem State.closeDown_clock (s : State) (cause : Nat) : (s.closeDown cause).clock = s.clock := by
  simp [State.closeDown]

@[simp] theorem State.enterChrysalis_clock (s : State) (cause : ℕ) : (s.enterChrysalis cause).clock = s.clock := by
  by_cases hin : s.fld GLB_STATE_STATE = 2
  · rw [State.enterChrysalis, if_pos hin]
  · rw [State.enterChrysalis_eq hin]
    simp

@[simp] theorem State.startRepair_clock (s : State) (logical core : ℕ) : (s.startRepair logical core).clock = s.clock := by
  unfold State.startRepair
  split
  · simp
  · simp

@[simp] theorem State.dropCore_clock (s : State) (core : ℕ) : (s.dropCore core).clock = s.clock := (rfl)

@[simp] theorem State.fenceRegs_clock (s : State) (core : ℕ) : (s.fenceRegs core).clock = s.clock := by
  simp [State.fenceRegs]

@[simp] theorem State.yieldRole_clock (s : State) : s.yieldRole.clock = s.clock := (rfl)

@[simp] theorem State.loadMasks_clock (s : State) : s.loadMasks.clock = s.clock := by
  refine foldl_leaves State.clock _ _ s fun u b => ite_leaves (part := State.clock) ?_ rfl
  split
  · simp
  · rfl

@[simp] theorem State.takeOvers_clock (s : State) : s.takeOvers.clock = s.clock := by
  simp [State.takeOvers]

/-! ### Machine/StartOps.lean -/

@[simp] theorem State.setPort_clock (s : State) (p : ℕ) (x : Port) : (s.setPort p x).clock = s.clock := (rfl)

@[simp] theorem State.assignCorpus_clock (s : State) (c : Corpus) : (s.assignCorpus c).clock = s.clock := by
  unfold State.assignCorpus
  extract_lets epochs full best u
  have hu : u.clock = s.clock := by
    refine foldl_leaves State.clock _ _ s fun v t => ?_
    split
    · rfl
    · split
      · simp
      · simp
  exact ite_leaves (part := State.clock) hu hu

@[simp] theorem State.wantStart_clock (s : State) : s.wantStart.clock = s.clock := by
  unfold State.wantStart
  split
  all_goals rfl

@[simp] theorem State.advanceStart_clock (s : State) : s.advanceStart.clock = s.clock :=
  State.advanceStart_leaves State.clock (fun _ _ _ _ _ _ _ => rfl) s

/-- The module is shown as admitted when its sequencers start. -/
def State.showStarted (s : State) : State :=
  ((((s.put TB_ADM_STAT_STATE 2).put TB_ADM_STAT_CODE 0).put TB_ADM_STAT_ITEM 0xFFFF).put TB_STAT_TIME_FAIL 0).put
    GLB_STATE_ADMIT_FAILED 0

@[simp] theorem State.showStarted_clock (s : State) : s.showStarted.clock = s.clock := by
  simp [State.showStarted]

/-- The sequencers run. -/
def State.setRunning (s : State) : State :=
  { s with sched := { s.sched with running := true, startDue := false, admitted := true } }

@[simp] theorem State.setRunning_clock (s : State) : s.setRunning.clock = s.clock := (rfl)

/-- The STARTED record of a start that ends in step 9, and the serving of requests. -/
def State.noteStarted (s : State) (first : Bool) : State :=
  let s := if first then s.logAppend 5 0 [BitVec.ofNat 8 s.sched.var, BitVec.ofNat 8 s.boot.crcFails] else s
  if s.boot.image.serving then s.put RQT_STAT_RUNNING 1 else s

@[simp] theorem State.noteStarted_clock (s : State) (first : Bool) : (s.noteStarted first).clock = s.clock := by
  have hnote : (if first then s.logAppend 5 0 [BitVec.ofNat 8 s.sched.var, BitVec.ofNat 8 s.boot.crcFails] else s).clock =
      s.clock := ite_leaves (part := State.clock) (State.logAppend_clock ..) rfl
  exact ite_leaves (part := State.clock) ((State.put_clock _ _ _).trans hnote) hnote

@[simp] theorem State.startSequencers_clock (s : State) : s.startSequencers.clock = s.clock := by
  unfold State.startSequencers
  split
  · rfl
  · refine ite_leaves (part := State.clock) rfl ?_
    refine (State.advanceStart_clock _).trans ((State.loadMasks_clock _).trans ?_)
    by_cases hfirst : s.startStep = 9
    · simp only [hfirst, if_true]
      exact ((State.noteStarted_clock s.setRunning.showStarted true)).trans ((State.showStarted_clock _).trans s.setRunning_clock)
    · simp only [hfirst, if_false]
      exact ((State.noteStarted_clock s.setRunning.showStarted false)).trans ((State.showStarted_clock _).trans s.setRunning_clock)

/-! ### Machine/EngineOps.lean -/

@[simp] theorem State.setTierCal_clock (s : State) (core eng tier : ℕ) (c : TierCal) :
    (s.setTierCal core eng tier c).clock = s.clock := (rfl)

@[simp] theorem State.setBand_clock (s : State) (core eng tier band : ℕ) (b : TierBand) :
    (s.setBand core eng tier band b).clock = s.clock := (rfl)

@[simp] theorem State.setEngCal_clock (s : State) (core eng : ℕ) (c : EngCal) : (s.setEngCal core eng c).clock = s.clock := (rfl)

/-! ### Machine/Store.lean -/

@[simp] theorem State.setAdSlot_clock (s : State) (k : ℕ) (a : AdSlot) : (s.setAdSlot k a).clock = s.clock := (rfl)

@[simp] theorem State.adapterLost_clock (s : State) (k : ℕ) : (s.adapterLost k).clock = s.clock :=
  ite_leaves (part := State.clock) rfl (ite_leaves rfl rfl)

@[simp] theorem State.poolTake_clock (s : State) (region bytes : ℕ) : (s.poolTake region bytes).1.clock = s.clock := by
  unfold State.poolTake
  split
  all_goals rfl

@[simp] theorem State.allocTables_clock (s : State) (slot : ℕ) : (s.allocTables slot).clock = s.clock := by
  unfold State.allocTables
  extract_lets r im
  split
  next u r1 htables =>
    have hu : u.clock = s.clock :=
      State.clock_fst htables (ite_leaves (part := fun p : State × Req => p.1.clock) rfl (State.poolTake_clock s _ _))
    split
    next v r2 hcounts =>
      have hv : v.clock = u.clock :=
        State.clock_fst hcounts (ite_leaves (part := fun p : State × Req => p.1.clock) (State.poolTake_clock u _ _) rfl)
      simp [hv, hu]

@[simp] theorem State.mapPage_clock (s : State) (slot : ℕ) (l : KvLayer) (g : ℕ) : (s.mapPage slot l g).clock = s.clock := by
  unfold State.mapPage
  extract_lets r dirA dir u leaf
  have hpool : ∀ n, (s.poolTake r.region n).1.clock = s.clock := fun n => s.poolTake_clock _ n
  have hu : u.clock = s.clock := by
    refine ite_leaves (part := State.clock) rfl ?_
    exact (State.mem_clock _ _).trans ((State.stackWrite_clock _ _ _).trans ((State.stackWrite_clock _ _ _).trans (hpool _)))
  clear_value u
  refine ite_leaves (part := State.clock) rfl ?_
  exact (State.mem_clock _ _).trans ((State.stackWrite_clock _ _ _).trans ((State.poolTake_clock u _ _).trans hu))

@[simp] theorem State.mapBelow_clock (s : State) (slot n : ℕ) : (s.mapBelow slot n).clock = s.clock := by
  simp [State.mapBelow]

@[simp] theorem State.invalidateLook_clock (s : State) : s.invalidateLook.clock = s.clock := (rfl)

/-! ### Machine/AssizeOps.lean -/

@[simp] theorem State.updateDrift_clock (s : State) (core eng : ℕ) : (s.updateDrift core eng).clock = s.clock := by
  unfold State.updateDrift
  split
  all_goals simp

@[simp] theorem State.adviseTier_clock (s : State) (core eng tier : ℕ) : (s.adviseTier core eng tier).clock = s.clock := by
  simp [State.adviseTier]

@[simp] theorem State.rollSensors_clock (s : State) : s.rollSensors.clock = s.clock := (rfl)

@[simp] theorem State.applyTrimsOf_clock (s : State) (p : ℕ → Bool) : (s.applyTrimsOf p).clock = s.clock := by
  unfold State.applyTrimsOf
  extract_lets u
  have hu : u.clock = s.clock := by
    refine foldl_leaves State.clock _ _ s fun v k => ?_
    dsimp only
    split
    · rfl
    · rfl
  refine (foldl_leaves State.clock _ _ u fun v k => ?_).trans hu
  dsimp only
  split
  · rfl
  · simp

@[simp] theorem State.applyTrims_clock (s : State) : s.applyTrims.clock = s.clock := by
  simp [State.applyTrims]

/-! ### Machine/Variants.lean -/

@[simp] theorem State.showSwitch_clock (s : State) : s.showSwitch.clock = s.clock := by
  unfold State.showSwitch
  split
  all_goals simp

@[simp] theorem State.applyRefusal_clock (s : State) (mile v : ℕ) : (s.applyRefusal mile v).clock = s.clock := by
  simp [State.applyRefusal]
  rfl

@[simp] theorem State.refuseVar_clock (s : State) (mile v : ℕ) : (s.refuseVar mile v).clock = s.clock := by
  simp [State.refuseVar]

@[simp] theorem State.seeVarReq_clock (s : State) (m : SbMsg) : (s.seeVarReq m).clock = s.clock :=
  State.seeVarReq_leaves State.clock (fun _ _ _ _ _ => rfl) s m

@[simp] theorem State.raiseVarReq_clock (s : State) (v : ℕ) : (s.raiseVarReq v).clock = s.clock := by
  simp [State.raiseVarReq]

/-- The decision of a mile leaves all but its status register, the requests and the switches. -/
theorem State.decideVariants_leaves {β : Type} (part : State → β)
    (hput : ∀ (u : State) (f : Fld) (v : Nat), f.addr = TB_VAR_STAT_REFUSED.addr → part (u.put f v) = part u)
    (hsched : ∀ (u : State) q w, part { u with sched := { u.sched with reqs := q, switches := w } } = part u) (s : State) :
    part s.decideVariants = part s := by
  have hshow : ∀ u : State, part u.showSwitch = part u := fun u => by
    unfold State.showSwitch
    split
    · exact (hput _ TB_VAR_STAT_PENDING_VAR _ (by decide)).trans (hput _ TB_VAR_STAT_PENDING _ (by decide))
    · exact (hput _ TB_VAR_STAT_PENDING_VAR _ (by decide)).trans (hput _ TB_VAR_STAT_PENDING _ (by decide))
  have hraise : ∀ (u : State) b, part (u.raiseIfAt 0 TB_VAR_STAT_REFUSED b) = part u :=
    fun u b => ite_leaves (hput u TB_VAR_STAT_REFUSED 1 (by decide)) rfl
  unfold State.decideVariants
  extract_lets mile mine known chosen sched u
  have hu : part u = part s := hsched s _ s.sched.switches
  clear_value u chosen
  cases chosen with
  | none => exact (hraise u _).trans hu
  | some r =>
    have hv : ∀ b, part (u.raiseIfAt 0 TB_VAR_STAT_REFUSED b) = part s := fun b => (hraise u b).trans hu
    refine ite_leaves (hv _) ((hshow _).trans ?_)
    exact (hsched (u.raiseIfAt 0 TB_VAR_STAT_REFUSED _) (u.raiseIfAt 0 TB_VAR_STAT_REFUSED _).sched.reqs _).trans (hv _)

@[simp] theorem State.decideVariants_clock (s : State) : s.decideVariants.clock = s.clock :=
  State.decideVariants_leaves State.clock (fun _ _ _ _ => rfl) (fun _ _ _ => rfl) s

@[simp] theorem State.mapFlight_clock (s : State) (t : Transition) : (s.mapFlight t).clock = s.clock := (rfl)

@[simp] theorem State.applyTransition_clock (s : State) (t : Transition) : (s.applyTransition t).clock = s.clock := by
  unfold State.applyTransition
  extract_lets moved lostTok u v w
  have hu : u.clock = s.clock := by simp [u]
  have hv : v.clock = s.clock :=
    (foldl_leaves State.clock _ _ u fun x e => ite_leaves (part := State.clock) (by simp) rfl).trans hu
  have hw : w.clock = s.clock :=
    (foldl_leaves State.clock _ _ v fun x b => ite_leaves (part := State.clock) rfl (by simp)).trans hv
  exact hw

@[simp] theorem State.voidFlight_clock (s : State) : s.voidFlight.clock = s.clock := by
  unfold State.voidFlight
  extract_lets u
  have hu : u.clock = s.clock := by simp [u]
  exact hu

/-! ### Machine/Attention.lean -/

@[simp] theorem State.bindBushel_clock (s : State) (b : Bushel) : (s.bindBushel b).clock = s.clock := by
  unfold State.bindBushel
  extract_lets per mile tied
  refine foldl_leaves State.clock _ _ s fun u x => ?_
  split
  · rfl
  · simp

@[simp] theorem State.markBushel_clock (s : State) (key loc slot : ℕ) (held : Bool) :
    (s.markBushel key loc slot held).clock = s.clock := (rfl)

@[simp] theorem State.classReq_clock (s : State) (l : KvLayer) (b : Bushel) (slot free : ℕ) :
    (s.classReq l b slot free).1.clock = s.clock := by
  unfold State.classReq
  extract_lets r need h
  split
  · rfl
  · split
    · rfl
    · rfl

@[simp] theorem State.grantHeld_clock (s : State) (l : KvLayer) (spare : ℕ) : (s.grantHeld l spare).clock = s.clock := by
  unfold State.grantHeld
  extract_lets hs
  exact foldl_leaves (fun p : State × Nat => p.1.clock) _ hs _ fun p h => rfl

@[simp] theorem State.assignStep_clock (s : State) (l : KvLayer) (key : ℕ) : (s.assignStep l key).clock = s.clock := by
  unfold State.assignStep
  split
  · rfl
  next b0 _ =>
    refine (State.grantHeld_clock _ _ _).trans (foldl_leaves (fun p : State × Nat => p.1.clock) _
      (b0.requests l.loc) _ fun p q => ?_)
    split
    · rfl
    · simp

@[simp] theorem State.showHeld_clock (s : State) : s.showHeld.clock = s.clock := by
  refine foldl_leaves State.clock _ _ s fun u l => foldl_leaves State.clock _ _ u fun v c => ?_
  split
  · rfl
  · simp

@[simp] theorem State.rejoin_clock (s : State) (l : KvLayer) : (s.rejoin l).clock = s.clock := by
  refine foldl_leaves State.clock _ _ s fun u h => ?_
  split
  · rfl
  · rfl

@[simp] theorem State.ringRows_clock (s : State) (x : RingRun) : (s.ringRows x).clock = s.clock := by
  unfold State.ringRows
  split
  · rfl
  · refine ite_leaves (part := State.clock) rfl ?_
    extract_lets r st back
    refine ite_leaves (part := State.clock) rfl ?_
    refine foldl_leaves (fun p : State × Nat => p.1.clock) _ _ _ fun p k => ?_
    dsimp only
    split
    · rfl
    · rfl

@[simp] theorem State.pauseNew_clock (s : State) (newKeys : List ℕ) : (s.pauseNew newKeys).clock = s.clock := by
  simp [State.pauseNew]

@[simp] theorem State.assignLanes_clock (s : State) (newKeys : List ℕ) : (s.assignLanes newKeys).clock = s.clock := by
  simp [State.assignLanes]

@[simp] theorem State.setRing_clock (s : State) (x : RingRun) : (s.setRing x).clock = s.clock := (rfl)

@[simp] theorem State.ringVoid_clock (s : State) (d : Ring) (x : RingRun) : (s.ringVoid d x).clock = s.clock := by
  unfold State.ringVoid
  extract_lets u r v w
  have hu : u.clock = s.clock := by
    refine foldl_leaves State.clock _ _ s fun x c => ?_
    split
    · simp
    · rfl
  have hw : w.clock = s.clock := by simp [w, v, hu]
  refine ite_leaves (part := State.clock) ?_ hw
  simp
  exact hw

@[simp] theorem State.restartRings_clock (s : State) : s.restartRings.clock = s.clock := (rfl)

@[simp] theorem State.voidRingsOf_clock (s : State) (gm : ℕ × ℕ) : (s.voidRingsOf gm).clock = s.clock := by
  refine foldl_leaves State.clock _ _ s fun u x => ?_
  split
  · simp
  · rfl

@[simp] theorem State.kvLost_clock (s : State) (gm : ℕ × ℕ) : (s.kvLost gm).clock = s.clock := by
  simp [State.kvLost]

/-! ### Machine/Requests.lean -/

@[simp] theorem State.trySeat_clock (s : State) (slot : ℕ) : (s.trySeat slot).clock = s.clock := by
  simp [State.trySeat]

@[simp] theorem State.ctrlMiss_clock (s : State) : s.ctrlMiss.clock = s.clock := (rfl)

@[simp] theorem State.formBushel_clock (s : State) (v : Variant) (b start : ℕ) : (s.formBushel v b start).clock = s.clock := by
  simp [State.formBushel]

@[simp] theorem State.formBushels_clock (s : State) : s.formBushels.1.clock = s.clock := by
  unfold State.formBushels
  split
  · rfl
  · split
    · rfl
    · exact foldl_leaves (fun p : State × List Nat => p.1.clock) _ _ _ fun p e => State.formBushel_clock _ _ _ _

@[simp] theorem State.applyAdmit_clock (s : State) (slot : ℕ) : (s.applyAdmit slot).clock = s.clock := by
  simp [State.applyAdmit]

@[simp] theorem State.applyUpdate_clock (s : State) (u : TableUpdate) : (s.applyUpdate u).clock = s.clock := by
  unfold State.applyUpdate
  extract_lets r mine
  split
  · simp
  · simp
  · simp
  · refine ite_leaves (part := State.clock) (by simp) ?_
    split
    all_goals simp
  · simp
  · rfl

@[simp] theorem State.checkDeadlines_clock (s : State) : s.checkDeadlines.clock = s.clock := by
  simp [State.checkDeadlines]

@[simp] theorem State.recheckIntake_clock (s : State) : s.recheckIntake.clock = s.clock := by
  simp [State.recheckIntake]

@[simp] theorem State.mapAhead_clock (s : State) : s.mapAhead.clock = s.clock := by
  simp [State.mapAhead]

@[simp] theorem State.sampleTable_clock (s : State) : s.sampleTable.clock = s.clock := (rfl)

/-! ### Machine/Weights.lean -/

@[simp] theorem State.showEpochs_clock (s : State) : s.showEpochs.clock = s.clock := by
  simp [State.showEpochs]

@[simp] theorem State.startLoad_clock (s : State) (addr len : ℕ) : (s.startLoad addr len).clock = s.clock := by
  unfold State.startLoad
  split
  all_goals rfl

@[simp] theorem State.freeTier_clock (s : State) (core eng tier : ℕ) : (s.freeTier core eng tier).clock = s.clock := (rfl)

@[simp] theorem State.seeEpoch_clock (s : State) (m : SbMsg) : (s.seeEpoch m).clock = s.clock := by
  simp [State.seeEpoch]

@[simp] theorem State.nameFlip_clock (s : State) (epoch : ℕ) : (s.nameFlip epoch).clock = s.clock := by
  simp [State.nameFlip]

@[simp] theorem State.takeFlip_clock (s : State) (e : ℕ) : (s.takeFlip e).clock = s.clock := by
  unfold State.takeFlip
  extract_lets old u parity v weights w
  have hu : u.clock = s.clock := foldl_leaves State.clock _ _ s fun x e => ite_leaves (part := State.clock) (by simp) rfl
  clear_value u
  have hv : v.clock = s.clock := by simp [v, hu]
  clear_value v
  have hw : w.clock = s.clock := hv
  simp [hw]

@[simp] theorem State.flipAtMile_clock (s : State) : s.flipAtMile.clock = s.clock := by
  unfold State.flipAtMile
  split
  · simp
  · split
    · refine ite_leaves (part := State.clock) rfl (ite_leaves (by simp) ?_)
      simp
    · rfl

@[simp] theorem State.refreshAtMile_clock (s : State) : s.refreshAtMile.clock = s.clock := by
  simp [State.refreshAtMile]

@[simp] theorem State.planAtMile_clock (s : State) : s.planAtMile.clock = s.clock := by
  simp [State.planAtMile]

@[simp] theorem State.sendRetire_clock (s : State) : s.sendRetire.clock = s.clock := by
  simp [State.sendRetire]

@[simp] theorem State.retirePrev_clock (s : State) : s.retirePrev.clock = s.clock := by
  simp [State.retirePrev]

/-! ### Machine/Adapters.lean -/

@[simp] theorem State.showAdapters_clock (s : State) : s.showAdapters.clock = s.clock := by
  simp [State.showAdapters]

@[simp] theorem State.queueAd_clock (s : State) (op code slot ident ver base : ℕ) (handle : BitVec 64) :
    (s.queueAd op code slot ident ver base handle).clock = s.clock := (rfl)

@[simp] theorem State.beginAdLoad_clock (s : State) (k : ℕ) : (s.beginAdLoad k).clock = s.clock := by
  unfold State.beginAdLoad
  split
  all_goals rfl

@[simp] theorem State.applyDrops_clock (s : State) : s.applyDrops.clock = s.clock := by
  simp [State.applyDrops]

@[simp] theorem State.failAdLoads_clock (s : State) : s.failAdLoads.clock = s.clock := by
  simp [State.failAdLoads]

@[simp] theorem State.ageSlots_clock (s : State) : s.ageSlots.clock = s.clock := by
  simp [State.ageSlots]

@[simp] theorem State.sendSwitches_clock (s : State) : s.sendSwitches.clock = s.clock := by
  simp [State.sendSwitches]

@[simp] theorem State.weightsUpdate_clock (s : State) (u : TableUpdate) : (s.weightsUpdate u).clock = s.clock := by
  unfold State.weightsUpdate
  split
  all_goals simp

/-! ### Machine/Patrol.lean -/

@[simp] theorem State.useTraps_clock (s : State) (t : TrapSet) (host : Bool) : (s.useTraps t host).clock = s.clock := (rfl)

@[simp] theorem State.trapEffect_clock (s : State) : s.trapEffect.clock = s.clock := by
  unfold State.trapEffect
  split
  · refine ite_leaves (part := State.clock) ?_ rfl
    simp
  · rfl

/-! ### Machine/Network.lean -/

@[simp] theorem State.applyMarks_clock (s : State) : s.applyMarks.clock = s.clock := by
  unfold State.applyMarks
  split
  · rfl
  · extract_lets fresh u mesh v
    have hu : u.clock = s.clock := by simp [u]
    have hv : v.clock = s.clock := hu
    simp [hv]

@[simp] theorem State.meshRod_clock (s : State) : s.meshRod.clock = s.clock := (rfl)

@[simp] theorem State.meshFurlong_clock (s : State) : s.meshFurlong.clock = s.clock := (rfl)

/-! ### Machine/Fabric.lean -/

@[simp] theorem State.putLnk_clock (s : State) (p : ℕ) (f : Fld) (v : ℕ) : (s.putLnk p f v).clock = s.clock := (rfl)

@[simp] theorem State.updPort_clock (s : State) (p : ℕ) (f : Port → Port) : (s.updPort p f).clock = s.clock := (rfl)

@[simp] theorem State.fabRod_clock (s : State) : s.fabRod.clock = s.clock := by
  simp [State.fabRod]

@[simp] theorem State.fabFurlong_clock (s : State) : s.fabFurlong.clock = s.clock := by
  simp [State.fabFurlong]

@[simp] theorem State.expireSb_clock (s : State) : s.expireSb.clock = s.clock := (rfl)

@[simp] theorem State.takeRole_clock (s : State) (role : Option ℕ) : (s.takeRole role).clock = s.clock := by
  simp [State.takeRole]

@[simp] theorem State.standbyTakeovers_clock (s : State) : s.standbyTakeovers.clock = s.clock := by
  unfold State.standbyTakeovers
  extract_lets due order
  refine foldl_leaves State.clock _ _ s fun u l => ?_
  split
  · rfl
  · extract_lets free
    split
    · rfl
    · extract_lets closed v w
      have hw : w.clock = u.clock := by simp [w, v, closed]
      exact ite_leaves (part := State.clock) (by simp [hw]) hw

/-! ### Machine/Time.lean -/

@[simp] theorem State.dropAdmission_clock (s : State) : s.dropAdmission.clock = s.clock := (rfl)

@[simp] theorem State.dropCount_clock (s : State) : s.dropCount.clock = s.clock := (rfl)

@[simp] theorem State.timeBaseFailure_clock (s : State) (injected : Bool) : (s.timeBaseFailure injected).clock = s.clock := by
  cases hkept : injected && s.isSet INJ_CTRL_CONTAIN with
  | true =>
    unfold State.timeBaseFailure
    rw [if_pos (by simpa using hkept)]
    simp
  | false =>
    have hfails : s.timeBaseFailure injected = s.timeBaseFailure false :=
      (if_neg (by simpa using hkept)).trans (if_neg (by simp)).symm
    rw [hfails, State.timeBaseFailure_eq]
    simp [State.showTimeFail]

@[simp] theorem State.frameWhileValid_clock (s : State) (fr : FrameIn) (mile : ℕ) (injected : Bool) :
    (s.frameWhileValid fr mile injected).clock = s.clock := by
  unfold State.frameWhileValid
  extract_lets here tb t
  have ht : t.clock = s.clock := by simp [t]
  refine ite_leaves (part := State.clock) (by simp) (ite_leaves ?_ ?_)
  · simp
    rfl
  · split
    · exact ite_leaves (part := State.clock) (by simp [ht]) ht
    · exact ht

@[simp] theorem State.refclkReturn_clock (s : State) (injected : Bool) : (s.refclkReturn injected).clock = s.clock := by
  unfold State.refclkReturn
  extract_lets tb t
  refine ite_leaves (part := State.clock) rfl (ite_leaves rfl ?_)
  simp [t]

/-! ### Machine/Monitor.lean -/

@[simp] theorem State.updateAllDrift_clock (s : State) : s.updateAllDrift.clock = s.clock := by
  simp [State.updateAllDrift]

@[simp] theorem State.showDark_clock (s : State) : s.showDark.clock = s.clock := by
  simp [State.showDark]

/-! ### Machine/Thermal.lean -/

@[simp] theorem State.levelEvent_clock (s : State) (old : ℕ) : (s.levelEvent old).clock = s.clock := by
  simp [State.levelEvent]

@[simp] theorem State.raiseHeat_clock (s : State) : s.raiseHeat.clock = s.clock := by
  unfold State.raiseHeat
  split
  all_goals simp

@[simp] theorem State.heatRequest_clock (s : State) (v : Option ℕ) : (s.heatRequest v).clock = s.clock := by
  unfold State.heatRequest
  split
  · rfl
  · simp

@[simp] theorem State.heatOn_clock (s : State) : s.heatOn.clock = s.clock := by
  simp [State.heatOn]

@[simp] theorem State.clockAtRod_clock (s : State) : s.clockAtRod.clock = s.clock := by
  unfold State.clockAtRod
  split
  · rfl
  · extract_lets old therm u v
    have hu : u.clock = s.clock := rfl
    simp [v, hu]

@[simp] theorem State.thermSwitched_clock (s : State) : s.thermSwitched.clock = s.clock := (rfl)

@[simp] theorem State.thermRefused_clock (s : State) : s.thermRefused.clock = s.clock := by
  unfold State.thermRefused
  split
  · exact ite_leaves (part := State.clock) rfl rfl
  · rfl

@[simp] theorem State.measureInput_clock (s : State) (p : ℕ) : (s.measureInput p).clock = s.clock := by
  unfold State.measureInput
  extract_lets e therm u v w
  have hu : u.clock = s.clock := rfl
  have hw : w.clock = s.clock := by simp [w, v, hu]
  exact ite_leaves (part := State.clock) (by simp [hw]) hw

@[simp] theorem State.powerFurlong_clock (s : State) (cap : ℕ) : (s.powerFurlong cap).clock = s.clock := by
  simp [State.powerFurlong]

@[simp] theorem State.fracFurlong_clock (s : State) : s.fracFurlong.clock = s.clock := (rfl)

@[simp] theorem State.hotStacks_clock (s : State) : s.hotStacks.clock = s.clock := by
  simp [State.hotStacks]

@[simp] theorem State.thermFurlong_clock (s : State) : s.thermFurlong.clock = s.clock := by
  simp [State.thermFurlong]

@[simp] theorem State.thermMile_clock (s : State) : s.thermMile.clock = s.clock := by
  simp [State.thermMile]

/-! ### Machine/Retrieval.lean -/

@[simp] theorem State.endQuery_clock (s : State) (q : Query) (code : ℕ) : (s.endQuery q code).clock = s.clock := (rfl)

@[simp] theorem State.voidPass_clock (s : State) (q : Query) : (s.voidPass q).clock = s.clock := by
  unfold State.voidPass
  extract_lets u q' rtv v
  have hv : v.clock = s.clock := show u.clock = s.clock by simp [u]
  exact ite_leaves (part := State.clock) (by simp [hv]) hv

@[simp] theorem State.abandonPasses_clock (s : State) : s.abandonPasses.clock = s.clock := by
  simp [State.abandonPasses]

@[simp] theorem State.rtvMile_clock (s : State) : s.rtvMile.clock = s.clock := by
  refine foldl_leaves State.clock _ _ s fun u f => ?_
  extract_lets rtv v
  have hv : v.clock = u.clock := rfl
  split
  · exact hv
  · extract_lets old new w x
    have hx : x.clock = u.clock := by simp [x, w, hv]
    exact hx

@[simp] theorem State.rtvFurlong_clock (s : State) : s.rtvFurlong.clock = s.clock := by
  unfold State.rtvFurlong
  extract_lets overs rtv u v
  have hu : u.clock = s.clock := rfl
  clear_value u
  have hv : v.clock = s.clock := by simp [v, hu]
  refine (foldl_leaves State.clock _ _ v fun x e => ?_).trans hv
  extract_lets pinned
  split
  next c _ _ =>
    extract_lets w
    have hw : w.clock = x.clock := by simp [w]
    exact hw
  · rfl

/-! ### Machine/Registers.lean -/

@[simp] theorem State.faultSum_clock (s : State) : s.faultSum.clock = s.clock := by
  simp [State.faultSum]

/-! ### Machine/Admission.lean -/

@[simp] theorem State.admitFail_clock (s : State) : s.admitFail.clock = s.clock := by
  simp [State.admitFail]
  rfl

/-! ### Machine/Boundaries.lean -/

@[simp] theorem State.refInjOver_clock (s : State) : s.refInjOver.clock = s.clock := by
  refine ite_leaves (part := State.clock) ?_ rfl
  simp
  rfl

@[simp] theorem State.loadDue_clock (s : State) : s.loadDue.clock = s.clock := (rfl)

@[simp] theorem State.warmTiers_clock (s : State) : s.warmTiers.clock = s.clock := by
  refine foldl_leaves State.clock _ _ s fun u e => ?_
  split
  · rfl
  · refine foldl_leaves State.clock _ _ u fun v k => ?_
    extract_lets c
    split
    · rfl
    · exact ite_leaves (part := State.clock) (by simp) rfl

@[simp] theorem State.tableFurlong_clock (s : State) : s.tableFurlong.clock = s.clock := by
  simp [State.tableFurlong]

end Sys2Proof.Machine
end

section
/-! The boundaries of rods, furlongs and miles (R178, R181, R192, R206 to R208): O19. -/
namespace Sys2Proof.Machine

/-! ### Class B settles (R15)

The settling of a block that stops takes waiting values out of the list; nothing else that the clock holds changes. -/

/-- The clock without the values that wait. -/
def Clock.settled (k : Clock) : Clock := { k with waitB := [] }

/-- The clock of a state, without the values that wait. -/
def State.count (s : State) : Clock := s.clock.settled

theorem State.count_of_clock {s t : State} (h : t.clock = s.clock) : t.count = s.count := congrArg Clock.settled h

theorem State.fields_of_count {s t : State} (h : t.count = s.count) : t.tb.rod = s.tb.rod ∧ t.tb.furDue = s.tb.furDue ∧
    t.tb.mileDue = s.tb.mileDue ∧ t.sec.clockRods = s.sec.clockRods ∧ t.sched.var = s.sched.var :=
  ⟨congrArg Clock.rod h, congrArg Clock.furDue h, congrArg Clock.mileDue h, congrArg Clock.clockRods h, congrArg Clock.var h⟩

theorem State.settle_count (s : State) : s.settle.count = s.count := rfl

theorem State.stopNow_count (s : State) : s.stopNow.count = s.count := by
  refine ite_leaves (part := State.count) ?_ rfl
  refine (State.count_of_clock (State.abandonPasses_clock _)).trans ((State.settle_count _).trans ?_)
  exact State.count_of_clock (State.stopSequencers_clock _)

theorem State.fenceCore_count (s : State) (core : Nat) : (s.fenceCore core).count = s.count := by
  unfold State.fenceCore
  refine ite_leaves (part := State.count) rfl ?_
  extract_lets retired logical wasSpare u v w x
  have hu : u.count = s.count := (State.settle_count _).trans (State.count_of_clock (by simp))
  have hw : w.count = u.count := State.count_of_clock (by simp [w, v])
  have hx : x.clock = w.clock := by
    clear_value logical wasSpare
    cases logical with
    | some l => exact State.startRepair_clock w l core
    | none =>
      cases wasSpare with
      | some r => exact State.startRepair_clock w r.logical core
      | none => rfl
  exact (State.count_of_clock (by simp [hx])).trans (hw.trans hu)

theorem State.applyFences_count (s : State) : s.applyFences.count = s.count :=
  foldl_leaves State.count _ _ _ fun u c => ite_leaves (part := State.count) (u.fenceCore_count c) rfl

theorem State.beginTraining_count (s : State) (p : Nat) : (s.beginTraining p).count = s.count := by
  unfold State.beginTraining
  refine (State.settle_count _).trans (State.count_of_clock ?_)
  simp

theorem State.startTrainings_count (s : State) : s.startTrainings.count = s.count := by
  refine foldl_leaves State.count _ _ s fun u e => ?_
  have hbegun : (u.beginTraining e.lane).count = u.count := u.beginTraining_count _
  refine ite_leaves (part := State.count) rfl (ite_leaves (part := State.count) ?_ (ite_leaves (part := State.count) hbegun rfl))
  exact ite_leaves (part := State.count) ((State.count_of_clock (State.reAdmit_clock _)).trans hbegun) hbegun

theorem State.mileRoles_count (s : State) : s.mileRoles.count = s.count := by
  have htrained : (if 3 ≤ s.startStep then s.startTrainings else s).count = s.count :=
    ite_leaves (part := State.count) s.startTrainings_count rfl
  have hroles : s.mileRoles = (if 3 ≤ s.startStep then s.startTrainings else s).applyFences.takeOvers.standbyTakeovers := rfl
  rw [hroles, State.count_of_clock (State.standbyTakeovers_clock _), State.count_of_clock (State.takeOvers_clock _),
    State.applyFences_count, htrained]

/-! ### Rods (R178, R181, R182) -/

/-- With a valid count a symbol leaves the count. -/
theorem State.symbolIn_clock {s : State} (hvalid : s.isSet TB_STAT_COUNT_VALID = true) (sym : Symbol) (mile : Nat) (injected : Bool) :
    (s.symbolIn sym mile injected).clock = s.clock := by
  have hframe : ∀ f, { s with tb := { s.tb with frame := f } }.clock = s.clock := fun _ => rfl
  unfold State.symbolIn
  rw [hvalid]
  split
  · by_cases hsync : sym = .sync
    · simp [hsync, hframe]
    · simp [hsync, hframe]
  · simp [hframe]

/-- The edge of a mile boundary is seen or awaited. -/
theorem State.mileEdge_clock (s : State) : s.mileEdge.clock = s.clock := by
  have hpart : ∀ a b, { s with tb := { s.tb with edgeSeen := a, edgeDue := b } }.clock = s.clock := fun _ _ => rfl
  unfold State.mileEdge
  refine ite_leaves (part := State.clock) ?_ (ite_leaves (hpart false s.tb.edgeDue) (hpart s.tb.edgeSeen true))
  dsimp only
  split
  next hbad => exact (State.symbolIn_clock (by exact hbad.1) _ _ _).trans (hpart false false)
  · exact hpart false false

/-- What a rod boundary does after it has counted its rod. -/
def State.rodRest (s : State) : State :=
  let s := s.refInjOver
  let s := if s.tb.mileDue then s.mileEdge else s
  let s := (s.stopNow.clockAtRod).applyMarks
  (((s.meshRod).fabRod).loadDue).faultSum

theorem State.rodRest_count (s : State) : s.rodRest.count = s.count := by
  have hedge : (if s.refInjOver.tb.mileDue then s.refInjOver.mileEdge else s.refInjOver).clock = s.clock :=
    ite_leaves (part := State.clock) ((State.mileEdge_clock _).trans s.refInjOver_clock) s.refInjOver_clock
  refine (State.count_of_clock ?_).trans ((State.stopNow_count _).trans (State.count_of_clock hedge))
  simp [State.rodRest]

theorem exec_rodBoundary {s : State} (hedge : s.tb.edgeDue = false) : exec .rodBoundary s = .next s.countRod.rodRest := by
  have hjudged : s.judgeEdge = s := if_pos (by simp [hedge])
  show execRodBoundary s = _
  unfold execRodBoundary
  rw [hjudged]
  rfl

theorem rodBoundaryCountsOneRod : RodBoundaryCountsOneRod := by
  intro s hedge
  have hcount : s.countRod.rodRest.count = s.countRod.count := s.countRod.rodRest_count
  obtain ⟨hrod, hfur, hmile, hclock, -⟩ := State.fields_of_count hcount
  refine ⟨fun hruns => ⟨_, exec_rodBoundary hedge, ?_, ?_, ?_, hclock⟩,
    fun hstands => ⟨_, exec_rodBoundary hedge, ?_, ?_, ?_, hclock⟩⟩
  · rw [hrod]
    simp [State.countRod, hruns]
  · rw [hrod, hfur]
    simp [State.countRod, hruns]
  · rw [hrod, hmile]
    simp [State.countRod, hruns]
  · rw [hrod]
    simp [State.countRod, hstands]
  · rw [hfur]
    simp [State.countRod, hstands]
  · rw [hmile]
    simp [State.countRod, hstands]

/-! ### Furlongs (R15, R119) -/

theorem State.furlongCounts_clock (s : State) :
    s.furlongCounts.clock = { s.clock with clampDue := some s.clampNow, clampNow := 0 } := by
  unfold State.furlongCounts
  extract_lets u v mem w cores counted skip least y sched routing
  have hu : u.clock = { s.clock with clampDue := some s.clampNow, clampNow := 0 } := rfl
  have hw : w.clock = u.clock :=
    (State.mem_clock v _).trans (foldl_leaves State.clock _ _ u fun x k => (State.mem_clock _ _).trans (State.putAt_clock x _ _ _))
  have hcounted : counted.clock = w.clock := foldl_leaves State.clock _ _ w fun x c => by simp
  have hy : y.clock = w.clock := by simp [y, hcounted]
  clear_value y
  exact hy.trans (hw.trans hu)

/-- What a furlong boundary does after its counts. -/
def State.furlongRest (s : State) : State :=
  let s := ((((s.rollSensors).applyTrims).updateAllDrift).warmTiers).showDark
  let s := (((s.invalidateLook).tableFurlong).failAdLoads).ageSlots
  let s := ((s.checkDeadlines).recheckIntake).mapAhead
  let (s, keys) := s.formBushels
  let s := ((((s.assignLanes keys).sendRetire).sendSwitches).showEpochs).sampleTable
  (((s.meshFurlong).fabFurlong).thermFurlong).rtvFurlong

theorem State.furlongRest_clock (s : State) : s.furlongRest.clock = s.clock := by
  simp [State.furlongRest]

/-- The furlong boundary is taken, and no value waits. -/
def State.takeFurlong (s : State) : State := { s with waitB := [], tb := { s.tb with furDue := false } }

theorem exec_furlongBoundary {s : State} (hdue : s.tb.furDue = true) :
    exec .furlongBoundary s = .next s.takeFurlong.furlongCounts.furlongRest := by
  show execFurlongBoundary s = _
  unfold execFurlongBoundary
  rw [if_neg (by simp [hdue])]
  unfold State.furlongRest State.takeFurlong
  dsimp only

theorem State.inForce_of_settled {s : State} (h : s.waitB = []) (a : Nat) : s.inForce a = s.rd a := by
  unfold State.inForce
  rw [h]
  rfl

theorem furlongBoundaryTakesClassB : FurlongBoundaryTakesClassB := by
  refine fun s => ⟨fun hdue => ?_, fun hnot => if_pos (by simp [hnot])⟩
  obtain ⟨t, ht⟩ : ∃ t, t = s.takeFurlong.furlongCounts.furlongRest := ⟨_, rfl⟩
  have hclock : t.clock = { s.takeFurlong.clock with clampDue := some s.clampNow, clampNow := 0 } :=
    ht ▸ (State.furlongRest_clock _).trans (State.furlongCounts_clock _)
  have hwait : t.waitB = [] := congrArg Clock.waitB hclock
  exact ⟨t, ht ▸ exec_furlongBoundary hdue, hwait, State.inForce_of_settled hwait, congrArg Clock.clampDue hclock,
    congrArg Clock.clampNow hclock, congrArg Clock.furDue hclock, congrArg Clock.rod hclock⟩

/-! ### Miles (R206 to R208) -/

/-- The decision of a mile may date a switch to the mile that follows. -/
theorem State.decideVariants_switches (s : State) : s.decideVariants.sched.switches = s.sched.switches ∨
    ∃ w : Switch, w.atMile = (s.mileNow + 1) % mileP ∧ s.decideVariants.sched.switches = s.sched.switches ++ [w] := by
  unfold State.decideVariants
  extract_lets mile mine known chosen sched u
  have hraise : ∀ b, (u.raiseIfAt 0 TB_VAR_STAT_REFUSED b).sched.switches = s.sched.switches :=
    fun b => u.raiseIfAt_leaves (part := fun s => s.sched.switches) (fun _ _ => rfl) ..
  have hmile : ∀ b, (u.raiseIfAt 0 TB_VAR_STAT_REFUSED b).mileNow = s.mileNow :=
    fun b => u.raiseIfAt_leaves (part := State.mileNow) (fun _ _ => rfl) ..
  clear_value chosen
  cases chosen with
  | none => exact .inl (hraise _)
  | some r =>
    dsimp only
    generalize hb : mine.any (fun x => decide (x.own = true ∧ x.var ≠ r.var)) = b
    obtain ⟨v, hv⟩ : ∃ v, v = u.raiseIfAt 0 TB_VAR_STAT_REFUSED b := ⟨_, rfl⟩
    have hswitches : v.sched.switches = s.sched.switches := hv ▸ hraise b
    have hnow : v.mileNow = s.mileNow := hv ▸ hmile b
    rw [← hv]
    split
    · exact .inl hswitches
    · refine .inr ⟨⟨(v.mileNow + 1) % mileP, r.var, mile, mine.any fun x => x.own ∧ x.var = r.var⟩, by rw [hnow], ?_⟩
      refine (State.showSwitch_leaves (fun s => s.sched.switches) (fun _ _ => rfl) _).trans ?_
      rw [← hswitches]

/-- It leaves the register that tells which variants are admitted. -/
theorem State.decideVariants_admittedVar (s : State) (v : Nat) : s.decideVariants.admittedVar v = s.admittedVar v := by
  have hapart : TB_VAR_ADMIT_ADMITTED.addr ≠ TB_VAR_STAT_REFUSED.addr := by decide
  exact State.decideVariants_leaves (State.admittedVar · v)
    (fun u f x hf => congrArg (fun n => decide (v < 8) && decide (n / 2 ^ v % 2 = 1)) (u.fld_put_ne f _ x (hf ▸ hapart)))
    (fun _ _ _ => rfl) s

/-- The switch that falls at a mile, if there is one. -/
def State.dueSwitch (s : State) : Option Switch := s.sched.switches.find? (fun w => w.atMile = s.mileNow)

/-- The following mile is another one. -/
theorem nextMile_ne (m : Nat) : (m + 1) % mileP ≠ m := by
  unfold mileP
  omega

/-- The decision of a mile leaves the switch that falls at it. -/
theorem State.decideVariants_dueSwitch (s : State) : s.decideVariants.dueSwitch = s.dueSwitch := by
  have hnow : s.decideVariants.mileNow = s.mileNow := congrArg (fun k => k.rod / 320) s.decideVariants_clock
  unfold State.dueSwitch
  rw [hnow]
  obtain hsame | ⟨w, hmile, happend⟩ := s.decideVariants_switches
  · rw [hsame]
  · rw [happend, List.find?_append]
    simp [hmile, nextMile_ne]

theorem State.switchVariant_none {s : State} (h : s.dueSwitch = none) : s.switchVariant = s := by
  unfold State.switchVariant
  rw [show s.sched.switches.find? (fun w => w.atMile = s.mileNow) = none from h]

theorem State.switchVariant_refused {s : State} {w : Switch} (h : s.dueSwitch = some w) (hadm : s.admittedVar w.var = false) :
    s.switchVariant = s.refuseVar w.dated w.var := by
  unfold State.switchVariant
  rw [show s.sched.switches.find? (fun w => w.atMile = s.mileNow) = some w from h]
  exact if_pos (show (!s.admittedVar w.var) = true by rw [hadm]; rfl)

/-- The clock with another variant in force. -/
def Clock.withVar (k : Clock) (v : Nat) : Clock := { k with var := v }

theorem State.setVar_clock (s : State) (v : Nat) (b : Bool) :
    { s with sched := { s.sched with var := v, barred := b } }.clock = s.clock.withVar v := rfl

theorem State.switchVariant_clock_of_admitted {s : State} {w : Switch} (h : s.dueSwitch = some w)
    (hadm : s.admittedVar w.var = true) : s.switchVariant.clock = s.clock.withVar w.var := by
  unfold State.switchVariant
  split
  next hnone => exact absurd (h.symm.trans hnone) (Option.some_ne_none w)
  next w' hfound =>
    obtain rfl : w = w' := Option.some.inj (h.symm.trans hfound)
    extract_lets all sched u v
    have hu : u.clock = s.clock := rfl
    have hkept : ¬(!u.admittedVar w.var) = true := show ¬(!s.admittedVar w.var) = true by simp [hadm]
    have hv : v.clock = u.clock := by
      simp only [v]
      split
      · exact State.applyTransition_clock _ _
      · exact State.voidFlight_clock _
    rw [if_neg hkept, State.wantStart_clock, State.loadMasks_clock, State.showSwitch_clock, State.put_clock, State.setVar_clock, hv, hu]

theorem State.switchMile_clock (s : State) : s.switchMile.clock = s.switchVariant.clock :=
  ite_leaves (part := State.clock) (State.thermSwitched_clock _) rfl

/-- With no stop due, the schedule of a mile changes at most the variant in force. -/
theorem State.mileSchedule_clock {s : State} (hstop : s.tb.stopAtMile = false) :
    s.mileSchedule.clock = s.decideVariants.switchVariant.clock := by
  have hgoes : s.stopMile = s := if_neg (by simp [hstop])
  unfold State.mileSchedule
  rw [hgoes, State.planAtMile_clock, State.refreshAtMile_clock, State.flipAtMile_clock, State.switchMile_clock]

/-- The variant in force after a mile boundary. -/
def State.varAfter (s : State) : Nat :=
  match s.dueSwitch with
  | some w => if s.admittedVar w.var then w.var else s.sched.var
  | none => s.sched.var

theorem State.mileSchedule_shows {s : State} (hstop : s.tb.stopAtMile = false) :
    s.mileSchedule.clock = s.clock.withVar s.varAfter := by
  have hdecided := s.decideVariants_clock
  rw [State.mileSchedule_clock hstop]
  cases hdue : s.dueSwitch with
  | none =>
    have hvar : s.varAfter = s.sched.var := by rw [State.varAfter, hdue]
    rw [State.switchVariant_none (s.decideVariants_dueSwitch.trans hdue), hdecided, hvar]
    rfl
  | some w =>
    have hthere : s.decideVariants.dueSwitch = some w := s.decideVariants_dueSwitch.trans hdue
    have hvar : s.varAfter = if s.admittedVar w.var then w.var else s.sched.var := by rw [State.varAfter, hdue]
    cases hadm : s.admittedVar w.var with
    | true =>
      rw [State.switchVariant_clock_of_admitted hthere ((s.decideVariants_admittedVar _).trans hadm), hdecided, hvar, if_pos hadm]
    | false =>
      rw [State.switchVariant_refused hthere ((s.decideVariants_admittedVar _).trans hadm), State.refuseVar_clock, hdecided, hvar,
        if_neg (by simp [hadm])]
      rfl

/-- The mile boundary is taken. -/
def State.takeMile (s : State) : State := { s with tb := { s.tb with mileDue := false } }

theorem exec_mileBoundary {s : State} (hdue : s.tb.mileDue = true) :
    exec .mileBoundary s = .next s.takeMile.mileSchedule.mileRoles.mileRest.advanceStart.loadDue := if_neg (by simp [hdue])

theorem State.mileRest_clock (s : State) : s.mileRest.clock = s.clock := by
  simp [State.mileRest]

/-- A mile boundary ends with the variant that its switch puts in force. -/
theorem exec_mileBoundary_shows {s : State} (hdue : s.tb.mileDue = true) (hstop : s.tb.stopAtMile = false) :
    ∃ t, exec .mileBoundary s = .next t ∧ t.sched.var = s.varAfter ∧ t.tb.mileDue = false ∧ t.tb.rod = s.tb.rod := by
  obtain ⟨t, ht⟩ : ∃ t, t = s.takeMile.mileSchedule.mileRoles.mileRest.advanceStart.loadDue := ⟨_, rfl⟩
  have hcount : t.count = (s.takeMile.clock.withVar s.takeMile.varAfter).settled := by
    rw [ht, State.count_of_clock (State.loadDue_clock _), State.count_of_clock (State.advanceStart_clock _),
      State.count_of_clock (State.mileRest_clock _), State.mileRoles_count]
    exact congrArg Clock.settled (State.mileSchedule_shows hstop)
  exact ⟨t, ht ▸ exec_mileBoundary hdue, congrArg Clock.var hcount, congrArg Clock.mileDue hcount, congrArg Clock.rod hcount⟩

theorem State.varAfter_of_first {s : State} {w : Switch} {rest : List Switch} (h : s.sched.switches = w :: rest)
    (hmile : w.atMile = s.mileNow) : s.varAfter = if s.admittedVar w.var then w.var else s.sched.var := by
  have hdue : s.dueSwitch = some w := by
    unfold State.dueSwitch
    rw [h, List.find?_cons_of_pos (by simp [hmile])]
  unfold State.varAfter
  rw [hdue]

theorem State.varAfter_of_none {s : State} (h : ∀ w ∈ s.sched.switches, w.atMile ≠ s.mileNow) : s.varAfter = s.sched.var := by
  have hdue : s.dueSwitch = none := List.find?_eq_none.mpr fun w hw => by simp [h w hw]
  unfold State.varAfter
  rw [hdue]

theorem mileBoundaryTakesTheSwitch : MileBoundaryTakesTheSwitch := by
  refine fun s => ⟨fun hdue hstop => ⟨fun w rest hfirst hmile hadm => ?_, fun w rest hfirst hmile hadm => ?_, fun hnone => ?_⟩,
    fun hnot => if_pos (by simp [hnot])⟩
  · obtain ⟨t, hexec, hvar, hrest⟩ := exec_mileBoundary_shows hdue hstop
    rw [State.varAfter_of_first hfirst hmile, hadm, if_pos rfl] at hvar
    exact ⟨t, hexec, hvar, hrest⟩
  · obtain ⟨t, hexec, hvar, hrest⟩ := exec_mileBoundary_shows hdue hstop
    rw [State.varAfter_of_first hfirst hmile, hadm, if_neg Bool.false_ne_true] at hvar
    exact ⟨t, hexec, hvar, hrest⟩
  · obtain ⟨t, hexec, hvar, hrest⟩ := exec_mileBoundary_shows hdue hstop
    rw [State.varAfter_of_none hnone] at hvar
    exact ⟨t, hexec, hvar, hrest⟩

/-- Settles O19: each boundary counts what is its own, and its other changes leave the clock. -/
theorem boundaries : Obligations.Boundaries := ⟨rodBoundaryCountsOneRod, furlongBoundaryTakesClassB, mileBoundaryTakesTheSwitch⟩

end Sys2Proof.Machine
end

section
/-! The registers and the ports of the links (R234, R261): what a field of a link reads after the updates of the fabric, and what
those updates leave of the ports and of the other registers. -/
namespace Sys2Proof.Machine

/-! ### The blocks of the links

A lemma that holds by `rfl` is closed by `(rfl)`, so that `simp` rewrites with it as an equation: the check of a proof by computation
would evaluate the maps of the registers. -/

/-- A field of a link: its address in the block of port 0. -/
def Fld.ofLink (f : Fld) : Bool := decide (0x200000 ≤ f.addr ∧ f.addr < 0x200100)

/-- An address where no link has a field. -/
def offLinks (a : Nat) : Bool := decide (a < 0x200000 ∨ 0x300000 ≤ a ∨ 0x100 ≤ a % 0x4000)

theorem link_addr_ne {f : Fld} {a : Nat} (p : LaneId) (hf : f.ofLink = true) (ha : offLinks a = true) : f.addr + lnkI p ≠ a := by
  have hp := p.isLt
  simp only [Fld.ofLink, offLinks, decide_eq_true_eq] at hf ha
  unfold lnkI
  omega

theorem link_addr_notMem {f : Fld} {as : List Nat} (p : LaneId) (hf : f.ofLink = true) (has : as.all offLinks = true) :
    f.addr + lnkI p ∉ as := fun h => link_addr_ne p hf (List.all_eq_true.mp has _ h) rfl

theorem Fld.misses_of_addr {f g : Fld} (h : g.addr ≠ f.addr) : f.misses g = true := by simp [Fld.misses, h]

theorem State.lnk_of_rd {s t : State} {p : Nat} {g : Fld} (h : t.rd (g.addr + lnkI p) = s.rd (g.addr + lnkI p)) :
    t.lnk p g = s.lnk p g := congrArg (getBits · g.hi g.lo) h

theorem State.lnk_of_regs {s t : State} (h : t.regs = s.regs) (p : Nat) (g : Fld) : t.lnk p g = s.lnk p g :=
  State.fldAt_of_regs h _ _

theorem State.lnk_lt (s : State) (p : Nat) (g : Fld) : s.lnk p g < 2 ^ (g.hi + 1 - g.lo) := getBits_lt _ _ _

/-- A value that fits in a field of a word. -/
def Fld.holds (f : Fld) (v : Nat) : Bool := decide ((f.lo ≤ f.hi ∧ f.hi < 32) ∧ v < 2 ^ (f.hi + 1 - f.lo))

theorem Fld.holds_of_lt {f : Fld} {v n : Nat} (h : v < n)
    (hf : (f.lo ≤ f.hi ∧ f.hi < 32) ∧ n = 2 ^ (f.hi + 1 - f.lo) := by decide) : f.holds v = true :=
  decide_eq_true ⟨hf.1, hf.2 ▸ h⟩

/-! ### Fields of a link -/

@[simp] theorem State.lnk_putLnk_same (s : State) (p : Nat) (f : Fld) (v : Nat) (h : f.holds v = true) :
    (s.putLnk p f v).lnk p f = v := by
  obtain ⟨hword, hv⟩ := of_decide_eq_true h
  exact (s.fldAt_putAt_same _ f v hword).trans (Nat.mod_eq_of_lt hv)

@[simp] theorem State.lnk_putLnk_other (s : State) (p : Nat) (f g : Fld) (v : Nat) (h : f.misses g = true) :
    (s.putLnk p f v).lnk p g = s.lnk p g := s.fldAt_putAt_other _ f g v h

@[simp] theorem State.lnk_addLnk_same (s : State) (p : Nat) (f : Fld) (n : Nat) (h : f.lo ≤ f.hi ∧ f.hi < 32) :
    (s.addLnk p f n).lnk p f = min (s.lnk p f + n) f.top := s.fldAt_addAt_same _ f n h

@[simp] theorem State.lnk_addLnk_other (s : State) (p : Nat) (f g : Fld) (n : Nat) (h : f.misses g = true) :
    (s.addLnk p f n).lnk p g = s.lnk p g := s.fldAt_addAt_other _ f g n h

@[simp] theorem State.lnk_flagLnk_same (s : State) (p : Nat) (f : Fld) (b : Bool) (h : f.lo ≤ f.hi ∧ f.hi < 32) :
    (s.flagAt (lnkI p) f b).lnk p f = if b then 1 else 0 := by
  have hone : 1 < 2 ^ (f.hi + 1 - f.lo) := Nat.one_lt_two_pow (by omega)
  exact s.lnk_putLnk_same p f _ (decide_eq_true ⟨h, by split <;> omega⟩)

@[simp] theorem State.lnk_flagLnk_other (s : State) (p : Nat) (f g : Fld) (b : Bool) (h : f.misses g = true) :
    (s.flagAt (lnkI p) f b).lnk p g = s.lnk p g := s.lnk_putLnk_other p f g _ h

@[simp] theorem State.lnk_put (s : State) (p : LaneId) (f g : Fld) (v : Nat) (hg : g.ofLink = true) (hf : offLinks f.addr = true) :
    (s.put f v).lnk p g = s.lnk p g := State.lnk_of_rd (s.rd_put_ne f v _ (link_addr_ne p hg hf))

@[simp] theorem State.lnk_updPort (s : State) (p q : Nat) (f : Port → Port) (g : Fld) : (s.updPort q f).lnk p g = s.lnk p g := (rfl)
@[simp] theorem State.lnk_setPort (s : State) (p q : Nat) (x : Port) (g : Fld) : (s.setPort q x).lnk p g = s.lnk p g := (rfl)
@[simp] theorem State.lnk_settle (s : State) (p : Nat) (g : Fld) : s.settle.lnk p g = s.lnk p g := (rfl)
@[simp] theorem State.lnk_pldm (s : State) (e : PldmEvent) (p : Nat) (g : Fld) : (s.pldm e).lnk p g = s.lnk p g := (rfl)
@[simp] theorem State.lnk_emitFrame (s : State) (q seq : Nat) (hdr : FrameHdr) (payload : List Byte) (p : Nat) (g : Fld) :
    (s.emitFrame q seq hdr payload).lnk p g = s.lnk p g := (rfl)

@[simp] theorem State.lnk_reAdmit (s : State) (p : LaneId) (g : Fld) (hg : g.ofLink = true) : s.reAdmit.lnk p g = s.lnk p g :=
  State.lnk_of_rd (s.reAdmit_regs _ (link_addr_notMem p hg (by decide)))

@[simp] theorem State.lnk_advanceStart (s : State) (p : LaneId) (g : Fld) (hg : g.ofLink = true) :
    s.advanceStart.lnk p g = s.lnk p g := by
  refine State.lnk_of_rd ((StartFrame.refl s).advanceStart.regs _ ?_ (link_addr_notMem p hg (by decide)))
  have hp := p.isLt
  simp only [Fld.ofLink, decide_eq_true_eq] at hg
  unfold lnkI
  omega

/-! ### Fields of other blocks -/

@[simp] theorem State.fld_putLnk (s : State) (p : LaneId) (f g : Fld) (v : Nat) (hf : f.ofLink = true) (hg : offLinks g.addr = true) :
    (s.putLnk p f v).fld g = s.fld g := State.fldAt_putAt_ne s _ 0 f g v (link_addr_ne p hf hg).symm

@[simp] theorem State.fld_addLnk (s : State) (p : LaneId) (f g : Fld) (n : Nat) (hf : f.ofLink = true) (hg : offLinks g.addr = true) :
    (s.addLnk p f n).fld g = s.fld g := s.fld_putLnk p f g _ hf hg

@[simp] theorem State.isSet_putLnk (s : State) (p : LaneId) (f g : Fld) (v : Nat) (hf : f.ofLink = true) (hg : offLinks g.addr = true) :
    (s.putLnk p f v).isSet g = s.isSet g := congrArg (decide <| · = 1) (s.fld_putLnk p f g v hf hg)

@[simp] theorem State.isSet_addLnk (s : State) (p : LaneId) (f g : Fld) (n : Nat) (hf : f.ofLink = true) (hg : offLinks g.addr = true) :
    (s.addLnk p f n).isSet g = s.isSet g := s.isSet_putLnk p f g _ hf hg

/-! ### Frames sent (R240) -/

/-- The frame that goes out. -/
def State.frameOut (s : State) (p seq : Nat) (hdr : FrameHdr) (payload : List Byte) : FrameOut :=
  ⟨p, seq, hdr, payload, s.frameBytes p seq hdr payload⟩

theorem State.emitFrame_sent {s u : State} (h : u.fab.sent = s.fab.sent) (p seq : Nat) (hdr : FrameHdr) (payload : List Byte) :
    (u.emitFrame p seq hdr payload).fab.sent = u.frameOut p seq hdr payload :: s.fab.sent := congrArg (_ :: ·) h

/-! ### The fabric's tables -/

@[simp] theorem State.putLnk_fab (s : State) (p : Nat) (f : Fld) (v : Nat) : (s.putLnk p f v).fab = s.fab := (rfl)
@[simp] theorem State.settle_fab (s : State) : s.settle.fab = s.fab := (rfl)
@[simp] theorem State.setPort_sent (s : State) (p : Nat) (x : Port) : (s.setPort p x).fab.sent = s.fab.sent := (rfl)
@[simp] theorem State.updPort_sent (s : State) (p : Nat) (f : Port → Port) : (s.updPort p f).fab.sent = s.fab.sent := (rfl)
@[simp] theorem State.reAdmit_fab (s : State) : s.reAdmit.fab = s.fab := s.reAdmit_leaves State.fab fun _ _ _ => rfl
@[simp] theorem State.advanceStart_fab (s : State) : s.advanceStart.fab = s.fab :=
  s.advanceStart_leaves State.fab fun _ _ _ _ _ _ _ => rfl

/-! ### Ports -/

theorem State.port_of_fab {s t : State} (h : t.fab = s.fab) (p : Nat) : t.port p = s.port p :=
  congrArg (fun f : Fabric => SMap.get (fun _ => Port.idle) f.ports p) h

@[simp] theorem State.port_setPort (s : State) (p : Nat) (x : Port) : (s.setPort p x).port p = x :=
  (SMap.get_set _ _ _ _ _).trans (if_pos rfl)

@[simp] theorem State.port_updPort (s : State) (p : Nat) (f : Port → Port) : (s.updPort p f).port p = f (s.port p) :=
  s.port_setPort p _

@[simp] theorem State.port_putLnk (s : State) (q : Nat) (f : Fld) (v p : Nat) : (s.putLnk q f v).port p = s.port p := (rfl)
@[simp] theorem State.port_addLnk (s : State) (q : Nat) (f : Fld) (n p : Nat) : (s.addLnk q f n).port p = s.port p := (rfl)
@[simp] theorem State.port_put (s : State) (f : Fld) (v p : Nat) : (s.put f v).port p = s.port p := (rfl)
@[simp] theorem State.port_settle (s : State) (p : Nat) : s.settle.port p = s.port p := (rfl)
@[simp] theorem State.port_pldm (s : State) (e : PldmEvent) (p : Nat) : (s.pldm e).port p = s.port p := (rfl)
@[simp] theorem State.port_emitFrame (s : State) (q seq : Nat) (hdr : FrameHdr) (payload : List Byte) (p : Nat) :
    (s.emitFrame q seq hdr payload).port p = s.port p := (rfl)

@[simp] theorem State.port_reAdmit (s : State) (p : Nat) : s.reAdmit.port p = s.port p := State.port_of_fab s.reAdmit_fab p
@[simp] theorem State.port_advanceStart (s : State) (p : Nat) : s.advanceStart.port p = s.port p :=
  State.port_of_fab s.advanceStart_fab p

/-! ### Kept registers -/

theorem regsKept.refl (s : State) (as : List Nat) : regsKept s s as := fun _ _ => rfl

theorem regsKept.putAt {s t : State} {as : List Nat} (h : regsKept s t as) {i : Nat} {f : Fld} (hf : f.addr + i ∈ as) (v : Nat) :
    regsKept s (t.putAt i f v) as := fun a ha => (State.rd_putAt_ne t i f v a fun e => ha (e ▸ hf)).trans (h a ha)

/-- An update of a register of the link that may change. -/
theorem regsKept.putLnk {s t : State} {p : Nat} {g : Fld} (h : regsKept s t [g.addr + lnkI p]) {f : Fld} (v : Nat)
    (hf : f.addr = g.addr := by rfl) : regsKept s (t.putLnk p f v) [g.addr + lnkI p] :=
  h.putAt (List.mem_singleton.mpr (congrArg (· + lnkI p) hf)) v

theorem regsKept.updPort {s t : State} {as : List Nat} (h : regsKept s t as) (p : Nat) (f : Port → Port) :
    regsKept s (t.updPort p f) as := h

theorem regsKept.emitFrame {s t : State} {as : List Nat} (h : regsKept s t as) (p seq : Nat) (hdr : FrameHdr)
    (payload : List Byte) : regsKept s (t.emitFrame p seq hdr payload) as := h

theorem State.rd_of_regs {s t : State} (h : t.regs = s.regs) (a : Nat) : t.rd a = s.rd a :=
  congrArg (fun m => SMap.get regReset m a) h

theorem regsKept.of_regs {s t u : State} {as : List Nat} (h : regsKept s t as) (hu : u.regs = t.regs) : regsKept s u as :=
  fun a ha => (State.rd_of_regs hu a).trans (h a ha)

/-! ### A received frame (R242) -/

/-- A frame that the error correction accepts counts what it corrected. -/
theorem State.rxFec_clean {s : State} {rx : FrameRx} (harmed : s.faults.armed = none) (hfec : rx.uncorrectable = false) (p : Nat) :
    s.rxFec p rx = (s.addLnk p LNK_FEC_CORR_COUNT rx.corrected, true) := by
  unfold State.rxFec
  extract_lets u
  rw [State.tryInject_disarmed (s := u) harmed]
  simp [hfec, u]

theorem State.rxTag_clean {s : State} {rx : FrameRx} (harmed : s.faults.armed = none) (htag : rx.tagOk = true) (p : Nat) :
    s.rxTag p rx = (s, true) := by
  unfold State.rxTag
  rw [State.tryInject_disarmed harmed]
  simp [htag]

/-- A tag that fails is counted on the link and at its port. -/
def State.countBadTag (s : State) (p : Nat) : State :=
  (s.addLnk p LNK_TAG_ERR_COUNT 1).updPort p (fun (x : Port) => { x with tagFails := x.tagFails + 1 })

theorem State.lnk_countBadTag (s : State) (p : Nat) :
    (s.countBadTag p).lnk p LNK_TAG_ERR_COUNT = min (s.lnk p LNK_TAG_ERR_COUNT + 1) LNK_TAG_ERR_COUNT.top :=
  s.lnk_addLnk_same p LNK_TAG_ERR_COUNT 1 (by decide)

theorem State.rxTag_failed {s : State} {rx : FrameRx} (harmed : s.faults.armed = none) (htag : rx.tagOk = false) {p : Nat}
    (hport : s.lnk p LNK_STAT_STATE ≠ 7) : s.rxTag p rx = (s.countBadTag p, false) := by
  have hidle : ¬((s.countBadTag p).portActive p = true ∧ 4 ≤ ((s.countBadTag p).port p).tagFails) := fun h =>
    hport ((s.lnk_addLnk_other p LNK_TAG_ERR_COUNT LNK_STAT_STATE 1 (by decide)).symm.trans (of_decide_eq_true h.1))
  unfold State.rxTag
  rw [State.tryInject_disarmed harmed]
  exact (if_neg (by simp [htag])).trans (if_neg hidle)

end Sys2Proof.Machine
end

section
/-! The training of a port (R234, R236, R248 to R253): its six steps, and the frames that they send and take (O25). -/
namespace Sys2Proof.Machine

/-! ### The width that trains (R236) -/

theorem trainedWidth_le {w n : Nat} {good : BitVec 8} (h : trainedWidth w good = some n) : n ≤ w := by
  unfold trainedWidth trainedPart at h
  obtain ⟨⟨n', k⟩, hpart, rfl⟩ := Option.map_eq_some_iff.mp h
  obtain ⟨m, hm, hfind⟩ := List.exists_of_findSome?_eq_some hpart
  obtain ⟨k', -, heq⟩ := Option.map_eq_some_iff.mp hfind
  cases heq
  exact of_decide_eq_true (List.mem_filter.mp hm).2

/-! ### A training that ends (R248, R249, R253) -/

theorem State.failTraining_shows (s : State) (p : Nat) :
    (s.failTraining p).lnk p LNK_STAT_STATE = 0 ∧ ((s.failTraining p).port p).failed = true ∧
      (s.failTraining p).fab.sent = s.fab.sent := by
  unfold State.failTraining
  simp (disch := decide)

theorem State.disablePort_shows (s : State) (p : LaneId) {plan : Nat} (h : plan < 8) :
    (s.disablePort p plan).lnk p LNK_STAT_STATE = 0 ∧ (s.disablePort p plan).lnk p LNK_STAT_PLAN = plan ∧
      (s.disablePort p plan).lnk p LNK_FLAG_PLAN_FAIL = 1 ∧ ((s.disablePort p plan).port p).planOff = true := by
  unfold State.disablePort
  simp (disch := decide) [State.lnk_putLnk_same _ _ _ _ (Fld.holds_of_lt (f := LNK_STAT_PLAN) h)]

theorem State.lnk_disablePort_other (s : State) (p : LaneId) (plan : Nat) (g : Fld) (hg : g.ofLink = true)
    (hword : g.addr ≠ LNK_STAT_STATE.addr ∧ g.addr ≠ LNK_FLAG_PLAN_FAIL.addr) :
    (s.disablePort p plan).lnk p g = s.lnk p g := by
  obtain ⟨hstat, hflag⟩ := hword
  unfold State.disablePort
  rw [State.lnk_reAdmit _ _ _ hg, State.lnk_settle, State.lnk_pldm, State.lnk_updPort,
    State.lnk_putLnk_other _ _ _ _ _ (Fld.misses_of_addr hflag),
    State.lnk_putLnk_other _ _ _ _ _ (Fld.misses_of_addr (f := LNK_STAT_PLAN) hstat),
    State.lnk_putLnk_other _ _ _ _ _ (Fld.misses_of_addr hstat)]

theorem State.activate_lnk (s : State) (p : LaneId) : (s.activate p).lnk p LNK_STAT_STATE = 7 ∧
    (s.activate p).lnk p LNK_STAT_PLAN = s.lnk p LNK_STAT_PLAN := by
  unfold State.activate
  extract_lets u v fab w
  have hregs : w.regs = u.regs := rfl
  simp (disch := decide) [State.lnk_of_regs hregs, u]

/-- A training that keeps its port goes to step 6 while the count is valid, and makes it active otherwise. -/
theorem State.enterStep6_lnk (s : State) (p : LaneId) :
    (s.enterStep6 p).lnk p LNK_STAT_STATE = (if s.isSet TB_STAT_COUNT_VALID then 6 else 7) ∧
      (s.enterStep6 p).lnk p LNK_STAT_PLAN = s.lnk p LNK_STAT_PLAN := by
  unfold State.enterStep6
  split
  · simp (disch := decide)
  · exact s.activate_lnk p

/-! ### Steps 1 to 3 (R248, R249, R250) -/

theorem exec_laneTrainingDone {s : State} {p : LaneId} {lanes : BitVec 8} (hstep : s.lnk p LNK_STAT_STATE = 1)
    (hlanes : lanes ≠ 0) : exec (.laneTrainingDone p lanes) s =
      .next ((s.putLnk p LNK_STAT_STATE 2).updPort p fun x => { x with lanes := lanes }) :=
  congrArg Host.Outcome.next (if_pos ⟨hstep, hlanes⟩)

/-- Step 2 completes with a width: the lanes of the part are in use, and a fresh random value is drawn. -/
def State.deskewed (s : State) (p : Nat) (e : PlanPort) (good : BitVec 8) (n : Nat) : State :=
  (((s.tick.putLnk p LNK_STAT_WIDTH n).flagAt (lnkI p) LNK_STAT_REDUCED (decide (n < e.width))).putLnk p LNK_STAT_STATE 3).updPort p
    fun x => { x with lanes := trainedLanes e.width good, random := Config.linkRandom s.freeCtr }

theorem State.deskewed_sent (s : State) (p : Nat) (e : PlanPort) (good : BitVec 8) (n : Nat) :
    (s.deskewed p e good n).fab.sent = s.fab.sent := by simp [State.deskewed]

theorem State.deskewed_regs (s : State) (p : Nat) (e : PlanPort) (good : BitVec 8) (n : Nat) :
    regsKept s (s.deskewed p e good n) [LNK_STAT_STATE.addr + lnkI p] := by
  have hkept : regsKept s s.tick [LNK_STAT_STATE.addr + lnkI p] := fun _ _ => rfl
  have hwidth := hkept.putLnk (f := LNK_STAT_WIDTH) n
  have hreduced := hwidth.putLnk (f := LNK_STAT_REDUCED) (if decide (n < e.width) then 1 else 0)
  exact (hreduced.putLnk (f := LNK_STAT_STATE) 3).updPort p _

section
variable {s : State} {p : LaneId} {e : PlanPort} {lanes : BitVec 8} (hplan : s.plan p = some e)
  (hstep : s.lnk p LNK_STAT_STATE = 2)
include hplan hstep

theorem exec_deskewDone_of_width {n : Nat} (hwidth : trainedWidth e.width ((s.port p).lanes &&& lanes) = some n) :
    ∃ u payload, u = s.deskewed p e ((s.port p).lanes &&& lanes) n ∧
      exec (.deskewDone p lanes) s = .next (u.emitFrame p 0 (u.plainHdr 2) payload) := by
  refine ⟨_, ?_, rfl, ?_⟩
  rotate_left
  show execDeskewDone p lanes s = _
  unfold execDeskewDone
  simp only [hplan, hstep, ne_eq, not_true_eq_false, if_false, hwidth]
  rfl

theorem exec_deskewDone_of_no_width (hwidth : trainedWidth e.width ((s.port p).lanes &&& lanes) = none) :
    exec (.deskewDone p lanes) s = .next (s.failTraining p) := by
  show execDeskewDone p lanes s = _
  unfold execDeskewDone
  simp only [hplan, hstep, ne_eq, not_true_eq_false, if_false, hwidth]

end

/-- Step 3 completes with the partner's hello: the check result and the partner's identity are kept. -/
def State.greeted (s : State) (p : Nat) (h : Hello) (r : Nat) : State :=
  (((((s.putLnk p LNK_STAT_PARTNER_REV h.rev).putLnk p LNK_PARTNER_PORT h.port).putLnk p LNK_PARTNER_GROUP h.group).putLnk p
    LNK_PARTNER_MODULE h.module).putLnk p LNK_STAT_STATE 4).updPort p
    fun x => { x with hello := some h, result := some r, partnerId := h.dieId }

theorem State.greeted_sent (s : State) (p : Nat) (h : Hello) (r : Nat) : (s.greeted p h r).fab.sent = s.fab.sent := by
  simp [State.greeted]

theorem exec_helloFrame {s : State} {p : LaneId} {e : PlanPort} {h : Hello} {rx : FrameRx} (hplan : s.plan p = some e)
    (hstep : s.lnk p LNK_STAT_STATE = 3) (hclean : cleanFrame s rx) :
    ∃ u payload, u = (s.addLnk p LNK_FEC_CORR_COUNT rx.corrected).greeted p h (s.cablingResult e h) ∧
      exec (.helloFrame p h rx) s = .next (u.emitFrame p Config.confirmSeq.toNat (u.plainHdr 3) payload) := by
  obtain ⟨harmed, hfec, htag⟩ := hclean
  refine ⟨_, ?_, rfl, ?_⟩
  rotate_left
  show execHelloFrame p h rx s = _
  unfold execHelloFrame
  simp only [hplan, hstep, ne_eq, not_true_eq_false, if_false, State.rxFec_clean harmed hfec, Bool.not_true, Bool.false_eq_true,
    State.rxTag_clean (s := s.addLnk p LNK_FEC_CORR_COUNT rx.corrected) harmed htag]
  rfl

theorem portTrainsLanesWidthAndHello : PortTrainsLanesWidthAndHello := by
  refine fun s p e hplan hw => ⟨fun lanes hstep hlanes => ?_, fun lanes hstep => ⟨fun n hwidth => ?_, fun hwidth => ?_⟩,
    fun h rx hstep hclean hgroup hmodule hport => ?_⟩
  · refine ⟨_, exec_laneTrainingDone hstep hlanes, ?_, ?_, ?_⟩
    · rw [State.lnk_updPort, State.lnk_putLnk_same _ _ _ _ (by decide)]
    · rw [State.port_updPort]
    · exact ((regsKept.refl s _).putLnk (f := LNK_STAT_STATE) 2).updPort _ _
  · obtain ⟨u, payload, hu, hexec⟩ := exec_deskewDone_of_width hplan hstep hwidth
    have hn := trainedWidth_le hwidth
    subst hu
    refine ⟨_, _, hexec, ?_, ?_, ?_, ?_, State.emitFrame_sent (s.deskewed_sent ..) p 0 _ payload, rfl, rfl, ?_⟩
    · simp (disch := decide) [State.deskewed]
    · have hfits : n < 16 := by omega
      simp (disch := decide) only [State.deskewed, State.lnk_emitFrame, State.lnk_updPort, State.lnk_putLnk_other,
        State.lnk_flagLnk_other]
      exact State.lnk_putLnk_same _ _ _ _ (Fld.holds_of_lt hfits)
    · simp [State.deskewed]
    · simp (disch := decide) [State.deskewed]
    · exact (s.deskewed_regs p e _ n).emitFrame _ _ _ _
  · exact ⟨_, exec_deskewDone_of_no_width hplan hstep hwidth, s.failTraining_shows p⟩
  · obtain ⟨u, payload, hu, hexec⟩ := exec_helloFrame (h := h) hplan hstep hclean
    subst hu
    refine ⟨_, _, hexec, ?_, ?_, ?_, ?_, ?_, State.emitFrame_sent (State.greeted_sent ..) p _ _ payload, rfl, rfl⟩
    · simp (disch := decide) [State.greeted]
    · simp [State.greeted]
    · simp (disch := decide) only [State.greeted, State.partnerOf, State.lnk_emitFrame, State.lnk_updPort,
        State.lnk_putLnk_other]
      exact Prod.ext (State.lnk_putLnk_same _ _ _ _ (Fld.holds_of_lt hgroup)) (State.lnk_putLnk_same _ _ _ _ (Fld.holds_of_lt hmodule))
    · simp (disch := decide) only [State.greeted, State.lnk_emitFrame, State.lnk_updPort, State.lnk_putLnk_other]
      exact State.lnk_putLnk_same _ _ _ _ (Fld.holds_of_lt hport)
    · simp [State.greeted]

/-! ### Steps 4 and 5 (R251, R252) -/

theorem exec_confirmFrame_of_echo {s : State} {p : LaneId} {c : Confirm} {rx : FrameRx} {h : Hello}
    (hstep : s.lnk p LNK_STAT_STATE = 4) (hhello : (s.port p).hello = some h) (hclean : cleanFrame s rx)
    (hecho : (c.echoA, c.echoB) =
      (if Config.dieId.toNat < h.dieId.toNat then ((s.port p).random, h.random) else (h.random, (s.port p).random))) :
    exec (.confirmFrame p c rx) s = .next (((s.addLnk p LNK_FEC_CORR_COUNT rx.corrected).putLnk p LNK_STAT_STATE 5).setPort p
      { s.port p with confirm := some c }) := by
  obtain ⟨harmed, hfec, htag⟩ := hclean
  show execConfirmFrame p c rx s = _
  unfold execConfirmFrame
  simp only [hstep, ne_eq, not_true_eq_false, if_false, State.rxFec_clean harmed hfec, Bool.not_true, Bool.false_eq_true,
    State.rxTag_clean (s := s.addLnk p LNK_FEC_CORR_COUNT rx.corrected) harmed htag, State.port_addLnk, hhello, ← hecho,
    or_self]

theorem exec_confirmFrame_of_bad_tag {s : State} {p : LaneId} {c : Confirm} {rx : FrameRx}
    (hstep : s.lnk p LNK_STAT_STATE = 4) (harmed : s.faults.armed = none) (hfec : rx.uncorrectable = false)
    (htag : rx.tagOk = false) :
    exec (.confirmFrame p c rx) s =
      .next ((((s.addLnk p LNK_FEC_CORR_COUNT rx.corrected).countBadTag p).disablePort p 5).advanceStart) := by
  have hport : (s.addLnk p LNK_FEC_CORR_COUNT rx.corrected).lnk p LNK_STAT_STATE ≠ 7 := by
    rw [State.lnk_addLnk_other _ _ _ _ _ (by decide), hstep]
    decide
  show execConfirmFrame p c rx s = _
  unfold execConfirmFrame
  simp only [hstep, ne_eq, not_true_eq_false, if_false, State.rxFec_clean harmed hfec, Bool.not_true, Bool.false_eq_true,
    State.rxTag_failed (s := s.addLnk p LNK_FEC_CORR_COUNT rx.corrected) harmed htag hport, Bool.not_false, if_true]

/-- The decision on a MATCH or a FAR_SWAP rests with the partner's confirm. -/
theorem exec_cablingDecision {s : State} {p : LaneId} {e : PlanPort} {r : Nat} {c : Confirm} {h : Hello}
    (hplan : s.plan p = some e) (hstep : s.lnk p LNK_STAT_STATE = 5) (hresult : (s.port p).result = some r)
    (hconfirm : (s.port p).confirm = some c) (hhello : (s.port p).hello = some h) (hr : r ≤ 1) :
    exec (.cablingDecision p) s = .next (if c.accept then ((s.putLnk p LNK_STAT_PLAN (r + 1)).enterStep6 p).advanceStart
      else (s.disablePort p (r + 1)).advanceStart) := by
  show execCablingDecision p s = _
  unfold execCablingDecision
  simp only [hplan, hstep, ne_eq, not_true_eq_false, if_false, hresult, hconfirm, hhello, if_pos hr]

theorem portConfirmsAndIsDecided : PortConfirmsAndIsDecided := by
  refine fun s p e hplan => ⟨fun c rx h hstep hhello => ⟨fun hclean hecho => ?_, fun harmed hfec htag => ?_⟩,
    fun r c h hstep hresult hconfirm hhello hr => ?_, fun hrest hactive => ?_⟩
  · have hexec := exec_confirmFrame_of_echo hstep hhello hclean hecho
    refine ⟨_, hexec, ?_, ?_⟩
    · rw [State.lnk_setPort, State.lnk_putLnk_same _ _ _ _ (by decide)]
    · rw [State.port_setPort]
  · obtain ⟨hstate, hplan5, hfail, hoff⟩ :=
      ((s.addLnk p LNK_FEC_CORR_COUNT rx.corrected).countBadTag p).disablePort_shows p (plan := 5) (by decide)
    refine ⟨_, exec_confirmFrame_of_bad_tag hstep harmed hfec htag, ?_⟩
    simp (disch := decide) only [State.lnk_advanceStart, State.port_advanceStart, hstate, hplan5, hfail, hoff, true_and,
      State.lnk_disablePort_other, State.lnk_countBadTag, State.lnk_addLnk_other]
  · have hexec := exec_cablingDecision hplan hstep hresult hconfirm hhello hr
    refine ⟨fun haccept => ⟨_, haccept ▸ hexec, ?_⟩, fun hrefuse => ⟨_, hrefuse ▸ hexec, ?_⟩⟩
    · obtain ⟨hstate, hplan'⟩ := (s.putLnk p LNK_STAT_PLAN (r + 1)).enterStep6_lnk p
      rw [State.isSet_putLnk _ _ _ _ _ (by decide) (by decide)] at hstate
      rw [State.lnk_putLnk_same _ _ _ _ (Fld.holds_of_lt (show r + 1 < 8 by omega))] at hplan'
      rw [if_pos rfl, State.lnk_advanceStart _ _ _ (by decide), State.lnk_advanceStart _ _ _ (by decide)]
      exact ⟨hplan', hstate⟩
    · obtain ⟨hstate, hplan', hfail, hoff⟩ := s.disablePort_shows p (plan := r + 1) (by omega)
      rw [if_neg Bool.false_ne_true]
      simp (disch := decide) only [State.lnk_advanceStart, State.port_advanceStart, hstate, hplan', hfail, hoff, true_and]
  · obtain ⟨hstate, hfailed, -⟩ := s.failTraining_shows p
    have hnot : ¬(s.lnk p LNK_STAT_STATE = 0 ∨ s.portActive p = true) := fun h =>
      h.elim hrest fun h => hactive (of_decide_eq_true h)
    refine ⟨_, congrArg Host.Outcome.next (if_neg hnot), ?_, ?_⟩
    · rw [State.lnk_advanceStart _ _ _ (by decide), hstate]
    · rw [State.port_advanceStart, hfailed]

/-- Settles O25: each step of a training is one equation of its command, read at the link's registers and at its port. -/
theorem laneTraining : Obligations.LaneTraining := ⟨portTrainsLanesWidthAndHello, portConfirmsAndIsDecided⟩

end Sys2Proof.Machine
end

section
/-! The sideband's table (R244, R246, R257): what a message entered, a loss seen and a PRESENT seen leave, and what they record. -/
namespace Sys2Proof.Machine

/-! ### What the table leaves (R246) -/

/-- A part of the state that the message table, its relay queue and their registers do not touch. -/
structure TableLeaves {β : Type} (part : State → β) : Prop where
  reg : ∀ (u : State) (f : Fld) (v : Nat),
    f.addr ∈ [FAB_SB_SEEN_COUNT.addr, FAB_SB_DROP_COUNT.addr, FAB_SB_QUEUE_DEPTH.addr] → part (u.put f v) = part u
  tables : ∀ (u : State) (seen queue : List SbMsg) (stop : Bool),
    part { u with fab := { u.fab with seen := seen, queue := queue, heatStop := stop } } = part u

/-- A message entered in the table, and counted. -/
def State.tabled (s : State) (m : SbMsg) : State :=
  { s with fab := { s.fab with seen := m :: s.fab.seen } }.add FAB_SB_SEEN_COUNT 1

/-- A message at the end of the relay queue. -/
def State.queued (s : State) (m : SbMsg) : State :=
  { s with fab := { s.fab with
      queue := s.fab.queue ++ [m], heatStop := s.fab.heatStop || decide (48 < (s.fab.queue ++ [m]).length) } }.depth

section
variable {β : Type} {part : State → β} (h : TableLeaves part)
include h

theorem TableLeaves.tabled (u : State) (m : SbMsg) : part (u.tabled m) = part u :=
  (h.reg _ FAB_SB_SEEN_COUNT _ (by decide)).trans (h.tables u _ u.fab.queue u.fab.heatStop)

theorem TableLeaves.depth (u : State) : part u.depth = part u := h.reg u FAB_SB_QUEUE_DEPTH _ (by decide)

theorem TableLeaves.queued (u : State) (m : SbMsg) : part (u.queued m) = part u :=
  (h.depth _).trans (h.tables u u.fab.seen _ _)

theorem TableLeaves.enterSb (s : State) (m : SbMsg) : part (s.enterSb m).1 = part s := by
  have hqueue : ∀ (u : State) q, part { u with fab := { u.fab with queue := q } }.depth = part u := fun u q =>
    (h.depth _).trans (h.tables u u.fab.seen q u.fab.heatStop)
  unfold State.enterSb
  split
  · rfl
  rw [← h.tabled s m]
  show part (Prod.fst (ite ..)) = part (s.tabled m)
  split
  · exact h.reg _ FAB_SB_DROP_COUNT _ (by decide)
  split
  · split
    · split
      · exact hqueue _ _
      · rfl
    · split
      · rfl
      · exact hqueue _ _
  · exact h.queued _ m

end

theorem State.self_tabled (s : State) (m : SbMsg) : (s.tabled m).self = s.self := by
  have hfld : ∀ f : Fld, FAB_SB_SEEN_COUNT.misses f = true → (s.tabled m).fld f = s.fld f := fun f hf =>
    (State.fld_add_other _ _ f 1 hf).trans (State.fldAt_of_regs rfl 0 f)
  unfold State.self
  rw [hfld _ (by decide), hfld _ (by decide)]

/-! ### The cases of an entry (R246, R247) -/

/-- A HEAT message of another origin that the stopped relays drop. -/
def State.heatDropped (s : State) (m : SbMsg) : Prop := m.kind = 1 ∧ (m.group, m.module) ≠ s.self ∧ s.fab.heatStop = true

theorem State.enterSb_of_seen {s : State} {m : SbMsg} (h : m ∈ s.fab.seen) : s.enterSb m = (s, false) := if_pos h

theorem State.enterSb_of_dropped {s : State} {m : SbMsg} (hnew : m ∉ s.fab.seen) (hdrop : s.heatDropped m) :
    s.enterSb m = ((s.tabled m).add FAB_SB_DROP_COUNT 1, true) := by
  obtain ⟨hkind, hother, hstop⟩ := hdrop
  have hself : ¬(m.group, m.module) = (s.tabled m).self := s.self_tabled m ▸ hother
  unfold State.enterSb
  rw [if_neg hnew]
  exact if_pos ⟨hkind, congrArg (!·) (decide_eq_false hself), hstop⟩

theorem State.enterSb_of_kept {s : State} {m : SbMsg} (hnew : m ∉ s.fab.seen) (hkind : m.kind ≠ 2) (hkeep : ¬s.heatDropped m) :
    s.enterSb m = ((s.tabled m).queued m, true) := by
  unfold State.enterSb
  rw [if_neg hnew]
  refine (if_neg fun h => hkeep ?_).trans (if_neg hkind)
  obtain ⟨hheat, hother, hstop⟩ := h
  refine ⟨hheat, fun e => ?_, hstop⟩
  rw [← s.self_tabled m] at e
  exact Bool.false_ne_true ((congrArg (!·) (decide_eq_true e)).symm.trans hother)

theorem State.enterSb_seen {s : State} {m : SbMsg} (hnew : m ∉ s.fab.seen) (hkind : m.kind ≠ 2) :
    (s.enterSb m).1.fab.seen = m :: s.fab.seen := by
  by_cases hdrop : s.heatDropped m
  · rw [State.enterSb_of_dropped hnew hdrop]
    rfl
  · rw [State.enterSb_of_kept hnew hkind hdrop]
    rfl

/-- A new message is counted. -/
theorem State.enterSb_counts {s : State} {m : SbMsg} (hnew : m ∉ s.fab.seen) (hkind : m.kind ≠ 2) :
    (s.enterSb m).1.fld FAB_SB_SEEN_COUNT = min (s.fld FAB_SB_SEEN_COUNT + 1) FAB_SB_SEEN_COUNT.top := by
  have hcount : (s.tabled m).fld FAB_SB_SEEN_COUNT = min (s.fld FAB_SB_SEEN_COUNT + 1) FAB_SB_SEEN_COUNT.top :=
    State.fld_add_same _ _ _ (by decide)
  by_cases hdrop : s.heatDropped m
  · rw [State.enterSb_of_dropped hnew hdrop, State.fld_add_other _ _ _ _ (by decide), hcount]
  · rw [State.enterSb_of_kept hnew hkind hdrop]
    exact (State.fld_put_other _ FAB_SB_QUEUE_DEPTH _ _ (by decide)).trans hcount

theorem State.enterSb_drops {s : State} {m : SbMsg} (hnew : m ∉ s.fab.seen) (hdrop : s.heatDropped m) :
    (s.enterSb m).1.fab.queue = s.fab.queue ∧
      (s.enterSb m).1.fld FAB_SB_DROP_COUNT = min (s.fld FAB_SB_DROP_COUNT + 1) FAB_SB_DROP_COUNT.top := by
  have hdrops : (s.tabled m).fld FAB_SB_DROP_COUNT = s.fld FAB_SB_DROP_COUNT := State.fld_add_other _ _ _ _ (by decide)
  rw [State.enterSb_of_dropped hnew hdrop, State.fld_add_same _ _ _ (by decide), hdrops]
  exact ⟨rfl, rfl⟩

theorem State.enterSb_queues {s : State} {m : SbMsg} (hnew : m ∉ s.fab.seen) (hkind : m.kind ≠ 2) (hkeep : ¬s.heatDropped m) :
    (s.enterSb m).1.fab.queue = s.fab.queue ++ [m] := by
  rw [State.enterSb_of_kept hnew hkind hkeep]
  rfl

/-- What was in the table stays in it, and the message is in it. -/
theorem State.mem_seen_enterSb (s : State) {m : SbMsg} (hkind : m.kind ≠ 2) {x : SbMsg} (hx : x = m ∨ x ∈ s.fab.seen) :
    x ∈ (s.enterSb m).1.fab.seen := by
  by_cases hseen : m ∈ s.fab.seen
  · rw [State.enterSb_of_seen hseen]
    exact hx.elim (fun e => e ▸ hseen) id
  · rw [State.enterSb_seen hseen hkind]
    exact List.mem_cons.mpr hx

theorem TableLeaves.losses : TableLeaves (fun s => s.fab.losses) := ⟨fun _ _ _ _ => rfl, fun _ _ _ _ => rfl⟩

/-! ### Losses (R257) -/

/-- A part of the state that a loss or a PRESENT seen does not touch either. -/
structure LossLeaves {β : Type} (part : State → β) : Prop extends TableLeaves part where
  losses : ∀ (u : State) l, part { u with fab := { u.fab with losses := l } } = part u
  adm : ∀ u : State, part u.reAdmit = part u

/-- A loss of a module is recorded for a mile. -/
def State.lossNoted (s : State) (gm : Nat × Nat) (mile : Nat) : Prop :=
  ∃ l ∈ s.fab.losses, (l.group, l.module) = gm ∧ l.mile = mile

/-- The losses after a PRESENT of a module. -/
def notedPresent (gm : Nat × Nat) (l : Loss) : Loss :=
  if (l.group, l.module) = gm ∧ l.confirmed.isNone then { l with present := true, closed := true } else l

/-- A PRESENT that is new here is noted. -/
theorem State.seePresent_of_new {s : State} {m : SbMsg} (h : m ∉ s.fab.seen) :
    s.seePresent m = (s.enterSb m).1.notePresent (m.data / 64 % 16, m.data % 64) := if_pos (State.enterSb_new h)

theorem State.notePresent_losses (s : State) (gm : Nat × Nat) :
    (s.notePresent gm).fab.losses = s.fab.losses.map (notedPresent gm) := by
  unfold State.notePresent
  extract_lets hit fab u
  exact ite_leaves (part := fun t : State => t.fab.losses) (congrArg Fabric.losses u.reAdmit_fab) rfl

/-- After a PRESENT of a module its open losses are marked. -/
theorem State.present_of_noted {s : State} {gm : Nat × Nat} {l : Loss} (hl : l ∈ (s.notePresent gm).fab.losses)
    (hgm : (l.group, l.module) = gm) (hopen : l.confirmed = none) : l.present = true := by
  rw [State.notePresent_losses] at hl
  obtain ⟨l', -, rfl⟩ := List.mem_map.mp hl
  unfold notedPresent at hgm hopen ⊢
  split
  next => rfl
  next hnot =>
    rw [if_neg hnot] at hgm hopen
    exact absurd ⟨hgm, by simp [hopen]⟩ hnot

theorem State.lossNoted.notePresent {s : State} {gm : Nat × Nat} {mile : Nat} (h : s.lossNoted gm mile) (gm' : Nat × Nat) :
    (s.notePresent gm').lossNoted gm mile := by
  obtain ⟨l, hl, hgm, hmile⟩ := h
  refine ⟨notedPresent gm' l, ?_, ?_, ?_⟩
  · rw [State.notePresent_losses]
    exact List.mem_map_of_mem hl
  · unfold notedPresent
    split <;> exact hgm
  · unfold notedPresent
    split <;> exact hmile

theorem State.lossNoted.seePresent {s : State} {gm : Nat × Nat} {mile : Nat} (h : s.lossNoted gm mile) (m : SbMsg) :
    (s.seePresent m).lossNoted gm mile := by
  have hentered : (s.enterSb m).1.lossNoted gm mile := by
    unfold State.lossNoted
    rw [TableLeaves.losses.enterSb s m]
    exact h
  unfold State.seePresent
  generalize s.enterSb m = q at hentered
  obtain ⟨u, new⟩ := q
  cases new with
  | false => exact hentered
  | true => exact hentered.notePresent _

theorem State.notePresent_seen (s : State) (gm : Nat × Nat) : (s.notePresent gm).fab.seen = s.fab.seen := by
  unfold State.notePresent
  extract_lets hit fab u
  have hadm : u.reAdmit.fab.seen = u.fab.seen := congrArg Fabric.seen u.reAdmit_fab
  exact ite_leaves (part := fun t : State => t.fab.seen) hadm rfl

theorem State.mem_seen_seePresent (s : State) {m : SbMsg} (hkind : m.kind ≠ 2) {x : SbMsg} (hx : x = m ∨ x ∈ s.fab.seen) :
    x ∈ (s.seePresent m).fab.seen := by
  have hentered := s.mem_seen_enterSb hkind hx
  unfold State.seePresent
  generalize s.enterSb m = q at hentered
  obtain ⟨u, new⟩ := q
  cases new with
  | false => exact hentered
  | true =>
    dsimp only
    rw [if_pos rfl, State.notePresent_seen]
    exact hentered

section
variable {β : Type} {part : State → β} (h : LossLeaves part)
include h

theorem LossLeaves.notePresent (s : State) (gm : Nat × Nat) : part (s.notePresent gm) = part s := by
  unfold State.notePresent
  extract_lets hit fab u
  have hu : part u = part s := h.losses s _
  exact ite_leaves ((h.adm u).trans hu) hu

theorem LossLeaves.seePresent (s : State) (m : SbMsg) : part (s.seePresent m) = part s := by
  have hentered := h.toTableLeaves.enterSb s m
  unfold State.seePresent
  generalize s.enterSb m = q at hentered ⊢
  obtain ⟨u, new⟩ := q
  exact ite_leaves ((h.notePresent u _).trans hentered) hentered

end

/-- A loss enters the record: a port more that detected it, or a new one. -/
def State.recordLoss (s : State) (gm : Nat × Nat) (mile : Nat) (early : Bool) (port : Option Nat) : State :=
  match s.fab.losses.find? (fun (l : Loss) => (l.group, l.module) = gm ∧ l.mile = mile) with
  | some _ => { s with fab := { s.fab with losses := s.fab.losses.map (fun (l : Loss) =>
      if (l.group, l.module) = gm ∧ l.mile = mile then { l with ports := l.ports ++ port.toList } else l) } }
  | none => { s with fab := { s.fab with losses := s.fab.losses ++ [(⟨gm.1, gm.2, mile, early, none, port.toList, early⟩ : Loss)] } }

theorem State.recordLoss_notes (s : State) (gm : Nat × Nat) (mile : Nat) (early : Bool) (port : Option Nat) :
    (s.recordLoss gm mile early port).lossNoted gm mile := by
  unfold State.recordLoss
  split
  next old hold =>
    have hsame : (old.group, old.module) = gm ∧ old.mile = mile := by simpa using List.find?_some hold
    refine ⟨{ old with ports := old.ports ++ port.toList }, ?_, hsame⟩
    exact List.mem_map.mpr ⟨old, List.mem_of_find?_eq_some hold, if_pos hsame⟩
  next => exact ⟨_, List.mem_append_right _ (List.mem_singleton.mpr rfl), rfl, rfl⟩

theorem State.recordLoss_seen (s : State) (gm : Nat × Nat) (mile : Nat) (early : Bool) (port : Option Nat) :
    (s.recordLoss gm mile early port).fab.seen = s.fab.seen := by
  unfold State.recordLoss
  split <;> rfl

/-- A PRESENT of the lost module came before its loss. -/
def State.presentBefore (s : State) (m : SbMsg) : Bool :=
  s.fab.seen.any (fun (x : SbMsg) => x.kind = 5 ∧ x.data = m.data ∧ x.mile = m.mile)

/-- A loss seen has entered the table and the record. -/
def State.lossSeen (s : State) (m : SbMsg) (port : Option Nat) : State :=
  (s.enterSb m).1.recordLoss (m.data / 64 % 16, m.data % 64) (nearestMile (s.enterSb m).1.mileNow m.mile)
    ((s.enterSb m).1.presentBefore m) port

/-- A new loss of a module that is alive is answered by a PRESENT. -/
theorem State.seeLoss_cases (s : State) (m : SbMsg) (port : Option Nat) : s.seeLoss m port = s.lossSeen m port ∨
    s.seeLoss m port = (s.lossSeen m port).raisePresent (m.data / 64 % 16, m.data % 64) := by
  have heq : s.seeLoss m port = if !(s.enterSb m).2 then s.lossSeen m port
      else if ((m.data / 64 % 16, m.data % 64) = (s.lossSeen m port).self ∧ (s.lossSeen m port).fld GLB_STATE_STATE ≠ 2) ∨
        (s.lossSeen m port).livePort (m.data / 64 % 16, m.data % 64)
      then (s.lossSeen m port).raisePresent (m.data / 64 % 16, m.data % 64) else s.lossSeen m port := rfl
  rw [heq]
  split
  · exact .inl rfl
  split
  · exact .inr rfl
  · exact .inl rfl

theorem State.lossSeen_notes (s : State) (m : SbMsg) (port : Option Nat) :
    (s.lossSeen m port).lossNoted (m.data / 64 % 16, m.data % 64) (nearestMile s.mileNow m.mile) := by
  have hmile : (s.enterSb m).1.mileNow = s.mileNow := congrArg (· / 320)
    (State.enterSb_leaves (fun s => s.tb.rod) (fun _ _ _ => rfl) s m)
  rw [← hmile]
  exact State.recordLoss_notes ..

theorem State.mem_seen_lossSeen (s : State) {m : SbMsg} (hkind : m.kind ≠ 2) (port : Option Nat) :
    m ∈ (s.lossSeen m port).fab.seen := by
  unfold State.lossSeen
  rw [State.recordLoss_seen]
  exact s.mem_seen_enterSb hkind (.inl rfl)

theorem State.seeLoss_notes (s : State) (m : SbMsg) (port : Option Nat) :
    (s.seeLoss m port).lossNoted (m.data / 64 % 16, m.data % 64) (nearestMile s.mileNow m.mile) := by
  obtain h | h := s.seeLoss_cases m port
  · exact h ▸ s.lossSeen_notes m port
  · exact h ▸ (s.lossSeen_notes m port).seePresent _

theorem State.mem_seen_seeLoss (s : State) {m : SbMsg} (hkind : m.kind ≠ 2) (port : Option Nat) :
    m ∈ (s.seeLoss m port).fab.seen := by
  obtain h | h := s.seeLoss_cases m port
  · exact h ▸ s.mem_seen_lossSeen hkind port
  · exact h ▸ State.mem_seen_seePresent _ (by decide : (5 : Nat) ≠ 2) (.inr (s.mem_seen_lossSeen hkind port))

theorem LossLeaves.seeLoss {β : Type} {part : State → β} (h : LossLeaves part) (s : State) (m : SbMsg) (port : Option Nat) :
    part (s.seeLoss m port) = part s := by
  have hseen : part (s.lossSeen m port) = part s := by
    unfold State.lossSeen State.recordLoss
    split <;> exact (h.losses _ _).trans (h.toTableLeaves.enterSb s m)
  obtain heq | heq := s.seeLoss_cases m port
  · exact heq ▸ hseen
  · exact heq ▸ (h.seePresent _ _).trans hseen

/-- A field of a link. -/
theorem LossLeaves.lnk (p : LaneId) {g : Fld} (hg : g.ofLink = true) : LossLeaves (State.lnk · p g) where
  reg u f v hf := by
    have hoff : ∀ a ∈ [FAB_SB_SEEN_COUNT.addr, FAB_SB_DROP_COUNT.addr, FAB_SB_QUEUE_DEPTH.addr], offLinks a = true := by decide
    exact u.lnk_put p f g v hg (hoff _ hf)
  tables _ _ _ _ := rfl
  losses _ _ := rfl
  adm u := u.lnk_reAdmit p g hg

/-- A port. -/
theorem LossLeaves.port (p : Nat) : LossLeaves (State.port · p) where
  reg u f v _ := u.port_put f v p
  tables _ _ _ _ := rfl
  losses _ _ := rfl
  adm u := u.port_reAdmit p

/-! ### SB_HEAT, SB_LOSS and SB_PRESENT -/

theorem exec_sbHeat {s : State} {m : SbMsg} (h : m.kind = 1) : exec (.sbHeat m) s = .next (s.enterSb m).1 :=
  congrArg Host.Outcome.next (if_pos h)

theorem sidebandMessagesAreKept : SidebandMessagesAreKept := by
  refine fun s m => ⟨fun hkind hnew => ?_, fun hkind hseen => ?_, fun hkind hnew => ?_, fun hkind hnew => ?_⟩
  · have hheat : m.kind ≠ 2 := by omega
    refine ⟨_, exec_sbHeat hkind, s.mem_seen_enterSb hheat (.inl rfl), State.enterSb_counts hnew hheat, fun hother hstop => ?_,
      fun hrun => ?_⟩
    · exact State.enterSb_drops hnew ⟨hkind, hother, hstop⟩
    · exact State.enterSb_queues hnew hheat fun ⟨_, _, hstop⟩ => Bool.false_ne_true (hrun.symm.trans hstop)
  · rw [exec_sbHeat hkind, State.enterSb_of_seen hseen]
  · refine ⟨_, congrArg Host.Outcome.next (if_pos hkind), s.mem_seen_seeLoss (by omega) none, ?_⟩
    obtain ⟨l, hl, hgm, hmile⟩ := s.seeLoss_notes m none
    obtain ⟨hgroup, hmodule⟩ := Prod.mk.inj hgm
    exact ⟨l, hl, hgroup, hmodule, hmile⟩
  · refine ⟨_, congrArg Host.Outcome.next (if_pos hkind), s.mem_seen_seePresent (by omega) (.inl rfl),
      fun l hl hgroup hmodule hopen => ?_⟩
    rw [State.seePresent_of_new hnew] at hl
    exact State.present_of_noted hl (Prod.ext hgroup hmodule) hopen

end Sys2Proof.Machine
end

section
/-! The loss of a partner is detected (R255, R256): what the voided positions of a port leave, and what the port and the record of
losses show (O27). -/
namespace Sys2Proof.Machine

/-! ### The positions of a lost port are voided (R256) -/

/-- A part of the state that no voided position touches. -/
structure VoidLeaves {β : Type} (part : State → β) : Prop where
  count : ∀ (u : State) (v : Nat), part (u.put TB_VOID_CNT_COUNT v) = part u
  rest : ∀ (u : State) q a t w,
    part { u with rqt := q, att := a, sched := { u.sched with tokens := t }, fab := { u.fab with awaits := w } } = part u

section
variable {β : Type} {part : State → β} (h : VoidLeaves part)
include h

theorem VoidLeaves.setToken (u : State) (core tok : Nat) (t : Token) : part (u.setToken core tok t) = part u :=
  h.rest u u.rqt u.att _ u.fab.awaits

theorem VoidLeaves.voidOnce (u : State) (key : Option Nat) (rows : BitVec 32) : part (u.voidOnce key rows) = part u := by
  have hrows : ∀ k m, part (u.lateRows k m) = part u := fun k m =>
    (State.voidRows_leaves part (fun v q a => h.rest v q a v.sched.tokens v.fab.awaits) _ k m).trans (h.count u _)
  unfold State.voidOnce
  split
  · rfl
  split
  · rfl
  · exact ite_leaves rfl (hrows _ _)

theorem VoidLeaves.voidPort (s : State) (p : Nat) : part (s.voidPort p) = part s := by
  unfold State.voidPort
  extract_lets u lp slots v
  have hu : part u = part s := foldl_leaves part _ _ s fun x a => by
    refine ite_leaves rfl ?_
    split
    · exact h.voidOnce x _ _
    · exact ite_leaves rfl ((h.voidOnce _ _ _).trans (h.setToken x _ _ _))
  have hv : part v = part u := foldl_leaves part _ _ u fun x a => by
    refine ite_leaves rfl ?_
    split
    · rfl
    refine ite_leaves rfl ?_
    extract_lets y
    have hy : part y = part x := h.setToken x _ _ _
    split
    · exact ite_leaves ((h.voidOnce y _ _).trans hy) hy
    · exact hy
  exact (h.rest v v.rqt v.att v.sched.tokens _).trans (hv.trans hu)

end

theorem VoidLeaves.lnk (p : LaneId) {g : Fld} (hg : g.ofLink = true) : VoidLeaves (State.lnk · p g) where
  count u v := u.lnk_put p TB_VOID_CNT_COUNT g v hg (by decide)
  rest _ _ _ _ _ := rfl

theorem VoidLeaves.port (p : Nat) : VoidLeaves (State.port · p) := ⟨fun u v => u.port_put _ v p, fun _ _ _ _ _ => rfl⟩

/-! ### The loss of a partner (R255, R256, R422) -/

/-- A port whose partner is lost: it is down, and its routes are held. -/
def State.portLost (s : State) (p : Nat) : State :=
  ((((s.putLnk p LNK_STAT_STATE 0).putLnk p LNK_STAT_LOST 1).putLnk p LNK_FLAG_LOSS 1).updPort p
    (fun (x : Port) => { x with held := true })).settle

/-- The message that a detected loss raises. -/
def State.lossMsg (s : State) (gm : Nat × Nat) : SbMsg := ⟨4, s.self.1, s.self.2, s.datedMile % 65536, gm.1 * 64 + gm.2⟩

/-- The loss of the partner, detected and not contained. -/
def State.partnerLost (s : State) (p : Nat) : State :=
  ((s.voidPort p).portLost p).seeLoss (((s.voidPort p).portLost p).lossMsg ((s.voidPort p).partnerOf p)) (some p)

theorem State.detectLoss_cases (s : State) (p : Nat) (injected : Bool) :
    s.detectLoss p injected = s ∨ s.detectLoss p injected = (s.voidPort p).put INJ_STAT_CONTAINED 1 ∨
      s.detectLoss p injected = s.partnerLost p := by
  unfold State.detectLoss
  split
  · exact .inl rfl
  · exact .inr (ite_eq_or_eq _ _ _)

theorem State.detectLoss_of_active {s : State} {p : Nat} (hactive : s.portActive p = true) :
    s.detectLoss p false = s.partnerLost p := by
  have hloss : s.detectLoss p false =
      if (s.voidPort p).contained false then (s.voidPort p).put INJ_STAT_CONTAINED 1 else s.partnerLost p :=
    if_neg (by simp [hactive])
  rw [hloss]
  exact if_neg (by simp [State.contained])

/-- A field of the link that a loss does not write. -/
theorem State.lnk_partnerLost_other (s : State) (p : LaneId) (g : Fld) (hg : g.ofLink = true)
    (hword : g.addr ≠ LNK_STAT_STATE.addr ∧ g.addr ≠ LNK_FLAG_LOSS.addr) : (s.partnerLost p).lnk p g = s.lnk p g := by
  obtain ⟨hstat, hflag⟩ := hword
  refine ((LossLeaves.lnk p hg).seeLoss _ _ _).trans (Eq.trans ?_ ((VoidLeaves.lnk p hg).voidPort s p))
  unfold State.portLost
  rw [State.lnk_settle, State.lnk_updPort, State.lnk_putLnk_other _ _ _ _ _ (Fld.misses_of_addr hflag),
    State.lnk_putLnk_other _ _ _ _ _ (Fld.misses_of_addr (f := LNK_STAT_LOST) hstat),
    State.lnk_putLnk_other _ _ _ _ _ (Fld.misses_of_addr hstat)]

theorem State.portLost_lnk (s : State) (p : Nat) : (s.portLost p).lnk p LNK_STAT_STATE = 0 ∧
    (s.portLost p).lnk p LNK_STAT_LOST = 1 ∧ (s.portLost p).lnk p LNK_FLAG_LOSS = 1 := by
  unfold State.portLost
  simp (disch := decide)

theorem State.partnerLost_lnk (s : State) (p : LaneId) : (s.partnerLost p).lnk p LNK_STAT_STATE = 0 ∧
    (s.partnerLost p).lnk p LNK_STAT_LOST = 1 ∧ (s.partnerLost p).lnk p LNK_FLAG_LOSS = 1 := by
  obtain ⟨hstate, hlost, hflag⟩ := (s.voidPort p).portLost_lnk p
  have hkept : ∀ g : Fld, g.ofLink = true → (s.partnerLost p).lnk p g = ((s.voidPort p).portLost p).lnk p g := fun g hg =>
    (LossLeaves.lnk p hg).seeLoss _ _ _
  exact ⟨(hkept _ (by decide)).trans hstate, (hkept _ (by decide)).trans hlost, (hkept _ (by decide)).trans hflag⟩

theorem State.partnerLost_port (s : State) (p : Nat) : (s.partnerLost p).port p = { s.port p with held := true } := by
  refine ((LossLeaves.port p).seeLoss _ _ _).trans ?_
  unfold State.portLost
  rw [State.port_settle, State.port_updPort, State.port_putLnk, State.port_putLnk, State.port_putLnk,
    (VoidLeaves.port p).voidPort s p]

/-- The loss of the partner enters the record. -/
theorem State.partnerLost_noted (s : State) (p : LaneId) : ∃ l ∈ (s.partnerLost p).fab.losses, (l.group, l.module) = s.partnerOf p := by
  have hfield : ∀ g : Fld, g.ofLink = true → (s.voidPort p).lnk p g = s.lnk p g := fun g hg => (VoidLeaves.lnk p hg).voidPort s p
  have hpartner : (s.voidPort p).partnerOf p = s.partnerOf p :=
    Prod.ext (hfield _ (by decide)) (hfield _ (by decide))
  have hgroup : (s.partnerOf p).1 < 16 := s.lnk_lt p LNK_PARTNER_GROUP
  have hmodule : (s.partnerOf p).2 < 64 := s.lnk_lt p LNK_PARTNER_MODULE
  obtain ⟨l, hl, hgm, -⟩ := ((s.voidPort p).portLost p).seeLoss_notes
    (((s.voidPort p).portLost p).lossMsg ((s.voidPort p).partnerOf p)) (some p)
  refine ⟨l, hl, hgm.trans ?_⟩
  simp only [State.lossMsg, hpartner]
  exact Prod.ext (by dsimp only; omega) (by dsimp only; omega)

/-! ### LANE_SIGNAL_LOSS -/

theorem exec_laneSignalLoss_of_active {s : State} {p : LaneId} (h : s.portActive p = true) :
    exec (.laneSignalLoss p) s = .next (s.partnerLost p) :=
  (congrArg Host.Outcome.next (if_pos h)).trans (congrArg Host.Outcome.next (State.detectLoss_of_active h))

theorem exec_laneSignalLoss_of_training {s : State} {p : LaneId} (hactive : s.portActive p = false)
    (hstate : s.lnk p LNK_STAT_STATE ≠ 0) : exec (.laneSignalLoss p) s = .next (s.failTraining p).advanceStart :=
  congrArg Host.Outcome.next ((if_neg (by simp [hactive])).trans (if_neg hstate))

/-! ### HEARTBEAT_SLOT_MISS (R255) -/

/-- A missed slot is counted. -/
def State.missCounted (s : State) (p : Nat) : State :=
  (s.addLnk p LNK_HB_MISS_COUNT 1).setPort p { s.port p with hbMiss := (s.port p).hbMiss + 1 }

theorem exec_heartbeatSlotMiss_of_none {s : State} {p : LaneId} (hactive : s.portActive p = true) (hnone : (s.port p).hbRod = none) :
    exec (.heartbeatSlotMiss p) s = .next (if 3 ≤ (s.port p).hbMiss + 1 then (s.missCounted p).detectLoss p (s.port p).hbInj
      else s.missCounted p) :=
  congrArg Host.Outcome.next (if_neg (by simp [hactive, hnone]))

theorem exec_heartbeatSlotMiss_of_came {s : State} {p : LaneId} (hvalid : s.isSet TB_STAT_COUNT_VALID = true)
    (hcame : (s.port p).hbRod = some ((s.tb.rod + rodP - 2) % rodP)) : exec (.heartbeatSlotMiss p) s = .next s :=
  congrArg Host.Outcome.next (if_pos (by simp [hvalid, hcame]))

theorem State.missCounted_shows (s : State) (p : Nat) : ((s.missCounted p).port p).hbMiss = (s.port p).hbMiss + 1 ∧
    (s.missCounted p).lnk p LNK_HB_MISS_COUNT = min (s.lnk p LNK_HB_MISS_COUNT + 1) LNK_HB_MISS_COUNT.top ∧
    (s.missCounted p).lnk p LNK_STAT_STATE = s.lnk p LNK_STAT_STATE := by
  unfold State.missCounted
  simp (disch := decide)

/-- A detected loss, contained or not, leaves the counts of missed slots. -/
theorem State.detectLoss_misses (s : State) (p : LaneId) (injected : Bool) :
    ((s.detectLoss p injected).port p).hbMiss = (s.port p).hbMiss ∧
      (s.detectLoss p injected).lnk p LNK_HB_MISS_COUNT = s.lnk p LNK_HB_MISS_COUNT := by
  obtain h | h | h := s.detectLoss_cases p injected
  · rw [h]
    exact ⟨rfl, rfl⟩
  · rw [h, State.port_put, State.lnk_put _ _ _ _ _ (by decide) (by decide), (VoidLeaves.port p).voidPort s p,
      (VoidLeaves.lnk p (g := LNK_HB_MISS_COUNT) (by decide)).voidPort s p]
    exact ⟨rfl, rfl⟩
  · rw [h, State.partnerLost_port, s.lnk_partnerLost_other p LNK_HB_MISS_COUNT (by decide) (by decide)]
    exact ⟨rfl, rfl⟩

theorem lostPartnersAreDetected : LostPartnersAreDetected := by
  refine fun s p => ⟨fun hactive => ?_, fun hidle hstate => ?_, fun hactive hnone => ?_, fun hvalid hcame =>
    exec_heartbeatSlotMiss_of_came hvalid hcame⟩
  · obtain ⟨hstate, hlost, hflag⟩ := s.partnerLost_lnk p
    refine ⟨_, exec_laneSignalLoss_of_active hactive, hstate, hlost, hflag, ?_, s.partnerLost_noted p⟩
    rw [State.partnerLost_port]
  · obtain ⟨hdown, hfailed, -⟩ := s.failTraining_shows p
    refine ⟨_, exec_laneSignalLoss_of_training hidle hstate, ?_, ?_⟩
    · rw [State.lnk_advanceStart _ _ _ (by decide), hdown]
    · rw [State.port_advanceStart, hfailed]
  · obtain ⟨hmiss, hcount, hstate⟩ := s.missCounted_shows p
    have hup : s.lnk p LNK_STAT_STATE = 7 := of_decide_eq_true hactive
    have hstill : (s.missCounted p).portActive p = true := decide_eq_true (hstate.trans hup)
    refine ⟨_, exec_heartbeatSlotMiss_of_none hactive hnone, ?_⟩
    split
    next hthird =>
      obtain ⟨hmiss', hcount'⟩ := (s.missCounted p).detectLoss_misses p (s.port p).hbInj
      refine ⟨hmiss'.trans hmiss, hcount'.trans hcount, fun _ hinj => ?_, fun hfew => absurd hthird (by omega)⟩
      obtain ⟨hdown, -, hflag⟩ := (s.missCounted p).partnerLost_lnk p
      rw [hinj, State.detectLoss_of_active hstill]
      exact ⟨hdown, hflag⟩
    next hfew => exact ⟨hmiss, hcount, fun hmany => absurd hmany (by omega), fun _ => hstate.trans hup⟩

/-- Settles O27: a message is told by its entry in the table, and a lost partner by the port, the record and the counts it leaves. -/
theorem sidebandAndDetection : Obligations.SidebandAndDetection := ⟨sidebandMessagesAreKept, lostPartnersAreDetected⟩

end Sys2Proof.Machine
end

section
/-! Losses are confirmed and closed (R257, R258, R293, R310), ports are trained anew (R253), and the coordinates are stored (R254):
O28. -/
namespace Sys2Proof.Machine

/-! ### The requests that a lost role ends (R293, R310) -/

/-- The loss of a role's pages completes requests, and changes nothing else. -/
theorem DrainLeaves.kvLost {β : Type} {part : State → β} (h : DrainLeaves part) (s : State) (gm : Nat × Nat) :
    part (s.kvLost gm) = part s :=
  ite_leaves (foldl_leaves part _ _ s fun u k => ite_leaves (h.drain u k 0x21) rfl) rfl

theorem DrainLeaves.endRingsOf {β : Type} {part : State → β} (h : DrainLeaves part)
    (hatt : ∀ (u : State) a, part { u with att := a } = part u) (s : State) (gm : Nat × Nat) :
    part (s.endRingsOf gm) = part s := by
  refine foldl_leaves part _ _ s fun u x => ?_
  split
  · exact ite_leaves ((h.drain _ _ _).trans (hatt u _)) rfl
  · rfl

/-! ### An admission that becomes due (R211) -/

theorem State.fld_reAdmit (s : State) (g : Fld) (hg : g.addr ≠ TB_ADM_STAT_STATE.addr) : s.reAdmit.fld g = s.fld g :=
  congrArg (getBits · g.hi g.lo) (s.reAdmit_regs g.addr fun h => hg (List.mem_singleton.mp h))

/-! ### LOSS_CONFIRMATION and LOSS_DISABLE_TIMEOUT (R257, R258) -/

/-- A loss of the module that is due for confirmation: open, without a PRESENT, and its mile has ended. -/
def State.confirmable (s : State) (g m : Nat) (l : Loss) : Bool :=
  decide (l.group = g) && decide (l.module = m) && l.confirmed.isNone && !l.present &&
    decide ((s.mileNow + mileP - l.mile) % mileP ≠ 0) && decide ((s.mileNow + mileP - l.mile) % mileP ≤ mileP / 2)

/-- The losses of the module that are due are confirmed in this mile. -/
def State.confirmLosses (s : State) (g m : Nat) : State :=
  { s.add FAB_LOSS_CNT_COUNT 1 with fab := { s.fab with losses := s.fab.losses.map (fun l =>
      if s.confirmable g m l then { l with confirmed := some s.mileNow, closed := !s.hasStandbyFor (g, m) } else l) } }

theorem exec_lossConfirmation {s : State} {g m : Nat} (h : s.fab.losses.any (s.confirmable g m) = true) :
    exec (.lossConfirmation g m) s = .next (if s.hasStandbyFor (g, m) then s.confirmLosses g m
      else ((s.confirmLosses g m).kvLost (((s.confirmLosses g m).roleOf (g, m)).getD (g, m))).reAdmit) :=
  congrArg Host.Outcome.next (if_pos h)

/-- A confirmed loss of the module that is open two miles later, with no takeover. -/
def State.closable (s : State) (g m : Nat) (l : Loss) : Bool :=
  decide (l.group = g) && decide (l.module = m) && !l.closed &&
    (match l.confirmed with
     | some c => decide (2 ≤ (s.mileNow + mileP - c) % mileP)
     | none => false) &&
    !s.fab.takeovers.any (fun t => decide (t.1 = g) && decide (t.2.1 = m))

/-- The losses of the module that are due are closed. -/
def State.closeLosses (s : State) (g m : Nat) : State :=
  { s with fab := { s.fab with losses := s.fab.losses.map (fun l => if s.closable g m l then { l with closed := true } else l) } }

theorem exec_lossDisableTimeout {s : State} {g m : Nat} (h : s.fab.losses.any (s.closable g m) = true) :
    exec (.lossDisableTimeout g m) s =
      .next (((s.closeLosses g m).kvLost (((s.closeLosses g m).roleOf (g, m)).getD (g, m))).endRingsOf
        (((s.closeLosses g m).roleOf (g, m)).getD (g, m))).reAdmit :=
  congrArg Host.Outcome.next (if_pos h)

theorem State.confirmable_iff (s : State) (g m : Nat) (l : Loss) : s.confirmable g m l = true ↔
    l.group = g ∧ l.module = m ∧ l.confirmed = none ∧ l.present = false ∧ (s.mileNow + mileP - l.mile) % mileP ≠ 0 ∧
      (s.mileNow + mileP - l.mile) % mileP ≤ mileP / 2 := by
  simp [State.confirmable, and_assoc]

theorem State.closable_of_open {s : State} {g m c : Nat} {l : Loss} (hgroup : l.group = g) (hmodule : l.module = m)
    (hopen : l.closed = false) (hconf : l.confirmed = some c) (hlate : 2 ≤ (s.mileNow + mileP - c) % mileP)
    (hnone : ∀ x ∈ s.fab.takeovers, ¬(x.1 = g ∧ x.2.1 = m)) : s.closable g m l = true := by
  have htake : s.fab.takeovers.any (fun t => decide (t.1 = g) && decide (t.2.1 = m)) = false :=
    List.any_eq_false.mpr fun x hx h => hnone x hx (by simpa using h)
  unfold State.closable
  rw [hconf, htake]
  simp [hgroup, hmodule, hopen, hlate]

theorem DrainLeaves.fab : DrainLeaves State.fab := .of_regs fun _ _ _ _ => rfl

theorem lossesAreConfirmedAndClosed : LossesAreConfirmedAndClosed := by
  refine fun s g m l hl hgroup hmodule => ⟨fun hopen hpresent hended hhalf => ?_, fun c hopen hconf hlate hnone hstep => ?_⟩
  · have hdue := (s.confirmable_iff g m l).mpr ⟨hgroup, hmodule, hopen, hpresent, hended, hhalf⟩
    have hcount : (s.confirmLosses g m).fld FAB_LOSS_CNT_COUNT = min (s.fld FAB_LOSS_CNT_COUNT + 1) FAB_LOSS_CNT_COUNT.top :=
      s.fld_add_same FAB_LOSS_CNT_COUNT 1 (by decide)
    have hloss : ∃ l' ∈ (s.confirmLosses g m).fab.losses,
        l'.group = g ∧ l'.module = m ∧ l'.mile = l.mile ∧ l'.confirmed = some s.mileNow :=
      ⟨{ l with confirmed := some s.mileNow, closed := !s.hasStandbyFor (g, m) },
        List.mem_map.mpr ⟨l, hl, if_pos hdue⟩, hgroup, hmodule, rfl, rfl⟩
    refine ⟨_, exec_lossConfirmation (List.any_eq_true.mpr ⟨l, hl, hdue⟩), ?_⟩
    split
    · exact ⟨hcount, hloss⟩
    · rw [State.fld_reAdmit _ _ (by decide), State.reAdmit_fab, DrainLeaves.fab.kvLost,
        (DrainLeaves.fld (g := FAB_LOSS_CNT_COUNT) (by decide)).kvLost]
      exact ⟨hcount, hloss⟩
  · have hdue := State.closable_of_open hgroup hmodule hopen hconf hlate hnone
    have hfield : DrainLeaves (State.fld · GLB_STATE_STEP) := .fld (by decide)
    refine ⟨_, exec_lossDisableTimeout (List.any_eq_true.mpr ⟨l, hl, hdue⟩), State.reAdmit_due ?_, ?_⟩
    · rw [hfield.endRingsOf (fun _ _ => rfl), hfield.kvLost]
      exact hstep
    · rw [State.reAdmit_fab, DrainLeaves.fab.endRingsOf (fun _ _ => rfl), DrainLeaves.fab.kvLost]
      exact ⟨{ l with closed := true }, List.mem_map.mpr ⟨l, hl, if_pos hdue⟩, hgroup, hmodule, rfl, rfl⟩

/-! ### LNK_RETRAIN (R253, R261) -/

/-- A change of DISABLE enters the capability record. -/
def State.noteDisable (s u : State) (p : Nat) : State :=
  if u.isSetAt (lnkI p) LNK_CTRL_DISABLE ≠ s.isSetAt (lnkI p) LNK_CTRL_DISABLE then u.reAdmit.advanceStart else u

theorem exec_lnkRetrain {s : State} {p : LaneId} {w : Wr} {r : RegDef} (hr : regAt (LNK_CTRL_RETRAIN.addr + lnkI p) = some r)
    (hreach : writeReaches s w (LNK_CTRL_RETRAIN.addr + lnkI p) r = true) (hact : wbits w.data LNK_CTRL_RETRAIN = 1) :
    exec (.lnkRetrain p w) s = .next ((s.noteDisable (s.storeReg w (LNK_CTRL_RETRAIN.addr + lnkI p) r) p).updPort p
      fun x => { x with retrain := true }) := by
  have hwide : LNK_CTRL_RETRAIN.addr + lnkI p ≠ WIDE_SEL_ADDR.addr := link_addr_ne p (by decide) (by decide)
  show execLnkRetrain p w s = _
  unfold execLnkRetrain
  extract_lets q old
  rw [State.write_of_reaches hr hreach hwide]
  exact congrArg Host.Outcome.next (if_pos (decide_eq_true hact))

/-- A write of LNK_CTRL leaves the link's other registers. -/
theorem State.lnk_storeCtrl (s : State) (p : LaneId) (w : Wr) (r : RegDef) (g : Fld) (hg : g.ofLink = true)
    (hword : g.addr ≠ LNK_CTRL_RETRAIN.addr) : (s.storeReg w (LNK_CTRL_RETRAIN.addr + lnkI p) r).lnk p g = s.lnk p g := by
  have hstore := TouchesOnly.storeReg (as := (LNK_CTRL_RETRAIN.addr + lnkI p) :: writeBooks) s w r
    (List.subset_cons_self _ _) List.mem_cons_self
  refine State.lnk_of_rd (hstore.regs _ fun h => ?_)
  obtain h | h := List.mem_cons.mp h
  · exact hword (Nat.add_right_cancel h)
  · exact link_addr_notMem p hg (by decide) h

/-! ### MC_COORDINATES (R254) -/

/-- The coordinates in FAB_COORD, with the mark of a difference. -/
def State.putCoords (s : State) (rack group slot : Nat) (bad : Bool) : State :=
  ((((s.put FAB_COORD_VALID 1).put FAB_COORD_RACK rack).put FAB_COORD_GROUP group).put FAB_COORD_SLOT slot).flag FAB_COORD_MISMATCH bad

theorem exec_mcCoordinates {s : State} (h : s.mgmtUp = true) (rack : BitVec 8) (group : BitVec 4) (slot : BitVec 6) :
    ∃ bad : Bool, bad = decide ((rack.toNat, group.toNat, slot.toNat) ≠ s.boot.image.coords) ∧
      ∃ t, exec (.mcCoordinates rack group slot) s = .next t ∧
        t.regs = (s.putCoords rack.toNat group.toNat slot.toNat bad).regs := by
  refine ⟨_, rfl, _, if_neg (by simp [h]), ?_⟩
  exact ite_leaves (part := State.regs) rfl rfl

theorem State.putCoords_shows (s : State) {rack group slot : Nat} (bad : Bool) (hrack : rack < 256) (hgroup : group < 16)
    (hslot : slot < 64) :
    (s.putCoords rack group slot bad).fld FAB_COORD_VALID = 1 ∧ (s.putCoords rack group slot bad).fld FAB_COORD_RACK = rack ∧
      (s.putCoords rack group slot bad).fld FAB_COORD_GROUP = group ∧ (s.putCoords rack group slot bad).fld FAB_COORD_SLOT = slot ∧
      (s.putCoords rack group slot bad).isSet FAB_COORD_MISMATCH = bad := by
  refine ⟨?_, ?_, ?_, ?_, State.isSet_flag _ _ bad (by unfold Fld.inWord; decide)⟩
  all_goals
    unfold State.putCoords
    simp (disch := decide) only [State.fld_flag_other, State.fld_put_other, State.fld_put_same]
  · decide
  · exact Nat.mod_eq_of_lt hrack
  · exact Nat.mod_eq_of_lt hgroup
  · exact Nat.mod_eq_of_lt hslot

theorem State.putCoords_regs (s : State) (rack group slot : Nat) (bad : Bool) :
    regsKept s (s.putCoords rack group slot bad) [FAB_COORD_VALID.addr] := by
  intro a ha
  have hne : a ≠ FAB_COORD_VALID.addr := fun e => ha (List.mem_singleton.mpr e)
  unfold State.putCoords State.flag State.flagAt
  rw [State.rd_putAt_ne _ 0 FAB_COORD_MISMATCH _ _ hne, State.rd_put_ne _ FAB_COORD_SLOT _ _ hne,
    State.rd_put_ne _ FAB_COORD_GROUP _ _ hne, State.rd_put_ne _ FAB_COORD_RACK _ _ hne, State.rd_put_ne _ FAB_COORD_VALID _ _ hne]

theorem retrainAndCoordinates : RetrainAndCoordinates := by
  refine fun s => ⟨fun p w r hr hreach hact => ?_, fun rack group slot hup => ?_⟩
  · refine ⟨_, exec_lnkRetrain hr hreach hact, ?_, ?_⟩
    · rw [State.port_updPort]
    · have hstore := s.lnk_storeCtrl p w r LNK_STAT_STATE (by decide) (by decide)
      have hnote : ∀ u : State, (s.noteDisable u p).lnk p LNK_STAT_STATE = u.lnk p LNK_STAT_STATE := fun u =>
        ite_leaves (part := (State.lnk · p LNK_STAT_STATE))
          ((u.reAdmit.lnk_advanceStart p _ (by decide)).trans (u.lnk_reAdmit p _ (by decide))) rfl
      rw [State.lnk_updPort, hnote, hstore]
  · obtain ⟨bad, hbad, t, hexec, hregs⟩ := exec_mcCoordinates hup rack group slot
    have hfld : ∀ f, t.fld f = (s.putCoords rack.toNat group.toNat slot.toNat bad).fld f := fun f => State.fldAt_of_regs hregs 0 f
    obtain ⟨hvalid, hrack, hgroup, hslot, hmismatch⟩ := s.putCoords_shows bad rack.isLt group.isLt slot.isLt
    refine ⟨t, hexec, (hfld _).trans hvalid, (hfld _).trans hrack, (hfld _).trans hgroup, (hfld _).trans hslot, ?_,
      (s.putCoords_regs _ _ _ _).of_regs hregs⟩
    rw [← hbad, ← hmismatch]
    exact congrArg (decide <| · = 1) (hfld FAB_COORD_MISMATCH)

/-- Settles O28: due losses are marked in the record and end the requests they cost; LNK_CTRL and FAB_COORD take what is written. -/
theorem lossesAndRetraining : Obligations.LossesAndRetraining := ⟨lossesAreConfirmedAndClosed, retrainAndCoordinates⟩

end Sys2Proof.Machine
end

section
/-! Flips are named (R244, R360, R361): by a message of the sideband, by the management controller and by a write of LD_FLIP (O41). -/
namespace Sys2Proof.Machine

/-! ### The epochs shown -/

/-- The epochs shown are registers alone. -/
theorem State.showEpochs_leaves {β : Type} (part : State → β) (h : ∀ s r, part { s with regs := r } = part s) (s : State) :
    part s.showEpochs = part s := by
  unfold State.showEpochs
  extract_lets pend u v
  have hu : part u = part s := (h _ _).trans (h s _)
  have hv : part v = part s := (ite_leaves rfl (h u _)).trans hu
  exact ((h _ _).trans (h v _)).trans hv

theorem State.showEpochs_pending {s : State} (h : s.weights.flip.isSome = true) :
    s.showEpochs.fld LD_FLIP_STAT_PENDING = 1 := by
  unfold State.showEpochs
  extract_lets pend u v
  have hv : v.weights = s.weights := ite_leaves (part := State.weights) rfl rfl
  rw [State.fld_flag_other _ _ _ _ (by decide), hv, h, Bool.true_or]
  exact (State.fld_put_same _ _ _ (by decide)).trans (by decide)

/-! ### An EPOCH message (R244, R361) -/

theorem State.seeEpoch_of_seen {s : State} {m : SbMsg} (h : m ∈ s.fab.seen) : s.seeEpoch m = s := by
  unfold State.seeEpoch
  rw [State.enterSb_of_seen h]
  rfl

/-- A new message is ignored while PREV tiers exist. -/
theorem State.seeEpoch_of_prev {s : State} {m : SbMsg} (hnew : m ∉ s.fab.seen) (hprev : s.prevHeld = true) :
    (s.seeEpoch m).weights = { s.weights with ignored := s.weights.ignored + 1 } := by
  have hentered := State.enterSb_new hnew
  have hweights := s.enterSb_leaves State.weights (fun _ _ _ => rfl) m
  unfold State.seeEpoch
  generalize s.enterSb m = q at hentered hweights ⊢
  obtain ⟨u, new⟩ := q
  cases hentered
  dsimp only at hweights ⊢
  rw [if_neg (by decide), if_pos hprev, ← hweights]

/-- The flip of a message, for the second mile after the message's. -/
def State.flipOf (s : State) (m : SbMsg) : Nat × Nat := ((nearestMile s.mileNow m.mile + 2) % mileP, m.data)

/-- A new message names the flip where none is named. -/
theorem State.seeEpoch_names {s : State} {m : SbMsg} (hnew : m ∉ s.fab.seen) (hprev : s.prevHeld = false)
    (hnone : s.weights.flip = none) : (s.seeEpoch m).weights.flip = some (s.flipOf m) ∧
      (s.seeEpoch m).fld LD_FLIP_STAT_PENDING = 1 ∧ (s.seeEpoch m).tiers = s.tiers := by
  have hentered := State.enterSb_new hnew
  have htiers := s.enterSb_leaves State.tiers (fun _ _ _ => rfl) m
  unfold State.seeEpoch
  generalize s.enterSb m = q at hentered htiers ⊢
  obtain ⟨u, new⟩ := q
  cases hentered
  dsimp only at htiers ⊢
  rw [if_neg (by decide), if_neg (by simp [hprev]), if_neg (by simp [hnone])]
  exact ⟨congrArg Weights.flip (State.showEpochs_leaves State.weights (fun _ _ => rfl) _), State.showEpochs_pending rfl,
    (State.showEpochs_leaves State.tiers (fun _ _ => rfl) _).trans htiers⟩

/-! ### A flip is named here (R360, R361) -/

theorem State.nameFlip_of_prev {s : State} (h : s.prevHeld = true) (epoch : Nat) :
    (s.nameFlip epoch).fld LD_FLIP_STAT_REFUSED = 1 ∧ (s.nameFlip epoch).weights = s.weights := by
  unfold State.nameFlip
  rw [if_pos h]
  exact ⟨(s.fld_put_same LD_FLIP_STAT_REFUSED 1 (by decide)).trans (by decide), rfl⟩

/-- The flip that this module names to the pending epoch. -/
def State.ownFlip (s : State) : Nat × Nat :=
  ((nearestMile s.mileNow (s.datedMile % 65536) + 2) % mileP, s.fld LD_EPOCH_PEND_EPOCH)

theorem State.nameFlip_names {s : State} (h : flipNamable s) :
    (s.nameFlip (s.fld LD_EPOCH_PEND_EPOCH)).weights.flip = some s.ownFlip ∧
      (s.nameFlip (s.fld LD_EPOCH_PEND_EPOCH)).fld LD_FLIP_STAT_PENDING = 1 ∧
      (s.nameFlip (s.fld LD_EPOCH_PEND_EPOCH)).tiers = s.tiers := by
  obtain ⟨hprev, hnone, hpend, hnew⟩ := h
  unfold State.nameFlip
  rw [if_neg (by simp [hprev]), if_neg hpend]
  exact State.seeEpoch_names hnew hprev hnone

theorem exec_mcNameFlip {s : State} (h : s.mgmtUp = true) :
    exec .mcNameFlip s = .next (s.nameFlip (s.fld LD_EPOCH_PEND_EPOCH)) := congrArg Host.Outcome.next (if_pos h)

/-! ### A write of LD_FLIP -/

/-- A write of LD_FLIP that reaches its register leaves what the naming of a flip rests on. -/
theorem exec_ldFlipReq {s : State} {w : Wr} {r : RegDef} (hr : regAt LD_FLIP_REQ.addr = some r)
    (hreach : writeReaches s w LD_FLIP_REQ.addr r = true) (hact : wbits w.data LD_FLIP_REQ = 1) :
    ∃ u, exec (.ldFlipReq w) s = .next (u.nameFlip (u.fld LD_EPOCH_PEND_EPOCH)) ∧
      TouchesOnly (LD_FLIP_REQ.addr :: writeBooks) s u := by
  refine ⟨s.storeReg w LD_FLIP_REQ.addr r, ?_, .storeReg s w r (List.subset_cons_self _ _) List.mem_cons_self⟩
  show execLdFlipReq w s = _
  unfold execLdFlipReq
  rw [show (0x400830 : Nat) = LD_FLIP_REQ.addr from rfl, State.write_of_reaches hr hreach (by decide)]
  exact congrArg Host.Outcome.next (if_pos (decide_eq_true hact))

section
variable {s u : State} (h : TouchesOnly (LD_FLIP_REQ.addr :: writeBooks) s u)
include h

theorem TouchesOnly.flip_fields : u.tb = s.tb ∧ u.tiers = s.tiers ∧ u.weights = s.weights ∧ u.fab = s.fab := by
  rw [h.rest]
  exact ⟨rfl, rfl, rfl, rfl⟩

theorem TouchesOnly.prevHeld : u.prevHeld = s.prevHeld := by
  obtain ⟨-, htiers, -, -⟩ := h.flip_fields
  unfold State.prevHeld
  rw [htiers]

theorem TouchesOnly.ownFlip : u.ownFlip = s.ownFlip := by
  obtain ⟨htb, -, -, -⟩ := h.flip_fields
  unfold State.ownFlip State.datedMile State.mileNow
  rw [htb, h.fld (by decide)]

theorem TouchesOnly.flipNamable (hs : flipNamable s) : flipNamable u := by
  obtain ⟨htb, -, hweights, hfab⟩ := h.flip_fields
  obtain ⟨hprev, hnone, hpend, hnew⟩ := hs
  refine ⟨h.prevHeld.trans hprev, hweights ▸ hnone, ?_, ?_⟩
  · rwa [h.fld (by decide)]
  · have hself : u.self = s.self := Prod.ext (h.fld (by decide)) (h.fld (by decide))
    have hdated : u.datedMile = s.datedMile := by
      unfold State.datedMile State.mileNow
      rw [htb]
    rwa [hself, hdated, h.fld (by decide), hfab]

end

/-! ### The obligation -/

/-- Settles O41: every naming ends in the message that carries it, and a new message names the flip where no PREV tier is held. -/
theorem flipsAreNamedForTheirMile : Obligations.FlipsAreNamedForTheirMile := by
  refine fun s => ⟨fun m hkind => ⟨fun hseen => ?_, fun hnew hprev => ?_, fun hnew hprev hnone => ?_⟩, fun hup hprev => ?_,
    fun hup hname => ?_, fun w r hr hreach hact => ?_⟩
  · exact congrArg Host.Outcome.next ((if_pos hkind).trans (State.seeEpoch_of_seen hseen))
  · exact ⟨_, congrArg Host.Outcome.next (if_pos hkind), State.seeEpoch_of_prev hnew hprev⟩
  · exact ⟨_, congrArg Host.Outcome.next (if_pos hkind), State.seeEpoch_names hnew hprev hnone⟩
  · exact ⟨_, exec_mcNameFlip hup, State.nameFlip_of_prev hprev _⟩
  · exact ⟨_, exec_mcNameFlip hup, State.nameFlip_names hname⟩
  · obtain ⟨u, hexec, htouch⟩ := exec_ldFlipReq hr hreach hact
    obtain ⟨-, htiers, hweights, -⟩ := htouch.flip_fields
    refine ⟨fun hprev => ⟨_, hexec, ?_⟩, fun hname => ⟨_, hexec, ?_⟩⟩
    · obtain ⟨hrefused, hkept⟩ := State.nameFlip_of_prev (htouch.prevHeld.trans hprev) (u.fld LD_EPOCH_PEND_EPOCH)
      exact ⟨hrefused, hkept.trans hweights⟩
    · obtain ⟨hflip, hpending, hkept⟩ := State.nameFlip_names (htouch.flipNamable hname)
      exact ⟨hflip.trans (congrArg some htouch.ownFlip), hpending, hkept.trans htiers⟩

end Sys2Proof.Machine
end

section
/-! FRAME_SEND (R240, R505): the units of a transfer from the core store make one frame. -/
namespace Sys2Proof.Machine

/-! ### A transfer leaves all but the tokens -/

theorem State.transferred_leaves {β : Type} (part : State → β)
    (h : ∀ (s : State) t, part { s with sched := { s.sched with tokens := t } } = part s) (s : State) (i : Issue) :
    part (s.transferred i) = part s := by
  obtain ⟨rows, void, heq, -⟩ := State.finishOp_sound (u := s.consume i) (i := i) (b := s.begun i 0) rfl (s.outRows i) (s.flagsIn i)
    false
  have hproduce : part ((s.consume i).produce i rows void (s.flagsIn i)) = part (s.consume i) := ite_leaves rfl (h _ _)
  have hconsume : part (s.consume i) = part s := foldl_leaves part _ _ _ fun u _ => h u _
  unfold State.transferred
  rw [heq, hproduce, hconsume]

theorem State.transferred_fab (s : State) (i : Issue) : (s.transferred i).fab = s.fab :=
  s.transferred_leaves State.fab (fun _ _ => rfl) i

theorem State.transferred_regs (s : State) (i : Issue) : (s.transferred i).regs = s.regs :=
  s.transferred_leaves State.regs (fun _ _ => rfl) i

theorem State.transferred_store (s : State) (i : Issue) : (s.transferred i).store = s.store :=
  s.transferred_leaves State.store (fun _ _ => rfl) i

theorem State.physPort_transferred (s : State) (i : Issue) (lp : Nat) : (s.transferred i).physPort lp = s.physPort lp :=
  s.transferred_leaves (State.physPort · lp) (fun _ _ => rfl) i

/-! ### Units with consecutive indices make one frame (R505) -/

/-- A unit joins the run that is open, or begins one. -/
def joinRun (acc : List (List UnitOut)) (u : UnitOut) : List (List UnitOut) :=
  match acc with
  | [] => [[u]]
  | run :: rest =>
    match run with
    | v :: _ => if u.index = v.index + 1 ∧ run.length < 16 then (u :: run) :: rest else [u] :: acc
    | [] => [u] :: rest

theorem frameRuns_eq (l : List UnitOut) : frameRuns l = (l.foldl joinRun []).reverse.map List.reverse := rfl

theorem foldl_joinRun_range {u : Nat → UnitOut} {first : Nat} (hu : ∀ k, (u k).index = first + k) (n : Nat) (hn : n < 16) :
    ((List.range (n + 1)).map u).foldl joinRun [] = [((List.range (n + 1)).map u).reverse] := by
  induction n with
  | zero => rfl
  | succ n ih =>
    have hjoin : joinRun [((List.range (n + 1)).map u).reverse] (u (n + 1)) = [u (n + 1) :: ((List.range (n + 1)).map u).reverse] := by
      have hnext : (u (n + 1)).index = (u n).index + 1 := by rw [hu, hu, Nat.add_assoc]
      rw [List.range_succ, List.map_append, List.reverse_append]
      exact if_pos ⟨hnext, by simp; omega⟩
    rw [List.range_succ, List.map_append, List.foldl_append, ih (by omega)]
    simp only [List.map_cons, List.map_nil, List.foldl_cons, List.foldl_nil, hjoin, List.reverse_append, List.reverse_cons,
      List.reverse_nil, List.nil_append, List.singleton_append]

theorem frameRuns_range {u : Nat → UnitOut} {first n : Nat} (hu : ∀ k, (u k).index = first + k) (hpos : 1 ≤ n) (hn : n ≤ 16) :
    frameRuns ((List.range n).map u) = [(List.range n).map u] := by
  obtain ⟨n, rfl⟩ : ∃ m, n = m + 1 := ⟨n - 1, by omega⟩
  rw [frameRuns_eq, foldl_joinRun_range hu n (by omega)]
  simp

/-- The units of a transfer of 1 to 16 units go in one frame. -/
theorem State.frameRuns_soundUnits (s : State) (core : Nat) {v : Send} (addr : Nat) (flagged : BitVec 32) (hpos : 1 ≤ v.units)
    (hmax : v.units ≤ 16) : frameRuns (s.soundUnits core v addr flagged) = [s.soundUnits core v addr flagged] :=
  frameRuns_range (first := v.index) (fun _ => rfl) hpos hmax

theorem State.soundUnits_head (s : State) (core : Nat) {v : Send} (addr : Nat) (flagged : BitVec 32) (hpos : 1 ≤ v.units) :
    ((s.soundUnits core v addr flagged).head?.map UnitOut.index).getD 0 = v.index := by
  obtain ⟨n, hn⟩ : ∃ n, v.units = n + 1 := ⟨v.units - 1, by omega⟩
  unfold State.soundUnits
  rw [hn, List.range_succ_eq_map]
  rfl

theorem State.length_soundUnits (s : State) (core : Nat) (v : Send) (addr : Nat) (flagged : BitVec 32) :
    (s.soundUnits core v addr flagged).length = v.units := by simp [State.soundUnits]

theorem State.soundUnits_payload (s : State) (core : Nat) (v : Send) (addr : Nat) (flagged : BitVec 32) :
    (s.soundUnits core v addr flagged).flatMap UnitOut.payload =
      (List.range v.units).flatMap fun k => s.loadBytes core (addr + v.bytes * k) v.bytes := List.flatMap_map ..

/-! ### The frame -/

/-- The bits of the units with reduced precision, by their place in the frame. -/
def precBits (units : List UnitOut) : Nat :=
  units.zipIdx.foldl (fun (m : Nat) (u : UnitOut × Nat) => if u.1.prec then m + 2 ^ u.2 else m) 0

/-- The header of a frame of units. -/
def State.dataHdr (s : State) (i : Issue) (g m rg : Nat) (v : Send) (units : List UnitOut) : FrameHdr :=
  ⟨0, s.boot.image.fabRev, g, m, s.self.1, s.self.2, v.token, i.inst % 256, units.length - 1,
    if v.kind ≤ 1 then v.kind else 2, precBits units, (units.head?.map UnitOut.index).getD 0, 0, rg⟩

/-- What the rows sent await joins the awaits. -/
def State.addAwaits (s : State) (l : List Await) : State := { s with fab := { s.fab with awaits := s.fab.awaits ++ l } }

/-- An undisturbed send slot: one frame on an active port, and none where no port is active. -/
theorem exec_frameSend {s : State} {i : Issue} {lp : LaneId} {g m rg addr : Nat} {v : Send} (hsrc : v.src = .units addr)
    (hpos : 1 ≤ v.units) (hmax : v.units ≤ 16) (h : runsClean s i (.port lp.val) 0 [(addr, v.bytes * v.units)]) :
    ∃ awaits : Nat → State → List Await, exec (.frameSend i lp g m rg v []) s = .next (match s.physPort lp with
      | none => s.transferred i
      | some p =>
        let units := s.soundUnits i.core v addr (s.flagsIn i)
        let u := (s.transferred i).sendFrame p ((s.transferred i).dataHdr i g m rg v units) (units.flatMap UnitOut.payload)
        u.addAwaits (awaits p u)) := by
  have hranges : sendRanges v = [(addr, v.bytes * v.units)] := by
    unfold sendRanges
    rw [hsrc]
  have hbegin : s.beginOp i (sendRanges v) [] = (s.consume i, some (s.begun i 0)) := hranges ▸ State.beginOp_clean h
  obtain ⟨hruns, -, harmed, htrust, -⟩ := h
  have hfaults := s.consume_faults i
  have htrusted := State.untrustedUnit_none ((congrArg Faults.untrusted hfaults).trans htrust) i.core 9
  have hinject := State.tryInject_disarmed (s := s.transferred i)
    ((congrArg Faults.armed (s.transferred_leaves State.faults (fun _ _ => rfl) i)).trans harmed) 0x16 0
  have hunits : (s.consume i).formUnits i.core i.inst i.ins v none (0 ||| (s.consume i).emptyRows i none) (s.flagsIn i) =
      s.soundUnits i.core v addr (s.flagsIn i) := by
    have hvoid : (0 : BitVec 32) ||| (s.consume i).emptyRows i none = 0 := by simp [State.emptyRows]
    rw [hvoid, State.formUnits_sound _ _ _ _ hsrc]
    unfold State.soundUnits State.soundUnit
    simp only [State.loadBytes_of_store (s.consume_store i)]
  refine ⟨fun p u => u.awaitsFor p i.core i.inst v none (s.soundUnits i.core v addr (s.flagsIn i)), ?_⟩
  show execFrameSend i lp g m rg v [] s = _
  unfold execFrameSend
  dsimp only
  rw [hruns, hbegin]
  simp only [Bool.not_true, Bool.false_eq_true, if_false, htrusted, State.begun, or_self, hunits, State.outRows_consume]
  rw [show (s.consume i).finishOp i ⟨0, none, false, s.flagsIn i⟩ (s.outRows i) (s.flagsIn i) false = s.transferred i from rfl,
    State.physPort_transferred, State.frameRuns_soundUnits _ _ _ _ hpos hmax]
  cases s.physPort lp with
  | none => rfl
  | some p =>
    simp only [List.foldl_cons, List.foldl_nil, hinject]
    rfl

/-- A frame sent takes the port's sequence number, which advances. -/
theorem State.sendFrame_shows (s : State) (p : Nat) (hdr : FrameHdr) (payload : List Byte) :
    ∃ f, (s.sendFrame p hdr payload).fab.sent = f :: s.fab.sent ∧ f.port = p ∧ f.seq = (s.port p).txSeq ∧
      ((s.sendFrame p hdr payload).port p).txSeq = (s.port p).txSeq + 1 ∧
      f.hdr = { hdr with seqLo := (s.port p).txSeq % 65536 } ∧ f.payload = payload := by
  unfold State.sendFrame
  refine ⟨_, State.emitFrame_sent (s.setPort_sent p _) _ _ _ _, rfl, rfl, ?_, rfl, rfl⟩
  rw [State.port_emitFrame, State.port_setPort]

end Sys2Proof.Machine
end

section
/-! DATA_FRAME (R238 to R242, R505): a data unit of a ring takes its place in the buffer of its token. -/
namespace Sys2Proof.Machine

/-! ### A unit of a ring arrives (R303, R306) -/

/-- A ring's unit leaves all but the ring's registers, the rings and the requests. -/
theorem State.ringTake_leaves {β : Type} (part : State → β)
    (h : ∀ (s : State) r q m a, part { s with regs := r, rqt := q, mem := m, att := a } = part s) (s : State) (u : List Byte) :
    part (s.ringTake u) = part s := by
  have hdrain : DrainLeaves part := .of_regs fun v r q m => h v r q m v.att
  have hatt : ∀ (v : State) a, part { v with att := a } = part v := fun v a => h v v.regs v.rqt v.mem a
  have hvoid : ∀ d x, part (s.ringVoid d x) = part s := by
    intro d x
    unfold State.ringVoid
    extract_lets v r w y
    have hv : part v = part s := foldl_leaves part _ _ s fun z c => by
      split
      · exact h z _ z.rqt z.mem z.att
      · rfl
    have hw : part w = part v := hdrain.setReq v _ _
    have hy : part y = part s := (hatt w _).trans (hw.trans hv)
    exact ite_leaves ((hdrain.drain _ _ _).trans ((hatt y _).trans hy)) hy
  unfold State.ringTake
  split
  · rfl
  extract_lets head line
  refine ite_leaves ?_ (hatt s _)
  split
  · exact ite_leaves rfl (hvoid _ _)
  · rfl

theorem instNewer_of_mod {a b : Nat} (h : a = b % 256) : instNewer a b = false := by
  have hd : (a % 256 + 256 - b % 256) % 256 = 0 := by omega
  unfold instNewer
  rw [hd]
  rfl

/-! ### The delivery (R221, R505) -/

theorem State.arrive_taken {s : State} {core tok inst : Nat} (hinst : (s.token core tok).inst = inst % 256)
    (hopen : (s.token core tok).consumed = false) (rows : BitVec 32) (isVoid : Bool) :
    ∃ t, s.arrive core tok inst rows isVoid = (s.setToken core tok t, .taken) := by
  unfold State.arrive
  extract_lets t t'
  have hold : instNewer t.inst inst = false := instNewer_of_mod hinst
  have hfree : t.consumed = false := hopen
  rw [hold, hfree]
  exact ⟨_, rfl⟩

section
variable {s : State} {core inst : Nat} {b : TokenBuf} {u : UnitOut} (harmed : s.faults.armed = none)
  (hinst : (s.token core b.token).inst = inst % 256) (hopen : (s.token core b.token).consumed = false)
  (hstub : (s.token core b.token).stubbed.getLsbD u.row = false)
include harmed hinst hopen hstub

/-- A data unit takes its place: its bytes are stored, the ring takes its line, and its token's marks follow. -/
theorem State.deliverUnit_data : ∃ t t', s.deliverUnit core b inst 4 u =
      (((s.setToken core b.token t).storeBytes core (b.base + u.index * b.unit) u.payload).ringTake u.payload).setToken core
        b.token t' := by
  have hheld : s.injects 0x0E core 0 = none := by
    unfold State.injects
    rw [harmed]
  obtain ⟨t, ht⟩ := State.arrive_taken hinst hopen (if u.last then rowBit u.row else 0) u.isVoid
  unfold State.deliverUnit
  extract_lets bit t0
  have hfree : ¬(t0.inst = inst % 256 ∧ t0.stubbed.getLsbD u.row = true) := fun h => by simp [t0, hstub] at h
  rw [if_neg hfree, State.tryInject_disarmed harmed]
  simp only [hheld, Option.isSome_none, Bool.false_eq_true, if_false]
  rw [ht]
  exact ⟨t, _, rfl⟩

/-- A part of the state that neither tokens, rings, requests nor registers touch is as after the store. -/
theorem State.deliverUnit_part {β : Type} (part : State → β) (h : ∀ (s : State) t r q m a, part { s with
      regs := r, rqt := q, mem := m, att := a, sched := { s.sched with tokens := t } } = part s) :
    part (s.deliverUnit core b inst 4 u) = part (s.storeBytes core (b.base + u.index * b.unit) u.payload) := by
  have htoken : ∀ (v : State) t, part { v with sched := { v.sched with tokens := t } } = part v := fun v t =>
    h v t v.regs v.rqt v.mem v.att
  obtain ⟨t, t', heq⟩ := State.deliverUnit_data harmed hinst hopen hstub
  rw [heq]
  exact (htoken _ _).trans ((State.ringTake_leaves part (fun w r q m a => h w w.sched.tokens r q m a) _ _).trans (htoken
    (s.storeBytes core (b.base + u.index * b.unit) u.payload) _))

end

end Sys2Proof.Machine
end

section
/-! DATA_FRAME (R238 to R242, R505): the checks of a data frame; and both commands of data frames together. -/
namespace Sys2Proof.Machine

/-! ### Fields of the cores under a link's update -/

@[simp] theorem State.runs_addLnk (s : State) (p : LaneId) (f : Fld) (n : Nat) (hf : f.ofLink = true) (i : Issue) (a : Agent) :
    (s.addLnk p f n).runs i a = s.runs i a := by
  have hcore : ∀ (g : Fld) k, 0x300000 ≤ g.addr → (s.addLnk p f n).isSetAt k g = s.isSetAt k g := fun g k hg =>
    congrArg (decide <| · = 1) (State.fldAt_addAt_ne s _ k f g n
      (link_addr_ne p hf (decide_eq_true (.inr (.inl (by omega))))).symm)
  unfold State.runs State.coreRunning State.domainOff
  rw [hcore _ _ (by decide), State.fld_addLnk _ _ _ _ _ hf (by decide)]
  rfl

@[simp] theorem State.self_addLnk (s : State) (p : LaneId) (f : Fld) (n : Nat) (hf : f.ofLink = true) :
    (s.addLnk p f n).self = s.self :=
  Prod.ext (s.fld_addLnk p f _ n hf (by decide)) (s.fld_addLnk p f _ n hf (by decide))

/-! ### The checks of a frame (R242) -/

/-- A data frame of one unit of a ring, well formed. -/
def wholeFrame (hdr : FrameHdr) (u : List Byte) : Prop := hdr.type = 0 ∧ hdr.fmt = 2 ∧ hdr.count = 0 ∧ u.length = 72

theorem wholeFrame.not_malformed {hdr : FrameHdr} {u : List Byte} (h : wholeFrame hdr u) :
    ¬(hdr.type ≠ 0 ∨ 2 < hdr.fmt ∨ hdr.count + 1 ≠ [u].length ∨ [u].any (fun u => decide (u.length ≠ 72)) = true) := by
  obtain ⟨htype, hfmt, hcount, hlen⟩ := h
  simp [htype, hfmt, hcount, hlen]

/-- A frame whose revision is not accepted is counted, and nothing of it is taken. -/
theorem exec_dataFrame_of_rev {s : State} {p : LaneId} {rx : FrameRx} {hdr : FrameHdr} {u : List Byte}
    (hactive : s.portActive p = true) (hclean : cleanFrame s rx) (hwhole : wholeFrame hdr u) (hrev : s.revOk hdr.rev = false)
    (slot : Option RecvSlot) (table : Option (List TableMsg)) :
    exec (.dataFrame p rx hdr [u] slot table) s = .next (((s.addLnk p LNK_FEC_CORR_COUNT rx.corrected).addLnk p
      LNK_REV_REFUSE_COUNT 1).putLnk p LNK_FLAG_REV 1) := by
  obtain ⟨harmed, hfec, -⟩ := hclean
  have hrev' : (s.addLnk p LNK_FEC_CORR_COUNT rx.corrected).revOk hdr.rev = false := hrev
  show execDataFrame p rx hdr [u] slot table s = _
  unfold execDataFrame
  simp only [hactive, Bool.not_true, Bool.false_eq_true, if_false, State.rxFec_clean harmed hfec, if_neg hwhole.not_malformed,
    hrev', Bool.not_false, if_true]

/-- A frame that passes the checks advances the port's receive count and its expected number. -/
def State.frameTaken (s : State) (p : Nat) (rx : FrameRx) (seqLo : Nat) : State :=
  (s.addLnk p LNK_FEC_CORR_COUNT rx.corrected).updPort p fun x => { x with rx := x.rx + 1, rxSeq := nextSeq x.rxSeq seqLo }

theorem State.frameTaken_port (s : State) (p : Nat) (rx : FrameRx) (seqLo : Nat) : (s.frameTaken p rx seqLo).port p =
    { s.port p with rx := (s.port p).rx + 1, rxSeq := nextSeq (s.port p).rxSeq seqLo } := by
  unfold State.frameTaken
  rw [State.port_updPort, State.port_addLnk]

/-- A receive slot of the core's own token takes the frame. -/
structure SlotTakes (s : State) (p : LaneId) (hdr : FrameHdr) (r : RecvSlot) : Prop where
  data : (s.port p).refuseData = false
  held : (s.port p).held = false
  region : hdr.dstRegion = ((s.plan p).map PlanPort.region).getD 0
  out : r.issue.out = hdr.token
  own : r.flow = none
  dest : (hdr.dstGroup, hdr.dstMod) = s.self
  runs : s.runs r.issue (.port (s.lnk p LNK_STAT_LOGICAL)) = true
  inst : (s.token r.issue.core hdr.token).inst = hdr.inst % 256

theorem SlotTakes.not_dropped {s : State} {p : LaneId} {hdr : FrameHdr} {r : RecvSlot} (h : SlotTakes s p hdr r) (rx : FrameRx) :
    ¬(((s.frameTaken p rx hdr.seqLo).port p).refuseData = true ∨ ((s.frameTaken p rx hdr.seqLo).port p).held = true ∨
      hdr.dstRegion ≠ (((s.frameTaken p rx hdr.seqLo).plan p).map PlanPort.region).getD 0 ∨ r.issue.out ≠ hdr.token ∨
      ((hdr.dstGroup, hdr.dstMod) ≠ (s.frameTaken p rx hdr.seqLo).self ∧ (!r.relay) = true) ∨
      (!(s.frameTaken p rx hdr.seqLo).runs r.issue (.port ((s.frameTaken p rx hdr.seqLo).lnk p LNK_STAT_LOGICAL))) = true) := by
  have hplan : (s.frameTaken p rx hdr.seqLo).plan p = s.plan p := rfl
  have hself : (s.frameTaken p rx hdr.seqLo).self = s.self := s.self_addLnk p LNK_FEC_CORR_COUNT rx.corrected (by decide)
  have hlogical : (s.frameTaken p rx hdr.seqLo).lnk p LNK_STAT_LOGICAL = s.lnk p LNK_STAT_LOGICAL :=
    s.lnk_addLnk_other p LNK_FEC_CORR_COUNT LNK_STAT_LOGICAL rx.corrected (by decide)
  have hruns : (s.frameTaken p rx hdr.seqLo).runs r.issue (.port (s.lnk p LNK_STAT_LOGICAL)) = true :=
    (s.runs_addLnk p LNK_FEC_CORR_COUNT rx.corrected (by decide) _ _).trans h.runs
  rw [s.frameTaken_port, hplan, hself, hlogical, hruns]
  simp [h.data, h.held, h.region, h.out, h.dest]

theorem exec_dataFrame {s : State} {p : LaneId} {rx : FrameRx} {hdr : FrameHdr} {u : List Byte} {r : RecvSlot}
    (hactive : s.portActive p = true) (hclean : cleanFrame s rx) (hwhole : wholeFrame hdr u) (hrev : s.revOk hdr.rev = true)
    (h : SlotTakes s p hdr r) :
    exec (.dataFrame p rx hdr [u] (some r) none) s = .next ((s.frameTaken p rx hdr.seqLo).takeUnits p hdr [u] r) := by
  obtain ⟨harmed, hfec, htag⟩ := hclean
  have hrev' : (s.addLnk p LNK_FEC_CORR_COUNT rx.corrected).revOk hdr.rev = true := hrev
  have htag' := State.rxTag_clean (s := s.addLnk p LNK_FEC_CORR_COUNT rx.corrected) harmed htag p
  have hfree := h.not_dropped rx
  have hstale : instNewer (s.token r.issue.core hdr.token).inst hdr.inst = false := instNewer_of_mod h.inst
  have hrecv : (s.frameTaken p rx hdr.seqLo).recvCore r = some r.issue.core.val := by
    unfold State.recvCore
    rw [h.own]
  show execDataFrame p rx hdr [u] (some r) none s = _
  unfold execDataFrame
  simp only [hactive, Bool.not_true, Bool.false_eq_true, if_false, State.rxFec_clean harmed hfec, if_neg hwhole.not_malformed,
    hrev', htag']
  refine (if_neg hfree).trans ?_
  show (if (match (s.frameTaken p rx hdr.seqLo).recvCore r with
    | some c => instNewer ((s.frameTaken p rx hdr.seqLo).token c hdr.token).inst hdr.inst | none => false) = true then _ else _) = _
  rw [hrecv]
  exact if_neg (Bool.eq_false_iff.mp hstale)

/-! ### The unit takes its place (R238, R505) -/

/-- The one unit of a ring goes to the buffer of the slot's token. -/
theorem State.takeUnits_ring {s : State} {hdr : FrameHdr} {u : List Byte} {r : RecvSlot} {b : TokenBuf} (hfmt : hdr.fmt = 2)
    (hring : (s.ringOf u).isSome = true) (hown : r.flow = none) (hbuf : s.tokenBuf r.issue.core hdr.token = some b) (p : Nat) :
    ∃ prec last, s.takeUnits p hdr [u] r = (s.addLnk p LNK_DROP_COUNT 0).deliverUnit r.issue.core b hdr.inst 4
      ⟨hdr.index, hdr.index / r.perRow, false, prec, last, u⟩ := by
  have hbuf' : (s.addLnk p LNK_DROP_COUNT 0).tokenBuf r.issue.core hdr.token = some b := hbuf
  unfold State.takeUnits
  simp only [hfmt, hown, hring, Bool.or_true, Bool.not_true, List.countP_cons, List.countP_nil, Bool.false_eq_true, if_false,
    Nat.add_zero, hbuf', List.zipIdx_cons, List.zipIdx_nil, List.filter_cons, List.filter_nil, if_true, List.map_cons,
    List.map_nil, List.foldl_cons, List.foldl_nil]
  exact ⟨_, _, rfl⟩

/-- The unit's bytes land at its index of the buffer, and the ports stay. -/
theorem State.takeUnits_lands {s : State} {hdr : FrameHdr} {u : List Byte} {r : RecvSlot} {b : TokenBuf} (hfmt : hdr.fmt = 2)
    (hlen : u.length = 72) (harmed : s.faults.armed = none) (hring : (s.ringOf u).isSome = true) (hown : r.flow = none)
    (hbuf : s.tokenBuf r.issue.core hdr.token = some b) (hinst : (s.token r.issue.core b.token).inst = hdr.inst % 256)
    (hopen : (s.token r.issue.core b.token).consumed = false)
    (hstub : (s.token r.issue.core b.token).stubbed.getLsbD (hdr.index / r.perRow) = false)
    (hfits : b.base + hdr.index * b.unit + 72 ≤ storeSize) (p : Nat) :
    (s.takeUnits p hdr [u] r).loadBytes r.issue.core (b.base + hdr.index * b.unit) 72 = u ∧
      storeKept s (s.takeUnits p hdr [u] r) r.issue.core (b.base + hdr.index * b.unit) 72 ∧
      (s.takeUnits p hdr [u] r).port p = s.port p := by
  obtain ⟨prec, last, hunits⟩ := State.takeUnits_ring hfmt hring hown hbuf p
  obtain ⟨v, hv⟩ : ∃ v, v = s.addLnk p LNK_DROP_COUNT 0 := ⟨_, rfl⟩
  have hpart := fun {β : Type} => State.deliverUnit_part (β := β) (s := v) (core := r.issue.core) (inst := hdr.inst) (b := b)
    (u := ⟨hdr.index, hdr.index / r.perRow, false, prec, last, u⟩) (hv ▸ harmed) (hv ▸ hinst) (hv ▸ hopen) (hv ▸ hstub)
  have hstore := hpart State.store fun _ _ _ _ _ _ => rfl
  have hport := hpart (State.port · p) fun _ _ _ _ _ _ => rfl
  rw [hunits, ← hv]
  refine ⟨?_, ?_, ?_⟩
  · rw [State.loadBytes_of_store hstore]
    have hload := v.loadBytes_storeBytes (core := r.issue.core) (addr := b.base + hdr.index * b.unit) (j := 0) (n := u.length)
      (bs := u) (by omega) (by omega)
    rw [List.drop_zero, List.take_length, hlen] at hload
    exact hload
  · exact storeKept_of_store (v.storeBytes_kept r.issue.core _ hlen.le) (congrArg State.store hv).symm hstore
  · refine hport.trans ?_
    show (v.storeBytes _ _ _).port p = s.port p
    rw [State.port_of_fab (t := v.storeBytes _ _ _) (s := v) rfl, hv, State.port_addLnk]

/-! ### The obligation's first part -/

theorem dataFramesCarryUnits : DataFramesCarryUnits := by
  refine ⟨fun s i lp g m rg addr v hsrc hpos hmax hclean => ?_, fun s p rx hdr u r b hactive hclean htype hfmt hcount hlen =>
    ⟨fun hrev hdata hheld hregion hout hown hdest hruns hring hbuf htok hinst hopen hstub hfits => ?_, fun hrev => ?_⟩⟩
  · obtain ⟨awaits, hexec⟩ := exec_frameSend (g := g) (m := m) (rg := rg) hsrc hpos hmax hclean
    refine ⟨fun p hport => ?_, fun hport => ?_⟩
    · rw [hport] at hexec
      obtain ⟨f, hsent, hfport, hseq, hnext, hhdr, hpayload⟩ := (s.transferred i).sendFrame_shows p
        ((s.transferred i).dataHdr i g m rg v (s.soundUnits i.core v addr (s.flagsIn i)))
        ((s.soundUnits i.core v addr (s.flagsIn i)).flatMap UnitOut.payload)
      rw [State.port_of_fab (s.transferred_fab i) p] at hseq hnext
      rw [s.transferred_fab i] at hsent
      refine ⟨_, f, hexec, hsent, hfport, hseq, hnext, ?_⟩
      rw [hhdr, hpayload]
      exact ⟨s.soundUnits_head i.core addr (s.flagsIn i) hpos, congrArg (· - 1) (s.length_soundUnits ..), rfl, rfl, rfl, rfl,
        s.soundUnits_payload .., s.transferred_store i, s.transferred_regs i⟩
    · rw [hport] at hexec
      exact ⟨_, hexec, s.transferred_fab i, s.transferred_store i, s.transferred_regs i⟩
  · rw [← htok] at hopen hstub
    obtain ⟨hload, hkept, hport⟩ := State.takeUnits_lands (s := s.frameTaken p rx hdr.seqLo) hfmt hlen hclean.1 hring hown hbuf
      (htok.symm ▸ hinst) hopen hstub hfits p
    rw [s.frameTaken_port] at hport
    exact ⟨_, exec_dataFrame hactive hclean ⟨htype, hfmt, hcount, hlen⟩ hrev
      ⟨hdata, hheld, hregion, hout, hown, hdest, hruns, hinst⟩, hload, storeKept_of_store hkept rfl rfl, congrArg Port.rx hport, congrArg Port.rxSeq hport⟩
  · refine ⟨_, exec_dataFrame_of_rev hactive hclean ⟨htype, hfmt, hcount, hlen⟩ hrev (some r) none, rfl,
      State.lnk_putLnk_same _ _ _ _ (by decide), ?_⟩
    simp (disch := decide)

end Sys2Proof.Machine
end

section
/-! Heartbeats (R185, R243, R246, R255): what goes out in a rod, and what a received one tells of the partner's time (O26). -/
namespace Sys2Proof.Machine

/-! ### HEARTBEAT_SEND (R243, R246) -/

/-- The queued messages that a heartbeat of a port takes along (R246). -/
def State.heartbeatMsgs (s : State) (p : Nat) : List SbMsg :=
  if s.lnk p LNK_STAT_STATE = 7 then (s.fab.queue.filter (fun m => !s.fab.relayed.contains (m, p))).take 3 else []

/-- A heartbeat's payload: the rod count's low bits, the STATE byte, and the messages. -/
def State.heartbeat (s : State) (p : Nat) : List Byte :=
  leBytes 2 s.tb.rod ++ [BitVec.ofNat 8 s.hbState, BitVec.ofNat 8 (s.heartbeatMsgs p).length] ++ List.replicate 4 0 ++
    (List.range 3).flatMap (fun i => leBytes 8 (((s.heartbeatMsgs p)[i]?.map sbWord).getD 0))

/-- The heartbeat of a rod has gone out on a port. -/
def State.heartbeatOut (s : State) (p : Nat) : State :=
  (s.sendFrame p (s.plainHdr 1) (s.heartbeat p)).updPort p fun x => { x with hbSent := some s.sec.clockRods }

/-- The queue after the messages that have gone on every active port have left it. -/
def State.setQueue (s : State) (q : List SbMsg) (relayed : List (SbMsg × Nat)) (stop : Bool) : State :=
  { s with fab := { s.fab with queue := q, relayed := relayed, heatStop := stop } }

theorem exec_heartbeatSend {s : State} {p : LaneId} (hstate : 6 ≤ s.lnk p LNK_STAT_STATE) (hquiet : (s.port p).quiet = false)
    (hup : s.timeBaseDown = false) (hfirst : (s.port p).hbSent ≠ some s.sec.clockRods) :
    ∃ q relayed stop, exec (.heartbeatSend p) s = .next ((s.heartbeatOut p).setQueue q relayed stop).depth :=
  ⟨_, _, _, if_neg (by simp [hquiet, hup, hfirst, Nat.not_lt.mpr hstate])⟩

theorem exec_heartbeatSend_again {s : State} {p : LaneId} (h : (s.port p).hbSent = some s.sec.clockRods) :
    exec (.heartbeatSend p) s = .next s := if_pos (.inr (.inr (.inr h)))

theorem State.setQueue_depth_sent (s : State) (q : List SbMsg) (relayed : List (SbMsg × Nat)) (stop : Bool) :
    (s.setQueue q relayed stop).depth.fab.sent = s.fab.sent := (rfl)

theorem State.setQueue_depth_regs (s : State) (q : List SbMsg) (relayed : List (SbMsg × Nat)) (stop : Bool) :
    regsKept s (s.setQueue q relayed stop).depth [FAB_SB_QUEUE_DEPTH.addr] := by
  have hkept : regsKept s (s.setQueue q relayed stop) [FAB_SB_QUEUE_DEPTH.addr] := fun _ _ => rfl
  exact hkept.putAt (i := 0) List.mem_cons_self _

theorem State.heartbeatOut_regs (s : State) (p : Nat) : (s.heartbeatOut p).regs = s.regs := (rfl)

theorem State.port_setQueue_depth (s : State) (q : List SbMsg) (relayed : List (SbMsg × Nat)) (stop : Bool) (p : Nat) :
    (s.setQueue q relayed stop).depth.port p = s.port p := (rfl)

theorem State.heartbeat_head (s : State) (p : Nat) :
    (s.heartbeat p).take 3 = leBytes 2 s.tb.rod ++ [BitVec.ofNat 8 s.hbState] := rfl

/-! ### HEARTBEAT_RECEIVED (R185, R243, R255) -/

/-- How far a rod count of a heartbeat lies behind this module's. -/
def State.rodLag (s : State) (rodLo : Nat) : Nat := (s.tb.rod % 65536 + 65536 - rodLo % 65536) % 65536

/-- The heartbeat of a port counts for its slot. -/
def State.beatCounted (s : State) (p rodLo state : Nat) : State :=
  s.updPort p fun x => { x with
    hbRod := some ((s.tb.rod + rodP - s.rodLag rodLo) % rodP), hbMiss := 0, hbInj := false, partner := state % 16 }

theorem exec_heartbeatReceived {s : State} {p : LaneId} {rx : FrameRx} {rodLo state : Nat} (hstate : s.lnk p LNK_STAT_STATE = 7)
    (hclean : cleanFrame s rx) (hdiscard : s.faults.hbDiscard = none) (hoffset : s.faults.hbOffset = none)
    (hchrysalis : hbChrysalis state = false) :
    exec (.heartbeatReceived p rx rodLo state []) s =
      .next (((s.addLnk p LNK_FEC_CORR_COUNT rx.corrected).peerTime p rodLo state).beatCounted p rodLo state) := by
  obtain ⟨harmed, hfec, htag⟩ := hclean
  have hinject : ∀ k n, (s.addLnk p LNK_FEC_CORR_COUNT rx.corrected).tryInject k 0 n =
      (s.addLnk p LNK_FEC_CORR_COUNT rx.corrected, none) := fun k n =>
    State.tryInject_disarmed (s := s.addLnk p LNK_FEC_CORR_COUNT rx.corrected) harmed k 0 n
  have hdiscard' : (s.addLnk p LNK_FEC_CORR_COUNT rx.corrected).faults.hbDiscard = none := hdiscard
  have hoffset' : (s.addLnk p LNK_FEC_CORR_COUNT rx.corrected).faults.hbOffset = none := hoffset
  show execHeartbeatReceived p rx rodLo state [] s = _
  unfold execHeartbeatReceived
  simp only [hstate, State.rxFec_clean harmed hfec, Bool.not_true, Bool.false_eq_true, if_false,
    State.rxTag_clean (s := s.addLnk p LNK_FEC_CORR_COUNT rx.corrected) harmed htag, hinject, hdiscard']
  unfold State.takeBeat
  simp only [hoffset', List.take_nil, List.foldl_nil, hchrysalis]
  rfl

section
variable {s : State} {p : LaneId} {rodLo state : Nat} (hport : s.lnk p LNK_STAT_STATE = 7)
  (hvalid : s.isSet TB_STAT_COUNT_VALID = true) (htime : hbTimeValid state = true)
include hport hvalid htime

/-- A heartbeat that agrees ends the run of disagreements. -/
theorem State.peerTime_of_near (h : s.rodLag rodLo ≤ 1) :
    s.peerTime p rodLo state = s.setPort p { s.port p with peerRun := 0 } := by
  have h' : (s.tb.rod % 65536 + 65536 - rodLo % 65536) % 65536 ≤ 1 := h
  unfold State.peerTime
  simp [hport, hvalid, htime, h']

/-- The third in a row that disagrees refuses data frames. -/
theorem State.peerTime_of_third (h : 1 < s.rodLag rodLo) (hrun : (s.port p).peerRun = 2) :
    s.peerTime p rodLo state =
      ((s.setPort p { s.port p with peerRun := 3, refuseData := true }).put TB_FAULT_PEER_TIME 1).reAdmit := by
  have h' : ¬(s.tb.rod % 65536 + 65536 - rodLo % 65536) % 65536 ≤ 1 := Nat.not_le.mpr h
  unfold State.peerTime
  simp [hport, hvalid, htime, h', hrun]

end

theorem heartbeatsTellTheRod : HeartbeatsTellTheRod := by
  refine fun s p => ⟨fun hstate hquiet hup => ⟨fun hfirst => ?_, fun hagain => exec_heartbeatSend_again hagain⟩,
    fun rx rodLo state hport hclean hdiscard hoffset hvalid htime hchrysalis => ?_⟩
  · obtain ⟨q, relayed, stop, hexec⟩ := exec_heartbeatSend hstate hquiet hup hfirst
    obtain ⟨f, hsent, hfport, -, -, hhdr, hpayload⟩ := s.sendFrame_shows p (s.plainHdr 1) (s.heartbeat p)
    refine ⟨_, f, hexec, ?_, hfport, ?_, ?_, ?_, ?_⟩
    · rw [State.setQueue_depth_sent, State.heartbeatOut, State.updPort_sent, hsent]
    · rw [hhdr]
      rfl
    · rw [hpayload, s.heartbeat_head]
    · rw [State.port_setQueue_depth, State.heartbeatOut, State.port_updPort]
    · intro a ha
      rw [State.setQueue_depth_regs _ _ _ _ a ha, State.rd_of_regs (s.heartbeatOut_regs p)]
  · have hexec := exec_heartbeatReceived (rodLo := rodLo) hport hclean hdiscard hoffset hchrysalis
    obtain ⟨u, hu⟩ : ∃ u, u = s.addLnk p LNK_FEC_CORR_COUNT rx.corrected := ⟨_, rfl⟩
    rw [← hu] at hexec
    have hport' : u.lnk p LNK_STAT_STATE = 7 := by rw [hu, State.lnk_addLnk_other _ _ _ _ _ (by decide), hport]
    have hvalid' : u.isSet TB_STAT_COUNT_VALID = true := by
      rw [hu, State.isSet_addLnk _ _ _ _ _ (by decide) (by decide), hvalid]
    have hlag : u.rodLag rodLo = s.rodLag rodLo := by rw [hu]; rfl
    have hsame : u.port p = s.port p := by rw [hu, State.port_addLnk]
    refine ⟨fun hnear => ?_, fun hfar hrun => ?_⟩
    · rw [State.peerTime_of_near hport' hvalid' htime (hlag.trans_le hnear)] at hexec
      refine ⟨_, hexec, ?_⟩
      rw [State.beatCounted, State.port_updPort, State.port_setPort, hsame]
      exact ⟨rfl, rfl, rfl, rfl⟩
    · rw [State.peerTime_of_third hport' hvalid' htime (hlag.symm ▸ hfar) (hsame ▸ hrun)] at hexec
      refine ⟨_, hexec, ?_⟩
      rw [State.beatCounted, State.port_updPort, State.port_reAdmit, State.port_put, State.port_setPort]
      refine ⟨rfl, rfl, ?_⟩
      refine (State.fld_reAdmit _ TB_FAULT_PEER_TIME (by decide)).trans ?_
      exact (State.fld_put_same _ TB_FAULT_PEER_TIME 1 (by decide)).trans (by decide)

/-- Settles O26: a frame's effect is read at the port, the frame sent and the bytes stored; a heartbeat's at its port. -/
theorem framesAndHeartbeats : Obligations.FramesAndHeartbeats := ⟨dataFramesCarryUnits, heartbeatsTellTheRod⟩

end Sys2Proof.Machine
end
